-- ==== Sys2Proof/Word.lean ====
section
/-! DEFINITION. Words, bytes and the sparse tables that hold the machine's state. -/

namespace Sys2Proof

/-- A general register, 64 bits (R78). -/
abbrev Word := BitVec 64
/-- One byte. -/
abbrev Byte := BitVec 8
/-- A vector register, 512 bits (R78). -/
abbrev VReg := BitVec 512
/-- A lane mask (R78). -/
abbrev LMask := BitVec 16
/-- A register number field (R13). -/
abbrev Reg := Fin 32
/-- A mask number field (R13). -/
abbrev MReg := Fin 8

/-- A sparse table: key and value pairs, keys strictly rising. -/
abbrev AMap (α : Type) := List (Nat × α)

/-- The value at a key, `d` where the key is not listed. -/
def AMap.get {α : Type} (d : α) : AMap α → Nat → α
  | [], _ => d
  | (k, v) :: r, i => if i = k then v else AMap.get d r i

/-- The value at a key, if it is listed. -/
def AMap.find {α : Type} : AMap α → Nat → Option α
  | [], _ => none
  | (k, v) :: r, i => if i = k then some v else AMap.find r i

/-- The table with one value written. -/
def AMap.set {α : Type} : AMap α → Nat → α → AMap α
  | [], i, x => [(i, x)]
  | (k, v) :: r, i, x =>
    if i = k then (k, x) :: r
    else if i < k then (i, x) :: (k, v) :: r
    else (k, v) :: AMap.set r i x

/-- The table without one key. -/
def AMap.erase {α : Type} : AMap α → Nat → AMap α
  | [], _ => []
  | (k, v) :: r, i => if i = k then AMap.erase r i else (k, v) :: AMap.erase r i

/-- The table with one value written, in its canonical form: a value equal to the default is not listed. -/
def AMap.put {α : Type} [DecidableEq α] (d : α) (m : AMap α) (i : Nat) (x : α) : AMap α :=
  if x = d then AMap.erase m i else AMap.set m i x

/-- Keys strictly rising. -/
def AMap.sorted {α : Type} : AMap α → Bool
  | [] => true
  | [_] => true
  | (k, _) :: (k', v') :: r => decide (k < k') && AMap.sorted ((k', v') :: r)

/-- A table of `n` default entries is the empty table; `AMap.ofList` lists values from a first key on. -/
def AMap.ofList {α : Type} : Nat → List α → AMap α
  | _, [] => []
  | i, x :: r => (i, x) :: AMap.ofList (i + 1) r

end Sys2Proof
end

