-- ==== Sys2Proof/Config.lean ====
section
/-! DEFINITION. What an implementation or a moment decides and the spec leaves open: uninterpreted values, and the
constants that the spec states for every machine of this kind. -/

namespace Sys2Proof.Config

/-- Which of the enabled engine events, or the next core cycle, comes next: the `n`th choice of a run (R3, R118). -/
opaque choice : Nat → Nat

/-- Which way of a full L1 set is replaced (R127: the replacement order is not architectural). -/
opaque l1Victim : Nat → Nat

/-- Which line of a full instruction cache is replaced (R130). -/
opaque icacheVictim : Nat → Nat

/-- `kid`[16:0] of a service context: R85 puts a TID of R80 there, which such a context does not have (R112). -/
opaque serviceKid : Nat → BitVec 17

/-- SHA-384 of a byte string (R34, R368): the spec names the function and does not define it. -/
opaque sha384 : List Byte → BitVec 384

/-- The ECDSA P-384 signature of a message under the module's key (R369), 96 bytes as one value. -/
opaque ecdsa : List Byte → BitVec 768

/-- SHA-384 of the image of a die: its number, its bytes that are not 0, and what its save areas hold (R293, R316). -/
opaque imageSha : Nat → List (Nat × Byte) → List Nat → BitVec 384

/-- Where the linker and the service put a section in its address space: a number drawn for it (R34, R37). -/
opaque sectionPlace : Nat → Nat

/-- Words of a copy that stops early and were already written: the `n`th choice (R284, R287). -/
opaque copiedPart : Nat → Nat

/-- Where the service places what it may place anywhere: the `n`th choice (R218, R250, R354). -/
opaque place : Nat → Nat

/-- Whether a fetch of a line at a tick misses its L2 slice and enters a filter of the memory-side cache (R272, R273). -/
opaque l2Miss : Nat → Nat → Bool

/-- The set of a line in its L2 slice, one of 512 (R272). -/
opaque l2Set : Nat → BitVec 9

/-- Bytes of the devices at a second-tier port (R314). -/
opaque cxlBytes : Nat → Nat

/-- What `grp.info` reads of a group whose home die is offline: the `n`th such read (R300, R305). -/
opaque lostInfo : Nat → Word

/-- What an engine reads of an uncorrectable scratchpad word: the `n`th such reading, by word (R281). -/
opaque lostBits : Nat → Nat → Word

end Sys2Proof.Config
end

