-- ==== Sys2Proof/Syntax.lean ====
section
/-! DEFINITION. The instruction set: one constructor per row of the opcode table, the instruction words first among
them, and the events of the machine's engines and of the world outside it. -/

namespace Sys2Proof

/-- Access sizes of plain memory (Table 1-4, codes 0 to 3). -/
inductive Size where
  | b | h | w | d
  deriving DecidableEq, Repr

/-- The size in bytes. -/
def Size.bytes : Size → Nat
  | .b => 1 | .h => 2 | .w => 4 | .d => 8

/-- Access sizes of the scratchpad (Table 1-4, codes 0 to 4). -/
inductive SSize where
  | b | h | w | d | q
  deriving DecidableEq, Repr

/-- The size in bytes. -/
def SSize.bytes : SSize → Nat
  | .b => 1 | .h => 2 | .w => 4 | .d => 8 | .q => 16

/-- Scopes (Table 1-7). -/
inductive Scope where
  | thread | core | cluster | die | package
  deriving DecidableEq, Repr

/-- Width and place of an `amo` (R278). -/
inductive AmoPlace where
  | w | d | bw | bd
  deriving DecidableEq, Repr

/-- The width in bytes. -/
def AmoPlace.bytes : AmoPlace → Nat
  | .w => 4 | .d => 8 | .bw => 4 | .bd => 8

/-- Keyed value types (Table 8-2). -/
inductive VType where
  | i32 | i64 | f32 | f16 | b64 | fx128
  deriving DecidableEq, Repr

/-- Keyed operators (Table 8-2). -/
inductive KOp where
  | add | adds | max | min | or | and | xor | repl | fxadd
  deriving DecidableEq, Repr

/-- Block widths (R57). -/
inductive BlkW where
  | blk4 | blk8
  deriving DecidableEq, Repr

/-- Payload bytes of a block (R57). -/
def BlkW.bytes : BlkW → Nat
  | .blk4 => 8 | .blk8 => 16

/-- Modes of `til.acq` (R257). -/
inductive AcqMode where
  | rd | wr | rdr | wrr
  deriving DecidableEq, Repr

/-- Floating lane types (R139). -/
inductive FTy where
  | f32 | f16 | bf16
  deriving DecidableEq, Repr

/-- Integer lane types (R139). -/
inductive ITy where
  | w | h
  deriving DecidableEq, Repr

/-- Rounding field of `vcvt` (R139). -/
inductive CRnd where
  | krm | rne | rtz | rdn
  deriving DecidableEq, Repr

/-- Group sizes of `vbmm` and `vmsk.glen` (R139). -/
inductive GSize where
  | gr4 | gr8 | gr16 | gr2
  deriving DecidableEq, Repr

/-- The number of lanes of a group (R154). -/
def GSize.lanes : GSize → Nat
  | .gr4 => 4 | .gr8 => 8 | .gr16 => 16 | .gr2 => 2

/-- Element types of `sprs` (R235). -/
inductive ElemTy where
  | w | h
  deriving DecidableEq, Repr

/-- Decode tables (R131). -/
inductive DTable where
  | tabA | tabB | n8
  deriving DecidableEq, Repr

/-- The k-registers (Table 4-1). -/
inductive KReg where
  | kstat | kcause | kinfo | kepc | ktvec | kqmask | kid | karg | kcycle | ktick | kbconf | kswait
  | kgrp (i : Fin 4)
  | kfbuf (i : Fin 16)
  | kfcnt | kfidx | kfstg
  | kbbuf | kbbufh | kbfill | kbsrc | kbend
  deriving DecidableEq, Repr

/-- The state a target form names by its `k` field (R96). -/
inductive TState where
  | k (r : KReg)
  | g (r : Reg)
  | m (r : MReg)
  | pc
  | v (r : Reg)
  deriving DecidableEq, Repr

/-- Heading of a host request: the host's source endpoint and its sequence number (R357, R364). -/
structure HostHdr where
  ep : Nat
  seq : Nat
  deriving DecidableEq, Repr

/-- The remote operations (Table 19-1, codes 0x10 to 0x14). -/
inductive RemoteKind where
  | rread | rwrite | ramo | rkey | rmsg
  deriving DecidableEq, Repr

/-- A remote operation as it travels between packages (R361, R362): its source endpoint and sequence number, the
window it names and the block fields of Table 19-3 that its kind uses. -/
structure RemoteOp where
  ep : Nat
  seq : Nat
  kind : RemoteKind
  win : Nat
  aop : BitVec 8
  len : Nat
  off : Word
  val : Word
  cmp : Word
  data : List Byte
  deriving DecidableEq, Repr

/-- The reply to a remote operation (R361): the endpoint and number it answers, the status code, the old value of a
`ramo` and the data of an `rread`. -/
structure RemoteReply where
  ep : Nat
  seq : Nat
  status : Nat
  old : Word
  data : List Byte
  deriving DecidableEq, Repr

/-- What the hardware finds at start-up (R367): the stages' outcomes and the signed configuration. -/
structure StartReport where
  /-- Service cores that pass self-test, by die. -/
  svcOk : List Nat
  /-- Digests of the images that verify (stages 1 and 2), in the order of R368: boot firmware, service-core firmware,
  controller firmware, configuration, service image; none for one that fails. -/
  images : List (Option (BitVec 384))
  pkg : BitVec 16
  /-- Rate reached by each stack that trains: (die x 2 + stack, rate code 0 for 8.0, 1 for 9.6, 2 for 11.4). -/
  hbm : List (Nat × Nat)
  links : List Nat
  cxl : List Nat
  ports : List Nat
  deriving DecidableEq, Repr

/-- One step of the machine: an instruction word, or an event. -/
inductive Instr where
  /-- OPI_ADD (R30). -/
  | opiAdd (d : Reg) (a : Reg) (b : Reg)
  /-- OPI_SUB (R30). -/
  | opiSub (d : Reg) (a : Reg) (b : Reg)
  /-- OPI_AND (R30). -/
  | opiAnd (d : Reg) (a : Reg) (b : Reg)
  /-- OPI_OR (R30). -/
  | opiOr (d : Reg) (a : Reg) (b : Reg)
  /-- OPI_XOR (R30). -/
  | opiXor (d : Reg) (a : Reg) (b : Reg)
  /-- OPI_ANDN (R30). -/
  | opiAndn (d : Reg) (a : Reg) (b : Reg)
  /-- OPI_ORN (R30). -/
  | opiOrn (d : Reg) (a : Reg) (b : Reg)
  /-- OPI_SLL (R30). -/
  | opiSll (d : Reg) (a : Reg) (b : Reg)
  /-- OPI_SRL (R30). -/
  | opiSrl (d : Reg) (a : Reg) (b : Reg)
  /-- OPI_SRA (R30). -/
  | opiSra (d : Reg) (a : Reg) (b : Reg)
  /-- OPI_SLT (R30). -/
  | opiSlt (d : Reg) (a : Reg) (b : Reg)
  /-- OPI_SLTU (R30). -/
  | opiSltu (d : Reg) (a : Reg) (b : Reg)
  /-- OPI_MIN (R30). -/
  | opiMin (d : Reg) (a : Reg) (b : Reg)
  /-- OPI_MAX (R30). -/
  | opiMax (d : Reg) (a : Reg) (b : Reg)
  /-- OPI_MINU (R30). -/
  | opiMinu (d : Reg) (a : Reg) (b : Reg)
  /-- OPI_MAXU (R30). -/
  | opiMaxu (d : Reg) (a : Reg) (b : Reg)
  /-- OPI_SXB (R30). -/
  | opiSxb (d : Reg) (a : Reg)
  /-- OPI_SXH (R30). -/
  | opiSxh (d : Reg) (a : Reg)
  /-- OPI_SXW (R30). -/
  | opiSxw (d : Reg) (a : Reg)
  /-- OPI_ZXB (R30). -/
  | opiZxb (d : Reg) (a : Reg)
  /-- OPI_ZXH (R30). -/
  | opiZxh (d : Reg) (a : Reg)
  /-- OPI_ZXW (R30). -/
  | opiZxw (d : Reg) (a : Reg)
  /-- ADDI (R98). -/
  | addi (d : Reg) (a : Reg) (imm : BitVec 16)
  /-- ANDI (R98). -/
  | andi (d : Reg) (a : Reg) (imm : BitVec 16)
  /-- ORI (R98). -/
  | ori (d : Reg) (a : Reg) (imm : BitVec 16)
  /-- XORI (R98). -/
  | xori (d : Reg) (a : Reg) (imm : BitVec 16)
  /-- SLTI (R98). -/
  | slti (d : Reg) (a : Reg) (imm : BitVec 16)
  /-- SLTIU (R98). -/
  | sltiu (d : Reg) (a : Reg) (imm : BitVec 16)
  /-- LUI (R100). -/
  | lui (d : Reg) (imm : BitVec 21)
  /-- ADDPC (R100). -/
  | addpc (d : Reg) (imm : BitVec 21)
  /-- SHI_SLLI (R101). -/
  | shiSlli (d : Reg) (a : Reg) (sh : BitVec 6)
  /-- SHI_SRLI (R101). -/
  | shiSrli (d : Reg) (a : Reg) (sh : BitVec 6)
  /-- SHI_SRAI (R101). -/
  | shiSrai (d : Reg) (a : Reg) (sh : BitVec 6)
  /-- SHI_RORI (R101). -/
  | shiRori (d : Reg) (a : Reg) (sh : BitVec 6)
  /-- SHI_CLZ (R101). -/
  | shiClz (d : Reg) (a : Reg)
  /-- SHI_CTZ (R101). -/
  | shiCtz (d : Reg) (a : Reg)
  /-- SHI_POPC (R101). -/
  | shiPopc (d : Reg) (a : Reg)
  /-- SHI_BREV (R101). -/
  | shiBrev (d : Reg) (a : Reg)
  /-- SHI_BSWAP (R101). -/
  | shiBswap (d : Reg) (a : Reg)
  /-- MULDIV_MUL (R102). -/
  | muldivMul (d : Reg) (a : Reg) (b : Reg)
  /-- MULDIV_MULH (R102). -/
  | muldivMulh (d : Reg) (a : Reg) (b : Reg)
  /-- MULDIV_MULHU (R102). -/
  | muldivMulhu (d : Reg) (a : Reg) (b : Reg)
  /-- MULDIV_MULHSU (R102). -/
  | muldivMulhsu (d : Reg) (a : Reg) (b : Reg)
  /-- MULDIV_DIV (R102). -/
  | muldivDiv (d : Reg) (a : Reg) (b : Reg)
  /-- MULDIV_DIVU (R102). -/
  | muldivDivu (d : Reg) (a : Reg) (b : Reg)
  /-- MULDIV_REM (R102). -/
  | muldivRem (d : Reg) (a : Reg) (b : Reg)
  /-- MULDIV_REMU (R102). -/
  | muldivRemu (d : Reg) (a : Reg) (b : Reg)
  /-- BR_EQ (R105). -/
  | brEq (a : Reg) (b : Reg) (off : BitVec 13)
  /-- BR_NE (R105). -/
  | brNe (a : Reg) (b : Reg) (off : BitVec 13)
  /-- BR_LT (R105). -/
  | brLt (a : Reg) (b : Reg) (off : BitVec 13)
  /-- BR_GE (R105). -/
  | brGe (a : Reg) (b : Reg) (off : BitVec 13)
  /-- BR_LTU (R105). -/
  | brLtu (a : Reg) (b : Reg) (off : BitVec 13)
  /-- BR_GEU (R105). -/
  | brGeu (a : Reg) (b : Reg) (off : BitVec 13)
  /-- BR_ANY (R105). -/
  | brAny (a : Reg) (b : Reg) (off : BitVec 13)
  /-- BR_NONE (R105). -/
  | brNone (a : Reg) (b : Reg) (off : BitVec 13)
  /-- JAL (R106). -/
  | jal (d : Reg) (off : BitVec 21)
  /-- JALR (R106). -/
  | jalr (d : Reg) (a : Reg) (imm : BitVec 16)
  /-- REP (R158). -/
  | rep (n : BitVec 8) (len : BitVec 4) (sd : BitVec 4) (sa : BitVec 4) (sb : BitVec 4)
  /-- REPEAT_FRAME_ISSUE (R159). -/
  | repeatFrameIssue
  /-- LD_PLAIN (R167). -/
  | ldPlain (sz : Size) (d : Reg) (a : Reg) (off : BitVec 11)
  /-- LD_TILED (R169). -/
  | ldTiled (sz : Size) (d : Reg) (a : Reg) (off : BitVec 11)
  /-- LD_DEVICE (R169). -/
  | ldDevice (sz : Size) (d : Reg) (a : Reg) (off : BitVec 11)
  /-- ST_PLAIN (R167). -/
  | stPlain (sz : Size) (d : Reg) (a : Reg) (off : BitVec 11)
  /-- ST_TILED (R169). -/
  | stTiled (sz : Size) (d : Reg) (a : Reg) (off : BitVec 11)
  /-- ST_DEVICE (R169). -/
  | stDevice (sz : Size) (d : Reg) (a : Reg) (off : BitVec 11)
  /-- LDS (R172). -/
  | lds (sz : SSize) (d : Reg) (a : Reg) (off : BitVec 11)
  /-- STS (R172). -/
  | sts (sz : SSize) (d : Reg) (a : Reg) (off : BitVec 11)
  /-- VLDS (R173). -/
  | vlds (d : Reg) (a : Reg) (off : BitVec 11)
  /-- VSTS (R173). -/
  | vsts (d : Reg) (a : Reg) (off : BitVec 11)
  /-- FE_TAKE (R174). -/
  | feTake (d : Reg) (a : Reg) (off : BitVec 11)
  /-- FE_PUT (R174). -/
  | fePut (d : Reg) (a : Reg) (off : BitVec 11)
  /-- FE_SLOAD (R174). -/
  | feSload (d : Reg) (a : Reg) (off : BitVec 11)
  /-- FE_FILL (R174). -/
  | feFill (d : Reg) (a : Reg) (off : BitVec 11)
  /-- AMO_SWAP (R278). -/
  | amoSwap (x : AmoPlace) (d : Reg) (a : Reg) (b : Reg)
  /-- AMO_ADD (R278). -/
  | amoAdd (x : AmoPlace) (d : Reg) (a : Reg) (b : Reg)
  /-- AMO_AND (R278). -/
  | amoAnd (x : AmoPlace) (d : Reg) (a : Reg) (b : Reg)
  /-- AMO_OR (R278). -/
  | amoOr (x : AmoPlace) (d : Reg) (a : Reg) (b : Reg)
  /-- AMO_XOR (R278). -/
  | amoXor (x : AmoPlace) (d : Reg) (a : Reg) (b : Reg)
  /-- AMO_MIN (R278). -/
  | amoMin (x : AmoPlace) (d : Reg) (a : Reg) (b : Reg)
  /-- AMO_MAX (R278). -/
  | amoMax (x : AmoPlace) (d : Reg) (a : Reg) (b : Reg)
  /-- AMO_MINU (R278). -/
  | amoMinu (x : AmoPlace) (d : Reg) (a : Reg) (b : Reg)
  /-- AMO_MAXU (R278). -/
  | amoMaxu (x : AmoPlace) (d : Reg) (a : Reg) (b : Reg)
  /-- AMO_CAS (R278). -/
  | amoCas (x : AmoPlace) (d : Reg) (a : Reg) (b : Reg)
  /-- ORD_ACQ (R177). -/
  | ordAcq (x : Scope)
  /-- ORD_REL (R177). -/
  | ordRel (x : Scope)
  /-- ORD_FENCE (R177). -/
  | ordFence (x : Scope)
  /-- ORD_LDA (R177). -/
  | ordLda (x : Scope) (sz : Size) (d : Reg) (a : Reg)
  /-- ORD_STL (R177). -/
  | ordStl (x : Scope) (sz : Size) (a : Reg) (b : Reg)
  /-- KEY_UPD (R212). -/
  | keyUpd (x : VType) (e : BitVec 4) (d : Reg) (a : Reg) (b : Reg)
  /-- KEY_LD (R213). -/
  | keyLd (x : VType) (d : Reg) (a : Reg)
  /-- KEY_LDX (R213). -/
  | keyLdx (d : Reg) (a : Reg)
  /-- KEY_PUB (R214). -/
  | keyPub (x : Scope) (e : BitVec 4) (d : Reg)
  /-- KEY_FIX_DROP (R215). -/
  | keyFixDrop (d : Reg) (a : Reg) (b : Reg)
  /-- KEY_FIX_SET (R215). -/
  | keyFixSet (d : Reg) (a : Reg) (b : Reg)
  /-- KEY_RESUME (R215). -/
  | keyResume (d : Reg) (a : Reg)
  /-- KEY_INFO (R216). -/
  | keyInfo (d : Reg) (a : Reg)
  /-- QST_Q (R180). -/
  | qstQ (w : BlkW) (imm : Bool) (sp : Bool) (d : Reg) (a : Reg) (off : BitVec 11)
  /-- QST_BL (R181). -/
  | qstBl (w : BlkW) (sp : Bool) (d : Reg) (a : Reg) (off : BitVec 11)
  /-- BIT_INIT (R185). -/
  | bitInit (d : Reg) (a : Reg) (k : BitVec 8)
  /-- BIT_PEEK (R185). -/
  | bitPeek (d : Reg) (k : BitVec 8)
  /-- BIT_GET (R185). -/
  | bitGet (d : Reg) (k : BitVec 8)
  /-- BIT_SKIP (R185). -/
  | bitSkip (k : BitVec 8)
  /-- BIT_GETV (R185). -/
  | bitGetv (d : Reg) (a : Reg)
  /-- BIT_UNAR (R185). -/
  | bitUnar (d : Reg)
  /-- BIT_TELL (R185). -/
  | bitTell (d : Reg)
  /-- BIT_AVAIL (R185). -/
  | bitAvail (d : Reg)
  /-- MSG_PUT (R188). -/
  | msgPut (a : Reg)
  /-- MSG_SEND (R188). -/
  | msgSend (e : BitVec 4) (d : Reg) (a : Reg) (b : Reg)
  /-- MSG_RECV (R190). -/
  | msgRecv (e : BitVec 4) (d : Reg) (a : Reg) (b : Reg)
  /-- MSG_WAIT (R190). -/
  | msgWait (e : BitVec 4) (d : Reg) (a : Reg)
  /-- MSG_ALT (R190). -/
  | msgAlt (e : BitVec 4) (d : Reg) (a : Reg)
  /-- MSG_GRANT (R189). -/
  | msgGrant (d : Reg) (a : Reg) (b : Reg)
  /-- MSG_DROP (R188). -/
  | msgDrop
  /-- CPY_SLOT (R283). -/
  | cpySlot (d : Reg) (a : Reg) (b : Reg)
  /-- CPY_IN (R284). -/
  | cpyIn (e : BitVec 4) (d : Reg) (a : Reg) (b : Reg)
  /-- CPY_OUT (R284). -/
  | cpyOut (e : BitVec 4) (d : Reg) (a : Reg) (b : Reg)
  /-- CPY_FREE (R283). -/
  | cpyFree (d : Reg) (a : Reg)
  /-- CPY_PIN (R285). -/
  | cpyPin (d : Reg) (a : Reg) (b : Reg)
  /-- CPY_UNPIN (R285). -/
  | cpyUnpin (d : Reg) (a : Reg)
  /-- TIL_OPEN (R262). -/
  | tilOpen (e : BitVec 4) (d : Reg) (a : Reg)
  /-- TIL_CLOSE (R263). -/
  | tilClose (d : Reg) (a : Reg)
  /-- TIL_ACQ (R257). -/
  | tilAcq (x : AcqMode) (e : BitVec 4) (d : Reg) (a : Reg) (b : Reg)
  /-- TIL_REL (R261). -/
  | tilRel (d : Reg) (a : Reg) (b : Reg)
  /-- TIL_GET (R265). -/
  | tilGet (d : Reg) (a : Reg) (b : Reg)
  /-- TIL_PUT (R265). -/
  | tilPut (d : Reg) (a : Reg) (b : Reg)
  /-- XPF_SNAP (R304). -/
  | xpfSnap (d : Reg) (a : Reg)
  /-- XPF_REQ (R304). -/
  | xpfReq (d : Reg) (a : Reg) (b : Reg)
  /-- XPF_CANCEL (R304). -/
  | xpfCancel (d : Reg) (a : Reg)
  /-- VFP_ADD (R144). -/
  | vfpAdd (ty : FTy) (m : MReg) (d : Reg) (a : Reg) (b : Reg)
  /-- VFP_SUB (R144). -/
  | vfpSub (ty : FTy) (m : MReg) (d : Reg) (a : Reg) (b : Reg)
  /-- VFP_MUL (R144). -/
  | vfpMul (ty : FTy) (m : MReg) (d : Reg) (a : Reg) (b : Reg)
  /-- VFP_DIV (R144). -/
  | vfpDiv (ty : FTy) (m : MReg) (d : Reg) (a : Reg) (b : Reg)
  /-- VFP_SQRT (R144). -/
  | vfpSqrt (ty : FTy) (m : MReg) (d : Reg) (a : Reg)
  /-- VFP_FMA (R144). -/
  | vfpFma (ty : FTy) (m : MReg) (d : Reg) (a : Reg) (b : Reg)
  /-- VFP_FMS (R144). -/
  | vfpFms (ty : FTy) (m : MReg) (d : Reg) (a : Reg) (b : Reg)
  /-- VFP_FNMA (R144). -/
  | vfpFnma (ty : FTy) (m : MReg) (d : Reg) (a : Reg) (b : Reg)
  /-- VFP_MIN (R145). -/
  | vfpMin (ty : FTy) (m : MReg) (d : Reg) (a : Reg) (b : Reg)
  /-- VFP_MAX (R145). -/
  | vfpMax (ty : FTy) (m : MReg) (d : Reg) (a : Reg) (b : Reg)
  /-- VFP_ABS (R147). -/
  | vfpAbs (ty : FTy) (m : MReg) (d : Reg) (a : Reg)
  /-- VFP_NEG (R147). -/
  | vfpNeg (ty : FTy) (m : MReg) (d : Reg) (a : Reg)
  /-- VFP_SGNJ (R147). -/
  | vfpSgnj (ty : FTy) (m : MReg) (d : Reg) (a : Reg) (b : Reg)
  /-- VFP_CEQ (R146). -/
  | vfpCeq (m : MReg) (d : MReg) (a : Reg) (b : Reg)
  /-- VFP_CLT (R146). -/
  | vfpClt (m : MReg) (d : MReg) (a : Reg) (b : Reg)
  /-- VFP_CLE (R146). -/
  | vfpCle (m : MReg) (d : MReg) (a : Reg) (b : Reg)
  /-- VFP_CUN (R146). -/
  | vfpCun (m : MReg) (d : MReg) (a : Reg) (b : Reg)
  /-- VINT_ADD (R148). -/
  | vintAdd (ty : ITy) (m : MReg) (d : Reg) (a : Reg) (b : Reg)
  /-- VINT_SUB (R148). -/
  | vintSub (ty : ITy) (m : MReg) (d : Reg) (a : Reg) (b : Reg)
  /-- VINT_ADDS (R148). -/
  | vintAdds (ty : ITy) (m : MReg) (d : Reg) (a : Reg) (b : Reg)
  /-- VINT_ADDUS (R148). -/
  | vintAddus (ty : ITy) (m : MReg) (d : Reg) (a : Reg) (b : Reg)
  /-- VINT_SUBS (R148). -/
  | vintSubs (ty : ITy) (m : MReg) (d : Reg) (a : Reg) (b : Reg)
  /-- VINT_SUBUS (R148). -/
  | vintSubus (ty : ITy) (m : MReg) (d : Reg) (a : Reg) (b : Reg)
  /-- VINT_MUL (R148). -/
  | vintMul (ty : ITy) (m : MReg) (d : Reg) (a : Reg) (b : Reg)
  /-- VINT_MULH (R148). -/
  | vintMulh (ty : ITy) (m : MReg) (d : Reg) (a : Reg) (b : Reg)
  /-- VINT_AND (R148). -/
  | vintAnd (ty : ITy) (m : MReg) (d : Reg) (a : Reg) (b : Reg)
  /-- VINT_OR (R148). -/
  | vintOr (ty : ITy) (m : MReg) (d : Reg) (a : Reg) (b : Reg)
  /-- VINT_XOR (R148). -/
  | vintXor (ty : ITy) (m : MReg) (d : Reg) (a : Reg) (b : Reg)
  /-- VINT_ANDN (R148). -/
  | vintAndn (ty : ITy) (m : MReg) (d : Reg) (a : Reg) (b : Reg)
  /-- VINT_SLL (R148). -/
  | vintSll (ty : ITy) (m : MReg) (d : Reg) (a : Reg) (b : Reg)
  /-- VINT_SRL (R148). -/
  | vintSrl (ty : ITy) (m : MReg) (d : Reg) (a : Reg) (b : Reg)
  /-- VINT_SRA (R148). -/
  | vintSra (ty : ITy) (m : MReg) (d : Reg) (a : Reg) (b : Reg)
  /-- VINT_MIN (R148). -/
  | vintMin (ty : ITy) (m : MReg) (d : Reg) (a : Reg) (b : Reg)
  /-- VINT_MAX (R148). -/
  | vintMax (ty : ITy) (m : MReg) (d : Reg) (a : Reg) (b : Reg)
  /-- VINT_MINU (R148). -/
  | vintMinu (ty : ITy) (m : MReg) (d : Reg) (a : Reg) (b : Reg)
  /-- VINT_MAXU (R148). -/
  | vintMaxu (ty : ITy) (m : MReg) (d : Reg) (a : Reg) (b : Reg)
  /-- VINT_CEQ (R148). -/
  | vintCeq (m : MReg) (d : MReg) (a : Reg) (b : Reg)
  /-- VINT_CLT (R148). -/
  | vintClt (m : MReg) (d : MReg) (a : Reg) (b : Reg)
  /-- VINT_CLTU (R148). -/
  | vintCltu (m : MReg) (d : MReg) (a : Reg) (b : Reg)
  /-- VCVT_NF16L (R149). -/
  | vcvtNf16l (ty : CRnd) (m : MReg) (d : Reg) (a : Reg)
  /-- VCVT_NF16H (R149). -/
  | vcvtNf16h (ty : CRnd) (m : MReg) (d : Reg) (a : Reg)
  /-- VCVT_NBF16L (R149). -/
  | vcvtNbf16l (ty : CRnd) (m : MReg) (d : Reg) (a : Reg)
  /-- VCVT_NBF16H (R149). -/
  | vcvtNbf16h (ty : CRnd) (m : MReg) (d : Reg) (a : Reg)
  /-- VCVT_WF16L (R149). -/
  | vcvtWf16l (m : MReg) (d : Reg) (a : Reg)
  /-- VCVT_WF16H (R149). -/
  | vcvtWf16h (m : MReg) (d : Reg) (a : Reg)
  /-- VCVT_WBF16L (R149). -/
  | vcvtWbf16l (m : MReg) (d : Reg) (a : Reg)
  /-- VCVT_WBF16H (R149). -/
  | vcvtWbf16h (m : MReg) (d : Reg) (a : Reg)
  /-- VCVT_FTOI (R150). -/
  | vcvtFtoi (ty : CRnd) (m : MReg) (d : Reg) (a : Reg)
  /-- VCVT_FTOU (R150). -/
  | vcvtFtou (ty : CRnd) (m : MReg) (d : Reg) (a : Reg)
  /-- VCVT_ITOF (R150). -/
  | vcvtItof (ty : CRnd) (m : MReg) (d : Reg) (a : Reg)
  /-- VCVT_UTOF (R150). -/
  | vcvtUtof (ty : CRnd) (m : MReg) (d : Reg) (a : Reg)
  /-- VCVT_RINT (R150). -/
  | vcvtRint (ty : CRnd) (m : MReg) (d : Reg) (a : Reg)
  /-- VPERM_FSUM (R152). -/
  | vpermFsum (ty : FTy) (m : MReg) (d : Reg) (a : Reg)
  /-- VPERM_FMAX (R152). -/
  | vpermFmax (ty : FTy) (m : MReg) (d : Reg) (a : Reg)
  /-- VPERM_FMIN (R152). -/
  | vpermFmin (ty : FTy) (m : MReg) (d : Reg) (a : Reg)
  /-- VPERM_ISUM (R152). -/
  | vpermIsum (ty : ITy) (m : MReg) (d : Reg) (a : Reg)
  /-- VPERM_IMAX (R152). -/
  | vpermImax (ty : ITy) (m : MReg) (d : Reg) (a : Reg)
  /-- VPERM_IMIN (R152). -/
  | vpermImin (ty : ITy) (m : MReg) (d : Reg) (a : Reg)
  /-- VPERM_IMAXU (R152). -/
  | vpermImaxu (ty : ITy) (m : MReg) (d : Reg) (a : Reg)
  /-- VPERM_IMINU (R152). -/
  | vpermIminu (ty : ITy) (m : MReg) (d : Reg) (a : Reg)
  /-- VPERM_PERM (R151). -/
  | vpermPerm (ty : ITy) (m : MReg) (d : Reg) (a : Reg) (b : Reg)
  /-- VPERM_BCL (R151). -/
  | vpermBcl (ty : ITy) (m : MReg) (d : Reg) (a : Reg) (n : BitVec 5)
  /-- VPERM_ROT (R151). -/
  | vpermRot (ty : ITy) (m : MReg) (d : Reg) (a : Reg) (n : BitVec 5)
  /-- VPERM_CMPR (R153). -/
  | vpermCmpr (m : MReg) (d : Reg) (a : Reg) (b : Reg)
  /-- VPERM_EXPD (R153). -/
  | vpermExpd (m : MReg) (d : Reg) (a : Reg) (b : Reg)
  /-- VBMM_MMA (R155). -/
  | vbmmMma (ty : GSize) (m : MReg) (d : Reg) (a : Reg) (b : Reg)
  /-- VBMM_MM (R155). -/
  | vbmmMm (ty : GSize) (m : MReg) (d : Reg) (a : Reg) (b : Reg)
  /-- VMSK_AND (R154). -/
  | vmskAnd (d : MReg) (a : MReg) (b : MReg)
  /-- VMSK_OR (R154). -/
  | vmskOr (d : MReg) (a : MReg) (b : MReg)
  /-- VMSK_XOR (R154). -/
  | vmskXor (d : MReg) (a : MReg) (b : MReg)
  /-- VMSK_ANDN (R154). -/
  | vmskAndn (d : MReg) (a : MReg) (b : MReg)
  /-- VMSK_NOT (R154). -/
  | vmskNot (d : MReg) (a : MReg)
  /-- VMSK_FROMG (R154). -/
  | vmskFromg (d : MReg) (a : Reg)
  /-- VMSK_TOG (R154). -/
  | vmskTog (d : Reg) (a : MReg)
  /-- VMSK_POPC (R154). -/
  | vmskPopc (d : Reg) (a : MReg)
  /-- VMSK_FIRST (R154). -/
  | vmskFirst (d : Reg) (a : MReg)
  /-- VMSK_PRE (R154). -/
  | vmskPre (d : MReg) (a : Reg)
  /-- VMSK_GLEN (R154). -/
  | vmskGlen (ty : GSize) (d : MReg) (a : Reg)
  /-- VMOV_MOV (R157). -/
  | vmovMov (ty : ITy) (m : MReg) (d : Reg) (a : Reg)
  /-- VMOV_SEL (R157). -/
  | vmovSel (ty : ITy) (m : MReg) (d : Reg) (a : Reg) (b : Reg)
  /-- VMOV_BCG (R157). -/
  | vmovBcg (ty : ITy) (m : MReg) (d : Reg) (a : Reg)
  /-- VMOV_INS (R157). -/
  | vmovIns (ty : ITy) (d : Reg) (a : Reg) (b : Reg)
  /-- VMOV_EXT (R157). -/
  | vmovExt (ty : ITy) (d : Reg) (a : Reg) (b : Reg)
  /-- VMOV_IOTA (R157). -/
  | vmovIota (ty : ITy) (m : MReg) (d : Reg)
  /-- GANG_MM (R231). -/
  | gangMm (e : BitVec 4) (d : Reg) (a : Reg)
  /-- GANG_PEG (R226). -/
  | gangPeg (e : BitVec 4) (d : Reg)
  /-- GANG_RDACC (R233). -/
  | gangRdacc (d : Reg) (a : Reg)
  /-- GANG_WRACC (R233). -/
  | gangWracc (d : Reg) (a : Reg)
  /-- GANG_ZACC (R233). -/
  | gangZacc (a : Reg)
  /-- GANG_PART_COMPLETE (R231). -/
  | gangPartComplete (cl : Nat) (p : Nat)
  /-- SPRS_SCAN (R236). -/
  | sprsScan (x : ElemTy) (d : Reg) (a : Reg) (b : Reg)
  /-- SPRS_S24 (R237). -/
  | sprsS24 (x : ElemTy) (d : Reg) (a : Reg)
  /-- LATHE_REQ (R241). -/
  | latheReq (e : BitVec 4) (d : Reg) (a : Reg) (b : Reg)
  /-- LATHE_REQUEST_START (R242). -/
  | latheRequestStart (cl : Nat)
  /-- LATHE_REPLY (R246). -/
  | latheReply (cl : Nat)
  /-- GRP_ARRIVE (R300). -/
  | grpArrive (x : Scope) (d : Reg) (a : Reg)
  /-- GRP_WAIT (R300). -/
  | grpWait (x : Scope) (e : BitVec 4) (d : Reg) (a : Reg) (b : Reg)
  /-- GRP_DROP (R300). -/
  | grpDrop (x : Scope) (d : Reg) (a : Reg)
  /-- GRP_INFO (R300). -/
  | grpInfo (d : Reg) (a : Reg)
  /-- GRP_QUIET (R301). -/
  | grpQuiet (e : BitVec 4) (d : Reg)
  /-- SYS_RDK (R109). -/
  | sysRdk (d : Reg) (k : KReg)
  /-- SYS_WRK (R89). -/
  | sysWrk (a : Reg) (k : KReg)
  /-- SYS_SETK (R89). -/
  | sysSetk (a : Reg) (k : KReg)
  /-- SYS_CLRK (R89). -/
  | sysClrk (a : Reg) (k : KReg)
  /-- SYS_TREAD (R96). -/
  | sysTread (d : Reg) (a : Reg) (k : TState)
  /-- SYS_TWRITE (R96). -/
  | sysTwrite (d : Reg) (a : Reg) (k : TState)
  /-- SYS_TRESUME (R97). -/
  | sysTresume (a : Reg)
  /-- SYS_TKILL (R97). -/
  | sysTkill (a : Reg)
  /-- SYS_CALL (R110). -/
  | sysCall (a : Reg) (k : BitVec 8)
  /-- SYS_BRK (R109). -/
  | sysBrk (k : BitVec 8)
  /-- SYS_EXIT (R109). -/
  | sysExit
  /-- SYS_NULD (R132). -/
  | sysNuld (a : Reg) (k : DTable)
  /-- SYS_NUST (R132). -/
  | sysNust (a : Reg) (k : DTable)
  /-- SYS_TSAVE (R137). -/
  | sysTsave (d : Reg) (a : Reg)
  /-- SYS_TLOAD (R137). -/
  | sysTload (d : Reg) (a : Reg)
  /-- WAIT_EXPIRY (R20). -/
  | waitExpiry (t : Nat)
  /-- REPLY_ARRIVAL (R115). -/
  | replyArrival (t : Nat)
  /-- MESSAGE_ARRIVAL (R119). -/
  | messageArrival
  /-- TRAP_QUEUE_DELIVERY (R94). -/
  | trapQueueDelivery (die : Nat)
  /-- CONTEXT_SAVE_COMPLETE (R133). -/
  | contextSaveComplete (t : Nat)
  /-- SAVE_DEFERRAL_REPORT (R134). -/
  | saveDeferralReport (t : Nat)
  /-- ICACHE_MISS_FILL (R130). -/
  | icacheMissFill (t : Nat)
  /-- PAGE_WALK_COMPLETE (R277). -/
  | pageWalkComplete (t : Nat)
  /-- HOME_REQUEST_ARRIVAL (R280). -/
  | homeRequestArrival (core : Nat)
  /-- FLIT_CHECK_FAILURE (R307). -/
  | flitCheckFailure (core : Nat) (die : Nat)
  /-- LINK_RETRAIN_FAILURE (R307). -/
  | linkRetrainFailure (link : Nat)
  /-- TENURE_GRANT (R257). -/
  | tenureGrant (sl : Nat)
  /-- RECALL_DEADLINE_EXPIRY (R259). -/
  | recallDeadlineExpiry (sl : Nat)
  /-- BATTEN_MERGE_STEP (R238). -/
  | battenMergeStep (core : Nat)
  /-- PURLIN_DRAIN_STEP (R239). -/
  | purlinDrainStep (cl : Nat)
  /-- BEAM_SETTLE_STEP (R309). -/
  | beamSettleStep (die : Nat) (q : Nat)
  /-- BEAM_IDLE_SETTLE (R309). -/
  | beamIdleSettle (die : Nat) (q : Nat)
  /-- MSC_FILTER_CLEAR (R273). -/
  | mscFilterClear (die : Nat)
  /-- COPY_COMPLETION (R284). -/
  | copyCompletion (die : Nat) (unit : Nat)
  /-- PREFETCH_SERVE (R302). -/
  | prefetchServe (die : Nat)
  /-- PREFETCH_DEADLINE (R302). -/
  | prefetchDeadline (die : Nat)
  /-- QUIESCENCE_WAVE (R301). -/
  | quiescenceWave (lid : Nat)
  /-- LAUNCH_START (R291). -/
  | launchStart (die : Nat)
  /-- MULTI_DIE_LAUNCH_START (R318). -/
  | multiDieLaunchStart
  /-- LAUNCH_PRIORITY_PROMOTION (R292). -/
  | launchPriorityPromotion (die : Nat)
  /-- LAUNCH_END (R290). -/
  | launchEnd (lid : Nat)
  /-- LAUNCH_SAVE_COMPLETE (R293). -/
  | launchSaveComplete (lid : Nat)
  /-- LAUNCH_RESUME_START (R294). -/
  | launchResumeStart (lid : Nat)
  /-- LQ_SUBMIT (R296). -/
  | lqSubmit (die : Nat) (slot : Nat)
  /-- LQ_PREEMPT (R293). -/
  | lqPreempt (die : Nat) (lid : Nat)
  /-- LQ_RESUME (R294). -/
  | lqResume (die : Nat) (lid : Nat)
  /-- LQ_STOP (R295). -/
  | lqStop (die : Nat) (lid : Nat)
  /-- LQ_FREE (R290). -/
  | lqFree (die : Nat) (slot : Nat)
  /-- DEVICE_REGISTER_WRITE (R296). -/
  | deviceRegisterWrite (pa : Nat) (n : Nat) (v : Word)
  /-- DCLK_TARGET_WRITE (R321). -/
  | dclkTargetWrite (die : Nat) (v : Word)
  /-- CLOCK_RELOCK_END (R322). -/
  | clockRelockEnd (die : Nat)
  /-- THERMAL_STEP_DOWN (R371). -/
  | thermalStepDown (die : Nat)
  /-- THERMAL_RECOVERY (R371). -/
  | thermalRecovery (die : Nat)
  /-- HBM_RETRAIN_REQUEST (R297). -/
  | hbmRetrainRequest (die : Nat) (stack : Nat) (rate : Nat)
  /-- RETRAIN_DEFERRAL_EXPIRY (R297). -/
  | retrainDeferralExpiry (die : Nat) (stack : Nat)
  /-- HBM_PHY_ERROR (R297). -/
  | hbmPhyError (die : Nat) (stack : Nat)
  /-- UNMAP_MIGRATE (R286). -/
  | unmapMigrate (asid : Nat) (va : Word) (dest : Option Nat)
  /-- DIE_OFFLINE_MARK (R365). -/
  | dieOfflineMark (die : Nat)
  /-- HEARTBEAT_TIMEOUT (R365). -/
  | heartbeatTimeout (die : Nat)
  /-- THERMAL_OFFLINE_TIMEOUT (R365). -/
  | thermalOfflineTimeout (die : Nat)
  /-- EXPORT (R360). -/
  | exportWindow (t : Nat)
  /-- UNEXPORT (R360). -/
  | unexportWindow (t : Nat)
  /-- DIESTAT (R358). -/
  | diestat (t : Nat)
  /-- KRESTORE (R366). -/
  | krestore (t : Nat)
  /-- CALL_ATTEST (R369). -/
  | callAttest (t : Nat)
  /-- RREAD (R362). -/
  | rread (t : Nat)
  /-- RWRITE (R362). -/
  | rwrite (t : Nat)
  /-- RAMO (R362). -/
  | ramo (t : Nat)
  /-- RKEY (R362). -/
  | rkey (t : Nat)
  /-- RMSG (R362). -/
  | rmsg (t : Nat)
  /-- REMOTE_OP_ARRIVAL (R361). -/
  | remoteOpArrival (op : RemoteOp)
  /-- REMOTE_CALL_TIMEOUT (R361). -/
  | remoteCallTimeout (t : Nat)
  /-- LATE_REPLY_DISCARD (R361). -/
  | lateReplyDiscard (r : RemoteReply)
  /-- HOST_LOAD (R40). -/
  | hostLoad (h : HostHdr) (file : List Byte)
  /-- HOST_SUBMIT (R364). -/
  | hostSubmit (h : HostHdr) (asid : Nat) (rec : Nat) (karg : Option Word)
  /-- HOST_PREEMPT (R293). -/
  | hostPreempt (h : HostHdr) (lid : Nat)
  /-- HOST_RESUME (R294). -/
  | hostResume (h : HostHdr) (lid : Nat)
  /-- HOST_STOP (R295). -/
  | hostStop (h : HostHdr) (lid : Nat)
  /-- HOST_READ (R364). -/
  | hostRead (h : HostHdr) (asid : Nat) (va : Word) (len : Nat)
  /-- HOST_WRITE (R364). -/
  | hostWrite (h : HostHdr) (asid : Nat) (va : Word) (data : List Byte)
  /-- HOST_CKPT (R316). -/
  | hostCkpt (h : HostHdr)
  /-- HOST_ATTEST (R369). -/
  | hostAttest (h : HostHdr) (asid : Nat) (nonce : BitVec 384)
  /-- HOST_STATUS (R364). -/
  | hostStatus (h : HostHdr)
  /-- HOST_UNLOAD (R375). -/
  | hostUnload (h : HostHdr) (asid : Nat)
  /-- PORT_DOWN (R356). -/
  | portDown (port : Nat)
  /-- STARTUP (R367). -/
  | startUp (r : StartReport)
  /-- REMOTE_REPLY_ARRIVAL (R361). -/
  | remoteReplyArrival (r : RemoteReply)
  /-- HBM_RETRAIN_END (R297). -/
  | hbmRetrainEnd (die : Nat) (stack : Nat) (ok : Bool)
  /-- CXL_LINK_DOWN (R315). -/
  | cxlLinkDown (port : Nat)
  deriving DecidableEq, Repr

end Sys2Proof
end

