-- ==== Sys2Proof/WellFormed.lean ====
section
/-! DEFINITION. Which terms are instructions: the operand conditions that trap ILLEGAL at decode (R24 step 2, R16,
R151, R155, R172, R179, R185, R213), and for an event the range of the units it names. -/

namespace Sys2Proof

/-- Lanes of a 512-bit register for an integer lane type (R139). -/
def ITy.lanes : ITy → Nat
  | .w => 16
  | .h => 32

/-- Thread keys: the TIDs of R80, and the keys the model gives the service contexts (R112). -/
def isThread (t : Nat) : Bool :=
  decide (t / 8192 < 12) || (decide (131072 ≤ t) && decide (t < 131072 + 384))

/-- The operand conditions of an instruction. -/
def Instr.wf : Instr → Bool
  | .opiAdd _ _ _ => true
  | .opiSub _ _ _ => true
  | .opiAnd _ _ _ => true
  | .opiOr _ _ _ => true
  | .opiXor _ _ _ => true
  | .opiAndn _ _ _ => true
  | .opiOrn _ _ _ => true
  | .opiSll _ _ _ => true
  | .opiSrl _ _ _ => true
  | .opiSra _ _ _ => true
  | .opiSlt _ _ _ => true
  | .opiSltu _ _ _ => true
  | .opiMin _ _ _ => true
  | .opiMax _ _ _ => true
  | .opiMinu _ _ _ => true
  | .opiMaxu _ _ _ => true
  | .opiSxb _ _ => true
  | .opiSxh _ _ => true
  | .opiSxw _ _ => true
  | .opiZxb _ _ => true
  | .opiZxh _ _ => true
  | .opiZxw _ _ => true
  | .addi _ _ _ => true
  | .andi _ _ _ => true
  | .ori _ _ _ => true
  | .xori _ _ _ => true
  | .slti _ _ _ => true
  | .sltiu _ _ _ => true
  | .lui _ _ => true
  | .addpc _ _ => true
  | .shiSlli _ _ _ => true
  | .shiSrli _ _ _ => true
  | .shiSrai _ _ _ => true
  | .shiRori _ _ _ => true
  | .shiClz _ _ => true
  | .shiCtz _ _ => true
  | .shiPopc _ _ => true
  | .shiBrev _ _ => true
  | .shiBswap _ _ => true
  | .muldivMul _ _ _ => true
  | .muldivMulh _ _ _ => true
  | .muldivMulhu _ _ _ => true
  | .muldivMulhsu _ _ _ => true
  | .muldivDiv _ _ _ => true
  | .muldivDivu _ _ _ => true
  | .muldivRem _ _ _ => true
  | .muldivRemu _ _ _ => true
  | .brEq _ _ _ => true
  | .brNe _ _ _ => true
  | .brLt _ _ _ => true
  | .brGe _ _ _ => true
  | .brLtu _ _ _ => true
  | .brGeu _ _ _ => true
  | .brAny _ _ _ => true
  | .brNone _ _ _ => true
  | .jal _ _ => true
  | .jalr _ _ _ => true
  | .rep _ _ _ _ _ => true
  | .repeatFrameIssue => true
  | .ldPlain _ _ _ _ => true
  | .ldTiled _ _ _ _ => true
  | .ldDevice _ _ _ _ => true
  | .stPlain _ _ _ _ => true
  | .stTiled _ _ _ _ => true
  | .stDevice _ _ _ _ => true
  | .lds sz d _ _ => !(sz == .q) || d.val % 2 == 0
  | .sts sz d _ _ => !(sz == .q) || d.val % 2 == 0
  | .vlds _ _ _ => true
  | .vsts _ _ _ => true
  | .feTake _ _ _ => true
  | .fePut _ _ _ => true
  | .feSload _ _ _ => true
  | .feFill _ _ _ => true
  | .amoSwap _ _ _ _ => true
  | .amoAdd _ _ _ _ => true
  | .amoAnd _ _ _ _ => true
  | .amoOr _ _ _ _ => true
  | .amoXor _ _ _ _ => true
  | .amoMin _ _ _ _ => true
  | .amoMax _ _ _ _ => true
  | .amoMinu _ _ _ _ => true
  | .amoMaxu _ _ _ _ => true
  | .amoCas _ _ _ _ => true
  | .ordAcq _ => true
  | .ordRel _ => true
  | .ordFence _ => true
  | .ordLda _ _ _ _ => true
  | .ordStl _ _ _ _ => true
  | .keyUpd _ _ _ _ _ => true
  | .keyLd _ _ _ => true
  | .keyLdx d _ => d.val % 2 == 0
  | .keyPub _ _ _ => true
  | .keyFixDrop _ _ _ => true
  | .keyFixSet _ _ _ => true
  | .keyResume _ _ => true
  | .keyInfo _ _ => true
  | .qstQ _ _ _ _ a _ => decide (1 ≤ a.val) && decide (a.val ≤ 30)
  | .qstBl _ _ _ a _ => decide (1 ≤ a.val) && decide (a.val ≤ 30)
  | .bitInit _ _ k => decide (k.toNat ≤ 63)
  | .bitPeek _ k => decide (1 ≤ k.toNat) && decide (k.toNat ≤ 64)
  | .bitGet _ k => decide (1 ≤ k.toNat) && decide (k.toNat ≤ 64)
  | .bitSkip k => decide (1 ≤ k.toNat) && decide (k.toNat ≤ 64)
  | .bitGetv _ _ => true
  | .bitUnar _ => true
  | .bitTell _ => true
  | .bitAvail _ => true
  | .msgPut _ => true
  | .msgSend _ _ _ _ => true
  | .msgRecv _ _ _ _ => true
  | .msgWait _ _ _ => true
  | .msgAlt _ _ _ => true
  | .msgGrant _ _ _ => true
  | .msgDrop => true
  | .cpySlot _ _ _ => true
  | .cpyIn _ _ _ _ => true
  | .cpyOut _ _ _ _ => true
  | .cpyFree _ _ => true
  | .cpyPin _ _ _ => true
  | .cpyUnpin _ _ => true
  | .tilOpen _ _ _ => true
  | .tilClose _ _ => true
  | .tilAcq _ _ _ _ _ => true
  | .tilRel _ _ _ => true
  | .tilGet _ _ _ => true
  | .tilPut _ _ _ => true
  | .xpfSnap _ _ => true
  | .xpfReq _ _ _ => true
  | .xpfCancel _ _ => true
  | .vfpAdd _ _ _ _ _ => true
  | .vfpSub _ _ _ _ _ => true
  | .vfpMul _ _ _ _ _ => true
  | .vfpDiv _ _ _ _ _ => true
  | .vfpSqrt _ _ _ _ => true
  | .vfpFma _ _ _ _ _ => true
  | .vfpFms _ _ _ _ _ => true
  | .vfpFnma _ _ _ _ _ => true
  | .vfpMin _ _ _ _ _ => true
  | .vfpMax _ _ _ _ _ => true
  | .vfpAbs _ _ _ _ => true
  | .vfpNeg _ _ _ _ => true
  | .vfpSgnj _ _ _ _ _ => true
  | .vfpCeq _ _ _ _ => true
  | .vfpClt _ _ _ _ => true
  | .vfpCle _ _ _ _ => true
  | .vfpCun _ _ _ _ => true
  | .vintAdd _ _ _ _ _ => true
  | .vintSub _ _ _ _ _ => true
  | .vintAdds _ _ _ _ _ => true
  | .vintAddus _ _ _ _ _ => true
  | .vintSubs _ _ _ _ _ => true
  | .vintSubus _ _ _ _ _ => true
  | .vintMul _ _ _ _ _ => true
  | .vintMulh _ _ _ _ _ => true
  | .vintAnd _ _ _ _ _ => true
  | .vintOr _ _ _ _ _ => true
  | .vintXor _ _ _ _ _ => true
  | .vintAndn _ _ _ _ _ => true
  | .vintSll _ _ _ _ _ => true
  | .vintSrl _ _ _ _ _ => true
  | .vintSra _ _ _ _ _ => true
  | .vintMin _ _ _ _ _ => true
  | .vintMax _ _ _ _ _ => true
  | .vintMinu _ _ _ _ _ => true
  | .vintMaxu _ _ _ _ _ => true
  | .vintCeq _ _ _ _ => true
  | .vintClt _ _ _ _ => true
  | .vintCltu _ _ _ _ => true
  | .vcvtNf16l _ _ _ _ => true
  | .vcvtNf16h _ _ _ _ => true
  | .vcvtNbf16l _ _ _ _ => true
  | .vcvtNbf16h _ _ _ _ => true
  | .vcvtWf16l _ _ _ => true
  | .vcvtWf16h _ _ _ => true
  | .vcvtWbf16l _ _ _ => true
  | .vcvtWbf16h _ _ _ => true
  | .vcvtFtoi _ _ _ _ => true
  | .vcvtFtou _ _ _ _ => true
  | .vcvtItof _ _ _ _ => true
  | .vcvtUtof _ _ _ _ => true
  | .vcvtRint _ _ _ _ => true
  | .vpermFsum _ _ _ _ => true
  | .vpermFmax _ _ _ _ => true
  | .vpermFmin _ _ _ _ => true
  | .vpermIsum _ _ _ _ => true
  | .vpermImax _ _ _ _ => true
  | .vpermImin _ _ _ _ => true
  | .vpermImaxu _ _ _ _ => true
  | .vpermIminu _ _ _ _ => true
  | .vpermPerm _ _ _ _ _ => true
  | .vpermBcl ty _ _ _ n => decide (n.toNat < ty.lanes)
  | .vpermRot ty _ _ _ n => decide (n.toNat < ty.lanes)
  | .vpermCmpr _ _ _ _ => true
  | .vpermExpd _ _ _ _ => true
  | .vbmmMma ty _ _ _ b => decide (b.val + ty.lanes ≤ 32)
  | .vbmmMm ty _ _ _ b => decide (b.val + ty.lanes ≤ 32)
  | .vmskAnd _ _ _ => true
  | .vmskOr _ _ _ => true
  | .vmskXor _ _ _ => true
  | .vmskAndn _ _ _ => true
  | .vmskNot _ _ => true
  | .vmskFromg _ _ => true
  | .vmskTog _ _ => true
  | .vmskPopc _ _ => true
  | .vmskFirst _ _ => true
  | .vmskPre _ _ => true
  | .vmskGlen _ _ _ => true
  | .vmovMov _ _ _ _ => true
  | .vmovSel _ _ _ _ _ => true
  | .vmovBcg _ _ _ _ => true
  | .vmovIns _ _ _ _ => true
  | .vmovExt _ _ _ _ => true
  | .vmovIota _ _ _ => true
  | .gangMm _ _ _ => true
  | .gangPeg _ _ => true
  | .gangRdacc _ _ => true
  | .gangWracc _ _ => true
  | .gangZacc _ => true
  | .gangPartComplete cl p => decide (cl < 768) && decide (p < 8)
  | .sprsScan _ _ _ _ => true
  | .sprsS24 _ _ _ => true
  | .latheReq _ _ _ _ => true
  | .latheRequestStart cl => decide (cl < 768)
  | .latheReply cl => decide (cl < 768)
  | .grpArrive _ _ _ => true
  | .grpWait _ _ _ _ _ => true
  | .grpDrop _ _ _ => true
  | .grpInfo _ _ => true
  | .grpQuiet _ _ => true
  | .sysRdk _ _ => true
  | .sysWrk _ _ => true
  | .sysSetk _ _ => true
  | .sysClrk _ _ => true
  | .sysTread _ _ _ => true
  | .sysTwrite _ _ _ => true
  | .sysTresume _ => true
  | .sysTkill _ => true
  | .sysCall _ _ => true
  | .sysBrk _ => true
  | .sysExit => true
  | .sysNuld _ _ => true
  | .sysNust _ _ => true
  | .sysTsave _ _ => true
  | .sysTload _ _ => true
  | .waitExpiry t => decide (isThread t)
  | .replyArrival t => decide (isThread t)
  | .messageArrival => true
  | .trapQueueDelivery die => decide (die < 12)
  | .contextSaveComplete t => decide (isThread t)
  | .saveDeferralReport t => decide (isThread t)
  | .icacheMissFill t => decide (isThread t)
  | .pageWalkComplete t => decide (isThread t)
  | .homeRequestArrival core => decide (core < 8216)
  | .flitCheckFailure core die => decide (core < 8216) && decide (die < 12)
  | .linkRetrainFailure link => decide (link < 17)
  | .tenureGrant sl => decide (sl < 768)
  | .recallDeadlineExpiry sl => decide (sl < 768)
  | .battenMergeStep core => decide (core < 8216)
  | .purlinDrainStep cl => decide (cl < 768)
  | .beamSettleStep die q => decide (die < 12) && decide (q < 4)
  | .beamIdleSettle die q => decide (die < 12) && decide (q < 4)
  | .mscFilterClear die => decide (die < 12)
  | .copyCompletion die unit => decide (die < 12) && decide (unit < 16)
  | .prefetchServe die => decide (die < 12)
  | .prefetchDeadline die => decide (die < 12)
  | .quiescenceWave _ => true
  | .launchStart die => decide (die < 12)
  | .multiDieLaunchStart => true
  | .launchPriorityPromotion die => decide (die < 12)
  | .launchEnd _ => true
  | .launchSaveComplete _ => true
  | .launchResumeStart _ => true
  | .lqSubmit die slot => decide (die < 12) && decide (slot < 64)
  | .lqPreempt die _ => decide (die < 12)
  | .lqResume die _ => decide (die < 12)
  | .lqStop die _ => decide (die < 12)
  | .lqFree die slot => decide (die < 12) && decide (slot < 64)
  | .deviceRegisterWrite _ n _ => (n == 1 || n == 2 || n == 4 || n == 8)
  | .dclkTargetWrite die _ => decide (die < 12)
  | .clockRelockEnd die => decide (die < 12)
  | .thermalStepDown die => decide (die < 12)
  | .thermalRecovery die => decide (die < 12)
  | .hbmRetrainRequest die stack rate => decide (die < 12) && decide (stack < 2) && decide (rate < 3)
  | .retrainDeferralExpiry die stack => decide (die < 12) && decide (stack < 2)
  | .hbmPhyError die stack => decide (die < 12) && decide (stack < 2)
  | .unmapMigrate _ _ _ => true
  | .dieOfflineMark die => decide (die < 12)
  | .heartbeatTimeout die => decide (die < 12)
  | .thermalOfflineTimeout die => decide (die < 12)
  | .exportWindow t => decide (isThread t)
  | .unexportWindow t => decide (isThread t)
  | .diestat t => decide (isThread t)
  | .krestore t => decide (isThread t)
  | .callAttest t => decide (isThread t)
  | .rread t => decide (isThread t)
  | .rwrite t => decide (isThread t)
  | .ramo t => decide (isThread t)
  | .rkey t => decide (isThread t)
  | .rmsg t => decide (isThread t)
  | .remoteOpArrival _ => true
  | .remoteCallTimeout t => decide (isThread t)
  | .lateReplyDiscard _ => true
  | .hostLoad _ _ => true
  | .hostSubmit _ _ _ _ => true
  | .hostPreempt _ _ => true
  | .hostResume _ _ => true
  | .hostStop _ _ => true
  | .hostRead _ _ _ _ => true
  | .hostWrite _ _ _ _ => true
  | .hostCkpt _ => true
  | .hostAttest _ _ _ => true
  | .hostStatus _ => true
  | .hostUnload _ _ => true
  | .portDown port => decide (port < 16)
  | .startUp _ => true
  | .remoteReplyArrival _ => true
  | .hbmRetrainEnd die stack _ => decide (die < 12) && decide (stack < 2)
  | .cxlLinkDown port => decide (port < 8)

end Sys2Proof
end

