-- ==== Sys2Proof/Decode.lean ====
section
/-! DEFINITION. Decoding and encoding of instruction words (R10 to R26, R30, R31, R101, R102, R109, R139, R143). -/

namespace Sys2Proof

/-- How a word fails to be an instruction: R24 step 2, or step 3 with the lowest offending bit (R25). -/
inductive DecodeErr where
  | illegal
  | reservedField (bit : Nat)
  deriving DecidableEq, Repr

/-- Field of `n` bits from bit `lo` of a word. -/
def fld (w lo n : Nat) : Nat := w / 2 ^ lo % 2 ^ n

/-- R24 step 2. -/
def illegal : Except DecodeErr Instr := .error .illegal

/-- A field whose code is not allocated traps ILLEGAL. -/
def need {α : Type} (o : Option α) (k : α → Except DecodeErr Instr) : Except DecodeErr Instr :=
  match o with
  | some x => k x
  | none => illegal

/-- Position of the lowest set bit of a value below `2 ^ n`. -/
def lowBit : Nat → Nat → Nat
  | 0, _ => 0
  | n + 1, v => if v % 2 = 1 then 0 else 1 + lowBit n (v / 2)

/-- R24 step 3 over the reserved fields of a form, lowest first. -/
def rsvCheck (w : Nat) : List (Nat × Nat) → Option Nat
  | [] => none
  | (lo, n) :: r => if fld w lo n = 0 then rsvCheck w r else some (lo + lowBit n (fld w lo n))

/-- The form is decided: its operand conditions first (R24 step 2), then its reserved fields (step 3). -/
def done (w : Nat) (rs : List (Nat × Nat)) (i : Instr) : Except DecodeErr Instr :=
  if i.wf then
    match rsvCheck w rs with
    | none => .ok i
    | some b => .error (.reservedField b)
  else illegal

/-- The register number in the 5-bit field from bit `lo`. -/
def regAt (w lo : Nat) : Reg := ⟨fld w lo 5, Nat.mod_lt _ (by decide)⟩

/-- The mask number in the 3-bit field from bit `lo` (R143). -/
def mregAt (w lo : Nat) : MReg := ⟨fld w lo 3, Nat.mod_lt _ (by decide)⟩

/-- Codes of Table 1-4. -/
def Size.code : Size → Nat
  | .b => 0 | .h => 1 | .w => 2 | .d => 3

/-- The reading of a code of Table 1-4; none where it is not allocated. -/
def Size.ofCode : Nat → Option Size
  | 0 => some .b | 1 => some .h | 2 => some .w | 3 => some .d | _ => none

/-- Codes of Table 1-4. -/
def SSize.code : SSize → Nat
  | .b => 0 | .h => 1 | .w => 2 | .d => 3 | .q => 4

/-- The reading of a code of Table 1-4; none where it is not allocated. -/
def SSize.ofCode : Nat → Option SSize
  | 0 => some .b | 1 => some .h | 2 => some .w | 3 => some .d | 4 => some .q | _ => none

/-- Codes of Table 1-7. -/
def Scope.code : Scope → Nat
  | .thread => 0 | .core => 1 | .cluster => 2 | .die => 3 | .package => 4

/-- The reading of a code of Table 1-7; none where it is not allocated. -/
def Scope.ofCode : Nat → Option Scope
  | 0 => some .thread | 1 => some .core | 2 => some .cluster | 3 => some .die | 4 => some .package | _ => none

/-- Codes of R278. -/
def AmoPlace.code : AmoPlace → Nat
  | .w => 0 | .d => 1 | .bw => 2 | .bd => 3

/-- The reading of a code of R278; none where it is not allocated. -/
def AmoPlace.ofCode : Nat → Option AmoPlace
  | 0 => some .w | 1 => some .d | 2 => some .bw | 3 => some .bd | _ => none

/-- Codes of Table 8-2. -/
def VType.code : VType → Nat
  | .i32 => 0 | .i64 => 1 | .f32 => 2 | .f16 => 3 | .b64 => 4 | .fx128 => 5

/-- The reading of a code of Table 8-2; none where it is not allocated. -/
def VType.ofCode : Nat → Option VType
  | 0 => some .i32 | 1 => some .i64 | 2 => some .f32 | 3 => some .f16 | 4 => some .b64 | 5 => some .fx128 | _ => none

/-- Codes of R257. -/
def AcqMode.code : AcqMode → Nat
  | .rd => 0 | .wr => 1 | .rdr => 2 | .wrr => 3

/-- The reading of a code of R257; none where it is not allocated. -/
def AcqMode.ofCode : Nat → Option AcqMode
  | 0 => some .rd | 1 => some .wr | 2 => some .rdr | 3 => some .wrr | _ => none

/-- Codes of R139. -/
def FTy.code : FTy → Nat
  | .f32 => 0 | .f16 => 1 | .bf16 => 2

/-- The reading of a code of R139; none where it is not allocated. -/
def FTy.ofCode : Nat → Option FTy
  | 0 => some .f32 | 1 => some .f16 | 2 => some .bf16 | _ => none

/-- Codes of R139. -/
def ITy.code : ITy → Nat
  | .w => 0 | .h => 1

/-- The reading of a code of R139; none where it is not allocated. -/
def ITy.ofCode : Nat → Option ITy
  | 0 => some .w | 1 => some .h | _ => none

/-- Codes of R235. -/
def ElemTy.code : ElemTy → Nat
  | .w => 0 | .h => 1

/-- The reading of a code of R235; none where it is not allocated. -/
def ElemTy.ofCode : Nat → Option ElemTy
  | 0 => some .w | 1 => some .h | _ => none

/-- Codes of R132. -/
def DTable.code : DTable → Nat
  | .tabA => 0 | .tabB => 1 | .n8 => 2

/-- The reading of a code of R132; none where it is not allocated. -/
def DTable.ofCode : Nat → Option DTable
  | 0 => some .tabA | 1 => some .tabB | 2 => some .n8 | _ => none

/-- Codes of R179. -/
def BlkW.code : BlkW → Nat
  | .blk4 => 0 | .blk8 => 1

/-- The reading of a code of R179. -/
def BlkW.ofCode : Nat → BlkW
  | 0 => .blk4 | _ => .blk8

/-- Codes of R139. -/
def CRnd.code : CRnd → Nat
  | .krm => 0 | .rne => 1 | .rtz => 2 | .rdn => 3

/-- The reading of a code of R139. -/
def CRnd.ofCode : Nat → CRnd
  | 0 => .krm | 1 => .rne | 2 => .rtz | _ => .rdn

/-- Codes of R139. -/
def GSize.code : GSize → Nat
  | .gr4 => 0 | .gr8 => 1 | .gr16 => 2 | .gr2 => 3

/-- The reading of a code of R139. -/
def GSize.ofCode : Nat → GSize
  | 0 => .gr4 | 1 => .gr8 | 2 => .gr16 | _ => .gr2

/-- Numbers of Table 4-1. -/
def KReg.code : KReg → Nat
  | .kstat => 0
  | .kcause => 1
  | .kinfo => 2
  | .kepc => 3
  | .ktvec => 4
  | .kqmask => 5
  | .kid => 6
  | .karg => 7
  | .kcycle => 8
  | .ktick => 9
  | .kbconf => 10
  | .kswait => 11
  | .kfcnt => 48
  | .kfidx => 49
  | .kfstg => 50
  | .kbbuf => 56
  | .kbbufh => 57
  | .kbfill => 58
  | .kbsrc => 59
  | .kbend => 60
  | .kgrp i => 16 + i.val
  | .kfbuf i => 32 + i.val

/-- The k-register of a number of Table 4-1 (R81). -/
def KReg.ofCode (k : Nat) : Option KReg :=
  match k with
  | 0 => some .kstat
  | 1 => some .kcause
  | 2 => some .kinfo
  | 3 => some .kepc
  | 4 => some .ktvec
  | 5 => some .kqmask
  | 6 => some .kid
  | 7 => some .karg
  | 8 => some .kcycle
  | 9 => some .ktick
  | 10 => some .kbconf
  | 11 => some .kswait
  | 48 => some .kfcnt
  | 49 => some .kfidx
  | 50 => some .kfstg
  | 56 => some .kbbuf
  | 57 => some .kbbufh
  | 58 => some .kbfill
  | 59 => some .kbsrc
  | 60 => some .kbend
  | _ =>
    if 16 ≤ k ∧ k < 20 then some (.kgrp (Fin.ofNat 4 (k - 16)))
    else if 32 ≤ k ∧ k < 48 then some (.kfbuf (Fin.ofNat 16 (k - 32)))
    else none

/-- Numbers of R96. -/
def TState.code : TState → Nat
  | .k r => r.code
  | .g r => 64 + r.val
  | .m r => 96 + r.val
  | .pc => 104
  | .v r => 128 + r.val

/-- The target state a number names (R96). -/
def TState.ofCode (k : Nat) : Option TState :=
  if k < 64 then (KReg.ofCode k).map .k
  else if k < 96 then some (.g (Fin.ofNat 32 (k - 64)))
  else if k < 104 then some (.m (Fin.ofNat 8 (k - 96)))
  else if k = 104 then some .pc
  else if 128 ≤ k ∧ k < 160 then some (.v (Fin.ofNat 32 (k - 128)))
  else none

/-- Major opcode 0x01, `opi` (Table 1-8). -/
def decOpi (w : Nat) : Except DecodeErr Instr :=
  match fld w 21 7 with
  | 0 => done w [(28, 4)] (.opiAdd (regAt w 6) (regAt w 11) (regAt w 16))
  | 1 => done w [(28, 4)] (.opiSub (regAt w 6) (regAt w 11) (regAt w 16))
  | 2 => done w [(28, 4)] (.opiAnd (regAt w 6) (regAt w 11) (regAt w 16))
  | 3 => done w [(28, 4)] (.opiOr (regAt w 6) (regAt w 11) (regAt w 16))
  | 4 => done w [(28, 4)] (.opiXor (regAt w 6) (regAt w 11) (regAt w 16))
  | 5 => done w [(28, 4)] (.opiAndn (regAt w 6) (regAt w 11) (regAt w 16))
  | 6 => done w [(28, 4)] (.opiOrn (regAt w 6) (regAt w 11) (regAt w 16))
  | 8 => done w [(28, 4)] (.opiSll (regAt w 6) (regAt w 11) (regAt w 16))
  | 9 => done w [(28, 4)] (.opiSrl (regAt w 6) (regAt w 11) (regAt w 16))
  | 10 => done w [(28, 4)] (.opiSra (regAt w 6) (regAt w 11) (regAt w 16))
  | 12 => done w [(28, 4)] (.opiSlt (regAt w 6) (regAt w 11) (regAt w 16))
  | 13 => done w [(28, 4)] (.opiSltu (regAt w 6) (regAt w 11) (regAt w 16))
  | 16 => done w [(28, 4)] (.opiMin (regAt w 6) (regAt w 11) (regAt w 16))
  | 17 => done w [(28, 4)] (.opiMax (regAt w 6) (regAt w 11) (regAt w 16))
  | 18 => done w [(28, 4)] (.opiMinu (regAt w 6) (regAt w 11) (regAt w 16))
  | 19 => done w [(28, 4)] (.opiMaxu (regAt w 6) (regAt w 11) (regAt w 16))
  | 24 => done w [(16, 5), (28, 4)] (.opiSxb (regAt w 6) (regAt w 11))
  | 25 => done w [(16, 5), (28, 4)] (.opiSxh (regAt w 6) (regAt w 11))
  | 26 => done w [(16, 5), (28, 4)] (.opiSxw (regAt w 6) (regAt w 11))
  | 28 => done w [(16, 5), (28, 4)] (.opiZxb (regAt w 6) (regAt w 11))
  | 29 => done w [(16, 5), (28, 4)] (.opiZxh (regAt w 6) (regAt w 11))
  | 30 => done w [(16, 5), (28, 4)] (.opiZxw (regAt w 6) (regAt w 11))
  | _ => illegal

/-- Major opcode 0x02, `addi` (Table 1-8). -/
def decAddi (w : Nat) : Except DecodeErr Instr :=
  done w [] (.addi (regAt w 6) (regAt w 11) (BitVec.ofNat 16 (fld w 16 16)))

/-- Major opcode 0x03, `andi` (Table 1-8). -/
def decAndi (w : Nat) : Except DecodeErr Instr :=
  done w [] (.andi (regAt w 6) (regAt w 11) (BitVec.ofNat 16 (fld w 16 16)))

/-- Major opcode 0x04, `ori` (Table 1-8). -/
def decOri (w : Nat) : Except DecodeErr Instr :=
  done w [] (.ori (regAt w 6) (regAt w 11) (BitVec.ofNat 16 (fld w 16 16)))

/-- Major opcode 0x05, `xori` (Table 1-8). -/
def decXori (w : Nat) : Except DecodeErr Instr :=
  done w [] (.xori (regAt w 6) (regAt w 11) (BitVec.ofNat 16 (fld w 16 16)))

/-- Major opcode 0x06, `slti` (Table 1-8). -/
def decSlti (w : Nat) : Except DecodeErr Instr :=
  done w [] (.slti (regAt w 6) (regAt w 11) (BitVec.ofNat 16 (fld w 16 16)))

/-- Major opcode 0x07, `sltiu` (Table 1-8). -/
def decSltiu (w : Nat) : Except DecodeErr Instr :=
  done w [] (.sltiu (regAt w 6) (regAt w 11) (BitVec.ofNat 16 (fld w 16 16)))

/-- Major opcode 0x08, `lui` (Table 1-8). -/
def decLui (w : Nat) : Except DecodeErr Instr :=
  done w [] (.lui (regAt w 6) (BitVec.ofNat 21 (fld w 11 21)))

/-- Major opcode 0x09, `addpc` (Table 1-8). -/
def decAddpc (w : Nat) : Except DecodeErr Instr :=
  done w [] (.addpc (regAt w 6) (BitVec.ofNat 21 (fld w 11 21)))

/-- Major opcode 0x0A, `shi` (Table 1-8). -/
def decShi (w : Nat) : Except DecodeErr Instr :=
  match fld w 21 7 with
  | 0 => done w [(29, 3)] (.shiSlli (regAt w 6) (regAt w 11) (BitVec.ofNat 6 (32 * fld w 28 1 + fld w 16 5)))
  | 1 => done w [(29, 3)] (.shiSrli (regAt w 6) (regAt w 11) (BitVec.ofNat 6 (32 * fld w 28 1 + fld w 16 5)))
  | 2 => done w [(29, 3)] (.shiSrai (regAt w 6) (regAt w 11) (BitVec.ofNat 6 (32 * fld w 28 1 + fld w 16 5)))
  | 3 => done w [(29, 3)] (.shiRori (regAt w 6) (regAt w 11) (BitVec.ofNat 6 (32 * fld w 28 1 + fld w 16 5)))
  | 16 => done w [(16, 5), (28, 4)] (.shiClz (regAt w 6) (regAt w 11))
  | 17 => done w [(16, 5), (28, 4)] (.shiCtz (regAt w 6) (regAt w 11))
  | 18 => done w [(16, 5), (28, 4)] (.shiPopc (regAt w 6) (regAt w 11))
  | 19 => done w [(16, 5), (28, 4)] (.shiBrev (regAt w 6) (regAt w 11))
  | 20 => done w [(16, 5), (28, 4)] (.shiBswap (regAt w 6) (regAt w 11))
  | _ => illegal

/-- Major opcode 0x0B, `muldiv` (Table 1-8). -/
def decMuldiv (w : Nat) : Except DecodeErr Instr :=
  match fld w 21 7 with
  | 0 => done w [(28, 4)] (.muldivMul (regAt w 6) (regAt w 11) (regAt w 16))
  | 1 => done w [(28, 4)] (.muldivMulh (regAt w 6) (regAt w 11) (regAt w 16))
  | 2 => done w [(28, 4)] (.muldivMulhu (regAt w 6) (regAt w 11) (regAt w 16))
  | 3 => done w [(28, 4)] (.muldivMulhsu (regAt w 6) (regAt w 11) (regAt w 16))
  | 8 => done w [(28, 4)] (.muldivDiv (regAt w 6) (regAt w 11) (regAt w 16))
  | 9 => done w [(28, 4)] (.muldivDivu (regAt w 6) (regAt w 11) (regAt w 16))
  | 10 => done w [(28, 4)] (.muldivRem (regAt w 6) (regAt w 11) (regAt w 16))
  | 11 => done w [(28, 4)] (.muldivRemu (regAt w 6) (regAt w 11) (regAt w 16))
  | _ => illegal

/-- Major opcode 0x0C, `br` (Table 1-8). -/
def decBr (w : Nat) : Except DecodeErr Instr :=
  match fld w 16 3 with
  | 0 => done w [] (.brEq (regAt w 6) (regAt w 11) (BitVec.ofNat 13 (fld w 19 13)))
  | 1 => done w [] (.brNe (regAt w 6) (regAt w 11) (BitVec.ofNat 13 (fld w 19 13)))
  | 2 => done w [] (.brLt (regAt w 6) (regAt w 11) (BitVec.ofNat 13 (fld w 19 13)))
  | 3 => done w [] (.brGe (regAt w 6) (regAt w 11) (BitVec.ofNat 13 (fld w 19 13)))
  | 4 => done w [] (.brLtu (regAt w 6) (regAt w 11) (BitVec.ofNat 13 (fld w 19 13)))
  | 5 => done w [] (.brGeu (regAt w 6) (regAt w 11) (BitVec.ofNat 13 (fld w 19 13)))
  | 6 => done w [] (.brAny (regAt w 6) (regAt w 11) (BitVec.ofNat 13 (fld w 19 13)))
  | _ => done w [] (.brNone (regAt w 6) (regAt w 11) (BitVec.ofNat 13 (fld w 19 13)))

/-- Major opcode 0x0D, `jal` (Table 1-8). -/
def decJal (w : Nat) : Except DecodeErr Instr :=
  done w [] (.jal (regAt w 6) (BitVec.ofNat 21 (fld w 11 21)))

/-- Major opcode 0x0E, `jalr` (Table 1-8). -/
def decJalr (w : Nat) : Except DecodeErr Instr :=
  done w [] (.jalr (regAt w 6) (regAt w 11) (BitVec.ofNat 16 (fld w 16 16)))

/-- Major opcode 0x0F, `rep` (Table 1-8). -/
def decRep (w : Nat) : Except DecodeErr Instr :=
  done w [(30, 2)] (.rep (BitVec.ofNat 8 (fld w 6 8)) (BitVec.ofNat 4 (fld w 14 4)) (BitVec.ofNat 4 (fld w 18 4)) (BitVec.ofNat 4 (fld w 22 4)) (BitVec.ofNat 4 (fld w 26 4)))

/-- Major opcode 0x10, `ld` (Table 1-8). -/
def decLd (w : Nat) : Except DecodeErr Instr :=
  match fld w 19 2 with
  | 0 => need (Size.ofCode (fld w 16 3)) fun sz => done w [] (.ldPlain sz (regAt w 6) (regAt w 11) (BitVec.ofNat 11 (fld w 21 11)))
  | 1 => need (Size.ofCode (fld w 16 3)) fun sz => done w [] (.ldTiled sz (regAt w 6) (regAt w 11) (BitVec.ofNat 11 (fld w 21 11)))
  | 3 => need (Size.ofCode (fld w 16 3)) fun sz => done w [] (.ldDevice sz (regAt w 6) (regAt w 11) (BitVec.ofNat 11 (fld w 21 11)))
  | _ => illegal

/-- Major opcode 0x11, `st` (Table 1-8). -/
def decSt (w : Nat) : Except DecodeErr Instr :=
  match fld w 19 2 with
  | 0 => need (Size.ofCode (fld w 16 3)) fun sz => done w [] (.stPlain sz (regAt w 6) (regAt w 11) (BitVec.ofNat 11 (fld w 21 11)))
  | 1 => need (Size.ofCode (fld w 16 3)) fun sz => done w [] (.stTiled sz (regAt w 6) (regAt w 11) (BitVec.ofNat 11 (fld w 21 11)))
  | 3 => need (Size.ofCode (fld w 16 3)) fun sz => done w [] (.stDevice sz (regAt w 6) (regAt w 11) (BitVec.ofNat 11 (fld w 21 11)))
  | _ => illegal

/-- Major opcode 0x12, `lds` (Table 1-8). -/
def decLds (w : Nat) : Except DecodeErr Instr :=
  need (SSize.ofCode (fld w 16 3)) fun sz => done w [(19, 2)] (.lds sz (regAt w 6) (regAt w 11) (BitVec.ofNat 11 (fld w 21 11)))

/-- Major opcode 0x13, `sts` (Table 1-8). -/
def decSts (w : Nat) : Except DecodeErr Instr :=
  need (SSize.ofCode (fld w 16 3)) fun sz => done w [(19, 2)] (.sts sz (regAt w 6) (regAt w 11) (BitVec.ofNat 11 (fld w 21 11)))

/-- Major opcode 0x18, `vlds` (Table 1-8). -/
def decVlds (w : Nat) : Except DecodeErr Instr :=
  match fld w 16 3 with
  | 5 => done w [(19, 2)] (.vlds (regAt w 6) (regAt w 11) (BitVec.ofNat 11 (fld w 21 11)))
  | _ => illegal

/-- Major opcode 0x19, `vsts` (Table 1-8). -/
def decVsts (w : Nat) : Except DecodeErr Instr :=
  match fld w 16 3 with
  | 5 => done w [(19, 2)] (.vsts (regAt w 6) (regAt w 11) (BitVec.ofNat 11 (fld w 21 11)))
  | _ => illegal

/-- Major opcode 0x14, `fe` (Table 1-8). -/
def decFe (w : Nat) : Except DecodeErr Instr :=
  match fld w 16 3 with
  | 3 => match fld w 19 2 with
    | 0 => done w [] (.feTake (regAt w 6) (regAt w 11) (BitVec.ofNat 11 (fld w 21 11)))
    | 1 => done w [] (.fePut (regAt w 6) (regAt w 11) (BitVec.ofNat 11 (fld w 21 11)))
    | 2 => done w [] (.feSload (regAt w 6) (regAt w 11) (BitVec.ofNat 11 (fld w 21 11)))
    | _ => done w [] (.feFill (regAt w 6) (regAt w 11) (BitVec.ofNat 11 (fld w 21 11)))
  | _ => illegal

/-- Major opcode 0x15, `amo` (Table 1-8). -/
def decAmo (w : Nat) : Except DecodeErr Instr :=
  match fld w 21 4 with
  | 0 => need (AmoPlace.ofCode (fld w 29 3)) fun x => done w [(25, 4)] (.amoSwap x (regAt w 6) (regAt w 11) (regAt w 16))
  | 1 => need (AmoPlace.ofCode (fld w 29 3)) fun x => done w [(25, 4)] (.amoAdd x (regAt w 6) (regAt w 11) (regAt w 16))
  | 2 => need (AmoPlace.ofCode (fld w 29 3)) fun x => done w [(25, 4)] (.amoAnd x (regAt w 6) (regAt w 11) (regAt w 16))
  | 3 => need (AmoPlace.ofCode (fld w 29 3)) fun x => done w [(25, 4)] (.amoOr x (regAt w 6) (regAt w 11) (regAt w 16))
  | 4 => need (AmoPlace.ofCode (fld w 29 3)) fun x => done w [(25, 4)] (.amoXor x (regAt w 6) (regAt w 11) (regAt w 16))
  | 5 => need (AmoPlace.ofCode (fld w 29 3)) fun x => done w [(25, 4)] (.amoMin x (regAt w 6) (regAt w 11) (regAt w 16))
  | 6 => need (AmoPlace.ofCode (fld w 29 3)) fun x => done w [(25, 4)] (.amoMax x (regAt w 6) (regAt w 11) (regAt w 16))
  | 7 => need (AmoPlace.ofCode (fld w 29 3)) fun x => done w [(25, 4)] (.amoMinu x (regAt w 6) (regAt w 11) (regAt w 16))
  | 8 => need (AmoPlace.ofCode (fld w 29 3)) fun x => done w [(25, 4)] (.amoMaxu x (regAt w 6) (regAt w 11) (regAt w 16))
  | 9 => need (AmoPlace.ofCode (fld w 29 3)) fun x => done w [(25, 4)] (.amoCas x (regAt w 6) (regAt w 11) (regAt w 16))
  | _ => illegal

/-- Major opcode 0x16, `ord` (Table 1-8). -/
def decOrd (w : Nat) : Except DecodeErr Instr :=
  match fld w 21 4 with
  | 0 => need (Scope.ofCode (fld w 29 3)) fun x => done w [(6, 15), (25, 4)] (.ordAcq x)
  | 1 => need (Scope.ofCode (fld w 29 3)) fun x => done w [(6, 15), (25, 4)] (.ordRel x)
  | 2 => need (Scope.ofCode (fld w 29 3)) fun x => done w [(6, 15), (25, 4)] (.ordFence x)
  | 4 => need (Scope.ofCode (fld w 29 3)) fun x => need (Size.ofCode (fld w 21 2)) fun sz => done w [(16, 5), (25, 4)] (.ordLda x sz (regAt w 6) (regAt w 11))
  | 5 => need (Scope.ofCode (fld w 29 3)) fun x => need (Size.ofCode (fld w 21 2)) fun sz => done w [(16, 5), (25, 4)] (.ordLda x sz (regAt w 6) (regAt w 11))
  | 6 => need (Scope.ofCode (fld w 29 3)) fun x => need (Size.ofCode (fld w 21 2)) fun sz => done w [(16, 5), (25, 4)] (.ordLda x sz (regAt w 6) (regAt w 11))
  | 7 => need (Scope.ofCode (fld w 29 3)) fun x => need (Size.ofCode (fld w 21 2)) fun sz => done w [(16, 5), (25, 4)] (.ordLda x sz (regAt w 6) (regAt w 11))
  | 8 => need (Scope.ofCode (fld w 29 3)) fun x => need (Size.ofCode (fld w 21 2)) fun sz => done w [(6, 5), (25, 4)] (.ordStl x sz (regAt w 11) (regAt w 16))
  | 9 => need (Scope.ofCode (fld w 29 3)) fun x => need (Size.ofCode (fld w 21 2)) fun sz => done w [(6, 5), (25, 4)] (.ordStl x sz (regAt w 11) (regAt w 16))
  | 10 => need (Scope.ofCode (fld w 29 3)) fun x => need (Size.ofCode (fld w 21 2)) fun sz => done w [(6, 5), (25, 4)] (.ordStl x sz (regAt w 11) (regAt w 16))
  | 11 => need (Scope.ofCode (fld w 29 3)) fun x => need (Size.ofCode (fld w 21 2)) fun sz => done w [(6, 5), (25, 4)] (.ordStl x sz (regAt w 11) (regAt w 16))
  | _ => illegal

/-- Major opcode 0x17, `key` (Table 1-8). -/
def decKey (w : Nat) : Except DecodeErr Instr :=
  match fld w 21 4 with
  | 0 => need (VType.ofCode (fld w 29 3)) fun x => done w [] (.keyUpd x (BitVec.ofNat 4 (fld w 25 4)) (regAt w 6) (regAt w 11) (regAt w 16))
  | 1 => need (VType.ofCode (fld w 29 3)) fun x => done w [(16, 5), (25, 4)] (.keyLd x (regAt w 6) (regAt w 11))
  | 2 => match fld w 29 3 with
    | 5 => done w [(16, 5), (25, 4)] (.keyLdx (regAt w 6) (regAt w 11))
    | _ => illegal
  | 3 => need (Scope.ofCode (fld w 29 3)) fun x => done w [(11, 10)] (.keyPub x (BitVec.ofNat 4 (fld w 25 4)) (regAt w 6))
  | 4 => match fld w 29 3 with
    | 0 => done w [(25, 4)] (.keyFixDrop (regAt w 6) (regAt w 11) (regAt w 16))
    | 1 => done w [(25, 4)] (.keyFixSet (regAt w 6) (regAt w 11) (regAt w 16))
    | _ => illegal
  | 5 => done w [(16, 5), (25, 7)] (.keyResume (regAt w 6) (regAt w 11))
  | 6 => done w [(16, 5), (25, 7)] (.keyInfo (regAt w 6) (regAt w 11))
  | _ => illegal

/-- Major opcode 0x1A, `qst` (Table 1-8). -/
def decQst (w : Nat) : Except DecodeErr Instr :=
  match fld w 19 2 with
  | 0 => done w [] (.qstQ (BlkW.ofCode (fld w 16 1)) (fld w 17 1 == 1) (fld w 18 1 == 1) (regAt w 6) (regAt w 11) (BitVec.ofNat 11 (fld w 21 11)))
  | 1 => match fld w 17 1 with
    | 0 => done w [] (.qstBl (BlkW.ofCode (fld w 16 1)) (fld w 18 1 == 1) (regAt w 6) (regAt w 11) (BitVec.ofNat 11 (fld w 21 11)))
    | _ => illegal
  | _ => illegal

/-- A `bit` form whose `k` ranges over 0 alone: another value is ILLEGAL (R24 step 2, R185). -/
def noCount (w : Nat) (x : Except DecodeErr Instr) : Except DecodeErr Instr := if fld w 16 8 = 0 then x else illegal

/-- Major opcode 0x1B, `bit` (Table 1-8). -/
def decBit (w : Nat) : Except DecodeErr Instr :=
  match fld w 24 4 with
  | 0 => done w [(28, 4)] (.bitInit (regAt w 6) (regAt w 11) (BitVec.ofNat 8 (fld w 16 8)))
  | 1 => done w [(11, 5), (28, 4)] (.bitPeek (regAt w 6) (BitVec.ofNat 8 (fld w 16 8)))
  | 2 => done w [(11, 5), (28, 4)] (.bitGet (regAt w 6) (BitVec.ofNat 8 (fld w 16 8)))
  | 3 => done w [(6, 10), (28, 4)] (.bitSkip (BitVec.ofNat 8 (fld w 16 8)))
  | 4 => noCount w (done w [(28, 4)] (.bitGetv (regAt w 6) (regAt w 11)))
  | 5 => noCount w (done w [(11, 5), (28, 4)] (.bitUnar (regAt w 6)))
  | 6 => noCount w (done w [(11, 5), (28, 4)] (.bitTell (regAt w 6)))
  | 7 => noCount w (done w [(11, 5), (28, 4)] (.bitAvail (regAt w 6)))
  | _ => illegal

/-- Major opcode 0x1C, `msg` (Table 1-8). -/
def decMsg (w : Nat) : Except DecodeErr Instr :=
  match fld w 21 4 with
  | 0 => done w [(6, 5), (16, 5), (25, 7)] (.msgPut (regAt w 11))
  | 1 => done w [(29, 3)] (.msgSend (BitVec.ofNat 4 (fld w 25 4)) (regAt w 6) (regAt w 11) (regAt w 16))
  | 2 => done w [(29, 3)] (.msgRecv (BitVec.ofNat 4 (fld w 25 4)) (regAt w 6) (regAt w 11) (regAt w 16))
  | 3 => done w [(16, 5), (29, 3)] (.msgWait (BitVec.ofNat 4 (fld w 25 4)) (regAt w 6) (regAt w 11))
  | 4 => done w [(16, 5), (29, 3)] (.msgAlt (BitVec.ofNat 4 (fld w 25 4)) (regAt w 6) (regAt w 11))
  | 5 => done w [(25, 7)] (.msgGrant (regAt w 6) (regAt w 11) (regAt w 16))
  | 6 => done w [(6, 15), (25, 7)] (.msgDrop)
  | _ => illegal

/-- Major opcode 0x1D, `cpy` (Table 1-8). -/
def decCpy (w : Nat) : Except DecodeErr Instr :=
  match fld w 21 4 with
  | 0 => done w [(25, 7)] (.cpySlot (regAt w 6) (regAt w 11) (regAt w 16))
  | 1 => done w [(29, 3)] (.cpyIn (BitVec.ofNat 4 (fld w 25 4)) (regAt w 6) (regAt w 11) (regAt w 16))
  | 2 => done w [(29, 3)] (.cpyOut (BitVec.ofNat 4 (fld w 25 4)) (regAt w 6) (regAt w 11) (regAt w 16))
  | 3 => done w [(16, 5), (25, 7)] (.cpyFree (regAt w 6) (regAt w 11))
  | 4 => done w [(25, 7)] (.cpyPin (regAt w 6) (regAt w 11) (regAt w 16))
  | 5 => done w [(16, 5), (25, 7)] (.cpyUnpin (regAt w 6) (regAt w 11))
  | _ => illegal

/-- Major opcode 0x1E, `til` (Table 1-8). -/
def decTil (w : Nat) : Except DecodeErr Instr :=
  match fld w 21 4 with
  | 0 => done w [(16, 5), (29, 3)] (.tilOpen (BitVec.ofNat 4 (fld w 25 4)) (regAt w 6) (regAt w 11))
  | 1 => done w [(16, 5), (25, 7)] (.tilClose (regAt w 6) (regAt w 11))
  | 2 => need (AcqMode.ofCode (fld w 29 3)) fun x => done w [] (.tilAcq x (BitVec.ofNat 4 (fld w 25 4)) (regAt w 6) (regAt w 11) (regAt w 16))
  | 3 => done w [(25, 7)] (.tilRel (regAt w 6) (regAt w 11) (regAt w 16))
  | 4 => done w [(25, 7)] (.tilGet (regAt w 6) (regAt w 11) (regAt w 16))
  | 5 => done w [(25, 7)] (.tilPut (regAt w 6) (regAt w 11) (regAt w 16))
  | _ => illegal

/-- Major opcode 0x1F, `xpf` (Table 1-8). -/
def decXpf (w : Nat) : Except DecodeErr Instr :=
  match fld w 21 4 with
  | 0 => done w [(16, 5), (25, 7)] (.xpfSnap (regAt w 6) (regAt w 11))
  | 1 => done w [(25, 7)] (.xpfReq (regAt w 6) (regAt w 11) (regAt w 16))
  | 2 => done w [(16, 5), (25, 7)] (.xpfCancel (regAt w 6) (regAt w 11))
  | _ => illegal

/-- Major opcode 0x20, `vfp` (Table 1-8). -/
def decVfp (w : Nat) : Except DecodeErr Instr :=
  match fld w 21 6 with
  | 0 => need (FTy.ofCode (fld w 30 2)) fun ty => done w [] (.vfpAdd ty (mregAt w 27) (regAt w 6) (regAt w 11) (regAt w 16))
  | 1 => need (FTy.ofCode (fld w 30 2)) fun ty => done w [] (.vfpSub ty (mregAt w 27) (regAt w 6) (regAt w 11) (regAt w 16))
  | 2 => need (FTy.ofCode (fld w 30 2)) fun ty => done w [] (.vfpMul ty (mregAt w 27) (regAt w 6) (regAt w 11) (regAt w 16))
  | 3 => need (FTy.ofCode (fld w 30 2)) fun ty => done w [] (.vfpDiv ty (mregAt w 27) (regAt w 6) (regAt w 11) (regAt w 16))
  | 4 => need (FTy.ofCode (fld w 30 2)) fun ty => done w [(16, 5)] (.vfpSqrt ty (mregAt w 27) (regAt w 6) (regAt w 11))
  | 5 => need (FTy.ofCode (fld w 30 2)) fun ty => done w [] (.vfpFma ty (mregAt w 27) (regAt w 6) (regAt w 11) (regAt w 16))
  | 6 => need (FTy.ofCode (fld w 30 2)) fun ty => done w [] (.vfpFms ty (mregAt w 27) (regAt w 6) (regAt w 11) (regAt w 16))
  | 7 => need (FTy.ofCode (fld w 30 2)) fun ty => done w [] (.vfpFnma ty (mregAt w 27) (regAt w 6) (regAt w 11) (regAt w 16))
  | 8 => need (FTy.ofCode (fld w 30 2)) fun ty => done w [] (.vfpMin ty (mregAt w 27) (regAt w 6) (regAt w 11) (regAt w 16))
  | 9 => need (FTy.ofCode (fld w 30 2)) fun ty => done w [] (.vfpMax ty (mregAt w 27) (regAt w 6) (regAt w 11) (regAt w 16))
  | 10 => need (FTy.ofCode (fld w 30 2)) fun ty => done w [(16, 5)] (.vfpAbs ty (mregAt w 27) (regAt w 6) (regAt w 11))
  | 11 => need (FTy.ofCode (fld w 30 2)) fun ty => done w [(16, 5)] (.vfpNeg ty (mregAt w 27) (regAt w 6) (regAt w 11))
  | 12 => need (FTy.ofCode (fld w 30 2)) fun ty => done w [] (.vfpSgnj ty (mregAt w 27) (regAt w 6) (regAt w 11) (regAt w 16))
  | 16 => match fld w 30 2 with
    | 0 => done w [(9, 2)] (.vfpCeq (mregAt w 27) (mregAt w 6) (regAt w 11) (regAt w 16))
    | _ => illegal
  | 17 => match fld w 30 2 with
    | 0 => done w [(9, 2)] (.vfpClt (mregAt w 27) (mregAt w 6) (regAt w 11) (regAt w 16))
    | _ => illegal
  | 18 => match fld w 30 2 with
    | 0 => done w [(9, 2)] (.vfpCle (mregAt w 27) (mregAt w 6) (regAt w 11) (regAt w 16))
    | _ => illegal
  | 19 => match fld w 30 2 with
    | 0 => done w [(9, 2)] (.vfpCun (mregAt w 27) (mregAt w 6) (regAt w 11) (regAt w 16))
    | _ => illegal
  | _ => illegal

/-- Major opcode 0x21, `vint` (Table 1-8). -/
def decVint (w : Nat) : Except DecodeErr Instr :=
  match fld w 21 6 with
  | 0 => need (ITy.ofCode (fld w 30 2)) fun ty => done w [] (.vintAdd ty (mregAt w 27) (regAt w 6) (regAt w 11) (regAt w 16))
  | 1 => need (ITy.ofCode (fld w 30 2)) fun ty => done w [] (.vintSub ty (mregAt w 27) (regAt w 6) (regAt w 11) (regAt w 16))
  | 2 => need (ITy.ofCode (fld w 30 2)) fun ty => done w [] (.vintAdds ty (mregAt w 27) (regAt w 6) (regAt w 11) (regAt w 16))
  | 3 => need (ITy.ofCode (fld w 30 2)) fun ty => done w [] (.vintAddus ty (mregAt w 27) (regAt w 6) (regAt w 11) (regAt w 16))
  | 4 => need (ITy.ofCode (fld w 30 2)) fun ty => done w [] (.vintSubs ty (mregAt w 27) (regAt w 6) (regAt w 11) (regAt w 16))
  | 5 => need (ITy.ofCode (fld w 30 2)) fun ty => done w [] (.vintSubus ty (mregAt w 27) (regAt w 6) (regAt w 11) (regAt w 16))
  | 6 => need (ITy.ofCode (fld w 30 2)) fun ty => done w [] (.vintMul ty (mregAt w 27) (regAt w 6) (regAt w 11) (regAt w 16))
  | 7 => need (ITy.ofCode (fld w 30 2)) fun ty => done w [] (.vintMulh ty (mregAt w 27) (regAt w 6) (regAt w 11) (regAt w 16))
  | 8 => need (ITy.ofCode (fld w 30 2)) fun ty => done w [] (.vintAnd ty (mregAt w 27) (regAt w 6) (regAt w 11) (regAt w 16))
  | 9 => need (ITy.ofCode (fld w 30 2)) fun ty => done w [] (.vintOr ty (mregAt w 27) (regAt w 6) (regAt w 11) (regAt w 16))
  | 10 => need (ITy.ofCode (fld w 30 2)) fun ty => done w [] (.vintXor ty (mregAt w 27) (regAt w 6) (regAt w 11) (regAt w 16))
  | 11 => need (ITy.ofCode (fld w 30 2)) fun ty => done w [] (.vintAndn ty (mregAt w 27) (regAt w 6) (regAt w 11) (regAt w 16))
  | 12 => need (ITy.ofCode (fld w 30 2)) fun ty => done w [] (.vintSll ty (mregAt w 27) (regAt w 6) (regAt w 11) (regAt w 16))
  | 13 => need (ITy.ofCode (fld w 30 2)) fun ty => done w [] (.vintSrl ty (mregAt w 27) (regAt w 6) (regAt w 11) (regAt w 16))
  | 14 => need (ITy.ofCode (fld w 30 2)) fun ty => done w [] (.vintSra ty (mregAt w 27) (regAt w 6) (regAt w 11) (regAt w 16))
  | 16 => need (ITy.ofCode (fld w 30 2)) fun ty => done w [] (.vintMin ty (mregAt w 27) (regAt w 6) (regAt w 11) (regAt w 16))
  | 17 => need (ITy.ofCode (fld w 30 2)) fun ty => done w [] (.vintMax ty (mregAt w 27) (regAt w 6) (regAt w 11) (regAt w 16))
  | 18 => need (ITy.ofCode (fld w 30 2)) fun ty => done w [] (.vintMinu ty (mregAt w 27) (regAt w 6) (regAt w 11) (regAt w 16))
  | 19 => need (ITy.ofCode (fld w 30 2)) fun ty => done w [] (.vintMaxu ty (mregAt w 27) (regAt w 6) (regAt w 11) (regAt w 16))
  | 24 => match fld w 30 2 with
    | 0 => done w [(9, 2)] (.vintCeq (mregAt w 27) (mregAt w 6) (regAt w 11) (regAt w 16))
    | _ => illegal
  | 25 => match fld w 30 2 with
    | 0 => done w [(9, 2)] (.vintClt (mregAt w 27) (mregAt w 6) (regAt w 11) (regAt w 16))
    | _ => illegal
  | 26 => match fld w 30 2 with
    | 0 => done w [(9, 2)] (.vintCltu (mregAt w 27) (mregAt w 6) (regAt w 11) (regAt w 16))
    | _ => illegal
  | _ => illegal

/-- Major opcode 0x22, `vcvt` (Table 1-8). -/
def decVcvt (w : Nat) : Except DecodeErr Instr :=
  match fld w 21 6 with
  | 0 => done w [(16, 5)] (.vcvtNf16l (CRnd.ofCode (fld w 30 2)) (mregAt w 27) (regAt w 6) (regAt w 11))
  | 1 => done w [(16, 5)] (.vcvtNf16h (CRnd.ofCode (fld w 30 2)) (mregAt w 27) (regAt w 6) (regAt w 11))
  | 2 => done w [(16, 5)] (.vcvtNbf16l (CRnd.ofCode (fld w 30 2)) (mregAt w 27) (regAt w 6) (regAt w 11))
  | 3 => done w [(16, 5)] (.vcvtNbf16h (CRnd.ofCode (fld w 30 2)) (mregAt w 27) (regAt w 6) (regAt w 11))
  | 4 => done w [(16, 5), (30, 2)] (.vcvtWf16l (mregAt w 27) (regAt w 6) (regAt w 11))
  | 5 => done w [(16, 5), (30, 2)] (.vcvtWf16h (mregAt w 27) (regAt w 6) (regAt w 11))
  | 6 => done w [(16, 5), (30, 2)] (.vcvtWbf16l (mregAt w 27) (regAt w 6) (regAt w 11))
  | 7 => done w [(16, 5), (30, 2)] (.vcvtWbf16h (mregAt w 27) (regAt w 6) (regAt w 11))
  | 8 => done w [(16, 5)] (.vcvtFtoi (CRnd.ofCode (fld w 30 2)) (mregAt w 27) (regAt w 6) (regAt w 11))
  | 9 => done w [(16, 5)] (.vcvtFtou (CRnd.ofCode (fld w 30 2)) (mregAt w 27) (regAt w 6) (regAt w 11))
  | 10 => done w [(16, 5)] (.vcvtItof (CRnd.ofCode (fld w 30 2)) (mregAt w 27) (regAt w 6) (regAt w 11))
  | 11 => done w [(16, 5)] (.vcvtUtof (CRnd.ofCode (fld w 30 2)) (mregAt w 27) (regAt w 6) (regAt w 11))
  | 12 => done w [(16, 5)] (.vcvtRint (CRnd.ofCode (fld w 30 2)) (mregAt w 27) (regAt w 6) (regAt w 11))
  | _ => illegal

/-- Major opcode 0x23, `vperm` (Table 1-8). -/
def decVperm (w : Nat) : Except DecodeErr Instr :=
  match fld w 21 6 with
  | 0 => need (FTy.ofCode (fld w 30 2)) fun ty => done w [(16, 5)] (.vpermFsum ty (mregAt w 27) (regAt w 6) (regAt w 11))
  | 1 => need (FTy.ofCode (fld w 30 2)) fun ty => done w [(16, 5)] (.vpermFmax ty (mregAt w 27) (regAt w 6) (regAt w 11))
  | 2 => need (FTy.ofCode (fld w 30 2)) fun ty => done w [(16, 5)] (.vpermFmin ty (mregAt w 27) (regAt w 6) (regAt w 11))
  | 4 => need (ITy.ofCode (fld w 30 2)) fun ty => done w [(16, 5)] (.vpermIsum ty (mregAt w 27) (regAt w 6) (regAt w 11))
  | 5 => need (ITy.ofCode (fld w 30 2)) fun ty => done w [(16, 5)] (.vpermImax ty (mregAt w 27) (regAt w 6) (regAt w 11))
  | 6 => need (ITy.ofCode (fld w 30 2)) fun ty => done w [(16, 5)] (.vpermImin ty (mregAt w 27) (regAt w 6) (regAt w 11))
  | 7 => need (ITy.ofCode (fld w 30 2)) fun ty => done w [(16, 5)] (.vpermImaxu ty (mregAt w 27) (regAt w 6) (regAt w 11))
  | 8 => need (ITy.ofCode (fld w 30 2)) fun ty => done w [(16, 5)] (.vpermIminu ty (mregAt w 27) (regAt w 6) (regAt w 11))
  | 16 => need (ITy.ofCode (fld w 30 2)) fun ty => done w [] (.vpermPerm ty (mregAt w 27) (regAt w 6) (regAt w 11) (regAt w 16))
  | 17 => need (ITy.ofCode (fld w 30 2)) fun ty => done w [] (.vpermBcl ty (mregAt w 27) (regAt w 6) (regAt w 11) (BitVec.ofNat 5 (fld w 16 5)))
  | 18 => need (ITy.ofCode (fld w 30 2)) fun ty => done w [] (.vpermRot ty (mregAt w 27) (regAt w 6) (regAt w 11) (BitVec.ofNat 5 (fld w 16 5)))
  | 19 => match fld w 30 2 with
    | 0 => done w [] (.vpermCmpr (mregAt w 27) (regAt w 6) (regAt w 11) (regAt w 16))
    | _ => illegal
  | 20 => match fld w 30 2 with
    | 0 => done w [] (.vpermExpd (mregAt w 27) (regAt w 6) (regAt w 11) (regAt w 16))
    | _ => illegal
  | _ => illegal

/-- Major opcode 0x24, `vbmm` (Table 1-8). -/
def decVbmm (w : Nat) : Except DecodeErr Instr :=
  match fld w 21 6 with
  | 0 => done w [] (.vbmmMma (GSize.ofCode (fld w 30 2)) (mregAt w 27) (regAt w 6) (regAt w 11) (regAt w 16))
  | 1 => done w [] (.vbmmMm (GSize.ofCode (fld w 30 2)) (mregAt w 27) (regAt w 6) (regAt w 11) (regAt w 16))
  | _ => illegal

/-- Major opcode 0x25, `vmsk` (Table 1-8). -/
def decVmsk (w : Nat) : Except DecodeErr Instr :=
  match fld w 21 6 with
  | 0 => done w [(9, 2), (14, 2), (19, 2), (27, 5)] (.vmskAnd (mregAt w 6) (mregAt w 11) (mregAt w 16))
  | 1 => done w [(9, 2), (14, 2), (19, 2), (27, 5)] (.vmskOr (mregAt w 6) (mregAt w 11) (mregAt w 16))
  | 2 => done w [(9, 2), (14, 2), (19, 2), (27, 5)] (.vmskXor (mregAt w 6) (mregAt w 11) (mregAt w 16))
  | 3 => done w [(9, 2), (14, 2), (19, 2), (27, 5)] (.vmskAndn (mregAt w 6) (mregAt w 11) (mregAt w 16))
  | 4 => done w [(9, 2), (14, 7), (27, 5)] (.vmskNot (mregAt w 6) (mregAt w 11))
  | 8 => done w [(9, 2), (16, 5), (27, 5)] (.vmskFromg (mregAt w 6) (regAt w 11))
  | 9 => done w [(14, 7), (27, 5)] (.vmskTog (regAt w 6) (mregAt w 11))
  | 10 => done w [(14, 7), (27, 5)] (.vmskPopc (regAt w 6) (mregAt w 11))
  | 11 => done w [(14, 7), (27, 5)] (.vmskFirst (regAt w 6) (mregAt w 11))
  | 12 => done w [(9, 2), (16, 5), (27, 5)] (.vmskPre (mregAt w 6) (regAt w 11))
  | 13 => done w [(9, 2), (16, 5), (27, 3)] (.vmskGlen (GSize.ofCode (fld w 30 2)) (mregAt w 6) (regAt w 11))
  | _ => illegal

/-- Major opcode 0x26, `vmov` (Table 1-8). -/
def decVmov (w : Nat) : Except DecodeErr Instr :=
  match fld w 21 6 with
  | 0 => need (ITy.ofCode (fld w 30 2)) fun ty => done w [(16, 5)] (.vmovMov ty (mregAt w 27) (regAt w 6) (regAt w 11))
  | 1 => need (ITy.ofCode (fld w 30 2)) fun ty => done w [] (.vmovSel ty (mregAt w 27) (regAt w 6) (regAt w 11) (regAt w 16))
  | 2 => need (ITy.ofCode (fld w 30 2)) fun ty => done w [(16, 5)] (.vmovBcg ty (mregAt w 27) (regAt w 6) (regAt w 11))
  | 3 => need (ITy.ofCode (fld w 30 2)) fun ty => done w [(27, 3)] (.vmovIns ty (regAt w 6) (regAt w 11) (regAt w 16))
  | 4 => need (ITy.ofCode (fld w 30 2)) fun ty => done w [(27, 3)] (.vmovExt ty (regAt w 6) (regAt w 11) (regAt w 16))
  | 5 => need (ITy.ofCode (fld w 30 2)) fun ty => done w [(11, 10)] (.vmovIota ty (mregAt w 27) (regAt w 6))
  | _ => illegal

/-- Major opcode 0x28, `gang` (Table 1-8). -/
def decGang (w : Nat) : Except DecodeErr Instr :=
  match fld w 21 4 with
  | 0 => done w [(16, 5), (29, 3)] (.gangMm (BitVec.ofNat 4 (fld w 25 4)) (regAt w 6) (regAt w 11))
  | 1 => done w [(11, 10), (29, 3)] (.gangPeg (BitVec.ofNat 4 (fld w 25 4)) (regAt w 6))
  | 4 => done w [(16, 5), (25, 7)] (.gangRdacc (regAt w 6) (regAt w 11))
  | 5 => done w [(16, 5), (25, 7)] (.gangWracc (regAt w 6) (regAt w 11))
  | 6 => done w [(6, 5), (16, 5), (25, 7)] (.gangZacc (regAt w 11))
  | _ => illegal

/-- Major opcode 0x29, `sprs` (Table 1-8). -/
def decSprs (w : Nat) : Except DecodeErr Instr :=
  match fld w 21 4 with
  | 0 => need (ElemTy.ofCode (fld w 29 3)) fun x => done w [(25, 4)] (.sprsScan x (regAt w 6) (regAt w 11) (regAt w 16))
  | 1 => need (ElemTy.ofCode (fld w 29 3)) fun x => done w [(16, 5), (25, 4)] (.sprsS24 x (regAt w 6) (regAt w 11))
  | _ => illegal

/-- Major opcode 0x2A, `lathe` (Table 1-8). -/
def decLathe (w : Nat) : Except DecodeErr Instr :=
  match fld w 21 4 with
  | 0 => done w [(29, 3)] (.latheReq (BitVec.ofNat 4 (fld w 25 4)) (regAt w 6) (regAt w 11) (regAt w 16))
  | _ => illegal

/-- Major opcode 0x2B, `grp` (Table 1-8). -/
def decGrp (w : Nat) : Except DecodeErr Instr :=
  match fld w 21 4 with
  | 0 => need (Scope.ofCode (fld w 29 3)) fun x => done w [(16, 5), (25, 4)] (.grpArrive x (regAt w 6) (regAt w 11))
  | 1 => need (Scope.ofCode (fld w 29 3)) fun x => done w [] (.grpWait x (BitVec.ofNat 4 (fld w 25 4)) (regAt w 6) (regAt w 11) (regAt w 16))
  | 2 => need (Scope.ofCode (fld w 29 3)) fun x => done w [(16, 5), (25, 4)] (.grpDrop x (regAt w 6) (regAt w 11))
  | 3 => done w [(16, 5), (25, 7)] (.grpInfo (regAt w 6) (regAt w 11))
  | 4 => done w [(11, 10), (29, 3)] (.grpQuiet (BitVec.ofNat 4 (fld w 25 4)) (regAt w 6))
  | _ => illegal

/-- Major opcode 0x2C, `sys` (Table 1-8). -/
def decSys (w : Nat) : Except DecodeErr Instr :=
  match fld w 24 4 with
  | 0 => need (KReg.ofCode (fld w 16 8)) fun k => done w [(11, 5), (28, 4)] (.sysRdk (regAt w 6) k)
  | 1 => need (KReg.ofCode (fld w 16 8)) fun k => done w [(6, 5), (28, 4)] (.sysWrk (regAt w 11) k)
  | 2 => need (KReg.ofCode (fld w 16 8)) fun k => done w [(6, 5), (28, 4)] (.sysSetk (regAt w 11) k)
  | 3 => need (KReg.ofCode (fld w 16 8)) fun k => done w [(6, 5), (28, 4)] (.sysClrk (regAt w 11) k)
  | 4 => need (TState.ofCode (fld w 16 8)) fun k => done w [(28, 4)] (.sysTread (regAt w 6) (regAt w 11) k)
  | 5 => need (TState.ofCode (fld w 16 8)) fun k => done w [(28, 4)] (.sysTwrite (regAt w 6) (regAt w 11) k)
  | 6 => done w [(6, 5), (16, 8), (28, 4)] (.sysTresume (regAt w 11))
  | 7 => done w [(6, 5), (16, 8), (28, 4)] (.sysTkill (regAt w 11))
  | 8 => done w [(6, 5), (28, 4)] (.sysCall (regAt w 11) (BitVec.ofNat 8 (fld w 16 8)))
  | 9 => done w [(6, 10), (28, 4)] (.sysBrk (BitVec.ofNat 8 (fld w 16 8)))
  | 10 => done w [(6, 18), (28, 4)] (.sysExit)
  | 11 => need (DTable.ofCode (fld w 16 8)) fun k => done w [(6, 5), (28, 4)] (.sysNuld (regAt w 11) k)
  | 12 => need (DTable.ofCode (fld w 16 8)) fun k => done w [(6, 5), (28, 4)] (.sysNust (regAt w 11) k)
  | 13 => done w [(16, 8), (28, 4)] (.sysTsave (regAt w 6) (regAt w 11))
  | 14 => done w [(16, 8), (28, 4)] (.sysTload (regAt w 6) (regAt w 11))
  | _ => illegal

/-- The instruction a word stands for, or its fate under steps 2 and 3 of R24. -/
def decode (w : Nat) : Except DecodeErr Instr :=
  match fld w 0 6 with
  | 1 => decOpi w
  | 2 => decAddi w
  | 3 => decAndi w
  | 4 => decOri w
  | 5 => decXori w
  | 6 => decSlti w
  | 7 => decSltiu w
  | 8 => decLui w
  | 9 => decAddpc w
  | 10 => decShi w
  | 11 => decMuldiv w
  | 12 => decBr w
  | 13 => decJal w
  | 14 => decJalr w
  | 15 => decRep w
  | 16 => decLd w
  | 17 => decSt w
  | 18 => decLds w
  | 19 => decSts w
  | 24 => decVlds w
  | 25 => decVsts w
  | 20 => decFe w
  | 21 => decAmo w
  | 22 => decOrd w
  | 23 => decKey w
  | 26 => decQst w
  | 27 => decBit w
  | 28 => decMsg w
  | 29 => decCpy w
  | 30 => decTil w
  | 31 => decXpf w
  | 32 => decVfp w
  | 33 => decVint w
  | 34 => decVcvt w
  | 35 => decVperm w
  | 36 => decVbmm w
  | 37 => decVmsk w
  | 38 => decVmov w
  | 40 => decGang w
  | 41 => decSprs w
  | 42 => decLathe w
  | 43 => decGrp w
  | 44 => decSys w
  | _ => illegal

/-- The word of an instruction (Tables 1-1 and 1-8); an event has none. -/
def encode : Instr → Option Nat
  | .opiAdd d a b => some (1 + 64 * d.val + 2048 * a.val + 65536 * b.val)
  | .opiSub d a b => some (1 + 2097152 + 64 * d.val + 2048 * a.val + 65536 * b.val)
  | .opiAnd d a b => some (1 + 4194304 + 64 * d.val + 2048 * a.val + 65536 * b.val)
  | .opiOr d a b => some (1 + 6291456 + 64 * d.val + 2048 * a.val + 65536 * b.val)
  | .opiXor d a b => some (1 + 8388608 + 64 * d.val + 2048 * a.val + 65536 * b.val)
  | .opiAndn d a b => some (1 + 10485760 + 64 * d.val + 2048 * a.val + 65536 * b.val)
  | .opiOrn d a b => some (1 + 12582912 + 64 * d.val + 2048 * a.val + 65536 * b.val)
  | .opiSll d a b => some (1 + 16777216 + 64 * d.val + 2048 * a.val + 65536 * b.val)
  | .opiSrl d a b => some (1 + 18874368 + 64 * d.val + 2048 * a.val + 65536 * b.val)
  | .opiSra d a b => some (1 + 20971520 + 64 * d.val + 2048 * a.val + 65536 * b.val)
  | .opiSlt d a b => some (1 + 25165824 + 64 * d.val + 2048 * a.val + 65536 * b.val)
  | .opiSltu d a b => some (1 + 27262976 + 64 * d.val + 2048 * a.val + 65536 * b.val)
  | .opiMin d a b => some (1 + 33554432 + 64 * d.val + 2048 * a.val + 65536 * b.val)
  | .opiMax d a b => some (1 + 35651584 + 64 * d.val + 2048 * a.val + 65536 * b.val)
  | .opiMinu d a b => some (1 + 37748736 + 64 * d.val + 2048 * a.val + 65536 * b.val)
  | .opiMaxu d a b => some (1 + 39845888 + 64 * d.val + 2048 * a.val + 65536 * b.val)
  | .opiSxb d a => some (1 + 50331648 + 64 * d.val + 2048 * a.val)
  | .opiSxh d a => some (1 + 52428800 + 64 * d.val + 2048 * a.val)
  | .opiSxw d a => some (1 + 54525952 + 64 * d.val + 2048 * a.val)
  | .opiZxb d a => some (1 + 58720256 + 64 * d.val + 2048 * a.val)
  | .opiZxh d a => some (1 + 60817408 + 64 * d.val + 2048 * a.val)
  | .opiZxw d a => some (1 + 62914560 + 64 * d.val + 2048 * a.val)
  | .addi d a imm => some (2 + 64 * d.val + 2048 * a.val + 65536 * imm.toNat)
  | .andi d a imm => some (3 + 64 * d.val + 2048 * a.val + 65536 * imm.toNat)
  | .ori d a imm => some (4 + 64 * d.val + 2048 * a.val + 65536 * imm.toNat)
  | .xori d a imm => some (5 + 64 * d.val + 2048 * a.val + 65536 * imm.toNat)
  | .slti d a imm => some (6 + 64 * d.val + 2048 * a.val + 65536 * imm.toNat)
  | .sltiu d a imm => some (7 + 64 * d.val + 2048 * a.val + 65536 * imm.toNat)
  | .lui d imm => some (8 + 64 * d.val + 2048 * imm.toNat)
  | .addpc d imm => some (9 + 64 * d.val + 2048 * imm.toNat)
  | .shiSlli d a sh => some (10 + 64 * d.val + 2048 * a.val + 268435456 * (sh.toNat / 32) + 65536 * (sh.toNat % 32))
  | .shiSrli d a sh => some (10 + 2097152 + 64 * d.val + 2048 * a.val + 268435456 * (sh.toNat / 32) + 65536 * (sh.toNat % 32))
  | .shiSrai d a sh => some (10 + 4194304 + 64 * d.val + 2048 * a.val + 268435456 * (sh.toNat / 32) + 65536 * (sh.toNat % 32))
  | .shiRori d a sh => some (10 + 6291456 + 64 * d.val + 2048 * a.val + 268435456 * (sh.toNat / 32) + 65536 * (sh.toNat % 32))
  | .shiClz d a => some (10 + 33554432 + 64 * d.val + 2048 * a.val)
  | .shiCtz d a => some (10 + 35651584 + 64 * d.val + 2048 * a.val)
  | .shiPopc d a => some (10 + 37748736 + 64 * d.val + 2048 * a.val)
  | .shiBrev d a => some (10 + 39845888 + 64 * d.val + 2048 * a.val)
  | .shiBswap d a => some (10 + 41943040 + 64 * d.val + 2048 * a.val)
  | .muldivMul d a b => some (11 + 64 * d.val + 2048 * a.val + 65536 * b.val)
  | .muldivMulh d a b => some (11 + 2097152 + 64 * d.val + 2048 * a.val + 65536 * b.val)
  | .muldivMulhu d a b => some (11 + 4194304 + 64 * d.val + 2048 * a.val + 65536 * b.val)
  | .muldivMulhsu d a b => some (11 + 6291456 + 64 * d.val + 2048 * a.val + 65536 * b.val)
  | .muldivDiv d a b => some (11 + 16777216 + 64 * d.val + 2048 * a.val + 65536 * b.val)
  | .muldivDivu d a b => some (11 + 18874368 + 64 * d.val + 2048 * a.val + 65536 * b.val)
  | .muldivRem d a b => some (11 + 20971520 + 64 * d.val + 2048 * a.val + 65536 * b.val)
  | .muldivRemu d a b => some (11 + 23068672 + 64 * d.val + 2048 * a.val + 65536 * b.val)
  | .brEq a b off => some (12 + 64 * a.val + 2048 * b.val + 524288 * off.toNat)
  | .brNe a b off => some (12 + 65536 + 64 * a.val + 2048 * b.val + 524288 * off.toNat)
  | .brLt a b off => some (12 + 131072 + 64 * a.val + 2048 * b.val + 524288 * off.toNat)
  | .brGe a b off => some (12 + 196608 + 64 * a.val + 2048 * b.val + 524288 * off.toNat)
  | .brLtu a b off => some (12 + 262144 + 64 * a.val + 2048 * b.val + 524288 * off.toNat)
  | .brGeu a b off => some (12 + 327680 + 64 * a.val + 2048 * b.val + 524288 * off.toNat)
  | .brAny a b off => some (12 + 393216 + 64 * a.val + 2048 * b.val + 524288 * off.toNat)
  | .brNone a b off => some (12 + 458752 + 64 * a.val + 2048 * b.val + 524288 * off.toNat)
  | .jal d off => some (13 + 64 * d.val + 2048 * off.toNat)
  | .jalr d a imm => some (14 + 64 * d.val + 2048 * a.val + 65536 * imm.toNat)
  | .rep n len sd sa sb => some (15 + 64 * n.toNat + 16384 * len.toNat + 262144 * sd.toNat + 4194304 * sa.toNat + 67108864 * sb.toNat)
  | .repeatFrameIssue => none
  | .ldPlain sz d a off => some (16 + 65536 * sz.code + 64 * d.val + 2048 * a.val + 2097152 * off.toNat)
  | .ldTiled sz d a off => some (16 + 524288 + 65536 * sz.code + 64 * d.val + 2048 * a.val + 2097152 * off.toNat)
  | .ldDevice sz d a off => some (16 + 1572864 + 65536 * sz.code + 64 * d.val + 2048 * a.val + 2097152 * off.toNat)
  | .stPlain sz d a off => some (17 + 65536 * sz.code + 64 * d.val + 2048 * a.val + 2097152 * off.toNat)
  | .stTiled sz d a off => some (17 + 524288 + 65536 * sz.code + 64 * d.val + 2048 * a.val + 2097152 * off.toNat)
  | .stDevice sz d a off => some (17 + 1572864 + 65536 * sz.code + 64 * d.val + 2048 * a.val + 2097152 * off.toNat)
  | .lds sz d a off => some (18 + 65536 * sz.code + 64 * d.val + 2048 * a.val + 2097152 * off.toNat)
  | .sts sz d a off => some (19 + 65536 * sz.code + 64 * d.val + 2048 * a.val + 2097152 * off.toNat)
  | .vlds d a off => some (24 + 327680 + 64 * d.val + 2048 * a.val + 2097152 * off.toNat)
  | .vsts d a off => some (25 + 327680 + 64 * d.val + 2048 * a.val + 2097152 * off.toNat)
  | .feTake d a off => some (20 + 196608 + 64 * d.val + 2048 * a.val + 2097152 * off.toNat)
  | .fePut d a off => some (20 + 196608 + 524288 + 64 * d.val + 2048 * a.val + 2097152 * off.toNat)
  | .feSload d a off => some (20 + 196608 + 1048576 + 64 * d.val + 2048 * a.val + 2097152 * off.toNat)
  | .feFill d a off => some (20 + 196608 + 1572864 + 64 * d.val + 2048 * a.val + 2097152 * off.toNat)
  | .amoSwap x d a b => some (21 + 536870912 * x.code + 64 * d.val + 2048 * a.val + 65536 * b.val)
  | .amoAdd x d a b => some (21 + 2097152 + 536870912 * x.code + 64 * d.val + 2048 * a.val + 65536 * b.val)
  | .amoAnd x d a b => some (21 + 4194304 + 536870912 * x.code + 64 * d.val + 2048 * a.val + 65536 * b.val)
  | .amoOr x d a b => some (21 + 6291456 + 536870912 * x.code + 64 * d.val + 2048 * a.val + 65536 * b.val)
  | .amoXor x d a b => some (21 + 8388608 + 536870912 * x.code + 64 * d.val + 2048 * a.val + 65536 * b.val)
  | .amoMin x d a b => some (21 + 10485760 + 536870912 * x.code + 64 * d.val + 2048 * a.val + 65536 * b.val)
  | .amoMax x d a b => some (21 + 12582912 + 536870912 * x.code + 64 * d.val + 2048 * a.val + 65536 * b.val)
  | .amoMinu x d a b => some (21 + 14680064 + 536870912 * x.code + 64 * d.val + 2048 * a.val + 65536 * b.val)
  | .amoMaxu x d a b => some (21 + 16777216 + 536870912 * x.code + 64 * d.val + 2048 * a.val + 65536 * b.val)
  | .amoCas x d a b => some (21 + 18874368 + 536870912 * x.code + 64 * d.val + 2048 * a.val + 65536 * b.val)
  | .ordAcq x => some (22 + 536870912 * x.code)
  | .ordRel x => some (22 + 2097152 + 536870912 * x.code)
  | .ordFence x => some (22 + 4194304 + 536870912 * x.code)
  | .ordLda x sz d a => some (22 + 8388608 + 536870912 * x.code + 2097152 * sz.code + 64 * d.val + 2048 * a.val)
  | .ordStl x sz a b => some (22 + 16777216 + 536870912 * x.code + 2097152 * sz.code + 2048 * a.val + 65536 * b.val)
  | .keyUpd x e d a b => some (23 + 536870912 * x.code + 33554432 * e.toNat + 64 * d.val + 2048 * a.val + 65536 * b.val)
  | .keyLd x d a => some (23 + 2097152 + 536870912 * x.code + 64 * d.val + 2048 * a.val)
  | .keyLdx d a => some (23 + 4194304 + 2684354560 + 64 * d.val + 2048 * a.val)
  | .keyPub x e d => some (23 + 6291456 + 536870912 * x.code + 33554432 * e.toNat + 64 * d.val)
  | .keyFixDrop d a b => some (23 + 8388608 + 64 * d.val + 2048 * a.val + 65536 * b.val)
  | .keyFixSet d a b => some (23 + 8388608 + 536870912 + 64 * d.val + 2048 * a.val + 65536 * b.val)
  | .keyResume d a => some (23 + 10485760 + 64 * d.val + 2048 * a.val)
  | .keyInfo d a => some (23 + 12582912 + 64 * d.val + 2048 * a.val)
  | .qstQ w imm sp d a off => some (26 + 65536 * w.code + 131072 * imm.toNat + 262144 * sp.toNat + 64 * d.val + 2048 * a.val + 2097152 * off.toNat)
  | .qstBl w sp d a off => some (26 + 524288 + 65536 * w.code + 262144 * sp.toNat + 64 * d.val + 2048 * a.val + 2097152 * off.toNat)
  | .bitInit d a k => some (27 + 64 * d.val + 2048 * a.val + 65536 * k.toNat)
  | .bitPeek d k => some (27 + 16777216 + 64 * d.val + 65536 * k.toNat)
  | .bitGet d k => some (27 + 33554432 + 64 * d.val + 65536 * k.toNat)
  | .bitSkip k => some (27 + 50331648 + 65536 * k.toNat)
  | .bitGetv d a => some (27 + 67108864 + 64 * d.val + 2048 * a.val)
  | .bitUnar d => some (27 + 83886080 + 64 * d.val)
  | .bitTell d => some (27 + 100663296 + 64 * d.val)
  | .bitAvail d => some (27 + 117440512 + 64 * d.val)
  | .msgPut a => some (28 + 2048 * a.val)
  | .msgSend e d a b => some (28 + 2097152 + 33554432 * e.toNat + 64 * d.val + 2048 * a.val + 65536 * b.val)
  | .msgRecv e d a b => some (28 + 4194304 + 33554432 * e.toNat + 64 * d.val + 2048 * a.val + 65536 * b.val)
  | .msgWait e d a => some (28 + 6291456 + 33554432 * e.toNat + 64 * d.val + 2048 * a.val)
  | .msgAlt e d a => some (28 + 8388608 + 33554432 * e.toNat + 64 * d.val + 2048 * a.val)
  | .msgGrant d a b => some (28 + 10485760 + 64 * d.val + 2048 * a.val + 65536 * b.val)
  | .msgDrop => some (28 + 12582912)
  | .cpySlot d a b => some (29 + 64 * d.val + 2048 * a.val + 65536 * b.val)
  | .cpyIn e d a b => some (29 + 2097152 + 33554432 * e.toNat + 64 * d.val + 2048 * a.val + 65536 * b.val)
  | .cpyOut e d a b => some (29 + 4194304 + 33554432 * e.toNat + 64 * d.val + 2048 * a.val + 65536 * b.val)
  | .cpyFree d a => some (29 + 6291456 + 64 * d.val + 2048 * a.val)
  | .cpyPin d a b => some (29 + 8388608 + 64 * d.val + 2048 * a.val + 65536 * b.val)
  | .cpyUnpin d a => some (29 + 10485760 + 64 * d.val + 2048 * a.val)
  | .tilOpen e d a => some (30 + 33554432 * e.toNat + 64 * d.val + 2048 * a.val)
  | .tilClose d a => some (30 + 2097152 + 64 * d.val + 2048 * a.val)
  | .tilAcq x e d a b => some (30 + 4194304 + 536870912 * x.code + 33554432 * e.toNat + 64 * d.val + 2048 * a.val + 65536 * b.val)
  | .tilRel d a b => some (30 + 6291456 + 64 * d.val + 2048 * a.val + 65536 * b.val)
  | .tilGet d a b => some (30 + 8388608 + 64 * d.val + 2048 * a.val + 65536 * b.val)
  | .tilPut d a b => some (30 + 10485760 + 64 * d.val + 2048 * a.val + 65536 * b.val)
  | .xpfSnap d a => some (31 + 64 * d.val + 2048 * a.val)
  | .xpfReq d a b => some (31 + 2097152 + 64 * d.val + 2048 * a.val + 65536 * b.val)
  | .xpfCancel d a => some (31 + 4194304 + 64 * d.val + 2048 * a.val)
  | .vfpAdd ty m d a b => some (32 + 1073741824 * ty.code + 134217728 * m.val + 64 * d.val + 2048 * a.val + 65536 * b.val)
  | .vfpSub ty m d a b => some (32 + 2097152 + 1073741824 * ty.code + 134217728 * m.val + 64 * d.val + 2048 * a.val + 65536 * b.val)
  | .vfpMul ty m d a b => some (32 + 4194304 + 1073741824 * ty.code + 134217728 * m.val + 64 * d.val + 2048 * a.val + 65536 * b.val)
  | .vfpDiv ty m d a b => some (32 + 6291456 + 1073741824 * ty.code + 134217728 * m.val + 64 * d.val + 2048 * a.val + 65536 * b.val)
  | .vfpSqrt ty m d a => some (32 + 8388608 + 1073741824 * ty.code + 134217728 * m.val + 64 * d.val + 2048 * a.val)
  | .vfpFma ty m d a b => some (32 + 10485760 + 1073741824 * ty.code + 134217728 * m.val + 64 * d.val + 2048 * a.val + 65536 * b.val)
  | .vfpFms ty m d a b => some (32 + 12582912 + 1073741824 * ty.code + 134217728 * m.val + 64 * d.val + 2048 * a.val + 65536 * b.val)
  | .vfpFnma ty m d a b => some (32 + 14680064 + 1073741824 * ty.code + 134217728 * m.val + 64 * d.val + 2048 * a.val + 65536 * b.val)
  | .vfpMin ty m d a b => some (32 + 16777216 + 1073741824 * ty.code + 134217728 * m.val + 64 * d.val + 2048 * a.val + 65536 * b.val)
  | .vfpMax ty m d a b => some (32 + 18874368 + 1073741824 * ty.code + 134217728 * m.val + 64 * d.val + 2048 * a.val + 65536 * b.val)
  | .vfpAbs ty m d a => some (32 + 20971520 + 1073741824 * ty.code + 134217728 * m.val + 64 * d.val + 2048 * a.val)
  | .vfpNeg ty m d a => some (32 + 23068672 + 1073741824 * ty.code + 134217728 * m.val + 64 * d.val + 2048 * a.val)
  | .vfpSgnj ty m d a b => some (32 + 25165824 + 1073741824 * ty.code + 134217728 * m.val + 64 * d.val + 2048 * a.val + 65536 * b.val)
  | .vfpCeq m d a b => some (32 + 33554432 + 134217728 * m.val + 64 * d.val + 2048 * a.val + 65536 * b.val)
  | .vfpClt m d a b => some (32 + 35651584 + 134217728 * m.val + 64 * d.val + 2048 * a.val + 65536 * b.val)
  | .vfpCle m d a b => some (32 + 37748736 + 134217728 * m.val + 64 * d.val + 2048 * a.val + 65536 * b.val)
  | .vfpCun m d a b => some (32 + 39845888 + 134217728 * m.val + 64 * d.val + 2048 * a.val + 65536 * b.val)
  | .vintAdd ty m d a b => some (33 + 1073741824 * ty.code + 134217728 * m.val + 64 * d.val + 2048 * a.val + 65536 * b.val)
  | .vintSub ty m d a b => some (33 + 2097152 + 1073741824 * ty.code + 134217728 * m.val + 64 * d.val + 2048 * a.val + 65536 * b.val)
  | .vintAdds ty m d a b => some (33 + 4194304 + 1073741824 * ty.code + 134217728 * m.val + 64 * d.val + 2048 * a.val + 65536 * b.val)
  | .vintAddus ty m d a b => some (33 + 6291456 + 1073741824 * ty.code + 134217728 * m.val + 64 * d.val + 2048 * a.val + 65536 * b.val)
  | .vintSubs ty m d a b => some (33 + 8388608 + 1073741824 * ty.code + 134217728 * m.val + 64 * d.val + 2048 * a.val + 65536 * b.val)
  | .vintSubus ty m d a b => some (33 + 10485760 + 1073741824 * ty.code + 134217728 * m.val + 64 * d.val + 2048 * a.val + 65536 * b.val)
  | .vintMul ty m d a b => some (33 + 12582912 + 1073741824 * ty.code + 134217728 * m.val + 64 * d.val + 2048 * a.val + 65536 * b.val)
  | .vintMulh ty m d a b => some (33 + 14680064 + 1073741824 * ty.code + 134217728 * m.val + 64 * d.val + 2048 * a.val + 65536 * b.val)
  | .vintAnd ty m d a b => some (33 + 16777216 + 1073741824 * ty.code + 134217728 * m.val + 64 * d.val + 2048 * a.val + 65536 * b.val)
  | .vintOr ty m d a b => some (33 + 18874368 + 1073741824 * ty.code + 134217728 * m.val + 64 * d.val + 2048 * a.val + 65536 * b.val)
  | .vintXor ty m d a b => some (33 + 20971520 + 1073741824 * ty.code + 134217728 * m.val + 64 * d.val + 2048 * a.val + 65536 * b.val)
  | .vintAndn ty m d a b => some (33 + 23068672 + 1073741824 * ty.code + 134217728 * m.val + 64 * d.val + 2048 * a.val + 65536 * b.val)
  | .vintSll ty m d a b => some (33 + 25165824 + 1073741824 * ty.code + 134217728 * m.val + 64 * d.val + 2048 * a.val + 65536 * b.val)
  | .vintSrl ty m d a b => some (33 + 27262976 + 1073741824 * ty.code + 134217728 * m.val + 64 * d.val + 2048 * a.val + 65536 * b.val)
  | .vintSra ty m d a b => some (33 + 29360128 + 1073741824 * ty.code + 134217728 * m.val + 64 * d.val + 2048 * a.val + 65536 * b.val)
  | .vintMin ty m d a b => some (33 + 33554432 + 1073741824 * ty.code + 134217728 * m.val + 64 * d.val + 2048 * a.val + 65536 * b.val)
  | .vintMax ty m d a b => some (33 + 35651584 + 1073741824 * ty.code + 134217728 * m.val + 64 * d.val + 2048 * a.val + 65536 * b.val)
  | .vintMinu ty m d a b => some (33 + 37748736 + 1073741824 * ty.code + 134217728 * m.val + 64 * d.val + 2048 * a.val + 65536 * b.val)
  | .vintMaxu ty m d a b => some (33 + 39845888 + 1073741824 * ty.code + 134217728 * m.val + 64 * d.val + 2048 * a.val + 65536 * b.val)
  | .vintCeq m d a b => some (33 + 50331648 + 134217728 * m.val + 64 * d.val + 2048 * a.val + 65536 * b.val)
  | .vintClt m d a b => some (33 + 52428800 + 134217728 * m.val + 64 * d.val + 2048 * a.val + 65536 * b.val)
  | .vintCltu m d a b => some (33 + 54525952 + 134217728 * m.val + 64 * d.val + 2048 * a.val + 65536 * b.val)
  | .vcvtNf16l ty m d a => some (34 + 1073741824 * ty.code + 134217728 * m.val + 64 * d.val + 2048 * a.val)
  | .vcvtNf16h ty m d a => some (34 + 2097152 + 1073741824 * ty.code + 134217728 * m.val + 64 * d.val + 2048 * a.val)
  | .vcvtNbf16l ty m d a => some (34 + 4194304 + 1073741824 * ty.code + 134217728 * m.val + 64 * d.val + 2048 * a.val)
  | .vcvtNbf16h ty m d a => some (34 + 6291456 + 1073741824 * ty.code + 134217728 * m.val + 64 * d.val + 2048 * a.val)
  | .vcvtWf16l m d a => some (34 + 8388608 + 134217728 * m.val + 64 * d.val + 2048 * a.val)
  | .vcvtWf16h m d a => some (34 + 10485760 + 134217728 * m.val + 64 * d.val + 2048 * a.val)
  | .vcvtWbf16l m d a => some (34 + 12582912 + 134217728 * m.val + 64 * d.val + 2048 * a.val)
  | .vcvtWbf16h m d a => some (34 + 14680064 + 134217728 * m.val + 64 * d.val + 2048 * a.val)
  | .vcvtFtoi ty m d a => some (34 + 16777216 + 1073741824 * ty.code + 134217728 * m.val + 64 * d.val + 2048 * a.val)
  | .vcvtFtou ty m d a => some (34 + 18874368 + 1073741824 * ty.code + 134217728 * m.val + 64 * d.val + 2048 * a.val)
  | .vcvtItof ty m d a => some (34 + 20971520 + 1073741824 * ty.code + 134217728 * m.val + 64 * d.val + 2048 * a.val)
  | .vcvtUtof ty m d a => some (34 + 23068672 + 1073741824 * ty.code + 134217728 * m.val + 64 * d.val + 2048 * a.val)
  | .vcvtRint ty m d a => some (34 + 25165824 + 1073741824 * ty.code + 134217728 * m.val + 64 * d.val + 2048 * a.val)
  | .vpermFsum ty m d a => some (35 + 1073741824 * ty.code + 134217728 * m.val + 64 * d.val + 2048 * a.val)
  | .vpermFmax ty m d a => some (35 + 2097152 + 1073741824 * ty.code + 134217728 * m.val + 64 * d.val + 2048 * a.val)
  | .vpermFmin ty m d a => some (35 + 4194304 + 1073741824 * ty.code + 134217728 * m.val + 64 * d.val + 2048 * a.val)
  | .vpermIsum ty m d a => some (35 + 8388608 + 1073741824 * ty.code + 134217728 * m.val + 64 * d.val + 2048 * a.val)
  | .vpermImax ty m d a => some (35 + 10485760 + 1073741824 * ty.code + 134217728 * m.val + 64 * d.val + 2048 * a.val)
  | .vpermImin ty m d a => some (35 + 12582912 + 1073741824 * ty.code + 134217728 * m.val + 64 * d.val + 2048 * a.val)
  | .vpermImaxu ty m d a => some (35 + 14680064 + 1073741824 * ty.code + 134217728 * m.val + 64 * d.val + 2048 * a.val)
  | .vpermIminu ty m d a => some (35 + 16777216 + 1073741824 * ty.code + 134217728 * m.val + 64 * d.val + 2048 * a.val)
  | .vpermPerm ty m d a b => some (35 + 33554432 + 1073741824 * ty.code + 134217728 * m.val + 64 * d.val + 2048 * a.val + 65536 * b.val)
  | .vpermBcl ty m d a n => some (35 + 35651584 + 1073741824 * ty.code + 134217728 * m.val + 64 * d.val + 2048 * a.val + 65536 * n.toNat)
  | .vpermRot ty m d a n => some (35 + 37748736 + 1073741824 * ty.code + 134217728 * m.val + 64 * d.val + 2048 * a.val + 65536 * n.toNat)
  | .vpermCmpr m d a b => some (35 + 39845888 + 134217728 * m.val + 64 * d.val + 2048 * a.val + 65536 * b.val)
  | .vpermExpd m d a b => some (35 + 41943040 + 134217728 * m.val + 64 * d.val + 2048 * a.val + 65536 * b.val)
  | .vbmmMma ty m d a b => some (36 + 1073741824 * ty.code + 134217728 * m.val + 64 * d.val + 2048 * a.val + 65536 * b.val)
  | .vbmmMm ty m d a b => some (36 + 2097152 + 1073741824 * ty.code + 134217728 * m.val + 64 * d.val + 2048 * a.val + 65536 * b.val)
  | .vmskAnd d a b => some (37 + 64 * d.val + 2048 * a.val + 65536 * b.val)
  | .vmskOr d a b => some (37 + 2097152 + 64 * d.val + 2048 * a.val + 65536 * b.val)
  | .vmskXor d a b => some (37 + 4194304 + 64 * d.val + 2048 * a.val + 65536 * b.val)
  | .vmskAndn d a b => some (37 + 6291456 + 64 * d.val + 2048 * a.val + 65536 * b.val)
  | .vmskNot d a => some (37 + 8388608 + 64 * d.val + 2048 * a.val)
  | .vmskFromg d a => some (37 + 16777216 + 64 * d.val + 2048 * a.val)
  | .vmskTog d a => some (37 + 18874368 + 64 * d.val + 2048 * a.val)
  | .vmskPopc d a => some (37 + 20971520 + 64 * d.val + 2048 * a.val)
  | .vmskFirst d a => some (37 + 23068672 + 64 * d.val + 2048 * a.val)
  | .vmskPre d a => some (37 + 25165824 + 64 * d.val + 2048 * a.val)
  | .vmskGlen ty d a => some (37 + 27262976 + 1073741824 * ty.code + 64 * d.val + 2048 * a.val)
  | .vmovMov ty m d a => some (38 + 1073741824 * ty.code + 134217728 * m.val + 64 * d.val + 2048 * a.val)
  | .vmovSel ty m d a b => some (38 + 2097152 + 1073741824 * ty.code + 134217728 * m.val + 64 * d.val + 2048 * a.val + 65536 * b.val)
  | .vmovBcg ty m d a => some (38 + 4194304 + 1073741824 * ty.code + 134217728 * m.val + 64 * d.val + 2048 * a.val)
  | .vmovIns ty d a b => some (38 + 6291456 + 1073741824 * ty.code + 64 * d.val + 2048 * a.val + 65536 * b.val)
  | .vmovExt ty d a b => some (38 + 8388608 + 1073741824 * ty.code + 64 * d.val + 2048 * a.val + 65536 * b.val)
  | .vmovIota ty m d => some (38 + 10485760 + 1073741824 * ty.code + 134217728 * m.val + 64 * d.val)
  | .gangMm e d a => some (40 + 33554432 * e.toNat + 64 * d.val + 2048 * a.val)
  | .gangPeg e d => some (40 + 2097152 + 33554432 * e.toNat + 64 * d.val)
  | .gangRdacc d a => some (40 + 8388608 + 64 * d.val + 2048 * a.val)
  | .gangWracc d a => some (40 + 10485760 + 64 * d.val + 2048 * a.val)
  | .gangZacc a => some (40 + 12582912 + 2048 * a.val)
  | .gangPartComplete _ _ => none
  | .sprsScan x d a b => some (41 + 536870912 * x.code + 64 * d.val + 2048 * a.val + 65536 * b.val)
  | .sprsS24 x d a => some (41 + 2097152 + 536870912 * x.code + 64 * d.val + 2048 * a.val)
  | .latheReq e d a b => some (42 + 33554432 * e.toNat + 64 * d.val + 2048 * a.val + 65536 * b.val)
  | .latheRequestStart _ => none
  | .latheReply _ => none
  | .grpArrive x d a => some (43 + 536870912 * x.code + 64 * d.val + 2048 * a.val)
  | .grpWait x e d a b => some (43 + 2097152 + 536870912 * x.code + 33554432 * e.toNat + 64 * d.val + 2048 * a.val + 65536 * b.val)
  | .grpDrop x d a => some (43 + 4194304 + 536870912 * x.code + 64 * d.val + 2048 * a.val)
  | .grpInfo d a => some (43 + 6291456 + 64 * d.val + 2048 * a.val)
  | .grpQuiet e d => some (43 + 8388608 + 33554432 * e.toNat + 64 * d.val)
  | .sysRdk d k => some (44 + 64 * d.val + 65536 * k.code)
  | .sysWrk a k => some (44 + 16777216 + 2048 * a.val + 65536 * k.code)
  | .sysSetk a k => some (44 + 33554432 + 2048 * a.val + 65536 * k.code)
  | .sysClrk a k => some (44 + 50331648 + 2048 * a.val + 65536 * k.code)
  | .sysTread d a k => some (44 + 67108864 + 64 * d.val + 2048 * a.val + 65536 * k.code)
  | .sysTwrite d a k => some (44 + 83886080 + 64 * d.val + 2048 * a.val + 65536 * k.code)
  | .sysTresume a => some (44 + 100663296 + 2048 * a.val)
  | .sysTkill a => some (44 + 117440512 + 2048 * a.val)
  | .sysCall a k => some (44 + 134217728 + 2048 * a.val + 65536 * k.toNat)
  | .sysBrk k => some (44 + 150994944 + 65536 * k.toNat)
  | .sysExit => some (44 + 167772160)
  | .sysNuld a k => some (44 + 184549376 + 2048 * a.val + 65536 * k.code)
  | .sysNust a k => some (44 + 201326592 + 2048 * a.val + 65536 * k.code)
  | .sysTsave d a => some (44 + 218103808 + 64 * d.val + 2048 * a.val)
  | .sysTload d a => some (44 + 234881024 + 64 * d.val + 2048 * a.val)
  | .waitExpiry _ => none
  | .replyArrival _ => none
  | .messageArrival => none
  | .trapQueueDelivery _ => none
  | .contextSaveComplete _ => none
  | .saveDeferralReport _ => none
  | .icacheMissFill _ => none
  | .pageWalkComplete _ => none
  | .homeRequestArrival _ => none
  | .flitCheckFailure _ _ => none
  | .linkRetrainFailure _ => none
  | .tenureGrant _ => none
  | .recallDeadlineExpiry _ => none
  | .battenMergeStep _ => none
  | .purlinDrainStep _ => none
  | .beamSettleStep _ _ => none
  | .beamIdleSettle _ _ => none
  | .mscFilterClear _ => none
  | .copyCompletion _ _ => none
  | .prefetchServe _ => none
  | .prefetchDeadline _ => none
  | .quiescenceWave _ => none
  | .launchStart _ => none
  | .multiDieLaunchStart => none
  | .launchPriorityPromotion _ => none
  | .launchEnd _ => none
  | .launchSaveComplete _ => none
  | .launchResumeStart _ => none
  | .lqSubmit _ _ => none
  | .lqPreempt _ _ => none
  | .lqResume _ _ => none
  | .lqStop _ _ => none
  | .lqFree _ _ => none
  | .deviceRegisterWrite _ _ _ => none
  | .dclkTargetWrite _ _ => none
  | .clockRelockEnd _ => none
  | .thermalStepDown _ => none
  | .thermalRecovery _ => none
  | .hbmRetrainRequest _ _ _ => none
  | .retrainDeferralExpiry _ _ => none
  | .hbmPhyError _ _ => none
  | .unmapMigrate _ _ _ => none
  | .dieOfflineMark _ => none
  | .heartbeatTimeout _ => none
  | .thermalOfflineTimeout _ => none
  | .exportWindow _ => none
  | .unexportWindow _ => none
  | .diestat _ => none
  | .krestore _ => none
  | .callAttest _ => none
  | .rread _ => none
  | .rwrite _ => none
  | .ramo _ => none
  | .rkey _ => none
  | .rmsg _ => none
  | .remoteOpArrival _ => none
  | .remoteCallTimeout _ => none
  | .lateReplyDiscard _ => none
  | .hostLoad _ _ => none
  | .hostSubmit _ _ _ _ => none
  | .hostPreempt _ _ => none
  | .hostResume _ _ => none
  | .hostStop _ _ => none
  | .hostRead _ _ _ _ => none
  | .hostWrite _ _ _ _ => none
  | .hostCkpt _ => none
  | .hostAttest _ _ _ => none
  | .hostStatus _ => none
  | .hostUnload _ _ => none
  | .portDown _ => none
  | .startUp _ => none
  | .remoteReplyArrival _ => none
  | .hbmRetrainEnd _ _ _ => none
  | .cxlLinkDown _ => none

/-- The form a word selects for the stagger of R160: its register fields at [10:6], [15:11] and [20:16], each none,
a vector or mask field, or a `g` field. -/
inductive FieldUse where
  | unused
  | plain
  | gpr
  deriving DecidableEq, Repr

/-- No register field is staggered. -/
def noUses : FieldUse × FieldUse × FieldUse := (.unused, .unused, .unused)

/-- The register fields of the form a word selects, by [10:6], [15:11] and [20:16] (R160). Of a word that selects no
allocated form the spec does not say which fields are used; the model's choice here is log entry 68. -/
def fieldUses (w : Nat) : FieldUse × FieldUse × FieldUse :=
  match fld w 0 6 with
  | 1 =>
    match fld w 21 7 with
    | 0 | 1 | 2 | 3 | 4 | 5 | 6 | 8 | 9 | 10 | 12 | 13 | 16 | 17 | 18 | 19 => (.gpr, .gpr, .gpr)
    | 24 | 25 | 26 | 28 | 29 | 30 => (.gpr, .gpr, .unused)
    | _ => noUses
  | 2 =>
    (.gpr, .gpr, .unused)
  | 3 =>
    (.gpr, .gpr, .unused)
  | 4 =>
    (.gpr, .gpr, .unused)
  | 5 =>
    (.gpr, .gpr, .unused)
  | 6 =>
    (.gpr, .gpr, .unused)
  | 7 =>
    (.gpr, .gpr, .unused)
  | 8 =>
    (.gpr, .unused, .unused)
  | 9 =>
    (.gpr, .unused, .unused)
  | 10 =>
    match fld w 21 7 with
    | 0 | 1 | 2 | 3 | 16 | 17 | 18 | 19 | 20 => (.gpr, .gpr, .unused)
    | _ => noUses
  | 11 =>
    match fld w 21 7 with
    | 0 | 1 | 2 | 3 | 8 | 9 | 10 | 11 => (.gpr, .gpr, .gpr)
    | _ => noUses
  | 16 =>
    match fld w 19 2 with
    | 0 | 1 | 3 => (.gpr, .gpr, .unused)
    | _ => noUses
  | 17 =>
    match fld w 19 2 with
    | 0 | 1 | 3 => (.gpr, .gpr, .unused)
    | _ => noUses
  | 18 =>
    (.gpr, .gpr, .unused)
  | 19 =>
    (.gpr, .gpr, .unused)
  | 24 =>
    match fld w 16 3 with
    | 5 => (.plain, .gpr, .unused)
    | _ => noUses
  | 25 =>
    match fld w 16 3 with
    | 5 => (.plain, .gpr, .unused)
    | _ => noUses
  | 20 =>
    match fld w 16 3 with
    | 3 => match fld w 19 2 with
      | _ => (.gpr, .gpr, .unused)
    | _ => noUses
  | 21 =>
    match fld w 21 4 with
    | 0 | 1 | 2 | 3 | 4 | 5 | 6 | 7 | 8 | 9 => (.gpr, .gpr, .gpr)
    | _ => noUses
  | 22 =>
    match fld w 21 4 with
    | 0 | 1 | 2 => noUses
    | 4 | 5 | 6 | 7 => (.gpr, .gpr, .unused)
    | 8 | 9 | 10 | 11 => (.unused, .gpr, .gpr)
    | _ => noUses
  | 23 =>
    match fld w 21 4 with
    | 0 => (.gpr, .gpr, .gpr)
    | 1 | 5 | 6 => (.gpr, .gpr, .unused)
    | 2 => match fld w 29 3 with
      | 5 => (.gpr, .gpr, .unused)
      | _ => noUses
    | 3 => (.gpr, .unused, .unused)
    | 4 => match fld w 29 3 with
      | 0 | 1 => (.gpr, .gpr, .gpr)
      | _ => noUses
    | _ => noUses
  | 26 =>
    match fld w 19 2 with
    | 0 => (.plain, .gpr, .unused)
    | 1 => match fld w 17 1 with
      | 0 => (.plain, .gpr, .unused)
      | _ => noUses
    | _ => noUses
  | 27 =>
    match fld w 24 4 with
    | 0 | 4 => (.gpr, .gpr, .unused)
    | 1 | 2 | 5 | 6 | 7 => (.gpr, .unused, .unused)
    | 3 => noUses
    | _ => noUses
  | 30 =>
    match fld w 21 4 with
    | 0 | 1 => (.gpr, .gpr, .unused)
    | 2 | 3 | 4 | 5 => (.gpr, .gpr, .gpr)
    | _ => noUses
  | 31 =>
    match fld w 21 4 with
    | 0 | 2 => (.gpr, .gpr, .unused)
    | 1 => (.gpr, .gpr, .gpr)
    | _ => noUses
  | 32 =>
    match fld w 21 6 with
    | 0 | 1 | 2 | 3 | 5 | 6 | 7 | 8 | 9 | 12 => (.plain, .plain, .plain)
    | 4 | 10 | 11 => (.plain, .plain, .unused)
    | 16 | 17 | 18 | 19 => match fld w 30 2 with
      | 0 => (.plain, .plain, .plain)
      | _ => noUses
    | _ => noUses
  | 33 =>
    match fld w 21 6 with
    | 0 | 1 | 2 | 3 | 4 | 5 | 6 | 7 | 8 | 9 | 10 | 11 | 12 | 13 | 14 | 16 | 17 | 18 | 19 => (.plain, .plain, .plain)
    | 24 | 25 | 26 => match fld w 30 2 with
      | 0 => (.plain, .plain, .plain)
      | _ => noUses
    | _ => noUses
  | 34 =>
    match fld w 21 6 with
    | 0 | 1 | 2 | 3 | 4 | 5 | 6 | 7 | 8 | 9 | 10 | 11 | 12 => (.plain, .plain, .unused)
    | _ => noUses
  | 35 =>
    match fld w 21 6 with
    | 0 | 1 | 2 | 4 | 5 | 6 | 7 | 8 | 17 | 18 => (.plain, .plain, .unused)
    | 16 => (.plain, .plain, .plain)
    | 19 | 20 => match fld w 30 2 with
      | 0 => (.plain, .plain, .plain)
      | _ => noUses
    | _ => noUses
  | 36 =>
    match fld w 21 6 with
    | 0 | 1 => (.plain, .plain, .plain)
    | _ => noUses
  | 37 =>
    match fld w 21 6 with
    | 0 | 1 | 2 | 3 => (.plain, .plain, .plain)
    | 4 => (.plain, .plain, .unused)
    | 8 | 12 | 13 => (.plain, .gpr, .unused)
    | 9 | 10 | 11 => (.gpr, .plain, .unused)
    | _ => noUses
  | 38 =>
    match fld w 21 6 with
    | 0 => (.plain, .plain, .unused)
    | 1 => (.plain, .plain, .plain)
    | 2 => (.plain, .gpr, .unused)
    | 3 => (.plain, .gpr, .gpr)
    | 4 => (.gpr, .plain, .gpr)
    | 5 => (.plain, .unused, .unused)
    | _ => noUses
  | 41 =>
    match fld w 21 4 with
    | 0 => (.gpr, .gpr, .gpr)
    | 1 => (.gpr, .plain, .unused)
    | _ => noUses
  | 42 =>
    match fld w 21 4 with
    | 0 => (.gpr, .gpr, .gpr)
    | _ => noUses
  | 12 => (.gpr, .gpr, .unused)
  | 13 => (.gpr, .unused, .unused)
  | 14 => (.gpr, .gpr, .unused)
  | 28 =>
    match fld w 21 4 with
    | 0 => (.unused, .gpr, .unused)
    | 1 | 2 | 5 => (.gpr, .gpr, .gpr)
    | 3 | 4 => (.gpr, .gpr, .unused)
    | _ => noUses
  | 29 =>
    match fld w 21 4 with
    | 0 | 1 | 2 | 4 => (.gpr, .gpr, .gpr)
    | 3 | 5 => (.gpr, .gpr, .unused)
    | _ => noUses
  | 40 =>
    match fld w 21 4 with
    | 0 => (.gpr, .gpr, .unused)
    | 1 => (.gpr, .unused, .unused)
    | 4 | 5 => (.plain, .gpr, .unused)
    | 6 => (.unused, .gpr, .unused)
    | _ => noUses
  | 43 =>
    match fld w 21 4 with
    | 0 | 2 | 3 => (.gpr, .gpr, .unused)
    | 1 => (.gpr, .gpr, .gpr)
    | 4 => (.gpr, .unused, .unused)
    | _ => noUses
  | 44 =>
    match fld w 24 4 with
    | 0 => (.gpr, .unused, .unused)
    | 1 | 2 | 3 | 6 | 7 | 8 | 11 | 12 => (.unused, .gpr, .unused)
    | 4 | 5 | 13 | 14 => (.gpr, .gpr, .unused)
    | _ => noUses
  | _ => noUses

/-- A staggered register field: `k` times the stride is added modulo 32, but a `g` field that holds 0 stays 0 (R160). -/
def staggerField (u : FieldUse) (f k stride : Nat) : Nat :=
  match u with
  | .unused => f
  | .plain => (f + k * stride) % 32
  | .gpr => if f = 0 then 0 else (f + k * stride) % 32

/-- `stagger(w, k)` of R160 with the strides `sd`, `sa` and `sb`; the fields of a `br` are its `a` and its `b`. -/
def stagger (w k sd sa sb : Nat) : Nat :=
  let u := fieldUses w
  let br := fld w 0 6 == 12
  fld w 0 6 + 64 * staggerField u.1 (fld w 6 5) k (if br then sa else sd) +
    2048 * staggerField u.2.1 (fld w 11 5) k (if br then sb else sa) +
    65536 * staggerField u.2.2 (fld w 16 5) k sb + 2097152 * fld w 21 11

/-- The opcodes a repeat frame refuses (R161). -/
def frameRefuses (w : Nat) : Bool :=
  match fld w 0 6 with
  | 12 | 13 | 14 | 15 | 28 | 29 | 40 | 43 | 44 => true
  | _ => false

/-- The instruction the decoder reads from the table's bits: one little-endian 32-bit word (R10); bits the table does
not give are zero. -/
def decodeTableWord (nbits w : Nat) : Option Instr :=
  match decode (w % 2 ^ nbits % 2 ^ 32) with
  | .ok i => some i
  | .error _ => none

end Sys2Proof
end

