-- ==== Sys2Proof/Machine/State.lean ====
section
/-! DEFINITION. The state of the machine as plain data, and the state after reset (R78 to R95, R112 to R137, R270 to
R277, R367). Sparse tables list what differs from their default. -/

namespace Sys2Proof.Machine

/-- An event as plain data, waiting in the state or chosen by an engine: the events of the opcode table but the issue of a
frame, under the names of `Instr`, and a few happenings that the table has no row for. -/
inductive Event where
  | gangPartComplete (cl : Nat) (p : Nat)
  | latheRequestStart (cl : Nat)
  | latheReply (cl : Nat)
  | waitExpiry (t : Nat)
  | replyArrival (t : Nat)
  | messageArrival
  | trapQueueDelivery (die : Nat)
  | contextSaveComplete (t : Nat)
  | saveDeferralReport (t : Nat)
  | icacheMissFill (t : Nat)
  | pageWalkComplete (t : Nat)
  | homeRequestArrival (core : Nat)
  | flitCheckFailure (core : Nat) (die : Nat)
  | linkRetrainFailure (link : Nat)
  | tenureGrant (sl : Nat)
  | recallDeadlineExpiry (sl : Nat)
  | battenMergeStep (core : Nat)
  | purlinDrainStep (cl : Nat)
  | beamSettleStep (die : Nat) (q : Nat)
  | beamIdleSettle (die : Nat) (q : Nat)
  | mscFilterClear (die : Nat)
  | copyCompletion (die : Nat) (unit : Nat)
  | prefetchServe (die : Nat)
  | prefetchDeadline (die : Nat)
  | quiescenceWave (lid : Nat)
  | launchStart (die : Nat)
  | multiDieLaunchStart
  | launchPriorityPromotion (die : Nat)
  | launchEnd (lid : Nat)
  | launchSaveComplete (lid : Nat)
  | launchResumeStart (lid : Nat)
  | lqSubmit (die : Nat) (slot : Nat)
  | lqPreempt (die : Nat) (lid : Nat)
  | lqResume (die : Nat) (lid : Nat)
  | lqStop (die : Nat) (lid : Nat)
  | lqFree (die : Nat) (slot : Nat)
  | deviceRegisterWrite (pa : Nat) (n : Nat) (v : Word)
  | dclkTargetWrite (die : Nat) (v : Word)
  | clockRelockEnd (die : Nat)
  | thermalStepDown (die : Nat)
  | thermalRecovery (die : Nat)
  | hbmRetrainRequest (die : Nat) (stack : Nat) (rate : Nat)
  | retrainDeferralExpiry (die : Nat) (stack : Nat)
  | hbmPhyError (die : Nat) (stack : Nat)
  | unmapMigrate (asid : Nat) (va : Word) (dest : Option Nat)
  | dieOfflineMark (die : Nat)
  | heartbeatTimeout (die : Nat)
  | thermalOfflineTimeout (die : Nat)
  | exportWindow (t : Nat)
  | unexportWindow (t : Nat)
  | diestat (t : Nat)
  | krestore (t : Nat)
  | callAttest (t : Nat)
  | rread (t : Nat)
  | rwrite (t : Nat)
  | ramo (t : Nat)
  | rkey (t : Nat)
  | rmsg (t : Nat)
  | remoteOpArrival (op : RemoteOp)
  | remoteCallTimeout (t : Nat)
  | lateReplyDiscard (r : RemoteReply)
  | hostLoad (h : HostHdr) (file : List Byte)
  | hostSubmit (h : HostHdr) (asid : Nat) (rec : Nat) (karg : Option Word)
  | hostPreempt (h : HostHdr) (lid : Nat)
  | hostResume (h : HostHdr) (lid : Nat)
  | hostStop (h : HostHdr) (lid : Nat)
  | hostRead (h : HostHdr) (asid : Nat) (va : Word) (len : Nat)
  | hostWrite (h : HostHdr) (asid : Nat) (va : Word) (data : List Byte)
  | hostCkpt (h : HostHdr)
  | hostAttest (h : HostHdr) (asid : Nat) (nonce : BitVec 384)
  | hostStatus (h : HostHdr)
  | hostUnload (h : HostHdr) (asid : Nat)
  | portDown (port : Nat)
  | startUp (r : StartReport)
  | remoteReplyArrival (r : RemoteReply)
  | hbmRetrainEnd (die : Nat) (stack : Nat) (ok : Bool)
  | cxlLinkDown (port : Nat)
  /-- A waiting operation that goes on at its home (R206, R264): no row of the table. -/
  | remoteGo
  /-- A corrected soft error of a die, counted for the service (R281, R313): no row of the table. -/
  | softError (die : Nat)
  /-- The service lowers the rate of a stack above 95 °C (R313): no row of the table. -/
  | stackHot (die stack : Nat)
  /-- The service sets the residency quotas of a die (R272): no row of the table. -/
  | quotas (die : Nat) (q : List Nat)
  deriving DecidableEq, Repr

/-- What stops the machine with a fault. -/
inductive Fault where
  /-- An access to a physical address that Table 14-1 gives to nothing; raised by the DEVICE read and write of
  Machine/Device.lean, from the event DEVICE_REGISTER_WRITE alone, because no page-table entry that a walk accepts leads
  there (R276). Safe. -/
  | noSuchAddress (pa : Nat)
  deriving DecidableEq, Repr

/-- What the model refuses, by name. -/
inductive Refusal where
  /-- An instruction that has no meaning yet; raised by Machine/Dispatch.lean only. Safe. -/
  | notModelled (mnemonic : String)
  /-- A DEVICE access to a register block whose behaviour the spec does not give; raised by the DEVICE read and write
  of Machine/Device.lean. Safe. -/
  | unknownDevice (pa : Nat)
  deriving DecidableEq, Repr

/-- Context states (Table 4-6a). -/
inductive CtxState where
  | idle | ready | waiting | parked | trapped | saved | ended
  deriving DecidableEq, Repr

/-- What a WAITING or PARKED context waits for (R90, R115). -/
inductive WaitKind where
  /-- The reply of a form whose effect is already in the state. -/
  | reply
  /-- An instruction-cache line (R130). -/
  | icacheMiss (va : Nat)
  /-- A page-table walk of an address (R277). -/
  | pageWalk (va : Nat)
  /-- A send permit (R188). -/
  | permit
  /-- A message of one of the classes (R190). -/
  | message (mask : Nat)
  /-- A tenure (R257), by mortise slice. -/
  | tenure (sl : Nat)
  /-- A record entry of a mortise slice (R262). -/
  | recordEntry (sl : Nat)
  /-- A TILED load of bytes at their home slices, under the limit of `kswait` (R264): slice, address and bytes of each
  part. -/
  | homeLoad (parts : List (Nat × Nat × Nat))
  /-- A deferred `fe.take` (R125), by scratchpad word. -/
  | take (word : Nat)
  /-- A scratchpad word becoming full, for `fe.sload` (R174). -/
  | fullWord (word : Nat)
  /-- A scratchpad word becoming full, for a bit-buffer refill (R184). -/
  | refill (word : Nat)
  /-- Room for a keyed entry (R200, R206). -/
  | keyRoom
  /-- A queue entry of a copy unit (R284). -/
  | copyQueue
  /-- A place in the lathe (R241). -/
  | lathePort
  /-- A barrier phase (R300); `wide`: its acquire acts on the L1. -/
  | phase (gid : Nat) (p : Nat) (wide : Bool)
  /-- Quiescence of the launch (R301). -/
  | quiet
  /-- A part of the joint array (R226, R231). -/
  | peg
  /-- The core's earlier arrival at the peg line (R223). -/
  | arrival
  /-- An accumulator that a part still writes (R231). -/
  | accumulator (a : Nat)
  /-- The completion of a save (R137). -/
  | save (target : Nat)
  /-- The completion of a save that another form asked for (R138). -/
  | saved (target : Nat)
  /-- A DEVICE store that waits in the write-through queue (R170). -/
  | deviceStore
  /-- A publication (R204, R214). -/
  | publish
  /-- A decode table to be loaded or stored as a whole: load or store, table, scratchpad address (R132). -/
  | tableMove (load : Bool) (k : DTable) (base : Nat)
  /-- An arrival or a leave on its way to the home die of its group (R319). -/
  | groupReq
  /-- The answer of another die to a group form, on its way back since a tick (R319, R323). -/
  | crossing (sent : Nat)
  /-- The relock of a die that the form sends a request to (R322), with the status of its expiry. -/
  | relock (die : Nat) (status : Word)
  deriving DecidableEq, Repr

/-- A wait: its reason, the register its status goes to, the tick at which its thread left the rotation, and its
timeout exponent (R20; 15 has no limit). -/
structure Wait where
  kind : WaitKind
  d : Reg
  since : Nat
  e : Nat
  deriving DecidableEq, Repr

/-- A form that is to be tested again: the timed wait that it left for that, and its word (R20, R190). -/
structure Retest where
  wait : Wait
  word : BitVec 32
  deriving DecidableEq, Repr

/-- A request of a form to another die, under its number, with the bytes of the form's register that its reply fills (R280,
R322). -/
structure Ask where
  die : Nat
  seq : Nat
  off : Nat
  n : Nat
  deriving DecidableEq, Repr

/-- The permits one thread holds for a class of a core (R189). -/
structure Permit where
  core : Nat
  cls : Nat
  count : Nat
  deriving DecidableEq, Repr

/-- An arrival at the peg line (R223, R230): ring position, thread, status register, and for `gang.mm` what its checks
captured: the descriptor, the A and B headers, the index words and the decode tables; at the join also the payloads. -/
structure GangArr where
  pos : Nat
  thread : Nat
  d : Reg
  /-- `gang.mm`, else `gang.peg`. -/
  mm : Bool
  desc : List Byte
  ahdr : List Nat
  bhdr : List Nat
  bidx : List Nat
  tabs : AMap (BitVec 19)
  apay : List Nat
  bpay : List Nat
  deriving DecidableEq, Repr

/-- The registers of a thread that a form may write which changes nothing else: what a save puts back where it withdraws
such a form before its reply (R103, R133, R142). -/
structure Regs where
  g : Vector Word 32
  v : Vector VReg 32
  m : Vector LMask 8
  pc : Word
  kstat : Word
  kfbuf : Vector Word 16
  kfcnt : Word
  kfidx : Word
  kfstg : Word
  kbbuf : Word
  kbbufh : Word
  kbfill : Word
  kbsrc : Word
  kbend : Word
  deriving DecidableEq, Repr

/-- One context (R78 to R97, R162, R183). -/
structure Thread where
  g : Vector Word 32
  v : Vector VReg 32
  m : Vector LMask 8
  pc : Word
  kstat : Word
  kcause : Word
  kinfo : Word
  kepc : Word
  ktvec : Word
  kqmask : Word
  karg : Word
  kbconf : Word
  kgrp : Vector Word 4
  kfbuf : Vector Word 16
  kfcnt : Word
  kfidx : Word
  kfstg : Word
  kbbuf : Word
  kbbufh : Word
  kbfill : Word
  kbsrc : Word
  kbend : Word
  st : CtxState
  wait : Option Wait
  /-- Tick at which the wait of a form that is tested again began: its limit is not renewed (R20, R190). -/
  waitFrom : Option Nat
  /-- The form in progress has left its wait to be tested again: its limit still runs (R20, R190). -/
  retest : Option Retest
  /-- READY since this cycle of its die by an arrival: it is eligible from the next (R115, R119). -/
  justReady : Bool
  /-- Requests of the form in progress: its reply comes when no relock holds them back (R280, R322). -/
  asked : List Ask
  /-- The registers at the issue of a form that awaits its reply and has changed nothing beyond them (R103, R133). -/
  before : Option Regs
  /-- The decode tables as they stood at the issue of a `qst.bl` that has not completed (R63, R181). -/
  tabsAt : Option (AMap (BitVec 19))
  /-- What the checks of a `gang.mm` captured that waits for its core's earlier arrival (R223, R230). -/
  gangAt : Option GangArr
  /-- The release of the form in progress has been made (R177, R300). -/
  released : Bool
  /-- What a form in progress has been given while it waited: the words of a refill, by scratchpad word (R184), or the
  bytes of a load at its home slices, by virtual address (R264). -/
  got : List (Nat × Word)
  /-- R119. -/
  readyBit : Bool
  /-- PARKED by the launch start (R41). -/
  parkedStart : Bool
  /-- The core's cycle in which a message started the context (R41). -/
  startCyc : Option Nat
  /-- The open packet, oldest word first (R188). -/
  packet : List Word
  /-- R120, R189. -/
  permits : List Permit
  /-- Tick since which a save is deferred (R134). -/
  saveFrom : Option Nat
  /-- That deferral has been reported (R134). -/
  saveTold : Bool
  /-- The word last issued, which a trap record carries (R95, R163). -/
  word : BitVec 32
  deriving DecidableEq, Repr

/-- A context outside any launch, and the state R79 gives a context at its start. -/
def Thread.init : Thread where
  g := Vector.replicate 32 0
  v := Vector.replicate 32 0
  m := Vector.replicate 8 0
  pc := 0
  kstat := 0
  kcause := 0
  kinfo := 0
  kepc := 0
  ktvec := 0
  kqmask := 3
  karg := 0
  kbconf := 0
  kgrp := Vector.replicate 4 0
  kfbuf := Vector.replicate 16 0
  kfcnt := 0
  kfidx := 0
  kfstg := 0
  kbbuf := 0
  kbbufh := 0
  kbfill := 0
  kbsrc := 0
  kbend := 0
  st := .idle
  wait := none
  waitFrom := none
  retest := none
  justReady := false
  asked := []
  before := none
  tabsAt := none
  gangAt := none
  released := false
  got := []
  readyBit := false
  parkedStart := false
  startCyc := none
  packet := []
  permits := []
  saveFrom := none
  saveTold := false
  word := 0

/-- A message in a mailbox (R117). -/
structure Msg where
  cls : Nat
  /-- Sender TID, 0 for a hardware source. -/
  sender : Nat
  words : List Word
  /-- The route tag, if the message carries one (R186). -/
  tag : Option Nat
  /-- Sent under a permit (R117). -/
  permitted : Bool
  deriving DecidableEq, Repr

/-- One entry of the class table (R116). -/
structure ClassEnt where
  ctx : Nat
  entry : Option Word
  deriving DecidableEq, Repr

/-- States of a landing slot (R126). -/
inductive SlotState where
  | free | granted | filling | done
  deriving DecidableEq, Repr

/-- A landing slot (R126). -/
structure Slot where
  base : Nat
  len : Nat
  ctx : Nat
  cls : Nat
  st : SlotState
  /-- Copies still running into it (R284). -/
  running : Nat
  deriving DecidableEq, Repr

/-- A slot no thread holds. -/
def Slot.none : Slot := { base := 0, len := 0, ctx := 0, cls := 0, st := .free, running := 0 }

/-- One L1 line (R127): masks by 4-byte word, its 128 bytes, and whether its page is marked read-only (R129). -/
structure L1Line where
  valid : BitVec 32
  dirty : BitVec 32
  /-- Valid words whose copy carries the mark of an uncorrectable word (R281). -/
  bad : BitVec 32
  data : BitVec 1024
  ro : Bool
  /-- For words of a TILED page, which live inside a tenure (R127): the virtual line. -/
  tile : Option Nat
  deriving DecidableEq, Repr

/-- One entry of the write-through queue (R170): the bytes written from a physical address on, within one line, or to a
DEVICE register. -/
structure WtEntry where
  pa : Nat
  bytes : List (Option Byte)
  /-- A store to a DEVICE register. -/
  dev : Bool
  deriving DecidableEq, Repr

/-- A cached translation (R277): virtual page base and the leaf entry. -/
structure TlbEnt where
  va : Nat
  pte : Word
  deriving DecidableEq, Repr

/-- A pin of a core (R285): its lines by physical address divided by 128, each with its
L2 slice. -/
structure Pin where
  id : Nat
  va : Nat
  len : Nat
  cls : Nat
  lines : List (Nat × Nat)
  deriving DecidableEq, Repr

/-- A stalled run: the key of its stalled entry, none once it is dropped, and its fault message (R205, R208, R215). -/
structure Stall where
  key : Option Nat
  msg : List Word
  deriving DecidableEq, Repr

/-- A publication in progress (R204, R205): the thread whose form asked for it, if one did, whether that form is a
release, whether it also carries the cluster's purlin, the names it has still to carry out of the batten and, once that
is done, out of the purlin, and whether it has met a stall. -/
structure Pub where
  owner : Option Nat
  release : Bool
  wide : Bool
  batten : List Nat
  purlin : List Nat
  met : Bool
  deriving DecidableEq, Repr

/-- An arrival, a drop or a leave of a group on its way to a home die (R319): thread, group, and what it is. -/
inductive GroupOp where
  | arrive | drop | leave
  deriving DecidableEq, Repr

/-- A request of a core in the link to another die (R307, R319). -/
structure GroupReq where
  thread : Nat
  gid : Nat
  op : GroupOp
  deriving DecidableEq, Repr

/-- One core (R112 to R132, R170, R197). -/
structure Core where
  /-- The launch it belongs to (R112). -/
  launch : Option Nat
  asid : Nat
  lcore : Nat
  /-- Member contexts. -/
  nctx : Nat
  /-- Bytes of the scratchpad reservation (R122). -/
  scr : Nat
  kswait : Word
  /-- Scratchpad by 8-byte word, default 0 (R121). -/
  scratch : AMap Word
  /-- Words whose full/empty bit is empty (R124). -/
  empty : AMap Bool
  /-- Deferred lists by word, oldest first (R125). -/
  takers : AMap (List Nat)
  /-- Uncorrectable scratchpad words (R281). -/
  spoison : AMap Bool
  l1 : AMap L1Line
  wtq : List WtEntry
  /-- Instruction cache by 64-byte virtual line: sixteen words, none for an uncorrectable one (R130, R281). -/
  icache : AMap (List (Option (BitVec 32)))
  tlb : List TlbEnt
  mailbox : List Msg
  classes : AMap ClassEnt
  /-- Permits outstanding against the core (R117). -/
  outstanding : Nat
  slots : AMap Slot
  /-- Accumulator elements, by accumulator x 2048 + row x 128 + column, default +0 (R222). -/
  acc : AMap (BitVec 32)
  /-- Decode tables, by table x 256 + entry, default +0 (R131). -/
  tabs : AMap (BitVec 19)
  /-- The batten, by name (R197). -/
  batten : AMap (BitVec 128)
  stall : Option Stall
  /-- Names that a merge for room or a resumed merge has still to carry (R200, R215). -/
  merging : List Nat
  /-- Publications in progress (R204). -/
  pubs : List Pub
  /-- Group requests in the link, oldest first (R307, R319). -/
  outq : List GroupReq
  /-- Cycle of the last issue of a context (R113). -/
  issued : AMap Nat
  pins : List Pin
  /-- Messages sent and received (R301). -/
  sentCount : Nat
  recvCount : Nat
  /-- Sequence numbers by destination die (R280). -/
  seq : AMap Nat
  /-- Requests the link layer resends: destination die and sequence number (R280, R307). -/
  resent : List (Nat × Nat)
  deriving DecidableEq, Repr

/-- A core that belongs to no launch. -/
def Core.init : Core where
  launch := none
  asid := 0
  lcore := 0
  nctx := 0
  scr := 0
  kswait := 10
  scratch := []
  empty := []
  takers := []
  spoison := []
  l1 := []
  wtq := []
  icache := []
  tlb := []
  mailbox := []
  classes := []
  outstanding := 0
  slots := []
  acc := []
  tabs := []
  batten := []
  stall := none
  merging := []
  pubs := []
  outq := []
  issued := []
  pins := []
  sentCount := 0
  recvCount := 0
  seq := []
  resent := []

/-- A posted message on its way: to a core's mailbox, or to the Xilux service. -/
structure Post where
  core : Option Nat
  /-- The launch that the core belonged to as the message was posted: no other takes it (R2, R94, R294). -/
  lid : Option Nat
  msg : Msg
  /-- A trap record (R94). -/
  trapRec : Bool
  /-- The launch of the thread that a trap record is of. -/
  src : Option Nat
  /-- Of a TRANSLATION record, the core and class that `ktvec` named at the trap, with the core's launch (R94). -/
  fwd : Option (Nat × Nat × Option Nat)
  /-- The die that it leaves, of a record or a report about a thread: it cannot leave while the die relocks (R322). -/
  die : Option Nat := none
  deriving DecidableEq, Repr

/-- An accepted request of the lathe (R241): core, reply class, tag, request block, decode tables, tick of acceptance,
and once it has run, the words of its reply. -/
structure LatheReq where
  core : Nat
  cls : Nat
  tag : Nat
  block : List Byte
  tabs : AMap (BitVec 19)
  tacc : Nat
  answer : Option (List Word)
  deriving DecidableEq, Repr

/-- One cluster (R223, R238 to R241). -/
structure Cluster where
  /-- The purlin, by name. -/
  purlin : AMap (BitVec 128)
  pstall : Option Stall
  /-- Names that a drain in progress has still to carry (R239). -/
  draining : List Nat
  /-- The cycle of the last merge step at the purlin, and its core's ring position (R238). -/
  mergeAt : Option (Nat × Nat)
  /-- Arrivals at the peg line (R223). -/
  arrivals : List GangArr
  /-- The arrivals of the joined phase, by ring position, and the positions whose part still runs (R223, R231). -/
  joined : List GangArr
  running : List Nat
  /-- Requests of the lathe, oldest first (R241). -/
  lathe : List LatheReq
  deriving DecidableEq, Repr

/-- A cluster at reset. -/
def Cluster.init : Cluster where
  purlin := []
  pstall := none
  draining := []
  mergeAt := none
  arrivals := []
  joined := []
  running := []
  lathe := []

/-- A piece of the memory that a copy reads or writes: physical address, bytes, and whether its page is marked base-die
(R279, R284). -/
structure Piece where
  pa : Nat
  n : Nat
  bd : Bool
  deriving DecidableEq, Repr

/-- A copy that a copy unit has accepted (R284): direction, thread, slot, memory address, length and completion class
of the form, the scratchpad address, the pieces of memory it reads or writes, and the 8-byte words written so far. -/
structure Copy where
  isIn : Bool
  thread : Nat
  slot : Nat
  va : Nat
  len : Nat
  cls : Nat
  scr : Nat
  pieces : List Piece
  written : Nat
  deriving DecidableEq, Repr

/-- A launch-queue record (R289): its 128 bytes, the tick since which it has its priority (R292), and its unbound
dependences, slot and LAUNCH record (R290). -/
structure LqRec where
  img : List Byte
  since : Nat
  unbound : List (Nat × Nat)
  deriving DecidableEq, Repr

/-- A FREE record. -/
def LqRec.free : LqRec := { img := List.replicate 128 0, since := 0, unbound := [] }

/-- An expert-prefetch request (R302, R304). -/
structure XpfReq where
  id : Nat
  base : Nat
  pages : Nat
  ex : Nat
  pr : Nat
  dl : Nat
  lid : Nat
  deriving DecidableEq, Repr

/-- An HBM stack (R297, R313): its rate code, the rate a retraining in progress goes to, a deferred retrain request with
its tick, the tick of the last request, and whether its retraining has failed. -/
structure HbmStack where
  rate : Nat
  target : Option Nat
  deferred : Option (Nat × Nat)
  asked : Option Nat
  failed : Bool
  deriving DecidableEq, Repr

/-- A die's clock (R321, R322, R371): m, the requested m, the m that a step in progress goes to, the tick at which its
relock began, and whether the temperature holds it at 8. -/
structure Clock where
  m : Nat
  target : Nat
  next : Option Nat
  t0 : Option Nat
  hot : Bool
  deriving DecidableEq, Repr

/-- One die. -/
structure Die where
  online : Bool
  /-- Cycles of its clock, which every core of the die counts by (R87, R113, R322). -/
  cycle : Nat
  /-- Messages that wait for a mailbox slot, in arrival order (R94, R117). -/
  trapQ : List Post
  /-- Replies kept per source core, newest first, at most 64: a number and its value, none for an acknowledgment (R280). -/
  replies : AMap (List (Nat × Option Word))
  /-- Routing counters, and the launch that claims them (R303). -/
  rtCount : AMap Nat
  rtClaim : Option Nat
  /-- The beam: by address space x 2^64 + name (R308). -/
  beam : AMap (BitVec 128)
  bstall : Option Stall
  /-- Entries that the settle of a quarter has still to carry (R309). -/
  settling : AMap (List Nat)
  /-- Tick of a quarter's last drain step (R309). -/
  lastDrain : AMap Nat
  /-- Entries of the footing of each region, by address space x 4096 + region; the entries stand in memory (R310). -/
  footLen : AMap Nat
  /-- Queues of the sixteen copy units (R284). -/
  copies : AMap (List Copy)
  /-- Lines entered in the filters of the memory-side cache, and the tick of their last clearing (R273). -/
  filter : AMap Bool
  filterTick : Nat
  /-- The launch queue by slot, and `lqstat` (R289, R296). -/
  lq : AMap LqRec
  lqstat : Nat
  /-- The last value stored in `lqcmd` (R296). -/
  lqcmd : Word
  xpf : List XpfReq
  hbm : List HbmStack
  clock : Clock
  /-- Ways of an L2 set that each residency class may use (R272); they change latency only. -/
  quotas : List Nat
  /-- Corrected soft errors, counted for the service (R281, R313). -/
  softErrors : Nat
  deriving DecidableEq, Repr

/-- A die at reset. -/
def Die.init : Die where
  online := true
  cycle := 0
  trapQ := []
  replies := []
  rtCount := []
  rtClaim := none
  beam := []
  bstall := none
  settling := []
  lastDrain := []
  footLen := []
  copies := []
  filter := []
  filterTick := 0
  lq := []
  lqstat := 0
  lqcmd := 0
  xpf := []
  hbm := List.replicate 2 { rate := 2, target := none, deferred := none, asked := none, failed := false }
  clock := { m := 17, target := 17, next := none, t0 := none, hot := false }
  quotas := List.replicate 4 4
  softErrors := 0

/-- A region of keyed memory (R39, R193, R195): its operator, value type, FX128 scale, fault class, home policy
`launch`, eligible dies in ascending order, damaged dies, and its limit in MiB on each die. -/
structure Region where
  op : KOp
  vt : VType
  fscale : Nat
  fclass : Nat
  homeLaunch : Bool
  dies : List Nat
  dmg : List Nat
  cap : Nat
  deriving DecidableEq, Repr

/-- A GROUP record as loaded (R39, R46). -/
structure GroupRec where
  gid : Nat
  expected : Nat
  corelo : Nat
  corehi : Nat
  ctxmask : Nat
  deriving DecidableEq, Repr

/-- A class binding (R39, R116): class, context, entry address. -/
structure ClassRec where
  cls : Nat
  ctx : Nat
  entry : Option Word
  deriving DecidableEq, Repr

/-- A LAUNCH record as loaded (R38, R39): its core set in launch-core order, and the further cores of its clusters. -/
structure LaunchRec where
  entry : Word
  ctx : Nat
  prio : Nat
  scratch : Nat
  /-- The records named in `deps`, none for an unused slot. -/
  deps : List (Option Nat)
  classes : List ClassRec
  groups : List GroupRec
  arg : Word
  set : List Nat
  extra : List Nat
  /-- Its object defines `xilux.rtc` as a GLOBAL CONST that is not 0 (R372). -/
  rtc : Bool
  deriving DecidableEq, Repr

/-- One address space (R34, R38, R193, R275): root table, regions, LAUNCH records, scratchpad image, digest of its
object (R369), sections mapped (virtual base, bytes, page kind), and the last submission of each record with the mark
of its being freed (R290). -/
structure Space where
  /-- Which of the package's loads it comes from: its number may have named another space before (R2). -/
  serial : Nat
  root : Nat
  regions : AMap Region
  recs : List LaunchRec
  sdata : List Byte
  digest : BitVec 384
  sects : List (Nat × Nat × Nat)
  subs : AMap Nat
  /-- Physical base of a region's footing on a die, by region x 16 + die (R35, R310). -/
  foots : AMap Nat
  deriving DecidableEq, Repr

/-- A launch that is not FREE (R289 to R301), by lid: what its queue record cannot hold. `images` are the cores of a
saved launch, `saveStack` the HBM stack that each die's save writes to (2 added once it was moved), `resume` a resume
that waits for free cores. -/
structure Launch where
  asid : Nat
  rec_ : Nat
  set : List Nat
  extra : List Nat
  sdata : List Byte
  classes : List ClassRec
  groups : List GroupRec
  images : AMap Core
  saveStack : AMap Nat
  resume : Bool
  /-- The launch is being stopped (R295). -/
  stopping : Bool
  /-- The battens of a launch that ends or is saved are being published (R209, R293). -/
  flushing : Bool
  /-- Tick of the last quiescence wave, and its sums S, R and A (R301). -/
  waveTick : Nat
  wave : Option (Nat × Nat × Nat)
  deriving DecidableEq, Repr

/-- A launch of which only the queue record is known. -/
def Launch.init : Launch where
  asid := 0
  rec_ := 0
  set := []
  extra := []
  sdata := []
  classes := []
  groups := []
  images := []
  saveStack := []
  resume := false
  stopping := false
  flushing := false
  waveTick := 0
  wave := none

/-- A group-table entry (R298): its address space, the members' TIDs by index, phase, the members arrived, those gone,
the expected count X and the leavers Lv. -/
structure Group where
  asid : Nat
  members : List Nat
  c : Nat
  bits : List Nat
  gone : List Nat
  x : Nat
  lv : Nat
  deriving DecidableEq, Repr

/-- Kinds of window (R360). -/
inductive WinKind where
  | memory | keyed | message
  deriving DecidableEq, Repr

/-- An exported window (R359, R360); rights: bit 0 read, 1 write, 2 amo, 3 key, 4 msg. -/
structure Window where
  asid : Nat
  kind : WinKind
  rights : Nat
  off : Nat
  len : Nat
  /-- Its end is asked for: no operation begins on it any more, and it goes once those begun on it have completed (R360). -/
  closing : Bool := false
  deriving DecidableEq, Repr

/-- What is kept for a source endpoint: its newest number and its last replies, newest first (R361). -/
structure EpCache where
  newest : Nat
  saved : List RemoteReply
  deriving DecidableEq, Repr

/-- A remote call that waits for its reply (R361): its thread, number, block address, tick of sending and exponent. -/
structure PendingCall where
  thread : Nat
  seq : Nat
  block : Nat
  since : Nat
  e : Nat
  deriving DecidableEq, Repr

/-- What the service has begun at a home and cannot go on with yet: a remote operation, a host's read of an address
space, the end of one, or the restoring of a region for a caller, with the damaged dies whose keys were read and the keys
still to insert (R206, R264, R317, R362, R364, R375). -/
inductive RemoteWork where
  | op (op : RemoteOp)
  | read (h : HostHdr) (asid : Nat) (va : Word) (len : Nat)
  | unload (h : HostHdr) (asid : Nat)
  | restore (t : Nat) (reg : Reg) (asid n : Nat) (dies : List Nat) (left : List (Nat × BitVec 128))
  deriving DecidableEq, Repr

/-- Such work with the tick since which it waits. -/
structure RemoteWait where
  work : RemoteWork
  since : Nat
  deriving DecidableEq, Repr

/-- A checkpoint (R316): its tick, the HBM images by their bytes, the save areas of the SAVED launches, where the
footings stand (by die x 2^28 + address space x 4096 + region: base and entries), the address spaces it was taken of with
their loads, the second-tier ports of the devices that hold it, and the digest of each die. -/
structure Ckpt where
  tick : Nat
  mem : List Host.Cell
  areas : AMap (AMap Core)
  foots : AMap (Nat × Nat)
  serials : AMap Nat
  ports : List Nat
  digests : List (BitVec 384)
  deriving DecidableEq, Repr

/-- A checkpoint in progress (R316): its request, the tick of its first step, and the launches it pre-empted. -/
structure CkptRun where
  hdr : HostHdr
  tick : Nat
  lids : List Nat
  /-- Its settles have been started. -/
  settled : Bool
  deriving DecidableEq, Repr

/-- A tile record (R248). -/
structure TileRec where
  asid : Nat
  fmt : Nat
  rank : Nat
  base : Nat
  hbase : Nat
  /-- Four extents. -/
  ext : List Nat
  /-- Four signed strides. -/
  str : List Int
  deriving DecidableEq, Repr

/-- States of a tenure entry (Table 13-2); a recall has its deadline (R259). -/
inductive TenSt where
  | held
  | recalling (dl : Nat)
  | revoked
  /-- REVOKED at its deadline while a relock holds back the words that are still to go home for it (R259, R322). -/
  | leaving
  deriving DecidableEq, Repr

/-- A tenure entry (R253): record index, holder, rows, mode, recall exponent and class. -/
structure Tenure where
  idx : Nat
  thread : Nat
  lo : Nat
  hi : Nat
  write : Bool
  r : Nat
  cls : Nat
  st : TenSt
  deriving DecidableEq, Repr

/-- A request for tenure over every row of a record (R257); `recalled` once its recalls are made. -/
structure TenReq where
  thread : Nat
  idx : Nat
  write : Bool
  recalling : Bool
  r : Nat
  cls : Nat
  recalled : Bool
  deriving DecidableEq, Repr

/-- A mortise slice (R250): open records by index, generations (1 where not listed), tenure entries, the request
queue, and the requests outside it. -/
structure Slice where
  recs : AMap TileRec
  gens : AMap Nat
  ents : List Tenure
  queue : List TenReq
  outside : List TenReq
  deriving DecidableEq, Repr

/-- A slice at reset. -/
def Slice.init : Slice where
  recs := []
  gens := []
  ents := []
  queue := []
  outside := []

/-- The package. -/
structure State where
  threads : AMap Thread
  cores : AMap Core
  clusters : AMap Cluster
  dies : AMap Die
  /-- Physical memory: bytes that are not 0 (R270, R328). -/
  mem : List Host.Cell
  /-- Uncorrectable 8-byte words of memory, by physical address divided by 8 (R281). -/
  poison : AMap Bool
  /-- Physical pages in use: base and bytes (R34, R354). -/
  used : List (Nat × Nat)
  /-- Second-tier ports whose link is up (R314, R315). -/
  cxlUp : List Nat
  /-- Address spaces loaded so far (the model's own field). -/
  loads : Nat
  /-- Misses that hold or wait for a walker, oldest first (R277). -/
  walks : List Nat
  spaces : AMap Space
  /-- Mortise slices, by die x 64 + slice (R250). -/
  slices : AMap Slice
  /-- Launches by lid (R289). -/
  launches : AMap Launch
  /-- Group tables, by home die x 256 + index (R298). -/
  groups : AMap Group
  /-- Mbocel links in service (R306, R307). -/
  links : List Nat
  /-- Working fabric ports (R356). -/
  ports : List Nat
  /-- Start-up is complete (R364, R367). -/
  started : Bool
  /-- Package id (R357). -/
  pkg : Nat
  /-- Measurement registers m0 to m5 (R368). -/
  measure : List (BitVec 384)
  windows : AMap Window
  /-- Reply caches by source endpoint (R361). -/
  caches : AMap EpCache
  /-- Last sequence number of each address space (R361). -/
  outSeq : AMap Nat
  calls : List PendingCall
  /-- Operations sent to other packages, newest first, with the target package (R361). -/
  outbox : List (Nat × RemoteOp)
  /-- Replies sent to hosts and other packages, newest first (R361, R364). -/
  netOut : List RemoteReply
  /-- Reports for the next `status` reply (R364, R365). -/
  events : List Nat
  ckpts : List Ckpt
  ckptRun : Option CkptRun
  /-- Loads that wait for group-table entries (R40). -/
  waitingLoads : List (HostHdr × List Byte)
  /-- The package reference timer (R320). -/
  tick : Nat
  /-- Remote operations and host requests that wait at their home, oldest first (R206, R264, R362). -/
  remoteWaits : List RemoteWait
  /-- What the Xilux service has received, newest first (R94, R118). -/
  service : List Post
  /-- The thread whose instruction runs (the model's own field). -/
  cur : Nat
  /-- The core from which on the cores have still their cycle in this round of the tick, and the round: a die has as many
  cycles in a tick as its clock gives (the model's own fields). -/
  focus : Nat
  round : Nat
  /-- External and asynchronous events still to come (the model's own field). -/
  inbox : List Event
  /-- Messages posted and not yet arrived, oldest first (the model's own field). -/
  transit : List Post
  /-- Counter of free values and choices (the model's own field). -/
  fresh : Nat
  deriving DecidableEq, Repr

/-- The machine right after reset, before start-up (R367): every table empty, every register at the value its
default gives. -/
def State.reset : State where
  threads := []
  cores := []
  clusters := []
  dies := []
  mem := []
  poison := []
  used := []
  cxlUp := []
  loads := 0
  walks := []
  spaces := []
  slices := []
  launches := []
  groups := []
  links := List.range 17
  ports := List.range 16
  started := false
  pkg := 0
  measure := List.replicate 6 0
  windows := []
  caches := []
  outSeq := []
  calls := []
  outbox := []
  netOut := []
  events := []
  ckpts := []
  ckptRun := none
  waitingLoads := []
  tick := 0
  remoteWaits := []
  service := []
  cur := 0
  focus := 0
  round := 0
  inbox := []
  transit := []
  fresh := 0

end Sys2Proof.Machine
end

