-- ==== Sys2Proof/Machine/Ops.lean ====
section
/-! DEFINITION. The named operations over threads, registers, waits, messages and traps (R14, R20, R80 to R97, R112,
R115, R117 to R119, R159). -/

namespace Sys2Proof.Machine

/-! ## Bytes and fields -/

/-- `n` bits of a word from bit `lo`, as a number. -/
def bitsAt (w : Word) (lo n : Nat) : Nat := w.toNat / 2 ^ lo % 2 ^ n

/-- Bit `i` of a word. -/
def bitAt (w : Word) (i : Nat) : Bool := w.toNat / 2 ^ i % 2 == 1

/-- The little-endian bytes of a number (R6). -/
def bytesOf (v : Nat) : Nat → List Byte
  | 0 => []
  | n + 1 => BitVec.ofNat 8 v :: bytesOf (v / 256) n

/-- The number of little-endian bytes (R6). -/
def natOfBytes : List Byte → Nat
  | [] => 0
  | b :: r => b.toNat + 256 * natOfBytes r

/-- Position of the lowest set bit of a word, 64 where it is zero. -/
def lowestBit (w : Word) : Nat := if w = 0 then 64 else lowBit 64 w.toNat

/-! ## Identities (R80, R112) -/

/-- The core of a thread. -/
def coreOf (t : Nat) : Nat := t / 16

/-- The context number of a thread. -/
def ctxOf (t : Nat) : Nat := t % 16

/-- The die of a core. -/
def coreDie (ck : Nat) : Nat := if ck < 8192 then ck / 512 else (ck - 8192) / 2

/-- The cluster of a core, numbered over the package. -/
def clusterOf (ck : Nat) : Nat := ck / 8

/-- The thread of a context of a core. -/
def threadOf (ck c : Nat) : Nat := ck * 16 + c

/-- A service context (R88). -/
def isService (t : Nat) : Bool := decide (131072 ≤ t) && decide (t < 1048576)

/-- A context outside any launch; one of a service core runs at service level (R88). -/
def threadInit (t : Nat) : Thread := if isService t then { Thread.init with kstat := 1 } else Thread.init

/-! ## Reading and writing the tables of the state -/

/-- A thread. -/
def State.thr (s : State) (t : Nat) : Thread := s.threads.get (threadInit t) t

/-- The state with one thread written. -/
def State.setThr (s : State) (t : Nat) (x : Thread) : State := { s with threads := s.threads.set t x }

/-- The state with one thread changed. -/
def State.modThr (s : State) (t : Nat) (f : Thread → Thread) : State := s.setThr t (f (s.thr t))

/-- The issuing thread. -/
def State.th (s : State) : Thread := s.thr s.cur

/-- The state with the issuing thread changed. -/
def State.modTh (s : State) (f : Thread → Thread) : State := s.modThr s.cur f

/-- A core. -/
def State.cor (s : State) (ck : Nat) : Core := s.cores.get Core.init ck

/-- The state with one core written. -/
def State.setCor (s : State) (ck : Nat) (x : Core) : State := { s with cores := s.cores.set ck x }

/-- The state with one core changed. -/
def State.modCor (s : State) (ck : Nat) (f : Core → Core) : State := s.setCor ck (f (s.cor ck))

/-- The key of the issuing core. -/
def State.ck (s : State) : Nat := coreOf s.cur

/-- The issuing core. -/
def State.co (s : State) : Core := s.cor s.ck

/-- The state with the issuing core changed. -/
def State.modCo (s : State) (f : Core → Core) : State := s.modCor s.ck f

/-- A cluster. -/
def State.clu (s : State) (k : Nat) : Cluster := s.clusters.get Cluster.init k

/-- The state with one cluster changed. -/
def State.modClu (s : State) (k : Nat) (f : Cluster → Cluster) : State :=
  { s with clusters := s.clusters.set k (f (s.clu k)) }

/-- A die. -/
def State.die (s : State) (d : Nat) : Die := s.dies.get Die.init d

/-- The state with one die changed. -/
def State.modDie (s : State) (d : Nat) (f : Die → Die) : State := { s with dies := s.dies.set d (f (s.die d)) }

/-- A die is online and its clock runs (R305, R322). -/
def State.dieRuns (s : State) (d : Nat) : Bool := (s.die d).online && (s.die d).clock.t0.isNone

/-- A die that relocks, if one does (R322). -/
def State.someRelock (s : State) : Option Nat := (s.dies.find? fun e => e.2.clock.t0.isSome).map (·.1)

/-- Some die relocks. -/
def State.anyRelock (s : State) : Bool := s.someRelock.isSome

/-- The next free value's number, and the state that has used it. -/
def State.draw (s : State) : Nat × State := (s.fresh, { s with fresh := s.fresh + 1 })

/-! ## Registers (R14, R78) -/

/-- A general register as a source: `g0` reads zero. -/
def Thread.rg (t : Thread) (r : Reg) : Word := if r = 0 then 0 else t.g.get r

/-- A general register written: a write to `g0` is discarded. -/
def Thread.setG (t : Thread) (r : Reg) (x : Word) : Thread := if r = 0 then t else { t with g := t.g.set r.val x r.isLt }

/-- A vector register. -/
def Thread.rv (t : Thread) (r : Reg) : VReg := t.v.get r

/-- A vector register written. -/
def Thread.setV (t : Thread) (r : Reg) (x : VReg) : Thread := { t with v := t.v.set r.val x r.isLt }

/-- A lane mask: `m0` reads all ones. -/
def Thread.rm (t : Thread) (r : MReg) : LMask := if r = 0 then BitVec.allOnes 16 else t.m.get r

/-- A lane mask written: a write to `m0` is discarded. -/
def Thread.setM (t : Thread) (r : MReg) (x : LMask) : Thread := if r = 0 then t else { t with m := t.m.set r.val x r.isLt }

/-- `kstat.pl` (R82). -/
def Thread.service (t : Thread) : Bool := bitAt t.kstat 0

/-- `kstat.rm` (R82). -/
def Thread.round (t : Thread) : Nat := bitsAt t.kstat 1 2

/-- `kstat.te`: the trap enables, NV in bit 0 (R82). -/
def Thread.te (t : Thread) : Nat := bitsAt t.kstat 9 6

/-- `kstat.fl` with flags added, NV in bit 0 (R50, R82). -/
def Thread.addFlags (t : Thread) (f : Nat) : Thread := { t with kstat := t.kstat ||| BitVec.ofNat 64 (f % 64 * 8) }

/-- A repeat frame is active (R159). -/
def Thread.inFrame (t : Thread) : Bool := bitAt t.kfcnt 16

/-! ## Completion (R115, R159) -/

/-- The frame and `pc` after an instruction completes without trap (R159). -/
def Thread.advance (t : Thread) : Thread :=
  if t.inFrame then
    let idx := bitsAt t.kfidx 0 4
    let len := bitsAt t.kfidx 4 4
    let base := t.pc - BitVec.ofNat 64 (4 * idx)
    if idx < len then { t with kfidx := BitVec.ofNat 64 (len * 16 + (idx + 1)), pc := t.pc + 4 }
    else if bitsAt t.kfcnt 0 8 < bitsAt t.kfcnt 8 8 then
      { t with kfcnt := t.kfcnt + 1, kfidx := BitVec.ofNat 64 (len * 16), pc := base }
    else { t with kfcnt := 0, kfidx := 0, kfstg := 0, pc := base + BitVec.ofNat 64 (4 * (len + 1)) }
  else { t with pc := t.pc + 4 }

/-- The registers of a thread that a withdrawn form gives back (R103, R133). -/
def Thread.regs (t : Thread) : Regs where
  g := t.g
  v := t.v
  m := t.m
  pc := t.pc
  kstat := t.kstat
  kfbuf := t.kfbuf
  kfcnt := t.kfcnt
  kfidx := t.kfidx
  kfstg := t.kfstg
  kbbuf := t.kbbuf
  kbbufh := t.kbbufh
  kbfill := t.kbfill
  kbsrc := t.kbsrc
  kbend := t.kbend

/-- A thread with those registers put back. -/
def Thread.withRegs (t : Thread) (r : Regs) : Thread :=
  { t with g := r.g, v := r.v, m := r.m, pc := r.pc, kstat := r.kstat, kfbuf := r.kfbuf, kfcnt := r.kfcnt, kfidx := r.kfidx,
           kfstg := r.kfstg, kbbuf := r.kbbuf, kbbufh := r.kbbufh, kbfill := r.kbfill, kbsrc := r.kbsrc, kbend := r.kbend }

/-- A thread whose form is over or withdrawn: what belonged to that form alone is gone. -/
def Thread.formOver (t : Thread) : Thread :=
  { t with wait := none, waitFrom := none, retest := none, got := [], before := none, tabsAt := none, gangAt := none, released := false }

/-- The thread after its form completes: it goes on after the form. -/
def Thread.retire (t : Thread) : Thread := { t.advance.formOver with st := .ready }

/-- The thread after its form has had its effect and awaits its reply out of the rotation (R115). -/
def Thread.retireReply (t : Thread) (now : Nat) (d : Reg := 0) : Thread :=
  { t.advance.formOver with wait := some { kind := .reply, d := d, since := now, e := 15 }, st := .waiting }

/-- The same for a form that changes nothing but these registers: a save withdraws it before its reply (R103, R133). -/
def Thread.retirePure (t : Thread) (now : Nat) (d : Reg) (f : Thread → Thread) : Thread :=
  { (f t).retireReply now d with before := some t.regs }

/-- A fixed-latency form that writes one general register. -/
def State.outG (s : State) (d : Reg) (x : Word) : State := s.modTh fun t => (t.setG d x).retire

/-- A variable-latency form that writes one general register and has begun what a save lets complete (R133). -/
def State.replyG (s : State) (d : Reg) (x : Word) : State := s.modTh fun t => (t.setG d x).retireReply s.tick d

/-- A variable-latency form that changes nothing but registers of its thread. -/
def State.pure (s : State) (d : Reg) (f : Thread → Thread) : State := s.modTh fun t => t.retirePure s.tick d f

/-- A variable-latency form that changes nothing but one general register. -/
def State.pureG (s : State) (d : Reg) (x : Word) : State := s.pure d (·.setG d x)

/-- A fixed-latency form with no register result. -/
def State.done (s : State) : State := s.modTh Thread.retire

/-- A variable-latency form with no register result. -/
def State.reply (s : State) : State := s.modTh fun t => t.retireReply s.tick

/-! ## Waits (R20, R21) -/

/-- The limit of a timeout exponent in ticks (Table 1-6), for 1 to 14. -/
def waitLimit (e : Nat) : Nat := 2 ^ (6 + e)

/-- Status codes (Table 1-6a). -/
def stDone : Word := 0
def stTimeout : Word := 1
def stBusy : Word := 2
def stPeerLost : Word := 3
def stCancelled : Word := 4
def stRevoked : Word := 5
def stNoPermit : Word := 6

/-- A thread leaves the rotation with `pc` at its form. The limit of a form tested again is not renewed. -/
def Thread.block (t : Thread) (now : Nat) (st : CtxState) (kind : WaitKind) (d : Reg) (e : Nat) : Thread :=
  { t with st := st, wait := some { kind := kind, d := d, since := t.waitFrom.getD now, e := e },
           waitFrom := some (t.waitFrom.getD now), retest := none }

/-- A thread waits for a translation or an instruction line; no limit of its form starts or ends by that. -/
def Thread.blockFetch (t : Thread) (now : Nat) (kind : WaitKind) : Thread :=
  { t with st := .waiting, wait := some { kind := kind, d := 0, since := now, e := 15 } }

/-- A timed wait whose test has failed: at `e` = 0 its expiry status is written, else the thread waits (R20). -/
def State.timed (s : State) (kind : WaitKind) (d : Reg) (e : BitVec 4) (expiry : Word) : State :=
  if e = 0 then s.pureG d expiry
  else s.modTh fun t => t.block s.tick .waiting kind d e.toNat

/-- A message wait whose test has failed: at `e` = 0 TIMEOUT is written, else the thread parks (R119, R190). -/
def State.park (s : State) (mask : Nat) (d : Reg) (e : BitVec 4) : State :=
  if e = 0 then s.pureG d stTimeout
  else s.modTh fun t => t.block s.tick .parked (.message mask) d e.toNat

/-- A wait with a limit (R20, Table 1-6). -/
def Wait.limited (w : Wait) : Bool := decide (1 ≤ w.e) && decide (w.e ≤ 14)

/-- Ticks after the limit of a wait at which it ends: at once, but where the form is over and only its answer is still on its way,
as late as R20 lets it. -/
def WaitKind.grace : WaitKind → Nat
  | .crossing _ => 64
  | _ => 0

/-- The limit of a wait has passed (R20). -/
def Wait.over (w : Wait) (tick : Nat) : Bool := w.limited && decide (w.since + waitLimit w.e + w.kind.grace ≤ tick)

/-- A waiting or parked thread is READY again from the next cycle and its form is reissued; the limit of a timed wait runs
on, also while the word or a translation of it is fetched (R20, R115, R119). -/
def Thread.wake (t : Thread) : Thread :=
  { t with st := .ready, wait := none, justReady := true,
           retest := match t.wait with
             | some w => if w.limited then some { wait := w, word := t.word } else t.retest
             | none => t.retest }

/-- A thread whose form is over rejoins the rotation in the next cycle (R115). -/
def Thread.rejoin (t : Thread) : Thread := { t.formOver with st := .ready, justReady := true }

/-- A waiting form ends with a status (R20). -/
def Thread.endWait (t : Thread) (d : Reg) (status : Word) : Thread := (t.setG d status).advance.rejoin

/-- An entry address as `pc`, whose bits [1:0] are always zero (R10). DESIGN CHOICE (log entry 69): the spec makes no
check of an entry that is no multiple of 4; the thread starts at the word that holds it. -/
def entryPc (a : Word) : Word := a &&& ~~~3

/-! ## Messages (R117 to R119) -/

/-- What a waiting, parked or running context does when a message is queued for one of its classes in a cycle of its
core (R41, R119): `entry` is the entry of the lowest of its classes that holds a message and has one. Among messages of
the cycle that starts a context, the lowest class decides where. -/
def Thread.notify (t : Thread) (cyc : Nat) (entry : Option Word) : Thread :=
  let t := { t with readyBit := true }
  match t.st with
  | .parked =>
    if t.parkedStart then
      match entry with
      | some a =>
        { t with st := .ready, justReady := true, pc := entryPc a, parkedStart := false, startCyc := some cyc, wait := none }
      | none => t
    else t.wake
  | .ready => if t.startCyc = some cyc then { t with pc := (entry.map entryPc).getD t.pc } else t
  | _ => t

/-- The entry of the lowest class of a context that has one and holds a message (R41). -/
def Core.startEntry (c : Core) (ctx : Nat) : Option Word :=
  (c.classes.find? fun e => e.2.ctx == ctx && e.2.entry.isSome && c.mailbox.any (·.cls == e.1)).bind (·.2.entry)

/-- The slots of a mailbox that a kind of message has left (R117). -/
def Core.mailFull (c : Core) (permitted : Bool) : Bool :=
  if permitted then decide (48 ≤ c.mailbox.countP (·.permitted))
  else decide (16 ≤ c.mailbox.countP (!·.permitted))

/-- A queued message that carries a route tag adds 1 to its counter, if the core's launch claims the counters; they
saturate (R303). -/
def State.countTag (s : State) (ck : Nat) (m : Msg) : State :=
  match m.tag with
  | some rt =>
    let d := coreDie ck
    if (s.die d).rtClaim.isSome && (s.die d).rtClaim == (s.cor ck).launch then
      s.modDie d fun x => { x with rtCount := x.rtCount.set rt (min (2 ^ 32 - 1) (x.rtCount.get 0 rt + 1)) }
    else s
  | none => s

/-- A message is queued in a mailbox: its tag is counted and its class's context is notified (R119, R303). -/
def State.queueMsg (s : State) (ck : Nat) (m : Msg) : State :=
  let s := (s.modCor ck fun c => { c with mailbox := c.mailbox ++ [m] }).countTag ck m
  match (s.cor ck).classes.find m.cls with
  | some ce => s.modThr (threadOf ck ce.ctx) (·.notify (s.die (coreDie ck)).cycle ((s.cor ck).startEntry ce.ctx))
  | none => s

/-- A message is posted; it arrives by MESSAGE_ARRIVAL (R118). -/
def State.post (s : State) (p : Post) : State := { s with transit := s.transit ++ [p] }

/-- A core and the launch that it belongs to; a key from 65536 on names a core of a SAVED launch, with the lid above bit
15 (R294). -/
def State.coreLaunch (s : State) (ck : Nat) : Nat × Option Nat :=
  if 65536 ≤ ck then (ck % 65536, some (ck / 65536)) else (ck, (s.cor ck).launch)

/-- A permitless message from the hardware, with its words. -/
def hwMsg (cls : Nat) (words : List Word) : Msg := { cls := cls, sender := 0, words := words, tag := none, permitted := false }

/-- A permitless message from the hardware for a class of a core (R117). -/
def State.postHw (s : State) (ck cls : Nat) (words : List Word) : State :=
  let k := s.coreLaunch ck
  s.post { core := some k.1, lid := k.2, msg := hwMsg cls words, trapRec := false, src := none, fwd := none }

/-- A report to the Xilux service. -/
def State.postService (s : State) (words : List Word) : State :=
  s.post { core := none, lid := none, msg := hwMsg 0 words, trapRec := false, src := none, fwd := none }

/-! ## Traps (R92 to R95) -/

/-- A trap to be taken: cause and information (Table 4-6), and the `aux` of its record. -/
structure Trap where
  cause : Nat
  info : Word
  aux : Word := 0
  deriving DecidableEq, Repr

/-- Causes (Table 4-6). -/
def cIllegal : Nat := 0x01
def cReservedField : Nat := 0x02
def cPrivilege : Nat := 0x03
def cTranslation : Nat := 0x10
def cPermission : Nat := 0x11
def cKindMismatch : Nat := 0x12
def cMisaligned : Nat := 0x13
def cScratchBounds : Nat := 0x14
def cSelectorCheck : Nat := 0x20
def cSelectorReserved : Nat := 0x21
def cTenureRequired : Nat := 0x30
def cTenureConflict : Nat := 0x31
def cStaleHandle : Nat := 0x32
def cTenureRevoked : Nat := 0x33
def cTileZone : Nat := 0x34
def cKeyOperator : Nat := 0x40
def cKeyRegion : Nat := 0x41
def cKeyType : Nat := 0x42
def cKeyDamaged : Nat := 0x43
def cOverArrival : Nat := 0x50
def cNotMember : Nat := 0x51
def cPacketOpen : Nat := 0x60
def cGangMismatch : Nat := 0x70
def cSparseFormat : Nat := 0x71
def cFpTrap : Nat := 0x80
def cUncorrectable : Nat := 0x90
def cSyscall : Nat := 0xA0
def cBreak : Nat := 0xA1

/-- Why a form does not complete. -/
inductive Stop where
  | trap (t : Trap)
  /-- A translation that is not cached: the thread waits for a walk (R277). -/
  | walk (va : Nat)
  /-- An instruction line that is not cached: the thread waits for it (R130). -/
  | line (va : Nat)
  | fault (f : Fault)
  | refuse (r : Refusal)
  deriving DecidableEq, Repr

/-- A trap as a failed check. -/
def trapIf (b : Bool) (cause : Nat) (info : Word) : Except Stop Unit :=
  if b then .error (.trap { cause := cause, info := info }) else .ok ()

/-- `kid` (R85). -/
def State.kid (s : State) (t : Nat) : Word :=
  if isService t then (Config.serviceKid t).setWidth 64
  else BitVec.ofNat 64 ((s.cor (coreOf t)).lcore % 8192 * 2 ^ 32 + t)

/-- The 64-byte trap record (R95). -/
def State.trapRecord (s : State) (t : Nat) (tr : Trap) : List Word :=
  let x := s.thr t
  let kid := s.kid t
  [x.pc, tr.info, BitVec.ofNat 64 (tr.cause + 2 ^ 32 * bitsAt kid 0 17),
   BitVec.ofNat 64 (x.word.toNat + 2 ^ 32 * bitsAt kid 32 13), x.kstat, BitVec.ofNat 64 s.tick, tr.aux, 0]

/-- The core, class and launch that `ktvec` names, where R94 lets a record of this thread go there: enabled, the class
bound to a context of the thread's launch that is neither the thread itself nor TRAPPED. -/
def State.trapDest (s : State) (t : Nat) : Option (Nat × Nat × Option Nat) :=
  let k := (s.thr t).ktvec
  let ck := bitsAt k 4 13
  let cls := bitsAt k 0 4
  if bitAt k 17 then
    match (s.cor ck).classes.find cls with
    | some ce =>
      let h := threadOf ck ce.ctx
      if (s.cor ck).launch.isSome && (s.cor ck).launch == (s.cor (coreOf t)).launch && h != t && (s.thr h).st != .trapped
      then some (ck, cls, (s.cor ck).launch) else none
    | none => none
  else none

/-- A trap record of a thread of a launch on its way to a class, or to the service (R94). -/
def recordPost (src : Option Nat) (dest : Option (Nat × Nat × Option Nat)) (words : List Word) : Post :=
  { core := dest.map (·.1), lid := dest.bind (·.2.2), msg := hwMsg ((dest.map (·.2.1)).getD 0) words, trapRec := true,
    src := src, fwd := none }

/-- A trap record as it leaves the die of its thread (R94, R322). -/
def State.recordFrom (s : State) (t : Nat) (dest : Option (Nat × Nat × Option Nat)) (words : List Word) : Post :=
  { recordPost (s.cor (coreOf t)).launch dest words with die := some (coreDie (coreOf t)) }

/-- The record of a trap is posted (R94): a TRANSLATION record goes to the service first, with the destination that
`ktvec` names at the trap; the service has a copy of every UNCORRECTABLE record. -/
def State.postRecord (s : State) (t : Nat) (tr : Trap) : State :=
  let words := s.trapRecord t tr
  let dest := s.trapDest t
  if tr.cause = cTranslation then s.post { s.recordFrom t none words with fwd := dest }
  else
    let s := s.post (s.recordFrom t dest words)
    if tr.cause = cUncorrectable && dest.isSome then s.post (s.recordFrom t none words) else s

/-- TAKING A TRAP (R93): the thread is suspended at its instruction and enters TRAPPED; `kcause`, `kinfo` and `kepc`
are written; the record is posted. -/
def State.takeTrap (s : State) (t : Nat) (tr : Trap) : State :=
  (s.postRecord t tr).modThr t fun x =>
    { x.formOver with st := .trapped, kcause := BitVec.ofNat 64 tr.cause, kinfo := tr.info, kepc := x.pc }

/-- A trap taken by the issuing thread. -/
def State.trapNow (s : State) (tr : Trap) : State := s.takeTrap s.cur tr

/-! ## The service's work for a thread (R110, R358) -/

/-- A context of a SAVED launch: its TID is in bits [19:0], the lid above it (R294). -/
def savedTid (t : Nat) : Bool := decide (2 ^ 20 ≤ t)

/-- The launch of a thread. -/
def State.callLid (s : State) (t : Nat) : Option Nat :=
  if savedTid t then some (t / 2 ^ 20) else (s.cor (coreOf t)).launch

/-- A SYSCALL record of a TID of a launch (Table 4-7). -/
def isCallOf (lid : Option Nat) (tid : Nat) (p : Post) : Bool :=
  p.trapRec && bitsAt (p.msg.words.getD 2 0) 0 8 == cSyscall && bitsAt (p.msg.words.getD 2 0) 32 17 == tid && p.src == lid

/-- The thread that the service restores a region for. -/
def RemoteWork.caller : RemoteWork → Option Nat
  | .restore t _ _ _ _ _ => some t
  | _ => none

/-- Calls of some threads that the service has still to answer are void. -/
def State.voidCalls (s : State) (p : Nat → Bool) : State :=
  { s with calls := s.calls.filter fun c => !p c.thread, remoteWaits := s.remoteWaits.filter fun w => !w.work.caller.any p }

/-- A thread leaves TRAPPED: a call of it that the service has not answered is void. -/
def State.dropCall (s : State) (t : Nat) : State :=
  { s.voidCalls (· == t) with service := s.service.filter fun p => !isCallOf (s.callLid t) (t % 2 ^ 20) p }

/-- RETURNING FROM A TRAP (R109, R111): the target leaves TRAPPED for READY and nothing else of it changes. -/
def State.resume (s : State) (t : Nat) : State := (s.dropCall t).modThr t fun x => { x with st := .ready }

/-- The outcome of a meaning: a failed check is taken as what it is. -/
def finish (s : State) (r : Except Stop State) : Host.Outcome State Fault Refusal :=
  match r with
  | .ok s' => .next s'
  | .error (.trap t) => .next (s.trapNow t)
  | .error (.walk va) =>
    .next ({ s with walks := s.walks ++ [s.cur] }.modTh fun t => t.blockFetch s.tick (.pageWalk va))
  | .error (.line va) => .next (s.modTh fun t => t.blockFetch s.tick (.icacheMiss va))
  | .error (.fault f) => .fault f
  | .error (.refuse r) => .refused r

/-- `kinfo` of R25 for ILLEGAL and PRIVILEGE. -/
def State.wordInfo (s : State) : Word := s.th.word.setWidth 64

/-- R24 step 4: a form that needs service level. -/
def State.needService (s : State) : Except Stop Unit := trapIf (!s.th.service) cPrivilege s.wordInfo

/-- R24 step 2, for a form that the word's place makes illegal (R161). -/
def State.illegalNow (s : State) : State := s.trapNow { cause := cIllegal, info := s.wordInfo }

end Sys2Proof.Machine
end

