-- ==== Sys2Proof/Machine/Memory.lean ====
section
/-! DEFINITION. Physical memory, translation, the L1 and the write-through queue, the scratchpad (R121 to R129, R165 to
R172, R270, R275 to R277, R281, R328 to R330). -/

namespace Sys2Proof.Machine

/-! ## Physical memory (R6, R270, R328) -/

/-- What an address that is not listed reads as: the initial value of R328. -/
def memDefault : Byte := 0

/-- The canonical form of memory: addresses strictly rising, no entry equal to the default. -/
def memWf (m : List Host.Cell) : Bool := AMap.sorted m && m.all fun c => c.2 != memDefault

/-- One byte of physical memory. -/
def memGet (m : List Host.Cell) (a : Nat) : Byte := AMap.get memDefault m a

/-- One byte of physical memory written; the canonical form is kept. -/
def memPut (m : List Host.Cell) (a : Nat) (b : Byte) : List Host.Cell := AMap.put memDefault m a b

/-- `n` bytes from an address. -/
def memRead (m : List Host.Cell) (a : Nat) : Nat → List Byte
  | 0 => []
  | n + 1 => memGet m a :: memRead m (a + 1) n

/-- Bytes written from an address on. -/
def memWrite (m : List Host.Cell) (a : Nat) : List Byte → List Host.Cell
  | [] => m
  | b :: r => memWrite (memPut m a b) (a + 1) r

/-- Bytes written where the mask has a byte (R128). -/
def memWriteMask (m : List Host.Cell) (a : Nat) : List (Option Byte) → List Host.Cell
  | [] => m
  | some b :: r => memWriteMask (memPut m a b) (a + 1) r
  | none :: r => memWriteMask m (a + 1) r

/-- HBM of a die (Table 14-1). -/
def isHbm (pa : Nat) : Bool := decide (pa < 12 * 0x1800000000)

/-- The second tier (Table 14-1). -/
def isCxl (pa : Nat) : Bool := decide (0x1000000000000 ≤ pa) && decide (pa < 0x1100000000000)

/-- DEVICE register blocks (Table 14-1). -/
def isDevice (pa : Nat) : Bool := decide (0x8000000000000 ≤ pa) && decide (pa < 0x8010000000000)

/-- An address that Table 14-1 gives to something. -/
def inMap (pa : Nat) : Bool := isHbm pa || isCxl pa || isDevice pa

/-! ## Page tables (R5, R275 to R277) -/

/-- Bits 63:57 equal bit 56 (R5). -/
def canonical (va : Nat) : Bool := va / 2 ^ 56 % 256 == 0 || va / 2 ^ 56 % 256 == 255

/-- Fields of a page-table entry (Table 14-2). -/
def pteSize (e : Word) : Nat := bitsAt e 60 4
def pteKind (e : Word) : Nat := bitsAt e 58 2
def pteRes (e : Word) : Nat := bitsAt e 56 2
def ptePa (e : Word) : Nat := bitsAt e 12 40 * 4096
def pteLu (e : Word) : Bool := bitAt e 5
def pteBd (e : Word) : Bool := bitAt e 4
def pteX (e : Word) : Bool := bitAt e 3
def pteW (e : Word) : Bool := bitAt e 2
def pteLeaf (e : Word) : Bool := bitAt e 1
def pteV (e : Word) : Bool := bitAt e 0

/-- Page kinds (Table 14-2). -/
def kPlain : Nat := 0
def kTiled : Nat := 1
def kKeyed : Nat := 2
def kDevice : Nat := 3

/-- Bytes of a page of a size code. -/
def pageBytes (c : Nat) : Nat := 2 ^ (12 + 2 * c)

/-- The level at which a page of a size code is a leaf (Table 14-3). -/
def leafLevel (c : Nat) : Nat := if c ≤ 4 then 0 else if c ≤ 8 then 1 else 2

/-- How many identical entries a page of a size code has (Table 14-3). -/
def leafCount (c : Nat) : Nat := pageBytes c / 2 ^ (12 + 9 * leafLevel c)

/-- The 8-byte word at a physical address. -/
def memWord (m : List Host.Cell) (a : Nat) : Word := BitVec.ofNat 64 (natOfBytes (memRead m a 8))

/-- An entry that is malformed by its own fields (R276), at a level. -/
def pteMalformed (e : Word) (level : Nat) : Bool :=
  bitsAt e 52 4 != 0 || bitsAt e 6 6 != 0 || !inMap (ptePa e) || (pteBd e && pteKind e != kPlain) ||
  if pteLeaf e then
    decide (3 ≤ level) || decide (12 ≤ pteSize e) || leafLevel (pteSize e) != level ||
    ptePa e % pageBytes (pteSize e) != 0
  else level == 0 || pteSize e != 0

/-- Every replica of a leaf in its table is the same entry (R276). -/
def replicasAgree (m : List Host.Cell) (table idx : Nat) (e : Word) : Bool :=
  let n := leafCount (pteSize e)
  (List.range n).all fun k => memWord m (table + 8 * (idx - idx % n + k)) == e

/-- How a walk ends: a leaf, a TRANSLATION fault, or an uncorrectable word of a table. -/
inductive WalkEnd where
  | leaf (base : Nat) (pte : Word)
  | noPage
  | poisoned (pa : Nat)
  deriving DecidableEq, Repr

/-- A walk from a table of a level down (R275, R276). -/
def walkFrom (m : List Host.Cell) (lost : Nat → Bool) (va : Nat) : Nat → Nat → WalkEnd
  | level, table =>
    let idx := va / 2 ^ (12 + 9 * level) % 512
    let a := table + 8 * idx
    if lost (a / 8) then .poisoned a else
    let e := memWord m a
    if !pteV e || pteMalformed e level then .noPage
    else if pteLeaf e then
      if replicasAgree m table idx e then .leaf (va - va % pageBytes (pteSize e)) e else .noPage
    else
      match level with
      | 0 => .noPage
      | l + 1 => walkFrom m lost va l (ptePa e)

/-- The die of the HBM or second-tier port that serves an address (R270, R314). -/
def homeDie (pa : Nat) : Nat :=
  if isHbm pa then pa / 0x1800000000
  else if isCxl pa then let p := pa / 2 ^ 41 % 8; if p < 4 then p else p + 4
  else 0

/-- A word whose place is gone: homed on a die that is offline, or behind a second-tier port whose link is down (R305,
R315). -/
def State.goneWord (s : State) (w : Nat) : Bool :=
  !(s.die (homeDie (8 * w))).online || (isCxl (8 * w) && !s.cxlUp.contains (8 * w / 2 ^ 41 % 8))

/-- A word that its place cannot deliver: marked uncorrectable, or gone with its place (R281). -/
def State.lostWord (s : State) (w : Nat) : Bool := (s.poison.find w).isSome || s.goneWord w

/-- The walk of an address in an address space. -/
def State.walk (s : State) (asid va : Nat) : WalkEnd :=
  match s.spaces.find asid with
  | some sp => walkFrom s.mem s.lostWord va 4 sp.root
  | none => .noPage

/-- The entries that a walk reads, from a table of a level down. -/
def walkReads (m : List Host.Cell) (va : Nat) : Nat → Nat → List Nat
  | level, table =>
    let a := table + 8 * (va / 2 ^ (12 + 9 * level) % 512)
    let e := memWord m a
    if !pteV e || pteMalformed e level || pteLeaf e then [a]
    else
      match level with
      | 0 => [a]
      | l + 1 => a :: walkReads m va l (ptePa e)

/-- The entries that the walk of an address reads, each from its home slice (R277). -/
def State.walkReads (s : State) (asid va : Nat) : List Nat :=
  match s.spaces.find asid with
  | some sp => Machine.walkReads s.mem va 4 sp.root
  | none => []

/-- The cached translation of an address (R277). -/
def tlbFind : List TlbEnt → Nat → Option TlbEnt
  | [], _ => none
  | e :: r, va => if e.va ≤ va ∧ va < e.va + pageBytes (pteSize e.pte) then some e else tlbFind r va

/-- Access kinds for the page checks of R276. -/
inductive Acc where
  | load | store | fetch
  deriving DecidableEq, Repr

/-- A piece of an access inside one page: its virtual and physical address, bytes, and page entry. -/
structure Part where
  va : Nat
  pa : Nat
  n : Nat
  pte : Word
  deriving DecidableEq, Repr

/-- R166 step 1 for one virtual address (R5, R165). -/
def canonCheck (va : Nat) : Except Stop Unit := trapIf (!canonical va) cTranslation (BitVec.ofNat 64 va)

/-- R166 step 1 for every piece, in order. -/
def canonChecks : List (Nat × Nat) → Except Stop Unit
  | [] => .ok ()
  | (va, _) :: r => do
    canonCheck va
    canonChecks r

/-- R166 step 2 for one piece, whose address is canonical. -/
def State.pagePart (s : State) (acc : Acc) (va n : Nat) : Except Stop Part :=
  match tlbFind s.co.tlb va with
  | none => .error (.walk va)
  | some e =>
    if (!s.th.service && !pteLu e.pte) || (acc == .store && !pteW e.pte) || (acc == .fetch && !pteX e.pte) then
      .error (.trap { cause := cPermission, info := BitVec.ofNat 64 va })
    else .ok { va := va, pa := ptePa e.pte + (va - e.va), n := n, pte := e.pte }

/-- R166 step 2 for every piece, in order. -/
def State.pagesOf (s : State) (acc : Acc) : List (Nat × Nat) → Except Stop (List Part)
  | [] => .ok []
  | (va, n) :: r => do
    let p ← s.pagePart acc va n
    let ps ← s.pagesOf acc r
    .ok (p :: ps)

/-- R166 steps 1 and 2: each step for every piece, lowest address first, before the next. -/
def State.pageParts (s : State) (acc : Acc) (l : List (Nat × Nat)) : Except Stop (List Part) := do
  canonChecks l
  s.pagesOf acc l

/-- The pieces of a plain access, one per 128-byte line (R168). DESIGN CHOICE (log entry 102): of an access past address
2^64 - 1 the second piece begins at address 0, and is judged after the first. -/
def linePieces (va n : Nat) : List (Nat × Nat) :=
  let r := 128 - va % 128
  if n ≤ r then [(va, n)] else [(va, r), ((va + r) % 2 ^ 64, n - r)]

/-- R166 step 3: every piece lies in a page of one of the kinds. -/
def kindCheck (kinds : List Nat) : List Part → Except Stop Unit
  | [] => .ok ()
  | p :: r => do
    trapIf (!kinds.contains (pteKind p.pte)) cKindMismatch (BitVec.ofNat 64 p.va)
    kindCheck kinds r

/-- The one part of an access that is never split: every page it touches is checked, then the kind, then its alignment to
its size (R166, R169, R177, R278). -/
def State.wholePart (s : State) (acc : Acc) (kind : Nat) (ea : Word) (n : Nat) : Except Stop Part := do
  let ps ← s.pageParts acc (linePieces ea.toNat n)
  kindCheck [kind] ps
  match ps with
  | [p] => if ea.toNat % n = 0 then .ok p else .error (.trap { cause := cMisaligned, info := ea })
  | _ => .error (.trap { cause := cMisaligned, info := ea })

/-- An access across two pages of different residency traps MISALIGNED (R168). -/
def residencyCheck : List Part → Except Stop Unit
  | [p, q] => trapIf (pteRes p.pte != pteRes q.pte) cMisaligned (BitVec.ofNat 64 p.va)
  | _ => .ok ()

/-! ## Homes and requests (R270, R271, R280) -/

/-- The form in progress of the core has sent a request to a die, by its number (R280, R322). -/
def State.ask (s : State) (ck : Nat) (a : Ask) : State :=
  if s.ck = ck ∧ s.th.st = .ready then s.modTh fun t => { t with asked := a :: t.asked } else s

/-- A request of a core reaches its home on another die: it takes the next sequence number, and its reply is kept with
the core's last 64 (R280): a value, which fills `n` bytes of the form's register from byte `off` on, or none for an
acknowledgment. -/
def State.noteRequest (s : State) (ck die : Nat) (reply : Option Word) (off : Nat := 0) (n : Nat := 8) : State :=
  if coreDie ck = die then s
  else
    let q := (s.cor ck).seq.get 0 die
    let s := s.modCor ck fun c => { c with seq := c.seq.set die ((q + 1) % 65536) }
    (s.ask ck { die := die, seq := q, off := off, n := n }).modDie die fun d =>
      { d with replies := d.replies.set ck (((q, reply) :: d.replies.get [] ck).take 64) }

/-! ## Uncorrectable words (R281) -/

/-- The 8-byte words that `n` bytes from an address touch. -/
def wordsOf (a n : Nat) : List Nat := (List.range ((a % 8 + n + 7) / 8)).map (a / 8 + ·)

/-- The words among those of an access that its bytes fill. -/
def fullWord (a n w : Nat) : Bool := decide (a ≤ 8 * w) && decide (8 * w + 8 ≤ a + n)

/-- Some ranges of bytes, address and length, together fill an 8-byte word. -/
def spansFill (l : List (Nat × Nat)) (w : Nat) : Bool :=
  (List.range 8).all fun i => l.any fun e => decide (e.1 ≤ 8 * w + i) && decide (8 * w + i < e.1 + e.2)

/-- Bytes written at their home: memory changes, and a word written in full loses its mark (R281). -/
def State.homeWrite (s : State) (pa : Nat) (bs : List Byte) : State :=
  { s with mem := memWrite s.mem pa bs,
           poison := (wordsOf pa bs.length).foldl (fun p w => if fullWord pa bs.length w then p.erase w else p) s.poison }

/-! ## The write-through queue (R170, R330) -/

/-- The byte the queue holds for an address of memory, the newest entry deciding. -/
def wtByte : List WtEntry → Nat → Option Byte
  | [], _ => none
  | e :: r, a =>
    match wtByte r a with
    | some b => some b
    | none => if e.pa ≤ a ∧ !e.dev then (e.bytes.getD (a - e.pa) none) else none

/-- The die of a DEVICE register block (R270). -/
def deviceDie (pa : Nat) : Nat := (pa - 0x8000000000000) / 2 ^ 32

/-- The die that an entry of a write-through queue goes to. -/
def WtEntry.die (e : WtEntry) : Nat := if e.dev then deviceDie e.pa else homeDie e.pa

/-- A store is on its way to a DEVICE register (R169, R345). -/
def State.toDevice (s : State) (e : WtEntry) : State :=
  { s with inbox := s.inbox ++ [.deviceRegisterWrite e.pa e.bytes.length
      (BitVec.ofNat 64 (natOfBytes (e.bytes.map (·.getD 0))))] }

/-- An entry performed: bytes at their home; a store to a DEVICE register reaches its device (R169, R280, R345). -/
def State.wtPerform (s : State) (ck : Nat) (e : WtEntry) : State :=
  if e.dev then (s.toDevice e).noteRequest ck e.die none
  else
  let s := { s with mem := memWriteMask s.mem e.pa e.bytes,
                    poison := (wordsOf e.pa e.bytes.length).foldl (fun p w =>
                      if fullWord e.pa e.bytes.length w && ((e.bytes.drop (8 * w - e.pa)).take 8).all (·.isSome)
                      then p.erase w else p) s.poison }
  s.noteRequest ck e.die none

/-! ## The L1 (R127 to R129) -/

/-- The bits of a line mask that `n` bytes from an offset touch. -/
def wordMask (off n : Nat) : BitVec 32 :=
  if n = 0 then 0 else BitVec.ofNat 32 ((2 ^ ((off + n - 1) / 4 + 1)) - 2 ^ (off / 4))

/-- Bytes of a line as a number. -/
def lineGet (data : BitVec 1024) (off n : Nat) : Nat := data.toNat / 2 ^ (8 * off) % 2 ^ (8 * n)

/-- Bytes of a line replaced. -/
def linePut (data : BitVec 1024) (off n v : Nat) : BitVec 1024 :=
  let keep := data &&& ~~~ (BitVec.ofNat 1024 ((2 ^ (8 * n) - 1) * 2 ^ (8 * off)))
  keep ||| BitVec.ofNat 1024 (v % 2 ^ (8 * n) * 2 ^ (8 * off))

/-- What goes home as a line is written through: its dirty words, and with them what the core's queue still holds of the
line (R128, R129, R170). DESIGN CHOICE (log entry 95): they are one entry, so that the stores to a word reach its home in program
order and none of them twice (R329, R339). -/
def State.lineEntry (s : State) (ck line : Nat) (l : L1Line) : WtEntry where
  pa := line * 128
  bytes := (List.range 128).map fun i =>
    if l.dirty.getLsbD (i / 4) then some (BitVec.ofNat 8 (lineGet l.data i 1)) else wtByte (s.cor ck).wtq (line * 128 + i)
  dev := false

/-- An entry of the queue holds bytes of a line. -/
def WtEntry.onLine (e : WtEntry) (line : Nat) : Bool := !e.dev && e.pa / 128 == line

/-- A core whose line goes home: its words are clean, and nothing of it is left in the queue. -/
def Core.cleaned (c : Core) (line : Nat) (l : L1Line) : Core :=
  { c with l1 := c.l1.set line { l with dirty := 0 }, wtq := c.wtq.filter fun e => !e.onLine line }

/-- The line of an entry of memory, if the L1 has dirty words of it that the entry's bytes touch. -/
def Core.dirtyLine (c : Core) (e : WtEntry) : Option L1Line :=
  if e.dev then none else (c.l1.find (e.pa / 128)).filter fun l => l.dirty &&& wordMask (e.pa % 128) e.bytes.length != 0

/-- The oldest entry leaves the queue and is performed. DESIGN CHOICE (log entry 95): a line whose dirty words it touches is
written through with it, as an eviction may at any time (R128): a home that had a store of part of such a word before the word
itself could give others a torn word (R329). -/
def State.wtDrainOne (s : State) (ck : Nat) : State :=
  match (s.cor ck).wtq with
  | [] => s
  | e :: r =>
    match (s.cor ck).dirtyLine e with
    | some l => (s.modCor ck (·.cleaned (e.pa / 128) l)).wtPerform ck (s.lineEntry ck (e.pa / 128) l)
    | none => (s.modCor ck fun c => { c with wtq := r }).wtPerform ck e

/-- The queue drained, in order. -/
def State.wtDrainAll (s : State) (ck : Nat) : Nat → State
  | 0 => s
  | n + 1 => (s.wtDrainOne ck).wtDrainAll ck n

/-- The queue drained wholly. -/
def State.wtDrain (s : State) (ck : Nat) : State := s.wtDrainAll ck (s.cor ck).wtq.length

/-- An entry taken: a full queue first performs its oldest (R170). -/
def State.wtPush (s : State) (ck : Nat) (e : WtEntry) : State :=
  let s := if 32 ≤ (s.cor ck).wtq.length then s.wtDrainOne ck else s
  s.modCor ck fun c => { c with wtq := c.wtq ++ [e] }

/-- A line written through by its dirty words, which become clean (R129). -/
def State.l1Clean (s : State) (ck line : Nat) : State :=
  match (s.cor ck).l1.find line with
  | none => s
  | some l =>
    if l.dirty = 0 then s else (s.modCor ck (·.cleaned line l)).wtPush ck (s.lineEntry ck line l)

/-- A line evicted: its dirty words are written through (R128). -/
def State.l1Evict (s : State) (ck line : Nat) : State :=
  let s := s.l1Clean ck line
  s.modCor ck fun c => { c with l1 := c.l1.erase line }

/-- The lines of the L1 that share a set with a line. DESIGN CHOICE (log entry 9): R127 has 32 sets and does not say which
address bits pick one; the model takes PA[11:7]. -/
def setLines (c : Core) (line : Nat) : List Nat := (c.l1.map (·.1)).filter fun k => k % 32 == line % 32

/-- Room for a line in its set of eight ways (R127). -/
def State.l1Room (s : State) (ck line : Nat) : State :=
  let ls := setLines (s.cor ck) line
  if (s.cor ck).l1.find line |>.isSome then s
  else if ls.length < 8 then s
  else
    let (n, s) := s.draw
    s.l1Evict ck (ls.getD (Config.l1Victim n % ls.length) 0)

/-- A byte as a core sees it at its home: its own queue first (R330). -/
def State.seenByte (s : State) (ck pa : Nat) : Byte := (wtByte (s.cor ck).wtq pa).getD (memGet s.mem pa)

/-- `n` bytes as a core sees them at their home. -/
def State.seenNat (s : State) (ck pa n : Nat) : Nat := natOfBytes ((List.range n).map fun i => s.seenByte ck (pa + i))

/-- A byte of a line that its core alone has: of a dirty word (R128). -/
def L1Line.ownByte (l : L1Line) (i : Nat) : Bool := l.dirty.getLsbD (i / 4)

/-- A byte as a core's contexts see it at its home (R330): what only the L1 has yet, else as at its home. -/
def State.viewByte (s : State) (ck pa : Nat) : Byte :=
  match (s.cor ck).l1.find (pa / 128) with
  | some l => if l.ownByte (pa % 128) then BitVec.ofNat 8 (lineGet l.data (pa % 128) 1) else s.seenByte ck pa
  | none => s.seenByte ck pa

/-- A line, empty if absent. -/
def Core.line (c : Core) (p : Part) : L1Line :=
  (c.l1.find (p.pa / 128)).getD
    { valid := 0, dirty := 0, bad := 0, data := 0, ro := !pteW p.pte,
      tile := if pteKind p.pte = kTiled then some (p.va / 128) else none }

/-- The words of a line that a fetch for some bytes may fill: all of them, and of a TILED page, where only words
inside a tenure live in the L1, those of the bytes (R127, R128). -/
def fillMask (p : Part) : BitVec 32 :=
  if pteKind p.pte = kTiled then wordMask (p.pa % 128) p.n else BitVec.allOnes 32

/-- An access at the home of a line, unless its page is marked base-die: one that misses the L2 slice enters the line in
the filter of the memory-side cache (R273, R274). -/
def State.filterEnter (s : State) (pa : Nat) (bd : Bool := false) : State :=
  if bd || !isHbm pa then s
  else s.modDie (homeDie pa) fun d =>
    { d with filter := if Config.l2Miss (pa / 128) s.tick then d.filter.set (pa / 128) true else d.filter }

/-- A byte that the core itself holds, in its L1 alone or in its write-through queue (R330). -/
def Core.ownByte (c : Core) (pa : Nat) : Bool :=
  (c.l1.find (pa / 128)).any (·.ownByte (pa % 128)) || (wtByte c.wtq pa).isSome

/-- An 8-byte word of which the core itself holds every byte. -/
def Core.ownWord (c : Core) (w : Nat) : Bool := (List.range 8).all fun i => c.ownByte (8 * w + i)

/-- An 8-byte word that its home cannot deliver and the core does not hold itself (R281). -/
def State.homeBad (s : State) (ck w : Nat) : Bool := s.lostWord w && !(s.cor ck).ownWord w

/-- A valid clean word of a line is not what its home holds now, by its bytes or by its mark. -/
def State.staleWord (s : State) (ck line : Nat) (l : L1Line) (w : Nat) : Bool :=
  l.valid.getLsbD w && !l.dirty.getLsbD w &&
  (lineGet l.data (4 * w) 4 != s.seenNat ck (line * 128 + 4 * w) 4 || (l.bad.getLsbD w && !s.homeBad ck (line * 16 + w / 2)))

/-- Room for a fetch of a line. DESIGN CHOICE (log entry 60): a line with a valid
clean word that its home has changed since is evicted first, so that no load joins an older word with a fetched one
(R329). -/
def State.l1Fresh (s : State) (ck : Nat) (p : Part) : State :=
  let s := s.l1Room ck (p.pa / 128)
  if (List.range 32).any (s.staleWord ck (p.pa / 128) ((s.cor ck).line p)) then s.l1Evict ck (p.pa / 128) else s

/-- A word of a line filled from its home, with its mark (R128, R281). -/
def State.fillWord1 (s : State) (ck line : Nat) (l : L1Line) (w : Nat) : L1Line :=
  let bit : BitVec 32 := BitVec.ofNat 32 (2 ^ w)
  { l with valid := l.valid ||| bit, data := linePut l.data (4 * w) 4 (s.seenNat ck (line * 128 + 4 * w) 4),
           bad := if s.homeBad ck (line * 16 + w / 2) then l.bad ||| bit else l.bad &&& ~~~ bit }

/-- A line fetched from its home: only words that are not valid are filled (R128); a dirty word is valid. -/
def State.l1Fill (s : State) (ck : Nat) (p : Part) : State :=
  let line := p.pa / 128
  let s := s.l1Fresh ck p
  let l := (s.cor ck).line p
  let l := { l with valid := l.valid ||| l.dirty }
  let new := (List.range 32).filter fun w => (fillMask p).getLsbD w && !l.valid.getLsbD w
  let s := s.modCor ck fun c => { c with l1 := c.l1.set line (new.foldl (s.fillWord1 ck line) l) }
  (s.filterEnter p.pa (pteBd p.pte)).noteRequest ck (homeDie (line * 128)) none

/-- Every word that some bytes touch is valid in the L1: the access hits (R128). -/
def Core.l1Hit (c : Core) (pa n : Nat) : Bool :=
  match c.l1.find (pa / 128) with
  | some l => l.valid &&& wordMask (pa % 128) n == wordMask (pa % 128) n
  | none => false

/-- The words of a line that hold some bytes of one of its 8-byte words. -/
def wordPart (pa n w : Nat) : BitVec 32 := wordMask (pa % 128) n &&& wordMask (8 * w % 128) 8

/-- The core itself holds every byte of an 8-byte word that `n` bytes from an address touch. -/
def Core.ownPart (c : Core) (pa n w : Nat) : Bool :=
  (List.range 8).all fun i => decide (8 * w + i < pa) || decide (pa + n ≤ 8 * w + i) || c.ownByte (8 * w + i)

/-- An access meets a word that it cannot read: its place is gone, its valid copy carries the mark, or its home has
nothing good for a word that is to be fetched (R281). -/
def State.badRead (s : State) (ck pa n w : Nat) : Bool :=
  let m := wordPart pa n w
  match (s.cor ck).l1.find (pa / 128) with
  | some l =>
    if (l.valid ||| l.dirty) &&& m = m then l.bad &&& m != 0 || (s.goneWord w && !(s.cor ck).ownPart pa n w)
    else s.homeBad ck w
  | none => s.homeBad ck w

/-- The first uncorrectable word that a load through the L1 meets (R281). -/
def State.badWord (s : State) (ck pa n : Nat) : Option Nat := (wordsOf pa n).find? fun w => s.badRead ck pa n w

/-- The UNCORRECTABLE trap of a physical word (R281). -/
def uncorrectable (w : Nat) : Trap := { cause := cUncorrectable, info := BitVec.ofNat 64 (8 * w) }

/-- One part of a plain load through the L1: its value, and the state with the line fetched if it missed. -/
def State.loadPart (s : State) (ck : Nat) (p : Part) : Except Stop (Nat × State) :=
  match s.badWord ck p.pa p.n with
  | some w => .error (.trap (uncorrectable w))
  | none =>
    let s := if (s.cor ck).l1Hit p.pa p.n then s else s.l1Fill ck p
    .ok (lineGet ((s.cor ck).line p).data (p.pa % 128) p.n, s)

/-- Every part of a load, lowest address first; the value is little-endian over the parts. -/
def State.loadParts (s : State) (ck : Nat) : List Part → Except Stop (Nat × State)
  | [] => .ok (0, s)
  | p :: r => do
    let (v, s) ← s.loadPart ck p
    let (w, s) ← s.loadParts ck r
    .ok (v + 2 ^ (8 * p.n) * w, s)

/-- A part of a store that writes whole words: into the L1, valid and dirty; an absent line is allocated without a
fetch (R128). -/
def State.storeWhole (s : State) (ck : Nat) (p : Part) (v : Nat) : State :=
  let line := p.pa / 128
  let s := s.l1Room ck line
  let l := (s.cor ck).line p
  let mask := wordMask (p.pa % 128) p.n
  let new := { l with valid := l.valid ||| mask, dirty := l.dirty ||| mask, bad := l.bad &&& ~~~ mask,
                      data := linePut l.data (p.pa % 128) p.n v }
  s.modCor ck fun c => { c with l1 := c.l1.set line new }

/-- Bytes replaced in the words of a line that are valid. -/
def L1Line.update (l : L1Line) (off n v : Nat) : L1Line :=
  { l with data := (List.range n).foldl (fun d i =>
      if (l.valid ||| l.dirty).getLsbD ((off + i) / 4) then linePut d (off + i) 1 (v / 2 ^ (8 * i)) else d) l.data }

/-- A part of a store that writes a word in part: valid copies are updated in place and keep their dirty bits, and the
bytes go to the home by mask through the queue (R128, R170). -/
def State.storePartial (s : State) (ck : Nat) (p : Part) (v : Nat) : State :=
  let line := p.pa / 128
  let s := s.modCor ck fun c =>
    match c.l1.find line with
    | some l => { c with l1 := c.l1.set line (l.update (p.pa % 128) p.n v) }
    | none => c
  s.wtPush ck { pa := p.pa, bytes := (bytesOf v p.n).map some, dev := false }

/-- A store writes each of its 4-byte words in full (R128). -/
def wholeWords (va n : Nat) : Bool := va % 4 == 0 && n % 4 == 0

/-- The L1 holds a copy of an 8-byte word with the mark (R281). -/
def Core.badCopy (c : Core) (w : Nat) : Bool :=
  match c.l1.find (w / 16) with
  | some l => l.valid &&& l.bad &&& wordMask (8 * w % 128) 8 != 0
  | none => false

/-- A word that a store cannot write: its place is gone, or it is uncorrectable, at its home or as a copy, and the store
writes it in part (R281, R315). -/
def State.noStore (s : State) (ck pa n w : Nat) : Bool :=
  s.goneWord w || ((s.homeBad ck w || (s.cor ck).badCopy w) && !fullWord pa n w)

/-- The parts of a store in order; a word that a later part cannot write leaves the earlier ones performed (R166). -/
def State.storeParts (s : State) (ck : Nat) (whole : Bool) (v : Nat) : List Part → Except Stop (Option Nat × State)
  | [] => .ok (none, s)
  | p :: r =>
    match (wordsOf p.pa p.n).find? fun w => s.noStore ck p.pa p.n w with
    | some w => .ok (some w, s)
    | none =>
      let s := if whole then s.storeWhole ck p (v % 2 ^ (8 * p.n)) else s.storePartial ck p (v % 2 ^ (8 * p.n))
      s.storeParts ck whole (v / 2 ^ (8 * p.n)) r

/-- The lines of a core's L1. -/
def Core.l1Lines (c : Core) : List Nat := c.l1.map (·.1)

/-- Every dirty word of the L1 written through, and every write-through acknowledged (R129, R177). -/
def State.l1Release (s : State) (ck : Nat) : State :=
  ((s.cor ck).l1Lines.foldl (fun s l => s.l1Clean ck l) s).wtDrain ck

/-- A line with its clean words invalidated (R129). -/
def L1Line.cleanGone (l : L1Line) : L1Line := { l with valid := l.dirty }

/-- The acquire action: every valid clean word outside read-only pages is invalidated (R129). -/
def State.l1Acquire (s : State) (ck : Nat) : State :=
  s.modCor ck fun c =>
    let kept := c.l1.map fun e => if e.2.ro then e else (e.1, e.2.cleanGone)
    { c with l1 := kept.filter fun e => (e.2.valid ||| e.2.dirty) != 0 }

/-- The clean words of a line, but of a read-only page, leave the L1. -/
def State.l1Forget (s : State) (ck line : Nat) : State :=
  s.modCor ck fun c =>
    match c.l1.find line with
    | some l =>
      if l.ro then c
      else { c with l1 := if l.dirty = 0 then c.l1.erase line else c.l1.set line l.cleanGone }
    | none => c

/-- A dirty word of the L1 holds one of some bytes. -/
def Core.l1Dirty (c : Core) (pa n : Nat) : Bool :=
  match c.l1.find (pa / 128) with
  | some l => l.dirty &&& wordMask (pa % 128) n != 0
  | none => false

/-- Dirty words that some bytes touch are written through, and every queue entry that holds one of the bytes is
acknowledged (R128, R177). The line's dirty words go together, so that no store is seen in part (R329). -/
def State.l1Flush (s : State) (ck pa n : Nat) : State :=
  let s := if (s.cor ck).l1Dirty pa n then s.l1Clean ck (pa / 128) else s
  if ((List.range n).any fun i => (wtByte (s.cor ck).wtq (pa + i)).isSome) then s.wtDrain ck else s

/-- The L1 words that some bytes touch, invalidated (R128). -/
def State.l1Invalidate (s : State) (ck pa n : Nat) : State :=
  s.modCor ck fun c =>
    match c.l1.find (pa / 128) with
    | some l =>
      let l := { l with valid := l.valid &&& ~~~ wordMask (pa % 128) n, dirty := l.dirty &&& ~~~ wordMask (pa % 128) n }
      { c with l1 := if l.valid = 0 then c.l1.erase (pa / 128) else c.l1.set (pa / 128) l }
    | none => c

/-! ## The scratchpad (R121 to R125, R281) -/

/-- One byte of the scratchpad. -/
def Core.scrByte (c : Core) (a : Nat) : Byte := BitVec.ofNat 8 ((c.scratch.get 0 (a / 8)).toNat / 2 ^ (8 * (a % 8)))

/-- One byte of the scratchpad written. -/
def Core.scrPut (c : Core) (a : Nat) (b : Byte) : Core :=
  let w := c.scratch.get 0 (a / 8)
  let k := 2 ^ (8 * (a % 8))
  let w' := BitVec.ofNat 64 (w.toNat - w.toNat / k % 256 * k + b.toNat * k)
  { c with scratch := AMap.put 0 c.scratch (a / 8) w' }

/-- `n` bytes of the scratchpad as a number. -/
def Core.scrRead (c : Core) (a n : Nat) : Nat := natOfBytes ((List.range n).map fun i => c.scrByte (a + i))

/-- Bytes written to the scratchpad; a word written in full loses its mark (R281). -/
def Core.scrWrite (c : Core) (a : Nat) (bs : List Byte) : Core :=
  let c' := (bs.zip (List.range bs.length)).foldl (fun c e => c.scrPut (a + e.2) e.1) c
  { c' with spoison := (wordsOf a bs.length).foldl (fun p w => if fullWord a bs.length w then p.erase w else p) c'.spoison }

/-- A word of the scratchpad written, its full bit left alone. -/
def Core.scrSetWord (c : Core) (w : Nat) (x : Word) : Core :=
  { c with scratch := AMap.put 0 c.scratch w x, spoison := c.spoison.erase w }

/-- The pieces of a scratchpad access, one per 256-byte row (R123). -/
def rowPieces (a n : Nat) : List (Nat × Nat) :=
  let r := 256 - a % 256
  if n ≤ r then [(a, n)] else [(a, r), (a + r, n - r)]

/-- Bytes a thread may reach: its launch's reservation, or the whole scratchpad at service level (R122). -/
def State.scrLimit (s : State) : Nat := if s.th.service then 0x40000 else s.co.scr

/-- A register value or computed address as a scratchpad address (R121, R165). -/
def scrAddr (a : Word) : Except Stop Nat := do
  trapIf (decide (0x40000 ≤ a.toNat)) cScratchBounds a
  .ok a.toNat

/-- R166 step 5 for every piece, lowest first. -/
def State.scrBounds (s : State) : List (Nat × Nat) → Except Stop Unit
  | [] => .ok ()
  | (a, n) :: r => do
    trapIf (decide (s.scrLimit < a + n)) cScratchBounds (BitVec.ofNat 64 a)
    s.scrBounds r

/-- The first uncorrectable word among those that some bytes of the scratchpad touch (R281). -/
def Core.scrBad (c : Core) (a n : Nat) : Option Nat := (wordsOf a n).find? fun w => (c.spoison.find w).isSome

/-- The first of them that the bytes do not fill (R281). -/
def Core.scrPartBad (c : Core) (a n : Nat) : Option Nat :=
  (wordsOf a n).find? fun w => (c.spoison.find w).isSome && !fullWord a n w

/-- An uncorrectable scratchpad word read into a register (R281). -/
def State.scrPoison (s : State) (a n : Nat) : Except Stop Unit :=
  match s.co.scrBad a n with
  | some w => .error (.trap (uncorrectable w))
  | none => .ok ()

/-- A partial store to an uncorrectable scratchpad word (R281). -/
def State.scrPartPoison (s : State) (a n : Nat) : Except Stop Unit :=
  match s.co.scrPartBad a n with
  | some w => .error (.trap (uncorrectable w))
  | none => .ok ()

/-- The full bit of a word (R124). -/
def Core.isFull (c : Core) (w : Nat) : Bool := (c.empty.find w).isNone

/-- A word full or empty. -/
def Core.setFull (c : Core) (w : Nat) (b : Bool) : Core :=
  { c with empty := if b then c.empty.erase w else c.empty.set w true }

/-- The word has listed takers (R125). -/
def Core.takersOf (c : Core) (w : Nat) : List Nat := c.takers.get [] w

/-- The lists of the words, one changed. -/
def Core.setTakers (c : Core) (w : Nat) (l : List Nat) : Core :=
  { c with takers := if l.isEmpty then c.takers.erase w else c.takers.set w l }

/-- A deferred `fe.take` completes with a value (R125). -/
def State.deliverTake (s : State) (ck w : Nat) (y : Word) : State :=
  match (s.cor ck).takersOf w with
  | [] => s
  | t :: r =>
    let s := s.modCor ck fun c => c.setTakers w r
    s.modThr t fun x => x.endWait (x.wait.elim 0 (·.d)) y

/-- A waiting reader of a word, for `fe.sload` or for a refill (R174, R184). -/
def Thread.readsWord (t : Thread) (w : Nat) : Bool :=
  t.st == .waiting && t.wait.any fun x => x.kind == .fullWord w || x.kind == .refill w

/-- Waiting readers of a word that has become full and is uncorrectable trap (R281). -/
def State.trapReaders (s : State) (ck w : Nat) : State :=
  (List.range 16).foldl (fun s c =>
    if (s.thr (threadOf ck c)).readsWord w then s.takeTrap (threadOf ck c) (uncorrectable w) else s) s

/-- The oldest deferred `fe.take` of an uncorrectable word traps (R125, R281). -/
def State.trapTaker (s : State) (ck w : Nat) : State :=
  match (s.cor ck).takersOf w with
  | [] => s
  | t :: r => (s.modCor ck fun c => c.setTakers w r).takeTrap t (uncorrectable w)

/-- Waiting readers of a word that has become full: a `fe.sload` completes with the word's value, and a refill has
received the word (R174, R184). -/
def State.wakeReaders (s : State) (ck w : Nat) (y : Word) : State :=
  (List.range 16).foldl (fun s c =>
    let t := threadOf ck c
    match (s.thr t).st, (s.thr t).wait with
    | .waiting, some x =>
      if x.kind = .fullWord w then s.modThr t fun th => th.endWait x.d y
      else if x.kind = .refill w then s.modThr t fun th => { th.wake with got := (w, y) :: th.got }
      else s
    | _, _ => s) s

/-- A word becomes full with a value (R124, R174). -/
def State.fillWord (s : State) (ck w : Nat) (y : Word) : State :=
  (s.modCor ck fun c => (c.scrSetWord w y).setFull w true).wakeReaders ck w y

/-- A value arrives at a word (R125): to the oldest taker, the word staying empty, or into the word, which becomes
full. -/
def State.arriveWord (s : State) (ck w : Nat) (y : Word) : State :=
  if (s.cor ck).takersOf w = [] then s.fillWord ck w y else s.deliverTake ck w y

/-- Filling writes of an engine, word by word from a word on (R124). -/
def State.arriveWords (s : State) (ck w : Nat) : List Word → State
  | [] => s
  | y :: r => (s.arriveWord ck w y).arriveWords ck (w + 1) r

end Sys2Proof.Machine
end

