-- ==== Sys2Proof/Machine/Operands.lean ====
section
/-! DEFINITION. Operand forms: immediates, computed addresses, lanes of vector registers (R14, R15, R78, R140, R165). -/

namespace Sys2Proof.Machine

/-- A sign-extended immediate (R15). -/
def simm {n : Nat} (x : BitVec n) : Word := x.signExtend 64

/-- The upper immediate of `lui` and `addpc`, scaled by 4,096 (R15, R100). -/
def uimm (x : BitVec 21) : Word := simm x * 4096

/-- A branch or jump offset, scaled by 4 (R15). -/
def joff {n : Nat} (x : BitVec n) : Word := simm x * 4

/-- The address of an M-format form (R165). -/
def Thread.ea (t : Thread) (a : Reg) (off : BitVec 11) (size : Nat) : Word :=
  t.rg a + simm off * BitVec.ofNat 64 size

/-- A source register of the issuing thread. -/
def State.rg (s : State) (r : Reg) : Word := s.th.rg r

/-- Lane `i` of `w` bits of a vector register (R78). -/
def lane (w : Nat) (v : VReg) (i : Nat) : Nat := v.toNat / 2 ^ (w * i) % 2 ^ w

/-- A vector register from its lanes of `w` bits, lowest first (R78). -/
def vecOf (w : Nat) : List Nat → Nat
  | [] => 0
  | x :: r => x % 2 ^ w + 2 ^ w * vecOf w r

/-- A vector register from a value for each lane. -/
def lanesTo (w : Nat) (f : Nat → Nat) : VReg := BitVec.ofNat 512 (vecOf w ((List.range (512 / w)).map f))

/-- A lane of a lane type is active under a mask (R140). -/
def act (w : Nat) (m : LMask) (i : Nat) : Bool := if w = 32 then m.getLsbD i else m.getLsbD (i / 2)

/-- Bits of a lane of a floating lane type (R139). -/
def fw : FTy → Nat
  | .f32 => 32
  | .f16 => 16
  | .bf16 => 16

/-- Bits of a lane of an integer lane type (R139). -/
def iw : ITy → Nat
  | .w => 32
  | .h => 16

end Sys2Proof.Machine
end

