-- ==== Sys2Proof/Machine/BitStream.lean ====
section
/-! DEFINITION. Bit streams (R183 to R185). -/

namespace Sys2Proof.Machine

/-- The bit buffer as the forms use it: its bits, its fill count, its source and its end (R183). -/
structure BitBuf where
  bits : Nat
  fill : Nat
  src : Nat
  fin : Nat
  deriving DecidableEq, Repr

/-- The buffer of a thread: a fill above 128 acts as 128 (Table 7-5b), and bits at and above the fill are zero
(R183). -/
def Thread.bitBuf (t : Thread) : BitBuf :=
  { bits := (t.kbbuf.toNat + 2 ^ 64 * t.kbbufh.toNat) % 2 ^ min (bitsAt t.kbfill 0 8) 128,
    fill := min (bitsAt t.kbfill 0 8) 128,
    src := bitsAt t.kbsrc 0 19, fin := bitsAt t.kbend 0 19 }

/-- The thread with its buffer written. -/
def Thread.setBitBuf (t : Thread) (b : BitBuf) : Thread :=
  { t with kbbuf := BitVec.ofNat 64 b.bits, kbbufh := BitVec.ofNat 64 (b.bits / 2 ^ 64),
           kbfill := BitVec.ofNat 64 b.fill, kbsrc := BitVec.ofNat 64 b.src, kbend := BitVec.ofNat 64 b.fin }

/-- How a refill ends: with all its words, or waiting for one, with the words received so far. -/
inductive Refilled where
  | full (b : BitBuf)
  | waits (w : Nat) (got : List (Nat × Word))
  deriving DecidableEq, Repr

/-- `refill()` of R184, at most `fuel` words: each is read as `fe.sload` reads it. -/
def State.refillGo (s : State) : Nat → List (Nat × Word) → BitBuf → Except Stop Refilled
  | 0, _, b => .ok (.full b)
  | fuel + 1, got, b =>
    if b.fill ≤ 64 ∧ b.src < b.fin then do
      let nb := min 8 (b.fin - b.src)
      trapIf (decide (s.scrLimit < b.src + 8)) cScratchBounds (BitVec.ofNat 64 b.src)
      trapIf (b.src % 8 != 0) cMisaligned (BitVec.ofNat 64 b.src)
      let w := b.src / 8
      let next := fun (y : Word) =>
        s.refillGo fuel ((w, y) :: got)
          { b with bits := b.bits + y.toNat % 2 ^ (8 * nb) * 2 ^ b.fill, fill := b.fill + 8 * nb, src := b.src + nb }
      match got.find? (·.1 == w) with
      | some e => next e.2
      | none =>
        if s.co.isFull w then do
          s.scrPoison (8 * w) 8
          next (s.co.scratch.get 0 w)
        else .ok (.waits w got)
    else .ok (.full b)

/-- The refill of a buffer: at most three words fit. -/
def State.refill (s : State) (b : BitBuf) : Except Stop Refilled := s.refillGo 3 s.th.got b

/-- The value of the next `c` bits; missing bits read zero. -/
def BitBuf.peek (b : BitBuf) (c : Nat) : Nat := b.bits % 2 ^ c

/-- The buffer without its next `c` bits (R185 `take`). -/
def BitBuf.drop (b : BitBuf) (c : Nat) : BitBuf := { b with bits := b.bits / 2 ^ c, fill := b.fill - c }

/-- A form on the buffer: it refills where fewer than `need` bits are held, and then has variable latency. -/
def State.bitForm (s : State) (need : Nat) (b : BitBuf) (f : BitBuf → Thread → Thread) : Except Stop State :=
  if need ≤ b.fill then .ok (s.modTh fun t => (f b t).retire)
  else do
    match ← s.refill b with
    | .full b => .ok (s.pure 0 (f b))
    | .waits w got => .ok (s.modTh fun t => { t.block s.tick .waiting (.refill w) 0 15 with got := got })

/-- `bit.init` (R185). -/
def execBitInit (d a : Reg) (k : BitVec 8) (s : State) : Host.Outcome State Fault Refusal :=
  finish s (do
    let st ← scrAddr (s.rg a)
    let e ← scrAddr (s.rg d)
    trapIf (st % 8 != 0) cMisaligned (s.rg a)
    trapIf (decide (s.scrLimit < e)) cScratchBounds (s.rg d)
    let b : BitBuf := { bits := 0, fill := 0, src := st, fin := max e st }
    match ← s.refill b with
    | .full b => .ok (s.pure 0 (·.setBitBuf (b.drop (min k.toNat b.fill))))
    | .waits w got => .ok (s.modTh fun t => { t.block s.tick .waiting (.refill w) 0 15 with got := got }))

/-- `bit.peek` (R185). -/
def execBitPeek (d : Reg) (k : BitVec 8) (s : State) : Host.Outcome State Fault Refusal :=
  finish s (s.bitForm k.toNat s.th.bitBuf fun b t => (t.setBitBuf b).setG d (BitVec.ofNat 64 (b.peek k.toNat)))

/-- `bit.get` (R185). -/
def execBitGet (d : Reg) (k : BitVec 8) (s : State) : Host.Outcome State Fault Refusal :=
  finish s (s.bitForm k.toNat s.th.bitBuf fun b t =>
    (t.setBitBuf (b.drop k.toNat)).setG d (BitVec.ofNat 64 (b.peek k.toNat)))

/-- `bit.skip` (R185). -/
def execBitSkip (k : BitVec 8) (s : State) : Host.Outcome State Fault Refusal :=
  finish s (s.bitForm k.toNat s.th.bitBuf fun b t => t.setBitBuf (b.drop k.toNat))

/-- `bit.getv` (R185). -/
def execBitGetv (d a : Reg) (s : State) : Host.Outcome State Fault Refusal :=
  let c := min (s.rg a).toNat 64
  finish s (s.bitForm c s.th.bitBuf fun b t =>
    if c = 0 then t.setG d 0 else (t.setBitBuf (b.drop c)).setG d (BitVec.ofNat 64 (b.peek c)))

/-- `bit.unar` (R185). -/
def execBitUnar (d : Reg) (s : State) : Host.Outcome State Fault Refusal :=
  finish s (s.bitForm 64 s.th.bitBuf fun b t =>
    let lim := min b.fill 64
    let v := b.peek lim
    let z := if v = 0 then lim else lowBit 64 v
    (t.setBitBuf (b.drop (if z < lim then z + 1 else lim))).setG d (BitVec.ofNat 64 z))

/-- `bit.tell` (R185). -/
def execBitTell (d : Reg) (s : State) : Host.Outcome State Fault Refusal :=
  let b := s.th.bitBuf
  .next (s.outG d (BitVec.ofNat 64 (8 * b.src) - BitVec.ofNat 64 b.fill))

/-- `bit.avail` (R185). -/
def execBitAvail (d : Reg) (s : State) : Host.Outcome State Fault Refusal :=
  let b := s.th.bitBuf
  .next (s.outG d (BitVec.ofNat 64 b.fill + 8 * (BitVec.ofNat 64 b.fin - BitVec.ofNat 64 b.src)))

end Sys2Proof.Machine
end

