-- ==== Sys2Proof/Machine/Flags.lean ====
section
/-! DEFINITION. Floating numbers: formats, exact values, rounding and flags (R48 to R55, R144 to R150, R76, R77). -/

namespace Sys2Proof.Machine

/-! ## Formats and exact values -/

/-- A binary format: bits of its exponent and of its fraction; the bias is half the exponent range (Table 3-1, R54). -/
structure Fmt where
  eb : Nat
  fb : Nat
  deriving DecidableEq, Repr

def fmt32 : Fmt := { eb := 8, fb := 23 }
def fmt16 : Fmt := { eb := 5, fb := 10 }
def fmtB16 : Fmt := { eb := 8, fb := 7 }
def fmtE8 : Fmt := { eb := 8, fb := 10 }

def Fmt.bias (f : Fmt) : Nat := 2 ^ (f.eb - 1) - 1

/-- The exponent field of infinities and NaNs. -/
def Fmt.top (f : Fmt) : Nat := 2 ^ f.eb - 1

/-- The sign bit as a number. -/
def Fmt.sign (f : Fmt) : Nat := 2 ^ (f.eb + f.fb)

/-- What a pattern stands for: a NaN with its fraction, an infinity, or `m` x 2^`e` with a sign. -/
inductive FVal where
  | nan (neg : Bool) (frac : Nat)
  | inf (neg : Bool)
  | fin (neg : Bool) (m : Nat) (e : Int)
  deriving DecidableEq, Repr

/-- The value of a pattern (R48, R54). -/
def unpack (f : Fmt) (x : Nat) : FVal :=
  let neg := x / f.sign % 2 == 1
  let ex := x / 2 ^ f.fb % 2 ^ f.eb
  let fr := x % 2 ^ f.fb
  if ex = f.top then (if fr = 0 then .inf neg else .nan neg fr)
  else if ex = 0 then .fin neg fr (1 - Int.ofNat f.bias - Int.ofNat f.fb)
  else .fin neg (fr + 2 ^ f.fb) (Int.ofNat ex - Int.ofNat f.bias - Int.ofNat f.fb)

/-- The floating lane types (R139). -/
def fmtOf : FTy → Fmt
  | .f32 => fmt32
  | .f16 => fmt16
  | .bf16 => fmtB16

/-- Flags, NV lowest (R50, R51). -/
def fNV : Nat := 1
def fDZ : Nat := 2
def fOF : Nat := 4
def fUF : Nat := 8
def fNX : Nat := 16
def fQNAN : Nat := 32

/-- The sign of a format placed on a magnitude. -/
def withSign (f : Fmt) (neg : Bool) (x : Nat) : Nat := if neg then f.sign + x else x

/-- The infinity of a sign. -/
def infBits (f : Fmt) (neg : Bool) : Nat := withSign f neg (f.top * 2 ^ f.fb)

/-- The default NaN (R52). -/
def defaultNaN (f : Fmt) : Nat := f.top * 2 ^ f.fb + 2 ^ (f.fb - 1)

/-- A NaN pattern with its quiet bit set (R52). -/
def quiet (f : Fmt) (x : Nat) : Nat := if x / 2 ^ (f.fb - 1) % 2 = 1 then x else x + 2 ^ (f.fb - 1)

def FVal.isNan : FVal → Bool
  | .nan _ _ => true
  | _ => false

def FVal.isInf : FVal → Bool
  | .inf _ => true
  | _ => false

def FVal.isZero : FVal → Bool
  | .fin _ m _ => m == 0
  | _ => false

def FVal.neg : FVal → Bool
  | .nan n _ => n
  | .inf n => n
  | .fin n _ _ => n

/-- A NaN whose quiet bit is clear (R48). -/
def isSignalling (f : Fmt) (x : Nat) : Bool :=
  (unpack f x).isNan && x / 2 ^ (f.fb - 1) % 2 == 0

/-! ## Rounding (R49, Table 3-2) -/

/-- Whether a magnitude is raised by one unit: the unit's lowest bit, the remainder and the unit's size. -/
def roundsUp (rm : Nat) (neg : Bool) (odd : Bool) (rem unit : Nat) : Bool :=
  if rm = 0 then decide (unit < 2 * rem) || (decide (2 * rem = unit) && odd)
  else if rm = 1 then false
  else if rm = 2 then !neg && decide (0 < rem)
  else neg && decide (0 < rem)

/-- `m` x 2^`e` in units of 2^`q`, rounded, and whether it was inexact. -/
def toUnits (rm : Nat) (neg : Bool) (m : Nat) (e q : Int) : Nat × Bool :=
  if q ≤ e then (m * 2 ^ (e - q).toNat, false)
  else
    let u := 2 ^ (q - e).toNat
    let k := m / u
    (if roundsUp rm neg (k % 2 == 1) (m % u) u then k + 1 else k, m % u != 0)

/-- A non-zero `m` x 2^`e` rounded to a format: the pattern and the flags (R49, R50). -/
def roundFin (f : Fmt) (rm : Nat) (neg : Bool) (m : Nat) (e : Int) : Nat × Nat :=
  if m = 0 then (withSign f neg 0, 0) else
  let top := Int.ofNat (Nat.log2 m) + e
  let least : Int := 1 - Int.ofNat f.bias
  let q := max top least - Int.ofNat f.fb
  let (k, inexact) := toUnits rm neg m e q
  let field := if k < 2 ^ f.fb then 0 else (q + Int.ofNat f.fb + Int.ofNat f.bias).toNat
  let mag := if k < 2 ^ f.fb then k else field * 2 ^ f.fb + (k - 2 ^ f.fb)
  if f.top * 2 ^ f.fb ≤ mag then
    let toInf := rm == 0 || (rm == 2 && !neg) || (rm == 3 && neg)
    (if toInf then infBits f neg else withSign f neg (f.top * 2 ^ f.fb - 1), fOF + fNX)
  else
    let ku := (toUnits rm neg m e (top - Int.ofNat f.fb)).1
    let tiny := decide (top < least) && !(top + 1 == least && ku == 2 ^ (f.fb + 1))
    (withSign f neg mag, (if inexact then fNX else 0) + (if tiny && inexact then fUF else 0))

/-- The sum of two exact finite values, as a signed number of units of the smaller exponent. -/
def sumFin (n1 : Bool) (m1 : Nat) (e1 : Int) (n2 : Bool) (m2 : Nat) (e2 : Int) : Int × Int :=
  let e := min e1 e2
  let a : Int := (if n1 then -1 else 1) * Int.ofNat (m1 * 2 ^ (e1 - e).toNat)
  let b : Int := (if n2 then -1 else 1) * Int.ofNat (m2 * 2 ^ (e2 - e).toNat)
  (a + b, e)

/-- An exact sum rounded; an exact zero sum follows R49. -/
def roundSum (f : Fmt) (rm : Nat) (n1 : Bool) (m1 : Nat) (e1 : Int) (n2 : Bool) (m2 : Nat) (e2 : Int) : Nat × Nat :=
  let (v, e) := sumFin n1 m1 e1 n2 m2 e2
  if v = 0 then
    (withSign f (if m1 = 0 ∧ m2 = 0 ∧ n1 = n2 then n1 else rm == 3) 0, 0)
  else roundFin f rm (decide (v < 0)) v.natAbs e

/-! ## NaN results (R52) -/

/-- The first NaN of the operands, quieted, and NV if any operand is signalling. -/
def nanResult (f : Fmt) (xs : List Nat) : Option (Nat × Nat) :=
  match xs.find? fun x => (unpack f x).isNan with
  | some x => some (quiet f x, if xs.any (isSignalling f) then fNV else 0)
  | none => none

/-! ## Arithmetic (R144 to R147) -/

/-- a + b, with `sub` for a - b. -/
def fpAdd (f : Fmt) (rm : Nat) (sub : Bool) (a b : Nat) : Nat × Nat :=
  match nanResult f [a, b] with
  | some r => r
  | none =>
    match unpack f a, unpack f b with
    | .inf n1, .inf n2 => if n1 = (n2 ^^ sub) then (infBits f n1, 0) else (defaultNaN f, fNV)
    | .inf n, _ => (infBits f n, 0)
    | _, .inf n => (infBits f (n ^^ sub), 0)
    | .fin n1 m1 e1, .fin n2 m2 e2 => roundSum f rm n1 m1 e1 (n2 ^^ sub) m2 e2
    | _, _ => (defaultNaN f, 0)

/-- a x b. -/
def fpMul (f : Fmt) (rm : Nat) (a b : Nat) : Nat × Nat :=
  match nanResult f [a, b] with
  | some r => r
  | none =>
    match unpack f a, unpack f b with
    | .fin n1 m1 e1, .fin n2 m2 e2 => roundFin f rm (n1 ^^ n2) (m1 * m2) (e1 + e2)
    | x, y => if x.isZero || y.isZero then (defaultNaN f, fNV) else (infBits f (x.neg ^^ y.neg), 0)

/-- a / b. -/
def fpDiv (f : Fmt) (rm : Nat) (a b : Nat) : Nat × Nat :=
  match nanResult f [a, b] with
  | some r => r
  | none =>
    match unpack f a, unpack f b with
    | .inf _, .inf _ => (defaultNaN f, fNV)
    | .inf n1, y => (infBits f (n1 ^^ y.neg), 0)
    | x, .inf n2 => (withSign f (x.neg ^^ n2) 0, 0)
    | .fin n1 m1 e1, .fin n2 m2 e2 =>
      if m2 = 0 then (if m1 = 0 then (defaultNaN f, fNV) else (infBits f (n1 ^^ n2), fDZ))
      else
        let q := m1 * 2 ^ 64 / m2
        let sticky := if m1 * 2 ^ 64 % m2 = 0 then 0 else 1
        roundFin f rm (n1 ^^ n2) (2 * q + sticky) (e1 - e2 - 65)
    | _, _ => (defaultNaN f, 0)

/-- Integer square root, bit by bit from bit `k` down. -/
def isqrtFrom : Nat → Nat → Nat → Nat
  | 0, _, r => r
  | k + 1, v, r => let t := r + 2 ^ k; isqrtFrom k v (if t * t ≤ v then t else r)

/-- The square root. -/
def fpSqrt (f : Fmt) (rm : Nat) (a : Nat) : Nat × Nat :=
  match nanResult f [a] with
  | some r => r
  | none =>
    match unpack f a with
    | .inf n => if n then (defaultNaN f, fNV) else (infBits f n, 0)
    | .fin n m e =>
      if m = 0 then (withSign f n 0, 0)
      else if n then (defaultNaN f, fNV)
      else
        let m' := if e % 2 = 0 then m else 2 * m
        let e' := if e % 2 = 0 then e else e - 1
        let v := m' * 2 ^ 60
        let r := isqrtFrom 48 v 0
        roundFin f rm false (2 * r + if r * r = v then 0 else 1) (e' / 2 - 31)
    | _ => (defaultNaN f, 0)

/-- a x b + c with one rounding; the product and the addend negated as asked. NaN operands in the order a, b, c. -/
def fpFma (f : Fmt) (rm : Nat) (negP negC : Bool) (a b c : Nat) : Nat × Nat :=
  let x := unpack f a
  let y := unpack f b
  let z := unpack f c
  let bad := (x.isInf && y.isZero) || (x.isZero && y.isInf)
  match nanResult f [a, b, c] with
  | some (r, fl) => (r, if bad then fNV else fl)
  | none =>
    if bad then (defaultNaN f, fNV)
    else
      let np := x.neg ^^ y.neg ^^ negP
      let nc := z.neg ^^ negC
      if x.isInf || y.isInf then (if z.isInf && nc != np then (defaultNaN f, fNV) else (infBits f np, 0))
      else if z.isInf then (infBits f nc, 0)
      else
        match x, y, z with
        | .fin _ m1 e1, .fin _ m2 e2, .fin _ m3 e3 => roundSum f rm np (m1 * m2) (e1 + e2) nc m3 e3
        | _, _, _ => (defaultNaN f, 0)

/-- The order of two values that are not NaN, -0 below +0 (R145): a below b. -/
def fpBelow (f : Fmt) (a b : Nat) : Bool :=
  let na := a / f.sign % 2 == 1
  let nb := b / f.sign % 2 == 1
  let ma := a % f.sign
  let mb := b % f.sign
  if na then (if nb then decide (mb < ma) else true) else if nb then false else decide (ma < mb)

/-- The lesser (R145). -/
def fpMin (f : Fmt) (a b : Nat) : Nat × Nat :=
  match nanResult f [a, b] with
  | some r => r
  | none => (if fpBelow f b a then b else a, 0)

/-- The greater (R145). -/
def fpMax (f : Fmt) (a b : Nat) : Nat × Nat :=
  match nanResult f [a, b] with
  | some r => r
  | none => (if fpBelow f a b then b else a, 0)

/-- `abs` (R147). -/
def fpAbs (f : Fmt) (a : Nat) : Nat := a % f.sign

/-- `neg` (R147). -/
def fpNeg (f : Fmt) (a : Nat) : Nat := if a / f.sign % 2 = 1 then a % f.sign else a % f.sign + f.sign

/-- `sgnj` (R147). -/
def fpSgnj (f : Fmt) (a b : Nat) : Nat := a % f.sign + b / f.sign % 2 * f.sign

/-- Comparison results (R146): the condition, and NV for a signalling operand, or for any NaN where `strict`. -/
def fpCompare (strict : Bool) (a b : Nat) (c : Bool → Bool → Bool) (onNan : Bool) : Bool × Nat :=
  let nan := (unpack fmt32 a).isNan || (unpack fmt32 b).isNan
  let sig := isSignalling fmt32 a || isSignalling fmt32 b
  if nan then (onNan, if sig || strict then fNV else 0)
  else
    let z := (unpack fmt32 a).isZero && (unpack fmt32 b).isZero
    (c (!z && fpBelow fmt32 a b) (!z && fpBelow fmt32 b a), 0)

/-! ## Conversions (R52, R53, R149, R150) -/

/-- A NaN's fraction moved to another format: its high bits kept, or placed at the top (R52). -/
def moveFrac (f g : Fmt) (frac : Nat) : Nat :=
  if g.fb ≤ f.fb then frac / 2 ^ (f.fb - g.fb) else frac * 2 ^ (g.fb - f.fb)

/-- One IEEE format to another, rounding. -/
def fpConvert (f g : Fmt) (rm : Nat) (a : Nat) : Nat × Nat :=
  match unpack f a with
  | .nan n fr => (quiet g (withSign g n (g.top * 2 ^ g.fb + moveFrac f g fr % 2 ^ g.fb)), if isSignalling f a then fNV else 0)
  | .inf n => (infBits g n, 0)
  | .fin n m e => roundFin g rm n m e

/-- FP32 to an integer between two bounds, saturating (R53, R150). -/
def fpToInt (rm : Nat) (lo hi : Int) (a : Nat) : Int × Nat :=
  match unpack fmt32 a with
  | .nan _ _ => (0, fNV)
  | .inf n => (if n then lo else hi, fNV)
  | .fin n m e =>
    let (k, inexact) := toUnits rm n m e 0
    let v : Int := if n then -Int.ofNat k else Int.ofNat k
    if v < lo then (lo, fNV) else if hi < v then (hi, fNV) else (v, if inexact then fNX else 0)

/-- An integer to FP32 (R53). -/
def intToFp (rm : Nat) (v : Int) : Nat × Nat :=
  if v = 0 then (0, 0) else roundFin fmt32 rm (decide (v < 0)) v.natAbs 0

/-- FP32 rounded to an integral value (R150). -/
def fpRint (rm : Nat) (a : Nat) : Nat × Nat :=
  match unpack fmt32 a with
  | .nan _ _ => (quiet fmt32 a, if isSignalling fmt32 a then fNV else 0)
  | .inf _ => (a, 0)
  | .fin n m e =>
    let (k, inexact) := toUnits rm n m e 0
    if inexact then ((roundFin fmt32 0 n k 0).1, fNX) else (a, 0)

/-! ## Reductions (R77, R152) -/

/-- One level of the tree: adjacent nodes combined, lower first; a lone child passes on. -/
def treeLevel (op : Nat → Nat → Nat × Nat) : List (Option Nat) → List (Option Nat) × Nat
  | x :: y :: r =>
    let (l, fl) := treeLevel op r
    match x, y with
    | some a, some b => let (v, g) := op a b; (some v :: l, fl ||| g)
    | some a, none => (some a :: l, fl)
    | none, b => (b :: l, fl)
  | l => (l, 0)

/-- The tree of R77, `n` levels. -/
def treeReduce (op : Nat → Nat → Nat × Nat) : Nat → List (Option Nat) → Option Nat × Nat
  | 0, l => (l.head?.join, 0)
  | n + 1, l =>
    let (l', fl) := treeLevel op l
    let (v, g) := treeReduce op n l'
    (v, fl ||| g)

end Sys2Proof.Machine
end

