-- ==== Sys2Proof/Machine/Loads.lean ====
section
/-! DEFINITION. Plain and scratchpad loads and stores, and the full/empty forms (R165 to R175). -/

namespace Sys2Proof.Machine

/-! ## Plain memory (R165 to R170) -/

/-- R166 steps 1 to 4 of a plain access: its parts, one per line. -/
def State.plainParts (s : State) (acc : Acc) (kind : Nat) (ea : Word) (n : Nat) : Except Stop (List Part) := do
  let ps ← s.pageParts acc (linePieces ea.toNat n)
  kindCheck [kind] ps
  residencyCheck ps
  .ok ps

/-- Whether a load hits: every part valid in the L1 (R115, R128). -/
def State.partsHit (s : State) (ps : List Part) : Bool := ps.all fun p => s.co.l1Hit p.pa p.n

/-- A load through the L1: fixed latency where it hits, else variable (R170). -/
def State.loadTo (s : State) (d : Reg) (ps : List Part) : Except Stop State := do
  let hit := s.partsHit ps
  let (v, s') ← s.loadParts s.ck ps
  .ok (if hit then s'.outG d (BitVec.ofNat 64 v) else s'.pureG d (BitVec.ofNat 64 v))

/-- Entries of the write-through queue that the parts of a store take: those that an empty queue holds after it (R170). -/
def State.storeQueues (s : State) (whole : Bool) (v : Nat) (ps : List Part) : Nat :=
  match (s.modCo fun c => { c with wtq := [] }).storeParts s.ck whole v ps with
  | .ok (_, s') => s'.co.wtq.length
  | .error _ => 0

/-- A need of the store for a queue entry finds the queue full (R170). -/
def State.storeFull (s : State) (whole : Bool) (v : Nat) (ps : List Part) : Bool :=
  decide (0 < s.storeQueues whole v ps) && decide (32 < s.co.wtq.length + s.storeQueues whole v ps)

/-- A store: variable latency where a need for a queue entry finds the queue full, else fixed (R115, R170). A word that a
later part cannot write leaves the earlier part performed (R166). -/
def State.storeFrom (s : State) (va n : Nat) (v : Nat) (ps : List Part) : Except Stop State := do
  let whole := wholeWords va n
  let (bad, s') ← s.storeParts s.ck whole v ps
  match bad with
  | some w => .ok (s'.trapNow (uncorrectable w))
  | none => .ok (if s.storeFull whole v ps then s'.reply else s'.done)

/-- `ld.plain` (R167, R168). -/
def execLdPlain (sz : Size) (d a : Reg) (off : BitVec 11) (s : State) : Host.Outcome State Fault Refusal :=
  finish s (do
    let ps ← s.plainParts .load kPlain (s.th.ea a off sz.bytes) sz.bytes
    s.loadTo d ps)

/-- `st.plain` (R167, R168). -/
def execStPlain (sz : Size) (d a : Reg) (off : BitVec 11) (s : State) : Host.Outcome State Fault Refusal :=
  finish s (do
    let ea := s.th.ea a off sz.bytes
    let ps ← s.plainParts .store kPlain ea sz.bytes
    s.storeFrom ea.toNat sz.bytes ((s.rg d).toNat % 2 ^ (8 * sz.bytes)) ps)

/-! ## Scratchpad (R172, R173) -/

/-- The scratchpad address of an M-format form, its bounds checked row by row (R165, R122, R166). -/
def State.scrEa (s : State) (a : Reg) (off : BitVec 11) (n : Nat) : Except Stop Nat := do
  let la ← scrAddr (s.th.ea a off n)
  s.scrBounds (rowPieces la n)
  .ok la

/-- The second register of a pair. -/
def Reg.next (r : Reg) : Reg := Fin.ofNat 32 (r.val + 1)

/-- `lds` (R172). -/
def execLds (sz : SSize) (d a : Reg) (off : BitVec 11) (s : State) : Host.Outcome State Fault Refusal :=
  finish s (do
    let la ← s.scrEa a off sz.bytes
    s.scrPoison la sz.bytes
    match sz with
    | .q => .ok (s.modTh fun t =>
        ((t.setG d (BitVec.ofNat 64 (s.co.scrRead la 8))).setG (Reg.next d) (BitVec.ofNat 64 (s.co.scrRead (la + 8) 8))).retire)
    | _ => .ok (s.outG d (BitVec.ofNat 64 (s.co.scrRead la sz.bytes))))

/-- Bytes stored to the scratchpad by one form: an uncorrectable word written in part traps, the row before it stays
written (R123, R166, R281). -/
def State.scrStore (s : State) : List (Nat × List Byte) → Except Stop State
  | [] => .ok s.done
  | (a, bs) :: r =>
    match s.scrPartPoison a bs.length with
    | .error (.trap t) => .ok (s.trapNow t)
    | .error e => .error e
    | .ok _ => (s.modCo fun c => c.scrWrite a bs).scrStore r

/-- The bytes of a store by rows (R123). -/
def rowBytes (la : Nat) (bs : List Byte) : List (Nat × List Byte) :=
  (rowPieces la bs.length).map fun p => (p.1, (bs.drop (p.1 - la)).take p.2)

/-- `sts` (R172). -/
def execSts (sz : SSize) (d a : Reg) (off : BitVec 11) (s : State) : Host.Outcome State Fault Refusal :=
  finish s (do
    let la ← s.scrEa a off sz.bytes
    let bs := match sz with
      | .q => bytesOf (s.rg d).toNat 8 ++ bytesOf (s.rg (Reg.next d)).toNat 8
      | _ => bytesOf (s.rg d).toNat sz.bytes
    s.scrStore (rowBytes la bs))

/-- `vlds` (R173). -/
def execVlds (d a : Reg) (off : BitVec 11) (s : State) : Host.Outcome State Fault Refusal :=
  finish s (do
    let la ← s.scrEa a off 64
    s.scrPoison la 64
    .ok (s.modTh fun t => (t.setV d (BitVec.ofNat 512 (s.co.scrRead la 64))).retire))

/-- `vsts` (R173). -/
def execVsts (d a : Reg) (off : BitVec 11) (s : State) : Host.Outcome State Fault Refusal :=
  finish s (do
    let la ← s.scrEa a off 64
    s.scrStore (rowBytes la (bytesOf (s.th.rv d).toNat 64)))

/-! ## Full/empty forms (R174, R175) -/

/-- The word of an `fe` form: its address checked, 8-byte alignment before the bounds (R166, R174). -/
def State.feWord (s : State) (a : Reg) (off : BitVec 11) : Except Stop Nat := do
  let ea := s.th.ea a off 8
  let la ← scrAddr ea
  trapIf (la % 8 != 0) cMisaligned ea
  s.scrBounds [(la, 8)]
  .ok (la / 8)

/-- `fe.take` (R125, R174). -/
def execFeTake (d a : Reg) (off : BitVec 11) (s : State) : Host.Outcome State Fault Refusal :=
  finish s (do
    let w ← s.feWord a off
    if s.co.isFull w then
      s.scrPoison (8 * w) 8
      .ok ((s.modCo fun c => c.setFull w false).outG d (s.co.scratch.get 0 w))
    else
      .ok ((s.modCo fun c => c.setTakers w (c.takersOf w ++ [s.cur])).modTh fun t =>
        t.block s.tick .waiting (.take w) d 15))

/-- `fe.put` (R125, R174). -/
def execFePut (d a : Reg) (off : BitVec 11) (s : State) : Host.Outcome State Fault Refusal :=
  finish s (do
    let w ← s.feWord a off
    .ok ((s.arriveWord s.ck w (s.rg d)).done))

/-- `fe.sload` (R174). -/
def execFeSload (d a : Reg) (off : BitVec 11) (s : State) : Host.Outcome State Fault Refusal :=
  finish s (do
    let w ← s.feWord a off
    if s.co.isFull w then
      s.scrPoison (8 * w) 8
      .ok (s.outG d (s.co.scratch.get 0 w))
    else .ok (s.modTh fun t => t.block s.tick .waiting (.fullWord w) d 15))

/-- A word marked full as it stands: its value goes to the oldest taker, or else to the waiting readers; an uncorrectable
word traps the form that would have it (R125, R174, R281). -/
def State.markFull (s : State) (ck w : Nat) : State :=
  let y := (s.cor ck).scratch.get 0 w
  let bad := ((s.cor ck).spoison.find w).isSome
  if (s.cor ck).takersOf w = [] then
    let s := s.modCor ck fun c => c.setFull w true
    if bad then s.trapReaders ck w else s.wakeReaders ck w y
  else if bad then s.trapTaker ck w
  else s.deliverTake ck w y

/-- A filling write of an engine that covers an uncorrectable word in part: its bytes are written and the word keeps its
mark, which only a write of all 8 bytes clears (R124, R281). -/
def State.arrivePart (s : State) (ck w : Nat) (y : Word) : State :=
  (s.modCor ck fun c => { c with scratch := AMap.put 0 c.scratch w y }).markFull ck w

/-- `fe.fill` (R174). -/
def execFeFill (d a : Reg) (off : BitVec 11) (s : State) : Host.Outcome State Fault Refusal :=
  finish s (do
    let w ← s.feWord a off
    .ok (if bitAt (s.rg d) 0 then s.markFull s.ck w else s.modCo fun c => c.setFull w false).reply)

end Sys2Proof.Machine
end

