-- ==== Sys2Proof/Machine/Blocks.lean ====
section
/-! DEFINITION. Selector blocks: headers, scales, levels, and the quantising-store selection (R57 to R70). The block
forms themselves stand in Machine/BlockForms.lean. -/

namespace Sys2Proof.Machine

/-! ## Headers and scales (R58 to R60) -/

/-- One step of the serial check code (R60). -/
def crcStep (c : Nat) (bit : Bool) : Nat :=
  let fb := (c / 16 % 2 == 1) ^^ bit
  let c' := c * 2 % 32
  if fb then c' ^^^ 5 else c'

/-- The CRC-5 of header bits [10:0], from bit 10 down (R60). -/
def crc5 (h : Nat) : Nat := (List.range 11).foldl (fun c i => crcStep c (h / 2 ^ (10 - i) % 2 == 1)) 0

/-- A header from its selector and scale code (R58). -/
def header (sel scale : Nat) : Nat := let h := scale % 256 * 8 + sel % 8; h + 2048 * crc5 h

/-- An E6M2 scale in units of 2^-32 (R59). -/
def scaleUnits (c : Nat) : Nat :=
  let e := c / 4
  let f := c % 4
  if e = 0 then f else (4 + f) * 2 ^ (e - 1)

/-! ## Levels (R61, R62) -/

/-- Magnitudes of FP4 E2M1, in halves (Table 3-6). -/
def fp4Halves : Nat → Nat
  | 0 => 0 | 1 => 1 | 2 => 2 | 3 => 3 | 4 => 4 | 5 => 6 | 6 => 8 | _ => 12

/-- A signed integer as an exact value. -/
def intVal (v : Int) : FVal := .fin (decide (v < 0)) v.natAbs 0

/-- The level of a code of E4M3 or E5M2 (Table 3-7). -/
def fp8Level (e5 : Bool) (k : Nat) : FVal :=
  let neg := k / 128 == 1
  if e5 then
    let ex := k / 4 % 32
    let m := k % 4
    if ex = 31 then (if m = 0 then .inf neg else .nan neg 0x200)
    else if ex = 0 then .fin neg m (-16) else .fin neg (m + 4) (Int.ofNat ex - 17)
  else if k % 128 = 127 then .nan neg 0x200
  else
    let ex := k / 8 % 16
    let m := k % 8
    if ex = 0 then .fin neg m (-9) else .fin neg (m + 8) (Int.ofNat ex - 10)

/-- The table a non-uniform selector uses: first entry and number of entries (R63). -/
def nuTable (w : BlkW) (sel : Nat) : Nat × Nat :=
  match w with
  | .blk4 => if sel = 2 then (0, 16) else (256, 16)
  | .blk8 => (512, 256)

/-- The selector reads a decode table (R61, R62). -/
def isNu (w : BlkW) (sel : Nat) : Bool :=
  match w with
  | .blk4 => sel == 2 || sel == 3
  | .blk8 => sel == 3

/-- The level of a code under a selector 0 to 3, with the core's decode tables (R61, R62). -/
def Core.level (c : Core) (w : BlkW) (sel k : Nat) : FVal :=
  if isNu w sel then unpack fmtE8 (c.tabs.get 0 ((nuTable w sel).1 + k)).toNat
  else
    match w with
    | .blk4 =>
      if sel = 0 then intVal (if k < 8 then Int.ofNat k else Int.ofNat k - 16)
      else .fin (k / 8 == 1) (fp4Halves (k % 8)) (-1)
    | .blk8 =>
      if sel = 0 then intVal (if k = 128 then -127 else if k < 128 then Int.ofNat k else Int.ofNat k - 256)
      else fp8Level (sel == 2) k

/-- A finite value in units of 2^-136 (R54: every level is one). -/
def levelUnits : FVal → Int
  | .fin n m e => (if n then -1 else 1) * Int.ofNat (m * 2 ^ (e + 136).toNat)
  | _ => 0

/-- The checks of R64 on a header: none, or the cause. -/
def headerBad (h : Nat) : Option Nat :=
  if crc5 h ≠ h / 2048 then some cSelectorCheck
  else if h % 8 = 4 ∨ h % 8 = 5 ∨ h % 8 = 6 then some cSelectorReserved
  else none

/-- Element `i`'s code in a payload (R57). -/
def codeAt (w : BlkW) (payload i : Nat) : Nat :=
  match w with
  | .blk4 => payload / 2 ^ (4 * i) % 16
  | .blk8 => payload / 2 ^ (8 * i) % 256

/-- A value times a scale of 2^-32 units, as FP32 rounded to nearest even (R65, R181). -/
def scaled (v : FVal) (units : Nat) : Nat :=
  match v with
  | .nan n fr => withSign fmt32 n (255 * 2 ^ 23 + fr * 8192 % 2 ^ 23 ||| 2 ^ 22)
  | .inf n => infBits fmt32 n
  | .fin n m e => (roundFin fmt32 0 n (m * units) (e - 32)).1

/-- Lane `i` of a block load (R181). -/
def Core.blockLane (c : Core) (w : BlkW) (h payload i : Nat) : Nat :=
  if h % 8 = 7 then 0x7FC00000
  else
    let sc := h / 8 % 256
    if sc = 0 then 0 else scaled (c.level w (h % 8) (codeAt w payload i)) (scaleUnits sc)

/-! ## The selection (R66 to R70). Inputs and levels x scales are integers in units of 2^-168. -/

/-- An FP32 input in units of 2^-168. -/
def inputUnits (x : Nat) : Int :=
  match unpack fmt32 x with
  | .fin n m e => (if n then -1 else 1) * Int.ofNat (m * 2 ^ (e + 168).toNat)
  | _ => 0

/-- Largest magnitude of a candidate in units of 2^-136, 0 where it is ineligible (R61, R62, R66). -/
def Core.largest (c : Core) (w : BlkW) (sel : Nat) : Nat :=
  if isNu w sel then
    let es := (List.range (nuTable w sel).2).map (c.level w sel)
    if es.any (fun e => e.isNan || e.isInf) then 0 else es.foldl (fun m e => max m (levelUnits e).natAbs) 0
  else
    match w, sel with
    | .blk4, 0 => 7 * 2 ^ 136
    | .blk4, _ => 6 * 2 ^ 136
    | .blk8, 0 => 127 * 2 ^ 136
    | .blk8, 1 => 448 * 2 ^ 136
    | .blk8, _ => 57344 * 2 ^ 136

/-- The codes an INT or FP candidate may emit (R68): finite, no reserved code, zero only as code 0. -/
def emits (w : BlkW) (sel k : Nat) : Bool :=
  match w, sel with
  | .blk4, _ => k != 8
  | .blk8, 0 => k != 128
  | .blk8, 1 => k % 128 != 127 && k != 128
  | .blk8, _ => k / 4 % 32 != 31 && k != 128

/-- The nearest code for an INT or FP candidate; a tie goes to the even code (R68). -/
def Core.nearestUniform (c : Core) (w : BlkW) (sel : Nat) (s : Nat) (x : Int) : Nat :=
  ((List.range (match w with | .blk4 => 16 | .blk8 => 256)).foldl (fun (best : Option (Nat × Nat)) k =>
    if emits w sel k then
      let d := (x - levelUnits (c.level w sel k) * Int.ofNat s).natAbs
      match best with
      | none => some (d, k)
      | some (d0, k0) => if d < d0 ∨ (d = d0 ∧ k % 2 = 0 ∧ k0 % 2 = 1) then some (d, k) else best
    else best) none).elim 0 (·.2)

/-- The search of R69 between two indexes. -/
def nuSearch (t : Nat → Int) (x : Int) : Nat → Nat → Nat → Nat
  | 0, lo, hi =>
    let dl := (x - t lo).natAbs
    let dh := (t hi - x).natAbs
    if dl < dh then lo else if dh < dl then hi else if lo % 2 = 0 then lo else hi
  | n + 1, lo, hi =>
    if 1 < hi - lo then
      let mid := (lo + hi) / 2
      if t mid ≤ x then nuSearch t x n mid hi else nuSearch t x n lo mid
    else nuSearch t x 0 lo hi

/-- The nearest code of a candidate (R68, R69). -/
def Core.nearest (c : Core) (w : BlkW) (sel : Nat) (s : Nat) (x : Int) : Nat :=
  if isNu w sel then
    nuSearch (fun k => levelUnits (c.level w sel k) * Int.ofNat s) x 8 0 ((nuTable w sel).2 - 1)
  else c.nearestUniform w sel s x

/-- The least scale code whose value is at least m / L, else the greatest (R67). -/
def leastScale (m l : Nat) : Nat :=
  (((List.range 255).map (· + 1)).find? fun k => decide (m ≤ scaleUnits k * l)).getD 255

/-- A candidate tried: its scale code, its codes and its squared error (R67). -/
def Core.tryCandidate (c : Core) (w : BlkW) (xs : List Int) (m sel : Nat) : Nat × List Nat × Nat :=
  let sc := leastScale m (c.largest w sel)
  let s := scaleUnits sc
  let qs := xs.map (c.nearest w sel s)
  let err := ((xs.zip qs).map fun e => (e.1 - levelUnits (c.level w sel e.2) * Int.ofNat s).natAbs ^ 2).sum
  (sc, qs, err)

/-- The payload of a block's codes (R57). -/
def payloadOf (w : BlkW) (qs : List Nat) : Nat := vecOf (match w with | .blk4 => 4 | .blk8 => 8) qs

/-- The header, the payload, and whether QNAN is raised, for 16 FP32 inputs and a candidate mask (R66, R67, R70). -/
def Core.quantise (c : Core) (w : BlkW) (mask : Nat) (xs : List Nat) : Nat × Nat × Bool :=
  if xs.any fun x => (unpack fmt32 x).isNan || (unpack fmt32 x).isInf then (header 7 0, 0, true)
  else
    let us := xs.map inputUnits
    let m := us.foldl (fun a u => max a u.natAbs) 0
    if m = 0 then (0, 0, false)
    else
      let cs := (List.range 4).filter fun k => mask / 2 ^ k % 2 == 1 && c.largest w k != 0
      let cs := if cs.isEmpty then [0] else cs
      let best := cs.foldl (fun (b : Option (Nat × Nat × List Nat × Nat)) k =>
        let r := c.tryCandidate w us m k
        match b with
        | none => some (k, r)
        | some (_, _, _, e0) => if r.2.2 < e0 then some (k, r) else b) none
      match best with
      | some (k, sc, qs, _) => (header k sc, payloadOf w qs, false)
      | none => (0, 0, false)

end Sys2Proof.Machine
end

