-- ==== Sys2Proof/Machine/Integer.lean ====
section
/-! DEFINITION. Integer instructions (R30, R98 to R103). -/

namespace Sys2Proof.Machine

/-! ## Shared operations -/

/-- A fixed-latency form on two sources (R99). -/
def State.alu (s : State) (d a b : Reg) (f : Word → Word → Word) : Host.Outcome State Fault Refusal :=
  .next (s.outG d (f (s.rg a) (s.rg b)))

/-- A variable-latency form on two sources (R103). -/
def State.aluReply (s : State) (d a b : Reg) (f : Word → Word → Word) : Host.Outcome State Fault Refusal :=
  .next (s.pureG d (f (s.rg a) (s.rg b)))

/-- A fixed-latency form on one source (R99). -/
def State.alu1 (s : State) (d a : Reg) (f : Word → Word) : Host.Outcome State Fault Refusal :=
  .next (s.outG d (f (s.rg a)))

/-- 1 for a condition that holds, else 0. -/
def flag (b : Bool) : Word := if b then 1 else 0

/-- Number of leading zero bits (Table 4-8). -/
def clzW (x : Word) : Word := BitVec.ofNat 64 (if x = 0 then 64 else 63 - Nat.log2 x.toNat)

/-- Number of trailing zero bits (Table 4-8). -/
def ctzW (x : Word) : Word := BitVec.ofNat 64 (lowestBit x)

/-- Set bits among the low `n` bits. -/
def popN : Nat → Nat → Nat
  | 0, _ => 0
  | n + 1, v => v % 2 + popN n (v / 2)

/-- Number of one bits (Table 4-8). -/
def popW (x : Word) : Word := BitVec.ofNat 64 (popN 64 x.toNat)

/-- The low `n` bits in reverse order. -/
def revN : Nat → Nat → Nat → Nat
  | 0, _, r => r
  | n + 1, v, r => revN n (v / 2) (2 * r + v % 2)

/-- Bits in reverse order (Table 4-8). -/
def brevW (x : Word) : Word := BitVec.ofNat 64 (revN 64 x.toNat 0)

/-- Bytes in reverse order (Table 4-8). -/
def bswapW (x : Word) : Word := BitVec.ofNat 64 (natOfBytes (bytesOf x.toNat 8).reverse)

/-- Signed quotient, rounded toward zero (R102). -/
def divS (a b : Word) : Word := if b = 0 then BitVec.allOnes 64 else BitVec.ofInt 64 (a.toInt.tdiv b.toInt)

/-- Signed remainder (R102). -/
def remS (a b : Word) : Word := if b = 0 then a else BitVec.ofInt 64 (a.toInt - b.toInt * a.toInt.tdiv b.toInt)

/-- Unsigned quotient (R102). -/
def divU (a b : Word) : Word := if b = 0 then BitVec.allOnes 64 else BitVec.ofNat 64 (a.toNat / b.toNat)

/-- Unsigned remainder (R102). -/
def remU (a b : Word) : Word := if b = 0 then a else BitVec.ofNat 64 (a.toNat % b.toNat)

/-- The high half of a 128-bit product (R102). -/
def mulHi (p : Int) : Word := BitVec.ofInt 64 (p / 2 ^ 64)

/-! ## `opi` (Table 1-9) -/

/-- `add` (R30, Table 1-9). -/
def execOpiAdd (d a b : Reg) (s : State) : Host.Outcome State Fault Refusal :=
  s.alu d a b fun x y => x + y

/-- `sub` (R30, Table 1-9). -/
def execOpiSub (d a b : Reg) (s : State) : Host.Outcome State Fault Refusal :=
  s.alu d a b fun x y => x - y

/-- `and` (R30, Table 1-9). -/
def execOpiAnd (d a b : Reg) (s : State) : Host.Outcome State Fault Refusal :=
  s.alu d a b fun x y => x &&& y

/-- `or` (R30, Table 1-9). -/
def execOpiOr (d a b : Reg) (s : State) : Host.Outcome State Fault Refusal :=
  s.alu d a b fun x y => x ||| y

/-- `xor` (R30, Table 1-9). -/
def execOpiXor (d a b : Reg) (s : State) : Host.Outcome State Fault Refusal :=
  s.alu d a b fun x y => x ^^^ y

/-- `andn` (R30, Table 1-9). -/
def execOpiAndn (d a b : Reg) (s : State) : Host.Outcome State Fault Refusal :=
  s.alu d a b fun x y => x &&& ~~~ y

/-- `orn` (R30, Table 1-9). -/
def execOpiOrn (d a b : Reg) (s : State) : Host.Outcome State Fault Refusal :=
  s.alu d a b fun x y => x ||| ~~~ y

/-- `sll` (R30, Table 1-9). -/
def execOpiSll (d a b : Reg) (s : State) : Host.Outcome State Fault Refusal :=
  s.alu d a b fun x y => x <<< bitsAt y 0 6

/-- `srl` (R30, Table 1-9). -/
def execOpiSrl (d a b : Reg) (s : State) : Host.Outcome State Fault Refusal :=
  s.alu d a b fun x y => x >>> bitsAt y 0 6

/-- `sra` (R30, Table 1-9). -/
def execOpiSra (d a b : Reg) (s : State) : Host.Outcome State Fault Refusal :=
  s.alu d a b fun x y => x.sshiftRight (bitsAt y 0 6)

/-- `slt` (R30, Table 1-9). -/
def execOpiSlt (d a b : Reg) (s : State) : Host.Outcome State Fault Refusal :=
  s.alu d a b fun x y => flag (decide (x.toInt < y.toInt))

/-- `sltu` (R30, Table 1-9). -/
def execOpiSltu (d a b : Reg) (s : State) : Host.Outcome State Fault Refusal :=
  s.alu d a b fun x y => flag (decide (x.toNat < y.toNat))

/-- `min` (R30, Table 1-9). -/
def execOpiMin (d a b : Reg) (s : State) : Host.Outcome State Fault Refusal :=
  s.alu d a b fun x y => if x.toInt ≤ y.toInt then x else y

/-- `max` (R30, Table 1-9). -/
def execOpiMax (d a b : Reg) (s : State) : Host.Outcome State Fault Refusal :=
  s.alu d a b fun x y => if y.toInt ≤ x.toInt then x else y

/-- `minu` (R30, Table 1-9). -/
def execOpiMinu (d a b : Reg) (s : State) : Host.Outcome State Fault Refusal :=
  s.alu d a b fun x y => if x.toNat ≤ y.toNat then x else y

/-- `maxu` (R30, Table 1-9). -/
def execOpiMaxu (d a b : Reg) (s : State) : Host.Outcome State Fault Refusal :=
  s.alu d a b fun x y => if y.toNat ≤ x.toNat then x else y

/-- `sxb` (R30, Table 1-9). -/
def execOpiSxb (d a : Reg) (s : State) : Host.Outcome State Fault Refusal :=
  s.alu1 d a fun x => (x.truncate 8).signExtend 64

/-- `sxh` (R30, Table 1-9). -/
def execOpiSxh (d a : Reg) (s : State) : Host.Outcome State Fault Refusal :=
  s.alu1 d a fun x => (x.truncate 16).signExtend 64

/-- `sxw` (R30, Table 1-9). -/
def execOpiSxw (d a : Reg) (s : State) : Host.Outcome State Fault Refusal :=
  s.alu1 d a fun x => (x.truncate 32).signExtend 64

/-- `zxb` (R30, Table 1-9). -/
def execOpiZxb (d a : Reg) (s : State) : Host.Outcome State Fault Refusal :=
  s.alu1 d a fun x => (x.truncate 8).zeroExtend 64

/-- `zxh` (R30, Table 1-9). -/
def execOpiZxh (d a : Reg) (s : State) : Host.Outcome State Fault Refusal :=
  s.alu1 d a fun x => (x.truncate 16).zeroExtend 64

/-- `zxw` (R30, Table 1-9). -/
def execOpiZxw (d a : Reg) (s : State) : Host.Outcome State Fault Refusal :=
  s.alu1 d a fun x => (x.truncate 32).zeroExtend 64

/-! ## I and U formats (R98, R100) -/

/-- `addi` (R98). -/
def execAddi (d a : Reg) (imm : BitVec 16) (s : State) : Host.Outcome State Fault Refusal :=
  s.alu1 d a fun x => x + simm imm

/-- `andi` (R98). -/
def execAndi (d a : Reg) (imm : BitVec 16) (s : State) : Host.Outcome State Fault Refusal :=
  s.alu1 d a fun x => x &&& simm imm

/-- `ori` (R98). -/
def execOri (d a : Reg) (imm : BitVec 16) (s : State) : Host.Outcome State Fault Refusal :=
  s.alu1 d a fun x => x ||| simm imm

/-- `xori` (R98). -/
def execXori (d a : Reg) (imm : BitVec 16) (s : State) : Host.Outcome State Fault Refusal :=
  s.alu1 d a fun x => x ^^^ simm imm

/-- `slti` (R98). -/
def execSlti (d a : Reg) (imm : BitVec 16) (s : State) : Host.Outcome State Fault Refusal :=
  s.alu1 d a fun x => flag (decide (x.toInt < (simm imm).toInt))

/-- `sltiu` (R98). -/
def execSltiu (d a : Reg) (imm : BitVec 16) (s : State) : Host.Outcome State Fault Refusal :=
  s.alu1 d a fun x => flag (decide (x.toNat < (simm imm).toNat))

/-- `lui` (R100). -/
def execLui (d : Reg) (imm : BitVec 21) (s : State) : Host.Outcome State Fault Refusal :=
  .next (s.outG d (uimm imm))

/-- `addpc` (R100). -/
def execAddpc (d : Reg) (imm : BitVec 21) (s : State) : Host.Outcome State Fault Refusal :=
  .next (s.outG d (s.th.pc + uimm imm))

/-! ## `shi` (Table 4-8) -/

/-- `slli` (R101). -/
def execShiSlli (d a : Reg) (sh : BitVec 6) (s : State) : Host.Outcome State Fault Refusal :=
  s.alu1 d a fun x => x <<< sh.toNat

/-- `srli` (R101). -/
def execShiSrli (d a : Reg) (sh : BitVec 6) (s : State) : Host.Outcome State Fault Refusal :=
  s.alu1 d a fun x => x >>> sh.toNat

/-- `srai` (R101). -/
def execShiSrai (d a : Reg) (sh : BitVec 6) (s : State) : Host.Outcome State Fault Refusal :=
  s.alu1 d a fun x => x.sshiftRight sh.toNat

/-- `rori` (R101). -/
def execShiRori (d a : Reg) (sh : BitVec 6) (s : State) : Host.Outcome State Fault Refusal :=
  s.alu1 d a fun x => x.rotateRight sh.toNat

/-- `clz` (R101). -/
def execShiClz (d a : Reg) (s : State) : Host.Outcome State Fault Refusal :=
  s.alu1 d a clzW

/-- `ctz` (R101). -/
def execShiCtz (d a : Reg) (s : State) : Host.Outcome State Fault Refusal :=
  s.alu1 d a ctzW

/-- `popc` (R101). -/
def execShiPopc (d a : Reg) (s : State) : Host.Outcome State Fault Refusal :=
  s.alu1 d a popW

/-- `brev` (R101). -/
def execShiBrev (d a : Reg) (s : State) : Host.Outcome State Fault Refusal :=
  s.alu1 d a brevW

/-- `bswap` (R101). -/
def execShiBswap (d a : Reg) (s : State) : Host.Outcome State Fault Refusal :=
  s.alu1 d a bswapW

/-! ## `muldiv` (Table 4-9); a divide or remainder has variable latency (R103) -/

/-- `mul` (R102). -/
def execMuldivMul (d a b : Reg) (s : State) : Host.Outcome State Fault Refusal :=
  s.alu d a b fun x y => x * y

/-- `mulh` (R102). -/
def execMuldivMulh (d a b : Reg) (s : State) : Host.Outcome State Fault Refusal :=
  s.alu d a b fun x y => mulHi (x.toInt * y.toInt)

/-- `mulhu` (R102). -/
def execMuldivMulhu (d a b : Reg) (s : State) : Host.Outcome State Fault Refusal :=
  s.alu d a b fun x y => mulHi (Int.ofNat (x.toNat * y.toNat))

/-- `mulhsu` (R102). -/
def execMuldivMulhsu (d a b : Reg) (s : State) : Host.Outcome State Fault Refusal :=
  s.alu d a b fun x y => mulHi (x.toInt * Int.ofNat y.toNat)

/-- `div` (R102, R103). -/
def execMuldivDiv (d a b : Reg) (s : State) : Host.Outcome State Fault Refusal :=
  s.aluReply d a b divS

/-- `divu` (R102, R103). -/
def execMuldivDivu (d a b : Reg) (s : State) : Host.Outcome State Fault Refusal :=
  s.aluReply d a b divU

/-- `rem` (R102, R103). -/
def execMuldivRem (d a b : Reg) (s : State) : Host.Outcome State Fault Refusal :=
  s.aluReply d a b remS

/-- `remu` (R102, R103). -/
def execMuldivRemu (d a b : Reg) (s : State) : Host.Outcome State Fault Refusal :=
  s.aluReply d a b remU

end Sys2Proof.Machine
end

