-- ==== Sys2Proof/Machine/Vector.lean ====
section
/-! DEFINITION. The vector unit (R139 to R157). -/

namespace Sys2Proof.Machine

/-! ## Shared operations -/

/-- R51: a raised flag whose trap is enabled traps FP_TRAP with every raised flag; else the flags are added and the
result is written. -/
def State.fpOut (s : State) (flags : Nat) (reply : Bool) (f : Thread → Thread) : Host.Outcome State Fault Refusal :=
  finish s (do
    trapIf (flags &&& s.th.te != 0) cFpTrap (BitVec.ofNat 64 flags)
    .ok (if reply then s.pure 0 fun t => (f t).addFlags flags else s.modTh fun t => ((f t).addFlags flags).retire))

/-- A lane-wise result with its flags: inactive lanes keep the old value (R140). -/
def laneMap (w : Nat) (m : LMask) (old : VReg) (f : Nat → Nat × Nat) : VReg × Nat :=
  let rs := (List.range (512 / w)).map fun i => if act w m i then f i else (lane w old i, 0)
  (BitVec.ofNat 512 (vecOf w (rs.map (·.1))), rs.foldl (fun a r => a ||| r.2) 0)

/-- A mask from a condition for each active 32-bit lane (R146). -/
def maskOf (m : LMask) (c : Nat → Bool) : LMask :=
  BitVec.ofNat 16 (vecOf 1 ((List.range 16).map fun i => if m.getLsbD i && c i then 1 else 0))

/-- A lane-wise floating form on `va`, `vb` and `vd` (R144). -/
def State.vfp (s : State) (ty : FTy) (m : MReg) (d a b : Reg) (reply : Bool)
    (f : Fmt → Nat → Nat → Nat → Nat → Nat × Nat) : Host.Outcome State Fault Refusal :=
  let t := s.th
  let w := fw ty
  let r := laneMap w (t.rm m) (t.rv d) fun i =>
    f (fmtOf ty) t.round (lane w (t.rv a) i) (lane w (t.rv b) i) (lane w (t.rv d) i)
  s.fpOut r.2 reply fun t => t.setV d r.1

/-- A floating comparison into a mask (R146). -/
def State.vfpCmp (s : State) (m d : MReg) (a b : Reg) (f : Nat → Nat → Bool × Nat) :
    Host.Outcome State Fault Refusal :=
  let t := s.th
  let k := fun i => f (lane 32 (t.rv a) i) (lane 32 (t.rv b) i)
  let flags := (List.range 16).foldl (fun acc i => if (t.rm m).getLsbD i then acc ||| (k i).2 else acc) 0
  s.fpOut flags false fun t => t.setM d (maskOf (t.rm m) fun i => (k i).1)

/-- A lane-wise integer form (R148). -/
def State.vint (s : State) (ty : ITy) (m : MReg) (d a b : Reg) (f : Nat → Nat → Nat → Nat) :
    Host.Outcome State Fault Refusal :=
  let t := s.th
  let w := iw ty
  let r := laneMap w (t.rm m) (t.rv d) fun i => (f w (lane w (t.rv a) i) (lane w (t.rv b) i), 0)
  .next (s.modTh fun t => (t.setV d r.1).retire)

/-- An integer comparison into a mask (R148). -/
def State.vintCmp (s : State) (m d : MReg) (a b : Reg) (f : Nat → Nat → Bool) : Host.Outcome State Fault Refusal :=
  .next (s.modTh fun t =>
    (t.setM d (maskOf (t.rm m) fun i => f (lane 32 (t.rv a) i) (lane 32 (t.rv b) i))).retire)

/-- A `w`-bit pattern as a signed number. -/
def sgn (w x : Nat) : Int := if x < 2 ^ (w - 1) then Int.ofNat x else Int.ofNat x - 2 ^ w

/-- A number as a `w`-bit pattern, wrapping. -/
def wrapTo (w : Nat) (v : Int) : Nat := (v % 2 ^ w).toNat

/-- A number clamped between two bounds, as a `w`-bit pattern (R47). -/
def clampTo (w : Nat) (lo hi v : Int) : Nat := wrapTo w (if v < lo then lo else if hi < v then hi else v)

/-- The signed range of `w` bits. -/
def loS (w : Nat) : Int := -(2 ^ (w - 1))
def hiS (w : Nat) : Int := 2 ^ (w - 1) - 1
def hiU (w : Nat) : Int := 2 ^ w - 1

/-- The rounding mode of a rounding row of `vcvt` (R149). -/
def Thread.cvtRound (t : Thread) : CRnd → Nat
  | .krm => t.round
  | .rne => 0
  | .rtz => 1
  | .rdn => 3

/-- A narrowing row of `vcvt`: 16-bit lane `base` + i of `vd` (R149). -/
def State.vcvtNarrow (s : State) (g : Fmt) (base : Nat) (ty : CRnd) (m : MReg) (d a : Reg) :
    Host.Outcome State Fault Refusal :=
  let t := s.th
  let r := laneMap 16 (BitVec.allOnes 16) (t.rv d) fun j =>
    if base ≤ j ∧ j < base + 16 ∧ (t.rm m).getLsbD (j - base) then
      fpConvert fmt32 g (t.cvtRound ty) (lane 32 (t.rv a) (j - base))
    else (lane 16 (t.rv d) j, 0)
  s.fpOut r.2 false fun t => t.setV d r.1

/-- A widening row of `vcvt`: from 16-bit lane `base` + i of `va` (R149). -/
def State.vcvtWiden (s : State) (f : Fmt) (base : Nat) (m : MReg) (d a : Reg) : Host.Outcome State Fault Refusal :=
  let t := s.th
  let r := laneMap 32 (t.rm m) (t.rv d) fun i => fpConvert f fmt32 0 (lane 16 (t.rv a) (base + i))
  s.fpOut r.2 false fun t => t.setV d r.1

/-- A 32-bit row of `vcvt` (R149, R150). -/
def State.vcvt32 (s : State) (ty : CRnd) (m : MReg) (d a : Reg) (f : Nat → Nat → Nat × Nat) :
    Host.Outcome State Fault Refusal :=
  let t := s.th
  let r := laneMap 32 (t.rm m) (t.rv d) fun i => f (t.cvtRound ty) (lane 32 (t.rv a) i)
  s.fpOut r.2 false fun t => t.setV d r.1

/-- A float reduction over the active lanes: lane 0 of the result, the rest +0 (R77, R152). -/
def State.fpReduce (s : State) (ty : FTy) (m : MReg) (d a : Reg) (empty : Fmt → Nat)
    (op : Fmt → Nat → Nat → Nat → Nat × Nat) : Host.Outcome State Fault Refusal :=
  let t := s.th
  let w := fw ty
  let f := fmtOf ty
  let xs := (List.range (512 / w)).map fun i => if act w (t.rm m) i then some (lane w (t.rv a) i) else none
  let r := treeReduce (op f t.round) (if w = 32 then 4 else 5) xs
  s.fpOut r.2 false fun t => t.setV d (BitVec.ofNat 512 (r.1.getD (empty f)))

/-- An integer reduction (R152). -/
def State.intReduce (s : State) (ty : ITy) (m : MReg) (d a : Reg) (unit : Nat → Nat) (op : Nat → Nat → Nat → Nat) :
    Host.Outcome State Fault Refusal :=
  let t := s.th
  let w := iw ty
  let xs := ((List.range (512 / w)).filter (act w (t.rm m))).map (lane w (t.rv a))
  .next (s.modTh fun t => (t.setV d (BitVec.ofNat 512 (xs.foldl (op w) (unit w) % 2 ^ w))).retire)

/-- A permute: active lanes take a lane of `va` (R151). -/
def State.permute (s : State) (ty : ITy) (m : MReg) (d a : Reg) (src : Nat → Nat) : Host.Outcome State Fault Refusal :=
  let t := s.th
  let w := iw ty
  let r := laneMap w (t.rm m) (t.rv d) fun i => (lane w (t.rv a) (src i % (512 / w)), 0)
  .next (s.modTh fun t => (t.setV d r.1).retire)

/-- Set bits of a mask below lane `i`. -/
def rankBelow (m : LMask) (i : Nat) : Nat := popN i m.toNat

/-- `cmpr` (R153). -/
def compress (m : LMask) (a b : VReg) : VReg :=
  let live := ((List.range 16).filter m.getLsbD).map (lane 32 a)
  BitVec.ofNat 512 (vecOf 32 ((live ++ (List.range 16).map (lane 32 b)).take 16))

/-- `expd` (R153). -/
def expand (m : LMask) (a b : VReg) : VReg :=
  lanesTo 32 fun i => if m.getLsbD i then lane 32 a (rankBelow m i) else lane 32 b i

/-- One lane of a `vbmm`: the accumulator over the first `n` columns in order (R76, R155). -/
def bmmLane (t : Thread) (a b : Reg) (base l : Nat) : Nat → Nat × Nat → Nat × Nat
  | 0, acc => acc
  | n + 1, acc =>
    let p := bmmLane t a b base l n acc
    let q := fpFma fmt32 t.round false false (lane 32 (t.rv a) (base + n)) (lane 32 (t.rv (Fin.ofNat 32 (b.val + n))) l) p.1
    (q.1, p.2 ||| q.2)

/-- `vbmm` (R155): a group's length is the number of its set mask bits; `gr8` and `gr16` have variable latency
(R142). -/
def State.vbmm (s : State) (ty : GSize) (m : MReg) (d a b : Reg) (accumulate : Bool) :
    Host.Outcome State Fault Refusal :=
  let t := s.th
  let gs := ty.lanes
  let rs := (List.range 16).map fun l =>
    let base := l / gs * gs
    let n := popN gs ((t.rm m).toNat / 2 ^ base)
    bmmLane t a b base l n (if accumulate then lane 32 (t.rv d) l else 0, 0)
  s.fpOut (rs.foldl (fun x r => x ||| r.2) 0) (ty == .gr8 || ty == .gr16) fun t =>
    t.setV d (BitVec.ofNat 512 (vecOf 32 (rs.map (·.1))))

/-- A mask form: one mask written (R154). -/
def State.maskOut (s : State) (d : MReg) (f : Thread → LMask) : Host.Outcome State Fault Refusal :=
  .next (s.modTh fun t => (t.setM d (f t)).retire)

/-- Group lengths as a mask (R154). -/
def glen (ty : GSize) (x : Word) : LMask :=
  let gs := ty.lanes
  BitVec.ofNat 16 (vecOf 1 ((List.range 16).map fun i =>
    if i % gs < min (bitsAt x (5 * (i / gs)) 5) gs then 1 else 0))

/-! ## `vfp` (Table 6-1) -/

/-- `vfp.add` (R144, Table 6-1). -/
def execVfpAdd (ty : FTy) (m : MReg) (d a b : Reg) (s : State) : Host.Outcome State Fault Refusal :=
  s.vfp ty m d a b false fun f rm x y _ => fpAdd f rm false x y

/-- `vfp.sub` (R144, Table 6-1). -/
def execVfpSub (ty : FTy) (m : MReg) (d a b : Reg) (s : State) : Host.Outcome State Fault Refusal :=
  s.vfp ty m d a b false fun f rm x y _ => fpAdd f rm true x y

/-- `vfp.mul` (R144, Table 6-1). -/
def execVfpMul (ty : FTy) (m : MReg) (d a b : Reg) (s : State) : Host.Outcome State Fault Refusal :=
  s.vfp ty m d a b false fun f rm x y _ => fpMul f rm x y

/-- `vfp.div` (R144, Table 6-1). -/
def execVfpDiv (ty : FTy) (m : MReg) (d a b : Reg) (s : State) : Host.Outcome State Fault Refusal :=
  s.vfp ty m d a b true fun f rm x y _ => fpDiv f rm x y

/-- `vfp.fma` (R144, Table 6-1). -/
def execVfpFma (ty : FTy) (m : MReg) (d a b : Reg) (s : State) : Host.Outcome State Fault Refusal :=
  s.vfp ty m d a b false fun f rm x y z => fpFma f rm false false x y z

/-- `vfp.fms` (R144, Table 6-1). -/
def execVfpFms (ty : FTy) (m : MReg) (d a b : Reg) (s : State) : Host.Outcome State Fault Refusal :=
  s.vfp ty m d a b false fun f rm x y z => fpFma f rm false true x y z

/-- `vfp.fnma` (R144, Table 6-1). -/
def execVfpFnma (ty : FTy) (m : MReg) (d a b : Reg) (s : State) : Host.Outcome State Fault Refusal :=
  s.vfp ty m d a b false fun f rm x y z => fpFma f rm true false x y z

/-- `vfp.min` (R144, Table 6-1). -/
def execVfpMin (ty : FTy) (m : MReg) (d a b : Reg) (s : State) : Host.Outcome State Fault Refusal :=
  s.vfp ty m d a b false fun f _ x y _ => fpMin f x y

/-- `vfp.max` (R144, Table 6-1). -/
def execVfpMax (ty : FTy) (m : MReg) (d a b : Reg) (s : State) : Host.Outcome State Fault Refusal :=
  s.vfp ty m d a b false fun f _ x y _ => fpMax f x y

/-- `vfp.sgnj` (R144, Table 6-1). -/
def execVfpSgnj (ty : FTy) (m : MReg) (d a b : Reg) (s : State) : Host.Outcome State Fault Refusal :=
  s.vfp ty m d a b false fun f _ x y _ => (fpSgnj f x y, 0)

/-- `vfp.sqrt` (R144, Table 6-1). -/
def execVfpSqrt (ty : FTy) (m : MReg) (d a : Reg) (s : State) : Host.Outcome State Fault Refusal :=
  s.vfp ty m d a a true fun f rm x _ _ => fpSqrt f rm x

/-- `vfp.abs` (R144, Table 6-1). -/
def execVfpAbs (ty : FTy) (m : MReg) (d a : Reg) (s : State) : Host.Outcome State Fault Refusal :=
  s.vfp ty m d a a false fun f _ x _ _ => (fpAbs f x, 0)

/-- `vfp.neg` (R144, Table 6-1). -/
def execVfpNeg (ty : FTy) (m : MReg) (d a : Reg) (s : State) : Host.Outcome State Fault Refusal :=
  s.vfp ty m d a a false fun f _ x _ _ => (fpNeg f x, 0)

/-- `vfp.ceq` (R146). -/
def execVfpCeq (m d : MReg) (a b : Reg) (s : State) : Host.Outcome State Fault Refusal :=
  s.vfpCmp m d a b fun x y => fpCompare false x y (fun lt gt => !lt && !gt) false

/-- `vfp.clt` (R146). -/
def execVfpClt (m d : MReg) (a b : Reg) (s : State) : Host.Outcome State Fault Refusal :=
  s.vfpCmp m d a b fun x y => fpCompare true x y (fun lt _ => lt) false

/-- `vfp.cle` (R146). -/
def execVfpCle (m d : MReg) (a b : Reg) (s : State) : Host.Outcome State Fault Refusal :=
  s.vfpCmp m d a b fun x y => fpCompare true x y (fun _ gt => !gt) false

/-- `vfp.cun` (R146). -/
def execVfpCun (m d : MReg) (a b : Reg) (s : State) : Host.Outcome State Fault Refusal :=
  s.vfpCmp m d a b fun x y => fpCompare false x y (fun _ _ => false) true

/-! ## `vint` (Table 6-2) -/

/-- `vint.add` (R148, Table 6-2). -/
def execVintAdd (ty : ITy) (m : MReg) (d a b : Reg) (s : State) : Host.Outcome State Fault Refusal :=
  s.vint ty m d a b fun _ x y => x + y

/-- `vint.sub` (R148, Table 6-2). -/
def execVintSub (ty : ITy) (m : MReg) (d a b : Reg) (s : State) : Host.Outcome State Fault Refusal :=
  s.vint ty m d a b fun w x y => wrapTo w (Int.ofNat x - Int.ofNat y)

/-- `vint.adds` (R148, Table 6-2). -/
def execVintAdds (ty : ITy) (m : MReg) (d a b : Reg) (s : State) : Host.Outcome State Fault Refusal :=
  s.vint ty m d a b fun w x y => clampTo w (loS w) (hiS w) (sgn w x + sgn w y)

/-- `vint.addus` (R148, Table 6-2). -/
def execVintAddus (ty : ITy) (m : MReg) (d a b : Reg) (s : State) : Host.Outcome State Fault Refusal :=
  s.vint ty m d a b fun w x y => clampTo w 0 (hiU w) (Int.ofNat (x + y))

/-- `vint.subs` (R148, Table 6-2). -/
def execVintSubs (ty : ITy) (m : MReg) (d a b : Reg) (s : State) : Host.Outcome State Fault Refusal :=
  s.vint ty m d a b fun w x y => clampTo w (loS w) (hiS w) (sgn w x - sgn w y)

/-- `vint.subus` (R148, Table 6-2). -/
def execVintSubus (ty : ITy) (m : MReg) (d a b : Reg) (s : State) : Host.Outcome State Fault Refusal :=
  s.vint ty m d a b fun _ x y => x - y

/-- `vint.mul` (R148, Table 6-2). -/
def execVintMul (ty : ITy) (m : MReg) (d a b : Reg) (s : State) : Host.Outcome State Fault Refusal :=
  s.vint ty m d a b fun _ x y => x * y

/-- `vint.mulh` (R148, Table 6-2). -/
def execVintMulh (ty : ITy) (m : MReg) (d a b : Reg) (s : State) : Host.Outcome State Fault Refusal :=
  s.vint ty m d a b fun w x y => wrapTo w (sgn w x * sgn w y / 2 ^ w)

/-- `vint.and` (R148, Table 6-2). -/
def execVintAnd (ty : ITy) (m : MReg) (d a b : Reg) (s : State) : Host.Outcome State Fault Refusal :=
  s.vint ty m d a b fun _ x y => x &&& y

/-- `vint.or` (R148, Table 6-2). -/
def execVintOr (ty : ITy) (m : MReg) (d a b : Reg) (s : State) : Host.Outcome State Fault Refusal :=
  s.vint ty m d a b fun _ x y => x ||| y

/-- `vint.xor` (R148, Table 6-2). -/
def execVintXor (ty : ITy) (m : MReg) (d a b : Reg) (s : State) : Host.Outcome State Fault Refusal :=
  s.vint ty m d a b fun _ x y => x ^^^ y

/-- `vint.andn` (R148, Table 6-2). -/
def execVintAndn (ty : ITy) (m : MReg) (d a b : Reg) (s : State) : Host.Outcome State Fault Refusal :=
  s.vint ty m d a b fun w x y => x &&& (2 ^ w - 1 - y)

/-- `vint.sll` (R148, Table 6-2). -/
def execVintSll (ty : ITy) (m : MReg) (d a b : Reg) (s : State) : Host.Outcome State Fault Refusal :=
  s.vint ty m d a b fun w x y => x * 2 ^ (y % w)

/-- `vint.srl` (R148, Table 6-2). -/
def execVintSrl (ty : ITy) (m : MReg) (d a b : Reg) (s : State) : Host.Outcome State Fault Refusal :=
  s.vint ty m d a b fun w x y => x / 2 ^ (y % w)

/-- `vint.sra` (R148, Table 6-2). -/
def execVintSra (ty : ITy) (m : MReg) (d a b : Reg) (s : State) : Host.Outcome State Fault Refusal :=
  s.vint ty m d a b fun w x y => wrapTo w (sgn w x / 2 ^ (y % w))

/-- `vint.min` (R148, Table 6-2). -/
def execVintMin (ty : ITy) (m : MReg) (d a b : Reg) (s : State) : Host.Outcome State Fault Refusal :=
  s.vint ty m d a b fun w x y => if sgn w x ≤ sgn w y then x else y

/-- `vint.max` (R148, Table 6-2). -/
def execVintMax (ty : ITy) (m : MReg) (d a b : Reg) (s : State) : Host.Outcome State Fault Refusal :=
  s.vint ty m d a b fun w x y => if sgn w y ≤ sgn w x then x else y

/-- `vint.minu` (R148, Table 6-2). -/
def execVintMinu (ty : ITy) (m : MReg) (d a b : Reg) (s : State) : Host.Outcome State Fault Refusal :=
  s.vint ty m d a b fun _ x y => min x y

/-- `vint.maxu` (R148, Table 6-2). -/
def execVintMaxu (ty : ITy) (m : MReg) (d a b : Reg) (s : State) : Host.Outcome State Fault Refusal :=
  s.vint ty m d a b fun _ x y => max x y

/-- `vint.ceq` (R148). -/
def execVintCeq (m d : MReg) (a b : Reg) (s : State) : Host.Outcome State Fault Refusal :=
  s.vintCmp m d a b fun x y => x == y

/-- `vint.clt` (R148). -/
def execVintClt (m d : MReg) (a b : Reg) (s : State) : Host.Outcome State Fault Refusal :=
  s.vintCmp m d a b fun x y => decide (sgn 32 x < sgn 32 y)

/-- `vint.cltu` (R148). -/
def execVintCltu (m d : MReg) (a b : Reg) (s : State) : Host.Outcome State Fault Refusal :=
  s.vintCmp m d a b fun x y => decide (x < y)

/-! ## `vcvt` (Table 6-3) -/

/-- `vcvt.nf16l` (R149). -/
def execVcvtNf16l (ty : CRnd) (m : MReg) (d a : Reg) (s : State) : Host.Outcome State Fault Refusal :=
  s.vcvtNarrow fmt16 0 ty m d a

/-- `vcvt.nf16h` (R149). -/
def execVcvtNf16h (ty : CRnd) (m : MReg) (d a : Reg) (s : State) : Host.Outcome State Fault Refusal :=
  s.vcvtNarrow fmt16 16 ty m d a

/-- `vcvt.nbf16l` (R149). -/
def execVcvtNbf16l (ty : CRnd) (m : MReg) (d a : Reg) (s : State) : Host.Outcome State Fault Refusal :=
  s.vcvtNarrow fmtB16 0 ty m d a

/-- `vcvt.nbf16h` (R149). -/
def execVcvtNbf16h (ty : CRnd) (m : MReg) (d a : Reg) (s : State) : Host.Outcome State Fault Refusal :=
  s.vcvtNarrow fmtB16 16 ty m d a

/-- `vcvt.wf16l` (R149). -/
def execVcvtWf16l (m : MReg) (d a : Reg) (s : State) : Host.Outcome State Fault Refusal :=
  s.vcvtWiden fmt16 0 m d a

/-- `vcvt.wf16h` (R149). -/
def execVcvtWf16h (m : MReg) (d a : Reg) (s : State) : Host.Outcome State Fault Refusal :=
  s.vcvtWiden fmt16 16 m d a

/-- `vcvt.wbf16l` (R149). -/
def execVcvtWbf16l (m : MReg) (d a : Reg) (s : State) : Host.Outcome State Fault Refusal :=
  s.vcvtWiden fmtB16 0 m d a

/-- `vcvt.wbf16h` (R149). -/
def execVcvtWbf16h (m : MReg) (d a : Reg) (s : State) : Host.Outcome State Fault Refusal :=
  s.vcvtWiden fmtB16 16 m d a

/-- `vcvt.ftoi` (R150). -/
def execVcvtFtoi (ty : CRnd) (m : MReg) (d a : Reg) (s : State) : Host.Outcome State Fault Refusal :=
  s.vcvt32 ty m d a fun rm x => let r := fpToInt rm (loS 32) (hiS 32) x; (wrapTo 32 r.1, r.2)

/-- `vcvt.ftou` (R150). -/
def execVcvtFtou (ty : CRnd) (m : MReg) (d a : Reg) (s : State) : Host.Outcome State Fault Refusal :=
  s.vcvt32 ty m d a fun rm x => let r := fpToInt rm 0 (hiU 32) x; (wrapTo 32 r.1, r.2)

/-- `vcvt.itof` (R150). -/
def execVcvtItof (ty : CRnd) (m : MReg) (d a : Reg) (s : State) : Host.Outcome State Fault Refusal :=
  s.vcvt32 ty m d a fun rm x => intToFp rm (sgn 32 x)

/-- `vcvt.utof` (R150). -/
def execVcvtUtof (ty : CRnd) (m : MReg) (d a : Reg) (s : State) : Host.Outcome State Fault Refusal :=
  s.vcvt32 ty m d a fun rm x => intToFp rm (Int.ofNat x)

/-- `vcvt.rint` (R150). -/
def execVcvtRint (ty : CRnd) (m : MReg) (d a : Reg) (s : State) : Host.Outcome State Fault Refusal :=
  s.vcvt32 ty m d a fun rm x => fpRint rm x

/-! ## `vperm` (Table 6-4) -/

/-- `vperm.fsum` (R152). -/
def execVpermFsum (ty : FTy) (m : MReg) (d a : Reg) (s : State) : Host.Outcome State Fault Refusal :=
  s.fpReduce ty m d a (fun _ => 0) fun f rm x y => fpAdd f rm false x y

/-- `vperm.fmax` (R152). -/
def execVpermFmax (ty : FTy) (m : MReg) (d a : Reg) (s : State) : Host.Outcome State Fault Refusal :=
  s.fpReduce ty m d a defaultNaN fun f _ x y => fpMax f x y

/-- `vperm.fmin` (R152). -/
def execVpermFmin (ty : FTy) (m : MReg) (d a : Reg) (s : State) : Host.Outcome State Fault Refusal :=
  s.fpReduce ty m d a defaultNaN fun f _ x y => fpMin f x y

/-- `vperm.isum` (R152). -/
def execVpermIsum (ty : ITy) (m : MReg) (d a : Reg) (s : State) : Host.Outcome State Fault Refusal :=
  s.intReduce ty m d a (fun _ => 0) (fun _ x y => x + y)

/-- `vperm.imax` (R152). -/
def execVpermImax (ty : ITy) (m : MReg) (d a : Reg) (s : State) : Host.Outcome State Fault Refusal :=
  s.intReduce ty m d a (fun w => 2 ^ (w - 1)) (fun w x y => if sgn w x ≤ sgn w y then y else x)

/-- `vperm.imin` (R152). -/
def execVpermImin (ty : ITy) (m : MReg) (d a : Reg) (s : State) : Host.Outcome State Fault Refusal :=
  s.intReduce ty m d a (fun w => 2 ^ (w - 1) - 1) (fun w x y => if sgn w x ≤ sgn w y then x else y)

/-- `vperm.imaxu` (R152). -/
def execVpermImaxu (ty : ITy) (m : MReg) (d a : Reg) (s : State) : Host.Outcome State Fault Refusal :=
  s.intReduce ty m d a (fun _ => 0) (fun _ x y => max x y)

/-- `vperm.iminu` (R152). -/
def execVpermIminu (ty : ITy) (m : MReg) (d a : Reg) (s : State) : Host.Outcome State Fault Refusal :=
  s.intReduce ty m d a (fun w => 2 ^ w - 1) (fun _ x y => min x y)

/-- `vperm.perm` (R151). -/
def execVpermPerm (ty : ITy) (m : MReg) (d a b : Reg) (s : State) : Host.Outcome State Fault Refusal :=
  s.permute ty m d a fun i => lane (iw ty) (s.th.rv b) i

/-- `vperm.bcl` (R151). -/
def execVpermBcl (ty : ITy) (m : MReg) (d a : Reg) (n : BitVec 5) (s : State) : Host.Outcome State Fault Refusal :=
  s.permute ty m d a fun _ => n.toNat

/-- `vperm.rot` (R151). -/
def execVpermRot (ty : ITy) (m : MReg) (d a : Reg) (n : BitVec 5) (s : State) : Host.Outcome State Fault Refusal :=
  s.permute ty m d a fun i => i + n.toNat

/-- `vperm.cmpr` (R153). -/
def execVpermCmpr (m : MReg) (d a b : Reg) (s : State) : Host.Outcome State Fault Refusal :=
  .next (s.modTh fun t => (t.setV d (compress (t.rm m) (t.rv a) (t.rv b))).retire)

/-- `vperm.expd` (R153). -/
def execVpermExpd (m : MReg) (d a b : Reg) (s : State) : Host.Outcome State Fault Refusal :=
  .next (s.modTh fun t => (t.setV d (expand (t.rm m) (t.rv a) (t.rv b))).retire)

/-! ## `vbmm`, `vmsk`, `vmov` (R154, R155, R157) -/

/-- `vbmm.mma` (R155). -/
def execVbmmMma (ty : GSize) (m : MReg) (d a b : Reg) (s : State) : Host.Outcome State Fault Refusal :=
  s.vbmm ty m d a b true

/-- `vbmm.mm` (R155). -/
def execVbmmMm (ty : GSize) (m : MReg) (d a b : Reg) (s : State) : Host.Outcome State Fault Refusal :=
  s.vbmm ty m d a b false

/-- `vmsk.and` (R154). -/
def execVmskAnd (d a b : MReg) (s : State) : Host.Outcome State Fault Refusal :=
  s.maskOut d fun t => t.rm a &&& t.rm b

/-- `vmsk.or` (R154). -/
def execVmskOr (d a b : MReg) (s : State) : Host.Outcome State Fault Refusal :=
  s.maskOut d fun t => t.rm a ||| t.rm b

/-- `vmsk.xor` (R154). -/
def execVmskXor (d a b : MReg) (s : State) : Host.Outcome State Fault Refusal :=
  s.maskOut d fun t => t.rm a ^^^ t.rm b

/-- `vmsk.andn` (R154). -/
def execVmskAndn (d a b : MReg) (s : State) : Host.Outcome State Fault Refusal :=
  s.maskOut d fun t => t.rm a &&& ~~~ t.rm b

/-- `vmsk.not` (R154). -/
def execVmskNot (d a : MReg) (s : State) : Host.Outcome State Fault Refusal :=
  s.maskOut d fun t => ~~~ t.rm a

/-- `vmsk.fromg` (R154). -/
def execVmskFromg (d : MReg) (a : Reg) (s : State) : Host.Outcome State Fault Refusal :=
  s.maskOut d fun t => (t.rg a).setWidth 16

/-- `vmsk.pre` (R154). -/
def execVmskPre (d : MReg) (a : Reg) (s : State) : Host.Outcome State Fault Refusal :=
  s.maskOut d fun t => maskOf (BitVec.allOnes 16) fun i => decide (i < (t.rg a).toNat)

/-- `vmsk.glen` (R154). -/
def execVmskGlen (ty : GSize) (d : MReg) (a : Reg) (s : State) : Host.Outcome State Fault Refusal :=
  s.maskOut d fun t => glen ty (t.rg a)

/-- `vmsk.tog` (R154). -/
def execVmskTog (d : Reg) (a : MReg) (s : State) : Host.Outcome State Fault Refusal :=
  .next (s.outG d ((s.th.rm a).setWidth 64))

/-- `vmsk.popc` (R154). -/
def execVmskPopc (d : Reg) (a : MReg) (s : State) : Host.Outcome State Fault Refusal :=
  .next (s.outG d (BitVec.ofNat 64 (popN 16 (s.th.rm a).toNat)))

/-- `vmsk.first` (R154). -/
def execVmskFirst (d : Reg) (a : MReg) (s : State) : Host.Outcome State Fault Refusal :=
  .next (s.outG d (BitVec.ofNat 64 (if s.th.rm a = 0 then 16 else lowBit 16 (s.th.rm a).toNat)))

/-- `vmov.mov` (R157). -/
def execVmovMov (ty : ITy) (m : MReg) (d a : Reg) (s : State) : Host.Outcome State Fault Refusal :=
  s.permute ty m d a fun i => i

/-- `vmov.sel` (R157). -/
def execVmovSel (ty : ITy) (m : MReg) (d a b : Reg) (s : State) : Host.Outcome State Fault Refusal :=
  .next (s.modTh fun t => (t.setV d (lanesTo (iw ty) fun i =>
    if act (iw ty) (t.rm m) i then lane (iw ty) (t.rv a) i else lane (iw ty) (t.rv b) i)).retire)

/-- `vmov.bcg` (R157). -/
def execVmovBcg (ty : ITy) (m : MReg) (d a : Reg) (s : State) : Host.Outcome State Fault Refusal :=
  .next (s.modTh fun t => (t.setV d (laneMap (iw ty) (t.rm m) (t.rv d) fun _ => ((t.rg a).toNat % 2 ^ iw ty, 0)).1).retire)

/-- `vmov.ins` (R157). -/
def execVmovIns (ty : ITy) (d a b : Reg) (s : State) : Host.Outcome State Fault Refusal :=
  .next (s.modTh fun t => (t.setV d (lanesTo (iw ty) fun i =>
    if i = (t.rg b).toNat % (512 / iw ty) then (t.rg a).toNat else lane (iw ty) (t.rv d) i)).retire)

/-- `vmov.ext` (R157). -/
def execVmovExt (ty : ITy) (d a b : Reg) (s : State) : Host.Outcome State Fault Refusal :=
  .next (s.outG d (BitVec.ofNat 64 (lane (iw ty) (s.th.rv a) ((s.rg b).toNat % (512 / iw ty)))))

/-- `vmov.iota` (R157). -/
def execVmovIota (ty : ITy) (m : MReg) (d : Reg) (s : State) : Host.Outcome State Fault Refusal :=
  .next (s.modTh fun t => (t.setV d (laneMap (iw ty) (t.rm m) (t.rv d) fun i => (i, 0)).1).retire)

end Sys2Proof.Machine
end

