-- ==== Sys2Proof/Machine/Keyed.lean ====
section
/-! DEFINITION. Keyed memory (R192 to R216, R238 to R240, R308 to R312). -/

namespace Sys2Proof.Machine

/-! ## Regions and homes (R193, R195) -/

/-- Codes of Table 8-2. -/
def opCode : KOp → Nat
  | .add => 0 | .adds => 1 | .max => 2 | .min => 3 | .or => 4 | .and => 5 | .xor => 6 | .repl => 7 | .fxadd => 8

/-- The operator of a code of Table 8-2. -/
def opOfCode : Nat → Option KOp
  | 0 => some .add | 1 => some .adds | 2 => some .max | 3 => some .min | 4 => some .or | 5 => some .and
  | 6 => some .xor | 7 => some .repl | 8 => some .fxadd | _ => none

/-- The permitted pairs of Table 8-2. -/
def pairAllowed (op : KOp) (vt : VType) : Bool :=
  match op, vt with
  | .fxadd, .fx128 => true
  | .fxadd, _ => false
  | _, .fx128 => false
  | .add, .i32 => true | .add, .i64 => true | .add, _ => false
  | .adds, .i32 => true | .adds, .i64 => true | .adds, _ => false
  | .max, .b64 => false | .max, _ => true
  | .min, .b64 => false | .min, _ => true
  | .or, .f32 => false | .or, .f16 => false | .or, _ => true
  | .and, .f32 => false | .and, .f16 => false | .and, _ => true
  | .xor, .f32 => false | .xor, .f16 => false | .xor, _ => true
  | .repl, _ => true

/-- The region number of a name (R192). -/
def regionOf (name : Nat) : Nat := name / 2 ^ 52 % 4096

/-- The region of a name in an address space (R193). -/
def State.region (s : State) (asid name : Nat) : Option Region :=
  match s.spaces.find asid with
  | some sp => sp.regions.find (regionOf name)
  | none => none

/-- The hash of a name (R195). -/
def nameHash (name : Nat) : Nat := (name ^^^ (name / 2 ^ 29)) * 0x9E3779B97F4A7C15 % 2 ^ 64

/-- The original home of a name (R195). -/
def origHome (r : Region) (name : Nat) : Nat :=
  r.dies.getD (nameHash name / 2 ^ 32 % (max 1 r.dies.length)) 0

/-- The next die of a list after one, cyclically, that is online. -/
def State.nextOnline (s : State) (ds : List Nat) (d : Nat) : Option Nat :=
  let on := ds.filter fun k => (s.die k).online
  match on.find? fun k => decide (d < k) with
  | some k => some k
  | none => on.head?

/-- The home die of a name (R195). -/
def State.keyHome (s : State) (r : Region) (name : Nat) : Nat :=
  let o := origHome r name
  if (s.die o).online then o
  else ((s.nextOnline r.dies o).orElse fun _ => s.nextOnline (List.range 12) o).getD o

/-- A key of the beam and the footing: address space and name (R308, R310). -/
def beamKey (asid name : Nat) : Nat := 2 ^ 64 * asid + name

/-- The quarter of a beam that holds a name (R308). -/
def quarterOf (name : Nat) : Nat := nameHash (name % 2 ^ 64) / 2 ^ 30 % 4

/-! ## Combining (R198, R202) -/

/-- Bits of an integer value type. -/
def vtBits : VType → Nat
  | .i32 => 32 | .i64 => 64 | .f32 => 32 | .f16 => 16 | .b64 => 64 | .fx128 => 128

/-- The format of a floating value type. -/
def vtFmt : VType → Option Fmt
  | .f32 => some fmt32
  | .f16 => some fmt16
  | _ => none

/-- The greater or lesser of two floating values (Table 8-3): 1 where an operand is a signalling NaN. -/
def fpExtreme (f : Fmt) (greater : Bool) (outer inner : Nat) : Nat :=
  if (unpack f inner).isNan then inner
  else if (unpack f outer).isNan then outer
  else if greater then (if fpBelow f outer inner then inner else outer)
  else if fpBelow f inner outer then inner else outer

/-- The range of FX128 (R56). -/
def fxFits (v : Int) : Bool := decide (-(2 ^ 127) ≤ v) && decide (v < 2 ^ 127)

/-- `combine(op, outer, inner)` of Table 8-3, or the reason of an operator fault (Table 8-6). -/
def combine (op : KOp) (vt : VType) (outer inner : Nat) : Except Nat Nat :=
  let w := vtBits vt
  match op with
  | .add => .ok ((outer + inner) % 2 ^ w)
  | .adds => .ok (clampTo w (loS w) (hiS w) (sgn w outer + sgn w inner))
  | .max =>
    match vtFmt vt with
    | some f => if isSignalling f outer || isSignalling f inner then .error 1 else .ok (fpExtreme f true outer inner)
    | none => .ok (if sgn w outer < sgn w inner then inner else outer)
  | .min =>
    match vtFmt vt with
    | some f => if isSignalling f outer || isSignalling f inner then .error 1 else .ok (fpExtreme f false outer inner)
    | none => .ok (if sgn w inner < sgn w outer then inner else outer)
  | .or => .ok (outer ||| inner)
  | .and => .ok (outer &&& inner)
  | .xor => .ok (outer ^^^ inner)
  | .repl => .ok inner
  | .fxadd =>
    let v := sgn 128 outer + sgn 128 inner
    if fxFits v then .ok (wrapTo 128 v) else .error 2

/-- A value with a signalling NaN quieted (R202). -/
def quietVal (vt : VType) (v : Nat) : Nat :=
  match vtFmt vt with
  | some f => if isSignalling f v then quiet f v else v
  | none => v

/-- `rc` of R202 on every operator but `fxadd`, which never faults. -/
def readCombine (op : KOp) (vt : VType) (outer inner : Nat) : Nat :=
  match combine op vt (quietVal vt outer) (quietVal vt inner) with
  | .ok v => v
  | .error _ => inner

/-- The value of an absent name (Table 8-4). -/
def identityOf (op : KOp) (vt : VType) : Nat :=
  let w := vtBits vt
  match op with
  | .max => match vtFmt vt with
    | some f => infBits f true
    | none => 2 ^ (w - 1)
  | .min => match vtFmt vt with
    | some f => infBits f false
    | none => 2 ^ (w - 1) - 1
  | .and => 2 ^ w - 1
  | _ => 0

/-! ## The footing in memory (R310) -/

/-- Bytes of a footing entry (R310). -/
def footBytes : VType → Nat
  | .fx128 => 32
  | _ => 16

/-- The entry at an address: its name and its value (R310). -/
def footEntry (m : List Host.Cell) (vt : VType) (a : Nat) : Nat × Nat :=
  (natOfBytes (memRead m a 8), natOfBytes (memRead m (a + 8) (if vt = .fx128 then 16 else 8)))

/-- A sorted run of entries from an address on, as a table by name (R310). -/
def footRun (m : List Host.Cell) (vt : VType) (a : Nat) : Nat → AMap Nat
  | 0 => []
  | n + 1 => footEntry m vt a :: footRun m vt (a + footBytes vt) n

/-- The bytes of a run: name and value, and of FX128 eight zero bytes (R310). -/
def footImage (vt : VType) (run : AMap Nat) : List Byte :=
  run.flatMap fun e => bytesOf e.1 8 ++ bytesOf e.2 (footBytes vt - 8)

/-- Where the footing of a region on a die stands: in its KEYED pages (R35, R310). -/
def State.footBase (s : State) (die asid region : Nat) : Option Nat :=
  match s.spaces.find asid with
  | some sp => sp.foots.find (region * 16 + die)
  | none => none

/-- Entries of a region's footing on a die. -/
def State.footCount (s : State) (die asid region : Nat) : Nat := (s.die die).footLen.get 0 (asid * 4096 + region)

/-- The footing of a region on a die. -/
def State.footing (s : State) (die asid region : Nat) (vt : VType) : AMap Nat :=
  match s.footBase die asid region with
  | some a => footRun s.mem vt a (s.footCount die asid region)
  | none => []

/-- The footing of a region on a die written. -/
def State.setFooting (s : State) (die asid region : Nat) (vt : VType) (run : AMap Nat) : State :=
  match s.footBase die asid region with
  | some a =>
    (s.homeWrite a (footImage vt run)).modDie die fun d => { d with footLen := d.footLen.set (asid * 4096 + region) run.length }
  | none => s

/-- The first uncorrectable word of the footing entry that a load reads (R281). -/
def State.footLost (s : State) (die asid name : Nat) (vt : VType) : Option Nat :=
  match s.footBase die asid (regionOf name), (s.footing die asid (regionOf name) vt).findIdx? (·.1 == name) with
  | some a, some i => (wordsOf (a + footBytes vt * i) (footBytes vt)).find? s.lostWord
  | _, _ => none

/-- The levels that a load of a name combines, outermost first (R201, R202). -/
def State.keyLevels (s : State) (ck asid name : Nat) (r : Region) : List Nat :=
  let h := s.keyHome r name
  [(s.footing h asid (regionOf name) r.vt).find name, ((s.die h).beam.find (beamKey asid name)).map (·.toNat),
    ((s.clu (clusterOf ck)).purlin.find name).map (·.toNat), ((s.cor ck).batten.find name).map (·.toNat)].filterMap id

/-- The read-combine of a name (R202), for every type but FX128. -/
def State.keyRead (s : State) (ck asid name : Nat) (r : Region) : Nat :=
  match s.keyLevels ck asid name r with
  | [] => identityOf r.op r.vt
  | v :: vs => quietVal r.vt (vs.foldl (readCombine r.op r.vt) v)

/-- The read-combine of an FX128 name: an exact sum without bound (R202). -/
def State.keyReadFx (s : State) (ck asid name : Nat) (r : Region) : Int :=
  ((s.keyLevels ck asid name r).map (sgn 128)).sum

/-! ## Fault messages (R208) -/

/-- Run identity (Table 8-7). -/
def runId (lvl die unit : Nat) : Nat := lvl + 4 * die + 64 * unit

/-- The 64-byte fault message (Table 8-6). -/
def State.keyFaultWords (s : State) (name inner outer run why : Nat) : List Word :=
  [BitVec.ofNat 64 name, BitVec.ofNat 64 inner, BitVec.ofNat 64 (inner / 2 ^ 64), BitVec.ofNat 64 outer,
   BitVec.ofNat 64 (outer / 2 ^ 64), BitVec.ofNat 64 (run + why * 2 ^ 32), BitVec.ofNat 64 s.tick, 0]

/-- The lowest core of a cluster that belongs to a launch of an address space (R208). -/
def State.clusterCore (s : State) (cl asid : Nat) : Option Nat :=
  ((List.range 8).map (8 * cl + ·)).find? fun ck => (s.cor ck).launch.isSome && (s.cor ck).asid == asid

/-- A fault message posted to a class of a core, or to the service. -/
def State.postKeyFault (s : State) (core : Option Nat) (fclass : Nat) (words : List Word) : State :=
  match core with
  | some ck => s.postHw ck fclass words
  | none => s.postService words

/-! ## Merges: one per-key step at a time (R203, R205, R238 to R240, R309 to R311) -/

/-- How a per-key step ends. -/
inductive KStep where
  /-- The entry has moved outward, or was not there. -/
  | moved (s : State)
  /-- The combine faulted: the inner run is stalled. -/
  | stalled (s : State)
  /-- The outer run has no room for a new entry. -/
  | full (s : State)
  deriving DecidableEq, Repr

/-- The address space a cluster's purlin and battens serve: that of its cores (R221, R308). -/
def State.clusterAsid (s : State) (cl : Nat) : Nat :=
  ((((List.range 8).map (8 * cl + ·)).find? fun ck => decide (0 < (s.cor ck).asid)).map fun ck => (s.cor ck).asid).getD 0

/-- One entry of a batten into the purlin (R238). -/
def State.mergeStep (s : State) (ck name : Nat) : KStep :=
  let cl := clusterOf ck
  match (s.cor ck).batten.find name with
  | none => .moved s
  | some v =>
    let put := fun (x : Nat) =>
      KStep.moved ((s.modCor ck fun c => { c with batten := c.batten.erase name }).modClu cl fun k =>
        { k with purlin := k.purlin.set name (BitVec.ofNat 128 x) })
    match (s.clu cl).purlin.find name with
    | none => if (s.clu cl).purlin.length < 8192 then put v.toNat else .full s
    | some o =>
      match s.region (s.cor ck).asid name with
      | none => put v.toNat
      | some r =>
        match combine r.op r.vt o.toNat v.toNat with
        | .ok x => put x
        | .error why =>
          let words := s.keyFaultWords name v.toNat o.toNat (runId 0 (coreDie ck) (ck % 512)) why
          .stalled ((s.modCor ck fun c => { c with stall := some { key := some name, msg := words } }).postKeyFault
            (some ck) r.fclass words)

/-- Entries of a quarter of a beam. -/
def Die.quarter (d : Die) (q : Nat) : List Nat := (d.beam.map (·.1)).filter fun k => quarterOf k == q

/-- A quarter holds 128 Ki entries (R308). -/
def quarterRoom : Nat := 131072

/-- A quarter that holds more entries than this settles (R309). -/
def quarterHigh : Nat := 98304

/-- A quarter starts to settle what it holds; a settle that runs goes on to the entries present now (R309). -/
def Die.startSettle (d : Die) (q : Nat) : Die := { d with settling := d.settling.set q (d.quarter q) }

/-- A quarter above its mark starts to settle, unless it settles already (R309). -/
def Die.settleHigh (d : Die) (q : Nat) : Die :=
  if (d.settling.get [] q).isEmpty && decide (quarterHigh < (d.quarter q).length) then d.startSettle q else d

/-- One entry of a purlin into the beam of its home die (R239). -/
def State.drainStep (s : State) (cl asid name : Nat) : KStep :=
  match (s.clu cl).purlin.find name, s.region asid name with
  | none, _ => .moved s
  | some _, none => .moved (s.modClu cl fun k => { k with purlin := k.purlin.erase name })
  | some v, some r =>
    let h := s.keyHome r name
    let key := beamKey asid name
    let q := quarterOf name
    let put := fun (x : Nat) =>
      KStep.moved (((s.modClu cl fun k => { k with purlin := k.purlin.erase name }).modDie h fun d =>
        ({ d with beam := d.beam.set key (BitVec.ofNat 128 x), lastDrain := d.lastDrain.set q s.tick }).settleHigh q).noteRequest
          (8 * cl) h none)
    match (s.die h).beam.find key with
    | none => if ((s.die h).quarter q).length < quarterRoom then put v.toNat else .full s
    | some o =>
      match combine r.op r.vt o.toNat v.toNat with
      | .ok x => put x
      | .error why =>
        let words := s.keyFaultWords name v.toNat o.toNat (runId 1 (cl / 64) (cl % 64)) why
        .stalled ((s.modClu cl fun k => { k with pstall := some { key := some name, msg := words } }).postKeyFault
          (s.clusterCore cl asid) r.fclass words)

/-- One entry of a beam into the footing (R309, R310, R311). -/
def State.settleStep (s : State) (die key : Nat) : KStep :=
  let asid := key / 2 ^ 64
  let name := key % 2 ^ 64
  match (s.die die).beam.find key, s.region asid name with
  | none, _ => .moved s
  | some _, none => .moved (s.modDie die fun d => { d with beam := d.beam.erase key })
  | some v, some r =>
    let run := s.footing die asid (regionOf name) r.vt
    let put := fun (x : Nat) =>
      KStep.moved ((s.modDie die fun d => { d with beam := d.beam.erase key }).setFooting die asid (regionOf name) r.vt
        (run.set name x))
    let stop := fun (outer why : Nat) =>
      let words := s.keyFaultWords name v.toNat outer (runId 2 die 0) why
      KStep.stalled ((s.modDie die fun d => { d with bstall := some { key := some key, msg := words } }).postService words)
    match run.find name with
    | none =>
      if (s.footBase die asid (regionOf name)).isSome ∧ footBytes r.vt * (run.length + 1) ≤ r.cap * 2 ^ 20 then put v.toNat
      else stop 0 3
    | some o =>
      match combine r.op r.vt o v.toNat with
      | .ok x => put x
      | .error why => stop o why

/-! ## Publications (R204, R205, R206, R214) -/

/-- The names of a run, ascending. -/
def namesOf (run : AMap (BitVec 128)) : List Nat := run.map (·.1)

/-- A publication whose batten part is done goes on to the purlin, where it is wide: to every entry there, unless the
purlin is stalled (R204, R205). -/
def Pub.toPurlin (p : Pub) (k : Cluster) : Pub :=
  if p.wide then { p with batten := [], purlin := namesOf k.purlin, met := p.met || (k.pstall.isSome && !k.purlin.isEmpty) }
  else { p with batten := [] }

/-- A new publication of a core's batten (R204, R214); it meets the stall of a batten that it must carry entries out of
(R205). -/
def State.newPub (s : State) (ck : Nat) (owner : Option Nat) (release wide : Bool) : Pub :=
  let p : Pub := { owner := owner, release := release, wide := wide, batten := namesOf (s.cor ck).batten, purlin := [],
                   met := (s.cor ck).stall.isSome && !(s.cor ck).batten.isEmpty }
  if (s.cor ck).batten.isEmpty then p.toPurlin (s.clu (clusterOf ck)) else p

/-- It has to carry a name out of the purlin; a wide one that is still at the batten, every name there (R204, R205). -/
def Pub.carries (p : Pub) (n : Nat) : Bool := p.purlin.contains n || (p.wide && !p.batten.isEmpty)

/-- It is over: everything is carried, or it has met a stall. -/
def Pub.over (p : Pub) : Bool := p.met || (p.batten.isEmpty && p.purlin.isEmpty)

/-- A name has left the batten. -/
def Pub.merged (p : Pub) (k : Cluster) (n : Nat) : Pub :=
  if p.batten = [n] then p.toPurlin k else { p with batten := p.batten.erase n }

/-- A name has left the purlin. -/
def Pub.drained (p : Pub) (n : Nat) : Pub := { p with purlin := p.purlin.erase n }

/-- What the form that asked for a publication does at its end: `key.pub` completes, a release goes on (R205, R214). -/
def State.endPub (s : State) (p : Pub) : State :=
  match p.owner with
  | none => s
  | some t => s.modThr t fun x =>
    if x.st = .waiting ∧ x.wait.map (·.kind) = some .publish then
      if p.release then { x.wake with released := true }
      else x.endWait (x.wait.elim 0 (·.d)) (if p.met then stBusy else stDone)
    else x

/-- A core's publications that are over end. -/
def State.endPubs (s : State) (ck : Nat) : State :=
  ((s.cor ck).pubs.filter (·.over)).foldl State.endPub
    (s.modCor ck fun c => { c with pubs := c.pubs.filter (!·.over) })

/-- The publications of a core changed, and those over ended. -/
def State.modPubs (s : State) (ck : Nat) (f : Pub → Pub) : State :=
  (s.modCor ck fun c => { c with pubs := c.pubs.map f }).endPubs ck

/-- The publications of every core of a cluster changed, and those over ended. -/
def State.modCluPubs (s : State) (cl : Nat) (f : Pub → Pub) : State :=
  (List.range 8).foldl (fun s i => s.modPubs (8 * cl + i) f) s

/-- The publication of a thread's form is given up: the steps made stay made (R214). -/
def State.dropPub (s : State) (t : Nat) : State :=
  if (s.cor (coreOf t)).pubs.isEmpty then s
  else s.modCor (coreOf t) fun c => { c with pubs := c.pubs.filter (·.owner != some t) }

/-- Contexts that wait for room in a batten are READY again (R200). -/
def State.wakeRoom (s : State) (ck : Nat) : State :=
  if (s.cor ck).batten.length < 256 then
    (List.range 16).foldl (fun s c => s.modThr (threadOf ck c) fun x =>
      if x.st = .waiting ∧ x.wait.map (·.kind) = some .keyRoom then x.wake else x) s
  else s

/-- The least of some names. -/
def least : List Nat → Option Nat
  | [] => none
  | n :: r => some (r.foldl min n)

/-- An entry of a batten needs a new entry in a full purlin (R238). -/
def State.mergeFull (s : State) (ck n : Nat) : Bool :=
  ((s.cor ck).batten.find n).isSome && ((s.clu (clusterOf ck)).purlin.find n).isNone &&
  decide (8192 ≤ (s.clu (clusterOf ck)).purlin.length)

/-- The names that publications of a core have still to carry out of its batten. -/
def Core.pubNames (c : Core) : List Nat := c.pubs.flatMap (·.batten)

/-- An entry that only a merge for room carries waits at a full purlin that is stalled (R206). -/
def State.mergeStuck (s : State) (ck n : Nat) : Bool :=
  s.mergeFull ck n && (s.clu (clusterOf ck)).pstall.isSome && !(s.cor ck).pubNames.contains n

/-- A core may merge in this cycle: no core of a higher ring position has, since the steps of one cycle are applied in
ascending ring position (R238). -/
def State.mergeTurn (s : State) (ck : Nat) : Bool :=
  match (s.clu (clusterOf ck)).mergeAt with
  | some (cyc, pos) => cyc != (s.die (coreDie ck)).cycle || decide (pos ≤ ck % 8)
  | none => true

/-- The entry that leaves a batten next: the smallest name of a merge in progress; where that one waits at a stalled
purlin for room alone, the smallest that a publication carries (R205, R206). -/
def State.mergeNext (s : State) (ck : Nat) : Option Nat :=
  let c := s.cor ck
  if c.stall.isSome || !s.mergeTurn ck then none
  else
    match least (c.merging ++ c.pubNames) with
    | some n => if s.mergeStuck ck n then least c.pubNames else some n
    | none => none

/-- A merge has something to do: a step, or at a full purlin the start of a drain or the end of a publication that meets
a stall; else it waits (R206). -/
def State.mergeReady (s : State) (ck : Nat) : Bool :=
  match s.mergeNext ck with
  | none => false
  | some n =>
    let k := s.clu (clusterOf ck)
    !s.mergeFull ck n || k.pstall.isSome || k.draining != namesOf k.purlin

/-- The step of a core stands as the last of its cycle at the purlin (R238). -/
def State.stepAt (s : State) (ck : Nat) : State :=
  s.modClu (clusterOf ck) fun k => { k with mergeAt := some ((s.die (coreDie ck)).cycle, ck % 8) }

/-- A drain of a purlin starts, or is extended to the entries present (R239). -/
def Cluster.startDrain (k : Cluster) : Cluster := { k with draining := namesOf k.purlin }

/-- BATTEN_MERGE_STEP: the next entry of a core's merges moves into the purlin (R203, R238). A fault stalls the batten: the
merges stop, and publications that have entries there have met a stall (R205). A full purlin that is stalled is met by the
publications that the entry belongs to; one that is not starts a drain, and the merge waits (R206). -/
def execBattenMergeStep (core : Nat) (s : State) : Host.Outcome State Fault Refusal :=
  match s.mergeNext core with
  | none => .next s
  | some n =>
    match s.mergeStep core n with
    | .moved s =>
      let s := (s.stepAt core).modCor core fun c => { c with merging := c.merging.erase n }
      .next ((s.modPubs core fun p => p.merged (s.clu (clusterOf core)) n).wakeRoom core)
    | .stalled s =>
      .next (((s.stepAt core).modCor core fun c => { c with merging := [] }).modPubs core fun p =>
        { p with met := p.met || !p.batten.isEmpty })
    | .full s =>
      if (s.clu (clusterOf core)).pstall.isSome then
        .next (s.modPubs core fun p => { p with met := p.met || p.batten.contains n })
      else .next (s.modClu (clusterOf core) (·.startDrain))

/-- The publications of a cluster that drain its purlin. -/
def State.cluPubs (s : State) (cl : Nat) : List Pub := (List.range 8).flatMap fun i => (s.cor (8 * cl + i)).pubs

/-- The names that publications have still to carry out of a purlin. -/
def State.drainNames (s : State) (cl : Nat) : List Nat := (s.cluPubs cl).flatMap (·.purlin)

/-- The home die of a name in the address space of a cluster. -/
def State.drainHome (s : State) (cl n : Nat) : Nat :=
  ((s.region (s.clusterAsid cl) n).map fun x => s.keyHome x n).getD 0

/-- An entry of a purlin needs a new entry in a full quarter of its home's beam (R308). -/
def State.drainFull (s : State) (cl n : Nat) : Bool :=
  let d := s.die (s.drainHome cl n)
  ((s.clu cl).purlin.find n).isSome && (s.region (s.clusterAsid cl) n).isSome &&
  (d.beam.find (beamKey (s.clusterAsid cl) n)).isNone && decide (quarterRoom ≤ (d.quarter (quarterOf n)).length)

/-- An entry that no publication carries waits at a full quarter of a stalled beam (R206). -/
def State.drainStuck (s : State) (cl n : Nat) : Bool :=
  s.drainFull cl n && (s.die (s.drainHome cl n)).bstall.isSome && !(s.cluPubs cl).any (·.carries n)

/-- The entry that leaves a purlin next: the smallest name of the drain in progress; where that one waits at a stalled
beam and no publication carries it, the smallest that one carries (R205, R206, R239). -/
def State.drainNext (s : State) (cl : Nat) : Option Nat :=
  if (s.clu cl).pstall.isSome then none
  else
    match least ((s.clu cl).draining ++ s.drainNames cl) with
    | some n => if s.drainStuck cl n then least (s.drainNames cl) else some n
    | none => none

/-- A drain has something to do: a step, or at a full quarter the start of a settle or the end of a publication that meets
a stall; else it waits (R206). -/
def State.drainReady (s : State) (cl : Nat) : Bool :=
  match s.drainNext cl with
  | none => false
  | some n =>
    let d := s.die (s.drainHome cl n)
    !s.drainFull cl n || d.bstall.isSome || d.settling.get [] (quarterOf n) != d.quarter (quarterOf n)

/-- PURLIN_DRAIN_STEP: the next entry of a drain moves into the beam of its home die (R203, R239). A fault stalls the
purlin: the drain stops, and publications that have entries there have met a stall (R205, R240). A full quarter of a
stalled beam is met by the publications that the entry belongs to; one of another beam starts to settle, and the drain
waits (R206, R311). -/
def execPurlinDrainStep (cl : Nat) (s : State) : Host.Outcome State Fault Refusal :=
  match s.drainNext cl with
  | none => .next s
  | some n =>
    let h := s.drainHome cl n
    match s.drainStep cl (s.clusterAsid cl) n with
    | .moved s =>
      .next ((s.modClu cl fun k => { k with draining := k.draining.erase n }).modCluPubs cl fun p => p.drained n)
    | .stalled s =>
      .next ((s.modClu cl fun k => { k with draining := [] }).modCluPubs cl fun p =>
        { p with met := p.met || !p.purlin.isEmpty })
    | .full s =>
      if (s.die h).bstall.isSome then .next (s.modCluPubs cl fun p => { p with met := p.met || p.carries n })
      else .next (s.modDie h (·.startSettle (quarterOf n)))

/-- The relock of a die begins once a step is asked for and, for a lower clock, its beam has settled what the step had it
settle (R309, R322). -/
def Die.beginRelock (d : Die) (tick : Nat) : Die :=
  match d.clock.next with
  | some m =>
    if d.clock.t0.isNone && (decide (d.clock.m < m) || (d.bstall.isNone && d.settling.all (·.2.isEmpty))) then
      { d with clock := { d.clock with t0 := some tick } }
    else d
  | none => d

/-- BEAM_SETTLE_STEP: the next entry of a settle moves into the footing; after the last, a clock step that waits for
the settle begins its relock (R309, R310, R311, R322). -/
def execBeamSettleStep (die q : Nat) (s : State) : Host.Outcome State Fault Refusal :=
  match (s.die die).settling.get [] q, (s.die die).bstall with
  | k :: r, none =>
    match s.settleStep die k with
    | .moved s => .next (s.modDie die fun d => (({ d with settling := d.settling.set q r }).settleHigh q).beginRelock s.tick)
    | .stalled s => .next s
    | .full s => .next s
  | _, _ => .next s

/-- A quarter idle for 2^24 ticks with an entry (R309). -/
def State.quarterIdle (s : State) (die q : Nat) : Bool :=
  !((s.die die).quarter q).isEmpty && ((s.die die).settling.get [] q).isEmpty && (s.die die).bstall.isNone &&
  decide ((s.die die).lastDrain.get 0 q + 2 ^ 24 ≤ s.tick)

/-- BEAM_IDLE_SETTLE: a quarter that has taken no drain step for 2^24 ticks settles (R309). -/
def execBeamIdleSettle (die q : Nat) (s : State) : Host.Outcome State Fault Refusal :=
  .next (if s.quarterIdle die q then s.modDie die (·.startSettle q) else s)

/-! ## The `key` forms (R210 to R216) -/

/-- R211 steps 1 and 2: the region of a name of the issuing thread's address space. -/
def State.keyRegion (s : State) (name : Word) (vt : VType) : Except Stop Region :=
  match s.region s.co.asid name.toNat with
  | none => .error (.trap { cause := cKeyRegion, info := name })
  | some r => do
    trapIf (r.vt != vt) cKeyType name
    .ok r

/-- R211 step 3. -/
def damageCheck (r : Region) (name : Word) : Except Stop Unit :=
  trapIf (r.dmg.contains (origHome r name.toNat)) cKeyDamaged name

/-- An FP32 value as FX128 with a scale (R56). -/
def toFx (fscale x : Nat) : Option Nat :=
  match unpack fmt32 x with
  | .fin n m e =>
    let k := (toUnits 0 n m (e + Int.ofNat fscale) 0).1
    let v : Int := if n then -Int.ofNat k else Int.ofNat k
    if fxFits v then some (wrapTo 128 v) else none
  | _ => none

/-- The update value that a register gives a region (R199). -/
def updateValue (r : Region) (x : Word) : Option Nat :=
  match r.vt with
  | .i32 => some (x.toNat % 2 ^ 32)
  | .f32 => some (x.toNat % 2 ^ 32)
  | .f16 => some (x.toNat % 2 ^ 16)
  | .i64 => some x.toNat
  | .b64 => some x.toNat
  | .fx128 => toFx r.fscale (x.toNat % 2 ^ 32)

/-- The KEY_OPERATOR trap of an insertion (R199). -/
def keyOperator (name : Word) (old : Option (BitVec 128)) : Stop :=
  .trap { cause := cKeyOperator, info := name, aux := (old.getD 0).setWidth 64 }

/-- `key.upd` (R197, R199, R200, R212). -/
def execKeyUpd (x : VType) (e : BitVec 4) (d a b : Reg) (s : State) : Host.Outcome State Fault Refusal :=
  let name := s.rg a
  finish s (do
    let r ← s.keyRegion name x
    let old := s.co.batten.find name.toNat
    match updateValue r (s.rg b) with
    | none => .error (keyOperator name old)
    | some u =>
      match old with
      | some o =>
        match combine r.op r.vt o.toNat u with
        | .error _ => .error (keyOperator name old)
        | .ok v => .ok ((s.modCo fun c => { c with batten := c.batten.set name.toNat (BitVec.ofNat 128 v) }).outG d stDone)
      | none =>
        if s.co.batten.length < 256 then
          .ok ((s.modCo fun c => { c with batten := c.batten.set name.toNat (BitVec.ofNat 128 u) }).outG d stDone)
        else
          let s1 := s.modCo fun c =>
            if c.stall.isNone then { c with merging := namesOf c.batten } else c
          .ok (s1.timed .keyRoom d e stTimeout))

/-- An uncorrectable word of the footing entry that a load reads (R281). -/
def State.footCheck (s : State) (r : Region) (name : Word) : Except Stop Unit :=
  match s.footLost (s.keyHome r name.toNat) s.co.asid name.toNat r.vt with
  | some w => .error (.trap (uncorrectable w))
  | none => .ok ()

/-- `key.ld` (R201, R202, R213). -/
def execKeyLd (x : VType) (d a : Reg) (s : State) : Host.Outcome State Fault Refusal :=
  let name := s.rg a
  finish s (do
    let r ← s.keyRegion name x
    damageCheck r name
    s.footCheck r name
    let v := match x with
      | .fx128 =>
        let n := s.keyReadFx s.ck s.co.asid name.toNat r
        if n = 0 then 0 else (roundFin fmt32 0 (decide (n < 0)) n.natAbs (-(Int.ofNat r.fscale))).1
      | _ => s.keyRead s.ck s.co.asid name.toNat r % 2 ^ vtBits x
    .ok ((s.noteRequest s.ck (s.keyHome r name.toNat) (some (BitVec.ofNat 64 v))).pureG d (BitVec.ofNat 64 v)))

/-- `key.ldx` (R201, R202, R213). -/
def execKeyLdx (d a : Reg) (s : State) : Host.Outcome State Fault Refusal :=
  let name := s.rg a
  finish s (do
    let r ← s.keyRegion name .fx128
    damageCheck r name
    s.footCheck r name
    let v := clampTo 128 (loS 128) (hiS 128) (s.keyReadFx s.ck s.co.asid name.toNat r)
    .ok ((s.noteRequest s.ck (s.keyHome r name.toNat) none).pure 0 fun t =>
      (t.setG d (BitVec.ofNat 64 v)).setG (Fin.ofNat 32 (d.val + 1)) (BitVec.ofNat 64 (v / 2 ^ 64))))

/-- Scope cluster or wider: one that publishes, and that acts on the L1 (R129, R204). -/
def Scope.wide : Scope → Bool
  | .thread => false
  | .core => false
  | _ => true

/-- A scope whose publications carry the purlin too (R204). -/
def Scope.far : Scope → Bool
  | .die => true
  | .package => true
  | _ => false

/-- `key.pub` (R204, R205, R214): it completes at once where its batten is stalled, where it has nothing to carry or meets a
stall; else its publication goes on by itself and the thread waits for it. DESIGN CHOICE (log entry 71): at `e` = 0 nothing
is carried. -/
def execKeyPub (x : Scope) (e : BitVec 4) (d : Reg) (s : State) : Host.Outcome State Fault Refusal :=
  let p := s.newPub s.ck (some s.cur) false (Scope.far x)
  .next
    (if !Scope.wide x then s.pureG d stDone
    else if s.co.stall.isSome then s.pureG d stBusy
    else if p.over then s.pureG d (if p.met then stBusy else stDone)
    else if e = 0 then s.pureG d stTimeout
    else (s.modCo fun c => { c with pubs := c.pubs ++ [p] }).modTh fun t => t.block s.tick .waiting .publish d e.toNat)

/-- The run that a run identity names (Table 8-7). -/
inductive Run where
  | batten (ck : Nat)
  | purlin (cl : Nat)
  | beam (die : Nat)
  | footing (die : Nat)
  deriving DecidableEq, Repr

/-- The run of `key.fix` and `key.resume`, its existence and the launch's right to it checked (R215). DESIGN CHOICE (log
entry 72): the runs of an offline die exist; they are lost with it (R305), so they hold no stall. -/
def State.keyRun (s : State) (x : Word) : Except Stop Run :=
  let lvl := bitsAt x 0 2
  let die := bitsAt x 2 4
  let unit := bitsAt x 6 9
  let service := s.th.service
  let bad : Except Stop Run := .error (.trap { cause := cPermission, info := x })
  if x.toNat / 2 ^ 15 ≠ 0 ∨ 12 ≤ die then bad
  else
    match lvl with
    | 0 =>
      let ck := die * 512 + unit
      if service || (s.co.launch.isSome && (s.cor ck).launch == s.co.launch) then .ok (.batten ck) else bad
    | 1 =>
      let cl := die * 64 + unit
      if 64 ≤ unit then bad
      else if service || (List.range 8).any (fun i => s.co.launch.isSome && (s.cor (8 * cl + i)).launch == s.co.launch)
      then .ok (.purlin cl) else bad
    | 2 => if unit = 0 then .ok (.beam die) else bad
    | _ => if unit = 0 then .ok (.footing die) else bad

/-- The die of a run. -/
def Run.die : Run → Nat
  | .batten ck => coreDie ck
  | .purlin cl => cl / 64
  | .beam die => die
  | .footing die => die

/-- A request of the issuing core to a run, with the status that answers it (R215, R280). -/
def State.runReq (s : State) (r : Run) (status : Word) : State := s.noteRequest s.ck r.die (some status)

/-- The stall of a run. -/
def State.runStall (s : State) : Run → Option Stall
  | .batten ck => (s.cor ck).stall
  | .purlin cl => (s.clu cl).pstall
  | .beam die => (s.die die).bstall
  | .footing _ => none

/-- The address space of a run's stalled entry. -/
def State.runAsid (s : State) (r : Run) (key : Nat) : Nat :=
  match r with
  | .batten ck => (s.cor ck).asid
  | .purlin cl => s.clusterAsid cl
  | _ => key / 2 ^ 64

/-- R215: at launch level the stalled entry must be of the thread's own address space. -/
def State.ownStall (s : State) (r : Run) (x : Word) : Except Stop Unit :=
  match (s.runStall r).bind (·.key) with
  | some k => trapIf (!s.th.service && s.runAsid r k != s.co.asid) cPermission x
  | none => .ok ()

/-- A run's table changed at a key: the entry removed, or its value set. -/
def State.runSet (s : State) (r : Run) (key : Nat) (v : Option (BitVec 128)) : State :=
  let f := fun (m : AMap (BitVec 128)) => match v with | some x => m.set key x | none => m.erase key
  match r with
  | .batten ck => s.modCor ck fun c => { c with batten := f c.batten }
  | .purlin cl => s.modClu cl fun k => { k with purlin := f k.purlin }
  | .beam die => s.modDie die fun d => { d with beam := f d.beam }
  | .footing _ => s

/-- A run's stall written. -/
def State.setStall (s : State) (r : Run) (x : Option Stall) : State :=
  match r with
  | .batten ck => s.modCor ck fun c => { c with stall := x }
  | .purlin cl => s.modClu cl fun k => { k with pstall := x }
  | .beam die => s.modDie die fun d => { d with bstall := x }
  | .footing _ => s

/-- The value of `key.fix set` in a region's type (R215). -/
def fixValue (vt : VType) (x : Word) : Nat :=
  match vt with
  | .i32 => x.toNat % 2 ^ 32
  | .f32 => x.toNat % 2 ^ 32
  | .f16 => x.toNat % 2 ^ 16
  | .fx128 => wrapTo 128 x.toInt
  | _ => x.toNat

/-- A repair may have left room in a batten (R200). -/
def State.roomIn (s : State) : Run → State
  | .batten ck => s.wakeRoom ck
  | _ => s

/-- `key.fix` on the stalled entry (R215). -/
def State.keyFix (s : State) (d a : Reg) (f : Run → Nat → Option Stall × Option (BitVec 128)) :
    Host.Outcome State Fault Refusal :=
  finish s (do
    let r ← s.keyRun (s.rg a)
    s.ownStall r (s.rg a)
    match s.runStall r with
    | some st =>
      match st.key with
      | some k => .ok (((((s.runSet r k (f r k).2).setStall r (f r k).1).roomIn r).runReq r stDone).replyG d stDone)
      | none => .ok ((s.runReq r stCancelled).pureG d stCancelled)
    | none => .ok ((s.runReq r stCancelled).pureG d stCancelled))

/-- `key.fix drop` (R215): the run stays stalled with no stalled entry. -/
def execKeyFixDrop (d a _b : Reg) (s : State) : Host.Outcome State Fault Refusal :=
  s.keyFix d a fun r _ => ((s.runStall r).map fun st => { st with key := none }, none)

/-- `key.fix set` (R215). -/
def execKeyFixSet (d a b : Reg) (s : State) : Host.Outcome State Fault Refusal :=
  s.keyFix d a fun r k =>
    let vt := ((s.region (s.runAsid r k) (k % 2 ^ 64)).map (·.vt)).getD .i64
    (s.runStall r, some (BitVec.ofNat 128 (fixValue vt (s.rg b))))

/-- A run's merge restarted at its smallest remaining name (R215). -/
def State.restart (s : State) (r : Run) : State :=
  match r with
  | .batten ck => s.modCor ck fun c => { c with merging := namesOf c.batten }
  | .purlin cl => s.modClu cl (·.startDrain)
  | .beam die => s.modDie die fun d =>
    { d with settling := d.settling.map fun e => (e.1, if e.2.isEmpty then [] else d.quarter e.1) }
  | .footing _ => s

/-- `key.resume` (R215). -/
def execKeyResume (d a : Reg) (s : State) : Host.Outcome State Fault Refusal :=
  finish s (do
    let r ← s.keyRun (s.rg a)
    s.ownStall r (s.rg a)
    match s.runStall r with
    | some _ => .ok ((((s.setStall r none).restart r).runReq r stDone).replyG d stDone)
    | none => .ok ((s.runReq r stCancelled).pureG d stCancelled))

/-- The descriptor of a region (Table 8-1). -/
def descriptor (r : Region) : Nat :=
  opCode r.op + r.vt.code * 2 ^ 8 + r.fscale % 128 * 2 ^ 12 + r.fclass % 16 * 2 ^ 20 +
  (if r.homeLaunch then 2 ^ 24 else 0) + 2 ^ 31 +
  ((List.range 12).map fun i => if r.dmg.contains i then 2 ^ (32 + i) else 0).sum

/-- `key.info` (R216). -/
def execKeyInfo (d a : Reg) (s : State) : Host.Outcome State Fault Refusal :=
  .next (s.pureG d (BitVec.ofNat 64 (((s.region s.co.asid (s.rg a).toNat).map descriptor).getD 0)))

end Sys2Proof.Machine
end

