-- ==== Sys2Proof/Machine/Order.lean ====
section
/-! DEFINITION. Atomics, acquire, release and fence (R128, R129, R176 to R178, R278, R279). -/

namespace Sys2Proof.Machine

/-- REL(s), and what the form does after it: every dirty word is written through and acknowledged, then the batten is
published; the thread waits for a publication that is not over at once, and the form goes on when it is. A stall met is
not reported (R177, R178, R205). -/
def State.afterRel (s : State) (x : Scope) (f : State → State) : State :=
  if !Scope.wide x || s.th.released then f s
  else
    let s1 := s.l1Release s.ck
    let p := s1.newPub s.ck (some s.cur) true (Scope.far x)
    if p.over then f s1
    else (s1.modCor s.ck fun c => { c with pubs := c.pubs ++ [p] }).modTh fun t => t.block s.tick .waiting .publish 0 15

/-- ACQ(s) (R129, R177). -/
def State.acqAct (s : State) (x : Scope) : State := if Scope.wide x then s.l1Acquire s.ck else s

/-- `ord.acq` (R177). -/
def execOrdAcq (x : Scope) (s : State) : Host.Outcome State Fault Refusal := .next (s.acqAct x).reply

/-- `ord.rel` (R177). -/
def execOrdRel (x : Scope) (s : State) : Host.Outcome State Fault Refusal := .next (s.afterRel x State.reply)

/-- `ord.fence` (R177). -/
def execOrdFence (x : Scope) (s : State) : Host.Outcome State Fault Refusal := .next (s.afterRel x fun s => (s.acqAct x).reply)

/-- The one part of an aligned access to a PLAIN page (R177, R278). -/
def State.alignedPart (s : State) (acc : Acc) (ea : Word) (n : Nat) : Except Stop Part := s.wholePart acc kPlain ea n

/-- `n` bytes read at their home, an uncorrectable word trapping (R177, R278). -/
def State.homeRead (s : State) (pa n : Nat) : Except Stop Nat :=
  match (wordsOf pa n).find? s.lostWord with
  | some w => .error (.trap (uncorrectable w))
  | none => .ok (natOfBytes (memRead s.mem pa n))

/-- An access of the issuing core to a line at its home: its request and the line's way past the L2 (R273, R280). -/
def State.homeVisit (s : State) (p : Part) (reply : Option Word) : State :=
  (s.filterEnter p.pa (pteBd p.pte)).noteRequest s.ck (homeDie p.pa) reply

/-- `ord.ldaX` (R177). -/
def execOrdLda (x : Scope) (sz : Size) (d a : Reg) (s : State) : Host.Outcome State Fault Refusal :=
  finish s (do
    let p ← s.alignedPart .load (s.rg a) sz.bytes
    if Scope.wide x then
      let s1 := s.l1Flush s.ck p.pa sz.bytes
      let v ← s1.homeRead p.pa sz.bytes
      .ok (((s1.homeVisit p (some (BitVec.ofNat 64 v))).acqAct x).pureG d (BitVec.ofNat 64 v))
    else s.loadTo d [p])

/-- A value written at its home from a core: the L1 copy of its words stays valid and clean (R177). -/
def State.writeHome (s : State) (ck : Nat) (p : Part) (v : Nat) : State :=
  let s := s.l1Flush ck p.pa p.n
  let s := s.modCor ck fun c =>
    match c.l1.find (p.pa / 128) with
    | some l =>
      let l := l.update (p.pa % 128) p.n v
      { c with l1 := c.l1.set (p.pa / 128) { l with bad := l.bad &&& ~~~ wordMask (p.pa % 128) p.n } }
    | none => c
  (s.homeWrite p.pa (bytesOf v p.n)).noteRequest ck (homeDie p.pa) none

/-- `ord.stlX` (R177). -/
def execOrdStl (x : Scope) (sz : Size) (a b : Reg) (s : State) : Host.Outcome State Fault Refusal :=
  let v := (s.rg b).toNat % 2 ^ (8 * sz.bytes)
  finish s (do
    let p ← s.alignedPart .store (s.rg a) sz.bytes
    if Scope.wide x then
      match (wordsOf p.pa p.n).find? fun w => s.noStore s.ck p.pa p.n w with
      | some w => .error (.trap (uncorrectable w))
      | none => .ok (s.afterRel x fun s => (s.writeHome s.ck p v).reply)
    else s.storeFrom (s.rg a).toNat sz.bytes v [p])

/-! ## `amo` (R278, R279) -/

/-- A `w`-byte atomic at its home: the core's dirty words of the bytes go first, and its copies are invalidated. -/
def State.amo (s : State) (x : AmoPlace) (d a b : Reg) (f : Nat → Nat → Nat → Nat → Nat) :
    Host.Outcome State Fault Refusal :=
  let n := x.bytes
  let m := 2 ^ (8 * n)
  finish s (do
    let p ← s.alignedPart .store (s.rg a) n
    let c := (s.rg d).toNat % m
    let u := (s.rg b).toNat % m
    let s1 := (s.l1Flush s.ck p.pa n).l1Invalidate s.ck p.pa n
    match (wordsOf p.pa n).find? s1.lostWord with
    | some w => .ok (s1.trapNow (uncorrectable w))
    | none =>
      let o := natOfBytes (memRead s1.mem p.pa n)
      let s2 := (s1.homeWrite p.pa (bytesOf (f (8 * n) o u c % m) n)).homeVisit p (some (BitVec.ofNat 64 o))
      .ok (s2.replyG d (BitVec.ofNat 64 o)))

/-- `amo.swap` (R278, Table 14-4). -/
def execAmoSwap (x : AmoPlace) (d a b : Reg) (s : State) : Host.Outcome State Fault Refusal :=
  s.amo x d a b fun _ _ u _ => u

/-- `amo.add` (R278, Table 14-4). -/
def execAmoAdd (x : AmoPlace) (d a b : Reg) (s : State) : Host.Outcome State Fault Refusal :=
  s.amo x d a b fun _ o u _ => o + u

/-- `amo.and` (R278, Table 14-4). -/
def execAmoAnd (x : AmoPlace) (d a b : Reg) (s : State) : Host.Outcome State Fault Refusal :=
  s.amo x d a b fun _ o u _ => o &&& u

/-- `amo.or` (R278, Table 14-4). -/
def execAmoOr (x : AmoPlace) (d a b : Reg) (s : State) : Host.Outcome State Fault Refusal :=
  s.amo x d a b fun _ o u _ => o ||| u

/-- `amo.xor` (R278, Table 14-4). -/
def execAmoXor (x : AmoPlace) (d a b : Reg) (s : State) : Host.Outcome State Fault Refusal :=
  s.amo x d a b fun _ o u _ => o ^^^ u

/-- `amo.min` (R278, Table 14-4). -/
def execAmoMin (x : AmoPlace) (d a b : Reg) (s : State) : Host.Outcome State Fault Refusal :=
  s.amo x d a b fun w o u _ => if sgn w o ≤ sgn w u then o else u

/-- `amo.max` (R278, Table 14-4). -/
def execAmoMax (x : AmoPlace) (d a b : Reg) (s : State) : Host.Outcome State Fault Refusal :=
  s.amo x d a b fun w o u _ => if sgn w u ≤ sgn w o then o else u

/-- `amo.minu` (R278, Table 14-4). -/
def execAmoMinu (x : AmoPlace) (d a b : Reg) (s : State) : Host.Outcome State Fault Refusal :=
  s.amo x d a b fun _ o u _ => min o u

/-- `amo.maxu` (R278, Table 14-4). -/
def execAmoMaxu (x : AmoPlace) (d a b : Reg) (s : State) : Host.Outcome State Fault Refusal :=
  s.amo x d a b fun _ o u _ => max o u

/-- `amo.cas` (R278, Table 14-4). -/
def execAmoCas (x : AmoPlace) (d a b : Reg) (s : State) : Host.Outcome State Fault Refusal :=
  s.amo x d a b fun _ o u c => if o = c then u else o

end Sys2Proof.Machine
end

