-- ==== Sys2Proof/Machine/Tiles.lean ====
section
/-! DEFINITION. Tile records, handles, tenure, scalar TILED accesses and the tile moves (R248 to R268). -/

namespace Sys2Proof.Machine

/-! ## Records and footprints (R248, R249) -/

/-- Bytes of an element: of a block format, its payload (R248). -/
def elemBytes (fmt : Nat) : Nat := if fmt = 0x10 then 8 else if fmt = 0x11 then 16 else fmt

/-- A block format. -/
def isBlockFmt (fmt : Nat) : Bool := fmt == 0x10 || fmt == 0x11

/-- A little-endian field of a byte image. -/
def fieldOf (bs : List Byte) (off n : Nat) : Nat := natOfBytes ((bs.drop off).take n)

/-- The record of a 72-byte image (R39, R262). DESIGN CHOICE (log entry 128): its reserved bytes 6 and 7 are not looked at. -/
def tileOfImage (asid : Nat) (bs : List Byte) : TileRec where
  asid := asid
  fmt := fieldOf bs 4 1
  rank := fieldOf bs 5 1
  base := fieldOf bs 8 8
  hbase := fieldOf bs 16 8
  ext := (List.range 4).map fun i => fieldOf bs (24 + 4 * i) 4
  str := (List.range 4).map fun i => (BitVec.ofNat 64 (fieldOf bs (40 + 8 * i) 8)).toInt

/-- One plane of a footprint: where its first element begins, bytes of an element, and extents and strides, the
outermost dimension first. -/
structure Plane where
  base : Int
  size : Nat
  dims : List (Nat × Int)
  deriving DecidableEq, Repr

/-- The dimensions of a record, outermost first. -/
def TileRec.dims (r : TileRec) : List (Nat × Int) := ((r.ext.zip r.str).take r.rank).reverse

/-- The number of rows of a record. -/
def TileRec.rows (r : TileRec) : Nat := r.ext.getD (r.rank - 1) 0

/-- Dimensions with the outermost cut to rows `lo` to `hi`, and the offset of row `lo`. -/
def cutRows (dims : List (Nat × Int)) (lo hi : Nat) : Int × List (Nat × Int) :=
  match dims with
  | [] => (0, [])
  | (_, s) :: r => (Int.ofNat lo * s, (hi + 1 - lo, s) :: r)

/-- The planes of rows `lo` to `hi` of a record: its payload, and for a block format its headers (R248). DESIGN CHOICE (log entry
117): where a stride of the payload is no whole number of blocks, that of the headers is rounded down, by which reason 1 is
judged before reason 3 (R249). -/
def TileRec.planes (r : TileRec) (lo hi : Nat) : List Plane :=
  let e := elemBytes r.fmt
  let (o, ds) := cutRows r.dims lo hi
  let pay : Plane := { base := Int.ofNat r.base + o, size := e, dims := ds }
  if isBlockFmt r.fmt then
    [pay, { base := Int.ofNat r.hbase + 2 * o / Int.ofNat e, size := 2,
            dims := ds.map fun d => (d.1, 2 * d.2 / Int.ofNat e) }]
  else [pay]

/-- The planes of a whole record. -/
def TileRec.whole (r : TileRec) : List Plane := r.planes 0 (r.rows - 1)

/-- Least offset of an element of some dimensions. -/
def dimsLow (ds : List (Nat × Int)) : Int := (ds.map fun d => min 0 ((Int.ofNat d.1 - 1) * d.2)).sum

/-- Greatest offset of an element of some dimensions. -/
def dimsHigh (ds : List (Nat × Int)) : Int := (ds.map fun d => max 0 ((Int.ofNat d.1 - 1) * d.2)).sum

/-- First byte of a plane. -/
def Plane.first (p : Plane) : Int := p.base + dimsLow p.dims

/-- Last byte of a plane. -/
def Plane.last (p : Plane) : Int := p.base + dimsHigh p.dims + Int.ofNat p.size - 1

/-- The zone of an address (R249, R250). -/
def zoneOf (va : Nat) : Nat := va / 2 ^ 22 % 2 ^ 35

/-- An exact address as a virtual address. -/
def vaOf (x : Int) : Nat := (x % (2 ^ 64 : Int)).toNat

/-- The least reason of R249 that a record meets, in the order 2, 1, 3. DESIGN CHOICE (log entry 127): a header base that is not
zero in a record of format 1, 2 or 4 meets none. -/
def TileRec.bad (r : TileRec) : Option Nat :=
  let e := elemBytes r.fmt
  let used := r.dims
  let unused := (r.ext.zip r.str).drop r.rank
  if !([1, 2, 4, 0x10, 0x11].contains r.fmt) || r.rank == 0 || decide (4 < r.rank) ||
     unused.any (fun d => d.1 != 0 || d.2 != 0) || used.any (fun d => d.1 == 0 || (decide (1 < d.1) && d.2 == 0)) then some 2
  else
    let ps := r.whole
    let z := zoneOf (vaOf ((ps.map (·.first)).headD 0))
    if ps.any fun p => decide ((2 ^ 22 : Int) ≤ p.last - p.first) || zoneOf (vaOf p.first) != z || zoneOf (vaOf p.last) != z
    then some 1
    else if r.base % e != 0 || used.any (fun d => d.2 % Int.ofNat e != 0) || (isBlockFmt r.fmt && r.hbase % 2 != 0) then some 3
    else none

/-- An element at some offset touches one of `n` bytes from offset `o` on. -/
def dimsTouch (size n : Nat) : List (Nat × Int) → Int → Bool
  | [], o => decide (o < Int.ofNat size) && decide (0 < o + Int.ofNat n)
  | (e, s) :: r, o => (List.range e).any fun i => dimsTouch size n r (o - Int.ofNat i * s)

/-- A plane holds one of `n` bytes from an address on. -/
def Plane.touches (p : Plane) (va : Int) (n : Nat) : Bool := dimsTouch p.size n p.dims (va - p.base)

/-- The offsets of the elements, dimension 0 fastest. -/
def dimsElems : List (Nat × Int) → List Int
  | [] => [0]
  | (e, s) :: r => (List.range e).flatMap fun i => (dimsElems r).map (· + Int.ofNat i * s)

/-- A footprint holds one of `n` bytes from an address on. -/
def holdsByte (ps : List Plane) (va n : Nat) : Bool := ps.any fun p => p.touches (Int.ofNat va) n

/-! ## Overlap (R255) -/

/-- The test that R255 chooses for a pair is the exact one. -/
def exactPair (x y : TileRec) : Bool :=
  x.fmt == y.fmt && x.str.take (min x.rank y.rank) == y.str.take (min x.rank y.rank)

/-- The exact test of two planes. -/
def planesMeet (x y : Plane) : Bool := (dimsElems x.dims).any fun o => y.touches (x.base + o) x.size

/-- The interval test of two planes. -/
def spansMeet (x y : Plane) : Bool := decide (x.first ≤ y.last) && decide (y.first ≤ x.last)

/-- Two row ranges overlap (R255). -/
def rowsOverlap (x : TileRec) (xl xh : Nat) (y : TileRec) (yl yh : Nat) : Bool :=
  let test := if exactPair x y then planesMeet else spansMeet
  (x.planes xl xh).any fun p => (y.planes yl yh).any fun q => test p q

/-! ## Slices, handles, conflicts (R250 to R256) -/

/-- A mortise slice. -/
def State.sli (s : State) (k : Nat) : Slice := s.slices.get Slice.init k

/-- The state with one slice changed. -/
def State.modSli (s : State) (k : Nat) (f : Slice → Slice) : State := { s with slices := s.slices.set k (f (s.sli k)) }

/-- The slice of a zone on its home die (R250). -/
def sliceKey (die zone : Nat) : Nat := die * 64 + zone % 64

/-- The generation of a record entry (R252). -/
def Slice.gen (x : Slice) (i : Nat) : Nat := x.gens.get 1 i

/-- The handle of a record entry (Table 13-1). -/
def handleOf (sl i gen : Nat) : Nat := sl / 64 * 2 ^ 28 + sl % 64 * 2 ^ 22 + i * 2 ^ 12 + gen

/-- A handle checked (R252): its slice, its entry and its record. -/
def State.handle (s : State) (x : Word) : Except Stop (Nat × Nat × TileRec) :=
  let h := x.toNat % 2 ^ 32
  let die := h / 2 ^ 28
  let sl := die * 64 + h / 2 ^ 22 % 64
  let i := h / 2 ^ 12 % 1024
  let bad : Except Stop (Nat × Nat × TileRec) := .error (.trap { cause := cStaleHandle, info := BitVec.ofNat 64 h })
  if 12 ≤ die ∨ 256 ≤ i ∨ (s.sli sl).gen i ≠ h % 2 ^ 12 then bad
  else
    match (s.sli sl).recs.find i with
    | some r => if r.asid = s.co.asid then .ok (sl, i, r) else bad
    | none => bad

/-- A live entry (R253). -/
def Tenure.live (e : Tenure) : Bool := e.st != .revoked && e.st != .leaving

/-- A REVOKED entry whose words are still to go home (R259, R322). -/
def Tenure.owes (e : Tenure) : Bool := e.st == .leaving

/-- The rows of an entry and every row of a record overlap; records of two address spaces share no byte. -/
def Slice.entOverlap (x : Slice) (e : Tenure) (i : Nat) : Bool :=
  match x.recs.find e.idx, x.recs.find i with
  | some a, some b => a.asid == b.asid && rowsOverlap a e.lo e.hi b 0 (b.rows - 1)
  | _, _ => false

/-- A request conflicts with a live entry (R256). -/
def Slice.conflicts (x : Slice) (q : TenReq) (e : Tenure) : Bool :=
  e.live && e.thread != q.thread && (e.write || q.write) && x.entOverlap e q.idx

/-- Two requests conflict (R257). -/
def Slice.reqConflict (x : Slice) (p q : TenReq) : Bool :=
  p.thread != q.thread && (p.write || q.write) &&
  match x.recs.find p.idx, x.recs.find q.idx with
  | some a, some b => a.asid == b.asid && rowsOverlap a 0 (a.rows - 1) b 0 (b.rows - 1)
  | _, _ => false

/-- Entries a slice tracks (R250). -/
def sliceEnts : Nat := 512

/-- The request at a place of the queue can be granted (R257): no entry stands in its way, nor one whose words have still to go
home before it (R261). -/
def Slice.grantable (x : Slice) (k : Nat) (q : TenReq) : Bool :=
  !(x.ents.any fun e => x.conflicts q e || (e.owes && x.entOverlap e q.idx)) && !((x.queue.take k).any fun p => x.reqConflict p q) &&
  decide (x.ents.length < sliceEnts)

/-- RECALLING entries with no conflicting request left in the queue are HELD again (Table 13-2). -/
def Slice.unrecall (x : Slice) : Slice :=
  { x with ents := x.ents.map fun e =>
      match e.st with
      | .recalling _ => if x.queue.any (fun q => x.conflicts q e) then e else { e with st := .held }
      | _ => e }

/-! ## Words of a footprint in an L1 (R257, R259, R261) -/

/-- The words of a line of a TILED page that a footprint touches. -/
def footMask (ps : List Plane) (l : L1Line) : BitVec 32 :=
  match l.tile with
  | none => 0
  | some v => BitVec.ofNat 32 (((List.range 32).map fun w => if holdsByte ps (v * 128 + 4 * w) 4 then 2 ^ w else 0).sum)

/-- The dirty words of a core written back and acknowledged, and those of a footprint invalidated (R259, R261). DEDUCED (log
entry 79): what the core wrote elsewhere goes home too, since hb includes the tenure relation for every location (R335, R337,
R339). -/
def State.giveUp (s : State) (ck : Nat) (ps : List Plane) : State :=
  if (s.cores.find ck).isNone then s else
  (s.l1Release ck).modCor ck fun c =>
    { c with l1 := (c.l1.map fun e =>
        let mask := footMask ps e.2
        (e.1, { e.2 with valid := e.2.valid &&& ~~~ mask, dirty := e.2.dirty &&& ~~~ mask })).filter fun e => e.2.valid != 0 }

/-- Valid clean words of a footprint invalidated (R257). -/
def State.dropClean (s : State) (ck : Nat) (ps : List Plane) : State :=
  s.modCor ck fun c =>
    { c with l1 := (c.l1.map fun e =>
        (e.1, { e.2 with valid := e.2.valid &&& ~~~ (footMask ps e.2 &&& ~~~ e.2.dirty) })).filter fun e => e.2.valid != 0 }

/-- The clean words of a footprint, and every other clean word (log entry 79), leave a core's L1 (R257). -/
def State.takeUp (s : State) (ck : Nat) (ps : List Plane) : State := (s.dropClean ck ps).l1Acquire ck

/-- An entry given up: the words of its rows leave its holder's L1 (R259, R261). -/
def State.giveUpEnt (s : State) (sl : Nat) (e : Tenure) : State :=
  if e.st = .revoked then s
  else
    match (s.sli sl).recs.find e.idx with
    | some r => s.giveUp (coreOf e.thread) (r.planes e.lo e.hi)
    | none => s

/-- An entry's rows include a byte. -/
def Slice.entHolds (x : Slice) (e : Tenure) (asid va : Nat) : Bool :=
  match x.recs.find e.idx with
  | some r => r.asid == asid && holdsByte (r.planes e.lo e.hi) va 1
  | none => false

/-- The first byte that a live WRITE entry of another core includes, or one whose words are still to go home (R335), of a load at
its home slices (R264): slice, address and bytes of each part. -/
def State.homeBlocked (s : State) (ck : Nat) (ps : List (Nat × Nat × Nat)) : Option Nat :=
  ps.findSome? fun p =>
    let x := s.sli p.1
    ((List.range p.2.2).map fun i => (p.2.1 + i) % 2 ^ 64).find? fun b =>
      x.ents.any fun e => (e.live || e.owes) && e.write && coreOf e.thread != ck && x.entHolds e (s.cor ck).asid b

/-- The load at its home slices that a waiting thread waits with. -/
def Thread.homeLoad (t : Thread) : Option (List (Nat × Nat × Nat)) :=
  match t.st, t.wait with
  | .waiting, some w => match w.kind with
    | .homeLoad ps => some ps
    | _ => none
  | _, _ => none

/-- A thread's load at its home slices has waited, and no WRITE entry of another core includes its bytes any more. -/
def State.homeFree (s : State) (e : Nat × Thread) : Bool :=
  e.2.homeLoad.any fun ps => (s.homeBlocked (coreOf e.1) ps).isNone

/-- The bytes of a load at its home slices: virtual address, and the physical one by the cached translation. -/
def State.homeAt (s : State) (ck : Nat) (ps : List (Nat × Nat × Nat)) : List (Nat × Option Nat) :=
  ps.flatMap fun p => (List.range p.2.2).map fun i =>
    let va := (p.2.1 + i) % 2 ^ 64
    (va, (tlbFind (s.cor ck).tlb va).map fun e => ptePa e.pte + (va - e.va))

/-- A load at its home slices reads its bytes: its thread keeps them, or traps UNCORRECTABLE; one whose translation is
gone meanwhile is tested again. It follows the YIELD it waited for (R264, R281, R335; log entry 79). -/
def State.readHome (s : State) (t : Nat) (ps : List (Nat × Nat × Nat)) : State :=
  let ck := coreOf t
  let bs := s.homeAt ck ps
  if bs.any (·.2.isNone) then s.modThr t Thread.wake
  else
    match (bs.filterMap (·.2)).find? fun pa => s.homeBad ck (pa / 8) with
    | some pa => s.takeTrap t (uncorrectable (pa / 8))
    | none =>
      (s.modThr t fun x => { x.wake with
        got := bs.map (fun b => (b.1, (s.viewByte ck (b.2.getD 0)).setWidth 64)) ++ x.got }).l1Acquire ck

/-- Loads that wait at their home slices read their bytes at the first moment that no WRITE entry of another core includes
them (R264). -/
def State.wakeHome (s : State) : State :=
  (s.threads.filter s.homeFree).foldl (fun s e => s.readHome e.1 (e.2.homeLoad.getD [])) s

/-- Entries of a slice freed, each given up first; what waits is judged again by TENURE_GRANT. -/
def State.freeEnts (s : State) (sl : Nat) (p : Tenure → Bool) : State :=
  let s := ((s.sli sl).ents.filter p).foldl (fun s e => s.giveUpEnt sl e) s
  (s.modSli sl fun x => { x with ents := x.ents.filter fun e => !p e }).wakeHome

/-- A thread's requests leave a slice. -/
def Slice.leave (x : Slice) (t : Nat) : Slice :=
  { x with queue := x.queue.filter (·.thread != t), outside := x.outside.filter (·.thread != t) }.unrecall

/-- A thread ends: its entries are released everywhere (R91, R261). -/
def State.endTenures (s : State) (t : Nat) : State :=
  (s.slices.map (·.1)).foldl (fun s sl => (s.freeEnts sl fun e => e.thread == t).modSli sl (·.leave t)) s

/-! ## Recalls (R258 to R260) -/

/-- The recall message (Table 13-3). -/
def State.recallWords (s : State) (sl : Nat) (e : Tenure) (why lo hi req dl : Nat) : List Word :=
  [BitVec.ofNat 64 (handleOf sl e.idx ((s.sli sl).gen e.idx) + (if e.write then 2 ^ 32 else 0) + why * 2 ^ 40),
   BitVec.ofNat 64 (lo + hi * 2 ^ 32), BitVec.ofNat 64 req, BitVec.ofNat 64 dl, BitVec.ofNat 64 s.tick, 0, 0, 0]

/-- First and last row of an entry that a request overlaps, row by row; every row where none alone does (R258). -/
def Slice.rowsHit (x : Slice) (e : Tenure) (i : Nat) : Nat × Nat :=
  match x.recs.find e.idx, x.recs.find i with
  | some a, some b =>
    let hit := ((List.range (e.hi + 1 - e.lo)).map (e.lo + ·)).filter fun k => rowsOverlap a k k b 0 (b.rows - 1)
    match hit with
    | [] => (e.lo, e.hi)
    | k :: r => (k, (k :: r).getLast (by simp))
  | _, _ => (e.lo, e.hi)

/-- The pieces of an entry cut at rows `c0` to `c1`: the child first, then the remainders (R258). -/
def cutEnt (e : Tenure) (c0 c1 dl : Nat) : List Tenure :=
  { e with lo := c0, hi := c1, st := .recalling dl } ::
    ((if e.lo < c0 then [{ e with hi := c0 - 1 }] else []) ++ (if c1 < e.hi then [{ e with lo := c1 + 1 }] else []))

/-- The HELD entry at a place of a slice recalled for a request, if the slice has entries for the pieces (R254, R258). -/
def State.recallOne (s : State) (sl : Nat) (q : TenReq) (i : Nat) (e : Tenure) : Option State :=
  let x := s.sli sl
  let (c0, c1) := x.rowsHit e q.idx
  let dl := s.tick + 2 ^ (e.r + 6)
  let parts := cutEnt e c0 c1 dl
  if sliceEnts < x.ents.length + parts.length - 1 then none
  else
    let s1 := s.modSli sl fun y => { y with ents := y.ents.take i ++ parts ++ y.ents.drop (i + 1) }
    some (s1.postHw (coreOf e.thread) e.cls (s.recallWords sl e 1 c0 c1 q.thread dl))

/-- The first HELD entry of a slice that a request conflicts with, and its place. -/
def Slice.toRecall (x : Slice) (q : TenReq) : Option (Tenure × Nat) :=
  x.ents.zipIdx.find? fun e => e.1.st == .held && x.conflicts q e.1

/-- Every conflicting HELD entry recalled, in turn, as far as entries are free (R257, R258); the last component says
that all are. DESIGN CHOICE (log entry 118): a remainder of a cut that still conflicts is cut and recalled as well. -/
def State.recallAll (s : State) (sl : Nat) (q : TenReq) : Nat → State × Bool
  | 0 => (s, false)
  | n + 1 =>
    match (s.sli sl).toRecall q with
    | none => (s, true)
    | some e =>
      match s.recallOne sl q e.2 e.1 with
      | none => (s, false)
      | some s => s.recallAll sl q n

/-- The recalls of the request at a place of the queue, once (R258). -/
def State.recallFor (s : State) (sl k : Nat) : State :=
  match (s.sli sl).queue[k]? with
  | some q =>
    if q.recalling && !q.recalled then
      let (s, done) := s.recallAll sl q (sliceEnts + 1)
      s.modSli sl fun x => { x with queue := x.queue.set k { q with recalled := done } }
    else s
  | none => s

/-- The new entry of a granted request (R257). -/
def grantedEnt (r : TileRec) (q : TenReq) : Tenure :=
  { idx := q.idx, thread := q.thread, lo := 0, hi := r.rows - 1, write := q.write, r := q.r, cls := q.cls, st := .held }

/-- The request at a place of the queue granted: its entry is HELD and the clean words of the footprint leave the L1
of its core (R257). -/
def State.grantAt (s : State) (sl k : Nat) : State :=
  match (s.sli sl).queue[k]? with
  | some q =>
    match (s.sli sl).recs.find q.idx with
    | some r =>
      (s.modSli sl fun x => ({ x with queue := x.queue.eraseIdx k, ents := x.ents ++ [grantedEnt r q] }).unrecall).takeUp
        (coreOf q.thread) r.whole
    | none => s
  | none => s

/-- Requests outside the queue enter it at its tail as far as its 256 places reach (R250). -/
def Slice.enter (x : Slice) : Slice :=
  let n := 256 - x.queue.length
  { x with queue := x.queue ++ x.outside.take n, outside := x.outside.drop n }

/-- What a slice has to do: requests enter the queue, one makes its recalls, or one is granted. -/
inductive SliceWork where
  | enterWaiting
  | recall (k : Nat)
  | grant (k : Nat)
  deriving DecidableEq, Repr

/-- A request of the queue that has recalls to make and an entry free for the first of them. -/
def State.canRecall (s : State) (sl : Nat) (q : TenReq) : Bool :=
  q.recalling && !q.recalled &&
  match (s.sli sl).toRecall q with
  | none => true
  | some e => (s.recallOne sl q e.2 e.1).isSome

/-- The next work of a slice: requests from outside first (R250), then recalls, then grants in queue order. -/
def State.sliceWork (s : State) (sl : Nat) : Option SliceWork :=
  let x := s.sli sl
  if !x.outside.isEmpty && decide (x.queue.length < 256) then some .enterWaiting
  else
    match (List.range x.queue.length).find? fun k => (x.queue[k]?).any (s.canRecall sl) with
    | some k => some (.recall k)
    | none =>
      match (List.range x.queue.length).find? fun k => (x.queue[k]?).any (x.grantable k) with
      | some k => some (.grant k)
      | none => none

/-- The request that a thread has waiting at a die is answered with a value, which the die keeps as its reply (R280). -/
def State.answerReq (s : State) (t die : Nat) (v : Word) : State :=
  match (s.thr t).asked.find? (·.die == die) with
  | some a => s.modDie die fun d =>
      { d with replies := d.replies.set (coreOf t) ((d.replies.get [] (coreOf t)).map fun r =>
          if r.1 = a.seq then (r.1, some v) else r) }
  | none => s

/-- A thread that waits for a tenure of a slice ends its wait with a status. -/
def State.endTenureWait (s : State) (sl t : Nat) (status : Word) : State :=
  (s.answerReq t (sl / 64) status).modThr t fun x =>
    match x.st, x.wait with
    | .waiting, some w => x.endWait w.d status
    | _, _ => x

/-- TENURE_GRANT: a waiting request of a slice enters the queue, makes its recalls, or is granted and its `til.acq`
completes with DONE (R250, R254, R257). -/
def execTenureGrant (sl : Nat) (s : State) : Host.Outcome State Fault Refusal :=
  match s.sliceWork sl with
  | some .enterWaiting =>
    .next (s.modSli sl (·.enter))
  | some (.recall k) => .next (s.recallFor sl k)
  | some (.grant k) =>
    .next (match (s.sli sl).queue[k]? with
      | some q => (s.grantAt sl k).endTenureWait sl q.thread stDone
      | none => s)
  | none => .next s

/-- An entry of a slice in another state. -/
def State.setEntSt (s : State) (sl : Nat) (e : Tenure) (st : TenSt) : State :=
  s.modSli sl fun x => { x with ents := x.ents.map fun f => if f = e then { f with st := st } else f }

/-- An entry revoked: its words leave the L1 of its holder's core, and it stays as a mark (R254, R259). -/
def State.revoke (s : State) (sl : Nat) (e : Tenure) : State := ((s.giveUpEnt sl e).setEntSt sl e .revoked).wakeHome

/-- A RECALLING entry past its deadline (R259). -/
def Tenure.expired (e : Tenure) (tick : Nat) : Bool :=
  match e.st with
  | .recalling dl => decide (dl < tick)
  | _ => false

/-- The dies that the words of a core go to as it writes everything through. -/
def Core.writeDies (c : Core) : List Nat :=
  (c.l1.filter fun e => e.2.dirty != 0).map (fun e => homeDie (128 * e.1)) ++ c.wtq.map (·.die)

/-- The words that are to go home as an entry is revoked cannot: the die of its slice, that of its holder, or one that the
holder's words go to relocks (R322). -/
def State.revokeHeld (s : State) (sl : Nat) (e : Tenure) : Bool :=
  (sl / 64 :: coreDie (coreOf e.thread) :: (s.cor (coreOf e.thread)).writeDies).any fun d => (s.die d).clock.t0.isSome

/-- The first entry of a slice to be revoked: one past its deadline, or one that is REVOKED and whose words can go home now. -/
def State.nextExpired (s : State) (sl : Nat) (x : Slice) : Option Tenure :=
  x.ents.find? fun e => e.expired s.tick || (e.owes && !s.revokeHeld sl e)

/-- RECALL_DEADLINE_EXPIRY: the first RECALLING entry of a slice past its deadline is revoked (R259, R322). DESIGN CHOICE (log
entry 121): the deadline runs on while a die relocks, and no flit passes it; the entry is REVOKED then, and its words go home as
soon as they can, before any grant or load that R261 and R335 order after them. -/
def execRecallDeadlineExpiry (sl : Nat) (s : State) : Host.Outcome State Fault Refusal :=
  match s.nextExpired sl (s.sli sl) with
  | some e => .next (if s.revokeHeld sl e then s.setEntSt sl e .leaving else s.revoke sl e)
  | none => .next s

/-- Every live entry on the records of an address space that some bytes belong to is revoked, with a message to its
holder (R260). -/
def State.revokeBytes (s : State) (asid va n : Nat) : State :=
  (s.slices.map (·.1)).foldl (fun s sl =>
    ((s.sli sl).ents.filter fun e => e.live && match (s.sli sl).recs.find e.idx with
      | some r => r.asid == asid && (r.planes e.lo e.hi).any (fun p =>
          decide (p.first < Int.ofNat (va + n)) && decide (Int.ofNat va ≤ p.last) && p.touches (Int.ofNat va) n)
      | none => false).foldl (fun s e =>
        ((s.sli sl).ents.filter fun f => f.live && f.idx == e.idx).foldl (fun s f =>
          (s.revoke sl f).postHw (coreOf f.thread) f.cls (s.recallWords sl f 2 f.lo f.hi 0 0)) s) s) s

/-! ## `til` acquire, release, open, close (R257, R261 to R263) -/

/-- The home die of a slice is offline. -/
def State.sliceLost (s : State) (sl : Nat) : Bool := !(s.die (sl / 64)).online

/-- The mode field of `til.acq` (Table 13-5). -/
def AcqMode.isWrite : AcqMode → Bool
  | .rd => false | .wr => true | .rdr => false | .wrr => true

/-- The mode recalls conflicting entries (R257). -/
def AcqMode.isRecall : AcqMode → Bool
  | .rd => false | .wr => false | .rdr => true | .wrr => true

/-- The recall exponent (R257). -/
def recallExp (r : Nat) : Nat := if r = 0 then 1 else if r = 15 then 14 else r

/-- A request of the issuing core to a slice, with its reply (R280). -/
def State.tileReq (s : State) (sl : Nat) (reply : Option Word) : State := s.noteRequest s.ck (sl / 64) reply

/-- A request joins the queue of a slice, or waits outside it (R250): its place, where it is in the queue, and the state
with its recalls made (R258). -/
def State.joinQueue (s : State) (sl : Nat) (q : TenReq) : Option Nat × State :=
  let s := s.modSli sl (·.enter)
  let k := (s.sli sl).queue.length
  if 256 ≤ k then (none, s.modSli sl fun y => { y with outside := y.outside ++ [q] })
  else (some k, (s.modSli sl fun y => { y with queue := y.queue ++ [q] }).recallFor sl k)

/-- `til.acq` (R257). -/
def execTilAcq (x : AcqMode) (e : BitVec 4) (d a b : Reg) (s : State) : Host.Outcome State Fault Refusal :=
  finish s (do
    let (sl, i, _) ← s.handle (s.rg a)
    if s.sliceLost sl then .ok (s.pureG d stPeerLost)
    else
      let q : TenReq := { thread := s.cur, idx := i, write := AcqMode.isWrite x, recalling := AcqMode.isRecall x,
                          r := recallExp (bitsAt (s.rg b) 0 4), cls := bitsAt (s.rg b) 4 4, recalled := false }
      let (k, s1) := s.joinQueue sl q
      match k.filter fun k => ((s1.sli sl).queue[k]?).any ((s1.sli sl).grantable k) with
      | some k => .ok (((s1.tileReq sl (some stDone)).grantAt sl k).replyG d stDone)
      | none =>
        if e = 0 then .ok (((s1.modSli sl (·.leave s.cur)).tileReq sl (some stTimeout)).pureG d stTimeout)
        else .ok ((s1.tileReq sl none).timed (.tenure sl) d e stTimeout))

/-- The rows that `til.rel` covers: all, or those `gb` names (R261). -/
def relRange (x : Word) (e : Tenure) : Bool :=
  !bitAt x 63 || (decide (bitsAt x 0 23 ≤ e.lo) && decide (e.hi ≤ bitsAt x 32 23))

/-- `til.rel` (R261). -/
def execTilRel (d a b : Reg) (s : State) : Host.Outcome State Fault Refusal :=
  finish s (do
    let (sl, i, _) ← s.handle (s.rg a)
    let p := fun (e : Tenure) => e.thread == s.cur && e.idx == i && relRange (s.rg b) e
    let mine := (s.sli sl).ents.filter p
    if mine.isEmpty then .ok ((s.tileReq sl (some stCancelled)).pureG d stCancelled)
    else
      let st := if mine.any (!·.live) then stRevoked else stDone
      .ok (((s.freeEnts sl p).tileReq sl (some st)).replyG d st))

/-- The first address of an interval in each 4 KiB page it touches. -/
def pageStarts (lo hi : Nat) : List Nat :=
  lo :: ((List.range ((hi / 4096) - (lo / 4096))).map fun k => (lo / 4096 + k + 1) * 4096)

/-- The page of an address is mapped and TILED (R262), by the cached translation or else a walk (R277). -/
def State.tilePage (s : State) (va : Nat) : Except Stop Unit := do
  canonCheck va
  match tlbFind s.co.tlb va with
  | none => .error (.walk va)
  | some e => trapIf (pteKind e.pte != kTiled) cKindMismatch (BitVec.ofNat 64 va)

/-- Every page of a record is mapped and TILED (R262). -/
def State.tilePages (s : State) : List Nat → Except Stop Unit
  | [] => .ok ()
  | va :: r => do
    s.tilePage va
    s.tilePages r

/-- The die of the page of an address, by the cached translation. -/
def State.cachedDie (s : State) (va : Nat) : Nat :=
  match tlbFind s.co.tlb va with
  | some e => homeDie (ptePa e.pte + (va - e.va))
  | none => 0

/-- The home die of the zone of a record: that of the page of its base. -/
def State.recDie (s : State) (asid va : Nat) : Nat :=
  match s.walk asid va with
  | .leaf base pte => homeDie (ptePa pte + (va - base))
  | _ => 0

/-- A record entered in a free entry of a slice: which one is free to the slice. -/
def State.enterRec (s : State) (sl : Nat) (r : TileRec) (free : List Nat) : Nat × State :=
  let (n, s) := s.draw
  let i := free.getD (Config.place n % free.length) 0
  (handleOf sl i ((s.sli sl).gen i), s.modSli sl fun x => { x with recs := x.recs.set i r })

/-- The free record entries of a slice. -/
def Slice.freeRecs (x : Slice) : List Nat := (List.range 256).filter fun i => (x.recs.find i).isNone

/-- `til.open` (R262). DESIGN CHOICE (log entry 74): the first failing page is sought in the payload's pages, ascending,
before the headers'. DESIGN CHOICE (log entry 129): that the home die of the zone is offline ends no form. -/
def execTilOpen (e : BitVec 4) (d a : Reg) (s : State) : Host.Outcome State Fault Refusal :=
  finish s (do
    let la ← scrAddr (s.rg a)
    trapIf (la % 8 != 0) cMisaligned (s.rg a)
    trapIf (decide (s.scrLimit < la + 72)) cScratchBounds (s.rg a)
    s.scrPoison la 72
    let r := tileOfImage s.co.asid ((List.range 72).map fun i => s.co.scrByte (la + i))
    match r.bad with
    | some why => .error (.trap { cause := cTileZone, info := BitVec.ofNat 64 why })
    | none =>
      s.tilePages (r.whole.flatMap fun p => pageStarts (vaOf p.first) (vaOf p.last))
      let va := vaOf ((r.whole.map (·.first)).headD 0)
      let sl := sliceKey (s.cachedDie va) (zoneOf va)
      match (s.sli sl).freeRecs with
      | [] => .ok ((if e = 0 then s.tileReq sl (some 0) else s).timed (.recordEntry sl) d e 0)
      | i :: l =>
        let (h, s1) := s.enterRec sl r (i :: l)
        .ok ((s1.tileReq sl (some (BitVec.ofNat 64 h))).replyG d (BitVec.ofNat 64 h)))

/-- Waiting `til.open` forms of a slice are tested again. -/
def State.wakeOpens (s : State) (sl : Nat) : State :=
  { s with threads := s.threads.map fun e =>
      if e.2.st = .waiting ∧ e.2.wait.map (·.kind) = some (.recordEntry sl) then (e.1, e.2.wake) else e }

/-- `til.close` (R263). -/
def execTilClose (d a : Reg) (s : State) : Host.Outcome State Fault Refusal :=
  finish s (do
    let (sl, i, _) ← s.handle (s.rg a)
    let x := s.sli sl
    if x.ents.any (·.idx == i) || x.queue.any (·.idx == i) || x.outside.any (·.idx == i) then
      .ok ((s.tileReq sl (some stBusy)).pureG d stBusy)
    else
      let g := x.gen i
      let s1 := s.modSli sl fun y => { y with recs := y.recs.erase i, gens := y.gens.set i (if g = 4095 then 1 else g + 1) }
      .ok (((s1.tileReq sl (some stDone)).replyG d stDone).wakeOpens sl))

/-! ## Scalar TILED accesses (R169, R264) -/

/-- How R264 decides one byte, worst last. -/
inductive ByteFate where
  | l1 | home | required | revoked
  deriving DecidableEq, Repr

/-- R264 for one byte of an access by a core. -/
def State.byteFate (s : State) (ck sl : Nat) (store : Bool) (va : Nat) : ByteFate :=
  let x := s.sli sl
  let mine := x.ents.filter fun e => coreOf e.thread == ck && x.entHolds e (s.cor ck).asid va
  if mine.any fun e => e.live && (e.write || !store) then .l1
  else if mine.any (·.live) then .required
  else if mine.any (!·.live) then .revoked
  else if store then .required else .home

/-- The slice of a TILED part. -/
def tileSlice (p : Part) : Nat := sliceKey (homeDie p.pa) (zoneOf p.va)

/-- The parts of a TILED access by slice, address and bytes. -/
def tileParts (ps : List Part) : List (Nat × Nat × Nat) := ps.map fun p => (tileSlice p, p.va, p.n)

/-- R264 for an access, each byte at its own slice: the worst of its bytes decides; `kinfo` is the first byte so
decided. -/
def State.tenureCheck (s : State) (ck : Nat) (store : Bool) (ps : List (Nat × Nat × Nat)) : Except Stop ByteFate :=
  let fates := ps.flatMap fun p =>
    (List.range p.2.2).map fun i => ((p.2.1 + i) % 2 ^ 64, s.byteFate ck p.1 store ((p.2.1 + i) % 2 ^ 64))
  match fates.find? (·.2 == .revoked) with
  | some f => .error (.trap { cause := cTenureRevoked, info := BitVec.ofNat 64 f.1 })
  | none =>
    match fates.find? (·.2 == .required) with
    | some f => .error (.trap { cause := cTenureRequired, info := BitVec.ofNat 64 f.1 })
    | none => .ok (if fates.any (·.2 == .home) then .home else .l1)

/-- How a scalar TILED load goes on. -/
inductive TileLoad where
  | value (v : Nat) (s : State)
  | waits (ps : List (Nat × Nat × Nat))
  deriving DecidableEq, Repr

/-- The value of a part among the bytes that a waiting load has been given (R264). -/
def Thread.gotPart (t : Thread) (p : Part) : Option Nat :=
  let bs := (List.range p.n).map fun i => t.got.find? (·.1 == (p.va + i) % 2 ^ 64)
  if bs.all (·.isSome) then some (natOfBytes (bs.map fun b => (b.elim 0 (·.2)).setWidth 8)) else none

/-- The value of a part at its home as the core sees it, or as its load was given it while it waited (R264, R330). -/
def State.homeValue (s : State) (ck : Nat) (p : Part) : Nat :=
  (s.th.gotPart p).getD (natOfBytes ((List.range p.n).map fun i => s.viewByte ck (p.pa + i)))

/-- The bytes of some parts read at their home, which fill a register from a byte on (R264, R280). -/
def State.homeParts (s : State) (ck off : Nat) : List Part → Except Stop (Nat × State)
  | [] => .ok (0, s)
  | p :: r =>
    match if (s.th.gotPart p).isSome then none else (wordsOf p.pa p.n).find? (s.homeBad ck) with
    | some w => .error (.trap (uncorrectable w))
    | none => do
      let v := s.homeValue ck p
      let s1 := (s.filterEnter p.pa (pteBd p.pte)).noteRequest ck (homeDie p.pa) (some (BitVec.ofNat 64 v)) off p.n
      let (w, s2) ← s1.homeParts ck (off + p.n) r
      .ok (v + 2 ^ (8 * p.n) * w, s2)

/-- The parts of a load that its thread has been given while it waited. -/
def Thread.gotAll (t : Thread) (ps : List Part) : Bool := ps.all fun p => (t.gotPart p).isSome

/-- A load of TILED bytes: through the L1 inside a tenure, else at the home slice, where it waits while a WRITE entry of
another core includes one of them; a load that has waited has them already (R264). -/
def State.tiledLoad (s : State) (ck : Nat) (ps : List Part) : Except Stop TileLoad := do
  match ← if s.th.gotAll ps then .ok .home else s.tenureCheck ck false (tileParts ps) with
  | .l1 =>
    let (v, s) ← s.loadParts ck ps
    .ok (.value v s)
  | _ =>
    if !s.th.gotAll ps && (s.homeBlocked ck (tileParts ps)).isSome then .ok (.waits (tileParts ps))
    else
      let (v, s) ← s.homeParts ck 0 ps
      .ok (.value v s)

/-- A load at its home slices waits under the limit of `kswait`; with no limit left it traps TENURE_CONFLICT (R264). -/
def State.homeWait (s : State) (d : Reg) (ps : List (Nat × Nat × Nat)) : State :=
  let e := bitsAt s.co.kswait 0 4
  if e = 0 then s.trapNow { cause := cTenureConflict, info := BitVec.ofNat 64 ((s.homeBlocked s.ck ps).getD 0) }
  else s.modTh fun t => t.block s.tick .waiting (.homeLoad ps) d e

/-- A TILED load goes through the L1 and hits there (R115, R264). -/
def State.tiledHit (s : State) (ps : List Part) : Bool :=
  s.partsHit ps && !s.th.gotAll ps && s.tenureCheck s.ck false (tileParts ps) matches .ok .l1

/-- `ld.tiled` (R169, R264). -/
def execLdTiled (sz : Size) (d a : Reg) (off : BitVec 11) (s : State) : Host.Outcome State Fault Refusal :=
  finish s (do
    let ea := s.th.ea a off sz.bytes
    let ps ← s.plainParts .load kTiled ea sz.bytes
    match ← s.tiledLoad s.ck ps with
    | .value v s1 => .ok (if s.tiledHit ps then s1.outG d (BitVec.ofNat 64 v) else s1.pureG d (BitVec.ofNat 64 v))
    | .waits ws => .ok (s.homeWait d ws))

/-- `st.tiled` (R169, R264). -/
def execStTiled (sz : Size) (d a : Reg) (off : BitVec 11) (s : State) : Host.Outcome State Fault Refusal :=
  finish s (do
    let ea := s.th.ea a off sz.bytes
    let ps ← s.plainParts .store kTiled ea sz.bytes
    let _ ← s.tenureCheck s.ck true (tileParts ps)
    s.storeFrom ea.toNat sz.bytes ((s.rg d).toNat % 2 ^ (8 * sz.bytes)) ps)

/-! ## `til.get` and `til.put` (R265, R266) -/

/-- What a transfer names: record, scratchpad start and pitch, first row and number of rows, bytes of a row. -/
structure Xfer where
  sl : Nat
  tile : TileRec
  sbase : Nat
  pitch : Nat
  lo : Nat
  cnt : Nat
  width : Nat
  deriving DecidableEq, Repr

/-- The checks of R265 on the transfer block at a scratchpad address. DESIGN CHOICE (log entry 130): the reserved bits are those of
`sbase` above 17, and `spitch` has none. -/
def State.xferBlock (s : State) (sl : Nat) (r : TileRec) (gb : Word) : Except Stop Xfer := do
  let la ← scrAddr gb
  trapIf (la % 8 != 0) cMisaligned gb
  trapIf (decide (s.scrLimit < la + 16)) cScratchBounds gb
  s.scrPoison la 16
  let sbase := s.co.scrRead la 4
  let spitch := s.co.scrRead (la + 4) 4
  let lo := s.co.scrRead (la + 8) 4
  let cnt := s.co.scrRead (la + 12) 4
  trapIf (isBlockFmt r.fmt) cTileZone 5
  trapIf (cnt == 0 || decide (r.rows < lo + cnt)) cTileZone 6
  trapIf (decide (2 ^ 18 ≤ sbase)) cTileZone 6
  trapIf (sbase % 8 != 0) cMisaligned (BitVec.ofNat 64 sbase)
  trapIf (spitch % 8 != 0) cMisaligned (BitVec.ofNat 64 spitch)
  let w := elemBytes r.fmt * ((r.ext.take (r.rank - 1)).foldl (· * ·) 1)
  trapIf (spitch != 0 && decide (spitch < w)) cTileZone 6
  let p := if spitch = 0 then w else spitch
  trapIf (decide (s.scrLimit < sbase + (cnt - 1) * p + w)) cScratchBounds (BitVec.ofNat 64 sbase)
  .ok { sl := sl, tile := r, sbase := sbase, pitch := p, lo := lo, cnt := cnt, width := w }

/-- The elements of a transfer in order: virtual address and scratchpad address (R265). -/
def Xfer.elems (x : Xfer) : List (Nat × Nat) :=
  (List.range x.cnt).flatMap fun q =>
    match x.tile.planes (x.lo + q) (x.lo + q) with
    | p :: _ => (dimsElems p.dims).zipIdx.map fun o => (vaOf (p.base + o.1), x.sbase + q * x.pitch + o.2 * p.size)
    | [] => []

/-- The first byte of a part that no tenure of a core covers (R264). -/
def State.uncovered (s : State) (ck : Nat) (p : Part) : Nat :=
  (((List.range p.n).map fun i => (p.va + i) % 2 ^ 64).find? fun b => s.byteFate ck (tileSlice p) false b == .home).getD p.va

/-- Every element is covered as a load or a store must be (R264, R265). -/
def State.xferTenure (s : State) (store : Bool) : List Part → Except Stop Unit
  | [] => .ok ()
  | p :: r => do
    match ← s.tenureCheck s.ck store (tileParts [p]) with
    | .home => .error (.trap { cause := cTenureRequired, info := BitVec.ofNat 64 (s.uncovered s.ck p) })
    | _ => s.xferTenure store r

/-- No element meets a word that it cannot read, or cannot write (R166 step 7, R281). -/
def State.xferLost (s : State) (store : Bool) : List Part → Except Stop Unit
  | [] => .ok ()
  | p :: r =>
    match if store then (wordsOf p.pa p.n).find? fun w => s.noStore s.ck p.pa p.n w else s.badWord s.ck p.pa p.n with
    | some w => .error (.trap (uncorrectable w))
    | none => s.xferLost store r

/-- The parts of the elements, after every check of R166 on every one of them (R265). DESIGN CHOICE (log entry 119): each check is
made for all elements, in element order, before the next check. -/
def State.xferParts (s : State) (x : Xfer) (store : Bool) (es : List (Nat × Nat)) : Except Stop (List Part) := do
  let ps ← s.pageParts (if store then .store else .load) (es.map fun e => (e.1, elemBytes x.tile.fmt))
  kindCheck [kTiled] ps
  s.xferTenure store ps
  s.xferLost store ps
  .ok ps

/-- Distinct elements, first visits in order. -/
def firstVisits : List Nat → List Nat → List Nat
  | _, [] => []
  | seen, w :: r => if seen.contains w then firstVisits seen r else w :: firstVisits (w :: seen) r

/-- The scratchpad words of a transfer in the order of their first visit (R266). -/
def Xfer.words (x : Xfer) : List Nat :=
  firstVisits [] (x.elems.flatMap fun e => wordsOf e.2 (elemBytes x.tile.fmt))

/-- Bank conflicts of a sequence of words, beat by beat (R266); the fuel is the number of words. -/
def bankConflicts : Nat → List Nat → Nat
  | 0, _ => 0
  | n + 1, ws =>
    match ws with
    | [] => 0
    | _ =>
      let beat := ws.take 32
      beat.length - (firstVisits [] (beat.map (· % 32))).length + bankConflicts n (ws.drop 32)

/-- The conflicts of a transfer added to `kbconf`[31:0] (R266). -/
def Thread.addConflicts (t : Thread) (n : Nat) : Thread :=
  { t with kbconf := BitVec.ofNat 64 ((t.kbconf.toNat + n) % 2 ^ 32) }

/-- Elements read through the L1 into the bytes of a core's scratchpad image, the full bits untouched. -/
def State.xferRead (s : State) (c : Core) : List (Part × Nat) → Except Stop (Core × State)
  | [] => .ok (c, s)
  | (p, a) :: r => do
    let (v, s) ← s.loadPart s.ck p
    s.xferRead (c.scrWrite a (bytesOf v p.n)) r

/-- Elements written from the scratchpad as stores under tenure (R265). -/
def State.xferWrite (s : State) : List (Part × Nat) → State
  | [] => s
  | (p, a) :: r =>
    let v := s.co.scrRead a p.n
    (if wholeWords p.va p.n then s.storeWhole s.ck p v else s.storePartial s.ck p v).xferWrite r

/-- Words of an image arrive as filling writes (R124, R265). -/
def State.fillFrom (s : State) (img : Core) : List Nat → State
  | [] => s
  | w :: r => (s.arriveWord s.ck w (img.scratch.get 0 w)).fillFrom img r

/-- The ranges of the scratchpad that the elements of a transfer fill. -/
def Xfer.spans (x : Xfer) : List (Nat × Nat) := x.elems.map fun e => (e.2, elemBytes x.tile.fmt)

/-- An uncorrectable scratchpad word that the elements of a transfer do not fill traps, as at a partial store (R281). -/
def State.xferPartial (s : State) (x : Xfer) : Except Stop Unit :=
  match x.words.find? fun w => (s.co.spoison.find w).isSome && !spansFill x.spans w with
  | some w => .error (.trap (uncorrectable w))
  | none => .ok ()

/-- `til.get` (R265). -/
def execTilGet (d a b : Reg) (s : State) : Host.Outcome State Fault Refusal :=
  finish s (do
    let (sl, _, r) ← s.handle (s.rg a)
    if s.sliceLost sl then .ok (s.pureG d stPeerLost)
    else
      let x ← s.xferBlock sl r (s.rg b)
      let ps ← s.xferParts x false x.elems
      s.xferPartial x
      let (img, s1) ← s.xferRead s.co (ps.zip (x.elems.map (·.2)))
      let s2 := s1.fillFrom img x.words
      .ok (((s2.tileReq sl none).modTh (·.addConflicts (bankConflicts x.words.length x.words))).replyG d stDone))

/-- `til.put` (R265). -/
def execTilPut (d a b : Reg) (s : State) : Host.Outcome State Fault Refusal :=
  finish s (do
    let (sl, _, r) ← s.handle (s.rg a)
    if s.sliceLost sl then .ok (s.pureG d stPeerLost)
    else
      let x ← s.xferBlock sl r (s.rg b)
      let ps ← s.xferParts x true x.elems
      match x.words.find? fun w => (s.co.spoison.find w).isSome with
      | some w => .error (.trap (uncorrectable w))
      | none =>
        let s1 := s.xferWrite (ps.zip (x.elems.map (·.2)))
        .ok (((s1.tileReq sl none).modTh (·.addConflicts (bankConflicts x.words.length x.words))).replyG d stDone))

end Sys2Proof.Machine
end

