-- ==== Sys2Proof/Machine/BlockForms.lean ====
section
/-! DEFINITION. The quantising store and the block load (R179 to R181). -/

namespace Sys2Proof.Machine

/-- The addresses of a block: its payload and its header (R179). -/
structure BlockAt where
  pay : Word
  hdr : Word
  deriving DecidableEq, Repr

/-- The block of index `j` on the planes of `ga` and the register after it (R179). -/
def State.blockAt (s : State) (w : BlkW) (a : Reg) (j : Word) : BlockAt where
  pay := s.rg a + j * BitVec.ofNat 64 w.bytes
  hdr := s.rg (Reg.next a) + j * 2

/-- The two accesses of a block, the lower address first (R166). -/
def BlockAt.accesses (x : BlockAt) (w : BlkW) : List (Word × Nat) :=
  if x.pay.toNat ≤ x.hdr.toNat then [(x.pay, w.bytes), (x.hdr, 2)] else [(x.hdr, 2), (x.pay, w.bytes)]

/-- R166 step 4 for both accesses: the payload is a multiple of its size, the header of 2 (R179). -/
def alignAll : List (Word × Nat) → Except Stop Unit
  | [] => .ok ()
  | (a, n) :: r => do
    trapIf (a.toNat % n != 0) cMisaligned a
    alignAll r

/-- R165 for both accesses in the scratchpad space. -/
def scrAddrAll : List (Word × Nat) → Except Stop Unit
  | [] => .ok ()
  | (a, _) :: r => do
    let _ ← scrAddr a
    scrAddrAll r

/-- No word of either access is uncorrectable, the lower access first (R281). DEDUCED from R166 (log entry 75): the access
of the lower address is reported. -/
def State.scrPoisonAll (s : State) : List (Word × Nat) → Except Stop Unit
  | [] => .ok ()
  | (a, n) :: r => do
    s.scrPoison a.toNat n
    s.scrPoisonAll r

/-- The checks of a block in the scratchpad (R165, R166). -/
def State.scrBlock (s : State) (x : BlockAt) (w : BlkW) : Except Stop Unit := do
  scrAddrAll (x.accesses w)
  alignAll (x.accesses w)
  s.scrBounds ((x.accesses w).map fun e => (e.1.toNat, e.2))

/-- R166 steps 1 to 4 of a block in virtual memory (R179). -/
def State.virtBlock (s : State) (acc : Acc) (x : BlockAt) (w : BlkW) : Except Stop Unit := do
  let ps ← s.pageParts acc ((x.accesses w).flatMap fun e => linePieces e.1.toNat e.2)
  kindCheck [kPlain, kTiled] ps
  alignAll (x.accesses w)

/-- The part of one aligned access whose page checks have passed. -/
def State.partOf (s : State) (acc : Acc) (a : Word) (n : Nat) : Except Stop Part := s.pagePart acc a.toNat n

/-- R166 step 6 for both accesses (R264). -/
def State.tenureAll (s : State) (acc : Acc) : List (Word × Nat) → Except Stop Unit
  | [] => .ok ()
  | (a, n) :: r => do
    let p ← s.partOf acc a n
    if pteKind p.pte = kTiled ∧ (s.th.gotPart p).isNone then
      let _ ← s.tenureCheck s.ck (acc == .store) (tileParts [p])
    s.tenureAll acc r

/-- The issuing core with its decode tables as they stood when the form in progress issued (R63). -/
def State.blockCore (s : State) : Core := { s.co with tabs := s.th.tabsAt.getD s.co.tabs }

/-- A block form that waits keeps the decode tables of its issue (R63, R181). -/
def State.keepTabs (s : State) : State := s.modTh fun t => { t with tabsAt := some s.blockCore.tabs }

/-- The outcome of a block form: one that waits for a walk keeps the tables of its issue. -/
def finishBlock (s : State) (r : Except Stop State) : Host.Outcome State Fault Refusal :=
  match r with
  | .error (.walk va) => finish s.keepTabs (.error (.walk va))
  | r => finish s r

/-- The issuing thread's 16 FP32 lanes. -/
def State.lanes32 (s : State) (d : Reg) : List Nat := (List.range 16).map (lane 32 (s.th.rv d))

/-- The completion of a quantising store, with its flag (R70, R180). -/
def State.qstDone (s : State) (nan : Bool) : State :=
  s.modTh fun t => (if nan then t.addFlags fQNAN else t).retireReply s.tick

/-- A block written to virtual memory: the payload, then the header (R180). -/
def State.writeBlock (s : State) (x : BlockAt) (w : BlkW) (hd pay : Nat) (nan : Bool) : Except Stop State := do
  let p ← s.partOf .store x.pay w.bytes
  let q ← s.partOf .store x.hdr 2
  let (bad, s1) ← s.storeParts s.ck true pay [p]
  match bad with
  | some u => .ok (s1.trapNow (uncorrectable u))
  | none =>
    let (bad, s2) ← s1.storeParts s.ck false hd [q]
    match bad with
    | some u => .ok (s2.trapNow (uncorrectable u))
    | none => .ok (s2.qstDone nan)

/-- A block written to the scratchpad: the payload, then the header (R180). -/
def State.writeScrBlock (s : State) (x : BlockAt) (w : BlkW) (hd pay : Nat) (nan : Bool) : Except Stop State := do
  let s1 := s.modCo fun c => c.scrWrite x.pay.toNat (bytesOf pay w.bytes)
  match s1.scrPartPoison x.hdr.toNat 2 with
  | .error (.trap t) => .ok (s1.trapNow t)
  | .error e => .error e
  | .ok _ => .ok ((s1.modCo fun c => c.scrWrite x.hdr.toNat (bytesOf hd 2)).qstDone nan)

/-- `qst.q` (R179, R180): with the mask mode the block index is `off`[10:8] and the mask `off`[7:0]. -/
def execQstQ (w : BlkW) (imm sp : Bool) (d a : Reg) (off : BitVec 11) (s : State) : Host.Outcome State Fault Refusal :=
  let j : Word := if imm then BitVec.ofNat 64 (off.toNat / 256) else simm off
  let mask := if imm then off.toNat % 256 else bitsAt s.th.kqmask 0 8
  let x := s.blockAt w a j
  finishBlock s (do
    if sp then s.scrBlock x w
    else
      s.virtBlock .store x w
      s.tenureAll .store (x.accesses w)
    trapIf (mask / 16 != 0) cSelectorReserved 0
    let (hd, pay, nan) := s.blockCore.quantise w mask (s.lanes32 d)
    trapIf (nan && s.th.te / 32 % 2 == 1) cFpTrap (BitVec.ofNat 64 fQNAN)
    if sp then s.writeScrBlock x w hd pay nan else s.writeBlock x w hd pay nan)

/-- One access of a block load from virtual memory, on a PLAIN or a TILED page (R179, R264). -/
def State.blockLoad (s : State) (p : Part) : Except Stop TileLoad := do
  if pteKind p.pte = kTiled then s.tiledLoad s.ck [p]
  else
    let (v, s) ← s.loadParts s.ck [p]
    .ok (.value v s)

/-- The parts of a block load that are still to be performed at their home slice (R264). -/
def State.homePartsOf (s : State) (ps : List Part) : List Part :=
  ps.filter fun p => pteKind p.pte == kTiled && (s.th.gotPart p).isNone && match s.tenureCheck s.ck false (tileParts [p]) with
    | .ok .home => true
    | _ => false

/-- The lanes of a block load, after the header's checks (R64, R181). -/
def State.blLanes (s : State) (w : BlkW) (d : Reg) (hdr : Word) (h pay : Nat) : Except Stop State :=
  match headerBad h with
  | some cause => .error (.trap { cause := cause, info := hdr })
  | none => .ok (s.pure 0 (·.setV d (lanesTo 32 (s.blockCore.blockLane w h pay))))

/-- A block load from virtual memory: it waits where a part at its home slice must, for both accesses together; else both
accesses in address order, then the lanes. -/
def State.blVirtual (s : State) (w : BlkW) (d : Reg) (x : BlockAt) : Except Stop State := do
  let low := x.pay.toNat ≤ x.hdr.toNat
  let p ← s.partOf .load x.pay w.bytes
  let q ← s.partOf .load x.hdr 2
  let ps := if low then [p, q] else [q, p]
  let home := tileParts (s.homePartsOf ps)
  if (s.homeBlocked s.ck home).isSome then .ok (s.keepTabs.homeWait 0 home)
  else
    match ← s.blockLoad (if low then p else q) with
    | .waits ws => .ok (s.keepTabs.homeWait 0 ws)
    | .value u s1 =>
      match ← s1.blockLoad (if low then q else p) with
      | .waits ws => .ok (s.keepTabs.homeWait 0 ws)
      | .value v s2 => s2.blLanes w d x.hdr (if low then v else u) (if low then u else v)

/-- `qst.bl` (R179, R181). -/
def execQstBl (w : BlkW) (sp : Bool) (d a : Reg) (off : BitVec 11) (s : State) : Host.Outcome State Fault Refusal :=
  let x := s.blockAt w a (simm off)
  finishBlock s (do
    if sp then
      s.scrBlock x w
      s.scrPoisonAll (x.accesses w)
      s.blLanes w d x.hdr (s.co.scrRead x.hdr.toNat 2) (s.co.scrRead x.pay.toNat w.bytes)
    else
      s.virtBlock .load x w
      s.tenureAll .load (x.accesses w)
      s.blVirtual w d x)

end Sys2Proof.Machine
end

