-- ==== Sys2Proof/Machine/Messages.lean ====
section
/-! DEFINITION. Messages, permits and the mailbox (R94, R116 to R120, R186 to R190). -/

namespace Sys2Proof.Machine

/-- Code of the `kinfo` of a PACKET_OPEN trap (R187). -/
def packetTrap (code : Nat) : Stop := .trap { cause := cPacketOpen, info := BitVec.ofNat 64 code }

/-- The core a descriptor or TID names, from its bits [16:4] (R80, R186). -/
def descCore (x : Word) : Nat := bitsAt x 4 13

/-- A core of the issuing thread's launch (R188). DESIGN CHOICE (log entry 73): the cores of a launch's clusters that have
no launch core number (R354) count. -/
def State.sameLaunch (s : State) (ck : Nat) : Bool :=
  s.co.launch.isSome && (s.cor ck).launch == s.co.launch

/-- A context of the issuing thread's launch (R97, R189). -/
def State.launchThread (s : State) (t : Nat) : Bool :=
  decide (t / 8192 < 12) && s.sameLaunch (coreOf t) && decide (ctxOf t < (s.cor (coreOf t)).nctx)

/-- A class of the issuing core bound to the issuing context (R189, R190). -/
def State.ownsClass (s : State) (cls : Nat) : Bool :=
  match s.co.classes.find cls with
  | some ce => ce.ctx == ctxOf s.cur
  | none => false

/-- Permits a thread holds for a class of a core. -/
def permitCount : List Permit → Nat → Nat → Nat
  | [], _, _ => 0
  | p :: r, ck, cls => if p.core = ck ∧ p.cls = cls then p.count else permitCount r ck cls

/-- One permit consumed; an entry whose count reaches zero is freed (R189). -/
def permitUse : List Permit → Nat → Nat → List Permit
  | [], _, _ => []
  | p :: r, ck, cls =>
    if p.core = ck ∧ p.cls = cls then (if p.count ≤ 1 then r else { p with count := p.count - 1 } :: r)
    else p :: permitUse r ck cls

/-- Permits added to a thread's entries. -/
def permitAdd : List Permit → Nat → Nat → Nat → List Permit
  | [], ck, cls, n => [{ core := ck, cls := cls, count := n }]
  | p :: r, ck, cls, n =>
    if p.core = ck ∧ p.cls = cls then { p with count := p.count + n } :: r else p :: permitAdd r ck cls n

/-- Every permit of a thread returned to its granter (R91). -/
def State.returnPermits (s : State) (t : Nat) : State :=
  let ps := (s.thr t).permits
  let s := ps.foldl (fun s p => s.modCor p.core fun c => { c with outstanding := c.outstanding - p.count }) s
  s.modThr t fun x => { x with permits := [] }

/-- `msg.put` (R188). -/
def execMsgPut (a : Reg) (s : State) : Host.Outcome State Fault Refusal :=
  if 8 ≤ s.th.packet.length then finish s (.error (packetTrap 1))
  else .next (s.modTh fun t => { t with packet := t.packet ++ [t.rg a] }).reply

/-- `msg.drop` (R188). -/
def execMsgDrop (s : State) : Host.Outcome State Fault Refusal :=
  .next (s.modTh fun t => { t with packet := [] }).reply

/-- The message that a send delivers (R117, R188). -/
def State.sendMsg (s : State) (desc : Word) (last : Word) : Msg :=
  { cls := bitsAt desc 0 4, sender := s.cur, words := s.th.packet ++ [last],
    tag := if bitAt desc 25 then some (bitsAt desc 17 8) else none, permitted := true }

/-- A message under a permit on its way to a core of the issuing launch (R117, R188). -/
def State.sendPost (s : State) (ck : Nat) (m : Msg) : Post where
  core := some ck
  lid := s.co.launch
  msg := m
  trapRec := false
  src := none
  fwd := none
  die := some (coreDie s.ck)

/-- A message that a thread has sent under a permit is still on its way. -/
def State.inFlight (s : State) (t : Nat) : Bool := s.transit.any fun p => p.msg.permitted && p.msg.sender == t

/-- `msg.send` (R188): its message is queued by MESSAGE_ARRIVAL, and its reply comes after that. -/
def execMsgSend (e : BitVec 4) (d a b : Reg) (s : State) : Host.Outcome State Fault Refusal :=
  let desc := s.rg a
  let ck := descCore desc
  let cls := bitsAt desc 0 4
  finish s (do
    trapIf (decide (12 ≤ bitsAt desc 13 4) || !s.sameLaunch ck) cPermission desc
    if 8 ≤ s.th.packet.length then .error (packetTrap 1)
    if !(s.die (coreDie ck)).online then
      .ok ((s.modTh fun t => { t with packet := [] }).replyG d stPeerLost)
    else if permitCount s.th.permits ck cls = 0 then .ok (s.timed .permit d e stNoPermit)
    else
      .ok (((s.modTh fun t => { t with permits := permitUse t.permits ck cls, packet := [] }).replyG d stDone).post
        (s.sendPost ck (s.sendMsg desc (s.rg b)))))

/-- The classes of a mask. -/
def classesOf (mask : Nat) : List Nat := (List.range 16).filter fun i => mask / 2 ^ i % 2 == 1

/-- The classes of a mailbox that hold a message, lowest first. -/
def Core.holds (c : Core) (mask : Nat) : List Nat := (classesOf mask).filter fun i => c.mailbox.any fun m => m.cls == i

/-- R190: no packet open, and every class of the mask bound to the issuing context. -/
def State.recvChecks (s : State) (mask : Nat) : Except Stop Unit := do
  if !s.th.packet.isEmpty then .error (packetTrap 2)
  trapIf (!(classesOf mask).all fun i => s.ownsClass i) cPermission (BitVec.ofNat 64 mask)

/-- The oldest message of a class, and the mailbox without it (R118). -/
def takeMsg : List Msg → Nat → Option (Msg × List Msg)
  | [], _ => none
  | m :: r, cls =>
    if m.cls = cls then some (m, r)
    else match takeMsg r cls with
      | some (x, r') => some (x, m :: r')
      | none => none

/-- The status word of `recv` (Table 7-10). -/
def recvStatus (m : Msg) : Word :=
  BitVec.ofNat 64 (m.sender % 2 ^ 17 * 2 ^ 17 + (if m.tag.isSome then 2 ^ 16 else 0) + m.tag.getD 0 * 256 +
    m.words.length * 16)

/-- Words written to the scratchpad from an address on, full bits unchanged. -/
def Core.scrWords (c : Core) (a : Nat) : List Word → Core
  | [] => c
  | w :: r => (c.scrSetWord (a / 8) w).scrWords (a + 8) r

/-- A message taken from the issuing core's mailbox: its permit is no longer outstanding, the message is counted, and
the ready bit is cleared if no class of the context now holds a message (R117, R190, R301). -/
def State.takeNow (s : State) (m : Msg) (rest : List Msg) (at_ : Nat) : State :=
  let s := s.modCo fun c =>
    let c := { c with mailbox := rest, outstanding := c.outstanding - (if m.permitted then 1 else 0),
                      recvCount := c.recvCount + (if m.permitted then 1 else 0) }
    c.scrWords at_ m.words
  let still := rest.any fun x => s.ownsClass x.cls
  s.modTh fun t => { t with readyBit := t.readyBit && still }

/-- `msg.recv` (R190). -/
def execMsgRecv (e : BitVec 4) (d a b : Reg) (s : State) : Host.Outcome State Fault Refusal :=
  let cls := bitsAt (s.rg a) 0 4
  finish s (do
    s.recvChecks (2 ^ cls)
    let la ← scrAddr (s.rg b)
    trapIf (la % 8 != 0) cMisaligned (s.rg b)
    trapIf (decide (s.scrLimit < la + 64)) cScratchBounds (s.rg b)
    match takeMsg s.co.mailbox cls with
    | some (m, rest) => .ok ((s.takeNow m rest la).replyG d (recvStatus m))
    | none => .ok (s.park (2 ^ cls) d e))

/-- `wait` and `alt`: the test over the classes of a mask (R119, R190). -/
def State.waitOn (s : State) (mask : Nat) (d : Reg) (e : BitVec 4) : Except Stop State := do
  s.recvChecks mask
  match s.co.holds mask with
  | c :: _ => .ok ((s.modTh fun t => { t with readyBit := false }).replyG d (BitVec.ofNat 64 (c * 16)))
  | [] =>
    if s.th.readyBit then .ok ((s.modTh fun t => { t with readyBit := false }).replyG d 8)
    else .ok (s.park mask d e)

/-- `msg.wait` (R190). -/
def execMsgWait (e : BitVec 4) (d a : Reg) (s : State) : Host.Outcome State Fault Refusal :=
  finish s (s.waitOn (2 ^ bitsAt (s.rg a) 0 4) d e)

/-- `msg.alt` (R190). -/
def execMsgAlt (e : BitVec 4) (d a : Reg) (s : State) : Host.Outcome State Fault Refusal :=
  finish s (s.waitOn (bitsAt (s.rg a) 0 16) d e)

/-- A sender that waits for a permit is READY again (R189). -/
def State.wakePermit (s : State) (t : Nat) : State :=
  s.modThr t fun x => if x.st = .waiting ∧ x.wait.map (·.kind) = some .permit then x.wake else x

/-- `msg.grant` (R189). -/
def execMsgGrant (d a b : Reg) (s : State) : Host.Outcome State Fault Refusal :=
  let cls := bitsAt (s.rg b) 0 4
  let cnt := bitsAt (s.rg b) 8 6
  let snd := bitsAt (s.rg a) 0 17
  finish s (do
    trapIf (!s.ownsClass cls) cPermission (s.rg b)
    trapIf (!s.launchThread snd) cPermission (s.rg a)
    let t := s.thr snd
    if t.st = .ended then .ok (s.pureG d stCancelled)
    else if cnt = 0 then .ok (s.pureG d stDone)
    else if 48 < s.co.outstanding + cnt ∨ (8 ≤ t.permits.length ∧ permitCount t.permits s.ck cls = 0) then
      .ok (s.pureG d stBusy)
    else
      let s1 := (s.modCo fun c => { c with outstanding := c.outstanding + cnt }).modThr snd fun x =>
        { x with permits := permitAdd x.permits s.ck cls cnt }
      .ok (((s1.noteRequest s.ck (coreDie (coreOf snd)) none).replyG d stDone).wakePermit snd))

/-! ## Arrival (R94, R117, R118) -/

/-- A class of a core of a launch can have a message: 0 where nothing of that launch takes it, 1 where the launch is SAVED
and its image binds the class, 2 where the core belongs to the launch and binds it (R2, R116, R294). -/
def State.classReach (s : State) (ck cls : Nat) (lid : Option Nat) : Nat :=
  if !(s.die (coreDie ck)).online then 0
  else if (s.cor ck).launch == lid then (if ((s.cor ck).classes.find cls).isSome then 2 else 0)
  else
    match lid.bind fun l => (s.launches.get Launch.init l).images.find ck with
    | some c => if (c.classes.find cls).isSome then 1 else 0
    | none => 0

/-- A message waits in the trap queue of a die (R94). -/
def State.waitQueued (s : State) (ck : Nat) (p : Post) : State :=
  s.modDie (coreDie ck) fun d => { d with trapQ := d.trapQ ++ [p] }

/-- The destination of a `msg.send` acknowledges its message to the sender, whose core counts it (R280, R301). -/
def State.ackSend (s : State) (ck : Nat) (p : Post) : State :=
  let t := p.msg.sender
  let k := coreOf t
  let a : Ask := { die := coreDie ck, seq := (s.cor k).seq.get 0 (coreDie ck), off := 0, n := 8 }
  if (s.cor k).launch != p.lid then s
  else
    let s := (s.modCor k fun c => { c with sentCount := c.sentCount + 1 }).noteRequest k a.die none
    if coreDie k = a.die then s else s.modThr t fun x => if x.st = .waiting then { x with asked := [a] } else x

/-- A posted message reaches its core: it is queued in the mailbox, which has a slot for each message under a permit; another
waits in its die's trap queue where the slots are full or others of its core wait there, and any where its launch is SAVED
(R94, R117, R294). -/
def State.reach (s : State) (ck : Nat) (p : Post) : State :=
  let s := if p.msg.permitted then s.ackSend ck p else s
  if s.classReach ck p.msg.cls p.lid = 1 then s.waitQueued ck p
  else if !p.msg.permitted && ((s.cor ck).mailFull false ||
      (s.die (coreDie ck)).trapQ.any fun q => q.core == some ck && q.lid == p.lid) then s.waitQueued ck p
  else s.queueMsg ck p.msg

/-- A message that the Xilux service receives: it forwards a TRANSLATION record unchanged to the destination that
`ktvec` named at the trap (R94). -/
def State.serviceReceives (s : State) (p : Post) : State :=
  let s := { s with service := p :: s.service }
  match p.fwd with
  | some (ck, cls, lid) =>
    if s.classReach ck cls lid = 0 then s else s.reach ck (recordPost p.src (some (ck, cls, lid)) p.msg.words)
  | none => s

/-- A posted message arrives: at its core, or where no class of its launch takes it, at the service (R94, R117, R118); one
under a permit goes with its launch (R91). -/
def State.deliver (s : State) (p : Post) : State :=
  match p.core with
  | none => s.serviceReceives p
  | some ck =>
    if s.classReach ck p.msg.cls p.lid ≠ 0 then s.reach ck p
    else if p.msg.permitted then s else s.serviceReceives p

/-- A waiting message can go into its mailbox now (R94, R294). -/
def State.canQueue (s : State) (p : Post) : Bool :=
  match p.core with
  | some ck => s.classReach ck p.msg.cls p.lid == 2 && !(s.cor ck).mailFull p.msg.permitted
  | none => false

/-- The first message of a trap queue that can go into its mailbox, and the queue without it. -/
def takeQueued (s : State) : List Post → Option (Post × List Post)
  | [] => none
  | p :: r =>
    if s.canQueue p then some (p, r)
    else (takeQueued s r).map fun q => (q.1, p :: q.2)

/-- TRAP_QUEUE_DELIVERY: a waiting message is delivered as space frees (R94, R117). -/
def execTrapQueueDelivery (die : Nat) (s : State) : Host.Outcome State Fault Refusal :=
  match takeQueued s (s.die die).trapQ with
  | none => .next s
  | some (p, r) => .next ((s.modDie die fun d => { d with trapQ := r }).queueMsg (p.core.getD 0) p.msg)

end Sys2Proof.Machine
end

