-- ==== Sys2Proof/Machine/Cluster.lean ====
section
/-! DEFINITION. The cluster: peg line, joint array, sparsity forms (R222 to R237). -/

namespace Sys2Proof.Machine

/-! ## One matrix step (R71 to R75) -/

/-- A block: 16 levels and its scale in units of 2^-32. -/
structure Blk where
  levels : List FVal
  units : Nat
  deriving DecidableEq, Repr

/-- The zero value. -/
def zeroVal : FVal := .fin false 0 0

/-- A block from its header and payload (R57 to R65, R73): `ty` is 0 FP16, 1 BF16, 2 `blk4`, 3 `blk8`. -/
def blockOf (tabs : AMap (BitVec 19)) (ty hdr payload : Nat) : Blk :=
  let c : Core := { Core.init with tabs := tabs }
  let blk := fun (w : BlkW) =>
    if hdr % 8 = 7 then ({ levels := List.replicate 16 (.nan false 0x200), units := 2 ^ 32 } : Blk)
    else if hdr / 8 % 256 = 0 then { levels := List.replicate 16 zeroVal, units := 0 }
    else { levels := (List.range 16).map fun i => c.level w (hdr % 8) (codeAt w payload i), units := scaleUnits (hdr / 8 % 256) }
  match ty with
  | 0 => { levels := (List.range 16).map fun i => unpack fmt16 (payload / 2 ^ (16 * i) % 65536), units := 2 ^ 32 }
  | 1 => { levels := (List.range 16).map fun i => unpack fmtB16 (payload / 2 ^ (16 * i) % 65536), units := 2 ^ 32 }
  | 2 => blk .blk4
  | _ => blk .blk8

/-- The sum of the surviving terms of a pair of blocks: none where every term is dropped (R72, R74); a finite sum is in
units of 2^-272. -/
def termSum (a b : List FVal) : Option FVal :=
  let ts := (a.zip b).filter fun p => !p.1.isZero && !p.2.isZero
  if ts.isEmpty then none
  else if ts.any fun p => p.1.isNan || p.2.isNan then some (.nan false 0x200)
  else
    let infs := (ts.filter fun p => p.1.isInf || p.2.isInf).map fun p => p.1.neg ^^ p.2.neg
    match infs with
    | n :: r => if r.all (· == n) then some (.inf n) else some (.nan false 0x200)
    | [] =>
      let t := (ts.map fun p => levelUnits p.1 * levelUnits p.2).sum
      some (.fin (decide (t < 0)) t.natAbs (-272))

/-- One step of R71 into an accumulator element. -/
def mmStep (a b : Blk) (acc : BitVec 32) : BitVec 32 :=
  let nan : BitVec 32 := 0x7FC00000
  match termSum a.levels b.levels with
  | none => acc
  | some (.nan _ _) => nan
  | some (.inf n) =>
    if a.units * b.units = 0 then nan
    else
      match unpack fmt32 acc.toNat with
      | .nan _ _ => nan
      | .inf m => if m = n then acc else nan
      | .fin _ _ _ => BitVec.ofNat 32 (infBits fmt32 n)
  | some (.fin n m e) =>
    match unpack fmt32 acc.toNat with
    | .nan _ _ => nan
    | .inf _ => acc
    | .fin n1 m1 e1 => BitVec.ofNat 32 (roundSum fmt32 0 n1 m1 e1 n (m * a.units * b.units) (e - 64)).1

/-! ## The descriptor (R228, Tables 11-3, 11-4) -/

/-- A field of a captured descriptor. -/
def GangArr.field (x : GangArr) (off n : Nat) : Nat := fieldOf x.desc off n

def GangArr.ta (x : GangArr) : Nat := x.field 0 1
def GangArr.tb (x : GangArr) : Nat := x.field 1 1
def GangArr.acc (x : GangArr) : Nat := x.field 2 1
def GangArr.clear (x : GangArr) : Bool := x.field 3 1 % 2 == 1
def GangArr.pk (x : GangArr) : Bool := x.field 3 1 / 2 % 2 == 1
def GangArr.s24 (x : GangArr) : Bool := x.field 3 1 / 4 % 2 == 1
def GangArr.kb (x : GangArr) : Nat := x.field 4 2
def GangArr.live (x : GangArr) : Nat := x.field 8 8

/-- The live K blocks, ascending. -/
def GangArr.liveBlocks (x : GangArr) : List Nat := (List.range x.kb).filter fun j => x.live / 2 ^ j % 2 == 1

/-- Stored A blocks of a row: NA (R229). -/
def GangArr.na (x : GangArr) : Nat := if x.pk then x.liveBlocks.length else x.kb

/-- Payload bytes of a block of a type (R229). -/
def gangBytes (ty : Nat) : Nat := if ty = 2 then 8 else if ty = 3 then 16 else 32

/-- Payload bytes of a stored B block: half with `s24` (R229). -/
def GangArr.bBytes (x : GangArr) : Nat := if x.s24 then gangBytes x.tb / 2 else gangBytes x.tb

/-- Scratchpad ranges of the operands in the descriptor's field order: base, bytes, alignment (R229, R230). -/
def GangArr.ranges (x : GangArr) : List (Nat × Nat × Nat) :=
  [(x.field 0x20 4, 16 * x.na * gangBytes x.ta, 8), (x.field 0x24 4, if 2 ≤ x.ta then 32 * x.na else 0, 2),
   (x.field 0x28 4, 16 * x.kb * x.bBytes, 8), (x.field 0x2C 4, if 2 ≤ x.tb then 32 * x.kb else 0, 2),
   (x.field 0x30 4, if x.s24 then 32 * x.kb else 0, 2)]

/-- The non-zero bytes of a field that must be zero, as failures of reason 1 (R230). -/
def GangArr.nonZero (x : GangArr) (off n : Nat) : List (Nat × Nat) :=
  ((List.range n).filter fun i => x.field (off + i) 1 != 0).map fun i => (off + i, 1)

/-- The bytes of a scratchpad address that must be zero: an address has 18 bits (R230). -/
def GangArr.badAddr (x : GangArr) (off : Nat) : List (Nat × Nat) :=
  (if x.field (off + 2) 1 / 4 != 0 then [(off + 2, 1)] else []) ++ x.nonZero (off + 3) 1

/-- The descriptor bytes that must be zero and are not (R230 step 3, reason 1). -/
def GangArr.badZeros (x : GangArr) : List (Nat × Nat) :=
  (if x.field 3 1 / 8 != 0 then [(3, 1)] else []) ++ x.nonZero 6 2 ++ x.nonZero 0x10 16 ++
  [0x20, 0x24, 0x28, 0x2C, 0x30].flatMap x.badAddr ++ x.nonZero 0x34 12 ++
  (if x.ta < 2 then x.nonZero 0x24 4 else []) ++ (if x.tb < 2 then x.nonZero 0x2C 4 else []) ++
  (if x.s24 then [] else x.nonZero 0x30 4)

/-- The descriptor bytes out of range (R230 step 3, reasons 2 to 4). -/
def GangArr.badRanges (x : GangArr) : List (Nat × Nat) :=
  (if 4 ≤ x.ta then [(0, 2)] else []) ++ (if 4 ≤ x.tb then [(1, 2)] else []) ++ (if 4 ≤ x.acc then [(2, 2)] else []) ++
  (if x.kb = 0 ∨ 64 < x.kb then [(4, 3)] else []) ++
  ((List.range 64).filter fun j => decide (x.kb ≤ j) && x.live / 2 ^ j % 2 == 1).map (fun j => (8 + j / 8, 3)) ++
  (if x.live = 0 then [(8, 4)] else [])

/-- The descriptor bytes that fail R230 step 3, each with its reason. -/
def GangArr.badBytes (x : GangArr) : List (Nat × Nat) := x.badZeros ++ x.badRanges

/-- The failure reported: the lowest byte, then the lowest reason (R230). -/
def leastBad : List (Nat × Nat) → Option (Nat × Nat)
  | [] => none
  | x :: r =>
    match leastBad r with
    | none => some x
    | some y => if y.1 < x.1 ∨ (y.1 = x.1 ∧ y.2 < x.2) then some y else some x

/-- The SPARSE_FORMAT trap (R230, R237). -/
def sparseTrap (info reason : Nat) : Stop :=
  .trap { cause := cSparseFormat, info := BitVec.ofNat 64 (info + reason * 2 ^ 20) }

/-- R230 step 4, in field order. -/
def gangAlign : List (Nat × Nat × Nat) → Except Stop Unit
  | [] => .ok ()
  | (b, _, al) :: r => do
    trapIf (b % al != 0) cMisaligned (BitVec.ofNat 64 b)
    gangAlign r

/-- R230 step 5, in field order. -/
def gangExtent (limit : Nat) : List (Nat × Nat × Nat) → Except Stop Unit
  | [] => .ok ()
  | (b, n, _) :: r => do
    trapIf (n != 0 && decide (limit < b + n)) cScratchBounds (BitVec.ofNat 64 (max b limit))
    gangExtent limit r

/-- An index word has p0 < p1 in every group (R229). -/
def idxGood (w : Nat) : Bool := (List.range 4).all fun g => decide (w / 2 ^ (4 * g) % 4 < w / 2 ^ (4 * g + 2) % 4)

/-- `n` items of some bytes each, from the scratchpad (R229). -/
def Core.items (c : Core) (base size n : Nat) : List Nat := (List.range n).map fun i => c.scrRead (base + size * i) size

/-- The failing header of the lowest address among those of A and B (R230 step 7). -/
def gangHeaderBad (abase : Nat) (as : List Nat) (bbase : Nat) (bs : List Nat) : Option (Nat × Nat) :=
  leastBad (((as.zipIdx.map fun h => (abase + 2 * h.2, h.1)) ++ (bs.zipIdx.map fun h => (bbase + 2 * h.2, h.1))).filterMap
    fun e => (headerBad e.2).map fun c => (e.1, c))

/-- No word of a range that these checks read is uncorrectable (R281). -/
def State.rangePoison (s : State) (x : Nat × Nat × Nat) : Except Stop Unit :=
  if x.2.1 = 0 then .ok () else s.scrPoison x.1 x.2.1

/-- A core as an engine reads it: an uncorrectable word of its scratchpad is a free value (R281). -/
def Core.freed (c : Core) (n : Nat) : Core :=
  { c with scratch := c.spoison.foldl (fun m e => AMap.put 0 m e.1 (Config.lostBits n e.1)) c.scratch }

/-- The cluster of the issuing core. -/
def State.cl (s : State) : Nat := clusterOf s.ck

/-- R225: all eight cores belong to the issuing thread's launch. -/
def State.gangMember (s : State) : Except Stop Unit :=
  trapIf (!(List.range 8).all fun i => s.sameLaunch (8 * s.cl + i)) cPermission (BitVec.ofNat 64 s.cur)

/-- The local checks of `gang.mm` and what they capture (R230). -/
def State.gangChecks (s : State) (d : Reg) (ga : Word) : Except Stop GangArr := do
  let la ← scrAddr ga
  trapIf (la % 8 != 0) cMisaligned ga
  trapIf (decide (s.scrLimit < la + 64)) cScratchBounds ga
  s.gangMember
  s.scrPoison la 64
  let x : GangArr :=
    { pos := s.ck % 8, thread := s.cur, d := d, mm := true, desc := (List.range 64).map fun i => s.co.scrByte (la + i),
      ahdr := [], bhdr := [], bidx := [], tabs := s.co.tabs, apay := [], bpay := [] }
  match leastBad x.badBytes with
  | some (off, why) => .error (sparseTrap (la + off) why)
  | none => do
    gangAlign x.ranges
    gangExtent s.scrLimit x.ranges
    s.rangePoison (x.ranges.getD 4 (0, 0, 0))
    let bidx := if x.s24 then s.co.items (x.field 0x30 4) 2 (16 * x.kb) else []
    match bidx.findIdx? fun w => !idxGood w with
    | some k => .error (sparseTrap (x.field 0x30 4 + 2 * k) 5)
    | none => do
      s.rangePoison (x.ranges.getD 1 (0, 0, 0))
      s.rangePoison (x.ranges.getD 3 (0, 0, 0))
      let ahdr := if 2 ≤ x.ta then s.co.items (x.field 0x24 4) 2 (16 * x.na) else []
      let bhdr := if 2 ≤ x.tb then s.co.items (x.field 0x2C 4) 2 (16 * x.kb) else []
      match gangHeaderBad (x.field 0x24 4) ahdr (x.field 0x2C 4) bhdr with
      | some (a, cause) => .error (.trap { cause := cause, info := BitVec.ofNat 64 a })
      | none => .ok { x with ahdr := ahdr, bhdr := bhdr, bidx := bidx }

/-! ## The peg line (R223 to R226) -/

/-- The lowest differing offset of an arrival from that of position 0, if it differs (R224). -/
def arrivalDiff (x y : GangArr) : Option Nat :=
  if x.mm != y.mm then some 0x1F
  else if !x.mm then none
  else (List.range 32).find? fun i => x.field i 1 != y.field i 1

/-- The `kinfo` of GANG_MISMATCH, if the eight arrivals do not compare equal (R224). -/
def mismatchInfo (xs : List GangArr) : Option Nat :=
  match xs.find? (·.pos == 0) with
  | none => none
  | some z =>
    let ds := xs.filterMap fun x => (arrivalDiff z x).map fun o => (x.pos, o)
    if ds.isEmpty then none
    else some ((ds.map fun e => 2 ^ e.1).sum + ((ds.map (·.2)).foldl min 0x1F) * 256)

/-- Waiting threads of a core whose wait a test selects are READY again. -/
def State.wakeCore (s : State) (ck : Nat) (p : WaitKind → Bool) : State :=
  (List.range 16).foldl (fun s c => s.modThr (threadOf ck c) fun x =>
    if x.st = .waiting ∧ (x.wait.map fun w => p w.kind) = some true then x.wake else x) s

/-- The cores of a cluster whose earlier arrival is over let their next arrival in (R223). -/
def State.wakeArrivals (s : State) (cl : Nat) : State :=
  (List.range 8).foldl (fun s i => s.wakeCore (8 * cl + i) (· == .arrival)) s

/-- An arrival withdrawn (R133, R223). -/
def State.withdrawArrival (s : State) (t : Nat) : State :=
  let cl := clusterOf (coreOf t)
  (s.modClu cl fun k => { k with arrivals := k.arrivals.filter (·.thread != t) }).wakeArrivals cl

/-- The payloads of an arrival, read at the join (R232). A dead block's payload is never used (R231). DESIGN CHOICE (log
entry 76): a part does not stop at an uncorrectable payload word; what it reads there is a free value. -/
def GangArr.load (x : GangArr) (c : Core) : GangArr :=
  { x with apay := c.items (x.field 0x20 4) (gangBytes x.ta) (16 * x.na), bpay := c.items (x.field 0x28 4) x.bBytes (16 * x.kb) }

/-- A waiting arrival's thread ends with a status; one that has left its wait meanwhile is left alone. -/
def State.endArrival (s : State) (x : GangArr) (status : Word) : State :=
  s.modThr x.thread fun t => if t.st = .waiting ∧ t.wait.map (·.kind) = some .peg then t.endWait x.d status else t

/-- The eighth arrival: a mismatch traps all eight, a bare barrier completes, and a `gang.mm` phase begins (R224, R226,
R231). -/
def State.pegJoin (s : State) (cl : Nat) (xs : List GangArr) : State :=
  let s := s.modClu cl fun k => { k with arrivals := [] }
  match mismatchInfo xs with
  | some info =>
    (xs.foldl (fun s x => s.takeTrap x.thread { cause := cGangMismatch, info := BitVec.ofNat 64 info }) s).wakeArrivals cl
  | none =>
    if xs.any (·.mm) then
      let (n, s) := s.draw
      let s1 := xs.foldl (fun s x => s.modThr x.thread fun t =>
        { t with wait := t.wait.map fun w => { w with e := 15 } }) s
      s1.modClu cl fun k =>
        { k with joined := (List.range 8).filterMap fun p =>
                   (xs.find? (·.pos == p)).map fun x => x.load ((s.cor (8 * cl + p)).freed n),
                 running := List.range 8 }
    else (xs.foldl (fun s x => s.endArrival x stDone) s).wakeArrivals cl

/-- The core holds an arrival, or its arrival belongs to the phase in progress (R223). -/
def State.pegBusy (s : State) : Bool :=
  (s.clu s.cl).arrivals.any (·.pos == s.ck % 8) || !(s.clu s.cl).running.isEmpty

/-- An arrival is made, its local checks having passed (R223). One that waits for its core's earlier arrival keeps what
the checks captured (R230). DESIGN CHOICE (log entry 126): one with `e` = 0 that is not the eighth is over at its issue, and does not
count for arrivals that follow in the same tick. -/
def State.arrive (s : State) (x : GangArr) (e : BitVec 4) : State :=
  if s.pegBusy then (s.modTh fun t => { t with gangAt := some x }).timed .arrival x.d e stTimeout
  else
    let xs := (s.clu s.cl).arrivals ++ [x]
    if xs.length = 8 then
      ((s.modTh fun t => t.block s.tick .waiting .peg x.d 15)).pegJoin s.cl xs
    else if e = 0 then s.timed .peg x.d e stTimeout
    else (s.modClu s.cl fun k => { k with arrivals := xs }).timed .peg x.d e stTimeout

/-- `gang.mm` (R230, R231): its checks are made once, at its issue. -/
def execGangMm (e : BitVec 4) (d a : Reg) (s : State) : Host.Outcome State Fault Refusal :=
  finish s (do
    let x ← match s.th.gangAt with
      | some x => .ok x
      | none => s.gangChecks d (s.rg a)
    .ok (s.arrive x e))

/-- `gang.peg` (R225, R226). -/
def execGangPeg (e : BitVec 4) (d : Reg) (s : State) : Host.Outcome State Fault Refusal :=
  finish s (do
    s.gangMember
    .ok (s.arrive { pos := s.ck % 8, thread := s.cur, d := d, mm := false, desc := [], ahdr := [], bhdr := [], bidx := [],
                    tabs := [], apay := [], bpay := [] } e))

/-! ## A part (R231) -/

/-- Stored A block `t` of row `r`. -/
def GangArr.aBlock (x : GangArr) (r t : Nat) : Blk :=
  let b := r * x.na + t
  blockOf x.tabs x.ta (x.ahdr.getD b 0) (x.apay.getD b 0)

/-- The positions that a 2:4 index word keeps, in stored order (R229). -/
def keptPositions (w : Nat) : List Nat :=
  (List.range 8).map fun e => 4 * (e / 2) + w / 2 ^ (4 * (e / 2) + 2 * (e % 2)) % 4

/-- K block `j` of column `n` of a B tile; pruned positions have level +0 (R229, R231). -/
def GangArr.bBlock (x : GangArr) (n j : Nat) : Blk :=
  let b := n * x.kb + j
  let full := blockOf x.tabs x.tb (x.bhdr.getD b 0) (x.bpay.getD b 0)
  if x.s24 then
    let kept := keptPositions (x.bidx.getD b 0)
    { full with levels := (List.range 16).map fun i =>
        match kept.findIdx? (· == i) with
        | some e => full.levels.getD e zeroVal
        | none => zeroVal }
  else full

/-- One accumulator element of a part: every live block pair in increasing K (R71, R231). -/
def partElem (a b : GangArr) (r n : Nat) (acc : BitVec 32) : BitVec 32 :=
  a.liveBlocks.zipIdx.foldl (fun acc k => mmStep (a.aBlock r (if a.pk then k.2 else k.1)) (b.bBlock n k.1) acc) acc

/-- The index of an accumulator element (R222). -/
def accIdx (a r n : Nat) : Nat := a * 2048 + r * 128 + n

/-- An element written. -/
def Core.setAcc (c : Core) (i : Nat) (x : BitVec 32) : Core := { c with acc := AMap.put 0 c.acc i x }

/-- An accumulator set to +0 (R233). -/
def Core.zeroAcc (c : Core) (a : Nat) : Core := { c with acc := c.acc.filter fun e => e.1 / 2048 != a }

/-- The accumulators of a core after its part: B tile `j` gives columns 16j to 16j + 15 (R231). -/
def Core.partDone (c : Core) (me : GangArr) (tiles : List GangArr) : Core :=
  let c := if me.clear then c.zeroAcc me.acc else c
  tiles.foldl (fun c b =>
    (List.range 256).foldl (fun c k =>
      let r := k / 16
      let n := k % 16
      let i := accIdx me.acc r (16 * b.pos + n)
      c.setAcc i (partElem me b r n (c.acc.get 0 i))) c) c

/-! ## Accumulator forms (R232, R233) -/

/-- A running part of the issuing core writes this accumulator (R232). -/
def State.accBusy (s : State) (a : Nat) : Bool :=
  let k := s.clu s.cl
  k.running.contains (s.ck % 8) && (k.joined.any fun x => x.pos == s.ck % 8 && x.acc == a)

/-- An accumulator form: it waits while a part writes its accumulator (R232). -/
def State.accForm (s : State) (a : Nat) (f : State) : Host.Outcome State Fault Refusal :=
  if s.accBusy a then .next (s.modTh fun t => t.block s.tick .waiting (.accumulator a) 0 15) else .next f

/-- What `gang.rdacc` does (R233). -/
def State.rdacc (s : State) (d a : Reg) : State :=
  let g := s.rg a
  s.modTh fun t => (t.setV d (lanesTo 32 fun i =>
    (s.co.acc.get 0 (accIdx (bitsAt g 0 2) (bitsAt g 2 4) (16 * bitsAt g 6 3 + i))).toNat)).retire

/-- What `gang.wracc` does (R233). -/
def State.wracc (s : State) (d a : Reg) : State :=
  let g := s.rg a
  let v := s.th.rv d
  (s.modCo fun c => (List.range 16).foldl (fun c i =>
    c.setAcc (accIdx (bitsAt g 0 2) (bitsAt g 2 4) (16 * bitsAt g 6 3 + i)) (BitVec.ofNat 32 (lane 32 v i))) c).done

/-- What `gang.zacc` does (R233). -/
def State.zacc (s : State) (a : Reg) : State := (s.modCo fun c => c.zeroAcc (bitsAt (s.rg a) 0 2)).done

/-- `gang.rdacc` (R233). -/
def execGangRdacc (d a : Reg) (s : State) : Host.Outcome State Fault Refusal :=
  s.accForm (bitsAt (s.rg a) 0 2) (s.rdacc d a)

/-- `gang.wracc` (R233). -/
def execGangWracc (d a : Reg) (s : State) : Host.Outcome State Fault Refusal :=
  s.accForm (bitsAt (s.rg a) 0 2) (s.wracc d a)

/-- `gang.zacc` (R233). -/
def execGangZacc (a : Reg) (s : State) : Host.Outcome State Fault Refusal :=
  s.accForm (bitsAt (s.rg a) 0 2) (s.zacc a)

/-- The accumulator form that a thread waits with is performed (R232). -/
def State.accGo (s : State) (t : Nat) : State :=
  let s1 := { s with cur := t }
  let s2 := match decode (s.thr t).word.toNat with
    | .ok (.gangRdacc d a) => s1.rdacc d a
    | .ok (.gangWracc d a) => s1.wracc d a
    | .ok (.gangZacc a) => s1.zacc a
    | _ => s1.modTh Thread.wake
  { s2 with cur := s.cur }

/-- The contexts of a core that wait for an accumulator, in the order in which they act on it (R232). DESIGN CHOICE (log entry
116): the order of their issue. -/
def State.accWaiters (s : State) (ck a : Nat) : List Nat :=
  ((List.range 16).filter fun c =>
    (s.thr (threadOf ck c)).st == .waiting && (s.thr (threadOf ck c)).wait.map (·.kind) == some (.accumulator a)).insertionSort
      fun c d => (s.cor ck).issued.get 0 c ≤ (s.cor ck).issued.get 0 d

/-- Forms that wait for an accumulator act on the result of its part, in the order of their issue, before anything else
does (R232). -/
def State.accDone (s : State) (ck a : Nat) : State :=
  (s.accWaiters ck a).foldl (fun s c => s.accGo (threadOf ck c)) s

/-- GANG_PART_COMPLETE: the part of a ring position completes with DONE; the phase ends with the last part (R223,
R231, R232). -/
def execGangPartComplete (cl p : Nat) (s : State) : Host.Outcome State Fault Refusal :=
  let k := s.clu cl
  if !k.running.contains p then .next s
  else
    match k.joined.find? (·.pos == p) with
    | none => .next s
    | some me =>
      let ck := 8 * cl + p
      let rest := k.running.filter (· != p)
      let s1 := (s.modCor ck fun c => c.partDone me k.joined).endArrival me stDone
      let s2 := s1.modClu cl fun k => { k with running := rest, joined := if rest.isEmpty then [] else k.joined }
      let s3 := s2.accDone ck me.acc
      .next (if rest.isEmpty then s3.wakeArrivals cl else s3)

/-! ## Sparsity (R235 to R237) -/

/-- Bytes of an element type (R235). -/
def elemTyBytes : ElemTy → Nat
  | .w => 4
  | .h => 2

/-- An exact zero: the bits other than the sign are zero (R235). -/
def exactZero (x : ElemTy) (v : Nat) : Bool := v % 2 ^ (8 * elemTyBytes x - 1) == 0

/-- K block `j` of some row holds an element that is no exact zero (R236). -/
def Core.blockLive (c : Core) (x : ElemTy) (base rows kb j : Nat) : Bool :=
  let w := elemTyBytes x
  (List.range rows).any fun r => (List.range 16).any fun i =>
    !exactZero x (c.scrRead (base + w * (r * 16 * kb + 16 * j + i)) w)

/-- The live K blocks, ascending (R236). -/
def Core.liveBlocks (c : Core) (x : ElemTy) (base rows kb : Nat) : List Nat :=
  (List.range kb).filter (c.blockLive x base rows kb)

/-- The bitmap and the list of the live blocks of a scan written: every element is read before any list byte (R236, R325). -/
def State.scanInto (s : State) (d : Reg) (list : Nat) (js : List Nat) : State :=
  (s.modCo fun c => c.scrWrite list (js.map fun j => BitVec.ofNat 8 j)).replyG d (BitVec.ofNat 64 (js.map (2 ^ ·)).sum)

/-- `sprs.scan` (R236, R325). DESIGN CHOICE (log entry 103): the data range is tested for SCRATCH_BOUNDS before the list range, each
with its own address in `kinfo`. -/
def execSprsScan (x : ElemTy) (d a b : Reg) (s : State) : Host.Outcome State Fault Refusal :=
  let ga := s.rg a
  let gb := s.rg b
  let kb := bitsAt gb 0 7
  let rows := bitsAt gb 8 4 + 1
  let list := bitsAt gb 32 18
  let w := elemTyBytes x
  finish s (do
    if kb = 0 ∨ 64 < kb then .error (sparseTrap (bitsAt ga 0 18) 3)
    let la ← scrAddr ga
    trapIf (la % w != 0) cMisaligned ga
    trapIf (decide (s.scrLimit < la + rows * 16 * kb * w)) cScratchBounds ga
    trapIf (decide (s.scrLimit < list + kb)) cScratchBounds (BitVec.ofNat 64 list)
    s.scrPoison la (rows * 16 * kb * w)
    let js := s.co.liveBlocks x la rows kb
    if js ≠ [] then s.scrPartPoison list js.length
    .ok (s.scanInto d list js))

/-- The two kept positions of a group of four elements, or none where more than two are non-zero (R237). -/
def keepTwo (nz : List Nat) : Option (Nat × Nat) :=
  match nz with
  | [] => some (0, 1)
  | [p] => if p = 0 then some (0, 1) else some (0, p)
  | [p, q] => some (p, q)
  | _ => none

/-- The 2:4 index word of 16 elements, or the first group that has more than two non-zero ones (R237). -/
def s24Word (nz : Nat → Bool) : List Nat → Except Nat Nat
  | [] => .ok 0
  | g :: r =>
    match keepTwo ((List.range 4).filter fun i => nz (4 * g + i)) with
    | none => .error g
    | some (p, q) => do
      let w ← s24Word nz r
      .ok (w + p * 2 ^ (4 * g) + q * 2 ^ (4 * g + 2))

/-- `sprs.s24` (R237). -/
def execSprsS24 (x : ElemTy) (d a : Reg) (s : State) : Host.Outcome State Fault Refusal :=
  let v := s.th.rv a
  match s24Word (fun i => !exactZero x (lane (8 * elemTyBytes x) v i)) [0, 1, 2, 3] with
  | .error g => finish s (.error (sparseTrap g 6))
  | .ok w => .next (s.outG d (BitVec.ofNat 64 w))

end Sys2Proof.Machine
end

