-- ==== Sys2Proof/Machine/Copies.lean ====
section
/-! DEFINITION. Copy units, landing slots and pins (R282 to R287). -/

namespace Sys2Proof.Machine

/-- A status word: a status, or a granted number in [63:8] with DONE (R283, R285). -/
def grantWord (i : Nat) : Word := BitVec.ofNat 64 (i * 256)

/-- A landing slot. -/
def Core.slot (c : Core) (i : Nat) : Slot := c.slots.get Slot.none i

/-- A landing slot written. -/
def Core.setSlot (c : Core) (i : Nat) (x : Slot) : Core := { c with slots := c.slots.set i x }

/-- `cpy.slot` (R283). -/
def execCpySlot (d a b : Reg) (s : State) : Host.Outcome State Fault Refusal :=
  let ga := s.rg a
  let base := bitsAt ga 0 18
  let len := bitsAt ga 32 19
  finish s (do
    trapIf (base % 8 != 0 || len % 8 != 0 || decide (len < 8)) cMisaligned ga
    trapIf (decide (s.scrLimit < base + len)) cScratchBounds ga
    match (List.range 32).find? fun i => (s.co.slot i).st == .free with
    | none => .ok (s.pureG d stBusy)
    | some i =>
      let x : Slot := { base := base, len := len, ctx := ctxOf s.cur, cls := bitsAt (s.rg b) 0 4, st := .granted, running := 0 }
      .ok ((s.modCo fun c => c.setSlot i x).replyG d (grantWord i)))

/-- `cpy.free` (R283). -/
def execCpyFree (d a : Reg) (s : State) : Host.Outcome State Fault Refusal :=
  let i := bitsAt (s.rg a) 0 5
  let x := s.co.slot i
  finish s (do
    trapIf (x.st != .free && x.ctx != ctxOf s.cur) cPermission (s.rg a)
    match x.st with
    | .free => .ok (s.pureG d stCancelled)
    | .filling => .ok (s.pureG d stBusy)
    | _ => .ok ((s.modCo fun c => c.setSlot i { x with st := .free }).replyG d stDone))

/-- The pieces of a range, one per 4 KiB page; the fuel is the number of pages. -/
def rangePieces : Nat → Nat → Nat → List (Nat × Nat)
  | 0, _, _ => []
  | k + 1, va, n =>
    let r := 4096 - va % 4096
    if n ≤ r then [(va, n)] else (va, r) :: rangePieces k ((va + r) % 2 ^ 64) (n - r)

/-- R166 steps 2 and 3 for one page after the other, by the cached translations (R277, R284, R285). -/
def State.rangePages (s : State) (acc : Acc) (ok : Word → Bool) : List (Nat × Nat) → Except Stop (List Part)
  | [] => .ok []
  | (va, n) :: r => do
    let p ← s.pagePart acc va n
    trapIf (!ok p.pte) cKindMismatch (BitVec.ofNat 64 va)
    let ps ← s.rangePages acc ok r
    .ok (p :: ps)

/-- R166 steps 1 to 3 for the pages of a range. -/
def State.rangeParts (s : State) (acc : Acc) (ok : Word → Bool) (l : List (Nat × Nat)) : Except Stop (List Part) := do
  canonChecks l
  s.rangePages acc ok l

/-- The piece of memory of a part (R284). -/
def Part.piece (p : Part) : Piece := { pa := p.pa, n := p.n, bd := pteBd p.pte }

/-- The copy unit of a core: a die's copies are spread over its units by source core (R284). -/
def copyUnit (ck : Nat) : Nat := ck % 16

/-- The queue of a copy unit. -/
def Die.copyQ (d : Die) (u : Nat) : List Copy := d.copies.get [] u

/-- The queue of a copy unit written. -/
def Die.setCopyQ (d : Die) (u : Nat) (q : List Copy) : Die := { d with copies := d.copies.set u q }

/-- What the issuing core holds for memory goes home before a copy of its moves a word: stores performed at their home, which
the copy may read (R344), and for `cpy.out` its dirty words in the range, which stand before the words of the copy in
coherence order (R339). -/
def State.beforeCopy (s : State) (c : Copy) : State :=
  let ck := coreOf c.thread
  let s := if c.isIn then s else c.pieces.foldl (fun s p =>
    (List.range (p.n / 128 + 2)).foldl (fun s i => if p.pa / 128 + i ≤ (p.pa + p.n - 1) / 128 then s.l1Clean ck (p.pa / 128 + i) else s) s) s
  s.wtDrain ck

/-- A copy offered to its unit: accepted, or the form waits, BUSY being its expiry status (R284). -/
def State.offerCopy (s : State) (e : BitVec 4) (d : Reg) (c : Copy) : State :=
  let die := coreDie s.ck
  let u := copyUnit s.ck
  if ((s.die die).copyQ u).length < 16 then
    let s1 := s.modDie die fun x => x.setCopyQ u (x.copyQ u ++ [c])
    let s2 := if c.isIn then s1.modCo fun k =>
        let x := k.slot c.slot
        k.setSlot c.slot { x with st := .filling, running := x.running + 1 } else s1
    s2.replyG d stDone
  else s.timed .copyQueue d e stBusy

/-- R284's checks of a length and an address. -/
def copyAlign (len : Nat) (ga : Word) : Except Stop Unit :=
  trapIf (len % 8 != 0 || decide (len < 8) || decide (262144 < len) || ga.toNat % 8 != 0) cMisaligned ga

/-- `cpy.in` (R284). -/
def execCpyIn (e : BitVec 4) (d a b : Reg) (s : State) : Host.Outcome State Fault Refusal :=
  let ga := s.rg a
  let gb := s.rg b
  let i := bitsAt gb 0 5
  let off := bitsAt gb 8 18
  let len := bitsAt gb 32 19
  let x := s.co.slot i
  finish s (do
    copyAlign len ga
    trapIf (x.st == .free || x.ctx != ctxOf s.cur) cPermission gb
    trapIf (off % 8 != 0 || decide (x.len < off + len)) cScratchBounds gb
    let ps ← s.rangeParts .load (fun p => pteKind p == kPlain) (rangePieces 65 ga.toNat len)
    .ok (s.offerCopy e d { isIn := true, thread := s.cur, slot := i, va := ga.toNat, len := len, cls := x.cls,
                           scr := x.base + off, pieces := ps.map Part.piece, written := 0 }))

/-- `cpy.out` (R284). -/
def execCpyOut (e : BitVec 4) (d a b : Reg) (s : State) : Host.Outcome State Fault Refusal :=
  let ga := s.rg a
  let gb := s.rg b
  let src := bitsAt gb 0 18
  let len := bitsAt gb 32 19
  finish s (do
    copyAlign len ga
    trapIf (src % 8 != 0 || decide (s.scrLimit < src + len)) cScratchBounds gb
    let ps ← s.rangeParts .store (fun p => pteKind p == kPlain) (rangePieces 65 ga.toNat len)
    .ok (s.offerCopy e d { isIn := false, thread := s.cur, slot := 0, va := ga.toNat, len := len, cls := bitsAt gb 56 4,
                           scr := src, pieces := ps.map Part.piece, written := 0 }))

/-! ## The copies (R284, R287) -/

/-- The physical address of a byte offset of some pieces, and whether its page is marked base-die. -/
def pieceAt : List Piece → Nat → Nat × Bool
  | [], _ => (0, false)
  | p :: r, o => if o < p.n then (p.pa + o, p.bd) else pieceAt r (o - p.n)

/-- The physical address of the next word of a copy. -/
def Copy.nextPa (c : Copy) : Nat := (pieceAt c.pieces (8 * c.written)).1

/-- The address that the notice of a copy gives for a next word that cannot be moved: its source is uncorrectable, or its
place is gone (R281, R284, R315). DESIGN CHOICE (log entry 104): a scratchpad word has no physical address; the notice
gives its local byte address. -/
def State.copyFails (s : State) (c : Copy) : Option Nat :=
  let w := c.scr / 8 + c.written
  if c.isIn then if s.lostWord (c.nextPa / 8) then some c.nextPa else none
  else if ((s.cor (coreOf c.thread)).spoison.find w).isSome then some (8 * w)
  else if s.goneWord (c.nextPa / 8) then some c.nextPa
  else none

/-- The next word of a copy moved between its home slice and the scratchpad (R273, R280, R284). Who sees a word of
`cpy.in` in the scratchpad reads nothing older of its line (R337, R339): the clean words of the line leave the core's L1. -/
def State.copyWord (s : State) (c : Copy) : State :=
  let ck := coreOf c.thread
  let w := c.scr / 8 + c.written
  let s := (s.filterEnter c.nextPa (pieceAt c.pieces (8 * c.written)).2).noteRequest ck (homeDie c.nextPa) none
  if c.isIn then (s.l1Forget ck (c.nextPa / 128)).arriveWord ck w (memWord s.mem c.nextPa)
  else s.homeWrite c.nextPa (bytesOf ((s.cor ck).scratch.get 0 w).toNat 8)

/-- Up to `n` further words of a copy moved: the copy as far as it came, and the failing word if one stopped it. -/
def State.copyWords (s : State) (c : Copy) : Nat → State × Copy × Option Nat
  | 0 => (s, c, none)
  | n + 1 =>
    match s.copyFails c with
    | none => (s.copyWord c).copyWords { c with written := c.written + 1 } n
    | some bad => (s, c, some bad)

/-- The notice of a copy (Table 14-6). -/
def State.copyNotice (s : State) (c : Copy) (status pa : Nat) : State :=
  let kind := if c.isIn then 1 else 2
  s.postHw (coreOf c.thread) c.cls
    [BitVec.ofNat 64 (kind + status * 2 ^ 8 + (if c.isIn then c.slot else 0) * 2 ^ 16 + 8 * c.written * 2 ^ 32),
     BitVec.ofNat 64 c.va, BitVec.ofNat 64 c.len, BitVec.ofNat 64 pa, BitVec.ofNat 64 s.tick, 0, 0, 0]

/-- A copy ends: its notice is posted, and a slot with no copy still running is DONE (R284). -/
def State.endCopy (s : State) (c : Copy) (status pa : Nat) : State :=
  let s := s.copyNotice c status pa
  if c.isIn then s.modCor (coreOf c.thread) fun k =>
    let x := k.slot c.slot
    k.setSlot c.slot { x with running := x.running - 1, st := if x.running ≤ 1 then .done else x.st }
  else s

/-- Waiting threads that a test selects are READY again, and their forms are tested again. -/
def State.wakeWhere (s : State) (p : Nat → WaitKind → Bool) : State :=
  { s with threads := s.threads.map fun e =>
      if e.2.st = .waiting ∧ (e.2.wait.map fun w => p e.1 w.kind) = some true then (e.1, e.2.wake) else e }

/-- Forms that wait for a place in a copy unit of a die are tested again. -/
def State.wakeCopies (s : State) (die unit : Nat) : State :=
  s.wakeWhere fun t k => k == .copyQueue && coreDie (coreOf t) == die && copyUnit (coreOf t) == unit

/-- A die that a copy reads or writes is offline. -/
def State.copyLost (s : State) (c : Copy) : Bool :=
  !(s.die (coreDie (coreOf c.thread))).online || c.pieces.any fun p => !(s.die (homeDie p.pa)).online

/-- COPY_COMPLETION: the oldest copy of a unit writes its remaining words and ends (R281, R284). -/
def execCopyCompletion (die unit : Nat) (s : State) : Host.Outcome State Fault Refusal :=
  match (s.die die).copyQ unit with
  | [] => .next s
  | c :: r =>
    let s0 := s.modDie die fun d => d.setCopyQ unit r
    let s1 :=
      if s.copyLost c then s0.endCopy c 3 0
      else
        match (s0.beforeCopy c).copyWords c (c.len / 8 - c.written) with
        | (s1, c, none) => s1.endCopy c 0 0
        | (s1, c, some pa) => s1.endCopy c 8 pa
    .next (s1.wakeCopies die unit)

/-- A range of physical bytes holds one of a copy's. -/
def Copy.touches (c : Copy) (pa n : Nat) : Bool := c.pieces.any fun p => rangesShare p.pa p.n pa n
where
  /-- Two byte ranges share a byte. -/
  rangesShare (a m b n : Nat) : Bool := decide (a < b + n) && decide (b < a + m)

/-- The number of the words of a copy up to the last one in a range of physical bytes. -/
def Copy.wordsTo (c : Copy) (pa n : Nat) : Nat :=
  (List.range (c.len / 8)).foldl (fun k i =>
    let a := (pieceAt c.pieces (8 * i)).1
    if pa ≤ a ∧ a < pa + n then i + 1 else k) 0

/-- One copy meets the unmapping of a range (R287): one of a lost die ends with PEER_LOST (R284), and else how far it has
come is free; it goes on if every word of the range is performed, else it stops with CANCELLED. -/
def State.settleCopy (s : State) (c : Copy) (pa n : Nat) : State × Option Copy :=
  if !c.touches pa n then (s, some c)
  else if s.copyLost c then (s.endCopy c 3 0, none)
  else
    let (k, s) := s.draw
    match (s.beforeCopy c).copyWords c (Config.copiedPart k % (c.len / 8 - c.written + 1)) with
    | (s, c, some bad) => (s.endCopy c 8 bad, none)
    | (s, c, none) => if c.wordsTo pa n ≤ c.written then (s, some c) else (s.endCopy c 4 0, none)

/-- Every copy of a queue meets the unmapping of a range. -/
def State.settleQueue (s : State) (pa n : Nat) : List Copy → State × List Copy
  | [] => (s, [])
  | c :: r =>
    let (s, x) := s.settleCopy c pa n
    let (s, q) := s.settleQueue pa n r
    (s, x.toList ++ q)

/-- Every copy of the package meets the unmapping of a range (R286 step 4). -/
def State.settleCopies (s : State) (pa n : Nat) : State :=
  (List.range 12).foldl (fun s die => (List.range 16).foldl (fun s u =>
    let (s, q) := s.settleQueue pa n ((s.die die).copyQ u)
    (s.modDie die fun d => if d.copyQ u = q then d else d.setCopyQ u q).wakeCopies die u) s) s

/-! ## Pins (R285) -/

/-- The home L2 slice of a line: die x 64 + slice (R271). -/
def l2Slice (kind va pa : Nat) : Nat :=
  if kind = kTiled then sliceKey (homeDie pa) (zoneOf va)
  else homeDie pa * 64 + (pa / 2 ^ 7 % 64 ^^^ pa / 2 ^ 13 % 64 ^^^ pa / 2 ^ 19 % 64 ^^^ pa / 2 ^ 25 % 64)

/-- The lines of a part, each with its slice (R285). -/
def Part.pinLines (p : Part) : List (Nat × Nat) :=
  (List.range (p.n / 128)).map fun i => ((p.pa + 128 * i) / 128, l2Slice (pteKind p.pte) (p.va + 128 * i) (p.pa + 128 * i))

/-- Every pinned line of the package with its slice, once; a SAVED launch keeps its pins (R293). -/
def State.pinnedLines (s : State) : List (Nat × Nat) :=
  ((s.cores ++ s.launches.flatMap (·.2.images)).flatMap fun e => e.2.pins.flatMap (·.lines)).eraseDups

/-- Two lines lie in one set of one slice (R272). -/
def sameSet (x y : Nat × Nat) : Bool := x.2 == y.2 && Config.l2Set x.1 == Config.l2Set y.1

/-- Some set would hold more than twelve pinned ways if more lines were pinned (R285). -/
def wouldPass (pinned new : List (Nat × Nat)) : Bool :=
  let all := new ++ pinned.filter fun l => !new.contains l
  new.any fun x => decide (12 < all.countP (sameSet x))

/-- The fetch of a line that is pinned (R273, R280, R285). -/
def State.pinLine (s : State) (l : Nat × Nat) : State :=
  (s.filterEnter (128 * l.1)).noteRequest s.ck (homeDie (128 * l.1)) none

/-- `cpy.pin` (R285). -/
def execCpyPin (d a b : Reg) (s : State) : Host.Outcome State Fault Refusal :=
  let ga := s.rg a
  let len := bitsAt (s.rg b) 0 23
  let cls := bitsAt (s.rg b) 56 4
  finish s (do
    trapIf (ga.toNat % 128 != 0 || len % 128 != 0 || decide (len < 128) || decide (2 ^ 22 < len)) cMisaligned ga
    let ps ← s.rangeParts .load (fun p => (pteKind p == kPlain || pteKind p == kTiled) && !pteBd p)
      (rangePieces 1025 ga.toNat len)
    let new := ps.flatMap Part.pinLines
    match (List.range 16).find? fun i => !(s.co.pins.any (·.id == i)) with
    | none => .ok (s.pureG d stBusy)
    | some i =>
      if wouldPass s.pinnedLines new then .ok (s.pureG d stBusy)
      else .ok (((new.foldl State.pinLine s).modCo fun c =>
        { c with pins := c.pins ++ [{ id := i, va := ga.toNat, len := len, cls := cls, lines := new }] }).replyG d
          (grantWord i)))

/-- `cpy.unpin` (R285). -/
def execCpyUnpin (d a : Reg) (s : State) : Host.Outcome State Fault Refusal :=
  let i := bitsAt (s.rg a) 0 4
  if s.co.pins.any (·.id == i) then
    .next ((s.modCo fun c => { c with pins := c.pins.filter (·.id != i) }).replyG d stDone)
  else .next (s.pureG d stCancelled)

/-- A line lies in a range of physical bytes. -/
def lineIn (pa n : Nat) (l : Nat × Nat) : Bool := decide (pa ≤ 128 * l.1) && decide (128 * l.1 < pa + n)

/-- A core's pins without the lines of a range. -/
def Core.unpin (c : Core) (pa n : Nat) : Core :=
  { c with pins := c.pins.map fun p => { p with lines := p.lines.filter fun l => !lineIn pa n l } }

/-- Pins lose the lines of a range, with a notice for each (R286 step 3): those of a core, or of a SAVED launch's image. -/
def State.unpinNotices (s : State) (ck pa n : Nat) (c : Core) : State :=
  (c.pins.filter fun p => p.lines.any (lineIn pa n)).foldl (fun s p => s.postHw ck p.cls
    [BitVec.ofNat 64 (3 + 4 * 2 ^ 8 + p.id * 2 ^ 16), BitVec.ofNat 64 p.va, BitVec.ofNat 64 p.len, 0,
     BitVec.ofNat 64 s.tick, 0, 0, 0]) s

/-- Every pin of the package loses the lines of a range, with its notices (R286 step 3). -/
def State.unpinRange (s : State) (pa n : Nat) : State :=
  let s := s.cores.foldl (fun s e => s.unpinNotices e.1 pa n e.2) s
  let s := s.launches.foldl (fun s l => l.2.images.foldl (fun s e => s.unpinNotices (65536 * l.1 + e.1) pa n e.2) s) s
  { s with cores := s.cores.map (fun e => (e.1, e.2.unpin pa n)),
           launches := s.launches.map fun l => (l.1, { l.2 with images := l.2.images.map fun e => (e.1, e.2.unpin pa n) }) }

end Sys2Proof.Machine
end

