-- ==== Sys2Proof/Machine/Fetch.lean ====
section
/-! DEFINITION. The issue rotation and the fetch of a word (R10, R11, R24, R25, R113, R130, R159, R160). -/

namespace Sys2Proof.Machine

/-- READY and not leaving the rotation for a save: a save waits for an open packet only (R133, R134). -/
def runnable (t : Thread) : Bool := t.st == .ready && (t.saveFrom.isNone || !t.packet.isEmpty)

/-- Runnable, not made READY by an arrival of this cycle (R115, R119), and not issued in the last seven cycles (R113): the cycle
of a context's last issue is its core's, whatever thread the context then held. -/
def State.eligible (s : State) (ck c : Nat) : Bool :=
  runnable (s.thr (threadOf ck c)) && !(s.thr (threadOf ck c)).justReady && match (s.cor ck).issued.find c with
    | none => true
    | some k => decide (k + 8 ≤ (s.die (coreDie ck)).cycle)

/-- The issuer of a cycle: the slot's owner if it is eligible, else the first eligible context after it (R113). -/
def State.issuer (s : State) (ck : Nat) : Option Nat :=
  let cyc := (s.die (coreDie ck)).cycle
  ((List.range 16).map fun k => (cyc + k) % 16).find? fun c => s.eligible ck c

/-- How a fetch ends. -/
inductive Fetched where
  | word (w : Nat)
  | trap (t : Trap)
  | miss (k : WaitKind)
  deriving DecidableEq, Repr

/-- The fetch of the word at `pc` (R11, R24 step 1, R107, R130). -/
def State.fetchPc (s : State) (pc : Nat) : Fetched :=
  match canonCheck pc >>= fun _ => s.pagePart .fetch pc 4 with
  | .error (.trap t) => .trap t
  | .error _ => .miss (.pageWalk pc)
  | .ok p =>
    match s.co.icache.find (pc / 64) with
    | some l =>
      match l.getD (pc % 64 / 4) none with
      | some w => .word w.toNat
      | none => .trap (uncorrectable (p.pa / 8))
    | none => .miss (.icacheMiss pc)

/-- The trap of a word that is no instruction (R24, R25). -/
def decodeTrap (w : Nat) : DecodeErr → Trap
  | .illegal => { cause := cIllegal, info := BitVec.ofNat 64 (w % 2 ^ 32) }
  | .reservedField b => { cause := cReservedField, info := BitVec.ofNat 64 (w % 2 ^ 32 + 2 ^ 32 * b) }

/-- The word the issuing thread's frame issues next (R159, R160). -/
def State.frameWord (s : State) : Nat :=
  let t := s.th
  stagger (bitsAt (t.kfbuf.get (Fin.ofNat 16 (bitsAt t.kfidx 0 4))) 0 32) (bitsAt t.kfcnt 0 8)
    (bitsAt t.kfstg 0 4) (bitsAt t.kfstg 4 4) (bitsAt t.kfstg 8 4)

/-- The issue is recorded: the issuing thread and its cycle (R113). DESIGN CHOICE (log entry 70): a cycle in which the
context's fetch misses counts as an issue. -/
def State.issueAs (s : State) (ck c : Nat) : State :=
  let s := s.modThr (threadOf ck c) fun t => { t with asked := [], startCyc := none }
  { (s.modCor ck fun k => { k with issued := k.issued.set c (s.die (coreDie ck)).cycle }) with cur := threadOf ck c }

/-- The issuing thread's current word. -/
def State.setWord (s : State) (w : Nat) : State := s.modTh fun t => { t with word := BitVec.ofNat 32 w }

/-- The issuing thread waits for a translation or an instruction line (R130, R277): a trap found there is a fetch fault,
whose record holds no word (R95). -/
def State.fetchMiss (s : State) (k : WaitKind) : State :=
  let s := s.setWord 0
  let s := match k with
    | .pageWalk _ => { s with walks := s.walks ++ [s.cur] }
    | _ => s
  s.modTh fun t => t.blockFetch s.tick k

/-- The word's line of sixteen words: the word first, zeros after it. -/
def lineOfWord (w : Nat) : List (Option (BitVec 32)) := some (BitVec.ofNat 32 w) :: List.replicate 15 (some 0)

/-- A launch-level, executable, writable, valid PLAIN leaf for the first page of HBM after address 0 (Table 14-2). -/
def bootPte : Word := 0x102F

end Sys2Proof.Machine
end

