-- ==== Sys2Proof/Machine/Walks.lean ====
section
/-! DEFINITION. Page walks, instruction-line fills, write-through arrivals, resent requests and filter clearing (R130,
R273, R277, R280, R307). -/

namespace Sys2Proof.Machine

/-- The misses of a die, oldest first: the first 128 hold its walkers (R277). -/
def State.dieWalks (s : State) (die : Nat) : List Nat := s.walks.filter fun t => coreDie (coreOf t) == die

/-- A thread's miss holds a walker (R277). -/
def State.hasWalker (s : State) (t : Nat) : Bool := ((s.dieWalks (coreDie (coreOf t))).take 128).contains t

/-- A miss has its answer: it frees its walker. -/
def State.endWalk (s : State) (t : Nat) : State := { s with walks := s.walks.erase t }

/-- The address that a thread waits for a walk of. -/
def Thread.walkVa (t : Thread) : Option Nat :=
  match t.wait with
  | some w => match w.kind with
    | .pageWalk va => some va
    | _ => none
  | none => none

/-- A walk reads an entry at its home slice (R273, R277, R280). -/
def State.walkRead (ck : Nat) (s : State) (a : Nat) : State := (s.filterEnter a).noteRequest ck (homeDie a) none

/-- The trap of a walk that reads an uncorrectable word of a table: at a `rep`, whose body word it is for, `kinfo` is that
word's address (R158, R281; log entry 14). -/
def Thread.walkTrap (t : Thread) (va : Nat) (tr : Trap) : Trap :=
  match decode t.word.toNat with
  | .ok (.rep _ _ _ _ _) => { tr with info := BitVec.ofNat 64 va }
  | _ => tr

/-- PAGE_WALK_COMPLETE: the walk of a waiting thread ends: its translation is cached and the thread goes on, or it
traps TRANSLATION (R158, R276, R277). -/
def execPageWalkComplete (t : Nat) (s : State) : Host.Outcome State Fault Refusal :=
  match (s.thr t).walkVa with
  | none => .next (s.endWalk t)
  | some va =>
    if !s.hasWalker t then .next s
    else
      let s1 := (s.walkReads (s.cor (coreOf t)).asid va).foldl (State.walkRead (coreOf t)) (s.endWalk t)
      .next (match s.walk (s.cor (coreOf t)).asid va with
        | .leaf base pte =>
          (s1.modCor (coreOf t) fun c => { c with tlb := { va := base, pte := pte } :: c.tlb }).modThr t (·.wake)
        | .noPage => s1.takeTrap t { cause := cTranslation, info := BitVec.ofNat 64 va }
        | .poisoned pa => s1.takeTrap t ((s.thr t).walkTrap va (uncorrectable (pa / 8))))

/-- The sixteen words of an instruction line at a physical address; an uncorrectable one is kept as such. -/
def State.fetchLine (s : State) (pa : Nat) : List (Option (BitVec 32)) :=
  (List.range 16).map fun i =>
    if s.lostWord ((pa + 4 * i) / 8) then none else some (BitVec.ofNat 32 (natOfBytes (memRead s.mem (pa + 4 * i) 4)))

/-- A line enters an instruction cache of 512 lines (R130). -/
def State.icacheSet (s : State) (ck line : Nat) (l : List (Option (BitVec 32))) : State :=
  if (s.cor ck).icache.length < 512 then s.modCor ck fun c => { c with icache := c.icache.set line l }
  else
    let (n, s) := s.draw
    s.modCor ck fun c =>
      let victim := (c.icache.map (·.1)).getD (Config.icacheVictim n % c.icache.length) 0
      { c with icache := (c.icache.erase victim).set line l }

/-- ICACHE_MISS_FILL: the line that a thread waits for arrives, and the thread fetches again (R130). -/
def execIcacheMissFill (t : Nat) (s : State) : Host.Outcome State Fault Refusal :=
  match (s.thr t).wait with
  | some w =>
    match w.kind with
    | .icacheMiss va =>
      .next (match tlbFind (s.cor (coreOf t)).tlb va with
        | some e =>
          let pa := ptePa e.pte + (va - va % 64 - e.va)
          let s1 := (s.filterEnter pa (pteBd e.pte)).noteRequest (coreOf t) (homeDie pa) none
          (s1.icacheSet (coreOf t) (va / 64) (s.fetchLine pa)).modThr t (·.wake)
        | none => s.modThr t (·.wake))
    | _ => .next s
  | none => .next s

/-- The value that a die has kept for a core's request, if the request is among those it keeps and returned one
(R280). -/
def State.savedReply (s : State) (core die q : Nat) : Option Word :=
  (((s.die die).replies.get [] core).find? (·.1 == q)).bind (·.2)

/-- A word with `n` of its bytes from byte `off` on replaced by those of another. -/
def putBytes (x : Word) (off n : Nat) (v : Word) : Word :=
  let mask := BitVec.ofNat 64 ((2 ^ (8 * n) - 1) * 2 ^ (8 * off))
  (x &&& ~~~ mask) ||| (v <<< (8 * off) &&& mask)

/-- A thread has the value of a reply in the bytes of its register that the reply fills, as it had it (R280). -/
def Thread.takeReply (t : Thread) (die q : Nat) (v : Word) : Thread :=
  match t.st, t.wait, t.asked.find? fun a => a.die == die && a.seq == q with
  | .waiting, some w, some a =>
    if w.kind matches .reply | .crossing _ then t.setG w.d (putBytes (t.rg w.d) a.off a.n v) else t
  | _, _, _ => t

/-- A saved reply returned: the form that still waits for it has the value in its register, as it had it (R280). -/
def State.returnReply (s : State) (core die q : Nat) : State :=
  match s.savedReply core die q with
  | none => s
  | some v => (List.range 16).foldl (fun s c => s.modThr (threadOf core c) (·.takeReply die q v)) s

/-- A resent request reaches its home: its number is among the kept ones, so it is not performed again (R280). -/
def State.resentArrives (s : State) (core : Nat) : State :=
  match (s.cor core).resent with
  | e :: r => (s.modCor core fun c => { c with resent := r }).returnReply core e.1 e.2
  | [] => s

/-- FLIT_CHECK_FAILURE: a flit of a core's last request to a die fails its check, and the link layer resends the
request under its number (R280, R307). -/
def execFlitCheckFailure (core die : Nat) (s : State) : Host.Outcome State Fault Refusal :=
  let q := (s.cor core).seq.get 0 die
  if (s.cor core).seq.find die |>.isSome then
    .next (s.modCor core fun c => { c with resent := c.resent ++ [(die, (q + 65535) % 65536)] })
  else .next s

/-- MSC_FILTER_CLEAR: the filters of a die's memory-side cache are cleared (R273). -/
def execMscFilterClear (die : Nat) (s : State) : Host.Outcome State Fault Refusal :=
  .next (s.modDie die fun d => { d with filter := [], filterTick := s.tick })

end Sys2Proof.Machine
end

