-- ==== Sys2Proof/Machine/Groups.lean ====
section
/-! DEFINITION. Groups, barriers, quiescence, expert prefetch and routing counters (R298 to R304). -/

namespace Sys2Proof.Machine

/-! ## Group tables (R298, R299) -/

/-- A group-table entry. -/
def State.grp (s : State) (g : Nat) : Option Group := s.groups.find g

/-- The home die of a group (R298). -/
def groupDie (g : Nat) : Nat := g / 256 % 16

/-- `check()` of R299: the group after it, and whether its phase completed. -/
def Group.check (x : Group) : Group × Bool :=
  if 0 < x.x ∧ x.bits.length = x.x then
    ({ x with c := (x.c + 1) % 2 ^ 16, bits := [], x := x.x - x.lv, lv := 0 }, true)
  else (x, false)

/-- `arrive(m)` of R299: none where it is refused. A finished group refuses every arrival. -/
def Group.arrive (x : Group) (m : Nat) : Option (Group × Bool) :=
  if x.bits.contains m || x.x == 0 then none else some ({ x with bits := m :: x.bits }.check)

/-- `leave(m, arriving)` of R299. DESIGN CHOICE (log entry 107): a member that ends without an arrival after X has reached 0
leaves X at 0. -/
def Group.leave (x : Group) (m : Nat) (arriving : Bool) : Group × Bool :=
  let x := { x with gone := m :: x.gone }
  if !x.bits.contains m && !arriving then { x with x := x.x - 1 }.check
  else { x with bits := if x.bits.contains m then x.bits else m :: x.bits, lv := x.lv + 1 }.check

/-- The index of a thread among the members, if it has not left. -/
def Group.memberOf (x : Group) (t : Nat) : Option Nat :=
  match x.members.findIdx? (· == t) with
  | some m => if x.gone.contains m then none else some m
  | none => none

/-- The answer of another die to a form of a thread: the form is over but for its way back, on which the limit of a timed wait
runs on (R20, R280, R319, R323). -/
def State.crossBack (s : State) (t die : Nat) (d : Reg) (v : Word) : State :=
  let q := (s.cor (coreOf t)).seq.get 0 die
  (s.noteRequest (coreOf t) die (some v)).modThr t fun x =>
    { (x.setG d v).retireReply s.tick d with
      wait := some { kind := .crossing s.tick, d := d, since := x.wait.elim s.tick (·.since), e := x.wait.elim 15 (·.e) }
      asked := [{ die := die, seq := q, off := 0, n := 8 }] }

/-- A waiter of a completed phase has DONE, after its acquire: at once on the home's own die, else over the link (R299,
R300, R323). -/
def State.phaseDone (s : State) (t g : Nat) (d : Reg) (wide : Bool) : State :=
  let s := if wide then s.l1Acquire (coreOf t) else s
  if coreDie (coreOf t) = groupDie g then s.modThr t (·.endWait d stDone) else s.crossBack t (groupDie g) d stDone

/-- The waiters of a group's phase: thread, register, and whether the acquire acts on the L1. -/
def State.phaseWaiters (s : State) (g : Nat) : List (Nat × Reg × Bool) :=
  s.threads.filterMap fun e =>
    match e.2.st, e.2.wait with
    | .waiting, some w => match w.kind with
      | .phase g' _ wide => if g' = g then some (e.1, w.d, wide) else none
      | _ => none
    | _, _ => none

/-- A group written; a completed phase releases its waiters (R299). -/
def State.setGroup (s : State) (g : Nat) (r : Group × Bool) : State :=
  let s := { s with groups := s.groups.set g r.1 }
  if r.2 then (s.phaseWaiters g).foldl (fun s w => s.phaseDone w.1 g w.2.1 w.2.2) s else s

/-- A thread leaves a group at its home. -/
def State.leaveGroup (s : State) (t g : Nat) : State :=
  match s.grp g with
  | some x =>
    match x.memberOf t with
    | some m => s.setGroup g (x.leave m false)
    | none => s
  | none => s

/-- The groups that a thread's valid `kgrp` registers hold (R86). -/
def Thread.groups (t : Thread) : List Nat := (t.kgrp.toList.filter fun k => bitAt k 12).map fun k => bitsAt k 0 12

/-- The valid bit of the register that holds a group cleared (R300). -/
def Thread.clearGroup (t : Thread) (g : Nat) : Thread :=
  { t with kgrp := t.kgrp.map fun k => if bitAt k 12 && bitsAt k 0 12 == g then k &&& ~~~ 0x1000#64 else k }

/-- What the home answers to an arrival or a drop of a thread (R299, R300): OVER_ARRIVAL, or the phase in place with the
group after it. DESIGN CHOICE (log entry 106): a thread that is no member, or one whose group's entry is empty, traps
NOT_MEMBER there also where a valid `kgrp` holds the id. -/
def State.groupReply (s : State) (t g : Nat) (arrives : Bool) : Except Stop (Word × Group × Bool) :=
  match s.grp g with
  | none => .error (.trap { cause := cNotMember, info := BitVec.ofNat 64 g })
  | some y =>
    match y.memberOf t with
    | none => .error (.trap { cause := cNotMember, info := BitVec.ofNat 64 g })
    | some m =>
      if arrives then
        match y.arrive m with
        | none => .error (.trap { cause := cOverArrival, info := BitVec.ofNat 64 (g + y.c * 2 ^ 16) })
        | some r => .ok (BitVec.ofNat 64 (y.c * 256), r)
      else .ok (BitVec.ofNat 64 (y.c * 256), y.leave m true)

/-- A group after an arrival or a drop of a thread, which clears its register (R300). -/
def State.setGroupOf (s : State) (t g : Nat) (arrives : Bool) (r : Group × Bool) : State :=
  (if arrives then s else s.modThr t (·.clearGroup g)).setGroup g r

/-- A request of a thread for its group enters the link to the group's home (R307, R319). -/
def State.sendGroup (s : State) (t g : Nat) (op : GroupOp) : State :=
  s.modCor (coreOf t) fun c => { c with outq := c.outq ++ [{ thread := t, gid := g, op := op }] }

/-- A thread that ends leaves each of its groups: at once where the home is its own die, else by a request (R91, R319); the
groups of a die that is offline are gone with it. -/
def State.leaveGroups (s : State) (t : Nat) : State :=
  (s.thr t).groups.foldl (fun s g =>
    if !(s.die (groupDie g)).online then s
    else if groupDie g = coreDie (coreOf t) then s.leaveGroup t g
    else s.sendGroup t g .leave) s

/-- A thread waits for the reply to a group request. -/
def Thread.inGroupReq (t : Thread) : Bool := t.st == .waiting && t.wait.map (·.kind) == some .groupReq

/-- The reply to a group request goes back to its thread, unless the thread has ended (R90, R300, R319). -/
def State.answerGroup (s : State) (t die : Nat) (v : Word) : State :=
  if (s.thr t).inGroupReq then s.crossBack t die ((s.thr t).wait.elim 0 (·.d)) v
  else s.noteRequest (coreOf t) die (some v)

/-- HOME_REQUEST_ARRIVAL of a group request: it is applied at the home in its order of arrival, and its reply goes back to
its thread (R280, R299, R300, R319). -/
def State.groupArrives (s : State) (ck : Nat) (q : GroupReq) : State :=
  let s := s.modCor ck fun c => { c with outq := c.outq.erase q }
  if q.op = .leave then (s.leaveGroup q.thread q.gid).noteRequest ck (groupDie q.gid) none
  else
    let arrives := q.op == .arrive
    match s.groupReply q.thread q.gid arrives with
    | .ok (v, r) =>
      (s.answerGroup q.thread (groupDie q.gid) v).setGroupOf q.thread q.gid arrives r
    | .error (.trap t) =>
      (if (s.thr q.thread).inGroupReq then s.takeTrap q.thread t else s).noteRequest ck (groupDie q.gid) none
    | .error _ => s

/-- The oldest group request of a core whose home can take it: a relock of the home holds it back (R322). -/
def State.groupReady (s : State) (ck : Nat) : Option GroupReq := (s.cor ck).outq.find? fun q => s.dieRuns (groupDie q.gid)

/-- HOME_REQUEST_ARRIVAL: a request of a core arrives at its home: one the link layer has resent, a group request, or the
oldest write-through (R170, R280, R307, R319). -/
def execHomeRequestArrival (core : Nat) (s : State) : Host.Outcome State Fault Refusal :=
  .next (if !(s.cor core).resent.isEmpty then s.resentArrives core
    else
      match s.groupReady core with
      | some q => s.groupArrives core q
      | none => s.wtDrainOne core)

/-! ## `grp` (R300) -/

/-- The group that a `grp` form names, which a valid `kgrp` register of the thread must hold (R86). -/
def State.heldGroup (s : State) (ga : Word) : Except Stop Nat := do
  let g := bitsAt ga 0 12
  trapIf (!s.th.groups.contains g) cNotMember (BitVec.ofNat 64 g)
  .ok g

/-- An arrival or a drop goes to the home of its group: applied at once on the thread's own die, else sent over the link,
with the thread waiting for the reply (R300, R319). -/
def State.groupForm (s : State) (d : Reg) (g : Nat) (arrives : Bool) : State :=
  if !(s.die (groupDie g)).online then s.pureG d stPeerLost
  else if groupDie g = coreDie s.ck then
    match s.groupReply s.cur g arrives with
    | .ok (v, r) => (s.replyG d v).setGroupOf s.cur g arrives r
    | .error (.trap t) => s.trapNow t
    | .error _ => s
  else (s.sendGroup s.cur g (if arrives then .arrive else .drop)).modTh fun t => t.block s.tick .waiting .groupReq d 15

/-- `grp.arrive` (R300). -/
def execGrpArrive (x : Scope) (d a : Reg) (s : State) : Host.Outcome State Fault Refusal :=
  finish s (do
    let g ← s.heldGroup (s.rg a)
    .ok (s.afterRel x fun s => s.groupForm d g true))

/-- `grp.drop` (R300). -/
def execGrpDrop (x : Scope) (d a : Reg) (s : State) : Host.Outcome State Fault Refusal :=
  finish s (do
    let g ← s.heldGroup (s.rg a)
    .ok (s.afterRel x fun s => s.groupForm d g false))

/-- An empty group-table entry of an address space: reserved, with no members (R298). -/
def Group.empty (asid : Nat) : Group := { asid := asid, members := [], c := 0, bits := [], gone := [], x := 0, lv := 0 }

/-- The group of an id that a valid `kgrp` register of the thread holds (R86, R300); none where its home is offline. An id
without an entry reads as an empty one (log entry 106). -/
def State.heldEntry (s : State) (ga : Word) : Except Stop (Nat × Option Group) := do
  let g ← s.heldGroup ga
  .ok (g, if (s.die (groupDie g)).online then some ((s.grp g).getD (Group.empty 0)) else none)

/-- `grp.wait` (R300). -/
def execGrpWait (x : Scope) (e : BitVec 4) (d a b : Reg) (s : State) : Host.Outcome State Fault Refusal :=
  let p := bitsAt (s.rg b) 0 16
  finish s (do
    let (g, r) ← s.heldEntry (s.rg a)
    match r with
    | none => .ok (s.pureG d stPeerLost)
    | some y =>
      if y.c ≠ p then .ok (((s.acqAct x).noteRequest s.ck (groupDie g) (some stDone)).pureG d stDone)
      else .ok (s.timed (.phase g p (Scope.wide x)) d e stTimeout))

/-- `grp.info` (R300). What it reads of a group whose home is offline is not stated: a free value. -/
def execGrpInfo (d a : Reg) (s : State) : Host.Outcome State Fault Refusal :=
  finish s (do
    let (g, r) ← s.heldEntry (s.rg a)
    match r with
    | some y =>
      let v := BitVec.ofNat 64 (y.c + y.bits.length * 2 ^ 16 + y.x * 2 ^ 33)
      .ok ((s.noteRequest s.ck (groupDie g) (some v)).pureG d v)
    | none =>
      let (n, s1) := s.draw
      .ok (s1.pureG d (Config.lostInfo n)))

/-! ## Quiescence (R301) -/

/-- The cores of a launch. -/
def State.launchCores (s : State) (lid : Nat) : List Nat := (s.cores.filter fun e => e.2.launch == some lid).map (·.1)

/-- The contexts of a launch. -/
def State.launchThreads (s : State) (lid : Nat) : List Nat :=
  (s.launchCores lid).flatMap fun ck => (List.range (s.cor ck).nctx).map (threadOf ck)

/-- A thread waits in `grp.quiet`. -/
def Thread.inQuiet (t : Thread) : Bool := t.st == .waiting && t.wait.map (·.kind) == some .quiet

/-- A launch. -/
def State.launchOf (s : State) (lid : Nat) : Launch := s.launches.get Launch.init lid

/-- The state with one launch changed. -/
def State.modLaunch (s : State) (lid : Nat) (f : Launch → Launch) : State :=
  { s with launches := s.launches.set lid (f (s.launchOf lid)) }

/-- `grp.quiet` (R301): the first to wait starts the waves. -/
def execGrpQuiet (e : BitVec 4) (d : Reg) (s : State) : Host.Outcome State Fault Refusal :=
  match s.co.launch with
  | none => .next (s.timed .quiet d e stTimeout)
  | some lid =>
    let first := !((s.launchThreads lid).any fun t => (s.thr t).inQuiet)
    let s1 := if first then s.modLaunch lid fun l => { l with waveTick := s.tick, wave := none } else s
    .next (s1.timed .quiet d e stTimeout)

/-- The sums of one wave: S, R and A (R301). -/
def State.waveSums (s : State) (lid : Nat) : Nat × Nat × Nat :=
  let cs := s.launchCores lid
  ((cs.map fun ck => (s.cor ck).sentCount).sum, (cs.map fun ck => (s.cor ck).recvCount).sum,
   (s.launchThreads lid).countP fun t =>
     let x := s.thr t
     (x.st == .ready || x.st == .waiting || x.st == .trapped || x.st == .saved) && !x.inQuiet)

/-- Contexts PARKED in a message wait (R301). -/
def State.blockedReceivers (s : State) (lid : Nat) : Nat :=
  (s.launchThreads lid).countP fun t => (s.thr t).st == .parked && !(s.thr t).parkedStart

/-- Two successive waves show quiescence (R301). -/
def wavesQuiet (w0 w1 : Nat × Nat × Nat) : Bool :=
  w1.1 == w1.2.1 && w0.1 == w1.1 && w0.2.1 == w1.1 && w0.2.2 == 0 && w1.2.2 == 0

/-- Reports of the hardware to the service: a code and what it names. -/
def reportWords (code arg : Nat) : List Word := [BitVec.ofNat 64 code, BitVec.ofNat 64 arg]

/-- Codes of the reports: quiescent with blocked receivers (R301), a deferred save (R134), a dependence stopped (R290),
a stall left by a launch (R209), a die that no link reaches (R307). -/
def repQuiet : Nat := 1
def repDeferral : Nat := 2
def repStopped : Nat := 3
def repStall : Nat := 4
def repUnreached : Nat := 5

/-- A wave of a launch waits: it reaches every core of it, and a die that relocks does not answer (R301, R322). -/
def State.waveHeld (s : State) (lid : Nat) : Bool := (s.launchCores lid).any fun ck => (s.die (coreDie ck)).clock.t0.isSome

/-- QUIESCENCE_WAVE: one wave of a launch; on quiescence every waiting `grp.quiet` receives the count (R301, R322). -/
def execQuiescenceWave (lid : Nat) (s : State) : Host.Outcome State Fault Refusal :=
  let ws := (s.launchThreads lid).filter fun t => (s.thr t).inQuiet
  if ws.isEmpty || s.waveHeld lid then .next s
  else
    let w := s.waveSums lid
    if (s.launchOf lid).wave.any (wavesQuiet · w) then
      let n := s.blockedReceivers lid
      let s1 := ws.foldl (fun s t => s.modThr t fun x => x.endWait (x.wait.elim 0 (·.d)) (BitVec.ofNat 64 (n * 256))) s
      let s2 := if 0 < n then s1.postService (reportWords repQuiet lid) else s1
      .next (s2.modLaunch lid fun l => { l with wave := none, waveTick := s.tick })
    else .next (s.modLaunch lid fun l => { l with wave := some w, waveTick := s.tick })

/-! ## `xpf` (R302 to R304) -/

/-- The 8-byte words of 256 counters of 4 bytes. -/
def counterWords (m : AMap Nat) : List Word :=
  (List.range 128).map fun i => BitVec.ofNat 64 (m.get 0 (2 * i) + m.get 0 (2 * i + 1) * 2 ^ 32)

/-- `xpf.snap` (R304). -/
def execXpfSnap (d a : Reg) (s : State) : Host.Outcome State Fault Refusal :=
  let die := coreDie s.ck
  finish s (do
    trapIf (!(s.co.launch.isSome && (s.die die).rtClaim == s.co.launch)) cPermission (BitVec.ofNat 64 die)
    let la ← scrAddr (s.rg a)
    trapIf (la % 64 != 0) cMisaligned (s.rg a)
    trapIf (decide (s.scrLimit < la + 1024)) cScratchBounds (s.rg a)
    let ws := counterWords (s.die die).rtCount
    .ok (((s.modDie die fun x => { x with rtCount := [] }).arriveWords s.ck (la / 8) ws).replyG d stDone))

/-- The lowest request id that no request of a die holds (R304). -/
def freeXpfId (q : List XpfReq) : Nat := (((List.range 64).map (· + 1)).find? fun i => !(q.any (·.id == i))).getD 0

/-- `xpf.req` (R304). -/
def execXpfReq (d a b : Reg) (s : State) : Host.Outcome State Fault Refusal :=
  let die := coreDie s.ck
  let ga := s.rg a
  let gb := s.rg b
  finish s (do
    trapIf (!canonical ga.toNat) cTranslation ga
    trapIf (ga.toNat % 4096 != 0) cMisaligned ga
    trapIf (bitsAt gb 0 20 == 0) cMisaligned gb
    let q := (s.die die).xpf
    if 64 ≤ q.length then .ok (s.outG d stBusy)
    else
      let i := freeXpfId q
      let x : XpfReq := { id := i, base := ga.toNat, pages := bitsAt gb 0 20, ex := bitsAt gb 20 8, pr := bitsAt gb 28 2,
                          dl := s.tick + 256 * bitsAt gb 32 32, lid := s.co.launch.getD 0 }
      .ok ((s.modDie die fun y => { y with xpf := y.xpf ++ [x] }).outG d (BitVec.ofNat 64 i)))

/-- `xpf.cancel` (R304). -/
def execXpfCancel (d a : Reg) (s : State) : Host.Outcome State Fault Refusal :=
  let die := coreDie s.ck
  let hit := fun (x : XpfReq) => x.lid == s.co.launch.getD 0 && x.ex == bitsAt (s.rg a) 0 8
  .next ((s.modDie die fun y => { y with xpf := y.xpf.filter fun x => !hit x }).outG d
    (BitVec.ofNat 64 ((s.die die).xpf.countP hit)))

/-- The requests of a launch removed from every die's queue (R302). -/
def State.dropXpf (s : State) (lid : Nat) : State :=
  { s with dies := s.dies.map fun e => (e.1, { e.2 with xpf := e.2.xpf.filter (·.lid != lid) }) }

/-- The request to be served next: the earliest deadline, then the highest priority, then arrival (R302). -/
def nextXpf : List XpfReq → Option XpfReq
  | [] => none
  | x :: r =>
    match nextXpf r with
    | none => some x
    | some y => if y.dl < x.dl ∨ (y.dl = x.dl ∧ x.pr < y.pr) then some y else some x

/-- PREFETCH_SERVE: the next request of a die is served and leaves the queue; it changes latency only (R302). -/
def execPrefetchServe (die : Nat) (s : State) : Host.Outcome State Fault Refusal :=
  match nextXpf (s.die die).xpf with
  | none => .next s
  | some x => .next (s.modDie die fun d => { d with xpf := d.xpf.filter (·.id != x.id) })

/-- PREFETCH_DEADLINE: requests whose deadline has passed are removed (R302). -/
def execPrefetchDeadline (die : Nat) (s : State) : Host.Outcome State Fault Refusal :=
  .next (s.modDie die fun d => { d with xpf := d.xpf.filter fun x => decide (s.tick < x.dl) })

end Sys2Proof.Machine
end

