-- ==== Sys2Proof/Machine/Context.lean ====
section
/-! DEFINITION. The end, the save and the restore of a context (R91, R97, R122, R133 to R138). -/

namespace Sys2Proof.Machine

/-! ## Leaving a wait -/

/-- A form withdrawn: a form that awaited its reply and has changed nothing beyond its registers gives them back, so that
it is reissued (R103, R133). -/
def Thread.takeBack (t : Thread) : Thread :=
  match t.before with
  | some r => (t.withRegs r).formOver
  | none => t.formOver

/-- A WAITING or PARKED thread leaves its wait with `pc` at its form; what stands for the wait elsewhere is withdrawn
(R21, R133). -/
def State.withdraw (s : State) (t : Nat) : State :=
  let s := { s with walks := s.walks.erase t }
  let s := match (s.thr t).wait.map (·.kind) with
    | some (.tenure sl) => s.modSli sl (·.leave t)
    | some .peg => s.withdrawArrival t
    | some (.take w) => s.modCor (coreOf t) fun c => c.setTakers w ((c.takersOf w).filter (· != t))
    | some .publish => s.dropPub t
    | _ => s
  s.modThr t Thread.takeBack

/-- Forms that wait for the end of a thread's save are tested again (R138). -/
def State.wakeSavers (s : State) (t : Nat) : State := s.wakeWhere fun _ k => k == .save t || k == .saved t

/-- A completed save of a thread: the form that asked for it completes with DONE, the others are tested again (R137,
R138). -/
def State.endSavers (s : State) (t : Nat) : State :=
  { s with threads := s.threads.map fun e =>
      match e.2.st, e.2.wait with
      | .waiting, some w =>
        if w.kind = .save t then (e.1, e.2.endWait w.d stDone)
        else if w.kind = .saved t then (e.1, e.2.wake) else e
      | _, _ => e }

/-! ## The save slot (R122, R135) -/

/-- The first word of a context's save slot (Table 5-3): 320 x (c + 1) words below word 32,768. -/
def slotWord (c : Nat) : Nat := 32448 - 320 * c

/-- A 64-bit piece of a vector register (R96). -/
def vPiece (v : VReg) (p : Nat) : Word := (v >>> (64 * p)).setWidth 64

/-- A vector register with one 64-bit piece replaced. -/
def setPiece (v : VReg) (p : Nat) (x : Word) : VReg :=
  (v &&& ~~~ (BitVec.ofNat 512 (2 ^ 64 - 1) <<< (64 * p))) ||| (x.setWidth 512 <<< (64 * p))

/-- Bits placed in a word. -/
def atBit (x : Word) (n k : Nat) : Nat := x.toNat % 2 ^ n * 2 ^ k

/-- The save slot of a context (Table 5-4). -/
def Thread.toSlot (t : Thread) : List Word :=
  t.v.toList.flatMap (fun v => (List.range 8).map (vPiece v)) ++ t.g.toList.drop 1 ++
  [t.pc, t.kinfo, t.kepc,
   BitVec.ofNat 64 (atBit t.kstat 15 0 + atBit t.kcause 8 16 + atBit t.kqmask 8 24 + atBit t.kbconf 32 32),
   BitVec.ofNat 64 ((((List.range 4).map fun i => atBit (t.kgrp.toList.getD i 0) 13 (16 * i))).sum),
   BitVec.ofNat 64 (((List.range 4).map fun i => (t.m.toList.getD (i + 1) 0).toNat * 2 ^ (16 * i)).sum),
   BitVec.ofNat 64 (((List.range 3).map fun i => (t.m.toList.getD (i + 5) 0).toNat * 2 ^ (16 * i)).sum),
   t.ktvec] ++ t.kfbuf.toList ++
  [t.kfcnt, t.kfidx, t.kfstg, t.kbbuf, t.kbbufh, t.kbfill, t.kbsrc, t.kbend, if t.st = .trapped then 1 else 0]

/-- The fields that a slot gives back to its context (R135); `f` reads the slot by words. -/
def Thread.ofSlot (t : Thread) (f : Nat → Word) : Thread :=
  { t with
    v := Vector.ofFn fun i => (List.range 8).foldl (fun v p => setPiece v p (f (8 * i.val + p))) 0
    g := Vector.ofFn fun i => if i.val = 0 then 0 else f (255 + i.val)
    pc := f 287
    kinfo := f 288
    kepc := f 289
    kstat := BitVec.ofNat 64 (bitsAt (f 290) 0 15)
    kcause := BitVec.ofNat 64 (bitsAt (f 290) 16 8)
    kqmask := BitVec.ofNat 64 (bitsAt (f 290) 24 8)
    kbconf := BitVec.ofNat 64 (bitsAt (f 290) 32 32)
    kgrp := Vector.ofFn fun i => BitVec.ofNat 64 (bitsAt (f 291) (16 * i.val) 13)
    m := Vector.ofFn fun i =>
      if i.val = 0 then t.m.get i
      else BitVec.ofNat 16 (if i.val ≤ 4 then bitsAt (f 292) (16 * (i.val - 1)) 16 else bitsAt (f 293) (16 * (i.val - 5)) 16)
    ktvec := f 294
    kfbuf := Vector.ofFn fun i => f (295 + i.val)
    kfcnt := f 311
    kfidx := f 312
    kfstg := f 313
    kbbuf := f 314
    kbbufh := f 315
    kbfill := f 316
    kbsrc := f 317
    kbend := f 318
    st := if bitAt (f 319) 0 then .trapped else .ready }

/-- The core that holds a thread's scratchpad: its own, or the image of its SAVED launch (R293). -/
def State.homeCor (s : State) (t : Nat) : Core :=
  if savedTid t then (s.launchOf (t / 2 ^ 20)).images.get Core.init (coreOf (t % 2 ^ 20)) else s.cor (coreOf t)

/-- The core that holds a thread's scratchpad, changed. -/
def State.modHome (s : State) (t : Nat) (f : Core → Core) : State :=
  if savedTid t then
    s.modLaunch (t / 2 ^ 20) fun l =>
      { l with images := l.images.set (coreOf (t % 2 ^ 20)) (f (l.images.get Core.init (coreOf (t % 2 ^ 20)))) }
  else s.modCor (coreOf t) f

/-- The words of a context's slot. -/
def State.slotRead (s : State) (t : Nat) (i : Nat) : Word := (s.homeCor t).scratch.get 0 (slotWord (ctxOf t) + i)

/-- A context as its slot holds it (R97, R135). -/
def State.slotImage (s : State) (t : Nat) : Thread := (s.thr t).ofSlot (s.slotRead t)

/-- A context written to its slot (R133 step 6, R135). -/
def State.slotWrite (s : State) (t : Nat) (x : Thread) : State :=
  s.modHome t fun c => c.scrWords (8 * slotWord (ctxOf t)) x.toSlot

/-! ## ENDED (R91) -/

/-- A THREAD ENDS (R91): its wait is withdrawn, its tenures are released with write-back, its permits returned, its
groups left, and an open packet discarded. -/
def State.endThread (s : State) (t : Nat) : State :=
  let s := match (s.thr t).st with
    | .waiting => s.withdraw t
    | .parked => s.withdraw t
    | .saved => s.modThr t fun x => { x with kgrp := (s.slotImage t).kgrp }
    | _ => s
  let s := (((s.endTenures t).returnPermits t).leaveGroups t).dropCall t
  (s.modThr t fun x =>
    { x.formOver with st := .ended, packet := [], saveFrom := none, saveTold := false, parkedStart := false }).wakeSavers t

/-- A context of a SAVED launch ends (R90, R305): the same duties, its granters and its group indexes being those of its
launch. -/
def State.endSaved (s : State) (t : Nat) : State :=
  let lid := t / 2 ^ 20
  let s := (s.endTenures t).dropCall t
  let s := (s.thr t).permits.foldl (fun s p => s.modLaunch lid fun l =>
    { l with images := l.images.map fun e =>
        if e.1 = p.core then (e.1, { e.2 with outstanding := e.2.outstanding - p.count }) else e }) s
  let s := ((s.slotImage t).groups.filter fun g => (s.die (groupDie g)).online).foldl (fun s g => s.leaveGroup (t % 2 ^ 20) g) s
  s.modThr t fun x => { x.formOver with st := .ended, permits := [], packet := [], saveFrom := none, parkedStart := false }

/-! ## Save and restore (R133 to R137) -/

/-- A part of the joint array that a thread's arrival has begun still runs (R133, R231). -/
def State.partRuns (s : State) (t : Nat) : Bool :=
  let k := s.clu (clusterOf (coreOf t))
  k.joined.any fun x => x.thread == t && k.running.contains x.pos

/-- A thread waits for what a form of it has begun and a save lets complete: its reply, its store to a device, its group
request (R133, R300). -/
def Thread.begun (t : Thread) : Bool :=
  match t.st, t.wait with
  | .waiting, some w => match w.kind with
    | .reply => t.before.isNone
    | .deviceStore => true
    | .groupReq => true
    | .crossing _ => true
    | _ => false
  | _, _ => false

/-- A save that has been asked for can complete: no packet is open, and no form or part of the thread's that has begun
still runs (R133, R134). -/
def State.saveReady (s : State) (t : Nat) : Bool :=
  (s.thr t).saveFrom.isSome && (s.thr t).packet.isEmpty && !s.partRuns t && !(s.thr t).begun

/-- SAVING A CONTEXT (R133): its wait is withdrawn, the L1 of its core is written through and invalidated, and its slot
is written. -/
def State.saveContext (s : State) (t : Nat) : State :=
  let s := if (s.thr t).st = .trapped then s else s.withdraw t
  let s := (s.l1Release (coreOf t)).l1Acquire (coreOf t)
  let s := s.slotWrite t (s.thr t)
  (s.modThr t fun x => { x with st := .saved, saveFrom := none, saveTold := false }).endSavers t

/-- CONTEXT_SAVE_COMPLETE: the save of a context completes (R133). -/
def execContextSaveComplete (t : Nat) (s : State) : Host.Outcome State Fault Refusal :=
  .next (if s.saveReady t then s.saveContext t else s)

/-- A context parked since its start goes on as R41 has it: a message already queued for a class with an entry starts
it there, the lowest class first; else it is parked. -/
def State.parkedAgain (s : State) (t : Nat) : Thread → Thread := fun x =>
  if !x.parkedStart || x.st != .ready then x
  else
    match (s.cor (coreOf t)).startEntry (ctxOf t) with
    | some a => { x with pc := entryPc a, parkedStart := false }
    | none => { x with st := .parked }

/-- RESTORING A CONTEXT (R135): the L1 of its core is invalidated, and its slot is loaded. -/
def State.restoreContext (s : State) (t : Nat) : State :=
  let s := (s.l1Release (coreOf t)).l1Acquire (coreOf t)
  s.modThr t fun _ => s.parkedAgain t { (s.slotImage t).formOver with startCyc := none }

/-- SAVE_DEFERRAL_REPORT: a save that an open packet defers for 2^20 ticks is reported once (R134). -/
def execSaveDeferralReport (t : Nat) (s : State) : Host.Outcome State Fault Refusal :=
  match (s.thr t).saveFrom with
  | some k =>
    if !(s.thr t).packet.isEmpty && !(s.thr t).saveTold && decide (k + 2 ^ 20 ≤ s.tick) then
      .next ((s.modThr t fun x => { x with saveTold := true }).post
        { s.recordFrom t none (reportWords repDeferral t) with src := none, trapRec := false })
    else .next s
  | none => .next s

end Sys2Proof.Machine
end

