-- ==== Sys2Proof/Machine/Control.lean ====
section
/-! DEFINITION. Branches, jumps and the start of a repeat frame (R10, R31, R105 to R107, R158). -/

namespace Sys2Proof.Machine

/-- The issuing thread goes on at an address. -/
def State.jumpTo (s : State) (pc : Word) : State :=
  s.modTh fun t => { t.formOver with pc := pc, st := .ready }

/-- A branch (R105). -/
def State.branch (s : State) (a b : Reg) (off : BitVec 13) (c : Word → Word → Bool) : Host.Outcome State Fault Refusal :=
  .next (if c (s.rg a) (s.rg b) then s.jumpTo (s.th.pc + joff off) else s.done)

/-- `br.eq` (Table 1-10). -/
def execBrEq (a b : Reg) (off : BitVec 13) (s : State) : Host.Outcome State Fault Refusal :=
  s.branch a b off fun x y => x == y

/-- `br.ne` (Table 1-10). -/
def execBrNe (a b : Reg) (off : BitVec 13) (s : State) : Host.Outcome State Fault Refusal :=
  s.branch a b off fun x y => x != y

/-- `br.lt` (Table 1-10). -/
def execBrLt (a b : Reg) (off : BitVec 13) (s : State) : Host.Outcome State Fault Refusal :=
  s.branch a b off fun x y => decide (x.toInt < y.toInt)

/-- `br.ge` (Table 1-10). -/
def execBrGe (a b : Reg) (off : BitVec 13) (s : State) : Host.Outcome State Fault Refusal :=
  s.branch a b off fun x y => decide (y.toInt ≤ x.toInt)

/-- `br.ltu` (Table 1-10). -/
def execBrLtu (a b : Reg) (off : BitVec 13) (s : State) : Host.Outcome State Fault Refusal :=
  s.branch a b off fun x y => decide (x.toNat < y.toNat)

/-- `br.geu` (Table 1-10). -/
def execBrGeu (a b : Reg) (off : BitVec 13) (s : State) : Host.Outcome State Fault Refusal :=
  s.branch a b off fun x y => decide (y.toNat ≤ x.toNat)

/-- `br.any` (Table 1-10). -/
def execBrAny (a b : Reg) (off : BitVec 13) (s : State) : Host.Outcome State Fault Refusal :=
  s.branch a b off fun x y => x &&& y != 0

/-- `br.none` (Table 1-10). -/
def execBrNone (a b : Reg) (off : BitVec 13) (s : State) : Host.Outcome State Fault Refusal :=
  s.branch a b off fun x y => x &&& y == 0

/-- A jump: the link is written after the target is computed (R106). -/
def State.link (s : State) (d : Reg) (target : Word) : State :=
  (s.modTh fun t => t.setG d (t.pc + 4)).jumpTo target

/-- `jal` (R106). -/
def execJal (d : Reg) (off : BitVec 21) (s : State) : Host.Outcome State Fault Refusal :=
  .next (s.link d (s.th.pc + joff off))

/-- `jalr` (R106); a target that is not a multiple of 4 traps MISALIGNED (R10). -/
def execJalr (d a : Reg) (imm : BitVec 16) (s : State) : Host.Outcome State Fault Refusal :=
  let t := s.rg a + simm imm
  finish s (do
    trapIf (bitsAt t 0 2 != 0) cMisaligned t
    .ok (s.link d t))

/-- The body words of a `rep` fetched in order; a fault traps at the `rep` with the faulting word's address (R158). DESIGN CHOICE
(log entry 115): the trap record's word is then the `rep`'s own. -/
def State.fetchBody (s : State) (pc : Nat) : Nat → Except Stop (List Word)
  | 0 => .ok []
  | n + 1 =>
    match s.fetchPc (pc % 2 ^ 64) with
    | .word w => do
      let r ← s.fetchBody (pc + 4) n
      .ok (BitVec.ofNat 64 w :: r)
    | .trap t => .error (.trap { t with info := BitVec.ofNat 64 pc })
    | .miss (.pageWalk va) => .error (.walk va)
    | .miss _ => .error (.line (pc % 2 ^ 64))

/-- `rep` (R158): the body is fetched and the frame becomes active. -/
def execRep (n : BitVec 8) (len sd sa sb : BitVec 4) (s : State) : Host.Outcome State Fault Refusal :=
  finish s (do
    let ws ← s.fetchBody (s.th.pc.toNat + 4) (len.toNat + 1)
    .ok (s.modTh fun t =>
      { t.formOver with
               kfbuf := Vector.ofFn fun i => ws.getD i.val (t.kfbuf.get i),
               kfstg := BitVec.ofNat 64 (sb.toNat * 256 + sa.toNat * 16 + sd.toNat),
               kfcnt := BitVec.ofNat 64 (65536 + n.toNat * 256),
               kfidx := BitVec.ofNat 64 (len.toNat * 16),
               pc := t.pc + 4, st := .waiting, before := some t.regs,
               wait := some { kind := .reply, d := 0, since := s.tick, e := 15 } }))

end Sys2Proof.Machine
end

