-- ==== Sys2Proof/Machine/Launches.lean ====
section
/-! DEFINITION. Launch queues: choice, start, end, pre-emption and resumption of launches (R41, R79, R218, R221, R289 to
R297, R318). -/

namespace Sys2Proof.Machine

/-! ## Records (R289) -/

/-- A field of a record (Table 15-1). -/
def LqRec.field (r : LqRec) (off n : Nat) : Nat := fieldOf r.img off n

/-- A field of a record written. -/
def LqRec.put (r : LqRec) (off n v : Nat) : LqRec :=
  { r with img := r.img.take off ++ bytesOf v n ++ r.img.drop (off + n) }

def LqRec.lid (r : LqRec) : Nat := r.field 0 2
def LqRec.asid (r : LqRec) : Nat := r.field 2 2
def LqRec.prio (r : LqRec) : Nat := r.field 4 1
def LqRec.rtc (r : LqRec) : Bool := r.field 5 1 % 2 == 1
def LqRec.multi (r : LqRec) : Bool := r.field 5 1 / 2 % 2 == 1
def LqRec.ctx (r : LqRec) : Nat := r.field 6 1
def LqRec.state (r : LqRec) : Nat := r.field 7 1
def LqRec.entry (r : LqRec) : Nat := r.field 8 8
def LqRec.karg (r : LqRec) : Nat := r.field 0x10 8
def LqRec.scratch (r : LqRec) : Nat := r.field 0x18 4
def LqRec.enq (r : LqRec) : Nat := r.field 0x20 8
def LqRec.cls (r : LqRec) : Nat := r.field 0x30 8
def LqRec.grps (r : LqRec) : Nat := r.field 0x38 8

/-- The lids of `deps`, 0 for an unused slot. -/
def LqRec.deps (r : LqRec) : List Nat := (List.range 4).map fun i => r.field (0x28 + 2 * i) 2

/-- The cores of a die that the record's bits name. -/
def LqRec.cores (r : LqRec) : List Nat := (List.range 512).filter fun i => r.field 0x40 64 / 2 ^ i % 2 == 1

/-! The blocks that a record's `cls` and `grps` point to. DESIGN CHOICE (log entry 81): the spec gives sixteen bindings of 8
bytes as in CLASS records, and for the groups a count with the entries to install; the model has class 255 for a binding
that is not used, in `entry` the low half of an address whose high half is that of the launch entry, and after a count
of 8 bytes GROUP records whose `name` is the group id. -/

/-- The class bindings of a block as bytes. -/
def classBytes (cs : List ClassRec) : List Byte :=
  (List.range 16).flatMap fun i => match cs[i]? with
    | some c => bytesOf c.cls 1 ++ bytesOf c.ctx 1 ++ bytesOf 0 2 ++ bytesOf ((c.entry.map fun a => bitsAt a 0 32).getD 0) 4
    | none => bytesOf 255 8

/-- The class bindings of a block; `entry` is the launch entry. -/
def classBlock (m : List Host.Cell) (pa : Nat) (entry : Word) : List ClassRec :=
  (List.range 16).filterMap fun i =>
    let b := memRead m (pa + 8 * i) 8
    let e := fieldOf b 4 4
    if 15 < fieldOf b 0 1 then none
    else some { cls := fieldOf b 0 1, ctx := fieldOf b 1 1 % 16,
                entry := if e = 0 then none else some (BitVec.ofNat 64 (bitsAt entry 32 32 * 2 ^ 32 + e)) }

/-- The group block of some groups as bytes. -/
def groupBytes (gs : List GroupRec) : List Byte :=
  bytesOf gs.length 8 ++ gs.flatMap fun g =>
    bytesOf g.gid 4 ++ bytesOf g.expected 2 ++ bytesOf g.corelo 2 ++ bytesOf g.corehi 2 ++ bytesOf g.ctxmask 2 ++ bytesOf 0 4

/-- The groups of a block. -/
def groupBlock (m : List Host.Cell) (pa : Nat) : List GroupRec :=
  (List.range (natOfBytes (memRead m pa 8) % 4096)).map fun i =>
    let b := memRead m (pa + 8 + 16 * i) 16
    { gid := fieldOf b 0 4, expected := fieldOf b 4 2, corelo := fieldOf b 6 2, corehi := fieldOf b 8 2,
      ctxmask := fieldOf b 10 2 }

/-- Record states (Table 15-2). -/
def lqFree : Nat := 0
def lqQueued : Nat := 1
def lqRunning : Nat := 2
def lqSaving : Nat := 3
def lqSaved : Nat := 4
def lqEnded : Nat := 5
def lqStopped : Nat := 6

/-- A record of a die. -/
def State.lqRec (s : State) (die slot : Nat) : LqRec := (s.die die).lq.get LqRec.free slot

/-- One record of a die written. -/
def State.setLq (s : State) (die slot : Nat) (r : LqRec) : State := s.modDie die fun d => { d with lq := d.lq.set slot r }

/-- The records of a die that are not FREE. -/
def Die.live (d : Die) : List LqRec := (d.lq.map (·.2)).filter fun r => r.state != lqFree

/-- The records of the package that are not FREE. -/
def State.liveRecs (s : State) : List LqRec := s.dies.flatMap fun e => e.2.live

/-- The record of a lid. -/
def State.recOf (s : State) (lid : Nat) : Option LqRec := s.liveRecs.find? fun r => r.lid == lid

/-- The state of a launch. -/
def State.lstate (s : State) (lid : Nat) : Nat := ((s.recOf lid).map LqRec.state).getD lqFree

/-- Every die changed. -/
def State.mapDies (s : State) (f : Die → Die) : State := { s with dies := s.dies.map fun e => (e.1, f e.2) }

/-- Every record of a lid changed, on each of its dies. -/
def State.modRecs (s : State) (lid : Nat) (f : LqRec → LqRec) : State :=
  s.mapDies fun d =>
    { d with lq := d.lq.map fun x => if x.2.state != lqFree && x.2.lid == lid then (x.1, f x.2) else x }

/-- The state of a launch written. -/
def State.setLstate (s : State) (lid st : Nat) : State := s.modRecs lid fun r => r.put 7 1 st

/-- A command of `lqcmd` on a lid that was in progress ends: `lqstat` of the dies whose last command it is (R296). -/
def State.endCmd (s : State) (cmd lid v : Nat) : State :=
  s.mapDies fun d =>
    if d.lqstat = 1 ∧ bitsAt d.lqcmd 0 8 = cmd ∧ bitsAt d.lqcmd 24 16 = lid then { d with lqstat := v } else d

/-- The cores of a launch, with and without a launch core number. -/
def Launch.cores (l : Launch) : List Nat := l.set ++ l.extra

/-- The dies of a launch's cores. -/
def Launch.dies (l : Launch) : List Nat := (l.cores.map coreDie).eraseDups

/-- The clusters of a launch's cores. -/
def Launch.clusters (l : Launch) : List Nat := (l.cores.map clusterOf).eraseDups

/-! ## Stopping what depends (R290) -/

/-- The lids of QUEUED records that name a lid in `deps`. -/
def State.dependents (s : State) (lid : Nat) : List Nat :=
  ((s.liveRecs.filter fun r => r.state == lqQueued && r.deps.contains lid).map LqRec.lid).eraseDups

/-- A launch is STOPPED, and so are the QUEUED records that depend on it, of which the service is told; the fuel is the
depth of dependence. -/
def stopLaunch : Nat → State → Nat → State
  | 0, s, lid => s.setLstate lid lqStopped
  | n + 1, s, lid =>
    let s := s.setLstate lid lqStopped
    (s.dependents lid).foldl (fun s d => stopLaunch n (s.postService (reportWords repStopped d)) d) s

/-- A launch is STOPPED (Table 15-2). -/
def State.stopped (s : State) (lid : Nat) : State := stopLaunch s.liveRecs.length s lid

/-! ## Choice (R291, R292, R318) -/

/-- Every dependence of a record is met (R290). -/
def State.depsMet (s : State) (r : LqRec) : Bool :=
  r.unbound.isEmpty && r.deps.all fun d => d == 0 || s.lstate d == lqEnded

/-- The order of R291. -/
def LqRec.before (a b : LqRec) : Bool :=
  decide (b.prio < a.prio) || (a.prio == b.prio &&
    (decide (a.enq < b.enq) || (a.enq == b.enq && decide (a.lid < b.lid))))

/-- The first of some records in the order of R291. -/
def firstRec : List LqRec → Option LqRec
  | [] => none
  | r :: rest =>
    match firstRec rest with
    | none => some r
    | some q => if q.before r then some q else some r

/-- A stall keeps what the batten of a core holds from being published (R205). -/
def State.battenStuck (s : State) (ck : Nat) : Bool :=
  !(s.cor ck).batten.isEmpty && ((s.cor ck).stall.isSome || (s.clu (clusterOf ck)).pstall.isSome)

/-- The core is online and free. DESIGN CHOICE (log entry 44): one whose batten still holds what a stall has held back is given to
no launch, since R209 has the batten published before that. -/
def State.coreFree (s : State) (ck : Nat) : Bool :=
  (s.cor ck).launch.isNone && (s.die (coreDie ck)).online && !s.battenStuck ck

/-- A cluster may take a launch of an address space (R221): its cores serve that space already, or none of them runs a
launch, no run of it is stalled, and its lathe is empty. -/
def State.clusterOpen (s : State) (cl asid : Nat) : Bool :=
  let cks := (List.range 8).map (8 * cl + ·)
  s.clusterAsid cl == asid ||
  (cks.all (fun ck => (s.cor ck).launch.isNone && (s.cor ck).stall.isNone) && (s.clu cl).pstall.isNone &&
    (s.clu cl).lathe.isEmpty)

/-- A record has its resources, and no checkpoint is in progress (R221, R246, R291, R316). -/
def State.startable (s : State) (r : LqRec) : Bool :=
  let l := s.launchOf r.lid
  s.ckptRun.isNone && l.cores.all s.coreFree && l.clusters.all (fun cl => s.clusterOpen cl r.asid) &&
  !(l.clusters.any fun cl => (s.clu cl).lathe.any fun q => l.cores.contains q.core) &&
  (!r.rtc || l.dies.all fun d => (s.die d).rtClaim.isNone)

/-- The record that a die's pass starts next, if any (R291). -/
def State.nextStart (s : State) (die : Nat) : Option LqRec :=
  match firstRec ((s.die die).live.filter fun r => r.state == lqQueued && !r.multi && s.depsMet r) with
  | some r => if s.startable r then some r else none
  | none => none

/-- The multi-die record that the package arbiter starts next, if any (R318). -/
def State.nextMulti (s : State) : Option LqRec :=
  match firstRec (s.liveRecs.filter fun r => r.state == lqQueued && r.multi && s.depsMet r) with
  | some r => if s.startable r then some r else none
  | none => none

/-! ## Start (R41, R79, R221, R298, R303) -/

/-- A cluster still holds keyed entries (R221). -/
def State.clusterHolds (s : State) (cl : Nat) : Bool :=
  ((List.range 8).any fun i => !(s.cor (8 * cl + i)).batten.isEmpty) || !(s.clu cl).purlin.isEmpty

/-- A core of a cluster that runs no launch has entries in its batten, which are published before it is given away (R209). -/
def State.clusterOwes (s : State) (cl : Nat) : Bool :=
  (List.range 8).any fun i => (s.cor (8 * cl + i)).launch.isNone && !(s.cor (8 * cl + i)).batten.isEmpty && !s.battenStuck (8 * cl + i)

/-- The clusters that must first be cleared for an address space (R209, R221). -/
def State.toClear (s : State) (asid : Nat) (cls : List Nat) : List Nat :=
  cls.filter fun cl => (s.clusterAsid cl != asid && s.clusterHolds cl) || s.clusterOwes cl

/-- A core's batten is published at package scope for the service (R209, R221, R293). -/
def State.addPub (s : State) (ck : Nat) : State :=
  let p := s.newPub ck none false true
  if p.over then s else s.modCor ck fun c => { c with pubs := c.pubs ++ [p] }

/-- A publication for the service. -/
def Pub.forService (p : Pub) : Bool := p.owner.isNone && p.wide

/-- A publication of a core for the service is in progress. -/
def Core.flushes (c : Core) : Bool := c.pubs.any Pub.forService

/-- A cluster is being cleared. -/
def State.clearing (s : State) (cl : Nat) : Bool := (s.cluPubs cl).any Pub.forService

/-- The clearing of a cluster begins: the battens of its free cores, and then the purlin, are published at package scope (R209, R221). -/
def State.startClear (s : State) (cl : Nat) : State :=
  let cks := (List.range 8).map (8 * cl + ·)
  match cks.filter fun ck => (s.cor ck).launch.isNone && !(s.cor ck).batten.isEmpty with
  | [] => s.addPub (8 * cl)
  | mine => mine.foldl State.addPub s

/-- The clearing of some clusters begins where it has not. -/
def State.startClears (s : State) (cls : List Nat) : State :=
  cls.foldl (fun s cl => if s.clearing cl then s else s.startClear cl) s

/-- Cleared clusters serve another address space. -/
def State.retag (s : State) (asid : Nat) (cls : List Nat) : State :=
  { s with cores := s.cores.map fun e =>
      if cls.contains (clusterOf e.1) && decide (e.1 < 8192) then (e.1, { e.2 with asid := asid }) else e }

/-- The 8-byte words of a scratchpad image from a word on (R41). -/
def imageWords (bs : List Byte) : AMap Word :=
  (List.range ((bs.length + 7) / 8)).foldl (fun m i =>
    AMap.put 0 m i (BitVec.ofNat 64 (natOfBytes ((bs.drop (8 * i)).take 8)))) []

/-- The class table of a launch (R116). -/
def classTable (cs : List ClassRec) : AMap ClassEnt :=
  cs.foldl (fun m c => m.set c.cls { ctx := c.ctx, entry := c.entry }) []

/-- A core as a launch starts on it (R41, R79, R131, R222): what belongs to the issue rotation, to keyed memory and to the
link layer is kept. -/
def Core.started (c : Core) (lid : Nat) (r : LqRec) (l : Launch) (i n : Nat) : Core :=
  { Core.init with
    launch := some lid, asid := r.asid, lcore := i, nctx := n, scr := r.scratch,
    scratch := imageWords l.sdata, classes := classTable l.classes, wtq := c.wtq, batten := c.batten, stall := c.stall,
    merging := c.merging, seq := c.seq, resent := c.resent, issued := c.issued }

/-- The members of a group in index order (R46, R298). -/
def GroupRec.members (g : GroupRec) (set : List Nat) : List Nat :=
  (List.range (g.corehi + 1 - g.corelo)).flatMap fun i =>
    ((List.range 16).filter fun c => g.ctxmask / 2 ^ c % 2 == 1).map fun c => threadOf (set.getD (g.corelo + i) 0) c

/-- A group-table entry at the start of its launch (R298). -/
def GroupRec.fresh (g : GroupRec) (asid : Nat) (set : List Nat) : Group :=
  let ms := g.members set
  { asid := asid, members := ms, c := 0, bits := [], gone := [], x := if g.expected = 0 then ms.length else g.expected, lv := 0 }

/-- The `kgrp` registers of a thread: its groups, lowest record first, at most four (R46, R86). DESIGN CHOICE (log entry 109): a
context that a file puts into more starts in the first four. -/
def Launch.kgrp (l : Launch) (t : Nat) : Vector Word 4 :=
  let ids := (l.groups.filter fun g => (g.members l.set).contains t).map (·.gid)
  Vector.ofFn fun i => match ids[i.val]? with
    | some g => BitVec.ofNat 64 (0x1000 + g)
    | none => 0

/-- A context at the start of its launch (R41, R79): parked where a class binding with an entry names it. -/
def Launch.thread (l : Launch) (r : LqRec) (ck c : Nat) : Thread :=
  let parked := l.classes.any fun x => x.ctx == c && x.entry.isSome
  { Thread.init with
    pc := entryPc (BitVec.ofNat 64 r.entry), karg := BitVec.ofNat 64 r.karg, kgrp := l.kgrp (threadOf ck c),
    st := if parked then .parked else .ready, parkedStart := parked }

/-- A core of a starting launch: reset, its tables loaded, its contexts started. -/
def State.startCore (s : State) (r : LqRec) (l : Launch) (ck i n : Nat) : State :=
  let s := s.modCor ck fun c => c.started r.lid r l i n
  (List.range n).foldl (fun s c => s.setThr (threadOf ck c) (l.thread r ck c)) s

/-- STARTING A LAUNCH (R41, R221, R291, R303, R318): once its clusters are cleared, every core is reset and every table
loaded before any context runs. -/
def State.startLaunch (s : State) (r : LqRec) : State :=
  let l := s.launchOf r.lid
  let cls := s.toClear r.asid l.clusters
  if !cls.isEmpty then s.startClears cls
  else
    let s := s.retag r.asid l.clusters
    let s := l.groups.foldl (fun s g => { s with groups := s.groups.set g.gid (g.fresh r.asid l.set) }) s
    let s := (l.set.zipIdx).foldl (fun s e => s.startCore r l e.1 e.2 r.ctx) s
    let s := l.extra.foldl (fun s ck => s.startCore r l ck 0 0) s
    let s := if r.rtc then l.dies.foldl (fun s d => s.modDie d fun x => { x with rtClaim := some r.lid, rtCount := [] }) s else s
    s.setLstate r.lid lqRunning

/-- The start of a record has something to do: its clusters are clear, or the clearing of one is to begin. -/
def State.startMoves (s : State) (r : LqRec) : Bool :=
  let cls := s.toClear r.asid (s.launchOf r.lid).clusters
  cls.isEmpty || cls.any fun cl => !s.clearing cl

/-- LAUNCH_START: the first queued launch of a die starts if it has its resources (R291). -/
def execLaunchStart (die : Nat) (s : State) : Host.Outcome State Fault Refusal :=
  .next (match s.nextStart die with
    | some r => s.startLaunch r
    | none => s)

/-- MULTI_DIE_LAUNCH_START: the package arbiter starts the first multi-die launch if it has its resources (R318). -/
def execMultiDieLaunchStart (s : State) : Host.Outcome State Fault Refusal :=
  .next (match s.nextMulti with
    | some r => s.startLaunch r
    | none => s)

/-- A QUEUED record is due for promotion (R292). -/
def LqRec.promotable (r : LqRec) (tick : Nat) : Bool :=
  r.state == lqQueued && decide (r.prio < 3) && decide (r.since + 2 ^ 20 ≤ tick)

/-- LAUNCH_PRIORITY_PROMOTION: a QUEUED record of a die gains one priority for 2^20 ticks at its own (R292). -/
def execLaunchPriorityPromotion (die : Nat) (s : State) : Host.Outcome State Fault Refusal :=
  .next (match (s.die die).live.find? (·.promotable s.tick) with
    | some r => s.modRecs r.lid fun q => { q.put 4 1 (r.prio + 1) with since := r.since + 2 ^ 20 }
    | none => s)

/-! ## The end of a launch (R91, R209, R246, R290, R295) -/

/-- A core of a launch still has engine work: a copy, a lathe request, a part of the joint array, or a group request in
the link (R246, R283, R284, R319). -/
def State.coreBusy (s : State) (ck : Nat) : Bool :=
  (List.range 16).any (fun u => ((s.die (coreDie ck)).copyQ u).any fun c => coreOf c.thread == ck) ||
  (s.clu (clusterOf ck)).lathe.any (·.core == ck) ||
  ((s.clu (clusterOf ck)).joined.any fun x => coreOf x.thread == ck) || !(s.cor ck).outq.isEmpty

/-- Every context of a RUNNING launch has ended and its engine work is done. -/
def State.launchOver (s : State) (lid : Nat) : Bool :=
  s.lstate lid == lqRunning && (s.launchThreads lid).all (fun t => (s.thr t).st == .ended) &&
  !((s.launchCores lid).any s.coreBusy)

/-- The battens of some cores are published at package scope, their dirty words written through first (R129, R209, R293). -/
def State.flushCores (s : State) (cks : List Nat) : State := cks.foldl (fun s ck => (s.l1Release ck).addPub ck) s

/-- A publication of one of some cores for the service is in progress. -/
def State.flushing (s : State) (cks : List Nat) : Bool := cks.any fun ck => (s.cor ck).flushes

/-- The work on a launch whose battens must be published first: it begins, or once it is done the rest follows. -/
def State.afterFlush (s : State) (lid : Nat) (f : State → State) : State :=
  let cks := s.launchCores lid
  if (s.launchOf lid).flushing then (if s.flushing cks then s else f s)
  else
    let s := s.flushCores cks
    if s.flushing cks then s.modLaunch lid fun l => { l with flushing := true } else f s

/-- That work has something to do. -/
def State.flushMoves (s : State) (lid : Nat) : Bool := !(s.launchOf lid).flushing || !s.flushing (s.launchCores lid)

/-- The stall of a core's batten that remains goes to the service with its fault message (R209). -/
def State.handStall (s : State) (x : Option Stall) : State :=
  match x with
  | some x => s.postService x.msg
  | none => s

/-- A core is reset when its launch has ended (R209, R295): its mailbox is discarded, a stall that remains goes to the
service, and the core is free. Keyed entries that a stall holds back stay. -/
def State.resetCore (s : State) (ck : Nat) : State :=
  let s := s.handStall (s.cor ck).stall
  let s := s.modCor ck fun c =>
    { Core.init with asid := c.asid, batten := c.batten, stall := c.stall, merging := c.merging,
                     seq := c.seq, resent := c.resent, issued := c.issued }
  { s with threads := s.threads.filter fun e => coreOf e.1 != ck }

/-- A post that names a launch that has ended: a trap record for it goes to the service; none names it any more, since its
lid may name another (R2, R94, R289). -/
def Post.unnamed (p : Post) (lid : Nat) : Post :=
  let p := if p.lid = some lid then { p with core := none, lid := none } else p
  { p with src := if p.src = some lid then none else p.src, fwd := if p.fwd.any (·.2.2 == some lid) then none else p.fwd }

/-- A message of a launch that goes with its mailboxes: no trap record (R91, R94). -/
def Post.gone (p : Post) (lid : Nat) : Bool := p.lid == some lid && !p.trapRec

/-- Messages for a launch that wait in a trap queue or are on their way: at its end trap records go to the service, the
others are discarded with the mailboxes (R91, R94). -/
def State.dropWaiting (s : State) (lid : Nat) : State :=
  let waiting := s.dies.flatMap fun e => e.2.trapQ.filter fun p => p.lid == some lid
  { s.mapDies (fun d => { d with trapQ := (d.trapQ.filter fun p => p.lid != some lid).map (·.unnamed lid) }) with
    transit := ((s.transit ++ waiting).filter fun p => !p.gone lid).map (·.unnamed lid)
    service := s.service.map (·.unnamed lid) }

/-- The claim of a launch on routing counters released (R295, R303). -/
def State.releaseClaim (s : State) (lid : Nat) : State :=
  s.mapDies fun d => if d.rtClaim = some lid then { d with rtClaim := none } else d

/-- The group-table entries of a launch emptied; they stay reserved (R298). -/
def State.emptyGroups (s : State) (l : Launch) (asid : Nat) : State :=
  l.groups.foldl (fun s g => { s with groups := s.groups.set g.gid (Group.empty asid) }) s

/-- What a launch holds beyond its cores is given up. -/
def State.releaseLaunch (s : State) (lid : Nat) : State :=
  ((s.releaseClaim lid).dropXpf lid).emptyGroups (s.launchOf lid) (((s.recOf lid).map LqRec.asid).getD 0)

/-- A launch whose battens are published ends: its cores are reset and its record becomes ENDED, or STOPPED where the
service stopped it (R290, R295). -/
def State.endLaunch (s : State) (lid : Nat) : State :=
  let cks := s.launchCores lid
  let s := (cks.map clusterOf).eraseDups.foldl (fun s cl => s.handStall (s.clu cl).pstall) s
  let s := ((cks.foldl State.resetCore s).releaseLaunch lid).dropWaiting lid
  let s := s.modLaunch lid fun l => { l with flushing := false }
  if (s.launchOf lid).stopping then (s.stopped lid).endCmd 4 lid 0 else s.setLstate lid lqEnded

/-- LAUNCH_END: every context of a launch has ended: its battens are published, and then it ends (R209, R290, R295). -/
def execLaunchEnd (lid : Nat) (s : State) : Host.Outcome State Fault Refusal :=
  .next (if s.launchOver lid then s.afterFlush lid (·.endLaunch lid) else s)

/-! ## Pre-emption (R293, R297) -/

/-- Pre-emption begins: every context that has not ended is to be saved; each die's save writes to one of its stacks,
which one being free (R293, R297). -/
def State.preempt (s : State) (lid : Nat) : State :=
  let s := (s.launchThreads lid).foldl (fun s t => s.modThr t fun x =>
    if x.st = .ended ∨ x.st = .saved ∨ x.st = .idle then x else { x with saveFrom := some (x.saveFrom.getD s.tick) }) s
  let (k, s) := s.draw
  let s := s.modLaunch lid fun l =>
    { l with saveStack := l.dies.map fun d => (d, Config.place (k + d) % 2), resume := false }
  s.setLstate lid lqSaving

/-- A stack that a save of a die writes to. -/
def State.savesTo (s : State) (die stack : Nat) : Bool :=
  s.launches.any fun e => s.lstate e.1 == lqSaving && (e.2.saveStack.find die).map (· % 2) == some stack

/-- A save that has been moved writes to a stack of a die (R297). -/
def State.movedTo (s : State) (die stack : Nat) : Bool :=
  s.launches.any fun e => s.lstate e.1 == lqSaving && e.2.saveStack.find die == some (stack + 2)

/-- A stack of a die. -/
def Die.stack (d : Die) (i : Nat) : HbmStack :=
  d.hbm.getD i { rate := 2, target := none, deferred := none, asked := none, failed := false }

/-- A stack of a die changed. -/
def State.modStack (s : State) (die i : Nat) (f : HbmStack → HbmStack) : State :=
  s.modDie die fun d => { d with hbm := d.hbm.set i (f (d.stack i)) }

/-- A deferred retraining of a stack begins (R297). -/
def HbmStack.startDeferred (h : HbmStack) : HbmStack :=
  match h.deferred with
  | some (rate, _) => { h with target := some rate, deferred := none }
  | none => h

/-- Deferred retrainings whose stack no save writes to begin (R297). -/
def State.startDeferred (s : State) : State :=
  (List.range 24).foldl (fun s k =>
    if ((s.die (k / 2)).stack (k % 2)).deferred.isSome && !s.savesTo (k / 2) (k % 2) then
      s.modStack (k / 2) (k % 2) HbmStack.startDeferred else s) s

/-- The image of a SAVING launch can be completed: every context saved or ended, engine work done, and each stack it
writes to open to traffic (R293, R297). -/
def State.imageReady (s : State) (lid : Nat) : Bool :=
  s.lstate lid == lqSaving && (s.launchThreads lid).all (fun t => (s.thr t).st == .saved || (s.thr t).st == .ended) &&
  !((s.launchCores lid).any s.coreBusy) &&
  (s.launchOf lid).saveStack.all fun e => ((s.die e.1).stack (e.2 % 2)).target.isNone

/-- The TID of a thread while its launch is SAVED. -/
def savedAs (lid t : Nat) : Nat := 2 ^ 20 * lid + t

/-- The tables that name threads, with some threads renamed (R136, R294). -/
def State.rename (s : State) (f : Nat → Nat) : State :=
  { s with
    slices := s.slices.map fun e => (e.1, { e.2 with ents := e.2.ents.map fun x => { x with thread := f x.thread } })
    calls := s.calls.map fun c => { c with thread := f c.thread }
    remoteWaits := s.remoteWaits.map fun w => match w.work with
      | .restore t reg asid n ds left => { w with work := .restore (f t) reg asid n ds left }
      | _ => w }

/-- A core leaves for the image of its launch; batten entries that a stall holds back go with it (R293). -/
def State.saveCore (s : State) (lid ck : Nat) : State :=
  let s := s.l1Release ck
  let c := { s.cor ck with l1 := [], icache := [], tlb := [], pubs := [] }
  let s := s.modLaunch lid fun l => { l with images := l.images.set ck c }
  let s := s.modCor ck fun c =>
    { Core.init with asid := c.asid, seq := c.seq, resent := c.resent, issued := c.issued }
  let mine := s.threads.filter fun e => coreOf e.1 == ck
  let s := { s with threads := s.threads.filter fun e => coreOf e.1 != ck }
  mine.foldl (fun s e => s.setThr (savedAs lid e.1) e.2) s

/-- The image of a launch whose battens are published is written: the launch is SAVED and its cores are free (R293). -/
def State.saveLaunch (s : State) (lid : Nat) : State :=
  let cks := s.launchCores lid
  let s := (cks.foldl (fun s ck => s.saveCore lid ck) s).rename fun t =>
    if !savedTid t && cks.contains (coreOf t) then savedAs lid t else t
  let s := s.modLaunch lid fun l => { l with flushing := false }
  ((s.setLstate lid lqSaved).endCmd 2 lid 0).startDeferred

/-- LAUNCH_SAVE_COMPLETE: every context of a SAVING launch is saved and its work done: its prefetch requests are
cancelled, its battens are published, and then its image is complete (R293). -/
def execLaunchSaveComplete (lid : Nat) (s : State) : Host.Outcome State Fault Refusal :=
  .next (if s.imageReady lid then (s.dropXpf lid).afterFlush lid (·.saveLaunch lid) else s)

/-! ## Resumption (R294) -/

/-- A SAVED launch that the service resumes can restart: its cores are free and hold nothing of another launch (R221,
R290, R294). -/
def State.resumable (s : State) (lid : Nat) : Bool :=
  let l := s.launchOf lid
  s.lstate lid == lqSaved && l.resume && s.ckptRun.isNone &&
  l.cores.all (fun ck => !(s.die (coreDie ck)).online || (s.coreFree ck && (s.cor ck).batten.isEmpty)) &&
  l.clusters.all (fun cl => s.clusterOpen cl (((s.recOf lid).map LqRec.asid).getD 0))

/-- A core of a launch whose image a failed die has taken: it comes back with the launch's contexts, which have ended
(R305). -/
def State.lostImage (s : State) (lid ck : Nat) : Core :=
  { Core.init with launch := some lid,
                   nctx := if (s.launchOf lid).set.contains ck then ((s.recOf lid).map LqRec.ctx).getD 0 else 0 }

/-- A core reloaded from its image, and its contexts moved back and restored (R135, R294). -/
def State.reloadCore (s : State) (lid ck : Nat) : State :=
  let img := ((s.launchOf lid).images.find ck).getD (s.lostImage lid ck)
  let s := s.modCor ck fun c => { img with seq := c.seq, resent := c.resent, issued := c.issued }
  let mine := s.threads.filter fun e => e.1 / 2 ^ 20 == lid && coreOf (e.1 % 2 ^ 20) == ck
  let s := { s with threads := s.threads.filter fun e => !(e.1 / 2 ^ 20 == lid && coreOf (e.1 % 2 ^ 20) == ck) }
  mine.foldl (fun s e =>
    let t := e.1 % 2 ^ 20
    let s := s.setThr t e.2
    if e.2.st = .saved then s.restoreContext t else s) s

/-- The address space of a launch. -/
def State.launchAsid (s : State) (lid : Nat) : Nat := ((s.recOf lid).map LqRec.asid).getD 0

/-- A launch restarts on its cleared cores (R294). -/
def State.reload (s : State) (lid : Nat) : State :=
  let l := s.launchOf lid
  let s := (l.cores.foldl (fun s ck => s.reloadCore lid ck) (s.retag (s.launchAsid lid) l.clusters)).rename fun t =>
    if t / 2 ^ 20 = lid then t % 2 ^ 20 else t
  let s := s.modLaunch lid fun l => { l with images := [], resume := false, saveStack := [] }
  (s.setLstate lid lqRunning).endCmd 3 lid 0

/-- LAUNCH_RESUME_START: a resumed launch restarts on its own cores, once their clusters are cleared for it; the messages
that waited for it are delivered after the reload (R221, R294). -/
def execLaunchResumeStart (lid : Nat) (s : State) : Host.Outcome State Fault Refusal :=
  if !s.resumable lid then .next s
  else
    let cls := s.toClear (s.launchAsid lid) (s.launchOf lid).clusters
    .next (if cls.isEmpty then s.reload lid else s.startClears cls)

/-- The resumption of a launch has something to do. -/
def State.resumeMoves (s : State) (lid : Nat) : Bool :=
  let cls := s.toClear (s.launchAsid lid) (s.launchOf lid).clusters
  cls.isEmpty || cls.any fun cl => !s.clearing cl

/-! ## The commands of `lqcmd` (R290, R295, R296) -/

/-- `lqstat` of a die. -/
def State.lqDone (s : State) (die v : Nat) : State := s.modDie die fun d => { d with lqstat := v }

/-- A core set in the order of die and core. -/
def sortCores (cs : List Nat) : List Nat := (List.range 6144).filter cs.contains

/-- The launch of a record that is queued: a new one, built from the record and its blocks, or for a further die of a
multi-die launch the one that its other records have built, with this die's cores (R289, R318; log entry 81). -/
def LqRec.launch (r : LqRec) (s : State) (die : Nat) : Launch :=
  let mine := r.cores.map (512 * die + ·)
  match s.launches.find r.lid with
  | some l => { l with set := sortCores (l.set ++ mine) }
  | none =>
    { Launch.init with
      asid := r.asid, set := mine, sdata := ((s.spaces.find r.asid).map (·.sdata)).getD [],
      classes := classBlock s.mem r.cls (BitVec.ofNat 64 r.entry), groups := groupBlock s.mem r.grps }

/-- The end of an address space is accepted and waits for operations on its windows (R375). -/
def State.spaceEnding (s : State) (asid : Nat) : Bool :=
  s.remoteWaits.any fun w => match w.work with
    | .unload _ a => a == asid
    | _ => false

/-- A record may join a lid in use: all its records are multi-die, QUEUED and of one address space (R289, R318). DESIGN CHOICE
(log entry 120): none is queued for an address space whose end is accepted. -/
def State.mayJoin (s : State) (r : LqRec) : Bool :=
  !s.spaceEnding r.asid && (s.liveRecs.filter fun q => q.lid == r.lid).all fun q =>
    r.multi && q.multi && q.state == lqQueued && q.asid == r.asid

/-- `submit` (R289, R296): a FREE record is queued. -/
def State.lqSubmit (s : State) (die slot : Nat) : State :=
  let r := s.lqRec die slot
  if r.state = lqFree ∧ r.lid ≠ 0 ∧ s.mayJoin r then
    let l := r.launch s die
    let s := s.setLq die slot { (r.put 7 1 lqQueued).put 0x20 8 s.tick with since := s.tick }
    let s := (s.modLaunch r.lid fun _ => l).lqDone die 0
    if r.deps.any (fun d => d != 0 && s.lstate d == lqStopped) then s.stopped r.lid else s
  else s.lqDone die 2

/-- A die holds a record of a lid. -/
def State.dieHolds (s : State) (die lid : Nat) : Bool := (s.die die).live.any (·.lid == lid)

/-- `pre-empt` (R293, R296). DESIGN CHOICE (log entry 132): Table 15-2 does not say what it does to a RUNNING launch whose stop is
in progress; the model refuses it. -/
def State.lqPreempt (s : State) (die lid : Nat) : State :=
  if s.dieHolds die lid && s.lstate lid == lqRunning && !(s.launchOf lid).stopping then (s.preempt lid).lqDone die 1
  else s.lqDone die 2

/-- `resume` (R294, R296). -/
def State.lqResume (s : State) (die lid : Nat) : State :=
  if s.dieHolds die lid && s.lstate lid == lqSaved then (s.modLaunch lid fun l => { l with resume := true }).lqDone die 1
  else s.lqDone die 2

/-- The batten entries that a stall has left in an image go to the service: core, name and value (R209, R295). -/
def State.reportBatten (s : State) (ck : Nat) (c : Core) : State :=
  c.batten.foldl (fun s b => s.postService (reportWords repStall ck ++
    [BitVec.ofNat 64 b.1, BitVec.ofNat 64 b.2.toNat, BitVec.ofNat 64 (b.2.toNat / 2 ^ 64)])) s

/-- The image of a SAVED launch discarded: its contexts end (R91, R290), and its stalls go to the service (R209, R295). -/
def State.discardImage (s : State) (lid : Nat) : State :=
  let mine := (s.threads.map (·.1)).filter fun t => t / 2 ^ 20 == lid
  let s := mine.foldl (fun s t => (s.endTenures t).dropCall t) s
  let s := { s with threads := s.threads.filter (fun e => e.1 / 2 ^ 20 != lid) }
  let s := (s.launchOf lid).images.foldl (fun s e => (s.handStall e.2.stall).reportBatten e.1 e.2) s
  (((s.modLaunch lid fun l => { l with images := [], resume := false }).releaseLaunch lid).dropWaiting lid).endCmd 3 lid 2

/-- A launch is being stopped (R295). -/
def State.stop (s : State) (lid : Nat) : State :=
  if s.lstate lid = lqQueued then s.stopped lid
  else if s.lstate lid = lqSaved then (s.discardImage lid).stopped lid
  else ((s.launchThreads lid).foldl State.endThread s).modLaunch lid fun l => { l with stopping := true }

/-- `stop` (R295, R296). -/
def State.lqStop (s : State) (die lid : Nat) : State :=
  let st := s.lstate lid
  if s.dieHolds die lid && (st == lqQueued || st == lqSaved) then (s.stop lid).lqDone die 0
  else if s.dieHolds die lid && st == lqRunning then (s.stop lid).lqDone die 1
  else s.lqDone die 2

/-- The submissions of a space as a freed lid leaves them: 65536 marks one that ended, 65537 one that was stopped
(R290). -/
def freeSubs (m : AMap Nat) (lid st : Nat) : AMap Nat :=
  m.map fun e => if e.2 = lid then (e.1, if st = lqEnded then 65536 else 65537) else e

/-- `free` (R290, R296): refused while a QUEUED record names the lid in `deps`. -/
def State.lqFreeSlot (s : State) (die slot : Nat) : State :=
  let r := s.lqRec die slot
  if (r.state = lqEnded ∨ r.state = lqStopped) ∧ (s.dependents r.lid).isEmpty then
    let s := (s.setLq die slot LqRec.free).lqDone die 0
    if s.liveRecs.any (·.lid == r.lid) then s
    else { s with used := s.used.filter (fun u => r.grps != r.cls + 128 || u.1 != r.cls), launches := s.launches.erase r.lid,
                  spaces := s.spaces.map fun e => if e.1 = r.asid then (e.1, { e.2 with subs := freeSubs e.2.subs r.lid r.state }) else e }
  else s.lqDone die 2

/-- A command of the service: the register holds it (R296). -/
def State.storeCmd (s : State) (die cmd slot lid : Nat) : State :=
  s.modDie die fun d => { d with lqcmd := BitVec.ofNat 64 (cmd + slot % 64 * 2 ^ 8 + lid % 65536 * 2 ^ 24) }

/-- LQ_SUBMIT (R296). -/
def execLqSubmit (die slot : Nat) (s : State) : Host.Outcome State Fault Refusal :=
  .next ((s.storeCmd die 1 slot 0).lqSubmit die slot)

/-- LQ_PREEMPT (R293, R296). -/
def execLqPreempt (die lid : Nat) (s : State) : Host.Outcome State Fault Refusal :=
  .next ((s.storeCmd die 2 0 lid).lqPreempt die lid)

/-- LQ_RESUME (R294, R296). -/
def execLqResume (die lid : Nat) (s : State) : Host.Outcome State Fault Refusal :=
  .next ((s.storeCmd die 3 0 lid).lqResume die lid)

/-- LQ_STOP (R295, R296). -/
def execLqStop (die lid : Nat) (s : State) : Host.Outcome State Fault Refusal :=
  .next ((s.storeCmd die 4 0 lid).lqStop die lid)

/-- LQ_FREE (R290, R296). -/
def execLqFree (die slot : Nat) (s : State) : Host.Outcome State Fault Refusal :=
  .next ((s.storeCmd die 5 slot 0).lqFreeSlot die slot)

end Sys2Proof.Machine
end

