-- ==== Sys2Proof/Machine/Pages.lean ====
section
/-! DEFINITION. The service's work on pages: physical pages, page tables, unmapping and migration (R34, R250, R275,
R276, R286). -/

namespace Sys2Proof.Machine

/-- Bytes of HBM on a die (Table 14-1). -/
def hbmBytes : Nat := 0x1800000000

/-- The physical range that a page of a place may lie in: the HBM of a die below 12, else the devices of second-tier port
p at place 12 + p (R314, R315): its first byte and its bytes. -/
def placeRange (p : Nat) : Nat × Nat :=
  if p < 12 then (hbmBytes * p, hbmBytes) else (0x1000000000000 + (p - 12) * 2 ^ 41, min (Config.cxlBytes (p - 12)) (2 ^ 41))

/-- A range of physical bytes is free. -/
def State.rangeFree (s : State) (b n : Nat) : Bool := s.used.all fun u => !(decide (b < u.1 + u.2) && decide (u.1 < b + n))

/-- A range of physical memory as new: no byte listed, no mark (R328). -/
def State.clearRange (s : State) (b n : Nat) : State :=
  let out := fun (a : Nat) => decide (a < b) || decide (b + n ≤ a)
  { s with mem := s.mem.filter (fun c => out c.1), poison := s.poison.filter fun w => out (8 * w.1) }

/-- Where a range of a place may begin: where the service draws, at the ends of the ranges in use, and at the first
byte. -/
def State.pageCands (s : State) (r : Nat × Nat) (n k : Nat) : List Nat :=
  (r.1 + k % (r.2 / n) * n) :: (s.used.map fun u => (u.1 + u.2 + n - 1) / n * n) ++ [r.1]

/-- A range of bytes lies in that of a place, and is free. -/
def State.pageFits (s : State) (r : Nat × Nat) (n b : Nat) : Bool :=
  decide (r.1 ≤ b) && decide (b + n ≤ r.2 + r.1) && s.rangeFree b n

/-- A range of physical memory in use, as new. -/
def State.takeRange (s : State) (b n : Nat) : State := { s.clearRange b n with used := (b, n) :: s.used }

/-- A free aligned range of a place: where the service puts it is free; the first free candidate counts. -/
def State.allocPage (s : State) (p n : Nat) : Option Nat × State :=
  let x := s.draw
  match (x.2.pageCands (placeRange p) n (Config.place x.1)).find? (x.2.pageFits (placeRange p) n) with
  | some b => (some b, x.2.takeRange b n)
  | none => (none, x.2)

/-- A range of physical pages is in use no more. -/
def State.freePages (s : State) (p : Nat → Bool) : State := { s with used := s.used.filter fun u => !p u.1 }

/-! ## Mapping, and the footing pages of a region (R35, R275, R276, R310) -/

/-- A leaf of a level written, with its replicas, from a table `k` levels above it down; missing tables are placed on a
die (R275, R276). -/
def State.mapLeaf (s : State) (die va level : Nat) (leaf : Word) : Nat → Nat → Option State
  | 0, table =>
    let n := leafCount (pteSize leaf)
    let i := va / 2 ^ (12 + 9 * level) % 512
    some ((List.range n).foldl (fun s j => s.homeWrite (table + 8 * (i - i % n + j)) (bytesOf leaf.toNat 8)) s)
  | k + 1, table =>
    let a := table + 8 * (va / 2 ^ (12 + 9 * (level + k + 1)) % 512)
    let e := memWord s.mem a
    if pteV e then s.mapLeaf die va level leaf k (ptePa e)
    else
      match s.allocPage die 4096 with
      | (some b, s) => (s.homeWrite a (bytesOf (b + 1) 8)).mapLeaf die va level leaf k b
      | (none, _) => none

/-- The size code of the pages of a footing of some MiB: the least that holds it, or the largest there is. -/
def footCode (cap : Nat) : Nat := ((List.range 8).map (· + 4)).find? (fun c => decide (cap * 2 ^ 20 ≤ pageBytes c)) |>.getD 11

/-- The number of those pages. -/
def footPages (cap : Nat) : Nat := max 1 ((cap * 2 ^ 20 + pageBytes (footCode cap) - 1) / pageBytes (footCode cap))

/-- Where the footing of a region on a die is mapped in its address space. DESIGN CHOICE (log entry 82). -/
def footVa (region die : Nat) : Nat := 2 ^ 55 + (region * 16 + die) * 2 ^ 38

/-- The leaf of a KEYED page of a size code, for the service alone (Table 14-2). -/
def keyedLeaf (b c : Nat) : Word := BitVec.ofNat 64 (c * 2 ^ 60 + kKeyed * 2 ^ 58 + b + 7)

/-- The pages of a footing mapped one after the other. -/
def State.mapFoot (s : State) (root die va b c : Nat) : Nat → Option State
  | 0 => some s
  | n + 1 =>
    match s.mapLeaf die va (leafLevel c) (keyedLeaf b c) (4 - leafLevel c) root with
    | some s => s.mapFoot root die (va + pageBytes c) (b + pageBytes c) c n
    | none => none

/-- The KEYED pages of a region's footing on a die, placed and mapped; none where there is no room (R35, R310). -/
def State.addFoot (s : State) (asid region die cap : Nat) : Option State :=
  match s.spaces.find asid with
  | none => none
  | some sp =>
    if (sp.foots.find (region * 16 + die)).isSome then some s
    else
      let c := footCode cap
      match s.allocPage die (footPages cap * pageBytes c) with
      | (none, _) => none
      | (some b, s) =>
        match s.mapFoot sp.root die (footVa region die) b c (footPages cap) with
        | none => none
        | some s => some { s with spaces := s.spaces.set asid { sp with foots := sp.foots.set (region * 16 + die) b } }

/-- The dies where entries of a region are at home now (R195). -/
def State.footDies (s : State) (r : Region) : List Nat :=
  (r.dies.map fun o => if (s.die o).online then o
    else ((s.nextOnline r.dies o).orElse fun _ => s.nextOnline (List.range 12) o).getD o).eraseDups

/-- The footings of a region on some dies. -/
def State.addFootsOn (s : State) (asid region cap : Nat) : List Nat → Option State
  | [] => some s
  | d :: r =>
    match s.addFoot asid region d cap with
    | some s => s.addFootsOn asid region cap r
    | none => none

/-- The footings of some regions of an address space. -/
def State.addFoots (s : State) (asid : Nat) : List (Nat × Region) → Option State
  | [] => some s
  | e :: r =>
    match s.addFootsOn asid e.1 e.2.cap (s.footDies e.2) with
    | some s => s.addFoots asid r
    | none => none

/-- Where a leaf stands: its table, its index there, its level, and the entry. -/
structure LeafAt where
  table : Nat
  idx : Nat
  level : Nat
  pte : Word
  deriving DecidableEq, Repr

/-- The leaf of an address, found from a table of a level down (R275). -/
def findLeaf (m : List Host.Cell) (va : Nat) : Nat → Nat → Option LeafAt
  | level, table =>
    let idx := va / 2 ^ (12 + 9 * level) % 512
    let e := memWord m (table + 8 * idx)
    if !pteV e || pteMalformed e level then none
    else if pteLeaf e then some { table := table, idx := idx, level := level, pte := e }
    else
      match level with
      | 0 => none
      | l + 1 => findLeaf m va l (ptePa e)

/-- Every replica of a leaf written (R276). -/
def State.writeLeaf (s : State) (l : LeafAt) (e : Word) : State :=
  let n := leafCount (pteSize l.pte)
  (List.range n).foldl (fun s k => s.homeWrite (l.table + 8 * (l.idx - l.idx % n + k)) (bytesOf e.toNat 8)) s

/-- A leaf entry with another physical page. -/
def withPa (e : Word) (pa : Nat) : Word := BitVec.ofNat 64 (e.toNat - ptePa e + pa)

/-- The cores of an address space. -/
def State.spaceCores (s : State) (asid : Nat) : List Nat := (s.cores.filter fun e => e.2.asid == asid).map (·.1)

/-- Every core of an address space drops its translation of a page (R286 step 1). -/
def State.dropTlb (s : State) (asid base : Nat) : State :=
  { s with cores := s.cores.map fun e => if e.2.asid = asid then (e.1, { e.2 with tlb := e.2.tlb.filter (·.va != base) }) else e }

/-- A core writes through its dirty words of a physical page and invalidates its lines (R286 step 2). -/
def State.flushPage (s : State) (ck pa n : Nat) : State :=
  let hit := fun (l : Nat) => decide (pa ≤ 128 * l) && decide (128 * l < pa + n)
  let s := ((s.cor ck).l1Lines.filter hit).foldl (fun s l => s.l1Clean ck l) s
  (s.wtDrain ck).modCor ck fun c => { c with l1 := c.l1.filter fun e => !hit e.1 }

/-- Bytes of memory moved. -/
def State.movePage (s : State) (src dst n : Nat) : State :=
  let cells := s.mem.filter fun c => decide (src ≤ c.1) && decide (c.1 < src + n)
  let marks := s.poison.filter fun w => decide (src ≤ 8 * w.1) && decide (8 * w.1 < src + n)
  { s with mem := cells.foldl (fun m c => memPut (memPut m c.1 memDefault) (dst + (c.1 - src)) c.2) s.mem,
           poison := marks.foldl (fun m w => (m.erase w.1).set (dst / 8 + (w.1 - src / 8)) true) s.poison }

/-- Steps 1 to 6 of R286 for a page. -/
def State.unmapPage (s : State) (asid va : Nat) (l : LeafAt) : State :=
  let n := pageBytes (pteSize l.pte)
  let pa := ptePa l.pte
  let base := va - va % n
  let s := (s.writeLeaf l (l.pte &&& ~~~ 1#64)).dropTlb asid base
  let s := (s.spaceCores asid).foldl (fun s ck => s.flushPage ck pa n) s
  let s := s.unpinRange pa n
  (s.settleCopies pa n).revokeBytes asid base n

/-- A region's footing in a page that is unmapped is gone (R310). -/
def State.dropFoots (s : State) (asid pa n : Nat) : State :=
  match s.spaces.find asid with
  | none => s
  | some sp =>
    let gone := sp.foots.filter fun e => decide (pa ≤ e.2) && decide (e.2 < pa + n)
    let s := { s with spaces := s.spaces.set asid { sp with foots := gone.foldl (fun f e => f.erase e.1) sp.foots } }
    gone.foldl (fun s e => s.modDie (e.1 % 16) fun d => { d with footLen := d.footLen.erase (asid * 4096 + e.1 / 16) }) s

/-- The leaves of TILED pages from an address on, each with an address of its page; the fuel is the number of 4 KiB
steps. -/
def tiledLeaves (m : List Host.Cell) (root : Nat) : Nat → Nat → List (Nat × LeafAt)
  | 0, _ => []
  | k + 1, va =>
    match findLeaf m va 4 root with
    | some l =>
      if va % pageBytes (pteSize l.pte) = 0 ∧ pteKind l.pte = kTiled then (va, l) :: tiledLeaves m root k (va + 4096)
      else tiledLeaves m root k (va + 4096)
    | none => tiledLeaves m root k (va + 4096)

/-- A slice holds an open record of a zone of an address space. -/
def Slice.holdsZone (x : Slice) (asid zone : Nat) : Bool :=
  x.recs.any fun e => e.2.asid == asid && zoneOf (vaOf ((e.2.whole.map (·.first)).headD 0)) == zone

/-- The pages that move with a page that is taken to another place: all those of the zone of a TILED page (R250). -/
def State.moveWith (s : State) (root va : Nat) (l : LeafAt) : List (Nat × LeafAt) :=
  if pteKind l.pte = kTiled ∧ pageBytes (pteSize l.pte) < 2 ^ 22 then tiledLeaves s.mem root 1024 (va - va % 2 ^ 22)
  else [(va, l)]

/-- The service may take a page to a place: a PLAIN page to any die that is online or to second-tier memory whose link
is up (R315), a TILED page to its own die, or with its zone to another die while no record of the zone is open, because
its handle names the home die (R250, R251). DESIGN CHOICE (log entry 80): KEYED and DEVICE pages stay. -/
def State.mayMove (s : State) (asid va p : Nat) (l : LeafAt) : Bool :=
  let die := homeDie (ptePa l.pte)
  let here := decide (p < 12) && (s.die p).online
  if pteKind l.pte = kPlain then here || (decide (12 ≤ p) && decide (p < 20) && s.cxlUp.contains (p - 12))
  else pteKind l.pte == kTiled && here && (p == die || !(s.sli (sliceKey die (zoneOf va))).holdsZone asid (zoneOf va))

/-- Free ranges of a place for some pages; none where there is no room for all of them. -/
def State.allocPages (s : State) (p : Nat) : List (Nat × LeafAt) → Option (List Nat) × State
  | [] => (some [], s)
  | x :: r =>
    match s.allocPage p (pageBytes (pteSize x.2.pte)) with
    | (none, s) => (none, s)
    | (some b, s) =>
      match s.allocPages p r with
      | (none, s) => (none, s)
      | (some bs, s) => (some (b :: bs), s)

/-- A page moved to a new physical range: R286 with step 7 for a migration. Second-tier pages are not base-die (R315). -/
def State.migratePage (s : State) (asid va b : Nat) (l : LeafAt) : State :=
  let s := s.unmapPage asid va l
  let e := if isCxl b then l.pte &&& ~~~ 16#64 else l.pte
  ((s.movePage (ptePa l.pte) b (pageBytes (pteSize l.pte))).writeLeaf l (withPa e b)).freePages (· == ptePa l.pte)

/-- UNMAP_MIGRATE: a page is unmapped, or moved to another place (R286, R287, R315). -/
def execUnmapMigrate (asid : Nat) (va : Word) (dest : Option Nat) (s : State) : Host.Outcome State Fault Refusal :=
  match s.spaces.find asid with
  | none => .next s
  | some sp =>
    match findLeaf s.mem va.toNat 4 sp.root with
    | none => .next s
    | some l =>
      match dest with
      | none =>
        let s := if pteKind l.pte = kKeyed then s.dropFoots asid (ptePa l.pte) (pageBytes (pteSize l.pte)) else s
        .next ((s.unmapPage asid va.toNat l).freePages (· == ptePa l.pte))
      | some p =>
        if !s.mayMove asid va.toNat p l then .next s
        else
          let ps := s.moveWith sp.root va.toNat l
          match s.allocPages p ps with
          | (none, _) => .next s
          | (some bs, s1) => .next ((ps.zip bs).foldl (fun s x => s.migratePage asid x.1.1 x.2 x.1.2) s1)

end Sys2Proof.Machine
end

