-- ==== Sys2Proof/Machine/Package.lean ====
section
/-! DEFINITION. Clocks, HBM stacks, links, the second tier, and a die that fails (R196, R297, R305 to R307, R315, R321,
R322, R356, R365, R371). -/

namespace Sys2Proof.Machine

/-! ## Clocks (R321, R322, R371) -/

/-- A step or relock is in progress (Table 16-3). -/
def Clock.busy (c : Clock) : Bool := c.next.isSome

/-- A clock step to an m begins: towards a lower clock all four quarters of the beam settle before the relock (R309,
R322). -/
def Die.stepTo (d : Die) (tick m : Nat) : Die :=
  if d.clock.busy || m == d.clock.m then d
  else
    let d := if m < d.clock.m then (List.range 4).foldl (fun d q => d.startSettle q) d else d
    { d with clock := { d.clock with next := some m } }.beginRelock tick

/-- The m that a die is to run at: 8 while it is hot, else the requested one (R371). -/
def Clock.goal (c : Clock) : Nat := if c.hot then 8 else c.target

/-- The die steps towards its goal. -/
def Die.steer (d : Die) (tick : Nat) : Die := d.stepTo tick d.clock.goal

/-- A store to `dclk` (Table 16-3): other values than 8 to 19, and any store while busy, are ignored. -/
def Die.writeDclk (d : Die) (tick v : Nat) : Die :=
  let t := v / 2 ^ 8 % 32
  if d.clock.busy || t < 8 || 19 < t then d else { d with clock := { d.clock with target := t } }.steer tick

/-- DCLK_TARGET_WRITE (R321, R322). -/
def execDclkTargetWrite (die : Nat) (v : Word) (s : State) : Host.Outcome State Fault Refusal :=
  .next (s.modDie die (·.writeDclk s.tick v.toNat))

/-- A die at the end of its relock: its cycle counter is rescaled and it runs at the new rate (R322). -/
def Die.relocked (d : Die) (m ticks : Nat) : Die :=
  { d with cycle := d.cycle + m * ticks / 10, clock := { d.clock with m := m, next := none, t0 := none } }

/-- CLOCK_RELOCK_END: the relock of a die ends; what waited for it is tested again (R322). -/
def execClockRelockEnd (die : Nat) (s : State) : Host.Outcome State Fault Refusal :=
  match (s.die die).clock.next, (s.die die).clock.t0 with
  | some m, some t0 =>
    .next ((s.modDie die fun d => (d.relocked m (s.tick - t0)).steer s.tick).wakeWhere fun _ k => match k with
      | .relock d _ => d == die
      | _ => false)
  | some _, none => .next (s.modDie die (·.beginRelock s.tick))
  | none, _ => .next s

/-- THERMAL_STEP_DOWN: above 105 °C the hardware steps a die to m = 8 (R371). -/
def execThermalStepDown (die : Nat) (s : State) : Host.Outcome State Fault Refusal :=
  .next (s.modDie die fun d => ({ d with clock := { d.clock with hot := true } }).steer s.tick)

/-- THERMAL_RECOVERY: below 95 °C a die returns to its requested m (R371). -/
def execThermalRecovery (die : Nat) (s : State) : Host.Outcome State Fault Refusal :=
  .next (s.modDie die fun d => ({ d with clock := { d.clock with hot := false } }).steer s.tick)

/-! ## HBM stacks (R297, R313) -/

/-- The stack of its die that a line of HBM lies on (R313). -/
def stackOf (pa : Nat) : Nat := (pa / 2 ^ 7 + pa / 2 ^ 20 + pa / 2 ^ 33) % 2

/-- A line of HBM that misses its L2 slice waits while its stack is closed to traffic (R297). -/
def State.lineHeld (s : State) (pa : Nat) : Bool :=
  isHbm pa && Config.l2Miss (pa / 128) s.tick && ((s.die (homeDie pa)).stack (stackOf pa)).target.isSome

/-- 2 ms in ticks (R297, R320). -/
def retrainGap : Nat := 2000000

/-- The service may request a retraining of a stack: its last request for the other stack of the die is 2 ms old (R297). -/
def State.mayRetrain (s : State) (die stack : Nat) : Bool :=
  ((s.die die).stack (1 - stack)).asked.all fun t => decide (t + retrainGap ≤ s.tick)

/-- A change of a stack's rate is requested: it begins, or is deferred while a save writes to the stack, for 2 ms from the first
request at most (R297). DESIGN CHOICE (log entry 123): a request for a stack whose earlier change has not begun or not ended
replaces its rate. -/
def State.retrain (s : State) (die stack rate : Nat) : State :=
  let saves := s.savesTo die stack
  s.modStack die stack fun h =>
    if saves then { h with deferred := some (rate, (h.deferred.map (·.2)).getD s.tick), asked := some s.tick }
    else { h with target := some rate, asked := some s.tick }

/-- HBM_RETRAIN_REQUEST: to one of the three rates, codes 0 to 2 (R297, R313). The service never makes one within 2 ms of one for
the other stack, so that such a request is none. -/
def execHbmRetrainRequest (die stack rate : Nat) (s : State) : Host.Outcome State Fault Refusal :=
  .next (if 2 ≤ stack ∨ 3 ≤ rate ∨ !s.mayRetrain die stack then s else s.retrain die stack rate)

/-- The service lowers the rate of a stack above 95 °C by a step, unless a change of either stack of the die is in
progress or it has requested one of the other within 2 ms (R297, R313). -/
def State.coolStack (s : State) (die stack : Nat) : State :=
  let idle := fun (i : Nat) => ((s.die die).stack i).target.isNone && ((s.die die).stack i).deferred.isNone
  if stack < 2 ∧ idle 0 ∧ idle 1 ∧ s.mayRetrain die stack ∧ 0 < ((s.die die).stack stack).rate then
    s.retrain die stack (((s.die die).stack stack).rate - 1)
  else s

/-- The rest of every save of a die that writes to a stack goes to the paired stack; 2 marks it as moved (R297). -/
def State.moveSaves (s : State) (die stack : Nat) : State :=
  { s with launches := s.launches.map fun e =>
      if s.lstate e.1 == lqSaving && (e.2.saveStack.find die).map (· % 2) == some stack then
        (e.1, { e.2 with saveStack := e.2.saveStack.set die (3 - stack) })
      else e }

/-- A deferred retraining of a stack has waited 2 ms for a save that has not been moved (R297). -/
def State.deferralOver (s : State) (die stack : Nat) : Bool :=
  match ((s.die die).stack stack).deferred with
  | some (_, t) => decide (t + retrainGap ≤ s.tick) && !s.movedTo die stack
  | none => false

/-- RETRAIN_DEFERRAL_EXPIRY: the rest of the save goes to the paired stack, and the retraining proceeds (R297). -/
def execRetrainDeferralExpiry (die stack : Nat) (s : State) : Host.Outcome State Fault Refusal :=
  .next (if s.deferralOver die stack then (s.moveSaves die stack).modStack die stack HbmStack.startDeferred else s)

/-- HBM_PHY_ERROR: a save that writes to the stack moves to the paired stack at once (R297). -/
def execHbmPhyError (die stack : Nat) (s : State) : Host.Outcome State Fault Refusal :=
  .next (if stack < 2 then (s.moveSaves die stack).startDeferred else s)

/-- HBM_RETRAIN_END: the stack runs at its new rate, or its retraining has failed (R297, R365). -/
def execHbmRetrainEnd (die stack : Nat) (ok : Bool) (s : State) : Host.Outcome State Fault Refusal :=
  if 2 ≤ stack then .next s
  else
    .next (s.modStack die stack fun h =>
      match h.target with
      | some r => if ok then { h with rate := r, target := none } else { h with target := none, failed := true }
      | none => h)

/-! ## Links (R306, R307, R315, R356) -/

/-- The two dies that a Mbocel link joins: links 0 to 8 within rows, 9 to 16 between them (R306). -/
def linkEnds (l : Nat) : Nat × Nat :=
  if l < 9 then (l / 3 * 4 + l % 3, l / 3 * 4 + l % 3 + 1) else (l - 9, l - 5)

/-- A working link reaches a die. -/
def State.reached (s : State) (die : Nat) : Bool := s.links.any fun l => (linkEnds l).1 == die || (linkEnds l).2 == die

/-- LINK_RETRAIN_FAILURE: a link is taken out of service, and a die that no link reaches now is reported (R307). -/
def execLinkRetrainFailure (link : Nat) (s : State) : Host.Outcome State Fault Refusal :=
  let s1 := { s with links := s.links.filter (· != link) }
  .next (([(linkEnds link).1, (linkEnds link).2].filter fun d => s.reached d && !s1.reached d).foldl
    (fun s d => s.postService (reportWords repUnreached d)) s1)

/-- CXL_LINK_DOWN: a port of the second tier is lost; later accesses to its window are uncorrectable (R315). -/
def execCxlLinkDown (port : Nat) (s : State) : Host.Outcome State Fault Refusal :=
  .next { s with cxlUp := s.cxlUp.filter (· != port) }

/-- PORT_DOWN: the traffic of a fabric port moves to the working ports (R356). -/
def execPortDown (port : Nat) (s : State) : Host.Outcome State Fault Refusal :=
  .next { s with ports := s.ports.filter (· != port) }

/-! ## A die that fails (R196, R305, R365) -/

/-- The die of a fabric port (R356). -/
def portDie (q : Nat) : Nat := if q < 4 then q else if q < 8 then q + 4 else 4 + (q - 8) % 4

/-- The die of a second-tier port (R314). -/
def cxlDie (p : Nat) : Nat := if p < 4 then p else p + 4

/-- The die of a thread, whether or not its launch is SAVED. -/
def threadDie (t : Nat) : Nat := if savedTid t then coreDie (coreOf (t % 2 ^ 20)) else coreDie (coreOf t)

/-- What a core holds goes with its die: nothing of it is written back or published. -/
def Core.lost (c : Core) : Core :=
  { c with l1 := [], wtq := [], batten := [], stall := none, merging := [], pubs := [], outq := [], mailbox := [], takers := [] }

/-- A mortise slice goes with its die but for its records, whose handles stay good to ask for (R252, R257). -/
def Slice.lost (x : Slice) : Slice := { x with ents := [], queue := [], outside := [] }

/-- A die's own state goes with it; its launch records stay with the service. -/
def Die.lost (d : Die) : Die :=
  { Die.init with online := false, lq := d.lq, lqstat := d.lqstat, hbm := d.hbm, clock := { d.clock with next := none, t0 := none } }

/-- The damage bit of a die set in every region whose eligible dies hold it (R196). -/
def State.damage (s : State) (die : Nat) : State :=
  { s with spaces := s.spaces.map fun e => (e.1, { e.2 with regions := e.2.regions.map fun r =>
      (r.1, if r.2.dies.contains die && !r.2.dmg.contains die then { r.2 with dmg := die :: r.2.dmg } else r.2) }) }

/-- A request of a thread is on its way to a group whose home is a die. -/
def State.sentTo (s : State) (t die : Nat) : Bool :=
  (s.cor (coreOf t)).outq.any fun q => q.thread == t && groupDie q.gid == die

/-- A message under a permit is on its way to a core of a die. -/
def Post.sentTo (p : Post) (die : Nat) : Bool := p.msg.permitted && p.core.any fun ck => coreDie ck == die

/-- Waits that target a die end: acquisitions of its slices, requests to its groups and messages on their way to it with
PEER_LOST; what waits on its permits, record entries, loads, groups or relock is tested again (R188, R305). -/
def State.losePeers (s : State) (die : Nat) : State :=
  let end1 := fun (e : Nat × Thread) =>
      match e.2.st, e.2.wait with
      | .waiting, some w =>
        match w.kind with
        | .tenure sl => if sl / 64 = die then (e.1, e.2.endWait w.d stPeerLost) else e
        | .permit => (e.1, e.2.wake)
        | .reply => if s.transit.any fun p => p.sentTo die && p.msg.sender == e.1 then (e.1, (e.2.setG w.d stPeerLost).rejoin) else e
        | .recordEntry sl => if sl / 64 = die then (e.1, e.2.wake) else e
        | .homeLoad ps => if ps.any (·.1 / 64 == die) then (e.1, e.2.wake) else e
        | .groupReq => if s.sentTo e.1 die then (e.1, e.2.endWait w.d stPeerLost) else e
        | .relock d _ => if d = die then (e.1, e.2.wake) else e
        | .phase g _ _ => if groupDie g = die then (e.1, e.2.wake) else e
        | _ => e
      | _, _ => e
  { s with
    threads := s.threads.map end1
    transit := s.transit.filter fun p => !p.sentTo die
    cores := s.cores.map fun e => (e.1, { e.2 with outq := e.2.outq.filter fun q => groupDie q.gid != die }) }

/-- QUEUED records whose cores include the die's are STOPPED (R305). -/
def State.stopQueued (s : State) (die : Nat) : State :=
  ((s.liveRecs.filter fun r => r.state == lqQueued && (s.launchOf r.lid).dies.contains die).map LqRec.lid).foldl
    (fun s lid => if s.lstate lid = lqQueued then s.stopped lid else s) s

/-- A context of a die ends with it: the surviving homes of its groups treat it as ended (R90, R299, R305). -/
def State.loseThread (s : State) (t : Nat) : State :=
  if savedTid t then s.endSaved t
  else ((s.thr t).groups.filter fun g => (s.die (groupDie g)).online).foldl (fun s' g => s'.leaveGroup t g) (s.endThread t)

/-- The images of a die's cores go with it. -/
def State.loseImages (s : State) (die : Nat) : State :=
  { s with launches := s.launches.map fun e => (e.1, { e.2 with images := e.2.images.filter fun i => coreDie i.1 != die }) }

/-- The contexts of a die end (R90, R305), those of a SAVED launch by the groups that its image names. -/
def State.loseContexts (s : State) (die : Nat) : State :=
  let s : State := { s with
    cores := s.cores.map (fun e => if coreDie e.1 = die ∧ e.1 < 65536 then (e.1, e.2.lost) else e),
    clusters := s.clusters.map (fun e => if coreDie (8 * e.1) = die then (e.1, Cluster.init) else e),
    slices := s.slices.map (fun e => if e.1 / 64 = die then (e.1, e.2.lost) else e) }
  let s := (((s.threads.map (·.1)).filter fun t => threadDie t == die).foldl State.loseThread s).loseImages die
  { s with cores := s.cores.map fun e => if coreDie e.1 = die ∧ e.1 < 65536 then (e.1, { e.2 with outq := [] }) else e }

/-- New homes of keys have footings; where there is no room a settle there stops with reason 3 (R195, R310). -/
def State.moveFoots (s : State) : State :=
  s.spaces.foldl (fun s e => e.2.regions.foldl (fun s r =>
    (s.footDies r.2).foldl (fun s d => (s.addFoot e.1 r.1 d r.2.cap).getD s) s) s) s

/-- MARKING A DIE OFFLINE (R305, R365): it is offline before its contexts end, so that nothing is done at a home on it any
more. -/
def State.markOffline (s : State) (die : Nat) : State :=
  if 12 ≤ die ∨ !(s.die die).online then s
  else
    let waiting := (s.die die).trapQ
    let s := ((s.modDie die fun d => { d with online := false }).loseContexts die).modDie die Die.lost
    let s := ((((s.damage die).losePeers die).stopQueued die).moveFoots).wakeHome
    { s with transit := s.transit ++ waiting.map (fun p => { p with core := none, lid := none }), events := s.events ++ [die],
             ports := s.ports.filter (fun q => portDie q != die), cxlUp := s.cxlUp.filter fun p => cxlDie p != die }

/-- What marks a die offline without the service's clocks: no working link reaches it, or both its stacks have failed
(R365). -/
def State.failed (s : State) (die : Nat) : Bool :=
  s.started && (s.die die).online && (!s.reached die || (s.die die).hbm.all (·.failed))

/-- DIE_OFFLINE_MARK (R365). -/
def execDieOfflineMark (die : Nat) (s : State) : Host.Outcome State Fault Refusal := .next (s.markOffline die)

/-- HEARTBEAT_TIMEOUT: neither service core of a die has answered for 2^24 ticks (R365). -/
def execHeartbeatTimeout (die : Nat) (s : State) : Host.Outcome State Fault Refusal := .next (s.markOffline die)

/-- THERMAL_OFFLINE_TIMEOUT: a die has stayed above 110 °C for 2^30 ticks with m = 8 (R365). -/
def execThermalOfflineTimeout (die : Nat) (s : State) : Host.Outcome State Fault Refusal := .next (s.markOffline die)

end Sys2Proof.Machine
end

