-- ==== Sys2Proof/Machine/Device.lean ====
section
/-! DEFINITION. DEVICE register blocks: the launch block and the die control block (R169, R289, R296, R321). -/

namespace Sys2Proof.Machine

/-- A register of Tables 15-4 and 16-3, or a byte of a launch-queue record. -/
inductive DevReg where
  /-- `lqcmd`, from a byte on. -/
  | lqcmd (die off : Nat)
  /-- `lqstat`, from a byte on. -/
  | lqstat (die off : Nat)
  /-- A launch-queue record, from a byte on. -/
  | record (die slot off : Nat)
  /-- `dclk`, from a byte on. -/
  | dclk (die off : Nat)
  deriving DecidableEq, Repr

/-- The register at a physical address (R296, R321). -/
def devReg (pa : Nat) : Option DevReg :=
  let o := pa - 0x8000000000000
  let die := o / 2 ^ 32
  let off := o % 2 ^ 32
  if pa < 0x8000000000000 ∨ 12 ≤ die then none
  else if off < 8 then some (.lqcmd die off)
  else if off < 16 then some (.lqstat die (off - 8))
  else if 0x1000 ≤ off ∧ off < 0x3000 then some (.record die ((off - 0x1000) / 128) ((off - 0x1000) % 128))
  else if 0x10000 ≤ off ∧ off < 0x10008 then some (.dclk die (off - 0x10000))
  else none

/-- `dclk` as it reads (Table 16-3). -/
def Clock.reg (c : Clock) : Nat := (if c.busy then 2 ^ 16 else 0) + c.target * 2 ^ 8 + c.m

/-- Bytes of a register value. -/
def bytesAt (v off n : Nat) : Nat := v / 2 ^ (8 * off) % 2 ^ (8 * n)

/-- Bytes of a register value replaced. -/
def bytesPut (v off n x : Nat) : Nat := v - bytesAt v off n * 2 ^ (8 * off) + x % 2 ^ (8 * n) * 2 ^ (8 * off)

/-- Why an access to a DEVICE address with no described register stops: it lies in a block that the spec does not
describe, or the physical map gives it to nothing (R270). -/
def devNone (pa : Nat) : Stop := if inMap pa then .refuse (.unknownDevice pa) else .fault (.noSuchAddress pa)

/-- A DEVICE read of `n` bytes. -/
def State.devRead (s : State) (pa n : Nat) : Except Stop Nat :=
  match devReg pa with
  | some (.lqcmd die o) => .ok (bytesAt (s.die die).lqcmd.toNat o n)
  | some (.lqstat die o) => .ok (bytesAt (s.die die).lqstat o n)
  | some (.record die slot o) => .ok ((s.lqRec die slot).field o n)
  | some (.dclk die o) => .ok (bytesAt (s.die die).clock.reg o n)
  | none => .error (devNone pa)

/-- The RES bits of `lqcmd` and `dclk` that a value sets (Tables 15-4, 16-3). -/
def lqcmdRes (v : Nat) : Nat := v / 2 ^ 40 * 2 ^ 40 + v / 2 ^ 16 % 2 ^ 8 * 2 ^ 16
def dclkRes (v : Nat) : Nat := v / 2 ^ 17 * 2 ^ 17 + v / 2 ^ 13 % 2 ^ 3 * 2 ^ 13 + v / 2 ^ 5 % 2 ^ 3 * 2 ^ 5

/-- The RES bits that a store of a value sets in the register at an address. -/
def devRes (pa n v : Nat) : Nat :=
  match devReg pa with
  | some (.lqcmd _ o) => lqcmdRes (bytesPut 0 o n v)
  | some (.dclk _ o) => dclkRes (bytesPut 0 o n v)
  | _ => 0

/-- A store writes an RWS field: any of `lqcmd`, or `target` of `dclk` (Tables 15-4, 16-3). -/
def devRws (pa n : Nat) : Bool :=
  match devReg pa with
  | some (.lqcmd _ _) => true
  | some (.dclk _ o) => decide (o ≤ 1) && decide (1 < o + n)
  | _ => false

/-- The checks of a store to a register (Table 0-5), with `kinfo` as R89 and R25 have it: a reserved bit that it sets traps
RESERVED_FIELD, and an RWS field that it writes at launch level traps PRIVILEGE. -/
def State.devChecks (s : State) (pa n v : Nat) : Except Stop Unit := do
  if (devReg pa).isNone then .error (devNone pa)
  trapIf (devRes pa n v != 0) cReservedField
    (BitVec.ofNat 64 (s.th.word.toNat + 2 ^ 37 + lowestBit (BitVec.ofNat 64 (devRes pa n v)) * 2 ^ 38))
  trapIf (devRws pa n && !s.th.service) cPrivilege s.wordInfo

/-- A command stored in `lqcmd` (Table 15-4). DESIGN CHOICE (log entry 105): a submit or free of a slot above 63 is refused
with `lqstat` 2. -/
def State.lqCommand (s : State) (die v : Nat) : State :=
  let lid := v / 2 ^ 24 % 2 ^ 16
  let slot := v / 2 ^ 8 % 256
  match v % 256 with
  | 1 => if slot < 64 then s.lqSubmit die slot else s.lqDone die 2
  | 2 => s.lqPreempt die lid
  | 3 => s.lqResume die lid
  | 4 => s.lqStop die lid
  | 5 => if slot < 64 then s.lqFreeSlot die slot else s.lqDone die 2
  | _ => s

/-- A write of `n` bytes to a register: a store that reaches the command byte carries out the command, one with no command
of Table 15-4 being ignored; a record is written only while it is FREE, and never into another state (R296, R321). A
write of a reserved bit changes nothing. -/
def State.devWrite (s : State) (pa n v : Nat) : Except Stop State :=
  if devRes pa n v ≠ 0 then .ok s
  else
    match devReg pa with
    | some (.lqcmd die o) =>
      let x := bytesPut (s.die die).lqcmd.toNat o n v
      let s1 := s.modDie die fun d => { d with lqcmd := BitVec.ofNat 64 x }
      .ok (if o ≠ 0 then s1 else if 1 ≤ x % 256 ∧ x % 256 ≤ 5 then s1.lqCommand die x else s)
    | some (.lqstat _ _) => .ok s
    | some (.record die slot o) =>
      let r := s.lqRec die slot
      .ok (if r.state = lqFree then s.setLq die slot ((r.put o n v).put 7 1 lqFree) else s)
    | some (.dclk die o) =>
      let x := bytesPut ((s.die die).clock.reg % 2 ^ 64) o n v
      .ok (if o ≤ 1 ∧ 1 < o + n then s.modDie die (·.writeDclk s.tick x) else s)
    | none => .error (devNone pa)

/-- The one part of a DEVICE access, aligned to its size (R166, R169). -/
def State.devPart (s : State) (acc : Acc) (ea : Word) (n : Nat) : Except Stop Part := s.wholePart acc kDevice ea n

/-- `ld.device` (R169): performed once. -/
def execLdDevice (sz : Size) (d a : Reg) (off : BitVec 11) (s : State) : Host.Outcome State Fault Refusal :=
  finish s (do
    let p ← s.devPart .load (s.th.ea a off sz.bytes) sz.bytes
    let v ← s.devRead p.pa sz.bytes
    .ok ((s.noteRequest s.ck (deviceDie p.pa) (some (BitVec.ofNat 64 v))).replyG d (BitVec.ofNat 64 v)))

/-- A thread whose store waits in the write-through queue for its device: it has gone on past the store (R170). -/
def Thread.retireDevice (t : Thread) (now : Nat) : Thread :=
  { t.advance.formOver with wait := some { kind := .deviceStore, d := 0, since := now, e := 15 }, st := .waiting }

/-- `st.device` (R169, R170): checked, then an entry of the write-through queue, which is performed once and in order. -/
def execStDevice (sz : Size) (d a : Reg) (off : BitVec 11) (s : State) : Host.Outcome State Fault Refusal :=
  let v := (s.rg d).toNat % 2 ^ (8 * sz.bytes)
  finish s (do
    let p ← s.devPart .store (s.th.ea a off sz.bytes) sz.bytes
    s.devChecks p.pa sz.bytes v
    .ok ((s.wtPush s.ck { pa := p.pa, bytes := (bytesOf v sz.bytes).map some, dev := true }).modTh fun t => t.retireDevice s.tick))

/-- DEVICE_REGISTER_WRITE: a write reaches a register or a record (R296, R321). -/
def execDeviceRegisterWrite (pa n : Nat) (v : Word) (s : State) : Host.Outcome State Fault Refusal :=
  match s.devWrite pa n (v.toNat % 2 ^ (8 * n)) with
  | .ok s1 => .next s1
  | .error (.refuse r) => .refused r
  | .error (.fault f) => .fault f
  | .error _ => .next s

/-- The service divides the ways of the sets of a die's slices among the residency classes (R272). -/
def State.setQuotas (s : State) (die : Nat) (q : List Nat) : State :=
  if q.length = 4 ∧ q.sum = 16 then s.modDie die fun d => { d with quotas := q } else s

end Sys2Proof.Machine
end

