-- ==== Sys2Proof/Machine/System.lean ====
section
/-! DEFINITION. The system instruction: k-registers, target forms, calls, exit, decode tables, save and restore (R81 to
R89, R96, R97, R109 to R111, R131, R132, R137). -/

namespace Sys2Proof.Machine

/-! ## k-registers (R81 to R89) -/

/-- A k-register of a thread as read from its own state; `kid`, `kcycle`, `ktick` and `kswait` are not there. -/
def Thread.readK (t : Thread) : KReg → Word
  | .kstat => t.kstat
  | .kcause => t.kcause
  | .kinfo => t.kinfo
  | .kepc => t.kepc
  | .ktvec => t.ktvec
  | .kqmask => t.kqmask
  | .kid => 0
  | .karg => t.karg
  | .kcycle => 0
  | .ktick => 0
  | .kbconf => t.kbconf
  | .kswait => 0
  | .kgrp i => t.kgrp.get i
  | .kfbuf i => t.kfbuf.get i
  | .kfcnt => t.kfcnt
  | .kfidx => t.kfidx
  | .kfstg => t.kfstg
  | .kbbuf => t.kbbuf
  | .kbbufh => t.kbbufh
  | .kbfill => t.kbfill
  | .kbsrc => t.kbsrc
  | .kbend => t.kbend

/-- A k-register of a thread (R81, R85, R87); `x` is the thread's state, which of a saved thread stands in its slot. -/
def State.readK (s : State) (t : Nat) (x : Thread) (k : KReg) : Word :=
  match k with
  | .kid => s.kid t
  | .kcycle => BitVec.ofNat 64 (s.die (coreDie (coreOf t))).cycle
  | .ktick => BitVec.ofNat 64 s.tick
  | .kswait => (s.cor (coreOf t)).kswait
  | _ => x.readK k

/-- A k-register that is RWS as a whole (Table 4-1). -/
def kRws : KReg → Bool
  | .kswait => true
  | .kgrp _ => true
  | .kfbuf _ => true
  | .kfcnt => true
  | .kfidx => true
  | .kfstg => true
  | .kbbuf => true
  | .kbbufh => true
  | .kbfill => true
  | .kbsrc => true
  | .kbend => true
  | _ => false

/-- The bits of a k-register below its RES field (Tables 4-1 to 4-5, 6-12 to 6-14, 7-5b, 7-5c). -/
def kBits : KReg → Nat
  | .kstat => 15
  | .ktvec => 18
  | .kqmask => 8
  | .kbconf => 32
  | .kswait => 4
  | .kgrp _ => 13
  | .kfbuf _ => 32
  | .kfcnt => 17
  | .kfidx => 8
  | .kfstg => 12
  | .kbfill => 8
  | .kbsrc => 19
  | .kbend => 19
  | _ => 64

/-- Bits of the bit buffer at and above `fill` are zero, also after a write of its registers; a `fill` above 128 acts as
128 (R183). -/
def Thread.maskBits (t : Thread) : Thread :=
  let n := min 128 (bitsAt t.kbfill 0 8)
  { t with kbbuf := BitVec.ofNat 64 (bitsAt t.kbbuf 0 n), kbbufh := BitVec.ofNat 64 (bitsAt t.kbbufh 0 (n - 64)) }

/-- A k-register written with a value that has passed the checks of R89; read-only fields ignore it. DESIGN CHOICE (log entry 125):
a `fill` above 128 that the service writes acts as 128 (R183), and `kbfill` reads back as it was written. -/
def Thread.writeK (t : Thread) (k : KReg) (x : Word) : Thread :=
  match k with
  | .kstat => { t with kstat := (x &&& ~~~ 1#64) ||| (t.kstat &&& 1#64) }
  | .ktvec => { t with ktvec := x }
  | .kqmask => { t with kqmask := x }
  | .kbconf => { t with kbconf := x }
  | .kgrp i => { t with kgrp := t.kgrp.set i.val x i.isLt }
  | .kfbuf i => { t with kfbuf := t.kfbuf.set i.val x i.isLt }
  | .kfcnt => { t with kfcnt := x }
  | .kfidx => { t with kfidx := x }
  | .kfstg => { t with kfstg := x }
  | .kbbuf => { t with kbbuf := x }.maskBits
  | .kbbufh => { t with kbbufh := x }.maskBits
  | .kbfill => { t with kbfill := x }.maskBits
  | .kbsrc => { t with kbsrc := x }
  | .kbend => { t with kbend := x }
  | _ => t

/-- R89 step 1: the lowest offending bit of a value. -/
def State.resCheck (s : State) (k : KReg) (x : Word) : Except Stop Unit :=
  let hi := x.toNat / 2 ^ kBits k
  trapIf (hi != 0) cReservedField
    (BitVec.ofNat 64 (s.th.word.toNat + 2 ^ 37 + (kBits k + lowestBit (BitVec.ofNat 64 hi)) * 2 ^ 38))

/-- R84: the core that `ktvec` names with `en` = 1 belongs to the issuing thread's launch. -/
def State.vecCheck (s : State) (x : Word) : Except Stop Unit :=
  let ck := bitsAt x 4 13
  trapIf (!s.th.service && bitAt x 17 &&
    (decide (12 ≤ ck / 512) || s.co.launch.isNone || (s.cor ck).launch != s.co.launch)) cPermission x

/-- The checks of a k-register write, judged at the issuing thread's privilege (R24, R89). -/
def State.writeChecks (s : State) (k : KReg) (old x : Word) : Except Stop Unit := do
  trapIf (kRws k && !s.th.service) cPrivilege s.wordInfo
  s.resCheck k x
  match k with
  | .kstat => trapIf (!s.th.service && bitsAt x 3 6 != bitsAt old 3 6) cPrivilege s.wordInfo
  | .ktvec => s.vecCheck x
  | _ => .ok ()

/-- A k-register write of the issuing thread (R89). -/
def State.writeOwn (s : State) (k : KReg) (x : Word) : Except Stop State := do
  s.writeChecks k (s.readK s.cur s.th k) x
  .ok (match k with
    | .kswait => (s.modCo fun c => { c with kswait := x }).done
    | _ => s.modTh fun t => t.retire.writeK k x)

/-- `sys.rdk` (R89, R109). -/
def execSysRdk (d : Reg) (k : KReg) (s : State) : Host.Outcome State Fault Refusal :=
  .next (s.outG d (s.readK s.cur s.th k))

/-- `sys.wrk` (R89, R109). -/
def execSysWrk (a : Reg) (k : KReg) (s : State) : Host.Outcome State Fault Refusal :=
  finish s (s.writeOwn k (s.rg a))

/-- `sys.setk` (R89, R109). -/
def execSysSetk (a : Reg) (k : KReg) (s : State) : Host.Outcome State Fault Refusal :=
  finish s (s.writeOwn k (s.readK s.cur s.th k ||| s.rg a))

/-- `sys.clrk` (R89, R109). -/
def execSysClrk (a : Reg) (k : KReg) (s : State) : Host.Outcome State Fault Refusal :=
  finish s (s.writeOwn k (s.readK s.cur s.th k &&& ~~~ s.rg a))

/-! ## Target forms (R96, R97) -/

/-- The TID in bits [16:0] of a register. -/
def tidOf (x : Word) : Nat := bitsAt x 0 17

/-- A TID names a context: its die is below 12, its core runs a launch, and the context is one of it. -/
def State.namesContext (s : State) (t : Nat) : Bool :=
  decide (t / 8192 < 12) && (s.cor (coreOf t)).launch.isSome && decide (ctxOf t < (s.cor (coreOf t)).nctx)

/-- A thread that is SAVED and still trapped: the `trap` bit of its slot is 1 (R97). -/
def State.savedTrapped (s : State) (t : Nat) : Bool := (s.thr t).st == .saved && bitAt (s.slotRead t 319) 0

/-- R97: the target of a target form. -/
def State.target (s : State) (x : Word) : Except Stop Nat := do
  let t := tidOf x
  trapIf (!s.th.service && !s.launchThread t) cPrivilege s.wordInfo
  trapIf (!s.namesContext t) cPermission (BitVec.ofNat 64 t)
  trapIf ((s.thr t).st != .trapped && !s.savedTrapped t) cPermission (BitVec.ofNat 64 t)
  .ok t

/-- The issuing thread waits, and its form is tested again. -/
def State.waitFor (s : State) (k : WaitKind) (d : Reg) : State := s.modTh fun t => t.block s.tick .waiting k d 15

/-- A form on a thread of a core of another die that relocks: it reaches its target after that (R322). A TID that the form refuses
for what it names asks nothing of that die. -/
def State.targetHeld (s : State) (x : Word) : Option Nat :=
  let t := tidOf x
  let die := coreDie (coreOf t)
  if die != coreDie s.ck && (s.die die).clock.t0.isSome && s.namesContext t && (s.th.service || s.launchThread t) then some die
  else none

/-- A form at its target, or held back from it. -/
def State.atTarget (s : State) (x : Word) (f : Except Stop State) : Except Stop State :=
  match s.targetHeld x with
  | some die => .ok (s.waitFor (.relock die 0) 0)
  | none => f

/-- The state of a target: its own, or its slot's (R97). -/
def State.targetThread (s : State) (t : Nat) : Thread := if (s.thr t).st = .saved then s.slotImage t else s.thr t

/-- The state of a target written: its own, or its slot's (R97). -/
def State.setTarget (s : State) (t : Nat) (x : Thread) : State :=
  if (s.thr t).st = .saved then s.slotWrite t x else s.setThr t x

/-- A piece of a target's state read (R96). -/
def State.readT (s : State) (t : Nat) (x : Thread) (p : Nat) : TState → Word
  | .k r => s.readK t x r
  | .g r => x.rg r
  | .m r => (x.rm r).setWidth 64
  | .pc => x.pc
  | .v r => vPiece (x.rv r) p

/-- A piece of a target's state written (R96). -/
def Thread.writeT (x : Thread) (p : Nat) (v : Word) : TState → Thread
  | .k r => x.writeK r v
  | .g r => x.setG r v
  | .m r => x.setM r (v.setWidth 16)
  | .pc => { x with pc := v }
  | .v r => x.setV r (setPiece (x.rv r) p v)

/-- `sys.tread` (R96, R97). -/
def execSysTread (d a : Reg) (k : TState) (s : State) : Host.Outcome State Fault Refusal :=
  finish s (s.atTarget (s.rg a) do
    let t ← s.target (s.rg a)
    .ok (s.pureG d (s.readT t (s.targetThread t) (bitsAt (s.rg a) 17 3) k)))

/-- The checks of a write to a target's state, judged at the handler's privilege (R89, R96). -/
def State.targetChecks (s : State) (t : Nat) (x : Thread) (v : Word) : TState → Except Stop Unit
  | .k r => s.writeChecks r (s.readK t x r) v
  | .pc => trapIf (bitsAt v 0 2 != 0) cMisaligned v
  | _ => .ok ()

/-- A piece of state that is a register RWS as a whole: its PRIVILEGE check is one of decode (R24, R89). -/
def tRws : TState → Bool
  | .k r => kRws r
  | _ => false

/-- `sys.twrite` (R89, R96, R97). -/
def execSysTwrite (d a : Reg) (k : TState) (s : State) : Host.Outcome State Fault Refusal :=
  finish s (do
    trapIf (tRws k && !s.th.service) cPrivilege s.wordInfo
    s.atTarget (s.rg a) (do
      let t ← s.target (s.rg a)
      let x := s.targetThread t
      let v := s.rg d
      s.targetChecks t x v k
      let s1 := match k with
        | .k .kswait => s.modCor (coreOf t) fun c => { c with kswait := v }
        | _ => s.setTarget t (x.writeT (bitsAt (s.rg a) 17 3) v k)
      .ok s1.reply))

/-- `sys.tresume` (R97, R109, R111). -/
def execSysTresume (a : Reg) (s : State) : Host.Outcome State Fault Refusal :=
  finish s (s.atTarget (s.rg a) do
    let t ← s.target (s.rg a)
    let s1 := if (s.thr t).st = .saved then (s.dropCall t).slotWrite t { s.slotImage t with st := .ready } else s.resume t
    .ok s1.reply)

/-- A form that has another core write to homes waits while a die relocks (R322); it is tested again. -/
def State.otherCore (s : State) (t : Nat) (f : State) : State :=
  if coreOf t = s.ck then f
  else
    match s.someRelock with
    | some d => s.waitFor (.relock d 0) 0
    | none => f

/-- `sys.tkill` (R91, R97, R109). -/
def execSysTkill (a : Reg) (s : State) : Host.Outcome State Fault Refusal :=
  finish s (s.atTarget (s.rg a) do
    let t ← s.target (s.rg a)
    .ok (s.otherCore t (s.endThread t).reply))

/-! ## Calls, breaks and the end (R109, R110) -/

/-- `sys.call` (R109). -/
def execSysCall (a : Reg) (k : BitVec 8) (s : State) : Host.Outcome State Fault Refusal :=
  .next (s.trapNow { cause := cSyscall, info := k.setWidth 64, aux := s.rg a })

/-- `sys.brk` (R109). -/
def execSysBrk (k : BitVec 8) (s : State) : Host.Outcome State Fault Refusal :=
  .next (s.trapNow { cause := cBreak, info := k.setWidth 64 })

/-- `sys.exit` (R91, R109). -/
def execSysExit (s : State) : Host.Outcome State Fault Refusal :=
  if s.th.packet.isEmpty then .next (s.endThread s.cur) else finish s (.error (packetTrap 0))

/-! ## Decode tables (R131, R132) -/

/-- First index and number of entries of a decode table. -/
def tableAt : DTable → Nat × Nat
  | .tabA => (0, 16)
  | .tabB => (256, 16)
  | .n8 => (512, 256)

/-- The scratchpad address of a table form, checked (R132). -/
def State.tableAddr (s : State) (a : Reg) (n : Nat) : Except Stop Nat := do
  let base ← scrAddr (s.rg a)
  trapIf (base % 4 != 0) cMisaligned (s.rg a)
  trapIf (decide (s.scrLimit < base + 4 * n)) cScratchBounds (s.rg a)
  .ok base

/-- `sys.nuld` (R132): the table is loaded as a whole when the form completes, so that a save before that withdraws it. -/
def execSysNuld (a : Reg) (k : DTable) (s : State) : Host.Outcome State Fault Refusal :=
  finish s (do
    let base ← s.tableAddr a (tableAt k).2
    .ok (s.waitFor (.tableMove true k base) 0))

/-- `sys.nust` (R132): the table is stored as a whole when the form completes. -/
def execSysNust (a : Reg) (k : DTable) (s : State) : Host.Outcome State Fault Refusal :=
  finish s (do
    let base ← s.tableAddr a (tableAt k).2
    .ok (s.waitFor (.tableMove false k base) 0))

/-- A decode table loaded from the scratchpad of its core (R132). -/
def Core.loadTable (c : Core) (k : DTable) (base : Nat) : Core :=
  let (first, n) := tableAt k
  { c with tabs := (List.range n).foldl (fun m j =>
      AMap.put 0 m (first + j) (BitVec.ofNat 19 (c.scrRead (base + 4 * j) 4))) c.tabs }

/-- A decode table stored in the scratchpad of its core (R132). -/
def Core.storeTable (c : Core) (k : DTable) (base : Nat) : Core :=
  let (first, n) := tableAt k
  (List.range n).foldl (fun c j => c.scrWrite (base + 4 * j) (bytesOf (c.tabs.get 0 (first + j)).toNat 4)) c

/-- `sys.nuld` or `sys.nust` of a thread completes (R132), or traps at an uncorrectable word (R281). -/
def State.moveTable (s : State) (t : Nat) (load : Bool) (k : DTable) (base : Nat) : State :=
  let ck := coreOf t
  let n := 4 * (tableAt k).2
  match if load then (s.cor ck).scrBad base n else (s.cor ck).scrPartBad base n with
  | some w => s.takeTrap t (uncorrectable w)
  | none =>
    (s.modCor ck fun c => if load then c.loadTable k base else c.storeTable k base).modThr t fun x => x.advance.rejoin

/-! ## Saving and restoring one context (R137, R138) -/

/-- The target of `sys.tsave` and `sys.tload` (R137). -/
def State.saveTarget (s : State) (x : Word) : Except Stop Nat := do
  let t := tidOf x
  trapIf (!s.namesContext t || (s.thr t).st == .idle || (s.thr t).st == .ended) cPermission (BitVec.ofNat 64 t)
  .ok t

/-- `sys.tsave` (R137, R138): the issuer waits until the save is complete, and a second one until it can trap. -/
def execSysTsave (d a : Reg) (s : State) : Host.Outcome State Fault Refusal :=
  finish s (do
    s.needService
    s.atTarget (s.rg a) (do
      let t ← s.saveTarget (s.rg a)
      trapIf ((s.thr t).st == .saved) cPermission (BitVec.ofNat 64 t)
      if !(s.thr t).packet.isEmpty then .ok (s.pureG d stBusy)
      else if (s.thr t).saveFrom.isSome then .ok (s.waitFor (.saved t) d)
      else .ok ((s.modThr t fun x => { x with saveFrom := some s.tick }).waitFor (.save t) d)))

/-- `sys.tload` (R135, R137, R138). -/
def execSysTload (d a : Reg) (s : State) : Host.Outcome State Fault Refusal :=
  finish s (do
    s.needService
    s.atTarget (s.rg a) (do
      let t ← s.saveTarget (s.rg a)
      if (s.thr t).saveFrom.isSome then .ok (s.waitFor (.saved t) d)
      else
        trapIf ((s.thr t).st != .saved) cPermission (BitVec.ofNat 64 t)
        .ok (s.otherCore t ((s.restoreContext t).replyG d stDone))))

end Sys2Proof.Machine
end

