-- ==== Sys2Proof/Machine/Fabric.lean ====
section
/-! DEFINITION. Calls to the Xilux service, windows, and remote operations between packages (R110, R356 to R363, R366,
R369). -/

namespace Sys2Proof.Machine

/-! ## Calls (R110, R358) -/

/-- Status codes beyond the wait statuses (Table 19-2). -/
def scTimeout : Nat := 1
def scBusy : Nat := 2
def scPeerLost : Nat := 3
def scRange : Nat := 8
def scNoWindow : Nat := 9
def scRights : Nat := 10
def scStale : Nat := 11
def scBadCall : Nat := 12
def scNoCkpt : Nat := 13
def scFault : Nat := 14

/-- A call the service has received: its thread, number, block address and status register (R95, R109, R358). -/
structure Call where
  thread : Nat
  k : Nat
  ga : Word
  reg : Reg
  deriving DecidableEq, Repr

/-- The call of a record (Table 4-7). -/
def callOf (t : Nat) (p : Post) : Call where
  thread := t
  k := bitsAt (p.msg.words.getD 1 0) 0 8
  ga := p.msg.words.getD 6 0
  reg := Fin.ofNat 32 (bitsAt (p.msg.words.getD 3 0) 11 5)

/-- The thread is TRAPPED, running or SAVED (R97). -/
def State.stillTrapped (s : State) (t : Nat) : Bool := (s.thr t).st == .trapped || s.savedTrapped t

/-- The call of a TRAPPED thread that the service has received and not answered. -/
def State.callAt (s : State) (t : Nat) : Option Call :=
  if s.stillTrapped t then (s.service.find? (isCallOf (s.callLid t) (t % 2 ^ 20))).map (callOf t) else none

/-- A received call leaves the service's list. -/
def State.takeCall (s : State) (t : Nat) : State :=
  { s with service := s.service.filter fun p => !isCallOf (s.callLid t) (t % 2 ^ 20) p }

/-- THE ANSWER TO A CALL (R110, R358): the status goes to the register that the call names, `pc` becomes `kepc` + 4, and
the thread resumes; of a SAVED thread its slot image is written (R97). -/
def State.answer (s : State) (t : Nat) (reg : Reg) (status : Nat) : State :=
  let x := s.targetThread t
  let y := { x.setG reg (BitVec.ofNat 64 status) with pc := x.kepc + 4, st := .ready }
  if (s.thr t).st = .saved then s.slotWrite t y else s.setThr t y

/-- The block of a call: its address and bytes, if R358 allows the address. DESIGN CHOICE (log entry 131): the service reads an
uncorrectable word as it stands. -/
def State.callBlock (s : State) (c : Call) (n : Nat) : Option (Nat × List Byte) :=
  let a := c.ga.toNat
  let k := s.homeCor c.thread
  if a % 8 = 0 ∧ a + n ≤ k.scr then some (a, (List.range n).map fun i => k.scrByte (a + i)) else none

/-- Bytes written to the block of a call. -/
def State.putBlock (s : State) (t a : Nat) (bs : List Byte) : State := s.modHome t fun c => c.scrWrite a bs

/-- A call served: with its block, or RANGE where the block's address is bad. -/
def State.serve (s : State) (t k n : Nat) (f : State → Call → Nat → List Byte → State) :
    Host.Outcome State Fault Refusal :=
  match s.callAt t with
  | none => .next s
  | some c =>
    if c.k ≠ k then .next s
    else
      let s1 := s.takeCall t
      .next (match s1.callBlock c n with
        | none => s1.answer t c.reg scRange
        | some (a, bs) => f s1 c a bs)

/-- The numbers of Table 19-1. -/
def callNumbers : List Nat := [1, 2, 3, 4, 5, 0x10, 0x11, 0x12, 0x13, 0x14]

/-- A call whose number is absent from Table 19-1 returns BADCALL as the service receives it (R358). -/
def State.badCall (s : State) (t : Nat) : State :=
  match s.callAt t with
  | some c => if callNumbers.contains c.k then s else (s.takeCall t).answer t c.reg scBadCall
  | none => s

/-- The thread that a SYSCALL record is of: while its launch is SAVED it goes under its lid (R294). -/
def State.callerOf (s : State) (p : Post) : Nat :=
  let tid := bitsAt (p.msg.words.getD 2 0) 32 17
  match p.src with
  | some lid => if (s.cor (coreOf tid)).launch = some lid then tid else savedAs lid tid
  | none => tid

/-- A relock of the destination's die, or of the die that it leaves, holds a message back in the links (R322), and with it
a TRANSLATION record for a class of that die, which the service would forward past earlier records (R94). -/
def State.heldPost (s : State) (p : Post) : Bool :=
  let stopped := fun (d : Nat) => (s.die d).clock.t0.isSome
  p.die.any stopped || (p.core.any fun ck => stopped (coreDie ck)) || p.fwd.any fun f => stopped (coreDie f.1)

/-- The oldest message on its way that no relock holds back, and the others. -/
def State.takeArriving (s : State) : List Post → Option (Post × List Post)
  | [] => none
  | p :: r => if s.heldPost p then (s.takeArriving r).map fun x => (x.1, p :: x.2) else some (p, r)

/-- MESSAGE_ARRIVAL: the oldest message on its way arrives (R118, R119, R322, R358). -/
def execMessageArrival (s : State) : Host.Outcome State Fault Refusal :=
  match s.takeArriving s.transit with
  | none => .next s
  | some (p, r) =>
    let s1 := { s with transit := r }.deliver p
    .next (if p.core.isNone && p.trapRec then s1.badCall (s1.callerOf p) else s1)

/-! ## Windows (R359, R360) -/

/-- Reserved bytes of the block are zero (Table 19-3). -/
def blockClean (bs : List Byte) : Bool := fieldOf bs 0x32 14 == 0

/-- The free window ids. -/
def State.freeWins (s : State) : List Nat := (List.range 256).filter fun i => (s.windows.find i).isNone

/-- The window that an `export` block asks for, if its values are in range (R360). -/
def State.windowOf (s : State) (t : Nat) (bs : List Byte) : Option Window :=
  let c := s.homeCor t
  let rt := fieldOf bs 0x31 1
  let off := fieldOf bs 8 8
  let len := fieldOf bs 4 4
  let w := fun (k : WinKind) => some { asid := c.asid, kind := k, rights := rt % 32, off := off, len := len : Window }
  match rt / 32 with
  | 0 => if off % 8 = 0 ∧ len % 8 = 0 ∧ off + len ≤ 2 ^ 64 then w .memory else none
  | 1 => if ((s.spaces.find c.asid).bind fun sp => sp.regions.find (off % 4096)).isSome then w .keyed else none
  | 2 =>
    let ck := bitsAt (BitVec.ofNat 64 off) 4 13
    let mine := if savedTid t then (s.launchOf (t / 2 ^ 20)).cores.contains ck
      else c.launch.isSome && (s.cor ck).launch == c.launch
    if mine then w .message else none
  | _ => none

/-- EXPORT (R360): which free id the window gets is free. -/
def execExportWindow (t : Nat) (s : State) : Host.Outcome State Fault Refusal :=
  s.serve t 1 64 fun s c a bs =>
    match (if blockClean bs then s.windowOf t bs else none) with
    | none => s.answer t c.reg scRange
    | some w =>
      match s.freeWins with
      | [] => s.answer t c.reg scBusy
      | i :: r =>
        let (n, s) := s.draw
        let id := (i :: r).getD (Config.place n % (r.length + 1)) i
        ({ s with windows := s.windows.set id w }.putBlock t (a + 2) [BitVec.ofNat 8 id]).answer t c.reg 0

/-- An operation begun on a window still waits at its home. -/
def State.windowBusy (s : State) (id : Nat) : Bool :=
  s.remoteWaits.any fun w => match w.work with
    | .op op => op.win == id
    | _ => false

/-- Windows that a test selects close: no operation begins on them any more (R360). -/
def State.closeWins (s : State) (p : Nat → Window → Bool) : State :=
  { s with windows := s.windows.map fun e => if p e.1 e.2 then (e.1, { e.2 with closing := true }) else e }

/-- The window that the `unexport` of a thread names, if it is one of its address space on which operations that have begun
still wait (R360). -/
def State.unexportBusy (s : State) (t : Nat) : Option (Nat × Window) :=
  match (s.callAt t).bind fun c => if c.k = 2 then s.callBlock c 64 else none with
  | some (_, bs) =>
    let id := fieldOf bs 2 1
    if blockClean bs && s.windowBusy id then
      ((s.windows.find id).filter (·.asid == (s.homeCor t).asid)).map fun w => (id, w)
    else none
  | none => none

/-- The `unexport` of a thread waits for operations begun on its window, which is closing already (R360). -/
def State.unexportWaits (s : State) (t : Nat) : Bool := (s.unexportBusy t).any (·.2.closing)

/-- UNEXPORT (R360): the window closes for later operations, and is gone once every operation begun on it has ended. DESIGN
CHOICE (log entry 120): the window stays closed where the caller has ended meanwhile. -/
def execUnexportWindow (t : Nat) (s : State) : Host.Outcome State Fault Refusal :=
  match s.unexportBusy t with
  | some x => .next (s.closeWins fun id _ => id == x.1)
  | none => s.serve t 2 64 fun s c _ bs =>
    let id := fieldOf bs 2 1
    if !blockClean bs then s.answer t c.reg scRange
    else
      match s.windows.find id with
      | some w => if w.asid = (s.homeCor t).asid then { s with windows := s.windows.erase id }.answer t c.reg 0
                  else s.answer t c.reg scNoWindow
      | none => s.answer t c.reg scNoWindow

/-- The online-die mask. -/
def State.onlineMask (s : State) : Nat := ((List.range 12).map fun d => if (s.die d).online then 2 ^ d else 0).sum

/-- DIESTAT (R358). -/
def execDiestat (t : Nat) (s : State) : Host.Outcome State Fault Refusal :=
  s.serve t 3 64 fun s c a _ => (s.putBlock t a (bytesOf s.onlineMask 8)).answer t c.reg 0

/-! ## Restoring damaged keys (R317, R366) -/

/-- What a save area holds of a core, as numbers (R293). -/
def Core.areaWords (c : Core) : List Nat :=
  let pairs := fun (m : AMap Word) => m.flatMap fun e => [e.1, e.2.toNat]
  [c.lcore, c.nctx, c.scr] ++ pairs c.scratch ++ c.empty.map (·.1) ++ c.acc.flatMap (fun e => [e.1, e.2.toNat]) ++
  c.tabs.flatMap (fun e => [e.1, e.2.toNat]) ++ c.batten.flatMap (fun e => [e.1, e.2.toNat]) ++
  c.mailbox.flatMap fun m => [m.cls, m.sender] ++ m.words.map (·.toNat)

/-- The digest of a die's image: its bytes of HBM, where its footings stand, and its save areas (R316). -/
def imageDigest (mem : List Host.Cell) (areas : AMap (AMap Core)) (foots : AMap (Nat × Nat)) (die : Nat) : BitVec 384 :=
  Config.imageSha die (mem.filter fun c => c.1 / hbmBytes == die)
    ((foots.filter fun e => e.1 / 2 ^ 28 == die).flatMap (fun e => [e.1, e.2.1, e.2.2]) ++
     areas.flatMap fun l => (l.2.filter fun c => coreDie c.1 == die).flatMap fun c => l.1 :: c.1 :: c.2.areaWords)

/-- The digests of the images of all dies. -/
def imageDigests (mem : List Host.Cell) (areas : AMap (AMap Core)) (foots : AMap (Nat × Nat)) : List (BitVec 384) :=
  (List.range 12).map (imageDigest mem areas foots)

/-- A checkpoint's digests match its images (R316, R317). -/
def Ckpt.good (k : Ckpt) : Bool := k.digests == imageDigests k.mem k.areas k.foots

/-- The latest checkpoint whose digests match, of those whose devices can be reached (R315, R317). -/
def State.lastCkpt (s : State) : Option Ckpt := s.ckpts.find? fun k => k.ports.all s.cxlUp.contains && k.good

/-- The footing of a region on a die as a checkpoint holds it (R310, R316). -/
def Ckpt.footing (k : Ckpt) (die asid n : Nat) (vt : VType) : AMap Nat :=
  match k.foots.find (die * 2 ^ 28 + asid * 4096 + n) with
  | some (base, len) => footRun k.mem vt base len
  | none => []

/-- The eligible dies of a region that are damaged (R196). -/
def Region.lostDies (r : Region) : List Nat := r.dies.filter r.dmg.contains

/-- The keys to restore of a region of an address space: the footing entries of each damaged die, in ascending name order
(R317). A checkpoint taken of another space of that number has none of its keys (R2). -/
def Ckpt.lostKeys (k : Ckpt) (asid n serial : Nat) (r : Region) : List (Nat × BitVec 128) :=
  if k.serials.find asid = some serial then
    r.lostDies.flatMap fun d => (k.footing d asid n r.vt).map fun e => (e.1, BitVec.ofNat 128 e.2)
  else []

/-- The beam of a name's home has no room for a new entry of that name (R308). -/
def State.keyFull (s : State) (asid : Nat) (r : Region) (name : Nat) : Bool :=
  let d := s.die (s.keyHome r name)
  (d.beam.find (beamKey asid name)).isNone && decide (quarterRoom ≤ (d.quarter (quarterOf name)).length)

/-- A value put in the beam of a name's home. -/
def State.keyPut (s : State) (asid : Nat) (r : Region) (name x : Nat) : State :=
  s.modDie (s.keyHome r name) fun d =>
    ({ d with beam := d.beam.set (beamKey asid name) (BitVec.ofNat 128 x),
              lastDrain := d.lastDrain.set (quarterOf name) s.tick }).settleHigh (quarterOf name)

/-- A checkpoint value combined, as the outer operand, with what the beam of the name's home holds (R317); a fault
leaves the beam's value and is told to the service. -/
def State.restoreKey (s : State) (asid : Nat) (r : Region) (name : Nat) (v : BitVec 128) : State :=
  let h := s.keyHome r name
  match (s.die h).beam.find (beamKey asid name) with
  | none => s.keyPut asid r name v.toNat
  | some b =>
    match combine r.op r.vt v.toNat b.toNat with
    | .ok x => s.keyPut asid r name x
    | .error why => s.postService (s.keyFaultWords name b.toNat v.toNat (runId 2 h 0) why)

/-- Keys restored in order, up to the first that finds its quarter full; those still to restore (R308, R317). -/
def State.restoreKeys (asid : Nat) (r : Region) : List (Nat × BitVec 128) → State → State × List (Nat × BitVec 128)
  | [], s => (s, [])
  | e :: rest, s =>
    if s.keyFull asid r e.1 then (s, e :: rest) else State.restoreKeys asid r rest (s.restoreKey asid r e.1 e.2)

/-- An address space changed. -/
def State.modSpace (s : State) (asid : Nat) (f : Space → Space) : State :=
  { s with spaces := s.spaces.map fun e => if e.1 = asid then (e.1, f e.2) else e }

/-- The damage bits of a region cleared for some dies (R317). -/
def State.clearDamage (s : State) (asid n : Nat) (dies : List Nat) : State :=
  s.modSpace asid fun sp => { sp with regions := sp.regions.map fun r =>
    (r.1, if r.1 = n then { r.2 with dmg := r.2.dmg.filter fun d => !dies.contains d } else r.2) }

/-- A region of an address space by its number. -/
def State.regionAt (s : State) (asid n : Nat) : Option Region := (s.spaces.find asid).bind fun sp => sp.regions.find n

/-- Which load an address space comes from. -/
def State.serialOf (s : State) (asid : Nat) : Nat := ((s.spaces.find asid).map (·.serial)).getD 0

/-- The restoring of a region for a caller goes on: it ends with DONE once every key is in, and waits at a full quarter; it
clears the bits of the dies whose keys were read (R308, R317, R366). -/
def State.restoreGo (s : State) (t : Nat) (reg : Reg) (asid n : Nat) (dies : List Nat) (left : List (Nat × BitVec 128))
    (since : Nat) : State :=
  match s.regionAt asid n with
  | none => s.answer t reg scRange
  | some r =>
    match State.restoreKeys asid r left s with
    | (s, []) => (s.clearDamage asid n dies).answer t reg 0
    | (s, rest) => { s with remoteWaits := s.remoteWaits ++ [{ work := .restore t reg asid n dies rest, since := since }] }

/-- KRESTORE (R366). -/
def execKrestore (t : Nat) (s : State) : Host.Outcome State Fault Refusal :=
  s.serve t 4 64 fun s c _ bs =>
    let asid := (s.homeCor t).asid
    let n := fieldOf bs 0x18 8 % 4096
    if !blockClean bs then s.answer t c.reg scRange
    else
      match s.regionAt asid n with
      | none => s.answer t c.reg scRange
      | some r =>
        match s.lastCkpt with
        | none => s.answer t c.reg scNoCkpt
        | some k => s.restoreGo t c.reg asid n r.lostDies (k.lostKeys asid n (s.serialOf asid) r) s.tick

/-! ## Attestation (R369) -/

/-- A value's bytes, most significant first. -/
def beBytes (v n : Nat) : List Byte := (bytesOf v n).reverse

/-- The signed part of a quote (Table 19-5). -/
def State.quoteBody (s : State) (nonce : List Byte) (objd : BitVec 384) : List Byte :=
  bytesOf s.pkg 2 ++ bytesOf 1 2 ++ bytesOf 0 4 ++ bytesOf s.tick 8 ++ nonce ++ beBytes objd.toNat 48 ++
  s.measure.flatMap fun m => beBytes m.toNat 48

/-- A quote: its signature is over the SHA-384 of the part before it (Table 19-5). -/
def State.quote (s : State) (nonce : List Byte) (objd : BitVec 384) : List Byte :=
  let body := s.quoteBody nonce objd
  body ++ beBytes (Config.ecdsa (beBytes (Config.sha384 body).toNat 48)).toNat 96

/-- CALL_ATTEST (R369). -/
def execCallAttest (t : Nat) (s : State) : Host.Outcome State Fault Refusal :=
  s.serve t 5 496 fun s c a bs =>
    let objd := ((s.spaces.find (s.homeCor t).asid).map (·.digest)).getD 0
    (s.putBlock t a (s.quote ((bs.drop 0x10).take 48) objd)).answer t c.reg 0

/-! ## Sending remote operations (R359, R361) -/

/-- The source endpoint of an address space of this package (R357). -/
def State.endpoint (s : State) (asid : Nat) : Nat := 65536 * s.pkg + asid

/-- An operation goes to its package: to this one's own service, or out. -/
def State.sendOp (s : State) (pkg : Nat) (op : RemoteOp) : State :=
  if pkg = s.pkg then { s with inbox := s.inbox ++ [.remoteOpArrival op] } else { s with outbox := (pkg, op) :: s.outbox }

/-- A length and a scratchpad range that an operation names are in range (R356, R359). -/
def sendRange (kind : RemoteKind) (aop len sbuf scr : Nat) : Bool :=
  match kind with
  | .rread => len % 8 == 0 && decide (8 ≤ len) && decide (len ≤ 4096) && sbuf % 8 == 0 && decide (sbuf + len ≤ scr)
  | .rwrite => len % 8 == 0 && decide (8 ≤ len) && decide (len ≤ 4096) && sbuf % 8 == 0 && decide (sbuf + len ≤ scr)
  | .ramo => decide (aop < 32) && decide (aop % 16 ≤ 9)
  | .rkey => decide (aop < 6)
  | .rmsg => decide (1 ≤ len) && decide (len ≤ 8) && sbuf % 8 == 0 && decide (sbuf + 8 * len ≤ scr)

/-- The bytes an operation carries from the scratchpad. DESIGN CHOICE (log entry 131): an uncorrectable word goes as it stands. -/
def opData (kind : RemoteKind) (c : Core) (sbuf len : Nat) : List Byte :=
  match kind with
  | .rwrite => (List.range len).map fun i => c.scrByte (sbuf + i)
  | .rmsg => (List.range (8 * len)).map fun i => c.scrByte (sbuf + i)
  | _ => []

/-- A remote call (R361): a new operation takes the next number of its endpoint, which is written into the block; a
resend keeps its own. The call waits for its reply. -/
def State.remoteCall (s : State) (t k : Nat) (kind : RemoteKind) : Host.Outcome State Fault Refusal :=
  s.serve t k 64 fun s c a bs =>
    let core := s.homeCor t
    let sbuf := fieldOf bs 0x10 4
    let len := fieldOf bs 4 4
    let aop := fieldOf bs 3 1
    let pkg := fieldOf bs 0 2
    if !blockClean bs || !sendRange kind aop len sbuf core.scr then s.answer t c.reg scRange
    else if pkg ≠ s.pkg ∧ s.ports = [] then s.answer t c.reg scPeerLost
    else
      let given := fieldOf bs 0x14 4
      let seq := if given = 0 then s.outSeq.get 0 core.asid + 1 else given
      let s := if given = 0 then
          { s with outSeq := s.outSeq.set core.asid seq }.putBlock t (a + 0x14) (bytesOf seq 4)
        else s
      let op : RemoteOp :=
        { ep := s.endpoint core.asid, seq := seq, kind := kind, win := fieldOf bs 2 1, aop := BitVec.ofNat 8 aop, len := len,
          off := BitVec.ofNat 64 (fieldOf bs 8 8), val := BitVec.ofNat 64 (fieldOf bs 0x18 8),
          cmp := BitVec.ofNat 64 (fieldOf bs 0x20 8), data := opData kind core sbuf len }
      { (s.sendOp pkg op) with
        calls := s.calls ++ [{ thread := t, seq := seq, block := a, since := s.tick, e := fieldOf bs 0x30 1 % 16 }] }

/-- RREAD (R361, R362). -/
def execRread (t : Nat) (s : State) : Host.Outcome State Fault Refusal := s.remoteCall t 0x10 .rread

/-- RWRITE (R361, R362). -/
def execRwrite (t : Nat) (s : State) : Host.Outcome State Fault Refusal := s.remoteCall t 0x11 .rwrite

/-- RAMO (R361, R362). -/
def execRamo (t : Nat) (s : State) : Host.Outcome State Fault Refusal := s.remoteCall t 0x12 .ramo

/-- RKEY (R361, R362). -/
def execRkey (t : Nat) (s : State) : Host.Outcome State Fault Refusal := s.remoteCall t 0x13 .rkey

/-- RMSG (R361, R362). -/
def execRmsg (t : Nat) (s : State) : Host.Outcome State Fault Refusal := s.remoteCall t 0x14 .rmsg

/-! ## Performing them at the target (R361, R362) -/

/-- What an operation answers: a status, an old value and data. -/
structure Answer where
  status : Nat
  old : Word := 0
  data : List Byte := []
  deriving DecidableEq, Repr

/-- A byte range of an address space in one page, translated for the service's access (R166, R362): FAULT where it
faults, PEER_LOST where its home die is offline. -/
def State.remoteAddr (s : State) (asid va n : Nat) (kinds : List Nat) (store : Bool) : Except Nat Nat :=
  if !canonical va then .error scFault
  else
    match s.walk asid va with
    | .leaf base pte =>
      let pa := ptePa pte + (va - base)
      if !kinds.contains (pteKind pte) || (store && !pteW pte) then .error scFault
      else if !(s.die (homeDie pa)).online then .error scPeerLost
      else if (wordsOf pa n).any (if store then s.goneWord else s.lostWord) then .error scFault
      else .ok pa
    | _ => .error scFault

/-- The physical addresses of the 8-byte words of a range. -/
def State.remoteWords (s : State) (asid va : Nat) (kinds : List Nat) (store : Bool) : Nat → Except Nat (List Nat)
  | 0 => .ok []
  | n + 1 => do
    let pa ← s.remoteAddr asid (va % 2 ^ 64) 8 kinds store
    let r ← s.remoteWords asid (va + 8) kinds store n
    .ok (pa :: r)

/-- A TILED word that a WRITE tenure covers (R264). -/
def State.tenured (s : State) (asid va : Nat) : Bool :=
  s.slices.any fun e => e.2.ents.any fun t => (t.live || t.owes) && t.write && (List.range 8).any fun i => e.2.entHolds t asid (va + i)

/-- The limit of an exponent has passed since a tick (Table 1-6). -/
def limitOver (e since tick : Nat) : Bool := e == 0 || (decide (e ≤ 14) && decide (since + waitLimit e ≤ tick))

/-- The limit of a load of the service at its home slice has passed (R264): that of `kswait` of the service core. DESIGN
CHOICE (log entry 90): the first service core of die 0. -/
def State.serviceLimit (s : State) (since : Nat) : Bool := limitOver (bitsAt (s.cor 8192).kswait 0 4) since s.tick

/-- `rread` of a range, begun at a tick (R264, R362); none while it waits for a WRITE tenure to end. -/
def State.spaceRead (s : State) (asid va len since : Nat) : Option Answer :=
  match s.remoteWords asid va [kPlain, kTiled] false (len / 8) with
  | .error st => some { status := st }
  | .ok ps =>
    if (List.range (len / 8)).any fun i => s.tenured asid (va + 8 * i) then
      if s.serviceLimit since then some { status := scFault } else none
    else some { status := 0, data := ps.flatMap fun pa => memRead s.mem pa 8 }

/-- `rwrite` of a range (R362): a TILED word needs a tenure that the service does not hold (R264). -/
def State.spaceWrite (s : State) (asid va : Nat) (bs : List Byte) : State × Answer :=
  match s.remoteWords asid va [kPlain] true (bs.length / 8) with
  | .error st => (s, { status := st })
  | .ok ps => ((ps.zipIdx).foldl (fun s e => s.homeWrite e.1 ((bs.drop (8 * e.2)).take 8)) s, { status := 0 })

/-- A window's right (R359). -/
def Window.grants (w : Window) (kind : WinKind) (bit : Nat) : Bool := w.kind == kind && w.rights / 2 ^ bit % 2 == 1

/-- The functions of Table 14-4 by code, on a width, the old value, the operand and the comparand. -/
def amoByCode (code w o u c : Nat) : Nat :=
  match code with
  | 0 => u
  | 1 => o + u
  | 2 => o &&& u
  | 3 => o ||| u
  | 4 => o ^^^ u
  | 5 => if sgn w o ≤ sgn w u then o else u
  | 6 => if sgn w u ≤ sgn w o then o else u
  | 7 => min o u
  | 8 => max o u
  | _ => if o = c then u else o

/-- `ramo` at the window byte (R362). DESIGN CHOICE (log entry 90): a function that R278 does not have, or a reserved bit
of `aop`, answers RANGE. -/
def State.remoteAmo (s : State) (w : Window) (op : RemoteOp) : State × Answer :=
  let n := if op.aop.toNat / 16 % 2 = 1 then 8 else 4
  let m := 2 ^ (8 * n)
  if 32 ≤ op.aop.toNat ∨ 9 < op.aop.toNat % 16 ∨ op.off.toNat % n ≠ 0 ∨ w.len < op.off.toNat + n then (s, { status := scRange })
  else
    match s.remoteAddr w.asid (w.off + op.off.toNat) n [kPlain] false, s.remoteAddr w.asid (w.off + op.off.toNat) n [kPlain] true with
    | .ok pa, .ok _ =>
      let o := natOfBytes (memRead s.mem pa n)
      let v := amoByCode (op.aop.toNat % 16) (8 * n) o (op.val.toNat % m) (op.cmp.toNat % m) % m
      (s.homeWrite pa (bytesOf v n), { status := 0, old := BitVec.ofNat 64 o })
    | .error st, _ => (s, { status := st })
    | _, .error st => (s, { status := st })

/-- `rkey` (R206, R308, R360, R362): the update goes through publication to the beam of the name's home; none while it waits
for an entry there. A full quarter of a stalled beam it meets (R205): BUSY. DESIGN CHOICE (log entry 90): an update that is
not published then leaves nothing behind. -/
def State.remoteKey (s : State) (w : Window) (op : RemoteOp) : Option (State × Answer) :=
  let name := op.val.toNat
  match s.regionAt w.asid (w.off % 4096) with
  | none => some (s, { status := scRange })
  | some r =>
    if regionOf name ≠ w.off % 4096 then some (s, { status := scRights })
    else if r.vt.code ≠ op.aop.toNat then some (s, { status := scFault })
    else
      match updateValue r op.cmp with
      | none => some (s, { status := scFault })
      | some u =>
        if s.keyFull w.asid r name then
          if (s.die (s.keyHome r name)).bstall.isSome then some (s, { status := scBusy }) else none
        else
          match (s.die (s.keyHome r name)).beam.find (beamKey w.asid name) with
          | none => some (s.keyPut w.asid r name u, { status := 0 })
          | some o =>
            match combine r.op r.vt o.toNat u with
            | .ok x => some (s.keyPut w.asid r name x, { status := 0 })
            | .error _ => some (s, { status := scFault })

/-- The words of some bytes. -/
def wordsOfBytes (bs : List Byte) : List Word :=
  (List.range (bs.length / 8)).map fun i => BitVec.ofNat 64 (natOfBytes ((bs.drop (8 * i)).take 8))

/-- The launch of an address space that a core belongs to, running or SAVED (R294, R360). -/
def State.windowLaunch (s : State) (asid ck : Nat) : Option Nat :=
  if (s.cor ck).asid = asid ∧ (s.cor ck).launch.isSome then (s.cor ck).launch
  else (s.launches.find? fun e => e.2.asid == asid && (e.2.images.find ck).isSome).map (·.1)

/-- `rmsg` (R362): a permitless message with sender 0 to the window's descriptor, for a launch of the exporter's address
space (R2). -/
def State.remoteMsg (s : State) (w : Window) (op : RemoteOp) : State × Answer :=
  let ck := w.off / 16 % 2 ^ 13
  if op.len = 0 ∨ 8 < op.len then (s, { status := scRange })
  else if !(s.die (coreDie ck)).online then (s, { status := scPeerLost })
  else
    let tag := if bitAt op.val 8 then some (bitsAt op.val 0 8) else none
    (s.post { core := some ck, lid := s.windowLaunch w.asid ck, trapRec := false, src := none, fwd := none,
              msg := { cls := w.off % 16, sender := 0, words := (wordsOfBytes op.data).take op.len, tag := tag, permitted := false } },
     { status := 0 })

/-- A memory range of an operation lies in its window, word by word. -/
def inWindow (w : Window) (op : RemoteOp) : Bool :=
  op.len % 8 == 0 && decide (8 ≤ op.len) && decide (op.len ≤ 4096) && op.off.toNat % 8 == 0 &&
  decide (op.off.toNat + op.len ≤ w.len)

/-- The window of an operation: one that has begun goes on at a closing window, no other begins there (R360). -/
def State.opWindow (s : State) (op : RemoteOp) (begun : Bool) : Option Window :=
  (s.windows.find op.win).filter fun w => begun || !w.closing

/-- The window, its rights and its range checked, and the operation performed (R361, R362), begun at a tick; none while
it waits at its home. -/
def State.performOp (s : State) (op : RemoteOp) (since : Nat) (begun : Bool := false) : Option (State × Answer) :=
  match s.opWindow op begun with
  | none => some (s, { status := scNoWindow })
  | some w =>
    match op.kind with
    | .rread =>
      if !w.grants .memory 0 then some (s, { status := scRights })
      else if !inWindow w op then some (s, { status := scRange })
      else (s.spaceRead w.asid (w.off + op.off.toNat) op.len since).map fun a => (s, a)
    | .rwrite =>
      if !w.grants .memory 1 then some (s, { status := scRights })
      else if !inWindow w op then some (s, { status := scRange })
      else some (s.spaceWrite w.asid (w.off + op.off.toNat) (op.data.take op.len))
    | .ramo => some (if !w.grants .memory 2 then (s, { status := scRights }) else s.remoteAmo w op)
    | .rkey => if !w.grants .keyed 3 then some (s, { status := scRights }) else s.remoteKey w op
    | .rmsg => some (if !w.grants .message 4 then (s, { status := scRights }) else s.remoteMsg w op)

/-- A reply goes to its endpoint: back to a thread of this package, or out. -/
def State.sendReply (s : State) (r : RemoteReply) : State :=
  if r.ep / 65536 = s.pkg ∧ r.ep % 65536 ≠ 0 then { s with inbox := s.inbox ++ [.remoteReplyArrival r] }
  else { s with netOut := r :: s.netOut }

/-- What the reply cache says of an operation (R361): a saved reply, STALE, or none: it is to be performed. -/
def State.cached (s : State) (ep seq : Nat) : Option RemoteReply :=
  let c := s.caches.get { newest := 0, saved := [] } ep
  match c.saved.find? fun r => r.seq == seq with
  | some r => some r
  | none => if seq + 1024 ≤ c.newest then some { ep := ep, seq := seq, status := scStale, old := 0, data := [] } else none

/-- A reply saved with those of the last 1,024 numbers of its endpoint (R361). -/
def State.saveReply (s : State) (r : RemoteReply) : State :=
  let c := s.caches.get { newest := 0, saved := [] } r.ep
  let newest := max c.newest r.seq
  { s with caches := s.caches.set r.ep { newest := newest, saved := (r :: c.saved).filter fun x => decide (newest < x.seq + 1024) } }

/-- The reply that carries an answer. -/
def Answer.reply (a : Answer) (ep seq : Nat) : RemoteReply :=
  { ep := ep, seq := seq, status := a.status, old := a.old, data := a.data }

/-- AT MOST ONCE (R361): an operation of an endpoint is performed unless its reply is saved or its number is stale; the
reply is saved, and comes with the state. -/
def State.once (s : State) (ep seq : Nat) (f : State → State × Answer) : State × RemoteReply :=
  match s.cached ep seq with
  | some r => (s, r)
  | none =>
    let x := f s
    (x.1.saveReply (x.2.reply ep seq), x.2.reply ep seq)

/-- An operation or a read of an endpoint's number waits at its home. -/
def RemoteWork.isFor (ep seq : Nat) : RemoteWork → Bool
  | .op o => o.ep == ep && o.seq == seq
  | .read h _ _ _ => h.ep == ep && h.seq == seq
  | .unload h _ => h.ep == ep && h.seq == seq
  | .restore _ _ _ _ _ _ => false

/-- The same for work that may wait at its home (R206, R264): it then stands among the waiting work, once. -/
def State.onceOrWait (s : State) (ep seq : Nat) (w : RemoteWork) (since : Nat) (f : State → Option (State × Answer)) :
    State × Option RemoteReply :=
  if (s.cached ep seq).isNone && s.remoteWaits.any (fun x => x.work.isFor ep seq) then (s, none)
  else
    match f s with
    | some x => let y := s.once ep seq fun _ => x; (y.1, some y.2)
    | none =>
      match s.cached ep seq with
      | some r => (s, some r)
      | none => ({ s with remoteWaits := s.remoteWaits ++ [{ work := w, since := since }] }, none)

/-- A remote operation at its home, at its arrival or as one that has begun at a tick (R361, R362). -/
def State.doOp (s : State) (op : RemoteOp) (since : Nat) (begun : Bool := false) : State :=
  let x := s.onceOrWait op.ep op.seq (.op op) since fun s => s.performOp op since begun
  x.2.elim x.1 x.1.sendReply

/-- REMOTE_OP_ARRIVAL (R361, R362): before start-up is complete no service answers. -/
def execRemoteOpArrival (op : RemoteOp) (s : State) : Host.Outcome State Fault Refusal :=
  .next (if s.started then s.doOp op s.tick else s)

/-! ## Replies at the issuing service (R361) -/

/-- The pending call that a reply answers. -/
def State.callFor (s : State) (r : RemoteReply) : Option PendingCall :=
  s.calls.find? fun c => c.seq == r.seq && s.endpoint (s.homeCor c.thread).asid == r.ep

/-- A pending call ends with a status (R358). -/
def State.endCall (s : State) (c : PendingCall) (status : Nat) : State :=
  { s with calls := s.calls.filter fun y => y.thread != c.thread }.answer c.thread
    (Fin.ofNat 32 (bitsAt ((s.thr c.thread).word.setWidth 64) 11 5)) status

/-- What a reply writes for its call: the data of an `rread`, the old value of a `ramo` (Table 19-1). -/
def State.replyData (s : State) (c : PendingCall) (r : RemoteReply) : State :=
  let sbuf := (s.homeCor c.thread).scrRead (c.block + 0x10) 4
  match bitsAt (s.targetThread c.thread).kinfo 0 8 with
  | 0x10 => s.putBlock c.thread sbuf r.data
  | 0x12 => s.putBlock c.thread (c.block + 0x28) (bytesOf r.old.toNat 8)
  | _ => s

/-- REMOTE_REPLY_ARRIVAL: a reply in time ends its call; a late one is discarded (R361). -/
def execRemoteReplyArrival (r : RemoteReply) (s : State) : Host.Outcome State Fault Refusal :=
  .next (match s.callFor r with
    | some c => (if r.status = 0 then s.replyData c r else s).endCall c r.status
    | none => s)

/-- The limit of a call has passed (R359, R361). -/
def PendingCall.over (c : PendingCall) (tick : Nat) : Bool := limitOver c.e c.since tick

/-- REMOTE_CALL_TIMEOUT: no reply has come within `tmo`, and the call returns TIMEOUT (R361). -/
def execRemoteCallTimeout (t : Nat) (s : State) : Host.Outcome State Fault Refusal :=
  .next (match s.calls.find? (·.thread == t) with
    | some c => if c.over s.tick then s.endCall c scTimeout else s
    | none => s)

/-- LATE_REPLY_DISCARD: a reply for a call that has already returned is discarded (R361). -/
def execLateReplyDiscard (_r : RemoteReply) (s : State) : Host.Outcome State Fault Refusal := .next s

end Sys2Proof.Machine
end

