-- ==== Sys2Proof/Machine/Lathe.lean ====
section
/-! DEFINITION. The lathe: decompress, transpose, re-encode (R241 to R246). -/

namespace Sys2Proof.Machine

/-- Contexts of a cluster that wait for a place in its lathe are tested again (R241). -/
def State.wakeLathe (s : State) (cl : Nat) : State :=
  (List.range 8).foldl (fun s i => s.wakeCore (8 * cl + i) (· == .lathePort)) s

/-- `lathe.req` (R241): BUSY is its expiry status. -/
def execLatheReq (e : BitVec 4) (d a b : Reg) (s : State) : Host.Outcome State Fault Refusal :=
  finish s (do
    let la ← scrAddr (s.rg a)
    trapIf (la % 8 != 0) cMisaligned (s.rg a)
    trapIf (decide (s.scrLimit < la + 64)) cScratchBounds (s.rg a)
    s.scrPoison la 64
    if (s.clu s.cl).lathe.length < 4 then
      let q : LatheReq :=
        { core := s.ck, cls := bitsAt (s.rg b) 0 4, tag := bitsAt (s.rg b) 8 56,
          block := (List.range 64).map fun i => s.co.scrByte (la + i), tabs := s.co.tabs, tacc := s.tick, answer := none }
      .ok ((s.modClu s.cl fun k => { k with lathe := k.lathe ++ [q] }).replyG d stDone)
    else .ok (s.timed .lathePort d e stBusy))

/-- A field of a request block (Table 11-8). -/
def LatheReq.field (q : LatheReq) (off n : Nat) : Nat := fieldOf q.block off n

def LatheReq.kind (q : LatheReq) : Nat := q.field 0 1
def LatheReq.sub (q : LatheReq) : Nat := q.field 1 1
def LatheReq.src (q : LatheReq) : Nat := q.field 4 4
def LatheReq.dst (q : LatheReq) : Nat := q.field 8 4
def LatheReq.p (q : LatheReq) (i : Nat) : Nat := q.field (12 + 4 * i) 4

/-- Element bytes of kind 2 (Table 11-9). -/
def LatheReq.elem (q : LatheReq) : Nat := 2 ^ q.sub

/-- Block width of kind 3: bit 0 of `sub` the source, bit 1 the destination (Table 11-9). -/
def LatheReq.width (q : LatheReq) (i : Nat) : BlkW := if q.sub / 2 ^ i % 2 = 1 then .blk8 else .blk4

/-- Two byte ranges share a byte. -/
def rangesMeet (a m b n : Nat) : Bool := decide (a < b + n) && decide (b < a + m) && decide (0 < m) && decide (0 < n)

/-- A range lies below the scratchpad limit. -/
def below (limit a n : Nat) : Bool := decide (a + n ≤ limit)

/-- The checks of R242 against a core's reservation. -/
def LatheReq.good (q : LatheReq) (limit : Nat) : Bool :=
  let addr := fun (x : Nat) => decide (x < 2 ^ 18)
  q.field 2 2 == 0 && (List.range 36).all (fun i => q.field (0x1C + i) 1 == 0) && addr q.src && addr q.dst &&
  match q.kind with
  | 1 =>
    let c0 := q.p 1
    let n := q.p 2
    let z := q.p 3
    decide (q.sub ≤ 1) && addr (q.p 0) && q.p 0 % 4 == 0 && decide (c0 ≤ 65535) && decide (1 ≤ n) && decide (n ≤ 256) &&
    z % 8 == 0 && decide (8 ≤ z) && decide (z ≤ 65536) && q.dst % 8 == 0 &&
    below limit (q.p 0 + 4 * c0) (4 * (n + 1)) && below limit q.dst (n * z) &&
    !rangesMeet q.dst (n * z) (q.p 0 + 4 * c0) (4 * (n + 1))
  | 2 =>
    let n := q.p 0 * q.p 1 * q.elem
    decide (q.sub ≤ 2) && decide (1 ≤ q.p 0) && decide (q.p 0 ≤ 256) && decide (1 ≤ q.p 1) && decide (q.p 1 ≤ 256) &&
    q.p 2 == 0 && q.p 3 == 0 && q.dst % q.elem == 0 && below limit q.src n && below limit q.dst n &&
    !rangesMeet q.dst n q.src n
  | 3 =>
    let n := q.p 2
    let a := n * (q.width 0).bytes
    let b := n * (q.width 1).bytes
    decide (q.sub < 4) && addr (q.p 0) && addr (q.p 1) && q.p 0 % 2 == 0 && q.p 1 % 2 == 0 && decide (1 ≤ n) &&
    decide (n ≤ 4096) && decide (q.p 3 < 16) && q.dst % (q.width 1).bytes == 0 &&
    below limit q.src a && below limit (q.p 0) (2 * n) && below limit q.dst b && below limit (q.p 1) (2 * n) &&
    !rangesMeet q.dst b q.src a && !rangesMeet q.dst b (q.p 0) (2 * n) && !rangesMeet (q.p 1) (2 * n) q.src a &&
    !rangesMeet (q.p 1) (2 * n) (q.p 0) (2 * n)
  | _ => false

/-! ## Decompress (R243) -/

/-- What a chunk has emitted so far, newest first, with its length and its work cycles. -/
structure Emit where
  rev : List Nat
  len : Nat
  work : Nat
  deriving DecidableEq, Repr

/-- How a run ends: it is emitted, or the chunk ends with a code of Table 11-10. -/
inductive RunEnd where
  | goes (e : Emit)
  | ends (e : Emit) (code : Nat)
  deriving DecidableEq, Repr

/-- Bytes added. -/
def Emit.add (e : Emit) (bs : List Nat) : Emit := { e with rev := bs.reverse ++ e.rev, len := e.len + bs.length }

/-- A run of bytes after a token that costs `token` work cycles (R243): it is worked off 16 bytes a cycle; the work bound
ends it before a cycle that is not left, the output bound at the byte that would pass it. -/
def emitRun (z bound token : Nat) (e : Emit) (bs : List Nat) : RunEnd :=
  if bound < e.work + token then .ends { e with work := bound } 2
  else
    let can := min bs.length (16 * (bound - e.work - token))
    if z < e.len + can then .ends (e.add (bs.take (z - e.len))) 1
    else if can < bs.length then .ends { e.add (bs.take can) with work := bound } 2
    else .goes { e.add bs with work := e.work + token + (bs.length + 15) / 16 }

/-- Zero-run decoding (R243); the fuel is the number of input bytes. A token from 0x80 on stands for its value less 0x7F
zeros. -/
def zeroRun (z bound : Nat) : Nat → Emit → List Nat → Emit × Nat
  | 0, e, _ => (e, if e.len = z then 0 else 3)
  | _ + 1, e, [] => (e, if e.len = z then 0 else 3)
  | n + 1, e, tok :: r =>
    if tok < 0x80 then
      match emitRun z bound 1 e (r.take (tok + 1)) with
      | .ends e c => (e, c)
      | .goes e => if r.length < tok + 1 then (e, 4) else zeroRun z bound n e (r.drop (tok + 1))
    else
      match emitRun z bound 1 e (List.replicate (tok % 0x80 + 1) 0) with
      | .ends e c => (e, c)
      | .goes e => zeroRun z bound n e r

/-- The bytes that a chunk emits, and its code (R243, Table 11-10). -/
def chunk (codec z : Nat) (input : List Nat) : List Nat × Nat :=
  let bound := z / 2 + 256
  let e0 : Emit := { rev := [], len := 0, work := 0 }
  let (e, c) :=
    if codec = 0 then
      match emitRun z bound 0 e0 input with
      | .ends e c => (e, c)
      | .goes e => (e, if e.len = z then 0 else 3)
    else zeroRun z bound input.length e0 input
  (e.rev.reverse, c)

/-- The result of a request in the making: the core's image, the words written in order, the ranges written, and the
reply's counts. -/
structure LatheOut where
  img : Core
  words : List Nat
  spans : List (Nat × Nat)
  status : Nat
  nfail : Nat
  first : Nat
  flen : Nat
  poison : Nat
  deriving DecidableEq, Repr

/-- Bytes written to the image. -/
def LatheOut.write (o : LatheOut) (a : Nat) (bs : List Nat) : LatheOut :=
  { o with img := o.img.scrWrite a (bs.map fun b => BitVec.ofNat 8 b), words := o.words ++ wordsOf a bs.length,
           spans := (a, bs.length) :: o.spans }

/-- One chunk: its whole words, the last padded with zeros (R243). DESIGN CHOICE (log entry 77): where the destination
overlaps source bytes, which R242 admits, every input byte is read as it was before the request's first write. -/
def LatheReq.chunkInto (q : LatheReq) (limit : Nat) (c : Core) (o : LatheOut) (k : Nat) : LatheOut :=
  let i := q.p 1 + k
  let z := q.p 3
  let lo := c.scrRead (q.p 0 + 4 * i) 4
  let hi := c.scrRead (q.p 0 + 4 * (i + 1)) 4
  let (out, code) :=
    if hi < lo ∨ (lo < hi ∧ limit < q.src + hi) then ([], 5)
    else chunk q.sub z ((List.range (hi - lo)).map fun j => (c.scrByte (q.src + lo + j)).toNat)
  let pad := out ++ List.replicate ((8 - out.length % 8) % 8) 0
  let o := if out.isEmpty then o else o.write (q.dst + k * z) pad
  if code = 0 then o
  else { o with nfail := o.nfail + 1, status := if o.nfail = 0 then code else o.status,
                first := if o.nfail = 0 then i else o.first, flen := if o.nfail = 0 then out.length else o.flen }

/-- Kind 2 (R244). -/
def LatheReq.transpose (q : LatheReq) (c : Core) (o : LatheOut) : LatheOut :=
  let nr := q.p 0
  let nc := q.p 1
  let e := q.elem
  (List.range (nr * nc)).foldl (fun o k =>
    let i := k / nr
    let j := k % nr
    o.write (q.dst + e * k) ((List.range e).map fun b => (c.scrByte (q.src + e * (j * nc + i) + b)).toNat)) o

/-- Kind 3, one block (R245). -/
def LatheReq.block1 (q : LatheReq) (c : Core) (o : LatheOut) (k : Nat) : LatheOut :=
  let t : Core := { Core.init with tabs := q.tabs }
  let w := q.width 0
  let v := q.width 1
  let h := c.scrRead (q.p 0 + 2 * k) 2
  let xs := (List.range 16).map (t.blockLane w h (c.scrRead (q.src + w.bytes * k) w.bytes))
  let (hd, pay, nan) := t.quantise v (q.p 3) xs
  let o := (o.write (q.dst + v.bytes * k) ((bytesOf pay v.bytes).map (·.toNat))).write (q.p 1 + 2 * k)
    ((bytesOf hd 2).map (·.toNat))
  if nan then { o with poison := o.poison + 1 } else o

/-- Kind 3: every source header is checked first (R245). -/
def LatheReq.reencode (q : LatheReq) (c : Core) (o : LatheOut) : LatheOut :=
  match (List.range (q.p 2)).find? fun k => (headerBad (c.scrRead (q.p 0 + 2 * k) 2)).isSome with
  | some k =>
    { o with status := if headerBad (c.scrRead (q.p 0 + 2 * k) 2) = some cSelectorCheck then 9 else 10, first := k }
  | none => (List.range (q.p 2)).foldl (q.block1 c) o

/-- A request run on its core's scratchpad (R242 to R245). -/
def LatheReq.run (q : LatheReq) (c : Core) : LatheOut :=
  let o : LatheOut := { img := c, words := [], spans := [], status := 0, nfail := 0, first := 0, flen := 0, poison := 0 }
  if !q.good c.scr then { o with status := 8 }
  else
    match q.kind with
    | 1 => (List.range (q.p 2)).foldl (q.chunkInto c.scr c) o
    | 2 => q.transpose c o
    | _ => q.reencode c o

/-- The words of a reply (Table 11-11), its time of posting still to come. -/
def LatheReq.reply (q : LatheReq) (o : LatheOut) : List Word :=
  [BitVec.ofNat 64 q.tag, BitVec.ofNat 64 (q.kind + o.status * 2 ^ 8 + o.nfail * 2 ^ 16 + o.first * 2 ^ 32),
   BitVec.ofNat 64 (o.flen + o.poison * 2 ^ 32), BitVec.ofNat 64 (8 * (firstVisits [] o.words).length),
   BitVec.ofNat 64 q.tacc]

/-- A word of a result arrives at its core as a filling write (R124, R246); an uncorrectable one that the request has not
written in full keeps its mark (R281). -/
def State.fillOut (s : State) (ck : Nat) (o : LatheOut) (w : Nat) : State :=
  let y := o.img.scratch.get 0 w
  if ((s.cor ck).spoison.find w).isSome && !spansFill o.spans w then s.arrivePart ck w y else s.arriveWord ck w y

/-- Words of a result in turn. -/
def State.fillWords (s : State) (ck : Nat) (o : LatheOut) : List Nat → State
  | [] => s
  | w :: r => (s.fillOut ck o w).fillWords ck o r

/-- LATHE_REQUEST_START: the oldest request runs: its checks, its reads and its writes (R242 to R246). What it reads of an
uncorrectable word is a free value (log entry 76). -/
def execLatheRequestStart (cl : Nat) (s : State) : Host.Outcome State Fault Refusal :=
  match (s.clu cl).lathe with
  | [] => .next s
  | q :: r =>
    if q.answer.isSome then .next s
    else
      let (n, s) := s.draw
      let o := q.run ((s.cor q.core).freed n)
      let s1 := s.fillWords q.core o (firstVisits [] o.words)
      .next (s1.modClu cl fun k => { k with lathe := { q with answer := some (q.reply o) } :: r })

/-- LATHE_REPLY: the reply of the request that has run is posted (R246). DESIGN CHOICE (log entry 78): the request holds
its place among the four until then. -/
def execLatheReply (cl : Nat) (s : State) : Host.Outcome State Fault Refusal :=
  match (s.clu cl).lathe with
  | [] => .next s
  | q :: r =>
    match q.answer with
    | none => .next s
    | some ws =>
      .next (((s.modClu cl fun k => { k with lathe := r }).postHw q.core q.cls
        (ws ++ [BitVec.ofNat 64 s.tick, 0, 0])).wakeLathe cl)

end Sys2Proof.Machine
end

