-- ==== Sys2Proof/Machine/Frame.lean ====
section
/-! DEFINITION. The issue of a repeat frame, and forms whose requests a relock holds back (R159 to R161, R163, R322). -/

namespace Sys2Proof.Machine

/-! ## Requests to a die that relocks (R322) -/

/-- The limit of a form that waits for its request to go through, its register and its expiry status (R20); 15 for a form
without a limit. -/
def Instr.limit : Instr → Nat × Reg × Word
  | .tilOpen e d _ => (e.toNat, d, 0)
  | .tilAcq _ e d _ _ => (e.toNat, d, stTimeout)
  | .grpWait _ e d _ _ => (e.toNat, d, stTimeout)
  | .cpyIn e d _ _ => (e.toNat, d, stBusy)
  | .cpyOut e d _ _ => (e.toNat, d, stBusy)
  | _ => (15, 0, 0)

/-- A form that uses the decode tables of its issue (R63). -/
def Instr.usesTabs : Instr → Bool
  | .qstQ _ _ _ _ _ _ => true
  | .qstBl _ _ _ _ _ => true
  | _ => false

/-- The first die that relocks among those that the form in progress has sent a request to. -/
def State.relocking (s : State) : Option Nat := (s.th.asked.map (·.die)).find? fun d => (s.die d).clock.t0.isSome

/-- A form that has sent a request to a die that relocks: the request waits in the links, and the form is performed
after the relock, unless its limit passes (R20, R322). It keeps the decode tables of its issue (R63, R181). -/
def hold (i : Instr) (s : State) (o : Host.Outcome State Fault Refusal) : Host.Outcome State Fault Refusal :=
  match o with
  | .next t =>
    match t.relocking with
    | some d =>
      let s := if Instr.usesTabs i then s.keepTabs else s
      .next (s.modTh fun x => x.block s.tick .waiting (.relock d (Instr.limit i).2.2) (Instr.limit i).2.1 (Instr.limit i).1)
    | none => .next t
  | o => o

/-! ## The frame -/

/-- The meaning of a body word: every form whose opcode a frame does not refuse has its own; what a frame refuses is
ILLEGAL there (R161). -/
def bodyExec (i : Instr) (s : State) : Host.Outcome State Fault Refusal :=
  match i with
  | .opiAdd d a b => execOpiAdd d a b s
  | .opiSub d a b => execOpiSub d a b s
  | .opiAnd d a b => execOpiAnd d a b s
  | .opiOr d a b => execOpiOr d a b s
  | .opiXor d a b => execOpiXor d a b s
  | .opiAndn d a b => execOpiAndn d a b s
  | .opiOrn d a b => execOpiOrn d a b s
  | .opiSll d a b => execOpiSll d a b s
  | .opiSrl d a b => execOpiSrl d a b s
  | .opiSra d a b => execOpiSra d a b s
  | .opiSlt d a b => execOpiSlt d a b s
  | .opiSltu d a b => execOpiSltu d a b s
  | .opiMin d a b => execOpiMin d a b s
  | .opiMax d a b => execOpiMax d a b s
  | .opiMinu d a b => execOpiMinu d a b s
  | .opiMaxu d a b => execOpiMaxu d a b s
  | .opiSxb d a => execOpiSxb d a s
  | .opiSxh d a => execOpiSxh d a s
  | .opiSxw d a => execOpiSxw d a s
  | .opiZxb d a => execOpiZxb d a s
  | .opiZxh d a => execOpiZxh d a s
  | .opiZxw d a => execOpiZxw d a s
  | .addi d a imm => execAddi d a imm s
  | .andi d a imm => execAndi d a imm s
  | .ori d a imm => execOri d a imm s
  | .xori d a imm => execXori d a imm s
  | .slti d a imm => execSlti d a imm s
  | .sltiu d a imm => execSltiu d a imm s
  | .lui d imm => execLui d imm s
  | .addpc d imm => execAddpc d imm s
  | .shiSlli d a sh => execShiSlli d a sh s
  | .shiSrli d a sh => execShiSrli d a sh s
  | .shiSrai d a sh => execShiSrai d a sh s
  | .shiRori d a sh => execShiRori d a sh s
  | .shiClz d a => execShiClz d a s
  | .shiCtz d a => execShiCtz d a s
  | .shiPopc d a => execShiPopc d a s
  | .shiBrev d a => execShiBrev d a s
  | .shiBswap d a => execShiBswap d a s
  | .muldivMul d a b => execMuldivMul d a b s
  | .muldivMulh d a b => execMuldivMulh d a b s
  | .muldivMulhu d a b => execMuldivMulhu d a b s
  | .muldivMulhsu d a b => execMuldivMulhsu d a b s
  | .muldivDiv d a b => execMuldivDiv d a b s
  | .muldivDivu d a b => execMuldivDivu d a b s
  | .muldivRem d a b => execMuldivRem d a b s
  | .muldivRemu d a b => execMuldivRemu d a b s
  | .ldPlain sz d a off => execLdPlain sz d a off s
  | .ldTiled sz d a off => execLdTiled sz d a off s
  | .ldDevice sz d a off => execLdDevice sz d a off s
  | .stPlain sz d a off => execStPlain sz d a off s
  | .stTiled sz d a off => execStTiled sz d a off s
  | .stDevice sz d a off => execStDevice sz d a off s
  | .lds sz d a off => execLds sz d a off s
  | .sts sz d a off => execSts sz d a off s
  | .vlds d a off => execVlds d a off s
  | .vsts d a off => execVsts d a off s
  | .feTake d a off => execFeTake d a off s
  | .fePut d a off => execFePut d a off s
  | .feSload d a off => execFeSload d a off s
  | .feFill d a off => execFeFill d a off s
  | .amoSwap x d a b => execAmoSwap x d a b s
  | .amoAdd x d a b => execAmoAdd x d a b s
  | .amoAnd x d a b => execAmoAnd x d a b s
  | .amoOr x d a b => execAmoOr x d a b s
  | .amoXor x d a b => execAmoXor x d a b s
  | .amoMin x d a b => execAmoMin x d a b s
  | .amoMax x d a b => execAmoMax x d a b s
  | .amoMinu x d a b => execAmoMinu x d a b s
  | .amoMaxu x d a b => execAmoMaxu x d a b s
  | .amoCas x d a b => execAmoCas x d a b s
  | .ordAcq x => execOrdAcq x s
  | .ordRel x => execOrdRel x s
  | .ordFence x => execOrdFence x s
  | .ordLda x sz d a => execOrdLda x sz d a s
  | .ordStl x sz a b => execOrdStl x sz a b s
  | .keyUpd x e d a b => execKeyUpd x e d a b s
  | .keyLd x d a => execKeyLd x d a s
  | .keyLdx d a => execKeyLdx d a s
  | .keyPub x e d => execKeyPub x e d s
  | .keyFixDrop d a b => execKeyFixDrop d a b s
  | .keyFixSet d a b => execKeyFixSet d a b s
  | .keyResume d a => execKeyResume d a s
  | .keyInfo d a => execKeyInfo d a s
  | .qstQ w imm sp d a off => execQstQ w imm sp d a off s
  | .qstBl w sp d a off => execQstBl w sp d a off s
  | .bitInit d a k => execBitInit d a k s
  | .bitPeek d k => execBitPeek d k s
  | .bitGet d k => execBitGet d k s
  | .bitSkip k => execBitSkip k s
  | .bitGetv d a => execBitGetv d a s
  | .bitUnar d => execBitUnar d s
  | .bitTell d => execBitTell d s
  | .bitAvail d => execBitAvail d s
  | .tilOpen e d a => execTilOpen e d a s
  | .tilClose d a => execTilClose d a s
  | .tilAcq x e d a b => execTilAcq x e d a b s
  | .tilRel d a b => execTilRel d a b s
  | .tilGet d a b => execTilGet d a b s
  | .tilPut d a b => execTilPut d a b s
  | .xpfSnap d a => execXpfSnap d a s
  | .xpfReq d a b => execXpfReq d a b s
  | .xpfCancel d a => execXpfCancel d a s
  | .vfpAdd ty m d a b => execVfpAdd ty m d a b s
  | .vfpSub ty m d a b => execVfpSub ty m d a b s
  | .vfpMul ty m d a b => execVfpMul ty m d a b s
  | .vfpDiv ty m d a b => execVfpDiv ty m d a b s
  | .vfpSqrt ty m d a => execVfpSqrt ty m d a s
  | .vfpFma ty m d a b => execVfpFma ty m d a b s
  | .vfpFms ty m d a b => execVfpFms ty m d a b s
  | .vfpFnma ty m d a b => execVfpFnma ty m d a b s
  | .vfpMin ty m d a b => execVfpMin ty m d a b s
  | .vfpMax ty m d a b => execVfpMax ty m d a b s
  | .vfpAbs ty m d a => execVfpAbs ty m d a s
  | .vfpNeg ty m d a => execVfpNeg ty m d a s
  | .vfpSgnj ty m d a b => execVfpSgnj ty m d a b s
  | .vfpCeq m d a b => execVfpCeq m d a b s
  | .vfpClt m d a b => execVfpClt m d a b s
  | .vfpCle m d a b => execVfpCle m d a b s
  | .vfpCun m d a b => execVfpCun m d a b s
  | .vintAdd ty m d a b => execVintAdd ty m d a b s
  | .vintSub ty m d a b => execVintSub ty m d a b s
  | .vintAdds ty m d a b => execVintAdds ty m d a b s
  | .vintAddus ty m d a b => execVintAddus ty m d a b s
  | .vintSubs ty m d a b => execVintSubs ty m d a b s
  | .vintSubus ty m d a b => execVintSubus ty m d a b s
  | .vintMul ty m d a b => execVintMul ty m d a b s
  | .vintMulh ty m d a b => execVintMulh ty m d a b s
  | .vintAnd ty m d a b => execVintAnd ty m d a b s
  | .vintOr ty m d a b => execVintOr ty m d a b s
  | .vintXor ty m d a b => execVintXor ty m d a b s
  | .vintAndn ty m d a b => execVintAndn ty m d a b s
  | .vintSll ty m d a b => execVintSll ty m d a b s
  | .vintSrl ty m d a b => execVintSrl ty m d a b s
  | .vintSra ty m d a b => execVintSra ty m d a b s
  | .vintMin ty m d a b => execVintMin ty m d a b s
  | .vintMax ty m d a b => execVintMax ty m d a b s
  | .vintMinu ty m d a b => execVintMinu ty m d a b s
  | .vintMaxu ty m d a b => execVintMaxu ty m d a b s
  | .vintCeq m d a b => execVintCeq m d a b s
  | .vintClt m d a b => execVintClt m d a b s
  | .vintCltu m d a b => execVintCltu m d a b s
  | .vcvtNf16l ty m d a => execVcvtNf16l ty m d a s
  | .vcvtNf16h ty m d a => execVcvtNf16h ty m d a s
  | .vcvtNbf16l ty m d a => execVcvtNbf16l ty m d a s
  | .vcvtNbf16h ty m d a => execVcvtNbf16h ty m d a s
  | .vcvtWf16l m d a => execVcvtWf16l m d a s
  | .vcvtWf16h m d a => execVcvtWf16h m d a s
  | .vcvtWbf16l m d a => execVcvtWbf16l m d a s
  | .vcvtWbf16h m d a => execVcvtWbf16h m d a s
  | .vcvtFtoi ty m d a => execVcvtFtoi ty m d a s
  | .vcvtFtou ty m d a => execVcvtFtou ty m d a s
  | .vcvtItof ty m d a => execVcvtItof ty m d a s
  | .vcvtUtof ty m d a => execVcvtUtof ty m d a s
  | .vcvtRint ty m d a => execVcvtRint ty m d a s
  | .vpermFsum ty m d a => execVpermFsum ty m d a s
  | .vpermFmax ty m d a => execVpermFmax ty m d a s
  | .vpermFmin ty m d a => execVpermFmin ty m d a s
  | .vpermIsum ty m d a => execVpermIsum ty m d a s
  | .vpermImax ty m d a => execVpermImax ty m d a s
  | .vpermImin ty m d a => execVpermImin ty m d a s
  | .vpermImaxu ty m d a => execVpermImaxu ty m d a s
  | .vpermIminu ty m d a => execVpermIminu ty m d a s
  | .vpermPerm ty m d a b => execVpermPerm ty m d a b s
  | .vpermBcl ty m d a n => execVpermBcl ty m d a n s
  | .vpermRot ty m d a n => execVpermRot ty m d a n s
  | .vpermCmpr m d a b => execVpermCmpr m d a b s
  | .vpermExpd m d a b => execVpermExpd m d a b s
  | .vbmmMma ty m d a b => execVbmmMma ty m d a b s
  | .vbmmMm ty m d a b => execVbmmMm ty m d a b s
  | .vmskAnd d a b => execVmskAnd d a b s
  | .vmskOr d a b => execVmskOr d a b s
  | .vmskXor d a b => execVmskXor d a b s
  | .vmskAndn d a b => execVmskAndn d a b s
  | .vmskNot d a => execVmskNot d a s
  | .vmskFromg d a => execVmskFromg d a s
  | .vmskTog d a => execVmskTog d a s
  | .vmskPopc d a => execVmskPopc d a s
  | .vmskFirst d a => execVmskFirst d a s
  | .vmskPre d a => execVmskPre d a s
  | .vmskGlen ty d a => execVmskGlen ty d a s
  | .vmovMov ty m d a => execVmovMov ty m d a s
  | .vmovSel ty m d a b => execVmovSel ty m d a b s
  | .vmovBcg ty m d a => execVmovBcg ty m d a s
  | .vmovIns ty d a b => execVmovIns ty d a b s
  | .vmovExt ty d a b => execVmovExt ty d a b s
  | .vmovIota ty m d => execVmovIota ty m d s
  | .sprsScan x d a b => execSprsScan x d a b s
  | .sprsS24 x d a => execSprsS24 x d a s
  | .latheReq e d a b => execLatheReq e d a b s
  | _ => .next s.illegalNow

/-- REPEAT_FRAME_ISSUE: the next staggered word of the issuing thread's frame is decoded in full and issues; its
completion moves the frame on (R159, R160, R161). -/
def execRepeatFrameIssue (s : State) : Host.Outcome State Fault Refusal :=
  let w := s.frameWord
  let s1 := s.setWord w
  if frameRefuses w then .next s1.illegalNow
  else
    match decode w with
    | .error e => .next (s1.trapNow (decodeTrap w e))
    | .ok i => hold i s1 (bodyExec i s1)

end Sys2Proof.Machine
end

