-- ==== Sys2Proof/Machine/Object.lean ====
section
/-! DEFINITION. Reading a `.fqo` file: its parts, and the checks of the service on them (R34 to R40, R46, R249, R372). -/

namespace Sys2Proof.Machine

/-- A section-table entry (Table 2-2). -/
structure Sect where
  name : Nat
  kind : Nat
  flags : Nat
  off : Nat
  size : Nat
  alignlog : Nat
  link : Nat
  deriving DecidableEq, Repr

/-- Section kinds (Table 2-3). -/
def skText : Nat := 1
def skData : Nat := 2
def skSdata : Nat := 3
def skSymtab : Nat := 4
def skStrtab : Nat := 5
def skReloc : Nat := 6
def skLaunch : Nat := 7
def skClass : Nat := 8
def skGroup : Nat := 9
def skRegion : Nat := 10
def skTile : Nat := 11

/-- A symbol (Table 2-4). -/
structure Sym where
  name : Nat
  sec : Nat
  kind : Nat
  bind : Nat
  value : Nat
  size : Nat
  deriving DecidableEq, Repr

/-- A file: its bytes, its default entry, its sections and its symbols. -/
structure Obj where
  file : List Byte
  entry : Nat
  sects : List Sect
  syms : List Sym
  deriving DecidableEq, Repr

/-- A section-table entry's fields. -/
def sectOf (b : List Byte) : Sect where
  name := fieldOf b 0 4
  kind := fieldOf b 4 2
  flags := fieldOf b 6 2
  off := fieldOf b 8 8
  size := fieldOf b 0x10 4
  alignlog := fieldOf b 0x14 1
  link := fieldOf b 0x18 4

/-- Consecutive items of `n` bytes. -/
def itemsOf (n : Nat) (bs : List Byte) : List (List Byte) :=
  (List.range (bs.length / n)).map fun i => (bs.drop (n * i)).take n

/-- The contents of a section. -/
def Obj.contents (o : Obj) (x : Sect) : List Byte := (o.file.drop x.off).take x.size

/-- The contents of every section of a kind, in order. DESIGN CHOICE (log entry 83): a record's own index fields (R39) and
a symbol index count through several sections of one kind. -/
def Obj.ofKind (o : Obj) (k : Nat) : List Byte := (o.sects.filter (·.kind == k)).flatMap o.contents

/-- A symbol's fields. -/
def symOf (b : List Byte) : Sym where
  name := fieldOf b 0 4
  sec := fieldOf b 4 2
  kind := fieldOf b 6 1
  bind := fieldOf b 7 1
  value := fieldOf b 8 8
  size := fieldOf b 16 8

/-- Item size of the kinds that hold items (Table 2-3); a TEXT section may hold data of any size (R42). -/
def itemBytes (k : Nat) : Nat :=
  if k = skSymtab then 24 else if k = skReloc then 24 else if k = skLaunch then 48
  else if k = skClass then 8 else if k = skGroup then 16 else if k = skRegion then 16 else if k = skTile then 72 else 1

/-- An entry of the section table is good (R34, R35, Table 2-2). DESIGN CHOICE (log entry 124): the spec states no refusal of a size
that is no whole number of records, an alignment above 2^16, or a `link` or `sflags` other than zero where Table 2-2 gives zero;
the model's loader refuses them. -/
def sectGood (fileLen n : Nat) (b : List Byte) : Bool :=
  let x := sectOf b
  decide (x.kind ≤ 11) && decide (x.off + x.size ≤ fileLen) && decide (x.alignlog ≤ 16) &&
  fieldOf b 0x15 3 == 0 && fieldOf b 0x1C 4 == 0 && x.size % itemBytes x.kind == 0 &&
  (if x.kind = skData then decide (x.flags < 16) && decide (x.flags % 4 < 2) else x.flags == 0) &&
  (if x.kind = skReloc ∨ x.kind = skSymtab then decide (x.link < n) else x.link == 0)

/-- A string-table offset points into the file (R34). -/
def nameGood (f : List Byte) (t : Sect) (n : Nat) : Bool := decide (t.off + n < f.length)

/-- The string table of a symbol table. -/
def Obj.strtab (o : Obj) (x : Sect) : Sect := o.sects.getD x.link (sectOf [])

/-- The names of the sections and of the symbols point into the file (R34, Tables 2-2, 2-4). -/
def Obj.namesGood (o : Obj) (strsec : Nat) : Bool :=
  o.sects.all (fun x => nameGood o.file (o.sects.getD strsec (sectOf [])) x.name) &&
  (o.sects.filter (·.kind == skSymtab)).all fun x =>
    (itemsOf 24 (o.contents x)).all fun b => nameGood o.file (o.strtab x) (fieldOf b 0 4)

/-- A symbol is defined, and what its offset and its size cover lies in the file (R34, R36, Table 2-4): an offset is in its
section, and a record index counts the records of its section. A SCRATCH address and a CONST value are in no file. -/
def Obj.symGood (o : Obj) (y : Sym) : Bool :=
  if y.kind = 4 then true
  else if y.kind = 3 then y.sec != 0
  else
    y.sec != 0 && (o.sects[y.sec]?).any fun x =>
      decide (x.off + (if y.kind = 0 then 0 else y.value) * (if 5 ≤ y.kind then itemBytes x.kind else 1) + y.size ≤ o.file.length)

/-- No symbol but the null entry 0 of each SYMTAB is undefined, and each covers bytes of the file (R34, R36). DESIGN CHOICE (log
entry 83): a file may have several SYMTABs, each with its own null entry. -/
def Obj.symsGood (o : Obj) : Bool :=
  (o.sects.filter (·.kind == skSymtab)).all fun x => (((itemsOf 24 (o.contents x)).map symOf).drop 1).all o.symGood

/-- The file as its header and tables give it, if they are good (R34 to R36): it is linked, and no symbol is undefined.
DESIGN CHOICE (log entry 100): the parts are taken where the offsets say, whether or not they stand in the order of R34 or
overlap. -/
def parse (f : List Byte) : Option Obj :=
  let n := fieldOf f 8 4
  let off := fieldOf f 0xC 4
  let table := (List.range n).map fun i => (f.drop (off + 32 * i)).take 32
  let o : Obj := { file := f, entry := fieldOf f 0x14 4, sects := table.map sectOf, syms := [] }
  let o := { o with syms := (itemsOf 24 (o.ofKind skSymtab)).map symOf }
  let good :=
    decide (64 ≤ f.length) && fieldOf f 0 4 == 0x004F5146 && fieldOf f 4 2 == 1 && fieldOf f 6 2 == 1 &&
    off % 8 == 0 && decide (off + 32 * n ≤ f.length) && fieldOf f 0x18 40 == 0 && decide (fieldOf f 0x10 4 < n) &&
    table.all (sectGood f.length n) && (o.sects.head?).any (fun x => x.kind == 0 && x.size == 0) &&
    o.namesGood (fieldOf f 0x10 4) && o.symsGood
  if good then some o else none

/-! ## Placement (R34, R37) -/

/-- The 4 MiB zones that a section takes. -/
def Sect.zones (x : Sect) : Nat := (x.size + 2 ^ 22 - 1) / 2 ^ 22

/-- A section that has pages. -/
def Sect.placed (x : Sect) : Bool := (x.kind == skText || x.kind == skData) && x.size != 0

/-- Where the sections stand: each in zones of its own, after a gap that the linker and the service agree on. -/
def places : List Sect → Nat → Nat → List Nat
  | [], _, _ => []
  | x :: r, i, z =>
    if x.placed then
      let z := z + 1 + Config.sectionPlace i % 1024
      z * 2 ^ 22 :: places r (i + 1) (z + x.zones)
    else 0 :: places r (i + 1) z

/-- The virtual address of a section. -/
def Obj.va (o : Obj) (i : Nat) : Nat := (places o.sects 0 0).getD i 0

/-- A symbol. -/
def Obj.sym (o : Obj) (i : Nat) : Sym := o.syms.getD i { name := 0, sec := 0, kind := 0, bind := 0, value := 0, size := 0 }

/-- A symbol's value as an address or a number (R36, R37). -/
def Obj.symVal (o : Obj) (i : Nat) : Nat :=
  let y := o.sym i
  if y.kind = 1 ∨ y.kind = 2 then o.va y.sec + y.value else y.value

/-- The record that a symbol names, counted through all records of its kind: the symbol's value is the record's index in the
symbol's section (R36, Table 2-4). None where that section is of another kind or has no such record. -/
def Obj.recOf (o : Obj) (k : Nat) (y : Sym) : Option Nat :=
  (o.sects[y.sec]?).bind fun x =>
    if x.kind = k ∧ y.value < x.size / itemBytes k then
      some ((((o.sects.take y.sec).filter (·.kind == k)).map fun z => z.size / itemBytes k).sum + y.value)
    else none

/-! ## Records (R39, R40) -/

/-- A LAUNCH record of the file: its fields as read, its `deps` as record indexes. -/
structure LaunchIn where
  entry : Nat
  cores : Nat
  ctx : Nat
  prio : Nat
  scratch : Nat
  deps : List (Option Nat)
  class0 : Nat
  classes : Nat
  group0 : Nat
  groups : Nat
  arg : Nat
  deriving DecidableEq, Repr

/-- A LAUNCH record (Table 2-6). -/
def Obj.launchOf (o : Obj) (b : List Byte) : LaunchIn where
  entry := if fieldOf b 4 4 = 0 then o.entry else fieldOf b 4 4
  cores := fieldOf b 8 2
  ctx := fieldOf b 10 1
  prio := fieldOf b 11 1
  scratch := fieldOf b 12 4
  deps := (List.range 4).map fun i => let y := fieldOf b (16 + 4 * i) 4; if y = 0 then none else o.recOf skLaunch (o.sym y)
  class0 := fieldOf b 32 2
  classes := fieldOf b 34 2
  group0 := fieldOf b 36 2
  groups := fieldOf b 38 2
  arg := fieldOf b 40 4

/-- The LAUNCH records of a file. -/
def Obj.launches (o : Obj) : List LaunchIn := (itemsOf 48 (o.ofKind skLaunch)).map o.launchOf

/-- The class bindings of a LAUNCH record (Table 2-6). DESIGN CHOICE (log entry 98): an entry index that names no CODE symbol
is accepted, and the context starts at the symbol's value, 0 for an index outside the SYMTAB. DESIGN CHOICE (log entry 113): so
is a record of a context that the launch does not run, whose class nobody then receives. -/
def Obj.classesOf (o : Obj) (l : LaunchIn) : List ClassRec :=
  (((itemsOf 8 (o.ofKind skClass)).drop l.class0).take l.classes).map fun b =>
    { cls := fieldOf b 0 1, ctx := fieldOf b 1 1,
      entry := if fieldOf b 4 4 = 0 then none else some (BitVec.ofNat 64 (o.symVal (fieldOf b 4 4))) }

/-- The GROUP records of a LAUNCH record, their ids still 0 (Table 2-6). -/
def Obj.groupsOf (o : Obj) (l : LaunchIn) : List GroupRec :=
  (((itemsOf 16 (o.ofKind skGroup)).drop l.group0).take l.groups).map fun b =>
    { gid := 0, expected := fieldOf b 4 2, corelo := fieldOf b 6 2, corehi := fieldOf b 8 2, ctxmask := fieldOf b 10 2 }

/-- Set bits of a 16-bit value. -/
def popcount16 (x : Nat) : Nat := (List.range 16).countP fun i => x / 2 ^ i % 2 == 1

/-- A GROUP record is good for its launch (R46, R298). DESIGN CHOICE (log entry 99): one that is not makes the service refuse
the whole load. -/
def groupGood (l : LaunchIn) (g : GroupRec) : Bool :=
  decide (g.corelo ≤ g.corehi) && decide (g.corehi < l.cores) && decide (g.ctxmask < 2 ^ l.ctx) &&
  decide (g.expected ≤ (g.corehi + 1 - g.corelo) * popcount16 g.ctxmask)

/-- A LAUNCH record is good (R39, R40, R122). DESIGN CHOICE (log entry 84): a launch that R40 refuses for its scratchpad is
refused with its whole load. DESIGN CHOICE (log entry 97): so is one with entry 0 in a file without a default entry. DESIGN
CHOICE (log entry 112): so is one with a field outside its range or a symbol of another kind. -/
def Obj.launchGood (o : Obj) (b : List Byte) : Bool :=
  let l := o.launchOf b
  let deps := (List.range 4).map fun i => fieldOf b (16 + 4 * i) 4
  l.entry != 0 && (o.sym l.entry).kind == 1 && decide (1 ≤ l.cores) && decide (l.cores ≤ 6144) && decide (1 ≤ l.ctx) &&
  decide (l.ctx ≤ 16) && decide (l.prio ≤ 3) && decide (l.classes ≤ 16) && fieldOf b 44 4 == 0 &&
  decide (l.scratch + l.ctx * 2560 ≤ 262144) && decide ((o.ofKind skSdata).length ≤ l.scratch) &&
  decide (l.class0 + l.classes ≤ (o.ofKind skClass).length / 8) && decide (l.group0 + l.groups ≤ (o.ofKind skGroup).length / 16) &&
  deps.all (fun y => y == 0 || ((o.sym y).kind == 5 && (o.recOf skLaunch (o.sym y)).isSome)) &&
  (l.arg == 0 || (o.sym l.arg).kind == 2 || (o.sym l.arg).kind == 4) && (o.groupsOf l).all (groupGood l)

/-- The records reached from some by `deps`, once more. -/
def depStep (ls : List LaunchIn) (xs : List Nat) : List Nat :=
  (xs.flatMap fun i => ((ls[i]?).map fun l => l.deps.filterMap id).getD []).eraseDups

/-- `deps` steps on from some records. -/
def depWalk (ls : List LaunchIn) : Nat → List Nat → List Nat
  | 0, xs => xs
  | n + 1, xs => depWalk ls n (depStep ls xs)

/-- The `deps` fields contain a cycle (R40): some path has as many steps as there are records. -/
def depCycle (ls : List LaunchIn) : Bool := !(depWalk ls ls.length (List.range ls.length)).isEmpty

/-- Codes of Table 8-2 as a value type. -/
def vtOfCode : Nat → Option VType := VType.ofCode

/-- A REGION record (Table 2-6), its eligible dies still to be fixed; none where R40 refuses it, or where a field is outside its
range (DESIGN CHOICE, log entry 112). -/
def regionOfBytes (b : List Byte) : Option Region :=
  match opOfCode (fieldOf b 4 1), vtOfCode (fieldOf b 5 1) with
  | some op, some vt =>
    let fs := fieldOf b 6 1
    if pairAllowed op vt && (fs == 0 || vt == .fx128) && decide (fs < 128) && decide (fieldOf b 7 1 < 16) &&
        decide (fieldOf b 8 1 ≤ 1) && fieldOf b 9 3 == 0 then
      some { op := op, vt := vt, fscale := fs, fclass := fieldOf b 7 1, homeLaunch := fieldOf b 8 1 == 1, dies := [],
             dmg := [], cap := fieldOf b 12 4 }
    else none
  | _, _ => none

/-- An address lies in a DATA section of kind `tiled`. -/
def Obj.inTiled (o : Obj) (va : Int) : Bool :=
  (o.sects.zipIdx).any fun x => x.1.kind == skData && x.1.flags % 4 == 1 &&
    decide (Int.ofNat (o.va x.2) ≤ va) && decide (va < Int.ofNat (o.va x.2 + x.1.size))

/-- A TILE record is good (R40, R249). -/
def Obj.tileGood (o : Obj) (b : List Byte) : Bool :=
  let r := tileOfImage 0 b
  fieldOf b 6 2 == 0 && r.bad.isNone &&
  r.whole.all fun p => (dimsElems p.dims).all fun e => (List.range p.size).all fun i => o.inTiled (p.base + e + Int.ofNat i)

/-- The name of a symbol, in the string table of its own symbol table (Tables 2-2, 2-4). -/
def Obj.symName (o : Obj) (t : Sect) (y : Sym) : List Byte :=
  (o.contents (o.strtab t)).drop y.name |>.takeWhile (· != 0)

/-- The characters of `xilux.rtc`. -/
def rtcName : List Byte := [0x78, 0x69, 0x6C, 0x75, 0x78, 0x2E, 0x72, 0x74, 0x63]

/-- The object defines `xilux.rtc` as a GLOBAL CONST that is not 0 (R372). -/
def Obj.rtc (o : Obj) : Bool :=
  (o.sects.filter (·.kind == skSymtab)).any fun t => ((itemsOf 24 (o.contents t)).map symOf).any fun y =>
    y.kind == 4 && y.bind == 1 && y.value != 0 && o.symName t y == rtcName

/-- A RELOC entry for the service (Table 2-5): the section patched, offset, symbol, addend, kind. -/
structure Reloc where
  sec : Nat
  off : Nat
  sym : Nat
  addend : Int
  kind : Nat
  deriving DecidableEq, Repr

/-- The relocations of a file. -/
def Obj.relocs (o : Obj) : List Reloc :=
  (o.sects.filter (·.kind == skReloc)).flatMap fun x => (itemsOf 24 (o.contents x)).map fun b =>
    { sec := x.link, off := fieldOf b 0 4, sym := fieldOf b 4 4, addend := (BitVec.ofNat 64 (fieldOf b 8 8)).toInt,
      kind := fieldOf b 16 2 }

/-- Bytes that a relocation patches, from where (Table 2-5): an I `imm` in TEXT stands in the upper half of its word. -/
def Obj.relocSpan (o : Obj) (r : Reloc) : Nat × Nat :=
  if r.kind = 10 then (r.off, 4)
  else if (o.sects.getD r.sec (sectOf [])).kind = skText then (r.off + 2, 2) else (r.off, 2)

/-- A relocation is one that the service resolves, of a symbol of its kind, within its section (R37, R38). -/
def Obj.relocGood (o : Obj) (r : Reloc) : Bool :=
  let sp := o.relocSpan r
  let want := if r.kind = 10 then 8 else if r.kind = 11 then 6 else 7
  decide (10 ≤ r.kind) && decide (r.kind ≤ 12) && (o.sym r.sym).kind == want &&
  decide (sp.1 + sp.2 ≤ (o.sects.getD r.sec (sectOf [])).size)

/-- The names of the records of a kind point into the file (R34, R39). DESIGN CHOICE (log entry 111): they stand in the string
table of the first SYMTAB, and where there is none no record's name is checked. -/
def Obj.recNames (o : Obj) (k n : Nat) : Bool :=
  match o.sects.find? (·.kind == skSymtab) with
  | some t => (itemsOf n (o.ofKind k)).all fun b => nameGood o.file (o.strtab t) (fieldOf b 0 4)
  | none => true

/-- The service accepts the file's records (R37, R39, R40; of fields outside their range log entry 112). -/
def Obj.good (o : Obj) : Bool :=
  o.recNames skLaunch 48 && o.recNames skGroup 16 && o.recNames skRegion 16 && o.recNames skTile 72 &&
  (itemsOf 24 (o.ofKind skReloc)).all (fun b => fieldOf b 18 2 == 0) &&
  (itemsOf 48 (o.ofKind skLaunch)).all o.launchGood && !depCycle o.launches &&
  (itemsOf 8 (o.ofKind skClass)).all (fun b => fieldOf b 2 2 == 0 && decide (fieldOf b 0 1 < 16) && decide (fieldOf b 1 1 < 16)) &&
  (itemsOf 16 (o.ofKind skGroup)).all (fun b => fieldOf b 12 4 == 0) &&
  decide ((o.ofKind skRegion).length / 16 ≤ 4096) && (itemsOf 16 (o.ofKind skRegion)).all (fun b => (regionOfBytes b).isSome) &&
  (itemsOf 72 (o.ofKind skTile)).all o.tileGood && o.relocs.all o.relocGood

end Sys2Proof.Machine
end

