-- ==== Sys2Proof/Machine/Loader.lean ====
section
/-! DEFINITION. Loading an object into a new address space (R34, R37 to R40, R193, R195, R218, R250, R298, R354, R364). -/

namespace Sys2Proof.Machine

/-! ## The service's choices (R218, R354) -/

/-- An element of a list, which one being drawn. -/
def State.pick {α : Type} (s : State) (d : α) (l : List α) : α × State :=
  let (k, s) := s.draw
  (l.getD (Config.place k % l.length) d, s)

/-- A list with as many elements removed, which ones being drawn. -/
def State.thin (s : State) (l : List Nat) : Nat → List Nat × State
  | 0 => (l, s)
  | n + 1 =>
    let (k, s) := s.draw
    s.thin (l.eraseIdx (Config.place k % l.length)) n

/-- Distinct elements of a list, drawn one after the other. -/
def State.several (s : State) (l : List Nat) : Nat → List Nat × State
  | 0 => ([], s)
  | n + 1 =>
    let (x, s) := s.pick 0 l
    let (r, s) := s.several (l.filter (· != x)) n
    (x :: r, s)

/-- The clusters of the dies that are online. -/
def State.openClusters (s : State) : List Nat := (List.range 768).filter fun cl => (s.die (cl / 64)).online

/-- The cores of a cluster in ring order. -/
def ring (cl : Nat) : List Nat := (List.range 8).map (8 * cl + ·)

/-- THE CORE SET OF A LAUNCH RECORD (R38, R218, R354): up to 8 cores in one cluster; up to 16 in two clusters of two
dies; more in a cluster for each eight. The second list holds the further cores that belong to the launch. None where
too few clusters are online. -/
def State.placeCores (s : State) (n : Nat) : Option (List Nat × List Nat) × State :=
  let cls := s.openClusters
  if cls.isEmpty then (none, s)
  else if n ≤ 8 then
    let (cl, s) := s.pick 0 cls
    let (set, s) := s.thin (ring cl) (8 - n)
    (some (set, []), s)
  else if n ≤ 16 then
    let (a, s) := s.pick 0 cls
    let rest := cls.filter fun cl => cl / 64 != a / 64
    if rest.isEmpty then (none, s)
    else
      let (b, s) := s.pick 0 rest
      (some (ring a ++ (ring b).take (n - 8), (ring b).drop (n - 8)), s)
  else
    let m := (n + 7) / 8
    if cls.length < m then (none, s)
    else
      let (bs, s) := s.several cls m
      let all := bs.flatMap ring
      (some (all.take n, all.drop n), s)

/-! ## Pages (R34, R250, R275) -/

/-- The dies that are online. -/
def State.openDies (s : State) : List Nat := (List.range 12).filter fun d => (s.die d).online

/-- Pages of an address space from an address on; every page of a 4 MiB zone lies on one die (R250). -/
def State.mapRange (s : State) (root k va : Nat) (bits : Word) : Nat → Option State
  | 0 => some s
  | n + 1 =>
    let dies := s.openDies
    let die := dies.getD (Config.place (k + va / 2 ^ 22) % dies.length) 0
    match s.allocPage die 4096 with
    | (none, _) => none
    | (some b, s) =>
      match s.mapLeaf die va 0 (BitVec.ofNat 64 (b + bits.toNat)) 4 root with
      | none => none
      | some s => s.mapRange root k (va + 4096) bits n

/-- The leaf bits of a section's pages (Tables 2-2, 2-3, 14-2). -/
def Sect.leafBits (x : Sect) : Word :=
  if x.kind = skText then 0x2B else BitVec.ofNat 64 (x.flags % 4 * 2 ^ 58 + x.flags / 4 * 2 ^ 56 + 0x27)

/-- Pages of a section. -/
def Sect.pages (x : Sect) : Nat := (x.size + 4095) / 4096

/-- The pages of every section mapped. -/
def State.mapSects (s : State) (root : Nat) : List (Sect × Nat) → Option State
  | [] => some s
  | (x, va) :: r =>
    if x.placed then
      let (k, s) := s.draw
      match s.mapRange root k va x.leafBits x.pages with
      | some s => s.mapSects root r
      | none => none
    else s.mapSects root r

/-- Bytes written to an address space, page by page; the fuel is the number of pages. -/
def State.putSpace (s : State) (asid va : Nat) : Nat → List Byte → State
  | 0, _ => s
  | n + 1, bs =>
    let s := match s.walk asid va with
      | .leaf base pte => s.homeWrite (ptePa pte + (va - base)) (bs.take 4096)
      | _ => s
    s.putSpace asid (va + 4096) n (bs.drop 4096)

/-! ## What the service fixes at load (R38, R193, R195, R298) -/

/-- A load in progress: the file's LAUNCH records with their core sets, the ids of its GROUP records by record index,
and the handles of its TILE records. -/
structure Fixed where
  sets : List (List Nat × List Nat)
  gids : List (Nat × Nat)
  handles : List Nat
  deriving DecidableEq, Repr

/-- Why a load does not succeed: refused with a status, or it waits for group-table entries (R40). -/
inductive LoadEnd where
  | refuse (status : Nat)
  | wait
  deriving DecidableEq, Repr

/-- The core set of one more LAUNCH record. -/
def placeNext (p : List (List Nat × List Nat) × State) (l : LaunchIn) :
    Except LoadEnd (List (List Nat × List Nat) × State) :=
  let x := p.2.placeCores l.cores
  x.1.elim (.error (.refuse scBusy)) fun y => .ok (p.1 ++ [y], x.2)

/-- The core sets of the LAUNCH records. -/
def State.placeAll (s : State) (ls : List LaunchIn) : Except LoadEnd (List (List Nat × List Nat) × State) :=
  ls.foldlM placeNext ([], s)

/-- One GROUP record's entry reserved in its home die's table: which free index is drawn (R38, R298, R319). -/
def State.reserve (s : State) (asid die : Nat) : Except LoadEnd (Nat × State) :=
  match (List.range 256).filter fun i => (s.groups.find (die * 256 + i)).isNone with
  | [] => .error .wait
  | i :: r =>
    let (x, s) := s.pick i (i :: r)
    let g := die * 256 + x
    .ok (g, { s with groups := s.groups.set g (Group.empty asid) })

/-- The entries of GROUP records reserved in order: record index and home die in, record index and id out. -/
def State.reserveAll (s : State) (asid : Nat) : List (Nat × Nat) → Except LoadEnd (List (Nat × Nat) × State)
  | [] => .ok ([], s)
  | (i, die) :: r => do
    let (g, s) ← s.reserve asid die
    let (gs, s) ← s.reserveAll asid r
    .ok ((i, g) :: gs, s)

/-- The GROUP records of a file with their home dies (R319). DESIGN CHOICE (log entry 96): a record that several LAUNCH
records cover gets an entry for each, and its id is the first one's. -/
def Obj.groupHomes (o : Obj) (sets : List (List Nat × List Nat)) : List (Nat × Nat) :=
  (o.launches.zip sets).flatMap fun x =>
    ((o.groupsOf x.1).zipIdx).map fun g => (x.1.group0 + g.2, coreDie (x.2.1.getD g.1.corelo 0))

/-- The tile records opened, in order: their handles (R38, R250). -/
def State.openTiles (s : State) (asid : Nat) : List (List Byte) → Except LoadEnd (List Nat × State)
  | [] => .ok ([], s)
  | b :: r =>
    let t := tileOfImage asid b
    let va := vaOf ((t.whole.map (·.first)).headD 0)
    let sl := sliceKey (s.recDie asid va) (zoneOf va)
    match (s.sli sl).freeRecs with
    | [] => .error (.refuse scBusy)
    | i :: l =>
      let (h, s) := s.enterRec sl t (i :: l)
      match s.openTiles asid r with
      | .ok (hs, s) => .ok (h :: hs, s)
      | .error e => .error e

/-- The value a relocation patches in (Table 2-5); none where its symbol names no record. DESIGN CHOICE (log entry 85): a
GROUP record that no LAUNCH record covers has no entry, and its id reads 0. -/
def Obj.relocVal (o : Obj) (f : Fixed) (r : Reloc) : Option Nat :=
  let y := o.sym r.sym
  if r.kind = 10 then (o.recOf skTile y).map fun i => f.handles.getD i 0
  else if r.kind = 11 then (o.recOf skGroup y).map fun i => ((f.gids.find? (·.1 == i)).map (·.2)).getD 0
  else o.recOf skRegion y

/-- Bytes replaced. -/
def patchAt (bs : List Byte) (off : Nat) (x : List Byte) : List Byte := bs.take off ++ x ++ bs.drop (off + x.length)

/-- The contents of a section with its relocations applied. -/
def Obj.patched (o : Obj) (f : Fixed) (i : Nat) (x : Sect) : List Byte :=
  (o.relocs.filter (·.sec == i)).foldl (fun bs r =>
    let sp := o.relocSpan r
    patchAt bs sp.1 (bytesOf ((o.relocVal f r).getD 0) sp.2)) (o.contents x)

/-- Every section's contents written to its pages. DESIGN CHOICE (log entry 114): a relocation of a section that has neither
pages nor a scratchpad image patches nothing. -/
def State.fillSects (s : State) (asid : Nat) (o : Obj) (f : Fixed) : State :=
  (o.sects.zipIdx).foldl (fun s x =>
    if x.1.placed then s.putSpace asid (o.va x.2) x.1.pages (o.patched f x.2 x.1) else s) s

/-- The scratchpad image. DESIGN CHOICE (log entry 110): several SDATA sections follow one another in table order. -/
def Obj.sdata (o : Obj) (f : Fixed) : List Byte :=
  ((o.sects.zipIdx).filter fun x => x.1.kind == skSdata).flatMap fun x => o.patched f x.2 x.1

/-- The dies that hold a core of a set, ascending. -/
def diesOf (set : List Nat) : List Nat := (List.range 12).filter fun d => set.any fun ck => coreDie ck == d

/-- The region table of a file (R193, R195). -/
def Obj.regions (o : Obj) (sets : List (List Nat × List Nat)) : AMap Region :=
  let launch := match sets with
    | x :: _ => diesOf x.1
    | [] => List.range 12
  AMap.ofList 0 ((itemsOf 16 (o.ofKind skRegion)).filterMap fun b =>
    (regionOfBytes b).map fun r => { r with dies := if r.homeLaunch then launch else List.range 12 })

/-- A LAUNCH record as loaded. -/
def Obj.record (o : Obj) (f : Fixed) (l : LaunchIn) (x : List Nat × List Nat) : LaunchRec where
  entry := BitVec.ofNat 64 (o.symVal l.entry)
  ctx := l.ctx
  prio := l.prio
  scratch := l.scratch
  deps := l.deps
  classes := o.classesOf l
  groups := ((o.groupsOf l).zipIdx).map fun g =>
    { g.1 with gid := ((f.gids.find? fun y => y.1 == l.group0 + g.2).map (·.2)).getD 0 }
  arg := if l.arg = 0 then 0 else BitVec.ofNat 64 (o.symVal l.arg)
  set := x.1
  extra := x.2
  rtc := o.rtc

/-- The number of a new address space: one that no space has had before, while there is one; else the lowest in use by
none, if there is one (R2). 0 is none's. -/
def State.freeAsid (s : State) : Option Nat :=
  if s.loads < 65535 then some (s.loads + 1)
  else ((List.range 65535).map (· + 1)).find? fun i => (s.spaces.find i).isNone

/-- LOADING AN OBJECT (R2, R34, R38, R40): the new address space, or why there is none. DESIGN CHOICE (log entry 108): while
every number of an address space is in use a load is refused with BUSY. -/
def State.load (s : State) (file : List Byte) : Except LoadEnd (State × Nat) :=
  match parse file with
  | none => .error (.refuse scRange)
  | some o =>
    if !o.good then .error (.refuse scRange)
    else
      match s.freeAsid with
      | none => .error (.refuse scBusy)
      | some asid => do
        let (sets, s) ← s.placeAll o.launches
        let (gids, s) ← s.reserveAll asid (o.groupHomes sets)
        let (die, s) := s.pick 0 s.openDies
        match s.allocPage die 4096 with
        | (none, _) => .error (.refuse scBusy)
        | (some root, s) =>
          match s.mapSects root ((o.sects.zipIdx).map fun x => (x.1, o.va x.2)) with
          | none => .error (.refuse scBusy)
          | some s =>
            let sp : Space :=
              { serial := s.loads + 1, root := root, regions := o.regions sets, recs := [], sdata := [], digest := Config.sha384 file,
                sects := ((o.sects.zipIdx).filter (·.1.placed)).map fun x => (o.va x.2, 4096 * x.1.pages, x.1.flags % 4),
                subs := [], foots := [] }
            match ({ s with spaces := s.spaces.set asid sp }.addFoots asid sp.regions) with
            | none => .error (.refuse scBusy)
            | some s =>
              let (hs, s) ← s.openTiles asid (itemsOf 72 (o.ofKind skTile))
              let f : Fixed := { sets := sets, gids := gids, handles := hs }
              if o.relocs.any fun r => (o.relocVal f r).isNone then .error (.refuse scRange)
              else
                let fin := fun (sp : Space) =>
                  { sp with recs := (o.launches.zip sets).map fun x => o.record f x.1 x.2, sdata := o.sdata f }
                .ok ({ (s.fillSects asid o f).modSpace asid fin with loads := s.loads + 1 }, asid)

/-! ## HOST_LOAD (R40, R364) -/

/-- A host's reply goes out. -/
def State.hostReply (s : State) (r : RemoteReply) : State := { s with netOut := r :: s.netOut }

/-- A host request under the rules of R361; before start-up is complete it is refused with BUSY (R364). -/
def State.hostDo (s : State) (h : HostHdr) (f : State → State × Answer) : Host.Outcome State Fault Refusal :=
  if s.started then
    let x := s.once h.ep h.seq f
    .next (x.1.hostReply x.2)
  else .next (s.hostReply { ep := h.ep, seq := h.seq, status := scBusy, old := 0, data := [] })

/-- A load waits for group-table entries. -/
def loadWaits : Except LoadEnd (State × Nat) → Bool
  | .error .wait => true
  | _ => false

/-- HOST_LOAD (R34, R40, R364): the reply carries the number of the address space. A load without room in a group table
waits. -/
def execHostLoad (h : HostHdr) (file : List Byte) (s : State) : Host.Outcome State Fault Refusal :=
  if s.started && (s.cached h.ep h.seq).isNone && loadWaits (s.load file) then
    .next (if s.waitingLoads.any (·.1 == h) then s else { s with waitingLoads := s.waitingLoads ++ [(h, file)] })
  else
    s.hostDo h fun s =>
      match s.load file with
      | .ok (s1, asid) => (s1, { status := 0, old := BitVec.ofNat 64 asid })
      | .error (.refuse st) => (s, { status := st })
      | .error .wait => (s, { status := scBusy })

end Sys2Proof.Machine
end

