-- ==== Sys2Proof/Machine/Host.lean ====
section
/-! DEFINITION. Host requests, checkpoints, the end of an address space, and start-up (R289, R290, R293 to R295, R316,
R364, R367 to R369, R375). -/

namespace Sys2Proof.Machine

/-! ## Submitting a launch (R289, R290) -/

/-- A lid that no record holds: which one is drawn (R289). -/
def State.newLid (s : State) : Nat × State :=
  let (k, s) := s.draw
  let free := fun (l : Nat) => l != 0 && !(s.liveRecs.any (·.lid == l)) && (s.launches.find l).isNone
  let x := Config.place k % 65536
  (if free x then x else ((List.range 65536).find? free).getD 0, s)

/-- The FREE slots of a die's queue. -/
def State.freeSlots (s : State) (die : Nat) : List Nat :=
  (List.range 64).filter fun i => (s.lqRec die i).state == lqFree

/-- A dependence as it is bound when a record is built (R290). -/
inductive Dep where
  | met
  | lid (l : Nat)
  | unbound (rec_ : Nat)
  | stopped
  deriving DecidableEq, Repr

/-- A slot of `deps` bound to the most recent submission of the record it names (R290). -/
def Space.bindDep (sp : Space) : Option Nat → Dep
  | none => .met
  | some j =>
    match sp.subs.find j with
    | none => .unbound j
    | some 65536 => .met
    | some 65537 => .stopped
    | some l => .lid l

/-- The value of a bound slot. -/
def Dep.slot : Dep → Nat
  | .lid l => l
  | _ => 0

/-- The records, with their slots, that no submission has bound. -/
def unboundOf (ds : List Dep) : List (Nat × Nat) :=
  (ds.zipIdx).filterMap fun e =>
    match e.1 with
    | .unbound j => some (e.2, j)
    | _ => none

/-- Bytes of the block with a record's class bindings and groups (R289; log entry 81). -/
def LaunchRec.block (r : LaunchRec) : List Byte := classBytes r.classes ++ groupBytes r.groups

/-- Bytes of the pages of that block. -/
def LaunchRec.blockSize (r : LaunchRec) : Nat := (r.block.length + 4095) / 4096 * 4096

/-- The queue record of a die (Table 15-1); its class bindings stand at `blk`, its groups 128 bytes on. -/
def LaunchRec.queued (r : LaunchRec) (asid lid die blk : Nat) (karg : Word) (ds : List Dep) (tick : Nat) : LqRec :=
  let cores := r.set ++ r.extra
  let bits := ((cores.filter fun ck => coreDie ck == die).map fun ck => 2 ^ (ck % 512)).sum
  let flags := (if r.rtc then 1 else 0) + (if 1 < (diesOf cores).length then 2 else 0)
  { img := bytesOf lid 2 ++ bytesOf asid 2 ++ bytesOf r.prio 1 ++ bytesOf flags 1 ++ bytesOf r.ctx 1 ++
      bytesOf lqQueued 1 ++ bytesOf r.entry.toNat 8 ++ bytesOf karg.toNat 8 ++ bytesOf r.scratch 4 ++ bytesOf 0 4 ++
      bytesOf tick 8 ++ (ds.flatMap fun d => bytesOf d.slot 2) ++ bytesOf blk 8 ++ bytesOf (blk + 128) 8 ++ bytesOf bits 64,
    since := tick, unbound := unboundOf ds }

/-- The unbound dependences on a record bound to its new submission (R290). -/
def LqRec.bindTo (q : LqRec) (asid j lid : Nat) : LqRec :=
  if q.state = lqQueued ∧ q.asid = asid then
    let q' := (q.unbound.filter (·.2 == j)).foldl (fun x e => x.put (0x28 + 2 * e.1) 2 lid) q
    { q' with unbound := q.unbound.filter (·.2 != j) }
  else q

/-- A record entered in a FREE slot of a die, which one being drawn. -/
def State.enterLq (s : State) (die : Nat) (q : LqRec) : State :=
  let (i, s) := s.pick 0 (s.freeSlots die)
  ((s.setLq die i q).storeCmd die 1 i 0).lqDone die 0

/-- A submission accepted, its block at `blk` (R289, R290, R318). -/
def State.submit (s : State) (asid j : Nat) (sp : Space) (r : LaunchRec) (karg : Option Word) (blk : Nat) : State × Nat :=
  let (lid, s) := (s.homeWrite blk r.block).newLid
  let ds := r.deps.map sp.bindDep
  let s := s.mapDies fun d => { d with lq := d.lq.map fun e => (e.1, e.2.bindTo asid j lid) }
  let s := (diesOf (r.set ++ r.extra)).foldl (fun s die =>
    s.enterLq die (r.queued asid lid die blk (karg.getD r.arg) ds s.tick)) s
  let s : State := { s with
    launches := s.launches.set lid
      { Launch.init with asid := asid, rec_ := j, set := r.set, extra := r.extra, sdata := sp.sdata, classes := r.classes,
                         groups := r.groups },
    spaces := s.spaces.set asid { sp with subs := sp.subs.set j lid } }
  let dead := ds.any fun d => match d with
    | .stopped => true
    | .lid l => s.lstate l == lqStopped
    | _ => false
  (if dead then (s.postService (reportWords repStopped lid)).stopped lid else s, lid)

/-- HOST_SUBMIT (R289, R364): the reply carries the lid. DESIGN CHOICE (log entry 120): BUSY for an address space whose end is
accepted. -/
def execHostSubmit (h : HostHdr) (asid rec_ : Nat) (karg : Option Word) (s : State) :
    Host.Outcome State Fault Refusal :=
  s.hostDo h fun s =>
    match s.spaces.find asid with
    | none => (s, { status := scRange })
    | some sp =>
      match sp.recs[rec_]? with
      | none => (s, { status := scRange })
      | some r =>
        let dies := diesOf (r.set ++ r.extra)
        if s.spaceEnding asid || dies.any (fun d => (s.freeSlots d).isEmpty) then (s, { status := scBusy })
        else
          match s.allocPage (dies.headD 0) r.blockSize with
          | (none, _) => (s, { status := scBusy })
          | (some blk, s) =>
            let x := s.submit asid rec_ sp r karg blk
            (x.1, { status := 0, old := BitVec.ofNat 64 x.2 })

/-! ## Commands on a launch (R293 to R296, R364) -/

/-- A command on a launch through `lqcmd` of its first die: BUSY where the record's state does not admit it. -/
def State.hostCmd (s : State) (lid cmd : Nat) (f : State → Nat → Nat → State) : State × Answer :=
  match (List.range 12).find? fun d => s.dieHolds d lid with
  | none => (s, { status := scRange })
  | some d =>
    let s1 := f (s.storeCmd d cmd 0 lid) d lid
    (s1, { status := if (s1.die d).lqstat = 2 then scBusy else 0 })

/-- HOST_PREEMPT (R293, R364). -/
def execHostPreempt (h : HostHdr) (lid : Nat) (s : State) : Host.Outcome State Fault Refusal :=
  s.hostDo h fun s => s.hostCmd lid 2 State.lqPreempt

/-- HOST_RESUME (R294, R364). -/
def execHostResume (h : HostHdr) (lid : Nat) (s : State) : Host.Outcome State Fault Refusal :=
  s.hostDo h fun s => s.hostCmd lid 3 State.lqResume

/-- HOST_STOP (R295, R364). -/
def execHostStop (h : HostHdr) (lid : Nat) (s : State) : Host.Outcome State Fault Refusal :=
  s.hostDo h fun s => s.hostCmd lid 4 State.lqStop

/-! ## Reading and writing an address space (R362, R364) -/

/-- A host's length and address are in range: whole words, at most 4,096 bytes (R356, R364). -/
def hostRange (va len : Nat) : Bool :=
  va % 8 == 0 && len % 8 == 0 && decide (8 ≤ len) && decide (len ≤ 4096)

/-- A host's read of an address space, begun at a tick (R264, R364). -/
def State.doRead (s : State) (h : HostHdr) (asid : Nat) (va : Word) (len since : Nat) : State :=
  let x := s.onceOrWait h.ep h.seq (.read h asid va len) since fun s =>
    if (s.spaces.find asid).isNone || !hostRange va.toNat len then some (s, { status := scRange })
    else (s.spaceRead asid va.toNat len since).map fun a => (s, a)
  x.2.elim x.1 x.1.hostReply

/-- HOST_READ (R364). -/
def execHostRead (h : HostHdr) (asid : Nat) (va : Word) (len : Nat) (s : State) : Host.Outcome State Fault Refusal :=
  if s.started then .next (s.doRead h asid va len s.tick) else s.hostDo h fun s => (s, { status := scBusy })

/-- HOST_WRITE (R364). -/
def execHostWrite (h : HostHdr) (asid : Nat) (va : Word) (data : List Byte) (s : State) :
    Host.Outcome State Fault Refusal :=
  s.hostDo h fun s =>
    if (s.spaces.find asid).isNone || !hostRange va.toNat data.length then (s, { status := scRange })
    else s.spaceWrite asid va.toNat data

/-! ## Attestation and status (R364, R369) -/

/-- HOST_ATTEST (R364, R369): address space 0 names none. -/
def execHostAttest (h : HostHdr) (asid : Nat) (nonce : BitVec 384) (s : State) : Host.Outcome State Fault Refusal :=
  s.hostDo h fun s =>
    let n := beBytes nonce.toNat 48
    if asid = 0 then (s, { status := 0, data := s.quote n 0 })
    else
      match s.spaces.find asid with
      | some sp => (s, { status := 0, data := s.quote n sp.digest })
      | none => (s, { status := scRange })

/-- The launch states of a status reply: the count, then lid and state of each launch. -/
def State.launchStates (s : State) : List Byte :=
  bytesOf s.launches.length 8 ++ s.launches.flatMap fun e => bytesOf e.1 2 ++ bytesOf (s.lstate e.1) 2

/-- HOST_STATUS (R364): the online-die mask, the launch states, and the events since the last status. -/
def execHostStatus (h : HostHdr) (s : State) : Host.Outcome State Fault Refusal :=
  s.hostDo h fun s =>
    ({ s with events := [] },
     { status := 0, old := BitVec.ofNat 64 s.onlineMask, data := s.launchStates ++ s.events.flatMap fun d => bytesOf d 8 })

/-! ## The end of an address space (R375) -/

/-- The tables of an address space from one of a level down. -/
def tablesOf (m : List Host.Cell) : Nat → Nat → List Nat
  | 0, table => [table]
  | l + 1, table =>
    table :: (List.range 512).flatMap fun i =>
      let e := memWord m (table + 8 * i)
      if pteV e && !pteLeaf e then tablesOf m l (ptePa e) else []

/-- The physical pages that the leaves below a table name. -/
def leavesOf (m : List Host.Cell) : Nat → Nat → List Nat
  | 0, table => (List.range 512).filterMap fun i =>
      let e := memWord m (table + 8 * i)
      if pteV e && pteLeaf e then some (ptePa e) else none
  | l + 1, table => (List.range 512).flatMap fun i =>
      let e := memWord m (table + 8 * i)
      if !pteV e then [] else if pteLeaf e then [ptePa e] else leavesOf m l (ptePa e)

/-- The physical pages of an address space: its tables and what they map. -/
def State.spacePages (s : State) (root : Nat) : List Nat := tablesOf s.mem 4 root ++ leavesOf s.mem 4 root

/-- The tile records of an address space closed, their generations advanced (R252). -/
def Slice.closeAll (x : Slice) (asid : Nat) : Slice :=
  let mine := (x.recs.filter fun e => e.2.asid == asid).map (·.1)
  { x with
    recs := x.recs.filter fun e => e.2.asid != asid,
    gens := mine.foldl (fun g i => g.set i (if x.gen i = 4095 then 1 else x.gen i + 1)) x.gens,
    ents := x.ents.filter fun e => !mine.contains e.idx,
    queue := x.queue.filter fun q => !mine.contains q.idx,
    outside := x.outside.filter fun q => !mine.contains q.idx }

/-- A key of the beam or the footing belongs to an address space. -/
def keyOf (asid key : Nat) : Bool := key / 2 ^ 64 == asid

/-- The beam and the footing of a die without the entries of an address space. -/
def Die.forget (d : Die) (asid : Nat) : Die :=
  { d with
    beam := d.beam.filter fun e => !keyOf asid e.1,
    footLen := d.footLen.filter fun e => e.1 / 4096 != asid,
    settling := d.settling.map (fun e => (e.1, e.2.filter fun k => !keyOf asid k)),
    bstall := if (d.bstall.bind (·.key)).any (keyOf asid) then none else d.bstall }

/-- The purlins and battens that serve an address space emptied, their stalls gone, and their cores free of it. -/
def State.forgetKeys (s : State) (asid : Nat) : State :=
  { s with
    clusters := s.clusters.map fun e =>
      if s.clusterAsid e.1 = asid then (e.1, { e.2 with purlin := [], pstall := none, draining := [] }) else e,
    cores := s.cores.map (fun e =>
      if e.2.asid = asid ∧ e.1 < 8192 then
        (e.1, { e.2 with batten := [], stall := none, merging := [], pubs := [], asid := 0, tlb := [], icache := [] }) else e),
    dies := s.dies.map fun e => (e.1, e.2.forget asid) }

/-- A launch of an address space is QUEUED, RUNNING, SAVING or SAVED. -/
def State.spaceBusy (s : State) (asid : Nat) : Bool :=
  s.liveRecs.any fun r => r.asid == asid && decide (lqQueued ≤ r.state) && decide (r.state ≤ lqSaved)

/-- The blocks of the queue records of an address space (R289). -/
def State.recBlocks (s : State) (asid : Nat) : List Nat :=
  (s.liveRecs.filter fun r => r.asid == asid && r.grps == r.cls + 128).map LqRec.cls

/-- What the end of an address space frees (R375); a `til.open` that waits for a record entry may have one now (R262). -/
def State.unload (s : State) (asid : Nat) (sp : Space) : State :=
  let pages := s.spacePages sp.root ++ s.recBlocks asid
  let s := (s.forgetKeys asid).mapDies fun d =>
    { d with lq := d.lq.filter fun e => !(e.2.state != lqFree && e.2.asid == asid) }
  let s : State := { s with
    launches := s.launches.filter fun e => e.2.asid != asid,
    slices := s.slices.map (fun e => (e.1, e.2.closeAll asid)),
    windows := s.windows.filter fun e => e.2.asid != asid,
    groups := s.groups.filter fun e => e.2.asid != asid,
    caches := s.caches.erase (s.endpoint asid),
    spaces := s.spaces.erase asid }
  let s := (s.slices.map (·.1)).foldl State.wakeOpens (s.freePages fun b => pages.contains b)
  { s with inbox := s.inbox ++ s.waitingLoads.map (fun w => .hostLoad w.1 w.2), waitingLoads := [] }

/-- Operations begun on windows of an address space still wait at their homes (R360). -/
def State.opsOn (s : State) (asid : Nat) : Bool := s.windows.any fun e => e.2.asid == asid && s.windowBusy e.1

/-- The end of an address space is accepted, and waits for operations begun on its windows (R360, R375). -/
def State.unloadWaits (s : State) (h : HostHdr) (asid : Nat) : Bool :=
  (s.cached h.ep h.seq).isNone && (s.spaces.find asid).isSome && !s.spaceBusy asid && s.opsOn asid

/-- The end of an address space, asked for at a tick: it unexports the windows, so it waits for the operations begun on them,
and lets no other begin (R360, R364, R375). -/
def State.doUnload (s : State) (h : HostHdr) (asid since : Nat) : State :=
  let s := if s.unloadWaits h asid then s.closeWins fun _ w => w.asid == asid else s
  let x := s.onceOrWait h.ep h.seq (.unload h asid) since fun s =>
    match s.spaces.find asid with
    | none => some (s, { status := scRange })
    | some sp =>
      if s.spaceBusy asid then some (s, { status := scBusy })
      else if s.opsOn asid then none
      else some (s.unload asid sp, { status := 0 })
  x.2.elim x.1 x.1.hostReply

/-- HOST_UNLOAD (R364, R375). -/
def execHostUnload (h : HostHdr) (asid : Nat) (s : State) : Host.Outcome State Fault Refusal :=
  if s.started then .next (s.doUnload h asid s.tick) else s.hostDo h fun s => (s, { status := scBusy })

/-! ## Work that waits at its home (R206, R264, R317, R375) -/

/-- Waiting work can go on or has reached its limit. -/
def State.workReady (s : State) (w : RemoteWait) : Bool :=
  match w.work with
  | .op op => (s.performOp op w.since true).isSome
  | .read _ asid va len =>
    (s.spaces.find asid).isNone || !hostRange va.toNat len || (s.spaceRead asid va.toNat len w.since).isSome
  | .unload _ asid => (s.spaces.find asid).isNone || s.spaceBusy asid || !s.opsOn asid
  | .restore _ _ asid n _ left =>
    match s.regionAt asid n, left with
    | some r, e :: _ => !s.keyFull asid r e.1
    | _, _ => true

/-- The first of some waiting work that can go on, and the others. -/
def State.takeWork (s : State) : List RemoteWait → Option (RemoteWait × List RemoteWait)
  | [] => none
  | w :: r => if s.workReady w then some (w, r) else (s.takeWork r).map fun x => (x.1, w :: x.2)

/-- Waiting work taken up again. -/
def State.doWork (s : State) (w : RemoteWait) : State :=
  match w.work with
  | .op op => s.doOp op w.since true
  | .read h asid va len => s.doRead h asid va len w.since
  | .unload h asid => s.doUnload h asid w.since
  | .restore t reg asid n ds left => s.restoreGo t reg asid n ds left w.since

/-- The oldest waiting work that can go on does so. -/
def goRemote (s : State) : Host.Outcome State Fault Refusal :=
  .next (match s.takeWork s.remoteWaits with
    | some (w, r) => { s with remoteWaits := r }.doWork w
    | none => s)

/-! ## The checkpoint (R316) -/

/-- The lids of the launches in a state. -/
def State.lidsIn (s : State) (st : Nat) : List Nat := (s.launches.map (·.1)).filter fun l => s.lstate l == st

/-- Every running launch is pre-empted (R316 step 1). -/
def State.ckptStart (s : State) (h : HostHdr) : State :=
  let lids := (s.lidsIn lqRunning).filter fun l => !(s.launchOf l).stopping
  let s := lids.foldl State.preempt s
  { s with ckptRun := some { hdr := h, tick := s.tick, lids := lids, settled := false } }

/-- Step 1 is complete: no launch runs or is being saved. -/
def State.ckptQuiet (s : State) : Bool := (s.lidsIn lqRunning).isEmpty && (s.lidsIn lqSaving).isEmpty

/-- The clusters whose purlins are still to drain and do not (R316 step 2). -/
def State.toDrain (s : State) : List Nat :=
  (s.clusters.filter fun e => e.2.pstall.isNone && e.2.draining != namesOf e.2.purlin).map (·.1)

/-- Every purlin is drained (R239). -/
def State.drained (s : State) : Bool := s.clusters.all fun e => e.2.purlin.isEmpty

/-- Every beam is settled: no entry is left to carry and no beam is stalled (R309, R316). -/
def State.beamsSettled (s : State) : Bool := s.dies.all fun e => e.2.bstall.isNone && e.2.settling.all (·.2.isEmpty)

/-- A checkpoint has something to do: drains or settles to start, or its end. No stage of it goes on while a die relocks, whose
homes answer after that (R316, R322). -/
def State.ckptReady (s : State) : Bool :=
  match s.ckptRun with
  | some r => s.ckptQuiet && !s.anyRelock && (if r.settled then s.beamsSettled else s.drained || !s.toDrain.isEmpty)
  | none => false

/-- All four quarters of a beam start to settle (R309). -/
def Die.settleFour (d : Die) : Die := (List.range 4).foldl (fun d q => d.startSettle q) d

/-- Where the footings stand (R310): by die x 2^28 + address space x 4096 + region, base and entries. -/
def State.footTable (s : State) : AMap (Nat × Nat) :=
  (s.spaces.flatMap fun e => e.2.foots.map fun x => (e.1, x)).foldl (fun m x =>
    let die := x.2.1 % 16
    m.set (die * 2 ^ 28 + x.1 * 4096 + x.2.1 / 16) (x.2.2, s.footCount die x.1 (x.2.1 / 16))) []

/-- The save areas of the SAVED launches (R293). -/
def State.saveAreas (s : State) : AMap (AMap Core) :=
  (s.launches.filter fun e => !e.2.images.isEmpty).map fun e => (e.1, e.2.images)

/-- Steps 3 to 6 (R316): the images of the dies on the devices of the second tier, their digests, and the record. -/
def State.ckptRecord (s : State) (tick : Nat) : Ckpt :=
  let hbm := s.mem.filter fun c => decide (c.1 < 12 * hbmBytes)
  { tick := tick, mem := hbm, areas := s.saveAreas, foots := s.footTable,
    serials := s.spaces.map fun e => (e.1, e.2.serial), ports := s.cxlUp,
    digests := imageDigests hbm s.saveAreas s.footTable }

/-- The end of a checkpoint: its record, unless no device can be reached any more; launches resume (R316). -/
def State.ckptEnd (s : State) (r : CkptRun) : State :=
  let k := if s.cxlUp.isEmpty then [] else [s.ckptRecord r.tick]
  let s := r.lids.foldl (fun s l => if s.lstate l = lqSaved then s.modLaunch l fun x => { x with resume := true } else s) s
  let a : RemoteReply :=
    { ep := r.hdr.ep, seq := r.hdr.seq, status := if s.cxlUp.isEmpty then scPeerLost else 0, old := 0, data := [] }
  ({ s with ckpts := k ++ s.ckpts, ckptRun := none }.saveReply a).hostReply a

/-- The next stage of a checkpoint (R316 step 2 and on). -/
def State.ckptGo (s : State) (r : CkptRun) : State :=
  if r.settled then s.ckptEnd r
  else if s.drained then { s.mapDies Die.settleFour with ckptRun := some { r with settled := true } }
  else s.toDrain.foldl (fun s cl => s.modClu cl (·.startDrain)) s

/-- HOST_CKPT (R316, R364): the request, and again as its stages become possible; a second checkpoint is refused while
one is in progress. DESIGN CHOICE (log entry 91): where no device of the second tier can be reached it is refused with
PEER_LOST. -/
def execHostCkpt (h : HostHdr) (s : State) : Host.Outcome State Fault Refusal :=
  match s.ckptRun with
  | some r =>
    if r.hdr = h then .next (if s.ckptReady then s.ckptGo r else s)
    else s.hostDo h fun s => (s, { status := scBusy })
  | none =>
    if s.started && (s.cached h.ep h.seq).isNone && !s.cxlUp.isEmpty then .next (s.ckptStart h)
    else s.hostDo h fun s => (s, { status := scPeerLost })

/-! ## Start-up (R367, R368) -/

/-- The boot die: the lowest whose service core passes self-test. -/
def startBootDie (r : StartReport) : Option Nat := (List.range 12).find? fun d => r.svcOk.contains d

/-- A working link reaches a die. -/
def startLinked (r : StartReport) (die : Nat) : Bool :=
  r.links.any fun l => (linkEnds l).1 == die || (linkEnds l).2 == die

/-- An image or the configuration verifies, by its place in the report. -/
def startValid (r : StartReport) (i : Nat) : Bool := (r.images.getD i none).isSome

/-- The module comes up: some firmware image is valid, the configuration is, and the boot die has a working link. -/
def startGood (r : StartReport) : Bool :=
  [0, 1, 2, 4].any (startValid r) && startValid r 3 && (startBootDie r).any (startLinked r)

/-- A stack as its training leaves it. -/
def startStack (r : StartReport) (die i : Nat) : HbmStack :=
  match r.hbm.find? fun x => x.1 == 2 * die + i with
  | some x => { rate := x.2, target := none, deferred := none, asked := none, failed := false }
  | none => { rate := 0, target := none, deferred := none, asked := none, failed := true }

/-- A die as start-up leaves it: offline where both stacks fail or no link reaches it. -/
def startDie (r : StartReport) (d : Nat) : Die :=
  let hbm := [startStack r d 0, startStack r d 1]
  { Die.init with online := startLinked r d && !hbm.all (·.failed), hbm := hbm }

/-- A measurement register extended by a digest (R368). -/
def extend (m d : BitVec 384) : BitVec 384 := Config.sha384 (beBytes m.toNat 48 ++ beBytes d.toNat 48)

/-- The measurement registers m0 to m5 at the end of start-up: each of the first five holds its image, if that verifies;
m5 stays zero (R368). -/
def measureAll (r : StartReport) : List (BitVec 384) :=
  ((List.range 5).map fun i => match r.images.getD i none with
    | some d => extend 0 d
    | none => 0) ++ [0]

/-- The machine as start-up leaves it (R367): all tables start empty; a persistent tier keeps its checkpoints. -/
def State.startUp (s : State) (r : StartReport) : State :=
  let dies := AMap.ofList 0 ((List.range 12).map (startDie r))
  let up := fun (d : Nat) => (startDie r d).online
  { State.reset with
    dies := dies, started := startValid r 4, pkg := r.pkg.toNat, measure := measureAll r,
    links := (List.range 17).filter r.links.contains,
    cxlUp := (List.range 8).filter fun p => r.cxl.contains p && up (cxlDie p),
    ports := (List.range 16).filter (fun q => r.ports.contains q && up (portDie q)),
    ckpts := s.ckpts, loads := s.loads, tick := s.tick, inbox := s.inbox, fresh := s.fresh }

/-- The dark module: what was verified is measured, and nothing else comes up. -/
def State.dark (s : State) (r : StartReport) : State :=
  { State.reset with measure := measureAll r, ckpts := s.ckpts, loads := s.loads, inbox := s.inbox, fresh := s.fresh, tick := s.tick }

/-- STARTUP (R367): an image that fails is not run; where no image is valid, or the configuration is not, the module
stays dark. DESIGN CHOICE (log entry 92): ports open to requests where the service image is valid. -/
def execStartUp (r : StartReport) (s : State) : Host.Outcome State Fault Refusal :=
  .next (if startGood r then s.startUp r else s.dark r)

end Sys2Proof.Machine
end

