-- ==== Sys2Proof/Machine/Waits.lean ====
section
/-! DEFINITION. The two ways a wait ends by itself: its reply, and its limit (R20, R115, R264). -/

namespace Sys2Proof.Machine

/-- REPLY_ARRIVAL: the reply of a form, or of a store to a device, arrives, and its thread rejoins the rotation (R115,
R170); a table form has its effect then (R132). -/
def execReplyArrival (t : Nat) (s : State) : Host.Outcome State Fault Refusal :=
  match (s.thr t).st, (s.thr t).wait with
  | .waiting, some w =>
    match w.kind with
    | .reply => .next (s.modThr t Thread.rejoin)
    | .crossing _ => .next (s.modThr t Thread.rejoin)
    | .deviceStore => .next (s.modThr t Thread.rejoin)
    | .tableMove load k base => .next (s.moveTable t load k base)
    | _ => .next s
  | _, _ => .next s

/-- No relock holds back what a form in progress has asked of other dies (R322). -/
def State.answered (s : State) (x : Thread) : Bool := x.asked.all fun a => (s.die a.die).clock.t0.isNone

/-- The expiry status of a wait (R20, and the description of each form). -/
def expiryStatus : WaitKind → Word
  | .permit => stNoPermit
  | .lathePort => stBusy
  | .copyQueue => stBusy
  | .recordEntry _ => 0
  | .relock _ status => status
  | _ => stTimeout

/-- The expiry status as the reply of a request that has waited at its home (R257, R262, R280). -/
def State.lateReply (s : State) (t : Nat) (k : WaitKind) : State :=
  match k with
  | .tenure sl => s.answerReq t (sl / 64) (expiryStatus k)
  | .recordEntry sl => s.noteRequest (coreOf t) (sl / 64) (some (expiryStatus k))
  | _ => s

/-- WAIT_EXPIRY: the limit of a thread's wait passes: what stands for it elsewhere is withdrawn and the expiry status
is written; a load at its home slice traps TENURE_CONFLICT (R20, R264). An answer on its way that a relock holds back comes too
late. -/
def execWaitExpiry (t : Nat) (s : State) : Host.Outcome State Fault Refusal :=
  match (s.thr t).wait with
  | some w =>
    if w.over s.tick && ((s.thr t).st == .waiting || (s.thr t).st == .parked) then
      match w.kind with
      | .homeLoad ps =>
        .next (match s.homeBlocked (coreOf t) ps with
          | some va => s.takeTrap t { cause := cTenureConflict, info := BitVec.ofNat 64 va }
          | none => s.wakeHome)
      | .crossing _ =>
        .next (s.modThr t fun x =>
          (if s.answered x && s.dieRuns (coreDie (coreOf t)) then x else x.setG w.d stTimeout).rejoin)
      | k => .next (((s.lateReply t k).withdraw t).modThr t (·.endWait w.d (expiryStatus k)))
    else .next s
  | none => .next s

end Sys2Proof.Machine
end

