-- ==== Sys2Proof/Machine/Dispatch.lean ====
section
/-! DEFINITION. The meaning of every instruction, one arm per constructor. -/

namespace Sys2Proof.Machine

/-- One instruction word or event performed on the state; a word acts on the thread `cur`. -/
def exec (i : Instr) (s : State) : Host.Outcome State Fault Refusal :=
  match i with
  | .opiAdd d a b => Sys2Proof.Machine.execOpiAdd d a b s
  | .opiSub d a b => Sys2Proof.Machine.execOpiSub d a b s
  | .opiAnd d a b => Sys2Proof.Machine.execOpiAnd d a b s
  | .opiOr d a b => Sys2Proof.Machine.execOpiOr d a b s
  | .opiXor d a b => Sys2Proof.Machine.execOpiXor d a b s
  | .opiAndn d a b => Sys2Proof.Machine.execOpiAndn d a b s
  | .opiOrn d a b => Sys2Proof.Machine.execOpiOrn d a b s
  | .opiSll d a b => Sys2Proof.Machine.execOpiSll d a b s
  | .opiSrl d a b => Sys2Proof.Machine.execOpiSrl d a b s
  | .opiSra d a b => Sys2Proof.Machine.execOpiSra d a b s
  | .opiSlt d a b => Sys2Proof.Machine.execOpiSlt d a b s
  | .opiSltu d a b => Sys2Proof.Machine.execOpiSltu d a b s
  | .opiMin d a b => Sys2Proof.Machine.execOpiMin d a b s
  | .opiMax d a b => Sys2Proof.Machine.execOpiMax d a b s
  | .opiMinu d a b => Sys2Proof.Machine.execOpiMinu d a b s
  | .opiMaxu d a b => Sys2Proof.Machine.execOpiMaxu d a b s
  | .opiSxb d a => Sys2Proof.Machine.execOpiSxb d a s
  | .opiSxh d a => Sys2Proof.Machine.execOpiSxh d a s
  | .opiSxw d a => Sys2Proof.Machine.execOpiSxw d a s
  | .opiZxb d a => Sys2Proof.Machine.execOpiZxb d a s
  | .opiZxh d a => Sys2Proof.Machine.execOpiZxh d a s
  | .opiZxw d a => Sys2Proof.Machine.execOpiZxw d a s
  | .addi d a imm => Sys2Proof.Machine.execAddi d a imm s
  | .andi d a imm => Sys2Proof.Machine.execAndi d a imm s
  | .ori d a imm => Sys2Proof.Machine.execOri d a imm s
  | .xori d a imm => Sys2Proof.Machine.execXori d a imm s
  | .slti d a imm => Sys2Proof.Machine.execSlti d a imm s
  | .sltiu d a imm => Sys2Proof.Machine.execSltiu d a imm s
  | .lui d imm => Sys2Proof.Machine.execLui d imm s
  | .addpc d imm => Sys2Proof.Machine.execAddpc d imm s
  | .shiSlli d a sh => Sys2Proof.Machine.execShiSlli d a sh s
  | .shiSrli d a sh => Sys2Proof.Machine.execShiSrli d a sh s
  | .shiSrai d a sh => Sys2Proof.Machine.execShiSrai d a sh s
  | .shiRori d a sh => Sys2Proof.Machine.execShiRori d a sh s
  | .shiClz d a => Sys2Proof.Machine.execShiClz d a s
  | .shiCtz d a => Sys2Proof.Machine.execShiCtz d a s
  | .shiPopc d a => Sys2Proof.Machine.execShiPopc d a s
  | .shiBrev d a => Sys2Proof.Machine.execShiBrev d a s
  | .shiBswap d a => Sys2Proof.Machine.execShiBswap d a s
  | .muldivMul d a b => Sys2Proof.Machine.execMuldivMul d a b s
  | .muldivMulh d a b => Sys2Proof.Machine.execMuldivMulh d a b s
  | .muldivMulhu d a b => Sys2Proof.Machine.execMuldivMulhu d a b s
  | .muldivMulhsu d a b => Sys2Proof.Machine.execMuldivMulhsu d a b s
  | .muldivDiv d a b => Sys2Proof.Machine.execMuldivDiv d a b s
  | .muldivDivu d a b => Sys2Proof.Machine.execMuldivDivu d a b s
  | .muldivRem d a b => Sys2Proof.Machine.execMuldivRem d a b s
  | .muldivRemu d a b => Sys2Proof.Machine.execMuldivRemu d a b s
  | .brEq a b off => Sys2Proof.Machine.execBrEq a b off s
  | .brNe a b off => Sys2Proof.Machine.execBrNe a b off s
  | .brLt a b off => Sys2Proof.Machine.execBrLt a b off s
  | .brGe a b off => Sys2Proof.Machine.execBrGe a b off s
  | .brLtu a b off => Sys2Proof.Machine.execBrLtu a b off s
  | .brGeu a b off => Sys2Proof.Machine.execBrGeu a b off s
  | .brAny a b off => Sys2Proof.Machine.execBrAny a b off s
  | .brNone a b off => Sys2Proof.Machine.execBrNone a b off s
  | .jal d off => Sys2Proof.Machine.execJal d off s
  | .jalr d a imm => Sys2Proof.Machine.execJalr d a imm s
  | .rep n len sd sa sb => Sys2Proof.Machine.execRep n len sd sa sb s
  | .repeatFrameIssue => Sys2Proof.Machine.execRepeatFrameIssue s
  | .ldPlain sz d a off => Sys2Proof.Machine.execLdPlain sz d a off s
  | .ldTiled sz d a off => Sys2Proof.Machine.execLdTiled sz d a off s
  | .ldDevice sz d a off => Sys2Proof.Machine.execLdDevice sz d a off s
  | .stPlain sz d a off => Sys2Proof.Machine.execStPlain sz d a off s
  | .stTiled sz d a off => Sys2Proof.Machine.execStTiled sz d a off s
  | .stDevice sz d a off => Sys2Proof.Machine.execStDevice sz d a off s
  | .lds sz d a off => Sys2Proof.Machine.execLds sz d a off s
  | .sts sz d a off => Sys2Proof.Machine.execSts sz d a off s
  | .vlds d a off => Sys2Proof.Machine.execVlds d a off s
  | .vsts d a off => Sys2Proof.Machine.execVsts d a off s
  | .feTake d a off => Sys2Proof.Machine.execFeTake d a off s
  | .fePut d a off => Sys2Proof.Machine.execFePut d a off s
  | .feSload d a off => Sys2Proof.Machine.execFeSload d a off s
  | .feFill d a off => Sys2Proof.Machine.execFeFill d a off s
  | .amoSwap x d a b => Sys2Proof.Machine.execAmoSwap x d a b s
  | .amoAdd x d a b => Sys2Proof.Machine.execAmoAdd x d a b s
  | .amoAnd x d a b => Sys2Proof.Machine.execAmoAnd x d a b s
  | .amoOr x d a b => Sys2Proof.Machine.execAmoOr x d a b s
  | .amoXor x d a b => Sys2Proof.Machine.execAmoXor x d a b s
  | .amoMin x d a b => Sys2Proof.Machine.execAmoMin x d a b s
  | .amoMax x d a b => Sys2Proof.Machine.execAmoMax x d a b s
  | .amoMinu x d a b => Sys2Proof.Machine.execAmoMinu x d a b s
  | .amoMaxu x d a b => Sys2Proof.Machine.execAmoMaxu x d a b s
  | .amoCas x d a b => Sys2Proof.Machine.execAmoCas x d a b s
  | .ordAcq x => Sys2Proof.Machine.execOrdAcq x s
  | .ordRel x => Sys2Proof.Machine.execOrdRel x s
  | .ordFence x => Sys2Proof.Machine.execOrdFence x s
  | .ordLda x sz d a => Sys2Proof.Machine.execOrdLda x sz d a s
  | .ordStl x sz a b => Sys2Proof.Machine.execOrdStl x sz a b s
  | .keyUpd x e d a b => Sys2Proof.Machine.execKeyUpd x e d a b s
  | .keyLd x d a => Sys2Proof.Machine.execKeyLd x d a s
  | .keyLdx d a => Sys2Proof.Machine.execKeyLdx d a s
  | .keyPub x e d => Sys2Proof.Machine.execKeyPub x e d s
  | .keyFixDrop d a b => Sys2Proof.Machine.execKeyFixDrop d a b s
  | .keyFixSet d a b => Sys2Proof.Machine.execKeyFixSet d a b s
  | .keyResume d a => Sys2Proof.Machine.execKeyResume d a s
  | .keyInfo d a => Sys2Proof.Machine.execKeyInfo d a s
  | .qstQ w imm sp d a off => Sys2Proof.Machine.execQstQ w imm sp d a off s
  | .qstBl w sp d a off => Sys2Proof.Machine.execQstBl w sp d a off s
  | .bitInit d a k => Sys2Proof.Machine.execBitInit d a k s
  | .bitPeek d k => Sys2Proof.Machine.execBitPeek d k s
  | .bitGet d k => Sys2Proof.Machine.execBitGet d k s
  | .bitSkip k => Sys2Proof.Machine.execBitSkip k s
  | .bitGetv d a => Sys2Proof.Machine.execBitGetv d a s
  | .bitUnar d => Sys2Proof.Machine.execBitUnar d s
  | .bitTell d => Sys2Proof.Machine.execBitTell d s
  | .bitAvail d => Sys2Proof.Machine.execBitAvail d s
  | .msgPut a => Sys2Proof.Machine.execMsgPut a s
  | .msgSend e d a b => Sys2Proof.Machine.execMsgSend e d a b s
  | .msgRecv e d a b => Sys2Proof.Machine.execMsgRecv e d a b s
  | .msgWait e d a => Sys2Proof.Machine.execMsgWait e d a s
  | .msgAlt e d a => Sys2Proof.Machine.execMsgAlt e d a s
  | .msgGrant d a b => Sys2Proof.Machine.execMsgGrant d a b s
  | .msgDrop => Sys2Proof.Machine.execMsgDrop s
  | .cpySlot d a b => Sys2Proof.Machine.execCpySlot d a b s
  | .cpyIn e d a b => Sys2Proof.Machine.execCpyIn e d a b s
  | .cpyOut e d a b => Sys2Proof.Machine.execCpyOut e d a b s
  | .cpyFree d a => Sys2Proof.Machine.execCpyFree d a s
  | .cpyPin d a b => Sys2Proof.Machine.execCpyPin d a b s
  | .cpyUnpin d a => Sys2Proof.Machine.execCpyUnpin d a s
  | .tilOpen e d a => Sys2Proof.Machine.execTilOpen e d a s
  | .tilClose d a => Sys2Proof.Machine.execTilClose d a s
  | .tilAcq x e d a b => Sys2Proof.Machine.execTilAcq x e d a b s
  | .tilRel d a b => Sys2Proof.Machine.execTilRel d a b s
  | .tilGet d a b => Sys2Proof.Machine.execTilGet d a b s
  | .tilPut d a b => Sys2Proof.Machine.execTilPut d a b s
  | .xpfSnap d a => Sys2Proof.Machine.execXpfSnap d a s
  | .xpfReq d a b => Sys2Proof.Machine.execXpfReq d a b s
  | .xpfCancel d a => Sys2Proof.Machine.execXpfCancel d a s
  | .vfpAdd ty m d a b => Sys2Proof.Machine.execVfpAdd ty m d a b s
  | .vfpSub ty m d a b => Sys2Proof.Machine.execVfpSub ty m d a b s
  | .vfpMul ty m d a b => Sys2Proof.Machine.execVfpMul ty m d a b s
  | .vfpDiv ty m d a b => Sys2Proof.Machine.execVfpDiv ty m d a b s
  | .vfpSqrt ty m d a => Sys2Proof.Machine.execVfpSqrt ty m d a s
  | .vfpFma ty m d a b => Sys2Proof.Machine.execVfpFma ty m d a b s
  | .vfpFms ty m d a b => Sys2Proof.Machine.execVfpFms ty m d a b s
  | .vfpFnma ty m d a b => Sys2Proof.Machine.execVfpFnma ty m d a b s
  | .vfpMin ty m d a b => Sys2Proof.Machine.execVfpMin ty m d a b s
  | .vfpMax ty m d a b => Sys2Proof.Machine.execVfpMax ty m d a b s
  | .vfpAbs ty m d a => Sys2Proof.Machine.execVfpAbs ty m d a s
  | .vfpNeg ty m d a => Sys2Proof.Machine.execVfpNeg ty m d a s
  | .vfpSgnj ty m d a b => Sys2Proof.Machine.execVfpSgnj ty m d a b s
  | .vfpCeq m d a b => Sys2Proof.Machine.execVfpCeq m d a b s
  | .vfpClt m d a b => Sys2Proof.Machine.execVfpClt m d a b s
  | .vfpCle m d a b => Sys2Proof.Machine.execVfpCle m d a b s
  | .vfpCun m d a b => Sys2Proof.Machine.execVfpCun m d a b s
  | .vintAdd ty m d a b => Sys2Proof.Machine.execVintAdd ty m d a b s
  | .vintSub ty m d a b => Sys2Proof.Machine.execVintSub ty m d a b s
  | .vintAdds ty m d a b => Sys2Proof.Machine.execVintAdds ty m d a b s
  | .vintAddus ty m d a b => Sys2Proof.Machine.execVintAddus ty m d a b s
  | .vintSubs ty m d a b => Sys2Proof.Machine.execVintSubs ty m d a b s
  | .vintSubus ty m d a b => Sys2Proof.Machine.execVintSubus ty m d a b s
  | .vintMul ty m d a b => Sys2Proof.Machine.execVintMul ty m d a b s
  | .vintMulh ty m d a b => Sys2Proof.Machine.execVintMulh ty m d a b s
  | .vintAnd ty m d a b => Sys2Proof.Machine.execVintAnd ty m d a b s
  | .vintOr ty m d a b => Sys2Proof.Machine.execVintOr ty m d a b s
  | .vintXor ty m d a b => Sys2Proof.Machine.execVintXor ty m d a b s
  | .vintAndn ty m d a b => Sys2Proof.Machine.execVintAndn ty m d a b s
  | .vintSll ty m d a b => Sys2Proof.Machine.execVintSll ty m d a b s
  | .vintSrl ty m d a b => Sys2Proof.Machine.execVintSrl ty m d a b s
  | .vintSra ty m d a b => Sys2Proof.Machine.execVintSra ty m d a b s
  | .vintMin ty m d a b => Sys2Proof.Machine.execVintMin ty m d a b s
  | .vintMax ty m d a b => Sys2Proof.Machine.execVintMax ty m d a b s
  | .vintMinu ty m d a b => Sys2Proof.Machine.execVintMinu ty m d a b s
  | .vintMaxu ty m d a b => Sys2Proof.Machine.execVintMaxu ty m d a b s
  | .vintCeq m d a b => Sys2Proof.Machine.execVintCeq m d a b s
  | .vintClt m d a b => Sys2Proof.Machine.execVintClt m d a b s
  | .vintCltu m d a b => Sys2Proof.Machine.execVintCltu m d a b s
  | .vcvtNf16l ty m d a => Sys2Proof.Machine.execVcvtNf16l ty m d a s
  | .vcvtNf16h ty m d a => Sys2Proof.Machine.execVcvtNf16h ty m d a s
  | .vcvtNbf16l ty m d a => Sys2Proof.Machine.execVcvtNbf16l ty m d a s
  | .vcvtNbf16h ty m d a => Sys2Proof.Machine.execVcvtNbf16h ty m d a s
  | .vcvtWf16l m d a => Sys2Proof.Machine.execVcvtWf16l m d a s
  | .vcvtWf16h m d a => Sys2Proof.Machine.execVcvtWf16h m d a s
  | .vcvtWbf16l m d a => Sys2Proof.Machine.execVcvtWbf16l m d a s
  | .vcvtWbf16h m d a => Sys2Proof.Machine.execVcvtWbf16h m d a s
  | .vcvtFtoi ty m d a => Sys2Proof.Machine.execVcvtFtoi ty m d a s
  | .vcvtFtou ty m d a => Sys2Proof.Machine.execVcvtFtou ty m d a s
  | .vcvtItof ty m d a => Sys2Proof.Machine.execVcvtItof ty m d a s
  | .vcvtUtof ty m d a => Sys2Proof.Machine.execVcvtUtof ty m d a s
  | .vcvtRint ty m d a => Sys2Proof.Machine.execVcvtRint ty m d a s
  | .vpermFsum ty m d a => Sys2Proof.Machine.execVpermFsum ty m d a s
  | .vpermFmax ty m d a => Sys2Proof.Machine.execVpermFmax ty m d a s
  | .vpermFmin ty m d a => Sys2Proof.Machine.execVpermFmin ty m d a s
  | .vpermIsum ty m d a => Sys2Proof.Machine.execVpermIsum ty m d a s
  | .vpermImax ty m d a => Sys2Proof.Machine.execVpermImax ty m d a s
  | .vpermImin ty m d a => Sys2Proof.Machine.execVpermImin ty m d a s
  | .vpermImaxu ty m d a => Sys2Proof.Machine.execVpermImaxu ty m d a s
  | .vpermIminu ty m d a => Sys2Proof.Machine.execVpermIminu ty m d a s
  | .vpermPerm ty m d a b => Sys2Proof.Machine.execVpermPerm ty m d a b s
  | .vpermBcl ty m d a n => Sys2Proof.Machine.execVpermBcl ty m d a n s
  | .vpermRot ty m d a n => Sys2Proof.Machine.execVpermRot ty m d a n s
  | .vpermCmpr m d a b => Sys2Proof.Machine.execVpermCmpr m d a b s
  | .vpermExpd m d a b => Sys2Proof.Machine.execVpermExpd m d a b s
  | .vbmmMma ty m d a b => Sys2Proof.Machine.execVbmmMma ty m d a b s
  | .vbmmMm ty m d a b => Sys2Proof.Machine.execVbmmMm ty m d a b s
  | .vmskAnd d a b => Sys2Proof.Machine.execVmskAnd d a b s
  | .vmskOr d a b => Sys2Proof.Machine.execVmskOr d a b s
  | .vmskXor d a b => Sys2Proof.Machine.execVmskXor d a b s
  | .vmskAndn d a b => Sys2Proof.Machine.execVmskAndn d a b s
  | .vmskNot d a => Sys2Proof.Machine.execVmskNot d a s
  | .vmskFromg d a => Sys2Proof.Machine.execVmskFromg d a s
  | .vmskTog d a => Sys2Proof.Machine.execVmskTog d a s
  | .vmskPopc d a => Sys2Proof.Machine.execVmskPopc d a s
  | .vmskFirst d a => Sys2Proof.Machine.execVmskFirst d a s
  | .vmskPre d a => Sys2Proof.Machine.execVmskPre d a s
  | .vmskGlen ty d a => Sys2Proof.Machine.execVmskGlen ty d a s
  | .vmovMov ty m d a => Sys2Proof.Machine.execVmovMov ty m d a s
  | .vmovSel ty m d a b => Sys2Proof.Machine.execVmovSel ty m d a b s
  | .vmovBcg ty m d a => Sys2Proof.Machine.execVmovBcg ty m d a s
  | .vmovIns ty d a b => Sys2Proof.Machine.execVmovIns ty d a b s
  | .vmovExt ty d a b => Sys2Proof.Machine.execVmovExt ty d a b s
  | .vmovIota ty m d => Sys2Proof.Machine.execVmovIota ty m d s
  | .gangMm e d a => Sys2Proof.Machine.execGangMm e d a s
  | .gangPeg e d => Sys2Proof.Machine.execGangPeg e d s
  | .gangRdacc d a => Sys2Proof.Machine.execGangRdacc d a s
  | .gangWracc d a => Sys2Proof.Machine.execGangWracc d a s
  | .gangZacc a => Sys2Proof.Machine.execGangZacc a s
  | .gangPartComplete cl p => Sys2Proof.Machine.execGangPartComplete cl p s
  | .sprsScan x d a b => Sys2Proof.Machine.execSprsScan x d a b s
  | .sprsS24 x d a => Sys2Proof.Machine.execSprsS24 x d a s
  | .latheReq e d a b => Sys2Proof.Machine.execLatheReq e d a b s
  | .latheRequestStart cl => Sys2Proof.Machine.execLatheRequestStart cl s
  | .latheReply cl => Sys2Proof.Machine.execLatheReply cl s
  | .grpArrive x d a => Sys2Proof.Machine.execGrpArrive x d a s
  | .grpWait x e d a b => Sys2Proof.Machine.execGrpWait x e d a b s
  | .grpDrop x d a => Sys2Proof.Machine.execGrpDrop x d a s
  | .grpInfo d a => Sys2Proof.Machine.execGrpInfo d a s
  | .grpQuiet e d => Sys2Proof.Machine.execGrpQuiet e d s
  | .sysRdk d k => Sys2Proof.Machine.execSysRdk d k s
  | .sysWrk a k => Sys2Proof.Machine.execSysWrk a k s
  | .sysSetk a k => Sys2Proof.Machine.execSysSetk a k s
  | .sysClrk a k => Sys2Proof.Machine.execSysClrk a k s
  | .sysTread d a k => Sys2Proof.Machine.execSysTread d a k s
  | .sysTwrite d a k => Sys2Proof.Machine.execSysTwrite d a k s
  | .sysTresume a => Sys2Proof.Machine.execSysTresume a s
  | .sysTkill a => Sys2Proof.Machine.execSysTkill a s
  | .sysCall a k => Sys2Proof.Machine.execSysCall a k s
  | .sysBrk k => Sys2Proof.Machine.execSysBrk k s
  | .sysExit => Sys2Proof.Machine.execSysExit s
  | .sysNuld a k => Sys2Proof.Machine.execSysNuld a k s
  | .sysNust a k => Sys2Proof.Machine.execSysNust a k s
  | .sysTsave d a => Sys2Proof.Machine.execSysTsave d a s
  | .sysTload d a => Sys2Proof.Machine.execSysTload d a s
  | .waitExpiry t => Sys2Proof.Machine.execWaitExpiry t s
  | .replyArrival t => Sys2Proof.Machine.execReplyArrival t s
  | .messageArrival => Sys2Proof.Machine.execMessageArrival s
  | .trapQueueDelivery die => Sys2Proof.Machine.execTrapQueueDelivery die s
  | .contextSaveComplete t => Sys2Proof.Machine.execContextSaveComplete t s
  | .saveDeferralReport t => Sys2Proof.Machine.execSaveDeferralReport t s
  | .icacheMissFill t => Sys2Proof.Machine.execIcacheMissFill t s
  | .pageWalkComplete t => Sys2Proof.Machine.execPageWalkComplete t s
  | .homeRequestArrival core => Sys2Proof.Machine.execHomeRequestArrival core s
  | .flitCheckFailure core die => Sys2Proof.Machine.execFlitCheckFailure core die s
  | .linkRetrainFailure link => Sys2Proof.Machine.execLinkRetrainFailure link s
  | .tenureGrant sl => Sys2Proof.Machine.execTenureGrant sl s
  | .recallDeadlineExpiry sl => Sys2Proof.Machine.execRecallDeadlineExpiry sl s
  | .battenMergeStep core => Sys2Proof.Machine.execBattenMergeStep core s
  | .purlinDrainStep cl => Sys2Proof.Machine.execPurlinDrainStep cl s
  | .beamSettleStep die q => Sys2Proof.Machine.execBeamSettleStep die q s
  | .beamIdleSettle die q => Sys2Proof.Machine.execBeamIdleSettle die q s
  | .mscFilterClear die => Sys2Proof.Machine.execMscFilterClear die s
  | .copyCompletion die unit => Sys2Proof.Machine.execCopyCompletion die unit s
  | .prefetchServe die => Sys2Proof.Machine.execPrefetchServe die s
  | .prefetchDeadline die => Sys2Proof.Machine.execPrefetchDeadline die s
  | .quiescenceWave lid => Sys2Proof.Machine.execQuiescenceWave lid s
  | .launchStart die => Sys2Proof.Machine.execLaunchStart die s
  | .multiDieLaunchStart => Sys2Proof.Machine.execMultiDieLaunchStart s
  | .launchPriorityPromotion die => Sys2Proof.Machine.execLaunchPriorityPromotion die s
  | .launchEnd lid => Sys2Proof.Machine.execLaunchEnd lid s
  | .launchSaveComplete lid => Sys2Proof.Machine.execLaunchSaveComplete lid s
  | .launchResumeStart lid => Sys2Proof.Machine.execLaunchResumeStart lid s
  | .lqSubmit die slot => Sys2Proof.Machine.execLqSubmit die slot s
  | .lqPreempt die lid => Sys2Proof.Machine.execLqPreempt die lid s
  | .lqResume die lid => Sys2Proof.Machine.execLqResume die lid s
  | .lqStop die lid => Sys2Proof.Machine.execLqStop die lid s
  | .lqFree die slot => Sys2Proof.Machine.execLqFree die slot s
  | .deviceRegisterWrite pa n v => Sys2Proof.Machine.execDeviceRegisterWrite pa n v s
  | .dclkTargetWrite die v => Sys2Proof.Machine.execDclkTargetWrite die v s
  | .clockRelockEnd die => Sys2Proof.Machine.execClockRelockEnd die s
  | .thermalStepDown die => Sys2Proof.Machine.execThermalStepDown die s
  | .thermalRecovery die => Sys2Proof.Machine.execThermalRecovery die s
  | .hbmRetrainRequest die stack rate => Sys2Proof.Machine.execHbmRetrainRequest die stack rate s
  | .retrainDeferralExpiry die stack => Sys2Proof.Machine.execRetrainDeferralExpiry die stack s
  | .hbmPhyError die stack => Sys2Proof.Machine.execHbmPhyError die stack s
  | .unmapMigrate asid va dest => Sys2Proof.Machine.execUnmapMigrate asid va dest s
  | .dieOfflineMark die => Sys2Proof.Machine.execDieOfflineMark die s
  | .heartbeatTimeout die => Sys2Proof.Machine.execHeartbeatTimeout die s
  | .thermalOfflineTimeout die => Sys2Proof.Machine.execThermalOfflineTimeout die s
  | .exportWindow t => Sys2Proof.Machine.execExportWindow t s
  | .unexportWindow t => Sys2Proof.Machine.execUnexportWindow t s
  | .diestat t => Sys2Proof.Machine.execDiestat t s
  | .krestore t => Sys2Proof.Machine.execKrestore t s
  | .callAttest t => Sys2Proof.Machine.execCallAttest t s
  | .rread t => Sys2Proof.Machine.execRread t s
  | .rwrite t => Sys2Proof.Machine.execRwrite t s
  | .ramo t => Sys2Proof.Machine.execRamo t s
  | .rkey t => Sys2Proof.Machine.execRkey t s
  | .rmsg t => Sys2Proof.Machine.execRmsg t s
  | .remoteOpArrival op => Sys2Proof.Machine.execRemoteOpArrival op s
  | .remoteCallTimeout t => Sys2Proof.Machine.execRemoteCallTimeout t s
  | .lateReplyDiscard r => Sys2Proof.Machine.execLateReplyDiscard r s
  | .hostLoad h file => Sys2Proof.Machine.execHostLoad h file s
  | .hostSubmit h asid rec karg => Sys2Proof.Machine.execHostSubmit h asid rec karg s
  | .hostPreempt h lid => Sys2Proof.Machine.execHostPreempt h lid s
  | .hostResume h lid => Sys2Proof.Machine.execHostResume h lid s
  | .hostStop h lid => Sys2Proof.Machine.execHostStop h lid s
  | .hostRead h asid va len => Sys2Proof.Machine.execHostRead h asid va len s
  | .hostWrite h asid va data => Sys2Proof.Machine.execHostWrite h asid va data s
  | .hostCkpt h => Sys2Proof.Machine.execHostCkpt h s
  | .hostAttest h asid nonce => Sys2Proof.Machine.execHostAttest h asid nonce s
  | .hostStatus h => Sys2Proof.Machine.execHostStatus h s
  | .hostUnload h asid => Sys2Proof.Machine.execHostUnload h asid s
  | .portDown port => Sys2Proof.Machine.execPortDown port s
  | .startUp r => Sys2Proof.Machine.execStartUp r s
  | .remoteReplyArrival r => Sys2Proof.Machine.execRemoteReplyArrival r s
  | .hbmRetrainEnd die stack ok => Sys2Proof.Machine.execHbmRetrainEnd die stack ok s
  | .cxlLinkDown port => Sys2Proof.Machine.execCxlLinkDown port s

end Sys2Proof.Machine
end

