-- ==== Sys2Proof/Machine/Events.lean ====
section
/-! DEFINITION. The events of the machine's engines: what each performs, and which comes next. -/

namespace Sys2Proof.Machine

/-- An event performed: the meaning that `exec` gives its row. -/
def Event.run (e : Event) (s : State) : Host.Outcome State Fault Refusal :=
  match e with
  | .gangPartComplete cl p => execGangPartComplete cl p s
  | .latheRequestStart cl => execLatheRequestStart cl s
  | .latheReply cl => execLatheReply cl s
  | .waitExpiry t => execWaitExpiry t s
  | .replyArrival t => execReplyArrival t s
  | .messageArrival => execMessageArrival s
  | .trapQueueDelivery die => execTrapQueueDelivery die s
  | .contextSaveComplete t => execContextSaveComplete t s
  | .saveDeferralReport t => execSaveDeferralReport t s
  | .icacheMissFill t => execIcacheMissFill t s
  | .pageWalkComplete t => execPageWalkComplete t s
  | .homeRequestArrival core => execHomeRequestArrival core s
  | .flitCheckFailure core die => execFlitCheckFailure core die s
  | .linkRetrainFailure link => execLinkRetrainFailure link s
  | .tenureGrant sl => execTenureGrant sl s
  | .recallDeadlineExpiry sl => execRecallDeadlineExpiry sl s
  | .battenMergeStep core => execBattenMergeStep core s
  | .purlinDrainStep cl => execPurlinDrainStep cl s
  | .beamSettleStep die q => execBeamSettleStep die q s
  | .beamIdleSettle die q => execBeamIdleSettle die q s
  | .mscFilterClear die => execMscFilterClear die s
  | .copyCompletion die unit => execCopyCompletion die unit s
  | .prefetchServe die => execPrefetchServe die s
  | .prefetchDeadline die => execPrefetchDeadline die s
  | .quiescenceWave lid => execQuiescenceWave lid s
  | .launchStart die => execLaunchStart die s
  | .multiDieLaunchStart => execMultiDieLaunchStart s
  | .launchPriorityPromotion die => execLaunchPriorityPromotion die s
  | .launchEnd lid => execLaunchEnd lid s
  | .launchSaveComplete lid => execLaunchSaveComplete lid s
  | .launchResumeStart lid => execLaunchResumeStart lid s
  | .lqSubmit die slot => execLqSubmit die slot s
  | .lqPreempt die lid => execLqPreempt die lid s
  | .lqResume die lid => execLqResume die lid s
  | .lqStop die lid => execLqStop die lid s
  | .lqFree die slot => execLqFree die slot s
  | .deviceRegisterWrite pa n v => execDeviceRegisterWrite pa n v s
  | .dclkTargetWrite die v => execDclkTargetWrite die v s
  | .clockRelockEnd die => execClockRelockEnd die s
  | .thermalStepDown die => execThermalStepDown die s
  | .thermalRecovery die => execThermalRecovery die s
  | .hbmRetrainRequest die stack rate => execHbmRetrainRequest die stack rate s
  | .retrainDeferralExpiry die stack => execRetrainDeferralExpiry die stack s
  | .hbmPhyError die stack => execHbmPhyError die stack s
  | .unmapMigrate asid va dest => execUnmapMigrate asid va dest s
  | .dieOfflineMark die => execDieOfflineMark die s
  | .heartbeatTimeout die => execHeartbeatTimeout die s
  | .thermalOfflineTimeout die => execThermalOfflineTimeout die s
  | .exportWindow t => execExportWindow t s
  | .unexportWindow t => execUnexportWindow t s
  | .diestat t => execDiestat t s
  | .krestore t => execKrestore t s
  | .callAttest t => execCallAttest t s
  | .rread t => execRread t s
  | .rwrite t => execRwrite t s
  | .ramo t => execRamo t s
  | .rkey t => execRkey t s
  | .rmsg t => execRmsg t s
  | .remoteOpArrival op => execRemoteOpArrival op s
  | .remoteCallTimeout t => execRemoteCallTimeout t s
  | .lateReplyDiscard r => execLateReplyDiscard r s
  | .hostLoad h file => execHostLoad h file s
  | .hostSubmit h asid rec karg => execHostSubmit h asid rec karg s
  | .hostPreempt h lid => execHostPreempt h lid s
  | .hostResume h lid => execHostResume h lid s
  | .hostStop h lid => execHostStop h lid s
  | .hostRead h asid va len => execHostRead h asid va len s
  | .hostWrite h asid va data => execHostWrite h asid va data s
  | .hostCkpt h => execHostCkpt h s
  | .hostAttest h asid nonce => execHostAttest h asid nonce s
  | .hostStatus h => execHostStatus h s
  | .hostUnload h asid => execHostUnload h asid s
  | .portDown port => execPortDown port s
  | .startUp r => execStartUp r s
  | .remoteReplyArrival r => execRemoteReplyArrival r s
  | .hbmRetrainEnd die stack ok => execHbmRetrainEnd die stack ok s
  | .cxlLinkDown port => execCxlLinkDown port s
  | .remoteGo => goRemote s
  | .softError die => .next (s.modDie die fun d => { d with softErrors := d.softErrors + 1 })
  | .stackHot die stack => .next (s.coolStack die stack)
  | .quotas die q => .next (s.setQuotas die q)

/-! ## Events that come at their tick -/

/-- A thread with a property. -/
def State.threadWith (s : State) (p : Nat → Thread → Bool) : Option Nat := (s.threads.find? fun e => p e.1 e.2).map (·.1)

/-- A die with a property. -/
def State.dieWith (s : State) (p : Nat → Die → Bool) : Option Nat := (s.dies.find? fun e => p e.1 e.2).map (·.1)

/-- The limit of a thread's wait has passed (R20). -/
def Thread.waitOver (x : Thread) (tick : Nat) : Bool := (x.st == .waiting || x.st == .parked) && x.wait.any (·.over tick)

/-- A save that an open packet defers is due to be reported (R134). -/
def Thread.deferralDue (x : Thread) (tick : Nat) : Bool :=
  x.saveFrom.any (fun k => decide (k + 2 ^ 20 ≤ tick)) && !x.packet.isEmpty && !x.saveTold

/-- A launch has cores on a die that relocks, where nothing starts (R322). -/
def State.launchHeld (s : State) (lid : Nat) : Bool := (s.launchOf lid).dies.any fun d => (s.die d).clock.t0.isSome

/-- A launch whose next quiescence wave is due (R301, R322). -/
def State.waveDue (s : State) : Option Nat :=
  (s.launches.find? fun e => decide (e.2.waveTick + 4096 ≤ s.tick) && !s.waveHeld e.1 &&
    (s.launchThreads e.1).any fun t => (s.thr t).inQuiet).map (·.1)

/-- A quarter of a beam that has been idle (R309): 4 x die + quarter. -/
def State.idleQuarter (s : State) : Option Nat :=
  (s.dies.flatMap fun e => (List.range 4).map (4 * e.1 + ·)).find? fun k => s.quarterIdle (k / 4) (k % 4)

/-- A stack whose deferred retraining has waited its time (R297): 2 x die + stack. -/
def State.overStack (s : State) : Option Nat :=
  (s.dies.flatMap fun e => [2 * e.1, 2 * e.1 + 1]).find? fun k => s.deferralOver (k / 2) (k % 2)

/-- The events whose tick has come, in the order in which they are performed. -/
def State.timedEvents (s : State) : List (Option Event) :=
  [(s.threadWith fun _ x => x.waitOver s.tick).map .waitExpiry,
   (s.threadWith fun _ x => x.deferralDue s.tick).map .saveDeferralReport,
   ((s.slices.find? fun e => (s.nextExpired e.1 e.2).isSome).map (·.1)).map .recallDeadlineExpiry,
   (s.calls.find? (·.over s.tick)).map fun c => .remoteCallTimeout c.thread,
   (s.dieWith fun _ d => d.live.any (·.promotable s.tick)).map .launchPriorityPromotion,
   (s.dieWith fun _ d => d.xpf.any fun x => decide (x.dl ≤ s.tick)).map .prefetchDeadline,
   s.waveDue.map .quiescenceWave,
   s.idleQuarter.map fun k => .beamIdleSettle (k / 4) (k % 4),
   s.overStack.map fun k => .retrainDeferralExpiry (k / 2) (k % 2),
   (s.dieWith fun _ d => decide (d.filterTick + 2 ^ 20 ≤ s.tick)).map .mscFilterClear,
   (s.dieWith fun i _ => s.failed i).map .dieOfflineMark]

/-! ## Events of the engines -/

/-- A store of a core to a device is on its way (R169). -/
def State.deviceBusy (s : State) (ck : Nat) : Bool :=
  (s.cor ck).wtq.any (·.dev) || s.inbox.any fun e => match e with
    | .deviceRegisterWrite _ _ _ => true
    | _ => false

/-- Ticks that a group's answer takes from another die at least. DESIGN CHOICE (log entry 86): in them each thread that the
arrival has released on the home's die issues, so that the timer of the arriving thread is not below its own (R323). -/
def crossTicks : Nat := 2

/-- The reply of a waiting thread can arrive: its message is queued and no relock holds the reply back, or its store has reached
its device (R115, R169, R170, R188, R322). -/
def State.replyDue (s : State) (t : Nat) (x : Thread) : Bool :=
  x.st == .waiting && x.wait.any fun w =>
    match w.kind with
    | .reply => s.answered x && !s.inFlight t
    | .crossing sent => s.answered x && decide (sent + crossTicks ≤ s.tick)
    | .deviceStore => !s.deviceBusy (coreOf t)
    | .tableMove _ _ _ => true
    | _ => false

/-- The instruction line that a thread waits for can be read: its home's clock runs and its stack is open (R130, R297,
R322). -/
def State.lineDue (s : State) (t : Nat) (x : Thread) : Bool :=
  x.st == .waiting && x.wait.any fun w =>
    match w.kind with
    | .icacheMiss va =>
      match tlbFind (s.cor (coreOf t)).tlb va with
      | some e =>
        let pa := ptePa e.pte + (va - va % 64 - e.va)
        (s.die (homeDie pa)).clock.t0.isNone && !s.lineHeld pa
      | none => true
    | _ => false

/-- The call of a thread that the service has still to serve (Table 19-1). -/
def State.callEvent (s : State) (t : Nat) : List Event :=
  match (s.callAt t).map (·.k) with
  | some 0x01 => [.exportWindow t]
  | some 0x02 => if s.unexportWaits t then [] else [.unexportWindow t]
  | some 0x03 => [.diestat t]
  | some 0x04 => if s.anyRelock then [] else [.krestore t]
  | some 0x05 => [.callAttest t]
  | some 0x10 => [.rread t]
  | some 0x11 => [.rwrite t]
  | some 0x12 => [.ramo t]
  | some 0x13 => [.rkey t]
  | some 0x14 => [.rmsg t]
  | _ => []

/-- An event if it is enabled. -/
def Event.when (e : Event) (b : Bool) : List Event := if b then [e] else []

/-- Events of one thread. -/
def State.threadEvents (s : State) (t : Nat) (x : Thread) : List Event :=
  if s.dieRuns (threadDie t) then
    (Event.replyArrival t).when (s.replyDue t x) ++ (Event.icacheMissFill t).when (s.lineDue t x) ++
    (Event.contextSaveComplete t).when (!savedTid t && s.saveReady t && !s.anyRelock)
  else []

/-- Events of one core. -/
def State.coreEvents (s : State) (ck : Nat) (c : Core) : List Event :=
  if s.dieRuns (coreDie ck) then
    (Event.homeRequestArrival ck).when
      (!c.resent.isEmpty || (s.groupReady ck).isSome || c.wtq.head?.any fun e => (s.die e.die).clock.t0.isNone) ++
    (Event.battenMergeStep ck).when (s.mergeReady ck)
  else []

/-- A drain of a purlin has something to do, and no relock holds its next step back (R322). -/
def State.drainDue (s : State) (cl : Nat) : Bool :=
  s.drainReady cl && (s.drainNext cl).any fun n => (s.die (s.drainHome cl n)).clock.t0.isNone

/-- Events of one cluster. -/
def State.clusterEvents (s : State) (cl : Nat) (k : Cluster) : List Event :=
  if s.dieRuns (cl / 64) then
    k.running.map (Event.gangPartComplete cl) ++ (Event.purlinDrainStep cl).when (s.drainDue cl) ++
    (Event.latheRequestStart cl).when (k.lathe.head?.any (·.answer.isNone)) ++
    (Event.latheReply cl).when (k.lathe.head?.any (·.answer.isSome))
  else []

/-- The oldest copy of a unit can complete: no relock holds back the homes it reads or writes, or those that its core's stores
go to before it (R322). -/
def State.copyOpen (s : State) (q : List Copy) : Bool :=
  let runs := fun (d : Nat) => (s.die d).clock.t0.isNone
  q.head?.any fun c => c.pieces.all (fun p => runs (homeDie p.pa)) && (s.cor (coreOf c.thread)).wtq.all fun e => runs e.die

/-- Events of one die. -/
def State.dieEvents (s : State) (i : Nat) (d : Die) : List Event :=
  (Event.clockRelockEnd i).when (d.clock.t0.isSome || (d.beginRelock s.tick).clock.t0.isSome) ++
  if s.dieRuns i then
    (Event.trapQueueDelivery i).when (takeQueued s d.trapQ).isSome ++
    (d.settling.filterMap fun e => if e.2.isEmpty || d.bstall.isSome then none else some (Event.beamSettleStep i e.1)) ++
    (d.copies.filterMap fun e => if s.copyOpen e.2 then some (Event.copyCompletion i e.1) else none) ++
    (Event.prefetchServe i).when (!d.xpf.isEmpty) ++ (Event.launchStart i).when ((s.nextStart i).any fun r => s.startMoves r && !s.launchHeld r.lid)
  else []

/-- Events of one launch. Its end and its save write to homes anywhere, so they wait until no die relocks (R322). -/
def State.launchEvents (s : State) (lid : Nat) : List Event :=
  if s.anyRelock then [] else
  (Event.launchEnd lid).when (s.launchOver lid && s.flushMoves lid) ++
  (Event.launchSaveComplete lid).when (s.imageReady lid && s.flushMoves lid) ++
  (Event.launchResumeStart lid).when (s.resumable lid && s.resumeMoves lid)

/-- A miss whose walk can end: it has a walker, and no relock holds back a table that it reads (R277, R322). -/
def State.walkDue (s : State) (t : Nat) : Bool :=
  match (s.thr t).walkVa with
  | none => true
  | some va =>
    s.hasWalker t && s.dieRuns (threadDie t) &&
    (s.walkReads (s.cor (coreOf t)).asid va).all fun a => (s.die (homeDie a)).clock.t0.isNone

/-- Every event of an engine that can come now. -/
def State.engineEvents (s : State) : List Event :=
  Event.messageArrival.when (s.takeArriving s.transit).isSome ++
  Event.remoteGo.when (!s.anyRelock && (s.takeWork s.remoteWaits).isSome) ++
  ((s.walks.filter s.walkDue).map .pageWalkComplete) ++
  (s.threads.flatMap fun e => s.threadEvents e.1 e.2) ++
  (if s.service.isEmpty then [] else s.threads.flatMap fun e => s.callEvent e.1) ++
  (s.cores.flatMap fun e => s.coreEvents e.1 e.2) ++
  (s.clusters.flatMap fun e => s.clusterEvents e.1 e.2) ++
  (s.slices.flatMap fun e => (Event.tenureGrant e.1).when
    ((s.die (e.1 / 64)).clock.t0.isNone && (s.sliceWork e.1).isSome)) ++
  (s.dies.flatMap fun e => s.dieEvents e.1 e.2) ++
  (s.launches.flatMap fun e => s.launchEvents e.1) ++
  Event.multiDieLaunchStart.when (!s.dies.isEmpty && s.nextMulti.any fun r => s.startMoves r && !s.launchHeld r.lid) ++
  (s.ckptRun.toList.flatMap fun r => (Event.hostCkpt r.hdr).when s.ckptReady)

/-- No context has issued in this round: in a cycle what the engines and the outside do comes before what the contexts do, a
filling write before theirs and a message before their tests (R119, R175, R191). -/
def State.beforeIssue (s : State) : Bool := s.focus == 0

/-- The event of an engine that comes next, if one does: which of the engines, or of what else is to come in the tick,
comes next is free (R3, R118). -/
def State.dueEvent (s : State) : Option Event × State :=
  match if s.beforeIssue then s.engineEvents else [] with
  | [] => (none, s)
  | es => (es[Config.choice s.fresh % (es.length + 1)]?, { s with fresh := s.fresh + 1 })

/-- An external event that reaches homes of other dies waits in the links while a die relocks (R322): a `lqcmd` store among
them where it stops a launch. -/
def Event.homes : Event → Bool
  | .remoteOpArrival _ => true
  | .hostLoad _ _ => true
  | .hostSubmit _ _ _ _ => true
  | .hostStop _ _ => true
  | .lqStop _ _ => true
  | .hostRead _ _ _ _ => true
  | .hostWrite _ _ _ _ => true
  | .unmapMigrate _ _ _ => true
  | .deviceRegisterWrite pa _ v => devReg pa matches some (.lqcmd _ 0) && v.toNat % 256 == 4
  | _ => false

/-- The next external event, if one can come, and the rest. -/
def State.external (s : State) : Option (Event × List Event) :=
  match s.inbox with
  | e :: r => if !s.beforeIssue || (e.homes && s.anyRelock) then none else some (e, r)
  | [] => none

/-! ## Ticks and cycles (R113, R320, R321) -/

/-- Cycles of a die's clock in a tick: m of them in ten ticks. -/
def Clock.cycles (c : Clock) (tick : Nat) : Nat := c.m * (tick + 1) / 10 - c.m * tick / 10

/-- A die has a cycle in this round of the tick. -/
def State.hasCycle (s : State) (die : Nat) : Bool := s.dieRuns die && decide (s.round < (s.die die).clock.cycles s.tick)

/-- The next core that has a cycle in this round in which a context issues, and that context. -/
def State.turn (s : State) : Option (Nat × Nat) :=
  (s.cores.filter fun e => decide (s.focus ≤ e.1) && s.hasCycle (coreDie e.1)).findSome? fun e =>
    (s.issuer e.1).map fun c => (e.1, c)

/-- The threads of the dies that have a cycle in this round: those that an arrival has made READY before it or in it are eligible
after it (R115, R119). -/
def State.settleReady (s : State) : State :=
  { s with threads := s.threads.map fun e =>
      (e.1, if s.hasCycle (coreDie (coreOf e.1)) then { e.2 with justReady := false } else e.2) }

/-- The round is over: every die that had a cycle in it has counted one. -/
def State.endRound (s : State) : State :=
  { (List.range 12).foldl (fun s' d => if s.hasCycle d then s'.modDie d fun x => { x with cycle := x.cycle + 1 } else s')
      s.settleReady with
    focus := 0, round := s.round + 1 }

/-- The tick is over. -/
def State.endTick (s : State) : State := { s with tick := s.tick + 1, focus := 0, round := 0 }

end Sys2Proof.Machine
end

