-- ==== Sys2Proof/Machine/Late.lean ====
section
/-! DEFINITION. The last test of a form at the limit of its wait (R20, R190, R264, R322): a thread that has left a timed wait
to test again may be kept from it, by the relock of its die or by the fetch of its word. -/

namespace Sys2Proof.Machine

/-- A thread's word is being fetched again (R130, R277). -/
def Thread.fetching (t : Thread) : Bool :=
  t.st == .waiting && t.wait.any fun w =>
    match w.kind with
    | .pageWalk _ => true
    | .icacheMiss _ => true
    | _ => false

/-- A thread's form is to be tested again, and its limit has passed (R20). -/
def Thread.lateTest (t : Thread) (tick : Nat) : Option Retest :=
  if t.st == .ready || t.fetching then t.retest.filter (·.wait.over tick) else none

/-- A thread's form tested again where it stands. -/
def State.testForm (s : State) (t : Nat) (r : Retest) : Option State :=
  let s := { s with cur := t, walks := s.walks.erase t }.modThr t fun x =>
    { x with st := .ready, wait := none, asked := [], word := r.word }
  match decode r.word.toNat with
  | .ok i =>
    match hold i s (exec i s) with
    | .next s => some s
    | _ => none
  | .error _ => none

/-- A thread is back in the wait that it had left. -/
def State.waitAgain (s : State) (t : Nat) (r : Retest) : State :=
  { s with walks := s.walks.erase t }.modThr t fun x =>
    { x with st := match r.wait.kind with | .message _ => .parked | _ => .waiting, wait := some r.wait, retest := none }

/-- A form that cannot be tested for want of a translation has not completed, unless it is a load at its home slices that no
tenure stands before any more. -/
def State.stillWaits (s : State) (t : Nat) (r : Retest) : Bool :=
  match r.wait.kind with
  | .homeLoad ps => (s.homeBlocked (coreOf t) ps).isSome
  | _ => true

/-- A form whose test succeeds completes at its next issue where that is not held up, and here where it is: what it sends out of
a die that relocks waits in the links, and a copy in its unit. DESIGN CHOICE (log entry 122): the spec does not say how a form
completes whose event has come while the relock or a fetch keeps its thread from issuing. -/
def State.completesHere (s : State) (t : Nat) : Bool := !s.dieRuns (coreDie (coreOf t)) || (s.thr t).fetching

/-- What the last test of a thread's form at the limit of its wait does (R20): it goes back into the wait, whose expiry follows,
it completes, or, its event having come, it is left to its next issue. -/
def State.testLate (s : State) (t : Nat) (r : Retest) : Option State :=
  match s.testForm t r with
  | some s1 =>
    if (s1.thr t).waitOver s.tick then some s1
    else if (s1.thr t).fetching then (if s.stillWaits t r then some (s.waitAgain t r) else none)
    else if s.completesHere t then some s1
    else none
  | none => none

/-- The first thread whose form has its last test now, and what comes of it. -/
def State.lateTest (s : State) : Option State :=
  s.threads.findSome? fun e => (e.2.lateTest s.tick).bind (s.testLate e.1)

end Sys2Proof.Machine
end

