-- ==== Sys2Proof/Machine/Step.lean ====
section
/-! DEFINITION. One step of the machine: the next external event, an engine's event, or one cycle of a core. -/

namespace Sys2Proof.Machine

/-- A word issued by the thread `cur`: its fate at decode, or its meaning (R24); a request to a die that relocks is held
back (R322). -/
def issueWord (w : Nat) (s : State) : Host.Outcome State Fault Refusal :=
  match decode w with
  | .error e => .next ((s.setWord w).trapNow (decodeTrap w e))
  | .ok i => hold i (s.setWord w) (exec i (s.setWord w))

/-- The issue of the thread `cur`: from its frame, or from memory (R11, R159). -/
def issue (s : State) : Host.Outcome State Fault Refusal :=
  if s.th.inFrame then exec .repeatFrameIssue s
  else
    match s.fetchPc s.th.pc.toNat with
    | .word w => issueWord w s
    | .trap t => .next ((s.setWord 0).trapNow t)
    | .miss k => .next (s.fetchMiss k)

/-- What comes next in a tick when no event of an engine does: the cycle of the next core in which a context issues
(R113); after the rounds of the tick the forms whose limit has passed are tested for the last time, and then the events whose
tick has come are performed, an event that ends a wait in that tick being earlier (R20); then the next tick. -/
def advance (s : State) : Host.Outcome State Fault Refusal :=
  match s.turn with
  | some (ck, c) => issue ({ s with focus := ck + 1 }.issueAs ck c)
  | none =>
    if s.round < 2 then .next s.endRound
    else
      match s.lateTest with
      | some t => .next t
      | none =>
        match s.timedEvents.findSome? id with
        | some e => e.run s
        | none => .next s.endTick

/-- One step: an external event that can come is first, then an event of an engine, and otherwise what comes next in the
tick. -/
def step (s : State) : Host.Outcome State Fault Refusal :=
  match s.external with
  | some (e, r) => e.run { s with inbox := r }
  | none =>
    match s.dueEvent with
    | (some e, s) => e.run s
    | (none, s) => advance s

/-- The state with an instruction where the next step fetches: the context whose slot is next on the core of `cur` is
READY at `pc` 0 of a launch, its translation and its instruction line are cached, and no event stands before it. -/
def State.withFetchWord (s : State) (nbits w : Nat) : State :=
  let ck := s.ck
  let c := (s.die (coreDie ck)).cycle % 16
  let s := s.modThr (threadOf ck c) fun x =>
    { x with st := .ready, pc := 0, kfcnt := 0, wait := none, waitFrom := none, retest := none, justReady := false,
             saveFrom := none }
  let s := s.modCor ck fun k =>
    { k with launch := some (k.launch.getD 1), issued := k.issued.erase c, icache := k.icache.set 0 (lineOfWord (w % 2 ^ nbits)),
             tlb := { va := 0, pte := bootPte } :: k.tlb }
  { s with inbox := [], focus := ck, round := 0 }

end Sys2Proof.Machine
end

