-- ==== Sys2Proof/Safety.lean ====
section
/-! DEFINITION. The terms in which claims speak of a step: what it keeps, what it writes, how it ends. -/

namespace Sys2Proof.Machine

/-- Of one thread, everything but the general registers `gs`, the vector registers `vs`, the masks `ms` and the status
register is kept; `pc`, the frame's place (`kfcnt`, `kfidx`, `kfstg`) and the wait are the form's completion (R159). -/
structure Keeps (gs vs : List Reg) (ms : List MReg) (x y : Thread) : Prop where
  g : ∀ r, r ∉ gs → y.rg r = x.rg r
  v : ∀ r, r ∉ vs → y.rv r = x.rv r
  m : ∀ r, r ∉ ms → y.rm r = x.rm r
  saved : y.kcause = x.kcause ∧ y.kinfo = x.kinfo ∧ y.kepc = x.kepc
  control : y.ktvec = x.ktvec ∧ y.kqmask = x.kqmask ∧ y.karg = x.karg ∧ y.kbconf = x.kbconf ∧ y.kgrp = x.kgrp
  frame : y.kfbuf = x.kfbuf
  bits : y.kbbuf = x.kbbuf ∧ y.kbbufh = x.kbbufh ∧ y.kbfill = x.kbfill ∧ y.kbsrc = x.kbsrc ∧ y.kbend = x.kbend
  packet : y.packet = x.packet ∧ y.permits = x.permits

/-- Of the package, everything but the issuing thread is kept: every other thread, every byte of memory, every core,
cluster, die and table. -/
structure OnlyThread (s t : State) : Prop where
  cur : t.cur = s.cur
  others : ∀ u, u ≠ s.cur → t.thr u = s.thr u
  mem : ∀ a, memGet t.mem a = memGet s.mem a
  rest : t = { s with threads := t.threads }

/-- Outside a frame the thread goes on at the next word (R10). -/
def NextWord (x y : Thread) : Prop := x.inFrame = false → y.pc = x.pc + 4

/-- The form has completed: its thread is READY, or awaits the reply of a form of variable latency whose effect is in
the state (R115). -/
def Completed (y : Thread) : Prop :=
  (y.st = .ready ∧ y.wait = none) ∨ (y.st = .waiting ∧ ∃ w, y.wait = some w ∧ w.kind = .reply)

/-- The instruction completes, writing one general register and nothing else: `g0` discards the value (R14). -/
def WritesG (i : Instr) (s : State) (d : Reg) (x : Word) : Prop :=
  ∃ t, exec i s = .next t ∧ OnlyThread s t ∧ Keeps [d] [] [] s.th t.th ∧ t.th.kstat = s.th.kstat ∧
    t.th.rg d = (if d = 0 then 0 else x) ∧ NextWord s.th t.th ∧ Completed t.th

/-- The instruction completes, writing one vector register and adding flags to the status register. -/
def WritesV (i : Instr) (s : State) (d : Reg) (x : VReg) (flags : Nat) : Prop :=
  ∃ t, exec i s = .next t ∧ OnlyThread s t ∧ Keeps [] [d] [] s.th t.th ∧
    t.th.kstat = s.th.kstat ||| BitVec.ofNat 64 (flags % 64 * 8) ∧ t.th.rv d = x ∧ NextWord s.th t.th ∧ Completed t.th

/-- The instruction completes, writing one mask and adding flags to the status register: `m0` discards the value (R14). -/
def WritesM (i : Instr) (s : State) (d : MReg) (x : LMask) (flags : Nat) : Prop :=
  ∃ t, exec i s = .next t ∧ OnlyThread s t ∧ Keeps [] [] [d] s.th t.th ∧
    t.th.kstat = s.th.kstat ||| BitVec.ofNat 64 (flags % 64 * 8) ∧ t.th.rm d = (if d = 0 then BitVec.allOnes 16 else x) ∧
    NextWord s.th t.th ∧ Completed t.th

/-- The instruction traps (R93): its thread is TRAPPED at the instruction with `kcause`, `kinfo` and `kepc` written, no
register and no flag of it changes, and no byte of memory does. -/
def Traps (i : Instr) (s : State) (cause : Nat) (info : Word) : Prop :=
  ∃ t, exec i s = .next t ∧ t.th.st = .trapped ∧ t.th.kcause = BitVec.ofNat 64 cause ∧ t.th.kinfo = info ∧
    t.th.kepc = s.th.pc ∧ t.th.pc = s.th.pc ∧ t.th.g = s.th.g ∧ t.th.v = s.th.v ∧ t.th.m = s.th.m ∧
    t.th.kstat = s.th.kstat ∧ t.cur = s.cur ∧ (∀ u, u ≠ s.cur → t.thr u = s.thr u) ∧
    (∀ a, memGet t.mem a = memGet s.mem a)

end Sys2Proof.Machine
end

