-- ==== Sys2Proof/Certificates/Slice0/Obligations.lean ====
section
/-! DEFINITION. Statements for the provers: what the machine does, from the rules of the spec. -/

namespace Sys2Proof.Machine

/-! ## Tables of results, written as arithmetic on numbers -/

/-- Results of the integer instructions on two registers (Tables 1-9 and 4-9). -/
def twoSourceResults : List ((Reg → Reg → Reg → Instr) × (Word → Word → Word)) := [
  (Instr.opiAdd, fun x y => BitVec.ofNat 64 (x.toNat + y.toNat)),
  (Instr.opiSub, fun x y => BitVec.ofInt 64 (x.toInt - y.toInt)),
  (Instr.opiAnd, fun x y => BitVec.ofNat 64 (x.toNat &&& y.toNat)),
  (Instr.opiOr, fun x y => BitVec.ofNat 64 (x.toNat ||| y.toNat)),
  (Instr.opiXor, fun x y => BitVec.ofNat 64 (x.toNat ^^^ y.toNat)),
  (Instr.opiAndn, fun x y => BitVec.ofNat 64 (x.toNat &&& (2 ^ 64 - 1 - y.toNat))),
  (Instr.opiOrn, fun x y => BitVec.ofNat 64 (x.toNat ||| (2 ^ 64 - 1 - y.toNat))),
  (Instr.opiSll, fun x y => BitVec.ofNat 64 (x.toNat * 2 ^ (y.toNat % 64))),
  (Instr.opiSrl, fun x y => BitVec.ofNat 64 (x.toNat / 2 ^ (y.toNat % 64))),
  (Instr.opiSra, fun x y => BitVec.ofInt 64 (x.toInt / 2 ^ (y.toNat % 64))),
  (Instr.opiSlt, fun x y => if x.toInt < y.toInt then 1 else 0),
  (Instr.opiSltu, fun x y => if x.toNat < y.toNat then 1 else 0),
  (Instr.opiMin, fun x y => BitVec.ofInt 64 (min x.toInt y.toInt)),
  (Instr.opiMax, fun x y => BitVec.ofInt 64 (max x.toInt y.toInt)),
  (Instr.opiMinu, fun x y => BitVec.ofNat 64 (min x.toNat y.toNat)),
  (Instr.opiMaxu, fun x y => BitVec.ofNat 64 (max x.toNat y.toNat)),
  (Instr.muldivMul, fun x y => BitVec.ofInt 64 (x.toInt * y.toInt)),
  (Instr.muldivMulh, fun x y => BitVec.ofInt 64 (x.toInt * y.toInt / 2 ^ 64)),
  (Instr.muldivMulhu, fun x y => BitVec.ofNat 64 (x.toNat * y.toNat / 2 ^ 64)),
  (Instr.muldivMulhsu, fun x y => BitVec.ofInt 64 (x.toInt * Int.ofNat y.toNat / 2 ^ 64)),
  (Instr.muldivDiv, fun x y => if y = 0 then BitVec.allOnes 64 else BitVec.ofInt 64 (x.toInt.tdiv y.toInt)),
  (Instr.muldivDivu, fun x y => if y = 0 then BitVec.allOnes 64 else BitVec.ofNat 64 (x.toNat / y.toNat)),
  (Instr.muldivRem, fun x y => if y = 0 then x else BitVec.ofInt 64 (x.toInt.tmod y.toInt)),
  (Instr.muldivRemu, fun x y => if y = 0 then x else BitVec.ofNat 64 (x.toNat % y.toNat))]

/-- Number of set bits among the lowest `n` of a number. -/
def onesBelow (v : Nat) : Nat → Nat
  | 0 => 0
  | n + 1 => onesBelow v n + (if v.testBit n then 1 else 0)

/-- Results of the integer instructions on one register (Tables 1-9 and 4-8); the counts and orders of bits are stated
bit by bit. -/
def oneSourceResults : List ((Reg → Reg → Instr) × (Word → Word → Prop)) := [
  (Instr.opiSxb, fun x y => y = BitVec.ofInt 64 (BitVec.ofNat 8 x.toNat).toInt),
  (Instr.opiSxh, fun x y => y = BitVec.ofInt 64 (BitVec.ofNat 16 x.toNat).toInt),
  (Instr.opiSxw, fun x y => y = BitVec.ofInt 64 (BitVec.ofNat 32 x.toNat).toInt),
  (Instr.opiZxb, fun x y => y = BitVec.ofNat 64 (x.toNat % 2 ^ 8)),
  (Instr.opiZxh, fun x y => y = BitVec.ofNat 64 (x.toNat % 2 ^ 16)),
  (Instr.opiZxw, fun x y => y = BitVec.ofNat 64 (x.toNat % 2 ^ 32)),
  (Instr.shiClz, fun x y => y.toNat ≤ 64 ∧ (∀ i, 64 - y.toNat ≤ i → x.toNat.testBit i = false) ∧
    (y.toNat < 64 → x.toNat.testBit (63 - y.toNat) = true)),
  (Instr.shiCtz, fun x y => y.toNat ≤ 64 ∧ (∀ i, i < y.toNat → x.toNat.testBit i = false) ∧
    (y.toNat < 64 → x.toNat.testBit y.toNat = true)),
  (Instr.shiPopc, fun x y => y.toNat = onesBelow x.toNat 64),
  (Instr.shiBrev, fun x y => ∀ i, i < 64 → y.toNat.testBit i = x.toNat.testBit (63 - i)),
  (Instr.shiBswap, fun x y => ∀ i, i < 8 → y.toNat / 2 ^ (8 * i) % 256 = x.toNat / 2 ^ (8 * (7 - i)) % 256)]

/-- Results of the integer instructions on a register and a 16-bit immediate, sign-extended (R15, R98). -/
def immediateResults : List ((Reg → Reg → BitVec 16 → Instr) × (Word → Int → Word)) := [
  (Instr.addi, fun x k => BitVec.ofInt 64 (x.toInt + k)),
  (Instr.andi, fun x k => x &&& BitVec.ofInt 64 k),
  (Instr.ori, fun x k => x ||| BitVec.ofInt 64 k),
  (Instr.xori, fun x k => x ^^^ BitVec.ofInt 64 k),
  (Instr.slti, fun x k => if x.toInt < k then 1 else 0),
  (Instr.sltiu, fun x k => if x.toNat < (BitVec.ofInt 64 k).toNat then 1 else 0)]

/-- Results of the shifts by an immediate (Table 4-8). -/
def shiftResults : List ((Reg → Reg → BitVec 6 → Instr) × (Word → Nat → Word)) := [
  (Instr.shiSlli, fun x n => BitVec.ofNat 64 (x.toNat * 2 ^ n)),
  (Instr.shiSrli, fun x n => BitVec.ofNat 64 (x.toNat / 2 ^ n)),
  (Instr.shiSrai, fun x n => BitVec.ofInt 64 (x.toInt / 2 ^ n)),
  (Instr.shiRori, fun x n => BitVec.ofNat 64 (x.toNat / 2 ^ n + x.toNat * 2 ^ (64 - n)))]

/-- Conditions of the branches (Table 1-10). -/
def branchConditions : List ((Reg → Reg → BitVec 13 → Instr) × (Word → Word → Prop)) := [
  (Instr.brEq, fun x y => x = y),
  (Instr.brNe, fun x y => x ≠ y),
  (Instr.brLt, fun x y => x.toInt < y.toInt),
  (Instr.brGe, fun x y => y.toInt ≤ x.toInt),
  (Instr.brLtu, fun x y => x.toNat < y.toNat),
  (Instr.brGeu, fun x y => y.toNat ≤ x.toNat),
  (Instr.brAny, fun x y => ∃ i, x.toNat.testBit i = true ∧ y.toNat.testBit i = true),
  (Instr.brNone, fun x y => ∀ i, ¬ (x.toNat.testBit i = true ∧ y.toNat.testBit i = true))]

end Sys2Proof.Machine

open Sys2Proof Sys2Proof.Machine

/-! ## Registers and integers -/

/-- R14: what a register reads after a write to one: `g0` reads zero and `m0` all ones, whatever was written; every other
register reads what was written to it last, and no other register changes. -/
def Obligations.RegisterReadsWhatWasWritten : Prop :=
  ∀ (t : Thread) (d r : Reg) (x : Word) (v : VReg) (k j : MReg) (m : LMask),
    (t.setG d x).rg r = (if r = 0 then 0 else if r = d then x else t.rg r) ∧
    (t.setV d v).rv r = (if r = d then v else t.rv r) ∧
    (t.setM k m).rm j = (if j = 0 then BitVec.allOnes 16 else if j = k then m else t.rm j) ∧
    t.rg 0 = 0 ∧ t.rm 0 = BitVec.allOnes 16

/-- R30, R99, R101 to R103: every integer instruction on two registers or on one completes in every state and writes its
result to `gd` alone. -/
def Obligations.IntegerRegisterResult : Prop :=
  (∀ e ∈ twoSourceResults, ∀ (s : State) (d a b : Reg), WritesG (e.1 d a b) s d (e.2 (s.th.rg a) (s.th.rg b))) ∧
  (∀ e ∈ oneSourceResults, ∀ (s : State) (d a : Reg), ∃ y, e.2 (s.th.rg a) y ∧ WritesG (e.1 d a) s d y)

/-- R15, R98, R101: every integer instruction with an immediate completes in every state and writes its result to `gd`
alone. -/
def Obligations.IntegerImmediateResult : Prop :=
  (∀ e ∈ immediateResults, ∀ (s : State) (d a : Reg) (k : BitVec 16),
    WritesG (e.1 d a k) s d (e.2 (s.th.rg a) k.toInt)) ∧
  (∀ e ∈ shiftResults, ∀ (s : State) (d a : Reg) (n : BitVec 6), WritesG (e.1 d a n) s d (e.2 (s.th.rg a) n.toNat))

/-- R100: `lui` writes the immediate times 4,096, `addpc` adds it to the address of its own word. -/
def Obligations.UpperImmediateResult : Prop :=
  ∀ (s : State) (d : Reg) (k : BitVec 21),
    WritesG (.lui d k) s d (BitVec.ofInt 64 (k.toInt * 4096)) ∧
    WritesG (.addpc d k) s d (BitVec.ofInt 64 (s.th.pc.toInt + k.toInt * 4096))

/-! ## Control -/

/-- R105: a branch whose condition holds goes on at `pc` + 4 x `off`, else at the next word; it writes no register. -/
def Obligations.BranchResult : Prop :=
  ∀ e ∈ branchConditions, ∀ (s : State) (a b : Reg) (off : BitVec 13), ∃ t,
    exec (e.1 a b off) s = .next t ∧ OnlyThread s t ∧ Keeps [] [] [] s.th t.th ∧ t.th.kstat = s.th.kstat ∧
    t.th.st = .ready ∧ t.th.wait = none ∧
    (e.2 (s.th.rg a) (s.th.rg b) → t.th.pc = BitVec.ofInt 64 (s.th.pc.toInt + 4 * off.toInt)) ∧
    (¬ e.2 (s.th.rg a) (s.th.rg b) → NextWord s.th t.th)

/-- R106, R10: a jump computes its target before it writes the link `pc` + 4 to `gd`; `jalr` to a target that is not a
multiple of 4 traps MISALIGNED with the target in `kinfo`, `gd` and `pc` unchanged. -/
def Obligations.JumpResult : Prop :=
  ∀ (s : State) (d a : Reg) (off : BitVec 21) (imm : BitVec 16),
    let target : Word := BitVec.ofInt 64 ((s.th.rg a).toInt + imm.toInt)
    (∃ t, exec (.jal d off) s = .next t ∧ OnlyThread s t ∧ Keeps [d] [] [] s.th t.th ∧ t.th.kstat = s.th.kstat ∧
      t.th.rg d = (if d = 0 then 0 else s.th.pc + 4) ∧
      t.th.pc = BitVec.ofInt 64 (s.th.pc.toInt + 4 * off.toInt) ∧ t.th.st = .ready) ∧
    (target.toNat % 4 = 0 → ∃ t, exec (.jalr d a imm) s = .next t ∧ OnlyThread s t ∧ Keeps [d] [] [] s.th t.th ∧
      t.th.kstat = s.th.kstat ∧ t.th.rg d = (if d = 0 then 0 else s.th.pc + 4) ∧ t.th.pc = target ∧ t.th.st = .ready) ∧
    (target.toNat % 4 ≠ 0 → Traps (.jalr d a imm) s cMisaligned target)

/-! ## Steps, decoding and frames -/

/-- The issuing thread of a step traps where its word could not be fetched: it is TRAPPED at it, no register of it and no byte of
memory changes, and the record's word is zero (R11, R93, R95). -/
def FetchTraps (s s2 : State) (cause : Nat) (info : Word) : Prop :=
  ∃ t, advance s = .next t ∧ t.th.st = .trapped ∧ t.th.kcause = BitVec.ofNat 64 cause ∧ t.th.kinfo = info ∧
    t.th.kepc = s2.th.pc ∧ t.th.pc = s2.th.pc ∧ t.th.g = s2.th.g ∧ t.th.v = s2.th.v ∧ t.th.m = s2.th.m ∧
    t.th.kstat = s2.th.kstat ∧ t.th.word = 0 ∧ t.mem = s2.mem ∧ ∀ u, u ≠ s2.cur → t.thr u = s2.thr u

/-- The issuing thread of a step waits for what its fetch needs (R130, R277). -/
def FetchWaits (s s2 : State) (k : WaitKind) : Prop :=
  ∃ t, advance s = .next t ∧ t.th.st = .waiting ∧ t.th.wait.map (·.kind) = some k ∧ t.th.pc = s2.th.pc ∧
    Keeps [] [] [] s2.th t.th ∧ t.mem = s2.mem

/-- R5, R10, R11, R24, R113, R130, R159, R276, R277, R322: where no external event and no engine's event stands first, a step is one cycle of the core
in turn. The context that issues runs the issue of its frame, if one is active, and otherwise the instruction that the word
it fetches decodes to, on the state in which the issue and the word are recorded: the step is that instruction's meaning,
unless it has sent a request to a die that relocks: then the thread waits at the instruction and nothing else changes. A fetch
from an address that is not canonical traps TRANSLATION, one from a page that is not executable, or at launch level from one with
`lu` = 0, PERMISSION, and one of an uncorrectable word UNCORRECTABLE; one with no translation waits for a page walk, whose end
traps where there is no page, and one with no instruction line for that. The model's choices here: log entries 2, 3 and 93. -/
def Obligations.StepRunsDecodedInstruction : Prop :=
  (∀ (s s1 : State), s.external = none → s.dueEvent = (none, s1) → step s = advance s1) ∧
  ∀ (s : State) (ck c : Nat), s.turn = some (ck, c) →
    let s2 := { s with focus := ck + 1 }.issueAs ck c
    (s2.th.inFrame = true → advance s = exec .repeatFrameIssue s2) ∧
    (∀ (w : Nat) (i : Instr), s2.th.inFrame = false → s2.fetchPc s2.th.pc.toNat = .word w → decode w = .ok i →
      let s3 := s2.setWord w
      ((∀ t, exec i s3 = .next t → t.relocking = none) → advance s = exec i s3) ∧
      (∀ t d, exec i s3 = .next t → t.relocking = some d → ∃ u, advance s = .next u ∧ OnlyThread s3 u ∧
        Keeps [] [] [] s3.th u.th ∧ u.th.kstat = s3.th.kstat ∧ u.th.pc = s3.th.pc ∧ u.th.st = .waiting)) ∧
    (s2.th.inFrame = false →
      let pc := s2.th.pc.toNat
      let canon := pc / 2 ^ 56 % 2 ^ 8 = 0 ∨ pc / 2 ^ 56 % 2 ^ 8 = 255
      (¬ canon → FetchTraps s s2 0x10 s2.th.pc) ∧
      (canon → tlbFind s2.co.tlb pc = none → FetchWaits s s2 (.pageWalk pc)) ∧
      ∀ e, canon → tlbFind s2.co.tlb pc = some e →
        let denied := e.pte.toNat.testBit 3 = false ∨ (s2.th.service = false ∧ e.pte.toNat.testBit 5 = false)
        (denied → FetchTraps s s2 0x11 s2.th.pc) ∧
        (¬ denied → s2.co.icache.find (pc / 64) = none → FetchWaits s s2 (.icacheMiss pc)) ∧
        ∀ l, ¬ denied → s2.co.icache.find (pc / 64) = some l →
          (l.getD (pc % 64 / 4) none = none →
            FetchTraps s s2 0x90 (BitVec.ofNat 64 ((bitsAt e.pte 12 40 * 4096 + (pc - e.va)) / 8 * 8))) ∧
          ∀ w, l.getD (pc % 64 / 4) none = some w → s2.fetchPc pc = .word w.toNat)

/-- The opcode table's row of an event, each event's own; none where the table has none for it. -/
noncomputable def rowOf : Event → Option Instr
  | .gangPartComplete cl p => some (.gangPartComplete cl p)
  | .latheRequestStart cl => some (.latheRequestStart cl)
  | .latheReply cl => some (.latheReply cl)
  | .waitExpiry t => some (.waitExpiry t)
  | .replyArrival t => some (.replyArrival t)
  | .messageArrival => some (.messageArrival)
  | .trapQueueDelivery die => some (.trapQueueDelivery die)
  | .contextSaveComplete t => some (.contextSaveComplete t)
  | .saveDeferralReport t => some (.saveDeferralReport t)
  | .icacheMissFill t => some (.icacheMissFill t)
  | .pageWalkComplete t => some (.pageWalkComplete t)
  | .homeRequestArrival core => some (.homeRequestArrival core)
  | .flitCheckFailure core die => some (.flitCheckFailure core die)
  | .linkRetrainFailure link => some (.linkRetrainFailure link)
  | .tenureGrant sl => some (.tenureGrant sl)
  | .recallDeadlineExpiry sl => some (.recallDeadlineExpiry sl)
  | .battenMergeStep core => some (.battenMergeStep core)
  | .purlinDrainStep cl => some (.purlinDrainStep cl)
  | .beamSettleStep die q => some (.beamSettleStep die q)
  | .beamIdleSettle die q => some (.beamIdleSettle die q)
  | .mscFilterClear die => some (.mscFilterClear die)
  | .copyCompletion die unit => some (.copyCompletion die unit)
  | .prefetchServe die => some (.prefetchServe die)
  | .prefetchDeadline die => some (.prefetchDeadline die)
  | .quiescenceWave lid => some (.quiescenceWave lid)
  | .launchStart die => some (.launchStart die)
  | .multiDieLaunchStart => some (.multiDieLaunchStart)
  | .launchPriorityPromotion die => some (.launchPriorityPromotion die)
  | .launchEnd lid => some (.launchEnd lid)
  | .launchSaveComplete lid => some (.launchSaveComplete lid)
  | .launchResumeStart lid => some (.launchResumeStart lid)
  | .lqSubmit die slot => some (.lqSubmit die slot)
  | .lqPreempt die lid => some (.lqPreempt die lid)
  | .lqResume die lid => some (.lqResume die lid)
  | .lqStop die lid => some (.lqStop die lid)
  | .lqFree die slot => some (.lqFree die slot)
  | .deviceRegisterWrite pa n v => some (.deviceRegisterWrite pa n v)
  | .dclkTargetWrite die v => some (.dclkTargetWrite die v)
  | .clockRelockEnd die => some (.clockRelockEnd die)
  | .thermalStepDown die => some (.thermalStepDown die)
  | .thermalRecovery die => some (.thermalRecovery die)
  | .hbmRetrainRequest die stack rate => some (.hbmRetrainRequest die stack rate)
  | .retrainDeferralExpiry die stack => some (.retrainDeferralExpiry die stack)
  | .hbmPhyError die stack => some (.hbmPhyError die stack)
  | .unmapMigrate asid va dest => some (.unmapMigrate asid va dest)
  | .dieOfflineMark die => some (.dieOfflineMark die)
  | .heartbeatTimeout die => some (.heartbeatTimeout die)
  | .thermalOfflineTimeout die => some (.thermalOfflineTimeout die)
  | .exportWindow t => some (.exportWindow t)
  | .unexportWindow t => some (.unexportWindow t)
  | .diestat t => some (.diestat t)
  | .krestore t => some (.krestore t)
  | .callAttest t => some (.callAttest t)
  | .rread t => some (.rread t)
  | .rwrite t => some (.rwrite t)
  | .ramo t => some (.ramo t)
  | .rkey t => some (.rkey t)
  | .rmsg t => some (.rmsg t)
  | .remoteOpArrival op => some (.remoteOpArrival op)
  | .remoteCallTimeout t => some (.remoteCallTimeout t)
  | .lateReplyDiscard r => some (.lateReplyDiscard r)
  | .hostLoad h file => some (.hostLoad h file)
  | .hostSubmit h asid rec karg => some (.hostSubmit h asid rec karg)
  | .hostPreempt h lid => some (.hostPreempt h lid)
  | .hostResume h lid => some (.hostResume h lid)
  | .hostStop h lid => some (.hostStop h lid)
  | .hostRead h asid va len => some (.hostRead h asid va len)
  | .hostWrite h asid va data => some (.hostWrite h asid va data)
  | .hostCkpt h => some (.hostCkpt h)
  | .hostAttest h asid nonce => some (.hostAttest h asid nonce)
  | .hostStatus h => some (.hostStatus h)
  | .hostUnload h asid => some (.hostUnload h asid)
  | .portDown port => some (.portDown port)
  | .startUp r => some (.startUp r)
  | .remoteReplyArrival r => some (.remoteReplyArrival r)
  | .hbmRetrainEnd die stack ok => some (.hbmRetrainEnd die stack ok)
  | .cxlLinkDown port => some (.cxlLinkDown port)
  | .remoteGo => none
  | .softError _ => none
  | .stackHot _ _ => none
  | .quotas _ _ => none

/-- R3, R20, R113, R115, R118, R119, R320, R321: an external event that can come is performed first, then, where engines have events due,
one of them or none of them; an event of the opcode table has the meaning of its own row. Both come before the contexts of a
round issue (log entry 133). Where neither comes and no core
has a context to issue, the round of the tick ends; after the rounds a form whose limit has passed while its thread was kept
from its test is tested for the last time, then an event whose tick has come is performed, else the tick ends: the timer
counts it. A context that an arrival has made READY is eligible from the next cycle (R115, R119): not before the end of a round
in which its die has a cycle. A die whose clock has the multiplier m counts m cycles in ten ticks. The model's choices here: log
entries 2, 4, 5, 122 and 133. -/
def Obligations.StepRunsEvent : Prop :=
  (∀ (e : Event) (i : Instr), rowOf e = some i → ∀ s, e.run s = exec i s) ∧
  (∀ (s : State) (e : Event) (r : List Event), s.external = some (e, r) → step s = e.run { s with inbox := r }) ∧
  (∀ (s : State), s.external = none → s.focus = 0 → s.engineEvents ≠ [] →
    (∃ e ∈ s.engineEvents, step s = e.run { s with fresh := s.fresh + 1 }) ∨
      s.dueEvent = (none, { s with fresh := s.fresh + 1 })) ∧
  (∀ (s : State), s.engineEvents = [] ∨ s.focus ≠ 0 → s.dueEvent = (none, s)) ∧
  (∀ (s : State), s.focus ≠ 0 → s.external = none) ∧
  (∀ (s s1 : State), s.external = none → s.dueEvent = (none, s1) → s1.turn = none →
    (s1.round < 2 → ∃ t, step s = .next t ∧ t.tick = s1.tick ∧ t.round = s1.round + 1 ∧
      (∀ u, t.thr u = if s1.hasCycle (coreDie (coreOf u)) then { s1.thr u with justReady := false } else s1.thr u) ∧
      t.mem = s1.mem ∧ ∀ d, d < 12 → (t.die d).cycle = (s1.die d).cycle + if s1.hasCycle d then 1 else 0) ∧
    (∀ e, 2 ≤ s1.round → s1.lateTest = none → s1.timedEvents.findSome? id = some e → step s = e.run s1) ∧
    (2 ≤ s1.round → s1.lateTest = none → s1.timedEvents.findSome? id = none →
      step s = .next { s1 with tick := s1.tick + 1, focus := 0, round := 0 })) ∧
  (∀ (s t : State), s.turn = none → 2 ≤ s.round → s.lateTest = some t → advance s = .next t) ∧
  (∀ (s : State) (ck c : Nat), (s.thr (threadOf ck c)).justReady = true → s.eligible ck c = false) ∧
  (∀ (c : Clock) (k : Nat), ((List.range 10).map fun j => c.cycles (10 * k + j)).sum = c.m)

/-- R24, R25: a word that is no instruction traps at its own address: ILLEGAL with the word in `kinfo`, or RESERVED_FIELD
with the number of the lowest offending bit above it: bit `b` is set, and with it and some set bits above it cleared, and no
bit below it, the word is one of an instruction, so that no lower bit offends. -/
def Obligations.UndecodedWordTraps : Prop :=
  ∀ (s : State) (w : Nat), w < 2 ^ 32 →
    (decode w = .error .illegal → ∃ t, issueWord w s = .next t ∧ t.th.st = .trapped ∧
      t.th.kcause = 0x01 ∧ t.th.kinfo.toNat = w ∧ t.th.kepc = s.th.pc ∧ t.th.pc = s.th.pc) ∧
    (∀ b, decode w = .error (.reservedField b) → b < 32 ∧ w.testBit b = true ∧
      (∃ v i, decode v = .ok i ∧ v.testBit b = false ∧ v % 64 = w % 64 ∧
        (∀ j, j < b → v.testBit j = w.testBit j) ∧ (∀ j, v.testBit j = true → w.testBit j = true)) ∧
      ∃ t, issueWord w s = .next t ∧ t.th.st = .trapped ∧
        t.th.kcause = 0x02 ∧ t.th.kinfo.toNat = w + 2 ^ 32 * b ∧ t.th.kepc = s.th.pc ∧ t.th.pc = s.th.pc)

/-- Words written out from Tables 1-1, 1-8 and 1-9 and the form tables, bit by bit, and the instructions they stand for:
`add g3, g1, g2`; `addi g1, g2, -1`; `br.ne g1, g2` at offset 4; `ld.plain.sz=d g4, g5, 8 x 1`; `amo.add.x=d g1, g2, g3`;
`ord.acq.x=package`; `vint.add.w v1, v2, v3` under `m2`; `sys.exit`. -/
def Obligations.WordsDecode : Prop :=
  decode 0b00000000000000100000100011000001 = .ok (.opiAdd 3 1 2) ∧
  decode 0b11111111111111110001000001000010 = .ok (.addi 1 2 0xFFFF) ∧
  decode 0b00000000000010010001000001001100 = .ok (.brNe 1 2 1) ∧
  decode 0b00000000001000110010100100010000 = .ok (.ldPlain .d 4 5 1) ∧
  decode 0b00100000001000110001000001010101 = .ok (.amoAdd .d 1 2 3) ∧
  decode 0b10000000000000000000000000010110 = .ok (.ordAcq .package) ∧
  decode 0b00010000000000110001000001100001 = .ok (.vintAdd .w 2 1 2 3) ∧
  decode 0b00001010000000000000000000101100 = .ok .sysExit ∧
  decode 0 = .error .illegal

/-- R10 to R26, Table 1-8: the word that stands for a well-formed instruction decodes to that instruction, every operand
at every value that its field admits, and is 32 bits wide; every well-formed instruction has a word but the issue of a
frame and the events, which no word stands for. -/
def Obligations.DecodeOfEncode : Prop :=
  (∀ (i : Instr) (w : Nat), i.wf = true → encode i = some w → decode w = .ok i ∧ w < 2 ^ 32) ∧
  (∀ (i : Instr), i.wf = true → encode i = none → i = .repeatFrameIssue ∨ ∃ e : Event, rowOf e = some i)

/-- R18, R24: a word that decodes is the word of the instruction it decodes to, and that instruction is well formed: no
two words stand for one instruction, and a bit of a reserved field that is not zero is refused. -/
def Obligations.EncodeOfDecode : Prop :=
  ∀ (i : Instr) (w : Nat), w < 2 ^ 32 → decode w = .ok i → i.wf = true ∧ encode i = some w

/-- R159: the completion of a body word moves the frame on: to the next word of the body, at its end to the first word of
the next repetition, and after the last repetition the frame ends and `pc` is the word after the body; outside a frame
`pc` moves one word and nothing else of the thread changes. -/
def Obligations.FrameAdvances : Prop :=
  (∀ t : Thread, t.inFrame = false → t.advance = { t with pc := t.pc + 4 }) ∧
  ∀ (t : Thread) (k n idx len : Nat), k < 256 → n < 256 → idx < 16 → len < 16 →
    t.kfcnt = BitVec.ofNat 64 (65536 + n * 256 + k) → t.kfidx = BitVec.ofNat 64 (len * 16 + idx) →
    (idx < len → t.advance = { t with kfidx := BitVec.ofNat 64 (len * 16 + idx + 1), pc := t.pc + 4 }) ∧
    (len ≤ idx → k < n → t.advance =
      { t with kfcnt := BitVec.ofNat 64 (65536 + n * 256 + k + 1), kfidx := BitVec.ofNat 64 (len * 16),
               pc := t.pc - BitVec.ofNat 64 (4 * idx) }) ∧
    (len ≤ idx → n ≤ k → t.advance =
      { t with kfcnt := 0, kfidx := 0, kfstg := 0,
               pc := t.pc - BitVec.ofNat 64 (4 * idx) + BitVec.ofNat 64 (4 * (len + 1)) })

/-- R158: `rep` fetches its body, makes the frame active at its first word and repetition, and goes on behind itself;
no register, no flag and no byte of memory changes. -/
def Obligations.RepStartsFrame : Prop :=
  ∀ (s : State) (n : BitVec 8) (len sd sa sb : BitVec 4) (ws : List Word),
    s.fetchBody (s.th.pc.toNat + 4) (len.toNat + 1) = .ok ws →
    ∃ t, exec (.rep n len sd sa sb) s = .next t ∧ OnlyThread s t ∧ t.th.inFrame = true ∧
      t.th.kfcnt.toNat = 65536 + 256 * n.toNat ∧ t.th.kfidx.toNat = 16 * len.toNat ∧
      t.th.kfstg.toNat = 256 * sb.toNat + 16 * sa.toNat + sd.toNat ∧ t.th.pc = s.th.pc + 4 ∧
      (∀ k, k ≤ len.toNat → t.th.kfbuf.toList.getD k 0 = ws.getD k 0) ∧
      t.th.g = s.th.g ∧ t.th.v = s.th.v ∧ t.th.m = s.th.m ∧ t.th.kstat = s.th.kstat

/-- R24, R25, R159, R160, R161, R322: the issue of an active frame runs the staggered word of its buffer. Where that word is an
integer instruction the issue completes with its result; in general a word that a frame does not refuse and that decodes has the
meaning it has outside a frame, and the issue completes wherever that instruction does, in the state that it gives, unless it
has sent a request to a die that relocks. A word that a frame refuses, or that is no instruction, traps ILLEGAL with the word in
`kinfo`, and one with a bad reserved field RESERVED_FIELD with its lowest bad bit above the word. The model's choices here: log
entries 68 (`kinfo` holds the staggered word) and 93 (the thread waits where the word's form has asked a relocking die). -/
def Obligations.FrameIssueRunsBodyWord : Prop :=
  ∀ (s : State),
    (s.th.asked = [] → frameRefuses s.frameWord = false →
      (∀ e ∈ twoSourceResults, ∀ d a b : Reg, decode s.frameWord = .ok (e.1 d a b) →
        WritesG .repeatFrameIssue s d (e.2 (s.th.rg a) (s.th.rg b))) ∧
      (∀ e ∈ oneSourceResults, ∀ d a : Reg, decode s.frameWord = .ok (e.1 d a) →
        ∃ y, e.2 (s.th.rg a) y ∧ WritesG .repeatFrameIssue s d y) ∧
      (∀ e ∈ immediateResults, ∀ (d a : Reg) (k : BitVec 16), decode s.frameWord = .ok (e.1 d a k) →
        WritesG .repeatFrameIssue s d (e.2 (s.th.rg a) k.toInt)) ∧
      (∀ e ∈ shiftResults, ∀ (d a : Reg) (n : BitVec 6), decode s.frameWord = .ok (e.1 d a n) →
        WritesG .repeatFrameIssue s d (e.2 (s.th.rg a) n.toNat))) ∧
    (∀ (i : Instr) (t : State), frameRefuses s.frameWord = false → decode s.frameWord = .ok i →
      exec i (s.setWord s.frameWord) = .next t →
      (t.relocking = none → exec .repeatFrameIssue s = .next t) ∧
      (∀ d, t.relocking = some d → ∃ u, exec .repeatFrameIssue s = .next u ∧ u.th.st = .waiting ∧ u.th.pc = s.th.pc ∧
        u.mem = s.mem)) ∧
    (frameRefuses s.frameWord = true ∨ decode s.frameWord = .error .illegal →
      Traps .repeatFrameIssue s 0x01 (BitVec.ofNat 64 (s.frameWord % 2 ^ 32))) ∧
    (∀ b, frameRefuses s.frameWord = false → decode s.frameWord = .error (.reservedField b) → s.frameWord < 2 ^ 32 → b < 32 →
      Traps .repeatFrameIssue s 0x02 (BitVec.ofNat 64 (s.frameWord + 2 ^ 32 * b)))

/-! ## Special registers, traps and the handler's forms -/

/-- The bits that Table 4-7 gives the words of a trap record of a thread, from the state in which the trap is taken. -/
def recordOf (s : State) (t : Nat) (cause : Nat) (info aux : Word) : List Word :=
  [(s.thr t).pc, info, BitVec.ofNat 64 (cause + 2 ^ 32 * bitsAt (s.kid t) 0 17),
   BitVec.ofNat 64 ((s.thr t).word.toNat + 2 ^ 32 * bitsAt (s.kid t) 32 13), (s.thr t).kstat, BitVec.ofNat 64 s.tick, aux, 0]

/-- A post is a trap record with these words for a destination: a class of a core, or the Xilux service. -/
def IsRecord (p : Post) (words : List Word) (dest : Option (Nat × Nat)) : Prop :=
  p.core = dest.map (·.1) ∧ (∀ d, dest = some d → p.msg.cls = d.2) ∧ p.msg.words = words ∧ p.msg.sender = 0 ∧
  p.msg.permitted = false ∧ p.trapRec = true

/-- The class of a core that R94 sends a record of a thread to, none for the service. -/
def destOf (s : State) (t : Nat) : Option (Nat × Nat) := (s.trapDest t).map fun d => (d.1, d.2.1)

/-- The instruction traps as `Traps` says, and its record (R95) is the one message that leaves, for the destination `dest`:
a core and a class, or the Xilux service. -/
def TrapsWithRecord (i : Instr) (s : State) (cause : Nat) (info aux : Word) (dest : Option (Nat × Nat)) : Prop :=
  Traps i s cause info ∧
  ∃ t p, exec i s = .next t ∧ t.transit = s.transit ++ [p] ∧ IsRecord p (recordOf s s.cur cause info aux) dest

/-- R109, R110, R93 to R95: `sys.call` and `sys.brk` trap SYSCALL and BREAK in every state, with the number `k` in
`kinfo`; the record goes where R94 sends it, and a call's carries `ga`. -/
def Obligations.CallAndBreakTrap : Prop :=
  ∀ (s : State) (a : Reg) (k : BitVec 8),
    TrapsWithRecord (.sysCall a k) s 0xA0 (k.setWidth 64) (s.th.rg a) (destOf s s.cur) ∧
    TrapsWithRecord (.sysBrk k) s 0xA1 (k.setWidth 64) 0 (destOf s s.cur)

/-- R92 to R95: where a record goes. With `ktvec.en` = 0, with a class that is not bound in the faulting thread's launch (on
no core, or on a core of another launch or of none), or with a class bound to the thread itself or to a TRAPPED context,
it goes to the service; else to the class and core that `ktvec` names. A TRANSLATION record always goes to the service,
which holds for it the destination that `ktvec` named at the trap and forwards it there unchanged, in the step of its
arrival, but behind what a die that relocks keeps from it; of an UNCORRECTABLE record the service has a copy. The model's
choices here: log entry 22. -/
def Obligations.TrapDestination : Prop :=
  (∀ (s : State) (t : Nat) (c k : Nat) (ce : ClassEnt), k < 16 → c < 8192 →
    (bitAt (s.thr t).ktvec 17 = false → destOf s t = none) ∧
    (bitsAt (s.thr t).ktvec 4 13 = c → bitsAt (s.thr t).ktvec 0 4 = k →
      ((s.cor c).classes.find k = none ∨ (s.cor c).launch = none ∨ (s.cor c).launch ≠ (s.cor (coreOf t)).launch) →
      destOf s t = none) ∧
    (bitAt (s.thr t).ktvec 17 = true → bitsAt (s.thr t).ktvec 4 13 = c → bitsAt (s.thr t).ktvec 0 4 = k →
      (s.cor c).classes.find k = some ce → (s.cor c).launch = (s.cor (coreOf t)).launch → (s.cor c).launch ≠ none →
      destOf s t = if threadOf c ce.ctx = t ∨ (s.thr (threadOf c ce.ctx)).st = .trapped then none else some (c, k))) ∧
  (∀ (s : State) (t : Nat) (tr : Trap),
    let words := recordOf s t tr.cause tr.info tr.aux
    let u := s.takeTrap t tr
    (u.thr t).st = .trapped ∧ (u.thr t).kcause = BitVec.ofNat 64 tr.cause ∧ (u.thr t).kinfo = tr.info ∧
    (u.thr t).kepc = (s.thr t).pc ∧ (u.thr t).pc = (s.thr t).pc ∧ u.mem = s.mem ∧
    (tr.cause = 0x10 → ∃ p, u.transit = s.transit ++ [p] ∧ IsRecord p words none ∧ p.fwd = s.trapDest t) ∧
    (tr.cause = 0x90 → destOf s t ≠ none → ∃ p q, u.transit = s.transit ++ [p, q] ∧ IsRecord p words (destOf s t) ∧
      IsRecord q words none) ∧
    (tr.cause ≠ 0x10 → (tr.cause = 0x90 → destOf s t = none) →
      ∃ p, u.transit = s.transit ++ [p] ∧ IsRecord p words (destOf s t) ∧ p.fwd = none)) ∧
  (∀ (s : State) (p : Post) (r : List Post) (ck cls : Nat) (lid : Option Nat), s.takeArriving s.transit = some (p, r) →
    p.core = none → p.fwd = some (ck, cls, lid) →
    ∃ u, exec .messageArrival s = .next u ∧ p ∈ u.service ∧
      (s.classReach ck cls lid = 2 → (s.cor ck).mailFull false = false → (s.die (coreDie ck)).trapQ = [] →
        (u.cor ck).mailbox = (s.cor ck).mailbox ++ [hwMsg cls p.msg.words]))

/-- What `sys.rdk` reads of a k-register (Table 4-1, R85, R87). -/
def kValue (s : State) : KReg → Word
  | .kstat => s.th.kstat
  | .kcause => s.th.kcause
  | .kinfo => s.th.kinfo
  | .kepc => s.th.kepc
  | .ktvec => s.th.ktvec
  | .kqmask => s.th.kqmask
  | .kid => s.kid s.cur
  | .karg => s.th.karg
  | .kcycle => BitVec.ofNat 64 (s.die (coreDie s.ck)).cycle
  | .ktick => BitVec.ofNat 64 s.tick
  | .kbconf => s.th.kbconf
  | .kswait => s.co.kswait
  | .kgrp i => s.th.kgrp.get i
  | .kfbuf i => s.th.kfbuf.get i
  | .kfcnt => s.th.kfcnt
  | .kfidx => s.th.kfidx
  | .kfstg => s.th.kfstg
  | .kbbuf => s.th.kbbuf
  | .kbbufh => s.th.kbbufh
  | .kbfill => s.th.kbfill
  | .kbsrc => s.th.kbsrc
  | .kbend => s.th.kbend

/-- R81, R87, R89: `sys.rdk` reads every k-register in every state, at both levels. -/
def Obligations.SpecialRegisterRead : Prop :=
  ∀ (s : State) (d : Reg) (k : KReg), WritesG (.sysRdk d k) s d (kValue s k)

/-- R85: `kid` of a thread holds its TID in bits [16:0], its launch core number in bits [44:32], and zeros; a write leaves
it as it is. -/
def Obligations.ThreadIdentityRegister : Prop :=
  ∀ (s : State), s.cur < 2 ^ 17 → s.co.lcore < 2 ^ 13 →
    (∀ d : Reg, d ≠ 0 → ∃ t, exec (.sysRdk d .kid) s = .next t ∧ (t.th.rg d).toNat % 2 ^ 17 = s.cur ∧
      (t.th.rg d).toNat / 2 ^ 17 % 2 ^ 15 = 0 ∧ (t.th.rg d).toNat / 2 ^ 32 % 2 ^ 13 = s.co.lcore ∧
      (t.th.rg d).toNat / 2 ^ 45 = 0) ∧
    (∀ (a : Reg) (i : Instr), i = .sysWrk a .kid ∨ i = .sysSetk a .kid ∨ i = .sysClrk a .kid →
      ∃ t, exec i s = .next t ∧ t.kid s.cur = s.kid s.cur ∧ t.th.g = s.th.g ∧ Completed t.th)

/-- Bits that Tables 4-1 to 4-5, 6-12 to 6-14, 7-5b and 7-5c give a k-register below its reserved field. -/
def kWidths : List (KReg × Nat) := [
  (.kstat, 15), (.ktvec, 18), (.kqmask, 8), (.kbconf, 32), (.kswait, 4), (.kgrp 0, 13), (.kgrp 1, 13), (.kgrp 2, 13),
  (.kgrp 3, 13), (.kfcnt, 17), (.kfidx, 8), (.kfstg, 12), (.kbbuf, 64), (.kbbufh, 64), (.kbfill, 8), (.kbsrc, 19),
  (.kbend, 19), (.kcause, 64), (.kinfo, 64), (.kepc, 64), (.kid, 64), (.karg, 64), (.kcycle, 64), (.ktick, 64)] ++
  (List.finRange 16).map fun i => (.kfbuf i, 32)

/-- The k-registers that only the service writes as a whole (RWS of Table 4-1). -/
def serviceOnly : KReg → Prop
  | .kswait | .kgrp _ | .kfbuf _ | .kfcnt | .kfidx | .kfstg | .kbbuf | .kbbufh | .kbfill | .kbsrc | .kbend => True
  | _ => False

/-- The k-registers that no write changes (RO of Table 4-1). -/
def readOnly : KReg → Prop
  | .kcause | .kinfo | .kepc | .kid | .karg | .kcycle | .ktick => True
  | _ => False

/-- R89, R84: a write of the value `x` to a k-register of `w` bits passes every check; `old` is the status register of the
thread written. -/
def WriteAllowed (s : State) (old : Word) (k : KReg) (w : Nat) (x : Word) : Prop :=
  (serviceOnly k → s.th.service = true) ∧ x.toNat < 2 ^ w ∧
  (k = .kstat → s.th.service = true ∨ bitsAt x 3 6 = bitsAt old 3 6) ∧
  (k = .ktvec → s.th.service = true ∨ bitAt x 17 = false ∨
    (bitsAt x 4 13 / 512 < 12 ∧ s.co.launch ≠ none ∧ (s.cor (bitsAt x 4 13)).launch = s.co.launch))

/-- The registers of the bit buffer (R183). -/
def bufferReg (k : KReg) : Prop := k = .kbbuf ∨ k = .kbbufh ∨ k = .kbfill

/-- The bit buffer as one number, its next bit in bit 0. -/
def bufferOf (lo hi : Word) : Nat := lo.toNat + 2 ^ 64 * hi.toNat

/-- The k-register after a write of `x`: a read-only register and `kstat.pl` keep their value. -/
def kWritten (s : State) (k : KReg) (x : Word) : Word :=
  match k with
  | .kstat => BitVec.ofNat 64 (x.toNat / 2 * 2 + s.th.kstat.toNat % 2)
  | .kcause | .kinfo | .kepc | .kid | .karg | .kcycle | .ktick => kValue s k
  | _ => x

/-- The instruction completes, a k-register of its thread (or of its core) is written with `x`, and every other k-register
but the frame's place, every register and every byte of memory is kept; after a write of a register of the bit buffer its
bits at and above `fill` are zero (R183; the model's reading, log entry 94). -/
def WritesK (i : Instr) (s : State) (k : KReg) (x : Word) : Prop :=
  ∃ t, exec i s = .next t ∧ (k ≠ .kbbuf → k ≠ .kbbufh → kValue t k = kWritten s k x) ∧
    (∀ j, j ≠ k → j ≠ .kfcnt → j ≠ .kfidx → j ≠ .kfstg → ¬ (bufferReg k ∧ (j = .kbbuf ∨ j = .kbbufh)) →
      kValue t j = kValue s j) ∧
    (bufferReg k → bufferOf (kValue t .kbbuf) (kValue t .kbbufh) =
      bufferOf (if k = .kbbuf then x else kValue s .kbbuf) (if k = .kbbufh then x else kValue s .kbbufh) %
        2 ^ min 128 ((kValue t .kbfill).toNat % 256)) ∧
    t.th.g = s.th.g ∧ t.th.v = s.th.v ∧ t.th.m = s.th.m ∧ t.th.st = .ready ∧
    (∀ u, u ≠ s.cur → t.thr u = s.thr u) ∧ (∀ a, memGet t.mem a = memGet s.mem a)

/-- A form that writes a k-register, and the value that it would write (R89). -/
def KWrite (i : Instr) (s : State) (a : Reg) (k : KReg) (x : Word) : Prop :=
  (i = .sysWrk a k ∧ x = s.th.rg a) ∨ (i = .sysSetk a k ∧ x = kValue s k ||| s.th.rg a) ∨
    (i = .sysClrk a k ∧ x = kValue s k &&& ~~~ s.th.rg a)

/-- R88, R89, R109: `sys.wrk`, `sys.setk` and `sys.clrk` write `ga`, the old value with the bits of `ga` set, and the old value
with them cleared, wherever the new value passes the checks of R89. A value with a bit above the register's fields traps
RESERVED_FIELD with the word, a 1 in bit 37 and the lowest such bit in `kinfo`. At launch level a write to a register that only
the service writes traps PRIVILEGE with the word in `kinfo`, and so does a change of the flags. -/
def Obligations.SpecialRegisterWrite : Prop :=
  (∀ e ∈ kWidths, ∀ (s : State) (a : Reg),
    (WriteAllowed s s.th.kstat e.1 e.2 (s.th.rg a) → WritesK (.sysWrk a e.1) s e.1 (s.th.rg a)) ∧
    (WriteAllowed s s.th.kstat e.1 e.2 (kValue s e.1 ||| s.th.rg a) → WritesK (.sysSetk a e.1) s e.1 (kValue s e.1 ||| s.th.rg a)) ∧
    (WriteAllowed s s.th.kstat e.1 e.2 (kValue s e.1 &&& ~~~ s.th.rg a) →
      WritesK (.sysClrk a e.1) s e.1 (kValue s e.1 &&& ~~~ s.th.rg a))) ∧
  (∀ e ∈ kWidths, ∀ (s : State) (a : Reg) (i : Instr) (x : Word) (b : Nat), KWrite i s a e.1 x →
    (serviceOnly e.1 → s.th.service = true) → e.2 ≤ b → x.toNat.testBit b = true →
    (∀ j, e.2 ≤ j → j < b → x.toNat.testBit j = false) →
    Traps i s 0x02 (BitVec.ofNat 64 (s.th.word.toNat + 2 ^ 37 + 2 ^ 38 * b))) ∧
  (∀ (s : State) (a : Reg) (k : KReg), s.th.service = false →
    (serviceOnly k → Traps (.sysWrk a k) s 0x03 (s.th.word.setWidth 64) ∧
      Traps (.sysSetk a k) s 0x03 (s.th.word.setWidth 64) ∧ Traps (.sysClrk a k) s 0x03 (s.th.word.setWidth 64)) ∧
    (∀ (i : Instr) (x : Word), KWrite i s a .kstat x → x.toNat < 2 ^ 15 → bitsAt x 3 6 ≠ bitsAt s.th.kstat 3 6 →
      Traps i s 0x03 (s.th.word.setWidth 64)))

/-- R84: a write of `ktvec` that leaves `en` = 1 must at launch level name a core of the thread's own launch on a die below
12: another core traps PERMISSION with the value that would have been written in `kinfo`; at service level the write is
not checked. A thread starts with `ktvec` 0, of a launch on one die or on several. -/
def Obligations.TrapVectorCheck : Prop :=
  (∀ (s : State) (a : Reg) (i : Instr) (x : Word),
    KWrite i s a .ktvec x →
    x.toNat < 2 ^ 18 → bitAt x 17 = true →
    let own := bitsAt x 4 13 / 512 < 12 ∧ s.co.launch ≠ none ∧ (s.cor (bitsAt x 4 13)).launch = s.co.launch
    (s.th.service = false → ¬ own → Traps i s 0x11 x) ∧ (s.th.service = true ∨ own → WritesK i s .ktvec x)) ∧
  (∀ (s : State) (i : Instr) (r : LqRec),
    (∃ die, i = .launchStart die ∧ s.nextStart die = some r) ∨ (i = .multiDieLaunchStart ∧ s.nextMulti = some r) →
    s.toClear r.asid (s.launchOf r.lid).clusters = [] →
    ∃ t, exec i s = .next t ∧ ∀ ck ∈ (s.launchOf r.lid).set, ∀ c, c < r.ctx → (t.thr (threadOf ck c)).ktvec = 0)

/-- A thread that a handler may reach from the issuing thread: a TRAPPED context of a launch, and at launch level of the
handler's own (R97). -/
def Reaches (s : State) (t : Nat) : Prop :=
  (s.thr t).st = .trapped ∧ t / 8192 < 12 ∧ (s.cor (coreOf t)).launch ≠ none ∧ ctxOf t < (s.cor (coreOf t)).nctx ∧
  (s.th.service = true ∨ (s.cor (coreOf t)).launch = s.co.launch)

/-- A thread that is SAVED and still trapped, which a handler reaches as one that is TRAPPED (R97). -/
def ReachesSaved (s : State) (t : Nat) : Prop :=
  (s.thr t).st = .saved ∧ bitAt (s.slotRead t 319) 0 = true ∧ t / 8192 < 12 ∧ (s.cor (coreOf t)).launch ≠ none ∧
  ctxOf t < (s.cor (coreOf t)).nctx ∧ (s.th.service = true ∨ (s.cor (coreOf t)).launch = s.co.launch)

/-- No die relocks (R322). -/
def NoRelock (s : State) : Prop := ∀ e ∈ s.dies, e.2.clock.t0 = none

/-- A form on a thread is not held off it: the thread is on the issuing thread's own die, or on one that does not relock (R322). -/
def Near (s : State) (u : Nat) : Prop :=
  coreDie (coreOf u) = coreDie s.ck ∨ (s.die (coreDie (coreOf u))).clock.t0 = none

/-- The form waits for the end of a relock, and nothing else changes (R322; log entry 93). -/
def HeldOff (i : Instr) (s : State) : Prop :=
  ∃ t, exec i s = .next t ∧ OnlyThread s t ∧ Keeps [] [] [] s.th t.th ∧ t.th.kstat = s.th.kstat ∧ t.th.st = .waiting ∧
    t.th.pc = s.th.pc

/-- Piece `p` of eight of a vector register (R96). -/
def pieceOf (v : VReg) (p : Nat) : Nat := v.toNat / 2 ^ (64 * p) % 2 ^ 64

/-- A handler's write of a k-register of the thread `u` completes: as `WritesK` for a register of its own, and nothing else of
the target changes. -/
def WritesTargetK (i : Instr) (s : State) (u : Nat) (k : KReg) (x : Word) : Prop :=
  ∃ t, exec i s = .next t ∧
    let y := { t with cur := u }
    let z := { s with cur := u }
    (k ≠ .kbbuf → k ≠ .kbbufh → kValue y k = kWritten z k x) ∧
    (∀ j, j ≠ k → ¬ (bufferReg k ∧ (j = .kbbuf ∨ j = .kbbufh)) → kValue y j = kValue z j) ∧
    (bufferReg k → bufferOf (kValue y .kbbuf) (kValue y .kbbufh) =
      bufferOf (if k = .kbbuf then x else kValue z .kbbuf) (if k = .kbbufh then x else kValue z .kbbufh) %
        2 ^ min 128 ((kValue y .kbfill).toNat % 256)) ∧
    y.th.g = z.th.g ∧ y.th.v = z.th.v ∧ y.th.m = z.th.m ∧ y.th.pc = z.th.pc ∧ y.th.st = .trapped ∧
    Keeps [] [] [] s.th t.th ∧ t.th.kstat = s.th.kstat ∧ Completed t.th ∧ (∀ a, memGet t.mem a = memGet s.mem a)

/-- The words of a save slot that hold one piece of state each (Table 5-4): the pieces of the vector registers, `g1` to `g31`
and `pc`. -/
def plainSlotWord (j : Nat) : Prop := j ≤ 287

/-- The handler's forms on the thread `u` where it is SAVED and still trapped (R97): they read and write the slot's words; the
other words of the registers and `pc` stay, and the thread stays SAVED. -/
def SavedForms (s : State) (d a r : Reg) (u p : Nat) : Prop :=
  let stays := fun (t : State) (w : Nat) => (t.thr u).st = .saved ∧ Keeps [] [] [] s.th t.th ∧ Completed t.th ∧
    ∀ j, plainSlotWord j → j ≠ w → t.slotRead u j = s.slotRead u j
  WritesG (.sysTread d a (.g r)) s d (if r = 0 then 0 else s.slotRead u (255 + r.val)) ∧
  WritesG (.sysTread d a .pc) s d (s.slotRead u 287) ∧
  WritesG (.sysTread d a (.v r)) s d (s.slotRead u (8 * r.val + p)) ∧
  WritesG (.sysTread d a (.k .kinfo)) s d (s.slotRead u 288) ∧ WritesG (.sysTread d a (.k .kepc)) s d (s.slotRead u 289) ∧
  WritesG (.sysTread d a (.k .ktvec)) s d (s.slotRead u 294) ∧
  (r ≠ 0 → ∃ t, exec (.sysTwrite d a (.g r)) s = .next t ∧ t.slotRead u (255 + r.val) = s.th.rg d ∧ stays t (255 + r.val) ∧
    bitAt (t.slotRead u 319) 0 = true) ∧
  ((s.th.rg d).toNat % 4 = 0 → ∃ t, exec (.sysTwrite d a .pc) s = .next t ∧ t.slotRead u 287 = s.th.rg d ∧ stays t 287 ∧
    bitAt (t.slotRead u 319) 0 = true) ∧
  (∃ t, exec (.sysTwrite d a (.v r)) s = .next t ∧ t.slotRead u (8 * r.val + p) = s.th.rg d ∧ stays t (8 * r.val + p) ∧
    bitAt (t.slotRead u 319) 0 = true) ∧
  (s.th.service = true → (s.th.rg d).toNat < 2 ^ 17 → ∃ t, exec (.sysTwrite d a (.k .kfcnt)) s = .next t ∧
    t.slotRead u 311 = s.th.rg d ∧ stays t 311 ∧ bitAt (t.slotRead u 319) 0 = true) ∧
  (∃ t, exec (.sysTresume a) s = .next t ∧ stays t 319 ∧ bitAt (t.slotRead u 319) 0 = false)

/-- R96, R97, R109, R111, R322: a handler's forms on a TRAPPED thread complete: `tread` reads a general register, a mask, `pc`, a
k-register, or the piece of a vector register that `ga`[19:17] names; `twrite` writes one, a k-register under the checks of R89
at the handler's privilege; `tresume` makes it READY and changes nothing else of it. On a thread that is SAVED and still trapped
they act on its save slot. On a thread of another die that relocks they wait for the end of that (R322). The model's choices here:
log entry 93. -/
def Obligations.HandlerForms : Prop :=
  (∀ (s : State) (d a : Reg) (r : Reg) (m : MReg), Reaches s (bitsAt (s.th.rg a) 0 17) → bitsAt (s.th.rg a) 0 17 ≠ s.cur →
    Near s (bitsAt (s.th.rg a) 0 17) →
    let u := bitsAt (s.th.rg a) 0 17
    let p := bitsAt (s.th.rg a) 17 3
    WritesG (.sysTread d a (.g r)) s d ((s.thr u).rg r) ∧ WritesG (.sysTread d a .pc) s d (s.thr u).pc ∧
    WritesG (.sysTread d a (.m m)) s d (((s.thr u).rm m).setWidth 64) ∧
    WritesG (.sysTread d a (.v r)) s d (BitVec.ofNat 64 (pieceOf ((s.thr u).rv r) p)) ∧
    (∀ k, WritesG (.sysTread d a (.k k)) s d (kValue { s with cur := u } k)) ∧
    (∃ t, exec (.sysTwrite d a (.g r)) s = .next t ∧ t.thr u = (s.thr u).setG r (s.th.rg d) ∧
      Keeps [] [] [] s.th t.th ∧ Completed t.th ∧ (∀ x, memGet t.mem x = memGet s.mem x)) ∧
    (∃ t, exec (.sysTwrite d a (.m m)) s = .next t ∧ t.thr u = (s.thr u).setM m (BitVec.ofNat 16 (s.th.rg d).toNat) ∧
      Keeps [] [] [] s.th t.th ∧ Completed t.th ∧ (∀ x, memGet t.mem x = memGet s.mem x)) ∧
    (∃ t x, exec (.sysTwrite d a (.v r)) s = .next t ∧ t.thr u = (s.thr u).setV r x ∧
      (∀ q, q < 8 → pieceOf x q = if q = p then (s.th.rg d).toNat else pieceOf ((s.thr u).rv r) q) ∧
      Keeps [] [] [] s.th t.th ∧ Completed t.th ∧ (∀ x, memGet t.mem x = memGet s.mem x)) ∧
    (∀ e ∈ kWidths, WriteAllowed s (s.thr u).kstat e.1 e.2 (s.th.rg d) →
      WritesTargetK (.sysTwrite d a (.k e.1)) s u e.1 (s.th.rg d)) ∧
    ((s.th.rg d).toNat % 4 = 0 → ∃ t, exec (.sysTwrite d a .pc) s = .next t ∧
      t.thr u = { s.thr u with pc := s.th.rg d } ∧ Keeps [] [] [] s.th t.th ∧ Completed t.th) ∧
    ((s.th.rg d).toNat % 4 ≠ 0 → Traps (.sysTwrite d a .pc) s 0x13 (s.th.rg d)) ∧
    (∃ t, exec (.sysTresume a) s = .next t ∧ t.thr u = { s.thr u with st := .ready } ∧
      Keeps [] [] [] s.th t.th ∧ Completed t.th ∧ (∀ x, memGet t.mem x = memGet s.mem x))) ∧
  (∀ (s : State) (d a r : Reg), ReachesSaved s (bitsAt (s.th.rg a) 0 17) → bitsAt (s.th.rg a) 0 17 ≠ s.cur →
    Near s (bitsAt (s.th.rg a) 0 17) → SavedForms s d a r (bitsAt (s.th.rg a) 0 17) (bitsAt (s.th.rg a) 17 3)) ∧
  ∀ (s : State) (d a r : Reg) (i : Instr), i = .sysTread d a (.g r) ∨ i = .sysTwrite d a (.g r) ∨ i = .sysTresume a →
    Reaches s (bitsAt (s.th.rg a) 0 17) ∨ ReachesSaved s (bitsAt (s.th.rg a) 0 17) → ¬ Near s (bitsAt (s.th.rg a) 0 17) →
    HeldOff i s

/-- R97, R322: a target form at launch level whose target is a thread of another launch traps PRIVILEGE, and one whose target is
no TRAPPED context, at either level, traps PERMISSION with the TID in `kinfo`; at service level so does one whose target names
no context. The target is checked before the value of a `sys.twrite` (log entry 42), and by a die that relocks after that (log
entry 93). -/
def Obligations.HandlerFormsRefused : Prop :=
  ∀ (s : State) (d a : Reg) (k : TState) (i : Instr),
    i = .sysTread d a k ∨
      (i = .sysTwrite d a k ∧ (s.th.service = true ∨ ∀ r, k = .k r → ¬ serviceOnly r)) ∨ i = .sysTresume a ∨ i = .sysTkill a →
    let u := bitsAt (s.th.rg a) 0 17
    (s.th.service = false → s.co.launch ≠ none → (s.cor (coreOf u)).launch ≠ s.co.launch →
      Traps i s 0x03 (s.th.word.setWidth 64)) ∧
    (s.th.service = true → Near s u → (s.thr u).st ≠ .trapped → (s.thr u).st ≠ .saved → Traps i s 0x11 (BitVec.ofNat 64 u)) ∧
    (s.th.service = true → 12 ≤ u / 8192 ∨ (s.cor (coreOf u)).launch = none → Traps i s 0x11 (BitVec.ofNat 64 u)) ∧
    (s.th.service = false → s.co.launch ≠ none → (s.cor (coreOf u)).launch = s.co.launch → u / 8192 < 12 →
      ctxOf u < (s.cor (coreOf u)).nctx → Near s u → (s.thr u).st ≠ .trapped → (s.thr u).st ≠ .saved →
      Traps i s 0x11 (BitVec.ofNat 64 u)) ∧
    (¬ Near s u → u / 8192 < 12 → (s.cor (coreOf u)).launch ≠ none → ctxOf u < (s.cor (coreOf u)).nctx →
      (s.th.service = true ∨ (s.cor (coreOf u)).launch = s.co.launch) → HeldOff i s) ∧
    (s.th.service = false → ∀ r, serviceOnly r → Traps (.sysTwrite d a (.k r)) s 0x03 (s.th.word.setWidth 64))

/-- R91, R97, R109, R322: `sys.exit` with no packet open, and `sys.tkill` of a TRAPPED thread, or of one that is SAVED and still
trapped, end a thread: it is ENDED with no permit, no packet and no wait; `sys.exit` with a packet open traps PACKET_OPEN with
`kinfo` 0. A `sys.tkill` of a thread of another core waits while a die relocks. The model's choices here: log entry 93. -/
def Obligations.ThreadsEnd : Prop :=
  (∀ (s : State), s.th.packet = [] → ∃ t, exec .sysExit s = .next t ∧ (t.thr s.cur).st = .ended ∧
    (t.thr s.cur).packet = [] ∧ (t.thr s.cur).permits = [] ∧ (t.thr s.cur).wait = none) ∧
  (∀ (s : State), s.th.packet ≠ [] → Traps .sysExit s 0x60 0) ∧
  (∀ (s : State) (a : Reg), let u := bitsAt (s.th.rg a) 0 17
    Reaches s u ∨ ReachesSaved s u → u ≠ s.cur →
    (coreOf u = s.ck ∨ NoRelock s → ∃ t, exec (.sysTkill a) s = .next t ∧ (t.thr u).st = .ended ∧
      (t.thr u).packet = [] ∧ (t.thr u).permits = []) ∧
    (coreOf u ≠ s.ck → ¬ NoRelock s → ∃ t, exec (.sysTkill a) s = .next t ∧ OnlyThread s t ∧ Keeps [] [] [] s.th t.th ∧
      t.th.st = .waiting ∧ t.th.pc = s.th.pc))

/-! ## Memory -/

/-- R6, R270, R328: a byte of memory reads what was written to it last, a byte outside a write keeps its value, and every
write keeps the canonical form. -/
def Obligations.MemoryReadsWhatWasWritten : Prop :=
  ∀ (m : List Host.Cell) (a : Nat) (bs : List Byte),
    memRead (memWrite m a bs) a bs.length = bs ∧
    (∀ x, x < a ∨ a + bs.length ≤ x → memGet (memWrite m a bs) x = memGet m x) ∧
    (memWf m = true → memWf (memWrite m a bs) = true ∧
      ∀ m', memWf m' = true → (∀ x, memGet m' x = memGet m x) → m' = m)

/-- Bits 63:57 of an address equal bit 56 (R5). -/
def canonicalAt (va : Nat) : Prop := va / 2 ^ 56 % 2 ^ 8 = 0 ∨ va / 2 ^ 56 % 2 ^ 8 = 255

/-- The first addresses of the parts of an access of `n` bytes, one for each 128-byte line that it touches (R168). -/
def piecesOf (x : Word) (n : Nat) : List Nat :=
  if x.toNat % 128 + n ≤ 128 then [x.toNat] else [x.toNat, (x.toNat / 128 + 1) * 128 % 2 ^ 64]

/-- A page's entry denies an access: at launch level with `lu` = 0, a store with `w` = 0 (R94, R276, R278). -/
def Denies (s : State) (store : Bool) (e : TlbEnt) : Prop :=
  (s.th.service = false ∧ e.pte.toNat.testBit 5 = false) ∨ (store = true ∧ e.pte.toNat.testBit 2 = false)

/-- The core has the translation of an address, and its page allows an access. -/
def Allowed (s : State) (store : Bool) (va : Nat) : Prop := ∃ e, tlbFind s.co.tlb va = some e ∧ ¬ Denies s store e

/-- The address lies in a page whose entry is as a form asks, by its core's translation. -/
def InPage (s : State) (fits : Word → Prop) (va : Nat) : Prop := ∃ e, tlbFind s.co.tlb va = some e ∧ fits e.pte

/-- The page's kind (Table 14-2). -/
def kindIs (kind : Nat) (pte : Word) : Prop := bitsAt pte 58 2 = kind

/-- The form waits for a page walk, and nothing that a program sees changes (R277). -/
def WalksFor (i : Instr) (s : State) (va : Nat) : Prop :=
  ∃ t, exec i s = .next t ∧ Keeps [] [] [] s.th t.th ∧ t.th.st = .waiting ∧ t.th.wait.map (·.kind) = some (.pageWalk va) ∧
    t.th.pc = s.th.pc ∧ t.walks = s.walks ++ [s.cur] ∧ t.mem = s.mem

/-- R166, steps 1 to 3, for the parts at the addresses `us`, each check made for every part before the next check: TRANSLATION at
the first part whose address is not canonical; a page walk at one with no translation and PERMISSION at one whose page denies the
access; KIND_MISMATCH at one whose page is not as the form asks. -/
def PageChecks (i : Instr) (s : State) (store : Bool) (fits : Word → Prop) (us : List Nat) : Prop :=
  ∀ l va r, us = l ++ va :: r →
    ((∀ u ∈ l, canonicalAt u) → ¬ canonicalAt va → Traps i s 0x10 (BitVec.ofNat 64 va)) ∧
    ((∀ u ∈ us, canonicalAt u) → (∀ u ∈ l, Allowed s store u) →
      (tlbFind s.co.tlb va = none → WalksFor i s va) ∧
      (∀ e, tlbFind s.co.tlb va = some e → Denies s store e → Traps i s 0x11 (BitVec.ofNat 64 va))) ∧
    ((∀ u ∈ us, canonicalAt u ∧ Allowed s store u) → (∀ u ∈ l, InPage s fits u) → ¬ InPage s fits va →
      Traps i s 0x12 (BitVec.ofNat 64 va))

/-- R284, R285: the same for the pages of a range, each page checked for all of this before the next. -/
def RangeChecks (i : Instr) (s : State) (store : Bool) (fits : Word → Prop) (us : List Nat) : Prop :=
  ∀ l va r, us = l ++ va :: r →
    ((∀ u ∈ l, canonicalAt u) → ¬ canonicalAt va → Traps i s 0x10 (BitVec.ofNat 64 va)) ∧
    ((∀ u ∈ us, canonicalAt u) → (∀ u ∈ l, Allowed s store u ∧ InPage s fits u) →
      (tlbFind s.co.tlb va = none → WalksFor i s va) ∧
      (∀ e, tlbFind s.co.tlb va = some e → Denies s store e → Traps i s 0x11 (BitVec.ofNat 64 va)) ∧
      (Allowed s store va → ¬ InPage s fits va → Traps i s 0x12 (BitVec.ofNat 64 va)))

/-- R166 for a form that loads or stores `n` bytes at `x` of pages of a kind, by its parts, lowest address first: the page checks,
and then MISALIGNED where the form is never split (`whole`) and `x` is no multiple of its size, or where it is split across pages
of two residencies (R168). -/
def AccessChecks (i : Instr) (s : State) (store whole : Bool) (kind n : Nat) (x : Word) : Prop :=
  PageChecks i s store (kindIs kind) (piecesOf x n) ∧
  ((∀ u ∈ piecesOf x n, canonicalAt u ∧ Allowed s store u ∧ InPage s (kindIs kind) u) →
    (whole = true → x.toNat % n ≠ 0 → Traps i s 0x13 x) ∧
    (whole = false → ∀ u v e f, piecesOf x n = [u, v] → tlbFind s.co.tlb u = some e → tlbFind s.co.tlb v = some f →
      bitsAt e.pte 56 2 ≠ bitsAt f.pte 56 2 → Traps i s 0x13 x))

/-- R122, R123, R165, R166 for a form that accesses `n` bytes of the scratchpad at `x`: SCRATCH_BOUNDS with `x` where a bit above
17 is set, else with the part, one for each 256-byte row, that reaches past the bytes that the thread may reach. -/
def ScratchChecks (i : Instr) (s : State) (n : Nat) (x : Word) : Prop :=
  (2 ^ 18 ≤ x.toNat → Traps i s 0x14 x) ∧
  (x.toNat < 2 ^ 18 → min (x.toNat + n) ((x.toNat / 256 + 1) * 256) > s.scrLimit → Traps i s 0x14 x) ∧
  (x.toNat < 2 ^ 18 → (x.toNat / 256 + 1) * 256 ≤ s.scrLimit → s.scrLimit < x.toNat + n →
    (x.toNat / 256 + 1) * 256 < x.toNat + n → Traps i s 0x14 (BitVec.ofNat 64 ((x.toNat / 256 + 1) * 256)))

/-- R121, R122 for a form that takes `n` bytes of the scratchpad at `x`, a multiple of `k`: SCRATCH_BOUNDS where a bit above 17 is
set, MISALIGNED where `x` is no such multiple, SCRATCH_BOUNDS where the bytes pass those that the thread may reach. -/
def BlockChecks (i : Instr) (s : State) (k n : Nat) (x : Word) : Prop :=
  (2 ^ 18 ≤ x.toNat → Traps i s 0x14 x) ∧
  (x.toNat < 2 ^ 18 → x.toNat % k ≠ 0 → Traps i s 0x13 x) ∧
  (x.toNat < 2 ^ 18 → x.toNat % k = 0 → s.scrLimit < x.toNat + n → Traps i s 0x14 x)

/-- One byte of physical memory as a core's own loads see it (R330): a word that its L1 holds, else its write-through queue,
else memory. -/
def coreByte (s : State) (ck pa : Nat) : Byte :=
  match (s.cor ck).l1.find (pa / 128) with
  | some l =>
    if (l.valid ||| l.dirty).getLsbD (pa % 128 / 4) then BitVec.ofNat 8 (lineGet l.data (pa % 128) 1) else s.seenByte ck pa
  | none => s.seenByte ck pa

/-- One byte of physical memory as a core sees it at its home (R330): a byte of a dirty word of its L1, else its write-through
queue, else memory. -/
def homeByte (s : State) (ck pa : Nat) : Byte :=
  match (s.cor ck).l1.find (pa / 128) with
  | some l =>
    if l.dirty.getLsbD (pa % 128 / 4) then BitVec.ofNat 8 (lineGet l.data (pa % 128) 1) else s.seenByte ck pa
  | none => s.seenByte ck pa

/-- An address outside the four oldest entries of the issuing core's write-through queue, which an access may have
performed to make room (R170), and outside their lines, whose dirty words may have gone with them (R128; log entry 95). -/
def OutsideOldest (s : State) (x : Nat) : Prop :=
  ∀ e ∈ s.co.wtq.take 4, (x < e.pa ∨ e.pa + e.bytes.length ≤ x) ∧ x / 128 ≠ e.pa / 128

/-- A core's L1 lists each line once, in order, and every store to memory in its write-through queue lies in one line, as each
part of a store does. Each load and store keeps this. -/
def SoundCache (s : State) (ck : Nat) : Prop :=
  AMap.sorted (s.cor ck).l1 = true ∧ ∀ e ∈ (s.cor ck).wtq, e.dev = false → e.pa % 128 + e.bytes.length ≤ 128

/-- The word `w` is the first of those that `n` bytes at `a` touch of which `bad` holds. -/
def FirstWord (bad : Nat → Prop) (a n w : Nat) : Prop :=
  a / 8 ≤ w ∧ 8 * w < a + n ∧ bad w ∧ ∀ v, a / 8 ≤ v → v < w → ¬ bad v

/-- The bytes take in all of the word. -/
def Covers (a n w : Nat) : Prop := a ≤ 8 * w ∧ 8 * w + 8 ≤ a + n

/-- An access lies in one line, of which the issuing core holds nothing. -/
def LineAbsent (s : State) (p : Part) : Prop :=
  p.pa % 128 + p.n ≤ 128 ∧ s.co.l1.find (p.pa / 128) = none ∧
  ∀ e ∈ s.co.wtq, e.pa + e.bytes.length ≤ p.pa / 128 * 128 ∨ (p.pa / 128 + 1) * 128 ≤ e.pa

/-- R281: the load traps UNCORRECTABLE at the first word of its bytes that its home cannot deliver. -/
def LostLoad (i : Instr) (s : State) (p : Part) : Prop :=
  ∀ w, LineAbsent s p → FirstWord (fun w => s.lostWord w = true) p.pa p.n w → Traps i s 0x90 (BitVec.ofNat 64 (8 * w))

/-- R281: the store traps UNCORRECTABLE at the first word whose place is gone, or that is uncorrectable and of which it writes but a
part. -/
def LostStore (i : Instr) (s : State) (p : Part) : Prop :=
  ∀ w, LineAbsent s p →
    FirstWord (fun w => s.goneWord w = true ∨ (s.lostWord w = true ∧ ¬ Covers p.pa p.n w)) p.pa p.n w →
    Traps i s 0x90 (BitVec.ofNat 64 (8 * w))

/-- R17, R165 to R168, R170, R281: `ld.plain`: where the checks of R166 pass and no word is uncorrectable, `gd` takes the
zero-extended value of the parts, and nothing else of the thread changes; memory changes at most where the access
makes room in the queue. Where a check fails the load traps as R166 says, and at an
uncorrectable word UNCORRECTABLE. The model's choices here: log entries 6, 60, 95 and 102 (an access past the last address). -/
def Obligations.PlainLoadResult : Prop :=
  (∀ (s : State) (sz : Size) (d a : Reg) (off : BitVec 11),
    AccessChecks (.ldPlain sz d a off) s false false 0 sz.bytes (s.th.ea a off sz.bytes) ∧
    ∀ p, s.plainParts .load kPlain (s.th.ea a off sz.bytes) sz.bytes = .ok [p] → LostLoad (.ldPlain sz d a off) s p) ∧
  ∀ (s s1 : State) (sz : Size) (d a : Reg) (off : BitVec 11) (ps : List Part) (v : Nat),
    s.th.st = .ready → s.plainParts .load kPlain (s.th.ea a off sz.bytes) sz.bytes = .ok ps →
    s.loadParts s.ck ps = .ok (v, s1) →
    ∃ t, exec (.ldPlain sz d a off) s = .next t ∧ t.th.rg d = (if d = 0 then 0 else BitVec.ofNat 64 v) ∧
      Keeps [d] [] [] s.th t.th ∧ t.th.kstat = s.th.kstat ∧ NextWord s.th t.th ∧ Completed t.th ∧
      (∀ u, u ≠ s.cur → t.thr u = s.thr u) ∧ (∀ x, OutsideOldest s x → memGet t.mem x = memGet s.mem x)

/-- R330, R128, R329: one part of a load that hits gives the bytes as the core's L1 holds them; one that misses gives every
byte as the core sees it at its home, the dirty words of its L1 among them, and after it the bytes are in the L1. L1 and
queue stay sound. The model's choices here: log entries 60 and 95. -/
def Obligations.LoadSeesCoreView : Prop :=
  ∀ (s s1 : State) (ck : Nat) (p : Part) (v : Nat), p.pa % 128 + p.n ≤ 128 → 0 < p.n → SoundCache s ck →
    s.loadPart ck p = .ok (v, s1) → SoundCache s1 ck ∧
    ((s.cor ck).l1Hit p.pa p.n = true → s1 = s ∧ v = natOfBytes ((List.range p.n).map fun i => coreByte s ck (p.pa + i))) ∧
    ((s.cor ck).l1Hit p.pa p.n = false → (s1.cor ck).l1Hit p.pa p.n = true ∧
      v = natOfBytes ((List.range p.n).map fun i => homeByte s ck (p.pa + i)))

/-- R17, R128, R165 to R168, R170, R281: `st.plain`: where the checks pass, the thread goes on with no register changed, and memory
changes at most where the store makes room in the queue: the bytes stored go to the L1 or the queue. Where a check fails the store
traps as R166 says, and at an uncorrectable word that it writes in part UNCORRECTABLE. The model's choices here: log entries 60, 95 and 102. -/
def Obligations.PlainStoreResult : Prop :=
  (∀ (s : State) (sz : Size) (d a : Reg) (off : BitVec 11),
    AccessChecks (.stPlain sz d a off) s true false 0 sz.bytes (s.th.ea a off sz.bytes) ∧
    ∀ p, s.plainParts .store kPlain (s.th.ea a off sz.bytes) sz.bytes = .ok [p] → LostStore (.stPlain sz d a off) s p) ∧
  ∀ (s s1 : State) (sz : Size) (d a : Reg) (off : BitVec 11) (ps : List Part),
    s.th.st = .ready → s.plainParts .store kPlain (s.th.ea a off sz.bytes) sz.bytes = .ok ps →
    s.storeParts s.ck (wholeWords (s.th.ea a off sz.bytes).toNat sz.bytes) ((s.th.rg d).toNat % 2 ^ (8 * sz.bytes)) ps =
      .ok (none, s1) →
    ∃ t, exec (.stPlain sz d a off) s = .next t ∧ Keeps [] [] [] s.th t.th ∧ t.th.kstat = s.th.kstat ∧
      NextWord s.th t.th ∧ Completed t.th ∧ t.co.l1 = (s1.cor s.ck).l1 ∧ t.co.wtq = (s1.cor s.ck).wtq ∧
      (∀ u, u ≠ s.cur → t.thr u = s.thr u) ∧ (∀ x, OutsideOldest s x → memGet t.mem x = memGet s.mem x)

/-- R128, R170, R330: after one part of a store the core sees the stored bytes in place, and where no line had to leave its
L1 it sees every other byte as before; its L1 and queue stay sound. A store of part of a word leaves the valid
and the dirty words of its L1 as they were, but for the line of the oldest entry of a full queue. The model's choices here: log
entries 60 and 95. -/
def Obligations.StoreChangesCoreView : Prop :=
  ∀ (s s1 : State) (ck : Nat) (whole : Bool) (v : Nat) (p : Part), p.pa % 128 + p.n ≤ 128 →
    0 < p.n → v < 2 ^ (8 * p.n) → (whole = true → p.pa % 4 = 0 ∧ p.n % 4 = 0) → SoundCache s ck →
    s.storeParts ck whole v [p] = .ok (none, s1) → SoundCache s1 ck ∧
    (∀ i, i < p.n → coreByte s1 ck (p.pa + i) = BitVec.ofNat 8 (v / 2 ^ (8 * i))) ∧
    (((s.cor ck).l1.find (p.pa / 128)).isSome ∨ (setLines (s.cor ck) (p.pa / 128)).length < 8 →
      ∀ x, x < p.pa ∨ p.pa + p.n ≤ x → coreByte s1 ck x = coreByte s ck x) ∧
    (whole = false → ∀ k, ((s.cor ck).wtq.length < 32 ∨ ∀ e ∈ (s.cor ck).wtq.take 1, e.pa / 128 ≠ k) →
      ((s1.cor ck).l1.find k).map (fun l => (l.valid, l.dirty)) =
      ((s.cor ck).l1.find k).map fun l => (l.valid, l.dirty))

/-- R17, R166, R168, R169, R264, R281, R330: `ld.tiled`, its checks before tenure those of R166, each byte judged by tenure at its own
mortise slice. A load whose every byte is covered gives what a plain load through the L1 gives, an uncorrectable word included. One with a byte that is not, and no REVOKED entry of its core on one, reads all of its
bytes at their home slices, where the core sees its own stores. While a WRITE tenure of another core stands before a byte of
them it waits there under the limit of `kswait` with nothing else changed, and with no limit left it traps TENURE_CONFLICT with
the first such byte in `kinfo`; at the first moment that none does it reads its bytes, and the load completes with those. A byte
of a REVOKED entry traps TENURE_REVOKED. The model's choices here: log entries 6, 23, 60, 79, 95 and 102. -/
def Obligations.TiledLoadResult : Prop :=
  (∀ (s : State) (sz : Size) (d a : Reg) (off : BitVec 11),
    AccessChecks (.ldTiled sz d a off) s false false 1 sz.bytes (s.th.ea a off sz.bytes) ∧
    ∀ p, s.plainParts .load kTiled (s.th.ea a off sz.bytes) sz.bytes = .ok [p] → s.th.got = [] →
      s.tenureCheck s.ck false (tileParts [p]) = .ok .l1 → LostLoad (.ldTiled sz d a off) s p) ∧
  (∀ (s : State) (sz : Size) (d a : Reg) (off : BitVec 11) (ps : List Part),
    s.th.st = .ready → s.plainParts .load kTiled (s.th.ea a off sz.bytes) sz.bytes = .ok ps →
    let fate := s.tenureCheck s.ck false (tileParts ps)
    let ends := fun (v : Nat) => ∃ t, exec (.ldTiled sz d a off) s = .next t ∧
      t.th.rg d = (if d = 0 then 0 else BitVec.ofNat 64 v) ∧ Keeps [d] [] [] s.th t.th ∧ t.th.kstat = s.th.kstat ∧
      Completed t.th ∧ (∀ u, u ≠ s.cur → t.thr u = s.thr u) ∧ (∀ x, OutsideOldest s x → memGet t.mem x = memGet s.mem x)
    (s.th.got = [] →
      (∀ v s1, fate = .ok .l1 → s.loadParts s.ck ps = .ok (v, s1) → ends v) ∧
      (fate = .ok .home → s.homeBlocked s.ck (tileParts ps) = none →
        (∀ p ∈ ps, (wordsOf p.pa p.n).find? (s.homeBad s.ck) = none) →
        ends (natOfBytes (ps.flatMap fun p => (List.range p.n).map fun i => homeByte s s.ck (p.pa + i)))) ∧
      (∀ va, fate = .ok .home → s.homeBlocked s.ck (tileParts ps) = some va →
        (bitsAt s.co.kswait 0 4 = 0 → Traps (.ldTiled sz d a off) s 0x31 (BitVec.ofNat 64 va)) ∧
        (bitsAt s.co.kswait 0 4 ≠ 0 → ∃ t, exec (.ldTiled sz d a off) s = .next t ∧ OnlyThread s t ∧
          Keeps [] [] [] s.th t.th ∧ t.th.st = .waiting ∧ t.th.pc = s.th.pc ∧
          ∃ w, t.th.wait = some w ∧ w.kind = .homeLoad (tileParts ps) ∧ w.e = bitsAt s.co.kswait 0 4 ∧ w.d = d)) ∧
      ((∀ q ∈ tileParts ps, ∀ i, i < q.2.2 → s.byteFate s.ck q.1 false ((q.2.1 + i) % 2 ^ 64) = .revoked) →
        Traps (.ldTiled sz d a off) s 0x33 (s.th.ea a off sz.bytes))) ∧
    (∀ g : Nat → Byte, (∀ p ∈ ps, ∀ i, i < p.n →
        s.th.got.find? (·.1 == (p.va + i) % 2 ^ 64) = some ((p.va + i) % 2 ^ 64, (g ((p.va + i) % 2 ^ 64)).setWidth 64)) →
      ends (natOfBytes (ps.flatMap fun p => (List.range p.n).map fun i => g ((p.va + i) % 2 ^ 64))))) ∧
  (∀ (s : State) (u : Nat) (ws : List (Nat × Nat × Nat)) (w : Wait), AMap.sorted s.threads = true →
    AMap.sorted (s.cor (coreOf u)).l1 = true →
    (s.thr u).st = .waiting → (s.thr u).wait = some w → w.kind = .homeLoad ws → s.homeBlocked (coreOf u) ws = none →
    (∀ e ∈ s.homeAt (coreOf u) ws, ∃ pa, e.2 = some pa ∧ s.homeBad (coreOf u) (pa / 8) = false) →
    (s.wakeHome.thr u).st = .ready ∧ ∀ e ∈ s.homeAt (coreOf u) ws, ∀ pa, e.2 = some pa →
      (e.1, (homeByte s (coreOf u) pa).setWidth 64) ∈ (s.wakeHome.thr u).got)

/-- R17, R166, R168, R169, R264, R281: `st.tiled`, its checks before tenure those of R166, under a WRITE tenure that covers every
byte completes with no register changed, or traps at an uncorrectable word that it writes in part; a store no byte of which a tenure
of its core covers traps TENURE_REQUIRED with its first byte in `kinfo`. Each byte is judged at its own mortise slice. The model's choices here: log entries 24, 60, 95 and 102. -/
def Obligations.TiledStoreResult : Prop :=
  (∀ (s : State) (sz : Size) (d a : Reg) (off : BitVec 11),
    AccessChecks (.stTiled sz d a off) s true false 1 sz.bytes (s.th.ea a off sz.bytes) ∧
    ∀ p f, s.plainParts .store kTiled (s.th.ea a off sz.bytes) sz.bytes = .ok [p] → s.tenureCheck s.ck true (tileParts [p]) = .ok f →
      LostStore (.stTiled sz d a off) s p) ∧
  ∀ (s : State) (sz : Size) (d a : Reg) (off : BitVec 11) (ps : List Part),
    s.th.st = .ready → s.plainParts .store kTiled (s.th.ea a off sz.bytes) sz.bytes = .ok ps →
    let ea := (s.th.ea a off sz.bytes).toNat
    (∀ f s1, s.tenureCheck s.ck true (tileParts ps) = .ok f →
      s.storeParts s.ck (wholeWords ea sz.bytes) ((s.th.rg d).toNat % 2 ^ (8 * sz.bytes)) ps = .ok (none, s1) →
      ∃ t, exec (.stTiled sz d a off) s = .next t ∧ Keeps [] [] [] s.th t.th ∧ t.th.kstat = s.th.kstat ∧ Completed t.th ∧
        (∀ x, OutsideOldest s x → memGet t.mem x = memGet s.mem x)) ∧
    ((∀ q ∈ tileParts ps, ∀ i, i < q.2.2 → s.byteFate s.ck q.1 true ((q.2.1 + i) % 2 ^ 64) = .required) →
      Traps (.stTiled sz d a off) s 0x30 (BitVec.ofNat 64 ea))

/-- The results of the atomics on the old value `o`, the source `u` and the compare value `c`, as numbers below
2 ^ `w` (Table 14-4). -/
def amoResults : List ((AmoPlace → Reg → Reg → Reg → Instr) × (Nat → Nat → Nat → Nat → Nat)) := [
  (Instr.amoSwap, fun _ _ u _ => u),
  (Instr.amoAdd, fun w o u _ => (o + u) % 2 ^ w),
  (Instr.amoAnd, fun _ o u _ => o &&& u),
  (Instr.amoOr, fun _ o u _ => o ||| u),
  (Instr.amoXor, fun _ o u _ => o ^^^ u),
  (Instr.amoMin, fun w o u _ => if (BitVec.ofNat w o).toInt ≤ (BitVec.ofNat w u).toInt then o else u),
  (Instr.amoMax, fun w o u _ => if (BitVec.ofNat w u).toInt ≤ (BitVec.ofNat w o).toInt then o else u),
  (Instr.amoMinu, fun _ o u _ => if o ≤ u then o else u),
  (Instr.amoMaxu, fun _ o u _ => if u ≤ o then o else u),
  (Instr.amoCas, fun _ o u c => if o = c then u else o)]

/-- R166, R278, R279, R281: an atomic on an aligned writable PLAIN location: its home's old value goes to `gd`, the result to
memory, and every byte of memory outside the location, and everything else of the thread, is as the core's own pending
writes of the location leave it. Where a check of R166 fails it traps, and at an uncorrectable word UNCORRECTABLE. The model's choices here: log entries 6, 7, 95 and 102. -/
def Obligations.AtomicResult : Prop :=
  (∀ e ∈ amoResults, ∀ (s : State) (x : AmoPlace) (d a b : Reg),
    AccessChecks (e.1 x d a b) s true true 0 x.bytes (s.th.rg a) ∧
    ∀ p, s.alignedPart .store (s.th.rg a) x.bytes = .ok p → LostLoad (e.1 x d a b) s p) ∧
  ∀ e ∈ amoResults, ∀ (s s1 : State) (x : AmoPlace) (d a b : Reg) (p : Part),
    s.th.st = .ready → s.alignedPart .store (s.th.rg a) x.bytes = .ok p →
    s1 = (s.l1Flush s.ck p.pa x.bytes).l1Invalidate s.ck p.pa x.bytes → (wordsOf p.pa x.bytes).find? s1.lostWord = none →
    let o := natOfBytes (memRead s1.mem p.pa x.bytes)
    let m := 2 ^ (8 * x.bytes)
    ∃ t, exec (e.1 x d a b) s = .next t ∧ t.th.rg d = (if d = 0 then 0 else BitVec.ofNat 64 o) ∧
      memRead t.mem p.pa x.bytes =
        bytesOf (e.2 (8 * x.bytes) o ((s.th.rg b).toNat % m) ((s.th.rg d).toNat % m)) x.bytes ∧
      (∀ y, y < p.pa ∨ p.pa + x.bytes ≤ y → memGet t.mem y = memGet s1.mem y) ∧
      (s.co.wtq = [] → s.co.l1.find (p.pa / 128) = none → s1.mem = s.mem) ∧
      Keeps [d] [] [] s.th t.th ∧ t.th.kstat = s.th.kstat ∧ NextWord s.th t.th ∧ Completed t.th ∧
      (∀ u, u ≠ s.cur → t.thr u = s.thr u)

/-- A scope that orders other cores (R129). -/
def reachesOut : Scope → Prop
  | .thread | .core => False
  | _ => True

/-- A scope whose release carries the cluster's purlin too (R204). -/
def reachesFar : Scope → Prop
  | .die | .package => True
  | _ => False

/-- A release at a scope has nothing to publish: its core's batten is empty and, at die and package scope, its cluster's
purlin too, or a run out of which it must carry entries is stalled (R177, R204, R205). -/
def NothingToPublish (s : State) (x : Scope) : Prop :=
  (s.co.batten ≠ [] ∧ s.co.stall.isSome = true) ∨
  (s.co.batten = [] ∧ (reachesFar x → (s.clu (clusterOf s.ck)).purlin = [] ∨ (s.clu (clusterOf s.ck)).pstall.isSome = true))

/-- The thread waits at its form for the publication of its release, which its core carries out; nothing is written by the
form beyond the core's own stores (R177, R204). -/
def WaitsToPublish (i : Instr) (s : State) : Prop :=
  ∃ t, exec i s = .next t ∧ Keeps [] [] [] s.th t.th ∧ t.th.kstat = s.th.kstat ∧ t.th.pc = s.th.pc ∧ t.th.st = .waiting ∧
    (∃ w, t.th.wait = some w ∧ w.kind = .publish ∧ w.e = 15) ∧ t.co.wtq = [] ∧
    ∃ p, t.co.pubs = s.co.pubs ++ [p] ∧ p.owner = some s.cur ∧ p.release = true

/-- R129, R170, R177, R204, R339: `ord.acq` completes in every state; `ord.rel` and `ord.fence` complete in every state at thread and
core scope, and at cluster scope or wider wherever there is nothing to publish, or the publication they waited for is over;
else they wait for it. Every register is kept. Past a release at cluster scope or wider the core's L1 holds no dirty word
and its queue is empty; past an acquire every word its L1 still holds is dirty or of a read-only page, and past `ord.acq` the
core sees every byte outside read-only pages as at its home, a byte that it sent there itself among them; at thread and core
scope nothing but the thread changes. The model's choices here: log entries 7 and 95. -/
def Obligations.OrderingForms : Prop :=
  ∀ (s : State) (x : Scope),
    (∃ t, exec (.ordAcq x) s = .next t ∧ Keeps [] [] [] s.th t.th ∧ Completed t.th ∧
      (∀ a, memGet t.mem a = memGet s.mem a) ∧ (¬ reachesOut x → OnlyThread s t) ∧
      (reachesOut x → (∀ e ∈ t.co.l1, e.2.ro = true ∨ e.2.valid = e.2.dirty) ∧
        ∀ a, (∀ l, t.co.l1.find (a / 128) = some l → l.ro = false) → coreByte t s.ck a = homeByte t s.ck a)) ∧
    (s.th.st = .ready → ¬ reachesOut x → (∃ t, exec (.ordRel x) s = .next t ∧ OnlyThread s t ∧ Keeps [] [] [] s.th t.th ∧
      t.th.kstat = s.th.kstat ∧ NextWord s.th t.th ∧ Completed t.th) ∧
      ∃ t, exec (.ordFence x) s = .next t ∧ OnlyThread s t ∧ Keeps [] [] [] s.th t.th ∧ t.th.kstat = s.th.kstat ∧
        NextWord s.th t.th ∧ Completed t.th) ∧
    (s.th.st = .ready → reachesOut x → s.th.released = false → NothingToPublish s x →
      (∃ t, exec (.ordRel x) s = .next t ∧ Keeps [] [] [] s.th t.th ∧ NextWord s.th t.th ∧ Completed t.th ∧ t.co.wtq = [] ∧
        ∀ k l, t.co.l1.find k = some l → l.dirty = 0) ∧
      (AMap.sorted s.co.l1 = true → ∃ t, exec (.ordFence x) s = .next t ∧ Keeps [] [] [] s.th t.th ∧ NextWord s.th t.th ∧
        Completed t.th ∧ t.co.wtq = [] ∧ ∀ k l, t.co.l1.find k = some l → l.ro = true ∨ l.valid = 0)) ∧
    (s.th.st = .ready → s.th.released = true → (∃ t, exec (.ordRel x) s = .next t ∧ Keeps [] [] [] s.th t.th ∧
        NextWord s.th t.th ∧ Completed t.th ∧ t.th.released = false ∧ ∀ a, memGet t.mem a = memGet s.mem a) ∧
      ∃ t, exec (.ordFence x) s = .next t ∧ Keeps [] [] [] s.th t.th ∧ NextWord s.th t.th ∧ Completed t.th ∧
        t.th.released = false ∧ (reachesOut x → ∀ e ∈ t.co.l1, e.2.ro = true ∨ e.2.valid = e.2.dirty)) ∧
    (s.th.st = .ready → reachesOut x → s.th.released = false → ¬ NothingToPublish s x →
      WaitsToPublish (.ordRel x) s ∧ WaitsToPublish (.ordFence x) s)

/-- R166, R177, R281: an acquire load at cluster scope or wider reads its bytes at their home, the core's own pending writes
first, and a release store, once its release has nothing to publish, writes them there, while it waits for a publication
before; at thread and core scope they are a plain load and store. Where a check of R166 fails they trap, and
at an uncorrectable word UNCORRECTABLE. The model's choices here: log entries 6, 7, 95 and 102. -/
def Obligations.OrderedLoadStore : Prop :=
  (∀ (s : State) (x : Scope) (sz : Size) (d a b : Reg),
    AccessChecks (.ordLda x sz d a) s false true 0 sz.bytes (s.th.rg a) ∧
    AccessChecks (.ordStl x sz a b) s true true 0 sz.bytes (s.th.rg a) ∧
    (∀ p, s.alignedPart .load (s.th.rg a) sz.bytes = .ok p → LostLoad (.ordLda x sz d a) s p) ∧
    ∀ p, s.alignedPart .store (s.th.rg a) sz.bytes = .ok p → LostStore (.ordStl x sz a b) s p) ∧
  ∀ (s : State) (x : Scope) (sz : Size) (d a b : Reg), s.th.st = .ready →
    (∀ p v, s.alignedPart .load (s.th.rg a) sz.bytes = .ok p → reachesOut x →
      (s.l1Flush s.ck p.pa sz.bytes).homeRead p.pa sz.bytes = .ok v →
      ∃ t, exec (.ordLda x sz d a) s = .next t ∧ t.th.rg d = (if d = 0 then 0 else BitVec.ofNat 64 v) ∧
        Keeps [d] [] [] s.th t.th ∧ Completed t.th) ∧
    (∀ p v s1, s.alignedPart .load (s.th.rg a) sz.bytes = .ok p → ¬ reachesOut x → s.loadParts s.ck [p] = .ok (v, s1) →
      ∃ t, exec (.ordLda x sz d a) s = .next t ∧ t.th.rg d = (if d = 0 then 0 else BitVec.ofNat 64 v) ∧
        Keeps [d] [] [] s.th t.th ∧ Completed t.th) ∧
    (∀ p, s.alignedPart .store (s.th.rg a) sz.bytes = .ok p → reachesOut x →
      ((wordsOf p.pa p.n).find? fun w => s.noStore s.ck p.pa p.n w) = none →
      (NothingToPublish s x ∨ s.th.released = true → ∃ t, exec (.ordStl x sz a b) s = .next t ∧
        memRead t.mem p.pa sz.bytes = bytesOf ((s.th.rg b).toNat % 2 ^ (8 * sz.bytes)) sz.bytes ∧
        Keeps [] [] [] s.th t.th ∧ Completed t.th) ∧
      (¬ NothingToPublish s x → s.th.released = false → WaitsToPublish (.ordStl x sz a b) s)) ∧
    (∀ p s1, s.alignedPart .store (s.th.rg a) sz.bytes = .ok p → ¬ reachesOut x →
      s.storeParts s.ck (wholeWords (s.th.rg a).toNat sz.bytes) ((s.th.rg b).toNat % 2 ^ (8 * sz.bytes)) [p] =
        .ok (none, s1) →
      ∃ t, exec (.ordStl x sz a b) s = .next t ∧ Keeps [] [] [] s.th t.th ∧ Completed t.th)

/-- A scratchpad access of `n` bytes whose checks pass: its address, inside the bytes the thread may reach (R122, R165,
R166). -/
def ScratchAt (s : State) (a : Reg) (off : BitVec 11) (n la : Nat) : Prop :=
  (s.th.ea a off n).toNat = la ∧ la < 2 ^ 18 ∧ la + n ≤ s.scrLimit

/-- Nothing but the issuing thread and the scratchpad of its core changes; `keep` names the bytes of it that keep their
value. -/
def OnlyScratch (s t : State) (keep : Nat → Prop) : Prop :=
  t.cur = s.cur ∧ (∀ u, u ≠ s.cur → t.thr u = s.thr u) ∧ (∀ a, memGet t.mem a = memGet s.mem a) ∧
  (∀ k, k ≠ s.ck → t.cor k = s.cor k) ∧ (∀ a, keep a → t.co.scrByte a = s.co.scrByte a) ∧
  t.co.empty = s.co.empty ∧ t.co.takers = s.co.takers

/-- R122, R123, R165, R166, R172, R173, R281: scratchpad loads: where the bounds hold and no word is uncorrectable, `lds` of up to 8
bytes writes the zero-extended bytes to `gd`, of 16 bytes the two halves to `gd` and the register after it, and `vlds` writes a
vector. Past the bounds they trap SCRATCH_BOUNDS, and at an uncorrectable word UNCORRECTABLE. The model's choices here: log entry 18
(the `kinfo` of an uncorrectable scratchpad word). -/
def Obligations.ScratchpadLoadResult : Prop :=
  (∀ (s : State) (d a : Reg) (off : BitVec 11),
    (∀ sz : SSize, ScratchChecks (.lds sz d a off) s sz.bytes (s.th.ea a off sz.bytes)) ∧
    ScratchChecks (.vlds d a off) s 64 (s.th.ea a off 64) ∧
    ∀ la w, let lost := FirstWord (fun w => s.co.spoison.find w ≠ none) la
      (∀ sz : SSize, ScratchAt s a off sz.bytes la → lost sz.bytes w → Traps (.lds sz d a off) s 0x90 (BitVec.ofNat 64 (8 * w))) ∧
      (ScratchAt s a off 64 la → lost 64 w → Traps (.vlds d a off) s 0x90 (BitVec.ofNat 64 (8 * w)))) ∧
  ∀ (s : State) (d a : Reg) (off : BitVec 11) (la : Nat),
    (∀ sz : SSize, sz ≠ .q → ScratchAt s a off sz.bytes la → s.scrPoison la sz.bytes = .ok () →
      WritesG (.lds sz d a off) s d (BitVec.ofNat 64 (natOfBytes ((List.range sz.bytes).map fun i => s.co.scrByte (la + i))))) ∧
    (d.val < 31 → ScratchAt s a off 16 la → s.scrPoison la 16 = .ok () →
      ∃ t, exec (.lds .q d a off) s = .next t ∧ OnlyThread s t ∧ Keeps [d, d + 1] [] [] s.th t.th ∧
        t.th.rg d = (if d = 0 then 0 else BitVec.ofNat 64 (natOfBytes ((List.range 8).map fun i => s.co.scrByte (la + i)))) ∧
        t.th.rg (d + 1) = BitVec.ofNat 64 (natOfBytes ((List.range 8).map fun i => s.co.scrByte (la + 8 + i))) ∧
        t.th.kstat = s.th.kstat ∧ Completed t.th) ∧
    (ScratchAt s a off 64 la → s.scrPoison la 64 = .ok () →
      WritesV (.vlds d a off) s d (BitVec.ofNat 512 (natOfBytes ((List.range 64).map fun i => s.co.scrByte (la + i)))) 0)

/-- R122, R123, R165, R166, R172, R173, R281: scratchpad stores: where the bounds hold and no word is uncorrectable, the bytes of the register (or
registers, or vector) stand at the address, lowest first; every other byte, every full/empty bit and every register keeps
its value. Past the bounds they trap SCRATCH_BOUNDS, and at an uncorrectable word that they write in part UNCORRECTABLE. The model's
choices here: log entry 18 (the `kinfo` of an uncorrectable scratchpad word). -/
def Obligations.ScratchpadStoreResult : Prop :=
  (∀ (s : State) (d a : Reg) (off : BitVec 11),
    (∀ sz : SSize, ScratchChecks (.sts sz d a off) s sz.bytes (s.th.ea a off sz.bytes)) ∧
    ScratchChecks (.vsts d a off) s 64 (s.th.ea a off 64) ∧
    ∀ la w, let lost := fun n => FirstWord (fun w => s.co.spoison.find w ≠ none ∧ ¬ Covers la n w) la n w
      (∀ sz : SSize, ScratchAt s a off sz.bytes la → lost sz.bytes → Traps (.sts sz d a off) s 0x90 (BitVec.ofNat 64 (8 * w))) ∧
      (ScratchAt s a off 64 la → lost 64 → Traps (.vsts d a off) s 0x90 (BitVec.ofNat 64 (8 * w)))) ∧
  ∀ (s : State) (d a : Reg) (off : BitVec 11) (la : Nat), s.co.spoison = [] →
    (∀ sz : SSize, sz ≠ .q → ScratchAt s a off sz.bytes la →
      ∃ t, exec (.sts sz d a off) s = .next t ∧ Keeps [] [] [] s.th t.th ∧ Completed t.th ∧
        OnlyScratch s t (fun x => x < la ∨ la + sz.bytes ≤ x) ∧
        ∀ i, i < sz.bytes → t.co.scrByte (la + i) = BitVec.ofNat 8 ((s.th.rg d).toNat / 2 ^ (8 * i))) ∧
    (d.val < 31 → ScratchAt s a off 16 la →
      ∃ t, exec (.sts .q d a off) s = .next t ∧ Keeps [] [] [] s.th t.th ∧ Completed t.th ∧
        OnlyScratch s t (fun x => x < la ∨ la + 16 ≤ x) ∧
        ∀ i, i < 8 → t.co.scrByte (la + i) = BitVec.ofNat 8 ((s.th.rg d).toNat / 2 ^ (8 * i)) ∧
          t.co.scrByte (la + 8 + i) = BitVec.ofNat 8 ((s.th.rg (d + 1)).toNat / 2 ^ (8 * i))) ∧
    (ScratchAt s a off 64 la →
      ∃ t, exec (.vsts d a off) s = .next t ∧ Keeps [] [] [] s.th t.th ∧ Completed t.th ∧
        OnlyScratch s t (fun x => x < la ∨ la + 64 ≤ x) ∧
        ∀ i, i < 64 → t.co.scrByte (la + i) = BitVec.ofNat 8 ((s.th.rv d).toNat / 2 ^ (8 * i)))

/-- Context `c` of the issuing core waits with `fe.sload` for a word, and is not the issuing thread (R174). -/
def LoadWaits (s : State) (c w : Nat) (x : Wait) : Prop :=
  c < 16 ∧ threadOf s.ck c ≠ s.cur ∧ (s.thr (threadOf s.ck c)).st = .waiting ∧ (s.thr (threadOf s.ck c)).wait = some x ∧
  x.kind = .fullWord w

/-- A thread has trapped UNCORRECTABLE at a scratchpad word (R281). -/
def LostWord (t : State) (u w : Nat) : Prop :=
  (t.thr u).st = .trapped ∧ (t.thr u).kcause = 0x90 ∧ (t.thr u).kinfo = BitVec.ofNat 64 (8 * w)

/-- R124, R125, R165, R166, R174, R281: the full/empty forms on an aligned word `w` inside the bounds. `take` of a full word writes it
to `gd` and leaves it empty; of an empty word it waits in the word's list; `sload` of a full word reads it, of an empty one it
waits till the word is full; `put` to a word with no taker fills it with the register's value, which the loads that wait for it
take, and with takers gives that value to the register of the oldest and leaves the word as it is; `fill` clears the bit, or
with no taker sets it, the loads that wait taking the word's value, and with takers gives the word's value to the oldest. Where
the word is uncorrectable the form that would have its value traps: the `take` or the `sload` of a full word, and at a `fill`
the oldest taker or else each load that waits. An address that is no multiple of 8 traps MISALIGNED, one past the bounds
SCRATCH_BOUNDS. The model's choices here: log entries 18 (the `kinfo` of an uncorrectable scratchpad word) and 41. -/
def Obligations.FullEmptyForms : Prop :=
  (∀ (s : State) (d a : Reg) (off : BitVec 11) (i : Instr),
    i = .feTake d a off ∨ i = .fePut d a off ∨ i = .feSload d a off ∨ i = .feFill d a off →
    BlockChecks i s 8 8 (s.th.ea a off 8)) ∧
  ∀ (s : State) (d a : Reg) (off : BitVec 11) (w : Nat), ScratchAt s a off 8 (8 * w) → s.th.st = .ready →
    (s.scrPoison (8 * w) 8 = .ok () →
      (s.co.isFull w = true →
        (∃ t, exec (.feTake d a off) s = .next t ∧ t.th.rg d = (if d = 0 then 0 else s.co.scratch.get 0 w) ∧
          Keeps [d] [] [] s.th t.th ∧ Completed t.th ∧ t.co.isFull w = false ∧ t.co.scratch = s.co.scratch ∧
          ∀ v, v ≠ w → t.co.isFull v = s.co.isFull v) ∧
        WritesG (.feSload d a off) s d (s.co.scratch.get 0 w)) ∧
      (s.co.isFull w = false →
        (∃ t, exec (.feTake d a off) s = .next t ∧ t.th.st = .waiting ∧ t.th.pc = s.th.pc ∧
          t.co.takersOf w = s.co.takersOf w ++ [s.cur] ∧ Keeps [] [] [] s.th t.th) ∧
        ∃ t x, exec (.feSload d a off) s = .next t ∧ OnlyThread s t ∧ Keeps [] [] [] s.th t.th ∧ t.th.st = .waiting ∧
          t.th.pc = s.th.pc ∧ t.th.wait = some x ∧ x.kind = .fullWord w ∧ x.d = d) ∧
      (s.co.takersOf w = [] →
        ∃ t, exec (.fePut d a off) s = .next t ∧ t.co.isFull w = true ∧ t.co.scratch.get 0 w = s.th.rg d ∧
          (∀ v, v ≠ w → t.co.scratch.get 0 v = s.co.scratch.get 0 v ∧ t.co.isFull v = s.co.isFull v) ∧ Completed t.th ∧
          Keeps [] [] [] s.th t.th ∧
          ∀ c x, LoadWaits s c w x → (t.thr (threadOf s.ck c)).st = .ready ∧
            (t.thr (threadOf s.ck c)).rg x.d = (if x.d = 0 then 0 else s.th.rg d)) ∧
      (∀ u r x, s.co.takersOf w = u :: r → u ≠ s.cur → (s.thr u).wait = some x →
        (∃ t, exec (.fePut d a off) s = .next t ∧ t.co.takersOf w = r ∧ t.co.empty = s.co.empty ∧
          t.co.scratch = s.co.scratch ∧ (t.thr u).st = .ready ∧ (t.thr u).rg x.d = (if x.d = 0 then 0 else s.th.rg d) ∧
          Completed t.th ∧ Keeps [] [] [] s.th t.th) ∧
        (bitAt (s.th.rg d) 0 = true → ∃ t, exec (.feFill d a off) s = .next t ∧ t.co.takersOf w = r ∧
          t.co.empty = s.co.empty ∧ t.co.scratch = s.co.scratch ∧ (t.thr u).st = .ready ∧
          (t.thr u).rg x.d = (if x.d = 0 then 0 else s.co.scratch.get 0 w) ∧ Completed t.th ∧ Keeps [] [] [] s.th t.th)) ∧
      (bitAt (s.th.rg d) 0 = false → ∃ t, exec (.feFill d a off) s = .next t ∧ t.co.isFull w = false ∧
        t.co.scratch = s.co.scratch ∧ Completed t.th ∧ Keeps [] [] [] s.th t.th) ∧
      (bitAt (s.th.rg d) 0 = true → s.co.takersOf w = [] →
        ∃ t, exec (.feFill d a off) s = .next t ∧ t.co.isFull w = true ∧ t.co.scratch = s.co.scratch ∧ Completed t.th ∧
          Keeps [] [] [] s.th t.th ∧
          ∀ c x, LoadWaits s c w x → (t.thr (threadOf s.ck c)).st = .ready ∧
            (t.thr (threadOf s.ck c)).rg x.d = (if x.d = 0 then 0 else s.co.scratch.get 0 w))) ∧
    (s.co.spoison.find w ≠ none →
      (s.co.isFull w = true → Traps (.feTake d a off) s 0x90 (BitVec.ofNat 64 (8 * w)) ∧
        Traps (.feSload d a off) s 0x90 (BitVec.ofNat 64 (8 * w))) ∧
      (bitAt (s.th.rg d) 0 = true →
        (∀ u r, s.co.takersOf w = u :: r → u ≠ s.cur → ∃ t, exec (.feFill d a off) s = .next t ∧ t.co.takersOf w = r ∧
          LostWord t u w ∧ Completed t.th ∧ Keeps [] [] [] s.th t.th) ∧
        (s.co.takersOf w = [] → ∃ t, exec (.feFill d a off) s = .next t ∧ t.co.isFull w = true ∧ Completed t.th ∧
          Keeps [] [] [] s.th t.th ∧ ∀ c x, LoadWaits s c w x → LostWord t (threadOf s.ck c) w)))

/-! ## The vector unit -/

/-- The vector form completes: the lanes of `w` bits that `on` selects take their new values, every other lane keeps its
own, and `flags` are added to the status register. -/
def WritesLanes (i : Instr) (s : State) (d : Reg) (w : Nat) (on : Nat → Bool) (f : Nat → Nat) (flags : Nat) : Prop :=
  ∃ x, WritesV i s d x flags ∧ ∀ k, k < 512 / w → lane w x k = if on k then f k % 2 ^ w else lane w (s.th.rv d) k

/-- The flags that the lanes below `n` that `on` selects raise together (R50). -/
def lanesRaise (n : Nat) (on : Nat → Bool) (f : Nat → Nat) : Nat :=
  (List.range n).foldl (fun a k => if on k then a ||| f k else a) 0

/-- A floating vector form (R51): it completes as `done` says, its flags raised, or, where a raised flag has its trap
enabled, it traps FP_TRAP with all of them. -/
def FloatOut (i : Instr) (s : State) (flags : Nat) (done : Prop) : Prop :=
  (flags &&& s.th.te = 0 → done) ∧ (flags &&& s.th.te ≠ 0 → Traps i s 0x80 (BitVec.ofNat 64 flags))

/-- Lane functions of `vfp` (Table 6-1): from the format, the rounding mode and the lanes of `va`, `vb` and `vd`, the
result and its flags. -/
def floatResults : List ((FTy → MReg → Reg → Reg → Reg → Instr) × (Fmt → Nat → Nat → Nat → Nat → Nat × Nat)) := [
  (Instr.vfpAdd, fun f rm x y _ => fpAdd f rm false x y),
  (Instr.vfpSub, fun f rm x y _ => fpAdd f rm true x y),
  (Instr.vfpMul, fun f rm x y _ => fpMul f rm x y),
  (Instr.vfpDiv, fun f rm x y _ => fpDiv f rm x y),
  (Instr.vfpFma, fun f rm x y z => fpFma f rm false false x y z),
  (Instr.vfpFms, fun f rm x y z => fpFma f rm false true x y z),
  (Instr.vfpFnma, fun f rm x y z => fpFma f rm true false x y z),
  (Instr.vfpMin, fun f _ x y _ => fpMin f x y),
  (Instr.vfpMax, fun f _ x y _ => fpMax f x y),
  (Instr.vfpSgnj, fun f _ x y _ => (x % f.sign + y / f.sign % 2 * f.sign, 0)),
  (fun t m d a _ => Instr.vfpSqrt t m d a, fun f rm x _ _ => fpSqrt f rm x),
  (fun t m d a _ => Instr.vfpAbs t m d a, fun f _ x _ _ => (x % f.sign, 0)),
  (fun t m d a _ => Instr.vfpNeg t m d a, fun f _ x _ _ => (x % f.sign + (1 - x / f.sign % 2) * f.sign, 0))]

/-- Two FP32 values that are no NaN are equal, or the first lies below the second: -0 equals +0 (R146). -/
def floatOrder (x y : Nat) : Bool × Bool :=
  let z := (unpack fmt32 x).isZero && (unpack fmt32 y).isZero
  (z || x == y, !z && fpBelow fmt32 x y)

/-- Conditions of the floating comparisons (R146): whether the form raises NV on a quiet NaN, its answer on a NaN, and its
answer on two other values. -/
def floatCompares : List ((MReg → MReg → Reg → Reg → Instr) × Bool × Bool × (Bool × Bool → Bool)) := [
  (Instr.vfpCeq, false, false, fun o => o.1),
  (Instr.vfpClt, true, false, fun o => o.2),
  (Instr.vfpCle, true, false, fun o => o.1 || o.2),
  (Instr.vfpCun, false, true, fun _ => false)]

/-- A pattern of a format that is a NaN (R48). -/
def NanIn (f : Fmt) (a : Nat) : Prop := a / 2 ^ f.fb % 2 ^ f.eb = f.top ∧ a % 2 ^ f.fb ≠ 0

/-- The infinity of a sign bit (R48). -/
def infinityOf (f : Fmt) (sign : Nat) : Nat := sign * f.sign + f.top * 2 ^ f.fb

/-- R52, R145: the result of operands one of which is a NaN: the first NaN of them with its quiet bit set; NV just where one of
them is a signalling NaN or `bad` holds. -/
def NanResult (f : Fmt) (xs : List Nat) (bad : Prop) (r : Nat × Nat) : Prop :=
  (∃ i x : Nat, xs[i]? = some x ∧ NanIn f x ∧ (∀ j y : Nat, j < i → xs[j]? = some y → ¬ NanIn f y) ∧ r.1 = x ||| 2 ^ (f.fb - 1)) ∧
  (r.2 = 0 ∨ r.2 = fNV) ∧ (r.2 = fNV ↔ bad ∨ ∃ y ∈ xs, NanIn f y ∧ y.testBit (f.fb - 1) = false)

/-- A pattern below the bound of a format that is neither a NaN nor an infinity; zeros among them. -/
def FiniteIn (f : Fmt) (a : Nat) : Prop := a < 2 * f.sign ∧ a / 2 ^ f.fb % 2 ^ f.eb ≠ f.top

/-- Value order of two patterns that are no NaN, -0 below +0 (R145): by sign, and by magnitude within a sign. -/
def LowerIn (f : Fmt) (a b : Nat) : Prop :=
  a / f.sign = 1 ∧ b / f.sign = 0 ∨ a / f.sign = 0 ∧ b / f.sign = 0 ∧ a < b ∨ a / f.sign = 1 ∧ b / f.sign = 1 ∧ b < a

/-- R50, R52, R144, R145: the results of the arithmetic on NaNs and on infinities, in each format and under each rounding mode:
the NaN of R52 where an operand is one, the default NaN with NV where the operation is invalid, else the infinity or the zero
of the sign that the operands give; and the lesser and the greater of two operands. -/
def SpecialValues : Prop :=
  (defaultNaN fmt32 = 0x7FC00000 ∧ defaultNaN fmt16 = 0x7E00 ∧ defaultNaN fmtB16 = 0x7FC0) ∧
  ∀ f ∈ [fmt32, fmt16, fmtB16], ∀ (rm a b c : Nat) (sub np nc : Bool), a < 2 * f.sign → b < 2 * f.sign → c < 2 * f.sign →
    let inf := infinityOf f
    let zero := fun x => x % f.sign = 0
    let sa := a / f.sign
    let sb := b / f.sign
    let invalid : Nat × Nat := (defaultNaN f, fNV)
    (NanIn f a ∨ NanIn f b → ∀ op ∈ [fpAdd f rm false, fpAdd f rm true, fpMul f rm, fpDiv f rm, fpMin f, fpMax f],
      NanResult f [a, b] False (op a b)) ∧
    (NanIn f a → NanResult f [a] False (fpSqrt f rm a)) ∧
    (NanIn f a ∨ NanIn f b ∨ NanIn f c → NanResult f [a, b, c]
      ((∃ n, a = inf n) ∧ zero b ∨ zero a ∧ ∃ n, b = inf n) (fpFma f rm np nc a b c)) ∧
    (∀ n m, n < 2 → m < 2 →
      (FiniteIn f b → fpAdd f rm sub (inf n) b = (inf n, 0) ∧ fpAdd f rm sub b (inf n) = (inf ((n + sub.toNat) % 2), 0) ∧
        (zero b → fpMul f rm (inf n) b = invalid ∧ fpMul f rm b (inf n) = invalid) ∧
        (¬ zero b → fpMul f rm (inf n) b = (inf ((n + sb) % 2), 0) ∧ fpMul f rm b (inf n) = (inf ((n + sb) % 2), 0)) ∧
        fpDiv f rm (inf n) b = (inf ((n + sb) % 2), 0) ∧ fpDiv f rm b (inf n) = ((n + sb) % 2 * f.sign, 0)) ∧
      fpAdd f rm sub (inf n) (inf m) = (if n = (m + sub.toNat) % 2 then (inf n, 0) else invalid) ∧
      fpMul f rm (inf n) (inf m) = (inf ((n + m) % 2), 0) ∧ fpDiv f rm (inf n) (inf m) = invalid ∧
      (¬ NanIn f c → (zero b → fpFma f rm np nc (inf n) b c = invalid ∧ fpFma f rm np nc b (inf n) c = invalid) ∧
        (¬ NanIn f b → ¬ zero b → let sp := (n + sb + np.toNat) % 2
          ∀ x y, x = inf n ∧ y = b ∨ x = b ∧ y = inf n →
            fpFma f rm np nc x y c = if c = inf ((sp + 1 + nc.toNat) % 2) then invalid else (inf sp, 0))) ∧
      (FiniteIn f a → FiniteIn f b → fpFma f rm np nc a b (inf n) = (inf ((n + nc.toNat) % 2), 0))) ∧
    (zero a → zero b → fpDiv f rm a b = invalid) ∧
    fpSqrt f rm (inf 0) = (inf 0, 0) ∧ (sa = 1 → ¬ zero a → ¬ NanIn f a → fpSqrt f rm a = invalid) ∧
    (¬ NanIn f a → ¬ NanIn f b → (LowerIn f a b → fpMin f a b = (a, 0) ∧ fpMax f a b = (b, 0)) ∧
      (LowerIn f b a → fpMin f a b = (b, 0) ∧ fpMax f a b = (a, 0)) ∧ fpMin f a a = (a, 0) ∧ fpMax f a a = (a, 0))

/-- R50 to R52, R140, R144 to R147: every `vfp` form: active lanes take the result of Table 6-1 under `kstat.rm`, inactive
lanes keep theirs, and the raised flags are added or trap; a comparison writes a mask whose bit is 0 for an inactive
lane. On a NaN or an infinity the result is the one that R50, R52 and R145 give. -/
def Obligations.VectorFloatResult : Prop :=
  SpecialValues ∧
  (∀ e ∈ floatResults, ∀ (s : State) (ty : FTy) (m : MReg) (d a b : Reg),
    let w := fw ty
    let on := fun k => act w (s.th.rm m) k
    let r := fun k => e.2 (fmtOf ty) s.th.round (lane w (s.th.rv a) k) (lane w (s.th.rv b) k) (lane w (s.th.rv d) k)
    let flags := lanesRaise (512 / w) on fun k => (r k).2
    FloatOut (e.1 ty m d a b) s flags (WritesLanes (e.1 ty m d a b) s d w on (fun k => (r k).1) flags)) ∧
  (∀ e ∈ floatCompares, ∀ (s : State) (m d : MReg) (a b : Reg),
    let x := fun k => lane 32 (s.th.rv a) k
    let y := fun k => lane 32 (s.th.rv b) k
    let on := fun k => (s.th.rm m).getLsbD k
    let nan := fun k => (unpack fmt32 (x k)).isNan || (unpack fmt32 (y k)).isNan
    let sig := fun k => isSignalling fmt32 (x k) || isSignalling fmt32 (y k)
    let flags := lanesRaise 16 on fun k => if sig k || (e.2.1 && nan k) then 1 else 0
    FloatOut (e.1 m d a b) s flags (∃ r, WritesM (e.1 m d a b) s d r flags ∧
      ∀ k, k < 16 → r.getLsbD k = (on k && if nan k then e.2.2.1 else e.2.2.2 (floatOrder (x k) (y k)))))

/-- Lane functions of `vint` (Table 6-2), written as arithmetic on bit vectors. -/
def integerLanes : List ((ITy → MReg → Reg → Reg → Reg → Instr) × ((w : Nat) → BitVec w → BitVec w → BitVec w)) := [
  (Instr.vintAdd, fun _ x y => x + y),
  (Instr.vintSub, fun _ x y => x - y),
  (Instr.vintAdds, fun w x y => BitVec.ofInt w (max (-(2 ^ (w - 1))) (min (2 ^ (w - 1) - 1) (x.toInt + y.toInt)))),
  (Instr.vintAddus, fun w x y => BitVec.ofNat w (min (2 ^ w - 1) (x.toNat + y.toNat))),
  (Instr.vintSubs, fun w x y => BitVec.ofInt w (max (-(2 ^ (w - 1))) (min (2 ^ (w - 1) - 1) (x.toInt - y.toInt)))),
  (Instr.vintSubus, fun w x y => BitVec.ofNat w (x.toNat - y.toNat)),
  (Instr.vintMul, fun _ x y => x * y),
  (Instr.vintMulh, fun w x y => BitVec.ofInt w (x.toInt * y.toInt / 2 ^ w)),
  (Instr.vintAnd, fun _ x y => x &&& y),
  (Instr.vintOr, fun _ x y => x ||| y),
  (Instr.vintXor, fun _ x y => x ^^^ y),
  (Instr.vintAndn, fun _ x y => x &&& ~~~ y),
  (Instr.vintSll, fun w x y => x <<< (y.toNat % w)),
  (Instr.vintSrl, fun w x y => x >>> (y.toNat % w)),
  (Instr.vintSra, fun w x y => x.sshiftRight (y.toNat % w)),
  (Instr.vintMin, fun _ x y => if x.toInt ≤ y.toInt then x else y),
  (Instr.vintMax, fun _ x y => if y.toInt ≤ x.toInt then x else y),
  (Instr.vintMinu, fun _ x y => if x.toNat ≤ y.toNat then x else y),
  (Instr.vintMaxu, fun _ x y => if y.toNat ≤ x.toNat then x else y)]

/-- Conditions of the integer comparisons on 32-bit lanes (R148). -/
def integerCompares : List ((MReg → MReg → Reg → Reg → Instr) × (BitVec 32 → BitVec 32 → Bool)) := [
  (Instr.vintCeq, fun x y => x == y),
  (Instr.vintClt, fun x y => decide (x.toInt < y.toInt)),
  (Instr.vintCltu, fun x y => decide (x.toNat < y.toNat))]

/-- A lane of a vector as a bit vector. -/
def laneBits (w : Nat) (v : VReg) (k : Nat) : BitVec w := BitVec.ofNat w (lane w v k)

/-- R140, R148: every `vint` form completes in every state: active lanes take the result of Table 6-2, inactive lanes keep
theirs, and no flag changes; a comparison writes a mask whose bit is 0 for an inactive lane. -/
def Obligations.VectorIntegerResult : Prop :=
  (∀ e ∈ integerLanes, ∀ (s : State) (ty : ITy) (m : MReg) (d a b : Reg),
    WritesLanes (e.1 ty m d a b) s d (iw ty) (act (iw ty) (s.th.rm m))
      (fun k => (e.2 (iw ty) (laneBits (iw ty) (s.th.rv a) k) (laneBits (iw ty) (s.th.rv b) k)).toNat) 0) ∧
  (∀ e ∈ integerCompares, ∀ (s : State) (m d : MReg) (a b : Reg), ∃ r, WritesM (e.1 m d a b) s d r 0 ∧
    ∀ k, k < 16 → r.getLsbD k = ((s.th.rm m).getLsbD k && e.2 (laneBits 32 (s.th.rv a) k) (laneBits 32 (s.th.rv b) k)))

/-- The narrowing rows of `vcvt` (R149): the result's format and its first 16-bit lane. -/
def narrowRows : List ((CRnd → MReg → Reg → Reg → Instr) × Fmt × Nat) := [
  (Instr.vcvtNf16l, fmt16, 0), (Instr.vcvtNf16h, fmt16, 16), (Instr.vcvtNbf16l, fmtB16, 0), (Instr.vcvtNbf16h, fmtB16, 16)]

/-- The widening rows of `vcvt` (R149): the source's format and its first 16-bit lane. -/
def widenRows : List ((MReg → Reg → Reg → Instr) × Fmt × Nat) := [
  (Instr.vcvtWf16l, fmt16, 0), (Instr.vcvtWf16h, fmt16, 16), (Instr.vcvtWbf16l, fmtB16, 0), (Instr.vcvtWbf16h, fmtB16, 16)]

/-- The rows of `vcvt` on 32-bit lanes (R150): from the rounding mode and a lane, the result and its flags. -/
def convertRows : List ((CRnd → MReg → Reg → Reg → Instr) × (Nat → Nat → Int × Nat)) := [
  (Instr.vcvtFtoi, fun rm x => fpToInt rm (-(2 ^ 31)) (2 ^ 31 - 1) x),
  (Instr.vcvtFtou, fun rm x => fpToInt rm 0 (2 ^ 32 - 1) x),
  (Instr.vcvtItof, fun rm x => (((intToFp rm (BitVec.ofNat 32 x).toInt).1 : Int), (intToFp rm (BitVec.ofNat 32 x).toInt).2)),
  (Instr.vcvtUtof, fun rm x => (((intToFp rm x).1 : Int), (intToFp rm x).2)),
  (Instr.vcvtRint, fun rm x => (((fpRint rm x).1 : Int), (fpRint rm x).2))]

/-- The float reductions (R152): the value of no lane, and the node of the tree. -/
def floatReductions : List ((FTy → MReg → Reg → Reg → Instr) × (Fmt → Nat) × (Fmt → Nat → Nat → Nat → Nat × Nat)) := [
  (Instr.vpermFsum, fun _ => 0, fun f rm x y => fpAdd f rm false x y),
  (Instr.vpermFmax, defaultNaN, fun f _ x y => fpMax f x y),
  (Instr.vpermFmin, defaultNaN, fun f _ x y => fpMin f x y)]

/-- The integer reductions (R152), on the numbers of the active lanes. -/
def integerReductions : List ((ITy → MReg → Reg → Reg → Instr) × (Nat → List Nat → Int)) := [
  (Instr.vpermIsum, fun _ xs => (xs.sum : Nat)),
  (Instr.vpermImax, fun w xs => xs.foldl (fun m x => max m (BitVec.ofNat w x).toInt) (-(2 ^ (w - 1)))),
  (Instr.vpermImin, fun w xs => xs.foldl (fun m x => min m (BitVec.ofNat w x).toInt) (2 ^ (w - 1) - 1)),
  (Instr.vpermImaxu, fun _ xs => (xs.foldl max 0 : Nat)),
  (Instr.vpermIminu, fun w xs => (xs.foldl min (2 ^ w - 1) : Nat))]

/-- R149, R150: the conversions: the lanes that the mask selects take the converted value, all others keep theirs. -/
def ConversionsHold : Prop :=
  (∀ e ∈ narrowRows, ∀ (s : State) (c : CRnd) (m : MReg) (d a : Reg),
    let on := fun k => decide (e.2.2 ≤ k ∧ k < e.2.2 + 16) && (s.th.rm m).getLsbD (k - e.2.2)
    let r := fun k => fpConvert fmt32 e.2.1 (s.th.cvtRound c) (lane 32 (s.th.rv a) (k - e.2.2))
    let flags := lanesRaise 32 on fun k => (r k).2
    FloatOut (e.1 c m d a) s flags (WritesLanes (e.1 c m d a) s d 16 on (fun k => (r k).1) flags)) ∧
  (∀ e ∈ widenRows, ∀ (s : State) (m : MReg) (d a : Reg),
    let on := (s.th.rm m).getLsbD
    let r := fun k => fpConvert e.2.1 fmt32 0 (lane 16 (s.th.rv a) (e.2.2 + k))
    let flags := lanesRaise 16 on fun k => (r k).2
    FloatOut (e.1 m d a) s flags (WritesLanes (e.1 m d a) s d 32 on (fun k => (r k).1) flags)) ∧
  (∀ e ∈ convertRows, ∀ (s : State) (c : CRnd) (m : MReg) (d a : Reg),
    let on := (s.th.rm m).getLsbD
    let r := fun k => e.2 (s.th.cvtRound c) (lane 32 (s.th.rv a) k)
    let flags := lanesRaise 16 on fun k => (r k).2
    FloatOut (e.1 c m d a) s flags (WritesLanes (e.1 c m d a) s d 32 on (fun k => (BitVec.ofInt 32 (r k).1).toNat) flags))

/-- R52, R53, R150: the conversions of NaNs and infinities: a NaN keeps the high bits of its payload, at the top of a wider
fraction, with its quiet bit set, and NV where it was signalling; to an integer it gives 0 and an infinity the end of the range
of its sign, with NV; `rint` returns an infinity as it is. -/
def ConvertedSpecials : Prop :=
  ∀ rm, rm < 4 →
    (∀ p ∈ [(fmt32, fmt16), (fmt32, fmtB16), (fmt16, fmt32), (fmtB16, fmt32)], ∀ a, a < 2 * p.1.sign →
      (∀ n, n < 2 → fpConvert p.1 p.2 rm (infinityOf p.1 n) = (infinityOf p.2 n, 0)) ∧
      (NanIn p.1 a → ∃ fr fl, fpConvert p.1 p.2 rm a = (infinityOf p.2 (a / p.1.sign) + fr, fl) ∧
        (∀ j, fr.testBit j = (decide (j < p.2.fb) && (decide (j = p.2.fb - 1) || (decide (p.2.fb ≤ j + p.1.fb) &&
          a.testBit (j + p.1.fb - p.2.fb))))) ∧
        (fl = 0 ∨ fl = fNV) ∧ (fl = fNV ↔ a.testBit (p.1.fb - 1) = false))) ∧
    (∀ (lo hi : Int) (a : Nat), NanIn fmt32 a → fpToInt rm lo hi a = (0, fNV)) ∧
    (∀ lo hi : Int, fpToInt rm lo hi (infinityOf fmt32 0) = (hi, fNV) ∧ fpToInt rm lo hi (infinityOf fmt32 1) = (lo, fNV)) ∧
    (∀ n, n < 2 → fpRint rm (infinityOf fmt32 n) = (infinityOf fmt32 n, 0)) ∧
    (∀ a, a < 2 ^ 32 → NanIn fmt32 a → NanResult fmt32 [a] False (fpRint rm a))

/-- R52, R53, R77, R149, R150, R152, R155: the conversions convert the lanes that their mask selects, by their rounding field;
the reductions write lane 0 and clear every other lane; a matrix form adds to each lane of a group
the products of the group's live columns, lowest first. -/
def Obligations.VectorConversionAndReduction : Prop :=
  ConversionsHold ∧ ConvertedSpecials ∧
  (∀ e ∈ floatReductions, ∀ (s : State) (ty : FTy) (m : MReg) (d a : Reg),
    let w := fw ty
    let xs := (List.range (512 / w)).map fun k => if act w (s.th.rm m) k then some (lane w (s.th.rv a) k) else none
    let r := treeReduce (e.2.2 (fmtOf ty) s.th.round) (if w = 32 then 4 else 5) xs
    FloatOut (e.1 ty m d a) s r.2 (WritesV (e.1 ty m d a) s d (BitVec.ofNat 512 (r.1.getD (e.2.1 (fmtOf ty)))) r.2)) ∧
  (∀ e ∈ integerReductions, ∀ (s : State) (ty : ITy) (m : MReg) (d a : Reg),
    let w := iw ty
    let xs := ((List.range (512 / w)).filter (act w (s.th.rm m))).map (lane w (s.th.rv a))
    WritesLanes (e.1 ty m d a) s d w (fun _ => true) (fun k => if k = 0 then (BitVec.ofInt w (e.2 w xs)).toNat else 0) 0) ∧
  (∀ (s : State) (ty : GSize) (m : MReg) (d a b : Reg) (i : Instr) (keep : Bool),
    i = (if keep then .vbmmMma ty m d a b else .vbmmMm ty m d a b) →
    let n := fun l => ((List.range ty.lanes).filter fun j => (s.th.rm m).getLsbD (l / ty.lanes * ty.lanes + j)).length
    let r := fun l => bmmLane s.th a b (l / ty.lanes * ty.lanes) l (n l) (if keep then lane 32 (s.th.rv d) l else 0, 0)
    let flags := lanesRaise 16 (fun _ => true) fun l => (r l).2
    FloatOut i s flags (WritesLanes i s d 32 (fun _ => true) (fun l => (r l).1) flags))

/-- The number of set bits of a mask below bit `k`. -/
def rankOf (m : LMask) (k : Nat) : Nat := ((List.range k).filter m.getLsbD).length

/-- Results of the mask forms on two masks (R154). -/
def maskResults : List ((MReg → MReg → MReg → Instr) × (Bool → Bool → Bool)) := [
  (Instr.vmskAnd, fun x y => x && y), (Instr.vmskOr, fun x y => x || y), (Instr.vmskXor, fun x y => x ^^ y),
  (Instr.vmskAndn, fun x y => x && !y), (fun d a _ => Instr.vmskNot d a, fun x _ => !x)]

/-- R151, R153, R154, R157: the permutes, the moves and the mask forms complete in every state. -/
def Obligations.VectorMoveResult : Prop :=
  (∀ (s : State) (ty : ITy) (m : MReg) (d a b : Reg) (n : BitVec 5),
    let w := iw ty
    let on := act w (s.th.rm m)
    let from_ := fun (i : Nat → Nat) (k : Nat) => lane w (s.th.rv a) (i k % (512 / w))
    WritesLanes (.vpermPerm ty m d a b) s d w on (from_ fun k => lane w (s.th.rv b) k) 0 ∧
    WritesLanes (.vpermBcl ty m d a n) s d w on (from_ fun _ => n.toNat) 0 ∧
    WritesLanes (.vpermRot ty m d a n) s d w on (from_ fun k => k + n.toNat) 0 ∧
    WritesLanes (.vmovMov ty m d a) s d w on (from_ id) 0 ∧
    WritesLanes (.vmovSel ty m d a b) s d w (fun _ => true)
      (fun k => if on k then lane w (s.th.rv a) k else lane w (s.th.rv b) k) 0 ∧
    WritesLanes (.vmovBcg ty m d a) s d w on (fun _ => (s.th.rg a).toNat) 0 ∧
    WritesLanes (.vmovIns ty d a b) s d w (fun k => k == (s.th.rg b).toNat % (512 / w)) (fun _ => (s.th.rg a).toNat) 0 ∧
    WritesG (.vmovExt ty d a b) s d (BitVec.ofNat 64 (lane w (s.th.rv a) ((s.th.rg b).toNat % (512 / w)))) ∧
    WritesLanes (.vmovIota ty m d) s d w on id 0) ∧
  (∀ (s : State) (m : MReg) (d a b : Reg), ∃ x y, WritesV (.vpermCmpr m d a b) s d x 0 ∧ WritesV (.vpermExpd m d a b) s d y 0 ∧
    (∀ k, k < 16 → (s.th.rm m).getLsbD k = true → lane 32 x (rankOf (s.th.rm m) k) = lane 32 (s.th.rv a) k) ∧
    (∀ k, rankOf (s.th.rm m) 16 + k < 16 → lane 32 x (rankOf (s.th.rm m) 16 + k) = lane 32 (s.th.rv b) k) ∧
    (∀ k, k < 16 → lane 32 y k =
      if (s.th.rm m).getLsbD k then lane 32 (s.th.rv a) (rankOf (s.th.rm m) k) else lane 32 (s.th.rv b) k)) ∧
  (∀ e ∈ maskResults, ∀ (s : State) (d a b : MReg), ∃ x, WritesM (e.1 d a b) s d x 0 ∧
    ∀ k, k < 16 → x.getLsbD k = e.2 ((s.th.rm a).getLsbD k) ((s.th.rm b).getLsbD k)) ∧
  (∀ (s : State) (ty : GSize) (d : MReg) (a : Reg) (r : Reg) (c : MReg), ∃ x y z,
    WritesM (.vmskFromg d a) s d x 0 ∧ WritesM (.vmskPre d a) s d y 0 ∧ WritesM (.vmskGlen ty d a) s d z 0 ∧
    (∀ k, k < 16 → x.getLsbD k = (s.th.rg a).getLsbD k ∧ y.getLsbD k = decide (k < (s.th.rg a).toNat) ∧
      z.getLsbD k = decide (k % ty.lanes < (s.th.rg a).toNat / 2 ^ (5 * (k / ty.lanes)) % 32)) ∧
    WritesG (.vmskTog r c) s r (BitVec.ofNat 64 (s.th.rm c).toNat) ∧
    WritesG (.vmskPopc r c) s r (BitVec.ofNat 64 (rankOf (s.th.rm c) 16)) ∧
    WritesG (.vmskFirst r c) s r (BitVec.ofNat 64 (((List.range 16).find? (s.th.rm c).getLsbD).getD 16)))

/-- The rational number that a sign, a magnitude and an exponent of two stand for. -/
def rational (neg : Bool) (m : Nat) (e : Int) : ℚ := (if neg then -1 else 1) * (m : ℚ) * (2 : ℚ) ^ e

/-- A finite pattern of a format stands for a number. -/
def IsNumber (f : Fmt) (p : Nat) (x : ℝ) : Prop := ∃ n m e, unpack f p = .fin n m e ∧ x = ((rational n m e : ℚ) : ℝ)

/-- R49, R50: a pattern and flags are what rounding a number other than 0 under a mode gives. A finite result has the sign of
the number; NX is raised just where it differs from it; and among the values of the format it is a nearest one, of two the
one with an even pattern (`rne`), the greatest in magnitude that is not above the number's (`rtz`), the least not below the
number (`rup`), or the greatest not above it (`rdn`). An infinity is the overflow of a number beyond every finite value. -/
def RoundedTo (f : Fmt) (rm : Nat) (x : ℝ) (r : Nat × Nat) : Prop :=
  (∀ y, IsNumber f r.1 y → (r.2 &&& fNX = 0 ↔ y = x) ∧ (r.1 / f.sign % 2 = 1 ↔ x < 0) ∧
    ∀ p z, IsNumber f p z →
      (rm = 0 → |y - x| ≤ |z - x| ∧ (|y - x| = |z - x| → y = z ∨ r.1 % 2 = 0)) ∧
      (rm = 1 → |y| ≤ |x| ∧ (|z| ≤ |x| → |z| ≤ |y|)) ∧
      (rm = 2 → x ≤ y ∧ (x ≤ z → y ≤ z)) ∧ (rm = 3 → y ≤ x ∧ (z ≤ x → z ≤ y))) ∧
  ((∀ y, ¬ IsNumber f r.1 y) →
    r.2 = fOF + fNX ∧
      (r.1 = f.top * 2 ^ f.fb ∧ 0 < x ∧ rm ≠ 1 ∧ rm ≠ 3 ∨ r.1 = f.sign + f.top * 2 ^ f.fb ∧ x < 0 ∧ rm ≠ 1 ∧ rm ≠ 2) ∧
    ∀ p z, IsNumber f p z → |z| < |x|)

/-- The sum `x` of two numbers in a result: rounded, or an exact zero with the sign that R49 gives it; `same` is the sign bit
of the operands where both are zeros of one sign. -/
def SumTo (f : Fmt) (rm : Nat) (x : ℝ) (same : Option Nat) (r : Nat × Nat) : Prop :=
  (x ≠ 0 → RoundedTo f rm x r) ∧
  (x = 0 → r = ((same.getD (if rm = 3 then 1 else 0)) * f.sign, 0))

/-- The node over 2 ^ `n` lanes from lane `lo` on of the tree of R77: its lower half combined with its upper half; a half with
no active lane passes the other on. -/
def treeNode (op : Nat → Nat → Nat × Nat) (xs : List (Option Nat)) : Nat → Nat → Option Nat × Nat
  | 0, lo => ((xs[lo]?).join, 0)
  | n + 1, lo =>
    let l := treeNode op xs n lo
    let r := treeNode op xs n (lo + 2 ^ n)
    match l.1, r.1 with
    | some a, some b => (some (op a b).1, l.2 ||| r.2 ||| (op a b).2)
    | some a, none => (some a, l.2 ||| r.2)
    | none, b => (b, l.2 ||| r.2)

/-- A whole number is what rounding a number to one gives under a mode (Table 3-2). -/
def RoundsToWhole (rm : Nat) (x : ℝ) (k : Int) : Prop :=
  (rm = 0 → |(k : ℝ) - x| ≤ 1 / 2 ∧ (|(k : ℝ) - x| = 1 / 2 → k % 2 = 0)) ∧
  (rm = 1 → |(k : ℝ)| ≤ |x| ∧ |x| < |(k : ℝ)| + 1 ∧ 0 ≤ (k : ℝ) * x) ∧
  (rm = 2 → x ≤ k ∧ (k : ℝ) < x + 1) ∧ (rm = 3 → (k : ℝ) ≤ x ∧ x < k + 1)

/-- R53, R150: conversions of finite numbers: between formats and from an integer, the number rounded once (widening is
exact); to an integer, the number rounded to a whole one, with NX where it differs, or the nearer end of the range with NV;
`rint` gives the whole number itself with the sign of its source, and a whole source unchanged. -/
def ConvertedValues : Prop :=
  ∀ rm, rm < 4 →
    (∀ p ∈ [(fmt32, fmt16), (fmt32, fmtB16), (fmt16, fmt32), (fmtB16, fmt32)], ∀ (a : Nat) (x : ℝ), a < 2 * p.1.sign →
      IsNumber p.1 a x → let r := fpConvert p.1 p.2 rm a
      (x ≠ 0 → RoundedTo p.2 rm x r) ∧ (x = 0 → r = (a / p.1.sign * p.2.sign, 0)) ∧
      (p.2 = fmt32 → IsNumber fmt32 r.1 x ∧ r.2 = 0)) ∧
    (∀ v : Int, (v ≠ 0 → RoundedTo fmt32 rm (v : ℝ) (intToFp rm v)) ∧ (v = 0 → intToFp rm v = (0, 0))) ∧
    (∀ (a : Nat) (x : ℝ), a < 2 ^ 32 → IsNumber fmt32 a x → ∃ k : Int, RoundsToWhole rm x k ∧
      (∀ lo hi : Int, lo ≤ hi → (k < lo → fpToInt rm lo hi a = (lo, fNV)) ∧ (hi < k → fpToInt rm lo hi a = (hi, fNV)) ∧
        (lo ≤ k → k ≤ hi → ∃ fl, fpToInt rm lo hi a = (k, fl) ∧ (fl = 0 ∨ fl = fNX) ∧ (fl = 0 ↔ (k : ℝ) = x))) ∧
      ∃ y fl, fpRint rm a = (y, fl) ∧ IsNumber fmt32 y k ∧ y / 2 ^ 31 = a / 2 ^ 31 ∧ (fl = 0 ∨ fl = fNX) ∧
        (fl = 0 ↔ (k : ℝ) = x) ∧ ((k : ℝ) = x → y = a))

/-- R48 to R50, R53, R76, R77, R144, R150, R152, R155: rounding to nearest even: of the values of the format none lies nearer
to the exact value than the result, of two as near the result is the one with an even pattern, and NX is raised just where
the result is not exact. On finite operands `fpAdd`, `fpMul`, `fpDiv`, `fpSqrt` and `fpFma`, the lane functions of `vfp`,
are the exact sum, product, quotient, square root and fused sum rounded once under the mode; a finite number over zero is
an infinity with DZ. The conversions give the number itself rounded once, to the format or to a whole number. A reduction
is the tree of R77, and a lane of a matrix form the fused sums of its columns, lowest first. -/
def Obligations.RoundingIsNearestEven : Prop :=
  ConvertedValues ∧
  (∀ f ∈ [fmt32, fmt16, fmtB16], ∀ (neg : Bool) (m : Nat) (e : Int), 0 < m →
    ∀ n k j, unpack f (roundFin f 0 neg m e).1 = .fin n k j →
      n = neg ∧ ((roundFin f 0 neg m e).2 &&& fNX = 0 ↔ rational n k j = rational neg m e) ∧
      ∀ y n' k' j', y < 2 * f.sign → unpack f y = .fin n' k' j' →
        |rational n k j - rational neg m e| ≤ |rational n' k' j' - rational neg m e| ∧
        (|rational n k j - rational neg m e| = |rational n' k' j' - rational neg m e| →
          rational n k j = rational n' k' j' ∨ (roundFin f 0 neg m e).1 % 2 = 0)) ∧
  (∀ f ∈ [fmt32, fmt16, fmtB16], ∀ (rm a b c : Nat) (x y z : ℝ), rm < 4 → a < 2 * f.sign → b < 2 * f.sign → c < 2 * f.sign →
    IsNumber f a x → IsNumber f b y → IsNumber f c z →
    let sa := a / f.sign
    let sb := b / f.sign
    let sc := c / f.sign
    SumTo f rm (x + y) (if a = b ∧ a % f.sign = 0 then some sa else none) (fpAdd f rm false a b) ∧
    SumTo f rm (x - y) (if a ≠ b ∧ a % f.sign = 0 ∧ b % f.sign = 0 then some sa else none) (fpAdd f rm true a b) ∧
    (x * y ≠ 0 → RoundedTo f rm (x * y) (fpMul f rm a b)) ∧
    (x * y = 0 → fpMul f rm a b = ((sa + sb) % 2 * f.sign, 0)) ∧
    (x ≠ 0 → y ≠ 0 → RoundedTo f rm (x / y) (fpDiv f rm a b)) ∧
    (x = 0 → y ≠ 0 → fpDiv f rm a b = ((sa + sb) % 2 * f.sign, 0)) ∧
    (x ≠ 0 → y = 0 → fpDiv f rm a b = ((sa + sb) % 2 * f.sign + f.top * 2 ^ f.fb, fDZ)) ∧
    (0 < x → RoundedTo f rm (Real.sqrt x) (fpSqrt f rm a)) ∧ (x = 0 → fpSqrt f rm a = (a, 0)) ∧
    (x < 0 → (fpSqrt f rm a).2 = fNV) ∧
    (∀ np nc : Bool, let p := (if np then -(x * y) else x * y)
      let sp := (sa + sb + np.toNat) % 2
      SumTo f rm (p + if nc then -z else z) (if p = 0 ∧ z = 0 ∧ sp = (sc + nc.toNat) % 2 then some sp else none)
        (fpFma f rm np nc a b c))) ∧
  (∀ (op : Nat → Nat → Nat × Nat) (n : Nat) (xs : List (Option Nat)), xs.length = 2 ^ n →
    treeReduce op n xs = treeNode op xs n 0) ∧
  (∀ (t : Thread) (a b : Reg) (base l n : Nat) (acc : Nat × Nat), bmmLane t a b base l n acc =
    (List.range n).foldl (fun p j =>
      let q := fpFma fmt32 t.round false false (lane 32 (t.rv a) (base + j)) (lane 32 (t.rv (Fin.ofNat 32 (b.val + j))) l) p.1
      (q.1, p.2 ||| q.2)) acc)
/-! ## Device registers, blocks and bit streams -/

/-- The thread completes with a status in `gd`, its other registers kept; its packet, its permits and its ready bit are
said beside. -/
def EndsThread (s t : State) (d : Reg) (x : Word) : Prop :=
  t.th.rg d = (if d = 0 then 0 else x) ∧ (∀ r, r ≠ d → t.th.rg r = s.th.rg r) ∧ t.th.v = s.th.v ∧ t.th.m = s.th.m ∧
  t.th.kstat = s.th.kstat ∧ NextWord s.th t.th ∧ Completed t.th

/-- The same, with every byte of memory kept. -/
def EndsWith (s t : State) (d : Reg) (x : Word) : Prop := EndsThread s t d x ∧ ∀ y, memGet t.mem y = memGet s.mem y

/-- The instruction completes with a value that a unit on a die gives it. On the thread's own die nothing else changes; another
die keeps the reply under the number of the request, and nothing else of the package changes (R280). -/
def AnsweredFrom (i : Instr) (s : State) (d : Reg) (die : Nat) (x : Word) : Prop :=
  (die = coreDie s.ck → WritesG i s d x) ∧ ∃ t, exec i s = .next t ∧ EndsWith s t d x ∧
    t = { s with threads := t.threads, cores := t.cores, dies := t.dies } ∧ (∀ u, u ≠ s.cur → t.thr u = s.thr u) ∧
    (∀ k, k ≠ s.ck → t.cor k = s.cor k) ∧ t.cor s.ck = { s.co with seq := (t.cor s.ck).seq } ∧
    ∀ k, t.die k = { s.die k with replies := (t.die k).replies }

/-- R17, R89, R166, R169, R170, R280, R296, R321: `ld.device` reads the register at its physical address once, zero-extended, and changes
nothing else, but that another die keeps the reply. Where a check of R166 fails both trap. `st.device` to a register takes an entry of the write-through queue, with no register of its thread changed,
and the thread waits behind the store for its device; a store that sets a reserved bit traps RESERVED_FIELD with its lowest
one, and one that writes an RWS field at launch level traps PRIVILEGE. A write that reaches `dclk` sets the target that
Table 16-3 allows. The model's choices here: log entries 6, 19, 20 (the `kinfo`
of a reserved bit) and 87 (which requests are numbered). -/
def Obligations.DeviceAccess : Prop :=
  (∀ (s : State) (sz : Size) (d a : Reg) (off : BitVec 11),
    AccessChecks (.ldDevice sz d a off) s false true 3 sz.bytes (s.th.ea a off sz.bytes) ∧
    AccessChecks (.stDevice sz d a off) s true true 3 sz.bytes (s.th.ea a off sz.bytes)) ∧
  (∀ (s : State) (sz : Size) (d a : Reg) (off : BitVec 11) (p : Part),
    let v := (s.th.rg d).toNat % 2 ^ (8 * sz.bytes)
    (∀ v, s.devPart .load (s.th.ea a off sz.bytes) sz.bytes = .ok p → s.devRead p.pa sz.bytes = .ok v →
      AnsweredFrom (.ldDevice sz d a off) s d (deviceDie p.pa) (BitVec.ofNat 64 v)) ∧
    (s.devPart .store (s.th.ea a off sz.bytes) sz.bytes = .ok p → (devReg p.pa).isSome = true →
      (devRes p.pa sz.bytes v = 0 → (devRws p.pa sz.bytes = true → s.th.service = true) → s.co.wtq.length < 32 →
        ∃ t, exec (.stDevice sz d a off) s = .next t ∧ Keeps [] [] [] s.th t.th ∧ t.th.kstat = s.th.kstat ∧
          NextWord s.th t.th ∧ t.th.st = .waiting ∧ t.th.wait.map (·.kind) = some .deviceStore ∧
          t.co.wtq = s.co.wtq ++ [{ pa := p.pa, bytes := (bytesOf v sz.bytes).map some, dev := true }] ∧
          t.co.l1 = s.co.l1 ∧ (∀ u, u ≠ s.cur → t.thr u = s.thr u) ∧ (∀ x, memGet t.mem x = memGet s.mem x)) ∧
      (∀ b, (devRes p.pa sz.bytes v).testBit b = true → (∀ j, j < b → (devRes p.pa sz.bytes v).testBit j = false) → b < 64 →
        Traps (.stDevice sz d a off) s 0x02 (BitVec.ofNat 64 (s.th.word.toNat + 2 ^ 37 + 2 ^ 38 * b))) ∧
      (devRes p.pa sz.bytes v = 0 → devRws p.pa sz.bytes = true → s.th.service = false →
        Traps (.stDevice sz d a off) s 0x03 (s.th.word.setWidth 64)))) ∧
  (∀ (s : State) (die m : Nat), die < 12 → 8 ≤ m → m ≤ 19 → (s.die die).clock.next = none →
    ∃ t, exec (.deviceRegisterWrite (0x8000000000000 + die * 2 ^ 32 + 0x10000) 8 (BitVec.ofNat 64 (m * 2 ^ 8))) s = .next t ∧
      (t.die die).clock.target = m ∧ t.threads = s.threads ∧ t.cores = s.cores ∧ t.mem = s.mem ∧
      ∀ k, k ≠ die → t.die k = s.die k)

/-- Where a block stands in the scratchpad with its checks passed (R165, R166, R179). -/
def ScratchBlock (s : State) (w : BlkW) (x : BlockAt) : Prop :=
  x.pay.toNat % w.bytes = 0 ∧ x.hdr.toNat % 2 = 0 ∧ x.pay.toNat < 2 ^ 18 ∧ x.hdr.toNat < 2 ^ 18 ∧
  x.pay.toNat + w.bytes ≤ s.scrLimit ∧ x.hdr.toNat + 2 ≤ s.scrLimit ∧ s.co.spoison = []

/-- The two accesses of a block, the lower address first, each with its size (R166, R179). -/
def blockPlaces (w : BlkW) (x : BlockAt) : List (Word × Nat) :=
  if x.pay.toNat ≤ x.hdr.toNat then [(x.pay, w.bytes), (x.hdr, 2)] else [(x.hdr, 2), (x.pay, w.bytes)]

/-- R165, R166, R179 for a form on a block in the scratchpad (`sp`) or in virtual memory: there SCRATCH_BOUNDS at an address with a bit
above 17 set, MISALIGNED, SCRATCH_BOUNDS past the bytes that the thread may reach, each at the lower access first; here the page
checks on PLAIN and TILED pages and then MISALIGNED. -/
def PlaneChecks (i : Instr) (s : State) (sp store : Bool) (w : BlkW) (x : BlockAt) : Prop :=
  let ps := blockPlaces w x
  let us := ps.flatMap fun p => piecesOf p.1 p.2
  let plane := fun pte => kindIs 0 pte ∨ kindIs 1 pte
  let near := fun p : Word × Nat => p.1.toNat < 2 ^ 18
  let even := fun p : Word × Nat => p.1.toNat % p.2 = 0
  (sp = true → ∀ l p r, ps = l ++ p :: r →
    ((∀ q ∈ l, near q) → ¬ near p → Traps i s 0x14 p.1) ∧
    ((∀ q ∈ ps, near q) → (∀ q ∈ l, even q) → ¬ even p → Traps i s 0x13 p.1) ∧
    ((∀ q ∈ ps, near q ∧ even q) → (∀ q ∈ l, q.1.toNat + q.2 ≤ s.scrLimit) → s.scrLimit < p.1.toNat + p.2 →
      Traps i s 0x14 p.1)) ∧
  (sp = false → PageChecks i s store plane us ∧
    ((∀ u ∈ us, canonicalAt u ∧ Allowed s store u ∧ InPage s plane u) → ∀ l p r, ps = l ++ p :: r → (∀ q ∈ l, even q) → ¬ even p →
      Traps i s 0x13 p.1))

/-- The number that a finite value stands for; an infinity or a NaN counts as 0 and is said apart. -/
def numberOf (v : FVal) : ℚ :=
  match v with
  | .fin n m e => rational n m e
  | _ => 0

/-- The number of a code's level. -/
def levelNumber (c : Core) (w : BlkW) (sel k : Nat) : ℚ := numberOf (c.level w sel k)

/-- The codes of a selector. -/
def codeCount (w : BlkW) : Nat := match w with | .blk4 => 16 | .blk8 => 256

/-- R54, R61, R62: the levels of Tables 3-6 and 3-7: signed integers, with INT8 0x80 as -127; FP4 in halves; E5M2 as the IEEE
format of its widths and E4M3 as its own but for exponent 15, which is normal, and its NaNs; and the entries of a decode
table. -/
def LevelTables : Prop :=
  ∀ (c : Core) (k : Nat),
    (k < 16 → levelNumber c .blk4 0 k = ((BitVec.ofNat 4 k).toInt : ℚ) ∧
      levelNumber c .blk4 1 k = (if 8 ≤ k then -1 else 1) * (([0, 1, 2, 3, 4, 6, 8, 12].getD (k % 8) 0 : Nat) : ℚ) / 2 ∧
      c.level .blk4 2 k = unpack fmtE8 (c.tabs.get 0 k).toNat ∧ c.level .blk4 3 k = unpack fmtE8 (c.tabs.get 0 (256 + k)).toNat) ∧
    (k < 256 → levelNumber c .blk8 0 k = (if k = 128 then -127 else ((BitVec.ofNat 8 k).toInt : ℚ)) ∧
      (k / 8 % 16 ≠ 15 → levelNumber c .blk8 1 k = numberOf (unpack { eb := 4, fb := 3 } k)) ∧
      (k / 8 % 16 = 15 → k % 8 ≠ 7 → levelNumber c .blk8 1 k = (if 128 ≤ k then -1 else 1) * ((8 + k % 8 : Nat) : ℚ) * 32) ∧
      (k % 128 = 127 → c.level .blk8 1 k = .nan (decide (128 ≤ k)) 0x200) ∧
      (k / 4 % 32 ≠ 31 → levelNumber c .blk8 2 k = numberOf (unpack { eb := 5, fb := 2 } k)) ∧
      (k % 128 = 124 → c.level .blk8 2 k = .inf (decide (128 ≤ k))) ∧
      (124 < k % 128 → c.level .blk8 2 k = .nan (decide (128 ≤ k)) 0x200) ∧
      c.level .blk8 3 k = unpack fmtE8 (c.tabs.get 0 (512 + k)).toNat)

/-- The value of a scale code (R59). -/
def scaleNumber (sc : Nat) : ℚ :=
  if sc / 4 = 0 then ((sc % 4 : Nat) : ℚ) / 2 ^ 32
  else (1 + ((sc % 4 : Nat) : ℚ) / 4) * (2 : ℚ) ^ (((sc / 4 : Nat) : Int) - 31)

/-- The code of element `i` in a payload (R57). -/
def payloadCode (w : BlkW) (pay i : Nat) : Nat :=
  match w with
  | .blk4 => pay / 2 ^ (4 * i) % 16
  | .blk8 => pay / 2 ^ (8 * i) % 256

/-- R58, R60: a header: its fields, and the terms of Table 3-6a of its set bits added up as its check code. -/
def HeaderOf (h sel sc : Nat) : Prop :=
  h % 2048 = sel + 8 * sc ∧ h / 2048 = ((([0x05, 0x0A, 0x14, 0x0D, 0x1A, 0x11, 0x07, 0x0E, 0x1C, 0x1D, 0x1F].zipIdx).filter
    fun e => h.testBit e.2).map (·.1)).foldl (· ^^^ ·) 0

/-- R64, R65, R181: lane `i` of a block with header `h`: a quiet NaN of a POISON block; +0 under scale code 0; else the level of
its code times the scale, rounded to nearest even, an infinity or a NaN of the level's sign. -/
def DecodeRule : Prop :=
  ∀ (c : Core) (w : BlkW) (h pay i : Nat), i < 16 → headerBad h = none →
    let sc := h / 8 % 256
    let k := payloadCode w pay i
    let x := c.blockLane w h pay i
    (h % 8 = 7 → x = 0x7FC00000) ∧ (h % 8 ≠ 7 → sc = 0 → x = 0) ∧
    (h % 8 ≠ 7 → sc ≠ 0 → match c.level w (h % 8) k with
      | .nan n fr => x = infinityOf fmt32 n.toNat + (2 ^ 22 ||| fr % 1024 * 8192)
      | .inf n => x = infinityOf fmt32 n.toNat
      | .fin n m e =>
        if m = 0 then x = n.toNat * 2 ^ 31
        else ∃ fl, RoundedTo fmt32 0 ((rational n m e * scaleNumber sc : ℚ) : ℝ) (x, fl))

/-- A selector that a mask admits and that is eligible (R66), with its largest magnitude `l`: of an INT or FP selector the one
of R61 and R62, of a decode table the greatest of its entries, all of them finite and not all 0. -/
def Candidate (c : Core) (w : BlkW) (mask sel : Nat) (l : ℚ) : Prop :=
  sel < 4 ∧ mask.testBit sel = true ∧
  if isNu w sel then
    0 < l ∧
      (∀ k, k < (nuTable w sel).2 → ¬ (c.level w sel k).isNan ∧ ¬ (c.level w sel k).isInf ∧ |levelNumber c w sel k| ≤ l) ∧
      ∃ k, k < (nuTable w sel).2 ∧ |levelNumber c w sel k| = l
  else l = match w, sel with
    | .blk4, 0 => 7
    | .blk4, _ => 6
    | .blk8, 0 => 127
    | .blk8, 1 => 448
    | .blk8, _ => 57344

/-- The codes that the quantiser may emit for an INT or FP selector (R68): finite, INT4 from -7 and INT8 from -127 on, and of
the two zeros code 0. -/
def Emitted (w : BlkW) (sel k : Nat) : Prop :=
  k < codeCount w ∧ match w, sel with
  | .blk4, _ => k ≠ 8
  | .blk8, 0 => k ≠ 128
  | .blk8, 1 => k % 128 ≠ 127 ∧ k ≠ 128
  | .blk8, _ => k / 4 % 32 ≠ 31 ∧ k ≠ 128

/-- The search of R69 in a table, `n` halvings at most. -/
def searchTable (t : Nat → ℚ) (y : ℚ) : Nat → Nat → Nat → Nat
  | 0, lo, hi => if |y - t lo| < |t hi - y| then lo else if |t hi - y| < |y - t lo| then hi else if lo % 2 = 0 then lo else hi
  | n + 1, lo, hi =>
    if hi - lo ≤ 1 then searchTable t y 0 lo hi
    else if t ((lo + hi) / 2) ≤ y then searchTable t y n ((lo + hi) / 2) hi
    else searchTable t y n lo ((lo + hi) / 2)

/-- R68, R69: `k` is the code of a selector for `y`: for an INT or FP selector no code that may be emitted lies nearer, and an
odd one stands only where no other is as near; for a decode table the one that the search gives. -/
def NearestCode (c : Core) (w : BlkW) (sel : Nat) (y : ℚ) (k : Nat) : Prop :=
  if isNu w sel then k = searchTable (levelNumber c w sel) y 8 0 ((nuTable w sel).2 - 1)
  else Emitted w sel k ∧ ∀ i, Emitted w sel i → i ≠ k →
    |y - levelNumber c w sel k| < |y - levelNumber c w sel i| ∨
    |y - levelNumber c w sel k| = |y - levelNumber c w sel i| ∧ k % 2 = 0

/-- R67: what a candidate gives the inputs `vs` with greatest magnitude `m`: the least scale not below m / L, or the greatest,
and the nearest codes. -/
def Tried (c : Core) (w : BlkW) (vs : List ℚ) (m : ℚ) (sel : Nat) (l : ℚ) (sc : Nat) (qs : List Nat) : Prop :=
  0 < sc ∧ sc < 256 ∧ (m / l ≤ scaleNumber sc ∨ sc = 255) ∧
  (∀ k, k < 256 → m / l ≤ scaleNumber k → scaleNumber sc ≤ scaleNumber k) ∧
  List.Forall₂ (fun x k => NearestCode c w sel (x / scaleNumber sc) k) vs qs

/-- The sum of the squared errors of a candidate's codes (R67). -/
def squaredError (c : Core) (w : BlkW) (vs : List ℚ) (sel sc : Nat) (qs : List Nat) : ℚ :=
  ((vs.zip qs).map fun e => (e.1 - scaleNumber sc * levelNumber c w sel e.2) ^ 2).sum

/-- R58, R60, R66 to R70: the selection for 16 inputs: POISON with QNAN where one is a NaN or an infinity; all zeros under
selector 0; else the candidate with the least squared error, of equal ones the lowest; selector 0 where the mask leaves none. -/
def SelectionRule : Prop :=
  ∀ (c : Core) (w : BlkW) (mask : Nat) (xs : List Nat), xs.length = 16 → mask < 16 →
    ((∃ x ∈ xs, x / 2 ^ 23 % 256 = 255) → c.quantise w mask xs = (0xD807, 0, true)) ∧
    ((∀ x ∈ xs, x / 2 ^ 23 % 256 ≠ 255) →
      let vs := xs.map fun x => numberOf (unpack fmt32 x)
      ((∀ v ∈ vs, v = 0) → c.quantise w mask xs = (0, 0, false)) ∧
      (∀ m used, 0 < m → (∀ v ∈ vs, |v| ≤ m) → (∃ v ∈ vs, |v| = m) →
        (used = mask ∧ (∃ k l, Candidate c w mask k l) ∨ used = 1 ∧ ¬ ∃ k l, Candidate c w mask k l) →
        ∃ sel l sc qs h pay, c.quantise w mask xs = (h, pay, false) ∧ Candidate c w used sel l ∧ Tried c w vs m sel l sc qs ∧
          HeaderOf h sel sc ∧ (∀ i, i < 16 → payloadCode w pay i = qs.getD i 0) ∧
          ∀ k l' sc' qs', Candidate c w used k l' → Tried c w vs m k l' sc' qs' →
            squaredError c w vs sel sc qs ≤ squaredError c w vs k sc' qs' ∧
            (squaredError c w vs sel sc qs = squaredError c w vs k sc' qs' → sel ≤ k)))

/-- R54, R57 to R70, R94, R121, R122, R165, R166, R179 to R181, R276 to R278: `qst.q` writes the payload and then the header that the selection gives the 16 lanes of
`vd`, and raises QNAN for an input that is no finite number; `qst.bl` writes the 16 values of a block whose header passes
its checks, and traps with the address of one that does not. Both use the decode tables as they stood at the form's issue:
a form that waits for a page walk keeps them (R63). The selection is that of R66 to R70, its errors exact numbers, and a
lane is decoded by R64 and R65 from the levels of R61 and R62. In virtual space payload and header are read and written as
loads and stores are. Where a check of R166 fails they trap. The model's choices here: log entries 6 and 102. -/
def Obligations.QuantisingForms : Prop :=
  LevelTables ∧ DecodeRule ∧ SelectionRule ∧
  ∀ (s : State) (w : BlkW) (imm : Bool) (d a : Reg) (off : BitVec 11),
    let x := s.blockAt w a (if imm then BitVec.ofNat 64 (off.toNat / 256) else off.signExtend 64)
    let y := s.blockAt w a (off.signExtend 64)
    let mask := if imm then off.toNat % 256 else s.th.kqmask.toNat % 256
    let q := s.blockCore.quantise w mask ((List.range 16).map (lane 32 (s.th.rv d)))
    let flag : Word := if q.2.2 then 0x100 else 0
    let ok := mask < 16 ∧ (q.2.2 = true → s.th.te / 32 % 2 = 0)
    let h := natOfBytes ((List.range 2).map fun i => s.co.scrByte (y.hdr.toNat + i))
    let pay := natOfBytes ((List.range w.bytes).map fun i => s.co.scrByte (y.pay.toNat + i))
    (∀ sp, PlaneChecks (.qstQ w imm sp d a off) s sp true w x ∧ PlaneChecks (.qstBl w sp d a off) s sp false w y) ∧
    (ScratchBlock s w x → ok → ∃ t, exec (.qstQ w imm true d a off) s = .next t ∧ Keeps [] [] [] s.th t.th ∧
      t.th.kstat = s.th.kstat ||| flag ∧ Completed t.th ∧
      OnlyScratch s t (fun k => (k < x.hdr.toNat ∨ x.hdr.toNat + 2 ≤ k) ∧ (k < x.pay.toNat ∨ x.pay.toNat + w.bytes ≤ k)) ∧
      (∀ i, i < 2 → t.co.scrByte (x.hdr.toNat + i) = BitVec.ofNat 8 (q.1 / 2 ^ (8 * i))) ∧
      (∀ i, i < w.bytes → x.pay.toNat + i < x.hdr.toNat ∨ x.hdr.toNat + 2 ≤ x.pay.toNat + i →
        t.co.scrByte (x.pay.toNat + i) = BitVec.ofNat 8 (q.2.1 / 2 ^ (8 * i)))) ∧
    (ScratchBlock s w x → 16 ≤ mask → Traps (.qstQ w imm true d a off) s 0x21 0) ∧
    (ScratchBlock s w x → mask < 16 → q.2.2 = true → s.th.te / 32 % 2 = 1 →
      Traps (.qstQ w imm true d a off) s 0x80 0x20) ∧
    (∀ t, s.virtBlock .store x w = .ok () → s.tenureAll .store (x.accesses w) = .ok () → ok →
      s.writeBlock x w q.1 q.2.1 q.2.2 = .ok t → Completed t.th →
      exec (.qstQ w imm false d a off) s = .next t ∧ Keeps [] [] [] s.th t.th ∧ t.th.kstat = s.th.kstat ||| flag) ∧
    (ScratchBlock s w y → headerBad h = none →
      WritesLanes (.qstBl w true d a off) s d 32 (fun _ => true) (s.blockCore.blockLane w h pay) 0) ∧
    (∀ c, ScratchBlock s w y → headerBad h = some c → Traps (.qstBl w true d a off) s c y.hdr) ∧
    (∀ t, s.virtBlock .load y w = .ok () → s.tenureAll .load (y.accesses w) = .ok () → s.blVirtual w d y = .ok t →
      Completed t.th → exec (.qstBl w false d a off) s = .next t ∧ Keeps [] [d] [] s.th t.th ∧ t.th.kstat = s.th.kstat) ∧
    (s.blockCore.tabs = s.th.tabsAt.getD s.co.tabs ∧ ∀ va, s.virtBlock .load y w = .error (.walk va) →
      ∃ t, exec (.qstBl w false d a off) s = .next t ∧ Keeps [] [] [] s.th t.th ∧ t.th.st = .waiting ∧ t.th.pc = s.th.pc ∧
        t.th.tabsAt = some s.blockCore.tabs ∧ s.cur ∈ t.walks)

/-- A bit form completes: its buffer and one general register are written, and nothing else of the machine. -/
def WritesBits (i : Instr) (s : State) (d : Reg) (b : BitBuf) (x : Word) : Prop :=
  ∃ t, exec i s = .next t ∧ OnlyThread s t ∧ t.th.bitBuf = b ∧ (∀ r, r ≠ d → t.th.rg r = s.th.rg r) ∧
    t.th.rg d = (if d = 0 then 0 else x) ∧ t.th.v = s.th.v ∧ t.th.m = s.th.m ∧ t.th.kstat = s.th.kstat ∧
    NextWord s.th t.th ∧ Completed t.th

/-- R121, R122, R183 to R185: the bit forms on a buffer that holds the bits they ask for: `peek` reads them, `get` and `getv` read
and take them, `skip` takes them, `unar` counts the zeros before the first one and takes them with it; `init` fills
the buffer with the 16 bytes from its start on, and traps where its addresses fail their checks; `tell` and `avail` compute positions. The model's choices here: log
entry 16. -/
def Obligations.BitStreamForms : Prop :=
  ∀ (s : State) (d a : Reg) (k : BitVec 8),
    let b := s.th.bitBuf
    let n := k.toNat
    let c := min (s.th.rg a).toNat 64
    (n ≤ b.fill → WritesBits (.bitPeek d k) s d b (BitVec.ofNat 64 (b.bits % 2 ^ n)) ∧
      WritesBits (.bitGet d k) s d { b with bits := b.bits / 2 ^ n, fill := b.fill - n } (BitVec.ofNat 64 (b.bits % 2 ^ n)) ∧
      WritesBits (.bitSkip k) s 0 { b with bits := b.bits / 2 ^ n, fill := b.fill - n } 0) ∧
    (c ≤ b.fill → WritesBits (.bitGetv d a) s d { b with bits := b.bits / 2 ^ c, fill := b.fill - c }
      (BitVec.ofNat 64 (b.bits % 2 ^ c))) ∧
    (∀ z, 64 ≤ b.fill → (∀ i, i < z → b.bits.testBit i = false) →
      (z < 64 → b.bits.testBit z = true →
        WritesBits (.bitUnar d) s d { b with bits := b.bits / 2 ^ (z + 1), fill := b.fill - (z + 1) } (BitVec.ofNat 64 z)) ∧
      (z = 64 → WritesBits (.bitUnar d) s d { b with bits := b.bits / 2 ^ 64, fill := b.fill - 64 } 64)) ∧
    (WritesG (.bitTell d) s d (BitVec.ofNat 64 (8 * b.src) - BitVec.ofNat 64 b.fill) ∧
      WritesG (.bitAvail d) s d (BitVec.ofNat 64 b.fill + BitVec.ofNat 64 8 * (BitVec.ofNat 64 b.fin - BitVec.ofNat 64 b.src))) ∧
    (let x := s.th.rg a
     let y := s.th.rg d
     (2 ^ 18 ≤ x.toNat → Traps (.bitInit d a k) s 0x14 x) ∧ (x.toNat < 2 ^ 18 → 2 ^ 18 ≤ y.toNat → Traps (.bitInit d a k) s 0x14 y) ∧
     (x.toNat < 2 ^ 18 → y.toNat < 2 ^ 18 → x.toNat % 8 ≠ 0 → Traps (.bitInit d a k) s 0x13 x) ∧
     (x.toNat < 2 ^ 18 → y.toNat < 2 ^ 18 → x.toNat % 8 = 0 → s.scrLimit < y.toNat → Traps (.bitInit d a k) s 0x14 y)) ∧
    (∀ st e, (s.th.rg a).toNat = st → (s.th.rg d).toNat = e → st % 8 = 0 → st + 16 ≤ e → e < 2 ^ 18 → e ≤ s.scrLimit →
      s.th.got = [] → s.co.empty = [] → s.co.spoison = [] →
      WritesBits (.bitInit d a k) s 0
        { bits := natOfBytes ((List.range 16).map fun i => s.co.scrByte (st + i)) / 2 ^ min n 128,
          fill := 128 - min n 128, src := st + 16, fin := e } 0)

/-! ## Messages -/

/-- The thread waits with `pc` at its form, every register kept (R20). -/
def WaitsFor (s t : State) (st : CtxState) (k : WaitKind) : Prop :=
  t.th.st = st ∧ t.th.wait.map (·.kind) = some k ∧ t.th.pc = s.th.pc ∧ t.th.g = s.th.g ∧ t.th.v = s.th.v ∧
  t.th.m = s.th.m ∧ t.th.kstat = s.th.kstat ∧ (∀ y, memGet t.mem y = memGet s.mem y)

/-- R116 to R119, R121, R122, R187 to R190: the message forms: `put` adds a word to the packet and traps at the ninth, `drop`
discards it; `send` with a permit sends the message, which its arrival queues (log entry 134), and answers DONE, without one it waits
or answers NO_PERMIT; of a die that is offline it answers PEER_LOST; `recv` takes the oldest message of its class; `wait` and `alt`
answer with the lowest class that holds one, or park; `grant` gives permits, or answers BUSY or CANCELLED. A core outside the
launch, a class of another context, a packet that is open or full, and a bad address trap. The model's choices here: log entries 41,
73 and 134. -/
def Obligations.MessageForms : Prop :=
  ∀ (s : State) (e : BitVec 4) (d a b : Reg), s.th.st = .ready →
    (s.th.packet.length < 8 → ∃ t, exec (.msgPut a) s = .next t ∧ t.th.packet = s.th.packet ++ [s.th.rg a] ∧
      EndsWith s t 0 0) ∧
    (8 ≤ s.th.packet.length → Traps (.msgPut a) s 0x60 1) ∧
    (∃ t, exec .msgDrop s = .next t ∧ t.th.packet = [] ∧ EndsWith s t 0 0) ∧
    (let ck := bitsAt (s.th.rg a) 4 13
     let k := bitsAt (s.th.rg a) 0 4
     let mine := ck / 512 < 12 ∧ s.co.launch ≠ none ∧ (s.cor ck).launch = s.co.launch
     (¬ mine → Traps (.msgSend e d a b) s 0x11 (s.th.rg a)) ∧ (mine → 8 ≤ s.th.packet.length → Traps (.msgSend e d a b) s 0x60 1) ∧
     (mine → s.th.packet.length < 8 → (s.die (ck / 512)).online = false → ∃ t, exec (.msgSend e d a b) s = .next t ∧
      EndsWith s t d 3 ∧ t.th.packet = [] ∧ t.th.permits = s.th.permits) ∧
     (mine → s.th.packet.length < 8 → (s.die (ck / 512)).online = true →
      (permitCount s.th.permits ck k ≠ 0 → ∃ t p, exec (.msgSend e d a b) s = .next t ∧ EndsWith s t d 0 ∧
        t.transit = s.transit ++ [p] ∧ p.core = some ck ∧ p.lid = s.co.launch ∧ p.msg.cls = k ∧ p.msg.sender = s.cur ∧
        p.msg.words = s.th.packet ++ [s.th.rg b] ∧ p.msg.permitted = true ∧
        p.msg.tag = (if bitAt (s.th.rg a) 25 then some (bitsAt (s.th.rg a) 17 8) else none) ∧
        t.th.packet = [] ∧ t.th.permits = permitUse s.th.permits ck k) ∧
      (permitCount s.th.permits ck k = 0 → ∃ t, exec (.msgSend e d a b) s = .next t ∧
        if e = 0 then EndsWith s t d 6 else WaitsFor s t .waiting .permit))) ∧
    (∀ i, i = .msgRecv e d a b ∨ i = .msgWait e d a ∨ i = .msgAlt e d a → s.th.packet ≠ [] → Traps i s 0x60 2) ∧
    (s.th.packet = [] →
      (s.ownsClass (bitsAt (s.th.rg a) 0 4) = false →
        Traps (.msgRecv e d a b) s 0x11 (BitVec.ofNat 64 (2 ^ bitsAt (s.th.rg a) 0 4)) ∧
        Traps (.msgWait e d a) s 0x11 (BitVec.ofNat 64 (2 ^ bitsAt (s.th.rg a) 0 4))) ∧
      ((∃ i, i < 16 ∧ bitAt (s.th.rg a) i = true ∧ s.ownsClass i = false) →
        Traps (.msgAlt e d a) s 0x11 (BitVec.ofNat 64 (bitsAt (s.th.rg a) 0 16))) ∧
      (s.ownsClass (bitsAt (s.th.rg a) 0 4) = true → BlockChecks (.msgRecv e d a b) s 8 64 (s.th.rg b))) ∧
    (let k := bitsAt (s.th.rg a) 0 4
     let la := (s.th.rg b).toNat
     s.th.packet = [] → s.ownsClass k = true →
      (∀ m rest, la % 8 = 0 → la < 2 ^ 18 → la + 64 ≤ s.scrLimit → m.words.length ≤ 8 → takeMsg s.co.mailbox k = some (m, rest) →
        ∃ t, exec (.msgRecv e d a b) s = .next t ∧ EndsWith s t d (recvStatus m) ∧ t.co.mailbox = rest ∧
          (∀ i, i < m.words.length → t.co.scratch.get 0 (la / 8 + i) = m.words.getD i 0) ∧
          t.co.outstanding = s.co.outstanding - if m.permitted then 1 else 0) ∧
      (s.co.mailbox.all (fun m => m.cls != k) = true → s.th.readyBit = false → e ≠ 0 →
        ∃ t, exec (.msgWait e d a) s = .next t ∧ WaitsFor s t .parked (.message (2 ^ k)))) ∧
    (∀ c r, s.th.packet = [] → (∀ i, i < 16 → bitAt (s.th.rg a) i = true → s.ownsClass i = true) →
      s.co.holds (bitsAt (s.th.rg a) 0 16) = c :: r → ∃ t, exec (.msgAlt e d a) s = .next t ∧
        EndsWith s t d (BitVec.ofNat 64 (c * 16)) ∧ t.th.readyBit = false ∧ t.co.mailbox = s.co.mailbox) ∧
    (∀ r, s.th.packet = [] → s.ownsClass (bitsAt (s.th.rg a) 0 4) = true →
      s.co.holds (2 ^ bitsAt (s.th.rg a) 0 4) = bitsAt (s.th.rg a) 0 4 :: r →
      ∃ t, exec (.msgWait e d a) s = .next t ∧ EndsWith s t d (BitVec.ofNat 64 (bitsAt (s.th.rg a) 0 4 * 16))) ∧
    (let k := bitsAt (s.th.rg b) 0 4
     let n := bitsAt (s.th.rg b) 8 6
     let u := bitsAt (s.th.rg a) 0 17
     let i := Instr.msgGrant d a b
     (s.ownsClass k = false → Traps i s 0x11 (s.th.rg b)) ∧
     (s.ownsClass k = true → s.launchThread u = false → Traps i s 0x11 (s.th.rg a)) ∧
     (s.ownsClass k = true → s.launchThread u = true → (s.thr u).st = .ended → WritesG i s d 4) ∧
     (s.ownsClass k = true → s.launchThread u = true → (s.thr u).st ≠ .ended → (n = 0 → WritesG i s d 0) ∧
      (n ≠ 0 → 48 < s.co.outstanding + n ∨ 8 ≤ (s.thr u).permits.length ∧ permitCount (s.thr u).permits s.ck k = 0 →
        WritesG i s d 2)) ∧
     (s.ownsClass k = true → s.launchThread u = true → (s.thr u).st ≠ .ended → n ≠ 0 → s.co.outstanding + n ≤ 48 →
     (s.thr u).permits.length < 8 ∨ permitCount (s.thr u).permits s.ck k ≠ 0 →
      ∃ t, exec (.msgGrant d a b) s = .next t ∧ EndsWith s t d 0 ∧ t.co.outstanding = s.co.outstanding + n ∧
        (t.thr u).permits = permitAdd (s.thr u).permits s.ck k n))

/-! ## Keyed memory -/

/-- The table of a run (Table 8-7). -/
def runTable (s : State) : Run → AMap (BitVec 128)
  | .batten ck => (s.cor ck).batten
  | .purlin cl => (s.clu cl).purlin
  | .beam die => (s.die die).beam
  | .footing _ => []

/-- The value that `key.fix set` gives an entry of a type (R215). -/
def fixedTo (vt : VType) (x : Word) : BitVec 128 :=
  match vt with
  | .i32 => BitVec.ofNat 128 (x.toNat % 2 ^ 32)
  | .f32 => BitVec.ofNat 128 (x.toNat % 2 ^ 32)
  | .f16 => BitVec.ofNat 128 (x.toNat % 2 ^ 16)
  | .fx128 => BitVec.ofInt 128 x.toInt
  | _ => BitVec.ofNat 128 x.toNat

/-- R198, Table 8-3: the combination of an outer and an inner value of an integer region, and of an FX128 region. -/
def CombineTable : Prop :=
  (∀ (vt : VType) (o i : Nat), (vt = .i32 ∨ vt = .i64) → o < 2 ^ vtBits vt → i < 2 ^ vtBits vt →
    let w := vtBits vt
    let so := (BitVec.ofNat w o).toInt
    let si := (BitVec.ofNat w i).toInt
    combine .add vt o i = .ok ((o + i) % 2 ^ w) ∧
    combine .adds vt o i = .ok ((max (-(2 ^ (w - 1))) (min (2 ^ (w - 1) - 1) (so + si))) % 2 ^ w).toNat ∧
    combine .max vt o i = .ok (if so < si then i else o) ∧ combine .min vt o i = .ok (if si < so then i else o)) ∧
  (∀ (vt : VType) (o i : Nat), combine .or vt o i = .ok (o ||| i) ∧ combine .and vt o i = .ok (o &&& i) ∧
    combine .xor vt o i = .ok (o ^^^ i) ∧ combine .repl vt o i = .ok i) ∧
  (∀ (o i : Nat), let v := (BitVec.ofNat 128 o).toInt + (BitVec.ofNat 128 i).toInt
    (-(2 ^ 127) ≤ v → v < 2 ^ 127 → combine .fxadd .fx128 o i = .ok (v % 2 ^ 128).toNat) ∧
    (v < -(2 ^ 127) ∨ 2 ^ 127 ≤ v → combine .fxadd .fx128 o i = .error 2)) ∧
  (∀ (vt : VType) (f : Fmt) (o i : Nat), vtFmt vt = some f → (isSignalling f o = true ∨ isSignalling f i = true) →
    combine .max vt o i = .error 1 ∧ combine .min vt o i = .error 1)

/-- The value of a pattern of a format in the extended reals, of a NaN none. -/
def ValueIn (f : Fmt) (p : Nat) (x : EReal) : Prop :=
  p < 2 * f.sign ∧ ((∃ y : ℝ, IsNumber f p y ∧ x = (y : EReal)) ∨ p = infinityOf f 0 ∧ x = ⊤ ∨ p = infinityOf f 1 ∧ x = ⊥)

/-- R198, Table 8-3: `max` and `min` of a floating region on operands that are no signalling NaN: the greater and the lesser
value, -0 below +0; where one is a NaN, the first NaN of (inner, outer), its payload kept. -/
def FloatExtremes : Prop :=
  ∀ (vt : VType) (f : Fmt) (o i : Nat), vtFmt vt = some f → isSignalling f o = false → isSignalling f i = false →
    o < 2 * f.sign → i < 2 * f.sign →
    (NanIn f i → combine .max vt o i = .ok i ∧ combine .min vt o i = .ok i) ∧
    (NanIn f o → ¬ NanIn f i → combine .max vt o i = .ok o ∧ combine .min vt o i = .ok o) ∧
    (∀ x y : EReal, ValueIn f o x → ValueIn f i y →
      (x < y → combine .max vt o i = .ok i ∧ combine .min vt o i = .ok o) ∧
      (y < x → combine .max vt o i = .ok o ∧ combine .min vt o i = .ok i)) ∧
    (∀ p, combine .max vt 0 f.sign = .ok 0 ∧ combine .max vt f.sign 0 = .ok 0 ∧ combine .min vt 0 f.sign = .ok f.sign ∧
      combine .min vt f.sign 0 = .ok f.sign ∧ (¬ NanIn f p → combine .max vt p p = .ok p ∧ combine .min vt p p = .ok p))

/-- R201, R202: what a load of a name reads: the values of the four levels, the footing and the beam of its home, the purlin
and the batten of its core, combined from the outermost in; of no level the identity; of FX128 their exact sum. -/
def ReadsFourLevels (s : State) (ck asid n : Nat) (r : Region) : Prop :=
  let h := s.keyHome r n
  let lv := [(s.footing h asid (n / 2 ^ 52 % 4096) r.vt).find n, ((s.die h).beam.find (2 ^ 64 * asid + n)).map (·.toNat),
    ((s.clu (ck / 8)).purlin.find n).map (·.toNat), ((s.cor ck).batten.find n).map (·.toNat)].filterMap id
  (lv = [] → s.keyRead ck asid n r = identityOf r.op r.vt) ∧
  (∀ v, lv = [v] → s.keyRead ck asid n r = quietVal r.vt v) ∧
  (∀ v w vs, lv = v :: w :: vs → s.keyRead ck asid n r = quietVal r.vt ((w :: vs).foldl (readCombine r.op r.vt) v)) ∧
  (∀ o i c, combine r.op r.vt (quietVal r.vt o) (quietVal r.vt i) = .ok c → readCombine r.op r.vt o i = c) ∧
  s.keyReadFx ck asid n r = (lv.map fun v => (BitVec.ofNat 128 v).toInt).sum

/-- R56, R197 to R202, R204, R205, R210 to R216, R280: `key.upd` enters its value in the batten, or combines it with what stands
there; an update value or a combination that fails traps KEY_OPERATOR and leaves the batten; the wrong type traps
KEY_TYPE; in a full batten it waits for room; `key.ld` and `key.ldx` read the combination of the four levels; `key.pub`
answers BUSY where its batten is stalled or it meets a stalled purlin, completes where there is nothing to carry, and else has its publication carried
out and waits for it; `key.fix` drops the stalled entry of a run or gives it a value, and is CANCELLED where the run has
none; `key.resume` mends the run, after a drop too; `key.info` reads the descriptor of a region, 0 where there is none.
The model's choices here: log entries 6, 28, 30, 59, 71 and 87. -/
def Obligations.KeyedForms : Prop :=
  CombineTable ∧ FloatExtremes ∧
  ∀ (s : State) (vt : VType) (e : BitVec 4) (d a b : Reg), s.th.st = .ready →
    let n := (s.th.rg a).toNat
    (∀ r, ReadsFourLevels s s.ck s.co.asid n r) ∧
    (∀ r, s.region s.co.asid n = some r → r.vt ≠ vt →
      Traps (.keyUpd vt e d a b) s 0x42 (s.th.rg a) ∧ Traps (.keyLd vt d a) s 0x42 (s.th.rg a)) ∧
    (∀ r, s.region s.co.asid n = some r → r.vt ≠ .fx128 → Traps (.keyLdx d a) s 0x42 (s.th.rg a)) ∧
    (∀ r, s.region s.co.asid n = some r → r.vt = vt →
      (updateValue r (s.th.rg b) = none → Traps (.keyUpd vt e d a b) s 0x40 (s.th.rg a) ∧
        ∀ t, exec (.keyUpd vt e d a b) s = .next t → t.co.batten = s.co.batten) ∧
      (vt = .fx128 → ∀ x : ℝ, let p := (s.th.rg b).toNat % 2 ^ 32
        (p / 2 ^ 23 % 256 = 255 → updateValue r (s.th.rg b) = none) ∧
        (IsNumber fmt32 p x → ∃ k : Int, RoundsToWhole 0 (x * 2 ^ r.fscale) k ∧ updateValue r (s.th.rg b) =
          if -(2 ^ 127) ≤ k ∧ k < 2 ^ 127 then some (k % 2 ^ 128).toNat else none)) ∧
      (∀ u, updateValue r (s.th.rg b) = some u →
        (s.co.batten.find n = none → s.co.batten.length < 256 → ∃ t, exec (.keyUpd vt e d a b) s = .next t ∧
          EndsWith s t d 0 ∧ t.co.batten.find n = some (BitVec.ofNat 128 u) ∧
          ∀ k, k ≠ n → t.co.batten.find k = s.co.batten.find k) ∧
        (s.co.batten.find n = none → 256 ≤ s.co.batten.length → ∃ t, exec (.keyUpd vt e d a b) s = .next t ∧
          t.co.batten = s.co.batten ∧ if e = 0 then EndsWith s t d 1 else WaitsFor s t .waiting .keyRoom) ∧
        (∀ o, s.co.batten.find n = some o →
          (∀ v, combine r.op r.vt o.toNat u = .ok v → ∃ t, exec (.keyUpd vt e d a b) s = .next t ∧ EndsWith s t d 0 ∧
            t.co.batten.find n = some (BitVec.ofNat 128 v) ∧ ∀ k, k ≠ n → t.co.batten.find k = s.co.batten.find k) ∧
          (∀ why, combine r.op r.vt o.toNat u = .error why → Traps (.keyUpd vt e d a b) s 0x40 (s.th.rg a) ∧
            ∀ t, exec (.keyUpd vt e d a b) s = .next t → t.co.batten = s.co.batten))) ∧
      (s.footCheck r (s.th.rg a) = .ok () →
        (r.dmg.contains (origHome r n) = false → vt ≠ .fx128 → ∃ t, exec (.keyLd vt d a) s = .next t ∧
          EndsWith s t d (BitVec.ofNat 64 (s.keyRead s.ck s.co.asid n r % 2 ^ vtBits vt)) ∧ t.co.batten = s.co.batten) ∧
        (r.dmg.contains (origHome r n) = false → vt = .fx128 → ∃ t, exec (.keyLd vt d a) s = .next t ∧
          EndsWith s t d (BitVec.ofNat 64 (let x := s.keyReadFx s.ck s.co.asid n r
            if x = 0 then 0 else (roundFin fmt32 0 (decide (x < 0)) x.natAbs (-(Int.ofNat r.fscale))).1))) ∧
        (r.dmg.contains (origHome r n) = false → vt = .fx128 → d ≠ 0 → d.val < 31 → ∃ t, exec (.keyLdx d a) s = .next t ∧
          (t.th.rg d).toNat + 2 ^ 64 * (t.th.rg (d + 1)).toNat =
            ((max (-(2 ^ 127)) (min (2 ^ 127 - 1) (s.keyReadFx s.ck s.co.asid n r))) % 2 ^ 128).toNat ∧
          Keeps [d, d + 1] [] [] s.th t.th ∧ Completed t.th)) ∧
      (r.dmg.contains (origHome r n) = true → Traps (.keyLd vt d a) s 0x43 (s.th.rg a))) ∧
    (s.region s.co.asid n = none → Traps (.keyUpd vt e d a b) s 0x41 (s.th.rg a) ∧ Traps (.keyLd vt d a) s 0x41 (s.th.rg a) ∧
      WritesG (.keyInfo d a) s d 0) ∧
    (∀ r, s.region s.co.asid n = some r → WritesG (.keyInfo d a) s d (BitVec.ofNat 64 (descriptor r))) ∧
    (∀ x, (¬ reachesOut x → WritesG (.keyPub x e d) s d 0) ∧
      (reachesOut x → s.co.stall = none → s.co.batten = [] → (reachesFar x → (s.clu (clusterOf s.ck)).purlin = []) →
        WritesG (.keyPub x e d) s d 0) ∧
      (reachesOut x → s.co.stall ≠ none ∨ (s.co.batten = [] ∧ reachesFar x ∧
        (s.clu (clusterOf s.ck)).purlin ≠ [] ∧ (s.clu (clusterOf s.ck)).pstall ≠ none) → WritesG (.keyPub x e d) s d 2) ∧
      (reachesOut x → s.co.stall = none → ¬ NothingToPublish s x → (e = 0 → WritesG (.keyPub x e d) s d 1) ∧
        (e ≠ 0 → ∃ t p, exec (.keyPub x e d) s = .next t ∧ WaitsFor s t .waiting .publish ∧ t.co.pubs = s.co.pubs ++ [p] ∧
          p.owner = some s.cur ∧ p.release = false ∧ (p.wide = true ↔ reachesFar x) ∧ p.batten = s.co.batten.map (·.1) ∧
          t.co.batten = s.co.batten))) ∧
    (∀ r st k, s.keyRun (s.th.rg a) = .ok r → s.ownStall r (s.th.rg a) = .ok () → s.runStall r = some st → st.key = some k →
      (∃ t, exec (.keyFixDrop d a b) s = .next t ∧ EndsWith s t d 0 ∧ t.runStall r = some { st with key := none } ∧
        (runTable t r).find k = none ∧ ∀ j, j ≠ k → (runTable t r).find j = (runTable s r).find j) ∧
      (∀ q, s.region (s.runAsid r k) (k % 2 ^ 64) = some q → ∃ t, exec (.keyFixSet d a b) s = .next t ∧ EndsWith s t d 0 ∧
        t.runStall r = some st ∧ (runTable t r).find k = some (fixedTo q.vt (s.th.rg b)) ∧
        ∀ j, j ≠ k → (runTable t r).find j = (runTable s r).find j) ∧
      (∃ t, exec (.keyResume d a) s = .next t ∧ EndsWith s t d 0 ∧ t.runStall r = none ∧ runTable t r = runTable s r)) ∧
    (∀ r st, s.keyRun (s.th.rg a) = .ok r → s.ownStall r (s.th.rg a) = .ok () → s.runStall r = some st → st.key = none →
      AnsweredFrom (.keyFixDrop d a b) s d r.die 4 ∧ AnsweredFrom (.keyFixSet d a b) s d r.die 4 ∧
      ∃ t, exec (.keyResume d a) s = .next t ∧ EndsWith s t d 0 ∧ t.runStall r = none ∧ runTable t r = runTable s r) ∧
    (∀ r, s.keyRun (s.th.rg a) = .ok r → s.ownStall r (s.th.rg a) = .ok () → s.runStall r = none →
      AnsweredFrom (.keyFixDrop d a b) s d r.die 4 ∧ AnsweredFrom (.keyFixSet d a b) s d r.die 4 ∧
        AnsweredFrom (.keyResume d a) s d r.die 4)

/-! ## Copies -/

/-- R94, R166, R276 to R278, R282 to R285: `cpy.slot` takes the lowest free slot for a range of the scratchpad, `cpy.free` gives back
one that no copy fills; `cpy.in` and `cpy.out` are accepted by a unit with room for them, memory and what the core holds for it as
they were; `cpy.pin` pins the lines of a range under the lowest free number, `cpy.unpin` drops a pin. Where a check of theirs fails
they trap. The model's choices here: log entries 11 and 34. -/
def Obligations.CopyForms : Prop :=
  ∀ (s : State) (e : BitVec 4) (d a b : Reg), s.th.st = .ready →
    let ga := s.th.rg a
    let gb := s.th.rg b
    (let base := bitsAt ga 0 18
     let len := bitsAt ga 32 19
     let even := base % 8 = 0 ∧ len % 8 = 0 ∧ 8 ≤ len
     (¬ even → Traps (.cpySlot d a b) s 0x13 ga) ∧ (even → s.scrLimit < base + len → Traps (.cpySlot d a b) s 0x14 ga) ∧
     (even → base + len ≤ s.scrLimit → (∀ i, i < 32 → (s.co.slot i).st ≠ .free) → WritesG (.cpySlot d a b) s d 2) ∧
     ∀ i, base % 8 = 0 → len % 8 = 0 → 8 ≤ len → base + len ≤ s.scrLimit → i < 32 → (s.co.slot i).st = .free →
      (∀ j, j < i → (s.co.slot j).st ≠ .free) → ∃ t, exec (.cpySlot d a b) s = .next t ∧
        EndsWith s t d (BitVec.ofNat 64 (i * 256)) ∧
        t.co.slot i = { base := base, len := len, ctx := ctxOf s.cur, cls := bitsAt gb 0 4, st := .granted, running := 0 } ∧
        ∀ j, j ≠ i → t.co.slot j = s.co.slot j) ∧
    (let x := s.co.slot (bitsAt ga 0 5)
     (x.st ≠ .free → x.ctx ≠ ctxOf s.cur → Traps (.cpyFree d a) s 0x11 ga) ∧ (x.st = .free → WritesG (.cpyFree d a) s d 4) ∧
     (x.ctx = ctxOf s.cur →
      (x.st = .granted ∨ x.st = .done → ∃ t, exec (.cpyFree d a) s = .next t ∧ EndsWith s t d 0 ∧
        (t.co.slot (bitsAt ga 0 5)).st = .free) ∧
      (x.st = .filling → WritesG (.cpyFree d a) s d 2))) ∧
    (let x := s.co.slot (bitsAt gb 0 5)
     let off := bitsAt gb 8 18
     let len := bitsAt gb 32 19
     let q := (s.die (coreDie s.ck)).copyQ (copyUnit s.ck)
     let i := Instr.cpyIn e d a b
     let even := ga.toNat % 8 = 0 ∧ len % 8 = 0 ∧ 8 ≤ len ∧ len ≤ 262144
     let mine := x.st ≠ .free ∧ x.ctx = ctxOf s.cur
     let fits := off % 8 = 0 ∧ off + len ≤ x.len
     (¬ even → Traps i s 0x13 ga) ∧ (even → ¬ mine → Traps i s 0x11 gb) ∧ (even → mine → ¬ fits → Traps i s 0x14 gb) ∧
     (even → mine → fits → RangeChecks i s false (kindIs 0) ((rangePieces 65 ga.toNat len).map (·.1))) ∧
     ∀ ps, ga.toNat % 8 = 0 → len % 8 = 0 → 8 ≤ len → len ≤ 262144 → x.st ≠ .free → x.ctx = ctxOf s.cur → off % 8 = 0 →
      off + len ≤ x.len → s.rangeParts .load (fun p => pteKind p == kPlain) (rangePieces 65 ga.toNat len) = .ok ps →
      (q.length < 16 → ∃ t c, exec (.cpyIn e d a b) s = .next t ∧ EndsWith s t d 0 ∧ t.co.wtq = s.co.wtq ∧
        t.co.l1 = s.co.l1 ∧ c.pieces = ps.map Part.piece ∧
        (t.die (coreDie s.ck)).copyQ (copyUnit s.ck) = q ++ [c] ∧ c.isIn = true ∧ c.thread = s.cur ∧ c.va = ga.toNat ∧
        c.len = len ∧ c.scr = x.base + off ∧ c.written = 0 ∧ (t.co.slot (bitsAt gb 0 5)).st = .filling) ∧
      (16 ≤ q.length → ∃ t, exec (.cpyIn e d a b) s = .next t ∧
        if e = 0 then EndsWith s t d 2 else WaitsFor s t .waiting .copyQueue)) ∧
    (let src := bitsAt gb 0 18
     let len := bitsAt gb 32 19
     let q := (s.die (coreDie s.ck)).copyQ (copyUnit s.ck)
     let i := Instr.cpyOut e d a b
     let even := ga.toNat % 8 = 0 ∧ len % 8 = 0 ∧ 8 ≤ len ∧ len ≤ 262144
     let fits := src % 8 = 0 ∧ src + len ≤ s.scrLimit
     (¬ even → Traps i s 0x13 ga) ∧ (even → ¬ fits → Traps i s 0x14 gb) ∧
     (even → fits → RangeChecks i s true (kindIs 0) ((rangePieces 65 ga.toNat len).map (·.1))) ∧
     ∀ ps, ga.toNat % 8 = 0 → len % 8 = 0 → 8 ≤ len → len ≤ 262144 → src % 8 = 0 → src + len ≤ s.scrLimit →
      s.rangeParts .store (fun p => pteKind p == kPlain) (rangePieces 65 ga.toNat len) = .ok ps →
      (q.length < 16 → ∃ t c, exec (.cpyOut e d a b) s = .next t ∧ EndsWith s t d 0 ∧ t.co.wtq = s.co.wtq ∧
        t.co.l1 = s.co.l1 ∧ c.pieces = ps.map Part.piece ∧
        (t.die (coreDie s.ck)).copyQ (copyUnit s.ck) = q ++ [c] ∧ c.isIn = false ∧ c.thread = s.cur ∧ c.va = ga.toNat ∧
        c.len = len ∧ c.scr = src ∧ c.cls = bitsAt gb 56 4 ∧ c.written = 0) ∧
      (16 ≤ q.length → ∃ t, exec (.cpyOut e d a b) s = .next t ∧
        if e = 0 then EndsWith s t d 2 else WaitsFor s t .waiting .copyQueue)) ∧
    (let len := bitsAt gb 0 23
     let even := ga.toNat % 128 = 0 ∧ len % 128 = 0 ∧ 128 ≤ len ∧ len ≤ 2 ^ 22
     (¬ even → Traps (.cpyPin d a b) s 0x13 ga) ∧
     (even → RangeChecks (.cpyPin d a b) s false (fun pte => (kindIs 0 pte ∨ kindIs 1 pte) ∧ bitAt pte 4 = false)
       ((rangePieces 1025 ga.toNat len).map (·.1))) ∧
     ∀ ps i, ga.toNat % 128 = 0 → len % 128 = 0 → 128 ≤ len → len ≤ 2 ^ 22 →
      s.rangeParts .load (fun p => (pteKind p == kPlain || pteKind p == kTiled) && !pteBd p)
        (rangePieces 1025 ga.toNat len) = .ok ps →
      wouldPass s.pinnedLines (ps.flatMap Part.pinLines) = false → i < 16 → (∀ p ∈ s.co.pins, p.id ≠ i) →
      (∀ j, j < i → ∃ p ∈ s.co.pins, p.id = j) → ∃ t p, exec (.cpyPin d a b) s = .next t ∧
        EndsWith s t d (BitVec.ofNat 64 (i * 256)) ∧ t.co.pins = s.co.pins ++ [p] ∧ p.id = i ∧ p.va = ga.toNat ∧ p.len = len ∧
        p.lines = ps.flatMap Part.pinLines) ∧
    ((∃ p ∈ s.co.pins, p.id = bitsAt ga 0 4) → ∃ t, exec (.cpyUnpin d a) s = .next t ∧ EndsWith s t d 0 ∧
      t.co.pins = s.co.pins.filter fun p => p.id != bitsAt ga 0 4) ∧
    ((∀ p ∈ s.co.pins, p.id ≠ bitsAt ga 0 4) → WritesG (.cpyUnpin d a) s d 4)
/-! ## Tiles -/

/-- Byte `i` of the element at place `k` of a transfer lies where no later element writes, by the place of an element. -/
def LandsLast (es : List (Part × Nat)) (place : Part × Nat → Nat) (k i : Nat) : Prop :=
  ∀ p, es[k]? = some p → i < p.1.n ∧ p.1.pa % 128 + p.1.n ≤ 128 ∧
    ∀ j q, k < j → es[j]? = some q → place p + i < place q ∨ place q + q.1.n ≤ place p + i

/-- A transfer completes: DONE in `gd`, every other register kept, and the bank conflicts of its words counted (R266). -/
def TransferEnds (s t : State) (d : Reg) (x : Xfer) : Prop :=
  t.th.rg d = 0 ∧ (∀ k, k ≠ d → t.th.rg k = s.th.rg k) ∧ t.th.v = s.th.v ∧ t.th.m = s.th.m ∧ t.th.kstat = s.th.kstat ∧
  t.th.kbconf = BitVec.ofNat 64 ((s.th.kbconf.toNat + bankConflicts x.words.length x.words) % 2 ^ 32) ∧
  NextWord s.th t.th ∧ Completed t.th

/-- R249, R250, R252, R257, R261 to R263, R265, R266, R281: the forms of `til` complete so, and trap where a scratchpad address of theirs fails its checks (R121, R122). `til.open` of a record that passes
the checks enters it and answers with its handle, and waits where its slice has no record entry left. `til.acq` with nothing
in its way is granted at once; with a conflicting tenure it waits in the queue, and outside it where the queue is full.
`til.rel` frees the entries it names, and `til.close` a record nobody holds; after a close the handle is stale. `til.get`
fills the scratchpad words of a checked transfer with its rows, and traps at an uncorrectable one that it would fill in part;
`til.put` stores the rows from the scratchpad; both count bank conflicts. A handle that is stale traps, and one of an offline die
answers PEER_LOST. The model's choices here: log entries 6, 18 (the `kinfo` of an uncorrectable scratchpad word), 25, 26, 27, 79 and
127 to 130. -/
def Obligations.TileForms : Prop :=
  ∀ (s : State) (e : BitVec 4) (d a b : Reg), s.th.st = .ready →
    (let la := (s.th.rg a).toNat
     let r := tileOfImage s.co.asid ((List.range 72).map fun i => s.co.scrByte (la + i))
     BlockChecks (.tilOpen e d a) s 8 72 (s.th.rg a) ∧
     (la % 8 = 0 → la < 2 ^ 18 → la + 72 ≤ s.scrLimit → s.co.spoison = [] →
      (∀ why, r.bad = some why → Traps (.tilOpen e d a) s 0x34 (BitVec.ofNat 64 why)) ∧
      (∀ va sl, r.bad = none → s.tilePages (r.whole.flatMap fun p => pageStarts (vaOf p.first) (vaOf p.last)) = .ok () →
        va = vaOf ((r.whole.map (·.first)).headD 0) → sl = sliceKey (s.cachedDie va) (zoneOf va) →
        ((s.sli sl).freeRecs ≠ [] → ∃ t j, exec (.tilOpen e d a) s = .next t ∧ j ∈ (s.sli sl).freeRecs ∧
          EndsWith s t d (BitVec.ofNat 64 (handleOf sl j ((s.sli sl).gen j))) ∧ (t.sli sl).recs.find j = some r) ∧
        ((s.sli sl).freeRecs = [] → ∃ t, exec (.tilOpen e d a) s = .next t ∧
          if e = 0 then EndsWith s t d 0 else WaitsFor s t .waiting (.recordEntry sl))))) ∧
    (∀ sl i r, s.handle (s.th.rg a) = .ok (sl, i, r) →
      (∀ x, s.sliceLost sl = false →
        let q : TenReq := { thread := s.cur, idx := i, write := AcqMode.isWrite x, recalling := AcqMode.isRecall x,
                            r := recallExp (bitsAt (s.th.rg b) 0 4), cls := bitsAt (s.th.rg b) 4 4, recalled := false }
        ((s.sli sl).queue = [] → (s.sli sl).outside = [] → (s.sli sl).ents = [] → ∃ t, exec (.tilAcq x e d a b) s = .next t ∧
          EndsWith s t d 0 ∧ (t.sli sl).queue = [] ∧
          (t.sli sl).ents = [{ idx := i, thread := s.cur, lo := 0, hi := r.rows - 1, write := AcqMode.isWrite x,
                               r := recallExp (bitsAt (s.th.rg b) 0 4), cls := bitsAt (s.th.rg b) 4 4, st := .held }]) ∧
        ((s.sli sl).queue = [] → (s.sli sl).outside = [] → AcqMode.isRecall x = false →
          (s.sli sl).ents.any ((s.sli sl).conflicts q) = true → ∃ t, exec (.tilAcq x e d a b) s = .next t ∧
            if e = 0 then EndsWith s t d 1 ∧ (t.sli sl).queue = []
            else WaitsFor s t .waiting (.tenure sl) ∧ (t.sli sl).queue = [q] ∧ (t.sli sl).ents = (s.sli sl).ents) ∧
        (256 ≤ (s.sli sl).queue.length → ∃ t, exec (.tilAcq x e d a b) s = .next t ∧
          if e = 0 then EndsWith s t d 1
          else WaitsFor s t .waiting (.tenure sl) ∧ (t.sli sl).outside = (s.sli sl).outside ++ [q] ∧
            (t.sli sl).queue = (s.sli sl).queue)) ∧
      (s.sliceLost sl = true → (∀ x, WritesG (.tilAcq x e d a b) s d 3) ∧ WritesG (.tilGet d a b) s d 3 ∧
        WritesG (.tilPut d a b) s d 3) ∧
      (s.sliceLost sl = false → BlockChecks (.tilGet d a b) s 8 16 (s.th.rg b) ∧ BlockChecks (.tilPut d a b) s 8 16 (s.th.rg b)) ∧
      (let p := fun (x : Tenure) => x.thread == s.cur && x.idx == i && relRange (s.th.rg b) x
       ((s.sli sl).ents.filter p = [] → ∃ t, exec (.tilRel d a b) s = .next t ∧ EndsWith s t d 4) ∧
       ((s.sli sl).ents.filter p ≠ [] → ∃ t, exec (.tilRel d a b) s = .next t ∧ Keeps [d] [] [] s.th t.th ∧
        t.th.kstat = s.th.kstat ∧ NextWord s.th t.th ∧
        t.th.rg d = (if d = 0 then 0 else if ((s.sli sl).ents.filter p).all (·.live) then 0 else 5) ∧
        Completed t.th ∧ (t.sli sl).ents = (s.sli sl).ents.filter (!p ·))) ∧
      (let held := (s.sli sl).ents.any (·.idx == i) || (s.sli sl).queue.any (·.idx == i) ||
         (s.sli sl).outside.any (·.idx == i)
       (held = true → ∃ t, exec (.tilClose d a) s = .next t ∧ EndsWith s t d 2) ∧
       (held = false → ∃ t, exec (.tilClose d a) s = .next t ∧ EndsWith s t d 0 ∧ (t.sli sl).recs.find i = none ∧
        (t.sli sl).gen i = (if (s.sli sl).gen i = 4095 then 1 else (s.sli sl).gen i + 1) ∧
        t.handle (s.th.rg a) =
          .error (.trap { cause := 0x32, info := BitVec.ofNat 64 ((s.th.rg a).toNat % 2 ^ 32) }))) ∧
      (∀ x ps, s.sliceLost sl = false → s.xferBlock sl r (s.th.rg b) = .ok x →
        let es := ps.zip (x.elems.map (·.2))
        (∀ w, s.xferParts x false x.elems = .ok ps →
          x.words.find? (fun w => (s.co.spoison.find w).isSome && !spansFill x.spans w) = some w →
          Traps (.tilGet d a b) s 0x90 (BitVec.ofNat 64 (8 * w))) ∧
        (s.xferParts x false x.elems = .ok ps → s.co.takers = [] →
          (∀ w ∈ x.words, s.co.spoison.find w ≠ none → spansFill x.spans w = true) →
          ∀ img s1, s.xferRead s.co es = .ok (img, s1) →
          ∃ t, exec (.tilGet d a b) s = .next t ∧ TransferEnds s t d x ∧
            (∀ w, w ∈ x.words → t.co.isFull w = true) ∧
            (∀ w, w ∉ x.words → t.co.scratch.get 0 w = s.co.scratch.get 0 w ∧ t.co.isFull w = s.co.isFull w) ∧
            (AMap.sorted s.co.l1 = true → ∀ k p i, es[k]? = some p → LandsLast es (·.2) k i →
              s.co.l1.find (p.1.pa / 128) = none → t.co.scrByte (p.2 + i) = s.seenByte s.ck (p.1.pa + i))) ∧
        (s.xferParts x true x.elems = .ok ps → s.co.spoison = [] → ∃ t, exec (.tilPut d a b) s = .next t ∧
            TransferEnds s t d x ∧ t.co.scratch = s.co.scratch ∧
            (AMap.sorted s.co.l1 = true → (∀ q ∈ ps, wholeWords q.va q.n = true → q.pa % 4 = 0) →
              ∀ k p i, es[k]? = some p → LandsLast es (·.1.pa) k i →
                coreByte t s.ck (p.1.pa + i) = s.co.scrByte (p.2 + i))))) ∧
    (∀ tr, s.handle (s.th.rg a) = .error (.trap tr) → (∀ x, Traps (.tilAcq x e d a b) s tr.cause tr.info) ∧
      Traps (.tilRel d a b) s tr.cause tr.info ∧ Traps (.tilClose d a) s tr.cause tr.info ∧
      Traps (.tilGet d a b) s tr.cause tr.info ∧ Traps (.tilPut d a b) s tr.cause tr.info)

/-! ## The cluster -/

/-- The issuing core may arrive at the peg line of its cluster, and the arrivals there are other threads' (R223, R225). -/
def MayArrive (s : State) : Prop :=
  (∀ i, i < 8 → s.co.launch ≠ none ∧ (s.cor (8 * s.cl + i)).launch = s.co.launch) ∧ s.pegBusy = false ∧
  ∀ x ∈ (s.clu s.cl).arrivals, x.thread ≠ s.cur

/-- The issuing core is one of a launch that holds its cluster, and its earlier arrival is there yet (R223, R225). -/
def ArrivesLater (s : State) : Prop :=
  (∀ i, i < 8 → s.co.launch ≠ none ∧ (s.cor (8 * s.cl + i)).launch = s.co.launch) ∧ s.pegBusy = true

/-- The checks of a `gang.mm` passed with this arrival: at this issue, or at the one since which it has waited for its
core's earlier arrival (R230). -/
def GangChecked (s : State) (d a : Reg) (x : GangArr) : Prop :=
  s.th.gangAt = some x ∨ (s.th.gangAt = none ∧ s.gangChecks d (s.th.rg a) = .ok x)

/-- A value of a block element that is no NaN and no infinity. -/
def finiteVal : FVal → Prop
  | .fin _ _ _ => True
  | _ => False

/-- A NaN. -/
def nanVal : FVal → Prop
  | .nan _ _ => True
  | _ => False

/-- A zero of either sign. -/
def zeroVal0 : FVal → Prop
  | .fin _ m _ => m = 0
  | _ => False

/-- The sign of a value. -/
def negVal : FVal → Bool
  | .nan n _ => n
  | .inf n => n
  | .fin n _ _ => n

/-- R71 to R75: one step of the joint array takes the accumulator `x` to `y`, for the levels `a` and `b` of a block pair and their
scales. A term whose A or B element is an exact zero is dropped, and where all are the accumulator stays. A NaN in a term or in
the accumulator, infinities of both signs, or an infinity beside an accumulator that is the other, give the default NaN; other
infinities themselves; and finite terms the exact sum of the accumulator and of the sum of the products times both scales, rounded
once, to nearest even, where it is not 0. -/
def MatrixStep (a b : Nat → FVal) (sa sb : ℚ) (x y : Nat) : Prop :=
  let live := fun i => i < 16 ∧ ¬ zeroVal0 (a i) ∧ ¬ zeroVal0 (b i)
  let infinite := fun i n => live i ∧ (¬ finiteVal (a i) ∨ ¬ finiteVal (b i)) ∧ (negVal (a i) ^^ negVal (b i)) = n
  let total : ℚ := ((List.range 16).map fun i => numberOf (a i) * numberOf (b i)).sum * sa * sb
  ((∀ i, ¬ live i) → y = x) ∧
  ((∃ k, live k) →
    ((∃ i, live i ∧ (nanVal (a i) ∨ nanVal (b i))) ∨ ((∃ i, infinite i true) ∧ ∃ i, infinite i false) ∨ NanIn fmt32 x →
      y = 0x7FC00000) ∧
    ((∀ i, live i → ¬ nanVal (a i) ∧ ¬ nanVal (b i)) → ¬ NanIn fmt32 x →
      (∀ n : Bool, (∃ i, infinite i n) → (∀ i, ¬ infinite i (!n)) →
        y = if x = infinityOf fmt32 (!n).toNat then 0x7FC00000 else infinityOf fmt32 n.toNat) ∧
      ((∀ i, live i → finiteVal (a i) ∧ finiteVal (b i)) →
        (∀ n : Bool, x = infinityOf fmt32 n.toNat → y = x) ∧
        ∀ v : ℝ, IsNumber fmt32 x v →
          (v + ((total : ℚ) : ℝ) = 0 → y = 0) ∧
          (v + ((total : ℚ) : ℝ) ≠ 0 → ∃ fl, RoundedTo fmt32 0 (v + ((total : ℚ) : ℝ)) (y, fl)))))

/-- Steps in order, one for each number of a list. -/
def StepsFrom (step : Nat → Nat → Nat → Prop) : List Nat → Nat → Nat → Prop
  | [], x, y => y = x
  | k :: ks, x, y => ∃ z, step k x z ∧ StepsFrom step ks z y

/-- R61 to R65, R73: the value of element `i` of a block of type `ty` (0 FP16, 1 BF16, 2 `blk4`, 3 `blk8`) before its scale, by the
decode tables that the arrival captured. -/
def operandLevel (tabs : AMap (BitVec 19)) (ty h pay i : Nat) : FVal :=
  let c : Core := { Core.init with tabs := tabs }
  if ty < 2 then unpack (if ty = 0 then fmt16 else fmtB16) (pay / 2 ^ (16 * i) % 2 ^ 16)
  else if h % 8 = 7 then .nan false 0x200
  else if h / 8 % 256 = 0 then .fin false 0 0
  else if ty = 2 then c.level .blk4 (h % 8) (payloadCode .blk4 pay i)
  else c.level .blk8 (h % 8) (payloadCode .blk8 pay i)

/-- R59, R73: its scale. -/
def operandScale (ty h : Nat) : ℚ := if ty < 2 ∨ h % 8 = 7 then 1 else scaleNumber (h / 8 % 256)

/-- The live K blocks of an arrival, ascending (Table 11-3). -/
def liveList (x : GangArr) : List Nat :=
  (List.range (fieldOf x.desc 4 2)).filter fun j => (fieldOf x.desc 8 8).testBit j

/-- R229: where K block `j` of row `r` stands among the stored blocks of an A slice. -/
def aPlace (x : GangArr) (r j : Nat) : Nat :=
  if (fieldOf x.desc 3 1).testBit 1 then r * (liveList x).length + ((liveList x).filter (· < j)).length
  else r * fieldOf x.desc 4 2 + j

/-- R229, R231: element `i` of K block `j` of column `n` of a B tile: with `s24` the stored element that its index word names for
this position, or +0. -/
def bLevel (x : GangArr) (n j i : Nat) : FVal :=
  let k := n * fieldOf x.desc 4 2 + j
  let stored := operandLevel x.tabs (fieldOf x.desc 1 1) (x.bhdr.getD k 0) (x.bpay.getD k 0)
  let w := x.bidx.getD k 0 / 2 ^ (4 * (i / 4))
  if (fieldOf x.desc 3 1).testBit 2 then
    if w % 4 = i % 4 then stored (2 * (i / 4))
    else if w / 4 % 4 = i % 4 then stored (2 * (i / 4) + 1)
    else .fin false 0 0
  else stored i

/-- R231: one K block of an element's part: row `r` of an A slice with column `n` of a B tile. -/
def PartStep (a b : GangArr) (r n j : Nat) : Nat → Nat → Prop :=
  MatrixStep (operandLevel a.tabs (fieldOf a.desc 0 1) (a.ahdr.getD (aPlace a r j) 0) (a.apay.getD (aPlace a r j) 0))
    (bLevel b n j) (operandScale (fieldOf a.desc 0 1) (a.ahdr.getD (aPlace a r j) 0))
    (operandScale (fieldOf b.desc 1 1) (b.bhdr.getD (n * fieldOf b.desc 4 2 + j) 0))

/-- R231, R232: the part of a core has done its work on the core's accumulators, `x` before and `y` after: every element of the 16 rows, and of
the 16 columns of each tile, has its live K blocks added in ascending order, from +0 where the descriptor clears it; the other
accumulators stay. -/
def PartSums (x y : AMap (BitVec 32)) (me : GangArr) (tiles : List GangArr) : Prop :=
  let at_ := fun (b : GangArr) r n => 2048 * fieldOf me.desc 2 1 + 128 * r + 16 * b.pos + n
  (tiles.map (·.pos)).Nodup → (∀ b ∈ tiles, b.pos < 8) →
    (∀ b ∈ tiles, ∀ r n, r < 16 → n < 16 →
      StepsFrom (PartStep me b r n) (liveList me)
        (if (fieldOf me.desc 3 1).testBit 0 then 0 else (x.get 0 (at_ b r n)).toNat) (y.get 0 (at_ b r n)).toNat) ∧
    ∀ k, k / 2048 ≠ fieldOf me.desc 2 1 → y.get 0 k = x.get 0 k

/-- R229, R232: the payload of an operand plane read at a join: `n` blocks of `size` bytes from `base`. -/
def ReadsPlane (c : Core) (pays : List Nat) (base size n : Nat) : Prop :=
  ∀ k, k < n → pays.getD k 0 = natOfBytes ((List.range size).map fun i => c.scrByte (base + size * k + i))

/-- Payload bytes of a block of a type (R57, R229). -/
def payloadSize (ty : Nat) : Nat := if ty < 2 then 32 else if ty = 2 then 8 else 16

/-- R61 to R65, R71 to R75, R222 to R237, R241, R325: `gang.peg` and `gang.mm` arrive at the peg line and wait for the eighth arrival, which
completes a bare barrier or begins a phase of the joint array, and while its core's earlier arrival is there the thread
waits for that with what its checks captured; the payloads are read at the join; a part writes the sums of R71 to R75 to its core's
accumulator and completes its thread; the accumulator forms read, write and clear elements; `sprs.scan` marks and lists the live
blocks, every element read before a byte of the list is written (R325), `sprs.s24` finds the kept positions; `lathe.req` enters a
request while its cluster holds less than four. A scratchpad address that fails its checks traps (R121, R122). The model's choices here: log entries 6, 32 and 126 (an arrival with `e` = 0). -/
def Obligations.ClusterForms : Prop :=
  ∀ (s : State) (e : BitVec 4) (d a b : Reg), s.th.st = .ready →
    let xs := (s.clu s.cl).arrivals
    (MayArrive s → xs.length < 7 → ∃ t, exec (.gangPeg e d) s = .next t ∧
      if e = 0 then EndsWith s t d 1
      else WaitsFor s t .waiting .peg ∧ ∃ x, (t.clu s.cl).arrivals = xs ++ [x] ∧ x.thread = s.cur ∧ x.mm = false) ∧
    (MayArrive s → xs.length = 7 → (∀ x ∈ xs, x.mm = false) → ∃ t, exec (.gangPeg e d) s = .next t ∧ EndsWith s t d 0 ∧
      (t.clu s.cl).arrivals = [] ∧
      ∀ x ∈ xs, (s.thr x.thread).st = .waiting → (s.thr x.thread).wait.map (·.kind) = some .peg →
        (t.thr x.thread).st = .ready) ∧
    (ArrivesLater s → ∃ t, exec (.gangPeg e d) s = .next t ∧
      if e = 0 then EndsWith s t d 1 else WaitsFor s t .waiting .arrival) ∧
    (∀ x, GangChecked s d a x → ArrivesLater s → ∃ t, exec (.gangMm e d a) s = .next t ∧
      if e = 0 then EndsWith s t x.d 1 else WaitsFor s t .waiting .arrival ∧ t.th.gangAt = some x) ∧
    (∀ x, GangChecked s d a x → x.d = d → MayArrive s →
      (xs.length < 7 → ∃ t, exec (.gangMm e d a) s = .next t ∧
        if e = 0 then EndsWith s t d 1 else WaitsFor s t .waiting .peg ∧ (t.clu s.cl).arrivals = xs ++ [x]) ∧
      (xs.length = 7 → mismatchInfo (xs ++ [x]) = none → ∃ t, exec (.gangMm e d a) s = .next t ∧
        WaitsFor s t .waiting .peg ∧ (t.clu s.cl).arrivals = [] ∧ (t.clu s.cl).running = List.range 8 ∧
        ∀ p y, p < 8 → (xs ++ [x]).find? (·.pos == p) = some y → (s.cor (8 * s.cl + p)).spoison = [] →
          ∃ z ∈ (t.clu s.cl).joined, z = { y with apay := z.apay, bpay := z.bpay } ∧
            (let kb := fieldOf y.desc 4 2
             let half := (fieldOf y.desc 3 1).testBit 2
             let na := if (fieldOf y.desc 3 1).testBit 1 then (liveList y).length else kb
             ReadsPlane (s.cor (8 * s.cl + p)) z.apay (fieldOf y.desc 0x20 4) (payloadSize (fieldOf y.desc 0 1)) (16 * na) ∧
             ReadsPlane (s.cor (8 * s.cl + p)) z.bpay (fieldOf y.desc 0x28 4)
               (payloadSize (fieldOf y.desc 1 1) / if half then 2 else 1) (16 * kb)))) ∧
    (∀ cl p me, (s.clu cl).running.contains p = true → (s.clu cl).joined.find? (·.pos == p) = some me →
      (s.thr me.thread).st = .waiting → (s.thr me.thread).wait.map (·.kind) = some .peg →
      ∃ t, exec (.gangPartComplete cl p) s = .next t ∧ (t.thr me.thread).st = .ready ∧
        (t.thr me.thread).rg me.d = 0 ∧ (t.clu cl).running = (s.clu cl).running.filter (· != p) ∧
        ((∀ c, c < 16 → (s.thr (threadOf (8 * cl + p) c)).wait.map (·.kind) ≠ some (.accumulator (fieldOf me.desc 2 1))) →
          PartSums (s.cor (8 * cl + p)).acc (t.cor (8 * cl + p)).acc me (s.clu cl).joined)) ∧
    (let g := s.th.rg a
     let at_ := fun i => accIdx (bitsAt g 0 2) (bitsAt g 2 4) (16 * bitsAt g 6 3 + i)
     (s.accBusy (bitsAt g 0 2) = false →
      WritesLanes (.gangRdacc d a) s d 32 (fun _ => true) (fun i => (s.co.acc.get 0 (at_ i)).toNat) 0 ∧
      (∃ t, exec (.gangWracc d a) s = .next t ∧ EndsWith s t 0 0 ∧
        (∀ i, i < 16 → (t.co.acc.get 0 (at_ i)).toNat = lane 32 (s.th.rv d) i) ∧
        ∀ k, (∀ i, i < 16 → k ≠ at_ i) → t.co.acc.get 0 k = s.co.acc.get 0 k) ∧
      (∃ t, exec (.gangZacc a) s = .next t ∧ EndsWith s t 0 0 ∧
        ∀ k, t.co.acc.get 0 k = if k / 2048 = bitsAt g 0 2 then 0 else s.co.acc.get 0 k)) ∧
     (s.accBusy (bitsAt g 0 2) = true → ∃ t, exec (.gangRdacc d a) s = .next t ∧
      WaitsFor s t .waiting (.accumulator (bitsAt g 0 2)))) ∧
    (∀ x : ElemTy, let la := (s.th.rg a).toNat
     let gb := s.th.rg b
     let kb := bitsAt gb 0 7
     let rows := bitsAt gb 8 4 + 1
     let list := bitsAt gb 32 18
     let w := elemTyBytes x
     (kb = 0 ∨ 64 < kb → Traps (.sprsScan x d a b) s 0x71 (BitVec.ofNat 64 (bitsAt (s.th.rg a) 0 18 + 3 * 2 ^ 20))) ∧
     (1 ≤ kb → kb ≤ 64 → BlockChecks (.sprsScan x d a b) s w (rows * 16 * kb * w) (s.th.rg a) ∧
      (la % w = 0 → la < 2 ^ 18 → la + rows * 16 * kb * w ≤ s.scrLimit → s.scrLimit < list + kb →
        Traps (.sprsScan x d a b) s 0x14 (BitVec.ofNat 64 list))) ∧
     (1 ≤ kb → kb ≤ 64 → la % w = 0 → la < 2 ^ 18 → la + rows * 16 * kb * w ≤ s.scrLimit → list + kb ≤ s.scrLimit →
     s.co.spoison = [] → ∃ t, ∃ js : List Nat, exec (.sprsScan x d a b) s = .next t ∧ js.Pairwise (· < ·) ∧ (∀ j ∈ js, j < kb) ∧
      (∀ j, j < kb → (j ∈ js ↔ s.co.blockLive x la rows kb j = true)) ∧
      EndsWith s t d (BitVec.ofNat 64 (js.map fun j => 2 ^ j).sum) ∧
      (∀ k, k < js.length → t.co.scrByte (list + k) = BitVec.ofNat 8 (js.getD k 0)) ∧
      ∀ k, k < list ∨ list + js.length ≤ k → t.co.scrByte k = s.co.scrByte k)) ∧
    (∀ x : ElemTy, let nz := fun i => !exactZero x (lane (8 * elemTyBytes x) (s.th.rv a) i)
     (∀ w, s24Word nz [0, 1, 2, 3] = .ok w → WritesG (.sprsS24 x d a) s d (BitVec.ofNat 64 w)) ∧
     (∀ g, s24Word nz [0, 1, 2, 3] = .error g → Traps (.sprsS24 x d a) s 0x71 (BitVec.ofNat 64 (g + 6 * 2 ^ 20)))) ∧
    (let la := (s.th.rg a).toNat
     BlockChecks (.latheReq e d a b) s 8 64 (s.th.rg a) ∧ (s.th.gangAt = none → BlockChecks (.gangMm e d a) s 8 64 (s.th.rg a)) ∧
     (la % 8 = 0 → la < 2 ^ 18 → la + 64 ≤ s.scrLimit → s.co.spoison = [] →
      ((s.clu s.cl).lathe.length < 4 → ∃ t q, exec (.latheReq e d a b) s = .next t ∧ EndsWith s t d 0 ∧
        (t.clu s.cl).lathe = (s.clu s.cl).lathe ++ [q] ∧ q.core = s.ck ∧ q.cls = bitsAt (s.th.rg b) 0 4 ∧
        q.tag = bitsAt (s.th.rg b) 8 56 ∧ q.block = (List.range 64).map (fun i => s.co.scrByte (la + i)) ∧ q.answer = none) ∧
      (4 ≤ (s.clu s.cl).lathe.length → ∃ t, exec (.latheReq e d a b) s = .next t ∧
        if e = 0 then EndsWith s t d 2 else WaitsFor s t .waiting .lathePort)))

/-! ## Groups, prefetch, tables and contexts -/

/-- Nothing stands before what a form does after its release: its scope has none, the release has nothing to publish, or the
publication that it waited for is over (R129, R177, R204). -/
def ReleaseOver (s : State) (x : Scope) : Prop := ¬ reachesOut x ∨ s.th.released = true ∨ NothingToPublish s x

/-- The thread of a context on another die has its answer, which is on its way back: it goes on when that arrives (R280,
R319). -/
def OnItsWay (t : State) (u : Nat) : Prop := (t.thr u).st = .waiting ∧ ∃ n, (t.thr u).wait.map (·.kind) = some (.crossing n)

/-- Each thread that waits on a phase of a group has DONE: on the home's own die it is READY, on another its answer is on its
way (R299, R300, R323). -/
def WaitersDone (s t : State) (g : Nat) : Prop :=
  ∀ u w p wide, (s.thr u).st = .waiting → (s.thr u).wait = some w → w.kind = .phase g p wide →
    (t.thr u).rg w.d = 0 ∧ (∀ k, k ≠ w.d → (t.thr u).rg k = (s.thr u).rg k) ∧
    if coreDie (coreOf u) = groupDie g then (t.thr u).st = .ready else OnItsWay t u

/-- R86, R298 to R304, R319, R323: the forms of `grp` and `xpf` complete so. `grp.arrive` and `grp.drop` of a group whose home
is the thread's own die answer with the phase and change the group as R299 says, past a release that is over; of one on
another die they are sent there, and the thread waits for the reply, which the request's arrival at the home sends back to
it. A phase that completes gives DONE to each thread that waits on it. Where the release has a publication before it they
wait for that. `grp.wait` answers once the phase it names is over, and `grp.info` reads the group, for a member or not;
`grp.quiet` waits. An id that no valid `kgrp` register of the thread holds traps NOT_MEMBER, and a group whose home is
offline answers PEER_LOST. The forms of `xpf` read and clear the counters, queue a request, and cancel requests. The
model's choices here: log entries 6, 36, 37 (`grp.info` of a home that is offline), 86 (a group request passes the
write-through entries, and an answer crosses back in 2 ticks) and 106 (an arrival by a thread that is no member, and an
entry that is not there). -/
def Obligations.GroupForms : Prop :=
  ∀ (s : State) (x : Scope) (e : BitVec 4) (d a b : Reg), s.th.st = .ready →
    let g := bitsAt (s.th.rg a) 0 12
    let online := (s.die (groupDie g)).online
    (s.th.groups.contains g = true → online = true →
      (∀ y, s.groups.find g = some y → ReleaseOver s x → groupDie g = coreDie s.ck → AMap.sorted s.threads = true →
        (∀ m, y.memberOf s.cur = some m →
          (∀ r, y.arrive m = some r → ∃ t, exec (.grpArrive x d a) s = .next t ∧ t.groups.find g = some r.1 ∧
            t.th.rg d = (if d = 0 then 0 else BitVec.ofNat 64 (y.c * 256)) ∧ Keeps [d] [] [] s.th t.th ∧
            t.th.kstat = s.th.kstat ∧ NextWord s.th t.th ∧ Completed t.th ∧ (r.2 = true → WaitersDone s t g)) ∧
          (y.arrive m = none → ∃ t, exec (.grpArrive x d a) s = .next t ∧ t.th.st = .trapped ∧ t.th.kcause = 0x50 ∧
            t.th.kinfo = BitVec.ofNat 64 (g + y.c * 2 ^ 16) ∧ t.th.pc = s.th.pc ∧ t.th.g = s.th.g ∧ t.groups = s.groups) ∧
          (∃ t, exec (.grpDrop x d a) s = .next t ∧ t.groups.find g = some (y.leave m true).1 ∧ g ∉ t.th.groups ∧
            t.th.rg d = (if d = 0 then 0 else BitVec.ofNat 64 (y.c * 256)) ∧ (∀ r, r ≠ d → t.th.rg r = s.th.rg r) ∧
            t.th.v = s.th.v ∧ t.th.m = s.th.m ∧ t.th.kstat = s.th.kstat ∧ Completed t.th ∧
            ((y.leave m true).2 = true → WaitersDone s t g))) ∧
        (y.memberOf s.cur = none → ∀ i, i = .grpArrive x d a ∨ i = .grpDrop x d a → ∃ t, exec i s = .next t ∧
          t.th.st = .trapped ∧ t.th.kcause = 0x51 ∧ t.th.kinfo = BitVec.ofNat 64 g ∧ t.th.pc = s.th.pc ∧ t.th.g = s.th.g ∧
          t.groups = s.groups)) ∧
      (ReleaseOver s x → groupDie g ≠ coreDie s.ck →
        let sent := fun i op => ∃ t, exec i s = .next t ∧ t.th.st = .waiting ∧ t.th.wait.map (·.kind) = some .groupReq ∧
          t.th.pc = s.th.pc ∧ Keeps [] [] [] s.th t.th ∧ t.groups = s.groups ∧
          t.co.outq = s.co.outq ++ [{ thread := s.cur, gid := g, op := op }]
        sent (.grpArrive x d a) .arrive ∧ sent (.grpDrop x d a) .drop) ∧
      (let y := (s.groups.find g).getD (Group.empty 0)
       (y.c ≠ bitsAt (s.th.rg b) 0 16 → ∃ t, exec (.grpWait x e d a b) s = .next t ∧ EndsWith s t d 0 ∧
         (reachesOut x → ∀ e ∈ t.co.l1, e.2.ro = true ∨ e.2.valid = e.2.dirty)) ∧
       (y.c = bitsAt (s.th.rg b) 0 16 → ∃ t, exec (.grpWait x e d a b) s = .next t ∧
         if e = 0 then EndsWith s t d 1
         else ∀ wide, (wide = true ↔ reachesOut x) → WaitsFor s t .waiting (.phase g y.c wide)) ∧
       ∃ t, exec (.grpInfo d a) s = .next t ∧
         EndsWith s t d (BitVec.ofNat 64 (y.c + y.bits.length * 2 ^ 16 + y.x * 2 ^ 33)))) ∧
    (s.th.groups.contains g = true → reachesOut x → s.th.released = false → ¬ NothingToPublish s x →
      WaitsToPublish (.grpArrive x d a) s ∧ WaitsToPublish (.grpDrop x d a) s) ∧
    (∀ ck q y m r w, AMap.sorted s.threads = true → (s.cor ck).resent = [] → s.groupReady ck = some q →
      s.groups.find q.gid = some y → y.memberOf q.thread = some m → (s.thr q.thread).st = .waiting →
      (s.thr q.thread).wait = some w → w.kind = .groupReq →
      (if q.op = .arrive then y.arrive m = some r else q.op = .drop ∧ r = y.leave m true) →
      ∃ t, exec (.homeRequestArrival ck) s = .next t ∧ t.groups.find q.gid = some r.1 ∧ OnItsWay t q.thread ∧
        (t.thr q.thread).rg w.d = (if w.d = 0 then 0 else BitVec.ofNat 64 (y.c * 256)) ∧
        (∀ k, k ≠ w.d → (t.thr q.thread).rg k = (s.thr q.thread).rg k) ∧
        ((s.thr q.thread).inFrame = false → (t.thr q.thread).pc = (s.thr q.thread).pc + 4) ∧
        (r.2 = true → WaitersDone s t q.gid)) ∧
    (∀ u, OnItsWay s u → ∃ t, exec (.replyArrival u) s = .next t ∧ (t.thr u).st = .ready ∧ (t.thr u).g = (s.thr u).g ∧
      (t.thr u).pc = (s.thr u).pc ∧ ∀ k, k ≠ u → t.thr k = s.thr k) ∧
    (s.th.groups.contains g = true → online = false → WritesG (.grpWait x e d a b) s d 3 ∧
      (∃ t v, exec (.grpInfo d a) s = .next t ∧ EndsWith s t d v) ∧
      (ReleaseOver s x → (∃ t, exec (.grpArrive x d a) s = .next t ∧ EndsThread s t d 3) ∧
        ∃ t, exec (.grpDrop x d a) s = .next t ∧ EndsThread s t d 3)) ∧
    (s.th.groups.contains g = false →
      let bad := fun i => Traps i s 0x51 (BitVec.ofNat 64 g)
      bad (.grpArrive x d a) ∧ bad (.grpDrop x d a) ∧ bad (.grpWait x e d a b) ∧ bad (.grpInfo d a)) ∧
    (∃ t, exec (.grpQuiet e d) s = .next t ∧ if e = 0 then EndsWith s t d 1 else WaitsFor s t .waiting .quiet) ∧
    (let die := coreDie s.ck
     let la := (s.th.rg a).toNat
     (s.co.launch ≠ none → (s.die die).rtClaim = s.co.launch → la % 64 = 0 → la < 2 ^ 18 → la + 1024 ≤ s.scrLimit →
      s.co.takers = [] → ∃ t, exec (.xpfSnap d a) s = .next t ∧ EndsWith s t d 0 ∧ (t.die die).rtCount = [] ∧
        ∀ i, i < 128 → t.co.scratch.get 0 (la / 8 + i) =
          BitVec.ofNat 64 ((s.die die).rtCount.get 0 (2 * i) + (s.die die).rtCount.get 0 (2 * i + 1) * 2 ^ 32)) ∧
     (s.co.launch = none ∨ (s.die die).rtClaim ≠ s.co.launch → Traps (.xpfSnap d a) s 0x11 (BitVec.ofNat 64 die)) ∧
     (s.co.launch ≠ none → (s.die die).rtClaim = s.co.launch → BlockChecks (.xpfSnap d a) s 64 1024 (s.th.rg a)) ∧
     (canonical la = true → la % 4096 = 0 → bitsAt (s.th.rg b) 0 20 ≠ 0 →
      ((s.die die).xpf.length < 64 → ∃ t y, exec (.xpfReq d a b) s = .next t ∧ EndsWith s t d (BitVec.ofNat 64 y.id) ∧
        (t.die die).xpf = (s.die die).xpf ++ [y] ∧ 1 ≤ y.id ∧ y.id ≤ 64 ∧ (∀ z ∈ (s.die die).xpf, z.id ≠ y.id) ∧
        y.base = la ∧ y.pages = bitsAt (s.th.rg b) 0 20 ∧ y.dl = s.tick + 256 * bitsAt (s.th.rg b) 32 32) ∧
      (64 ≤ (s.die die).xpf.length → WritesG (.xpfReq d a b) s d 2)) ∧
     (let hit := fun (y : XpfReq) => y.lid == s.co.launch.getD 0 && y.ex == bitsAt (s.th.rg a) 0 8
      ∃ t, exec (.xpfCancel d a) s = .next t ∧ EndsWith s t d (BitVec.ofNat 64 ((s.die die).xpf.countP hit)) ∧
        (t.die die).xpf = (s.die die).xpf.filter (!hit ·)))

/-- A thread that `sys.tsave` or `sys.tload` may name (R137). -/
def SaveTarget (s : State) (u : Nat) : Prop :=
  u / 8192 < 12 ∧ (s.cor (coreOf u)).launch ≠ none ∧ ctxOf u < (s.cor (coreOf u)).nctx ∧
  (s.thr u).st ≠ .idle ∧ (s.thr u).st ≠ .ended

/-- R131, R132, R135, R137, R138, R281, R322: `sys.nuld` loads a decode table from the scratchpad and `sys.nust` stores it there;
`sys.tsave` asks for the save of a context and waits for it, or answers BUSY while that holds an open packet;
a second one waits until the first is complete; `sys.tload` restores a SAVED context from its slot; at launch level both
trap PRIVILEGE. What a thread of another die is asked waits while that relocks (R322). `nuld` and `nust` have their effect when
they complete: a save before that withdraws them (R132). Their address traps where it fails its checks (R121, R122). The model's choices here: log entries 40 and 93. -/
def Obligations.ContextForms : Prop :=
  ∀ (s : State) (d a : Reg) (k : DTable), s.th.st = .ready →
    (let la := (s.th.rg a).toNat
     let first := (tableAt k).1
     let n := (tableAt k).2
     BlockChecks (.sysNuld a k) s 4 (4 * n) (s.th.rg a) ∧ BlockChecks (.sysNust a k) s 4 (4 * n) (s.th.rg a) ∧
     (la % 4 = 0 → la < 2 ^ 18 → la + 4 * n ≤ s.scrLimit →
      (∃ t, exec (.sysNuld a k) s = .next t ∧ OnlyThread s t ∧ WaitsFor s t .waiting (.tableMove true k la)) ∧
      ∃ t, exec (.sysNust a k) s = .next t ∧ OnlyThread s t ∧ WaitsFor s t .waiting (.tableMove false k la)) ∧
     ∀ u b, (s.thr u).st = .waiting →
      let c := s.cor (coreOf u)
      let moves := fun (load : Bool) => (s.thr u).wait.map (·.kind) = some (.tableMove load k b)
      let ended := fun (t : State) => (t.thr u).st = .ready ∧ (t.thr u).wait = none ∧ Keeps [] [] [] (s.thr u) (t.thr u) ∧
        NextWord (s.thr u) (t.thr u) ∧ t.mem = s.mem ∧ ∀ v, v ≠ u → t.thr v = s.thr v
      (moves true → c.spoison = [] → ∃ t, exec (.replyArrival u) s = .next t ∧ ended t ∧
        (∀ j, j < n → (t.cor (coreOf u)).tabs.get 0 (first + j) = BitVec.ofNat 19 (c.scrRead (b + 4 * j) 4)) ∧
        (∀ i, i < first ∨ first + n ≤ i → (t.cor (coreOf u)).tabs.get 0 i = c.tabs.get 0 i) ∧
        t.cor (coreOf u) = { c with tabs := (t.cor (coreOf u)).tabs }) ∧
      (moves false → c.spoison = [] → ∃ t, exec (.replyArrival u) s = .next t ∧ ended t ∧
        (∀ j, j < n → (t.cor (coreOf u)).scrRead (b + 4 * j) 4 = (c.tabs.get 0 (first + j)).toNat) ∧
        (∀ i, i < b ∨ b + 4 * n ≤ i → (t.cor (coreOf u)).scrByte i = c.scrByte i) ∧
        (t.cor (coreOf u)).tabs = c.tabs ∧ (t.cor (coreOf u)).empty = c.empty)) ∧
    (s.th.service = false → Traps (.sysTsave d a) s 0x03 (s.th.word.setWidth 64) ∧
      Traps (.sysTload d a) s 0x03 (s.th.word.setWidth 64)) ∧
    (let u := bitsAt (s.th.rg a) 0 17
     s.th.service = true → SaveTarget s u → (¬ Near s u → HeldOff (.sysTsave d a) s ∧ HeldOff (.sysTload d a) s) ∧ (Near s u →
      ((s.thr u).st ≠ .saved → (s.thr u).packet = [] → (s.thr u).saveFrom = none → ∃ t, exec (.sysTsave d a) s = .next t ∧
        (t.thr u).saveFrom = some s.tick ∧ WaitsFor s t .waiting (.save u)) ∧
      ((s.thr u).st ≠ .saved → (s.thr u).packet = [] → (s.thr u).saveFrom ≠ none → ∃ t, exec (.sysTsave d a) s = .next t ∧
        WaitsFor s t .waiting (.saved u)) ∧
      ((s.thr u).st ≠ .saved → (s.thr u).packet ≠ [] → WritesG (.sysTsave d a) s d 2) ∧
      ((s.thr u).st = .saved → Traps (.sysTsave d a) s 0x11 (BitVec.ofNat 64 u)) ∧
      ((s.thr u).saveFrom ≠ none → ∃ t, exec (.sysTload d a) s = .next t ∧ WaitsFor s t .waiting (.saved u)) ∧
      ((s.thr u).st ≠ .saved → (s.thr u).saveFrom = none → Traps (.sysTload d a) s 0x11 (BitVec.ofNat 64 u)) ∧
      ((s.thr u).st = .saved → (s.thr u).saveFrom = none → (s.thr u).parkedStart = false → coreOf u = s.ck ∨ NoRelock s →
        ∃ t, exec (.sysTload d a) s = .next t ∧ t.th.rg d = 0 ∧
        Keeps [d] [] [] s.th t.th ∧ Completed t.th ∧ (t.thr u).pc = s.slotRead u 287 ∧
        (∀ r : Reg, r ≠ 0 → (t.thr u).rg r = s.slotRead u (255 + r.val)) ∧
        (t.thr u).st = if bitAt (s.slotRead u 319) 0 then .trapped else .ready)))
/-! ## Events of the engines -/

/-- A thread's wait has ended: it is READY with no wait, and eligible from the next cycle (R115, R119). -/
def Woken (t : State) (u : Nat) : Prop := (t.thr u).st = .ready ∧ (t.thr u).wait = none ∧ (t.thr u).justReady = true

/-- R20, R41, R91, R94, R115, R117 to R119, R130, R133 to R135, R158, R264, R276, R277, R281: what ends a wait and what delivers completes so:
a reply, a limit that has passed, a message that arrives or leaves its die's trap queue, a save, an instruction line, a page
walk. A message goes to the core and launch that it was posted for, waits in the trap queue of the die where the mailbox is
full or the launch is SAVED, and else goes to the service. A limit traps TENURE_CONFLICT at a home load that is blocked yet,
and lets one go on that is not; an answer that is on its way back has 64 ticks more, and is TIMEOUT where a relock holds it up
(log entry 135). A message under a permit is counted by its sender's core (R301), needs no free slot, and goes with its launch. A save writes the registers as they stand, or as they stood before a form that it withdraws.
An uncorrectable word of a table traps with its address in `kinfo`, and at a
`rep` whose body it hides with the body word's. The model's choices here: log entries 6, 14, 17 (that UNCORRECTABLE), 40, 63, 69 (a class
entry's two low bits are dropped), 134 and 135. -/
def Obligations.ThreadEvents : Prop :=
  ∀ (s : State) (u : Nat),
    (∀ w, (s.thr u).st = .waiting → (s.thr u).wait = some w →
      w.kind = .reply ∨ (∃ n, w.kind = .crossing n) ∨ w.kind = .deviceStore →
        ∃ t, exec (.replyArrival u) s = .next t ∧ Woken t u ∧ Keeps [] [] [] (s.thr u) (t.thr u) ∧
        (t.thr u).pc = (s.thr u).pc ∧ (t.thr u).kstat = (s.thr u).kstat ∧ t = { s with threads := t.threads } ∧
        ∀ v, v ≠ u → t.thr v = s.thr v) ∧
    (∀ w, (s.thr u).st = .waiting ∨ (s.thr u).st = .parked → (s.thr u).wait = some w → 1 ≤ w.e → w.e ≤ 14 →
      w.since + 2 ^ (6 + w.e) ≤ s.tick →
      ((s.thr u).before = none → (∀ ps, w.kind ≠ .homeLoad ps) → (∀ n, w.kind ≠ .crossing n) → ∃ t, exec (.waitExpiry u) s = .next t ∧
        Woken t u ∧ (t.thr u).rg w.d = (if w.d = 0 then 0 else expiryStatus w.kind) ∧
        (∀ r, r ≠ w.d → (t.thr u).rg r = (s.thr u).rg r) ∧ NextWord (s.thr u) (t.thr u)) ∧
      (∀ n, w.kind = .crossing n → w.since + 2 ^ (6 + w.e) + 64 ≤ s.tick → ∃ t, exec (.waitExpiry u) s = .next t ∧
        Woken t u ∧ (t.thr u).pc = (s.thr u).pc ∧ (∀ r, r ≠ w.d → (t.thr u).rg r = (s.thr u).rg r) ∧
        (t.thr u).rg w.d =
          if (s.die (coreDie (coreOf u))).online = true ∧ (s.die (coreDie (coreOf u))).clock.t0 = none ∧ ∀ y ∈ (s.thr u).asked, (s.die y.die).clock.t0 = none
          then (s.thr u).rg w.d else if w.d = 0 then 0 else 1) ∧
      (∀ ps va, w.kind = .homeLoad ps → s.homeBlocked (coreOf u) ps = some va → ∃ t, exec (.waitExpiry u) s = .next t ∧
        (t.thr u).st = .trapped ∧ (t.thr u).kcause = 0x31 ∧ (t.thr u).kinfo = BitVec.ofNat 64 va ∧
        (t.thr u).pc = (s.thr u).pc ∧ (t.thr u).g = (s.thr u).g) ∧
      (∀ ps, (s.thr u).st = .waiting → w.kind = .homeLoad ps → s.homeBlocked (coreOf u) ps = none →
        AMap.sorted s.threads = true →
        (∀ e ∈ s.homeAt (coreOf u) ps, ∀ pa, e.2 = some pa → s.homeBad (coreOf u) (pa / 8) = false) →
        ∃ t, exec (.waitExpiry u) s = .next t ∧ Woken t u ∧ (t.thr u).pc = (s.thr u).pc ∧ (t.thr u).g = (s.thr u).g)) ∧
    (∀ qs p r, s.transit = qs ++ p :: r → (∀ q ∈ qs, s.heldPost q = true) → s.heldPost p = false →
      (∀ ck ce, p.core = some ck → ck < 65536 → (s.die (coreDie ck)).online = true → (s.cor ck).launch = p.lid →
        (s.cor ck).classes.find p.msg.cls = some ce →
        (p.msg.permitted = true ∨ ((s.cor ck).mailFull false = false ∧
            ∀ q ∈ (s.die (coreDie ck)).trapQ, q.core ≠ some ck ∨ q.lid ≠ p.lid) → ∃ t, exec .messageArrival s = .next t ∧
          t.transit = qs ++ r ∧ (t.cor ck).mailbox = (s.cor ck).mailbox ++ [p.msg] ∧
          (p.msg.permitted = true → (s.cor (coreOf p.msg.sender)).launch = p.lid →
            (t.cor (coreOf p.msg.sender)).sentCount = (s.cor (coreOf p.msg.sender)).sentCount + 1) ∧
          (let v := threadOf ck ce.ctx
           (t.thr v).readyBit = true ∧
            ((s.thr v).st = .parked → (s.thr v).parkedStart = false → Woken t v ∧ (t.thr v).pc = (s.thr v).pc) ∧
            ∀ a, (s.thr v).st = .parked → (s.thr v).parkedStart = true → (s.cor ck).mailbox = [] → ce.entry = some a →
              (t.thr v).st = .ready ∧ (t.thr v).pc.toNat = a.toNat / 4 * 4)) ∧
        (p.msg.permitted = false → (s.cor ck).mailFull false = true → ∃ t, exec .messageArrival s = .next t ∧ t.transit = qs ++ r ∧
          (t.die (coreDie ck)).trapQ = (s.die (coreDie ck)).trapQ ++ [p] ∧ t.cores = s.cores ∧ t.threads = s.threads)) ∧
      (∀ ck l c, p.core = some ck → ck < 65536 → (s.die (coreDie ck)).online = true → (s.cor ck).launch ≠ p.lid →
        p.lid = some l → (s.launchOf l).images.find ck = some c → c.classes.find p.msg.cls ≠ none →
        ∃ t, exec .messageArrival s = .next t ∧ t.transit = qs ++ r ∧
          (t.die (coreDie ck)).trapQ = (s.die (coreDie ck)).trapQ ++ [p] ∧
          (p.msg.permitted = false → t.cores = s.cores ∧ t.threads = s.threads)) ∧
      (p.fwd = none → (p.core = none ∧ p.trapRec = false) ∨
          (p.msg.permitted = false ∧ ∃ ck, p.core = some ck ∧ s.classReach ck p.msg.cls p.lid = 0) →
        ∃ t, exec .messageArrival s = .next t ∧ t = { s with transit := qs ++ r, service := p :: s.service }) ∧
      (∀ ck, p.core = some ck → p.msg.permitted = true → s.classReach ck p.msg.cls p.lid = 0 →
        exec .messageArrival s = .next { s with transit := qs ++ r })) ∧
    (∀ die qs p r ck, (s.die die).trapQ = qs ++ p :: r → (∀ q ∈ qs, s.canQueue q = false) →
      s.canQueue p = true → p.core = some ck → ∃ t, exec (.trapQueueDelivery die) s = .next t ∧ (t.die die).trapQ = qs ++ r ∧
        (t.cor ck).mailbox = (s.cor ck).mailbox ++ [p.msg]) ∧
    (u < 2 ^ 17 → s.saveReady u = true →
      ((s.thr u).before = none ∨ (s.thr u).st = .trapped → ∃ t, exec (.contextSaveComplete u) s = .next t ∧
        (t.thr u).st = .saved ∧ (t.thr u).saveFrom = none ∧ t.slotRead u 287 = (s.thr u).pc ∧
        (∀ r : Reg, r ≠ 0 → t.slotRead u (255 + r.val) = (s.thr u).rg r) ∧
        t.slotRead u 319 = (if (s.thr u).st = .trapped then 1 else 0) ∧
        ∀ v w, v ≠ u → (s.thr v).st = .waiting → (s.thr v).wait = some w → w.kind = .save u → Woken t v ∧
          (t.thr v).rg w.d = 0 ∧ NextWord (s.thr v) (t.thr v)) ∧
      (∀ b, (s.thr u).before = some b → (s.thr u).st ≠ .trapped → ∃ t, exec (.contextSaveComplete u) s = .next t ∧
        (t.thr u).st = .saved ∧ (t.thr u).saveFrom = none ∧ t.slotRead u 287 = b.pc ∧
        (∀ r : Reg, r ≠ 0 → t.slotRead u (255 + r.val) = b.g[r]) ∧ t.slotRead u 319 = 0)) ∧
    (∀ k, (s.thr u).saveFrom = some k → k + 2 ^ 20 ≤ s.tick → (s.thr u).packet ≠ [] → (s.thr u).saveTold = false →
      ∃ t p, exec (.saveDeferralReport u) s = .next t ∧ (t.thr u).saveTold = true ∧ t.transit = s.transit ++ [p] ∧
        p.core = none) ∧
    (∀ w va e, (s.thr u).wait = some w → w.kind = .icacheMiss va → tlbFind (s.cor (coreOf u)).tlb va = some e →
      ∃ t, exec (.icacheMissFill u) s = .next t ∧ Woken t u ∧
        (t.cor (coreOf u)).icache.find (va / 64) = some (s.fetchLine (ptePa e.pte + (va - va % 64 - e.va)))) ∧
    (∀ va, (s.thr u).walkVa = some va → s.hasWalker u = true →
      (∀ b e, s.walk (s.cor (coreOf u)).asid va = .leaf b e → ∃ t, exec (.pageWalkComplete u) s = .next t ∧ Woken t u ∧
        t.walks = s.walks.erase u ∧ (t.cor (coreOf u)).tlb = { va := b, pte := e } :: (s.cor (coreOf u)).tlb) ∧
      (s.walk (s.cor (coreOf u)).asid va = .noPage → ∃ t, exec (.pageWalkComplete u) s = .next t ∧
        (t.thr u).st = .trapped ∧ (t.thr u).kcause = 0x10 ∧ (t.thr u).kinfo = BitVec.ofNat 64 va) ∧
      (∀ pa, s.walk (s.cor (coreOf u)).asid va = .poisoned pa → ∃ t, exec (.pageWalkComplete u) s = .next t ∧
        (t.thr u).st = .trapped ∧ (t.thr u).kcause = 0x90 ∧
        ((∃ n len sd sa sb, decode (s.thr u).word.toNat = .ok (.rep n len sd sa sb)) → (t.thr u).kinfo = BitVec.ofNat 64 va) ∧
        ((¬ ∃ n len sd sa sb, decode (s.thr u).word.toNat = .ok (.rep n len sd sa sb)) →
          (t.thr u).kinfo = BitVec.ofNat 64 (pa / 8 * 8))))

/-- The value that an entry of a run takes where another enters it: the entering value where there is none and there is room,
else the combination of the two (R197, R203). -/
def EntersAs (old : Option Nat) (room : Prop) (r : Option Region) (v x : Nat) : Prop :=
  (old = none ∧ room ∧ x = v) ∨ ∃ o q, old = some o ∧ r = some q ∧ combine q.op q.vt o v = .ok x

/-- The least of some names. -/
def LeastOf (n : Nat) (xs : List Nat) : Prop := n ∈ xs ∧ ∀ m ∈ xs, n ≤ m

/-- The names that are on their way out of a core's batten (R203, R205). -/
def leavingBatten (s : State) (ck : Nat) : List Nat := (s.cor ck).merging ++ (s.cor ck).pubs.flatMap (·.batten)

/-- The names that are on their way out of a cluster's purlin (R205, R239). -/
def leavingPurlin (s : State) (cl : Nat) : List Nat :=
  (s.clu cl).draining ++ (List.range 8).flatMap fun i => (s.cor (8 * cl + i)).pubs.flatMap (·.purlin)

/-- A core's step is not behind one of a higher ring position in the same cycle (R238). -/
def MayStep (s : State) (ck : Nat) : Prop :=
  ∀ cyc pos, (s.clu (ck / 8)).mergeAt = some (cyc, pos) → cyc = (s.die (ck / 512)).cycle → pos ≤ ck % 8

/-- R203 to R206, R208, R238 to R240, R309, R310: the steps of the keyed engines. The least name of a merge, of a drain, and
the next of a settle leaves its run and stands in the run outside it with its value, or with the combination of the two; one
that cannot be combined stalls its run with a fault message; a full purlin starts to drain and a full quarter to settle; a
publication ends with its last entry, or with BUSY where an entry that it must carry finds the purlin full and stalled, whatever
waits there for room alone, or where, yet at its batten, a wide one needs a drain of the purlin that finds a beam full and
stalled. The steps of the cores of a cluster in one cycle go in ascending ring position. -/
def KeyedEngines (s : State) : Prop :=
  (∀ ck, ¬ MayStep s ck → exec (.battenMergeStep ck) s = .next s) ∧
  (∀ ck n p u w, ck < 65536 → (s.cor ck).stall = none → MayStep s ck → (s.cor ck).pubs = [p] → p.met = false →
    LeastOf n p.batten → (∀ m ∈ (s.cor ck).merging, m < n → (s.cor ck).batten.find m ≠ none ∧
      (s.clu (ck / 8)).purlin.find m = none) → (s.cor ck).batten.find n ≠ none → (s.clu (ck / 8)).purlin.find n = none →
    8192 ≤ (s.clu (ck / 8)).purlin.length → (s.clu (ck / 8)).pstall ≠ none → p.owner = some u → p.release = false →
    (s.thr u).st = .waiting → (s.thr u).wait = some w → w.kind = .publish →
    ∃ t, exec (.battenMergeStep ck) s = .next t ∧ (t.cor ck).pubs = [] ∧ Woken t u ∧
      (t.thr u).rg w.d = (if w.d = 0 then 0 else 2) ∧ (t.cor ck).batten = (s.cor ck).batten) ∧
  (∀ ck n v, ck < 65536 → (s.cor ck).stall = none → MayStep s ck → LeastOf n (leavingBatten s ck) →
    (s.cor ck).batten.find n = some v →
    let cl := ck / 8
    let r := s.region (s.cor ck).asid n
    let old := ((s.clu cl).purlin.find n).map (·.toNat)
    (∀ x, EntersAs old ((s.clu cl).purlin.length < 8192) r v.toNat x → ∃ t, exec (.battenMergeStep ck) s = .next t ∧
      (t.clu cl).purlin.find n = some (BitVec.ofNat 128 x) ∧ (∀ m, m ≠ n → (t.clu cl).purlin.find m = (s.clu cl).purlin.find m) ∧
      (t.cor ck).batten = (s.cor ck).batten.erase n ∧ (t.cor ck).merging = (s.cor ck).merging.erase n ∧
      (t.clu cl).mergeAt = some ((s.die (ck / 512)).cycle, ck % 8) ∧
      ∀ p u w, (s.cor ck).pubs = [p] → p.batten = [n] → p.purlin = [] → p.wide = false →
        p.met = false → p.owner = some u → p.release = false →
        (s.thr u).st = .waiting → (s.thr u).wait = some w → w.kind = .publish →
        (t.cor ck).pubs = [] ∧ Woken t u ∧ (t.thr u).rg w.d = 0) ∧
    (∀ o q why, old = some o → r = some q → combine q.op q.vt o v.toNat = .error why →
      ∃ t p st, exec (.battenMergeStep ck) s = .next t ∧ (t.cor ck).batten = (s.cor ck).batten ∧
        (t.clu cl).purlin = (s.clu cl).purlin ∧ (t.cor ck).stall = some st ∧ st.key = some n ∧ (t.cor ck).merging = [] ∧
        t.transit = s.transit ++ [p] ∧ p.core = some ck ∧ p.msg.cls = q.fclass ∧ p.msg.words = st.msg) ∧
    (old = none → 8192 ≤ (s.clu cl).purlin.length → (s.clu cl).pstall = none → ∃ t, exec (.battenMergeStep ck) s = .next t ∧
      (t.clu cl).draining = (s.clu cl).purlin.map (·.1) ∧ (t.cor ck).batten = (s.cor ck).batten)) ∧
  (∀ cl n v q, (s.clu cl).pstall = none → LeastOf n (leavingPurlin s cl) → (s.clu cl).purlin.find n = some v →
    s.region (s.clusterAsid cl) n = some q →
    let h := s.keyHome q n
    let key := 2 ^ 64 * s.clusterAsid cl + n
    let old := ((s.die h).beam.find key).map (·.toNat)
    n < 2 ^ 64 →
    (∀ x, EntersAs old (((s.die h).quarter (quarterOf n)).length < 131072) (some q) v.toNat x →
      ∃ t, exec (.purlinDrainStep cl) s = .next t ∧ (t.die h).beam.find key = some (BitVec.ofNat 128 x) ∧
        (∀ m, m ≠ key → (t.die h).beam.find m = (s.die h).beam.find m) ∧
        (t.clu cl).purlin = (s.clu cl).purlin.erase n ∧ (t.clu cl).draining = (s.clu cl).draining.erase n) ∧
    (∀ o why, old = some o → combine q.op q.vt o v.toNat = .error why →
      ∃ t p st, exec (.purlinDrainStep cl) s = .next t ∧ (t.clu cl).purlin = (s.clu cl).purlin ∧
        (t.die h).beam = (s.die h).beam ∧ (t.clu cl).pstall = some st ∧ st.key = some n ∧ (t.clu cl).draining = [] ∧
        t.transit = s.transit ++ [p] ∧ p.msg.words = st.msg) ∧
    (old = none → 131072 ≤ ((s.die h).quarter (quarterOf n)).length → (s.die h).bstall = none →
      ∃ t, exec (.purlinDrainStep cl) s = .next t ∧ (t.clu cl).purlin = (s.clu cl).purlin ∧
        (t.die h).settling.get [] (quarterOf n) = (s.die h).quarter (quarterOf n)) ∧
    (∀ i p u w, old = none → 131072 ≤ ((s.die h).quarter (quarterOf n)).length → (s.die h).bstall ≠ none → i < 8 →
      (s.cor (8 * cl + i)).pubs = [p] → (∀ j, j < 8 → j ≠ i → (s.cor (8 * cl + j)).pubs = []) →
      p.wide = true → p.batten ≠ [] → p.met = false → p.owner = some u → p.release = false →
      (s.thr u).st = .waiting → (s.thr u).wait = some w → w.kind = .publish →
      ∃ t, exec (.purlinDrainStep cl) s = .next t ∧ (t.cor (8 * cl + i)).pubs = [] ∧ Woken t u ∧
        (t.thr u).rg w.d = (if w.d = 0 then 0 else 2) ∧ (t.clu cl).purlin = (s.clu cl).purlin)) ∧
  (∀ die i k l v q, (s.die die).settling.get [] i = k :: l → (s.die die).bstall = none → (s.die die).beam.find k = some v →
    s.region (k / 2 ^ 64) (k % 2 ^ 64) = some q →
    let rg := k % 2 ^ 64 / 2 ^ 52
    let run := s.footing die (k / 2 ^ 64) rg q.vt
    let size := if q.vt = .fx128 then 32 else 16
    (∀ x, EntersAs (run.find (k % 2 ^ 64))
        (s.footBase die (k / 2 ^ 64) rg ≠ none ∧ size * (run.length + 1) ≤ q.cap * 2 ^ 20) (some q) v.toNat x →
      s.footBase die (k / 2 ^ 64) rg ≠ none → x < 2 ^ (8 * (size - 8)) → x < 2 ^ 128 → AMap.sorted run = true →
      ∃ t, exec (.beamSettleStep die i) s = .next t ∧ (t.die die).beam.find k = none ∧
        (t.footing die (k / 2 ^ 64) rg q.vt).find (k % 2 ^ 64) = some x ∧
        ∀ m, m ≠ k % 2 ^ 64 → (t.footing die (k / 2 ^ 64) rg q.vt).find m = run.find m) ∧
    (∀ why, (run.find (k % 2 ^ 64) = none ∧ q.cap * 2 ^ 20 < size * (run.length + 1) ∧ why = 3) ∨
        (∃ o, run.find (k % 2 ^ 64) = some o ∧ combine q.op q.vt o v.toNat = .error why) →
      ∃ t p st, exec (.beamSettleStep die i) s = .next t ∧ (t.die die).beam = (s.die die).beam ∧ t.mem = s.mem ∧
        (t.die die).bstall = some st ∧ st.key = some k ∧ t.transit = s.transit ++ [p] ∧ p.core = none ∧
        p.msg.words = st.msg))

/-- R281, R284, R344: the copies: the oldest copy of a unit moves every word that is left between its home, where the stores that
its core has queued stand first, and the scratchpad and ends with its notice, DONE; one of a die that is lost moves nothing and ends with PEER_LOST. -/
def CopiesEnd (s : State) : Prop :=
  ∀ (die q : Nat) (c : Copy) (r : List Copy), (s.die die).copyQ q = c :: r → coreOf c.thread < 65536 →
    let ck := coreOf c.thread
    let n := c.len / 8
    let at_ := fun i => (pieceAt c.pieces (8 * i)).1
    let notice := fun (p : Post) (status bytes pa : Nat) => p.core = some ck ∧ p.msg.cls = c.cls ∧
      p.msg.words = [BitVec.ofNat 64 ((if c.isIn then 1 + c.slot * 2 ^ 16 else 2) + status * 2 ^ 8 + bytes * 2 ^ 32),
        BitVec.ofNat 64 c.va, BitVec.ofNat 64 c.len, BitVec.ofNat 64 pa, BitVec.ofNat 64 s.tick, 0, 0, 0]
    let slotEnds := fun (t : State) => c.isIn = true → ((s.cor ck).slot c.slot).running ≤ 1 →
      ((t.cor ck).slot c.slot).st = .done
    (s.copyLost c = false → c.written ≤ n → (∀ i, c.written ≤ i → i < n → s.lostWord (at_ i / 8) = false ∧
        s.goneWord (at_ i / 8) = false) → (s.cor ck).spoison = [] → (s.cor ck).takers = [] →
      ∃ t p, exec (.copyCompletion die q) s = .next t ∧ (t.die die).copyQ q = r ∧ t.transit = s.transit ++ [p] ∧
        notice p 0 (8 * n) 0 ∧ slotEnds t ∧
        (c.isIn = true → ((s.cor ck).wtq = [] → t.mem = s.mem) ∧ ∀ i, c.written ≤ i → i < n →
          (t.cor ck).isFull (c.scr / 8 + i) = true ∧
          ((s.cor ck).wtq = [] ∨ (∀ e ∈ (s.cor ck).l1, e.2.dirty = 0) →
            bytesOf ((t.cor ck).scratch.get 0 (c.scr / 8 + i)).toNat 8 =
              (List.range 8).map fun j => s.seenByte ck (at_ i + j))) ∧
        (c.isIn = false → (t.cor ck).scratch = (s.cor ck).scratch ∧ ∀ i, c.written ≤ i → i < n →
          (∀ j, i < j → j < n → at_ j + 8 ≤ at_ i ∨ at_ i + 8 ≤ at_ j) →
          memRead t.mem (at_ i) 8 = bytesOf ((s.cor ck).scratch.get 0 (c.scr / 8 + i)).toNat 8)) ∧
    (s.copyLost c = true → ∃ t p, exec (.copyCompletion die q) s = .next t ∧ (t.die die).copyQ q = r ∧
      t.transit = s.transit ++ [p] ∧ notice p 3 (8 * c.written) 0 ∧ slotEnds t ∧ t.mem = s.mem)

/-- The bytes of a run by the work cycles that emit them, 16 in each (R243). -/
def sixteens (bs : List Nat) : List (List Nat) := (List.range ((bs.length + 15) / 16)).map fun i => (bs.drop (16 * i)).take 16

/-- R243, codec 1: the work cycles of a chunk's input, each with the bytes that it emits, and whether its last literal runs past
the end; the first number bounds the tokens. -/
def tokenCycles : Nat → List Nat → List (List Nat) × Bool
  | n + 1, tok :: r =>
    if tok < 0x80 then
      if r.length < tok + 1 then ([] :: sixteens r, true)
      else
        let rest := tokenCycles n (r.drop (tok + 1))
        ([] :: (sixteens (r.take (tok + 1)) ++ rest.1), rest.2)
    else
      let rest := tokenCycles n r
      ([] :: (sixteens (List.replicate (tok - 0x7F) 0) ++ rest.1), rest.2)
  | _, _ => ([], false)

/-- R243, Table 11-10: what a chunk emits and its code: of its work cycles those within the bound count, and of the bytes that they
emit those within the output size. -/
def chunkResult (codec z : Nat) (input : List Nat) : List Nat × Nat :=
  let all := if codec = 0 then (sixteens input, false) else tokenCycles input.length input
  let bound := z / 2 + 256
  let bs := (all.1.take bound).flatten
  (bs.take z, if z < bs.length then 1 else if bound < all.1.length then 2 else if all.2 then 4
    else if bs.length = z then 0 else 3)

/-- A request at the head of a cluster's lathe that starts on the scratchpad of its core: nothing there is uncorrectable and no
`fe.take` waits. -/
def LatheStarts (s : State) (cl kind : Nat) (q : LatheReq) (r : List LatheReq) : Prop :=
  (s.clu cl).lathe = q :: r ∧ q.answer = none ∧ fieldOf q.block 0 1 = kind ∧ (s.cor q.core).spoison = [] ∧
  (s.cor q.core).takers = []

/-- The request has its answer (Table 11-11): status, number of failing chunks, first failing index, its bytes, POISON blocks, and
words written. -/
def LatheAnswers (t : State) (cl : Nat) (q : LatheReq) (r : List LatheReq) (status nfail first flen poison words : Nat) : Prop :=
  (t.clu cl).lathe = { q with answer := some [BitVec.ofNat 64 q.tag,
    BitVec.ofNat 64 (fieldOf q.block 0 1 + status * 2 ^ 8 + nfail * 2 ^ 16 + first * 2 ^ 32),
    BitVec.ofNat 64 (flen + poison * 2 ^ 32), BitVec.ofNat 64 (8 * words), BitVec.ofNat 64 q.tacc] } :: r

/-- The bytes of a core's scratchpad outside `n` bytes at `a` stay, and every word that they touch is full where `wrote` holds of it;
the other full bits stay (R246). -/
def LatheWrote (c d : Core) (a n : Nat) (wrote : Nat → Prop) : Prop :=
  (∀ x, x < a ∨ a + n ≤ x → d.scrByte x = c.scrByte x) ∧
  (∀ w, a / 8 ≤ w → 8 * w < a + n → wrote w → d.isFull w = true) ∧
  ∀ w, w < a / 8 ∨ a + n ≤ 8 * w ∨ ¬ wrote w → d.isFull w = c.isFull w

/-- The fields that every request leaves zero, and its addresses (R242). -/
def LatheBlock (q : LatheReq) : Prop :=
  fieldOf q.block 2 2 = 0 ∧ (∀ i, i < 36 → fieldOf q.block (0x1C + i) 1 = 0) ∧ fieldOf q.block 4 4 < 2 ^ 18 ∧
  fieldOf q.block 8 4 < 2 ^ 18

/-- R242, R243, R246: a decompression. A request within the extents of R242 writes each chunk's bytes, padded with zeros to a whole
word, where the chunk's place is, and no other byte, and answers with its failing chunks; another writes nothing and answers 8.
The model's choices here: log entries 33 and 77. -/
def Decompresses (s : State) (cl : Nat) : Prop :=
  ∀ q r, LatheStarts s cl 1 q r →
    let c := s.cor q.core
    let f := fun off => fieldOf q.block off 4
    let src := f 4
    let dst := f 8
    let table := f 0x0C
    let c0 := f 0x10
    let n := f 0x14
    let z := f 0x18
    let entry := fun i => natOfBytes ((List.range 4).map fun j => c.scrByte (table + 4 * i + j))
    let good := LatheBlock q ∧ fieldOf q.block 1 1 ≤ 1 ∧ table < 2 ^ 18 ∧ table % 4 = 0 ∧ dst % 8 = 0 ∧ c0 ≤ 65535 ∧ 1 ≤ n ∧
      n ≤ 256 ∧ z % 8 = 0 ∧ 8 ≤ z ∧ z ≤ 65536 ∧ table + 4 * (c0 + n + 1) ≤ c.scr ∧ dst + n * z ≤ c.scr ∧
      (dst + n * z ≤ table + 4 * c0 ∨ table + 4 * (c0 + n + 1) ≤ dst)
    let res := fun k =>
      let lo := entry (c0 + k)
      let hi := entry (c0 + k + 1)
      if hi < lo ∨ (lo < hi ∧ c.scr < src + hi) then ([], 5)
      else chunkResult (fieldOf q.block 1 1) z ((List.range (hi - lo)).map fun j => (c.scrByte (src + lo + j)).toNat)
    let words := fun k => ((res k).1.length + 7) / 8
    let bad := (List.range n).filter fun k => (res k).2 != 0
    ∃ t, exec (.latheRequestStart cl) s = .next t ∧
      (good → LatheWrote c (t.cor q.core) dst (n * z) (fun w => (w - dst / 8) % (z / 8) < words ((w - dst / 8) / (z / 8))) ∧
        (∀ k j, k < n → j < z → (t.cor q.core).scrByte (dst + k * z + j) =
          if j < (res k).1.length then BitVec.ofNat 8 ((res k).1.getD j 0) else if j < 8 * words k then 0
          else c.scrByte (dst + k * z + j)) ∧
        match bad with
        | [] => LatheAnswers t cl q r 0 0 0 0 0 ((List.range n).map words).sum
        | k :: _ => LatheAnswers t cl q r (res k).2 bad.length (c0 + k) (res k).1.length 0 ((List.range n).map words).sum) ∧
      (¬ good → LatheAnswers t cl q r 8 0 0 0 0 0 ∧ t.cor q.core = c)

/-- R242, R244, R246: a transposition: element (r, c) of the source is element (c, r) of the destination, byte by byte. -/
def Transposes (s : State) (cl : Nat) : Prop :=
  ∀ q r, LatheStarts s cl 2 q r →
    let c := s.cor q.core
    let f := fun off => fieldOf q.block off 4
    let sub := fieldOf q.block 1 1
    let e := 2 ^ sub
    let src := f 4
    let dst := f 8
    let nr := f 0x0C
    let nc := f 0x10
    let n := nr * nc * e
    let good := LatheBlock q ∧ sub ≤ 2 ∧ 1 ≤ nr ∧ nr ≤ 256 ∧ 1 ≤ nc ∧ nc ≤ 256 ∧ f 0x14 = 0 ∧ f 0x18 = 0 ∧ dst % e = 0 ∧
      src + n ≤ c.scr ∧ dst + n ≤ c.scr ∧ (dst + n ≤ src ∨ src + n ≤ dst)
    ∃ t, exec (.latheRequestStart cl) s = .next t ∧
      (good → LatheWrote c (t.cor q.core) dst n (fun _ => True) ∧
        (∀ i j b, i < nr → j < nc → b < e →
          (t.cor q.core).scrByte (dst + e * (j * nr + i) + b) = c.scrByte (src + e * (i * nc + j) + b)) ∧
        LatheAnswers t cl q r 0 0 0 0 0 ((dst + n + 7) / 8 - dst / 8)) ∧
      (¬ good → LatheAnswers t cl q r 8 0 0 0 0 0 ∧ t.cor q.core = c)

/-- R242, R245, R246: a re-encoding. The first source header that fails its check ends the request with 9 or 10 and nothing written;
else each block's lanes, decoded by the tables of the acceptance (R181), are encoded as R66 to R70 select, its payload and its
header written, and the POISON blocks counted. -/
def Reencodes (s : State) (cl : Nat) : Prop :=
  ∀ q r, LatheStarts s cl 3 q r →
    let c := s.cor q.core
    let f := fun off => fieldOf q.block off 4
    let sub := fieldOf q.block 1 1
    let w := if sub.testBit 0 then BlkW.blk8 else .blk4
    let v := if sub.testBit 1 then BlkW.blk8 else .blk4
    let src := f 4
    let dst := f 8
    let sh := f 0x0C
    let dh := f 0x10
    let n := f 0x14
    let apart := fun (a m b k : Nat) => a + m ≤ b ∨ b + k ≤ a
    let good := LatheBlock q ∧ sub < 4 ∧ sh < 2 ^ 18 ∧ dh < 2 ^ 18 ∧ sh % 2 = 0 ∧ dh % 2 = 0 ∧ 1 ≤ n ∧ n ≤ 4096 ∧ f 0x18 < 16 ∧
      dst % v.bytes = 0 ∧ src + n * w.bytes ≤ c.scr ∧ sh + 2 * n ≤ c.scr ∧ dst + n * v.bytes ≤ c.scr ∧ dh + 2 * n ≤ c.scr ∧
      apart dst (n * v.bytes) src (n * w.bytes) ∧ apart dst (n * v.bytes) sh (2 * n) ∧ apart dh (2 * n) src (n * w.bytes) ∧
      apart dh (2 * n) sh (2 * n)
    let number := fun a m => natOfBytes ((List.range m).map fun i => c.scrByte (a + i))
    let head := fun k => number (sh + 2 * k) 2
    let tabs : Core := { c with tabs := q.tabs }
    let res := fun k => tabs.quantise v (f 0x18)
      ((List.range 16).map (tabs.blockLane w (head k) (number (src + w.bytes * k) w.bytes)))
    ∃ t, exec (.latheRequestStart cl) s = .next t ∧
      (good →
        (∀ k, k < n → headerBad (head k) ≠ none → (∀ j, j < k → headerBad (head j) = none) →
          LatheAnswers t cl q r (if headerBad (head k) = some 0x20 then 9 else 10) 0 k 0 0 0 ∧ t.cor q.core = c) ∧
        ((∀ k, k < n → headerBad (head k) = none) → apart dst (n * v.bytes) dh (2 * n) →
          (∀ k i, k < n → i < v.bytes →
            (t.cor q.core).scrByte (dst + v.bytes * k + i) = BitVec.ofNat 8 ((res k).2.1 / 2 ^ (8 * i))) ∧
          (∀ k i, k < n → i < 2 → (t.cor q.core).scrByte (dh + 2 * k + i) = BitVec.ofNat 8 ((res k).1 / 2 ^ (8 * i))) ∧
          (∀ x, (x < dst ∨ dst + n * v.bytes ≤ x) → (x < dh ∨ dh + 2 * n ≤ x) → (t.cor q.core).scrByte x = c.scrByte x) ∧
          ∃ words, LatheAnswers t cl q r 0 0 0 0 ((List.range n).countP fun k => (res k).2.2) words)) ∧
      (¬ good → LatheAnswers t cl q r 8 0 0 0 0 0 ∧ t.cor q.core = c)

/-- The words of an entry cannot go home: its slice's die relocks, its holder's, or one that the words of the holder's core go home
to (R259, R322; log entry 121). -/
def WordsHeld (s : State) (sl : Nat) (e : Tenure) : Prop :=
  ∃ d, (s.die d).clock.t0 ≠ none ∧
    (d = sl / 64 ∨ d = coreDie (coreOf e.thread) ∨ d ∈ (s.cor (coreOf e.thread)).writeDies)

/-- R170, R203 to R206, R238 to R240, R242 to R246, R250, R257, R259, R273, R280, R284, R301, R302, R307, R309, R310, R322: the steps of the
engines complete so: stores that reach their home, and with one that touches dirty words of its core's L1 the line of these (log
entry 95), requests resent, which are not performed again and bring the saved
reply for the bytes that it fills, tenures granted and revoked, keyed entries that move outward, copies that end, prefetches served, waves of
quiescence, requests of a lathe. The model's choices here: log entries 5, 11, 25, 28, 30, 33, 34, 38, 59, 78 (a lathe
keeps its place till its reply), 86 (the order of a core's requests at their homes), 87 (their numbers and saved
replies), 95 and 121. -/
def Obligations.EngineEvents : Prop :=
  ∀ (s : State) (ck cl die sl q u : Nat), KeyedEngines s ∧ CopiesEnd s ∧ Decompresses s cl ∧ Transposes s cl ∧ Reencodes s cl ∧
    (∀ e r, (s.cor ck).resent = [] → s.groupReady ck = none → (s.cor ck).wtq = e :: r →
      (e.dev = false → ∀ l, (s.cor ck).l1.find (e.pa / 128) = some l → ∀ i, i < e.bytes.length →
        l.dirty.getLsbD ((e.pa % 128 + i) / 4) = false) → ∃ t, exec (.homeRequestArrival ck) s = .next t ∧ (t.cor ck).wtq = r ∧ (t.cor ck).l1 = (s.cor ck).l1 ∧
        (e.dev = false → t.mem = memWriteMask s.mem e.pa e.bytes ∧ t.inbox = s.inbox) ∧
        (e.dev = true → t.mem = s.mem ∧ t.inbox = s.inbox ++ [.deviceRegisterWrite e.pa e.bytes.length
          (BitVec.ofNat 64 (natOfBytes (e.bytes.map (·.getD 0))))])) ∧
    (∀ e r l i, (s.cor ck).resent = [] → s.groupReady ck = none → (s.cor ck).wtq = e :: r → e.dev = false →
      (s.cor ck).l1.find (e.pa / 128) = some l → i < e.bytes.length → e.pa % 128 + e.bytes.length ≤ 128 →
      l.dirty.getLsbD ((e.pa % 128 + i) / 4) = true → ∃ t, exec (.homeRequestArrival ck) s = .next t ∧
        (t.cor ck).wtq = r.filter (fun f => f.dev || f.pa / 128 != e.pa / 128) ∧
        (t.cor ck).l1.find (e.pa / 128) = some { l with dirty := 0 } ∧
        (∀ k, k ≠ e.pa / 128 → (t.cor ck).l1.find k = (s.cor ck).l1.find k) ∧
        ∀ x, memGet t.mem x = if x / 128 = e.pa / 128 then homeByte s ck x else memGet s.mem x) ∧
    (∀ d n r, (s.cor ck).resent = (d, n) :: r → ∃ t, exec (.homeRequestArrival ck) s = .next t ∧ (t.cor ck).resent = r ∧
      t.mem = s.mem ∧ t.dies = s.dies ∧ t.slices = s.slices ∧ t.groups = s.groups ∧ t.transit = s.transit ∧
      ∀ c w x y, c < 16 → ck < 8192 → (s.thr (threadOf ck c)).st = .waiting → (s.thr (threadOf ck c)).wait = some w →
        w.kind = .reply ∨ (∃ n, w.kind = .crossing n) → s.savedReply ck d n = some x →
        (s.thr (threadOf ck c)).asked.find? (fun y => y.die == d && y.seq == n) = some y →
        (t.thr (threadOf ck c)).wait = some w ∧
        (w.d ≠ 0 → ∀ i, i < 8 → ((t.thr (threadOf ck c)).rg w.d).toNat / 2 ^ (8 * i) % 256 =
          if y.off ≤ i ∧ i < y.off + y.n then x.toNat / 2 ^ (8 * (i - y.off)) % 256
          else ((s.thr (threadOf ck c)).rg w.d).toNat / 2 ^ (8 * i) % 256)) ∧
    (∀ n, (s.cor ck).seq.find die = some n → n < 65536 → ∃ t, exec (.flitCheckFailure ck die) s = .next t ∧
      (t.cor ck).resent = (s.cor ck).resent ++ [(die, (n + 65535) % 65536)] ∧ t.mem = s.mem ∧ t.threads = s.threads) ∧
    (∀ k x r w, s.sliceWork sl = some (.grant k) → (s.sli sl).queue[k]? = some x → (s.sli sl).recs.find x.idx = some r →
      (s.thr x.thread).st = .waiting → (s.thr x.thread).wait = some w → ∃ t, exec (.tenureGrant sl) s = .next t ∧
        Woken t x.thread ∧ (t.thr x.thread).rg w.d = 0 ∧ (t.sli sl).queue = (s.sli sl).queue.eraseIdx k ∧
        grantedEnt r x ∈ (t.sli sl).ents) ∧
    ((s.sli sl).outside ≠ [] → (s.sli sl).queue.length < 256 → ∃ t, exec (.tenureGrant sl) s = .next t ∧
      (t.sli sl).queue ++ (t.sli sl).outside = (s.sli sl).queue ++ (s.sli sl).outside ∧
      ((t.sli sl).queue.length = 256 ∨ (t.sli sl).outside = []) ∧ t.threads = s.threads) ∧
    (let due := fun (e : Tenure) => e.expired s.tick = true ∨ (e.st = .leaving ∧ ¬ WordsHeld s sl e)
     (∀ l e r, (s.sli sl).ents = l ++ e :: r → due e → (∀ f ∈ l, ¬ due f) → ∃ t, exec (.recallDeadlineExpiry sl) s = .next t ∧
      (WordsHeld s sl e → (t.sli sl).ents = (s.sli sl).ents.map (fun f => if f = e then { f with st := .leaving } else f) ∧
        t.mem = s.mem ∧ t.cores = s.cores) ∧
      (¬ WordsHeld s sl e → (t.sli sl).ents = (s.sli sl).ents.map fun f => if f = e then { f with st := .revoked } else f)) ∧
     ((∀ e ∈ (s.sli sl).ents, ¬ due e) → exec (.recallDeadlineExpiry sl) s = .next s)) ∧
    (s.quarterIdle die q = true → ∃ t, exec (.beamIdleSettle die q) s = .next t ∧
      (t.die die).settling.get [] q = (s.die die).quarter q) ∧
    (∃ t, exec (.mscFilterClear die) s = .next t ∧ (t.die die).filter = [] ∧ (t.die die).filterTick = s.tick ∧
      t.mem = s.mem ∧ t.threads = s.threads) ∧
    (∀ x, nextXpf (s.die die).xpf = some x → ∃ t, exec (.prefetchServe die) s = .next t ∧
      (t.die die).xpf = (s.die die).xpf.filter (·.id != x.id) ∧ t.mem = s.mem ∧ t.threads = s.threads) ∧
    (∃ t, exec (.prefetchDeadline die) s = .next t ∧
      (t.die die).xpf = (s.die die).xpf.filter (fun x => decide (s.tick < x.dl)) ∧ t.mem = s.mem ∧ t.threads = s.threads) ∧
    ((∃ k ∈ s.launchCores u, (s.die (coreDie k)).clock.t0 ≠ none) → exec (.quiescenceWave u) s = .next s) ∧
    (∀ v ∈ s.launchThreads u, (s.thr v).inQuiet = true → (∀ k ∈ s.launchCores u, (s.die (coreDie k)).clock.t0 = none) →
      (∀ w, (s.launchOf u).wave = some w → wavesQuiet w (s.waveSums u) = true →
        ∃ t, exec (.quiescenceWave u) s = .next t ∧ Woken t v ∧ (t.launchOf u).wave = none) ∧
      ((s.launchOf u).wave = none → ∃ t, exec (.quiescenceWave u) s = .next t ∧
        (t.launchOf u).wave = some (s.waveSums u) ∧ t.threads = s.threads)) ∧
    (∀ x r, (s.clu cl).lathe = x :: r → x.answer = none → (s.cor x.core).spoison = [] →
      ∃ t, exec (.latheRequestStart cl) s = .next t ∧
        (t.clu cl).lathe = { x with answer := some (x.reply (x.run (s.cor x.core))) } :: r) ∧
    (∀ x r ws, (s.clu cl).lathe = x :: r → x.answer = some ws → x.core < 65536 → ∃ t p, exec (.latheReply cl) s = .next t ∧
      (t.clu cl).lathe = r ∧ t.transit = s.transit ++ [p] ∧ p.core = some x.core ∧ p.msg.cls = x.cls ∧
      p.msg.words = ws ++ [BitVec.ofNat 64 s.tick, 0, 0])

/-! ## Launches -/

/-- A launch has started: each of its cores is its own, reset, with its scratchpad loaded, and each context of a core with a
launch core number is ready at the entry, or parked where a class with an entry names it (R41, R79). -/
def LaunchStarted (s t : State) (r : LqRec) : Prop :=
  let l := s.launchOf r.lid
  (∀ ck ∈ l.cores, (t.cor ck).launch = some r.lid ∧ (t.cor ck).asid = r.asid ∧ (t.cor ck).mailbox = [] ∧ (t.cor ck).l1 = [] ∧
    (t.cor ck).scratch = imageWords l.sdata) ∧
  (l.set.Nodup → r.ctx ≤ 16 → ∀ ck ∈ l.set, ∀ c, c < r.ctx →
    let x := t.thr (threadOf ck c)
    let parked := l.classes.any fun y => y.ctx == c && y.entry.isSome
    x.karg = BitVec.ofNat 64 r.karg ∧ x.pc.toNat = r.entry % 2 ^ 64 / 4 * 4 ∧ x.kstat = 0 ∧
      x.st = (if parked then .parked else .ready) ∧ x.parkedStart = parked)

/-- The clearing of some clusters begins: their keyed entries are being published, and nothing else changes (R221). -/
def ClearingStarts (s t : State) (cls : List Nat) : Prop :=
  (∀ cl ∈ cls, t.clearing cl = true) ∧ t.threads = s.threads ∧ t.mem = s.mem ∧ t.dies = s.dies ∧ t.launches = s.launches

/-- The battens of a launch are published: its publication is over, or has nothing to carry (R209, R293). -/
def BattensOut (s : State) (lid : Nat) : Prop :=
  (∀ ck ∈ s.launchCores lid, (s.cor ck).flushes = false) ∧
  ((s.launchOf lid).flushing = true ∨ ∀ ck ∈ s.launchCores lid,
    ((s.cor ck).batten ≠ [] ∧ (s.cor ck).stall.isSome = true) ∨
    ((s.cor ck).batten = [] ∧ ((s.clu (clusterOf ck)).purlin = [] ∨ (s.clu (clusterOf ck)).pstall.isSome = true)))

/-- The battens of a launch have entries to publish, and the publication begins: its cores are its own yet. -/
def BattensWait (s t : State) (lid : Nat) : Prop :=
  (t.launchOf lid).flushing = true ∧ ∀ ck ∈ s.launchCores lid, (t.cor ck).launch = (s.cor ck).launch

/-- R41, R209, R221, R289 to R296, R318: the launch events complete so: a launch that may start gives each of its cores to
itself, once its clusters are cleared of another space's keyed entries; its end, and its save, leave them free, once their
battens are published; a resumed launch has its cores' images again; promotion raises a waiting record; the commands of
`lqcmd` change their record or leave 2 in `lqstat`, and one in progress ends there with 0; a write to a register block is
carried out. The model's choices here: log entries 43, 44, 45, 69 (an entry's two low bits are dropped) and 81. -/
def Obligations.LaunchEvents : Prop :=
  ∀ (s : State) (die slot lid : Nat),
    (∀ r, s.nextStart die = some r →
      let cls := s.toClear r.asid (s.launchOf r.lid).clusters
      (cls = [] → ∃ t, exec (.launchStart die) s = .next t ∧ LaunchStarted s t r) ∧
      (cls ≠ [] → ∃ t, exec (.launchStart die) s = .next t ∧ ClearingStarts s t cls)) ∧
    (∀ r, s.nextMulti = some r →
      let cls := s.toClear r.asid (s.launchOf r.lid).clusters
      (cls = [] → ∃ t, exec .multiDieLaunchStart s = .next t ∧ LaunchStarted s t r) ∧
      (cls ≠ [] → ∃ t, exec .multiDieLaunchStart s = .next t ∧ ClearingStarts s t cls)) ∧
    (∀ r, (s.die die).live.find? (·.promotable s.tick) = some r → ∃ t, exec (.launchPriorityPromotion die) s = .next t ∧
      t.mem = s.mem ∧ t.threads = s.threads ∧ ∀ d i x, (s.die d).lq.find i = some x → x.state ≠ lqFree → x.lid = r.lid →
        (t.die d).lq.find i = some { x.put 4 1 (r.prio + 1) with since := r.since + 2 ^ 20 }) ∧
    (s.launchOver lid = true →
      (BattensOut s lid → ∃ t, exec (.launchEnd lid) s = .next t ∧ (∀ ck ∈ s.launchCores lid, (t.cor ck).launch = none) ∧
        ((s.launchOf lid).stopping = false → ∀ d i x, (s.die d).lq.find i = some x → x.state ≠ lqFree → x.lid = lid →
          (t.die d).lq.find i = some (x.put 7 1 lqEnded))) ∧
      ((s.launchOf lid).flushing = false → (∃ ck ∈ s.launchCores lid, (s.cor ck).batten ≠ [] ∧ (s.cor ck).stall = none) →
        ∃ t, exec (.launchEnd lid) s = .next t ∧ BattensWait s t lid)) ∧
    (s.imageReady lid = true →
      (BattensOut s lid → ∃ t, exec (.launchSaveComplete lid) s = .next t ∧
        (∀ ck ∈ s.launchCores lid, (t.cor ck).launch = none ∧ (t.launchOf lid).images.find ck ≠ none) ∧
        ∀ d x, s.dies.find d = some x → (t.die d).lqstat =
          if x.lqstat = 1 ∧ bitsAt x.lqcmd 0 8 = 2 ∧ bitsAt x.lqcmd 24 16 = lid then 0 else x.lqstat) ∧
      ((s.launchOf lid).flushing = false → (∃ ck ∈ s.launchCores lid, (s.cor ck).batten ≠ [] ∧ (s.cor ck).stall = none) →
        ∃ t, exec (.launchSaveComplete lid) s = .next t ∧ BattensWait s t lid)) ∧
    (s.resumable lid = true →
      let cls := s.toClear (s.launchAsid lid) (s.launchOf lid).clusters
      (cls = [] → ∃ t, exec (.launchResumeStart lid) s = .next t ∧ (t.launchOf lid).images = [] ∧
        ∀ ck ∈ (s.launchOf lid).cores, ∀ c, (s.launchOf lid).images.find ck = some c →
          (t.cor ck).scratch = c.scratch ∧ (t.cor ck).launch = c.launch ∧ (t.cor ck).mailbox = c.mailbox) ∧
      (cls ≠ [] → ∃ t, exec (.launchResumeStart lid) s = .next t ∧ ClearingStarts s t cls)) ∧
    (let r := s.lqRec die slot
     let mine := r.cores.map (512 * die + ·)
     (r.state = lqFree → r.lid ≠ 0 → s.mayJoin r = true → (∀ d ∈ r.deps, d = 0) → ∃ t, exec (.lqSubmit die slot) s = .next t ∧
      (t.die die).lqstat = 0 ∧ t.lqRec die slot = { (r.put 7 1 lqQueued).put 0x20 8 s.tick with since := s.tick } ∧
      (s.launches.find r.lid = none → (t.launchOf r.lid).set = mine ∧
        (t.launchOf r.lid).classes = classBlock s.mem r.cls (BitVec.ofNat 64 r.entry) ∧
        (t.launchOf r.lid).groups = groupBlock s.mem r.grps) ∧
      (∀ l, s.launches.find r.lid = some l → ∀ ck, ck ∈ (t.launchOf r.lid).set ↔ ck < 6144 ∧ (ck ∈ l.set ∨ ck ∈ mine))) ∧
     (r.state = lqFree → s.mayJoin r = false → ∃ t, exec (.lqSubmit die slot) s = .next t ∧ (t.die die).lqstat = 2 ∧
      t.lqRec die slot = r) ∧
     (r.state ≠ lqFree → ∃ t, exec (.lqSubmit die slot) s = .next t ∧ (t.die die).lqstat = 2 ∧ t.lqRec die slot = r) ∧
     (r.state = lqEnded ∨ r.state = lqStopped → s.dependents r.lid = [] → ∃ t, exec (.lqFree die slot) s = .next t ∧
      (t.die die).lqstat = 0 ∧ t.lqRec die slot = LqRec.free)) ∧
    (s.dieHolds die lid = true →
      (s.lstate lid = lqRunning → (s.launchOf lid).stopping = false → ∃ t, exec (.lqPreempt die lid) s = .next t ∧
        (t.die die).lqstat = 1 ∧ ∀ u ∈ s.launchThreads lid, (s.thr u).st ≠ .ended → (s.thr u).st ≠ .saved →
          (s.thr u).st ≠ .idle → (t.thr u).saveFrom ≠ none) ∧
      (s.lstate lid = lqSaved → ∃ t, exec (.lqResume die lid) s = .next t ∧ (t.die die).lqstat = 1 ∧
        (t.launchOf lid).resume = true ∧ t.threads = s.threads) ∧
      (s.lstate lid = lqRunning → ∃ t, exec (.lqStop die lid) s = .next t ∧ (t.die die).lqstat = 1 ∧
        (t.launchOf lid).stopping = true ∧ ∀ u ∈ s.launchThreads lid, (t.thr u).st = .ended) ∧
      (s.lstate lid = lqQueued ∨ s.lstate lid = lqSaved → ∃ t, exec (.lqStop die lid) s = .next t ∧ (t.die die).lqstat = 0)) ∧
    (s.dieHolds die lid = false → ∀ i, i = .lqPreempt die lid ∨ i = .lqResume die lid ∨ i = .lqStop die lid →
      ∃ t, exec i s = .next t ∧ (t.die die).lqstat = 2 ∧ t.threads = s.threads ∧ t.launches = s.launches) ∧
    (∀ pa n v t, s.devWrite pa n (v.toNat % 2 ^ (8 * n)) = .ok t → exec (.deviceRegisterWrite pa n v) s = .next t)

/-! ## The package -/

/-- R196, R275, R286, R297, R305 to R307, R309, R313, R315, R321, R322, R356, R365, R367, R368, R371: clocks, stacks, links,
pages, a die that fails, and start-up complete so. A step to a lower clock settles the beam before its relock, one to a higher
clock relocks at once; at its end the cycles of the relock are counted at the new rate, and what waited for it goes on.
Start-up measures the images that verify, and leaves the module dark where none does. The model's choices here: log entries 1
and 8 (what start-up leaves in memory), 35, 46, 47, 56 (it keeps the checkpoints), 92, 93 and 123 (a second request for a stack,
and one within 2 ms of one for the other stack). -/
def Obligations.PackageEvents : Prop :=
  ∀ (s : State) (die stack rate : Nat),
    let k := (s.die die).clock
    (∀ v : Word, let m := v.toNat / 2 ^ 8 % 32
     (8 ≤ m → m ≤ 19 → k.next = none → ∃ t, exec (.dclkTargetWrite die v) s = .next t ∧ (t.die die).clock.target = m ∧
       t.mem = s.mem ∧ t.threads = s.threads ∧ (k.hot = false → m ≠ k.m → (t.die die).clock.next = some m ∧
         (m < k.m → ∀ q, q < 4 → (t.die die).settling.get [] q = (s.die die).quarter q) ∧
         (k.m < m → k.t0 = none → (t.die die).clock.t0 = some s.tick))) ∧
     (m < 8 ∨ 19 < m ∨ k.next ≠ none → ∃ t, exec (.dclkTargetWrite die v) s = .next t ∧ t.die die = s.die die)) ∧
    (∀ m t0, k.next = some m → k.t0 = some t0 → ∃ t, exec (.clockRelockEnd die) s = .next t ∧ (t.die die).clock.m = m ∧
      (t.die die).cycle = (s.die die).cycle + m * (s.tick - t0) / 10 ∧
      ∀ u w x, (s.thr u).st = .waiting → (s.thr u).wait = some w → w.kind = .relock die x → Woken t u ∧
        (t.thr u).pc = (s.thr u).pc ∧ (t.thr u).g = (s.thr u).g) ∧
    (3 ≤ rate → exec (.hbmRetrainRequest die stack rate) s = .next s) ∧
    (∃ t, exec (.thermalStepDown die) s = .next t ∧ (t.die die).clock.hot = true ∧
      (k.next = none → k.m ≠ 8 → (t.die die).clock.next = some 8)) ∧
    (∃ t, exec (.thermalRecovery die) s = .next t ∧ (t.die die).clock.hot = false ∧
      (k.next = none → k.m ≠ k.target → (t.die die).clock.next = some k.target)) ∧
    (stack < 2 → stack < (s.die die).hbm.length →
      (let spaced := ∀ x, ((s.die die).stack (1 - stack)).asked = some x → x + 2000000 ≤ s.tick
       (spaced → s.savesTo die stack = false → rate < 3 → ∃ t, exec (.hbmRetrainRequest die stack rate) s = .next t ∧
        ((t.die die).stack stack).target = some rate ∧ ((t.die die).stack stack).asked = some s.tick) ∧
       (spaced → s.savesTo die stack = true → rate < 3 → ∃ t, exec (.hbmRetrainRequest die stack rate) s = .next t ∧
        ((t.die die).stack stack).asked = some s.tick ∧
        ((t.die die).stack stack).target = ((s.die die).stack stack).target ∧
        (((s.die die).stack stack).deferred = none → ((t.die die).stack stack).deferred = some (rate, s.tick)) ∧
        ∀ r x, ((s.die die).stack stack).deferred = some (r, x) → ((t.die die).stack stack).deferred = some (rate, x)) ∧
       (¬ spaced → exec (.hbmRetrainRequest die stack rate) s = .next s)) ∧
      (∀ r, ((s.die die).stack stack).target = some r →
        (∃ t, exec (.hbmRetrainEnd die stack true) s = .next t ∧ ((t.die die).stack stack).rate = r ∧
          ((t.die die).stack stack).target = none) ∧
        (∃ t, exec (.hbmRetrainEnd die stack false) s = .next t ∧ ((t.die die).stack stack).failed = true)) ∧
      (∀ r x, ((s.die die).stack stack).deferred = some (r, x) → s.deferralOver die stack = true →
        ∃ t, exec (.retrainDeferralExpiry die stack) s = .next t ∧ ((t.die die).stack stack).target = some r) ∧
      (∀ l x, s.launches.find l = some x → s.lstate l = lqSaving → x.saveStack.find die = some stack →
        ∃ t, exec (.hbmPhyError die stack) s = .next t ∧ (t.launchOf l).saveStack.find die = some (3 - stack))) ∧
    (∃ t, exec (.linkRetrainFailure die) s = .next t ∧ t.links = s.links.filter (· != die)) ∧
    (∃ t, exec (.cxlLinkDown die) s = .next t ∧ t.cxlUp = s.cxlUp.filter (· != die)) ∧
    (∃ t, exec (.portDown die) s = .next t ∧ t.ports = s.ports.filter (· != die)) ∧
    (∀ asid va sp l, s.spaces.find asid = some sp → findLeaf s.mem va.toNat 4 sp.root = some l → asid ≠ 0 →
      ∃ t, exec (.unmapMigrate asid va none) s = .next t ∧ (∀ u ∈ t.used, u.1 ≠ ptePa l.pte) ∧
        ∀ ck, (s.cor ck).asid = asid → ∀ e ∈ (t.cor ck).tlb, e.va ≠ va.toNat - va.toNat % pageBytes (pteSize l.pte)) ∧
    (∀ i, i = .dieOfflineMark die ∨ i = .heartbeatTimeout die ∨ i = .thermalOfflineTimeout die →
      die < 12 → (s.die die).online = true → ∃ t, exec i s = .next t ∧ (t.die die).online = false ∧
        t.events = s.events ++ [die] ∧ t.ports = s.ports.filter (fun p => portDie p != die) ∧
        t.cxlUp = s.cxlUp.filter (fun p => cxlDie p != die) ∧
        ∀ asid sp k r, s.spaces.find asid = some sp → sp.regions.find k = some r → die ∈ r.dies →
          ∃ sp' r', t.spaces.find asid = some sp' ∧ sp'.regions.find k = some r' ∧ die ∈ r'.dmg) ∧
    (∀ r, let measured := fun (t : State) => ∀ i, i < 5 → ∀ d, r.images.getD i none = some d →
        t.measure.getD i 0 = Config.sha384 (List.replicate 48 0 ++ beBytes d.toNat 48)
      (startGood r = true → ∃ t, exec (.startUp r) s = .next t ∧ t.started = startValid r 4 ∧ t.pkg = r.pkg.toNat ∧
        t.threads = [] ∧ t.cores = [] ∧ t.mem = [] ∧ t.spaces = [] ∧ t.launches = [] ∧ t.ckpts = s.ckpts ∧ measured t) ∧
      (startGood r = false → ∃ t, exec (.startUp r) s = .next t ∧ t.started = false ∧ t.threads = [] ∧ t.spaces = [] ∧
        measured t))

/-! ## The service -/

/-- A call number that the service has received from a thread, with the bytes of its block (R110, R358). -/
def Called (s : State) (u k n : Nat) (reg : Reg) (a : Nat) (bs : List Byte) : Prop :=
  u < 2 ^ 17 ∧ (s.thr u).st = .trapped ∧
  ∃ c, s.callAt u = some c ∧ c.k = k ∧ c.reg = reg ∧ (s.takeCall u).callBlock c n = some (a, bs)

/-- The service has answered a call: the status is in the call's register, and the thread goes on behind its call (R110). -/
def Answered (s t : State) (u : Nat) (reg : Reg) (status : Nat) : Prop :=
  (t.thr u).st = .ready ∧ (t.thr u).rg reg = (if reg = 0 then 0 else BitVec.ofNat 64 status) ∧
  (∀ r, r ≠ reg → (t.thr u).rg r = (s.thr u).rg r) ∧ (t.thr u).pc = (s.thr u).kepc + 4 ∧ (t.thr u).v = (s.thr u).v

/-- A remote call of a thread: its number and the operation it sends (Table 19-1). -/
def RemoteCall (u : Nat) (i : Instr) (k : Nat) (kind : RemoteKind) : Prop :=
  (i = .rread u ∧ k = 0x10 ∧ kind = .rread) ∨ (i = .rwrite u ∧ k = 0x11 ∧ kind = .rwrite) ∨
  (i = .ramo u ∧ k = 0x12 ∧ kind = .ramo) ∨ (i = .rkey u ∧ k = 0x13 ∧ kind = .rkey) ∨
  (i = .rmsg u ∧ k = 0x14 ∧ kind = .rmsg)

/-- R317, R366: the latest checkpoint whose digests match and whose devices can be reached, from the newest on (R315). -/
def LatestGood (s : State) (k : Ckpt) : Prop :=
  ∃ ks r, s.ckpts = ks ++ k :: r ∧ (k.good = true ∧ ∀ p ∈ k.ports, p ∈ s.cxlUp) ∧
    ∀ x ∈ ks, ¬ (x.good = true ∧ ∀ p ∈ x.ports, p ∈ s.cxlUp)

/-- R2, R110, R205, R206, R317, R356 to R363, R366, R369: the service's calls complete so: windows, the mask of online dies,
damaged keys, which the latest good checkpoint restores as outer operands if it was taken of this address space, quotes,
and remote operations, which go out, are performed at most once or wait at their home, and end with their reply or their
limit. A window with operations that wait closes at its `unexport`: those that have begun go on, a later one is answered
NO_WINDOW. A caller whose launch is SAVED is answered in its slot. The model's choices here: log entries 48, 49, 50, 51, 88
(work that waits stands at the end of the waiting work), 89, 90 (a remote update that meets a stalled beam) and 120. -/
def Obligations.ServiceCalls : Prop :=
  ∀ (s : State) (u : Nat) (reg : Reg) (a : Nat) (bs : List Byte),
    let asid := (s.homeCor u).asid
    (∀ w, Called s u 1 64 reg a bs → blockClean bs = true → s.windowOf u bs = some w → s.freeWins ≠ [] →
      ∃ t id, exec (.exportWindow u) s = .next t ∧ Answered s t u reg 0 ∧ id ∈ s.freeWins ∧ t.windows.find id = some w ∧
        (t.homeCor u).scrByte (a + 2) = BitVec.ofNat 8 id) ∧
    (∀ k, k = 1 ∨ k = 2 ∨ k = 4 → Called s u k 64 reg a bs → blockClean bs = false →
      ∃ t, exec (if k = 1 then .exportWindow u else if k = 2 then .unexportWindow u else .krestore u) s = .next t ∧
        Answered s t u reg 8) ∧
    (∀ w, Called s u 2 64 reg a bs → blockClean bs = true → s.windows.find (fieldOf bs 2 1) = some w →
      (w.asid = asid → s.windowBusy (fieldOf bs 2 1) = true → ∃ t, exec (.unexportWindow u) s = .next t ∧
        t = { s with windows := t.windows } ∧ t.windows.find (fieldOf bs 2 1) = some { w with closing := true } ∧
        ∀ k, k ≠ fieldOf bs 2 1 → t.windows.find k = s.windows.find k) ∧
      (w.asid = asid → s.windowBusy (fieldOf bs 2 1) = false → ∃ t, exec (.unexportWindow u) s = .next t ∧
        Answered s t u reg 0 ∧ t.windows.find (fieldOf bs 2 1) = none) ∧
      (w.asid ≠ asid → ∃ t, exec (.unexportWindow u) s = .next t ∧ Answered s t u reg 9 ∧ t.windows = s.windows)) ∧
    (Called s u 3 64 reg a bs → ∃ t, exec (.diestat u) s = .next t ∧ Answered s t u reg 0 ∧
      ∀ i, i < 8 → (t.homeCor u).scrByte (a + i) = BitVec.ofNat 8 (s.onlineMask / 2 ^ (8 * i))) ∧
    (∀ c b k2, (s.thr u).st = .saved → s.callAt u = some c → c.k = 3 → (s.takeCall u).callBlock c 64 = some (b, k2) →
      b + 8 ≤ 8 * slotWord (ctxOf u) → ∃ t, exec (.diestat u) s = .next t ∧ (t.thr u).st = .saved ∧
        t.slotRead u 319 = 0 ∧ t.slotRead u 287 = s.slotRead u 289 + 4 ∧
        (c.reg ≠ 0 → t.slotRead u (255 + c.reg.val) = 0) ∧
        ∀ r : Reg, r ≠ 0 → r ≠ c.reg → t.slotRead u (255 + r.val) = s.slotRead u (255 + r.val)) ∧
    (∀ r n, Called s u 4 64 reg a bs → blockClean bs = true → n = fieldOf bs 0x18 8 % 4096 → s.regionAt asid n = some r →
      (∀ k, LatestGood s k → let keys := k.lostKeys asid n (s.serialOf asid) r
        (keys.map (·.1)).Nodup → (∀ h q, ((s.die h).quarter q).length + keys.length ≤ 131072) →
        ∃ t, exec (.krestore u) s = .next t ∧ Answered s t u reg 0 ∧
          t.regionAt asid n = some { r with dmg := r.dmg.filter fun d => !r.dies.contains d } ∧
          (k.serials.find asid ≠ some (s.serialOf asid) → ∀ d, (t.die d).beam = (s.die d).beam) ∧
          ∀ e ∈ keys, ∀ x,
            let old := ((s.die (s.keyHome r e.1)).beam.find (2 ^ 64 * asid + e.1)).map (·.toNat)
            (old = none ∧ x = e.2.toNat) ∨ (∃ b, old = some b ∧ combine r.op r.vt e.2.toNat b = .ok x) →
            (t.die (s.keyHome r e.1)).beam.find (2 ^ 64 * asid + e.1) = some (BitVec.ofNat 128 x)) ∧
      ((¬ ∃ k, LatestGood s k) → ∃ t, exec (.krestore u) s = .next t ∧ Answered s t u reg 13 ∧ t.spaces = s.spaces)) ∧
    (Called s u 5 496 reg a bs → ∃ t, exec (.callAttest u) s = .next t ∧ Answered s t u reg 0 ∧
      ∀ i b, (s.quote ((bs.drop 0x10).take 48) (((s.spaces.find asid).map (·.digest)).getD 0))[i]? = some b →
        (t.homeCor u).scrByte (a + i) = b) ∧
    (∀ i k kind, RemoteCall u i k kind → Called s u k 64 reg a bs → blockClean bs = true →
      sendRange kind (fieldOf bs 3 1) (fieldOf bs 4 4) (fieldOf bs 0x10 4) (s.homeCor u).scr = true →
      fieldOf bs 0 2 ≠ s.pkg → s.ports ≠ [] → ∃ t op c, exec i s = .next t ∧
        t.outbox = (fieldOf bs 0 2, op) :: s.outbox ∧ op.kind = kind ∧ op.ep = 65536 * s.pkg + asid ∧
        op.win = fieldOf bs 2 1 ∧ op.seq = (if fieldOf bs 0x14 4 = 0 then s.outSeq.get 0 asid + 1 else fieldOf bs 0x14 4) ∧
        (t.thr u).st = .trapped ∧ t.calls = s.calls ++ [c] ∧ c.thread = u ∧ c.seq = op.seq) ∧
    (∀ op, s.started = true → op.ep / 65536 ≠ s.pkg →
      (∀ r, s.cached op.ep op.seq = some r → ∃ t, exec (.remoteOpArrival op) s = .next t ∧
        t = { s with netOut := r :: s.netOut }) ∧
      (s.cached op.ep op.seq = none → (∀ w ∈ s.remoteWaits, w.work.isFor op.ep op.seq = false) →
        (∀ y, s.performOp op s.tick = some y → ∃ t r, exec (.remoteOpArrival op) s = .next t ∧
          t = { y.1 with caches := t.caches, netOut := r :: y.1.netOut } ∧ r.ep = op.ep ∧ r.seq = op.seq ∧
          r.status = y.2.status ∧ r.old = y.2.old ∧ r.data = y.2.data ∧ t.cached op.ep op.seq = some r) ∧
        (s.performOp op s.tick = none → exec (.remoteOpArrival op) s =
          .next { s with remoteWaits := s.remoteWaits ++ [{ work := .op op, since := s.tick }] })) ∧
      (∀ w, s.windows.find op.win = some w → w.closing = true → s.performOp op s.tick = some (s, { status := 9 })) ∧
      (∀ w ps b, s.windows.find op.win = some w → b = true ∨ w.closing = false → w.kind = .memory → op.kind = .rread → w.rights % 2 = 1 → inWindow w op = true →
        s.remoteWords w.asid (w.off + op.off.toNat) [kPlain, kTiled] false (op.len / 8) = .ok ps →
        (∀ i, i < op.len / 8 → s.tenured w.asid (w.off + op.off.toNat + 8 * i) = false) →
        s.performOp op s.tick b = some (s, { status := 0, data := ps.flatMap fun p => memRead s.mem p 8 })) ∧
      (∀ w r b, s.windows.find op.win = some w → b = true ∨ w.closing = false → w.kind = .keyed → op.kind = .rkey → w.rights / 8 % 2 = 1 →
        s.regionAt w.asid (w.off % 4096) = some r → let name := op.val.toNat
        (name / 2 ^ 52 % 4096 ≠ w.off % 4096 → s.performOp op s.tick b = some (s, { status := 10 })) ∧
        (∀ u, name / 2 ^ 52 % 4096 = w.off % 4096 → r.vt.code = op.aop.toNat → updateValue r op.cmp = some u →
          let home := s.die (s.keyHome r name)
          (home.beam.find (2 ^ 64 * w.asid + name) = none → 131072 ≤ (home.quarter (quarterOf name)).length →
            s.performOp op s.tick b = if home.bstall = none then none else some (s, { status := 2 })) ∧
          (home.beam.find (2 ^ 64 * w.asid + name) = none → (home.quarter (quarterOf name)).length < 131072 →
            ∃ t, s.performOp op s.tick b = some (t, { status := 0 }) ∧
              (t.die (s.keyHome r name)).beam.find (2 ^ 64 * w.asid + name) = some (BitVec.ofNat 128 u)))) ∧
      (s.windows.find op.win = none → s.performOp op s.tick = some (s, { status := 9 }))) ∧
    (∀ r c, s.callFor r = some c → c.thread = u → u < 2 ^ 17 → (s.thr u).st = .trapped → ∃ t,
      exec (.remoteReplyArrival r) s = .next t ∧
      Answered s t u (Fin.ofNat 32 ((s.thr u).word.toNat / 2 ^ 11 % 32)) r.status ∧ ∀ y ∈ t.calls, y.thread ≠ u) ∧
    (∀ r, s.callFor r = none → exec (.remoteReplyArrival r) s = .next s ∧ exec (.lateReplyDiscard r) s = .next s) ∧
    (∀ c, s.calls.find? (·.thread == u) = some c → c.e = 0 ∨ (c.e ≤ 14 ∧ c.since + 2 ^ (6 + c.e) ≤ s.tick) → u < 2 ^ 17 →
      (s.thr u).st = .trapped → ∃ t, exec (.remoteCallTimeout u) s = .next t ∧
        Answered s t u (Fin.ofNat 32 ((s.thr u).word.toNat / 2 ^ 11 % 32)) 1 ∧ ∀ y ∈ t.calls, y.thread ≠ u)

/-- A host's request other than the checkpoint (Table 19-4). -/
def HostRequest (h : HostHdr) (i : Instr) : Prop :=
  (∃ f, i = .hostLoad h f) ∨ (∃ n j k, i = .hostSubmit h n j k) ∨ (∃ l, i = .hostPreempt h l) ∨
  (∃ l, i = .hostResume h l) ∨ (∃ l, i = .hostStop h l) ∨ (∃ n v l, i = .hostRead h n v l) ∨
  (∃ n v d, i = .hostWrite h n v d) ∨ (∃ n c, i = .hostAttest h n c) ∨ i = .hostStatus h ∨ (∃ n, i = .hostUnload h n)

/-- R316, R361, R364, R369, R375: a host's request is refused with BUSY before start-up, answered once with its effect, and
answered again from the saved reply with no effect; a read waits where a WRITE tenure stands before it, and the end of an
address space, which closes its windows and takes no launch any more, where an operation begun on one of them does; a checkpoint pre-empts every running launch, settles
every beam, records memory, and lets the launches resume. The model's choices here: log entries 51 to 56, 88 (work that
waits stands at the end of the waiting work), 90, 91 and 120. -/
def Obligations.HostRequests : Prop :=
  ∀ (s : State) (h : HostHdr) (file data : List Byte) (asid j lid len : Nat) (karg : Option Word) (va : Word)
      (nonce : BitVec 384),
    let fresh := s.started = true ∧ s.cached h.ep h.seq = none
    let idle := ∀ w ∈ s.remoteWaits, w.work.isFor h.ep h.seq = false
    let answers := fun (i : Instr) (status : Nat) (old : Word) (d : List Byte) (p : State → Prop) => ∃ t,
      exec i s = .next t ∧ p t ∧ t.netOut = { ep := h.ep, seq := h.seq, status := status, old := old, data := d } :: s.netOut
    (∀ i, HostRequest h i →
      (s.started = false → exec i s =
        .next { s with netOut := { ep := h.ep, seq := h.seq, status := 2, old := 0, data := [] } :: s.netOut }) ∧
      (∀ r, s.started = true → s.cached h.ep h.seq = some r → exec i s = .next { s with netOut := r :: s.netOut })) ∧
    (s.ckptRun = none →
      (s.started = false → exec (.hostCkpt h) s =
        .next { s with netOut := { ep := h.ep, seq := h.seq, status := 2, old := 0, data := [] } :: s.netOut }) ∧
      (∀ r, s.started = true → s.cached h.ep h.seq = some r →
        exec (.hostCkpt h) s = .next { s with netOut := r :: s.netOut })) ∧
    (fresh →
      (∀ t n, s.load file = .ok (t, n) → ∃ t', exec (.hostLoad h file) s = .next t' ∧ t'.spaces = t.spaces ∧ t'.mem = t.mem ∧
        t'.netOut = { ep := h.ep, seq := h.seq, status := 0, old := BitVec.ofNat 64 n, data := [] } :: t.netOut) ∧
      (∀ sp r, s.spaces.find asid = some sp → sp.recs[j]? = some r →
        let dies := diesOf (r.set ++ r.extra)
        let room := s.allocPage (dies.headD 0) r.blockSize
        (s.spaceEnding asid = false → (∀ d ∈ dies, s.freeSlots d ≠ []) → room.1 ≠ none → ∃ t l, exec (.hostSubmit h asid j karg) s = .next t ∧
          t.launches.find l ≠ none ∧ (∃ sp', t.spaces.find asid = some sp' ∧ sp'.subs.find j = some l) ∧
          (∀ d ∈ dies, ∃ i x, (t.die d).lq.find i = some x ∧ x.lid = l % 65536 ∧ x.asid = asid % 65536) ∧
          t.netOut = { ep := h.ep, seq := h.seq, status := 0, old := BitVec.ofNat 64 l, data := [] } :: s.netOut) ∧
        (s.spaceEnding asid = true ∨ (∃ d ∈ dies, s.freeSlots d = []) ∨ room.1 = none → answers (.hostSubmit h asid j karg) 2 0 [] fun t =>
          t.threads = s.threads ∧ t.launches = s.launches)) ∧
      (s.spaces.find asid = none → answers (.hostSubmit h asid j karg) 8 0 [] fun t => t.threads = s.threads) ∧
      (∀ die, die < 12 → s.dieHolds die lid = true → (∀ d, d < die → s.dieHolds d lid = false) →
        (s.lstate lid = lqRunning → (s.launchOf lid).stopping = false →
          answers (.hostPreempt h lid) 0 0 [] fun t => ∀ u ∈ s.launchThreads lid, (s.thr u).st ≠ .ended →
            (s.thr u).st ≠ .saved → (s.thr u).st ≠ .idle → (t.thr u).saveFrom ≠ none) ∧
        (s.lstate lid = lqSaved → answers (.hostResume h lid) 0 0 [] fun t => (t.launchOf lid).resume = true) ∧
        (s.lstate lid = lqRunning → answers (.hostStop h lid) 0 0 [] fun t =>
          ∀ u ∈ s.launchThreads lid, (t.thr u).st = .ended)) ∧
      (s.spaces.find asid ≠ none → hostRange va.toNat len = true → idle →
        (∀ y, s.spaceRead asid va.toNat len s.tick = some y → answers (.hostRead h asid va len) y.status 0 y.data fun t =>
          t.mem = s.mem ∧ t.threads = s.threads) ∧
        (s.spaceRead asid va.toNat len s.tick = none → exec (.hostRead h asid va len) s =
          .next { s with remoteWaits := s.remoteWaits ++ [{ work := .read h asid va len, since := s.tick }] })) ∧
      (∀ ps, s.spaces.find asid ≠ none → hostRange va.toNat data.length = true →
        s.remoteWords asid va.toNat [kPlain] true (data.length / 8) = .ok ps → answers (.hostWrite h asid va data) 0 0 []
          fun t => t.threads = s.threads ∧ (∀ x, (∀ p ∈ ps, x < p ∨ p + 8 ≤ x) → memGet t.mem x = memGet s.mem x) ∧
            ∀ i p, ps[i]? = some p → (∀ k q, i < k → ps[k]? = some q → q + 8 ≤ p ∨ p + 8 ≤ q) →
              memRead t.mem p 8 = (data.drop (8 * i)).take 8) ∧
      (answers (.hostAttest h 0 nonce) 0 0 (s.quote (beBytes nonce.toNat 48) 0) fun t => t.mem = s.mem) ∧
      (answers (.hostStatus h) 0 (BitVec.ofNat 64 s.onlineMask)
        (s.launchStates ++ s.events.flatMap fun d => bytesOf d 8) fun t => t.events = []) ∧
      (∀ sp, s.spaces.find asid = some sp → idle →
        (s.spaceBusy asid = true → answers (.hostUnload h asid) 2 0 [] fun t => t.spaces = s.spaces) ∧
        (s.spaceBusy asid = false → (∀ e ∈ s.windows, e.2.asid = asid → s.windowBusy e.1 = false) →
          answers (.hostUnload h asid) 0 0 [] fun t => t.spaces.find asid = none ∧ ∀ e ∈ t.windows, e.2.asid ≠ asid) ∧
        (s.spaceBusy asid = false → (∃ e ∈ s.windows, e.2.asid = asid ∧ s.windowBusy e.1 = true) →
          ∃ t, exec (.hostUnload h asid) s = .next t ∧ t = { s with
            windows := t.windows,
            remoteWaits := s.remoteWaits ++ [{ work := .unload h asid, since := s.tick }] } ∧
            ∀ id w, s.windows.find id = some w →
              t.windows.find id = some (if w.asid = asid then { w with closing := true } else w))) ∧
      (s.ckptRun = none → s.cxlUp ≠ [] → ∃ t, exec (.hostCkpt h) s = .next t ∧ t.netOut = s.netOut ∧
        t.ckptRun = some { hdr := h, tick := s.tick, settled := false,
                           lids := (s.lidsIn lqRunning).filter fun l => !(s.launchOf l).stopping }) ∧
      (s.ckptRun = none → s.cxlUp = [] → answers (.hostCkpt h) 3 0 [] fun t => t.threads = s.threads ∧ t.ckpts = s.ckpts) ∧
      (∀ r, s.ckptRun = some r → r.hdr ≠ h → answers (.hostCkpt h) 2 0 [] fun t => t.ckptRun = some r ∧ t.ckpts = s.ckpts)) ∧
    (∀ r, s.ckptRun = some r → r.hdr = h → s.ckptQuiet = true →
      (r.settled = false → (∀ e ∈ s.clusters, e.2.purlin = []) → ∃ t, exec (.hostCkpt h) s = .next t ∧
        t.ckptRun = some { r with settled := true } ∧ t.mem = s.mem ∧
        ∀ d x q, s.dies.find d = some x → q < 4 → (t.die d).settling.get [] q = x.quarter q) ∧
      (r.settled = true → s.beamsSettled = true → s.cxlUp ≠ [] → ∃ t k, exec (.hostCkpt h) s = .next t ∧
        t.ckptRun = none ∧ t.ckpts = k :: s.ckpts ∧ k.tick = r.tick ∧ k.good = true ∧ k.ports = s.cxlUp ∧
        k.mem = s.mem.filter (fun c => decide (c.1 < 12 * 0x1800000000)) ∧
        t.netOut = { ep := h.ep, seq := h.seq, status := 0, old := 0, data := [] } :: s.netOut ∧
        ∀ l ∈ r.lids, s.lstate l = lqSaved → (t.launchOf l).resume = true))

/-! ## Invariants -/

/-- R6, R328: the machine right after reset has its memory in canonical form. The model's choices here: log entry 8. -/
def Obligations.MemoryCanonicalAtReset : Prop := memWf State.reset.mem = true ∧ ∀ a, memGet State.reset.mem a = 0

/-- R6: whatever a step does, memory stays in canonical form: every byte has one place in it, and equal memories are equal
data. -/
def Obligations.MemoryCanonicalKept : Prop :=
  ∀ (s t : State), memWf s.mem = true → step s = .next t → memWf t.mem = true
end

