-- ==== Sys2Proof/Laws/Tables.lean ====
section
/-! SUPPORT. Sparse tables and physical memory: a read after a write, what a write leaves alone, and the canonical
form, which every memory operation keeps. -/

namespace Sys2Proof

/-! ## Tables -/

@[simp] theorem AMap.get_nil {α : Type} (d : α) (i : Nat) : AMap.get d ([] : AMap α) i = d := rfl

@[simp] theorem AMap.find_nil {α : Type} (i : Nat) : AMap.find ([] : AMap α) i = none := rfl

@[simp] theorem AMap.get_set_same {α : Type} (d : α) (m : AMap α) (i : Nat) (x : α) :
    AMap.get d (AMap.set m i x) i = x := by
  induction m with
  | nil => simp [AMap.set, AMap.get]
  | cons e r ih =>
    obtain ⟨k, v⟩ := e
    simp only [AMap.set]
    split
    · next h => simp [AMap.get, h]
    · split
      · simp [AMap.get]
      · next h _ => simp [AMap.get, h, ih]

theorem AMap.get_set_other {α : Type} (d : α) (m : AMap α) {i j : Nat} (x : α) (h : j ≠ i) :
    AMap.get d (AMap.set m i x) j = AMap.get d m j := by
  induction m with
  | nil => simp [AMap.set, AMap.get, h]
  | cons e r ih =>
    obtain ⟨k, v⟩ := e
    simp only [AMap.set]
    split
    · next hk => subst hk; simp [AMap.get, h]
    · split
      · simp [AMap.get, h]
      · simp only [AMap.get, ih]

theorem AMap.get_set {α : Type} (d : α) (m : AMap α) (i j : Nat) (x : α) :
    AMap.get d (AMap.set m i x) j = if j = i then x else AMap.get d m j := by
  split
  · next h => subst h; simp
  · next h => exact AMap.get_set_other d m x h

@[simp] theorem AMap.find_set_same {α : Type} (m : AMap α) (i : Nat) (x : α) :
    AMap.find (AMap.set m i x) i = some x := by
  induction m with
  | nil => simp [AMap.set, AMap.find]
  | cons e r ih =>
    obtain ⟨k, v⟩ := e
    simp only [AMap.set]
    split
    · next h => simp [AMap.find, h]
    · split
      · simp [AMap.find]
      · next h _ => simp [AMap.find, h, ih]

theorem AMap.find_set_other {α : Type} (m : AMap α) {i j : Nat} (x : α) (h : j ≠ i) :
    AMap.find (AMap.set m i x) j = AMap.find m j := by
  induction m with
  | nil => simp [AMap.set, AMap.find, h]
  | cons e r ih =>
    obtain ⟨k, v⟩ := e
    simp only [AMap.set]
    split
    · next hk => subst hk; simp [AMap.find, h]
    · split
      · simp [AMap.find, h]
      · simp only [AMap.find, ih]

theorem AMap.get_erase_other {α : Type} (d : α) (m : AMap α) {i j : Nat} (h : j ≠ i) :
    AMap.get d (AMap.erase m i) j = AMap.get d m j := by
  induction m with
  | nil => rfl
  | cons e r ih =>
    obtain ⟨k, v⟩ := e
    simp only [AMap.erase]
    split
    · next hk => subst hk; simp [AMap.get, h, ih]
    · simp only [AMap.get, ih]

theorem AMap.find_erase_other {α : Type} (m : AMap α) {i j : Nat} (h : j ≠ i) :
    AMap.find (AMap.erase m i) j = AMap.find m j := by
  induction m with
  | nil => rfl
  | cons e r ih =>
    obtain ⟨k, v⟩ := e
    simp only [AMap.erase]
    split
    · next hk => subst hk; simp [AMap.find, h, ih]
    · simp only [AMap.find, ih]

@[simp] theorem AMap.get_erase_same {α : Type} (d : α) (m : AMap α) (i : Nat) : AMap.get d (AMap.erase m i) i = d := by
  induction m with
  | nil => rfl
  | cons a r ih =>
    obtain ⟨k, v⟩ := a
    simp only [AMap.erase]
    split
    · exact ih
    · next hk => simp only [AMap.get, if_neg hk]; exact ih

@[simp] theorem AMap.find_erase_same {α : Type} (m : AMap α) (i : Nat) : AMap.find (AMap.erase m i) i = none := by
  induction m with
  | nil => rfl
  | cons a r ih =>
    obtain ⟨k, v⟩ := a
    simp only [AMap.erase]
    split
    · exact ih
    · next hk => simp only [AMap.find, if_neg hk]; exact ih

/-- Every key of a table lies above a bound. -/
def AMap.above {α : Type} (n : Nat) (m : AMap α) : Prop := ∀ e ∈ m, n < e.1

/-- A table is sorted if its tail is and its first key lies below every later one. -/
theorem AMap.sorted_cons {α : Type} (k : Nat) (v : α) (r : AMap α) :
    AMap.sorted ((k, v) :: r) = true ↔ AMap.above k r ∧ AMap.sorted r = true := by
  induction r generalizing k v with
  | nil => simp [AMap.sorted, AMap.above]
  | cons e r ih =>
    obtain ⟨k', v'⟩ := e
    rw [AMap.sorted, Bool.and_eq_true, decide_eq_true_iff]
    constructor
    · rintro ⟨hk, hs⟩
      refine ⟨?_, hs⟩
      intro x hx
      rcases List.mem_cons.mp hx with rfl | hx
      · exact hk
      · exact lt_trans hk ((ih k' v').mp hs |>.1 x hx)
    · rintro ⟨ha, hs⟩
      exact ⟨ha (k', v') (by simp), hs⟩

theorem AMap.mem_set {α : Type} (m : AMap α) (i : Nat) (x : α) (e : Nat × α) (h : e ∈ AMap.set m i x) :
    e = (i, x) ∨ e ∈ m := by
  induction m with
  | nil => simpa [AMap.set] using h
  | cons a r ih =>
    obtain ⟨k, v⟩ := a
    simp only [AMap.set] at h
    split at h
    · next hk => rcases List.mem_cons.mp h with rfl | h <;> simp_all
    · split at h
      · rcases List.mem_cons.mp h with rfl | h <;> simp_all
      · rcases List.mem_cons.mp h with rfl | h
        · simp
        · rcases ih h with h | h <;> simp_all

theorem AMap.mem_erase {α : Type} (m : AMap α) (i : Nat) (e : Nat × α) (h : e ∈ AMap.erase m i) : e ∈ m := by
  induction m with
  | nil => simp [AMap.erase] at h
  | cons a r ih =>
    obtain ⟨k, v⟩ := a
    simp only [AMap.erase] at h
    split at h
    · simp [ih h]
    · rcases List.mem_cons.mp h with rfl | h
      · simp
      · simp [ih h]

theorem AMap.sorted_set {α : Type} (m : AMap α) (i : Nat) (x : α) (h : AMap.sorted m = true) :
    AMap.sorted (AMap.set m i x) = true := by
  induction m with
  | nil => rfl
  | cons a r ih =>
    obtain ⟨k, v⟩ := a
    obtain ⟨ha, hs⟩ := (AMap.sorted_cons k v r).mp h
    simp only [AMap.set]
    split
    · exact (AMap.sorted_cons k x r).mpr ⟨ha, hs⟩
    · split
      · next hik =>
        refine (AMap.sorted_cons i x _).mpr ⟨?_, h⟩
        intro e he
        rcases List.mem_cons.mp he with rfl | he
        · exact hik
        · exact lt_trans hik (ha e he)
      · next hne hnl =>
        refine (AMap.sorted_cons k v _).mpr ⟨?_, ih hs⟩
        intro e he
        rcases AMap.mem_set r i x e he with rfl | he
        · simp only; omega
        · exact ha e he

theorem AMap.sorted_erase {α : Type} (m : AMap α) (i : Nat) (h : AMap.sorted m = true) :
    AMap.sorted (AMap.erase m i) = true := by
  induction m with
  | nil => rfl
  | cons a r ih =>
    obtain ⟨k, v⟩ := a
    obtain ⟨ha, hs⟩ := (AMap.sorted_cons k v r).mp h
    simp only [AMap.erase]
    split
    · exact ih hs
    · exact (AMap.sorted_cons k v _).mpr ⟨fun e he => ha e (AMap.mem_erase r i e he), ih hs⟩

/-- A canonical write: what the key then reads as. -/
@[simp] theorem AMap.get_put_same {α : Type} [DecidableEq α] (d : α) (m : AMap α) (i : Nat) (x : α) :
    AMap.get d (AMap.put d m i x) i = x := by
  unfold AMap.put
  split
  · next hx => subst hx; exact AMap.get_erase_same x m i
  · exact AMap.get_set_same d m i x

theorem AMap.get_put_other {α : Type} [DecidableEq α] (d : α) (m : AMap α) {i j : Nat} (x : α) (h : j ≠ i) :
    AMap.get d (AMap.put d m i x) j = AMap.get d m j := by
  unfold AMap.put
  split
  · exact AMap.get_erase_other d m h
  · exact AMap.get_set_other d m x h

/-- Every value of a table changed: the value read at a key is the changed one, as the default is. -/
theorem AMap.get_map {α : Type} (f : Nat → α → α) (d : α) (m : AMap α) (i : Nat) :
    AMap.get (f i d) (m.map fun e => (e.1, f e.1 e.2)) i = f i (AMap.get d m i) := by
  induction m with
  | nil => rfl
  | cons e r ih =>
    by_cases h : i = e.1
    · simp [AMap.get, h]
    · simpa [AMap.get, h] using ih

theorem AMap.find_map {α : Type} (f : Nat → α → α) (m : AMap α) (i : Nat) :
    AMap.find (m.map fun e => (e.1, f e.1 e.2)) i = (AMap.find m i).map (f i) := by
  induction m with
  | nil => rfl
  | cons e r ih =>
    by_cases h : i = e.1
    · simp [AMap.find, h]
    · simpa [AMap.find, h] using ih

end Sys2Proof

namespace Sys2Proof.Machine

/-! ## Physical memory (R6, R270, R328) -/

/-- The canonical form of memory as two facts. -/
theorem memWf_iff (m : List Host.Cell) :
    memWf m = true ↔ AMap.sorted m = true ∧ ∀ c ∈ m, c.2 ≠ memDefault := by
  simp [memWf, List.all_eq_true]

theorem memWf_memPut (m : List Host.Cell) (a : Nat) (b : Byte) (h : memWf m = true) : memWf (memPut m a b) = true := by
  obtain ⟨hs, hd⟩ := (memWf_iff m).mp h
  rw [memWf_iff, memPut, AMap.put]
  split
  · exact ⟨AMap.sorted_erase m a hs, fun c hc => hd c (AMap.mem_erase m a c hc)⟩
  · next hb =>
    refine ⟨AMap.sorted_set m a b hs, fun c hc => ?_⟩
    rcases AMap.mem_set m a b c hc with rfl | hc
    · exact hb
    · exact hd c hc

@[simp] theorem memGet_memPut_same (m : List Host.Cell) (a : Nat) (b : Byte) : memGet (memPut m a b) a = b :=
  AMap.get_put_same memDefault m a b

theorem memGet_memPut_other (m : List Host.Cell) {a a' : Nat} (b : Byte) (h : a' ≠ a) :
    memGet (memPut m a b) a' = memGet m a' :=
  AMap.get_put_other memDefault m b h

theorem memWf_memWrite (m : List Host.Cell) (a : Nat) (bs : List Byte) (h : memWf m = true) :
    memWf (memWrite m a bs) = true := by
  induction bs generalizing m a with
  | nil => exact h
  | cons b r ih => exact ih _ _ (memWf_memPut m a b h)

theorem memWf_memWriteMask (m : List Host.Cell) (a : Nat) (bs : List (Option Byte)) (h : memWf m = true) :
    memWf (memWriteMask m a bs) = true := by
  induction bs generalizing m a with
  | nil => exact h
  | cons b r ih =>
    cases b with
    | none => exact ih _ _ h
    | some b => exact ih _ _ (memWf_memPut m a b h)

/-- Bytes below a write keep their value. -/
theorem memGet_memWrite_below (m : List Host.Cell) (a : Nat) (bs : List Byte) (x : Nat) (h : x < a) :
    memGet (memWrite m a bs) x = memGet m x := by
  induction bs generalizing m a with
  | nil => rfl
  | cons b r ih => rw [memWrite, ih _ _ (by omega), memGet_memPut_other m b (by omega)]

/-- Bytes outside a write keep their value. -/
theorem memGet_memWrite_outside (m : List Host.Cell) (a : Nat) (bs : List Byte) (x : Nat)
    (h : x < a ∨ a + bs.length ≤ x) : memGet (memWrite m a bs) x = memGet m x := by
  induction bs generalizing m a with
  | nil => rfl
  | cons b r ih =>
    simp only [List.length_cons] at h
    rw [memWrite, ih _ _ (by omega), memGet_memPut_other m b (by omega)]

/-- Bytes outside a masked write keep their value. -/
theorem memGet_memWriteMask_outside (m : List Host.Cell) (a : Nat) (bs : List (Option Byte)) (x : Nat)
    (h : x < a ∨ a + bs.length ≤ x) : memGet (memWriteMask m a bs) x = memGet m x := by
  induction bs generalizing m a with
  | nil => rfl
  | cons b r ih =>
    simp only [List.length_cons] at h
    cases b with
    | none => exact ih _ _ (by omega)
    | some b => rw [memWriteMask, ih _ _ (by omega), memGet_memPut_other m b (by omega)]

/-- A byte of a write reads back. -/
theorem memGet_memWrite_inside (m : List Host.Cell) (a : Nat) (bs : List Byte) (i : Nat) (hi : i < bs.length) :
    memGet (memWrite m a bs) (a + i) = bs[i] := by
  induction bs generalizing m a i with
  | nil => simp at hi
  | cons b r ih =>
    cases i with
    | zero =>
      rw [memWrite, memGet_memWrite_below _ _ _ _ (by omega)]
      exact memGet_memPut_same m a b
    | succ k =>
      have := ih (memPut m a b) (a + 1) k (by simpa using hi)
      rw [memWrite]
      simpa [Nat.add_assoc, Nat.add_comm 1 k] using this

/-- What was written reads back in order. -/
theorem memRead_memWrite (m : List Host.Cell) (a : Nat) (bs : List Byte) :
    memRead (memWrite m a bs) a bs.length = bs := by
  induction bs generalizing m a with
  | nil => rfl
  | cons b r ih =>
    simp only [List.length_cons, memRead, memWrite]
    rw [memGet_memWrite_below _ _ _ _ (by omega), memGet_memPut_same m a b, ih]

end Sys2Proof.Machine
end

