-- ==== Sys2Proof/Laws/State.lean ====
section
/-! SUPPORT. Small laws of the state: one lemma for each table and update, and of the registers of a thread. -/

namespace Sys2Proof.Machine

/-! ## Tables of the state after an update -/

@[simp] theorem thr_setThr_same (s : State) (t : Nat) (x : Thread) : (s.setThr t x).thr t = x := by
  simp [State.thr, State.setThr]

theorem thr_setThr_other (s : State) {t u : Nat} (x : Thread) (h : u ≠ t) : (s.setThr t x).thr u = s.thr u := by
  simp [State.thr, State.setThr, AMap.get_set_other, h]

@[simp] theorem thr_modThr_same (s : State) (t : Nat) (f : Thread → Thread) : (s.modThr t f).thr t = f (s.thr t) := by
  simp [State.modThr]

theorem thr_modThr_other (s : State) {t u : Nat} (f : Thread → Thread) (h : u ≠ t) :
    (s.modThr t f).thr u = s.thr u := thr_setThr_other s _ h

@[simp] theorem th_modTh (s : State) (f : Thread → Thread) : (s.modTh f).th = f s.th := by
  simp [State.modTh, State.th, State.modThr, State.setThr, State.thr]

@[simp] theorem cur_modTh (s : State) (f : Thread → Thread) : (s.modTh f).cur = s.cur := rfl
@[simp] theorem mem_modTh (s : State) (f : Thread → Thread) : (s.modTh f).mem = s.mem := rfl
@[simp] theorem tick_modTh (s : State) (f : Thread → Thread) : (s.modTh f).tick = s.tick := rfl
@[simp] theorem cores_modTh (s : State) (f : Thread → Thread) : (s.modTh f).cores = s.cores := rfl
@[simp] theorem clusters_modTh (s : State) (f : Thread → Thread) : (s.modTh f).clusters = s.clusters := rfl
@[simp] theorem dies_modTh (s : State) (f : Thread → Thread) : (s.modTh f).dies = s.dies := rfl
@[simp] theorem cor_modTh (s : State) (f : Thread → Thread) (k : Nat) : (s.modTh f).cor k = s.cor k := rfl
@[simp] theorem co_modTh (s : State) (f : Thread → Thread) : (s.modTh f).co = s.co := rfl
@[simp] theorem ck_modTh (s : State) (f : Thread → Thread) : (s.modTh f).ck = s.ck := rfl
@[simp] theorem die_modTh (s : State) (f : Thread → Thread) (k : Nat) : (s.modTh f).die k = s.die k := rfl

@[simp] theorem cur_modThr (s : State) (t : Nat) (f : Thread → Thread) : (s.modThr t f).cur = s.cur := rfl
@[simp] theorem mem_modThr (s : State) (t : Nat) (f : Thread → Thread) : (s.modThr t f).mem = s.mem := rfl
@[simp] theorem cores_modThr (s : State) (t : Nat) (f : Thread → Thread) : (s.modThr t f).cores = s.cores := rfl
@[simp] theorem dies_modThr (s : State) (t : Nat) (f : Thread → Thread) : (s.modThr t f).dies = s.dies := rfl
@[simp] theorem tick_modThr (s : State) (t : Nat) (f : Thread → Thread) : (s.modThr t f).tick = s.tick := rfl
@[simp] theorem cor_modThr (s : State) (t : Nat) (f : Thread → Thread) (k : Nat) : (s.modThr t f).cor k = s.cor k := rfl
@[simp] theorem die_modThr (s : State) (t : Nat) (f : Thread → Thread) (k : Nat) : (s.modThr t f).die k = s.die k := rfl

@[simp] theorem cor_modCor_same (s : State) (k : Nat) (f : Core → Core) : (s.modCor k f).cor k = f (s.cor k) := by
  simp [State.modCor, State.setCor, State.cor]

theorem cor_modCor_other (s : State) {k j : Nat} (f : Core → Core) (h : j ≠ k) : (s.modCor k f).cor j = s.cor j := by
  simp [State.modCor, State.setCor, State.cor, AMap.get_set_other, h]

@[simp] theorem co_modCo (s : State) (f : Core → Core) : (s.modCo f).co = f s.co := by
  simp [State.modCo, State.co, State.modCor, State.setCor, State.cor, State.ck]

@[simp] theorem cur_modCor (s : State) (k : Nat) (f : Core → Core) : (s.modCor k f).cur = s.cur := rfl
@[simp] theorem mem_modCor (s : State) (k : Nat) (f : Core → Core) : (s.modCor k f).mem = s.mem := rfl
@[simp] theorem threads_modCor (s : State) (k : Nat) (f : Core → Core) : (s.modCor k f).threads = s.threads := rfl
@[simp] theorem dies_modCor (s : State) (k : Nat) (f : Core → Core) : (s.modCor k f).dies = s.dies := rfl
@[simp] theorem tick_modCor (s : State) (k : Nat) (f : Core → Core) : (s.modCor k f).tick = s.tick := rfl
@[simp] theorem thr_modCor (s : State) (k : Nat) (f : Core → Core) (t : Nat) : (s.modCor k f).thr t = s.thr t := rfl
@[simp] theorem th_modCor (s : State) (k : Nat) (f : Core → Core) : (s.modCor k f).th = s.th := rfl
@[simp] theorem die_modCor (s : State) (k : Nat) (f : Core → Core) (d : Nat) : (s.modCor k f).die d = s.die d := rfl

@[simp] theorem cur_modCo (s : State) (f : Core → Core) : (s.modCo f).cur = s.cur := rfl
@[simp] theorem mem_modCo (s : State) (f : Core → Core) : (s.modCo f).mem = s.mem := rfl
@[simp] theorem threads_modCo (s : State) (f : Core → Core) : (s.modCo f).threads = s.threads := rfl
@[simp] theorem thr_modCo (s : State) (f : Core → Core) (t : Nat) : (s.modCo f).thr t = s.thr t := rfl
@[simp] theorem th_modCo (s : State) (f : Core → Core) : (s.modCo f).th = s.th := rfl
@[simp] theorem ck_modCo (s : State) (f : Core → Core) : (s.modCo f).ck = s.ck := rfl
@[simp] theorem tick_modCo (s : State) (f : Core → Core) : (s.modCo f).tick = s.tick := rfl

@[simp] theorem die_modDie_same (s : State) (d : Nat) (f : Die → Die) : (s.modDie d f).die d = f (s.die d) := by
  simp [State.modDie, State.die]

theorem die_modDie_other (s : State) {d e : Nat} (f : Die → Die) (h : e ≠ d) : (s.modDie d f).die e = s.die e := by
  simp [State.modDie, State.die, AMap.get_set_other, h]

@[simp] theorem cur_modDie (s : State) (d : Nat) (f : Die → Die) : (s.modDie d f).cur = s.cur := rfl
@[simp] theorem mem_modDie (s : State) (d : Nat) (f : Die → Die) : (s.modDie d f).mem = s.mem := rfl
@[simp] theorem threads_modDie (s : State) (d : Nat) (f : Die → Die) : (s.modDie d f).threads = s.threads := rfl
@[simp] theorem cores_modDie (s : State) (d : Nat) (f : Die → Die) : (s.modDie d f).cores = s.cores := rfl
@[simp] theorem tick_modDie (s : State) (d : Nat) (f : Die → Die) : (s.modDie d f).tick = s.tick := rfl
@[simp] theorem thr_modDie (s : State) (d : Nat) (f : Die → Die) (t : Nat) : (s.modDie d f).thr t = s.thr t := rfl
@[simp] theorem th_modDie (s : State) (d : Nat) (f : Die → Die) : (s.modDie d f).th = s.th := rfl
@[simp] theorem cor_modDie (s : State) (d : Nat) (f : Die → Die) (k : Nat) : (s.modDie d f).cor k = s.cor k := rfl

@[simp] theorem clu_modClu_same (s : State) (k : Nat) (f : Cluster → Cluster) : (s.modClu k f).clu k = f (s.clu k) := by
  simp [State.modClu, State.clu]

theorem clu_modClu_other (s : State) {k j : Nat} (f : Cluster → Cluster) (h : j ≠ k) : (s.modClu k f).clu j = s.clu j := by
  simp [State.modClu, State.clu, AMap.get_set_other, h]

@[simp] theorem cur_modClu (s : State) (k : Nat) (f : Cluster → Cluster) : (s.modClu k f).cur = s.cur := rfl
@[simp] theorem mem_modClu (s : State) (k : Nat) (f : Cluster → Cluster) : (s.modClu k f).mem = s.mem := rfl
@[simp] theorem threads_modClu (s : State) (k : Nat) (f : Cluster → Cluster) : (s.modClu k f).threads = s.threads := rfl
@[simp] theorem cores_modClu (s : State) (k : Nat) (f : Cluster → Cluster) : (s.modClu k f).cores = s.cores := rfl
@[simp] theorem dies_modClu (s : State) (k : Nat) (f : Cluster → Cluster) : (s.modClu k f).dies = s.dies := rfl

@[simp] theorem threads_post (s : State) (p : Post) : (s.post p).threads = s.threads := rfl
@[simp] theorem cores_post (s : State) (p : Post) : (s.post p).cores = s.cores := rfl
@[simp] theorem dies_post (s : State) (p : Post) : (s.post p).dies = s.dies := rfl
@[simp] theorem mem_post (s : State) (p : Post) : (s.post p).mem = s.mem := rfl
@[simp] theorem cur_post (s : State) (p : Post) : (s.post p).cur = s.cur := rfl
@[simp] theorem transit_post (s : State) (p : Post) : (s.post p).transit = s.transit ++ [p] := rfl

@[simp] theorem loads_modThr (s : State) (t : Nat) (f : Thread → Thread) : (s.modThr t f).loads = s.loads := rfl
@[simp] theorem loads_modCor (s : State) (k : Nat) (f : Core → Core) : (s.modCor k f).loads = s.loads := rfl
@[simp] theorem loads_modClu (s : State) (k : Nat) (f : Cluster → Cluster) : (s.modClu k f).loads = s.loads := rfl
@[simp] theorem loads_modDie (s : State) (d : Nat) (f : Die → Die) : (s.modDie d f).loads = s.loads := rfl
@[simp] theorem loads_post (s : State) (p : Post) : (s.post p).loads = s.loads := rfl

/-! ## Registers (R14, R78) -/

@[simp] theorem rg_zero (t : Thread) : t.rg 0 = 0 := rfl
@[simp] theorem rm_zero (t : Thread) : t.rm 0 = BitVec.allOnes 16 := rfl

theorem get_set {α : Type} {n : Nat} (v : Vector α n) (d r : Fin n) (x : α) :
    (v.set d.val x d.isLt).get r = if r = d then x else v.get r := by
  change (v.set d.val x d.isLt)[r.val] = if r = d then x else v[r.val]
  rw [Vector.getElem_set]
  by_cases h : r = d
  · subst h; simp
  · rw [if_neg (fun hv => h (Fin.ext hv.symm)), if_neg h]

theorem rg_setG (t : Thread) (d r : Reg) (x : Word) :
    (t.setG d x).rg r = if r = d then (if d = 0 then 0 else x) else t.rg r := by
  unfold Thread.setG
  by_cases hd : d = 0
  · rw [if_pos hd]
    by_cases h : r = d
    · rw [if_pos h, if_pos hd, h, hd]; rfl
    · rw [if_neg h]
  · rw [if_neg hd]
    unfold Thread.rg
    by_cases hr : r = 0
    · rw [if_pos hr, if_neg (show ¬ r = d from fun h => hd (h ▸ hr)), if_pos hr]
    · rw [if_neg hr, if_neg hr]
      exact (get_set t.g d r x).trans (by rw [if_neg hd])

@[simp] theorem rg_setG_other (t : Thread) {d r : Reg} (x : Word) (h : r ≠ d) : (t.setG d x).rg r = t.rg r := by
  simp [rg_setG, h]

@[simp] theorem rg_setG_same (t : Thread) (d : Reg) (x : Word) : (t.setG d x).rg d = if d = 0 then 0 else x := by
  simp [rg_setG]

theorem rv_setV (t : Thread) (d r : Reg) (x : VReg) : (t.setV d x).rv r = if r = d then x else t.rv r :=
  get_set t.v d r x

theorem rm_setM (t : Thread) (d r : MReg) (x : LMask) :
    (t.setM d x).rm r = if r = d then (if d = 0 then BitVec.allOnes 16 else x) else t.rm r := by
  unfold Thread.setM
  by_cases hd : d = 0
  · rw [if_pos hd]
    by_cases h : r = d
    · rw [if_pos h, if_pos hd, h, hd]; rfl
    · rw [if_neg h]
  · rw [if_neg hd]
    unfold Thread.rm
    by_cases hr : r = 0
    · rw [if_pos hr, if_neg (show ¬ r = d from fun h => hd (h ▸ hr)), if_pos hr]
    · rw [if_neg hr, if_neg hr]
      exact (get_set t.m d r x).trans (by rw [if_neg hd])

/-- What writing a general register leaves alone: one field of each kind. -/
theorem setG_keeps (t : Thread) (d : Reg) (x : Word) : Keeps [d] [] [] t (t.setG d x) ∧ (t.setG d x).kstat = t.kstat ∧
    (t.setG d x).pc = t.pc ∧ (t.setG d x).kfcnt = t.kfcnt ∧ (t.setG d x).kfidx = t.kfidx ∧ (t.setG d x).st = t.st := by
  refine ⟨⟨fun r h => rg_setG_other t x (by simpa using h), ?_, ?_, ?_, ?_, ?_, ?_, ?_⟩, ?_, ?_, ?_, ?_, ?_⟩ <;>
    unfold Thread.setG <;> split <;> simp [Thread.rv, Thread.rm]

/-- What writing a vector register leaves alone. -/
theorem setV_keeps (t : Thread) (d : Reg) (x : VReg) : Keeps [] [d] [] t (t.setV d x) :=
  ⟨fun _ _ => rfl, fun r h => by rw [rv_setV, if_neg (by simpa using h)], fun _ _ => rfl, ⟨rfl, rfl, rfl⟩,
    ⟨rfl, rfl, rfl, rfl, rfl⟩, rfl, ⟨rfl, rfl, rfl, rfl, rfl⟩, ⟨rfl, rfl⟩⟩

/-- What writing a mask leaves alone. -/
theorem setM_keeps (t : Thread) (d : MReg) (x : LMask) : Keeps [] [] [d] t (t.setM d x) ∧ (t.setM d x).kstat = t.kstat ∧
    (t.setM d x).pc = t.pc ∧ (t.setM d x).kfcnt = t.kfcnt := by
  refine ⟨⟨?_, ?_, fun r h => by rw [rm_setM, if_neg (by simpa using h)], ?_, ?_, ?_, ?_, ?_⟩, ?_, ?_, ?_⟩ <;>
    unfold Thread.setM <;> split <;> simp [Thread.rv, Thread.rg]

/-! ## Completion (R159) -/

/-- Completion moves `pc` and the frame's place and nothing else. -/
theorem advance_form (t : Thread) :
    ∃ p c i g, t.advance = { t with pc := p, kfcnt := c, kfidx := i, kfstg := g } := by
  unfold Thread.advance
  split
  · dsimp only
    split
    · exact ⟨_, _, _, _, rfl⟩
    · split <;> exact ⟨_, _, _, _, rfl⟩
  · exact ⟨_, _, _, _, rfl⟩

/-- Completion keeps every register and every special register but the frame's place. -/
theorem advance_keeps (t : Thread) : Keeps [] [] [] t t.advance ∧ t.advance.kstat = t.kstat ∧ t.advance.st = t.st := by
  obtain ⟨p, c, i, g, h⟩ := advance_form t
  rw [h]
  exact ⟨⟨fun _ _ => rfl, fun _ _ => rfl, fun _ _ => rfl, ⟨rfl, rfl, rfl⟩, ⟨rfl, rfl, rfl, rfl, rfl⟩, rfl,
    ⟨rfl, rfl, rfl, rfl, rfl⟩, ⟨rfl, rfl⟩⟩, rfl, rfl⟩

theorem advance_pc (t : Thread) (h : t.inFrame = false) : t.advance.pc = t.pc + 4 := by
  simp [Thread.advance, h]

theorem retire_keeps (t : Thread) : Keeps [] [] [] t t.retire := by
  obtain ⟨h, -, -⟩ := advance_keeps t
  exact ⟨h.g, h.v, h.m, h.saved, h.control, h.frame, h.bits, h.packet⟩

theorem retireReply_keeps (t : Thread) (now : Nat) (d : Reg) : Keeps [] [] [] t (t.retireReply now d) := by
  obtain ⟨h, -, -⟩ := advance_keeps t
  exact ⟨h.g, h.v, h.m, h.saved, h.control, h.frame, h.bits, h.packet⟩

@[simp] theorem retire_kstat (t : Thread) : t.retire.kstat = t.kstat := (advance_keeps t).2.1
@[simp] theorem retireReply_kstat (t : Thread) (n : Nat) (d : Reg) : (t.retireReply n d).kstat = t.kstat :=
  (advance_keeps t).2.1
@[simp] theorem retire_rg (t : Thread) (r : Reg) : t.retire.rg r = t.rg r := (retire_keeps t).g r (by simp)
@[simp] theorem retireReply_rg (t : Thread) (n : Nat) (d r : Reg) : (t.retireReply n d).rg r = t.rg r :=
  (retireReply_keeps t n d).g r (by simp)
@[simp] theorem retire_rv (t : Thread) (r : Reg) : t.retire.rv r = t.rv r := (retire_keeps t).v r (by simp)
@[simp] theorem retireReply_rv (t : Thread) (n : Nat) (d r : Reg) : (t.retireReply n d).rv r = t.rv r :=
  (retireReply_keeps t n d).v r (by simp)
@[simp] theorem retire_rm (t : Thread) (r : MReg) : t.retire.rm r = t.rm r := (retire_keeps t).m r (by simp)
@[simp] theorem retireReply_rm (t : Thread) (n : Nat) (d : Reg) (r : MReg) : (t.retireReply n d).rm r = t.rm r :=
  (retireReply_keeps t n d).m r (by simp)

theorem retire_next (t : Thread) : NextWord t t.retire := fun h => advance_pc t h
theorem retireReply_next (t : Thread) (n : Nat) (d : Reg) : NextWord t (t.retireReply n d) := fun h => advance_pc t h
theorem retire_completed (t : Thread) : Completed t.retire := .inl ⟨rfl, rfl⟩
theorem retireReply_completed (t : Thread) (n : Nat) (d : Reg) : Completed (t.retireReply n d) := .inr ⟨rfl, _, rfl, rfl⟩

/-- What a save may give back of a form does not bear on what the form has written. -/
theorem Keeps.withBefore {gs vs : List Reg} {ms : List MReg} {x y : Thread} (h : Keeps gs vs ms x y) (b : Option Regs) :
    Keeps gs vs ms x { y with before := b } :=
  ⟨h.g, h.v, h.m, h.saved, h.control, h.frame, h.bits, h.packet⟩

/-- Kept things compose. -/
theorem Keeps.trans {gs vs : List Reg} {ms : List MReg} {x y z : Thread} (h : Keeps gs vs ms x y)
    (k : Keeps [] [] [] y z) : Keeps gs vs ms x z := by
  refine ⟨fun r hr => (k.g r (by simp)).trans (h.g r hr), fun r hr => (k.v r (by simp)).trans (h.v r hr),
    fun r hr => (k.m r (by simp)).trans (h.m r hr), ?_, ?_, k.frame.trans h.frame, ?_, ?_⟩
  · obtain ⟨a, b, c⟩ := k.saved; obtain ⟨a', b', c'⟩ := h.saved
    exact ⟨a.trans a', b.trans b', c.trans c'⟩
  · obtain ⟨a, b, c, d, e⟩ := k.control; obtain ⟨a', b', c', d', e'⟩ := h.control
    exact ⟨a.trans a', b.trans b', c.trans c', d.trans d', e.trans e'⟩
  · obtain ⟨a, b, c, d, e⟩ := k.bits; obtain ⟨a', b', c', d', e'⟩ := h.bits
    exact ⟨a.trans a', b.trans b', c.trans c', d.trans d', e.trans e'⟩
  · exact ⟨k.packet.1.trans h.packet.1, k.packet.2.trans h.packet.2⟩

/-! ## Leaving and entering a wait (R20, R115, R119) -/

@[simp] theorem wake_st (t : Thread) : t.wake.st = .ready := rfl
@[simp] theorem wake_wait (t : Thread) : t.wake.wait = none := rfl
@[simp] theorem wake_justReady (t : Thread) : t.wake.justReady = true := rfl
@[simp] theorem wake_waitFrom (t : Thread) : t.wake.waitFrom = t.waitFrom := rfl
@[simp] theorem rejoin_st (t : Thread) : t.rejoin.st = .ready := rfl
@[simp] theorem rejoin_wait (t : Thread) : t.rejoin.wait = none := rfl
@[simp] theorem rejoin_justReady (t : Thread) : t.rejoin.justReady = true := rfl
@[simp] theorem rejoin_retest (t : Thread) : t.rejoin.retest = none := rfl
@[simp] theorem block_retest (t : Thread) (now : Nat) (st : CtxState) (k : WaitKind) (d : Reg) (e : Nat) :
    (t.block now st k d e).retest = none := rfl

/-- A thread that leaves a timed wait keeps that wait and its word for the last test of its form. -/
theorem wake_retest (t : Thread) {w : Wait} (h : t.wait = some w) (hl : w.limited = true) :
    t.wake.retest = some { wait := w, word := t.word } := by
  simp [Thread.wake, h, hl]

/-- A thread that leaves a wait without a limit keeps what it has. -/
theorem wake_retest_kept (t : Thread) (h : ∀ w, t.wait = some w → w.limited = false) : t.wake.retest = t.retest := by
  cases hw : t.wait with
  | none => simp [Thread.wake, hw]
  | some w => simp [Thread.wake, hw, h w hw]

/-- A form whose wait ends keeps every register but the one that its status goes to. -/
theorem endWait_keeps (t : Thread) (d : Reg) (x : Word) : Keeps [d] [] [] t (t.endWait d x) := by
  have h := (setG_keeps t d x).1.trans (retire_keeps (t.setG d x))
  exact ⟨h.g, h.v, h.m, h.saved, h.control, h.frame, h.bits, h.packet⟩

theorem endWait_rg (t : Thread) (d : Reg) (x : Word) : (t.endWait d x).rg d = if d = 0 then 0 else x :=
  (retire_rg (t.setG d x) d).trans (rg_setG_same t d x)

/-- An update of the issuing thread alone. -/
theorem onlyThread_modTh (s : State) (f : Thread → Thread) : OnlyThread s (s.modTh f) :=
  ⟨rfl, fun _ h => thr_modThr_other s f h, fun _ => rfl, rfl⟩

/-! ## The shared endings of an instruction -/

/-- A fixed-latency form that writes one general register: everything it does. -/
theorem writesG_outG {i : Instr} {s : State} {d : Reg} {x : Word} (h : exec i s = .next (s.outG d x)) :
    WritesG i s d x := by
  refine ⟨_, h, onlyThread_modTh s _, ?_, ?_, ?_, ?_, ?_⟩ <;> rw [State.outG, th_modTh]
  · exact (setG_keeps s.th d x).1.trans (retire_keeps _)
  · rw [retire_kstat]; exact (setG_keeps s.th d x).2.1
  · simp
  · intro hf
    have hk : (s.th.setG d x).inFrame = false := by
      rw [Thread.inFrame, (setG_keeps s.th d x).2.2.2.1]; exact hf
    exact (retire_next _ hk).trans (by rw [(setG_keeps s.th d x).2.2.1])
  · exact retire_completed _

/-- A variable-latency form that writes one general register: everything it does. -/
theorem writesG_replyG {i : Instr} {s : State} {d : Reg} {x : Word} (h : exec i s = .next (s.replyG d x)) :
    WritesG i s d x := by
  refine ⟨_, h, onlyThread_modTh s _, ?_, ?_, ?_, ?_, ?_⟩ <;> rw [State.replyG, th_modTh]
  · exact (setG_keeps s.th d x).1.trans (retireReply_keeps _ _ _)
  · rw [retireReply_kstat]; exact (setG_keeps s.th d x).2.1
  · simp
  · intro hf
    have hk : (s.th.setG d x).inFrame = false := by
      rw [Thread.inFrame, (setG_keeps s.th d x).2.2.2.1]; exact hf
    exact (retireReply_next _ _ _ hk).trans (by rw [(setG_keeps s.th d x).2.2.1])
  · exact retireReply_completed _ _ _

/-- The same for a form that a save would withdraw before its reply. -/
theorem writesG_pureG {i : Instr} {s : State} {d : Reg} {x : Word} (h : exec i s = .next (s.pureG d x)) :
    WritesG i s d x := by
  rw [State.pureG, State.pure] at h
  refine ⟨_, h, onlyThread_modTh s _, ?_, ?_, ?_, ?_, ?_⟩ <;> rw [th_modTh]
  · exact ((setG_keeps s.th d x).1.trans (retireReply_keeps _ s.tick d)).withBefore _
  · exact (retireReply_kstat (s.th.setG d x) s.tick d).trans (setG_keeps s.th d x).2.1
  · exact (retireReply_rg (s.th.setG d x) s.tick d d).trans (rg_setG_same s.th d x)
  · intro hf
    have hk : (s.th.setG d x).inFrame = false := by
      rw [Thread.inFrame, (setG_keeps s.th d x).2.2.2.1]; exact hf
    exact (retireReply_next _ s.tick d hk).trans (by rw [(setG_keeps s.th d x).2.2.1])
  · exact .inr ⟨rfl, _, rfl, rfl⟩

/-! ## Threads that an arrival has made READY, and windows that close (R115, R119, R360) -/

@[simp] theorem settleReady_thr (s : State) (u : Nat) :
    s.settleReady.thr u =
      if s.hasCycle (coreDie (coreOf u)) then { s.thr u with justReady := false } else s.thr u := by
  have h := AMap.get_map (fun k (x : Thread) =>
    if s.hasCycle (coreDie (coreOf k)) then { x with justReady := false } else x) (threadInit u) s.threads u
  have h0 : (if s.hasCycle (coreDie (coreOf u)) then { threadInit u with justReady := false } else threadInit u) =
      threadInit u := by
    split
    · unfold threadInit; split <;> rfl
    · rfl
  rwa [h0] at h

@[simp] theorem closeWins_find (s : State) (p : Nat → Window → Bool) (id : Nat) :
    (s.closeWins p).windows.find id =
      (s.windows.find id).map fun w => if p id w then { w with closing := true } else w := by
  rw [← AMap.find_map fun k w => if p k w then { w with closing := true } else w]
  exact congrArg (AMap.find · id) (List.map_congr_left fun e _ => by by_cases h : p e.1 e.2 <;> simp [h])

@[simp] theorem closeWins_threads (s : State) (p : Nat → Window → Bool) : (s.closeWins p).threads = s.threads := rfl

end Sys2Proof.Machine
end

