-- ==== Sys2Proof/Laws/Frame.lean ====
section
/-! SUPPORT. The words of a repeat frame have the meaning they have outside one. -/

namespace Sys2Proof.Machine

/-- The opcodes that a frame does not refuse (R161). -/
theorem frameRefuses_ops {w : Nat} (h : frameRefuses w = false) :
    w % 64 ≠ 12 ∧ w % 64 ≠ 13 ∧ w % 64 ≠ 14 ∧ w % 64 ≠ 15 ∧ w % 64 ≠ 28 ∧ w % 64 ≠ 29 ∧ w % 64 ≠ 40 ∧ w % 64 ≠ 43 ∧
      w % 64 ≠ 44 := by
  have hf : fld w 0 6 = w % 64 := by simp [fld]
  rw [frameRefuses, hf] at h
  refine ⟨?_, ?_, ?_, ?_, ?_, ?_, ?_, ?_, ?_⟩ <;> intro e <;> rw [e] at h <;> exact absurd h (by decide)

/-- A form whose word a frame does not refuse is executed as outside one. -/
theorem bodyExec_of_word (i : Instr) (s : State) {w : Nat} (he : encode i = some w) (hf : frameRefuses w = false) :
    bodyExec i s = exec i s := by
  have hop := frameRefuses_ops hf
  cases i
  all_goals first
    | rfl
    | (exfalso; have hw := Option.some.inj he; omega)
    | (exact absurd (show none = some w from he) nofun)

end Sys2Proof.Machine
end

