-- ==== Sys2Proof/Laws/Memory.lean ====
section
/-! SUPPORT. What the operations on memory, the write-through queue and the L1 do to memory: they keep its canonical
form. -/

namespace Sys2Proof.Machine

/-- From a state to another the canonical form of memory is kept. -/
def MemKept (s t : State) : Prop := memWf s.mem = true → memWf t.mem = true

theorem memKept_refl (s : State) : MemKept s s := fun h => h

theorem memKept_trans {s t u : State} (h : MemKept s t) (k : MemKept t u) : MemKept s u := fun w => k (h w)

/-- A change that leaves memory alone. -/
theorem memKept_of_eq {s t : State} (h : t.mem = s.mem) : MemKept s t := fun w => h ▸ w

/-- A change of something else after one that keeps the form. -/
theorem memKept_then {s t u : State} (h : MemKept s t) (e : u.mem = t.mem) : MemKept s u := fun w => e ▸ h w

/-- A change that keeps the form after one of something else. -/
theorem memKept_past {s t u : State} (h : MemKept t u) (e : t.mem = s.mem) : MemKept s u := fun w => h (e ▸ w)

/-- A fold of changes that keep the form. -/
theorem memKept_foldl {α : Type} (l : List α) (f : State → α → State) (h : ∀ s a, MemKept s (f s a)) (s : State) :
    MemKept s (l.foldl f s) := by
  induction l generalizing s with
  | nil => exact memKept_refl s
  | cons a r ih => exact memKept_trans (h s a) (ih _)

/-- A fold of changes that leave memory alone. -/
theorem mem_foldl {α : Type} (l : List α) (f : State → α → State) (h : ∀ s a, (f s a).mem = s.mem) (s : State) :
    (l.foldl f s).mem = s.mem := by
  induction l generalizing s with
  | nil => rfl
  | cons a r ih => exact (ih _).trans (h s a)

/-! ## What leaves memory alone -/

@[simp] theorem mem_done (s : State) : s.done.mem = s.mem := rfl
@[simp] theorem mem_reply (s : State) : s.reply.mem = s.mem := rfl
@[simp] theorem mem_outG (s : State) (d : Reg) (x : Word) : (s.outG d x).mem = s.mem := rfl
@[simp] theorem mem_replyG (s : State) (d : Reg) (x : Word) : (s.replyG d x).mem = s.mem := rfl
@[simp] theorem mem_setThr (s : State) (t : Nat) (x : Thread) : (s.setThr t x).mem = s.mem := rfl
@[simp] theorem mem_setCor (s : State) (k : Nat) (x : Core) : (s.setCor k x).mem = s.mem := rfl
@[simp] theorem mem_draw (s : State) : s.draw.2.mem = s.mem := rfl
@[simp] theorem mem_postHw (s : State) (ck cls : Nat) (ws : List Word) : (s.postHw ck cls ws).mem = s.mem := rfl
@[simp] theorem mem_postService (s : State) (ws : List Word) : (s.postService ws).mem = s.mem := rfl
@[simp] theorem mem_resume (s : State) (t : Nat) : (s.resume t).mem = s.mem := rfl
@[simp] theorem mem_setWord (s : State) (w : Nat) : (s.setWord w).mem = s.mem := rfl
@[simp] theorem mem_l1Acquire (s : State) (ck : Nat) : (s.l1Acquire ck).mem = s.mem := rfl
@[simp] theorem mem_l1Invalidate (s : State) (ck pa n : Nat) : (s.l1Invalidate ck pa n).mem = s.mem := rfl
@[simp] theorem mem_pureG (s : State) (d : Reg) (x : Word) : (s.pureG d x).mem = s.mem := rfl

@[simp] theorem mem_filterEnter (s : State) (pa : Nat) (bd : Bool) : (s.filterEnter pa bd).mem = s.mem := by
  unfold State.filterEnter; split <;> rfl

@[simp] theorem mem_timed (s : State) (k : WaitKind) (d : Reg) (e : BitVec 4) (x : Word) :
    (s.timed k d e x).mem = s.mem := by
  unfold State.timed; split <;> rfl

@[simp] theorem mem_park (s : State) (m : Nat) (d : Reg) (e : BitVec 4) : (s.park m d e).mem = s.mem := by
  unfold State.park; split <;> rfl

@[simp] theorem mem_l1Forget (s : State) (ck line : Nat) : (s.l1Forget ck line).mem = s.mem := rfl
@[simp] theorem mem_toDevice (s : State) (e : WtEntry) : (s.toDevice e).mem = s.mem := rfl
@[simp] theorem mem_closeWins (s : State) (p : Nat → Window → Bool) : (s.closeWins p).mem = s.mem := rfl
@[simp] theorem mem_settleReady (s : State) : s.settleReady.mem = s.mem := rfl

@[simp] theorem mem_ask (s : State) (ck : Nat) (a : Ask) : (s.ask ck a).mem = s.mem := by
  unfold State.ask; split <;> rfl

@[simp] theorem mem_noteRequest (s : State) (ck die : Nat) (x : Option Word) (off n : Nat) :
    (s.noteRequest ck die x off n).mem = s.mem := by
  unfold State.noteRequest
  split
  · rfl
  · exact mem_ask ..

@[simp] theorem mem_countTag (s : State) (ck : Nat) (m : Msg) : (s.countTag ck m).mem = s.mem := by
  unfold State.countTag
  split
  · dsimp only; split <;> rfl
  · rfl

@[simp] theorem mem_queueMsg (s : State) (ck : Nat) (m : Msg) : (s.queueMsg ck m).mem = s.mem := by
  unfold State.queueMsg
  dsimp only
  split
  · rw [mem_modThr, mem_countTag, mem_modCor]
  · rw [mem_countTag, mem_modCor]

@[simp] theorem mem_postRecord (s : State) (t : Nat) (tr : Trap) : (s.postRecord t tr).mem = s.mem := by
  unfold State.postRecord
  dsimp only
  split
  · rfl
  · split <;> rfl

/-- R93: taking a trap changes no byte of memory. -/
@[simp] theorem mem_takeTrap (s : State) (t : Nat) (tr : Trap) : (s.takeTrap t tr).mem = s.mem := mem_postRecord s t tr

@[simp] theorem mem_trapNow (s : State) (tr : Trap) : (s.trapNow tr).mem = s.mem := mem_takeTrap s _ tr

/-- The outcome of a meaning that keeps the form where its checks pass. -/
theorem finish_memKept {s t : State} {r : Except Stop State} (h : ∀ u, r = .ok u → MemKept s u)
    (e : finish s r = .next t) : MemKept s t := by
  unfold finish at e
  split at e
  · exact Host.Outcome.next.inj e ▸ h _ rfl
  · exact Host.Outcome.next.inj e ▸ memKept_of_eq (mem_trapNow s _)
  · exact Host.Outcome.next.inj e ▸ memKept_of_eq rfl
  · exact Host.Outcome.next.inj e ▸ memKept_of_eq rfl
  · exact absurd e (by simp)
  · exact absurd e (by simp)

/-! ## Memory itself -/

theorem memKept_homeWrite (s : State) (pa : Nat) (bs : List Byte) : MemKept s (s.homeWrite pa bs) :=
  memWf_memWrite s.mem pa bs

/-- Cells removed from memory in canonical form leave it so. -/
theorem memWf_filter (m : List Host.Cell) (p : Host.Cell → Bool) (h : memWf m = true) : memWf (m.filter p) = true := by
  induction m with
  | nil => rfl
  | cons c r ih =>
    obtain ⟨hs, hd⟩ := (memWf_iff _).mp h
    obtain ⟨hlt, hr⟩ := (AMap.sorted_cons c.1 c.2 r).mp hs
    have hw : memWf r = true := (memWf_iff r).mpr ⟨hr, fun x hx => hd x (List.mem_cons_of_mem _ hx)⟩
    rw [List.filter_cons]
    split
    · obtain ⟨ks, kd⟩ := (memWf_iff _).mp (ih hw)
      refine (memWf_iff _).mpr ⟨(AMap.sorted_cons c.1 c.2 _).mpr ⟨fun e he => hlt e (List.mem_filter.mp he).1, ks⟩, ?_⟩
      intro x hx
      rcases List.mem_cons.mp hx with rfl | hx
      · exact hd x (List.mem_cons_self ..)
      · exact kd x hx
    · exact ih hw

theorem memKept_clearRange (s : State) (b n : Nat) : MemKept s (s.clearRange b n) := memWf_filter s.mem _

theorem memKept_takeRange (s : State) (b n : Nat) : MemKept s (s.takeRange b n) := memKept_clearRange s b n

theorem memKept_allocPage (s : State) (die n : Nat) : MemKept s (s.allocPage die n).2 := by
  unfold State.allocPage
  dsimp only
  split
  · exact memKept_past (memKept_takeRange _ _ _) rfl
  · exact memKept_of_eq rfl

theorem memKept_movePage (s : State) (src dst n : Nat) : MemKept s (s.movePage src dst n) := by
  intro h
  unfold State.movePage
  dsimp only
  generalize List.filter _ s.mem = cells
  generalize s.mem = m at h
  induction cells generalizing m with
  | nil => exact h
  | cons c r ih => exact ih _ (memWf_memPut _ _ _ (memWf_memPut _ _ _ h))

/-! ## The write-through queue and the L1 -/

theorem memKept_wtPerform (s : State) (ck : Nat) (e : WtEntry) : MemKept s (s.wtPerform ck e) := by
  intro h
  unfold State.wtPerform
  split
  · rw [mem_noteRequest]
    exact h
  · dsimp only
    rw [mem_noteRequest]
    exact memWf_memWriteMask s.mem e.pa e.bytes h

theorem memKept_wtDrainOne (s : State) (ck : Nat) : MemKept s (s.wtDrainOne ck) := by
  unfold State.wtDrainOne
  split
  · exact memKept_refl s
  · split <;> exact memKept_past (memKept_wtPerform _ ck _) rfl

theorem memKept_wtDrainAll (s : State) (ck n : Nat) : MemKept s (s.wtDrainAll ck n) := by
  induction n generalizing s with
  | zero => exact memKept_refl s
  | succ n ih => exact memKept_trans (memKept_wtDrainOne s ck) (ih _)

theorem memKept_wtDrain (s : State) (ck : Nat) : MemKept s (s.wtDrain ck) := memKept_wtDrainAll s ck _

theorem memKept_wtPush (s : State) (ck : Nat) (e : WtEntry) : MemKept s (s.wtPush ck e) := by
  unfold State.wtPush
  dsimp only
  refine memKept_then ?_ (mem_modCor ..)
  split
  · exact memKept_wtDrainOne s ck
  · exact memKept_refl s

theorem memKept_l1Clean (s : State) (ck line : Nat) : MemKept s (s.l1Clean ck line) := by
  unfold State.l1Clean
  split
  · exact memKept_refl s
  · split
    · exact memKept_refl s
    · exact memKept_past (memKept_wtPush _ ck _) rfl

theorem memKept_l1Evict (s : State) (ck line : Nat) : MemKept s (s.l1Evict ck line) :=
  memKept_then (memKept_l1Clean s ck line) (mem_modCor ..)

theorem memKept_l1Room (s : State) (ck line : Nat) : MemKept s (s.l1Room ck line) := by
  unfold State.l1Room
  dsimp only
  split
  · exact memKept_refl s
  · split
    · exact memKept_refl s
    · exact memKept_past (memKept_l1Evict _ ck _) rfl

theorem memKept_l1Fresh (s : State) (ck : Nat) (p : Part) : MemKept s (s.l1Fresh ck p) := by
  have h := memKept_l1Room s ck (p.pa / 128)
  unfold State.l1Fresh
  generalize s.l1Room ck (p.pa / 128) = s1 at h ⊢
  dsimp only
  split
  · exact memKept_trans h (memKept_l1Evict _ ck _)
  · exact h

theorem memKept_l1Fill (s : State) (ck : Nat) (p : Part) : MemKept s (s.l1Fill ck p) := by
  unfold State.l1Fill
  dsimp only
  refine memKept_then (memKept_l1Fresh s ck p) ?_
  rw [mem_noteRequest, mem_filterEnter, mem_modCor]

theorem memKept_l1Release (s : State) (ck : Nat) : MemKept s (s.l1Release ck) :=
  memKept_trans (memKept_foldl _ _ (fun s l => memKept_l1Clean s ck l) s) (memKept_wtDrain _ ck)

theorem memKept_l1Flush (s : State) (ck pa n : Nat) : MemKept s (s.l1Flush ck pa n) := by
  have h : MemKept s (if (s.cor ck).l1Dirty pa n then s.l1Clean ck (pa / 128) else s) := by
    split
    · exact memKept_l1Clean s ck _
    · exact memKept_refl s
  unfold State.l1Flush
  dsimp only
  generalize (if (s.cor ck).l1Dirty pa n then s.l1Clean ck (pa / 128) else s) = u at h ⊢
  split
  · exact memKept_trans h (memKept_wtDrain u ck)
  · exact h

theorem memKept_loadPart {s t : State} {ck v : Nat} {p : Part} (h : s.loadPart ck p = .ok (v, t)) : MemKept s t := by
  unfold State.loadPart at h
  split at h
  · exact absurd h (by simp)
  · dsimp only at h
    injection h with h
    injection h with _ h
    subst h
    split
    · exact memKept_refl s
    · exact memKept_l1Fill s ck p

theorem memKept_loadParts {s t : State} {ck v : Nat} {ps : List Part} (h : s.loadParts ck ps = .ok (v, t)) :
    MemKept s t := by
  induction ps generalizing s v with
  | nil =>
    injection h with h
    injection h with _ h
    exact memKept_of_eq (h ▸ rfl)
  | cons p r ih =>
    simp only [State.loadParts, Bind.bind, Except.bind] at h
    split at h
    · exact absurd h (by simp)
    · next x hx =>
      split at h
      · exact absurd h (by simp)
      · next y hy =>
        injection h with h
        injection h with _ h
        subst h
        exact memKept_trans (memKept_loadPart (s := s) (v := x.1) (t := x.2) hx) (ih (v := y.1) (s := x.2) hy)

theorem memKept_storeWhole (s : State) (ck : Nat) (p : Part) (v : Nat) : MemKept s (s.storeWhole ck p v) :=
  memKept_then (memKept_l1Room s ck (p.pa / 128)) (mem_modCor ..)

theorem memKept_storePartial (s : State) (ck : Nat) (p : Part) (v : Nat) : MemKept s (s.storePartial ck p v) :=
  memKept_past (memKept_wtPush _ ck _) (mem_modCor ..)

theorem memKept_storeParts {s t : State} {ck v : Nat} {whole : Bool} {x : Option Nat} {ps : List Part}
    (h : s.storeParts ck whole v ps = .ok (x, t)) : MemKept s t := by
  induction ps generalizing s v with
  | nil =>
    injection h with h
    injection h with _ h
    exact memKept_of_eq (h ▸ rfl)
  | cons p r ih =>
    unfold State.storeParts at h
    split at h
    · injection h with h
      injection h with _ h
      exact memKept_of_eq (h ▸ rfl)
    · dsimp only at h
      refine memKept_trans ?_ (ih h)
      split
      · exact memKept_storeWhole s ck p _
      · exact memKept_storePartial s ck p _

/-- R328: memory right after reset is in canonical form. -/
theorem memWf_reset : memWf State.reset.mem = true := rfl

/-! ## Lines written through (R128, R329) -/

/-- A line written through leaves nothing of it in the queue. -/
theorem cleaned_wtq (c : Core) (line : Nat) (l : L1Line) : ∀ e ∈ (c.cleaned line l).wtq, e.onLine line = false := by
  intro e he
  simpa using (List.mem_filter.mp he).2

/-- A line written through holds what it held, and none of its words is dirty. -/
theorem cleaned_line (c : Core) (line : Nat) (l : L1Line) :
    (c.cleaned line l).l1.find line = some { l with dirty := 0 } := by
  simp [Core.cleaned]

end Sys2Proof.Machine
end

