-- ==== Sys2Proof/Laws/PerInstr.lean ====
section
/-! SUPPORT. Decode and encode agree, one lemma for each instruction; an event has no word (R10 to R26, Table 1-8). -/

namespace Sys2Proof

theorem Size.code_le (x : Size) : x.code ≤ 3 := by cases x <;> decide
theorem Size.ofCode_code (x : Size) : Size.ofCode x.code = some x := by cases x <;> rfl
theorem SSize.code_le (x : SSize) : x.code ≤ 4 := by cases x <;> decide
theorem SSize.ofCode_code (x : SSize) : SSize.ofCode x.code = some x := by cases x <;> rfl
theorem Scope.code_le (x : Scope) : x.code ≤ 4 := by cases x <;> decide
theorem Scope.ofCode_code (x : Scope) : Scope.ofCode x.code = some x := by cases x <;> rfl
theorem AmoPlace.code_le (x : AmoPlace) : x.code ≤ 3 := by cases x <;> decide
theorem AmoPlace.ofCode_code (x : AmoPlace) : AmoPlace.ofCode x.code = some x := by cases x <;> rfl
theorem VType.code_le (x : VType) : x.code ≤ 5 := by cases x <;> decide
theorem VType.ofCode_code (x : VType) : VType.ofCode x.code = some x := by cases x <;> rfl
theorem AcqMode.code_le (x : AcqMode) : x.code ≤ 3 := by cases x <;> decide
theorem AcqMode.ofCode_code (x : AcqMode) : AcqMode.ofCode x.code = some x := by cases x <;> rfl
theorem FTy.code_le (x : FTy) : x.code ≤ 2 := by cases x <;> decide
theorem FTy.ofCode_code (x : FTy) : FTy.ofCode x.code = some x := by cases x <;> rfl
theorem ITy.code_le (x : ITy) : x.code ≤ 1 := by cases x <;> decide
theorem ITy.ofCode_code (x : ITy) : ITy.ofCode x.code = some x := by cases x <;> rfl
theorem ElemTy.code_le (x : ElemTy) : x.code ≤ 1 := by cases x <;> decide
theorem ElemTy.ofCode_code (x : ElemTy) : ElemTy.ofCode x.code = some x := by cases x <;> rfl
theorem DTable.code_le (x : DTable) : x.code ≤ 2 := by cases x <;> decide
theorem DTable.ofCode_code (x : DTable) : DTable.ofCode x.code = some x := by cases x <;> rfl
theorem BlkW.code_le (x : BlkW) : x.code ≤ 1 := by cases x <;> decide
theorem CRnd.code_le (x : CRnd) : x.code ≤ 3 := by cases x <;> decide
theorem GSize.code_le (x : GSize) : x.code ≤ 3 := by cases x <;> decide

theorem KReg.code_le (x : KReg) : x.code ≤ 60 := by
  cases x <;> simp only [KReg.code] <;> omega

theorem KReg.ofCode_code (x : KReg) : KReg.ofCode x.code = some x := by
  cases x with
  | kgrp i => revert i; decide
  | kfbuf i => revert i; decide
  | _ => rfl

theorem TState.code_le (x : TState) : x.code ≤ 159 := by
  cases x with
  | k r => have := KReg.code_le r; simp only [TState.code]; omega
  | _ => simp only [TState.code]; omega

theorem TState.ofCode_code (x : TState) : TState.ofCode x.code = some x := by
  cases x with
  | k r =>
    have h := KReg.code_le r
    simp only [TState.ofCode, TState.code, if_pos (show r.code < 64 by omega), KReg.ofCode_code, Option.map_some]
  | g r => revert r; decide
  | m r => revert r; decide
  | pc => rfl
  | v r => revert r; decide

/-- A field that holds a bit vector's number reads as that vector. -/
theorem ofNat_eq {n k : Nat} {x : BitVec n} (h : k = x.toNat) : BitVec.ofNat n k = x := by
  rw [h, BitVec.ofNat_toNat, BitVec.setWidth_eq]

/-- The fields of a word whose lowest 21 bits are an opcode and three register fields. -/
theorem low_fields {z op d a b h : Nat} (e : z = op + 64 * d + 2048 * a + 65536 * b + 2097152 * h) (ho : op < 64)
    (hd : d < 32) (ha : a < 32) (hb : b < 32) :
    fld z 0 6 = op ∧ fld z 6 5 = d ∧ fld z 11 5 = a ∧ fld z 16 5 = b ∧ ∀ l n, fld z (21 + l) n = fld h l n := by
  refine ⟨by rw [e, fld]; omega, by rw [e, fld]; omega, by rw [e, fld]; omega, by rw [e, fld]; omega, fun l n => ?_⟩
  rw [fld, fld, Nat.pow_add, ← Nat.div_div_eq_div_mul, show z / 2 ^ 21 = h by rw [e]; omega]

/-- A well-formed form whose reserved fields are zero is decoded. -/
theorem done_ok {w : Nat} {rs : List (Nat × Nat)} {i : Instr} (hw : i.wf = true) (hr : rsvCheck w rs = none) :
    done w rs i = .ok i := by
  simp only [done, hw, hr, if_true]

namespace Laws.RoundTrip

/-- The word of a well-formed instruction decodes to it, and is 32 bits wide. -/
def Statement (i : Instr) : Prop := ∀ w, i.wf = true → encode i = some w → decode w = .ok i ∧ w < 2 ^ 32


theorem noCount_zero {w : Nat} {x : Except DecodeErr Instr} (h : fld w 16 8 = 0) : noCount w x = x := if_pos h
/-- The decoder by major opcode. -/
theorem decode_eq {z m : Nat} : fld z 0 6 = m → decode z =
    (match m with
    | 1 => decOpi z
    | 2 => decAddi z
    | 3 => decAndi z
    | 4 => decOri z
    | 5 => decXori z
    | 6 => decSlti z
    | 7 => decSltiu z
    | 8 => decLui z
    | 9 => decAddpc z
    | 10 => decShi z
    | 11 => decMuldiv z
    | 12 => decBr z
    | 13 => decJal z
    | 14 => decJalr z
    | 15 => decRep z
    | 16 => decLd z
    | 17 => decSt z
    | 18 => decLds z
    | 19 => decSts z
    | 24 => decVlds z
    | 25 => decVsts z
    | 20 => decFe z
    | 21 => decAmo z
    | 22 => decOrd z
    | 23 => decKey z
    | 26 => decQst z
    | 27 => decBit z
    | 28 => decMsg z
    | 29 => decCpy z
    | 30 => decTil z
    | 31 => decXpf z
    | 32 => decVfp z
    | 33 => decVint z
    | 34 => decVcvt z
    | 35 => decVperm z
    | 36 => decVbmm z
    | 37 => decVmsk z
    | 38 => decVmov z
    | 40 => decGang z
    | 41 => decSprs z
    | 42 => decLathe z
    | 43 => decGrp z
    | 44 => decSys z
    | _ => illegal) := by
  rintro rfl; rfl


theorem opiAdd (d : Reg) (a : Reg) (b : Reg) : Statement (.opiAdd d a b) := by
  intro z hw h
  have hz : z = 1 + 64 * d.val + 2048 * a.val + 65536 * b.val + 2097152 * (0) :=
    (Option.some.inj h).symm.trans (by omega)
  obtain ⟨f0_6, f6_5, f11_5, f16_5, hh⟩ := low_fields hz (by decide) (d.isLt) (a.isLt) (b.isLt)
  have f21_7 : fld z 21 7 = 0 := (hh 0 7).trans rfl
  have f28_4 : fld z 28 4 = 0 := (hh 7 4).trans rfl
  have rd : regAt z 6 = d := Fin.ext f6_5
  have ra : regAt z 11 = a := Fin.ext f11_5
  have rb : regAt z 16 = b := Fin.ext f16_5
  refine ⟨?_, by omega⟩
  refine (decode_eq f0_6).trans ?_
  show decOpi z = _
  rw [decOpi, f21_7, rd, ra, rb]
  exact done_ok (w := z) (rs := [(28, 4)]) hw (by simp only [rsvCheck, f28_4, if_true])

theorem opiSub (d : Reg) (a : Reg) (b : Reg) : Statement (.opiSub d a b) := by
  intro z hw h
  have hz : z = 1 + 64 * d.val + 2048 * a.val + 65536 * b.val + 2097152 * (1) :=
    (Option.some.inj h).symm.trans (by omega)
  obtain ⟨f0_6, f6_5, f11_5, f16_5, hh⟩ := low_fields hz (by decide) (d.isLt) (a.isLt) (b.isLt)
  have f21_7 : fld z 21 7 = 1 := (hh 0 7).trans rfl
  have f28_4 : fld z 28 4 = 0 := (hh 7 4).trans rfl
  have rd : regAt z 6 = d := Fin.ext f6_5
  have ra : regAt z 11 = a := Fin.ext f11_5
  have rb : regAt z 16 = b := Fin.ext f16_5
  refine ⟨?_, by omega⟩
  refine (decode_eq f0_6).trans ?_
  show decOpi z = _
  rw [decOpi, f21_7, rd, ra, rb]
  exact done_ok (w := z) (rs := [(28, 4)]) hw (by simp only [rsvCheck, f28_4, if_true])

theorem opiAnd (d : Reg) (a : Reg) (b : Reg) : Statement (.opiAnd d a b) := by
  intro z hw h
  have hz : z = 1 + 64 * d.val + 2048 * a.val + 65536 * b.val + 2097152 * (2) :=
    (Option.some.inj h).symm.trans (by omega)
  obtain ⟨f0_6, f6_5, f11_5, f16_5, hh⟩ := low_fields hz (by decide) (d.isLt) (a.isLt) (b.isLt)
  have f21_7 : fld z 21 7 = 2 := (hh 0 7).trans rfl
  have f28_4 : fld z 28 4 = 0 := (hh 7 4).trans rfl
  have rd : regAt z 6 = d := Fin.ext f6_5
  have ra : regAt z 11 = a := Fin.ext f11_5
  have rb : regAt z 16 = b := Fin.ext f16_5
  refine ⟨?_, by omega⟩
  refine (decode_eq f0_6).trans ?_
  show decOpi z = _
  rw [decOpi, f21_7, rd, ra, rb]
  exact done_ok (w := z) (rs := [(28, 4)]) hw (by simp only [rsvCheck, f28_4, if_true])

theorem opiOr (d : Reg) (a : Reg) (b : Reg) : Statement (.opiOr d a b) := by
  intro z hw h
  have hz : z = 1 + 64 * d.val + 2048 * a.val + 65536 * b.val + 2097152 * (3) :=
    (Option.some.inj h).symm.trans (by omega)
  obtain ⟨f0_6, f6_5, f11_5, f16_5, hh⟩ := low_fields hz (by decide) (d.isLt) (a.isLt) (b.isLt)
  have f21_7 : fld z 21 7 = 3 := (hh 0 7).trans rfl
  have f28_4 : fld z 28 4 = 0 := (hh 7 4).trans rfl
  have rd : regAt z 6 = d := Fin.ext f6_5
  have ra : regAt z 11 = a := Fin.ext f11_5
  have rb : regAt z 16 = b := Fin.ext f16_5
  refine ⟨?_, by omega⟩
  refine (decode_eq f0_6).trans ?_
  show decOpi z = _
  rw [decOpi, f21_7, rd, ra, rb]
  exact done_ok (w := z) (rs := [(28, 4)]) hw (by simp only [rsvCheck, f28_4, if_true])

theorem opiXor (d : Reg) (a : Reg) (b : Reg) : Statement (.opiXor d a b) := by
  intro z hw h
  have hz : z = 1 + 64 * d.val + 2048 * a.val + 65536 * b.val + 2097152 * (4) :=
    (Option.some.inj h).symm.trans (by omega)
  obtain ⟨f0_6, f6_5, f11_5, f16_5, hh⟩ := low_fields hz (by decide) (d.isLt) (a.isLt) (b.isLt)
  have f21_7 : fld z 21 7 = 4 := (hh 0 7).trans rfl
  have f28_4 : fld z 28 4 = 0 := (hh 7 4).trans rfl
  have rd : regAt z 6 = d := Fin.ext f6_5
  have ra : regAt z 11 = a := Fin.ext f11_5
  have rb : regAt z 16 = b := Fin.ext f16_5
  refine ⟨?_, by omega⟩
  refine (decode_eq f0_6).trans ?_
  show decOpi z = _
  rw [decOpi, f21_7, rd, ra, rb]
  exact done_ok (w := z) (rs := [(28, 4)]) hw (by simp only [rsvCheck, f28_4, if_true])

theorem opiAndn (d : Reg) (a : Reg) (b : Reg) : Statement (.opiAndn d a b) := by
  intro z hw h
  have hz : z = 1 + 64 * d.val + 2048 * a.val + 65536 * b.val + 2097152 * (5) :=
    (Option.some.inj h).symm.trans (by omega)
  obtain ⟨f0_6, f6_5, f11_5, f16_5, hh⟩ := low_fields hz (by decide) (d.isLt) (a.isLt) (b.isLt)
  have f21_7 : fld z 21 7 = 5 := (hh 0 7).trans rfl
  have f28_4 : fld z 28 4 = 0 := (hh 7 4).trans rfl
  have rd : regAt z 6 = d := Fin.ext f6_5
  have ra : regAt z 11 = a := Fin.ext f11_5
  have rb : regAt z 16 = b := Fin.ext f16_5
  refine ⟨?_, by omega⟩
  refine (decode_eq f0_6).trans ?_
  show decOpi z = _
  rw [decOpi, f21_7, rd, ra, rb]
  exact done_ok (w := z) (rs := [(28, 4)]) hw (by simp only [rsvCheck, f28_4, if_true])

theorem opiOrn (d : Reg) (a : Reg) (b : Reg) : Statement (.opiOrn d a b) := by
  intro z hw h
  have hz : z = 1 + 64 * d.val + 2048 * a.val + 65536 * b.val + 2097152 * (6) :=
    (Option.some.inj h).symm.trans (by omega)
  obtain ⟨f0_6, f6_5, f11_5, f16_5, hh⟩ := low_fields hz (by decide) (d.isLt) (a.isLt) (b.isLt)
  have f21_7 : fld z 21 7 = 6 := (hh 0 7).trans rfl
  have f28_4 : fld z 28 4 = 0 := (hh 7 4).trans rfl
  have rd : regAt z 6 = d := Fin.ext f6_5
  have ra : regAt z 11 = a := Fin.ext f11_5
  have rb : regAt z 16 = b := Fin.ext f16_5
  refine ⟨?_, by omega⟩
  refine (decode_eq f0_6).trans ?_
  show decOpi z = _
  rw [decOpi, f21_7, rd, ra, rb]
  exact done_ok (w := z) (rs := [(28, 4)]) hw (by simp only [rsvCheck, f28_4, if_true])

theorem opiSll (d : Reg) (a : Reg) (b : Reg) : Statement (.opiSll d a b) := by
  intro z hw h
  have hz : z = 1 + 64 * d.val + 2048 * a.val + 65536 * b.val + 2097152 * (8) :=
    (Option.some.inj h).symm.trans (by omega)
  obtain ⟨f0_6, f6_5, f11_5, f16_5, hh⟩ := low_fields hz (by decide) (d.isLt) (a.isLt) (b.isLt)
  have f21_7 : fld z 21 7 = 8 := (hh 0 7).trans rfl
  have f28_4 : fld z 28 4 = 0 := (hh 7 4).trans rfl
  have rd : regAt z 6 = d := Fin.ext f6_5
  have ra : regAt z 11 = a := Fin.ext f11_5
  have rb : regAt z 16 = b := Fin.ext f16_5
  refine ⟨?_, by omega⟩
  refine (decode_eq f0_6).trans ?_
  show decOpi z = _
  rw [decOpi, f21_7, rd, ra, rb]
  exact done_ok (w := z) (rs := [(28, 4)]) hw (by simp only [rsvCheck, f28_4, if_true])

theorem opiSrl (d : Reg) (a : Reg) (b : Reg) : Statement (.opiSrl d a b) := by
  intro z hw h
  have hz : z = 1 + 64 * d.val + 2048 * a.val + 65536 * b.val + 2097152 * (9) :=
    (Option.some.inj h).symm.trans (by omega)
  obtain ⟨f0_6, f6_5, f11_5, f16_5, hh⟩ := low_fields hz (by decide) (d.isLt) (a.isLt) (b.isLt)
  have f21_7 : fld z 21 7 = 9 := (hh 0 7).trans rfl
  have f28_4 : fld z 28 4 = 0 := (hh 7 4).trans rfl
  have rd : regAt z 6 = d := Fin.ext f6_5
  have ra : regAt z 11 = a := Fin.ext f11_5
  have rb : regAt z 16 = b := Fin.ext f16_5
  refine ⟨?_, by omega⟩
  refine (decode_eq f0_6).trans ?_
  show decOpi z = _
  rw [decOpi, f21_7, rd, ra, rb]
  exact done_ok (w := z) (rs := [(28, 4)]) hw (by simp only [rsvCheck, f28_4, if_true])

theorem opiSra (d : Reg) (a : Reg) (b : Reg) : Statement (.opiSra d a b) := by
  intro z hw h
  have hz : z = 1 + 64 * d.val + 2048 * a.val + 65536 * b.val + 2097152 * (10) :=
    (Option.some.inj h).symm.trans (by omega)
  obtain ⟨f0_6, f6_5, f11_5, f16_5, hh⟩ := low_fields hz (by decide) (d.isLt) (a.isLt) (b.isLt)
  have f21_7 : fld z 21 7 = 10 := (hh 0 7).trans rfl
  have f28_4 : fld z 28 4 = 0 := (hh 7 4).trans rfl
  have rd : regAt z 6 = d := Fin.ext f6_5
  have ra : regAt z 11 = a := Fin.ext f11_5
  have rb : regAt z 16 = b := Fin.ext f16_5
  refine ⟨?_, by omega⟩
  refine (decode_eq f0_6).trans ?_
  show decOpi z = _
  rw [decOpi, f21_7, rd, ra, rb]
  exact done_ok (w := z) (rs := [(28, 4)]) hw (by simp only [rsvCheck, f28_4, if_true])

theorem opiSlt (d : Reg) (a : Reg) (b : Reg) : Statement (.opiSlt d a b) := by
  intro z hw h
  have hz : z = 1 + 64 * d.val + 2048 * a.val + 65536 * b.val + 2097152 * (12) :=
    (Option.some.inj h).symm.trans (by omega)
  obtain ⟨f0_6, f6_5, f11_5, f16_5, hh⟩ := low_fields hz (by decide) (d.isLt) (a.isLt) (b.isLt)
  have f21_7 : fld z 21 7 = 12 := (hh 0 7).trans rfl
  have f28_4 : fld z 28 4 = 0 := (hh 7 4).trans rfl
  have rd : regAt z 6 = d := Fin.ext f6_5
  have ra : regAt z 11 = a := Fin.ext f11_5
  have rb : regAt z 16 = b := Fin.ext f16_5
  refine ⟨?_, by omega⟩
  refine (decode_eq f0_6).trans ?_
  show decOpi z = _
  rw [decOpi, f21_7, rd, ra, rb]
  exact done_ok (w := z) (rs := [(28, 4)]) hw (by simp only [rsvCheck, f28_4, if_true])

theorem opiSltu (d : Reg) (a : Reg) (b : Reg) : Statement (.opiSltu d a b) := by
  intro z hw h
  have hz : z = 1 + 64 * d.val + 2048 * a.val + 65536 * b.val + 2097152 * (13) :=
    (Option.some.inj h).symm.trans (by omega)
  obtain ⟨f0_6, f6_5, f11_5, f16_5, hh⟩ := low_fields hz (by decide) (d.isLt) (a.isLt) (b.isLt)
  have f21_7 : fld z 21 7 = 13 := (hh 0 7).trans rfl
  have f28_4 : fld z 28 4 = 0 := (hh 7 4).trans rfl
  have rd : regAt z 6 = d := Fin.ext f6_5
  have ra : regAt z 11 = a := Fin.ext f11_5
  have rb : regAt z 16 = b := Fin.ext f16_5
  refine ⟨?_, by omega⟩
  refine (decode_eq f0_6).trans ?_
  show decOpi z = _
  rw [decOpi, f21_7, rd, ra, rb]
  exact done_ok (w := z) (rs := [(28, 4)]) hw (by simp only [rsvCheck, f28_4, if_true])

theorem opiMin (d : Reg) (a : Reg) (b : Reg) : Statement (.opiMin d a b) := by
  intro z hw h
  have hz : z = 1 + 64 * d.val + 2048 * a.val + 65536 * b.val + 2097152 * (16) :=
    (Option.some.inj h).symm.trans (by omega)
  obtain ⟨f0_6, f6_5, f11_5, f16_5, hh⟩ := low_fields hz (by decide) (d.isLt) (a.isLt) (b.isLt)
  have f21_7 : fld z 21 7 = 16 := (hh 0 7).trans rfl
  have f28_4 : fld z 28 4 = 0 := (hh 7 4).trans rfl
  have rd : regAt z 6 = d := Fin.ext f6_5
  have ra : regAt z 11 = a := Fin.ext f11_5
  have rb : regAt z 16 = b := Fin.ext f16_5
  refine ⟨?_, by omega⟩
  refine (decode_eq f0_6).trans ?_
  show decOpi z = _
  rw [decOpi, f21_7, rd, ra, rb]
  exact done_ok (w := z) (rs := [(28, 4)]) hw (by simp only [rsvCheck, f28_4, if_true])

theorem opiMax (d : Reg) (a : Reg) (b : Reg) : Statement (.opiMax d a b) := by
  intro z hw h
  have hz : z = 1 + 64 * d.val + 2048 * a.val + 65536 * b.val + 2097152 * (17) :=
    (Option.some.inj h).symm.trans (by omega)
  obtain ⟨f0_6, f6_5, f11_5, f16_5, hh⟩ := low_fields hz (by decide) (d.isLt) (a.isLt) (b.isLt)
  have f21_7 : fld z 21 7 = 17 := (hh 0 7).trans rfl
  have f28_4 : fld z 28 4 = 0 := (hh 7 4).trans rfl
  have rd : regAt z 6 = d := Fin.ext f6_5
  have ra : regAt z 11 = a := Fin.ext f11_5
  have rb : regAt z 16 = b := Fin.ext f16_5
  refine ⟨?_, by omega⟩
  refine (decode_eq f0_6).trans ?_
  show decOpi z = _
  rw [decOpi, f21_7, rd, ra, rb]
  exact done_ok (w := z) (rs := [(28, 4)]) hw (by simp only [rsvCheck, f28_4, if_true])

theorem opiMinu (d : Reg) (a : Reg) (b : Reg) : Statement (.opiMinu d a b) := by
  intro z hw h
  have hz : z = 1 + 64 * d.val + 2048 * a.val + 65536 * b.val + 2097152 * (18) :=
    (Option.some.inj h).symm.trans (by omega)
  obtain ⟨f0_6, f6_5, f11_5, f16_5, hh⟩ := low_fields hz (by decide) (d.isLt) (a.isLt) (b.isLt)
  have f21_7 : fld z 21 7 = 18 := (hh 0 7).trans rfl
  have f28_4 : fld z 28 4 = 0 := (hh 7 4).trans rfl
  have rd : regAt z 6 = d := Fin.ext f6_5
  have ra : regAt z 11 = a := Fin.ext f11_5
  have rb : regAt z 16 = b := Fin.ext f16_5
  refine ⟨?_, by omega⟩
  refine (decode_eq f0_6).trans ?_
  show decOpi z = _
  rw [decOpi, f21_7, rd, ra, rb]
  exact done_ok (w := z) (rs := [(28, 4)]) hw (by simp only [rsvCheck, f28_4, if_true])

theorem opiMaxu (d : Reg) (a : Reg) (b : Reg) : Statement (.opiMaxu d a b) := by
  intro z hw h
  have hz : z = 1 + 64 * d.val + 2048 * a.val + 65536 * b.val + 2097152 * (19) :=
    (Option.some.inj h).symm.trans (by omega)
  obtain ⟨f0_6, f6_5, f11_5, f16_5, hh⟩ := low_fields hz (by decide) (d.isLt) (a.isLt) (b.isLt)
  have f21_7 : fld z 21 7 = 19 := (hh 0 7).trans rfl
  have f28_4 : fld z 28 4 = 0 := (hh 7 4).trans rfl
  have rd : regAt z 6 = d := Fin.ext f6_5
  have ra : regAt z 11 = a := Fin.ext f11_5
  have rb : regAt z 16 = b := Fin.ext f16_5
  refine ⟨?_, by omega⟩
  refine (decode_eq f0_6).trans ?_
  show decOpi z = _
  rw [decOpi, f21_7, rd, ra, rb]
  exact done_ok (w := z) (rs := [(28, 4)]) hw (by simp only [rsvCheck, f28_4, if_true])

theorem opiSxb (d : Reg) (a : Reg) : Statement (.opiSxb d a) := by
  intro z hw h
  have hz : z = 1 + 64 * d.val + 2048 * a.val + 65536 * 0 + 2097152 * (24) :=
    (Option.some.inj h).symm.trans (by omega)
  obtain ⟨f0_6, f6_5, f11_5, f16_5, hh⟩ := low_fields hz (by decide) (d.isLt) (a.isLt) (by decide)
  have f21_7 : fld z 21 7 = 24 := (hh 0 7).trans rfl
  have f28_4 : fld z 28 4 = 0 := (hh 7 4).trans rfl
  have rd : regAt z 6 = d := Fin.ext f6_5
  have ra : regAt z 11 = a := Fin.ext f11_5
  refine ⟨?_, by omega⟩
  refine (decode_eq f0_6).trans ?_
  show decOpi z = _
  rw [decOpi, f21_7, rd, ra]
  exact done_ok (w := z) (rs := [(16, 5), (28, 4)]) hw (by simp only [rsvCheck, f16_5, f28_4, if_true])

theorem opiSxh (d : Reg) (a : Reg) : Statement (.opiSxh d a) := by
  intro z hw h
  have hz : z = 1 + 64 * d.val + 2048 * a.val + 65536 * 0 + 2097152 * (25) :=
    (Option.some.inj h).symm.trans (by omega)
  obtain ⟨f0_6, f6_5, f11_5, f16_5, hh⟩ := low_fields hz (by decide) (d.isLt) (a.isLt) (by decide)
  have f21_7 : fld z 21 7 = 25 := (hh 0 7).trans rfl
  have f28_4 : fld z 28 4 = 0 := (hh 7 4).trans rfl
  have rd : regAt z 6 = d := Fin.ext f6_5
  have ra : regAt z 11 = a := Fin.ext f11_5
  refine ⟨?_, by omega⟩
  refine (decode_eq f0_6).trans ?_
  show decOpi z = _
  rw [decOpi, f21_7, rd, ra]
  exact done_ok (w := z) (rs := [(16, 5), (28, 4)]) hw (by simp only [rsvCheck, f16_5, f28_4, if_true])

theorem opiSxw (d : Reg) (a : Reg) : Statement (.opiSxw d a) := by
  intro z hw h
  have hz : z = 1 + 64 * d.val + 2048 * a.val + 65536 * 0 + 2097152 * (26) :=
    (Option.some.inj h).symm.trans (by omega)
  obtain ⟨f0_6, f6_5, f11_5, f16_5, hh⟩ := low_fields hz (by decide) (d.isLt) (a.isLt) (by decide)
  have f21_7 : fld z 21 7 = 26 := (hh 0 7).trans rfl
  have f28_4 : fld z 28 4 = 0 := (hh 7 4).trans rfl
  have rd : regAt z 6 = d := Fin.ext f6_5
  have ra : regAt z 11 = a := Fin.ext f11_5
  refine ⟨?_, by omega⟩
  refine (decode_eq f0_6).trans ?_
  show decOpi z = _
  rw [decOpi, f21_7, rd, ra]
  exact done_ok (w := z) (rs := [(16, 5), (28, 4)]) hw (by simp only [rsvCheck, f16_5, f28_4, if_true])

theorem opiZxb (d : Reg) (a : Reg) : Statement (.opiZxb d a) := by
  intro z hw h
  have hz : z = 1 + 64 * d.val + 2048 * a.val + 65536 * 0 + 2097152 * (28) :=
    (Option.some.inj h).symm.trans (by omega)
  obtain ⟨f0_6, f6_5, f11_5, f16_5, hh⟩ := low_fields hz (by decide) (d.isLt) (a.isLt) (by decide)
  have f21_7 : fld z 21 7 = 28 := (hh 0 7).trans rfl
  have f28_4 : fld z 28 4 = 0 := (hh 7 4).trans rfl
  have rd : regAt z 6 = d := Fin.ext f6_5
  have ra : regAt z 11 = a := Fin.ext f11_5
  refine ⟨?_, by omega⟩
  refine (decode_eq f0_6).trans ?_
  show decOpi z = _
  rw [decOpi, f21_7, rd, ra]
  exact done_ok (w := z) (rs := [(16, 5), (28, 4)]) hw (by simp only [rsvCheck, f16_5, f28_4, if_true])

theorem opiZxh (d : Reg) (a : Reg) : Statement (.opiZxh d a) := by
  intro z hw h
  have hz : z = 1 + 64 * d.val + 2048 * a.val + 65536 * 0 + 2097152 * (29) :=
    (Option.some.inj h).symm.trans (by omega)
  obtain ⟨f0_6, f6_5, f11_5, f16_5, hh⟩ := low_fields hz (by decide) (d.isLt) (a.isLt) (by decide)
  have f21_7 : fld z 21 7 = 29 := (hh 0 7).trans rfl
  have f28_4 : fld z 28 4 = 0 := (hh 7 4).trans rfl
  have rd : regAt z 6 = d := Fin.ext f6_5
  have ra : regAt z 11 = a := Fin.ext f11_5
  refine ⟨?_, by omega⟩
  refine (decode_eq f0_6).trans ?_
  show decOpi z = _
  rw [decOpi, f21_7, rd, ra]
  exact done_ok (w := z) (rs := [(16, 5), (28, 4)]) hw (by simp only [rsvCheck, f16_5, f28_4, if_true])

theorem opiZxw (d : Reg) (a : Reg) : Statement (.opiZxw d a) := by
  intro z hw h
  have hz : z = 1 + 64 * d.val + 2048 * a.val + 65536 * 0 + 2097152 * (30) :=
    (Option.some.inj h).symm.trans (by omega)
  obtain ⟨f0_6, f6_5, f11_5, f16_5, hh⟩ := low_fields hz (by decide) (d.isLt) (a.isLt) (by decide)
  have f21_7 : fld z 21 7 = 30 := (hh 0 7).trans rfl
  have f28_4 : fld z 28 4 = 0 := (hh 7 4).trans rfl
  have rd : regAt z 6 = d := Fin.ext f6_5
  have ra : regAt z 11 = a := Fin.ext f11_5
  refine ⟨?_, by omega⟩
  refine (decode_eq f0_6).trans ?_
  show decOpi z = _
  rw [decOpi, f21_7, rd, ra]
  exact done_ok (w := z) (rs := [(16, 5), (28, 4)]) hw (by simp only [rsvCheck, f16_5, f28_4, if_true])

theorem addi (d : Reg) (a : Reg) (imm : BitVec 16) : Statement (.addi d a imm) := by
  intro z hw h
  have hz : z = 2 + 64 * d.val + 2048 * a.val + 65536 * imm.toNat := (Option.some.inj h).symm
  have bd := d.isLt
  have ba := a.isLt
  have bimm := imm.isLt
  have f0_6 : fld z 0 6 = 2 := by rw [hz, fld]; omega
  have rd : regAt z 6 = d := Fin.ext (by show fld z 6 5 = d.val; rw [hz, fld]; omega)
  have ra : regAt z 11 = a := Fin.ext (by show fld z 11 5 = a.val; rw [hz, fld]; omega)
  have rimm : BitVec.ofNat 16 (fld z 16 16) = imm := ofNat_eq (by rw [hz, fld]; omega)
  refine ⟨?_, by rw [hz]; omega⟩
  refine (decode_eq f0_6).trans ?_
  show decAddi z = _
  rw [decAddi, rd, ra, rimm]
  exact done_ok (w := z) (rs := []) hw rfl

theorem andi (d : Reg) (a : Reg) (imm : BitVec 16) : Statement (.andi d a imm) := by
  intro z hw h
  have hz : z = 3 + 64 * d.val + 2048 * a.val + 65536 * imm.toNat := (Option.some.inj h).symm
  have bd := d.isLt
  have ba := a.isLt
  have bimm := imm.isLt
  have f0_6 : fld z 0 6 = 3 := by rw [hz, fld]; omega
  have rd : regAt z 6 = d := Fin.ext (by show fld z 6 5 = d.val; rw [hz, fld]; omega)
  have ra : regAt z 11 = a := Fin.ext (by show fld z 11 5 = a.val; rw [hz, fld]; omega)
  have rimm : BitVec.ofNat 16 (fld z 16 16) = imm := ofNat_eq (by rw [hz, fld]; omega)
  refine ⟨?_, by rw [hz]; omega⟩
  refine (decode_eq f0_6).trans ?_
  show decAndi z = _
  rw [decAndi, rd, ra, rimm]
  exact done_ok (w := z) (rs := []) hw rfl

theorem ori (d : Reg) (a : Reg) (imm : BitVec 16) : Statement (.ori d a imm) := by
  intro z hw h
  have hz : z = 4 + 64 * d.val + 2048 * a.val + 65536 * imm.toNat := (Option.some.inj h).symm
  have bd := d.isLt
  have ba := a.isLt
  have bimm := imm.isLt
  have f0_6 : fld z 0 6 = 4 := by rw [hz, fld]; omega
  have rd : regAt z 6 = d := Fin.ext (by show fld z 6 5 = d.val; rw [hz, fld]; omega)
  have ra : regAt z 11 = a := Fin.ext (by show fld z 11 5 = a.val; rw [hz, fld]; omega)
  have rimm : BitVec.ofNat 16 (fld z 16 16) = imm := ofNat_eq (by rw [hz, fld]; omega)
  refine ⟨?_, by rw [hz]; omega⟩
  refine (decode_eq f0_6).trans ?_
  show decOri z = _
  rw [decOri, rd, ra, rimm]
  exact done_ok (w := z) (rs := []) hw rfl

theorem xori (d : Reg) (a : Reg) (imm : BitVec 16) : Statement (.xori d a imm) := by
  intro z hw h
  have hz : z = 5 + 64 * d.val + 2048 * a.val + 65536 * imm.toNat := (Option.some.inj h).symm
  have bd := d.isLt
  have ba := a.isLt
  have bimm := imm.isLt
  have f0_6 : fld z 0 6 = 5 := by rw [hz, fld]; omega
  have rd : regAt z 6 = d := Fin.ext (by show fld z 6 5 = d.val; rw [hz, fld]; omega)
  have ra : regAt z 11 = a := Fin.ext (by show fld z 11 5 = a.val; rw [hz, fld]; omega)
  have rimm : BitVec.ofNat 16 (fld z 16 16) = imm := ofNat_eq (by rw [hz, fld]; omega)
  refine ⟨?_, by rw [hz]; omega⟩
  refine (decode_eq f0_6).trans ?_
  show decXori z = _
  rw [decXori, rd, ra, rimm]
  exact done_ok (w := z) (rs := []) hw rfl

theorem slti (d : Reg) (a : Reg) (imm : BitVec 16) : Statement (.slti d a imm) := by
  intro z hw h
  have hz : z = 6 + 64 * d.val + 2048 * a.val + 65536 * imm.toNat := (Option.some.inj h).symm
  have bd := d.isLt
  have ba := a.isLt
  have bimm := imm.isLt
  have f0_6 : fld z 0 6 = 6 := by rw [hz, fld]; omega
  have rd : regAt z 6 = d := Fin.ext (by show fld z 6 5 = d.val; rw [hz, fld]; omega)
  have ra : regAt z 11 = a := Fin.ext (by show fld z 11 5 = a.val; rw [hz, fld]; omega)
  have rimm : BitVec.ofNat 16 (fld z 16 16) = imm := ofNat_eq (by rw [hz, fld]; omega)
  refine ⟨?_, by rw [hz]; omega⟩
  refine (decode_eq f0_6).trans ?_
  show decSlti z = _
  rw [decSlti, rd, ra, rimm]
  exact done_ok (w := z) (rs := []) hw rfl

theorem sltiu (d : Reg) (a : Reg) (imm : BitVec 16) : Statement (.sltiu d a imm) := by
  intro z hw h
  have hz : z = 7 + 64 * d.val + 2048 * a.val + 65536 * imm.toNat := (Option.some.inj h).symm
  have bd := d.isLt
  have ba := a.isLt
  have bimm := imm.isLt
  have f0_6 : fld z 0 6 = 7 := by rw [hz, fld]; omega
  have rd : regAt z 6 = d := Fin.ext (by show fld z 6 5 = d.val; rw [hz, fld]; omega)
  have ra : regAt z 11 = a := Fin.ext (by show fld z 11 5 = a.val; rw [hz, fld]; omega)
  have rimm : BitVec.ofNat 16 (fld z 16 16) = imm := ofNat_eq (by rw [hz, fld]; omega)
  refine ⟨?_, by rw [hz]; omega⟩
  refine (decode_eq f0_6).trans ?_
  show decSltiu z = _
  rw [decSltiu, rd, ra, rimm]
  exact done_ok (w := z) (rs := []) hw rfl

theorem lui (d : Reg) (imm : BitVec 21) : Statement (.lui d imm) := by
  intro z hw h
  have hz : z = 8 + 64 * d.val + 2048 * imm.toNat := (Option.some.inj h).symm
  have bd := d.isLt
  have bimm := imm.isLt
  have f0_6 : fld z 0 6 = 8 := by rw [hz, fld]; omega
  have rd : regAt z 6 = d := Fin.ext (by show fld z 6 5 = d.val; rw [hz, fld]; omega)
  have rimm : BitVec.ofNat 21 (fld z 11 21) = imm := ofNat_eq (by rw [hz, fld]; omega)
  refine ⟨?_, by rw [hz]; omega⟩
  refine (decode_eq f0_6).trans ?_
  show decLui z = _
  rw [decLui, rd, rimm]
  exact done_ok (w := z) (rs := []) hw rfl

theorem addpc (d : Reg) (imm : BitVec 21) : Statement (.addpc d imm) := by
  intro z hw h
  have hz : z = 9 + 64 * d.val + 2048 * imm.toNat := (Option.some.inj h).symm
  have bd := d.isLt
  have bimm := imm.isLt
  have f0_6 : fld z 0 6 = 9 := by rw [hz, fld]; omega
  have rd : regAt z 6 = d := Fin.ext (by show fld z 6 5 = d.val; rw [hz, fld]; omega)
  have rimm : BitVec.ofNat 21 (fld z 11 21) = imm := ofNat_eq (by rw [hz, fld]; omega)
  refine ⟨?_, by rw [hz]; omega⟩
  refine (decode_eq f0_6).trans ?_
  show decAddpc z = _
  rw [decAddpc, rd, rimm]
  exact done_ok (w := z) (rs := []) hw rfl

theorem shiSlli (d : Reg) (a : Reg) (sh : BitVec 6) : Statement (.shiSlli d a sh) := by
  intro z hw h
  obtain ⟨q, hq⟩ : ∃ q, q = sh.toNat / 32 := ⟨_, rfl⟩
  obtain ⟨p, hp⟩ : ∃ p, p = sh.toNat % 32 := ⟨_, rfl⟩
  have bsh := sh.isLt
  have bp : p < 32 := by omega
  have hz : z = 10 + 64 * d.val + 2048 * a.val + 65536 * p + 2097152 * (128 * q) :=
    (Option.some.inj h).symm.trans (by omega)
  obtain ⟨f0_6, f6_5, f11_5, f16_5, hh⟩ := low_fields hz (by decide) (d.isLt) (a.isLt) (bp)
  have f21_7 : fld z 21 7 = 0 := (hh 0 7).trans (by rw [fld]; omega)
  have f29_3 : fld z 29 3 = 0 := (hh 8 3).trans (by rw [fld]; omega)
  have rd : regAt z 6 = d := Fin.ext f6_5
  have ra : regAt z 11 = a := Fin.ext f11_5
  have rsh : BitVec.ofNat 6 (32 * fld z 28 1 + fld z 16 5) = sh :=
    ofNat_eq (by rw [f16_5, (hh 7 1).trans (show _ = q by rw [fld]; omega)]; omega)
  refine ⟨?_, by omega⟩
  refine (decode_eq f0_6).trans ?_
  show decShi z = _
  rw [decShi, f21_7, rd, ra, rsh]
  exact done_ok (w := z) (rs := [(29, 3)]) hw (by simp only [rsvCheck, f29_3, if_true])

theorem shiSrli (d : Reg) (a : Reg) (sh : BitVec 6) : Statement (.shiSrli d a sh) := by
  intro z hw h
  obtain ⟨q, hq⟩ : ∃ q, q = sh.toNat / 32 := ⟨_, rfl⟩
  obtain ⟨p, hp⟩ : ∃ p, p = sh.toNat % 32 := ⟨_, rfl⟩
  have bsh := sh.isLt
  have bp : p < 32 := by omega
  have hz : z = 10 + 64 * d.val + 2048 * a.val + 65536 * p + 2097152 * (1 + 128 * q) :=
    (Option.some.inj h).symm.trans (by omega)
  obtain ⟨f0_6, f6_5, f11_5, f16_5, hh⟩ := low_fields hz (by decide) (d.isLt) (a.isLt) (bp)
  have f21_7 : fld z 21 7 = 1 := (hh 0 7).trans (by rw [fld]; omega)
  have f29_3 : fld z 29 3 = 0 := (hh 8 3).trans (by rw [fld]; omega)
  have rd : regAt z 6 = d := Fin.ext f6_5
  have ra : regAt z 11 = a := Fin.ext f11_5
  have rsh : BitVec.ofNat 6 (32 * fld z 28 1 + fld z 16 5) = sh :=
    ofNat_eq (by rw [f16_5, (hh 7 1).trans (show _ = q by rw [fld]; omega)]; omega)
  refine ⟨?_, by omega⟩
  refine (decode_eq f0_6).trans ?_
  show decShi z = _
  rw [decShi, f21_7, rd, ra, rsh]
  exact done_ok (w := z) (rs := [(29, 3)]) hw (by simp only [rsvCheck, f29_3, if_true])

theorem shiSrai (d : Reg) (a : Reg) (sh : BitVec 6) : Statement (.shiSrai d a sh) := by
  intro z hw h
  obtain ⟨q, hq⟩ : ∃ q, q = sh.toNat / 32 := ⟨_, rfl⟩
  obtain ⟨p, hp⟩ : ∃ p, p = sh.toNat % 32 := ⟨_, rfl⟩
  have bsh := sh.isLt
  have bp : p < 32 := by omega
  have hz : z = 10 + 64 * d.val + 2048 * a.val + 65536 * p + 2097152 * (2 + 128 * q) :=
    (Option.some.inj h).symm.trans (by omega)
  obtain ⟨f0_6, f6_5, f11_5, f16_5, hh⟩ := low_fields hz (by decide) (d.isLt) (a.isLt) (bp)
  have f21_7 : fld z 21 7 = 2 := (hh 0 7).trans (by rw [fld]; omega)
  have f29_3 : fld z 29 3 = 0 := (hh 8 3).trans (by rw [fld]; omega)
  have rd : regAt z 6 = d := Fin.ext f6_5
  have ra : regAt z 11 = a := Fin.ext f11_5
  have rsh : BitVec.ofNat 6 (32 * fld z 28 1 + fld z 16 5) = sh :=
    ofNat_eq (by rw [f16_5, (hh 7 1).trans (show _ = q by rw [fld]; omega)]; omega)
  refine ⟨?_, by omega⟩
  refine (decode_eq f0_6).trans ?_
  show decShi z = _
  rw [decShi, f21_7, rd, ra, rsh]
  exact done_ok (w := z) (rs := [(29, 3)]) hw (by simp only [rsvCheck, f29_3, if_true])

theorem shiRori (d : Reg) (a : Reg) (sh : BitVec 6) : Statement (.shiRori d a sh) := by
  intro z hw h
  obtain ⟨q, hq⟩ : ∃ q, q = sh.toNat / 32 := ⟨_, rfl⟩
  obtain ⟨p, hp⟩ : ∃ p, p = sh.toNat % 32 := ⟨_, rfl⟩
  have bsh := sh.isLt
  have bp : p < 32 := by omega
  have hz : z = 10 + 64 * d.val + 2048 * a.val + 65536 * p + 2097152 * (3 + 128 * q) :=
    (Option.some.inj h).symm.trans (by omega)
  obtain ⟨f0_6, f6_5, f11_5, f16_5, hh⟩ := low_fields hz (by decide) (d.isLt) (a.isLt) (bp)
  have f21_7 : fld z 21 7 = 3 := (hh 0 7).trans (by rw [fld]; omega)
  have f29_3 : fld z 29 3 = 0 := (hh 8 3).trans (by rw [fld]; omega)
  have rd : regAt z 6 = d := Fin.ext f6_5
  have ra : regAt z 11 = a := Fin.ext f11_5
  have rsh : BitVec.ofNat 6 (32 * fld z 28 1 + fld z 16 5) = sh :=
    ofNat_eq (by rw [f16_5, (hh 7 1).trans (show _ = q by rw [fld]; omega)]; omega)
  refine ⟨?_, by omega⟩
  refine (decode_eq f0_6).trans ?_
  show decShi z = _
  rw [decShi, f21_7, rd, ra, rsh]
  exact done_ok (w := z) (rs := [(29, 3)]) hw (by simp only [rsvCheck, f29_3, if_true])

theorem shiClz (d : Reg) (a : Reg) : Statement (.shiClz d a) := by
  intro z hw h
  have hz : z = 10 + 64 * d.val + 2048 * a.val + 65536 * 0 + 2097152 * (16) :=
    (Option.some.inj h).symm.trans (by omega)
  obtain ⟨f0_6, f6_5, f11_5, f16_5, hh⟩ := low_fields hz (by decide) (d.isLt) (a.isLt) (by decide)
  have f21_7 : fld z 21 7 = 16 := (hh 0 7).trans rfl
  have f28_4 : fld z 28 4 = 0 := (hh 7 4).trans rfl
  have rd : regAt z 6 = d := Fin.ext f6_5
  have ra : regAt z 11 = a := Fin.ext f11_5
  refine ⟨?_, by omega⟩
  refine (decode_eq f0_6).trans ?_
  show decShi z = _
  rw [decShi, f21_7, rd, ra]
  exact done_ok (w := z) (rs := [(16, 5), (28, 4)]) hw (by simp only [rsvCheck, f16_5, f28_4, if_true])

theorem shiCtz (d : Reg) (a : Reg) : Statement (.shiCtz d a) := by
  intro z hw h
  have hz : z = 10 + 64 * d.val + 2048 * a.val + 65536 * 0 + 2097152 * (17) :=
    (Option.some.inj h).symm.trans (by omega)
  obtain ⟨f0_6, f6_5, f11_5, f16_5, hh⟩ := low_fields hz (by decide) (d.isLt) (a.isLt) (by decide)
  have f21_7 : fld z 21 7 = 17 := (hh 0 7).trans rfl
  have f28_4 : fld z 28 4 = 0 := (hh 7 4).trans rfl
  have rd : regAt z 6 = d := Fin.ext f6_5
  have ra : regAt z 11 = a := Fin.ext f11_5
  refine ⟨?_, by omega⟩
  refine (decode_eq f0_6).trans ?_
  show decShi z = _
  rw [decShi, f21_7, rd, ra]
  exact done_ok (w := z) (rs := [(16, 5), (28, 4)]) hw (by simp only [rsvCheck, f16_5, f28_4, if_true])

theorem shiPopc (d : Reg) (a : Reg) : Statement (.shiPopc d a) := by
  intro z hw h
  have hz : z = 10 + 64 * d.val + 2048 * a.val + 65536 * 0 + 2097152 * (18) :=
    (Option.some.inj h).symm.trans (by omega)
  obtain ⟨f0_6, f6_5, f11_5, f16_5, hh⟩ := low_fields hz (by decide) (d.isLt) (a.isLt) (by decide)
  have f21_7 : fld z 21 7 = 18 := (hh 0 7).trans rfl
  have f28_4 : fld z 28 4 = 0 := (hh 7 4).trans rfl
  have rd : regAt z 6 = d := Fin.ext f6_5
  have ra : regAt z 11 = a := Fin.ext f11_5
  refine ⟨?_, by omega⟩
  refine (decode_eq f0_6).trans ?_
  show decShi z = _
  rw [decShi, f21_7, rd, ra]
  exact done_ok (w := z) (rs := [(16, 5), (28, 4)]) hw (by simp only [rsvCheck, f16_5, f28_4, if_true])

theorem shiBrev (d : Reg) (a : Reg) : Statement (.shiBrev d a) := by
  intro z hw h
  have hz : z = 10 + 64 * d.val + 2048 * a.val + 65536 * 0 + 2097152 * (19) :=
    (Option.some.inj h).symm.trans (by omega)
  obtain ⟨f0_6, f6_5, f11_5, f16_5, hh⟩ := low_fields hz (by decide) (d.isLt) (a.isLt) (by decide)
  have f21_7 : fld z 21 7 = 19 := (hh 0 7).trans rfl
  have f28_4 : fld z 28 4 = 0 := (hh 7 4).trans rfl
  have rd : regAt z 6 = d := Fin.ext f6_5
  have ra : regAt z 11 = a := Fin.ext f11_5
  refine ⟨?_, by omega⟩
  refine (decode_eq f0_6).trans ?_
  show decShi z = _
  rw [decShi, f21_7, rd, ra]
  exact done_ok (w := z) (rs := [(16, 5), (28, 4)]) hw (by simp only [rsvCheck, f16_5, f28_4, if_true])

theorem shiBswap (d : Reg) (a : Reg) : Statement (.shiBswap d a) := by
  intro z hw h
  have hz : z = 10 + 64 * d.val + 2048 * a.val + 65536 * 0 + 2097152 * (20) :=
    (Option.some.inj h).symm.trans (by omega)
  obtain ⟨f0_6, f6_5, f11_5, f16_5, hh⟩ := low_fields hz (by decide) (d.isLt) (a.isLt) (by decide)
  have f21_7 : fld z 21 7 = 20 := (hh 0 7).trans rfl
  have f28_4 : fld z 28 4 = 0 := (hh 7 4).trans rfl
  have rd : regAt z 6 = d := Fin.ext f6_5
  have ra : regAt z 11 = a := Fin.ext f11_5
  refine ⟨?_, by omega⟩
  refine (decode_eq f0_6).trans ?_
  show decShi z = _
  rw [decShi, f21_7, rd, ra]
  exact done_ok (w := z) (rs := [(16, 5), (28, 4)]) hw (by simp only [rsvCheck, f16_5, f28_4, if_true])

theorem muldivMul (d : Reg) (a : Reg) (b : Reg) : Statement (.muldivMul d a b) := by
  intro z hw h
  have hz : z = 11 + 64 * d.val + 2048 * a.val + 65536 * b.val + 2097152 * (0) :=
    (Option.some.inj h).symm.trans (by omega)
  obtain ⟨f0_6, f6_5, f11_5, f16_5, hh⟩ := low_fields hz (by decide) (d.isLt) (a.isLt) (b.isLt)
  have f21_7 : fld z 21 7 = 0 := (hh 0 7).trans rfl
  have f28_4 : fld z 28 4 = 0 := (hh 7 4).trans rfl
  have rd : regAt z 6 = d := Fin.ext f6_5
  have ra : regAt z 11 = a := Fin.ext f11_5
  have rb : regAt z 16 = b := Fin.ext f16_5
  refine ⟨?_, by omega⟩
  refine (decode_eq f0_6).trans ?_
  show decMuldiv z = _
  rw [decMuldiv, f21_7, rd, ra, rb]
  exact done_ok (w := z) (rs := [(28, 4)]) hw (by simp only [rsvCheck, f28_4, if_true])

theorem muldivMulh (d : Reg) (a : Reg) (b : Reg) : Statement (.muldivMulh d a b) := by
  intro z hw h
  have hz : z = 11 + 64 * d.val + 2048 * a.val + 65536 * b.val + 2097152 * (1) :=
    (Option.some.inj h).symm.trans (by omega)
  obtain ⟨f0_6, f6_5, f11_5, f16_5, hh⟩ := low_fields hz (by decide) (d.isLt) (a.isLt) (b.isLt)
  have f21_7 : fld z 21 7 = 1 := (hh 0 7).trans rfl
  have f28_4 : fld z 28 4 = 0 := (hh 7 4).trans rfl
  have rd : regAt z 6 = d := Fin.ext f6_5
  have ra : regAt z 11 = a := Fin.ext f11_5
  have rb : regAt z 16 = b := Fin.ext f16_5
  refine ⟨?_, by omega⟩
  refine (decode_eq f0_6).trans ?_
  show decMuldiv z = _
  rw [decMuldiv, f21_7, rd, ra, rb]
  exact done_ok (w := z) (rs := [(28, 4)]) hw (by simp only [rsvCheck, f28_4, if_true])

theorem muldivMulhu (d : Reg) (a : Reg) (b : Reg) : Statement (.muldivMulhu d a b) := by
  intro z hw h
  have hz : z = 11 + 64 * d.val + 2048 * a.val + 65536 * b.val + 2097152 * (2) :=
    (Option.some.inj h).symm.trans (by omega)
  obtain ⟨f0_6, f6_5, f11_5, f16_5, hh⟩ := low_fields hz (by decide) (d.isLt) (a.isLt) (b.isLt)
  have f21_7 : fld z 21 7 = 2 := (hh 0 7).trans rfl
  have f28_4 : fld z 28 4 = 0 := (hh 7 4).trans rfl
  have rd : regAt z 6 = d := Fin.ext f6_5
  have ra : regAt z 11 = a := Fin.ext f11_5
  have rb : regAt z 16 = b := Fin.ext f16_5
  refine ⟨?_, by omega⟩
  refine (decode_eq f0_6).trans ?_
  show decMuldiv z = _
  rw [decMuldiv, f21_7, rd, ra, rb]
  exact done_ok (w := z) (rs := [(28, 4)]) hw (by simp only [rsvCheck, f28_4, if_true])

theorem muldivMulhsu (d : Reg) (a : Reg) (b : Reg) : Statement (.muldivMulhsu d a b) := by
  intro z hw h
  have hz : z = 11 + 64 * d.val + 2048 * a.val + 65536 * b.val + 2097152 * (3) :=
    (Option.some.inj h).symm.trans (by omega)
  obtain ⟨f0_6, f6_5, f11_5, f16_5, hh⟩ := low_fields hz (by decide) (d.isLt) (a.isLt) (b.isLt)
  have f21_7 : fld z 21 7 = 3 := (hh 0 7).trans rfl
  have f28_4 : fld z 28 4 = 0 := (hh 7 4).trans rfl
  have rd : regAt z 6 = d := Fin.ext f6_5
  have ra : regAt z 11 = a := Fin.ext f11_5
  have rb : regAt z 16 = b := Fin.ext f16_5
  refine ⟨?_, by omega⟩
  refine (decode_eq f0_6).trans ?_
  show decMuldiv z = _
  rw [decMuldiv, f21_7, rd, ra, rb]
  exact done_ok (w := z) (rs := [(28, 4)]) hw (by simp only [rsvCheck, f28_4, if_true])

theorem muldivDiv (d : Reg) (a : Reg) (b : Reg) : Statement (.muldivDiv d a b) := by
  intro z hw h
  have hz : z = 11 + 64 * d.val + 2048 * a.val + 65536 * b.val + 2097152 * (8) :=
    (Option.some.inj h).symm.trans (by omega)
  obtain ⟨f0_6, f6_5, f11_5, f16_5, hh⟩ := low_fields hz (by decide) (d.isLt) (a.isLt) (b.isLt)
  have f21_7 : fld z 21 7 = 8 := (hh 0 7).trans rfl
  have f28_4 : fld z 28 4 = 0 := (hh 7 4).trans rfl
  have rd : regAt z 6 = d := Fin.ext f6_5
  have ra : regAt z 11 = a := Fin.ext f11_5
  have rb : regAt z 16 = b := Fin.ext f16_5
  refine ⟨?_, by omega⟩
  refine (decode_eq f0_6).trans ?_
  show decMuldiv z = _
  rw [decMuldiv, f21_7, rd, ra, rb]
  exact done_ok (w := z) (rs := [(28, 4)]) hw (by simp only [rsvCheck, f28_4, if_true])

theorem muldivDivu (d : Reg) (a : Reg) (b : Reg) : Statement (.muldivDivu d a b) := by
  intro z hw h
  have hz : z = 11 + 64 * d.val + 2048 * a.val + 65536 * b.val + 2097152 * (9) :=
    (Option.some.inj h).symm.trans (by omega)
  obtain ⟨f0_6, f6_5, f11_5, f16_5, hh⟩ := low_fields hz (by decide) (d.isLt) (a.isLt) (b.isLt)
  have f21_7 : fld z 21 7 = 9 := (hh 0 7).trans rfl
  have f28_4 : fld z 28 4 = 0 := (hh 7 4).trans rfl
  have rd : regAt z 6 = d := Fin.ext f6_5
  have ra : regAt z 11 = a := Fin.ext f11_5
  have rb : regAt z 16 = b := Fin.ext f16_5
  refine ⟨?_, by omega⟩
  refine (decode_eq f0_6).trans ?_
  show decMuldiv z = _
  rw [decMuldiv, f21_7, rd, ra, rb]
  exact done_ok (w := z) (rs := [(28, 4)]) hw (by simp only [rsvCheck, f28_4, if_true])

theorem muldivRem (d : Reg) (a : Reg) (b : Reg) : Statement (.muldivRem d a b) := by
  intro z hw h
  have hz : z = 11 + 64 * d.val + 2048 * a.val + 65536 * b.val + 2097152 * (10) :=
    (Option.some.inj h).symm.trans (by omega)
  obtain ⟨f0_6, f6_5, f11_5, f16_5, hh⟩ := low_fields hz (by decide) (d.isLt) (a.isLt) (b.isLt)
  have f21_7 : fld z 21 7 = 10 := (hh 0 7).trans rfl
  have f28_4 : fld z 28 4 = 0 := (hh 7 4).trans rfl
  have rd : regAt z 6 = d := Fin.ext f6_5
  have ra : regAt z 11 = a := Fin.ext f11_5
  have rb : regAt z 16 = b := Fin.ext f16_5
  refine ⟨?_, by omega⟩
  refine (decode_eq f0_6).trans ?_
  show decMuldiv z = _
  rw [decMuldiv, f21_7, rd, ra, rb]
  exact done_ok (w := z) (rs := [(28, 4)]) hw (by simp only [rsvCheck, f28_4, if_true])

theorem muldivRemu (d : Reg) (a : Reg) (b : Reg) : Statement (.muldivRemu d a b) := by
  intro z hw h
  have hz : z = 11 + 64 * d.val + 2048 * a.val + 65536 * b.val + 2097152 * (11) :=
    (Option.some.inj h).symm.trans (by omega)
  obtain ⟨f0_6, f6_5, f11_5, f16_5, hh⟩ := low_fields hz (by decide) (d.isLt) (a.isLt) (b.isLt)
  have f21_7 : fld z 21 7 = 11 := (hh 0 7).trans rfl
  have f28_4 : fld z 28 4 = 0 := (hh 7 4).trans rfl
  have rd : regAt z 6 = d := Fin.ext f6_5
  have ra : regAt z 11 = a := Fin.ext f11_5
  have rb : regAt z 16 = b := Fin.ext f16_5
  refine ⟨?_, by omega⟩
  refine (decode_eq f0_6).trans ?_
  show decMuldiv z = _
  rw [decMuldiv, f21_7, rd, ra, rb]
  exact done_ok (w := z) (rs := [(28, 4)]) hw (by simp only [rsvCheck, f28_4, if_true])

theorem brEq (a : Reg) (b : Reg) (off : BitVec 13) : Statement (.brEq a b off) := by
  intro z hw h
  have hz : z = 12 + 64 * a.val + 2048 * b.val + 524288 * off.toNat := (Option.some.inj h).symm
  have ba := a.isLt
  have bb := b.isLt
  have boff := off.isLt
  have f0_6 : fld z 0 6 = 12 := by rw [hz, fld]; omega
  have f16_3 : fld z 16 3 = 0 := by rw [hz, fld]; omega
  have ra : regAt z 6 = a := Fin.ext (by show fld z 6 5 = a.val; rw [hz, fld]; omega)
  have rb : regAt z 11 = b := Fin.ext (by show fld z 11 5 = b.val; rw [hz, fld]; omega)
  have roff : BitVec.ofNat 13 (fld z 19 13) = off := ofNat_eq (by rw [hz, fld]; omega)
  refine ⟨?_, by rw [hz]; omega⟩
  refine (decode_eq f0_6).trans ?_
  show decBr z = _
  rw [decBr, f16_3, ra, rb, roff]
  exact done_ok (w := z) (rs := []) hw rfl

theorem brNe (a : Reg) (b : Reg) (off : BitVec 13) : Statement (.brNe a b off) := by
  intro z hw h
  have hz : z = 12 + 65536 + 64 * a.val + 2048 * b.val + 524288 * off.toNat := (Option.some.inj h).symm
  have ba := a.isLt
  have bb := b.isLt
  have boff := off.isLt
  have f0_6 : fld z 0 6 = 12 := by rw [hz, fld]; omega
  have f16_3 : fld z 16 3 = 1 := by rw [hz, fld]; omega
  have ra : regAt z 6 = a := Fin.ext (by show fld z 6 5 = a.val; rw [hz, fld]; omega)
  have rb : regAt z 11 = b := Fin.ext (by show fld z 11 5 = b.val; rw [hz, fld]; omega)
  have roff : BitVec.ofNat 13 (fld z 19 13) = off := ofNat_eq (by rw [hz, fld]; omega)
  refine ⟨?_, by rw [hz]; omega⟩
  refine (decode_eq f0_6).trans ?_
  show decBr z = _
  rw [decBr, f16_3, ra, rb, roff]
  exact done_ok (w := z) (rs := []) hw rfl

theorem brLt (a : Reg) (b : Reg) (off : BitVec 13) : Statement (.brLt a b off) := by
  intro z hw h
  have hz : z = 12 + 131072 + 64 * a.val + 2048 * b.val + 524288 * off.toNat := (Option.some.inj h).symm
  have ba := a.isLt
  have bb := b.isLt
  have boff := off.isLt
  have f0_6 : fld z 0 6 = 12 := by rw [hz, fld]; omega
  have f16_3 : fld z 16 3 = 2 := by rw [hz, fld]; omega
  have ra : regAt z 6 = a := Fin.ext (by show fld z 6 5 = a.val; rw [hz, fld]; omega)
  have rb : regAt z 11 = b := Fin.ext (by show fld z 11 5 = b.val; rw [hz, fld]; omega)
  have roff : BitVec.ofNat 13 (fld z 19 13) = off := ofNat_eq (by rw [hz, fld]; omega)
  refine ⟨?_, by rw [hz]; omega⟩
  refine (decode_eq f0_6).trans ?_
  show decBr z = _
  rw [decBr, f16_3, ra, rb, roff]
  exact done_ok (w := z) (rs := []) hw rfl

theorem brGe (a : Reg) (b : Reg) (off : BitVec 13) : Statement (.brGe a b off) := by
  intro z hw h
  have hz : z = 12 + 196608 + 64 * a.val + 2048 * b.val + 524288 * off.toNat := (Option.some.inj h).symm
  have ba := a.isLt
  have bb := b.isLt
  have boff := off.isLt
  have f0_6 : fld z 0 6 = 12 := by rw [hz, fld]; omega
  have f16_3 : fld z 16 3 = 3 := by rw [hz, fld]; omega
  have ra : regAt z 6 = a := Fin.ext (by show fld z 6 5 = a.val; rw [hz, fld]; omega)
  have rb : regAt z 11 = b := Fin.ext (by show fld z 11 5 = b.val; rw [hz, fld]; omega)
  have roff : BitVec.ofNat 13 (fld z 19 13) = off := ofNat_eq (by rw [hz, fld]; omega)
  refine ⟨?_, by rw [hz]; omega⟩
  refine (decode_eq f0_6).trans ?_
  show decBr z = _
  rw [decBr, f16_3, ra, rb, roff]
  exact done_ok (w := z) (rs := []) hw rfl

theorem brLtu (a : Reg) (b : Reg) (off : BitVec 13) : Statement (.brLtu a b off) := by
  intro z hw h
  have hz : z = 12 + 262144 + 64 * a.val + 2048 * b.val + 524288 * off.toNat := (Option.some.inj h).symm
  have ba := a.isLt
  have bb := b.isLt
  have boff := off.isLt
  have f0_6 : fld z 0 6 = 12 := by rw [hz, fld]; omega
  have f16_3 : fld z 16 3 = 4 := by rw [hz, fld]; omega
  have ra : regAt z 6 = a := Fin.ext (by show fld z 6 5 = a.val; rw [hz, fld]; omega)
  have rb : regAt z 11 = b := Fin.ext (by show fld z 11 5 = b.val; rw [hz, fld]; omega)
  have roff : BitVec.ofNat 13 (fld z 19 13) = off := ofNat_eq (by rw [hz, fld]; omega)
  refine ⟨?_, by rw [hz]; omega⟩
  refine (decode_eq f0_6).trans ?_
  show decBr z = _
  rw [decBr, f16_3, ra, rb, roff]
  exact done_ok (w := z) (rs := []) hw rfl

theorem brGeu (a : Reg) (b : Reg) (off : BitVec 13) : Statement (.brGeu a b off) := by
  intro z hw h
  have hz : z = 12 + 327680 + 64 * a.val + 2048 * b.val + 524288 * off.toNat := (Option.some.inj h).symm
  have ba := a.isLt
  have bb := b.isLt
  have boff := off.isLt
  have f0_6 : fld z 0 6 = 12 := by rw [hz, fld]; omega
  have f16_3 : fld z 16 3 = 5 := by rw [hz, fld]; omega
  have ra : regAt z 6 = a := Fin.ext (by show fld z 6 5 = a.val; rw [hz, fld]; omega)
  have rb : regAt z 11 = b := Fin.ext (by show fld z 11 5 = b.val; rw [hz, fld]; omega)
  have roff : BitVec.ofNat 13 (fld z 19 13) = off := ofNat_eq (by rw [hz, fld]; omega)
  refine ⟨?_, by rw [hz]; omega⟩
  refine (decode_eq f0_6).trans ?_
  show decBr z = _
  rw [decBr, f16_3, ra, rb, roff]
  exact done_ok (w := z) (rs := []) hw rfl

theorem brAny (a : Reg) (b : Reg) (off : BitVec 13) : Statement (.brAny a b off) := by
  intro z hw h
  have hz : z = 12 + 393216 + 64 * a.val + 2048 * b.val + 524288 * off.toNat := (Option.some.inj h).symm
  have ba := a.isLt
  have bb := b.isLt
  have boff := off.isLt
  have f0_6 : fld z 0 6 = 12 := by rw [hz, fld]; omega
  have f16_3 : fld z 16 3 = 6 := by rw [hz, fld]; omega
  have ra : regAt z 6 = a := Fin.ext (by show fld z 6 5 = a.val; rw [hz, fld]; omega)
  have rb : regAt z 11 = b := Fin.ext (by show fld z 11 5 = b.val; rw [hz, fld]; omega)
  have roff : BitVec.ofNat 13 (fld z 19 13) = off := ofNat_eq (by rw [hz, fld]; omega)
  refine ⟨?_, by rw [hz]; omega⟩
  refine (decode_eq f0_6).trans ?_
  show decBr z = _
  rw [decBr, f16_3, ra, rb, roff]
  exact done_ok (w := z) (rs := []) hw rfl

theorem brNone (a : Reg) (b : Reg) (off : BitVec 13) : Statement (.brNone a b off) := by
  intro z hw h
  have hz : z = 12 + 458752 + 64 * a.val + 2048 * b.val + 524288 * off.toNat := (Option.some.inj h).symm
  have ba := a.isLt
  have bb := b.isLt
  have boff := off.isLt
  have f0_6 : fld z 0 6 = 12 := by rw [hz, fld]; omega
  have f16_3 : fld z 16 3 = 7 := by rw [hz, fld]; omega
  have ra : regAt z 6 = a := Fin.ext (by show fld z 6 5 = a.val; rw [hz, fld]; omega)
  have rb : regAt z 11 = b := Fin.ext (by show fld z 11 5 = b.val; rw [hz, fld]; omega)
  have roff : BitVec.ofNat 13 (fld z 19 13) = off := ofNat_eq (by rw [hz, fld]; omega)
  refine ⟨?_, by rw [hz]; omega⟩
  refine (decode_eq f0_6).trans ?_
  show decBr z = _
  rw [decBr, f16_3, ra, rb, roff]
  exact done_ok (w := z) (rs := []) hw rfl

theorem jal (d : Reg) (off : BitVec 21) : Statement (.jal d off) := by
  intro z hw h
  have hz : z = 13 + 64 * d.val + 2048 * off.toNat := (Option.some.inj h).symm
  have bd := d.isLt
  have boff := off.isLt
  have f0_6 : fld z 0 6 = 13 := by rw [hz, fld]; omega
  have rd : regAt z 6 = d := Fin.ext (by show fld z 6 5 = d.val; rw [hz, fld]; omega)
  have roff : BitVec.ofNat 21 (fld z 11 21) = off := ofNat_eq (by rw [hz, fld]; omega)
  refine ⟨?_, by rw [hz]; omega⟩
  refine (decode_eq f0_6).trans ?_
  show decJal z = _
  rw [decJal, rd, roff]
  exact done_ok (w := z) (rs := []) hw rfl

theorem jalr (d : Reg) (a : Reg) (imm : BitVec 16) : Statement (.jalr d a imm) := by
  intro z hw h
  have hz : z = 14 + 64 * d.val + 2048 * a.val + 65536 * imm.toNat := (Option.some.inj h).symm
  have bd := d.isLt
  have ba := a.isLt
  have bimm := imm.isLt
  have f0_6 : fld z 0 6 = 14 := by rw [hz, fld]; omega
  have rd : regAt z 6 = d := Fin.ext (by show fld z 6 5 = d.val; rw [hz, fld]; omega)
  have ra : regAt z 11 = a := Fin.ext (by show fld z 11 5 = a.val; rw [hz, fld]; omega)
  have rimm : BitVec.ofNat 16 (fld z 16 16) = imm := ofNat_eq (by rw [hz, fld]; omega)
  refine ⟨?_, by rw [hz]; omega⟩
  refine (decode_eq f0_6).trans ?_
  show decJalr z = _
  rw [decJalr, rd, ra, rimm]
  exact done_ok (w := z) (rs := []) hw rfl

theorem rep (n : BitVec 8) (len : BitVec 4) (sd : BitVec 4) (sa : BitVec 4) (sb : BitVec 4) : Statement (.rep n len sd sa sb) := by
  intro z hw h
  have hz : z = 15 + 64 * n.toNat + 16384 * len.toNat + 262144 * sd.toNat + 4194304 * sa.toNat + 67108864 * sb.toNat := (Option.some.inj h).symm
  have bn := n.isLt
  have blen := len.isLt
  have bsd := sd.isLt
  have bsa := sa.isLt
  have bsb := sb.isLt
  have f0_6 : fld z 0 6 = 15 := by rw [hz, fld]; omega
  have f30_2 : fld z 30 2 = 0 := by rw [hz, fld]; omega
  have rn : BitVec.ofNat 8 (fld z 6 8) = n := ofNat_eq (by rw [hz, fld]; omega)
  have rlen : BitVec.ofNat 4 (fld z 14 4) = len := ofNat_eq (by rw [hz, fld]; omega)
  have rsd : BitVec.ofNat 4 (fld z 18 4) = sd := ofNat_eq (by rw [hz, fld]; omega)
  have rsa : BitVec.ofNat 4 (fld z 22 4) = sa := ofNat_eq (by rw [hz, fld]; omega)
  have rsb : BitVec.ofNat 4 (fld z 26 4) = sb := ofNat_eq (by rw [hz, fld]; omega)
  refine ⟨?_, by rw [hz]; omega⟩
  refine (decode_eq f0_6).trans ?_
  show decRep z = _
  rw [decRep, rn, rlen, rsd, rsa, rsb]
  exact done_ok (w := z) (rs := [(30, 2)]) hw (by simp only [rsvCheck, f30_2, if_true])

theorem ldPlain (sz : Size) (d : Reg) (a : Reg) (off : BitVec 11) : Statement (.ldPlain sz d a off) := by
  intro z hw h
  have hz : z = 16 + 65536 * sz.code + 64 * d.val + 2048 * a.val + 2097152 * off.toNat := (Option.some.inj h).symm
  have bsz : sz.code ≤ 3 := Size.code_le sz
  have bd := d.isLt
  have ba := a.isLt
  have boff := off.isLt
  have f0_6 : fld z 0 6 = 16 := by rw [hz, fld]; omega
  have f19_2 : fld z 19 2 = 0 := by rw [hz, fld]; omega
  have rsz : Size.ofCode (fld z 16 3) = some sz := by
    rw [show fld z 16 3 = sz.code by rw [hz, fld]; omega]; exact Size.ofCode_code sz
  have rd : regAt z 6 = d := Fin.ext (by show fld z 6 5 = d.val; rw [hz, fld]; omega)
  have ra : regAt z 11 = a := Fin.ext (by show fld z 11 5 = a.val; rw [hz, fld]; omega)
  have roff : BitVec.ofNat 11 (fld z 21 11) = off := ofNat_eq (by rw [hz, fld]; omega)
  refine ⟨?_, by rw [hz]; omega⟩
  refine (decode_eq f0_6).trans ?_
  show decLd z = _
  rw [decLd, f19_2, rsz, rd, ra, roff]
  exact done_ok (w := z) (rs := []) hw rfl

theorem ldTiled (sz : Size) (d : Reg) (a : Reg) (off : BitVec 11) : Statement (.ldTiled sz d a off) := by
  intro z hw h
  have hz : z = 16 + 524288 + 65536 * sz.code + 64 * d.val + 2048 * a.val + 2097152 * off.toNat := (Option.some.inj h).symm
  have bsz : sz.code ≤ 3 := Size.code_le sz
  have bd := d.isLt
  have ba := a.isLt
  have boff := off.isLt
  have f0_6 : fld z 0 6 = 16 := by rw [hz, fld]; omega
  have f19_2 : fld z 19 2 = 1 := by rw [hz, fld]; omega
  have rsz : Size.ofCode (fld z 16 3) = some sz := by
    rw [show fld z 16 3 = sz.code by rw [hz, fld]; omega]; exact Size.ofCode_code sz
  have rd : regAt z 6 = d := Fin.ext (by show fld z 6 5 = d.val; rw [hz, fld]; omega)
  have ra : regAt z 11 = a := Fin.ext (by show fld z 11 5 = a.val; rw [hz, fld]; omega)
  have roff : BitVec.ofNat 11 (fld z 21 11) = off := ofNat_eq (by rw [hz, fld]; omega)
  refine ⟨?_, by rw [hz]; omega⟩
  refine (decode_eq f0_6).trans ?_
  show decLd z = _
  rw [decLd, f19_2, rsz, rd, ra, roff]
  exact done_ok (w := z) (rs := []) hw rfl

theorem ldDevice (sz : Size) (d : Reg) (a : Reg) (off : BitVec 11) : Statement (.ldDevice sz d a off) := by
  intro z hw h
  have hz : z = 16 + 1572864 + 65536 * sz.code + 64 * d.val + 2048 * a.val + 2097152 * off.toNat := (Option.some.inj h).symm
  have bsz : sz.code ≤ 3 := Size.code_le sz
  have bd := d.isLt
  have ba := a.isLt
  have boff := off.isLt
  have f0_6 : fld z 0 6 = 16 := by rw [hz, fld]; omega
  have f19_2 : fld z 19 2 = 3 := by rw [hz, fld]; omega
  have rsz : Size.ofCode (fld z 16 3) = some sz := by
    rw [show fld z 16 3 = sz.code by rw [hz, fld]; omega]; exact Size.ofCode_code sz
  have rd : regAt z 6 = d := Fin.ext (by show fld z 6 5 = d.val; rw [hz, fld]; omega)
  have ra : regAt z 11 = a := Fin.ext (by show fld z 11 5 = a.val; rw [hz, fld]; omega)
  have roff : BitVec.ofNat 11 (fld z 21 11) = off := ofNat_eq (by rw [hz, fld]; omega)
  refine ⟨?_, by rw [hz]; omega⟩
  refine (decode_eq f0_6).trans ?_
  show decLd z = _
  rw [decLd, f19_2, rsz, rd, ra, roff]
  exact done_ok (w := z) (rs := []) hw rfl

theorem stPlain (sz : Size) (d : Reg) (a : Reg) (off : BitVec 11) : Statement (.stPlain sz d a off) := by
  intro z hw h
  have hz : z = 17 + 65536 * sz.code + 64 * d.val + 2048 * a.val + 2097152 * off.toNat := (Option.some.inj h).symm
  have bsz : sz.code ≤ 3 := Size.code_le sz
  have bd := d.isLt
  have ba := a.isLt
  have boff := off.isLt
  have f0_6 : fld z 0 6 = 17 := by rw [hz, fld]; omega
  have f19_2 : fld z 19 2 = 0 := by rw [hz, fld]; omega
  have rsz : Size.ofCode (fld z 16 3) = some sz := by
    rw [show fld z 16 3 = sz.code by rw [hz, fld]; omega]; exact Size.ofCode_code sz
  have rd : regAt z 6 = d := Fin.ext (by show fld z 6 5 = d.val; rw [hz, fld]; omega)
  have ra : regAt z 11 = a := Fin.ext (by show fld z 11 5 = a.val; rw [hz, fld]; omega)
  have roff : BitVec.ofNat 11 (fld z 21 11) = off := ofNat_eq (by rw [hz, fld]; omega)
  refine ⟨?_, by rw [hz]; omega⟩
  refine (decode_eq f0_6).trans ?_
  show decSt z = _
  rw [decSt, f19_2, rsz, rd, ra, roff]
  exact done_ok (w := z) (rs := []) hw rfl

theorem stTiled (sz : Size) (d : Reg) (a : Reg) (off : BitVec 11) : Statement (.stTiled sz d a off) := by
  intro z hw h
  have hz : z = 17 + 524288 + 65536 * sz.code + 64 * d.val + 2048 * a.val + 2097152 * off.toNat := (Option.some.inj h).symm
  have bsz : sz.code ≤ 3 := Size.code_le sz
  have bd := d.isLt
  have ba := a.isLt
  have boff := off.isLt
  have f0_6 : fld z 0 6 = 17 := by rw [hz, fld]; omega
  have f19_2 : fld z 19 2 = 1 := by rw [hz, fld]; omega
  have rsz : Size.ofCode (fld z 16 3) = some sz := by
    rw [show fld z 16 3 = sz.code by rw [hz, fld]; omega]; exact Size.ofCode_code sz
  have rd : regAt z 6 = d := Fin.ext (by show fld z 6 5 = d.val; rw [hz, fld]; omega)
  have ra : regAt z 11 = a := Fin.ext (by show fld z 11 5 = a.val; rw [hz, fld]; omega)
  have roff : BitVec.ofNat 11 (fld z 21 11) = off := ofNat_eq (by rw [hz, fld]; omega)
  refine ⟨?_, by rw [hz]; omega⟩
  refine (decode_eq f0_6).trans ?_
  show decSt z = _
  rw [decSt, f19_2, rsz, rd, ra, roff]
  exact done_ok (w := z) (rs := []) hw rfl

theorem stDevice (sz : Size) (d : Reg) (a : Reg) (off : BitVec 11) : Statement (.stDevice sz d a off) := by
  intro z hw h
  have hz : z = 17 + 1572864 + 65536 * sz.code + 64 * d.val + 2048 * a.val + 2097152 * off.toNat := (Option.some.inj h).symm
  have bsz : sz.code ≤ 3 := Size.code_le sz
  have bd := d.isLt
  have ba := a.isLt
  have boff := off.isLt
  have f0_6 : fld z 0 6 = 17 := by rw [hz, fld]; omega
  have f19_2 : fld z 19 2 = 3 := by rw [hz, fld]; omega
  have rsz : Size.ofCode (fld z 16 3) = some sz := by
    rw [show fld z 16 3 = sz.code by rw [hz, fld]; omega]; exact Size.ofCode_code sz
  have rd : regAt z 6 = d := Fin.ext (by show fld z 6 5 = d.val; rw [hz, fld]; omega)
  have ra : regAt z 11 = a := Fin.ext (by show fld z 11 5 = a.val; rw [hz, fld]; omega)
  have roff : BitVec.ofNat 11 (fld z 21 11) = off := ofNat_eq (by rw [hz, fld]; omega)
  refine ⟨?_, by rw [hz]; omega⟩
  refine (decode_eq f0_6).trans ?_
  show decSt z = _
  rw [decSt, f19_2, rsz, rd, ra, roff]
  exact done_ok (w := z) (rs := []) hw rfl

theorem lds (sz : SSize) (d : Reg) (a : Reg) (off : BitVec 11) : Statement (.lds sz d a off) := by
  intro z hw h
  have hz : z = 18 + 65536 * sz.code + 64 * d.val + 2048 * a.val + 2097152 * off.toNat := (Option.some.inj h).symm
  have bsz : sz.code ≤ 4 := SSize.code_le sz
  have bd := d.isLt
  have ba := a.isLt
  have boff := off.isLt
  have f0_6 : fld z 0 6 = 18 := by rw [hz, fld]; omega
  have f19_2 : fld z 19 2 = 0 := by rw [hz, fld]; omega
  have rsz : SSize.ofCode (fld z 16 3) = some sz := by
    rw [show fld z 16 3 = sz.code by rw [hz, fld]; omega]; exact SSize.ofCode_code sz
  have rd : regAt z 6 = d := Fin.ext (by show fld z 6 5 = d.val; rw [hz, fld]; omega)
  have ra : regAt z 11 = a := Fin.ext (by show fld z 11 5 = a.val; rw [hz, fld]; omega)
  have roff : BitVec.ofNat 11 (fld z 21 11) = off := ofNat_eq (by rw [hz, fld]; omega)
  refine ⟨?_, by rw [hz]; omega⟩
  refine (decode_eq f0_6).trans ?_
  show decLds z = _
  rw [decLds, rsz, rd, ra, roff]
  exact done_ok (w := z) (rs := [(19, 2)]) hw (by simp only [rsvCheck, f19_2, if_true])

theorem sts (sz : SSize) (d : Reg) (a : Reg) (off : BitVec 11) : Statement (.sts sz d a off) := by
  intro z hw h
  have hz : z = 19 + 65536 * sz.code + 64 * d.val + 2048 * a.val + 2097152 * off.toNat := (Option.some.inj h).symm
  have bsz : sz.code ≤ 4 := SSize.code_le sz
  have bd := d.isLt
  have ba := a.isLt
  have boff := off.isLt
  have f0_6 : fld z 0 6 = 19 := by rw [hz, fld]; omega
  have f19_2 : fld z 19 2 = 0 := by rw [hz, fld]; omega
  have rsz : SSize.ofCode (fld z 16 3) = some sz := by
    rw [show fld z 16 3 = sz.code by rw [hz, fld]; omega]; exact SSize.ofCode_code sz
  have rd : regAt z 6 = d := Fin.ext (by show fld z 6 5 = d.val; rw [hz, fld]; omega)
  have ra : regAt z 11 = a := Fin.ext (by show fld z 11 5 = a.val; rw [hz, fld]; omega)
  have roff : BitVec.ofNat 11 (fld z 21 11) = off := ofNat_eq (by rw [hz, fld]; omega)
  refine ⟨?_, by rw [hz]; omega⟩
  refine (decode_eq f0_6).trans ?_
  show decSts z = _
  rw [decSts, rsz, rd, ra, roff]
  exact done_ok (w := z) (rs := [(19, 2)]) hw (by simp only [rsvCheck, f19_2, if_true])

theorem vlds (d : Reg) (a : Reg) (off : BitVec 11) : Statement (.vlds d a off) := by
  intro z hw h
  have hz : z = 24 + 327680 + 64 * d.val + 2048 * a.val + 2097152 * off.toNat := (Option.some.inj h).symm
  have bd := d.isLt
  have ba := a.isLt
  have boff := off.isLt
  have f0_6 : fld z 0 6 = 24 := by rw [hz, fld]; omega
  have f16_3 : fld z 16 3 = 5 := by rw [hz, fld]; omega
  have f19_2 : fld z 19 2 = 0 := by rw [hz, fld]; omega
  have rd : regAt z 6 = d := Fin.ext (by show fld z 6 5 = d.val; rw [hz, fld]; omega)
  have ra : regAt z 11 = a := Fin.ext (by show fld z 11 5 = a.val; rw [hz, fld]; omega)
  have roff : BitVec.ofNat 11 (fld z 21 11) = off := ofNat_eq (by rw [hz, fld]; omega)
  refine ⟨?_, by rw [hz]; omega⟩
  refine (decode_eq f0_6).trans ?_
  show decVlds z = _
  rw [decVlds, f16_3, rd, ra, roff]
  exact done_ok (w := z) (rs := [(19, 2)]) hw (by simp only [rsvCheck, f19_2, if_true])

theorem vsts (d : Reg) (a : Reg) (off : BitVec 11) : Statement (.vsts d a off) := by
  intro z hw h
  have hz : z = 25 + 327680 + 64 * d.val + 2048 * a.val + 2097152 * off.toNat := (Option.some.inj h).symm
  have bd := d.isLt
  have ba := a.isLt
  have boff := off.isLt
  have f0_6 : fld z 0 6 = 25 := by rw [hz, fld]; omega
  have f16_3 : fld z 16 3 = 5 := by rw [hz, fld]; omega
  have f19_2 : fld z 19 2 = 0 := by rw [hz, fld]; omega
  have rd : regAt z 6 = d := Fin.ext (by show fld z 6 5 = d.val; rw [hz, fld]; omega)
  have ra : regAt z 11 = a := Fin.ext (by show fld z 11 5 = a.val; rw [hz, fld]; omega)
  have roff : BitVec.ofNat 11 (fld z 21 11) = off := ofNat_eq (by rw [hz, fld]; omega)
  refine ⟨?_, by rw [hz]; omega⟩
  refine (decode_eq f0_6).trans ?_
  show decVsts z = _
  rw [decVsts, f16_3, rd, ra, roff]
  exact done_ok (w := z) (rs := [(19, 2)]) hw (by simp only [rsvCheck, f19_2, if_true])

theorem feTake (d : Reg) (a : Reg) (off : BitVec 11) : Statement (.feTake d a off) := by
  intro z hw h
  have hz : z = 20 + 196608 + 64 * d.val + 2048 * a.val + 2097152 * off.toNat := (Option.some.inj h).symm
  have bd := d.isLt
  have ba := a.isLt
  have boff := off.isLt
  have f0_6 : fld z 0 6 = 20 := by rw [hz, fld]; omega
  have f16_3 : fld z 16 3 = 3 := by rw [hz, fld]; omega
  have f19_2 : fld z 19 2 = 0 := by rw [hz, fld]; omega
  have rd : regAt z 6 = d := Fin.ext (by show fld z 6 5 = d.val; rw [hz, fld]; omega)
  have ra : regAt z 11 = a := Fin.ext (by show fld z 11 5 = a.val; rw [hz, fld]; omega)
  have roff : BitVec.ofNat 11 (fld z 21 11) = off := ofNat_eq (by rw [hz, fld]; omega)
  refine ⟨?_, by rw [hz]; omega⟩
  refine (decode_eq f0_6).trans ?_
  show decFe z = _
  rw [decFe, f16_3, f19_2, rd, ra, roff]
  exact done_ok (w := z) (rs := []) hw rfl

theorem fePut (d : Reg) (a : Reg) (off : BitVec 11) : Statement (.fePut d a off) := by
  intro z hw h
  have hz : z = 20 + 196608 + 524288 + 64 * d.val + 2048 * a.val + 2097152 * off.toNat := (Option.some.inj h).symm
  have bd := d.isLt
  have ba := a.isLt
  have boff := off.isLt
  have f0_6 : fld z 0 6 = 20 := by rw [hz, fld]; omega
  have f16_3 : fld z 16 3 = 3 := by rw [hz, fld]; omega
  have f19_2 : fld z 19 2 = 1 := by rw [hz, fld]; omega
  have rd : regAt z 6 = d := Fin.ext (by show fld z 6 5 = d.val; rw [hz, fld]; omega)
  have ra : regAt z 11 = a := Fin.ext (by show fld z 11 5 = a.val; rw [hz, fld]; omega)
  have roff : BitVec.ofNat 11 (fld z 21 11) = off := ofNat_eq (by rw [hz, fld]; omega)
  refine ⟨?_, by rw [hz]; omega⟩
  refine (decode_eq f0_6).trans ?_
  show decFe z = _
  rw [decFe, f16_3, f19_2, rd, ra, roff]
  exact done_ok (w := z) (rs := []) hw rfl

theorem feSload (d : Reg) (a : Reg) (off : BitVec 11) : Statement (.feSload d a off) := by
  intro z hw h
  have hz : z = 20 + 196608 + 1048576 + 64 * d.val + 2048 * a.val + 2097152 * off.toNat := (Option.some.inj h).symm
  have bd := d.isLt
  have ba := a.isLt
  have boff := off.isLt
  have f0_6 : fld z 0 6 = 20 := by rw [hz, fld]; omega
  have f16_3 : fld z 16 3 = 3 := by rw [hz, fld]; omega
  have f19_2 : fld z 19 2 = 2 := by rw [hz, fld]; omega
  have rd : regAt z 6 = d := Fin.ext (by show fld z 6 5 = d.val; rw [hz, fld]; omega)
  have ra : regAt z 11 = a := Fin.ext (by show fld z 11 5 = a.val; rw [hz, fld]; omega)
  have roff : BitVec.ofNat 11 (fld z 21 11) = off := ofNat_eq (by rw [hz, fld]; omega)
  refine ⟨?_, by rw [hz]; omega⟩
  refine (decode_eq f0_6).trans ?_
  show decFe z = _
  rw [decFe, f16_3, f19_2, rd, ra, roff]
  exact done_ok (w := z) (rs := []) hw rfl

theorem feFill (d : Reg) (a : Reg) (off : BitVec 11) : Statement (.feFill d a off) := by
  intro z hw h
  have hz : z = 20 + 196608 + 1572864 + 64 * d.val + 2048 * a.val + 2097152 * off.toNat := (Option.some.inj h).symm
  have bd := d.isLt
  have ba := a.isLt
  have boff := off.isLt
  have f0_6 : fld z 0 6 = 20 := by rw [hz, fld]; omega
  have f16_3 : fld z 16 3 = 3 := by rw [hz, fld]; omega
  have f19_2 : fld z 19 2 = 3 := by rw [hz, fld]; omega
  have rd : regAt z 6 = d := Fin.ext (by show fld z 6 5 = d.val; rw [hz, fld]; omega)
  have ra : regAt z 11 = a := Fin.ext (by show fld z 11 5 = a.val; rw [hz, fld]; omega)
  have roff : BitVec.ofNat 11 (fld z 21 11) = off := ofNat_eq (by rw [hz, fld]; omega)
  refine ⟨?_, by rw [hz]; omega⟩
  refine (decode_eq f0_6).trans ?_
  show decFe z = _
  rw [decFe, f16_3, f19_2, rd, ra, roff]
  exact done_ok (w := z) (rs := []) hw rfl

theorem amoSwap (x : AmoPlace) (d : Reg) (a : Reg) (b : Reg) : Statement (.amoSwap x d a b) := by
  intro z hw h
  have bx : x.code ≤ 3 := AmoPlace.code_le x
  have hz : z = 21 + 64 * d.val + 2048 * a.val + 65536 * b.val + 2097152 * (256 * x.code) :=
    (Option.some.inj h).symm.trans (by omega)
  obtain ⟨f0_6, f6_5, f11_5, f16_5, hh⟩ := low_fields hz (by decide) (d.isLt) (a.isLt) (b.isLt)
  have f21_4 : fld z 21 4 = 0 := (hh 0 4).trans (by rw [fld]; omega)
  have f25_4 : fld z 25 4 = 0 := (hh 4 4).trans (by rw [fld]; omega)
  have rx : AmoPlace.ofCode (fld z 29 3) = some x := by
    rw [(hh 8 3).trans (show _ = x.code by rw [fld]; omega)]; exact AmoPlace.ofCode_code x
  have rd : regAt z 6 = d := Fin.ext f6_5
  have ra : regAt z 11 = a := Fin.ext f11_5
  have rb : regAt z 16 = b := Fin.ext f16_5
  refine ⟨?_, by omega⟩
  refine (decode_eq f0_6).trans ?_
  show decAmo z = _
  rw [decAmo, f21_4, rx, rd, ra, rb]
  exact done_ok (w := z) (rs := [(25, 4)]) hw (by simp only [rsvCheck, f25_4, if_true])

theorem amoAdd (x : AmoPlace) (d : Reg) (a : Reg) (b : Reg) : Statement (.amoAdd x d a b) := by
  intro z hw h
  have bx : x.code ≤ 3 := AmoPlace.code_le x
  have hz : z = 21 + 64 * d.val + 2048 * a.val + 65536 * b.val + 2097152 * (1 + 256 * x.code) :=
    (Option.some.inj h).symm.trans (by omega)
  obtain ⟨f0_6, f6_5, f11_5, f16_5, hh⟩ := low_fields hz (by decide) (d.isLt) (a.isLt) (b.isLt)
  have f21_4 : fld z 21 4 = 1 := (hh 0 4).trans (by rw [fld]; omega)
  have f25_4 : fld z 25 4 = 0 := (hh 4 4).trans (by rw [fld]; omega)
  have rx : AmoPlace.ofCode (fld z 29 3) = some x := by
    rw [(hh 8 3).trans (show _ = x.code by rw [fld]; omega)]; exact AmoPlace.ofCode_code x
  have rd : regAt z 6 = d := Fin.ext f6_5
  have ra : regAt z 11 = a := Fin.ext f11_5
  have rb : regAt z 16 = b := Fin.ext f16_5
  refine ⟨?_, by omega⟩
  refine (decode_eq f0_6).trans ?_
  show decAmo z = _
  rw [decAmo, f21_4, rx, rd, ra, rb]
  exact done_ok (w := z) (rs := [(25, 4)]) hw (by simp only [rsvCheck, f25_4, if_true])

theorem amoAnd (x : AmoPlace) (d : Reg) (a : Reg) (b : Reg) : Statement (.amoAnd x d a b) := by
  intro z hw h
  have bx : x.code ≤ 3 := AmoPlace.code_le x
  have hz : z = 21 + 64 * d.val + 2048 * a.val + 65536 * b.val + 2097152 * (2 + 256 * x.code) :=
    (Option.some.inj h).symm.trans (by omega)
  obtain ⟨f0_6, f6_5, f11_5, f16_5, hh⟩ := low_fields hz (by decide) (d.isLt) (a.isLt) (b.isLt)
  have f21_4 : fld z 21 4 = 2 := (hh 0 4).trans (by rw [fld]; omega)
  have f25_4 : fld z 25 4 = 0 := (hh 4 4).trans (by rw [fld]; omega)
  have rx : AmoPlace.ofCode (fld z 29 3) = some x := by
    rw [(hh 8 3).trans (show _ = x.code by rw [fld]; omega)]; exact AmoPlace.ofCode_code x
  have rd : regAt z 6 = d := Fin.ext f6_5
  have ra : regAt z 11 = a := Fin.ext f11_5
  have rb : regAt z 16 = b := Fin.ext f16_5
  refine ⟨?_, by omega⟩
  refine (decode_eq f0_6).trans ?_
  show decAmo z = _
  rw [decAmo, f21_4, rx, rd, ra, rb]
  exact done_ok (w := z) (rs := [(25, 4)]) hw (by simp only [rsvCheck, f25_4, if_true])

theorem amoOr (x : AmoPlace) (d : Reg) (a : Reg) (b : Reg) : Statement (.amoOr x d a b) := by
  intro z hw h
  have bx : x.code ≤ 3 := AmoPlace.code_le x
  have hz : z = 21 + 64 * d.val + 2048 * a.val + 65536 * b.val + 2097152 * (3 + 256 * x.code) :=
    (Option.some.inj h).symm.trans (by omega)
  obtain ⟨f0_6, f6_5, f11_5, f16_5, hh⟩ := low_fields hz (by decide) (d.isLt) (a.isLt) (b.isLt)
  have f21_4 : fld z 21 4 = 3 := (hh 0 4).trans (by rw [fld]; omega)
  have f25_4 : fld z 25 4 = 0 := (hh 4 4).trans (by rw [fld]; omega)
  have rx : AmoPlace.ofCode (fld z 29 3) = some x := by
    rw [(hh 8 3).trans (show _ = x.code by rw [fld]; omega)]; exact AmoPlace.ofCode_code x
  have rd : regAt z 6 = d := Fin.ext f6_5
  have ra : regAt z 11 = a := Fin.ext f11_5
  have rb : regAt z 16 = b := Fin.ext f16_5
  refine ⟨?_, by omega⟩
  refine (decode_eq f0_6).trans ?_
  show decAmo z = _
  rw [decAmo, f21_4, rx, rd, ra, rb]
  exact done_ok (w := z) (rs := [(25, 4)]) hw (by simp only [rsvCheck, f25_4, if_true])

theorem amoXor (x : AmoPlace) (d : Reg) (a : Reg) (b : Reg) : Statement (.amoXor x d a b) := by
  intro z hw h
  have bx : x.code ≤ 3 := AmoPlace.code_le x
  have hz : z = 21 + 64 * d.val + 2048 * a.val + 65536 * b.val + 2097152 * (4 + 256 * x.code) :=
    (Option.some.inj h).symm.trans (by omega)
  obtain ⟨f0_6, f6_5, f11_5, f16_5, hh⟩ := low_fields hz (by decide) (d.isLt) (a.isLt) (b.isLt)
  have f21_4 : fld z 21 4 = 4 := (hh 0 4).trans (by rw [fld]; omega)
  have f25_4 : fld z 25 4 = 0 := (hh 4 4).trans (by rw [fld]; omega)
  have rx : AmoPlace.ofCode (fld z 29 3) = some x := by
    rw [(hh 8 3).trans (show _ = x.code by rw [fld]; omega)]; exact AmoPlace.ofCode_code x
  have rd : regAt z 6 = d := Fin.ext f6_5
  have ra : regAt z 11 = a := Fin.ext f11_5
  have rb : regAt z 16 = b := Fin.ext f16_5
  refine ⟨?_, by omega⟩
  refine (decode_eq f0_6).trans ?_
  show decAmo z = _
  rw [decAmo, f21_4, rx, rd, ra, rb]
  exact done_ok (w := z) (rs := [(25, 4)]) hw (by simp only [rsvCheck, f25_4, if_true])

theorem amoMin (x : AmoPlace) (d : Reg) (a : Reg) (b : Reg) : Statement (.amoMin x d a b) := by
  intro z hw h
  have bx : x.code ≤ 3 := AmoPlace.code_le x
  have hz : z = 21 + 64 * d.val + 2048 * a.val + 65536 * b.val + 2097152 * (5 + 256 * x.code) :=
    (Option.some.inj h).symm.trans (by omega)
  obtain ⟨f0_6, f6_5, f11_5, f16_5, hh⟩ := low_fields hz (by decide) (d.isLt) (a.isLt) (b.isLt)
  have f21_4 : fld z 21 4 = 5 := (hh 0 4).trans (by rw [fld]; omega)
  have f25_4 : fld z 25 4 = 0 := (hh 4 4).trans (by rw [fld]; omega)
  have rx : AmoPlace.ofCode (fld z 29 3) = some x := by
    rw [(hh 8 3).trans (show _ = x.code by rw [fld]; omega)]; exact AmoPlace.ofCode_code x
  have rd : regAt z 6 = d := Fin.ext f6_5
  have ra : regAt z 11 = a := Fin.ext f11_5
  have rb : regAt z 16 = b := Fin.ext f16_5
  refine ⟨?_, by omega⟩
  refine (decode_eq f0_6).trans ?_
  show decAmo z = _
  rw [decAmo, f21_4, rx, rd, ra, rb]
  exact done_ok (w := z) (rs := [(25, 4)]) hw (by simp only [rsvCheck, f25_4, if_true])

theorem amoMax (x : AmoPlace) (d : Reg) (a : Reg) (b : Reg) : Statement (.amoMax x d a b) := by
  intro z hw h
  have bx : x.code ≤ 3 := AmoPlace.code_le x
  have hz : z = 21 + 64 * d.val + 2048 * a.val + 65536 * b.val + 2097152 * (6 + 256 * x.code) :=
    (Option.some.inj h).symm.trans (by omega)
  obtain ⟨f0_6, f6_5, f11_5, f16_5, hh⟩ := low_fields hz (by decide) (d.isLt) (a.isLt) (b.isLt)
  have f21_4 : fld z 21 4 = 6 := (hh 0 4).trans (by rw [fld]; omega)
  have f25_4 : fld z 25 4 = 0 := (hh 4 4).trans (by rw [fld]; omega)
  have rx : AmoPlace.ofCode (fld z 29 3) = some x := by
    rw [(hh 8 3).trans (show _ = x.code by rw [fld]; omega)]; exact AmoPlace.ofCode_code x
  have rd : regAt z 6 = d := Fin.ext f6_5
  have ra : regAt z 11 = a := Fin.ext f11_5
  have rb : regAt z 16 = b := Fin.ext f16_5
  refine ⟨?_, by omega⟩
  refine (decode_eq f0_6).trans ?_
  show decAmo z = _
  rw [decAmo, f21_4, rx, rd, ra, rb]
  exact done_ok (w := z) (rs := [(25, 4)]) hw (by simp only [rsvCheck, f25_4, if_true])

theorem amoMinu (x : AmoPlace) (d : Reg) (a : Reg) (b : Reg) : Statement (.amoMinu x d a b) := by
  intro z hw h
  have bx : x.code ≤ 3 := AmoPlace.code_le x
  have hz : z = 21 + 64 * d.val + 2048 * a.val + 65536 * b.val + 2097152 * (7 + 256 * x.code) :=
    (Option.some.inj h).symm.trans (by omega)
  obtain ⟨f0_6, f6_5, f11_5, f16_5, hh⟩ := low_fields hz (by decide) (d.isLt) (a.isLt) (b.isLt)
  have f21_4 : fld z 21 4 = 7 := (hh 0 4).trans (by rw [fld]; omega)
  have f25_4 : fld z 25 4 = 0 := (hh 4 4).trans (by rw [fld]; omega)
  have rx : AmoPlace.ofCode (fld z 29 3) = some x := by
    rw [(hh 8 3).trans (show _ = x.code by rw [fld]; omega)]; exact AmoPlace.ofCode_code x
  have rd : regAt z 6 = d := Fin.ext f6_5
  have ra : regAt z 11 = a := Fin.ext f11_5
  have rb : regAt z 16 = b := Fin.ext f16_5
  refine ⟨?_, by omega⟩
  refine (decode_eq f0_6).trans ?_
  show decAmo z = _
  rw [decAmo, f21_4, rx, rd, ra, rb]
  exact done_ok (w := z) (rs := [(25, 4)]) hw (by simp only [rsvCheck, f25_4, if_true])

theorem amoMaxu (x : AmoPlace) (d : Reg) (a : Reg) (b : Reg) : Statement (.amoMaxu x d a b) := by
  intro z hw h
  have bx : x.code ≤ 3 := AmoPlace.code_le x
  have hz : z = 21 + 64 * d.val + 2048 * a.val + 65536 * b.val + 2097152 * (8 + 256 * x.code) :=
    (Option.some.inj h).symm.trans (by omega)
  obtain ⟨f0_6, f6_5, f11_5, f16_5, hh⟩ := low_fields hz (by decide) (d.isLt) (a.isLt) (b.isLt)
  have f21_4 : fld z 21 4 = 8 := (hh 0 4).trans (by rw [fld]; omega)
  have f25_4 : fld z 25 4 = 0 := (hh 4 4).trans (by rw [fld]; omega)
  have rx : AmoPlace.ofCode (fld z 29 3) = some x := by
    rw [(hh 8 3).trans (show _ = x.code by rw [fld]; omega)]; exact AmoPlace.ofCode_code x
  have rd : regAt z 6 = d := Fin.ext f6_5
  have ra : regAt z 11 = a := Fin.ext f11_5
  have rb : regAt z 16 = b := Fin.ext f16_5
  refine ⟨?_, by omega⟩
  refine (decode_eq f0_6).trans ?_
  show decAmo z = _
  rw [decAmo, f21_4, rx, rd, ra, rb]
  exact done_ok (w := z) (rs := [(25, 4)]) hw (by simp only [rsvCheck, f25_4, if_true])

theorem amoCas (x : AmoPlace) (d : Reg) (a : Reg) (b : Reg) : Statement (.amoCas x d a b) := by
  intro z hw h
  have bx : x.code ≤ 3 := AmoPlace.code_le x
  have hz : z = 21 + 64 * d.val + 2048 * a.val + 65536 * b.val + 2097152 * (9 + 256 * x.code) :=
    (Option.some.inj h).symm.trans (by omega)
  obtain ⟨f0_6, f6_5, f11_5, f16_5, hh⟩ := low_fields hz (by decide) (d.isLt) (a.isLt) (b.isLt)
  have f21_4 : fld z 21 4 = 9 := (hh 0 4).trans (by rw [fld]; omega)
  have f25_4 : fld z 25 4 = 0 := (hh 4 4).trans (by rw [fld]; omega)
  have rx : AmoPlace.ofCode (fld z 29 3) = some x := by
    rw [(hh 8 3).trans (show _ = x.code by rw [fld]; omega)]; exact AmoPlace.ofCode_code x
  have rd : regAt z 6 = d := Fin.ext f6_5
  have ra : regAt z 11 = a := Fin.ext f11_5
  have rb : regAt z 16 = b := Fin.ext f16_5
  refine ⟨?_, by omega⟩
  refine (decode_eq f0_6).trans ?_
  show decAmo z = _
  rw [decAmo, f21_4, rx, rd, ra, rb]
  exact done_ok (w := z) (rs := [(25, 4)]) hw (by simp only [rsvCheck, f25_4, if_true])

theorem ordAcq (x : Scope) : Statement (.ordAcq x) := by
  intro z hw h
  have bx : x.code ≤ 4 := Scope.code_le x
  have hz : z = 22 + 64 * 0 + 2048 * 0 + 65536 * 0 + 2097152 * (256 * x.code) :=
    (Option.some.inj h).symm.trans (by omega)
  obtain ⟨f0_6, f6_5, f11_5, f16_5, hh⟩ := low_fields hz (by decide) (by decide) (by decide) (by decide)
  have f21_4 : fld z 21 4 = 0 := (hh 0 4).trans (by rw [fld]; omega)
  have f6_15 : fld z 6 15 = 0 := by rw [hz, fld]; omega
  have f25_4 : fld z 25 4 = 0 := (hh 4 4).trans (by rw [fld]; omega)
  have rx : Scope.ofCode (fld z 29 3) = some x := by
    rw [(hh 8 3).trans (show _ = x.code by rw [fld]; omega)]; exact Scope.ofCode_code x
  refine ⟨?_, by omega⟩
  refine (decode_eq f0_6).trans ?_
  show decOrd z = _
  rw [decOrd, f21_4, rx]
  exact done_ok (w := z) (rs := [(6, 15), (25, 4)]) hw (by simp only [rsvCheck, f6_15, f25_4, if_true])

theorem ordRel (x : Scope) : Statement (.ordRel x) := by
  intro z hw h
  have bx : x.code ≤ 4 := Scope.code_le x
  have hz : z = 22 + 64 * 0 + 2048 * 0 + 65536 * 0 + 2097152 * (1 + 256 * x.code) :=
    (Option.some.inj h).symm.trans (by omega)
  obtain ⟨f0_6, f6_5, f11_5, f16_5, hh⟩ := low_fields hz (by decide) (by decide) (by decide) (by decide)
  have f21_4 : fld z 21 4 = 1 := (hh 0 4).trans (by rw [fld]; omega)
  have f6_15 : fld z 6 15 = 0 := by rw [hz, fld]; omega
  have f25_4 : fld z 25 4 = 0 := (hh 4 4).trans (by rw [fld]; omega)
  have rx : Scope.ofCode (fld z 29 3) = some x := by
    rw [(hh 8 3).trans (show _ = x.code by rw [fld]; omega)]; exact Scope.ofCode_code x
  refine ⟨?_, by omega⟩
  refine (decode_eq f0_6).trans ?_
  show decOrd z = _
  rw [decOrd, f21_4, rx]
  exact done_ok (w := z) (rs := [(6, 15), (25, 4)]) hw (by simp only [rsvCheck, f6_15, f25_4, if_true])

theorem ordFence (x : Scope) : Statement (.ordFence x) := by
  intro z hw h
  have bx : x.code ≤ 4 := Scope.code_le x
  have hz : z = 22 + 64 * 0 + 2048 * 0 + 65536 * 0 + 2097152 * (2 + 256 * x.code) :=
    (Option.some.inj h).symm.trans (by omega)
  obtain ⟨f0_6, f6_5, f11_5, f16_5, hh⟩ := low_fields hz (by decide) (by decide) (by decide) (by decide)
  have f21_4 : fld z 21 4 = 2 := (hh 0 4).trans (by rw [fld]; omega)
  have f6_15 : fld z 6 15 = 0 := by rw [hz, fld]; omega
  have f25_4 : fld z 25 4 = 0 := (hh 4 4).trans (by rw [fld]; omega)
  have rx : Scope.ofCode (fld z 29 3) = some x := by
    rw [(hh 8 3).trans (show _ = x.code by rw [fld]; omega)]; exact Scope.ofCode_code x
  refine ⟨?_, by omega⟩
  refine (decode_eq f0_6).trans ?_
  show decOrd z = _
  rw [decOrd, f21_4, rx]
  exact done_ok (w := z) (rs := [(6, 15), (25, 4)]) hw (by simp only [rsvCheck, f6_15, f25_4, if_true])

theorem ordLda (x : Scope) (sz : Size) (d : Reg) (a : Reg) : Statement (.ordLda x sz d a) := by
  intro z hw h
  have hz : z = 22 + 8388608 + 536870912 * x.code + 2097152 * sz.code + 64 * d.val + 2048 * a.val := (Option.some.inj h).symm
  have bx : x.code ≤ 4 := Scope.code_le x
  have bsz : sz.code ≤ 3 := Size.code_le sz
  have bd := d.isLt
  have ba := a.isLt
  have f0_6 : fld z 0 6 = 22 := by rw [hz, fld]; omega
  have k : fld z 21 4 = 4 + sz.code := by rw [hz, fld]; omega
  have f16_5 : fld z 16 5 = 0 := by rw [hz, fld]; omega
  have f25_4 : fld z 25 4 = 0 := by rw [hz, fld]; omega
  have rx : Scope.ofCode (fld z 29 3) = some x := by
    rw [show fld z 29 3 = x.code by rw [hz, fld]; omega]; exact Scope.ofCode_code x
  have rsz : Size.ofCode (fld z 21 2) = some sz := by
    rw [show fld z 21 2 = sz.code by rw [hz, fld]; omega]; exact Size.ofCode_code sz
  have rd : regAt z 6 = d := Fin.ext (by show fld z 6 5 = d.val; rw [hz, fld]; omega)
  have ra : regAt z 11 = a := Fin.ext (by show fld z 11 5 = a.val; rw [hz, fld]; omega)
  refine ⟨?_, by rw [hz]; omega⟩
  cases sz <;> simp only [Size.code, Nat.reduceAdd, Nat.add_zero] at k <;>
    · simp only [decode, decOrd, k, f0_6, need, rx, rsz, rd, ra]
      exact done_ok hw (by simp only [rsvCheck, f16_5, f25_4, if_true])

theorem ordStl (x : Scope) (sz : Size) (a : Reg) (b : Reg) : Statement (.ordStl x sz a b) := by
  intro z hw h
  have hz : z = 22 + 16777216 + 536870912 * x.code + 2097152 * sz.code + 2048 * a.val + 65536 * b.val := (Option.some.inj h).symm
  have bx : x.code ≤ 4 := Scope.code_le x
  have bsz : sz.code ≤ 3 := Size.code_le sz
  have ba := a.isLt
  have bb := b.isLt
  have f0_6 : fld z 0 6 = 22 := by rw [hz, fld]; omega
  have k : fld z 21 4 = 8 + sz.code := by rw [hz, fld]; omega
  have f6_5 : fld z 6 5 = 0 := by rw [hz, fld]; omega
  have f25_4 : fld z 25 4 = 0 := by rw [hz, fld]; omega
  have rx : Scope.ofCode (fld z 29 3) = some x := by
    rw [show fld z 29 3 = x.code by rw [hz, fld]; omega]; exact Scope.ofCode_code x
  have rsz : Size.ofCode (fld z 21 2) = some sz := by
    rw [show fld z 21 2 = sz.code by rw [hz, fld]; omega]; exact Size.ofCode_code sz
  have ra : regAt z 11 = a := Fin.ext (by show fld z 11 5 = a.val; rw [hz, fld]; omega)
  have rb : regAt z 16 = b := Fin.ext (by show fld z 16 5 = b.val; rw [hz, fld]; omega)
  refine ⟨?_, by rw [hz]; omega⟩
  cases sz <;> simp only [Size.code, Nat.reduceAdd, Nat.add_zero] at k <;>
    · simp only [decode, decOrd, k, f0_6, need, rx, rsz, ra, rb]
      exact done_ok hw (by simp only [rsvCheck, f6_5, f25_4, if_true])

theorem keyUpd (x : VType) (e : BitVec 4) (d : Reg) (a : Reg) (b : Reg) : Statement (.keyUpd x e d a b) := by
  intro z hw h
  have bx : x.code ≤ 5 := VType.code_le x
  have be := e.isLt
  have hz : z = 23 + 64 * d.val + 2048 * a.val + 65536 * b.val + 2097152 * (256 * x.code + 16 * e.toNat) :=
    (Option.some.inj h).symm.trans (by omega)
  obtain ⟨f0_6, f6_5, f11_5, f16_5, hh⟩ := low_fields hz (by decide) (d.isLt) (a.isLt) (b.isLt)
  have f21_4 : fld z 21 4 = 0 := (hh 0 4).trans (by rw [fld]; omega)
  have rx : VType.ofCode (fld z 29 3) = some x := by
    rw [(hh 8 3).trans (show _ = x.code by rw [fld]; omega)]; exact VType.ofCode_code x
  have re : BitVec.ofNat 4 (fld z 25 4) = e := ofNat_eq ((hh 4 4).trans (by rw [fld]; omega))
  have rd : regAt z 6 = d := Fin.ext f6_5
  have ra : regAt z 11 = a := Fin.ext f11_5
  have rb : regAt z 16 = b := Fin.ext f16_5
  refine ⟨?_, by omega⟩
  refine (decode_eq f0_6).trans ?_
  show decKey z = _
  rw [decKey, f21_4, rx, re, rd, ra, rb]
  exact done_ok (w := z) (rs := []) hw rfl

theorem keyLd (x : VType) (d : Reg) (a : Reg) : Statement (.keyLd x d a) := by
  intro z hw h
  have bx : x.code ≤ 5 := VType.code_le x
  have hz : z = 23 + 64 * d.val + 2048 * a.val + 65536 * 0 + 2097152 * (1 + 256 * x.code) :=
    (Option.some.inj h).symm.trans (by omega)
  obtain ⟨f0_6, f6_5, f11_5, f16_5, hh⟩ := low_fields hz (by decide) (d.isLt) (a.isLt) (by decide)
  have f21_4 : fld z 21 4 = 1 := (hh 0 4).trans (by rw [fld]; omega)
  have f25_4 : fld z 25 4 = 0 := (hh 4 4).trans (by rw [fld]; omega)
  have rx : VType.ofCode (fld z 29 3) = some x := by
    rw [(hh 8 3).trans (show _ = x.code by rw [fld]; omega)]; exact VType.ofCode_code x
  have rd : regAt z 6 = d := Fin.ext f6_5
  have ra : regAt z 11 = a := Fin.ext f11_5
  refine ⟨?_, by omega⟩
  refine (decode_eq f0_6).trans ?_
  show decKey z = _
  rw [decKey, f21_4, rx, rd, ra]
  exact done_ok (w := z) (rs := [(16, 5), (25, 4)]) hw (by simp only [rsvCheck, f16_5, f25_4, if_true])

theorem keyLdx (d : Reg) (a : Reg) : Statement (.keyLdx d a) := by
  intro z hw h
  have hz : z = 23 + 64 * d.val + 2048 * a.val + 65536 * 0 + 2097152 * (1282) :=
    (Option.some.inj h).symm.trans (by omega)
  obtain ⟨f0_6, f6_5, f11_5, f16_5, hh⟩ := low_fields hz (by decide) (d.isLt) (a.isLt) (by decide)
  have f21_4 : fld z 21 4 = 2 := (hh 0 4).trans rfl
  have f29_3 : fld z 29 3 = 5 := (hh 8 3).trans rfl
  have f25_4 : fld z 25 4 = 0 := (hh 4 4).trans rfl
  have rd : regAt z 6 = d := Fin.ext f6_5
  have ra : regAt z 11 = a := Fin.ext f11_5
  refine ⟨?_, by omega⟩
  refine (decode_eq f0_6).trans ?_
  show decKey z = _
  rw [decKey, f21_4, f29_3, rd, ra]
  exact done_ok (w := z) (rs := [(16, 5), (25, 4)]) hw (by simp only [rsvCheck, f16_5, f25_4, if_true])

theorem keyPub (x : Scope) (e : BitVec 4) (d : Reg) : Statement (.keyPub x e d) := by
  intro z hw h
  have bx : x.code ≤ 4 := Scope.code_le x
  have be := e.isLt
  have hz : z = 23 + 64 * d.val + 2048 * 0 + 65536 * 0 + 2097152 * (3 + 256 * x.code + 16 * e.toNat) :=
    (Option.some.inj h).symm.trans (by omega)
  obtain ⟨f0_6, f6_5, f11_5, f16_5, hh⟩ := low_fields hz (by decide) (d.isLt) (by decide) (by decide)
  have f21_4 : fld z 21 4 = 3 := (hh 0 4).trans (by rw [fld]; omega)
  have f11_10 : fld z 11 10 = 0 := by rw [hz, fld]; omega
  have rx : Scope.ofCode (fld z 29 3) = some x := by
    rw [(hh 8 3).trans (show _ = x.code by rw [fld]; omega)]; exact Scope.ofCode_code x
  have re : BitVec.ofNat 4 (fld z 25 4) = e := ofNat_eq ((hh 4 4).trans (by rw [fld]; omega))
  have rd : regAt z 6 = d := Fin.ext f6_5
  refine ⟨?_, by omega⟩
  refine (decode_eq f0_6).trans ?_
  show decKey z = _
  rw [decKey, f21_4, rx, re, rd]
  exact done_ok (w := z) (rs := [(11, 10)]) hw (by simp only [rsvCheck, f11_10, if_true])

theorem keyFixDrop (d : Reg) (a : Reg) (b : Reg) : Statement (.keyFixDrop d a b) := by
  intro z hw h
  have hz : z = 23 + 64 * d.val + 2048 * a.val + 65536 * b.val + 2097152 * (4) :=
    (Option.some.inj h).symm.trans (by omega)
  obtain ⟨f0_6, f6_5, f11_5, f16_5, hh⟩ := low_fields hz (by decide) (d.isLt) (a.isLt) (b.isLt)
  have f21_4 : fld z 21 4 = 4 := (hh 0 4).trans rfl
  have f29_3 : fld z 29 3 = 0 := (hh 8 3).trans rfl
  have f25_4 : fld z 25 4 = 0 := (hh 4 4).trans rfl
  have rd : regAt z 6 = d := Fin.ext f6_5
  have ra : regAt z 11 = a := Fin.ext f11_5
  have rb : regAt z 16 = b := Fin.ext f16_5
  refine ⟨?_, by omega⟩
  refine (decode_eq f0_6).trans ?_
  show decKey z = _
  rw [decKey, f21_4, f29_3, rd, ra, rb]
  exact done_ok (w := z) (rs := [(25, 4)]) hw (by simp only [rsvCheck, f25_4, if_true])

theorem keyFixSet (d : Reg) (a : Reg) (b : Reg) : Statement (.keyFixSet d a b) := by
  intro z hw h
  have hz : z = 23 + 64 * d.val + 2048 * a.val + 65536 * b.val + 2097152 * (260) :=
    (Option.some.inj h).symm.trans (by omega)
  obtain ⟨f0_6, f6_5, f11_5, f16_5, hh⟩ := low_fields hz (by decide) (d.isLt) (a.isLt) (b.isLt)
  have f21_4 : fld z 21 4 = 4 := (hh 0 4).trans rfl
  have f29_3 : fld z 29 3 = 1 := (hh 8 3).trans rfl
  have f25_4 : fld z 25 4 = 0 := (hh 4 4).trans rfl
  have rd : regAt z 6 = d := Fin.ext f6_5
  have ra : regAt z 11 = a := Fin.ext f11_5
  have rb : regAt z 16 = b := Fin.ext f16_5
  refine ⟨?_, by omega⟩
  refine (decode_eq f0_6).trans ?_
  show decKey z = _
  rw [decKey, f21_4, f29_3, rd, ra, rb]
  exact done_ok (w := z) (rs := [(25, 4)]) hw (by simp only [rsvCheck, f25_4, if_true])

theorem keyResume (d : Reg) (a : Reg) : Statement (.keyResume d a) := by
  intro z hw h
  have hz : z = 23 + 64 * d.val + 2048 * a.val + 65536 * 0 + 2097152 * (5) :=
    (Option.some.inj h).symm.trans (by omega)
  obtain ⟨f0_6, f6_5, f11_5, f16_5, hh⟩ := low_fields hz (by decide) (d.isLt) (a.isLt) (by decide)
  have f21_4 : fld z 21 4 = 5 := (hh 0 4).trans rfl
  have f25_7 : fld z 25 7 = 0 := (hh 4 7).trans rfl
  have rd : regAt z 6 = d := Fin.ext f6_5
  have ra : regAt z 11 = a := Fin.ext f11_5
  refine ⟨?_, by omega⟩
  refine (decode_eq f0_6).trans ?_
  show decKey z = _
  rw [decKey, f21_4, rd, ra]
  exact done_ok (w := z) (rs := [(16, 5), (25, 7)]) hw (by simp only [rsvCheck, f16_5, f25_7, if_true])

theorem keyInfo (d : Reg) (a : Reg) : Statement (.keyInfo d a) := by
  intro z hw h
  have hz : z = 23 + 64 * d.val + 2048 * a.val + 65536 * 0 + 2097152 * (6) :=
    (Option.some.inj h).symm.trans (by omega)
  obtain ⟨f0_6, f6_5, f11_5, f16_5, hh⟩ := low_fields hz (by decide) (d.isLt) (a.isLt) (by decide)
  have f21_4 : fld z 21 4 = 6 := (hh 0 4).trans rfl
  have f25_7 : fld z 25 7 = 0 := (hh 4 7).trans rfl
  have rd : regAt z 6 = d := Fin.ext f6_5
  have ra : regAt z 11 = a := Fin.ext f11_5
  refine ⟨?_, by omega⟩
  refine (decode_eq f0_6).trans ?_
  show decKey z = _
  rw [decKey, f21_4, rd, ra]
  exact done_ok (w := z) (rs := [(16, 5), (25, 7)]) hw (by simp only [rsvCheck, f16_5, f25_7, if_true])

theorem qstQ (w : BlkW) (imm : Bool) (sp : Bool) (d : Reg) (a : Reg) (off : BitVec 11) : Statement (.qstQ w imm sp d a off) := by
  intro z hw h
  have hz : z = 26 + 65536 * w.code + 131072 * imm.toNat + 262144 * sp.toNat + 64 * d.val + 2048 * a.val + 2097152 * off.toNat := (Option.some.inj h).symm
  have bw : w.code ≤ 1 := BlkW.code_le w
  have bimm : imm.toNat < 2 := by cases imm <;> decide
  have bsp : sp.toNat < 2 := by cases sp <;> decide
  have bd := d.isLt
  have ba := a.isLt
  have boff := off.isLt
  have f0_6 : fld z 0 6 = 26 := by rw [hz, fld]; omega
  have f19_2 : fld z 19 2 = 0 := by rw [hz, fld]; omega
  have rw : BlkW.ofCode (fld z 16 1) = w := by
    rw [show fld z 16 1 = w.code by rw [hz, fld]; omega]; cases w <;> rfl
  have rimm : (fld z 17 1 == 1) = imm := by
    rw [show fld z 17 1 = imm.toNat by rw [hz, fld]; omega]; cases imm <;> rfl
  have rsp : (fld z 18 1 == 1) = sp := by
    rw [show fld z 18 1 = sp.toNat by rw [hz, fld]; omega]; cases sp <;> rfl
  have rd : regAt z 6 = d := Fin.ext (by show fld z 6 5 = d.val; rw [hz, fld]; omega)
  have ra : regAt z 11 = a := Fin.ext (by show fld z 11 5 = a.val; rw [hz, fld]; omega)
  have roff : BitVec.ofNat 11 (fld z 21 11) = off := ofNat_eq (by rw [hz, fld]; omega)
  refine ⟨?_, by rw [hz]; omega⟩
  refine (decode_eq f0_6).trans ?_
  show decQst z = _
  rw [decQst, f19_2, rw, rimm, rsp, rd, ra, roff]
  exact done_ok (w := z) (rs := []) hw rfl

theorem qstBl (w : BlkW) (sp : Bool) (d : Reg) (a : Reg) (off : BitVec 11) : Statement (.qstBl w sp d a off) := by
  intro z hw h
  have hz : z = 26 + 524288 + 65536 * w.code + 262144 * sp.toNat + 64 * d.val + 2048 * a.val + 2097152 * off.toNat := (Option.some.inj h).symm
  have bw : w.code ≤ 1 := BlkW.code_le w
  have bsp : sp.toNat < 2 := by cases sp <;> decide
  have bd := d.isLt
  have ba := a.isLt
  have boff := off.isLt
  have f0_6 : fld z 0 6 = 26 := by rw [hz, fld]; omega
  have f17_1 : fld z 17 1 = 0 := by rw [hz, fld]; omega
  have f19_2 : fld z 19 2 = 1 := by rw [hz, fld]; omega
  have rw : BlkW.ofCode (fld z 16 1) = w := by
    rw [show fld z 16 1 = w.code by rw [hz, fld]; omega]; cases w <;> rfl
  have rsp : (fld z 18 1 == 1) = sp := by
    rw [show fld z 18 1 = sp.toNat by rw [hz, fld]; omega]; cases sp <;> rfl
  have rd : regAt z 6 = d := Fin.ext (by show fld z 6 5 = d.val; rw [hz, fld]; omega)
  have ra : regAt z 11 = a := Fin.ext (by show fld z 11 5 = a.val; rw [hz, fld]; omega)
  have roff : BitVec.ofNat 11 (fld z 21 11) = off := ofNat_eq (by rw [hz, fld]; omega)
  refine ⟨?_, by rw [hz]; omega⟩
  refine (decode_eq f0_6).trans ?_
  show decQst z = _
  rw [decQst, f17_1, f19_2, rw, rsp, rd, ra, roff]
  exact done_ok (w := z) (rs := []) hw rfl

theorem bitInit (d : Reg) (a : Reg) (k : BitVec 8) : Statement (.bitInit d a k) := by
  intro z hw h
  have hz : z = 27 + 64 * d.val + 2048 * a.val + 65536 * k.toNat := (Option.some.inj h).symm
  have bd := d.isLt
  have ba := a.isLt
  have bk := k.isLt
  have f0_6 : fld z 0 6 = 27 := by rw [hz, fld]; omega
  have f24_4 : fld z 24 4 = 0 := by rw [hz, fld]; omega
  have f28_4 : fld z 28 4 = 0 := by rw [hz, fld]; omega
  have rd : regAt z 6 = d := Fin.ext (by show fld z 6 5 = d.val; rw [hz, fld]; omega)
  have ra : regAt z 11 = a := Fin.ext (by show fld z 11 5 = a.val; rw [hz, fld]; omega)
  have rk : BitVec.ofNat 8 (fld z 16 8) = k := ofNat_eq (by rw [hz, fld]; omega)
  refine ⟨?_, by rw [hz]; omega⟩
  refine (decode_eq f0_6).trans ?_
  show decBit z = _
  rw [decBit, f24_4, rd, ra, rk]
  exact done_ok (w := z) (rs := [(28, 4)]) hw (by simp only [rsvCheck, f28_4, if_true])

theorem bitPeek (d : Reg) (k : BitVec 8) : Statement (.bitPeek d k) := by
  intro z hw h
  have hz : z = 27 + 16777216 + 64 * d.val + 65536 * k.toNat := (Option.some.inj h).symm
  have bd := d.isLt
  have bk := k.isLt
  have f0_6 : fld z 0 6 = 27 := by rw [hz, fld]; omega
  have f24_4 : fld z 24 4 = 1 := by rw [hz, fld]; omega
  have f11_5 : fld z 11 5 = 0 := by rw [hz, fld]; omega
  have f28_4 : fld z 28 4 = 0 := by rw [hz, fld]; omega
  have rd : regAt z 6 = d := Fin.ext (by show fld z 6 5 = d.val; rw [hz, fld]; omega)
  have rk : BitVec.ofNat 8 (fld z 16 8) = k := ofNat_eq (by rw [hz, fld]; omega)
  refine ⟨?_, by rw [hz]; omega⟩
  refine (decode_eq f0_6).trans ?_
  show decBit z = _
  rw [decBit, f24_4, rd, rk]
  exact done_ok (w := z) (rs := [(11, 5), (28, 4)]) hw (by simp only [rsvCheck, f11_5, f28_4, if_true])

theorem bitGet (d : Reg) (k : BitVec 8) : Statement (.bitGet d k) := by
  intro z hw h
  have hz : z = 27 + 33554432 + 64 * d.val + 65536 * k.toNat := (Option.some.inj h).symm
  have bd := d.isLt
  have bk := k.isLt
  have f0_6 : fld z 0 6 = 27 := by rw [hz, fld]; omega
  have f24_4 : fld z 24 4 = 2 := by rw [hz, fld]; omega
  have f11_5 : fld z 11 5 = 0 := by rw [hz, fld]; omega
  have f28_4 : fld z 28 4 = 0 := by rw [hz, fld]; omega
  have rd : regAt z 6 = d := Fin.ext (by show fld z 6 5 = d.val; rw [hz, fld]; omega)
  have rk : BitVec.ofNat 8 (fld z 16 8) = k := ofNat_eq (by rw [hz, fld]; omega)
  refine ⟨?_, by rw [hz]; omega⟩
  refine (decode_eq f0_6).trans ?_
  show decBit z = _
  rw [decBit, f24_4, rd, rk]
  exact done_ok (w := z) (rs := [(11, 5), (28, 4)]) hw (by simp only [rsvCheck, f11_5, f28_4, if_true])

theorem bitSkip (k : BitVec 8) : Statement (.bitSkip k) := by
  intro z hw h
  have hz : z = 27 + 50331648 + 65536 * k.toNat := (Option.some.inj h).symm
  have bk := k.isLt
  have f0_6 : fld z 0 6 = 27 := by rw [hz, fld]; omega
  have f24_4 : fld z 24 4 = 3 := by rw [hz, fld]; omega
  have f6_10 : fld z 6 10 = 0 := by rw [hz, fld]; omega
  have f28_4 : fld z 28 4 = 0 := by rw [hz, fld]; omega
  have rk : BitVec.ofNat 8 (fld z 16 8) = k := ofNat_eq (by rw [hz, fld]; omega)
  refine ⟨?_, by rw [hz]; omega⟩
  refine (decode_eq f0_6).trans ?_
  show decBit z = _
  rw [decBit, f24_4, rk]
  exact done_ok (w := z) (rs := [(6, 10), (28, 4)]) hw (by simp only [rsvCheck, f6_10, f28_4, if_true])

theorem bitGetv (d : Reg) (a : Reg) : Statement (.bitGetv d a) := by
  intro z hw h
  have hz : z = 27 + 67108864 + 64 * d.val + 2048 * a.val := (Option.some.inj h).symm
  have bd := d.isLt
  have ba := a.isLt
  have f0_6 : fld z 0 6 = 27 := by rw [hz, fld]; omega
  have f24_4 : fld z 24 4 = 4 := by rw [hz, fld]; omega
  have f16_8 : fld z 16 8 = 0 := by rw [hz, fld]; omega
  have f28_4 : fld z 28 4 = 0 := by rw [hz, fld]; omega
  have rd : regAt z 6 = d := Fin.ext (by show fld z 6 5 = d.val; rw [hz, fld]; omega)
  have ra : regAt z 11 = a := Fin.ext (by show fld z 11 5 = a.val; rw [hz, fld]; omega)
  refine ⟨?_, by rw [hz]; omega⟩
  refine (decode_eq f0_6).trans ?_
  show decBit z = _
  rw [decBit, f24_4, rd, ra]
  exact (noCount_zero f16_8).trans (done_ok (w := z) (rs := [(28, 4)]) hw (by simp only [rsvCheck, f28_4, if_true]))

theorem bitUnar (d : Reg) : Statement (.bitUnar d) := by
  intro z hw h
  have hz : z = 27 + 83886080 + 64 * d.val := (Option.some.inj h).symm
  have bd := d.isLt
  have f0_6 : fld z 0 6 = 27 := by rw [hz, fld]; omega
  have f24_4 : fld z 24 4 = 5 := by rw [hz, fld]; omega
  have f11_5 : fld z 11 5 = 0 := by rw [hz, fld]; omega
  have f16_8 : fld z 16 8 = 0 := by rw [hz, fld]; omega
  have f28_4 : fld z 28 4 = 0 := by rw [hz, fld]; omega
  have rd : regAt z 6 = d := Fin.ext (by show fld z 6 5 = d.val; rw [hz, fld]; omega)
  refine ⟨?_, by rw [hz]; omega⟩
  refine (decode_eq f0_6).trans ?_
  show decBit z = _
  rw [decBit, f24_4, rd]
  exact (noCount_zero f16_8).trans (done_ok (w := z) (rs := [(11, 5), (28, 4)]) hw (by simp only [rsvCheck, f11_5, f28_4, if_true]))

theorem bitTell (d : Reg) : Statement (.bitTell d) := by
  intro z hw h
  have hz : z = 27 + 100663296 + 64 * d.val := (Option.some.inj h).symm
  have bd := d.isLt
  have f0_6 : fld z 0 6 = 27 := by rw [hz, fld]; omega
  have f24_4 : fld z 24 4 = 6 := by rw [hz, fld]; omega
  have f11_5 : fld z 11 5 = 0 := by rw [hz, fld]; omega
  have f16_8 : fld z 16 8 = 0 := by rw [hz, fld]; omega
  have f28_4 : fld z 28 4 = 0 := by rw [hz, fld]; omega
  have rd : regAt z 6 = d := Fin.ext (by show fld z 6 5 = d.val; rw [hz, fld]; omega)
  refine ⟨?_, by rw [hz]; omega⟩
  refine (decode_eq f0_6).trans ?_
  show decBit z = _
  rw [decBit, f24_4, rd]
  exact (noCount_zero f16_8).trans (done_ok (w := z) (rs := [(11, 5), (28, 4)]) hw (by simp only [rsvCheck, f11_5, f28_4, if_true]))

theorem bitAvail (d : Reg) : Statement (.bitAvail d) := by
  intro z hw h
  have hz : z = 27 + 117440512 + 64 * d.val := (Option.some.inj h).symm
  have bd := d.isLt
  have f0_6 : fld z 0 6 = 27 := by rw [hz, fld]; omega
  have f24_4 : fld z 24 4 = 7 := by rw [hz, fld]; omega
  have f11_5 : fld z 11 5 = 0 := by rw [hz, fld]; omega
  have f16_8 : fld z 16 8 = 0 := by rw [hz, fld]; omega
  have f28_4 : fld z 28 4 = 0 := by rw [hz, fld]; omega
  have rd : regAt z 6 = d := Fin.ext (by show fld z 6 5 = d.val; rw [hz, fld]; omega)
  refine ⟨?_, by rw [hz]; omega⟩
  refine (decode_eq f0_6).trans ?_
  show decBit z = _
  rw [decBit, f24_4, rd]
  exact (noCount_zero f16_8).trans (done_ok (w := z) (rs := [(11, 5), (28, 4)]) hw (by simp only [rsvCheck, f11_5, f28_4, if_true]))

theorem msgPut (a : Reg) : Statement (.msgPut a) := by
  intro z hw h
  have hz : z = 28 + 64 * 0 + 2048 * a.val + 65536 * 0 + 2097152 * (0) :=
    (Option.some.inj h).symm.trans (by omega)
  obtain ⟨f0_6, f6_5, f11_5, f16_5, hh⟩ := low_fields hz (by decide) (by decide) (a.isLt) (by decide)
  have f21_4 : fld z 21 4 = 0 := (hh 0 4).trans rfl
  have f25_7 : fld z 25 7 = 0 := (hh 4 7).trans rfl
  have ra : regAt z 11 = a := Fin.ext f11_5
  refine ⟨?_, by omega⟩
  refine (decode_eq f0_6).trans ?_
  show decMsg z = _
  rw [decMsg, f21_4, ra]
  exact done_ok (w := z) (rs := [(6, 5), (16, 5), (25, 7)]) hw (by simp only [rsvCheck, f6_5, f16_5, f25_7, if_true])

theorem msgSend (e : BitVec 4) (d : Reg) (a : Reg) (b : Reg) : Statement (.msgSend e d a b) := by
  intro z hw h
  have be := e.isLt
  have hz : z = 28 + 64 * d.val + 2048 * a.val + 65536 * b.val + 2097152 * (1 + 16 * e.toNat) :=
    (Option.some.inj h).symm.trans (by omega)
  obtain ⟨f0_6, f6_5, f11_5, f16_5, hh⟩ := low_fields hz (by decide) (d.isLt) (a.isLt) (b.isLt)
  have f21_4 : fld z 21 4 = 1 := (hh 0 4).trans (by rw [fld]; omega)
  have f29_3 : fld z 29 3 = 0 := (hh 8 3).trans (by rw [fld]; omega)
  have re : BitVec.ofNat 4 (fld z 25 4) = e := ofNat_eq ((hh 4 4).trans (by rw [fld]; omega))
  have rd : regAt z 6 = d := Fin.ext f6_5
  have ra : regAt z 11 = a := Fin.ext f11_5
  have rb : regAt z 16 = b := Fin.ext f16_5
  refine ⟨?_, by omega⟩
  refine (decode_eq f0_6).trans ?_
  show decMsg z = _
  rw [decMsg, f21_4, re, rd, ra, rb]
  exact done_ok (w := z) (rs := [(29, 3)]) hw (by simp only [rsvCheck, f29_3, if_true])

theorem msgRecv (e : BitVec 4) (d : Reg) (a : Reg) (b : Reg) : Statement (.msgRecv e d a b) := by
  intro z hw h
  have be := e.isLt
  have hz : z = 28 + 64 * d.val + 2048 * a.val + 65536 * b.val + 2097152 * (2 + 16 * e.toNat) :=
    (Option.some.inj h).symm.trans (by omega)
  obtain ⟨f0_6, f6_5, f11_5, f16_5, hh⟩ := low_fields hz (by decide) (d.isLt) (a.isLt) (b.isLt)
  have f21_4 : fld z 21 4 = 2 := (hh 0 4).trans (by rw [fld]; omega)
  have f29_3 : fld z 29 3 = 0 := (hh 8 3).trans (by rw [fld]; omega)
  have re : BitVec.ofNat 4 (fld z 25 4) = e := ofNat_eq ((hh 4 4).trans (by rw [fld]; omega))
  have rd : regAt z 6 = d := Fin.ext f6_5
  have ra : regAt z 11 = a := Fin.ext f11_5
  have rb : regAt z 16 = b := Fin.ext f16_5
  refine ⟨?_, by omega⟩
  refine (decode_eq f0_6).trans ?_
  show decMsg z = _
  rw [decMsg, f21_4, re, rd, ra, rb]
  exact done_ok (w := z) (rs := [(29, 3)]) hw (by simp only [rsvCheck, f29_3, if_true])

theorem msgWait (e : BitVec 4) (d : Reg) (a : Reg) : Statement (.msgWait e d a) := by
  intro z hw h
  have be := e.isLt
  have hz : z = 28 + 64 * d.val + 2048 * a.val + 65536 * 0 + 2097152 * (3 + 16 * e.toNat) :=
    (Option.some.inj h).symm.trans (by omega)
  obtain ⟨f0_6, f6_5, f11_5, f16_5, hh⟩ := low_fields hz (by decide) (d.isLt) (a.isLt) (by decide)
  have f21_4 : fld z 21 4 = 3 := (hh 0 4).trans (by rw [fld]; omega)
  have f29_3 : fld z 29 3 = 0 := (hh 8 3).trans (by rw [fld]; omega)
  have re : BitVec.ofNat 4 (fld z 25 4) = e := ofNat_eq ((hh 4 4).trans (by rw [fld]; omega))
  have rd : regAt z 6 = d := Fin.ext f6_5
  have ra : regAt z 11 = a := Fin.ext f11_5
  refine ⟨?_, by omega⟩
  refine (decode_eq f0_6).trans ?_
  show decMsg z = _
  rw [decMsg, f21_4, re, rd, ra]
  exact done_ok (w := z) (rs := [(16, 5), (29, 3)]) hw (by simp only [rsvCheck, f16_5, f29_3, if_true])

theorem msgAlt (e : BitVec 4) (d : Reg) (a : Reg) : Statement (.msgAlt e d a) := by
  intro z hw h
  have be := e.isLt
  have hz : z = 28 + 64 * d.val + 2048 * a.val + 65536 * 0 + 2097152 * (4 + 16 * e.toNat) :=
    (Option.some.inj h).symm.trans (by omega)
  obtain ⟨f0_6, f6_5, f11_5, f16_5, hh⟩ := low_fields hz (by decide) (d.isLt) (a.isLt) (by decide)
  have f21_4 : fld z 21 4 = 4 := (hh 0 4).trans (by rw [fld]; omega)
  have f29_3 : fld z 29 3 = 0 := (hh 8 3).trans (by rw [fld]; omega)
  have re : BitVec.ofNat 4 (fld z 25 4) = e := ofNat_eq ((hh 4 4).trans (by rw [fld]; omega))
  have rd : regAt z 6 = d := Fin.ext f6_5
  have ra : regAt z 11 = a := Fin.ext f11_5
  refine ⟨?_, by omega⟩
  refine (decode_eq f0_6).trans ?_
  show decMsg z = _
  rw [decMsg, f21_4, re, rd, ra]
  exact done_ok (w := z) (rs := [(16, 5), (29, 3)]) hw (by simp only [rsvCheck, f16_5, f29_3, if_true])

theorem msgGrant (d : Reg) (a : Reg) (b : Reg) : Statement (.msgGrant d a b) := by
  intro z hw h
  have hz : z = 28 + 64 * d.val + 2048 * a.val + 65536 * b.val + 2097152 * (5) :=
    (Option.some.inj h).symm.trans (by omega)
  obtain ⟨f0_6, f6_5, f11_5, f16_5, hh⟩ := low_fields hz (by decide) (d.isLt) (a.isLt) (b.isLt)
  have f21_4 : fld z 21 4 = 5 := (hh 0 4).trans rfl
  have f25_7 : fld z 25 7 = 0 := (hh 4 7).trans rfl
  have rd : regAt z 6 = d := Fin.ext f6_5
  have ra : regAt z 11 = a := Fin.ext f11_5
  have rb : regAt z 16 = b := Fin.ext f16_5
  refine ⟨?_, by omega⟩
  refine (decode_eq f0_6).trans ?_
  show decMsg z = _
  rw [decMsg, f21_4, rd, ra, rb]
  exact done_ok (w := z) (rs := [(25, 7)]) hw (by simp only [rsvCheck, f25_7, if_true])

theorem msgDrop : Statement (.msgDrop) := by
  intro z hw h
  have hz : z = 28 + 64 * 0 + 2048 * 0 + 65536 * 0 + 2097152 * (6) :=
    (Option.some.inj h).symm.trans (by omega)
  obtain ⟨f0_6, f6_5, f11_5, f16_5, hh⟩ := low_fields hz (by decide) (by decide) (by decide) (by decide)
  have f21_4 : fld z 21 4 = 6 := (hh 0 4).trans rfl
  have f6_15 : fld z 6 15 = 0 := by rw [hz, fld]; omega
  have f25_7 : fld z 25 7 = 0 := (hh 4 7).trans rfl
  refine ⟨?_, by omega⟩
  refine (decode_eq f0_6).trans ?_
  show decMsg z = _
  rw [decMsg, f21_4]
  exact done_ok (w := z) (rs := [(6, 15), (25, 7)]) hw (by simp only [rsvCheck, f6_15, f25_7, if_true])

theorem cpySlot (d : Reg) (a : Reg) (b : Reg) : Statement (.cpySlot d a b) := by
  intro z hw h
  have hz : z = 29 + 64 * d.val + 2048 * a.val + 65536 * b.val + 2097152 * (0) :=
    (Option.some.inj h).symm.trans (by omega)
  obtain ⟨f0_6, f6_5, f11_5, f16_5, hh⟩ := low_fields hz (by decide) (d.isLt) (a.isLt) (b.isLt)
  have f21_4 : fld z 21 4 = 0 := (hh 0 4).trans rfl
  have f25_7 : fld z 25 7 = 0 := (hh 4 7).trans rfl
  have rd : regAt z 6 = d := Fin.ext f6_5
  have ra : regAt z 11 = a := Fin.ext f11_5
  have rb : regAt z 16 = b := Fin.ext f16_5
  refine ⟨?_, by omega⟩
  refine (decode_eq f0_6).trans ?_
  show decCpy z = _
  rw [decCpy, f21_4, rd, ra, rb]
  exact done_ok (w := z) (rs := [(25, 7)]) hw (by simp only [rsvCheck, f25_7, if_true])

theorem cpyIn (e : BitVec 4) (d : Reg) (a : Reg) (b : Reg) : Statement (.cpyIn e d a b) := by
  intro z hw h
  have be := e.isLt
  have hz : z = 29 + 64 * d.val + 2048 * a.val + 65536 * b.val + 2097152 * (1 + 16 * e.toNat) :=
    (Option.some.inj h).symm.trans (by omega)
  obtain ⟨f0_6, f6_5, f11_5, f16_5, hh⟩ := low_fields hz (by decide) (d.isLt) (a.isLt) (b.isLt)
  have f21_4 : fld z 21 4 = 1 := (hh 0 4).trans (by rw [fld]; omega)
  have f29_3 : fld z 29 3 = 0 := (hh 8 3).trans (by rw [fld]; omega)
  have re : BitVec.ofNat 4 (fld z 25 4) = e := ofNat_eq ((hh 4 4).trans (by rw [fld]; omega))
  have rd : regAt z 6 = d := Fin.ext f6_5
  have ra : regAt z 11 = a := Fin.ext f11_5
  have rb : regAt z 16 = b := Fin.ext f16_5
  refine ⟨?_, by omega⟩
  refine (decode_eq f0_6).trans ?_
  show decCpy z = _
  rw [decCpy, f21_4, re, rd, ra, rb]
  exact done_ok (w := z) (rs := [(29, 3)]) hw (by simp only [rsvCheck, f29_3, if_true])

theorem cpyOut (e : BitVec 4) (d : Reg) (a : Reg) (b : Reg) : Statement (.cpyOut e d a b) := by
  intro z hw h
  have be := e.isLt
  have hz : z = 29 + 64 * d.val + 2048 * a.val + 65536 * b.val + 2097152 * (2 + 16 * e.toNat) :=
    (Option.some.inj h).symm.trans (by omega)
  obtain ⟨f0_6, f6_5, f11_5, f16_5, hh⟩ := low_fields hz (by decide) (d.isLt) (a.isLt) (b.isLt)
  have f21_4 : fld z 21 4 = 2 := (hh 0 4).trans (by rw [fld]; omega)
  have f29_3 : fld z 29 3 = 0 := (hh 8 3).trans (by rw [fld]; omega)
  have re : BitVec.ofNat 4 (fld z 25 4) = e := ofNat_eq ((hh 4 4).trans (by rw [fld]; omega))
  have rd : regAt z 6 = d := Fin.ext f6_5
  have ra : regAt z 11 = a := Fin.ext f11_5
  have rb : regAt z 16 = b := Fin.ext f16_5
  refine ⟨?_, by omega⟩
  refine (decode_eq f0_6).trans ?_
  show decCpy z = _
  rw [decCpy, f21_4, re, rd, ra, rb]
  exact done_ok (w := z) (rs := [(29, 3)]) hw (by simp only [rsvCheck, f29_3, if_true])

theorem cpyFree (d : Reg) (a : Reg) : Statement (.cpyFree d a) := by
  intro z hw h
  have hz : z = 29 + 64 * d.val + 2048 * a.val + 65536 * 0 + 2097152 * (3) :=
    (Option.some.inj h).symm.trans (by omega)
  obtain ⟨f0_6, f6_5, f11_5, f16_5, hh⟩ := low_fields hz (by decide) (d.isLt) (a.isLt) (by decide)
  have f21_4 : fld z 21 4 = 3 := (hh 0 4).trans rfl
  have f25_7 : fld z 25 7 = 0 := (hh 4 7).trans rfl
  have rd : regAt z 6 = d := Fin.ext f6_5
  have ra : regAt z 11 = a := Fin.ext f11_5
  refine ⟨?_, by omega⟩
  refine (decode_eq f0_6).trans ?_
  show decCpy z = _
  rw [decCpy, f21_4, rd, ra]
  exact done_ok (w := z) (rs := [(16, 5), (25, 7)]) hw (by simp only [rsvCheck, f16_5, f25_7, if_true])

theorem cpyPin (d : Reg) (a : Reg) (b : Reg) : Statement (.cpyPin d a b) := by
  intro z hw h
  have hz : z = 29 + 64 * d.val + 2048 * a.val + 65536 * b.val + 2097152 * (4) :=
    (Option.some.inj h).symm.trans (by omega)
  obtain ⟨f0_6, f6_5, f11_5, f16_5, hh⟩ := low_fields hz (by decide) (d.isLt) (a.isLt) (b.isLt)
  have f21_4 : fld z 21 4 = 4 := (hh 0 4).trans rfl
  have f25_7 : fld z 25 7 = 0 := (hh 4 7).trans rfl
  have rd : regAt z 6 = d := Fin.ext f6_5
  have ra : regAt z 11 = a := Fin.ext f11_5
  have rb : regAt z 16 = b := Fin.ext f16_5
  refine ⟨?_, by omega⟩
  refine (decode_eq f0_6).trans ?_
  show decCpy z = _
  rw [decCpy, f21_4, rd, ra, rb]
  exact done_ok (w := z) (rs := [(25, 7)]) hw (by simp only [rsvCheck, f25_7, if_true])

theorem cpyUnpin (d : Reg) (a : Reg) : Statement (.cpyUnpin d a) := by
  intro z hw h
  have hz : z = 29 + 64 * d.val + 2048 * a.val + 65536 * 0 + 2097152 * (5) :=
    (Option.some.inj h).symm.trans (by omega)
  obtain ⟨f0_6, f6_5, f11_5, f16_5, hh⟩ := low_fields hz (by decide) (d.isLt) (a.isLt) (by decide)
  have f21_4 : fld z 21 4 = 5 := (hh 0 4).trans rfl
  have f25_7 : fld z 25 7 = 0 := (hh 4 7).trans rfl
  have rd : regAt z 6 = d := Fin.ext f6_5
  have ra : regAt z 11 = a := Fin.ext f11_5
  refine ⟨?_, by omega⟩
  refine (decode_eq f0_6).trans ?_
  show decCpy z = _
  rw [decCpy, f21_4, rd, ra]
  exact done_ok (w := z) (rs := [(16, 5), (25, 7)]) hw (by simp only [rsvCheck, f16_5, f25_7, if_true])

theorem tilOpen (e : BitVec 4) (d : Reg) (a : Reg) : Statement (.tilOpen e d a) := by
  intro z hw h
  have be := e.isLt
  have hz : z = 30 + 64 * d.val + 2048 * a.val + 65536 * 0 + 2097152 * (16 * e.toNat) :=
    (Option.some.inj h).symm.trans (by omega)
  obtain ⟨f0_6, f6_5, f11_5, f16_5, hh⟩ := low_fields hz (by decide) (d.isLt) (a.isLt) (by decide)
  have f21_4 : fld z 21 4 = 0 := (hh 0 4).trans (by rw [fld]; omega)
  have f29_3 : fld z 29 3 = 0 := (hh 8 3).trans (by rw [fld]; omega)
  have re : BitVec.ofNat 4 (fld z 25 4) = e := ofNat_eq ((hh 4 4).trans (by rw [fld]; omega))
  have rd : regAt z 6 = d := Fin.ext f6_5
  have ra : regAt z 11 = a := Fin.ext f11_5
  refine ⟨?_, by omega⟩
  refine (decode_eq f0_6).trans ?_
  show decTil z = _
  rw [decTil, f21_4, re, rd, ra]
  exact done_ok (w := z) (rs := [(16, 5), (29, 3)]) hw (by simp only [rsvCheck, f16_5, f29_3, if_true])

theorem tilClose (d : Reg) (a : Reg) : Statement (.tilClose d a) := by
  intro z hw h
  have hz : z = 30 + 64 * d.val + 2048 * a.val + 65536 * 0 + 2097152 * (1) :=
    (Option.some.inj h).symm.trans (by omega)
  obtain ⟨f0_6, f6_5, f11_5, f16_5, hh⟩ := low_fields hz (by decide) (d.isLt) (a.isLt) (by decide)
  have f21_4 : fld z 21 4 = 1 := (hh 0 4).trans rfl
  have f25_7 : fld z 25 7 = 0 := (hh 4 7).trans rfl
  have rd : regAt z 6 = d := Fin.ext f6_5
  have ra : regAt z 11 = a := Fin.ext f11_5
  refine ⟨?_, by omega⟩
  refine (decode_eq f0_6).trans ?_
  show decTil z = _
  rw [decTil, f21_4, rd, ra]
  exact done_ok (w := z) (rs := [(16, 5), (25, 7)]) hw (by simp only [rsvCheck, f16_5, f25_7, if_true])

theorem tilAcq (x : AcqMode) (e : BitVec 4) (d : Reg) (a : Reg) (b : Reg) : Statement (.tilAcq x e d a b) := by
  intro z hw h
  have bx : x.code ≤ 3 := AcqMode.code_le x
  have be := e.isLt
  have hz : z = 30 + 64 * d.val + 2048 * a.val + 65536 * b.val + 2097152 * (2 + 256 * x.code + 16 * e.toNat) :=
    (Option.some.inj h).symm.trans (by omega)
  obtain ⟨f0_6, f6_5, f11_5, f16_5, hh⟩ := low_fields hz (by decide) (d.isLt) (a.isLt) (b.isLt)
  have f21_4 : fld z 21 4 = 2 := (hh 0 4).trans (by rw [fld]; omega)
  have rx : AcqMode.ofCode (fld z 29 3) = some x := by
    rw [(hh 8 3).trans (show _ = x.code by rw [fld]; omega)]; exact AcqMode.ofCode_code x
  have re : BitVec.ofNat 4 (fld z 25 4) = e := ofNat_eq ((hh 4 4).trans (by rw [fld]; omega))
  have rd : regAt z 6 = d := Fin.ext f6_5
  have ra : regAt z 11 = a := Fin.ext f11_5
  have rb : regAt z 16 = b := Fin.ext f16_5
  refine ⟨?_, by omega⟩
  refine (decode_eq f0_6).trans ?_
  show decTil z = _
  rw [decTil, f21_4, rx, re, rd, ra, rb]
  exact done_ok (w := z) (rs := []) hw rfl

theorem tilRel (d : Reg) (a : Reg) (b : Reg) : Statement (.tilRel d a b) := by
  intro z hw h
  have hz : z = 30 + 64 * d.val + 2048 * a.val + 65536 * b.val + 2097152 * (3) :=
    (Option.some.inj h).symm.trans (by omega)
  obtain ⟨f0_6, f6_5, f11_5, f16_5, hh⟩ := low_fields hz (by decide) (d.isLt) (a.isLt) (b.isLt)
  have f21_4 : fld z 21 4 = 3 := (hh 0 4).trans rfl
  have f25_7 : fld z 25 7 = 0 := (hh 4 7).trans rfl
  have rd : regAt z 6 = d := Fin.ext f6_5
  have ra : regAt z 11 = a := Fin.ext f11_5
  have rb : regAt z 16 = b := Fin.ext f16_5
  refine ⟨?_, by omega⟩
  refine (decode_eq f0_6).trans ?_
  show decTil z = _
  rw [decTil, f21_4, rd, ra, rb]
  exact done_ok (w := z) (rs := [(25, 7)]) hw (by simp only [rsvCheck, f25_7, if_true])

theorem tilGet (d : Reg) (a : Reg) (b : Reg) : Statement (.tilGet d a b) := by
  intro z hw h
  have hz : z = 30 + 64 * d.val + 2048 * a.val + 65536 * b.val + 2097152 * (4) :=
    (Option.some.inj h).symm.trans (by omega)
  obtain ⟨f0_6, f6_5, f11_5, f16_5, hh⟩ := low_fields hz (by decide) (d.isLt) (a.isLt) (b.isLt)
  have f21_4 : fld z 21 4 = 4 := (hh 0 4).trans rfl
  have f25_7 : fld z 25 7 = 0 := (hh 4 7).trans rfl
  have rd : regAt z 6 = d := Fin.ext f6_5
  have ra : regAt z 11 = a := Fin.ext f11_5
  have rb : regAt z 16 = b := Fin.ext f16_5
  refine ⟨?_, by omega⟩
  refine (decode_eq f0_6).trans ?_
  show decTil z = _
  rw [decTil, f21_4, rd, ra, rb]
  exact done_ok (w := z) (rs := [(25, 7)]) hw (by simp only [rsvCheck, f25_7, if_true])

theorem tilPut (d : Reg) (a : Reg) (b : Reg) : Statement (.tilPut d a b) := by
  intro z hw h
  have hz : z = 30 + 64 * d.val + 2048 * a.val + 65536 * b.val + 2097152 * (5) :=
    (Option.some.inj h).symm.trans (by omega)
  obtain ⟨f0_6, f6_5, f11_5, f16_5, hh⟩ := low_fields hz (by decide) (d.isLt) (a.isLt) (b.isLt)
  have f21_4 : fld z 21 4 = 5 := (hh 0 4).trans rfl
  have f25_7 : fld z 25 7 = 0 := (hh 4 7).trans rfl
  have rd : regAt z 6 = d := Fin.ext f6_5
  have ra : regAt z 11 = a := Fin.ext f11_5
  have rb : regAt z 16 = b := Fin.ext f16_5
  refine ⟨?_, by omega⟩
  refine (decode_eq f0_6).trans ?_
  show decTil z = _
  rw [decTil, f21_4, rd, ra, rb]
  exact done_ok (w := z) (rs := [(25, 7)]) hw (by simp only [rsvCheck, f25_7, if_true])

theorem xpfSnap (d : Reg) (a : Reg) : Statement (.xpfSnap d a) := by
  intro z hw h
  have hz : z = 31 + 64 * d.val + 2048 * a.val + 65536 * 0 + 2097152 * (0) :=
    (Option.some.inj h).symm.trans (by omega)
  obtain ⟨f0_6, f6_5, f11_5, f16_5, hh⟩ := low_fields hz (by decide) (d.isLt) (a.isLt) (by decide)
  have f21_4 : fld z 21 4 = 0 := (hh 0 4).trans rfl
  have f25_7 : fld z 25 7 = 0 := (hh 4 7).trans rfl
  have rd : regAt z 6 = d := Fin.ext f6_5
  have ra : regAt z 11 = a := Fin.ext f11_5
  refine ⟨?_, by omega⟩
  refine (decode_eq f0_6).trans ?_
  show decXpf z = _
  rw [decXpf, f21_4, rd, ra]
  exact done_ok (w := z) (rs := [(16, 5), (25, 7)]) hw (by simp only [rsvCheck, f16_5, f25_7, if_true])

theorem xpfReq (d : Reg) (a : Reg) (b : Reg) : Statement (.xpfReq d a b) := by
  intro z hw h
  have hz : z = 31 + 64 * d.val + 2048 * a.val + 65536 * b.val + 2097152 * (1) :=
    (Option.some.inj h).symm.trans (by omega)
  obtain ⟨f0_6, f6_5, f11_5, f16_5, hh⟩ := low_fields hz (by decide) (d.isLt) (a.isLt) (b.isLt)
  have f21_4 : fld z 21 4 = 1 := (hh 0 4).trans rfl
  have f25_7 : fld z 25 7 = 0 := (hh 4 7).trans rfl
  have rd : regAt z 6 = d := Fin.ext f6_5
  have ra : regAt z 11 = a := Fin.ext f11_5
  have rb : regAt z 16 = b := Fin.ext f16_5
  refine ⟨?_, by omega⟩
  refine (decode_eq f0_6).trans ?_
  show decXpf z = _
  rw [decXpf, f21_4, rd, ra, rb]
  exact done_ok (w := z) (rs := [(25, 7)]) hw (by simp only [rsvCheck, f25_7, if_true])

theorem xpfCancel (d : Reg) (a : Reg) : Statement (.xpfCancel d a) := by
  intro z hw h
  have hz : z = 31 + 64 * d.val + 2048 * a.val + 65536 * 0 + 2097152 * (2) :=
    (Option.some.inj h).symm.trans (by omega)
  obtain ⟨f0_6, f6_5, f11_5, f16_5, hh⟩ := low_fields hz (by decide) (d.isLt) (a.isLt) (by decide)
  have f21_4 : fld z 21 4 = 2 := (hh 0 4).trans rfl
  have f25_7 : fld z 25 7 = 0 := (hh 4 7).trans rfl
  have rd : regAt z 6 = d := Fin.ext f6_5
  have ra : regAt z 11 = a := Fin.ext f11_5
  refine ⟨?_, by omega⟩
  refine (decode_eq f0_6).trans ?_
  show decXpf z = _
  rw [decXpf, f21_4, rd, ra]
  exact done_ok (w := z) (rs := [(16, 5), (25, 7)]) hw (by simp only [rsvCheck, f16_5, f25_7, if_true])

theorem vfpAdd (ty : FTy) (m : MReg) (d : Reg) (a : Reg) (b : Reg) : Statement (.vfpAdd ty m d a b) := by
  intro z hw h
  have bty : ty.code ≤ 2 := FTy.code_le ty
  have bm := m.isLt
  have hz : z = 32 + 64 * d.val + 2048 * a.val + 65536 * b.val + 2097152 * (512 * ty.code + 64 * m.val) :=
    (Option.some.inj h).symm.trans (by omega)
  obtain ⟨f0_6, f6_5, f11_5, f16_5, hh⟩ := low_fields hz (by decide) (d.isLt) (a.isLt) (b.isLt)
  have f21_6 : fld z 21 6 = 0 := (hh 0 6).trans (by rw [fld]; omega)
  have rty : FTy.ofCode (fld z 30 2) = some ty := by
    rw [(hh 9 2).trans (show _ = ty.code by rw [fld]; omega)]; exact FTy.ofCode_code ty
  have rm : mregAt z 27 = m := Fin.ext ((hh 6 3).trans (by rw [fld]; omega))
  have rd : regAt z 6 = d := Fin.ext f6_5
  have ra : regAt z 11 = a := Fin.ext f11_5
  have rb : regAt z 16 = b := Fin.ext f16_5
  refine ⟨?_, by omega⟩
  refine (decode_eq f0_6).trans ?_
  show decVfp z = _
  rw [decVfp, f21_6, rty, rm, rd, ra, rb]
  exact done_ok (w := z) (rs := []) hw rfl

theorem vfpSub (ty : FTy) (m : MReg) (d : Reg) (a : Reg) (b : Reg) : Statement (.vfpSub ty m d a b) := by
  intro z hw h
  have bty : ty.code ≤ 2 := FTy.code_le ty
  have bm := m.isLt
  have hz : z = 32 + 64 * d.val + 2048 * a.val + 65536 * b.val + 2097152 * (1 + 512 * ty.code + 64 * m.val) :=
    (Option.some.inj h).symm.trans (by omega)
  obtain ⟨f0_6, f6_5, f11_5, f16_5, hh⟩ := low_fields hz (by decide) (d.isLt) (a.isLt) (b.isLt)
  have f21_6 : fld z 21 6 = 1 := (hh 0 6).trans (by rw [fld]; omega)
  have rty : FTy.ofCode (fld z 30 2) = some ty := by
    rw [(hh 9 2).trans (show _ = ty.code by rw [fld]; omega)]; exact FTy.ofCode_code ty
  have rm : mregAt z 27 = m := Fin.ext ((hh 6 3).trans (by rw [fld]; omega))
  have rd : regAt z 6 = d := Fin.ext f6_5
  have ra : regAt z 11 = a := Fin.ext f11_5
  have rb : regAt z 16 = b := Fin.ext f16_5
  refine ⟨?_, by omega⟩
  refine (decode_eq f0_6).trans ?_
  show decVfp z = _
  rw [decVfp, f21_6, rty, rm, rd, ra, rb]
  exact done_ok (w := z) (rs := []) hw rfl

theorem vfpMul (ty : FTy) (m : MReg) (d : Reg) (a : Reg) (b : Reg) : Statement (.vfpMul ty m d a b) := by
  intro z hw h
  have bty : ty.code ≤ 2 := FTy.code_le ty
  have bm := m.isLt
  have hz : z = 32 + 64 * d.val + 2048 * a.val + 65536 * b.val + 2097152 * (2 + 512 * ty.code + 64 * m.val) :=
    (Option.some.inj h).symm.trans (by omega)
  obtain ⟨f0_6, f6_5, f11_5, f16_5, hh⟩ := low_fields hz (by decide) (d.isLt) (a.isLt) (b.isLt)
  have f21_6 : fld z 21 6 = 2 := (hh 0 6).trans (by rw [fld]; omega)
  have rty : FTy.ofCode (fld z 30 2) = some ty := by
    rw [(hh 9 2).trans (show _ = ty.code by rw [fld]; omega)]; exact FTy.ofCode_code ty
  have rm : mregAt z 27 = m := Fin.ext ((hh 6 3).trans (by rw [fld]; omega))
  have rd : regAt z 6 = d := Fin.ext f6_5
  have ra : regAt z 11 = a := Fin.ext f11_5
  have rb : regAt z 16 = b := Fin.ext f16_5
  refine ⟨?_, by omega⟩
  refine (decode_eq f0_6).trans ?_
  show decVfp z = _
  rw [decVfp, f21_6, rty, rm, rd, ra, rb]
  exact done_ok (w := z) (rs := []) hw rfl

theorem vfpDiv (ty : FTy) (m : MReg) (d : Reg) (a : Reg) (b : Reg) : Statement (.vfpDiv ty m d a b) := by
  intro z hw h
  have bty : ty.code ≤ 2 := FTy.code_le ty
  have bm := m.isLt
  have hz : z = 32 + 64 * d.val + 2048 * a.val + 65536 * b.val + 2097152 * (3 + 512 * ty.code + 64 * m.val) :=
    (Option.some.inj h).symm.trans (by omega)
  obtain ⟨f0_6, f6_5, f11_5, f16_5, hh⟩ := low_fields hz (by decide) (d.isLt) (a.isLt) (b.isLt)
  have f21_6 : fld z 21 6 = 3 := (hh 0 6).trans (by rw [fld]; omega)
  have rty : FTy.ofCode (fld z 30 2) = some ty := by
    rw [(hh 9 2).trans (show _ = ty.code by rw [fld]; omega)]; exact FTy.ofCode_code ty
  have rm : mregAt z 27 = m := Fin.ext ((hh 6 3).trans (by rw [fld]; omega))
  have rd : regAt z 6 = d := Fin.ext f6_5
  have ra : regAt z 11 = a := Fin.ext f11_5
  have rb : regAt z 16 = b := Fin.ext f16_5
  refine ⟨?_, by omega⟩
  refine (decode_eq f0_6).trans ?_
  show decVfp z = _
  rw [decVfp, f21_6, rty, rm, rd, ra, rb]
  exact done_ok (w := z) (rs := []) hw rfl

theorem vfpSqrt (ty : FTy) (m : MReg) (d : Reg) (a : Reg) : Statement (.vfpSqrt ty m d a) := by
  intro z hw h
  have bty : ty.code ≤ 2 := FTy.code_le ty
  have bm := m.isLt
  have hz : z = 32 + 64 * d.val + 2048 * a.val + 65536 * 0 + 2097152 * (4 + 512 * ty.code + 64 * m.val) :=
    (Option.some.inj h).symm.trans (by omega)
  obtain ⟨f0_6, f6_5, f11_5, f16_5, hh⟩ := low_fields hz (by decide) (d.isLt) (a.isLt) (by decide)
  have f21_6 : fld z 21 6 = 4 := (hh 0 6).trans (by rw [fld]; omega)
  have rty : FTy.ofCode (fld z 30 2) = some ty := by
    rw [(hh 9 2).trans (show _ = ty.code by rw [fld]; omega)]; exact FTy.ofCode_code ty
  have rm : mregAt z 27 = m := Fin.ext ((hh 6 3).trans (by rw [fld]; omega))
  have rd : regAt z 6 = d := Fin.ext f6_5
  have ra : regAt z 11 = a := Fin.ext f11_5
  refine ⟨?_, by omega⟩
  refine (decode_eq f0_6).trans ?_
  show decVfp z = _
  rw [decVfp, f21_6, rty, rm, rd, ra]
  exact done_ok (w := z) (rs := [(16, 5)]) hw (by simp only [rsvCheck, f16_5, if_true])

theorem vfpFma (ty : FTy) (m : MReg) (d : Reg) (a : Reg) (b : Reg) : Statement (.vfpFma ty m d a b) := by
  intro z hw h
  have bty : ty.code ≤ 2 := FTy.code_le ty
  have bm := m.isLt
  have hz : z = 32 + 64 * d.val + 2048 * a.val + 65536 * b.val + 2097152 * (5 + 512 * ty.code + 64 * m.val) :=
    (Option.some.inj h).symm.trans (by omega)
  obtain ⟨f0_6, f6_5, f11_5, f16_5, hh⟩ := low_fields hz (by decide) (d.isLt) (a.isLt) (b.isLt)
  have f21_6 : fld z 21 6 = 5 := (hh 0 6).trans (by rw [fld]; omega)
  have rty : FTy.ofCode (fld z 30 2) = some ty := by
    rw [(hh 9 2).trans (show _ = ty.code by rw [fld]; omega)]; exact FTy.ofCode_code ty
  have rm : mregAt z 27 = m := Fin.ext ((hh 6 3).trans (by rw [fld]; omega))
  have rd : regAt z 6 = d := Fin.ext f6_5
  have ra : regAt z 11 = a := Fin.ext f11_5
  have rb : regAt z 16 = b := Fin.ext f16_5
  refine ⟨?_, by omega⟩
  refine (decode_eq f0_6).trans ?_
  show decVfp z = _
  rw [decVfp, f21_6, rty, rm, rd, ra, rb]
  exact done_ok (w := z) (rs := []) hw rfl

theorem vfpFms (ty : FTy) (m : MReg) (d : Reg) (a : Reg) (b : Reg) : Statement (.vfpFms ty m d a b) := by
  intro z hw h
  have bty : ty.code ≤ 2 := FTy.code_le ty
  have bm := m.isLt
  have hz : z = 32 + 64 * d.val + 2048 * a.val + 65536 * b.val + 2097152 * (6 + 512 * ty.code + 64 * m.val) :=
    (Option.some.inj h).symm.trans (by omega)
  obtain ⟨f0_6, f6_5, f11_5, f16_5, hh⟩ := low_fields hz (by decide) (d.isLt) (a.isLt) (b.isLt)
  have f21_6 : fld z 21 6 = 6 := (hh 0 6).trans (by rw [fld]; omega)
  have rty : FTy.ofCode (fld z 30 2) = some ty := by
    rw [(hh 9 2).trans (show _ = ty.code by rw [fld]; omega)]; exact FTy.ofCode_code ty
  have rm : mregAt z 27 = m := Fin.ext ((hh 6 3).trans (by rw [fld]; omega))
  have rd : regAt z 6 = d := Fin.ext f6_5
  have ra : regAt z 11 = a := Fin.ext f11_5
  have rb : regAt z 16 = b := Fin.ext f16_5
  refine ⟨?_, by omega⟩
  refine (decode_eq f0_6).trans ?_
  show decVfp z = _
  rw [decVfp, f21_6, rty, rm, rd, ra, rb]
  exact done_ok (w := z) (rs := []) hw rfl

theorem vfpFnma (ty : FTy) (m : MReg) (d : Reg) (a : Reg) (b : Reg) : Statement (.vfpFnma ty m d a b) := by
  intro z hw h
  have bty : ty.code ≤ 2 := FTy.code_le ty
  have bm := m.isLt
  have hz : z = 32 + 64 * d.val + 2048 * a.val + 65536 * b.val + 2097152 * (7 + 512 * ty.code + 64 * m.val) :=
    (Option.some.inj h).symm.trans (by omega)
  obtain ⟨f0_6, f6_5, f11_5, f16_5, hh⟩ := low_fields hz (by decide) (d.isLt) (a.isLt) (b.isLt)
  have f21_6 : fld z 21 6 = 7 := (hh 0 6).trans (by rw [fld]; omega)
  have rty : FTy.ofCode (fld z 30 2) = some ty := by
    rw [(hh 9 2).trans (show _ = ty.code by rw [fld]; omega)]; exact FTy.ofCode_code ty
  have rm : mregAt z 27 = m := Fin.ext ((hh 6 3).trans (by rw [fld]; omega))
  have rd : regAt z 6 = d := Fin.ext f6_5
  have ra : regAt z 11 = a := Fin.ext f11_5
  have rb : regAt z 16 = b := Fin.ext f16_5
  refine ⟨?_, by omega⟩
  refine (decode_eq f0_6).trans ?_
  show decVfp z = _
  rw [decVfp, f21_6, rty, rm, rd, ra, rb]
  exact done_ok (w := z) (rs := []) hw rfl

theorem vfpMin (ty : FTy) (m : MReg) (d : Reg) (a : Reg) (b : Reg) : Statement (.vfpMin ty m d a b) := by
  intro z hw h
  have bty : ty.code ≤ 2 := FTy.code_le ty
  have bm := m.isLt
  have hz : z = 32 + 64 * d.val + 2048 * a.val + 65536 * b.val + 2097152 * (8 + 512 * ty.code + 64 * m.val) :=
    (Option.some.inj h).symm.trans (by omega)
  obtain ⟨f0_6, f6_5, f11_5, f16_5, hh⟩ := low_fields hz (by decide) (d.isLt) (a.isLt) (b.isLt)
  have f21_6 : fld z 21 6 = 8 := (hh 0 6).trans (by rw [fld]; omega)
  have rty : FTy.ofCode (fld z 30 2) = some ty := by
    rw [(hh 9 2).trans (show _ = ty.code by rw [fld]; omega)]; exact FTy.ofCode_code ty
  have rm : mregAt z 27 = m := Fin.ext ((hh 6 3).trans (by rw [fld]; omega))
  have rd : regAt z 6 = d := Fin.ext f6_5
  have ra : regAt z 11 = a := Fin.ext f11_5
  have rb : regAt z 16 = b := Fin.ext f16_5
  refine ⟨?_, by omega⟩
  refine (decode_eq f0_6).trans ?_
  show decVfp z = _
  rw [decVfp, f21_6, rty, rm, rd, ra, rb]
  exact done_ok (w := z) (rs := []) hw rfl

theorem vfpMax (ty : FTy) (m : MReg) (d : Reg) (a : Reg) (b : Reg) : Statement (.vfpMax ty m d a b) := by
  intro z hw h
  have bty : ty.code ≤ 2 := FTy.code_le ty
  have bm := m.isLt
  have hz : z = 32 + 64 * d.val + 2048 * a.val + 65536 * b.val + 2097152 * (9 + 512 * ty.code + 64 * m.val) :=
    (Option.some.inj h).symm.trans (by omega)
  obtain ⟨f0_6, f6_5, f11_5, f16_5, hh⟩ := low_fields hz (by decide) (d.isLt) (a.isLt) (b.isLt)
  have f21_6 : fld z 21 6 = 9 := (hh 0 6).trans (by rw [fld]; omega)
  have rty : FTy.ofCode (fld z 30 2) = some ty := by
    rw [(hh 9 2).trans (show _ = ty.code by rw [fld]; omega)]; exact FTy.ofCode_code ty
  have rm : mregAt z 27 = m := Fin.ext ((hh 6 3).trans (by rw [fld]; omega))
  have rd : regAt z 6 = d := Fin.ext f6_5
  have ra : regAt z 11 = a := Fin.ext f11_5
  have rb : regAt z 16 = b := Fin.ext f16_5
  refine ⟨?_, by omega⟩
  refine (decode_eq f0_6).trans ?_
  show decVfp z = _
  rw [decVfp, f21_6, rty, rm, rd, ra, rb]
  exact done_ok (w := z) (rs := []) hw rfl

theorem vfpAbs (ty : FTy) (m : MReg) (d : Reg) (a : Reg) : Statement (.vfpAbs ty m d a) := by
  intro z hw h
  have bty : ty.code ≤ 2 := FTy.code_le ty
  have bm := m.isLt
  have hz : z = 32 + 64 * d.val + 2048 * a.val + 65536 * 0 + 2097152 * (10 + 512 * ty.code + 64 * m.val) :=
    (Option.some.inj h).symm.trans (by omega)
  obtain ⟨f0_6, f6_5, f11_5, f16_5, hh⟩ := low_fields hz (by decide) (d.isLt) (a.isLt) (by decide)
  have f21_6 : fld z 21 6 = 10 := (hh 0 6).trans (by rw [fld]; omega)
  have rty : FTy.ofCode (fld z 30 2) = some ty := by
    rw [(hh 9 2).trans (show _ = ty.code by rw [fld]; omega)]; exact FTy.ofCode_code ty
  have rm : mregAt z 27 = m := Fin.ext ((hh 6 3).trans (by rw [fld]; omega))
  have rd : regAt z 6 = d := Fin.ext f6_5
  have ra : regAt z 11 = a := Fin.ext f11_5
  refine ⟨?_, by omega⟩
  refine (decode_eq f0_6).trans ?_
  show decVfp z = _
  rw [decVfp, f21_6, rty, rm, rd, ra]
  exact done_ok (w := z) (rs := [(16, 5)]) hw (by simp only [rsvCheck, f16_5, if_true])

theorem vfpNeg (ty : FTy) (m : MReg) (d : Reg) (a : Reg) : Statement (.vfpNeg ty m d a) := by
  intro z hw h
  have bty : ty.code ≤ 2 := FTy.code_le ty
  have bm := m.isLt
  have hz : z = 32 + 64 * d.val + 2048 * a.val + 65536 * 0 + 2097152 * (11 + 512 * ty.code + 64 * m.val) :=
    (Option.some.inj h).symm.trans (by omega)
  obtain ⟨f0_6, f6_5, f11_5, f16_5, hh⟩ := low_fields hz (by decide) (d.isLt) (a.isLt) (by decide)
  have f21_6 : fld z 21 6 = 11 := (hh 0 6).trans (by rw [fld]; omega)
  have rty : FTy.ofCode (fld z 30 2) = some ty := by
    rw [(hh 9 2).trans (show _ = ty.code by rw [fld]; omega)]; exact FTy.ofCode_code ty
  have rm : mregAt z 27 = m := Fin.ext ((hh 6 3).trans (by rw [fld]; omega))
  have rd : regAt z 6 = d := Fin.ext f6_5
  have ra : regAt z 11 = a := Fin.ext f11_5
  refine ⟨?_, by omega⟩
  refine (decode_eq f0_6).trans ?_
  show decVfp z = _
  rw [decVfp, f21_6, rty, rm, rd, ra]
  exact done_ok (w := z) (rs := [(16, 5)]) hw (by simp only [rsvCheck, f16_5, if_true])

theorem vfpSgnj (ty : FTy) (m : MReg) (d : Reg) (a : Reg) (b : Reg) : Statement (.vfpSgnj ty m d a b) := by
  intro z hw h
  have bty : ty.code ≤ 2 := FTy.code_le ty
  have bm := m.isLt
  have hz : z = 32 + 64 * d.val + 2048 * a.val + 65536 * b.val + 2097152 * (12 + 512 * ty.code + 64 * m.val) :=
    (Option.some.inj h).symm.trans (by omega)
  obtain ⟨f0_6, f6_5, f11_5, f16_5, hh⟩ := low_fields hz (by decide) (d.isLt) (a.isLt) (b.isLt)
  have f21_6 : fld z 21 6 = 12 := (hh 0 6).trans (by rw [fld]; omega)
  have rty : FTy.ofCode (fld z 30 2) = some ty := by
    rw [(hh 9 2).trans (show _ = ty.code by rw [fld]; omega)]; exact FTy.ofCode_code ty
  have rm : mregAt z 27 = m := Fin.ext ((hh 6 3).trans (by rw [fld]; omega))
  have rd : regAt z 6 = d := Fin.ext f6_5
  have ra : regAt z 11 = a := Fin.ext f11_5
  have rb : regAt z 16 = b := Fin.ext f16_5
  refine ⟨?_, by omega⟩
  refine (decode_eq f0_6).trans ?_
  show decVfp z = _
  rw [decVfp, f21_6, rty, rm, rd, ra, rb]
  exact done_ok (w := z) (rs := []) hw rfl

theorem vfpCeq (m : MReg) (d : MReg) (a : Reg) (b : Reg) : Statement (.vfpCeq m d a b) := by
  intro z hw h
  have hz : z = 32 + 33554432 + 134217728 * m.val + 64 * d.val + 2048 * a.val + 65536 * b.val := (Option.some.inj h).symm
  have bm := m.isLt
  have bd := d.isLt
  have ba := a.isLt
  have bb := b.isLt
  have f0_6 : fld z 0 6 = 32 := by rw [hz, fld]; omega
  have f21_6 : fld z 21 6 = 16 := by rw [hz, fld]; omega
  have f30_2 : fld z 30 2 = 0 := by rw [hz, fld]; omega
  have f9_2 : fld z 9 2 = 0 := by rw [hz, fld]; omega
  have rm : mregAt z 27 = m := Fin.ext (by show fld z 27 3 = m.val; rw [hz, fld]; omega)
  have rd : mregAt z 6 = d := Fin.ext (by show fld z 6 3 = d.val; rw [hz, fld]; omega)
  have ra : regAt z 11 = a := Fin.ext (by show fld z 11 5 = a.val; rw [hz, fld]; omega)
  have rb : regAt z 16 = b := Fin.ext (by show fld z 16 5 = b.val; rw [hz, fld]; omega)
  refine ⟨?_, by rw [hz]; omega⟩
  refine (decode_eq f0_6).trans ?_
  show decVfp z = _
  rw [decVfp, f21_6, f30_2, rm, rd, ra, rb]
  exact done_ok (w := z) (rs := [(9, 2)]) hw (by simp only [rsvCheck, f9_2, if_true])

theorem vfpClt (m : MReg) (d : MReg) (a : Reg) (b : Reg) : Statement (.vfpClt m d a b) := by
  intro z hw h
  have hz : z = 32 + 35651584 + 134217728 * m.val + 64 * d.val + 2048 * a.val + 65536 * b.val := (Option.some.inj h).symm
  have bm := m.isLt
  have bd := d.isLt
  have ba := a.isLt
  have bb := b.isLt
  have f0_6 : fld z 0 6 = 32 := by rw [hz, fld]; omega
  have f21_6 : fld z 21 6 = 17 := by rw [hz, fld]; omega
  have f30_2 : fld z 30 2 = 0 := by rw [hz, fld]; omega
  have f9_2 : fld z 9 2 = 0 := by rw [hz, fld]; omega
  have rm : mregAt z 27 = m := Fin.ext (by show fld z 27 3 = m.val; rw [hz, fld]; omega)
  have rd : mregAt z 6 = d := Fin.ext (by show fld z 6 3 = d.val; rw [hz, fld]; omega)
  have ra : regAt z 11 = a := Fin.ext (by show fld z 11 5 = a.val; rw [hz, fld]; omega)
  have rb : regAt z 16 = b := Fin.ext (by show fld z 16 5 = b.val; rw [hz, fld]; omega)
  refine ⟨?_, by rw [hz]; omega⟩
  refine (decode_eq f0_6).trans ?_
  show decVfp z = _
  rw [decVfp, f21_6, f30_2, rm, rd, ra, rb]
  exact done_ok (w := z) (rs := [(9, 2)]) hw (by simp only [rsvCheck, f9_2, if_true])

theorem vfpCle (m : MReg) (d : MReg) (a : Reg) (b : Reg) : Statement (.vfpCle m d a b) := by
  intro z hw h
  have hz : z = 32 + 37748736 + 134217728 * m.val + 64 * d.val + 2048 * a.val + 65536 * b.val := (Option.some.inj h).symm
  have bm := m.isLt
  have bd := d.isLt
  have ba := a.isLt
  have bb := b.isLt
  have f0_6 : fld z 0 6 = 32 := by rw [hz, fld]; omega
  have f21_6 : fld z 21 6 = 18 := by rw [hz, fld]; omega
  have f30_2 : fld z 30 2 = 0 := by rw [hz, fld]; omega
  have f9_2 : fld z 9 2 = 0 := by rw [hz, fld]; omega
  have rm : mregAt z 27 = m := Fin.ext (by show fld z 27 3 = m.val; rw [hz, fld]; omega)
  have rd : mregAt z 6 = d := Fin.ext (by show fld z 6 3 = d.val; rw [hz, fld]; omega)
  have ra : regAt z 11 = a := Fin.ext (by show fld z 11 5 = a.val; rw [hz, fld]; omega)
  have rb : regAt z 16 = b := Fin.ext (by show fld z 16 5 = b.val; rw [hz, fld]; omega)
  refine ⟨?_, by rw [hz]; omega⟩
  refine (decode_eq f0_6).trans ?_
  show decVfp z = _
  rw [decVfp, f21_6, f30_2, rm, rd, ra, rb]
  exact done_ok (w := z) (rs := [(9, 2)]) hw (by simp only [rsvCheck, f9_2, if_true])

theorem vfpCun (m : MReg) (d : MReg) (a : Reg) (b : Reg) : Statement (.vfpCun m d a b) := by
  intro z hw h
  have hz : z = 32 + 39845888 + 134217728 * m.val + 64 * d.val + 2048 * a.val + 65536 * b.val := (Option.some.inj h).symm
  have bm := m.isLt
  have bd := d.isLt
  have ba := a.isLt
  have bb := b.isLt
  have f0_6 : fld z 0 6 = 32 := by rw [hz, fld]; omega
  have f21_6 : fld z 21 6 = 19 := by rw [hz, fld]; omega
  have f30_2 : fld z 30 2 = 0 := by rw [hz, fld]; omega
  have f9_2 : fld z 9 2 = 0 := by rw [hz, fld]; omega
  have rm : mregAt z 27 = m := Fin.ext (by show fld z 27 3 = m.val; rw [hz, fld]; omega)
  have rd : mregAt z 6 = d := Fin.ext (by show fld z 6 3 = d.val; rw [hz, fld]; omega)
  have ra : regAt z 11 = a := Fin.ext (by show fld z 11 5 = a.val; rw [hz, fld]; omega)
  have rb : regAt z 16 = b := Fin.ext (by show fld z 16 5 = b.val; rw [hz, fld]; omega)
  refine ⟨?_, by rw [hz]; omega⟩
  refine (decode_eq f0_6).trans ?_
  show decVfp z = _
  rw [decVfp, f21_6, f30_2, rm, rd, ra, rb]
  exact done_ok (w := z) (rs := [(9, 2)]) hw (by simp only [rsvCheck, f9_2, if_true])

theorem vintAdd (ty : ITy) (m : MReg) (d : Reg) (a : Reg) (b : Reg) : Statement (.vintAdd ty m d a b) := by
  intro z hw h
  have bty : ty.code ≤ 1 := ITy.code_le ty
  have bm := m.isLt
  have hz : z = 33 + 64 * d.val + 2048 * a.val + 65536 * b.val + 2097152 * (512 * ty.code + 64 * m.val) :=
    (Option.some.inj h).symm.trans (by omega)
  obtain ⟨f0_6, f6_5, f11_5, f16_5, hh⟩ := low_fields hz (by decide) (d.isLt) (a.isLt) (b.isLt)
  have f21_6 : fld z 21 6 = 0 := (hh 0 6).trans (by rw [fld]; omega)
  have rty : ITy.ofCode (fld z 30 2) = some ty := by
    rw [(hh 9 2).trans (show _ = ty.code by rw [fld]; omega)]; exact ITy.ofCode_code ty
  have rm : mregAt z 27 = m := Fin.ext ((hh 6 3).trans (by rw [fld]; omega))
  have rd : regAt z 6 = d := Fin.ext f6_5
  have ra : regAt z 11 = a := Fin.ext f11_5
  have rb : regAt z 16 = b := Fin.ext f16_5
  refine ⟨?_, by omega⟩
  refine (decode_eq f0_6).trans ?_
  show decVint z = _
  rw [decVint, f21_6, rty, rm, rd, ra, rb]
  exact done_ok (w := z) (rs := []) hw rfl

theorem vintSub (ty : ITy) (m : MReg) (d : Reg) (a : Reg) (b : Reg) : Statement (.vintSub ty m d a b) := by
  intro z hw h
  have bty : ty.code ≤ 1 := ITy.code_le ty
  have bm := m.isLt
  have hz : z = 33 + 64 * d.val + 2048 * a.val + 65536 * b.val + 2097152 * (1 + 512 * ty.code + 64 * m.val) :=
    (Option.some.inj h).symm.trans (by omega)
  obtain ⟨f0_6, f6_5, f11_5, f16_5, hh⟩ := low_fields hz (by decide) (d.isLt) (a.isLt) (b.isLt)
  have f21_6 : fld z 21 6 = 1 := (hh 0 6).trans (by rw [fld]; omega)
  have rty : ITy.ofCode (fld z 30 2) = some ty := by
    rw [(hh 9 2).trans (show _ = ty.code by rw [fld]; omega)]; exact ITy.ofCode_code ty
  have rm : mregAt z 27 = m := Fin.ext ((hh 6 3).trans (by rw [fld]; omega))
  have rd : regAt z 6 = d := Fin.ext f6_5
  have ra : regAt z 11 = a := Fin.ext f11_5
  have rb : regAt z 16 = b := Fin.ext f16_5
  refine ⟨?_, by omega⟩
  refine (decode_eq f0_6).trans ?_
  show decVint z = _
  rw [decVint, f21_6, rty, rm, rd, ra, rb]
  exact done_ok (w := z) (rs := []) hw rfl

theorem vintAdds (ty : ITy) (m : MReg) (d : Reg) (a : Reg) (b : Reg) : Statement (.vintAdds ty m d a b) := by
  intro z hw h
  have bty : ty.code ≤ 1 := ITy.code_le ty
  have bm := m.isLt
  have hz : z = 33 + 64 * d.val + 2048 * a.val + 65536 * b.val + 2097152 * (2 + 512 * ty.code + 64 * m.val) :=
    (Option.some.inj h).symm.trans (by omega)
  obtain ⟨f0_6, f6_5, f11_5, f16_5, hh⟩ := low_fields hz (by decide) (d.isLt) (a.isLt) (b.isLt)
  have f21_6 : fld z 21 6 = 2 := (hh 0 6).trans (by rw [fld]; omega)
  have rty : ITy.ofCode (fld z 30 2) = some ty := by
    rw [(hh 9 2).trans (show _ = ty.code by rw [fld]; omega)]; exact ITy.ofCode_code ty
  have rm : mregAt z 27 = m := Fin.ext ((hh 6 3).trans (by rw [fld]; omega))
  have rd : regAt z 6 = d := Fin.ext f6_5
  have ra : regAt z 11 = a := Fin.ext f11_5
  have rb : regAt z 16 = b := Fin.ext f16_5
  refine ⟨?_, by omega⟩
  refine (decode_eq f0_6).trans ?_
  show decVint z = _
  rw [decVint, f21_6, rty, rm, rd, ra, rb]
  exact done_ok (w := z) (rs := []) hw rfl

theorem vintAddus (ty : ITy) (m : MReg) (d : Reg) (a : Reg) (b : Reg) : Statement (.vintAddus ty m d a b) := by
  intro z hw h
  have bty : ty.code ≤ 1 := ITy.code_le ty
  have bm := m.isLt
  have hz : z = 33 + 64 * d.val + 2048 * a.val + 65536 * b.val + 2097152 * (3 + 512 * ty.code + 64 * m.val) :=
    (Option.some.inj h).symm.trans (by omega)
  obtain ⟨f0_6, f6_5, f11_5, f16_5, hh⟩ := low_fields hz (by decide) (d.isLt) (a.isLt) (b.isLt)
  have f21_6 : fld z 21 6 = 3 := (hh 0 6).trans (by rw [fld]; omega)
  have rty : ITy.ofCode (fld z 30 2) = some ty := by
    rw [(hh 9 2).trans (show _ = ty.code by rw [fld]; omega)]; exact ITy.ofCode_code ty
  have rm : mregAt z 27 = m := Fin.ext ((hh 6 3).trans (by rw [fld]; omega))
  have rd : regAt z 6 = d := Fin.ext f6_5
  have ra : regAt z 11 = a := Fin.ext f11_5
  have rb : regAt z 16 = b := Fin.ext f16_5
  refine ⟨?_, by omega⟩
  refine (decode_eq f0_6).trans ?_
  show decVint z = _
  rw [decVint, f21_6, rty, rm, rd, ra, rb]
  exact done_ok (w := z) (rs := []) hw rfl

theorem vintSubs (ty : ITy) (m : MReg) (d : Reg) (a : Reg) (b : Reg) : Statement (.vintSubs ty m d a b) := by
  intro z hw h
  have bty : ty.code ≤ 1 := ITy.code_le ty
  have bm := m.isLt
  have hz : z = 33 + 64 * d.val + 2048 * a.val + 65536 * b.val + 2097152 * (4 + 512 * ty.code + 64 * m.val) :=
    (Option.some.inj h).symm.trans (by omega)
  obtain ⟨f0_6, f6_5, f11_5, f16_5, hh⟩ := low_fields hz (by decide) (d.isLt) (a.isLt) (b.isLt)
  have f21_6 : fld z 21 6 = 4 := (hh 0 6).trans (by rw [fld]; omega)
  have rty : ITy.ofCode (fld z 30 2) = some ty := by
    rw [(hh 9 2).trans (show _ = ty.code by rw [fld]; omega)]; exact ITy.ofCode_code ty
  have rm : mregAt z 27 = m := Fin.ext ((hh 6 3).trans (by rw [fld]; omega))
  have rd : regAt z 6 = d := Fin.ext f6_5
  have ra : regAt z 11 = a := Fin.ext f11_5
  have rb : regAt z 16 = b := Fin.ext f16_5
  refine ⟨?_, by omega⟩
  refine (decode_eq f0_6).trans ?_
  show decVint z = _
  rw [decVint, f21_6, rty, rm, rd, ra, rb]
  exact done_ok (w := z) (rs := []) hw rfl

theorem vintSubus (ty : ITy) (m : MReg) (d : Reg) (a : Reg) (b : Reg) : Statement (.vintSubus ty m d a b) := by
  intro z hw h
  have bty : ty.code ≤ 1 := ITy.code_le ty
  have bm := m.isLt
  have hz : z = 33 + 64 * d.val + 2048 * a.val + 65536 * b.val + 2097152 * (5 + 512 * ty.code + 64 * m.val) :=
    (Option.some.inj h).symm.trans (by omega)
  obtain ⟨f0_6, f6_5, f11_5, f16_5, hh⟩ := low_fields hz (by decide) (d.isLt) (a.isLt) (b.isLt)
  have f21_6 : fld z 21 6 = 5 := (hh 0 6).trans (by rw [fld]; omega)
  have rty : ITy.ofCode (fld z 30 2) = some ty := by
    rw [(hh 9 2).trans (show _ = ty.code by rw [fld]; omega)]; exact ITy.ofCode_code ty
  have rm : mregAt z 27 = m := Fin.ext ((hh 6 3).trans (by rw [fld]; omega))
  have rd : regAt z 6 = d := Fin.ext f6_5
  have ra : regAt z 11 = a := Fin.ext f11_5
  have rb : regAt z 16 = b := Fin.ext f16_5
  refine ⟨?_, by omega⟩
  refine (decode_eq f0_6).trans ?_
  show decVint z = _
  rw [decVint, f21_6, rty, rm, rd, ra, rb]
  exact done_ok (w := z) (rs := []) hw rfl

theorem vintMul (ty : ITy) (m : MReg) (d : Reg) (a : Reg) (b : Reg) : Statement (.vintMul ty m d a b) := by
  intro z hw h
  have bty : ty.code ≤ 1 := ITy.code_le ty
  have bm := m.isLt
  have hz : z = 33 + 64 * d.val + 2048 * a.val + 65536 * b.val + 2097152 * (6 + 512 * ty.code + 64 * m.val) :=
    (Option.some.inj h).symm.trans (by omega)
  obtain ⟨f0_6, f6_5, f11_5, f16_5, hh⟩ := low_fields hz (by decide) (d.isLt) (a.isLt) (b.isLt)
  have f21_6 : fld z 21 6 = 6 := (hh 0 6).trans (by rw [fld]; omega)
  have rty : ITy.ofCode (fld z 30 2) = some ty := by
    rw [(hh 9 2).trans (show _ = ty.code by rw [fld]; omega)]; exact ITy.ofCode_code ty
  have rm : mregAt z 27 = m := Fin.ext ((hh 6 3).trans (by rw [fld]; omega))
  have rd : regAt z 6 = d := Fin.ext f6_5
  have ra : regAt z 11 = a := Fin.ext f11_5
  have rb : regAt z 16 = b := Fin.ext f16_5
  refine ⟨?_, by omega⟩
  refine (decode_eq f0_6).trans ?_
  show decVint z = _
  rw [decVint, f21_6, rty, rm, rd, ra, rb]
  exact done_ok (w := z) (rs := []) hw rfl

theorem vintMulh (ty : ITy) (m : MReg) (d : Reg) (a : Reg) (b : Reg) : Statement (.vintMulh ty m d a b) := by
  intro z hw h
  have bty : ty.code ≤ 1 := ITy.code_le ty
  have bm := m.isLt
  have hz : z = 33 + 64 * d.val + 2048 * a.val + 65536 * b.val + 2097152 * (7 + 512 * ty.code + 64 * m.val) :=
    (Option.some.inj h).symm.trans (by omega)
  obtain ⟨f0_6, f6_5, f11_5, f16_5, hh⟩ := low_fields hz (by decide) (d.isLt) (a.isLt) (b.isLt)
  have f21_6 : fld z 21 6 = 7 := (hh 0 6).trans (by rw [fld]; omega)
  have rty : ITy.ofCode (fld z 30 2) = some ty := by
    rw [(hh 9 2).trans (show _ = ty.code by rw [fld]; omega)]; exact ITy.ofCode_code ty
  have rm : mregAt z 27 = m := Fin.ext ((hh 6 3).trans (by rw [fld]; omega))
  have rd : regAt z 6 = d := Fin.ext f6_5
  have ra : regAt z 11 = a := Fin.ext f11_5
  have rb : regAt z 16 = b := Fin.ext f16_5
  refine ⟨?_, by omega⟩
  refine (decode_eq f0_6).trans ?_
  show decVint z = _
  rw [decVint, f21_6, rty, rm, rd, ra, rb]
  exact done_ok (w := z) (rs := []) hw rfl

theorem vintAnd (ty : ITy) (m : MReg) (d : Reg) (a : Reg) (b : Reg) : Statement (.vintAnd ty m d a b) := by
  intro z hw h
  have bty : ty.code ≤ 1 := ITy.code_le ty
  have bm := m.isLt
  have hz : z = 33 + 64 * d.val + 2048 * a.val + 65536 * b.val + 2097152 * (8 + 512 * ty.code + 64 * m.val) :=
    (Option.some.inj h).symm.trans (by omega)
  obtain ⟨f0_6, f6_5, f11_5, f16_5, hh⟩ := low_fields hz (by decide) (d.isLt) (a.isLt) (b.isLt)
  have f21_6 : fld z 21 6 = 8 := (hh 0 6).trans (by rw [fld]; omega)
  have rty : ITy.ofCode (fld z 30 2) = some ty := by
    rw [(hh 9 2).trans (show _ = ty.code by rw [fld]; omega)]; exact ITy.ofCode_code ty
  have rm : mregAt z 27 = m := Fin.ext ((hh 6 3).trans (by rw [fld]; omega))
  have rd : regAt z 6 = d := Fin.ext f6_5
  have ra : regAt z 11 = a := Fin.ext f11_5
  have rb : regAt z 16 = b := Fin.ext f16_5
  refine ⟨?_, by omega⟩
  refine (decode_eq f0_6).trans ?_
  show decVint z = _
  rw [decVint, f21_6, rty, rm, rd, ra, rb]
  exact done_ok (w := z) (rs := []) hw rfl

theorem vintOr (ty : ITy) (m : MReg) (d : Reg) (a : Reg) (b : Reg) : Statement (.vintOr ty m d a b) := by
  intro z hw h
  have bty : ty.code ≤ 1 := ITy.code_le ty
  have bm := m.isLt
  have hz : z = 33 + 64 * d.val + 2048 * a.val + 65536 * b.val + 2097152 * (9 + 512 * ty.code + 64 * m.val) :=
    (Option.some.inj h).symm.trans (by omega)
  obtain ⟨f0_6, f6_5, f11_5, f16_5, hh⟩ := low_fields hz (by decide) (d.isLt) (a.isLt) (b.isLt)
  have f21_6 : fld z 21 6 = 9 := (hh 0 6).trans (by rw [fld]; omega)
  have rty : ITy.ofCode (fld z 30 2) = some ty := by
    rw [(hh 9 2).trans (show _ = ty.code by rw [fld]; omega)]; exact ITy.ofCode_code ty
  have rm : mregAt z 27 = m := Fin.ext ((hh 6 3).trans (by rw [fld]; omega))
  have rd : regAt z 6 = d := Fin.ext f6_5
  have ra : regAt z 11 = a := Fin.ext f11_5
  have rb : regAt z 16 = b := Fin.ext f16_5
  refine ⟨?_, by omega⟩
  refine (decode_eq f0_6).trans ?_
  show decVint z = _
  rw [decVint, f21_6, rty, rm, rd, ra, rb]
  exact done_ok (w := z) (rs := []) hw rfl

theorem vintXor (ty : ITy) (m : MReg) (d : Reg) (a : Reg) (b : Reg) : Statement (.vintXor ty m d a b) := by
  intro z hw h
  have bty : ty.code ≤ 1 := ITy.code_le ty
  have bm := m.isLt
  have hz : z = 33 + 64 * d.val + 2048 * a.val + 65536 * b.val + 2097152 * (10 + 512 * ty.code + 64 * m.val) :=
    (Option.some.inj h).symm.trans (by omega)
  obtain ⟨f0_6, f6_5, f11_5, f16_5, hh⟩ := low_fields hz (by decide) (d.isLt) (a.isLt) (b.isLt)
  have f21_6 : fld z 21 6 = 10 := (hh 0 6).trans (by rw [fld]; omega)
  have rty : ITy.ofCode (fld z 30 2) = some ty := by
    rw [(hh 9 2).trans (show _ = ty.code by rw [fld]; omega)]; exact ITy.ofCode_code ty
  have rm : mregAt z 27 = m := Fin.ext ((hh 6 3).trans (by rw [fld]; omega))
  have rd : regAt z 6 = d := Fin.ext f6_5
  have ra : regAt z 11 = a := Fin.ext f11_5
  have rb : regAt z 16 = b := Fin.ext f16_5
  refine ⟨?_, by omega⟩
  refine (decode_eq f0_6).trans ?_
  show decVint z = _
  rw [decVint, f21_6, rty, rm, rd, ra, rb]
  exact done_ok (w := z) (rs := []) hw rfl

theorem vintAndn (ty : ITy) (m : MReg) (d : Reg) (a : Reg) (b : Reg) : Statement (.vintAndn ty m d a b) := by
  intro z hw h
  have bty : ty.code ≤ 1 := ITy.code_le ty
  have bm := m.isLt
  have hz : z = 33 + 64 * d.val + 2048 * a.val + 65536 * b.val + 2097152 * (11 + 512 * ty.code + 64 * m.val) :=
    (Option.some.inj h).symm.trans (by omega)
  obtain ⟨f0_6, f6_5, f11_5, f16_5, hh⟩ := low_fields hz (by decide) (d.isLt) (a.isLt) (b.isLt)
  have f21_6 : fld z 21 6 = 11 := (hh 0 6).trans (by rw [fld]; omega)
  have rty : ITy.ofCode (fld z 30 2) = some ty := by
    rw [(hh 9 2).trans (show _ = ty.code by rw [fld]; omega)]; exact ITy.ofCode_code ty
  have rm : mregAt z 27 = m := Fin.ext ((hh 6 3).trans (by rw [fld]; omega))
  have rd : regAt z 6 = d := Fin.ext f6_5
  have ra : regAt z 11 = a := Fin.ext f11_5
  have rb : regAt z 16 = b := Fin.ext f16_5
  refine ⟨?_, by omega⟩
  refine (decode_eq f0_6).trans ?_
  show decVint z = _
  rw [decVint, f21_6, rty, rm, rd, ra, rb]
  exact done_ok (w := z) (rs := []) hw rfl

theorem vintSll (ty : ITy) (m : MReg) (d : Reg) (a : Reg) (b : Reg) : Statement (.vintSll ty m d a b) := by
  intro z hw h
  have bty : ty.code ≤ 1 := ITy.code_le ty
  have bm := m.isLt
  have hz : z = 33 + 64 * d.val + 2048 * a.val + 65536 * b.val + 2097152 * (12 + 512 * ty.code + 64 * m.val) :=
    (Option.some.inj h).symm.trans (by omega)
  obtain ⟨f0_6, f6_5, f11_5, f16_5, hh⟩ := low_fields hz (by decide) (d.isLt) (a.isLt) (b.isLt)
  have f21_6 : fld z 21 6 = 12 := (hh 0 6).trans (by rw [fld]; omega)
  have rty : ITy.ofCode (fld z 30 2) = some ty := by
    rw [(hh 9 2).trans (show _ = ty.code by rw [fld]; omega)]; exact ITy.ofCode_code ty
  have rm : mregAt z 27 = m := Fin.ext ((hh 6 3).trans (by rw [fld]; omega))
  have rd : regAt z 6 = d := Fin.ext f6_5
  have ra : regAt z 11 = a := Fin.ext f11_5
  have rb : regAt z 16 = b := Fin.ext f16_5
  refine ⟨?_, by omega⟩
  refine (decode_eq f0_6).trans ?_
  show decVint z = _
  rw [decVint, f21_6, rty, rm, rd, ra, rb]
  exact done_ok (w := z) (rs := []) hw rfl

theorem vintSrl (ty : ITy) (m : MReg) (d : Reg) (a : Reg) (b : Reg) : Statement (.vintSrl ty m d a b) := by
  intro z hw h
  have bty : ty.code ≤ 1 := ITy.code_le ty
  have bm := m.isLt
  have hz : z = 33 + 64 * d.val + 2048 * a.val + 65536 * b.val + 2097152 * (13 + 512 * ty.code + 64 * m.val) :=
    (Option.some.inj h).symm.trans (by omega)
  obtain ⟨f0_6, f6_5, f11_5, f16_5, hh⟩ := low_fields hz (by decide) (d.isLt) (a.isLt) (b.isLt)
  have f21_6 : fld z 21 6 = 13 := (hh 0 6).trans (by rw [fld]; omega)
  have rty : ITy.ofCode (fld z 30 2) = some ty := by
    rw [(hh 9 2).trans (show _ = ty.code by rw [fld]; omega)]; exact ITy.ofCode_code ty
  have rm : mregAt z 27 = m := Fin.ext ((hh 6 3).trans (by rw [fld]; omega))
  have rd : regAt z 6 = d := Fin.ext f6_5
  have ra : regAt z 11 = a := Fin.ext f11_5
  have rb : regAt z 16 = b := Fin.ext f16_5
  refine ⟨?_, by omega⟩
  refine (decode_eq f0_6).trans ?_
  show decVint z = _
  rw [decVint, f21_6, rty, rm, rd, ra, rb]
  exact done_ok (w := z) (rs := []) hw rfl

theorem vintSra (ty : ITy) (m : MReg) (d : Reg) (a : Reg) (b : Reg) : Statement (.vintSra ty m d a b) := by
  intro z hw h
  have bty : ty.code ≤ 1 := ITy.code_le ty
  have bm := m.isLt
  have hz : z = 33 + 64 * d.val + 2048 * a.val + 65536 * b.val + 2097152 * (14 + 512 * ty.code + 64 * m.val) :=
    (Option.some.inj h).symm.trans (by omega)
  obtain ⟨f0_6, f6_5, f11_5, f16_5, hh⟩ := low_fields hz (by decide) (d.isLt) (a.isLt) (b.isLt)
  have f21_6 : fld z 21 6 = 14 := (hh 0 6).trans (by rw [fld]; omega)
  have rty : ITy.ofCode (fld z 30 2) = some ty := by
    rw [(hh 9 2).trans (show _ = ty.code by rw [fld]; omega)]; exact ITy.ofCode_code ty
  have rm : mregAt z 27 = m := Fin.ext ((hh 6 3).trans (by rw [fld]; omega))
  have rd : regAt z 6 = d := Fin.ext f6_5
  have ra : regAt z 11 = a := Fin.ext f11_5
  have rb : regAt z 16 = b := Fin.ext f16_5
  refine ⟨?_, by omega⟩
  refine (decode_eq f0_6).trans ?_
  show decVint z = _
  rw [decVint, f21_6, rty, rm, rd, ra, rb]
  exact done_ok (w := z) (rs := []) hw rfl

theorem vintMin (ty : ITy) (m : MReg) (d : Reg) (a : Reg) (b : Reg) : Statement (.vintMin ty m d a b) := by
  intro z hw h
  have bty : ty.code ≤ 1 := ITy.code_le ty
  have bm := m.isLt
  have hz : z = 33 + 64 * d.val + 2048 * a.val + 65536 * b.val + 2097152 * (16 + 512 * ty.code + 64 * m.val) :=
    (Option.some.inj h).symm.trans (by omega)
  obtain ⟨f0_6, f6_5, f11_5, f16_5, hh⟩ := low_fields hz (by decide) (d.isLt) (a.isLt) (b.isLt)
  have f21_6 : fld z 21 6 = 16 := (hh 0 6).trans (by rw [fld]; omega)
  have rty : ITy.ofCode (fld z 30 2) = some ty := by
    rw [(hh 9 2).trans (show _ = ty.code by rw [fld]; omega)]; exact ITy.ofCode_code ty
  have rm : mregAt z 27 = m := Fin.ext ((hh 6 3).trans (by rw [fld]; omega))
  have rd : regAt z 6 = d := Fin.ext f6_5
  have ra : regAt z 11 = a := Fin.ext f11_5
  have rb : regAt z 16 = b := Fin.ext f16_5
  refine ⟨?_, by omega⟩
  refine (decode_eq f0_6).trans ?_
  show decVint z = _
  rw [decVint, f21_6, rty, rm, rd, ra, rb]
  exact done_ok (w := z) (rs := []) hw rfl

theorem vintMax (ty : ITy) (m : MReg) (d : Reg) (a : Reg) (b : Reg) : Statement (.vintMax ty m d a b) := by
  intro z hw h
  have bty : ty.code ≤ 1 := ITy.code_le ty
  have bm := m.isLt
  have hz : z = 33 + 64 * d.val + 2048 * a.val + 65536 * b.val + 2097152 * (17 + 512 * ty.code + 64 * m.val) :=
    (Option.some.inj h).symm.trans (by omega)
  obtain ⟨f0_6, f6_5, f11_5, f16_5, hh⟩ := low_fields hz (by decide) (d.isLt) (a.isLt) (b.isLt)
  have f21_6 : fld z 21 6 = 17 := (hh 0 6).trans (by rw [fld]; omega)
  have rty : ITy.ofCode (fld z 30 2) = some ty := by
    rw [(hh 9 2).trans (show _ = ty.code by rw [fld]; omega)]; exact ITy.ofCode_code ty
  have rm : mregAt z 27 = m := Fin.ext ((hh 6 3).trans (by rw [fld]; omega))
  have rd : regAt z 6 = d := Fin.ext f6_5
  have ra : regAt z 11 = a := Fin.ext f11_5
  have rb : regAt z 16 = b := Fin.ext f16_5
  refine ⟨?_, by omega⟩
  refine (decode_eq f0_6).trans ?_
  show decVint z = _
  rw [decVint, f21_6, rty, rm, rd, ra, rb]
  exact done_ok (w := z) (rs := []) hw rfl

theorem vintMinu (ty : ITy) (m : MReg) (d : Reg) (a : Reg) (b : Reg) : Statement (.vintMinu ty m d a b) := by
  intro z hw h
  have bty : ty.code ≤ 1 := ITy.code_le ty
  have bm := m.isLt
  have hz : z = 33 + 64 * d.val + 2048 * a.val + 65536 * b.val + 2097152 * (18 + 512 * ty.code + 64 * m.val) :=
    (Option.some.inj h).symm.trans (by omega)
  obtain ⟨f0_6, f6_5, f11_5, f16_5, hh⟩ := low_fields hz (by decide) (d.isLt) (a.isLt) (b.isLt)
  have f21_6 : fld z 21 6 = 18 := (hh 0 6).trans (by rw [fld]; omega)
  have rty : ITy.ofCode (fld z 30 2) = some ty := by
    rw [(hh 9 2).trans (show _ = ty.code by rw [fld]; omega)]; exact ITy.ofCode_code ty
  have rm : mregAt z 27 = m := Fin.ext ((hh 6 3).trans (by rw [fld]; omega))
  have rd : regAt z 6 = d := Fin.ext f6_5
  have ra : regAt z 11 = a := Fin.ext f11_5
  have rb : regAt z 16 = b := Fin.ext f16_5
  refine ⟨?_, by omega⟩
  refine (decode_eq f0_6).trans ?_
  show decVint z = _
  rw [decVint, f21_6, rty, rm, rd, ra, rb]
  exact done_ok (w := z) (rs := []) hw rfl

theorem vintMaxu (ty : ITy) (m : MReg) (d : Reg) (a : Reg) (b : Reg) : Statement (.vintMaxu ty m d a b) := by
  intro z hw h
  have bty : ty.code ≤ 1 := ITy.code_le ty
  have bm := m.isLt
  have hz : z = 33 + 64 * d.val + 2048 * a.val + 65536 * b.val + 2097152 * (19 + 512 * ty.code + 64 * m.val) :=
    (Option.some.inj h).symm.trans (by omega)
  obtain ⟨f0_6, f6_5, f11_5, f16_5, hh⟩ := low_fields hz (by decide) (d.isLt) (a.isLt) (b.isLt)
  have f21_6 : fld z 21 6 = 19 := (hh 0 6).trans (by rw [fld]; omega)
  have rty : ITy.ofCode (fld z 30 2) = some ty := by
    rw [(hh 9 2).trans (show _ = ty.code by rw [fld]; omega)]; exact ITy.ofCode_code ty
  have rm : mregAt z 27 = m := Fin.ext ((hh 6 3).trans (by rw [fld]; omega))
  have rd : regAt z 6 = d := Fin.ext f6_5
  have ra : regAt z 11 = a := Fin.ext f11_5
  have rb : regAt z 16 = b := Fin.ext f16_5
  refine ⟨?_, by omega⟩
  refine (decode_eq f0_6).trans ?_
  show decVint z = _
  rw [decVint, f21_6, rty, rm, rd, ra, rb]
  exact done_ok (w := z) (rs := []) hw rfl

theorem vintCeq (m : MReg) (d : MReg) (a : Reg) (b : Reg) : Statement (.vintCeq m d a b) := by
  intro z hw h
  have hz : z = 33 + 50331648 + 134217728 * m.val + 64 * d.val + 2048 * a.val + 65536 * b.val := (Option.some.inj h).symm
  have bm := m.isLt
  have bd := d.isLt
  have ba := a.isLt
  have bb := b.isLt
  have f0_6 : fld z 0 6 = 33 := by rw [hz, fld]; omega
  have f21_6 : fld z 21 6 = 24 := by rw [hz, fld]; omega
  have f30_2 : fld z 30 2 = 0 := by rw [hz, fld]; omega
  have f9_2 : fld z 9 2 = 0 := by rw [hz, fld]; omega
  have rm : mregAt z 27 = m := Fin.ext (by show fld z 27 3 = m.val; rw [hz, fld]; omega)
  have rd : mregAt z 6 = d := Fin.ext (by show fld z 6 3 = d.val; rw [hz, fld]; omega)
  have ra : regAt z 11 = a := Fin.ext (by show fld z 11 5 = a.val; rw [hz, fld]; omega)
  have rb : regAt z 16 = b := Fin.ext (by show fld z 16 5 = b.val; rw [hz, fld]; omega)
  refine ⟨?_, by rw [hz]; omega⟩
  refine (decode_eq f0_6).trans ?_
  show decVint z = _
  rw [decVint, f21_6, f30_2, rm, rd, ra, rb]
  exact done_ok (w := z) (rs := [(9, 2)]) hw (by simp only [rsvCheck, f9_2, if_true])

theorem vintClt (m : MReg) (d : MReg) (a : Reg) (b : Reg) : Statement (.vintClt m d a b) := by
  intro z hw h
  have hz : z = 33 + 52428800 + 134217728 * m.val + 64 * d.val + 2048 * a.val + 65536 * b.val := (Option.some.inj h).symm
  have bm := m.isLt
  have bd := d.isLt
  have ba := a.isLt
  have bb := b.isLt
  have f0_6 : fld z 0 6 = 33 := by rw [hz, fld]; omega
  have f21_6 : fld z 21 6 = 25 := by rw [hz, fld]; omega
  have f30_2 : fld z 30 2 = 0 := by rw [hz, fld]; omega
  have f9_2 : fld z 9 2 = 0 := by rw [hz, fld]; omega
  have rm : mregAt z 27 = m := Fin.ext (by show fld z 27 3 = m.val; rw [hz, fld]; omega)
  have rd : mregAt z 6 = d := Fin.ext (by show fld z 6 3 = d.val; rw [hz, fld]; omega)
  have ra : regAt z 11 = a := Fin.ext (by show fld z 11 5 = a.val; rw [hz, fld]; omega)
  have rb : regAt z 16 = b := Fin.ext (by show fld z 16 5 = b.val; rw [hz, fld]; omega)
  refine ⟨?_, by rw [hz]; omega⟩
  refine (decode_eq f0_6).trans ?_
  show decVint z = _
  rw [decVint, f21_6, f30_2, rm, rd, ra, rb]
  exact done_ok (w := z) (rs := [(9, 2)]) hw (by simp only [rsvCheck, f9_2, if_true])

theorem vintCltu (m : MReg) (d : MReg) (a : Reg) (b : Reg) : Statement (.vintCltu m d a b) := by
  intro z hw h
  have hz : z = 33 + 54525952 + 134217728 * m.val + 64 * d.val + 2048 * a.val + 65536 * b.val := (Option.some.inj h).symm
  have bm := m.isLt
  have bd := d.isLt
  have ba := a.isLt
  have bb := b.isLt
  have f0_6 : fld z 0 6 = 33 := by rw [hz, fld]; omega
  have f21_6 : fld z 21 6 = 26 := by rw [hz, fld]; omega
  have f30_2 : fld z 30 2 = 0 := by rw [hz, fld]; omega
  have f9_2 : fld z 9 2 = 0 := by rw [hz, fld]; omega
  have rm : mregAt z 27 = m := Fin.ext (by show fld z 27 3 = m.val; rw [hz, fld]; omega)
  have rd : mregAt z 6 = d := Fin.ext (by show fld z 6 3 = d.val; rw [hz, fld]; omega)
  have ra : regAt z 11 = a := Fin.ext (by show fld z 11 5 = a.val; rw [hz, fld]; omega)
  have rb : regAt z 16 = b := Fin.ext (by show fld z 16 5 = b.val; rw [hz, fld]; omega)
  refine ⟨?_, by rw [hz]; omega⟩
  refine (decode_eq f0_6).trans ?_
  show decVint z = _
  rw [decVint, f21_6, f30_2, rm, rd, ra, rb]
  exact done_ok (w := z) (rs := [(9, 2)]) hw (by simp only [rsvCheck, f9_2, if_true])

theorem vcvtNf16l (ty : CRnd) (m : MReg) (d : Reg) (a : Reg) : Statement (.vcvtNf16l ty m d a) := by
  intro z hw h
  have bty : ty.code ≤ 3 := CRnd.code_le ty
  have bm := m.isLt
  have hz : z = 34 + 64 * d.val + 2048 * a.val + 65536 * 0 + 2097152 * (512 * ty.code + 64 * m.val) :=
    (Option.some.inj h).symm.trans (by omega)
  obtain ⟨f0_6, f6_5, f11_5, f16_5, hh⟩ := low_fields hz (by decide) (d.isLt) (a.isLt) (by decide)
  have f21_6 : fld z 21 6 = 0 := (hh 0 6).trans (by rw [fld]; omega)
  have rty : CRnd.ofCode (fld z 30 2) = ty := by
    rw [(hh 9 2).trans (show _ = ty.code by rw [fld]; omega)]; cases ty <;> rfl
  have rm : mregAt z 27 = m := Fin.ext ((hh 6 3).trans (by rw [fld]; omega))
  have rd : regAt z 6 = d := Fin.ext f6_5
  have ra : regAt z 11 = a := Fin.ext f11_5
  refine ⟨?_, by omega⟩
  refine (decode_eq f0_6).trans ?_
  show decVcvt z = _
  rw [decVcvt, f21_6, rty, rm, rd, ra]
  exact done_ok (w := z) (rs := [(16, 5)]) hw (by simp only [rsvCheck, f16_5, if_true])

theorem vcvtNf16h (ty : CRnd) (m : MReg) (d : Reg) (a : Reg) : Statement (.vcvtNf16h ty m d a) := by
  intro z hw h
  have bty : ty.code ≤ 3 := CRnd.code_le ty
  have bm := m.isLt
  have hz : z = 34 + 64 * d.val + 2048 * a.val + 65536 * 0 + 2097152 * (1 + 512 * ty.code + 64 * m.val) :=
    (Option.some.inj h).symm.trans (by omega)
  obtain ⟨f0_6, f6_5, f11_5, f16_5, hh⟩ := low_fields hz (by decide) (d.isLt) (a.isLt) (by decide)
  have f21_6 : fld z 21 6 = 1 := (hh 0 6).trans (by rw [fld]; omega)
  have rty : CRnd.ofCode (fld z 30 2) = ty := by
    rw [(hh 9 2).trans (show _ = ty.code by rw [fld]; omega)]; cases ty <;> rfl
  have rm : mregAt z 27 = m := Fin.ext ((hh 6 3).trans (by rw [fld]; omega))
  have rd : regAt z 6 = d := Fin.ext f6_5
  have ra : regAt z 11 = a := Fin.ext f11_5
  refine ⟨?_, by omega⟩
  refine (decode_eq f0_6).trans ?_
  show decVcvt z = _
  rw [decVcvt, f21_6, rty, rm, rd, ra]
  exact done_ok (w := z) (rs := [(16, 5)]) hw (by simp only [rsvCheck, f16_5, if_true])

theorem vcvtNbf16l (ty : CRnd) (m : MReg) (d : Reg) (a : Reg) : Statement (.vcvtNbf16l ty m d a) := by
  intro z hw h
  have bty : ty.code ≤ 3 := CRnd.code_le ty
  have bm := m.isLt
  have hz : z = 34 + 64 * d.val + 2048 * a.val + 65536 * 0 + 2097152 * (2 + 512 * ty.code + 64 * m.val) :=
    (Option.some.inj h).symm.trans (by omega)
  obtain ⟨f0_6, f6_5, f11_5, f16_5, hh⟩ := low_fields hz (by decide) (d.isLt) (a.isLt) (by decide)
  have f21_6 : fld z 21 6 = 2 := (hh 0 6).trans (by rw [fld]; omega)
  have rty : CRnd.ofCode (fld z 30 2) = ty := by
    rw [(hh 9 2).trans (show _ = ty.code by rw [fld]; omega)]; cases ty <;> rfl
  have rm : mregAt z 27 = m := Fin.ext ((hh 6 3).trans (by rw [fld]; omega))
  have rd : regAt z 6 = d := Fin.ext f6_5
  have ra : regAt z 11 = a := Fin.ext f11_5
  refine ⟨?_, by omega⟩
  refine (decode_eq f0_6).trans ?_
  show decVcvt z = _
  rw [decVcvt, f21_6, rty, rm, rd, ra]
  exact done_ok (w := z) (rs := [(16, 5)]) hw (by simp only [rsvCheck, f16_5, if_true])

theorem vcvtNbf16h (ty : CRnd) (m : MReg) (d : Reg) (a : Reg) : Statement (.vcvtNbf16h ty m d a) := by
  intro z hw h
  have bty : ty.code ≤ 3 := CRnd.code_le ty
  have bm := m.isLt
  have hz : z = 34 + 64 * d.val + 2048 * a.val + 65536 * 0 + 2097152 * (3 + 512 * ty.code + 64 * m.val) :=
    (Option.some.inj h).symm.trans (by omega)
  obtain ⟨f0_6, f6_5, f11_5, f16_5, hh⟩ := low_fields hz (by decide) (d.isLt) (a.isLt) (by decide)
  have f21_6 : fld z 21 6 = 3 := (hh 0 6).trans (by rw [fld]; omega)
  have rty : CRnd.ofCode (fld z 30 2) = ty := by
    rw [(hh 9 2).trans (show _ = ty.code by rw [fld]; omega)]; cases ty <;> rfl
  have rm : mregAt z 27 = m := Fin.ext ((hh 6 3).trans (by rw [fld]; omega))
  have rd : regAt z 6 = d := Fin.ext f6_5
  have ra : regAt z 11 = a := Fin.ext f11_5
  refine ⟨?_, by omega⟩
  refine (decode_eq f0_6).trans ?_
  show decVcvt z = _
  rw [decVcvt, f21_6, rty, rm, rd, ra]
  exact done_ok (w := z) (rs := [(16, 5)]) hw (by simp only [rsvCheck, f16_5, if_true])

theorem vcvtWf16l (m : MReg) (d : Reg) (a : Reg) : Statement (.vcvtWf16l m d a) := by
  intro z hw h
  have bm := m.isLt
  have hz : z = 34 + 64 * d.val + 2048 * a.val + 65536 * 0 + 2097152 * (4 + 64 * m.val) :=
    (Option.some.inj h).symm.trans (by omega)
  obtain ⟨f0_6, f6_5, f11_5, f16_5, hh⟩ := low_fields hz (by decide) (d.isLt) (a.isLt) (by decide)
  have f21_6 : fld z 21 6 = 4 := (hh 0 6).trans (by rw [fld]; omega)
  have f30_2 : fld z 30 2 = 0 := (hh 9 2).trans (by rw [fld]; omega)
  have rm : mregAt z 27 = m := Fin.ext ((hh 6 3).trans (by rw [fld]; omega))
  have rd : regAt z 6 = d := Fin.ext f6_5
  have ra : regAt z 11 = a := Fin.ext f11_5
  refine ⟨?_, by omega⟩
  refine (decode_eq f0_6).trans ?_
  show decVcvt z = _
  rw [decVcvt, f21_6, rm, rd, ra]
  exact done_ok (w := z) (rs := [(16, 5), (30, 2)]) hw (by simp only [rsvCheck, f16_5, f30_2, if_true])

theorem vcvtWf16h (m : MReg) (d : Reg) (a : Reg) : Statement (.vcvtWf16h m d a) := by
  intro z hw h
  have bm := m.isLt
  have hz : z = 34 + 64 * d.val + 2048 * a.val + 65536 * 0 + 2097152 * (5 + 64 * m.val) :=
    (Option.some.inj h).symm.trans (by omega)
  obtain ⟨f0_6, f6_5, f11_5, f16_5, hh⟩ := low_fields hz (by decide) (d.isLt) (a.isLt) (by decide)
  have f21_6 : fld z 21 6 = 5 := (hh 0 6).trans (by rw [fld]; omega)
  have f30_2 : fld z 30 2 = 0 := (hh 9 2).trans (by rw [fld]; omega)
  have rm : mregAt z 27 = m := Fin.ext ((hh 6 3).trans (by rw [fld]; omega))
  have rd : regAt z 6 = d := Fin.ext f6_5
  have ra : regAt z 11 = a := Fin.ext f11_5
  refine ⟨?_, by omega⟩
  refine (decode_eq f0_6).trans ?_
  show decVcvt z = _
  rw [decVcvt, f21_6, rm, rd, ra]
  exact done_ok (w := z) (rs := [(16, 5), (30, 2)]) hw (by simp only [rsvCheck, f16_5, f30_2, if_true])

theorem vcvtWbf16l (m : MReg) (d : Reg) (a : Reg) : Statement (.vcvtWbf16l m d a) := by
  intro z hw h
  have bm := m.isLt
  have hz : z = 34 + 64 * d.val + 2048 * a.val + 65536 * 0 + 2097152 * (6 + 64 * m.val) :=
    (Option.some.inj h).symm.trans (by omega)
  obtain ⟨f0_6, f6_5, f11_5, f16_5, hh⟩ := low_fields hz (by decide) (d.isLt) (a.isLt) (by decide)
  have f21_6 : fld z 21 6 = 6 := (hh 0 6).trans (by rw [fld]; omega)
  have f30_2 : fld z 30 2 = 0 := (hh 9 2).trans (by rw [fld]; omega)
  have rm : mregAt z 27 = m := Fin.ext ((hh 6 3).trans (by rw [fld]; omega))
  have rd : regAt z 6 = d := Fin.ext f6_5
  have ra : regAt z 11 = a := Fin.ext f11_5
  refine ⟨?_, by omega⟩
  refine (decode_eq f0_6).trans ?_
  show decVcvt z = _
  rw [decVcvt, f21_6, rm, rd, ra]
  exact done_ok (w := z) (rs := [(16, 5), (30, 2)]) hw (by simp only [rsvCheck, f16_5, f30_2, if_true])

theorem vcvtWbf16h (m : MReg) (d : Reg) (a : Reg) : Statement (.vcvtWbf16h m d a) := by
  intro z hw h
  have bm := m.isLt
  have hz : z = 34 + 64 * d.val + 2048 * a.val + 65536 * 0 + 2097152 * (7 + 64 * m.val) :=
    (Option.some.inj h).symm.trans (by omega)
  obtain ⟨f0_6, f6_5, f11_5, f16_5, hh⟩ := low_fields hz (by decide) (d.isLt) (a.isLt) (by decide)
  have f21_6 : fld z 21 6 = 7 := (hh 0 6).trans (by rw [fld]; omega)
  have f30_2 : fld z 30 2 = 0 := (hh 9 2).trans (by rw [fld]; omega)
  have rm : mregAt z 27 = m := Fin.ext ((hh 6 3).trans (by rw [fld]; omega))
  have rd : regAt z 6 = d := Fin.ext f6_5
  have ra : regAt z 11 = a := Fin.ext f11_5
  refine ⟨?_, by omega⟩
  refine (decode_eq f0_6).trans ?_
  show decVcvt z = _
  rw [decVcvt, f21_6, rm, rd, ra]
  exact done_ok (w := z) (rs := [(16, 5), (30, 2)]) hw (by simp only [rsvCheck, f16_5, f30_2, if_true])

theorem vcvtFtoi (ty : CRnd) (m : MReg) (d : Reg) (a : Reg) : Statement (.vcvtFtoi ty m d a) := by
  intro z hw h
  have bty : ty.code ≤ 3 := CRnd.code_le ty
  have bm := m.isLt
  have hz : z = 34 + 64 * d.val + 2048 * a.val + 65536 * 0 + 2097152 * (8 + 512 * ty.code + 64 * m.val) :=
    (Option.some.inj h).symm.trans (by omega)
  obtain ⟨f0_6, f6_5, f11_5, f16_5, hh⟩ := low_fields hz (by decide) (d.isLt) (a.isLt) (by decide)
  have f21_6 : fld z 21 6 = 8 := (hh 0 6).trans (by rw [fld]; omega)
  have rty : CRnd.ofCode (fld z 30 2) = ty := by
    rw [(hh 9 2).trans (show _ = ty.code by rw [fld]; omega)]; cases ty <;> rfl
  have rm : mregAt z 27 = m := Fin.ext ((hh 6 3).trans (by rw [fld]; omega))
  have rd : regAt z 6 = d := Fin.ext f6_5
  have ra : regAt z 11 = a := Fin.ext f11_5
  refine ⟨?_, by omega⟩
  refine (decode_eq f0_6).trans ?_
  show decVcvt z = _
  rw [decVcvt, f21_6, rty, rm, rd, ra]
  exact done_ok (w := z) (rs := [(16, 5)]) hw (by simp only [rsvCheck, f16_5, if_true])

theorem vcvtFtou (ty : CRnd) (m : MReg) (d : Reg) (a : Reg) : Statement (.vcvtFtou ty m d a) := by
  intro z hw h
  have bty : ty.code ≤ 3 := CRnd.code_le ty
  have bm := m.isLt
  have hz : z = 34 + 64 * d.val + 2048 * a.val + 65536 * 0 + 2097152 * (9 + 512 * ty.code + 64 * m.val) :=
    (Option.some.inj h).symm.trans (by omega)
  obtain ⟨f0_6, f6_5, f11_5, f16_5, hh⟩ := low_fields hz (by decide) (d.isLt) (a.isLt) (by decide)
  have f21_6 : fld z 21 6 = 9 := (hh 0 6).trans (by rw [fld]; omega)
  have rty : CRnd.ofCode (fld z 30 2) = ty := by
    rw [(hh 9 2).trans (show _ = ty.code by rw [fld]; omega)]; cases ty <;> rfl
  have rm : mregAt z 27 = m := Fin.ext ((hh 6 3).trans (by rw [fld]; omega))
  have rd : regAt z 6 = d := Fin.ext f6_5
  have ra : regAt z 11 = a := Fin.ext f11_5
  refine ⟨?_, by omega⟩
  refine (decode_eq f0_6).trans ?_
  show decVcvt z = _
  rw [decVcvt, f21_6, rty, rm, rd, ra]
  exact done_ok (w := z) (rs := [(16, 5)]) hw (by simp only [rsvCheck, f16_5, if_true])

theorem vcvtItof (ty : CRnd) (m : MReg) (d : Reg) (a : Reg) : Statement (.vcvtItof ty m d a) := by
  intro z hw h
  have bty : ty.code ≤ 3 := CRnd.code_le ty
  have bm := m.isLt
  have hz : z = 34 + 64 * d.val + 2048 * a.val + 65536 * 0 + 2097152 * (10 + 512 * ty.code + 64 * m.val) :=
    (Option.some.inj h).symm.trans (by omega)
  obtain ⟨f0_6, f6_5, f11_5, f16_5, hh⟩ := low_fields hz (by decide) (d.isLt) (a.isLt) (by decide)
  have f21_6 : fld z 21 6 = 10 := (hh 0 6).trans (by rw [fld]; omega)
  have rty : CRnd.ofCode (fld z 30 2) = ty := by
    rw [(hh 9 2).trans (show _ = ty.code by rw [fld]; omega)]; cases ty <;> rfl
  have rm : mregAt z 27 = m := Fin.ext ((hh 6 3).trans (by rw [fld]; omega))
  have rd : regAt z 6 = d := Fin.ext f6_5
  have ra : regAt z 11 = a := Fin.ext f11_5
  refine ⟨?_, by omega⟩
  refine (decode_eq f0_6).trans ?_
  show decVcvt z = _
  rw [decVcvt, f21_6, rty, rm, rd, ra]
  exact done_ok (w := z) (rs := [(16, 5)]) hw (by simp only [rsvCheck, f16_5, if_true])

theorem vcvtUtof (ty : CRnd) (m : MReg) (d : Reg) (a : Reg) : Statement (.vcvtUtof ty m d a) := by
  intro z hw h
  have bty : ty.code ≤ 3 := CRnd.code_le ty
  have bm := m.isLt
  have hz : z = 34 + 64 * d.val + 2048 * a.val + 65536 * 0 + 2097152 * (11 + 512 * ty.code + 64 * m.val) :=
    (Option.some.inj h).symm.trans (by omega)
  obtain ⟨f0_6, f6_5, f11_5, f16_5, hh⟩ := low_fields hz (by decide) (d.isLt) (a.isLt) (by decide)
  have f21_6 : fld z 21 6 = 11 := (hh 0 6).trans (by rw [fld]; omega)
  have rty : CRnd.ofCode (fld z 30 2) = ty := by
    rw [(hh 9 2).trans (show _ = ty.code by rw [fld]; omega)]; cases ty <;> rfl
  have rm : mregAt z 27 = m := Fin.ext ((hh 6 3).trans (by rw [fld]; omega))
  have rd : regAt z 6 = d := Fin.ext f6_5
  have ra : regAt z 11 = a := Fin.ext f11_5
  refine ⟨?_, by omega⟩
  refine (decode_eq f0_6).trans ?_
  show decVcvt z = _
  rw [decVcvt, f21_6, rty, rm, rd, ra]
  exact done_ok (w := z) (rs := [(16, 5)]) hw (by simp only [rsvCheck, f16_5, if_true])

theorem vcvtRint (ty : CRnd) (m : MReg) (d : Reg) (a : Reg) : Statement (.vcvtRint ty m d a) := by
  intro z hw h
  have bty : ty.code ≤ 3 := CRnd.code_le ty
  have bm := m.isLt
  have hz : z = 34 + 64 * d.val + 2048 * a.val + 65536 * 0 + 2097152 * (12 + 512 * ty.code + 64 * m.val) :=
    (Option.some.inj h).symm.trans (by omega)
  obtain ⟨f0_6, f6_5, f11_5, f16_5, hh⟩ := low_fields hz (by decide) (d.isLt) (a.isLt) (by decide)
  have f21_6 : fld z 21 6 = 12 := (hh 0 6).trans (by rw [fld]; omega)
  have rty : CRnd.ofCode (fld z 30 2) = ty := by
    rw [(hh 9 2).trans (show _ = ty.code by rw [fld]; omega)]; cases ty <;> rfl
  have rm : mregAt z 27 = m := Fin.ext ((hh 6 3).trans (by rw [fld]; omega))
  have rd : regAt z 6 = d := Fin.ext f6_5
  have ra : regAt z 11 = a := Fin.ext f11_5
  refine ⟨?_, by omega⟩
  refine (decode_eq f0_6).trans ?_
  show decVcvt z = _
  rw [decVcvt, f21_6, rty, rm, rd, ra]
  exact done_ok (w := z) (rs := [(16, 5)]) hw (by simp only [rsvCheck, f16_5, if_true])

theorem vpermFsum (ty : FTy) (m : MReg) (d : Reg) (a : Reg) : Statement (.vpermFsum ty m d a) := by
  intro z hw h
  have bty : ty.code ≤ 2 := FTy.code_le ty
  have bm := m.isLt
  have hz : z = 35 + 64 * d.val + 2048 * a.val + 65536 * 0 + 2097152 * (512 * ty.code + 64 * m.val) :=
    (Option.some.inj h).symm.trans (by omega)
  obtain ⟨f0_6, f6_5, f11_5, f16_5, hh⟩ := low_fields hz (by decide) (d.isLt) (a.isLt) (by decide)
  have f21_6 : fld z 21 6 = 0 := (hh 0 6).trans (by rw [fld]; omega)
  have rty : FTy.ofCode (fld z 30 2) = some ty := by
    rw [(hh 9 2).trans (show _ = ty.code by rw [fld]; omega)]; exact FTy.ofCode_code ty
  have rm : mregAt z 27 = m := Fin.ext ((hh 6 3).trans (by rw [fld]; omega))
  have rd : regAt z 6 = d := Fin.ext f6_5
  have ra : regAt z 11 = a := Fin.ext f11_5
  refine ⟨?_, by omega⟩
  refine (decode_eq f0_6).trans ?_
  show decVperm z = _
  rw [decVperm, f21_6, rty, rm, rd, ra]
  exact done_ok (w := z) (rs := [(16, 5)]) hw (by simp only [rsvCheck, f16_5, if_true])

theorem vpermFmax (ty : FTy) (m : MReg) (d : Reg) (a : Reg) : Statement (.vpermFmax ty m d a) := by
  intro z hw h
  have bty : ty.code ≤ 2 := FTy.code_le ty
  have bm := m.isLt
  have hz : z = 35 + 64 * d.val + 2048 * a.val + 65536 * 0 + 2097152 * (1 + 512 * ty.code + 64 * m.val) :=
    (Option.some.inj h).symm.trans (by omega)
  obtain ⟨f0_6, f6_5, f11_5, f16_5, hh⟩ := low_fields hz (by decide) (d.isLt) (a.isLt) (by decide)
  have f21_6 : fld z 21 6 = 1 := (hh 0 6).trans (by rw [fld]; omega)
  have rty : FTy.ofCode (fld z 30 2) = some ty := by
    rw [(hh 9 2).trans (show _ = ty.code by rw [fld]; omega)]; exact FTy.ofCode_code ty
  have rm : mregAt z 27 = m := Fin.ext ((hh 6 3).trans (by rw [fld]; omega))
  have rd : regAt z 6 = d := Fin.ext f6_5
  have ra : regAt z 11 = a := Fin.ext f11_5
  refine ⟨?_, by omega⟩
  refine (decode_eq f0_6).trans ?_
  show decVperm z = _
  rw [decVperm, f21_6, rty, rm, rd, ra]
  exact done_ok (w := z) (rs := [(16, 5)]) hw (by simp only [rsvCheck, f16_5, if_true])

theorem vpermFmin (ty : FTy) (m : MReg) (d : Reg) (a : Reg) : Statement (.vpermFmin ty m d a) := by
  intro z hw h
  have bty : ty.code ≤ 2 := FTy.code_le ty
  have bm := m.isLt
  have hz : z = 35 + 64 * d.val + 2048 * a.val + 65536 * 0 + 2097152 * (2 + 512 * ty.code + 64 * m.val) :=
    (Option.some.inj h).symm.trans (by omega)
  obtain ⟨f0_6, f6_5, f11_5, f16_5, hh⟩ := low_fields hz (by decide) (d.isLt) (a.isLt) (by decide)
  have f21_6 : fld z 21 6 = 2 := (hh 0 6).trans (by rw [fld]; omega)
  have rty : FTy.ofCode (fld z 30 2) = some ty := by
    rw [(hh 9 2).trans (show _ = ty.code by rw [fld]; omega)]; exact FTy.ofCode_code ty
  have rm : mregAt z 27 = m := Fin.ext ((hh 6 3).trans (by rw [fld]; omega))
  have rd : regAt z 6 = d := Fin.ext f6_5
  have ra : regAt z 11 = a := Fin.ext f11_5
  refine ⟨?_, by omega⟩
  refine (decode_eq f0_6).trans ?_
  show decVperm z = _
  rw [decVperm, f21_6, rty, rm, rd, ra]
  exact done_ok (w := z) (rs := [(16, 5)]) hw (by simp only [rsvCheck, f16_5, if_true])

theorem vpermIsum (ty : ITy) (m : MReg) (d : Reg) (a : Reg) : Statement (.vpermIsum ty m d a) := by
  intro z hw h
  have bty : ty.code ≤ 1 := ITy.code_le ty
  have bm := m.isLt
  have hz : z = 35 + 64 * d.val + 2048 * a.val + 65536 * 0 + 2097152 * (4 + 512 * ty.code + 64 * m.val) :=
    (Option.some.inj h).symm.trans (by omega)
  obtain ⟨f0_6, f6_5, f11_5, f16_5, hh⟩ := low_fields hz (by decide) (d.isLt) (a.isLt) (by decide)
  have f21_6 : fld z 21 6 = 4 := (hh 0 6).trans (by rw [fld]; omega)
  have rty : ITy.ofCode (fld z 30 2) = some ty := by
    rw [(hh 9 2).trans (show _ = ty.code by rw [fld]; omega)]; exact ITy.ofCode_code ty
  have rm : mregAt z 27 = m := Fin.ext ((hh 6 3).trans (by rw [fld]; omega))
  have rd : regAt z 6 = d := Fin.ext f6_5
  have ra : regAt z 11 = a := Fin.ext f11_5
  refine ⟨?_, by omega⟩
  refine (decode_eq f0_6).trans ?_
  show decVperm z = _
  rw [decVperm, f21_6, rty, rm, rd, ra]
  exact done_ok (w := z) (rs := [(16, 5)]) hw (by simp only [rsvCheck, f16_5, if_true])

theorem vpermImax (ty : ITy) (m : MReg) (d : Reg) (a : Reg) : Statement (.vpermImax ty m d a) := by
  intro z hw h
  have bty : ty.code ≤ 1 := ITy.code_le ty
  have bm := m.isLt
  have hz : z = 35 + 64 * d.val + 2048 * a.val + 65536 * 0 + 2097152 * (5 + 512 * ty.code + 64 * m.val) :=
    (Option.some.inj h).symm.trans (by omega)
  obtain ⟨f0_6, f6_5, f11_5, f16_5, hh⟩ := low_fields hz (by decide) (d.isLt) (a.isLt) (by decide)
  have f21_6 : fld z 21 6 = 5 := (hh 0 6).trans (by rw [fld]; omega)
  have rty : ITy.ofCode (fld z 30 2) = some ty := by
    rw [(hh 9 2).trans (show _ = ty.code by rw [fld]; omega)]; exact ITy.ofCode_code ty
  have rm : mregAt z 27 = m := Fin.ext ((hh 6 3).trans (by rw [fld]; omega))
  have rd : regAt z 6 = d := Fin.ext f6_5
  have ra : regAt z 11 = a := Fin.ext f11_5
  refine ⟨?_, by omega⟩
  refine (decode_eq f0_6).trans ?_
  show decVperm z = _
  rw [decVperm, f21_6, rty, rm, rd, ra]
  exact done_ok (w := z) (rs := [(16, 5)]) hw (by simp only [rsvCheck, f16_5, if_true])

theorem vpermImin (ty : ITy) (m : MReg) (d : Reg) (a : Reg) : Statement (.vpermImin ty m d a) := by
  intro z hw h
  have bty : ty.code ≤ 1 := ITy.code_le ty
  have bm := m.isLt
  have hz : z = 35 + 64 * d.val + 2048 * a.val + 65536 * 0 + 2097152 * (6 + 512 * ty.code + 64 * m.val) :=
    (Option.some.inj h).symm.trans (by omega)
  obtain ⟨f0_6, f6_5, f11_5, f16_5, hh⟩ := low_fields hz (by decide) (d.isLt) (a.isLt) (by decide)
  have f21_6 : fld z 21 6 = 6 := (hh 0 6).trans (by rw [fld]; omega)
  have rty : ITy.ofCode (fld z 30 2) = some ty := by
    rw [(hh 9 2).trans (show _ = ty.code by rw [fld]; omega)]; exact ITy.ofCode_code ty
  have rm : mregAt z 27 = m := Fin.ext ((hh 6 3).trans (by rw [fld]; omega))
  have rd : regAt z 6 = d := Fin.ext f6_5
  have ra : regAt z 11 = a := Fin.ext f11_5
  refine ⟨?_, by omega⟩
  refine (decode_eq f0_6).trans ?_
  show decVperm z = _
  rw [decVperm, f21_6, rty, rm, rd, ra]
  exact done_ok (w := z) (rs := [(16, 5)]) hw (by simp only [rsvCheck, f16_5, if_true])

theorem vpermImaxu (ty : ITy) (m : MReg) (d : Reg) (a : Reg) : Statement (.vpermImaxu ty m d a) := by
  intro z hw h
  have bty : ty.code ≤ 1 := ITy.code_le ty
  have bm := m.isLt
  have hz : z = 35 + 64 * d.val + 2048 * a.val + 65536 * 0 + 2097152 * (7 + 512 * ty.code + 64 * m.val) :=
    (Option.some.inj h).symm.trans (by omega)
  obtain ⟨f0_6, f6_5, f11_5, f16_5, hh⟩ := low_fields hz (by decide) (d.isLt) (a.isLt) (by decide)
  have f21_6 : fld z 21 6 = 7 := (hh 0 6).trans (by rw [fld]; omega)
  have rty : ITy.ofCode (fld z 30 2) = some ty := by
    rw [(hh 9 2).trans (show _ = ty.code by rw [fld]; omega)]; exact ITy.ofCode_code ty
  have rm : mregAt z 27 = m := Fin.ext ((hh 6 3).trans (by rw [fld]; omega))
  have rd : regAt z 6 = d := Fin.ext f6_5
  have ra : regAt z 11 = a := Fin.ext f11_5
  refine ⟨?_, by omega⟩
  refine (decode_eq f0_6).trans ?_
  show decVperm z = _
  rw [decVperm, f21_6, rty, rm, rd, ra]
  exact done_ok (w := z) (rs := [(16, 5)]) hw (by simp only [rsvCheck, f16_5, if_true])

theorem vpermIminu (ty : ITy) (m : MReg) (d : Reg) (a : Reg) : Statement (.vpermIminu ty m d a) := by
  intro z hw h
  have bty : ty.code ≤ 1 := ITy.code_le ty
  have bm := m.isLt
  have hz : z = 35 + 64 * d.val + 2048 * a.val + 65536 * 0 + 2097152 * (8 + 512 * ty.code + 64 * m.val) :=
    (Option.some.inj h).symm.trans (by omega)
  obtain ⟨f0_6, f6_5, f11_5, f16_5, hh⟩ := low_fields hz (by decide) (d.isLt) (a.isLt) (by decide)
  have f21_6 : fld z 21 6 = 8 := (hh 0 6).trans (by rw [fld]; omega)
  have rty : ITy.ofCode (fld z 30 2) = some ty := by
    rw [(hh 9 2).trans (show _ = ty.code by rw [fld]; omega)]; exact ITy.ofCode_code ty
  have rm : mregAt z 27 = m := Fin.ext ((hh 6 3).trans (by rw [fld]; omega))
  have rd : regAt z 6 = d := Fin.ext f6_5
  have ra : regAt z 11 = a := Fin.ext f11_5
  refine ⟨?_, by omega⟩
  refine (decode_eq f0_6).trans ?_
  show decVperm z = _
  rw [decVperm, f21_6, rty, rm, rd, ra]
  exact done_ok (w := z) (rs := [(16, 5)]) hw (by simp only [rsvCheck, f16_5, if_true])

theorem vpermPerm (ty : ITy) (m : MReg) (d : Reg) (a : Reg) (b : Reg) : Statement (.vpermPerm ty m d a b) := by
  intro z hw h
  have bty : ty.code ≤ 1 := ITy.code_le ty
  have bm := m.isLt
  have hz : z = 35 + 64 * d.val + 2048 * a.val + 65536 * b.val + 2097152 * (16 + 512 * ty.code + 64 * m.val) :=
    (Option.some.inj h).symm.trans (by omega)
  obtain ⟨f0_6, f6_5, f11_5, f16_5, hh⟩ := low_fields hz (by decide) (d.isLt) (a.isLt) (b.isLt)
  have f21_6 : fld z 21 6 = 16 := (hh 0 6).trans (by rw [fld]; omega)
  have rty : ITy.ofCode (fld z 30 2) = some ty := by
    rw [(hh 9 2).trans (show _ = ty.code by rw [fld]; omega)]; exact ITy.ofCode_code ty
  have rm : mregAt z 27 = m := Fin.ext ((hh 6 3).trans (by rw [fld]; omega))
  have rd : regAt z 6 = d := Fin.ext f6_5
  have ra : regAt z 11 = a := Fin.ext f11_5
  have rb : regAt z 16 = b := Fin.ext f16_5
  refine ⟨?_, by omega⟩
  refine (decode_eq f0_6).trans ?_
  show decVperm z = _
  rw [decVperm, f21_6, rty, rm, rd, ra, rb]
  exact done_ok (w := z) (rs := []) hw rfl

theorem vpermBcl (ty : ITy) (m : MReg) (d : Reg) (a : Reg) (n : BitVec 5) : Statement (.vpermBcl ty m d a n) := by
  intro z hw h
  have hz : z = 35 + 35651584 + 1073741824 * ty.code + 134217728 * m.val + 64 * d.val + 2048 * a.val + 65536 * n.toNat := (Option.some.inj h).symm
  have bty : ty.code ≤ 1 := ITy.code_le ty
  have bm := m.isLt
  have bd := d.isLt
  have ba := a.isLt
  have bn := n.isLt
  have f0_6 : fld z 0 6 = 35 := by rw [hz, fld]; omega
  have f21_6 : fld z 21 6 = 17 := by rw [hz, fld]; omega
  have rty : ITy.ofCode (fld z 30 2) = some ty := by
    rw [show fld z 30 2 = ty.code by rw [hz, fld]; omega]; exact ITy.ofCode_code ty
  have rm : mregAt z 27 = m := Fin.ext (by show fld z 27 3 = m.val; rw [hz, fld]; omega)
  have rd : regAt z 6 = d := Fin.ext (by show fld z 6 5 = d.val; rw [hz, fld]; omega)
  have ra : regAt z 11 = a := Fin.ext (by show fld z 11 5 = a.val; rw [hz, fld]; omega)
  have rn : BitVec.ofNat 5 (fld z 16 5) = n := ofNat_eq (by rw [hz, fld]; omega)
  refine ⟨?_, by rw [hz]; omega⟩
  refine (decode_eq f0_6).trans ?_
  show decVperm z = _
  rw [decVperm, f21_6, rty, rm, rd, ra, rn]
  exact done_ok (w := z) (rs := []) hw rfl

theorem vpermRot (ty : ITy) (m : MReg) (d : Reg) (a : Reg) (n : BitVec 5) : Statement (.vpermRot ty m d a n) := by
  intro z hw h
  have hz : z = 35 + 37748736 + 1073741824 * ty.code + 134217728 * m.val + 64 * d.val + 2048 * a.val + 65536 * n.toNat := (Option.some.inj h).symm
  have bty : ty.code ≤ 1 := ITy.code_le ty
  have bm := m.isLt
  have bd := d.isLt
  have ba := a.isLt
  have bn := n.isLt
  have f0_6 : fld z 0 6 = 35 := by rw [hz, fld]; omega
  have f21_6 : fld z 21 6 = 18 := by rw [hz, fld]; omega
  have rty : ITy.ofCode (fld z 30 2) = some ty := by
    rw [show fld z 30 2 = ty.code by rw [hz, fld]; omega]; exact ITy.ofCode_code ty
  have rm : mregAt z 27 = m := Fin.ext (by show fld z 27 3 = m.val; rw [hz, fld]; omega)
  have rd : regAt z 6 = d := Fin.ext (by show fld z 6 5 = d.val; rw [hz, fld]; omega)
  have ra : regAt z 11 = a := Fin.ext (by show fld z 11 5 = a.val; rw [hz, fld]; omega)
  have rn : BitVec.ofNat 5 (fld z 16 5) = n := ofNat_eq (by rw [hz, fld]; omega)
  refine ⟨?_, by rw [hz]; omega⟩
  refine (decode_eq f0_6).trans ?_
  show decVperm z = _
  rw [decVperm, f21_6, rty, rm, rd, ra, rn]
  exact done_ok (w := z) (rs := []) hw rfl

theorem vpermCmpr (m : MReg) (d : Reg) (a : Reg) (b : Reg) : Statement (.vpermCmpr m d a b) := by
  intro z hw h
  have bm := m.isLt
  have hz : z = 35 + 64 * d.val + 2048 * a.val + 65536 * b.val + 2097152 * (19 + 64 * m.val) :=
    (Option.some.inj h).symm.trans (by omega)
  obtain ⟨f0_6, f6_5, f11_5, f16_5, hh⟩ := low_fields hz (by decide) (d.isLt) (a.isLt) (b.isLt)
  have f21_6 : fld z 21 6 = 19 := (hh 0 6).trans (by rw [fld]; omega)
  have f30_2 : fld z 30 2 = 0 := (hh 9 2).trans (by rw [fld]; omega)
  have rm : mregAt z 27 = m := Fin.ext ((hh 6 3).trans (by rw [fld]; omega))
  have rd : regAt z 6 = d := Fin.ext f6_5
  have ra : regAt z 11 = a := Fin.ext f11_5
  have rb : regAt z 16 = b := Fin.ext f16_5
  refine ⟨?_, by omega⟩
  refine (decode_eq f0_6).trans ?_
  show decVperm z = _
  rw [decVperm, f21_6, f30_2, rm, rd, ra, rb]
  exact done_ok (w := z) (rs := []) hw rfl

theorem vpermExpd (m : MReg) (d : Reg) (a : Reg) (b : Reg) : Statement (.vpermExpd m d a b) := by
  intro z hw h
  have bm := m.isLt
  have hz : z = 35 + 64 * d.val + 2048 * a.val + 65536 * b.val + 2097152 * (20 + 64 * m.val) :=
    (Option.some.inj h).symm.trans (by omega)
  obtain ⟨f0_6, f6_5, f11_5, f16_5, hh⟩ := low_fields hz (by decide) (d.isLt) (a.isLt) (b.isLt)
  have f21_6 : fld z 21 6 = 20 := (hh 0 6).trans (by rw [fld]; omega)
  have f30_2 : fld z 30 2 = 0 := (hh 9 2).trans (by rw [fld]; omega)
  have rm : mregAt z 27 = m := Fin.ext ((hh 6 3).trans (by rw [fld]; omega))
  have rd : regAt z 6 = d := Fin.ext f6_5
  have ra : regAt z 11 = a := Fin.ext f11_5
  have rb : regAt z 16 = b := Fin.ext f16_5
  refine ⟨?_, by omega⟩
  refine (decode_eq f0_6).trans ?_
  show decVperm z = _
  rw [decVperm, f21_6, f30_2, rm, rd, ra, rb]
  exact done_ok (w := z) (rs := []) hw rfl

theorem vbmmMma (ty : GSize) (m : MReg) (d : Reg) (a : Reg) (b : Reg) : Statement (.vbmmMma ty m d a b) := by
  intro z hw h
  have bty : ty.code ≤ 3 := GSize.code_le ty
  have bm := m.isLt
  have hz : z = 36 + 64 * d.val + 2048 * a.val + 65536 * b.val + 2097152 * (512 * ty.code + 64 * m.val) :=
    (Option.some.inj h).symm.trans (by omega)
  obtain ⟨f0_6, f6_5, f11_5, f16_5, hh⟩ := low_fields hz (by decide) (d.isLt) (a.isLt) (b.isLt)
  have f21_6 : fld z 21 6 = 0 := (hh 0 6).trans (by rw [fld]; omega)
  have rty : GSize.ofCode (fld z 30 2) = ty := by
    rw [(hh 9 2).trans (show _ = ty.code by rw [fld]; omega)]; cases ty <;> rfl
  have rm : mregAt z 27 = m := Fin.ext ((hh 6 3).trans (by rw [fld]; omega))
  have rd : regAt z 6 = d := Fin.ext f6_5
  have ra : regAt z 11 = a := Fin.ext f11_5
  have rb : regAt z 16 = b := Fin.ext f16_5
  refine ⟨?_, by omega⟩
  refine (decode_eq f0_6).trans ?_
  show decVbmm z = _
  rw [decVbmm, f21_6, rty, rm, rd, ra, rb]
  exact done_ok (w := z) (rs := []) hw rfl

theorem vbmmMm (ty : GSize) (m : MReg) (d : Reg) (a : Reg) (b : Reg) : Statement (.vbmmMm ty m d a b) := by
  intro z hw h
  have bty : ty.code ≤ 3 := GSize.code_le ty
  have bm := m.isLt
  have hz : z = 36 + 64 * d.val + 2048 * a.val + 65536 * b.val + 2097152 * (1 + 512 * ty.code + 64 * m.val) :=
    (Option.some.inj h).symm.trans (by omega)
  obtain ⟨f0_6, f6_5, f11_5, f16_5, hh⟩ := low_fields hz (by decide) (d.isLt) (a.isLt) (b.isLt)
  have f21_6 : fld z 21 6 = 1 := (hh 0 6).trans (by rw [fld]; omega)
  have rty : GSize.ofCode (fld z 30 2) = ty := by
    rw [(hh 9 2).trans (show _ = ty.code by rw [fld]; omega)]; cases ty <;> rfl
  have rm : mregAt z 27 = m := Fin.ext ((hh 6 3).trans (by rw [fld]; omega))
  have rd : regAt z 6 = d := Fin.ext f6_5
  have ra : regAt z 11 = a := Fin.ext f11_5
  have rb : regAt z 16 = b := Fin.ext f16_5
  refine ⟨?_, by omega⟩
  refine (decode_eq f0_6).trans ?_
  show decVbmm z = _
  rw [decVbmm, f21_6, rty, rm, rd, ra, rb]
  exact done_ok (w := z) (rs := []) hw rfl

theorem vmskAnd (d : MReg) (a : MReg) (b : MReg) : Statement (.vmskAnd d a b) := by
  intro z hw h
  have hz : z = 37 + 64 * d.val + 2048 * a.val + 65536 * b.val := (Option.some.inj h).symm
  have bd := d.isLt
  have ba := a.isLt
  have bb := b.isLt
  have f0_6 : fld z 0 6 = 37 := by rw [hz, fld]; omega
  have f21_6 : fld z 21 6 = 0 := by rw [hz, fld]; omega
  have f9_2 : fld z 9 2 = 0 := by rw [hz, fld]; omega
  have f14_2 : fld z 14 2 = 0 := by rw [hz, fld]; omega
  have f19_2 : fld z 19 2 = 0 := by rw [hz, fld]; omega
  have f27_5 : fld z 27 5 = 0 := by rw [hz, fld]; omega
  have rd : mregAt z 6 = d := Fin.ext (by show fld z 6 3 = d.val; rw [hz, fld]; omega)
  have ra : mregAt z 11 = a := Fin.ext (by show fld z 11 3 = a.val; rw [hz, fld]; omega)
  have rb : mregAt z 16 = b := Fin.ext (by show fld z 16 3 = b.val; rw [hz, fld]; omega)
  refine ⟨?_, by rw [hz]; omega⟩
  refine (decode_eq f0_6).trans ?_
  show decVmsk z = _
  rw [decVmsk, f21_6, rd, ra, rb]
  exact done_ok (w := z) (rs := [(9, 2), (14, 2), (19, 2), (27, 5)]) hw (by simp only [rsvCheck, f9_2, f14_2, f19_2, f27_5, if_true])

theorem vmskOr (d : MReg) (a : MReg) (b : MReg) : Statement (.vmskOr d a b) := by
  intro z hw h
  have hz : z = 37 + 2097152 + 64 * d.val + 2048 * a.val + 65536 * b.val := (Option.some.inj h).symm
  have bd := d.isLt
  have ba := a.isLt
  have bb := b.isLt
  have f0_6 : fld z 0 6 = 37 := by rw [hz, fld]; omega
  have f21_6 : fld z 21 6 = 1 := by rw [hz, fld]; omega
  have f9_2 : fld z 9 2 = 0 := by rw [hz, fld]; omega
  have f14_2 : fld z 14 2 = 0 := by rw [hz, fld]; omega
  have f19_2 : fld z 19 2 = 0 := by rw [hz, fld]; omega
  have f27_5 : fld z 27 5 = 0 := by rw [hz, fld]; omega
  have rd : mregAt z 6 = d := Fin.ext (by show fld z 6 3 = d.val; rw [hz, fld]; omega)
  have ra : mregAt z 11 = a := Fin.ext (by show fld z 11 3 = a.val; rw [hz, fld]; omega)
  have rb : mregAt z 16 = b := Fin.ext (by show fld z 16 3 = b.val; rw [hz, fld]; omega)
  refine ⟨?_, by rw [hz]; omega⟩
  refine (decode_eq f0_6).trans ?_
  show decVmsk z = _
  rw [decVmsk, f21_6, rd, ra, rb]
  exact done_ok (w := z) (rs := [(9, 2), (14, 2), (19, 2), (27, 5)]) hw (by simp only [rsvCheck, f9_2, f14_2, f19_2, f27_5, if_true])

theorem vmskXor (d : MReg) (a : MReg) (b : MReg) : Statement (.vmskXor d a b) := by
  intro z hw h
  have hz : z = 37 + 4194304 + 64 * d.val + 2048 * a.val + 65536 * b.val := (Option.some.inj h).symm
  have bd := d.isLt
  have ba := a.isLt
  have bb := b.isLt
  have f0_6 : fld z 0 6 = 37 := by rw [hz, fld]; omega
  have f21_6 : fld z 21 6 = 2 := by rw [hz, fld]; omega
  have f9_2 : fld z 9 2 = 0 := by rw [hz, fld]; omega
  have f14_2 : fld z 14 2 = 0 := by rw [hz, fld]; omega
  have f19_2 : fld z 19 2 = 0 := by rw [hz, fld]; omega
  have f27_5 : fld z 27 5 = 0 := by rw [hz, fld]; omega
  have rd : mregAt z 6 = d := Fin.ext (by show fld z 6 3 = d.val; rw [hz, fld]; omega)
  have ra : mregAt z 11 = a := Fin.ext (by show fld z 11 3 = a.val; rw [hz, fld]; omega)
  have rb : mregAt z 16 = b := Fin.ext (by show fld z 16 3 = b.val; rw [hz, fld]; omega)
  refine ⟨?_, by rw [hz]; omega⟩
  refine (decode_eq f0_6).trans ?_
  show decVmsk z = _
  rw [decVmsk, f21_6, rd, ra, rb]
  exact done_ok (w := z) (rs := [(9, 2), (14, 2), (19, 2), (27, 5)]) hw (by simp only [rsvCheck, f9_2, f14_2, f19_2, f27_5, if_true])

theorem vmskAndn (d : MReg) (a : MReg) (b : MReg) : Statement (.vmskAndn d a b) := by
  intro z hw h
  have hz : z = 37 + 6291456 + 64 * d.val + 2048 * a.val + 65536 * b.val := (Option.some.inj h).symm
  have bd := d.isLt
  have ba := a.isLt
  have bb := b.isLt
  have f0_6 : fld z 0 6 = 37 := by rw [hz, fld]; omega
  have f21_6 : fld z 21 6 = 3 := by rw [hz, fld]; omega
  have f9_2 : fld z 9 2 = 0 := by rw [hz, fld]; omega
  have f14_2 : fld z 14 2 = 0 := by rw [hz, fld]; omega
  have f19_2 : fld z 19 2 = 0 := by rw [hz, fld]; omega
  have f27_5 : fld z 27 5 = 0 := by rw [hz, fld]; omega
  have rd : mregAt z 6 = d := Fin.ext (by show fld z 6 3 = d.val; rw [hz, fld]; omega)
  have ra : mregAt z 11 = a := Fin.ext (by show fld z 11 3 = a.val; rw [hz, fld]; omega)
  have rb : mregAt z 16 = b := Fin.ext (by show fld z 16 3 = b.val; rw [hz, fld]; omega)
  refine ⟨?_, by rw [hz]; omega⟩
  refine (decode_eq f0_6).trans ?_
  show decVmsk z = _
  rw [decVmsk, f21_6, rd, ra, rb]
  exact done_ok (w := z) (rs := [(9, 2), (14, 2), (19, 2), (27, 5)]) hw (by simp only [rsvCheck, f9_2, f14_2, f19_2, f27_5, if_true])

theorem vmskNot (d : MReg) (a : MReg) : Statement (.vmskNot d a) := by
  intro z hw h
  have hz : z = 37 + 8388608 + 64 * d.val + 2048 * a.val := (Option.some.inj h).symm
  have bd := d.isLt
  have ba := a.isLt
  have f0_6 : fld z 0 6 = 37 := by rw [hz, fld]; omega
  have f21_6 : fld z 21 6 = 4 := by rw [hz, fld]; omega
  have f9_2 : fld z 9 2 = 0 := by rw [hz, fld]; omega
  have f14_7 : fld z 14 7 = 0 := by rw [hz, fld]; omega
  have f27_5 : fld z 27 5 = 0 := by rw [hz, fld]; omega
  have rd : mregAt z 6 = d := Fin.ext (by show fld z 6 3 = d.val; rw [hz, fld]; omega)
  have ra : mregAt z 11 = a := Fin.ext (by show fld z 11 3 = a.val; rw [hz, fld]; omega)
  refine ⟨?_, by rw [hz]; omega⟩
  refine (decode_eq f0_6).trans ?_
  show decVmsk z = _
  rw [decVmsk, f21_6, rd, ra]
  exact done_ok (w := z) (rs := [(9, 2), (14, 7), (27, 5)]) hw (by simp only [rsvCheck, f9_2, f14_7, f27_5, if_true])

theorem vmskFromg (d : MReg) (a : Reg) : Statement (.vmskFromg d a) := by
  intro z hw h
  have hz : z = 37 + 16777216 + 64 * d.val + 2048 * a.val := (Option.some.inj h).symm
  have bd := d.isLt
  have ba := a.isLt
  have f0_6 : fld z 0 6 = 37 := by rw [hz, fld]; omega
  have f21_6 : fld z 21 6 = 8 := by rw [hz, fld]; omega
  have f9_2 : fld z 9 2 = 0 := by rw [hz, fld]; omega
  have f16_5 : fld z 16 5 = 0 := by rw [hz, fld]; omega
  have f27_5 : fld z 27 5 = 0 := by rw [hz, fld]; omega
  have rd : mregAt z 6 = d := Fin.ext (by show fld z 6 3 = d.val; rw [hz, fld]; omega)
  have ra : regAt z 11 = a := Fin.ext (by show fld z 11 5 = a.val; rw [hz, fld]; omega)
  refine ⟨?_, by rw [hz]; omega⟩
  refine (decode_eq f0_6).trans ?_
  show decVmsk z = _
  rw [decVmsk, f21_6, rd, ra]
  exact done_ok (w := z) (rs := [(9, 2), (16, 5), (27, 5)]) hw (by simp only [rsvCheck, f9_2, f16_5, f27_5, if_true])

theorem vmskTog (d : Reg) (a : MReg) : Statement (.vmskTog d a) := by
  intro z hw h
  have hz : z = 37 + 18874368 + 64 * d.val + 2048 * a.val := (Option.some.inj h).symm
  have bd := d.isLt
  have ba := a.isLt
  have f0_6 : fld z 0 6 = 37 := by rw [hz, fld]; omega
  have f21_6 : fld z 21 6 = 9 := by rw [hz, fld]; omega
  have f14_7 : fld z 14 7 = 0 := by rw [hz, fld]; omega
  have f27_5 : fld z 27 5 = 0 := by rw [hz, fld]; omega
  have rd : regAt z 6 = d := Fin.ext (by show fld z 6 5 = d.val; rw [hz, fld]; omega)
  have ra : mregAt z 11 = a := Fin.ext (by show fld z 11 3 = a.val; rw [hz, fld]; omega)
  refine ⟨?_, by rw [hz]; omega⟩
  refine (decode_eq f0_6).trans ?_
  show decVmsk z = _
  rw [decVmsk, f21_6, rd, ra]
  exact done_ok (w := z) (rs := [(14, 7), (27, 5)]) hw (by simp only [rsvCheck, f14_7, f27_5, if_true])

theorem vmskPopc (d : Reg) (a : MReg) : Statement (.vmskPopc d a) := by
  intro z hw h
  have hz : z = 37 + 20971520 + 64 * d.val + 2048 * a.val := (Option.some.inj h).symm
  have bd := d.isLt
  have ba := a.isLt
  have f0_6 : fld z 0 6 = 37 := by rw [hz, fld]; omega
  have f21_6 : fld z 21 6 = 10 := by rw [hz, fld]; omega
  have f14_7 : fld z 14 7 = 0 := by rw [hz, fld]; omega
  have f27_5 : fld z 27 5 = 0 := by rw [hz, fld]; omega
  have rd : regAt z 6 = d := Fin.ext (by show fld z 6 5 = d.val; rw [hz, fld]; omega)
  have ra : mregAt z 11 = a := Fin.ext (by show fld z 11 3 = a.val; rw [hz, fld]; omega)
  refine ⟨?_, by rw [hz]; omega⟩
  refine (decode_eq f0_6).trans ?_
  show decVmsk z = _
  rw [decVmsk, f21_6, rd, ra]
  exact done_ok (w := z) (rs := [(14, 7), (27, 5)]) hw (by simp only [rsvCheck, f14_7, f27_5, if_true])

theorem vmskFirst (d : Reg) (a : MReg) : Statement (.vmskFirst d a) := by
  intro z hw h
  have hz : z = 37 + 23068672 + 64 * d.val + 2048 * a.val := (Option.some.inj h).symm
  have bd := d.isLt
  have ba := a.isLt
  have f0_6 : fld z 0 6 = 37 := by rw [hz, fld]; omega
  have f21_6 : fld z 21 6 = 11 := by rw [hz, fld]; omega
  have f14_7 : fld z 14 7 = 0 := by rw [hz, fld]; omega
  have f27_5 : fld z 27 5 = 0 := by rw [hz, fld]; omega
  have rd : regAt z 6 = d := Fin.ext (by show fld z 6 5 = d.val; rw [hz, fld]; omega)
  have ra : mregAt z 11 = a := Fin.ext (by show fld z 11 3 = a.val; rw [hz, fld]; omega)
  refine ⟨?_, by rw [hz]; omega⟩
  refine (decode_eq f0_6).trans ?_
  show decVmsk z = _
  rw [decVmsk, f21_6, rd, ra]
  exact done_ok (w := z) (rs := [(14, 7), (27, 5)]) hw (by simp only [rsvCheck, f14_7, f27_5, if_true])

theorem vmskPre (d : MReg) (a : Reg) : Statement (.vmskPre d a) := by
  intro z hw h
  have hz : z = 37 + 25165824 + 64 * d.val + 2048 * a.val := (Option.some.inj h).symm
  have bd := d.isLt
  have ba := a.isLt
  have f0_6 : fld z 0 6 = 37 := by rw [hz, fld]; omega
  have f21_6 : fld z 21 6 = 12 := by rw [hz, fld]; omega
  have f9_2 : fld z 9 2 = 0 := by rw [hz, fld]; omega
  have f16_5 : fld z 16 5 = 0 := by rw [hz, fld]; omega
  have f27_5 : fld z 27 5 = 0 := by rw [hz, fld]; omega
  have rd : mregAt z 6 = d := Fin.ext (by show fld z 6 3 = d.val; rw [hz, fld]; omega)
  have ra : regAt z 11 = a := Fin.ext (by show fld z 11 5 = a.val; rw [hz, fld]; omega)
  refine ⟨?_, by rw [hz]; omega⟩
  refine (decode_eq f0_6).trans ?_
  show decVmsk z = _
  rw [decVmsk, f21_6, rd, ra]
  exact done_ok (w := z) (rs := [(9, 2), (16, 5), (27, 5)]) hw (by simp only [rsvCheck, f9_2, f16_5, f27_5, if_true])

theorem vmskGlen (ty : GSize) (d : MReg) (a : Reg) : Statement (.vmskGlen ty d a) := by
  intro z hw h
  have hz : z = 37 + 27262976 + 1073741824 * ty.code + 64 * d.val + 2048 * a.val := (Option.some.inj h).symm
  have bty : ty.code ≤ 3 := GSize.code_le ty
  have bd := d.isLt
  have ba := a.isLt
  have f0_6 : fld z 0 6 = 37 := by rw [hz, fld]; omega
  have f21_6 : fld z 21 6 = 13 := by rw [hz, fld]; omega
  have f9_2 : fld z 9 2 = 0 := by rw [hz, fld]; omega
  have f16_5 : fld z 16 5 = 0 := by rw [hz, fld]; omega
  have f27_3 : fld z 27 3 = 0 := by rw [hz, fld]; omega
  have rty : GSize.ofCode (fld z 30 2) = ty := by
    rw [show fld z 30 2 = ty.code by rw [hz, fld]; omega]; cases ty <;> rfl
  have rd : mregAt z 6 = d := Fin.ext (by show fld z 6 3 = d.val; rw [hz, fld]; omega)
  have ra : regAt z 11 = a := Fin.ext (by show fld z 11 5 = a.val; rw [hz, fld]; omega)
  refine ⟨?_, by rw [hz]; omega⟩
  refine (decode_eq f0_6).trans ?_
  show decVmsk z = _
  rw [decVmsk, f21_6, rty, rd, ra]
  exact done_ok (w := z) (rs := [(9, 2), (16, 5), (27, 3)]) hw (by simp only [rsvCheck, f9_2, f16_5, f27_3, if_true])

theorem vmovMov (ty : ITy) (m : MReg) (d : Reg) (a : Reg) : Statement (.vmovMov ty m d a) := by
  intro z hw h
  have bty : ty.code ≤ 1 := ITy.code_le ty
  have bm := m.isLt
  have hz : z = 38 + 64 * d.val + 2048 * a.val + 65536 * 0 + 2097152 * (512 * ty.code + 64 * m.val) :=
    (Option.some.inj h).symm.trans (by omega)
  obtain ⟨f0_6, f6_5, f11_5, f16_5, hh⟩ := low_fields hz (by decide) (d.isLt) (a.isLt) (by decide)
  have f21_6 : fld z 21 6 = 0 := (hh 0 6).trans (by rw [fld]; omega)
  have rty : ITy.ofCode (fld z 30 2) = some ty := by
    rw [(hh 9 2).trans (show _ = ty.code by rw [fld]; omega)]; exact ITy.ofCode_code ty
  have rm : mregAt z 27 = m := Fin.ext ((hh 6 3).trans (by rw [fld]; omega))
  have rd : regAt z 6 = d := Fin.ext f6_5
  have ra : regAt z 11 = a := Fin.ext f11_5
  refine ⟨?_, by omega⟩
  refine (decode_eq f0_6).trans ?_
  show decVmov z = _
  rw [decVmov, f21_6, rty, rm, rd, ra]
  exact done_ok (w := z) (rs := [(16, 5)]) hw (by simp only [rsvCheck, f16_5, if_true])

theorem vmovSel (ty : ITy) (m : MReg) (d : Reg) (a : Reg) (b : Reg) : Statement (.vmovSel ty m d a b) := by
  intro z hw h
  have bty : ty.code ≤ 1 := ITy.code_le ty
  have bm := m.isLt
  have hz : z = 38 + 64 * d.val + 2048 * a.val + 65536 * b.val + 2097152 * (1 + 512 * ty.code + 64 * m.val) :=
    (Option.some.inj h).symm.trans (by omega)
  obtain ⟨f0_6, f6_5, f11_5, f16_5, hh⟩ := low_fields hz (by decide) (d.isLt) (a.isLt) (b.isLt)
  have f21_6 : fld z 21 6 = 1 := (hh 0 6).trans (by rw [fld]; omega)
  have rty : ITy.ofCode (fld z 30 2) = some ty := by
    rw [(hh 9 2).trans (show _ = ty.code by rw [fld]; omega)]; exact ITy.ofCode_code ty
  have rm : mregAt z 27 = m := Fin.ext ((hh 6 3).trans (by rw [fld]; omega))
  have rd : regAt z 6 = d := Fin.ext f6_5
  have ra : regAt z 11 = a := Fin.ext f11_5
  have rb : regAt z 16 = b := Fin.ext f16_5
  refine ⟨?_, by omega⟩
  refine (decode_eq f0_6).trans ?_
  show decVmov z = _
  rw [decVmov, f21_6, rty, rm, rd, ra, rb]
  exact done_ok (w := z) (rs := []) hw rfl

theorem vmovBcg (ty : ITy) (m : MReg) (d : Reg) (a : Reg) : Statement (.vmovBcg ty m d a) := by
  intro z hw h
  have bty : ty.code ≤ 1 := ITy.code_le ty
  have bm := m.isLt
  have hz : z = 38 + 64 * d.val + 2048 * a.val + 65536 * 0 + 2097152 * (2 + 512 * ty.code + 64 * m.val) :=
    (Option.some.inj h).symm.trans (by omega)
  obtain ⟨f0_6, f6_5, f11_5, f16_5, hh⟩ := low_fields hz (by decide) (d.isLt) (a.isLt) (by decide)
  have f21_6 : fld z 21 6 = 2 := (hh 0 6).trans (by rw [fld]; omega)
  have rty : ITy.ofCode (fld z 30 2) = some ty := by
    rw [(hh 9 2).trans (show _ = ty.code by rw [fld]; omega)]; exact ITy.ofCode_code ty
  have rm : mregAt z 27 = m := Fin.ext ((hh 6 3).trans (by rw [fld]; omega))
  have rd : regAt z 6 = d := Fin.ext f6_5
  have ra : regAt z 11 = a := Fin.ext f11_5
  refine ⟨?_, by omega⟩
  refine (decode_eq f0_6).trans ?_
  show decVmov z = _
  rw [decVmov, f21_6, rty, rm, rd, ra]
  exact done_ok (w := z) (rs := [(16, 5)]) hw (by simp only [rsvCheck, f16_5, if_true])

theorem vmovIns (ty : ITy) (d : Reg) (a : Reg) (b : Reg) : Statement (.vmovIns ty d a b) := by
  intro z hw h
  have bty : ty.code ≤ 1 := ITy.code_le ty
  have hz : z = 38 + 64 * d.val + 2048 * a.val + 65536 * b.val + 2097152 * (3 + 512 * ty.code) :=
    (Option.some.inj h).symm.trans (by omega)
  obtain ⟨f0_6, f6_5, f11_5, f16_5, hh⟩ := low_fields hz (by decide) (d.isLt) (a.isLt) (b.isLt)
  have f21_6 : fld z 21 6 = 3 := (hh 0 6).trans (by rw [fld]; omega)
  have f27_3 : fld z 27 3 = 0 := (hh 6 3).trans (by rw [fld]; omega)
  have rty : ITy.ofCode (fld z 30 2) = some ty := by
    rw [(hh 9 2).trans (show _ = ty.code by rw [fld]; omega)]; exact ITy.ofCode_code ty
  have rd : regAt z 6 = d := Fin.ext f6_5
  have ra : regAt z 11 = a := Fin.ext f11_5
  have rb : regAt z 16 = b := Fin.ext f16_5
  refine ⟨?_, by omega⟩
  refine (decode_eq f0_6).trans ?_
  show decVmov z = _
  rw [decVmov, f21_6, rty, rd, ra, rb]
  exact done_ok (w := z) (rs := [(27, 3)]) hw (by simp only [rsvCheck, f27_3, if_true])

theorem vmovExt (ty : ITy) (d : Reg) (a : Reg) (b : Reg) : Statement (.vmovExt ty d a b) := by
  intro z hw h
  have bty : ty.code ≤ 1 := ITy.code_le ty
  have hz : z = 38 + 64 * d.val + 2048 * a.val + 65536 * b.val + 2097152 * (4 + 512 * ty.code) :=
    (Option.some.inj h).symm.trans (by omega)
  obtain ⟨f0_6, f6_5, f11_5, f16_5, hh⟩ := low_fields hz (by decide) (d.isLt) (a.isLt) (b.isLt)
  have f21_6 : fld z 21 6 = 4 := (hh 0 6).trans (by rw [fld]; omega)
  have f27_3 : fld z 27 3 = 0 := (hh 6 3).trans (by rw [fld]; omega)
  have rty : ITy.ofCode (fld z 30 2) = some ty := by
    rw [(hh 9 2).trans (show _ = ty.code by rw [fld]; omega)]; exact ITy.ofCode_code ty
  have rd : regAt z 6 = d := Fin.ext f6_5
  have ra : regAt z 11 = a := Fin.ext f11_5
  have rb : regAt z 16 = b := Fin.ext f16_5
  refine ⟨?_, by omega⟩
  refine (decode_eq f0_6).trans ?_
  show decVmov z = _
  rw [decVmov, f21_6, rty, rd, ra, rb]
  exact done_ok (w := z) (rs := [(27, 3)]) hw (by simp only [rsvCheck, f27_3, if_true])

theorem vmovIota (ty : ITy) (m : MReg) (d : Reg) : Statement (.vmovIota ty m d) := by
  intro z hw h
  have bty : ty.code ≤ 1 := ITy.code_le ty
  have bm := m.isLt
  have hz : z = 38 + 64 * d.val + 2048 * 0 + 65536 * 0 + 2097152 * (5 + 512 * ty.code + 64 * m.val) :=
    (Option.some.inj h).symm.trans (by omega)
  obtain ⟨f0_6, f6_5, f11_5, f16_5, hh⟩ := low_fields hz (by decide) (d.isLt) (by decide) (by decide)
  have f21_6 : fld z 21 6 = 5 := (hh 0 6).trans (by rw [fld]; omega)
  have f11_10 : fld z 11 10 = 0 := by rw [hz, fld]; omega
  have rty : ITy.ofCode (fld z 30 2) = some ty := by
    rw [(hh 9 2).trans (show _ = ty.code by rw [fld]; omega)]; exact ITy.ofCode_code ty
  have rm : mregAt z 27 = m := Fin.ext ((hh 6 3).trans (by rw [fld]; omega))
  have rd : regAt z 6 = d := Fin.ext f6_5
  refine ⟨?_, by omega⟩
  refine (decode_eq f0_6).trans ?_
  show decVmov z = _
  rw [decVmov, f21_6, rty, rm, rd]
  exact done_ok (w := z) (rs := [(11, 10)]) hw (by simp only [rsvCheck, f11_10, if_true])

theorem gangMm (e : BitVec 4) (d : Reg) (a : Reg) : Statement (.gangMm e d a) := by
  intro z hw h
  have be := e.isLt
  have hz : z = 40 + 64 * d.val + 2048 * a.val + 65536 * 0 + 2097152 * (16 * e.toNat) :=
    (Option.some.inj h).symm.trans (by omega)
  obtain ⟨f0_6, f6_5, f11_5, f16_5, hh⟩ := low_fields hz (by decide) (d.isLt) (a.isLt) (by decide)
  have f21_4 : fld z 21 4 = 0 := (hh 0 4).trans (by rw [fld]; omega)
  have f29_3 : fld z 29 3 = 0 := (hh 8 3).trans (by rw [fld]; omega)
  have re : BitVec.ofNat 4 (fld z 25 4) = e := ofNat_eq ((hh 4 4).trans (by rw [fld]; omega))
  have rd : regAt z 6 = d := Fin.ext f6_5
  have ra : regAt z 11 = a := Fin.ext f11_5
  refine ⟨?_, by omega⟩
  refine (decode_eq f0_6).trans ?_
  show decGang z = _
  rw [decGang, f21_4, re, rd, ra]
  exact done_ok (w := z) (rs := [(16, 5), (29, 3)]) hw (by simp only [rsvCheck, f16_5, f29_3, if_true])

theorem gangPeg (e : BitVec 4) (d : Reg) : Statement (.gangPeg e d) := by
  intro z hw h
  have be := e.isLt
  have hz : z = 40 + 64 * d.val + 2048 * 0 + 65536 * 0 + 2097152 * (1 + 16 * e.toNat) :=
    (Option.some.inj h).symm.trans (by omega)
  obtain ⟨f0_6, f6_5, f11_5, f16_5, hh⟩ := low_fields hz (by decide) (d.isLt) (by decide) (by decide)
  have f21_4 : fld z 21 4 = 1 := (hh 0 4).trans (by rw [fld]; omega)
  have f11_10 : fld z 11 10 = 0 := by rw [hz, fld]; omega
  have f29_3 : fld z 29 3 = 0 := (hh 8 3).trans (by rw [fld]; omega)
  have re : BitVec.ofNat 4 (fld z 25 4) = e := ofNat_eq ((hh 4 4).trans (by rw [fld]; omega))
  have rd : regAt z 6 = d := Fin.ext f6_5
  refine ⟨?_, by omega⟩
  refine (decode_eq f0_6).trans ?_
  show decGang z = _
  rw [decGang, f21_4, re, rd]
  exact done_ok (w := z) (rs := [(11, 10), (29, 3)]) hw (by simp only [rsvCheck, f11_10, f29_3, if_true])

theorem gangRdacc (d : Reg) (a : Reg) : Statement (.gangRdacc d a) := by
  intro z hw h
  have hz : z = 40 + 64 * d.val + 2048 * a.val + 65536 * 0 + 2097152 * (4) :=
    (Option.some.inj h).symm.trans (by omega)
  obtain ⟨f0_6, f6_5, f11_5, f16_5, hh⟩ := low_fields hz (by decide) (d.isLt) (a.isLt) (by decide)
  have f21_4 : fld z 21 4 = 4 := (hh 0 4).trans rfl
  have f25_7 : fld z 25 7 = 0 := (hh 4 7).trans rfl
  have rd : regAt z 6 = d := Fin.ext f6_5
  have ra : regAt z 11 = a := Fin.ext f11_5
  refine ⟨?_, by omega⟩
  refine (decode_eq f0_6).trans ?_
  show decGang z = _
  rw [decGang, f21_4, rd, ra]
  exact done_ok (w := z) (rs := [(16, 5), (25, 7)]) hw (by simp only [rsvCheck, f16_5, f25_7, if_true])

theorem gangWracc (d : Reg) (a : Reg) : Statement (.gangWracc d a) := by
  intro z hw h
  have hz : z = 40 + 64 * d.val + 2048 * a.val + 65536 * 0 + 2097152 * (5) :=
    (Option.some.inj h).symm.trans (by omega)
  obtain ⟨f0_6, f6_5, f11_5, f16_5, hh⟩ := low_fields hz (by decide) (d.isLt) (a.isLt) (by decide)
  have f21_4 : fld z 21 4 = 5 := (hh 0 4).trans rfl
  have f25_7 : fld z 25 7 = 0 := (hh 4 7).trans rfl
  have rd : regAt z 6 = d := Fin.ext f6_5
  have ra : regAt z 11 = a := Fin.ext f11_5
  refine ⟨?_, by omega⟩
  refine (decode_eq f0_6).trans ?_
  show decGang z = _
  rw [decGang, f21_4, rd, ra]
  exact done_ok (w := z) (rs := [(16, 5), (25, 7)]) hw (by simp only [rsvCheck, f16_5, f25_7, if_true])

theorem gangZacc (a : Reg) : Statement (.gangZacc a) := by
  intro z hw h
  have hz : z = 40 + 64 * 0 + 2048 * a.val + 65536 * 0 + 2097152 * (6) :=
    (Option.some.inj h).symm.trans (by omega)
  obtain ⟨f0_6, f6_5, f11_5, f16_5, hh⟩ := low_fields hz (by decide) (by decide) (a.isLt) (by decide)
  have f21_4 : fld z 21 4 = 6 := (hh 0 4).trans rfl
  have f25_7 : fld z 25 7 = 0 := (hh 4 7).trans rfl
  have ra : regAt z 11 = a := Fin.ext f11_5
  refine ⟨?_, by omega⟩
  refine (decode_eq f0_6).trans ?_
  show decGang z = _
  rw [decGang, f21_4, ra]
  exact done_ok (w := z) (rs := [(6, 5), (16, 5), (25, 7)]) hw (by simp only [rsvCheck, f6_5, f16_5, f25_7, if_true])

theorem sprsScan (x : ElemTy) (d : Reg) (a : Reg) (b : Reg) : Statement (.sprsScan x d a b) := by
  intro z hw h
  have bx : x.code ≤ 1 := ElemTy.code_le x
  have hz : z = 41 + 64 * d.val + 2048 * a.val + 65536 * b.val + 2097152 * (256 * x.code) :=
    (Option.some.inj h).symm.trans (by omega)
  obtain ⟨f0_6, f6_5, f11_5, f16_5, hh⟩ := low_fields hz (by decide) (d.isLt) (a.isLt) (b.isLt)
  have f21_4 : fld z 21 4 = 0 := (hh 0 4).trans (by rw [fld]; omega)
  have f25_4 : fld z 25 4 = 0 := (hh 4 4).trans (by rw [fld]; omega)
  have rx : ElemTy.ofCode (fld z 29 3) = some x := by
    rw [(hh 8 3).trans (show _ = x.code by rw [fld]; omega)]; exact ElemTy.ofCode_code x
  have rd : regAt z 6 = d := Fin.ext f6_5
  have ra : regAt z 11 = a := Fin.ext f11_5
  have rb : regAt z 16 = b := Fin.ext f16_5
  refine ⟨?_, by omega⟩
  refine (decode_eq f0_6).trans ?_
  show decSprs z = _
  rw [decSprs, f21_4, rx, rd, ra, rb]
  exact done_ok (w := z) (rs := [(25, 4)]) hw (by simp only [rsvCheck, f25_4, if_true])

theorem sprsS24 (x : ElemTy) (d : Reg) (a : Reg) : Statement (.sprsS24 x d a) := by
  intro z hw h
  have bx : x.code ≤ 1 := ElemTy.code_le x
  have hz : z = 41 + 64 * d.val + 2048 * a.val + 65536 * 0 + 2097152 * (1 + 256 * x.code) :=
    (Option.some.inj h).symm.trans (by omega)
  obtain ⟨f0_6, f6_5, f11_5, f16_5, hh⟩ := low_fields hz (by decide) (d.isLt) (a.isLt) (by decide)
  have f21_4 : fld z 21 4 = 1 := (hh 0 4).trans (by rw [fld]; omega)
  have f25_4 : fld z 25 4 = 0 := (hh 4 4).trans (by rw [fld]; omega)
  have rx : ElemTy.ofCode (fld z 29 3) = some x := by
    rw [(hh 8 3).trans (show _ = x.code by rw [fld]; omega)]; exact ElemTy.ofCode_code x
  have rd : regAt z 6 = d := Fin.ext f6_5
  have ra : regAt z 11 = a := Fin.ext f11_5
  refine ⟨?_, by omega⟩
  refine (decode_eq f0_6).trans ?_
  show decSprs z = _
  rw [decSprs, f21_4, rx, rd, ra]
  exact done_ok (w := z) (rs := [(16, 5), (25, 4)]) hw (by simp only [rsvCheck, f16_5, f25_4, if_true])

theorem latheReq (e : BitVec 4) (d : Reg) (a : Reg) (b : Reg) : Statement (.latheReq e d a b) := by
  intro z hw h
  have be := e.isLt
  have hz : z = 42 + 64 * d.val + 2048 * a.val + 65536 * b.val + 2097152 * (16 * e.toNat) :=
    (Option.some.inj h).symm.trans (by omega)
  obtain ⟨f0_6, f6_5, f11_5, f16_5, hh⟩ := low_fields hz (by decide) (d.isLt) (a.isLt) (b.isLt)
  have f21_4 : fld z 21 4 = 0 := (hh 0 4).trans (by rw [fld]; omega)
  have f29_3 : fld z 29 3 = 0 := (hh 8 3).trans (by rw [fld]; omega)
  have re : BitVec.ofNat 4 (fld z 25 4) = e := ofNat_eq ((hh 4 4).trans (by rw [fld]; omega))
  have rd : regAt z 6 = d := Fin.ext f6_5
  have ra : regAt z 11 = a := Fin.ext f11_5
  have rb : regAt z 16 = b := Fin.ext f16_5
  refine ⟨?_, by omega⟩
  refine (decode_eq f0_6).trans ?_
  show decLathe z = _
  rw [decLathe, f21_4, re, rd, ra, rb]
  exact done_ok (w := z) (rs := [(29, 3)]) hw (by simp only [rsvCheck, f29_3, if_true])

theorem grpArrive (x : Scope) (d : Reg) (a : Reg) : Statement (.grpArrive x d a) := by
  intro z hw h
  have bx : x.code ≤ 4 := Scope.code_le x
  have hz : z = 43 + 64 * d.val + 2048 * a.val + 65536 * 0 + 2097152 * (256 * x.code) :=
    (Option.some.inj h).symm.trans (by omega)
  obtain ⟨f0_6, f6_5, f11_5, f16_5, hh⟩ := low_fields hz (by decide) (d.isLt) (a.isLt) (by decide)
  have f21_4 : fld z 21 4 = 0 := (hh 0 4).trans (by rw [fld]; omega)
  have f25_4 : fld z 25 4 = 0 := (hh 4 4).trans (by rw [fld]; omega)
  have rx : Scope.ofCode (fld z 29 3) = some x := by
    rw [(hh 8 3).trans (show _ = x.code by rw [fld]; omega)]; exact Scope.ofCode_code x
  have rd : regAt z 6 = d := Fin.ext f6_5
  have ra : regAt z 11 = a := Fin.ext f11_5
  refine ⟨?_, by omega⟩
  refine (decode_eq f0_6).trans ?_
  show decGrp z = _
  rw [decGrp, f21_4, rx, rd, ra]
  exact done_ok (w := z) (rs := [(16, 5), (25, 4)]) hw (by simp only [rsvCheck, f16_5, f25_4, if_true])

theorem grpWait (x : Scope) (e : BitVec 4) (d : Reg) (a : Reg) (b : Reg) : Statement (.grpWait x e d a b) := by
  intro z hw h
  have bx : x.code ≤ 4 := Scope.code_le x
  have be := e.isLt
  have hz : z = 43 + 64 * d.val + 2048 * a.val + 65536 * b.val + 2097152 * (1 + 256 * x.code + 16 * e.toNat) :=
    (Option.some.inj h).symm.trans (by omega)
  obtain ⟨f0_6, f6_5, f11_5, f16_5, hh⟩ := low_fields hz (by decide) (d.isLt) (a.isLt) (b.isLt)
  have f21_4 : fld z 21 4 = 1 := (hh 0 4).trans (by rw [fld]; omega)
  have rx : Scope.ofCode (fld z 29 3) = some x := by
    rw [(hh 8 3).trans (show _ = x.code by rw [fld]; omega)]; exact Scope.ofCode_code x
  have re : BitVec.ofNat 4 (fld z 25 4) = e := ofNat_eq ((hh 4 4).trans (by rw [fld]; omega))
  have rd : regAt z 6 = d := Fin.ext f6_5
  have ra : regAt z 11 = a := Fin.ext f11_5
  have rb : regAt z 16 = b := Fin.ext f16_5
  refine ⟨?_, by omega⟩
  refine (decode_eq f0_6).trans ?_
  show decGrp z = _
  rw [decGrp, f21_4, rx, re, rd, ra, rb]
  exact done_ok (w := z) (rs := []) hw rfl

theorem grpDrop (x : Scope) (d : Reg) (a : Reg) : Statement (.grpDrop x d a) := by
  intro z hw h
  have bx : x.code ≤ 4 := Scope.code_le x
  have hz : z = 43 + 64 * d.val + 2048 * a.val + 65536 * 0 + 2097152 * (2 + 256 * x.code) :=
    (Option.some.inj h).symm.trans (by omega)
  obtain ⟨f0_6, f6_5, f11_5, f16_5, hh⟩ := low_fields hz (by decide) (d.isLt) (a.isLt) (by decide)
  have f21_4 : fld z 21 4 = 2 := (hh 0 4).trans (by rw [fld]; omega)
  have f25_4 : fld z 25 4 = 0 := (hh 4 4).trans (by rw [fld]; omega)
  have rx : Scope.ofCode (fld z 29 3) = some x := by
    rw [(hh 8 3).trans (show _ = x.code by rw [fld]; omega)]; exact Scope.ofCode_code x
  have rd : regAt z 6 = d := Fin.ext f6_5
  have ra : regAt z 11 = a := Fin.ext f11_5
  refine ⟨?_, by omega⟩
  refine (decode_eq f0_6).trans ?_
  show decGrp z = _
  rw [decGrp, f21_4, rx, rd, ra]
  exact done_ok (w := z) (rs := [(16, 5), (25, 4)]) hw (by simp only [rsvCheck, f16_5, f25_4, if_true])

theorem grpInfo (d : Reg) (a : Reg) : Statement (.grpInfo d a) := by
  intro z hw h
  have hz : z = 43 + 64 * d.val + 2048 * a.val + 65536 * 0 + 2097152 * (3) :=
    (Option.some.inj h).symm.trans (by omega)
  obtain ⟨f0_6, f6_5, f11_5, f16_5, hh⟩ := low_fields hz (by decide) (d.isLt) (a.isLt) (by decide)
  have f21_4 : fld z 21 4 = 3 := (hh 0 4).trans rfl
  have f25_7 : fld z 25 7 = 0 := (hh 4 7).trans rfl
  have rd : regAt z 6 = d := Fin.ext f6_5
  have ra : regAt z 11 = a := Fin.ext f11_5
  refine ⟨?_, by omega⟩
  refine (decode_eq f0_6).trans ?_
  show decGrp z = _
  rw [decGrp, f21_4, rd, ra]
  exact done_ok (w := z) (rs := [(16, 5), (25, 7)]) hw (by simp only [rsvCheck, f16_5, f25_7, if_true])

theorem grpQuiet (e : BitVec 4) (d : Reg) : Statement (.grpQuiet e d) := by
  intro z hw h
  have be := e.isLt
  have hz : z = 43 + 64 * d.val + 2048 * 0 + 65536 * 0 + 2097152 * (4 + 16 * e.toNat) :=
    (Option.some.inj h).symm.trans (by omega)
  obtain ⟨f0_6, f6_5, f11_5, f16_5, hh⟩ := low_fields hz (by decide) (d.isLt) (by decide) (by decide)
  have f21_4 : fld z 21 4 = 4 := (hh 0 4).trans (by rw [fld]; omega)
  have f11_10 : fld z 11 10 = 0 := by rw [hz, fld]; omega
  have f29_3 : fld z 29 3 = 0 := (hh 8 3).trans (by rw [fld]; omega)
  have re : BitVec.ofNat 4 (fld z 25 4) = e := ofNat_eq ((hh 4 4).trans (by rw [fld]; omega))
  have rd : regAt z 6 = d := Fin.ext f6_5
  refine ⟨?_, by omega⟩
  refine (decode_eq f0_6).trans ?_
  show decGrp z = _
  rw [decGrp, f21_4, re, rd]
  exact done_ok (w := z) (rs := [(11, 10), (29, 3)]) hw (by simp only [rsvCheck, f11_10, f29_3, if_true])

theorem sysRdk (d : Reg) (k : KReg) : Statement (.sysRdk d k) := by
  intro z hw h
  have hz : z = 44 + 64 * d.val + 65536 * k.code := (Option.some.inj h).symm
  have bd := d.isLt
  have bk : k.code ≤ 60 := KReg.code_le k
  have f0_6 : fld z 0 6 = 44 := by rw [hz, fld]; omega
  have f24_4 : fld z 24 4 = 0 := by rw [hz, fld]; omega
  have f11_5 : fld z 11 5 = 0 := by rw [hz, fld]; omega
  have f28_4 : fld z 28 4 = 0 := by rw [hz, fld]; omega
  have rd : regAt z 6 = d := Fin.ext (by show fld z 6 5 = d.val; rw [hz, fld]; omega)
  have rk : KReg.ofCode (fld z 16 8) = some k := by
    rw [show fld z 16 8 = k.code by rw [hz, fld]; omega]; exact KReg.ofCode_code k
  refine ⟨?_, by rw [hz]; omega⟩
  refine (decode_eq f0_6).trans ?_
  show decSys z = _
  rw [decSys, f24_4, rd, rk]
  exact done_ok (w := z) (rs := [(11, 5), (28, 4)]) hw (by simp only [rsvCheck, f11_5, f28_4, if_true])

theorem sysWrk (a : Reg) (k : KReg) : Statement (.sysWrk a k) := by
  intro z hw h
  have hz : z = 44 + 16777216 + 2048 * a.val + 65536 * k.code := (Option.some.inj h).symm
  have ba := a.isLt
  have bk : k.code ≤ 60 := KReg.code_le k
  have f0_6 : fld z 0 6 = 44 := by rw [hz, fld]; omega
  have f24_4 : fld z 24 4 = 1 := by rw [hz, fld]; omega
  have f6_5 : fld z 6 5 = 0 := by rw [hz, fld]; omega
  have f28_4 : fld z 28 4 = 0 := by rw [hz, fld]; omega
  have ra : regAt z 11 = a := Fin.ext (by show fld z 11 5 = a.val; rw [hz, fld]; omega)
  have rk : KReg.ofCode (fld z 16 8) = some k := by
    rw [show fld z 16 8 = k.code by rw [hz, fld]; omega]; exact KReg.ofCode_code k
  refine ⟨?_, by rw [hz]; omega⟩
  refine (decode_eq f0_6).trans ?_
  show decSys z = _
  rw [decSys, f24_4, ra, rk]
  exact done_ok (w := z) (rs := [(6, 5), (28, 4)]) hw (by simp only [rsvCheck, f6_5, f28_4, if_true])

theorem sysSetk (a : Reg) (k : KReg) : Statement (.sysSetk a k) := by
  intro z hw h
  have hz : z = 44 + 33554432 + 2048 * a.val + 65536 * k.code := (Option.some.inj h).symm
  have ba := a.isLt
  have bk : k.code ≤ 60 := KReg.code_le k
  have f0_6 : fld z 0 6 = 44 := by rw [hz, fld]; omega
  have f24_4 : fld z 24 4 = 2 := by rw [hz, fld]; omega
  have f6_5 : fld z 6 5 = 0 := by rw [hz, fld]; omega
  have f28_4 : fld z 28 4 = 0 := by rw [hz, fld]; omega
  have ra : regAt z 11 = a := Fin.ext (by show fld z 11 5 = a.val; rw [hz, fld]; omega)
  have rk : KReg.ofCode (fld z 16 8) = some k := by
    rw [show fld z 16 8 = k.code by rw [hz, fld]; omega]; exact KReg.ofCode_code k
  refine ⟨?_, by rw [hz]; omega⟩
  refine (decode_eq f0_6).trans ?_
  show decSys z = _
  rw [decSys, f24_4, ra, rk]
  exact done_ok (w := z) (rs := [(6, 5), (28, 4)]) hw (by simp only [rsvCheck, f6_5, f28_4, if_true])

theorem sysClrk (a : Reg) (k : KReg) : Statement (.sysClrk a k) := by
  intro z hw h
  have hz : z = 44 + 50331648 + 2048 * a.val + 65536 * k.code := (Option.some.inj h).symm
  have ba := a.isLt
  have bk : k.code ≤ 60 := KReg.code_le k
  have f0_6 : fld z 0 6 = 44 := by rw [hz, fld]; omega
  have f24_4 : fld z 24 4 = 3 := by rw [hz, fld]; omega
  have f6_5 : fld z 6 5 = 0 := by rw [hz, fld]; omega
  have f28_4 : fld z 28 4 = 0 := by rw [hz, fld]; omega
  have ra : regAt z 11 = a := Fin.ext (by show fld z 11 5 = a.val; rw [hz, fld]; omega)
  have rk : KReg.ofCode (fld z 16 8) = some k := by
    rw [show fld z 16 8 = k.code by rw [hz, fld]; omega]; exact KReg.ofCode_code k
  refine ⟨?_, by rw [hz]; omega⟩
  refine (decode_eq f0_6).trans ?_
  show decSys z = _
  rw [decSys, f24_4, ra, rk]
  exact done_ok (w := z) (rs := [(6, 5), (28, 4)]) hw (by simp only [rsvCheck, f6_5, f28_4, if_true])

theorem sysTread (d : Reg) (a : Reg) (k : TState) : Statement (.sysTread d a k) := by
  intro z hw h
  have hz : z = 44 + 67108864 + 64 * d.val + 2048 * a.val + 65536 * k.code := (Option.some.inj h).symm
  have bd := d.isLt
  have ba := a.isLt
  have bk : k.code ≤ 159 := TState.code_le k
  have f0_6 : fld z 0 6 = 44 := by rw [hz, fld]; omega
  have f24_4 : fld z 24 4 = 4 := by rw [hz, fld]; omega
  have f28_4 : fld z 28 4 = 0 := by rw [hz, fld]; omega
  have rd : regAt z 6 = d := Fin.ext (by show fld z 6 5 = d.val; rw [hz, fld]; omega)
  have ra : regAt z 11 = a := Fin.ext (by show fld z 11 5 = a.val; rw [hz, fld]; omega)
  have rk : TState.ofCode (fld z 16 8) = some k := by
    rw [show fld z 16 8 = k.code by rw [hz, fld]; omega]; exact TState.ofCode_code k
  refine ⟨?_, by rw [hz]; omega⟩
  refine (decode_eq f0_6).trans ?_
  show decSys z = _
  rw [decSys, f24_4, rd, ra, rk]
  exact done_ok (w := z) (rs := [(28, 4)]) hw (by simp only [rsvCheck, f28_4, if_true])

theorem sysTwrite (d : Reg) (a : Reg) (k : TState) : Statement (.sysTwrite d a k) := by
  intro z hw h
  have hz : z = 44 + 83886080 + 64 * d.val + 2048 * a.val + 65536 * k.code := (Option.some.inj h).symm
  have bd := d.isLt
  have ba := a.isLt
  have bk : k.code ≤ 159 := TState.code_le k
  have f0_6 : fld z 0 6 = 44 := by rw [hz, fld]; omega
  have f24_4 : fld z 24 4 = 5 := by rw [hz, fld]; omega
  have f28_4 : fld z 28 4 = 0 := by rw [hz, fld]; omega
  have rd : regAt z 6 = d := Fin.ext (by show fld z 6 5 = d.val; rw [hz, fld]; omega)
  have ra : regAt z 11 = a := Fin.ext (by show fld z 11 5 = a.val; rw [hz, fld]; omega)
  have rk : TState.ofCode (fld z 16 8) = some k := by
    rw [show fld z 16 8 = k.code by rw [hz, fld]; omega]; exact TState.ofCode_code k
  refine ⟨?_, by rw [hz]; omega⟩
  refine (decode_eq f0_6).trans ?_
  show decSys z = _
  rw [decSys, f24_4, rd, ra, rk]
  exact done_ok (w := z) (rs := [(28, 4)]) hw (by simp only [rsvCheck, f28_4, if_true])

theorem sysTresume (a : Reg) : Statement (.sysTresume a) := by
  intro z hw h
  have hz : z = 44 + 100663296 + 2048 * a.val := (Option.some.inj h).symm
  have ba := a.isLt
  have f0_6 : fld z 0 6 = 44 := by rw [hz, fld]; omega
  have f24_4 : fld z 24 4 = 6 := by rw [hz, fld]; omega
  have f6_5 : fld z 6 5 = 0 := by rw [hz, fld]; omega
  have f16_8 : fld z 16 8 = 0 := by rw [hz, fld]; omega
  have f28_4 : fld z 28 4 = 0 := by rw [hz, fld]; omega
  have ra : regAt z 11 = a := Fin.ext (by show fld z 11 5 = a.val; rw [hz, fld]; omega)
  refine ⟨?_, by rw [hz]; omega⟩
  refine (decode_eq f0_6).trans ?_
  show decSys z = _
  rw [decSys, f24_4, ra]
  exact done_ok (w := z) (rs := [(6, 5), (16, 8), (28, 4)]) hw (by simp only [rsvCheck, f6_5, f16_8, f28_4, if_true])

theorem sysTkill (a : Reg) : Statement (.sysTkill a) := by
  intro z hw h
  have hz : z = 44 + 117440512 + 2048 * a.val := (Option.some.inj h).symm
  have ba := a.isLt
  have f0_6 : fld z 0 6 = 44 := by rw [hz, fld]; omega
  have f24_4 : fld z 24 4 = 7 := by rw [hz, fld]; omega
  have f6_5 : fld z 6 5 = 0 := by rw [hz, fld]; omega
  have f16_8 : fld z 16 8 = 0 := by rw [hz, fld]; omega
  have f28_4 : fld z 28 4 = 0 := by rw [hz, fld]; omega
  have ra : regAt z 11 = a := Fin.ext (by show fld z 11 5 = a.val; rw [hz, fld]; omega)
  refine ⟨?_, by rw [hz]; omega⟩
  refine (decode_eq f0_6).trans ?_
  show decSys z = _
  rw [decSys, f24_4, ra]
  exact done_ok (w := z) (rs := [(6, 5), (16, 8), (28, 4)]) hw (by simp only [rsvCheck, f6_5, f16_8, f28_4, if_true])

theorem sysCall (a : Reg) (k : BitVec 8) : Statement (.sysCall a k) := by
  intro z hw h
  have hz : z = 44 + 134217728 + 2048 * a.val + 65536 * k.toNat := (Option.some.inj h).symm
  have ba := a.isLt
  have bk := k.isLt
  have f0_6 : fld z 0 6 = 44 := by rw [hz, fld]; omega
  have f24_4 : fld z 24 4 = 8 := by rw [hz, fld]; omega
  have f6_5 : fld z 6 5 = 0 := by rw [hz, fld]; omega
  have f28_4 : fld z 28 4 = 0 := by rw [hz, fld]; omega
  have ra : regAt z 11 = a := Fin.ext (by show fld z 11 5 = a.val; rw [hz, fld]; omega)
  have rk : BitVec.ofNat 8 (fld z 16 8) = k := ofNat_eq (by rw [hz, fld]; omega)
  refine ⟨?_, by rw [hz]; omega⟩
  refine (decode_eq f0_6).trans ?_
  show decSys z = _
  rw [decSys, f24_4, ra, rk]
  exact done_ok (w := z) (rs := [(6, 5), (28, 4)]) hw (by simp only [rsvCheck, f6_5, f28_4, if_true])

theorem sysBrk (k : BitVec 8) : Statement (.sysBrk k) := by
  intro z hw h
  have hz : z = 44 + 150994944 + 65536 * k.toNat := (Option.some.inj h).symm
  have bk := k.isLt
  have f0_6 : fld z 0 6 = 44 := by rw [hz, fld]; omega
  have f24_4 : fld z 24 4 = 9 := by rw [hz, fld]; omega
  have f6_10 : fld z 6 10 = 0 := by rw [hz, fld]; omega
  have f28_4 : fld z 28 4 = 0 := by rw [hz, fld]; omega
  have rk : BitVec.ofNat 8 (fld z 16 8) = k := ofNat_eq (by rw [hz, fld]; omega)
  refine ⟨?_, by rw [hz]; omega⟩
  refine (decode_eq f0_6).trans ?_
  show decSys z = _
  rw [decSys, f24_4, rk]
  exact done_ok (w := z) (rs := [(6, 10), (28, 4)]) hw (by simp only [rsvCheck, f6_10, f28_4, if_true])

theorem sysExit : Statement (.sysExit) := by
  intro z hw h
  have hz : z = 44 + 167772160 := (Option.some.inj h).symm
  have f0_6 : fld z 0 6 = 44 := by rw [hz, fld]; omega
  have f24_4 : fld z 24 4 = 10 := by rw [hz, fld]; omega
  have f6_18 : fld z 6 18 = 0 := by rw [hz, fld]; omega
  have f28_4 : fld z 28 4 = 0 := by rw [hz, fld]; omega
  refine ⟨?_, by rw [hz]; omega⟩
  refine (decode_eq f0_6).trans ?_
  show decSys z = _
  rw [decSys, f24_4]
  exact done_ok (w := z) (rs := [(6, 18), (28, 4)]) hw (by simp only [rsvCheck, f6_18, f28_4, if_true])

theorem sysNuld (a : Reg) (k : DTable) : Statement (.sysNuld a k) := by
  intro z hw h
  have hz : z = 44 + 184549376 + 2048 * a.val + 65536 * k.code := (Option.some.inj h).symm
  have ba := a.isLt
  have bk : k.code ≤ 2 := DTable.code_le k
  have f0_6 : fld z 0 6 = 44 := by rw [hz, fld]; omega
  have f24_4 : fld z 24 4 = 11 := by rw [hz, fld]; omega
  have f6_5 : fld z 6 5 = 0 := by rw [hz, fld]; omega
  have f28_4 : fld z 28 4 = 0 := by rw [hz, fld]; omega
  have ra : regAt z 11 = a := Fin.ext (by show fld z 11 5 = a.val; rw [hz, fld]; omega)
  have rk : DTable.ofCode (fld z 16 8) = some k := by
    rw [show fld z 16 8 = k.code by rw [hz, fld]; omega]; exact DTable.ofCode_code k
  refine ⟨?_, by rw [hz]; omega⟩
  refine (decode_eq f0_6).trans ?_
  show decSys z = _
  rw [decSys, f24_4, ra, rk]
  exact done_ok (w := z) (rs := [(6, 5), (28, 4)]) hw (by simp only [rsvCheck, f6_5, f28_4, if_true])

theorem sysNust (a : Reg) (k : DTable) : Statement (.sysNust a k) := by
  intro z hw h
  have hz : z = 44 + 201326592 + 2048 * a.val + 65536 * k.code := (Option.some.inj h).symm
  have ba := a.isLt
  have bk : k.code ≤ 2 := DTable.code_le k
  have f0_6 : fld z 0 6 = 44 := by rw [hz, fld]; omega
  have f24_4 : fld z 24 4 = 12 := by rw [hz, fld]; omega
  have f6_5 : fld z 6 5 = 0 := by rw [hz, fld]; omega
  have f28_4 : fld z 28 4 = 0 := by rw [hz, fld]; omega
  have ra : regAt z 11 = a := Fin.ext (by show fld z 11 5 = a.val; rw [hz, fld]; omega)
  have rk : DTable.ofCode (fld z 16 8) = some k := by
    rw [show fld z 16 8 = k.code by rw [hz, fld]; omega]; exact DTable.ofCode_code k
  refine ⟨?_, by rw [hz]; omega⟩
  refine (decode_eq f0_6).trans ?_
  show decSys z = _
  rw [decSys, f24_4, ra, rk]
  exact done_ok (w := z) (rs := [(6, 5), (28, 4)]) hw (by simp only [rsvCheck, f6_5, f28_4, if_true])

theorem sysTsave (d : Reg) (a : Reg) : Statement (.sysTsave d a) := by
  intro z hw h
  have hz : z = 44 + 218103808 + 64 * d.val + 2048 * a.val := (Option.some.inj h).symm
  have bd := d.isLt
  have ba := a.isLt
  have f0_6 : fld z 0 6 = 44 := by rw [hz, fld]; omega
  have f24_4 : fld z 24 4 = 13 := by rw [hz, fld]; omega
  have f16_8 : fld z 16 8 = 0 := by rw [hz, fld]; omega
  have f28_4 : fld z 28 4 = 0 := by rw [hz, fld]; omega
  have rd : regAt z 6 = d := Fin.ext (by show fld z 6 5 = d.val; rw [hz, fld]; omega)
  have ra : regAt z 11 = a := Fin.ext (by show fld z 11 5 = a.val; rw [hz, fld]; omega)
  refine ⟨?_, by rw [hz]; omega⟩
  refine (decode_eq f0_6).trans ?_
  show decSys z = _
  rw [decSys, f24_4, rd, ra]
  exact done_ok (w := z) (rs := [(16, 8), (28, 4)]) hw (by simp only [rsvCheck, f16_8, f28_4, if_true])

theorem sysTload (d : Reg) (a : Reg) : Statement (.sysTload d a) := by
  intro z hw h
  have hz : z = 44 + 234881024 + 64 * d.val + 2048 * a.val := (Option.some.inj h).symm
  have bd := d.isLt
  have ba := a.isLt
  have f0_6 : fld z 0 6 = 44 := by rw [hz, fld]; omega
  have f24_4 : fld z 24 4 = 14 := by rw [hz, fld]; omega
  have f16_8 : fld z 16 8 = 0 := by rw [hz, fld]; omega
  have f28_4 : fld z 28 4 = 0 := by rw [hz, fld]; omega
  have rd : regAt z 6 = d := Fin.ext (by show fld z 6 5 = d.val; rw [hz, fld]; omega)
  have ra : regAt z 11 = a := Fin.ext (by show fld z 11 5 = a.val; rw [hz, fld]; omega)
  refine ⟨?_, by rw [hz]; omega⟩
  refine (decode_eq f0_6).trans ?_
  show decSys z = _
  rw [decSys, f24_4, rd, ra]
  exact done_ok (w := z) (rs := [(16, 8), (28, 4)]) hw (by simp only [rsvCheck, f16_8, f28_4, if_true])

theorem repeatFrameIssue : Statement (.repeatFrameIssue) := fun _ _ h => nomatch h
theorem gangPartComplete (cl : Nat) (p : Nat) : Statement (.gangPartComplete cl p) := fun _ _ h => nomatch h
theorem latheRequestStart (cl : Nat) : Statement (.latheRequestStart cl) := fun _ _ h => nomatch h
theorem latheReply (cl : Nat) : Statement (.latheReply cl) := fun _ _ h => nomatch h
theorem waitExpiry (t : Nat) : Statement (.waitExpiry t) := fun _ _ h => nomatch h
theorem replyArrival (t : Nat) : Statement (.replyArrival t) := fun _ _ h => nomatch h
theorem messageArrival : Statement (.messageArrival) := fun _ _ h => nomatch h
theorem trapQueueDelivery (die : Nat) : Statement (.trapQueueDelivery die) := fun _ _ h => nomatch h
theorem contextSaveComplete (t : Nat) : Statement (.contextSaveComplete t) := fun _ _ h => nomatch h
theorem saveDeferralReport (t : Nat) : Statement (.saveDeferralReport t) := fun _ _ h => nomatch h
theorem icacheMissFill (t : Nat) : Statement (.icacheMissFill t) := fun _ _ h => nomatch h
theorem pageWalkComplete (t : Nat) : Statement (.pageWalkComplete t) := fun _ _ h => nomatch h
theorem homeRequestArrival (core : Nat) : Statement (.homeRequestArrival core) := fun _ _ h => nomatch h
theorem flitCheckFailure (core : Nat) (die : Nat) : Statement (.flitCheckFailure core die) := fun _ _ h => nomatch h
theorem linkRetrainFailure (link : Nat) : Statement (.linkRetrainFailure link) := fun _ _ h => nomatch h
theorem tenureGrant (sl : Nat) : Statement (.tenureGrant sl) := fun _ _ h => nomatch h
theorem recallDeadlineExpiry (sl : Nat) : Statement (.recallDeadlineExpiry sl) := fun _ _ h => nomatch h
theorem battenMergeStep (core : Nat) : Statement (.battenMergeStep core) := fun _ _ h => nomatch h
theorem purlinDrainStep (cl : Nat) : Statement (.purlinDrainStep cl) := fun _ _ h => nomatch h
theorem beamSettleStep (die : Nat) (q : Nat) : Statement (.beamSettleStep die q) := fun _ _ h => nomatch h
theorem beamIdleSettle (die : Nat) (q : Nat) : Statement (.beamIdleSettle die q) := fun _ _ h => nomatch h
theorem mscFilterClear (die : Nat) : Statement (.mscFilterClear die) := fun _ _ h => nomatch h
theorem copyCompletion (die : Nat) (unit : Nat) : Statement (.copyCompletion die unit) := fun _ _ h => nomatch h
theorem prefetchServe (die : Nat) : Statement (.prefetchServe die) := fun _ _ h => nomatch h
theorem prefetchDeadline (die : Nat) : Statement (.prefetchDeadline die) := fun _ _ h => nomatch h
theorem quiescenceWave (lid : Nat) : Statement (.quiescenceWave lid) := fun _ _ h => nomatch h
theorem launchStart (die : Nat) : Statement (.launchStart die) := fun _ _ h => nomatch h
theorem multiDieLaunchStart : Statement (.multiDieLaunchStart) := fun _ _ h => nomatch h
theorem launchPriorityPromotion (die : Nat) : Statement (.launchPriorityPromotion die) := fun _ _ h => nomatch h
theorem launchEnd (lid : Nat) : Statement (.launchEnd lid) := fun _ _ h => nomatch h
theorem launchSaveComplete (lid : Nat) : Statement (.launchSaveComplete lid) := fun _ _ h => nomatch h
theorem launchResumeStart (lid : Nat) : Statement (.launchResumeStart lid) := fun _ _ h => nomatch h
theorem lqSubmit (die : Nat) (slot : Nat) : Statement (.lqSubmit die slot) := fun _ _ h => nomatch h
theorem lqPreempt (die : Nat) (lid : Nat) : Statement (.lqPreempt die lid) := fun _ _ h => nomatch h
theorem lqResume (die : Nat) (lid : Nat) : Statement (.lqResume die lid) := fun _ _ h => nomatch h
theorem lqStop (die : Nat) (lid : Nat) : Statement (.lqStop die lid) := fun _ _ h => nomatch h
theorem lqFree (die : Nat) (slot : Nat) : Statement (.lqFree die slot) := fun _ _ h => nomatch h
theorem deviceRegisterWrite (pa : Nat) (n : Nat) (v : Word) : Statement (.deviceRegisterWrite pa n v) := fun _ _ h => nomatch h
theorem dclkTargetWrite (die : Nat) (v : Word) : Statement (.dclkTargetWrite die v) := fun _ _ h => nomatch h
theorem clockRelockEnd (die : Nat) : Statement (.clockRelockEnd die) := fun _ _ h => nomatch h
theorem thermalStepDown (die : Nat) : Statement (.thermalStepDown die) := fun _ _ h => nomatch h
theorem thermalRecovery (die : Nat) : Statement (.thermalRecovery die) := fun _ _ h => nomatch h
theorem hbmRetrainRequest (die : Nat) (stack : Nat) (rate : Nat) : Statement (.hbmRetrainRequest die stack rate) := fun _ _ h => nomatch h
theorem retrainDeferralExpiry (die : Nat) (stack : Nat) : Statement (.retrainDeferralExpiry die stack) := fun _ _ h => nomatch h
theorem hbmPhyError (die : Nat) (stack : Nat) : Statement (.hbmPhyError die stack) := fun _ _ h => nomatch h
theorem unmapMigrate (asid : Nat) (va : Word) (dest : Option Nat) : Statement (.unmapMigrate asid va dest) := fun _ _ h => nomatch h
theorem dieOfflineMark (die : Nat) : Statement (.dieOfflineMark die) := fun _ _ h => nomatch h
theorem heartbeatTimeout (die : Nat) : Statement (.heartbeatTimeout die) := fun _ _ h => nomatch h
theorem thermalOfflineTimeout (die : Nat) : Statement (.thermalOfflineTimeout die) := fun _ _ h => nomatch h
theorem exportWindow (t : Nat) : Statement (.exportWindow t) := fun _ _ h => nomatch h
theorem unexportWindow (t : Nat) : Statement (.unexportWindow t) := fun _ _ h => nomatch h
theorem diestat (t : Nat) : Statement (.diestat t) := fun _ _ h => nomatch h
theorem krestore (t : Nat) : Statement (.krestore t) := fun _ _ h => nomatch h
theorem callAttest (t : Nat) : Statement (.callAttest t) := fun _ _ h => nomatch h
theorem rread (t : Nat) : Statement (.rread t) := fun _ _ h => nomatch h
theorem rwrite (t : Nat) : Statement (.rwrite t) := fun _ _ h => nomatch h
theorem ramo (t : Nat) : Statement (.ramo t) := fun _ _ h => nomatch h
theorem rkey (t : Nat) : Statement (.rkey t) := fun _ _ h => nomatch h
theorem rmsg (t : Nat) : Statement (.rmsg t) := fun _ _ h => nomatch h
theorem remoteOpArrival (op : RemoteOp) : Statement (.remoteOpArrival op) := fun _ _ h => nomatch h
theorem remoteCallTimeout (t : Nat) : Statement (.remoteCallTimeout t) := fun _ _ h => nomatch h
theorem lateReplyDiscard (r : RemoteReply) : Statement (.lateReplyDiscard r) := fun _ _ h => nomatch h
theorem hostLoad (h : HostHdr) (file : List Byte) : Statement (.hostLoad h file) := fun _ _ h => nomatch h
theorem hostSubmit (h : HostHdr) (asid : Nat) (rec : Nat) (karg : Option Word) : Statement (.hostSubmit h asid rec karg) := fun _ _ h => nomatch h
theorem hostPreempt (h : HostHdr) (lid : Nat) : Statement (.hostPreempt h lid) := fun _ _ h => nomatch h
theorem hostResume (h : HostHdr) (lid : Nat) : Statement (.hostResume h lid) := fun _ _ h => nomatch h
theorem hostStop (h : HostHdr) (lid : Nat) : Statement (.hostStop h lid) := fun _ _ h => nomatch h
theorem hostRead (h : HostHdr) (asid : Nat) (va : Word) (len : Nat) : Statement (.hostRead h asid va len) := fun _ _ h => nomatch h
theorem hostWrite (h : HostHdr) (asid : Nat) (va : Word) (data : List Byte) : Statement (.hostWrite h asid va data) := fun _ _ h => nomatch h
theorem hostCkpt (h : HostHdr) : Statement (.hostCkpt h) := fun _ _ h => nomatch h
theorem hostAttest (h : HostHdr) (asid : Nat) (nonce : BitVec 384) : Statement (.hostAttest h asid nonce) := fun _ _ h => nomatch h
theorem hostStatus (h : HostHdr) : Statement (.hostStatus h) := fun _ _ h => nomatch h
theorem hostUnload (h : HostHdr) (asid : Nat) : Statement (.hostUnload h asid) := fun _ _ h => nomatch h
theorem portDown (port : Nat) : Statement (.portDown port) := fun _ _ h => nomatch h
theorem startUp (r : StartReport) : Statement (.startUp r) := fun _ _ h => nomatch h
theorem remoteReplyArrival (r : RemoteReply) : Statement (.remoteReplyArrival r) := fun _ _ h => nomatch h
theorem hbmRetrainEnd (die : Nat) (stack : Nat) (ok : Bool) : Statement (.hbmRetrainEnd die stack ok) := fun _ _ h => nomatch h
theorem cxlLinkDown (port : Nat) : Statement (.cxlLinkDown port) := fun _ _ h => nomatch h

end Laws.RoundTrip

end Sys2Proof
end

