-- ==== Sys2Proof/Laws/Vector.lean ====
section
/-! SUPPORT. Taking a trap, and the shared endings of the vector forms: everything they do. -/

namespace Sys2Proof.Machine

/-! ## Traps (R93) -/

theorem cur_postRecord (s : State) (t : Nat) (tr : Trap) : (s.postRecord t tr).cur = s.cur := by
  unfold State.postRecord
  dsimp only
  split
  · rfl
  · split <;> rfl

theorem threads_postRecord (s : State) (t : Nat) (tr : Trap) : (s.postRecord t tr).threads = s.threads := by
  unfold State.postRecord
  dsimp only
  split
  · rfl
  · split <;> rfl

/-- The thread that takes a trap. -/
theorem thr_takeTrap_same (s : State) (t : Nat) (tr : Trap) :
    (s.takeTrap t tr).thr t =
      { (s.thr t).formOver with
        st := .trapped, kcause := BitVec.ofNat 64 tr.cause, kinfo := tr.info, kepc := (s.thr t).pc } := by
  have h : (s.postRecord t tr).thr t = s.thr t := by rw [State.thr, State.thr, threads_postRecord]
  rw [State.takeTrap, thr_modThr_same, h]

/-- Every other thread. -/
theorem thr_takeTrap_other (s : State) {t u : Nat} (tr : Trap) (h : u ≠ t) : (s.takeTrap t tr).thr u = s.thr u := by
  rw [State.takeTrap, thr_modThr_other _ _ h, State.thr, State.thr, threads_postRecord]

/-- A meaning that takes a trap. -/
theorem traps_trapNow {i : Instr} {s : State} {tr : Trap} (h : exec i s = .next (s.trapNow tr)) :
    Traps i s tr.cause tr.info := by
  have hc : (s.trapNow tr).cur = s.cur := cur_postRecord s s.cur tr
  have ht : (s.trapNow tr).th = _ := (congrArg _ hc).trans (thr_takeTrap_same s s.cur tr)
  refine ⟨_, h, ?_, ?_, ?_, ?_, ?_, ?_, ?_, ?_, ?_, hc, fun u hu => thr_takeTrap_other s tr hu, fun a => ?_⟩
  any_goals first | (rw [ht]; rfl) | rw [ht]
  rw [mem_trapNow]

/-- A meaning whose check fails. -/
theorem traps_finish {i : Instr} {s : State} {tr : Trap} {r : Except Stop State} (h : exec i s = finish s r)
    (e : r = .error (.trap tr)) : Traps i s tr.cause tr.info := traps_trapNow (by rw [h, e]; rfl)

/-! ## Lanes (R78, R140) -/

/-- A lane of a vector built from lanes. -/
theorem vecOf_lane (w : Nat) (xs : List Nat) (k : Nat) (hk : k < xs.length) :
    vecOf w xs / 2 ^ (w * k) % 2 ^ w = xs[k] % 2 ^ w := by
  induction xs generalizing k with
  | nil => simp at hk
  | cons x r ih =>
    cases k with
    | zero => simp [vecOf]
    | succ k =>
      have hp : 0 < 2 ^ w := Nat.two_pow_pos w
      rw [vecOf, Nat.mul_succ, Nat.add_comm (w * k), Nat.pow_add, ← Nat.div_div_eq_div_mul,
        Nat.add_mul_div_left _ _ hp, Nat.div_eq_of_lt (Nat.mod_lt _ hp), Nat.zero_add, ih k (by simpa using hk)]
      rfl

theorem vecOf_lt (w : Nat) (xs : List Nat) : vecOf w xs < 2 ^ (w * xs.length) := by
  induction xs with
  | nil => simp [vecOf]
  | cons x r ih =>
    have hp : 0 < 2 ^ w := Nat.two_pow_pos w
    have hx : x % 2 ^ w < 2 ^ w := Nat.mod_lt _ hp
    rw [vecOf, List.length_cons, Nat.mul_succ, Nat.add_comm (w * r.length), Nat.pow_add]
    calc x % 2 ^ w + 2 ^ w * vecOf w r < 2 ^ w + 2 ^ w * vecOf w r := by omega
      _ = 2 ^ w * (vecOf w r + 1) := by rw [Nat.mul_add, Nat.mul_one, Nat.add_comm]
      _ ≤ 2 ^ w * 2 ^ (w * r.length) := Nat.mul_le_mul_left _ ih

/-- A lane of a vector register written from a list of as many lanes as it has. -/
theorem lane_vecOf {w : Nat} {xs : List Nat} (h : w * xs.length = 512) {k : Nat} (hk : k < xs.length) :
    lane w (BitVec.ofNat 512 (vecOf w xs)) k = xs[k] % 2 ^ w := by
  have hl : vecOf w xs < 2 ^ 512 := h ▸ vecOf_lt w xs
  have ht : (BitVec.ofNat 512 (vecOf w xs)).toNat = vecOf w xs := (BitVec.toNat_ofNat _ _).trans (Nat.mod_eq_of_lt hl)
  rw [lane, ht, vecOf_lane w xs k hk]

/-- A lane of a lane-wise result (R140). -/
theorem lane_laneMap {w n : Nat} (h : w * n = 512) (hw : 0 < w) (m : LMask) (old : VReg) (f : Nat → Nat × Nat) {k : Nat}
    (hk : k < n) : lane w (laneMap w m old f).1 k = if act w m k then (f k).1 % 2 ^ w else lane w old k := by
  have hn : 512 / w = n := by rw [← h, Nat.mul_div_cancel_left _ hw]
  have hl : (((List.range (512 / w)).map fun i => if act w m i then f i else (lane w old i, 0)).map (·.1)).length = n := by
    simp [hn]
  rw [laneMap, lane_vecOf (by rw [hl, h]) (by rw [hl]; exact hk)]
  simp only [List.map_map, List.getElem_map, List.getElem_range, Function.comp]
  split
  · rfl
  · exact Nat.mod_eq_of_lt (Nat.mod_lt _ (Nat.two_pow_pos w))

/-! ## Endings -/

/-- Flags added to a thread: everything that does. -/
theorem addFlags_keeps (t : Thread) (f : Nat) : Keeps [] [] [] t (t.addFlags f) ∧
    (t.addFlags f).kstat = t.kstat ||| BitVec.ofNat 64 (f % 64 * 8) ∧ (t.addFlags f).pc = t.pc ∧
    (t.addFlags f).inFrame = t.inFrame :=
  ⟨⟨fun _ _ => rfl, fun _ _ => rfl, fun _ _ => rfl, ⟨rfl, rfl, rfl⟩, ⟨rfl, rfl, rfl, rfl, rfl⟩, rfl,
    ⟨rfl, rfl, rfl, rfl, rfl⟩, ⟨rfl, rfl⟩⟩, rfl, rfl, rfl⟩

/-- A fixed-latency form that writes one vector register and no flag: everything it does. -/
theorem writesV_retire {i : Instr} {s : State} {d : Reg} {x : VReg}
    (h : exec i s = .next (s.modTh fun t => (t.setV d x).retire)) : WritesV i s d x 0 := by
  refine ⟨_, h, onlyThread_modTh s _, ?_, ?_, ?_, ?_, ?_⟩ <;> rw [th_modTh]
  · exact (setV_keeps s.th d x).trans (retire_keeps _)
  · rw [retire_kstat]
    exact (BitVec.or_zero).symm
  · rw [retire_rv, rv_setV, if_pos rfl]
  · exact fun hf => (retire_next (s.th.setV d x) hf).trans rfl
  · exact retire_completed _

/-- A floating form that writes one vector register (R51): where no raised flag has its trap enabled it completes, else
it traps FP_TRAP with every raised flag. -/
theorem writesV_fpOut {i : Instr} {s : State} {d : Reg} {x : VReg} {flags : Nat} {reply : Bool}
    (h : exec i s = s.fpOut flags reply fun t => t.setV d x) :
    (flags &&& s.th.te = 0 → WritesV i s d x flags) ∧
    (flags &&& s.th.te ≠ 0 → Traps i s cFpTrap (BitVec.ofNat 64 flags)) := by
  refine ⟨fun hz => ?_, fun hn => ?_⟩
  · have e : exec i s = .next (s.modTh fun t =>
        if reply then t.retirePure s.tick 0 fun t => (t.setV d x).addFlags flags
        else ((t.setV d x).addFlags flags).retire) := by
      rw [h, State.fpOut, hz]; cases reply <;> rfl
    have hk := (setV_keeps s.th d x).trans (addFlags_keeps (s.th.setV d x) flags).1
    refine ⟨_, e, onlyThread_modTh s _, ?_, ?_, ?_, ?_, ?_⟩ <;> rw [th_modTh] <;> cases reply
    · exact hk.trans (retire_keeps _)
    · exact (hk.trans (retireReply_keeps _ s.tick 0)).withBefore _
    · exact retire_kstat _
    · exact retireReply_kstat ((s.th.setV d x).addFlags flags) s.tick 0
    · exact (retire_rv _ d).trans ((rv_setV s.th d d x).trans (if_pos rfl))
    · exact (retireReply_rv ((s.th.setV d x).addFlags flags) s.tick 0 d).trans ((rv_setV s.th d d x).trans (if_pos rfl))
    · exact fun hf => retire_next ((s.th.setV d x).addFlags flags) hf
    · exact fun hf => retireReply_next ((s.th.setV d x).addFlags flags) s.tick 0 hf
    · exact retire_completed _
    · exact .inr ⟨rfl, _, rfl, rfl⟩
  · refine traps_finish (tr := { cause := cFpTrap, info := BitVec.ofNat 64 flags }) h ?_
    have hb : (flags &&& s.th.te != 0) = true := by simpa using hn
    rw [trapIf, hb]
    rfl

end Sys2Proof.Machine
end

