-- ==== Sys2Proof/Tests/Slice0.lean ====
section
/-! SUPPORT. Tests of the model: decoding of words that the spec writes out, ill-formed terms that are refused, single
steps on small states with results taken from the spec, and states that meet the hypotheses of the statements. -/

namespace Sys2Proof.Tests

open Sys2Proof Sys2Proof.Machine

-- One theorem after the other: elaborated at once, each of these would hold a thread of its own.
set_option Elab.async false

/-- Every one of some checks holds. -/
def holds (l : List Bool) : Bool := l.all id

/-- The instruction answers a next state of which a property holds. -/
def after (i : Instr) (s : State) (p : State → Bool) : Bool :=
  match exec i s with
  | .next t => p t
  | _ => false

/-- The instruction is refused, for this reason. -/
def refusedBy (i : Instr) (s : State) (r : Refusal) : Bool :=
  match exec i s with
  | .refused x => decide (x = r)
  | _ => false

/-- The step answers a next state of which a property holds. -/
def afterStep (s : State) (p : State → Bool) : Bool :=
  match step s with
  | .next t => p t
  | _ => false

/-- The check passes, with a value of which a property holds. -/
def okAnd {ε α : Type} (x : Except ε α) (p : α → Bool) : Bool :=
  match x with
  | .ok a => p a
  | .error _ => false

/-- The check fails, with a reason of which a property holds. -/
def errAnd {ε α : Type} (x : Except ε α) (p : ε → Bool) : Bool :=
  match x with
  | .ok _ => false
  | .error e => p e

/-- The word decodes to the instruction, which is well formed and has that word. -/
def decodesTo (w : Nat) (i : Instr) : Bool :=
  (match decode w with | .ok j => decide (j = i) | .error _ => false) && i.wf && encode i == some w

/-- Each word decodes to its instruction. -/
def allDecode (l : List (Nat × Instr)) : Bool := l.all fun e => decodesTo e.1 e.2

/-- The word is no instruction, for this reason. -/
def refuses (w : Nat) (e : DecodeErr) : Bool :=
  match decode w with
  | .error x => decide (x = e)
  | .ok _ => false

/-! ## Words that the spec works out (Tables 1-12, 4-12, 6-9, 7-9, 8-10, 9-3, 11-8, 13-8, 14-7, 15-10, 18-3 and the
prose of chapters 5 to 12) -/

theorem test_worked_core : allDecode [
    (0xFFF82142, .addi 5 4 0xFFF8), (0x000208C1, .opiAdd 3 1 2), (0x00634990, .ldPlain .d 6 9 3),
    (0xFFEA104C, .brLt 1 2 0x1FFD), (0x00000002, .addi 0 0 0), (0x000001EC, .sysRdk 7 .kstat),
    (0x0105282C, .sysWrk 5 .kqmask), (0x04681A6C, .sysTread 9 3 .pc), (0x0812502C, .sysCall 10 0x12),
    (0x1008110A, .shiSlli 4 2 40), (0x0102098B, .muldivDiv 6 1 2), (0x0000804D, .jal 1 16),
    (0x0B02282C, .sysNuld 5 .n8), (0x0D0020EC, .sysTsave 3 4), (0x0600202C, .sysTresume 4)] = true := by decide +kernel

theorem test_worked_vector : allDecode [
    (0x00AC4120, .vfpFma .f32 0 4 8 12), (0x12673163, .vpermCmpr 2 5 6 7), (0x08081524, .vbmmMma .gr4 1 20 2 8),
    (0x00155BA0, .vfpAdd .f32 0 14 11 21), (0x0044408F, .rep 2 1 1 1 0), (0x01400865, .vmskPopc 1 1),
    (0x08252121, .vintSub .w 1 4 4 5), (0x03243061, .vintClt 0 1 6 4), (0x030620A1, .vintCeq 0 2 4 6),
    (0xFFFEC80D, .jal 0 0x1FFFD9)] = true := by decide +kernel

theorem test_worked_memory : allDecode [
    (0x006219D0, .ldPlain .w 7 3 3), (0x004520D8, .vlds 3 4 2), (0x00431254, .feTake 9 2 2),
    (0x40000016, .ordAcq .cluster), (0x81462816, .ordStl .package .w 5 6), (0x4062415A, .qstQ .blk4 true false 5 8 0x203),
    (0x0064415A, .qstQ .blk4 false true 5 8 3), (0x006C419A, .qstBl .blk4 true 6 8 3), (0x0205015B, .bitGet 5 5),
    (0x142D611C, .msgSend 10 4 12 13), (0x00233A93, .sts .d 10 7 1), (0x180AB1D0, .ldTiled .w 7 22 192),
    (0x20262915, .amoAdd .d 4 5 6), (0x012829D5, .amoCas .w 7 5 8), (0x000C58DD, .cpySlot 3 11 12),
    (0x142A491D, .cpyIn 10 4 9 10), (0x008E699D, .cpyPin 6 13 14)] = true := by decide +kernel

theorem test_worked_units : allDecode [
    (0x7E062917, .keyUpd .f16 15 4 5 6), (0x602029D7, .keyLd .f16 7 5), (0x5E600217, .keyPub .cluster 15 8),
    (0x00805257, .keyFixDrop 9 10 0), (0x00A05197, .keyResume 6 10), (0x1E003128, .gangMm 15 4 6),
    (0x14200128, .gangPeg 10 4), (0x008038E8, .gangRdacc 3 7), (0x00C03828, .gangZacc 7), (0x20201169, .sprsS24 .h 5 2),
    (0x080839AA, .latheReq 4 6 7 8), (0x200822A9, .sprsScan .h 10 4 8), (0x0800495E, .tilOpen 4 5 9),
    (0x5446291E, .tilAcq .rdr 10 4 5 6), (0x006829DE, .tilRel 7 5 8), (0x008B2A9E, .tilGet 10 5 11),
    (0x0020299E, .tilClose 6 5), (0x00AA2A5E, .tilPut 9 5 10), (0x6000292B, .grpArrive .die 4 5),
    (0x742429AB, .grpWait .die 10 6 5 4), (0x0040292B, .grpDrop .thread 4 5), (0x1E8001EB, .grpQuiet 15 7),
    (0x000040DF, .xpfSnap 3 8), (0x002A491F, .xpfReq 4 9 10)] = true := by decide +kernel

/-- The refused words of the spec's worked encodings. -/
theorem test_worked_refused :
    refuses 0x100208C1 (.reservedField 28) && refuses 0x00644990 .illegal && refuses 0x000009EC (.reservedField 11) &&
    refuses 0x006801EC .illegal && refuses 0x2008110A (.reservedField 29) && refuses 0xC0AC4120 .illegal &&
    refuses 0x081E1524 .illegal && refuses 0x00421254 .illegal && refuses 0x4062F95A .illegal &&
    refuses 0x42000016 (.reservedField 25) && refuses 0xDE062917 .illegal && refuses 0x622029D7 (.reservedField 25) &&
    refuses 0 .illegal && refuses 0xFFFFFFFF .illegal = true := by decide +kernel

/-! ## Ill-formed terms: one for each operand condition -/

theorem test_wf_pairs : (Instr.lds .q 3 1 0).wf = false ∧ (Instr.sts .q 31 1 0).wf = false ∧ (Instr.keyLdx 3 1).wf = false ∧
    (Instr.lds .q 30 1 0).wf = true := by decide

theorem test_wf_qst_base : (Instr.qstQ .blk4 false true 5 0 0).wf = false ∧ (Instr.qstQ .blk8 true false 5 31 0).wf = false ∧
    (Instr.qstBl .blk4 true 5 0 0).wf = false ∧ (Instr.qstBl .blk4 true 5 31 0).wf = false := by decide

theorem test_wf_bit_counts : (Instr.bitInit 1 2 64).wf = false ∧ (Instr.bitPeek 1 0).wf = false ∧ (Instr.bitPeek 1 65).wf = false ∧
    (Instr.bitGet 1 0).wf = false ∧ (Instr.bitGet 1 65).wf = false ∧ (Instr.bitSkip 0).wf = false ∧
    (Instr.bitSkip 65).wf = false := by decide

theorem test_wf_lanes : (Instr.vpermBcl .w 0 1 2 16).wf = false ∧ (Instr.vpermBcl .h 0 1 2 31).wf = true ∧
    (Instr.vpermRot .w 0 1 2 31).wf = false ∧ (Instr.vbmmMma .gr4 0 1 2 29).wf = false ∧
    (Instr.vbmmMm .gr16 0 1 2 17).wf = false ∧ (Instr.vbmmMm .gr16 0 1 2 16).wf = true := by decide

theorem test_wf_units : (Instr.gangPartComplete 768 0).wf = false ∧ (Instr.gangPartComplete 0 8).wf = false ∧
    (Instr.latheRequestStart 768).wf = false ∧ (Instr.latheReply 768).wf = false ∧ (Instr.tenureGrant 768).wf = false ∧
    (Instr.recallDeadlineExpiry 768).wf = false ∧ (Instr.purlinDrainStep 768).wf = false ∧
    (Instr.homeRequestArrival 8216).wf = false ∧ (Instr.battenMergeStep 8216).wf = false ∧
    (Instr.flitCheckFailure 8216 0).wf = false ∧ (Instr.flitCheckFailure 0 12).wf = false ∧
    (Instr.linkRetrainFailure 17).wf = false ∧ (Instr.portDown 16).wf = false ∧ (Instr.cxlLinkDown 8).wf = false ∧
    (Instr.deviceRegisterWrite 0 3 0).wf = false := by decide

theorem test_wf_dies : (Instr.trapQueueDelivery 12).wf = false ∧ (Instr.beamSettleStep 12 0).wf = false ∧
    (Instr.beamSettleStep 0 4).wf = false ∧ (Instr.beamIdleSettle 12 0).wf = false ∧ (Instr.beamIdleSettle 0 4).wf = false ∧
    (Instr.mscFilterClear 12).wf = false ∧ (Instr.copyCompletion 12 0).wf = false ∧ (Instr.copyCompletion 0 16).wf = false ∧
    (Instr.prefetchServe 12).wf = false ∧ (Instr.prefetchDeadline 12).wf = false ∧ (Instr.launchStart 12).wf = false ∧
    (Instr.launchPriorityPromotion 12).wf = false ∧ (Instr.lqSubmit 12 0).wf = false ∧ (Instr.lqSubmit 0 64).wf = false ∧
    (Instr.lqPreempt 12 1).wf = false ∧ (Instr.lqResume 12 1).wf = false ∧ (Instr.lqStop 12 1).wf = false ∧
    (Instr.lqFree 12 0).wf = false ∧ (Instr.lqFree 0 64).wf = false := by decide

theorem test_wf_package : (Instr.dclkTargetWrite 12 0).wf = false ∧ (Instr.clockRelockEnd 12).wf = false ∧
    (Instr.thermalStepDown 12).wf = false ∧ (Instr.thermalRecovery 12).wf = false ∧
    (Instr.hbmRetrainRequest 12 0 0).wf = false ∧ (Instr.hbmRetrainRequest 0 2 0).wf = false ∧
    (Instr.hbmRetrainRequest 0 0 3).wf = false ∧ (Instr.retrainDeferralExpiry 0 2).wf = false ∧
    (Instr.hbmPhyError 0 2).wf = false ∧ (Instr.hbmRetrainEnd 0 2 true).wf = false ∧ (Instr.dieOfflineMark 12).wf = false ∧
    (Instr.heartbeatTimeout 12).wf = false ∧ (Instr.thermalOfflineTimeout 12).wf = false := by decide

/-- Threads: a die beyond 11 has no TID, and the keys of the service contexts end at 131,455. -/
theorem test_wf_threads : (Instr.waitExpiry 98304).wf = false ∧ (Instr.waitExpiry 98303).wf = true ∧
    (Instr.replyArrival 131456).wf = false ∧ (Instr.contextSaveComplete 98304).wf = false ∧
    (Instr.saveDeferralReport 98304).wf = false ∧ (Instr.icacheMissFill 98304).wf = false ∧
    (Instr.pageWalkComplete 131071).wf = false ∧ (Instr.exportWindow 98304).wf = false ∧
    (Instr.unexportWindow 98304).wf = false ∧ (Instr.diestat 98304).wf = false ∧ (Instr.krestore 98304).wf = false ∧
    (Instr.callAttest 98304).wf = false ∧ (Instr.rread 98304).wf = false ∧ (Instr.rwrite 98304).wf = false ∧
    (Instr.ramo 98304).wf = false ∧ (Instr.rkey 98304).wf = false ∧ (Instr.rmsg 98304).wf = false ∧
    (Instr.remoteCallTimeout 98304).wf = false := by decide

/-! ## Decoding: one word for every constructor, from the formats of Table 1-1 and the form tables of each chapter, with
register fields `d` 3, `a` 5, `b` 22 and other fields away from 0 -/

theorem test_decode_plain : allDecode [
    (0xFFF828C2, .addi 3 5 65528), (0xFFF828C3, .andi 3 5 65528), (0xFFF828C4, .ori 3 5 65528),
    (0xFFF828C5, .xori 3 5 65528), (0xFFF828C6, .slti 3 5 65528), (0xFFF828C7, .sltiu 3 5 65528),
    (0xFFFFC0C8, .lui 3 2097144), (0xFFFFC0C9, .addpc 3 2097144), (0xFFFFE8CD, .jal 3 2097149),
    (0xFFF828CE, .jalr 3 5 65528), (0x1245408F, .rep 2 5 1 9 4), (0xFFA12912, .lds .h 4 5 2045),
    (0xFFA12913, .sts .h 4 5 2045), (0xFFA528D8, .vlds 3 5 2045),
    (0xFFA528D9, .vsts 3 5 2045)] = true := by decide +kernel

theorem test_decode_opi : allDecode [
    (0x001628C1, .opiAdd 3 5 22), (0x003628C1, .opiSub 3 5 22), (0x005628C1, .opiAnd 3 5 22),
    (0x007628C1, .opiOr 3 5 22), (0x009628C1, .opiXor 3 5 22), (0x00B628C1, .opiAndn 3 5 22),
    (0x00D628C1, .opiOrn 3 5 22), (0x011628C1, .opiSll 3 5 22), (0x013628C1, .opiSrl 3 5 22),
    (0x015628C1, .opiSra 3 5 22), (0x019628C1, .opiSlt 3 5 22), (0x01B628C1, .opiSltu 3 5 22),
    (0x021628C1, .opiMin 3 5 22), (0x023628C1, .opiMax 3 5 22), (0x025628C1, .opiMinu 3 5 22),
    (0x027628C1, .opiMaxu 3 5 22), (0x030028C1, .opiSxb 3 5), (0x032028C1, .opiSxh 3 5), (0x034028C1, .opiSxw 3 5),
    (0x038028C1, .opiZxb 3 5), (0x03A028C1, .opiZxh 3 5), (0x03C028C1, .opiZxw 3 5)] = true := by decide +kernel

theorem test_decode_shi : allDecode [
    (0x100828CA, .shiSlli 3 5 40), (0x102828CA, .shiSrli 3 5 40), (0x104828CA, .shiSrai 3 5 40),
    (0x106828CA, .shiRori 3 5 40), (0x020028CA, .shiClz 3 5), (0x022028CA, .shiCtz 3 5), (0x024028CA, .shiPopc 3 5),
    (0x026028CA, .shiBrev 3 5), (0x028028CA, .shiBswap 3 5)] = true := by decide +kernel

theorem test_decode_muldiv : allDecode [
    (0x001628CB, .muldivMul 3 5 22), (0x003628CB, .muldivMulh 3 5 22), (0x005628CB, .muldivMulhu 3 5 22),
    (0x007628CB, .muldivMulhsu 3 5 22), (0x011628CB, .muldivDiv 3 5 22), (0x013628CB, .muldivDivu 3 5 22),
    (0x015628CB, .muldivRem 3 5 22), (0x017628CB, .muldivRemu 3 5 22)] = true := by decide +kernel

theorem test_decode_br : allDecode [
    (0xFFE8B14C, .brEq 5 22 8189), (0xFFE9B14C, .brNe 5 22 8189), (0xFFEAB14C, .brLt 5 22 8189),
    (0xFFEBB14C, .brGe 5 22 8189), (0xFFECB14C, .brLtu 5 22 8189), (0xFFEDB14C, .brGeu 5 22 8189),
    (0xFFEEB14C, .brAny 5 22 8189), (0xFFEFB14C, .brNone 5 22 8189)] = true := by decide +kernel

theorem test_decode_ld : allDecode [
    (0xFFA128D0, .ldPlain .h 3 5 2045), (0xFFAA28D0, .ldTiled .w 3 5 2045),
    (0xFFBB28D0, .ldDevice .d 3 5 2045)] = true := by decide +kernel

theorem test_decode_st : allDecode [
    (0xFFA128D1, .stPlain .h 3 5 2045), (0xFFAA28D1, .stTiled .w 3 5 2045),
    (0xFFBB28D1, .stDevice .d 3 5 2045)] = true := by decide +kernel

theorem test_decode_fe : allDecode [
    (0xFFA328D4, .feTake 3 5 2045), (0xFFAB28D4, .fePut 3 5 2045), (0xFFB328D4, .feSload 3 5 2045),
    (0xFFBB28D4, .feFill 3 5 2045)] = true := by decide +kernel

theorem test_decode_amo : allDecode [
    (0x201628D5, .amoSwap .d 3 5 22), (0x403628D5, .amoAdd .bw 3 5 22), (0x605628D5, .amoAnd .bd 3 5 22),
    (0x007628D5, .amoOr .w 3 5 22), (0x209628D5, .amoXor .d 3 5 22), (0x40B628D5, .amoMin .bw 3 5 22),
    (0x60D628D5, .amoMax .bd 3 5 22), (0x00F628D5, .amoMinu .w 3 5 22), (0x211628D5, .amoMaxu .d 3 5 22),
    (0x413628D5, .amoCas .bw 3 5 22)] = true := by decide +kernel

theorem test_decode_ord : allDecode [
    (0x20000016, .ordAcq .core), (0x40200016, .ordRel .cluster), (0x60400016, .ordFence .die),
    (0x808028D6, .ordLda .package .b 3 5), (0x01362816, .ordStl .thread .h 5 22)] = true := by decide +kernel

theorem test_decode_key : allDecode [
    (0x321628D7, .keyUpd .i64 9 3 5 22), (0x402028D7, .keyLd .f32 3 5), (0xA0402917, .keyLdx 4 5),
    (0x926000D7, .keyPub .package 9 3), (0x009628D7, .keyFixDrop 3 5 22), (0x209628D7, .keyFixSet 3 5 22),
    (0x00A028D7, .keyResume 3 5), (0x00C028D7, .keyInfo 3 5)] = true := by decide +kernel

theorem test_decode_qst : allDecode [
    (0xFFA728DA, .qstQ .blk8 true true 3 5 2045), (0xFFAD28DA, .qstBl .blk8 true 3 5 2045)] = true := by decide +kernel

theorem test_decode_bit : allDecode [
    (0x001228DB, .bitInit 3 5 18), (0x011200DB, .bitPeek 3 18), (0x021200DB, .bitGet 3 18), (0x0312001B, .bitSkip 18),
    (0x040028DB, .bitGetv 3 5), (0x050000DB, .bitUnar 3), (0x060000DB, .bitTell 3),
    (0x070000DB, .bitAvail 3)] = true := by decide +kernel

theorem test_decode_msg : allDecode [
    (0x0000281C, .msgPut 5), (0x123628DC, .msgSend 9 3 5 22), (0x125628DC, .msgRecv 9 3 5 22),
    (0x126028DC, .msgWait 9 3 5), (0x128028DC, .msgAlt 9 3 5), (0x00B628DC, .msgGrant 3 5 22),
    (0x00C0001C, .msgDrop)] = true := by decide +kernel

theorem test_decode_cpy : allDecode [
    (0x001628DD, .cpySlot 3 5 22), (0x123628DD, .cpyIn 9 3 5 22), (0x125628DD, .cpyOut 9 3 5 22),
    (0x006028DD, .cpyFree 3 5), (0x009628DD, .cpyPin 3 5 22), (0x00A028DD, .cpyUnpin 3 5)] = true := by decide +kernel

theorem test_decode_til : allDecode [
    (0x120028DE, .tilOpen 9 3 5), (0x002028DE, .tilClose 3 5), (0x725628DE, .tilAcq .wrr 9 3 5 22),
    (0x007628DE, .tilRel 3 5 22), (0x009628DE, .tilGet 3 5 22), (0x00B628DE, .tilPut 3 5 22)] = true := by decide +kernel

theorem test_decode_xpf : allDecode [
    (0x000028DF, .xpfSnap 3 5), (0x003628DF, .xpfReq 3 5 22), (0x004028DF, .xpfCancel 3 5)] = true := by decide +kernel

theorem test_decode_vfp : allDecode [
    (0x501628E0, .vfpAdd .f16 2 3 5 22), (0x903628E0, .vfpSub .bf16 2 3 5 22), (0x105628E0, .vfpMul .f32 2 3 5 22),
    (0x507628E0, .vfpDiv .f16 2 3 5 22), (0x908028E0, .vfpSqrt .bf16 2 3 5), (0x10B628E0, .vfpFma .f32 2 3 5 22),
    (0x50D628E0, .vfpFms .f16 2 3 5 22), (0x90F628E0, .vfpFnma .bf16 2 3 5 22), (0x111628E0, .vfpMin .f32 2 3 5 22),
    (0x513628E0, .vfpMax .f16 2 3 5 22), (0x914028E0, .vfpAbs .bf16 2 3 5), (0x116028E0, .vfpNeg .f32 2 3 5),
    (0x519628E0, .vfpSgnj .f16 2 3 5 22), (0x121628E0, .vfpCeq 2 3 5 22), (0x123628E0, .vfpClt 2 3 5 22),
    (0x125628E0, .vfpCle 2 3 5 22), (0x127628E0, .vfpCun 2 3 5 22)] = true := by decide +kernel

theorem test_decode_vint : allDecode [
    (0x501628E1, .vintAdd .h 2 3 5 22), (0x103628E1, .vintSub .w 2 3 5 22), (0x505628E1, .vintAdds .h 2 3 5 22),
    (0x107628E1, .vintAddus .w 2 3 5 22), (0x509628E1, .vintSubs .h 2 3 5 22), (0x10B628E1, .vintSubus .w 2 3 5 22),
    (0x50D628E1, .vintMul .h 2 3 5 22), (0x10F628E1, .vintMulh .w 2 3 5 22), (0x511628E1, .vintAnd .h 2 3 5 22),
    (0x113628E1, .vintOr .w 2 3 5 22), (0x515628E1, .vintXor .h 2 3 5 22), (0x117628E1, .vintAndn .w 2 3 5 22),
    (0x519628E1, .vintSll .h 2 3 5 22), (0x11B628E1, .vintSrl .w 2 3 5 22), (0x51D628E1, .vintSra .h 2 3 5 22),
    (0x121628E1, .vintMin .w 2 3 5 22), (0x523628E1, .vintMax .h 2 3 5 22), (0x125628E1, .vintMinu .w 2 3 5 22),
    (0x527628E1, .vintMaxu .h 2 3 5 22), (0x131628E1, .vintCeq 2 3 5 22), (0x133628E1, .vintClt 2 3 5 22),
    (0x135628E1, .vintCltu 2 3 5 22)] = true := by decide +kernel

theorem test_decode_vcvt : allDecode [
    (0x500028E2, .vcvtNf16l .rne 2 3 5), (0x902028E2, .vcvtNf16h .rtz 2 3 5), (0xD04028E2, .vcvtNbf16l .rdn 2 3 5),
    (0x106028E2, .vcvtNbf16h .krm 2 3 5), (0x108028E2, .vcvtWf16l 2 3 5), (0x10A028E2, .vcvtWf16h 2 3 5),
    (0x10C028E2, .vcvtWbf16l 2 3 5), (0x10E028E2, .vcvtWbf16h 2 3 5), (0x510028E2, .vcvtFtoi .rne 2 3 5),
    (0x912028E2, .vcvtFtou .rtz 2 3 5), (0xD14028E2, .vcvtItof .rdn 2 3 5), (0x116028E2, .vcvtUtof .krm 2 3 5),
    (0x518028E2, .vcvtRint .rne 2 3 5)] = true := by decide +kernel

theorem test_decode_vperm : allDecode [
    (0x500028E3, .vpermFsum .f16 2 3 5), (0x902028E3, .vpermFmax .bf16 2 3 5), (0x104028E3, .vpermFmin .f32 2 3 5),
    (0x108028E3, .vpermIsum .w 2 3 5), (0x50A028E3, .vpermImax .h 2 3 5), (0x10C028E3, .vpermImin .w 2 3 5),
    (0x50E028E3, .vpermImaxu .h 2 3 5), (0x110028E3, .vpermIminu .w 2 3 5), (0x521628E3, .vpermPerm .h 2 3 5 22),
    (0x122728E3, .vpermBcl .w 2 3 5 7), (0x524728E3, .vpermRot .h 2 3 5 7), (0x127628E3, .vpermCmpr 2 3 5 22),
    (0x129628E3, .vpermExpd 2 3 5 22)] = true := by decide +kernel

theorem test_decode_vbmm : allDecode [
    (0x500C28E4, .vbmmMma .gr8 2 3 5 12), (0x902C28E4, .vbmmMm .gr16 2 3 5 12)] = true := by decide +kernel

theorem test_decode_vmsk : allDecode [
    (0x000628E5, .vmskAnd 3 5 6), (0x002628E5, .vmskOr 3 5 6), (0x004628E5, .vmskXor 3 5 6),
    (0x006628E5, .vmskAndn 3 5 6), (0x008028E5, .vmskNot 3 5), (0x010028E5, .vmskFromg 3 5), (0x012028E5, .vmskTog 3 5),
    (0x014028E5, .vmskPopc 3 5), (0x016028E5, .vmskFirst 3 5), (0x018028E5, .vmskPre 3 5),
    (0xC1A028E5, .vmskGlen .gr2 3 5)] = true := by decide +kernel

theorem test_decode_vmov : allDecode [
    (0x500028E6, .vmovMov .h 2 3 5), (0x103628E6, .vmovSel .w 2 3 5 22), (0x504028E6, .vmovBcg .h 2 3 5),
    (0x007628E6, .vmovIns .w 3 5 22), (0x409628E6, .vmovExt .h 3 5 22),
    (0x10A000E6, .vmovIota .w 2 3)] = true := by decide +kernel

theorem test_decode_gang : allDecode [
    (0x120028E8, .gangMm 9 3 5), (0x122000E8, .gangPeg 9 3), (0x008028E8, .gangRdacc 3 5), (0x00A028E8, .gangWracc 3 5),
    (0x00C02828, .gangZacc 5)] = true := by decide +kernel

theorem test_decode_sprs : allDecode [
    (0x201628E9, .sprsScan .h 3 5 22), (0x002028E9, .sprsS24 .w 3 5)] = true := by decide +kernel

theorem test_decode_lathe : allDecode [
    (0x121628EA, .latheReq 9 3 5 22)] = true := by decide +kernel

theorem test_decode_grp : allDecode [
    (0x200028EB, .grpArrive .core 3 5), (0x523628EB, .grpWait .cluster 9 3 5 22), (0x604028EB, .grpDrop .die 3 5),
    (0x006028EB, .grpInfo 3 5), (0x128000EB, .grpQuiet 9 3)] = true := by decide +kernel

theorem test_decode_sys : allDecode [
    (0x000500EC, .sysRdk 3 .kqmask), (0x0105282C, .sysWrk 5 .kqmask), (0x0205282C, .sysSetk 5 .kqmask),
    (0x0305282C, .sysClrk 5 .kqmask), (0x044A28EC, .sysTread 3 5 (.g 10)), (0x054A28EC, .sysTwrite 3 5 (.g 10)),
    (0x0600282C, .sysTresume 5), (0x0700282C, .sysTkill 5), (0x0812282C, .sysCall 5 18), (0x0912002C, .sysBrk 18),
    (0x0A00002C, .sysExit), (0x0B00282C, .sysNuld 5 .tabA), (0x0C01282C, .sysNust 5 .tabB), (0x0D0028EC, .sysTsave 3 5),
    (0x0E0028EC, .sysTload 3 5)] = true := by decide +kernel

/-! ## States for the tests -/

/-- Core 0 belongs to launch 1 with sixteen contexts and its whole scratchpad; thread 0 issues at 0x1000. -/
def base : State :=
  let s := { State.reset with started := true }
  let s := s.modCor 0 fun c => { c with launch := some 1, asid := 1, nctx := 16, scr := 0x40000 }
  s.modThr 0 fun t => { t with st := .ready, pc := 0x1000 }

/-- `base` with general registers of thread 0 written. -/
def regs (l : List (Reg × Word)) : State := base.modTh fun t => l.foldl (fun t e => t.setG e.1 e.2) t

/-- `base` with the issuing core changed. -/
def coreOn (s : State) (f : Core → Core) : State := s.modCo f

/-- A vector from its lowest lanes. -/
def vec (w : Nat) (l : List Nat) : VReg := BitVec.ofNat 512 (l.foldr (fun x a => x + 2 ^ w * a) 0)

/-- The thread goes on at the next word, READY or awaiting a reply. -/
def wentOn (t : State) : Bool :=
  t.th.pc == 0x1004 && (t.th.st == .ready || (t.th.st == .waiting && t.th.wait.map (·.kind) == some .reply))

/-- The thread is TRAPPED at its form. -/
def trapped (cause : Nat) (info : Word) (t : State) : Bool :=
  t.th.st == .trapped && t.th.kcause == BitVec.ofNat 64 cause && t.th.kinfo == info && t.th.kepc == 0x1000 && t.th.pc == 0x1000

/-- The thread waits at its form. -/
def waits (st : CtxState) (k : WaitKind) (t : State) : Bool :=
  t.th.st == st && t.th.wait.map (·.kind) == some k && t.th.pc == 0x1000

/-- From `g1` and `g2` the form leaves a value in `g3`. -/
def gives (i : Instr) (x y r : Word) : Bool := after i (regs [(1, x), (2, y)]) fun t => t.th.rg 3 == r && wentOn t

/-! ## Integers and control (Tables 1-9, 1-10, 4-8, 4-9; R98 to R106) -/

theorem test_opi : holds [
    gives (.opiAdd 3 1 2) (-1) 2 1, gives (.opiSub 3 1 2) 1 2 (-1), gives (.opiAnd 3 1 2) 0xF0F0 0xFF00 0xF000,
    gives (.opiOr 3 1 2) 0xF0F0 0xFF00 0xFFF0, gives (.opiXor 3 1 2) 0xF0F0 0xFF00 0x0FF0,
    gives (.opiAndn 3 1 2) 0xF0F0 0xFF00 0xF0, gives (.opiOrn 3 1 2) 0xF0F0 0xFF00 0xFFFFFFFFFFFFF0FF,
    gives (.opiSll 3 1 2) 1 65 2, gives (.opiSrl 3 1 2) (-1) 60 15, gives (.opiSra 3 1 2) (-16) 2 (-4),
    gives (.opiSlt 3 1 2) (-1) 0 1, gives (.opiSltu 3 1 2) (-1) 0 0, gives (.opiMin 3 1 2) (-1) 0 (-1),
    gives (.opiMax 3 1 2) (-1) 0 0, gives (.opiMinu 3 1 2) (-1) 0 0, gives (.opiMaxu 3 1 2) (-1) 0 (-1),
    gives (.opiSxb 3 1) 0x180 0 (-128), gives (.opiSxh 3 1) 0x18000 0 (-32768),
    gives (.opiSxw 3 1) 0x180000000 0 0xFFFFFFFF80000000, gives (.opiZxb 3 1) 0x1FF 0 0xFF,
    gives (.opiZxh 3 1) 0x12345 0 0x2345, gives (.opiZxw 3 1) 0x180000000 0 0x80000000] = true := by decide +kernel

theorem test_muldiv : holds [
    gives (.muldivMul 3 1 2) (-2) 3 (-6), gives (.muldivMulh 3 1 2) 0x8000000000000000 2 (-1),
    gives (.muldivMulhu 3 1 2) (-1) (-1) (-2), gives (.muldivMulhsu 3 1 2) (-1) (-1) (-1),
    gives (.muldivDiv 3 1 2) (-7) 2 (-3), gives (.muldivDiv 3 1 2) 0x8000000000000000 (-1) 0x8000000000000000,
    gives (.muldivDivu 3 1 2) 7 0 (-1), gives (.muldivDivu 3 1 2) (-1) 2 0x7FFFFFFFFFFFFFFF,
    gives (.muldivRem 3 1 2) (-7) 2 (-1), gives (.muldivRem 3 1 2) 0x8000000000000000 (-1) 0,
    gives (.muldivRemu 3 1 2) 7 0 7, gives (.muldivRemu 3 1 2) (-1) 10 5] = true := by decide +kernel

theorem test_shi : holds [
    gives (.shiSlli 3 1 40) 1 0 0x10000000000, gives (.shiSrli 3 1 63) (-1) 0 1, gives (.shiSrai 3 1 63) (-5) 0 (-1),
    gives (.shiRori 3 1 1) 3 0 0x8000000000000001, gives (.shiRori 3 1 0) 3 0 3, gives (.shiClz 3 1) 1 0 63,
    gives (.shiClz 3 1) 0 0 64, gives (.shiCtz 3 1) 0 0 64, gives (.shiCtz 3 1) 8 0 3,
    gives (.shiPopc 3 1) 0xFF01 0 9, gives (.shiBrev 3 1) 1 0 0x8000000000000000,
    gives (.shiBswap 3 1) 0x0102030405060708 0 0x0807060504030201] = true := by decide +kernel

theorem test_immediates : holds [
    gives (.addi 3 1 0xFFF8) 5 0 (-3), gives (.andi 3 1 0x8000) (-1) 0 (-32768), gives (.ori 3 1 0x7FFF) 0 0 0x7FFF,
    gives (.xori 3 1 0xFFFF) 5 0 (-6), gives (.slti 3 1 0xFFFF) (-2) 0 1, gives (.sltiu 3 1 0xFFFF) 5 0 1,
    gives (.lui 3 1) 0 0 4096, gives (.lui 3 0x1FFFFF) 0 0 (-4096),
    gives (.addpc 3 1) 0 0 0x2000] = true := by decide +kernel

/-- A write to `g0` is discarded and the thread goes on (R14). -/
theorem test_g0 : holds [
    after (.opiAdd 0 1 2) (regs [(1, 5), (2, 7)]) (fun t => t.th.rg 0 == 0 && wentOn t)] = true := by decide +kernel

/-- The branch at 0x1000 with these operands goes to this address. -/
def goesTo (i : Instr) (x y pc : Word) : Bool := after i (regs [(1, x), (2, y)]) fun t => t.th.pc == pc && t.th.st == .ready

theorem test_branches : holds [
    goesTo (.brEq 1 2 2) 5 5 0x1008, goesTo (.brEq 1 2 2) 5 6 0x1004, goesTo (.brNe 1 2 0x1FFF) 5 6 0xFFC,
    goesTo (.brNe 1 2 2) 5 5 0x1004, goesTo (.brLt 1 2 2) (-1) 0 0x1008, goesTo (.brLt 1 2 2) 0 (-1) 0x1004,
    goesTo (.brGe 1 2 2) 0 0 0x1008, goesTo (.brGe 1 2 2) (-1) 0 0x1004, goesTo (.brLtu 1 2 2) 0 (-1) 0x1008,
    goesTo (.brLtu 1 2 2) (-1) 0 0x1004, goesTo (.brGeu 1 2 2) (-1) 0 0x1008, goesTo (.brGeu 1 2 2) 0 1 0x1004,
    goesTo (.brAny 1 2 2) 6 2 0x1008, goesTo (.brAny 1 2 2) 4 2 0x1004, goesTo (.brNone 1 2 2) 4 2 0x1008,
    goesTo (.brNone 1 2 2) 6 2 0x1004] = true := by decide +kernel

theorem test_jumps : holds [
    after (.jal 3 0x1FFFFF) base (fun t => t.th.rg 3 == 0x1004 && t.th.pc == 0xFFC),
    after (.jalr 1 1 0x10) (regs [(1, 0x2000)]) (fun t => t.th.rg 1 == 0x1004 && t.th.pc == 0x2010),
    after (.jalr 3 1 2) (regs [(1, 0x2000)]) (fun t => trapped 0x13 0x2002 t && t.th.rg 3 == 0)] = true := by decide +kernel

/-! ## Steps and repeat frames (R113, R158 to R161; Table 6-15) -/

/-- One instruction where a machine right after reset fetches (R113). -/
def fetching : State := State.reset.withFetchWord 32 0x000208C1

/-- The issue of context 0 of core 0 in a state in which no engine has an event. -/
def issued (s : State) : State := { s with focus := 1 }.issueAs 0 0

/-- A state in which no event stands first and context 0 of core 0 issues. -/
def inTurn (s : State) : Bool := decide (s.external = none) && s.engineEvents.isEmpty && decide (s.turn = some (0, 0))

/-- `grp.info` where the home of the group is die 2, which relocks. -/
def toRelock : State :=
  let s := { base with groups := [(0x205, { asid := 1, members := [0], c := 0, bits := [], gone := [], x := 1, lv := 0 })] }
  let s := s.modTh fun th => { th.setG 5 0x205 with kgrp := th.kgrp.set 0 0x1205 }
  (s.modDie 2 fun d => { d with clock := { d.clock with t0 := some 0 } }).withFetchWord 32 ((encode (.grpInfo 4 5)).getD 0)

/-- Hypotheses of StepRunsDecodedInstruction: no event stands first, context 0 of core 0 issues, and its word decodes, or its
frame is active; the request of the last form goes to a die that relocks. -/
theorem witness_step_decoded : holds [
    inTurn fetching, (issued fetching).th.inFrame == false, decide ((issued fetching).fetchPc 0 = .word 0x000208C1),
    afterStep fetching (fun t => t.th.pc == 4),
    inTurn (fetching.modThr 0 fun t => { t with kfcnt := 0x10000 }),
    decide (toRelock.turn = some (0, 0)), decide ((issued toRelock).fetchPc 0 = .word ((encode (.grpInfo 4 5)).getD 0)),
    after (.grpInfo 4 5) (issued toRelock) (fun t => t.relocking == some 2),
    (match advance toRelock with | .next t => t.th.st == .waiting && t.th.pc == 0 && t.th.wait.any (fun w => decide (w.kind = .relock 2 0)) | _ => false)] = true := by decide +kernel

/-- `fetching` with the program counter and the core of its thread changed. -/
def fetchAt (pc : Word) (f : Core → Core) : State := (fetching.modCor 0 f).modThr 0 fun t => { t with pc := pc }

/-- Fetch faults and misses (R11, R24, R130, R277): hypotheses of FetchTraps and FetchWaits. -/
theorem test_fetch_faults :
    let page := fun (pte : Word) (l : AMap (List (Option (BitVec 32)))) (c : Core) => { c with tlb := [{ va := 0x1000, pte := pte }], icache := l }
    let traps := fun (s : State) (cause : Nat) (info : Word) => (match advance s with
      | .next t => (t.thr 0).st == .trapped && (t.thr 0).kcause == BitVec.ofNat 64 cause && (t.thr 0).kinfo == info && (t.thr 0).pc == (s.thr 0).pc && (t.thr 0).word == 0
      | _ => false)
    let stalls := fun (s : State) (k : WaitKind) => (match advance s with
      | .next t => (t.thr 0).st == .waiting && (t.thr 0).wait.map (·.kind) == some k && (t.thr 0).pc == (s.thr 0).pc
      | _ => false)
    holds [
    traps (fetchAt 0x200000000000000 id) 0x10 0x200000000000000, stalls (fetchAt 0x1000 fun c => { c with tlb := [] }) (.pageWalk 0x1000),
    traps (fetchAt 0x1000 (page 0x5027 [])) 0x11 0x1000, traps (fetchAt 0x1000 (page 0x502B [])) 0x11 0x1000 == (bitAt (fetching.thr 0).kstat 0 == false && !(0x502B : Word).getLsbD 5),
    stalls (fetchAt 0x1040 (page 0x502F [])) (.icacheMiss 0x1040), traps (fetchAt 0x1044 (page 0x502F [(65, [some 1])])) 0x90 0x5040] = true := by decide +kernel

/-- Thread 0 waits for a phase and its limit of 128 ticks is over. -/
def expired : State :=
  { base with tick := 200 }.modTh fun t => { t with st := .waiting, wait := some { kind := .quiet, d := 3, since := 0, e := 1 } }

/-- Thread 0 has left its wait for a message of class 2 and is kept from its test by the relock of its die; the limit of 128 ticks
is over, and no message is there. -/
def late : State :=
  let s := (coreOn { base with tick := 200, round := 2 } fun c => { c with classes := [(2, { ctx := 0, entry := none })] }).modTh fun t =>
    { t.setG 5 2 with
        st := .ready, waitFrom := some 0,
        retest := some { wait := { kind := .message 4, d := 3, since := 0, e := 1 }, word := BitVec.ofNat 32 ((encode (.msgWait 1 3 5)).getD 0) } }
  s.modDie 0 fun d => { d with clock := { d.clock with next := some 8, t0 := some 199 } }

/-- Hypotheses of StepRunsEvent: an external event that waits, an event that an engine has due, the end of a round and of a
tick, an expiry that is due after the rounds, and a last
test (R20). -/
theorem witness_step_event : holds [
    afterStep { base with inbox := [.lateReplyDiscard { ep := 0, seq := 0, status := 0, old := 0, data := [] }] } (fun t => t.inbox == [] && t.tick == 0),
    decide (expired.external = none) && expired.engineEvents.isEmpty && decide (expired.turn = none),
    afterStep expired (fun t => t.tick == 200 && t.round == 1 && (t.die 0).cycle == 1 && t.th.st == .waiting),
    decide ((State.timedEvents { expired with round := 2 }).findSome? id = some (.waitExpiry 0)),
    afterStep { expired with round := 2 } (fun t => t.th.rg 3 == 1 && wentOn t),
    decide ((State.timedEvents { expired with tick := 100, round := 2 }).findSome? id = none),
    afterStep { expired with tick := 100, round := 2 } (fun t => t.tick == 101 && t.round == 0),
    decide (late.turn = none), late.lateTest.isSome, 
    (match advance late with | .next t => t.tick == 200 && t.th.st == .parked && t.th.waitOver 200 | _ => false),
    (base.modThr 0 fun t => { t with justReady := true }).eligible 0 0 == false, base.eligible 0 0,
    !(base.modTh fun t => { t with st := .waiting, wait := some { kind := .reply, d := 0, since := 0, e := 15 } }).engineEvents.isEmpty] = true := by decide +kernel

/-- Undecoded words: hypotheses and result of UndecodedWordTraps. -/
theorem witness_undecoded : holds [
    errAnd (decode 0) (· == .illegal),
    (match issueWord 0x00644990 base with | .next t => trapped 1 0x00644990 t | _ => false),
    (match issueWord 0x100208C1 base with | .next t => trapped 2 0x1C100208C1 t | _ => false)] = true := by decide +kernel

/-- The frame of Table 6-15 in replay `k` at index `i`. -/
def framed (k i : Nat) : State := base.modTh fun t =>
  { t with pc := BitVec.ofNat 64 (0x2004 + 4 * i), kfcnt := BitVec.ofNat 64 (0x10200 + k),
           kfidx := BitVec.ofNat 64 (0x10 + i), kfstg := 0x011,
           kfbuf := (t.kfbuf.set 0 0x005402A0).set 1 0x00155360 }

/-- The words of Table 6-15 and the end of its frame; hypotheses of FrameAdvances and FrameIssueRunsBodyWord. -/
theorem test_frame_words : holds [
    decide ((framed 0 0).frameWord = 0x005402A0), decide ((framed 1 0).frameWord = 0x00540AE0),
    decide ((framed 1 1).frameWord = 0x00155BA0), decide ((framed 2 0).frameWord = 0x00541320),
    decide ((framed 2 1).frameWord = 0x001563E0), decide (frameRefuses (framed 2 1).frameWord = false),
    after .repeatFrameIssue (framed 0 0) (fun t => t.th.pc == 0x2008 && t.th.kfidx == 0x11 && t.th.kfcnt == 0x10200),
    after .repeatFrameIssue (framed 0 1) (fun t => t.th.pc == 0x2004 && t.th.kfidx == 0x10 && t.th.kfcnt == 0x10201),
    after .repeatFrameIssue (framed 2 1) (fun t => t.th.pc == 0x200C && t.th.kfcnt == 0 && t.th.kfidx == 0 && t.th.kfstg == 0)] = true := by decide +kernel

/-- A body word that a frame refuses: `rep` inside a frame traps ILLEGAL and the frame stays active (R161). -/
theorem test_frame_refused :
    let s := base.modTh fun t => { t with kfcnt := 0x10000, kfidx := 0, kfbuf := t.kfbuf.set 0 0x0044408F }
    holds [
    frameRefuses s.frameWord,
    after .repeatFrameIssue s (fun t => trapped 1 0x0044408F t && t.th.inFrame)] = true := by decide +kernel

/-- Hypotheses of FrameIssueRunsBodyWord: words of each integer shape, and one with a bad reserved bit (R24, R160). -/
theorem witness_frame_integer :
    let one := fun (w : Nat) => (regs [(1, 5), (2, 3)]).modTh fun t => { t with kfcnt := 0x10000, kfidx := 0, kfbuf := t.kfbuf.set 0 (BitVec.ofNat 64 w) }
    holds [
    [0x000208C1, (encode (.opiSxb 3 1)).getD 0, (encode (.addi 3 1 7)).getD 0, (encode (.shiSlli 3 1 1)).getD 0].map (fun w => (decode (one w).frameWord).toOption) ==
      [some (.opiAdd 3 1 2), some (.opiSxb 3 1), some (.addi 3 1 7), some (.shiSlli 3 1 1)],
    (one 0x000208C1).th.asked == [], frameRefuses (one 0x000208C1).frameWord == false, after .repeatFrameIssue (one 0x000208C1) (fun t => t.th.rg 3 == 8 && t.th.pc == 0x1004),
    errAnd (decode (one 0x100208C1).frameWord) (· == .reservedField 28), frameRefuses (one 0x100208C1).frameWord == false,
    after .repeatFrameIssue (one 0x100208C1) (trapped 2 0x1C100208C1)] = true := by decide +kernel

/-- `rep` with its body of two words in the instruction cache: hypotheses and result of RepStartsFrame. -/
theorem witness_rep :
    let s := coreOn base fun c => { c with tlb := [{ va := 0x1000, pte := bootPte }],
                                            icache := [(64, (List.range 16).map fun i => some (BitVec.ofNat 32 (100 + i)))] }
    holds [
    okAnd (s.fetchBody 0x1004 2) (fun ws => ws == [101, 102]),
    after (.rep 2 1 1 1 0) s (fun t => t.th.pc == 0x1004 && t.th.kfcnt == 0x10200 && t.th.kfidx == 0x10 && t.th.kfstg == 0x11 && t.th.kfbuf.get 0 == 101 && t.th.kfbuf.get 1 == 102)] = true := by decide +kernel

/-! ## Special registers, traps and handlers (Tables 4-1, 4-13; R84 to R97) -/

/-- Table 4-13: thread 0x23 is about to issue `sys.call g10, 0x12`; its handler is context 0 of core 1. -/
def calling : State :=
  let s := { State.reset with started := true, cur := 0x23, tick := 7 }
  let s := s.modCor 1 fun c => { c with launch := some 1, nctx := 16, lcore := 1, scr := 0x40000,
                                        classes := [(5, { ctx := 0, entry := none })] }
  let s := s.modCor 2 fun c => { c with launch := some 1, nctx := 16, lcore := 2, scr := 0x40000 }
  let s := s.modThr 0x10 fun t => { t with st := .ready, pc := 0x500 }
  s.modThr 0x23 fun t => { t.setG 10 0x400 with st := .ready, pc := 0x10A40, ktvec := 0x20015, word := 0x0812502C }

/-- The handler of `calling` after thread 0x23 has trapped, with `g4` the TID and two values. -/
def handling (g8 g9 : Word) : State :=
  { (calling.trapNow { cause := 0xA0, info := 0x12, aux := 0x400 }) with cur := 0x10 }.modTh
    fun t => ((t.setG 4 0x23).setG 8 g8).setG 9 g9

/-- Steps 1 and 2 of Table 4-13. -/
theorem test_call : holds [
    after (.sysCall 10 0x12) calling (fun t => t.th.st == .trapped && t.th.kcause == 0xA0 && t.th.kinfo == 0x12 && t.th.kepc == 0x10A40 && t.th.pc == 0x10A40 && t.transit.map (fun p => (p.core, p.msg.cls, p.msg.words)) == [(some 1, 5, [0x10A40, 0x12, 0x23000000A0, 0x20812502C, 0, 7, 0x400, 0])]),
    after (.sysBrk 9) base (trapped 0xA1 9)] = true := by decide +kernel

/-- Steps 4 to 8 of Table 4-13; hypotheses of HandlerForms. -/
theorem test_handler : holds [
    after (.sysTread 9 4 .pc) (handling 0 0) (fun t => t.th.rg 9 == 0x10A40),
    after (.sysTread 9 4 (.g 10)) (handling 0 0) (fun t => t.th.rg 9 == 0x400),
    after (.sysTwrite 9 4 .pc) (handling 0 0x10A44) (fun t => (t.thr 0x23).pc == 0x10A44),
    after (.sysTwrite 8 4 (.g 10)) (handling 0x401 0) (fun t => (t.thr 0x23).rg 10 == 0x401),
    after (.sysTwrite 9 4 .pc) (handling 0 0x10A42) (fun t => t.th.st == .trapped && t.th.kcause == 0x13 && t.th.kinfo == 0x10A42),
    after (.sysTresume 4) (handling 0 0) (fun t => (t.thr 0x23).st == .ready),
    after (.sysTkill 4) (handling 0 0) (fun t => (t.thr 0x23).st == .ended),
    after (.sysTkill 4) ((handling 0 0).resume 0x23) (fun t => t.th.st == .trapped && t.th.kcause == 0x11 && t.th.kinfo == 0x23)] = true := by decide +kernel

/-- A handler's forms on masks, k-registers and pieces of vectors of a TRAPPED thread (R96, R97); `sys.tkill` waits while a die
relocks (R322); hypotheses of HandlerForms and ThreadsEnd. -/
theorem test_handler_registers : holds [
    after (.sysTread 9 4 (.k .kinfo)) (handling 0 0) (fun t => t.th.rg 9 == 0x12),
    after (.sysTwrite 8 4 (.v 2)) ((handling 0xABCD 0).modTh fun t => t.setG 4 0x60023) (fun t => lane 64 ((t.thr 0x23).rv 2) 3 == 0xABCD && lane 64 ((t.thr 0x23).rv 2) 2 == 0),
    after (.sysTread 9 4 (.v 2)) (((handling 0 0).modThr 0x23 fun t => t.setV 2 (vec 64 [1, 2, 3, 4])).modTh fun t => t.setG 4 0x60023) (fun t => t.th.rg 9 == 4),
    after (.sysTwrite 8 4 (.m 3)) (handling 0x12345 0) (fun t => (t.thr 0x23).rm 3 == 0x2345),
    after (.sysTwrite 8 4 (.k .kqmask)) (handling 0x81 0) (fun t => (t.thr 0x23).kqmask == 0x81 && t.th.kqmask == 3),
    after (.sysTwrite 8 4 (.k .kqmask)) (handling 0x100 0) (fun t => t.th.st == .trapped && t.th.kcause == 2 && (t.thr 0x23).kqmask == 3),
    after (.sysTkill 4) ((handling 0 0).modDie 5 fun d => { d with clock := { d.clock with t0 := some 0 } }) (fun t => t.th.st == .waiting && (t.thr 0x23).st == .trapped)] = true := by decide +kernel

/-- A handler's form on a thread of another die, which relocks (R322): hypotheses of HandlerForms and HandlerFormsRefused. -/
theorem test_held_off :
    let far := fun (st : CtxState) => (((handling 0 0).modCor 514 fun c => { c with launch := some 1, nctx := 16, lcore := 3, scr := 0x40000 }).modThr 0x2023 fun t =>
      { t with st := st, pc := 0x700 }).modTh fun t => t.setG 4 0x2023
    let relocks := fun (s : State) => s.modDie 1 fun d => { d with clock := { d.clock with t0 := some 0 } }
    let held := fun (i : Instr) (s : State) => after i (relocks s) fun t => t.th.st == .waiting && t.th.pc == s.th.pc && t.thr 0x2023 == s.thr 0x2023
    holds [held (.sysTread 9 4 .pc) (far .trapped), held (.sysTwrite 9 4 (.g 3)) (far .trapped), held (.sysTresume 4) (far .trapped), held (.sysTread 9 4 .pc) (far .ready),
    after (.sysTread 9 4 .pc) (far .trapped) (fun t => t.th.rg 9 == 0x700), after (.sysTread 9 4 .pc) (far .ready) (fun t => t.th.st == .trapped && t.th.kcause == 0x11)] = true := by decide +kernel

/-- Hypotheses of TrapDestination: disabled, no such class, a handler that can take the record, one that is TRAPPED. -/
theorem witness_trap_destination : holds [
    decide (base.trapDest 0 = none), decide (calling.trapDest 0x23 = some (1, 5, some 1)),
    decide ((calling.modThr 0x23 fun t => { t with ktvec := 0x20017 }).trapDest 0x23 = none),
    decide ((calling.modThr 0x10 fun t => { t with st := .trapped }).trapDest 0x23 = none),
    decide ((calling.modThr 0x10 fun t => { t with ktvec := 0x20015 }).trapDest 0x10 = none)] = true := by decide +kernel

/-- Hypotheses of HandlerFormsRefused: a target in another launch, and at service level one that is not TRAPPED. -/
theorem witness_handler_refused : holds [
    after (.sysTresume 4) ((handling 0 0).modCor 2 fun c => { c with launch := some 2 }) (fun t => t.th.st == .trapped && t.th.kcause == 3 && (t.thr 0x23).st == .trapped),
    after (.sysTread 9 4 .pc) (((handling 0 0).resume 0x23).modTh fun t => { t with kstat := 1 }) (fun t => t.th.st == .trapped && t.th.kcause == 0x11 && t.th.kinfo == 0x23)] = true := by decide +kernel

/-- `sys.rdk` and the writes: values of Table 4-1, the checks of R89 and R84. -/
theorem test_special_registers : holds [
    after (.sysRdk 7 .kqmask) base (fun t => t.th.rg 7 == 3 && wentOn t),
    after (.sysRdk 7 .kid) { calling with cur := 0x23 } (fun t => t.th.rg 7 == 0x200000023),
    after (.sysWrk 5 .kqmask) (regs [(5, 0x81)]) (fun t => t.th.kqmask == 0x81 && wentOn t),
    after (.sysWrk 5 .kqmask) (regs [(5, 0x100)]) (fun t => t.th.st == .trapped && t.th.kcause == 2 && t.th.kqmask == 3),
    after (.sysSetk 5 .kqmask) (regs [(5, 0x80)]) (fun t => t.th.kqmask == 0x83 && wentOn t),
    after (.sysClrk 5 .kqmask) (regs [(5, 1)]) (fun t => t.th.kqmask == 2 && wentOn t),
    after (.sysWrk 5 .kswait) (regs [(5, 1)]) (fun t => t.th.st == .trapped && t.th.kcause == 3),
    after (.sysWrk 5 .kstat) (regs [(5, 8)]) (fun t => t.th.st == .trapped && t.th.kcause == 3),
    after (.sysWrk 5 .ktvec) { (calling.modTh fun t => t.setG 5 0x20015) with cur := 0x23 } (fun t => t.th.ktvec == 0x20015 && t.th.pc == 0x10A44),
    after (.sysWrk 5 .ktvec) (calling.modTh fun t => t.setG 5 0x20035) (fun t => t.th.st == .trapped && t.th.kcause == 0x11 && t.th.kinfo == 0x20035),
    after (.sysSetk 5 .ktvec) (calling.modTh fun t => { t.setG 5 0x20020 with ktvec := 0x15 }) (fun t => t.th.st == .trapped && t.th.kcause == 0x11 && t.th.kinfo == 0x20035),
    after (.sysClrk 5 .ktvec) (calling.modTh fun t => { t.setG 5 0x20 with ktvec := 0x20035 }) (fun t => t.th.ktvec == 0x20015 && t.th.pc == 0x10A44),
    after (.sysWrk 5 .ktvec) (calling.modTh fun t => t.setG 5 0x38000) (fun t => t.th.st == .trapped && t.th.kcause == 0x11 && t.th.kinfo == 0x38000),
    after (.sysWrk 5 .ktvec) (calling.modTh fun t => { t.setG 5 0x38000 with kstat := 1 }) (fun t => t.th.ktvec == 0x38000)] = true := by decide +kernel

/-- `sys.exit` with no packet open, and with one (R91, R109); hypotheses of ThreadsEnd. -/
theorem test_exit : holds [
    after .sysExit base (fun t => t.th.st == .ended),
    after .sysExit (base.modTh fun t => { t with packet := [1] }) (trapped 0x60 0)] = true := by decide +kernel

/-! ## Memory (R128, R165 to R174, R177, R264, R278) -/

/-- `base` with cached translations: PLAIN writable 0x10000, PLAIN read-only 0x11000, TILED 0x12000, the launch block of
die 0 at 0x13000, its control block at 0x14000; and the bytes 1 to 16 at physical 0x5078. -/
def paged : State :=
  let s := coreOn base fun c =>
    { c with tlb := [{ va := 0x10000, pte := 0x5027 }, { va := 0x11000, pte := 0x6023 },
                     { va := 0x12000, pte := 0x400000000007027 }, { va := 0x13000, pte := 0xC08000000000027 },
                     { va := 0x14000, pte := 0xC08000000010027 }] }
  { s with mem := (List.range 16).map fun i => (0x5078 + i, BitVec.ofNat 8 (i + 1)) }

/-- `paged` with general registers of thread 0 written. -/
def pagedRegs (l : List (Reg × Word)) : State := paged.modTh fun t => l.foldl (fun t e => t.setG e.1 e.2) t

/-- A load across two lines (0x1007C to 0x10083), its checks, and the traps of R166; hypotheses of PlainLoadResult. -/
theorem test_ld_plain :
    let s := pagedRegs [(1, 0x1007C)]
    holds [
    okAnd (s.plainParts .load kPlain (s.th.ea 1 0 8) 8) (fun ps => ps.map (fun p => (p.pa, p.n)) == [(0x507C, 4), (0x5080, 4)] && okAnd (s.loadParts 0 ps) fun r => r.1 == 0x0C0B0A0908070605),
    after (.ldPlain .d 3 1 0) s (fun t => t.th.rg 3 == 0x0C0B0A0908070605 && wentOn t && t.mem == s.mem),
    after (.ldPlain .b 3 1 0x7FF) s (fun t => t.th.rg 3 == 4 && wentOn t),
    after (.ldPlain .d 3 1 0) (pagedRegs [(1, 0x12000)]) (trapped 0x12 0x12000),
    after (.ldPlain .d 3 1 0) (pagedRegs [(1, 0x0200000000000000)]) (trapped 0x10 0x0200000000000000)] = true := by decide +kernel

/-- `paged` with a page of lu = 0, one of another residency beside 0x13000's, and a KEYED page. -/
def denied (l : List (Reg × Word)) : State :=
  coreOn (pagedRegs l) fun c => { c with tlb := c.tlb ++ [{ va := 0x15000, pte := 0x5007 }, { va := 0x16000, pte := 0x100000000005027 }, { va := 0x17000, pte := 0x5027 }, { va := 0x18000, pte := 0x800000000005027 }] }

/-- The checks of R166 in their order (R94, R166, R168, R278): hypotheses of AccessChecks. -/
theorem test_access_checks :
    let at_ := fun (x : Word) (i : Instr) (p : State → Bool) => after i (denied [(1, x)]) p
    holds [
    at_ 0xFFFFFFFFFFFFFC (.ldPlain .d 3 1 0) (trapped 0x10 0x100000000000000), at_ 0x20000 (.ldPlain .d 3 1 0) (fun t => waits .waiting (.pageWalk 0x20000) t && t.walks == [0]),
    at_ 0x11000 (.amoAdd .w 3 1 2) (trapped 0x11 0x11000), at_ 0x11000 (.ordStl .die .w 1 2) (trapped 0x11 0x11000), at_ 0x11000 (.ordLda .die .w 3 1) wentOn,
    at_ 0x15000 (.ldPlain .d 3 1 0) (trapped 0x11 0x15000), after (.ldPlain .d 3 1 0) ((denied [(1, 0x15000)]).modTh fun t => { t with kstat := 1 }) wentOn,
    at_ 0x18000 (.ldPlain .d 3 1 0) (trapped 0x12 0x18000), at_ 0x18000 (.ldTiled .d 3 1 0) (trapped 0x12 0x18000), at_ 0x10000 (.ldTiled .d 3 1 0) (trapped 0x12 0x10000),
    at_ 0x10000 (.ldDevice .d 3 1 0) (trapped 0x12 0x10000), at_ 0x14004 (.ldDevice .d 3 1 0) (trapped 0x13 0x14004), at_ 0x14002 (.stDevice .w 3 1 0) (trapped 0x13 0x14002),
    at_ 0x16FFC (.ldPlain .d 3 1 0) (trapped 0x13 0x16FFC), at_ 0x16FFC (.stPlain .d 3 1 0) (trapped 0x13 0x16FFC), at_ 0x1007C (.ordLda .core .d 3 1) (trapped 0x13 0x1007C),
    after (.stPlain .d 2 1 0) (denied [(1, 0x10FFC)]) (trapped 0x11 0x11000), after (.ldPlain .d 3 1 0) (denied [(1, 0x1FFFC)]) (waits .waiting (.pageWalk 0x1FFFC)),
    okAnd ((denied []).pageParts .load (linePieces 0x10FFC 8)) (fun ps => ps.map (·.va) == [0x10FFC, 0x11000])] = true := by decide +kernel

/-- Uncorrectable words of memory and of the scratchpad (R281): hypotheses of LostLoad, LostStore and of the scratchpad clauses. -/
theorem test_lost_words :
    let at_ := fun (x : Word) (i : Instr) (p : State → Bool) => after i { (pagedRegs [(1, x)]) with poison := [(0xA10, 0)] } p
    let scr := fun (x : Word) (i : Instr) (p : State → Bool) => after i (coreOn (regs [(1, x)]) fun c => { c with spoison := [(0x21, 0)] }) p
    holds [at_ 0x10080 (.ldPlain .d 3 1 0) (trapped 0x90 0x5080), at_ 0x10087 (.ldPlain .h 3 1 0) (trapped 0x90 0x5080), at_ 0x10088 (.ldPlain .d 3 1 0) wentOn,
    at_ 0x10082 (.stPlain .h 2 1 0) (trapped 0x90 0x5080), at_ 0x10080 (.stPlain .d 2 1 0) wentOn, at_ 0x10080 (.amoAdd .w 3 1 2) (trapped 0x90 0x5080),
    at_ 0x10084 (.ordLda .die .w 3 1) (trapped 0x90 0x5080), at_ 0x10084 (.ordLda .core .w 3 1) (trapped 0x90 0x5080), at_ 0x10084 (.ordStl .core .w 1 2) (trapped 0x90 0x5080), at_ 0x10084 (.ordStl .die .w 1 2) (trapped 0x90 0x5080),
    scr 0x100 (.lds .q 4 1 0) (trapped 0x90 0x108), scr 0x10F (.lds .b 4 1 0) (trapped 0x90 0x108), scr 0xD0 (.vlds 4 1 0) (trapped 0x90 0x108), scr 0x108 (.sts .d 4 1 0) wentOn,
    scr 0x104 (.sts .d 4 1 0) (trapped 0x90 0x108), scr 0xCC (.vsts 4 1 0) (trapped 0x90 0x108)] = true := by decide +kernel

/-- Hypotheses of LoadSeesCoreView, at the last bytes of a line, for a part that misses and then hits. -/
theorem witness_load_view :
    let p : Part := { va := 0x1007C, pa := 0x507C, n := 4, pte := 0x5027 }
    holds [
    decide (p.pa % 128 + p.n ≤ 128),
    okAnd (paged.loadPart 0 p) (fun r => r.1 == 0x08070605 && (r.2.cor 0).l1Hit p.pa p.n && okAnd (r.2.loadPart 0 p) fun q => q.1 == 0x08070605),
    (paged.cor 0).l1Hit p.pa p.n == false] = true := by decide +kernel

/-- A store of a part of a word goes to the queue, one of whole words to the L1; hypotheses of PlainStoreResult. -/
theorem test_st_plain :
    let s := pagedRegs [(1, 0x10080), (2, 0xAABBCCDD)]
    holds [
    okAnd (s.plainParts .store kPlain (s.th.ea 1 0 2) 2) (fun ps => okAnd (s.storeParts 0 false 0xCCDD ps) fun r => r.1 == none),
    after (.stPlain .h 2 1 0) s (fun t => t.co.wtq == [{ pa := 0x5080, bytes := [some 0xDD, some 0xCC], dev := false }] && wentOn t && t.mem == s.mem && t.seenByte 0 0x5080 == 0xDD),
    after (.stPlain .w 2 1 0) s (fun t => (t.co.l1.find 0xA1).map (·.dirty) == some 1 && t.co.wtq == [] && wentOn t),
    after (.stPlain .w 2 1 0) (pagedRegs [(1, 0x11000)]) (trapped 0x11 0x11000)] = true := by decide +kernel

/-- A core with a dirty word of 0x5080 in its L1, a part of which waits in its write-through queue too. -/
def dirtyQueued : State :=
  coreOn (pagedRegs [(1, 0x10080)]) fun c => { c with
    l1 := [(0xA1, { valid := 1, dirty := 1, bad := 0, data := 0xDDCCBB77, ro := false, tile := none })]
    wtq := [{ pa := 0x5080, bytes := [some 0x77], dev := false }] }

/-- Hypotheses of StoreChangesCoreView, for a store of whole words and one of a single byte. -/
theorem witness_store_view :
    let p : Part := { va := 0x1007C, pa := 0x507C, n := 4, pte := 0x5027 }
    let q : Part := { va := 0x1007F, pa := 0x507F, n := 1, pte := 0x5027 }
    holds [
    okAnd (paged.storeParts 0 true 0x11223344 [p]) (fun r => r.1 == none && (r.2.co.l1.find 0xA0).isSome),
    okAnd (paged.storeParts 0 false 0x55 [q]) (fun r => r.1 == none && r.2.seenByte 0 0x507F == 0x55),
    AMap.sorted (paged.cor 0).l1 && (paged.cor 0).wtq == [], AMap.sorted (dirtyQueued.cor 0).l1, (dirtyQueued.cor 0).wtq.all fun e => decide (e.pa % 128 + e.bytes.length ≤ 128),
    okAnd (dirtyQueued.storeParts 0 false 0x55 [q]) (fun r => r.1 == none && r.2.seenByte 0 0x507F == 0x55 && (r.2.co.l1.find 0xA1).map (·.dirty) == some 1),
    okAnd (dirtyQueued.loadPart 0 { va := 0x10080, pa := 0x5080, n := 8, pte := 0x5027 }) (fun r => r.1 == 0x100F0E0DDDCCBB77),
    decide (p.pa % 4 = 0), decide ((setLines (paged.cor 0) 0xA0).length < 8)] = true := by decide +kernel

/-- `paged` with a record of sixteen 4-byte elements at 0x12000 in slice 0 and a tenure of a thread over its rows. -/
def tenured (thread : Nat) (write : Bool) : State :=
  paged.modSli 0 fun x =>
    { x with recs := [(2, { asid := 1, fmt := 4, rank := 1, base := 0x12000, hbase := 0, ext := [16, 0, 0, 0],
                            str := [4, 0, 0, 0] })],
             ents := [{ idx := 2, thread := thread, lo := 0, hi := 0, write := write, r := 0, cls := 0, st := .held }] }

/-- R264: a load under the core's own tenure, at its home, and in conflict; a store under WRITE tenure, and without one. -/
theorem test_tiled :
    let own := (tenured 5 true).modTh fun t => (t.setG 1 0x12000).setG 2 0x77
    let other := (tenured 16 true).modTh fun t => (t.setG 1 0x12000).setG 2 0x77
    holds [
    after (.ldTiled .w 3 1 0) own (fun t => t.th.rg 3 == 0 && wentOn t),
    after (.ldTiled .w 3 1 16) other (fun t => t.th.rg 3 == 0 && wentOn t),
    after (.ldTiled .w 3 1 0) other (waits .waiting (.homeLoad [(0, 0x12000, 4)])),
    after (.ldTiled .w 3 1 0) (coreOn other fun c => { c with kswait := 0 }) (trapped 0x31 0x12000),
    after (.stTiled .w 2 1 0) own (fun t => wentOn t && (t.co.l1.find 0xE0).map (·.dirty) == some 1),
    after (.stTiled .w 2 1 0) other (trapped 0x30 0x12000),
    (List.range 4).all (fun i => other.byteFate 0 0 true (0x12000 + i) == .required)] = true := by decide +kernel

/-- Thread 5 waits at 0x2000 for bytes of which another core holds a WRITE tenure (R264). -/
def blockedLoad (tick : Nat) : State :=
  { (tenured 16 true) with tick := tick }.modThr 5 fun t =>
    { t with st := .waiting, pc := 0x2000, wait := some { kind := .homeLoad [(0, 0x12000, 4)], d := 7, since := 0, e := 10 } }

/-- Hypotheses of TiledLoadResult: a load that its core's tenure covers, one read at its home, one that waits there, one at a byte
of a REVOKED entry, one whose bytes have been read while it waited, and the moment at which they are. -/
theorem witness_tiled :
    let at_ := fun (s : State) => s.modTh fun t => t.setG 1 0x12000
    let parts := fun (s : State) (ok : Except Stop ByteFate → Bool) => okAnd (s.plainParts .load kTiled (s.th.ea 1 0 4) 4) fun ps => ok (s.tenureCheck 0 false (tileParts ps))
    let revoked := (at_ (tenured 0 false)).modSli 0 fun x => { x with ents := x.ents.map fun e => { e with st := .revoked } }
    let had := (at_ paged).modTh fun t => { t with got := (List.range 4).map fun i => (0x12000 + i, BitVec.ofNat 64 (i + 1)) }
    let free := (blockedLoad 9).modSli 0 fun x => { x with ents := [] }
    holds [
    parts (at_ (tenured 5 true)) (fun f => okAnd f (· == .l1)), parts (at_ (tenured 16 true)) (fun f => okAnd f (· == .home)),
    decide ((at_ (tenured 16 true)).homeBlocked 0 [(0, 0x12000, 4)] = some 0x12000),
    decide ((at_ (tenured 16 false)).homeBlocked 0 [(0, 0x12000, 4)] = none), after (.ldTiled .w 3 1 0) (at_ (tenured 16 false)) (fun t => t.th.rg 3 == 0 && wentOn t),
    after (.ldTiled .w 3 1 0) revoked (trapped 0x33 0x12000), after (.ldTiled .w 3 1 0) had (fun t => t.th.rg 3 == 0x04030201 && wentOn t),
    AMap.sorted free.threads, AMap.sorted (free.cor 0).l1, decide (free.homeBlocked 0 [(0, 0x12000, 4)] = none),
    decide (free.homeAt 0 [(0, 0x12000, 4)] = [(0x12000, some 0x7000), (0x12001, some 0x7001), (0x12002, some 0x7002), (0x12003, some 0x7003)]),
    (free.wakeHome.thr 5).st == .ready, (free.wakeHome.thr 5).got == (List.range 4).map fun i => (0x12000 + i, 0)] = true := by decide +kernel

/-- The atomics on the word 0x0C0B0A09 at 0x10080 (Table 14-4); hypotheses of AtomicResult. -/
def amoLeaves (i : Instr) (x : Word) (r : Nat) : Bool :=
  after i (pagedRegs [(1, 0x10080), (2, x), (3, 0x0C0B0A09)]) fun t =>
    t.th.rg 3 == 0x0C0B0A09 && natOfBytes (memRead t.mem 0x5080 4) == r && wentOn t && t.co.wtq == [] &&
    natOfBytes (memRead t.mem 0x5084 4) == 0x100F0E0D

theorem test_amo : holds [
    amoLeaves (.amoSwap .w 3 1 2) 0x100000005 5, amoLeaves (.amoAdd .w 3 1 2) 0xF3F4F5F7 0,
    amoLeaves (.amoAnd .w 3 1 2) 0xFF00 0x0A00, amoLeaves (.amoOr .w 3 1 2) 0xF0 0x0C0B0AF9,
    amoLeaves (.amoXor .w 3 1 2) 0xFF 0x0C0B0AF6, amoLeaves (.amoMin .w 3 1 2) 0x80000000 0x80000000,
    amoLeaves (.amoMax .w 3 1 2) 0x80000000 0x0C0B0A09, amoLeaves (.amoMinu .w 3 1 2) 0x80000000 0x0C0B0A09,
    amoLeaves (.amoMaxu .bw 3 1 2) 0x80000000 0x80000000, amoLeaves (.amoCas .w 3 1 2) 7 7,
    after (.amoAdd .d 3 1 2) (pagedRegs [(1, 0x10084)]) (trapped 0x13 0x10084)] = true := by decide +kernel

/-- A core with a dirty word of 0x5080 in its L1. -/
def dirtied : State :=
  match exec (.stPlain .w 2 1 0) (pagedRegs [(1, 0x10080), (2, 0xAABBCCDD)]) with
  | .next t => t.modTh fun x => { x with pc := 0x1000, st := .ready, wait := none }
  | _ => paged

/-- The whole word goes home with the part (R128, R329). -/
theorem test_line_home : holds [
    after (.homeRequestArrival 0) dirtyQueued (fun t => natOfBytes (memRead t.mem 0x5080 4) == 0xDDCCBB77 && t.co.wtq == [] && (t.co.l1.find 0xA1).map (fun l => (l.valid, l.dirty)) == some (1, 0)),
    after (.homeRequestArrival 0) (coreOn dirtyQueued fun c => { c with wtq := [{ pa := 0x5084, bytes := [some 9], dev := false }] }) (fun t => natOfBytes (memRead t.mem 0x5080 8) == 0x100F0E090C0B0A09 && (t.co.l1.find 0xA1).map (·.dirty) == some 1)] = true := by decide +kernel

theorem test_ord : holds [
    after (.ordAcq .package) dirtyQueued (fun t => (t.co.l1.find 0xA1).map (fun l => (l.valid, l.dirty, lineGet l.data 0 4)) == some (1, 1, 0xDDCCBB77)),
    after (.ldPlain .w 3 1 0) dirtyQueued (fun t => t.th.rg 3 == 0xDDCCBB77), after (.ldPlain .d 3 1 0) dirtyQueued (fun t => t.th.rg 3 == 0x100F0E0DDDCCBB77),
    after (.ordRel .package) dirtied (fun t => natOfBytes (memRead t.mem 0x5080 4) == 0xAABBCCDD && t.co.wtq == [] && wentOn t),
    after (.ordRel .core) dirtied (fun t => t.mem == dirtied.mem && wentOn t),
    after (.ordAcq .cluster) dirtied (fun t => (t.co.l1.find 0xA1).map (fun l => l.valid) == some 1 && wentOn t),
    after (.ordFence .cluster) dirtied (fun t => t.co.l1 == [] && natOfBytes (memRead t.mem 0x5080 4) == 0xAABBCCDD && wentOn t),
    after (.ordLda .die .w 3 1) dirtied (fun t => t.th.rg 3 == 0xAABBCCDD && wentOn t),
    after (.ordLda .thread .w 3 1) dirtied (fun t => t.th.rg 3 == 0xAABBCCDD && wentOn t),
    after (.ordStl .die .w 1 2) (pagedRegs [(1, 0x10080), (2, 0xAABBCCDD)]) (fun t => natOfBytes (memRead t.mem 0x5080 4) == 0xAABBCCDD && wentOn t),
    after (.ordStl .core .w 1 2) (pagedRegs [(1, 0x10080), (2, 0xAABBCCDD)]) (fun t => natOfBytes (memRead t.mem 0x5080 4) == 0x0C0B0A09 && wentOn t),
    after (.ordStl .die .w 1 2) (pagedRegs [(1, 0x10082)]) (trapped 0x13 0x10082)] = true := by decide +kernel

/-- A scratchpad that holds the bytes 1 to 64 from 0x100 on; `g1` names it. -/
def scratched : State :=
  coreOn (regs [(1, 0x100), (2, 0x8877665544332211), (3, 0x99)]) fun c => c.scrWrite 0x100 ((List.range 64).map fun i => BitVec.ofNat 8 (i + 1))

/-- R172, R173 at the last bytes of the reservation, and past it (R122). -/
theorem test_scratchpad : holds [
    after (.lds .d 4 1 0) scratched (fun t => t.th.rg 4 == 0x0807060504030201 && wentOn t),
    after (.lds .q 4 1 1) scratched (fun t => t.th.rg 4 == 0x1817161514131211 && t.th.rg 5 == 0x201F1E1D1C1B1A19),
    after (.vlds 4 1 0) scratched (fun t => t.th.rv 4 == BitVec.ofNat 512 (natOfBytes ((List.range 64).map fun i => BitVec.ofNat 8 (i + 1)))),
    after (.sts .h 2 1 1) scratched (fun t => t.co.scrRead 0x100 8 == 0x0807060522110201 && wentOn t),
    after (.sts .q 2 1 0) scratched (fun t => t.co.scrRead 0x100 16 == 0x998877665544332211),
    after (.vsts 0 1 0) scratched (fun t => t.co.scrRead 0x100 64 == 0 && t.co.scratch == []),
    after (.lds .d 4 1 0) (regs [(1, 0x3FFF8)]) (fun t => t.th.rg 4 == 0 && wentOn t),
    after (.lds .d 4 1 0) (regs [(1, 0x40000)]) (trapped 0x14 0x40000),
    after (.sts .d 4 1 0) (coreOn (regs [(1, 0x100)]) fun c => { c with scr := 0x100 }) (trapped 0x14 0x100),
    after (.lds .d 4 1 0) (coreOn (regs [(1, 0xFC)]) fun c => { c with scr := 0x100 }) (trapped 0x14 0x100), after (.vsts 4 1 0) (coreOn (regs [(1, 0xFC)]) fun c => { c with scr := 0xF0 }) (trapped 0x14 0xFC),
    after (.feTake 4 1 0) (regs [(1, 0x40004)]) (trapped 0x14 0x40004), after (.fePut 4 1 0) (regs [(1, 0x3FFFC)]) (trapped 0x13 0x3FFFC),
    after (.feFill 4 1 0) (coreOn (regs [(1, 0x100)]) fun c => { c with scr := 0x104 }) (trapped 0x14 0x100)] = true := by decide +kernel

/-- Word 0x20 empty, with a taker or without. -/
def emptied (takers : List Nat) : State :=
  coreOn scratched fun c => { c with empty := [(0x20, true)], takers := if takers = [] then [] else [(0x20, takers)] }

/-- `emptied` with thread 9 in the list of the word. -/
def awaited : State :=
  (emptied [9]).modThr 9 fun t => { t with st := .waiting, pc := 0x2000, wait := some { kind := .take 0x20, d := 7, since := 0, e := 15 } }

theorem test_full_empty : holds [
    after (.feTake 4 1 0) scratched (fun t => t.th.rg 4 == 0x0807060504030201 && t.co.isFull 0x20 == false),
    after (.feSload 4 1 0) scratched (fun t => t.th.rg 4 == 0x0807060504030201 && t.co.isFull 0x20),
    after (.feTake 4 1 0) (emptied []) (fun t => waits .waiting (.take 0x20) t && t.co.takersOf 0x20 == [0]),
    after (.fePut 2 1 0) (emptied []) (fun t => t.co.isFull 0x20 && t.co.scratch.get 0 0x20 == 0x8877665544332211),
    after (.fePut 2 1 0) awaited (fun t => t.co.isFull 0x20 == false && (t.thr 9).rg 7 == 0x8877665544332211 && (t.thr 9).st == .ready && (t.thr 9).pc == 0x2004 && t.co.takersOf 0x20 == []),
    after (.feFill 0 1 0) scratched (fun t => t.co.isFull 0x20 == false && wentOn t),
    after (.feFill 2 1 0) (emptied []) (fun t => t.co.isFull 0x20 && wentOn t),
    after (.feFill 2 1 0) awaited (fun t => t.co.isFull 0x20 == false && (t.thr 9).rg 7 == 0x0807060504030201 && (t.thr 9).st == .ready && t.co.takersOf 0x20 == []),
    after (.feTake 4 1 0) (regs [(1, 0x104)]) (trapped 0x13 0x104)] = true := by decide +kernel

/-- Loads of an empty word, and what a `put` and a `fill` do for those that wait; an uncorrectable word (R174, R281). -/
theorem test_sload :
    let waiting := (emptied []).modThr 9 fun t => { t with st := .waiting, pc := 0x2000, wait := some { kind := .fullWord 0x20, d := 7, since := 0, e := 15 } }
    let lost := fun (s : State) => coreOn s fun c => { c with spoison := [(0x20, 0)] }
    let ready := fun (t : State) (x : Word) => (t.thr 9).rg 7 == x && (t.thr 9).st == .ready
    let dead := fun (t : State) (u : Nat) => (t.thr u).st == .trapped && (t.thr u).kcause == 0x90 && (t.thr u).kinfo == 0x100
    holds [
    after (.feSload 4 1 0) (emptied []) (waits .waiting (.fullWord 0x20)),
    after (.fePut 2 1 0) waiting (fun t => ready t 0x8877665544332211 && t.co.isFull 0x20), after (.feFill 2 1 0) waiting (fun t => ready t 0x0807060504030201 && t.co.isFull 0x20),
    after (.feTake 4 1 0) (lost scratched) (trapped 0x90 0x100), after (.feSload 4 1 0) (lost scratched) (trapped 0x90 0x100),
    after (.feFill 2 1 0) (lost awaited) (fun t => dead t 9 && t.co.takersOf 0x20 == [] && wentOn t),
    after (.feFill 2 1 0) (lost waiting) (fun t => dead t 9 && t.co.isFull 0x20 && wentOn t)] = true := by decide +kernel

/-- Reading of a write, and of a byte outside it; hypotheses of MemoryReadsWhatWasWritten. -/
theorem test_memory : holds [
    memWf paged.mem, decide (memRead (memWrite paged.mem 0x507C [0, 9]) 0x507B 4 = [4, 0, 9, 7]),
    memWf (memWrite paged.mem 0x507C [0, 9])] = true := by decide +kernel

/-- DEVICE pages: `dclk` reads its reset value, a store of a target by the service waits in the queue, one at launch level
traps, and the write that arrives sets it; `lqstat` reads 0 (R8, R170, R296, R321); hypotheses of DeviceAccess. -/
theorem test_device :
    let s := pagedRegs [(1, 0x14000), (2, 0x1300), (4, 0x13000), (5, 0x2000)]
    holds [
    after (.ldDevice .d 3 1 0) s (fun t => t.th.rg 3 == 0x1111),
    after (.ldDevice .d 3 4 1) s (fun t => t.th.rg 3 == 0),
    after (.stDevice .d 2 1 0) (s.modTh fun t => { t with kstat := 1 }) (fun t => t.co.wtq == [{ pa := 0x8000000010000, bytes := (bytesOf 0x1300 8).map some, dev := true }] && t.th.pc == 0x1004 && t.th.st == .waiting && (t.die 0).clock.target == 17),
    after (.stDevice .d 2 1 0) s (fun t => t.th.st == .trapped && t.th.kcause == 3),
    after (.deviceRegisterWrite 0x8000000010000 8 0x1300) s (fun t => (t.die 0).clock.target == 19),
    after (.stDevice .d 5 1 0) s (fun t => t.th.st == .trapped && t.th.kcause == 2),
    okAnd (s.devPart .store (s.th.ea 1 0 8) 8) (fun p => p.pa == 0x8000000010000),
    decide ((s.die 0).clock.next = none),
    refusedBy (.ldDevice .d 3 1 1) s (.unknownDevice 0x8000000010008)] = true := by decide +kernel


/-- A write from outside to an address that Table 14-1 gives to nothing faults (R270). -/
theorem test_no_such_address :
    (match exec (.deviceRegisterWrite 0x9000000000000 8 0) base with
      | .fault (.noSuchAddress p) => p == 0x9000000000000
      | _ => false) = true := by decide +kernel
/-! ## The vector unit (Tables 6-1 to 6-8; R49 to R53, R140 to R157) -/

/-- `v1`, `v2` and `v3` hold these lanes, and `m1` this mask. -/
def vecs (w : Nat) (a b d : List Nat) (m : LMask) : State :=
  base.modTh fun t => (((t.setV 1 (vec w a)).setV 2 (vec w b)).setV 3 (vec w d)).setM 1 m

/-- The form leaves these lanes in `v3` and these flags in `kstat`. -/
def lanes (i : Instr) (w : Nat) (a b d r : List Nat) (flags : Nat) : Bool :=
  after i (vecs w a b d 3) fun t => (List.range r.length).all (fun k => lane w (t.th.rv 3) k == r.getD k 0) &&
    t.th.kstat == BitVec.ofNat 64 (flags * 8) && wentOn t

/-- Two active lanes and one that keeps its value; 1.5 is 0x3FC00000, 2.25 is 0x40100000. -/
theorem test_vfp : holds [
    lanes (.vfpAdd .f32 1 3 1 2) 32 [0x3FC00000, 0x4B800000, 1] [0x40100000, 0x3F800000, 1] [7, 7, 7] [0x40700000, 0x4B800000, 7] 16,
    lanes (.vfpSub .f32 1 3 1 2) 32 [0x3FC00000, 0x3FC00000] [0x40100000, 0x3FC00000] [7, 7] [0xBF400000, 0] 0,
    lanes (.vfpMul .f32 1 3 1 2) 32 [0x3FC00000] [0x40100000] [] [0x40580000] 0,
    lanes (.vfpDiv .f32 1 3 1 2) 32 [0x3F800000, 0x3F800000] [0x40400000, 0] [] [0x3EAAAAAB, 0x7F800000] 18,
    lanes (.vfpSqrt .f32 1 3 1) 32 [0x40800000, 0x80000000] [] [] [0x40000000, 0x80000000] 0,
    lanes (.vfpFma .f32 1 3 1 2) 32 [0x3FC00000] [0x40100000] [0x3F800000] [0x408C0000] 0,
    lanes (.vfpFms .f32 1 3 1 2) 32 [0x3FC00000] [0x40100000] [0x3F800000] [0x40180000] 0,
    lanes (.vfpFnma .f32 1 3 1 2) 32 [0x3FC00000] [0x40100000] [0x3F800000] [0xC0180000] 0,
    lanes (.vfpMin .f32 1 3 1 2) 32 [0x80000000, 1] [0, 0x7F800001] [] [0x80000000, 0x7FC00001] 1,
    lanes (.vfpMax .f32 1 3 1 2) 32 [0x80000000] [0] [] [0] 0,
    lanes (.vfpAbs .f32 1 3 1) 32 [0xFF800001] [] [] [0x7F800001] 0,
    lanes (.vfpNeg .f16 1 3 1) 16 [0x3C00] [] [] [0xBC00] 0,
    lanes (.vfpSgnj .bf16 1 3 1 2) 16 [0x3F80] [0x8000] [] [0xBF80] 0] = true := by decide +kernel

/-- With NX enabled the inexact sum traps FP_TRAP and writes nothing (R51). -/
theorem test_fp_trap : holds [
    after (.vfpAdd .f32 1 3 1 2) ((vecs 32 [0x4B800000] [0x3F800000] [7] 3).modTh fun t => { t with kstat := 0x2000 })
      (fun t => trapped 0x80 16 t && t.th.rv 3 == 7 && t.th.kstat == 0x2000)] = true := by decide +kernel

/-- The form leaves this mask in `m3`. -/
def masks (i : Instr) (a b : List Nat) (r : LMask) (flags : Nat) : Bool :=
  after i (vecs 32 a b [] 7) fun t => t.th.rm 3 == r && t.th.kstat == BitVec.ofNat 64 (flags * 8) && wentOn t

/-- -0 against +0, 1.0 against 2.0, and a quiet NaN (R146). -/
theorem test_vfp_compare : holds [
    masks (.vfpCeq 1 3 1 2) [0x80000000, 0x3F800000, 0x7FC00000] [0, 0x40000000, 0x7FC00000] 1 0,
    masks (.vfpClt 1 3 1 2) [0x80000000, 0x3F800000, 0x7FC00000] [0, 0x40000000, 0] 2 1,
    masks (.vfpCle 1 3 1 2) [0x80000000, 0x3F800000, 0] [0, 0x40000000, 0] 7 0,
    masks (.vfpCun 1 3 1 2) [0x80000000, 0x3F800000, 0x7FC00000] [0, 0x40000000, 0] 4 0,
    masks (.vintCeq 1 3 1 2) [5, 5, 0xFFFFFFFF] [5, 6, 0] 1 0, masks (.vintClt 1 3 1 2) [5, 5, 0xFFFFFFFF] [5, 6, 0] 6 0,
    masks (.vintCltu 1 3 1 2) [5, 5, 0xFFFFFFFF] [5, 6, 0] 2 0] = true := by decide +kernel

theorem test_vint : holds [
    lanes (.vintAdd .h 1 3 1 2) 16 [0xFFFF, 5, 1] [2, 6, 1] [7, 7, 7] [1, 11, 2] 0,
    lanes (.vintSub .w 1 3 1 2) 32 [1] [2] [] [0xFFFFFFFF] 0, lanes (.vintAdds .h 1 3 1 2) 16 [0x7FFF, 0x8000] [1, 0xFFFF] [] [0x7FFF, 0x8000] 0,
    lanes (.vintAddus .h 1 3 1 2) 16 [0xFFFF] [2] [] [0xFFFF] 0, lanes (.vintSubs .h 1 3 1 2) 16 [0x8000] [1] [] [0x8000] 0,
    lanes (.vintSubus .h 1 3 1 2) 16 [1, 3] [2, 2] [] [0, 1] 0, lanes (.vintMul .w 1 3 1 2) 32 [0xFFFFFFFF] [3] [] [0xFFFFFFFD] 0,
    lanes (.vintMulh .w 1 3 1 2) 32 [0x80000000] [2] [] [0xFFFFFFFF] 0, lanes (.vintAnd .w 1 3 1 2) 32 [0xF0] [0x3C] [] [0x30] 0,
    lanes (.vintOr .w 1 3 1 2) 32 [0xF0] [0x3C] [] [0xFC] 0, lanes (.vintXor .w 1 3 1 2) 32 [0xF0] [0x3C] [] [0xCC] 0,
    lanes (.vintAndn .w 1 3 1 2) 32 [0xF0] [0x3C] [] [0xC0] 0, lanes (.vintSll .h 1 3 1 2) 16 [1] [17] [] [2] 0,
    lanes (.vintSrl .h 1 3 1 2) 16 [0x8000] [15] [] [1] 0, lanes (.vintSra .h 1 3 1 2) 16 [0x8000] [15] [] [0xFFFF] 0,
    lanes (.vintMin .w 1 3 1 2) 32 [0xFFFFFFFF] [0] [] [0xFFFFFFFF] 0, lanes (.vintMax .w 1 3 1 2) 32 [0xFFFFFFFF] [0] [] [0] 0,
    lanes (.vintMinu .w 1 3 1 2) 32 [0xFFFFFFFF] [0] [] [0] 0,
    lanes (.vintMaxu .w 1 3 1 2) 32 [0xFFFFFFFF] [0] [] [0xFFFFFFFF] 0] = true := by decide +kernel

/-- 70,000 overflows FP16 and not BF16 (Table 3-3); conversions of 2.5 under the three roundings. -/
theorem test_vcvt : holds [
    lanes (.vcvtNf16l .rne 1 3 1) 16 [0xB800, 0x4788] [] [] [0x7C00] 20,
    lanes (.vcvtNbf16l .rne 1 3 1) 16 [0xB800, 0x4788] [] [] [0x4789] 16,
    after (.vcvtNf16h .rne 1 3 1) (vecs 32 [0x3FC00000] [] [7] 3) (fun t => lane 16 (t.th.rv 3) 16 == 0x3E00 && lane 16 (t.th.rv 3) 0 == 7),
    after (.vcvtNbf16h .rne 1 3 1) (vecs 32 [0x3FC00000] [] [7] 3) (fun t => lane 16 (t.th.rv 3) 16 == 0x3FC0 && lane 16 (t.th.rv 3) 0 == 7),
    after (.vcvtWf16l 1 3 1) (vecs 16 [0x3E00] [] [] 3) (fun t => lane 32 (t.th.rv 3) 0 == 0x3FC00000),
    after (.vcvtWf16h 1 3 1) (vecs 16 (List.replicate 16 0 ++ [0x3E00]) [] [] 3) (fun t => lane 32 (t.th.rv 3) 0 == 0x3FC00000),
    after (.vcvtWbf16l 1 3 1) (vecs 16 [0x3FC0] [] [] 3) (fun t => lane 32 (t.th.rv 3) 0 == 0x3FC00000),
    after (.vcvtWbf16h 1 3 1) (vecs 16 (List.replicate 16 0 ++ [0x3FC0]) [] [] 3) (fun t => lane 32 (t.th.rv 3) 0 == 0x3FC00000),
    lanes (.vcvtFtoi .rne 1 3 1) 32 [0x40200000, 0xC0200000] [] [] [2, 0xFFFFFFFE] 16,
    lanes (.vcvtFtoi .rdn 1 3 1) 32 [0x40200000, 0xC0200000] [] [] [2, 0xFFFFFFFD] 16,
    lanes (.vcvtFtou .rtz 1 3 1) 32 [0x40200000, 0xBF800000] [] [] [2, 0] 17,
    lanes (.vcvtItof .rne 1 3 1) 32 [0xFFFFFFFF] [] [] [0xBF800000] 0, lanes (.vcvtUtof .rne 1 3 1) 32 [0xFFFFFFFF] [] [] [0x4F800000] 16,
    lanes (.vcvtRint .rne 1 3 1) 32 [0x40200000] [] [] [0x40000000] 16] = true := by decide +kernel

/-- Reductions over two active lanes; -1, 2 and the tree's first node. -/
theorem test_reductions : holds [
    lanes (.vpermFsum .f32 1 3 1) 32 [0x3FC00000, 0x40100000, 9] [] [7, 7] [0x40700000, 0] 0,
    lanes (.vpermFmax .f32 1 3 1) 32 [0x3FC00000, 0x40100000] [] [7, 7] [0x40100000, 0] 0,
    lanes (.vpermFmin .f32 1 3 1) 32 [0x3FC00000, 0x40100000] [] [7, 7] [0x3FC00000, 0] 0,
    lanes (.vpermIsum .w 1 3 1) 32 [0xFFFFFFFF, 2, 5] [] [7, 7] [1, 0] 0, lanes (.vpermImax .w 1 3 1) 32 [0xFFFFFFFF, 2] [] [7, 7] [2, 0] 0,
    lanes (.vpermImin .w 1 3 1) 32 [0xFFFFFFFF, 2] [] [7, 7] [0xFFFFFFFF, 0] 0,
    lanes (.vpermImaxu .h 1 3 1) 16 [0xFFFF, 2] [] [7, 7] [0xFFFF, 0] 0,
    lanes (.vpermIminu .w 1 3 1) 32 [0xFFFFFFFF, 2] [] [7, 7] [2, 0] 0] = true := by decide +kernel

theorem test_moves : holds [
    lanes (.vpermPerm .w 1 3 1 2) 32 [10, 11, 12] [2, 17, 0] [7, 7, 7] [12, 11, 7] 0,
    lanes (.vpermBcl .w 1 3 1 2) 32 [10, 11, 12] [] [7, 7, 7] [12, 12, 7] 0,
    lanes (.vpermRot .w 1 3 1 15) 32 [10, 11] [] [7, 7, 7] [0, 10, 7] 0,
    after (.vpermCmpr 1 3 1 2) (vecs 32 [10, 11, 12] [20, 21] [] 5) (fun t => (List.range 4).map (lane 32 (t.th.rv 3)) == [10, 12, 20, 21]),
    after (.vpermExpd 1 3 1 2) (vecs 32 [10, 11] [20, 21, 22, 23] [] 5) (fun t => (List.range 4).map (lane 32 (t.th.rv 3)) == [10, 21, 11, 23]),
    lanes (.vmovMov .w 1 3 1) 32 [10, 11, 12] [] [7, 7, 7] [10, 11, 7] 0,
    lanes (.vmovSel .w 1 3 1 2) 32 [10, 11, 12] [20, 21, 22] [] [10, 11, 22] 0,
    lanes (.vmovIota .w 1 3) 32 [] [] [7, 7, 7] [0, 1, 7] 0,
    after (.vmovBcg .h 0 3 1) (regs [(1, 0x12345)]) (fun t => lane 16 (t.th.rv 3) 31 == 0x2345),
    after (.vmovIns .w 3 1 2) (regs [(1, 9), (2, 17)]) (fun t => lane 32 (t.th.rv 3) 1 == 9 && lane 32 (t.th.rv 3) 0 == 0),
    after (.vmovExt .w 4 1 2) ((vecs 32 [10, 11] [] [] 0).modTh fun t => t.setG 2 17) (fun t => t.th.rg 4 == 11)] = true := by decide +kernel

theorem test_masks : holds [
    after (.vmskAnd 3 1 0) (vecs 32 [] [] [] 0xF0) (fun t => t.th.rm 3 == 0xF0), after (.vmskOr 3 1 0) (vecs 32 [] [] [] 0xF0) (fun t => t.th.rm 3 == 0xFFFF),
    after (.vmskXor 3 1 0) (vecs 32 [] [] [] 0xF0) (fun t => t.th.rm 3 == 0xFF0F), after (.vmskAndn 3 0 1) (vecs 32 [] [] [] 0xF0) (fun t => t.th.rm 3 == 0xFF0F),
    after (.vmskNot 3 1) (vecs 32 [] [] [] 0xF0) (fun t => t.th.rm 3 == 0xFF0F), after (.vmskNot 0 1) (vecs 32 [] [] [] 0xF0) (fun t => t.th.rm 0 == 0xFFFF),
    after (.vmskFromg 3 1) (regs [(1, 0x12345)]) (fun t => t.th.rm 3 == 0x2345), after (.vmskTog 4 1) (vecs 32 [] [] [] 0xF0) (fun t => t.th.rg 4 == 0xF0),
    after (.vmskPopc 4 1) (vecs 32 [] [] [] 0xF0) (fun t => t.th.rg 4 == 4), after (.vmskFirst 4 1) (vecs 32 [] [] [] 0xF0) (fun t => t.th.rg 4 == 4),
    after (.vmskFirst 4 1) (vecs 32 [] [] [] 0) (fun t => t.th.rg 4 == 16), after (.vmskPre 3 1) (regs [(1, 5)]) (fun t => t.th.rm 3 == 0x1F),
    after (.vmskPre 3 1) (regs [(1, 16)]) (fun t => t.th.rm 3 == 0xFFFF),
    after (.vmskGlen .gr4 3 1) (regs [(1, 0x42)]) (fun t => t.th.rm 3 == 0x33)] = true := by decide +kernel

/-- Table 6-7. -/
def table67 : State := base.modTh fun t =>
  ((((t.setV 20 (vec 32 [0x3F800000])).setV 2 (vec 32 [0x4B800000, 0x4B800000])).setV 8 (vec 32 [0x3F800000, 0x3F000000])).setV 9
    (vec 32 [0xBF800000, 0x3E800000])).setM 1 3

theorem test_vbmm : holds [
    after (.vbmmMma .gr4 1 20 2 8) table67 (fun t => (List.range 3).map (lane 32 (t.th.rv 20)) == [0, 0x4B400000, 0] && t.th.kstat == 0x80),
    after (.vbmmMm .gr4 1 20 2 8) table67 (fun t => lane 32 (t.th.rv 20) 0 == 0)] = true := by decide +kernel

/-- NaNs, infinities and zeros (R50, R52, R53, R145, R150, Table 3-3); hypotheses of VectorFloatResult, VectorConversionAndReduction
and RoundingIsNearestEven: NaNs of both kinds, numbers, an infinity, and a number that rounds. -/
theorem test_special_values : holds [
    (unpack fmt32 0x7FA00000).isNan, isSignalling fmt32 0x7FA00000, (unpack fmt16 0x7E01).isNan, isSignalling fmt16 0x7E01 == false,
    decide (unpack fmt16 0x3E00 = .fin false 1536 (-10)), decide (unpack fmtB16 0xC000 = .fin true 128 (-6)), decide (unpack fmt32 0xFF800000 = .inf true),
    fpConvert fmt32 fmt16 0 0x7FA00000 == (0x7F00, 1), fpConvert fmt32 fmtB16 0 0x7FA00000 == (0x7FE0, 1), fpConvert fmt16 fmt32 0 0x7E01 == (0x7FC02000, 0),
    fpConvert fmt32 fmt16 0 0x3DCCCCCD == (0x2E66, 16), fpConvert fmt32 fmt16 0 0xFF800000 == (0xFC00, 0), fpConvert fmtB16 fmt32 0 0xC000 == (0xC0000000, 0),
    fpToInt 0 (-(2 ^ 31)) (2 ^ 31 - 1) 0x7FC00000 == (0, 1), fpToInt 0 0 (2 ^ 32 - 1) 0xFF800000 == (0, 1), fpToInt 0 (-(2 ^ 31)) (2 ^ 31 - 1) 0x4F000000 == (2 ^ 31 - 1, 1),
    fpToInt 0 (-(2 ^ 31)) (2 ^ 31 - 1) 0x40200000 == (2, 16), fpRint 0 0xBE99999A == (0x80000000, 16), fpRint 1 0x40000000 == (0x40000000, 0), fpRint 0 0x7F800000 == (0x7F800000, 0),
    fpAdd fmt32 0 true 0x7F800000 0x7F800000 == (0x7FC00000, 1), fpMul fmt16 0 0x7C00 0 == (0x7E00, 1), fpDiv fmtB16 0 0 0 == (0x7FC0, 1), fpDiv fmt32 0 0x3F800000 0xFF800000 == (0x80000000, 0),
    fpSqrt fmt32 0 0xBF800000 == (0x7FC00000, 1), fpFma fmt32 0 false false 0x7F800000 0 0x7FC00001 == (0x7FC00001, 1), fpFma fmt32 0 false false 0x7F800000 0x3F800000 0xFF800000 == (0x7FC00000, 1),
    fpAdd fmt32 3 false 0x3F800000 0xBF800000 == (0x80000000, 0), fpMin fmt32 0x80000000 0 == (0x80000000, 0), fpMax fmt32 0xFF800000 0x3F800000 == (0x3F800000, 0),
    intToFp 0 (-1) == (0xBF800000, 0)] = true := by decide +kernel

/-! ## Blocks, bit streams and messages (Tables 3-8, 7-7, 7-13) -/

/-- The block of Table 3-8 in `v5`, with `g8` and `g9` as chapter 7 has them. -/
def table38 : State :=
  (regs [(8, 0x1000), (9, 0x800)]).modTh fun t =>
    t.setV 5 (vec 32 [0x40C00000, 0xC0400000, 0x3FC00000, 0x3F000000, 0xBF800000, 0x3EE00000])

/-- The block as `qs4s v5, g8, 3` stores it. -/
def stored38 (hdr : Nat) : State :=
  coreOn table38 fun c => (c.scrWrite 0x1018 [0xD7, 0x13, 0x1A, 0, 0, 0, 0, 0]).scrWrite 0x806 (bytesOf hdr 2)

/-- Hypotheses and results of QuantisingForms: the block stored, read back, refused, and a mask with no candidate. -/
theorem test_qst : holds [
    after (.qstQ .blk4 false true 5 8 3) table38 (fun t => t.co.scrRead 0x1018 8 == 0x1A13D7 && t.co.scrRead 0x806 2 == 0xE3E1 && wentOn t),
    after (.qstBl .blk4 true 6 8 3) (stored38 0xE3E1)
      (fun t => (List.range 7).map (lane 32 (t.th.rv 6)) == [0x40C00000, 0xC0400000, 0x3FC00000, 0x3F000000, 0xBF800000, 0x3F000000, 0] && wentOn t),
    after (.qstBl .blk4 true 6 8 3) (stored38 0xE3E9) (fun t => trapped 0x20 0x806 t && t.th.rv 6 == 0),
    after (.qstQ .blk4 true true 5 8 0x310) table38 (trapped 0x21 0),
    after (.qstQ .blk4 true true 5 8 0x303) table38 (fun t => t.co.scrRead 0x1018 8 == 0x1A13D7 && wentOn t)] = true := by decide +kernel

/-- Levels and the selection (R54, R61 to R69, Table 3-8): hypotheses of QuantisingForms: inputs with a candidate, a mask that
leaves none, a table that is one, a table that holds an infinity, and headers that decode. -/
theorem test_selection :
    let c := base.cor 0
    let xs := [0x40C00000, 0xC0400000, 0x3FC00000, 0x3F000000, 0xBF800000, 0x3EE00000] ++ List.replicate 10 0
    let table := fun (x : BitVec 19) => { c with tabs := (List.range 16).map fun i => (i, if i = 8 then 0x1FC00 else if i = 15 then x else 0) }
    holds [
    c.quantise .blk4 3 xs == (0xE3E1, 0x1A13D7, false), c.quantise .blk4 1 xs == (header 0 0x7B, payloadOf .blk4 [7, 13, 2, 1, 15, 0, 0, 0, 0, 0, 0, 0, 0, 0, 0, 0], false),
    c.quantise .blk4 0 xs == c.quantise .blk4 1 xs, c.quantise .blk8 3 (List.replicate 16 0x7F800000) == (0xD807, 0, true), c.quantise .blk8 3 (List.replicate 16 0x80000000) == (0, 0, false),
    (table 0x1FC00).largest .blk4 2 == 2 ^ 136, (table 0x3FC00).largest .blk4 2 == 0, c.largest .blk4 3 == 0,
    headerBad 0xE3E1 == none, headerBad 0xE3F1 == some 0x20, scaleUnits 0x7B == 7 * 2 ^ 29, scaleUnits 1 == 1, leastScale (6 * 2 ^ 168) (7 * 2 ^ 136) == 0x7B,
    decide (c.level .blk8 1 0x7E = .fin false 14 5), decide (c.level .blk8 2 0x7C = .inf false), decide (c.level .blk8 1 0xFF = .nan true 0x200), decide (c.level .blk8 0 128 = .fin true 127 0)] = true := by decide +kernel

/-- An infinite input raises QNAN (R70), or traps where that is enabled. -/
theorem test_qst_nan : holds [
    after (.qstQ .blk8 false true 1 8 0) ((regs [(8, 0x1000), (9, 0x800)]).modTh fun t => t.setV 1 0x7F800000) (fun t => t.th.kstat == 0x100 && wentOn t),
    after (.qstQ .blk8 false true 1 8 0) ((regs [(8, 0x1000), (9, 0x800)]).modTh fun t => { t.setV 1 0x7F800000 with kstat := 0x4000 })
      (trapped 0x80 0x20)] = true := by decide +kernel

/-- A block in virtual memory: stored through the L1 and the queue, and loaded. -/
theorem test_qst_virtual :
    let s := (pagedRegs [(8, 0x10000), (9, 0x10800)]).modTh fun t => t.setV 5 (table38.th.rv 5)
    holds [
    after (.qstQ .blk4 false false 5 8 3) s (fun t => t.seenByte 0 0x5806 == 0xE1 && (t.co.l1.find 0xA0).isSome && wentOn t),
    after (.qstBl .blk4 false 6 8 0) s (fun t => t.th.rv 6 == 0 && wentOn t),
    after (.qstBl .blk4 false 6 8 0) (coreOn (s.modTh fun t => t.setG 8 0x20000) fun c => { c with tabs := [(3, 1)] }) (fun t => t.th.st == .waiting && t.walks == [0] && t.th.tabsAt == some [(3, 1)]),
    after (.qstQ .blk4 false false 5 8 3) ((s.modTh fun t => t.setG 8 0x11000)) (trapped 0x11 0x11018)] = true := by decide +kernel

/-- The checks of a block's two accesses (R121, R122, R165, R166, R179): hypotheses of PlaneChecks. -/
theorem test_qst_checks :
    let at_ := fun (pay hdr : Word) (sp : Bool) (p : State → Bool) => after (.qstQ .blk4 false sp 5 8 0) ((denied [(8, pay), (9, hdr)]).modTh fun t => t.setV 5 (table38.th.rv 5)) p
    holds [at_ 0x1004 0x800 true (trapped 0x13 0x1004), at_ 0x1000 0x801 true (trapped 0x13 0x801), at_ 0x1004 0x801 true (trapped 0x13 0x801), at_ 0x40000 0x801 true (trapped 0x14 0x40000),
    after (.qstQ .blk4 false true 5 8 0) (coreOn (table38.modTh fun t => t.setG 8 0x7F8) fun c => { c with scr := 0x7F8 }) (trapped 0x14 0x7F8), after (.qstBl .blk8 true 5 8 0) (table38.modTh fun t => t.setG 8 0x1008) (trapped 0x13 0x1008),
    at_ 0x10000 0x18000 false (trapped 0x12 0x18000), at_ 0x10004 0x10801 false (trapped 0x13 0x10004), at_ 0x11000 0x18000 false (trapped 0x11 0x11000), at_ 0x200000000000000 0x11000 false (trapped 0x10 0x200000000000000)] = true := by decide +kernel

/-- The stream of Table 7-7, with the buffer it has after a step. -/
def stream (bits fill : Nat) : State :=
  (coreOn (regs [(2, 0x100), (3, 0x102), (1, 8)]) fun c => c.scrWrite 0x100 [0xB5, 0x3C]).modTh fun t =>
    t.setBitBuf { bits := bits, fill := fill, src := 0x102, fin := 0x102 }

theorem test_bits : holds [
    after (.bitInit 3 2 3) (stream 0 0) (fun t => t.th.bitBuf == { bits := 0x796, fill := 13, src := 0x102, fin := 0x102 } && wentOn t),
    after (.bitTell 4) (stream 0x796 13) (fun t => t.th.rg 4 == 0x803 && wentOn t),
    after (.bitPeek 5 5) (stream 0x796 13) (fun t => t.th.rg 5 == 0x16 && t.th.bitBuf.fill == 13),
    after (.bitGet 5 5) (stream 0x796 13) (fun t => t.th.rg 5 == 0x16 && t.th.bitBuf.bits == 0x3C && t.th.bitBuf.fill == 8),
    after (.bitUnar 6) (stream 0x3C 8) (fun t => t.th.rg 6 == 2 && t.th.bitBuf.bits == 7 && t.th.bitBuf.fill == 5),
    after (.bitAvail 7) (stream 7 5) (fun t => t.th.rg 7 == 5), after (.bitGet 8 8) (stream 7 5) (fun t => t.th.rg 8 == 7 && t.th.bitBuf.fill == 0),
    after (.bitSkip 5) (stream 0x796 13) (fun t => t.th.bitBuf.bits == 0x3C && t.th.bitBuf.fill == 8),
    after (.bitGetv 5 1) (stream 0x796 13) (fun t => t.th.rg 5 == 0x96 && t.th.bitBuf.fill == 5),
    after (.bitInit 3 1 0) ((stream 0 0).modTh fun t => t.setG 1 0x104) (trapped 0x13 0x104)] = true := by decide +kernel

/-- `bit.init` with bad addresses (R121, R122, R185). -/
theorem test_bit_checks :
    let at_ := fun (st e : Word) (p : State → Bool) => after (.bitInit 3 1 0) (coreOn (regs [(1, st), (3, e)]) fun c => { c with scr := 0x200 }) p
    holds [at_ 0x40000 0x40008 (trapped 0x14 0x40000), at_ 0x104 0x40000 (trapped 0x14 0x40000), at_ 0x104 0x300 (trapped 0x13 0x104), at_ 0x100 0x201 (trapped 0x14 0x201)] = true := by decide +kernel

/-- Hypotheses of BitStreamForms at their bounds: 64 bits with none set, 64 and 128 bits buffered, a refill of 16 bytes. -/
theorem witness_bits : holds [
    after (.bitUnar 6) (stream 0 64) (fun t => t.th.rg 6 == 64 && t.th.bitBuf.fill == 0),
    after (.bitUnar 6) (stream (2 ^ 63) 128) (fun t => t.th.rg 6 == 63 && t.th.bitBuf.fill == 64),
    after (.bitGet 6 64) (stream (2 ^ 64 + 9) 128) (fun t => t.th.rg 6 == 9 && t.th.bitBuf.bits == 1 && t.th.bitBuf.fill == 64),
    after (.bitInit 3 1 63) (coreOn (regs [(1, 0x100), (3, 0x110)]) fun c => c.scrWrite 0x100 ((List.range 16).map fun i => BitVec.ofNat 8 i))
      (fun t => t.th.bitBuf == { bits := 0x0F0E0D0C0B0A09080706050403020100 / 2 ^ 63, fill := 65, src := 0x110, fin := 0x110 })] = true := by
  decide +kernel

/-- `base` in which context 0 owns class 2 and class 3 of core 0, with messages in the mailbox. -/
def mailed (ms : List Msg) (rs : List (Reg × Word)) : State :=
  coreOn (regs rs) fun c => { c with classes := [(2, { ctx := 0, entry := none }), (3, { ctx := 0, entry := none })], mailbox := ms, outstanding := 1 }

/-- The message of Table 7-13, sent by thread 0x10. -/
def msg79 : Msg := { cls := 2, sender := 0, words := [7, 9], tag := none, permitted := true }

/-- The form ends with a status in `g4`, nothing but that register changed of the thread. -/
def ends (i : Instr) (s : State) (x : Word) (p : State → Bool) : Bool :=
  after i s fun t => t.th.rg 4 == x && (List.finRange 32).all (fun r => r == 4 || t.th.rg r == s.th.rg r) && wentOn t &&
    t.th.kstat == s.th.kstat && t.mem == s.mem && p t

theorem test_msg : holds [
    after (.msgPut 1) (regs [(1, 7)]) (fun t => t.th.packet == [7] && wentOn t),
    after (.msgPut 1) (base.modTh fun t => { t with packet := List.replicate 8 0 }) (trapped 0x60 1),
    after .msgDrop (base.modTh fun t => { t with packet := [1] }) (fun t => t.th.packet == [] && wentOn t),
    ends (.msgRecv 15 4 1 2) (mailed [msg79] [(1, 2), (2, 0x200)]) 0x20
      (fun t => t.co.scratch.get 0 0x40 == 7 && t.co.scratch.get 0 0x41 == 9 && t.co.outstanding == 0 && t.co.mailbox == []),
    after (.msgWait 15 4 1) (mailed [] [(1, 2)]) (waits .parked (.message 4)), ends (.msgWait 0 4 1) (mailed [] [(1, 2)]) 1 (fun _ => true),
    ends (.msgWait 15 4 1) (mailed [msg79] [(1, 2)]) 0x20 (fun _ => true),
    ends (.msgAlt 15 4 1) (mailed [{ msg79 with cls := 3 }, msg79] [(1, 12)]) 0x20 (fun t => t.co.mailbox.length == 2),
    after (.msgWait 15 4 1) (mailed [] [(1, 5)]) (fun t => t.th.st == .trapped && t.th.kcause == 0x11)] = true := by decide +kernel

/-- Thread 0 holds a permit for class 2 of core 1, or none; `g13` is the last word. -/
def sending (n : Nat) : State :=
  ((mailed [] [(12, 0x12), (13, 9)]).modCor 1 fun c => { c with launch := some 1, nctx := 16, classes := [(2, { ctx := 0, entry := none })] }).modTh
    fun t => { t with packet := [7], permits := if n = 0 then [] else [{ core := 1, cls := 2, count := n }] }

theorem test_msg_send : holds [
    ends (.msgSend 10 4 12 13) (sending 2) 0 (fun t => t.transit.map (fun p => (p.core, p.msg)) == [(some 1, msg79)] && (t.cor 1).mailbox == [] && t.th.packet == [] && permitCount t.th.permits 1 2 == 1),
    (match exec (.msgSend 10 4 12 13) (sending 2) with
      | .next t => after .messageArrival t (fun u => u.transit == [] && (u.cor 1).mailbox == [msg79])
      | _ => false),
    after (.msgSend 10 4 12 13) (sending 0) (fun t => waits .waiting .permit t && t.th.packet == [7]),
    ends (.msgSend 0 4 12 13) (sending 0) 6 (fun t => t.th.packet == [7]),
    ends (.msgGrant 4 1 2) (mailed [] [(1, 5), (2, 0x302)]) 0 (fun t => t.co.outstanding == 4 && permitCount (t.thr 5).permits 0 2 == 3)] = true := by
  decide +kernel

/-- The checks of the message forms (R187 to R190): hypotheses of MessageForms. -/
theorem test_msg_checks :
    let opened := (mailed [] [(1, 2)]).modTh fun t => { t with packet := [1] }
    holds [after (.msgRecv 15 4 1 2) opened (trapped 0x60 2), after (.msgWait 15 4 1) opened (trapped 0x60 2), after (.msgAlt 15 4 1) opened (trapped 0x60 2),
    after (.msgRecv 15 4 1 2) (mailed [] [(1, 5)]) (trapped 0x11 0x20), after (.msgWait 15 4 1) (mailed [] [(1, 5)]) (trapped 0x11 0x20), after (.msgAlt 15 4 1) (mailed [] [(1, 0x1C)]) (trapped 0x11 0x1C),
    after (.msgRecv 15 4 1 2) (mailed [] [(1, 2), (2, 0x204)]) (trapped 0x13 0x204), after (.msgRecv 15 4 1 2) (mailed [] [(1, 2), (2, 0x3FFC8)]) (trapped 0x14 0x3FFC8),
    after (.msgSend 10 4 12 13) ((sending 2).modTh fun t => t.setG 12 0x18022) (trapped 0x11 0x18022), after (.msgSend 10 4 12 13) ((sending 2).modTh fun t => t.setG 12 0x52) (trapped 0x11 0x52),
    after (.msgSend 10 4 12 13) ((sending 2).modTh fun t => { t with packet := List.replicate 8 0 }) (trapped 0x60 1),
    ends (.msgSend 10 4 12 13) ((sending 2).modDie 0 fun d => { d with online := false }) 3 (fun t => t.th.packet == [] && permitCount t.th.permits 1 2 == 2),
    after (.msgGrant 4 1 2) (mailed [] [(1, 5), (2, 0x305)]) (trapped 0x11 0x305), after (.msgGrant 4 1 2) (mailed [] [(1, 0x25), (2, 0x302)]) (trapped 0x11 0x25),
    ends (.msgGrant 4 1 2) ((mailed [] [(1, 5), (2, 0x302)]).modThr 5 fun t => { t with st := .ended }) 4 (fun _ => true), ends (.msgGrant 4 1 2) (mailed [] [(1, 5), (2, 2)]) 0 (fun t => t.co.outstanding == 1),
    ends (.msgGrant 4 1 2) (mailed [] [(1, 5), (2, 0x3002)]) 2 (fun t => t.co.outstanding == 1)] = true := by decide +kernel

/-! ## Keyed memory (Table 8-11) -/

/-- The region of Table 8-11 as region 2 of address space 1, at home on die 0. -/
def fx : Region := { op := .fxadd, vt := .fx128, fscale := 16, fclass := 0, homeLaunch := false, dies := [0], dmg := [], cap := 1 }

/-- A region of 32-bit maxima as region 3. -/
def imax : Region := { fx with op := .max, vt := .f16, fscale := 0 }

/-- `base` with both regions, their footings, and these entries in the battens of cores 0 and 1 and in the purlin. -/
def keyed (b0 b1 pur : AMap (BitVec 128)) (core : Nat) (l : List (Reg × Word)) : State :=
  let sp : Space :=
    { root := 0, regions := [(2, fx), (3, imax)], recs := [], sdata := [], digest := 0, sects := [], subs := [], foots := [(32, 0x200000), (48, 0x300000)], serial := 0 }
  let s := { base with spaces := [(1, sp)] }
  let s := s.modCor 0 fun c => { c with batten := b0 }
  let s := s.modCor 1 fun c => { c with launch := some 1, asid := 1, nctx := 16, scr := 0x40000, batten := b1 }
  let s := { (s.modThr 16 fun t => { t with st := .ready, pc := 0x1000 }) with cur := 16 * core }
  (s.modClu 0 fun k => { k with purlin := pur }).modTh fun t => l.foldl (fun t e => t.setG e.1 e.2) t

/-- The name of Table 8-11. -/
def n7 : Nat := 0x20000000000007

/-- A publication of core 0's batten that waits in thread 0, of an entry that the purlin has too. -/
def published (x : Scope) : State :=
  match exec (.keyPub x 15 4) (keyed [(n7, 6554)] [] [(n7, 13108)] 0 []) with
  | .next t => t
  | _ => base

theorem test_key_sum : holds [
    ends (.keyUpd .fx128 15 4 5 6) (keyed [] [] [] 0 [(5, 0x20000000000007), (6, 0x3DCCCCCD)]) 0 (fun t => (t.cor 0).batten.find n7 == some 6554),
    ends (.keyUpd .fx128 15 4 5 6) (keyed [] [(n7, 6554)] [] 1 [(5, 0x20000000000007), (6, 0x3DCCCCCD)]) 0 (fun t => (t.cor 1).batten.find n7 == some 13108),
    ends (.keyLd .fx128 4 5) (keyed [(n7, 6554)] [(n7, 13108)] [] 1 [(5, 0x20000000000007)]) 0x3E4CD000 (fun _ => true),
    ends (.keyPub .cluster 15 4) (keyed [] [] [(n7, 13108)] 0 []) 0 (fun _ => true), ends (.keyPub .die 15 4) (keyed [] [] [] 0 []) 0 (fun _ => true),
    after (.battenMergeStep 0) (published .cluster) (fun t => (t.cor 0).batten == [] && (t.clu 0).purlin.find n7 == some 19662 && (t.cor 0).pubs == [] && (t.thr 0).rg 4 == 0 && (t.thr 0).pc == 0x1004 && (t.thr 0).st == .ready),
    after (.battenMergeStep 0) (published .die) (fun t => (t.cor 0).batten == [] && (t.cor 0).pubs.map (·.purlin) == [[n7]] && (t.thr 0).st == .waiting && (t.thr 0).pc == 0x1000),
    ends (.keyLd .fx128 4 5) (keyed [] [] [(n7, 19662)] 1 [(5, 0x20000000000007)]) 0x3E999C00 (fun _ => true),
    after (.keyLdx 10 5) (keyed [] [] [(n7, 19662)] 1 [(5, 0x20000000000007)]) (fun t => t.th.rg 10 == 0x4CCE && t.th.rg 11 == 0),
    ends (.keyPub .core 15 4) (keyed [(n7, 6554)] [] [] 0 []) 0 (fun t => (t.cor 0).batten.find n7 == some 6554),
    after (.keyUpd .f16 15 4 5 6) (keyed [] [] [] 0 [(5, 0x20000000000007)]) (trapped 0x42 0x20000000000007),
    after (.keyUpd .f16 15 4 5 6) (keyed [] [] [] 0 [(5, 0x10000000000007)]) (trapped 0x41 0x10000000000007),
    after (.keyLd .f16 4 5) (keyed [] [] [] 0 [(5, 0x10000000000007)]) (trapped 0x41 0x10000000000007),
    ends (.keyInfo 4 5) (keyed [] [] [] 0 [(5, 0x10000000000007)]) 0 (fun _ => true),
    after (.keyInfo 4 5) (keyed [] [] [] 0 [(5, 0x20000000000007)]) (fun t => t.th.rg 4 == BitVec.ofNat 64 (descriptor fx) && t.th.rg 4 != 0)] = true := by
  decide +kernel

/-- A batten of core 0 that stalled on a signalling NaN while the purlin holds 0x4200 (R207). -/
def stalled : State :=
  (keyed [(0x30000000000001, 0x7D00)] [] [(0x30000000000001, 0x4200)] 0 [(5, 0x30000000000001), (6, 0x4400)]).modCor 0
    fun c => { c with stall := some { key := some 0x30000000000001, msg := [] }, merging := [0x30000000000001] }

/-- A stall, seen by a load, a second publication, and mended (R205, R207, R215); the operator fault of an insertion. -/
theorem test_key_stall : holds [
    okAnd (stalled.keyRun 0) (fun r => okAnd (stalled.ownStall r 0) (fun _ => true) && (stalled.runStall r).isSome),
    ends (.keyPub .cluster 15 4) stalled 2 (fun t => (t.cor 0).batten.find 0x30000000000001 == some 0x7D00),
    ends (.keyFixDrop 4 0 0) stalled 0 (fun t => (t.cor 0).batten == [] && (t.cor 0).stall == some { key := none, msg := [] }),
    ends (.keyFixSet 4 0 6) stalled 0 (fun t => (t.cor 0).batten.find 0x30000000000001 == some 0x4400),
    ends (.keyResume 4 0) (stalled.modCor 0 fun c => { c with batten := [(0x30000000000001, 0x4400)] }) 0
      (fun t => (t.cor 0).stall == none && (t.cor 0).merging == [0x30000000000001]),
    ends (.keyResume 4 0) (keyed [] [] [] 0 []) 4 (fun _ => true), ends (.keyFixSet 4 0 6) (keyed [] [] [] 0 []) 4 (fun _ => true),
    after (.keyUpd .f16 15 4 5 6) ((stalled.modCor 0 fun c => { c with stall := none, merging := [] }).modTh fun t => t.setG 6 0x4500)
      (fun t => trapped 0x40 0x30000000000001 t && (t.cor 0).batten.find 0x30000000000001 == some 0x7D00)] = true := by decide +kernel

/-- The wrong type, an update that does not convert, `max` and `min` of floats, and repairs after a drop (R56, R198, R199, R211,
R215); hypotheses of KeyedForms. -/
theorem test_key_values :
    let dropped := stalled.modCor 0 fun c => { c with batten := [], stall := some { key := none, msg := [] } }
    holds [
    after (.keyUpd .fx128 15 4 5 6) (keyed [(n7, 5)] [] [] 0 [(5, 0x20000000000007), (6, 0x7FC00000)]) (fun t => trapped 0x40 0x20000000000007 t && t.co.batten == [(n7, 5)]),
    after (.keyLd .i32 4 5) (keyed [] [] [] 0 [(5, 0x20000000000007)]) (trapped 0x42 0x20000000000007),
    after (.keyLdx 10 5) (keyed [] [] [] 0 [(5, 0x30000000000007)]) (trapped 0x42 0x30000000000007),
    updateValue fx 0x3DCCCCCD == some 6554, updateValue fx 0xBF800000 == some (2 ^ 128 - 65536), updateValue fx 0x7F7FFFFF == none,
    okAnd (combine .max .f16 0x4200 0x3E00) (· == 0x4200), okAnd (combine .min .f16 0x4200 0x3E00) (· == 0x3E00), okAnd (combine .max .f16 0x4200 0x7E01) (· == 0x7E01),
    okAnd (combine .min .f32 0x7FC00001 0x7FC00002) (· == 0x7FC00002), okAnd (combine .max .f16 0x8000 0) (· == 0), okAnd (combine .min .f16 0 0x8000) (· == 0x8000),
    errAnd (combine .max .f16 0x7D00 0) (· == 1), okAnd (combine .max .f16 0xFC00 0xC200) (· == 0xC200),
    okAnd (dropped.keyRun 0) (fun r => okAnd (dropped.ownStall r 0) (fun _ => true) && (dropped.runStall r).map (·.key) == some none),
    ends (.keyFixDrop 4 0 0) dropped 4 (fun _ => true), ends (.keyFixSet 4 0 6) dropped 4 (fun _ => true),
    ends (.keyPub .cluster 15 4) dropped 2 (fun _ => true),
    ends (.keyResume 4 0) dropped 0 (fun t => (t.cor 0).stall == none && (t.cor 0).batten == [])] = true := by decide +kernel

/-- A publication that waits, ends at once at its limit, or is met by a stall, in the batten or the purlin (R205, R214);
releases that have something to publish; hypotheses of KeyedForms, OrderingForms and OrderedLoadStore. -/
theorem witness_publications :
    let s := keyed [(n7, 6554)] [] [] 0 []
    let far := (keyed [] [] [(n7, 1)] 0 []).modClu 0 fun k => { k with pstall := some { key := some n7, msg := [] } }
    let cont := ((published .die).modCor 0 fun c => { c with pubs := [] }).modThr 0 fun t => { t with st := .ready, wait := none, released := true }
    holds [
    after (.keyPub .package 15 4) s (fun t => waits .waiting .publish t && t.co.pubs.map (fun p => (p.wide, p.batten)) == [(true, [n7])] && t.co.batten == s.co.batten),
    ends (.keyPub .cluster 0 4) s 1 (fun t => t.co.pubs == []), ends (.keyPub .die 15 4) far 2 (fun _ => true), ends (.keyPub .cluster 15 4) far 0 (fun _ => true),
    after (.ordRel .cluster) s (fun t => waits .waiting .publish t && t.co.pubs.map (·.release) == [true]), after (.ordFence .die) s (waits .waiting .publish),
    after (.ordRel .die) far wentOn, after (.ordRel .die) cont (fun t => wentOn t && !t.th.released), after (.ordFence .die) cont wentOn,
    after (.battenMergeStep 0) ((stalled.modCor 0 fun c => { c with stall := none }).modCor 0 fun c => { c with pubs := [{ owner := some 0, release := false, wide := false, batten := [0x30000000000001], purlin := [], met := false }] })
      (fun t => (t.cor 0).stall.map (·.key) == some (some 0x30000000000001) && (t.cor 0).pubs == [])] = true := by decide +kernel

/-! ## Copies and pins (R282 to R286) -/

/-- A pointer entry and its table, of which one entry is written (Table 14-2). -/
def tableEntry (m : List Host.Cell) (table idx : Nat) (e : Nat) : List Host.Cell := memWrite m (table + 8 * idx) (bytesOf e 8)

/-- `pagedRegs` with page tables of address space 1 from physical 0x100000 on: 0x10000 PLAIN, 0x11000 PLAIN and
read-only, 0x12000 TILED. -/
def tabled (l : List (Reg × Word)) : State :=
  let s := pagedRegs l
  let m := tableEntry (tableEntry (tableEntry (tableEntry s.mem 0x100000 0 0x101001) 0x101000 0 0x102001) 0x102000 0 0x103001) 0x103000 0 0x104001
  let m := tableEntry (tableEntry (tableEntry m 0x104000 16 0x5027) 0x104000 17 0x6023) 0x104000 18 0x400000000007027
  { s with mem := m,
           spaces := [(1, { root := 0x100000, regions := [], recs := [], sdata := [], digest := 0, sects := [], subs := [], foots := [], serial := 0 })] }

/-- `tabled` with landing slot 0 granted to context 0: 64 bytes at 0x400. -/
def slotted (st : SlotState) (l : List (Reg × Word)) : State :=
  coreOn (tabled l) fun c => { c with slots := [(0, { base := 0x400, len := 64, ctx := 0, cls := 2, st := st, running := 0 })] }

/-- `slotted` with copies in the unit of core 0. -/
def copying (n : Nat) (l : List (Reg × Word)) : State :=
  let c : Copy := { isIn := true, thread := 1, slot := 1, va := 0, len := 8, cls := 0, scr := 0, pieces := [], written := 0 }
  (slotted .granted l).modDie 0 fun d => { d with copies := [(0, List.replicate n c)] }

theorem test_cpy : holds [
    ends (.cpySlot 4 1 2) (slotted .granted [(1, 0x4000000800), (2, 3)]) 0x100
      (fun t => t.co.slot 1 == { base := 0x800, len := 64, ctx := 0, cls := 3, st := .granted, running := 0 } && (t.co.slot 0).st == .granted),
    ends (.cpyFree 4 0) (slotted .done []) 0 (fun t => (t.co.slot 0).st == .free), ends (.cpyFree 4 0) (slotted .filling []) 2 (fun _ => true),
    ends (.cpyIn 10 4 1 2) (copying 0 [(1, 0x10000), (2, 0x4000000000)]) 0
      (fun t => ((t.die 0).copyQ 0).map (fun c => (c.isIn, c.va, c.len, c.scr)) == [(true, 0x10000, 64, 0x400)] && (t.co.slot 0).st == .filling),
    after (.cpyIn 10 4 1 2) (copying 16 [(1, 0x10000), (2, 0x4000000000)]) (waits .waiting .copyQueue),
    ends (.cpyIn 0 4 1 2) (copying 16 [(1, 0x10000), (2, 0x4000000000)]) 2 (fun _ => true),
    ends (.cpyOut 10 4 1 2) (copying 0 [(1, 0x10000), (2, 0x300004000000800)]) 0
      (fun t => ((t.die 0).copyQ 0).map (fun c => (c.isIn, c.len, c.scr, c.cls)) == [(false, 64, 0x800, 3)]),
    after (.cpyOut 10 4 1 2) (copying 0 [(1, 0x11000), (2, 0x4000000800)]) (trapped 0x11 0x11000)] = true := by decide +kernel

/-- The checks of the copy forms (R282 to R285), on two pages of a range; hypotheses of RangeChecks. -/
theorem test_cpy_checks :
    let at_ := fun (i : Instr) (x y : Word) (p : State → Bool) => after i (coreOn (slotted .granted [(1, x), (2, y)]) fun c => { c with tlb := (denied []).co.tlb }) p
    holds [at_ (.cpySlot 4 1 2) 0x4000000804 0 (trapped 0x13 0x4000000804), at_ (.cpySlot 4 1 2) 0x400003FFE8 0 (trapped 0x14 0x400003FFE8),
    ends (.cpySlot 4 1 2) (coreOn (slotted .granted [(1, 0x4000000800)]) fun c => { c with slots := (List.range 32).map fun i => (i, { base := 0, len := 8, ctx := 0, cls := 0, st := .granted, running := 0 }) }) 2 (fun _ => true),
    ends (.cpyFree 4 1) (slotted .granted [(1, 3)]) 4 (fun _ => true), after (.cpyFree 4 0) ((slotted .granted []).modCo fun c => { c with slots := c.slots.map fun e => (e.1, { e.2 with ctx := 1 }) }) (trapped 0x11 0),
    at_ (.cpyIn 10 4 1 2) 0x10004 0x4000000000 (trapped 0x13 0x10004), at_ (.cpyIn 10 4 1 2) 0x10000 0x4000000001 (trapped 0x11 0x4000000001), at_ (.cpyIn 10 4 1 2) 0x10000 0x4000000800 (trapped 0x14 0x4000000800),
    at_ (.cpyIn 10 4 1 2) 0x17FE0 0x4000000000 (trapped 0x12 0x18000), at_ (.cpyIn 10 4 1 2) 0x14FE0 0x4000000000 (trapped 0x12 0x14FE0), at_ (.cpyIn 10 4 1 2) 0x20000 0x4000000000 (waits .waiting (.pageWalk 0x20000)),
    at_ (.cpyOut 10 4 1 2) 0x10FE0 0x4000000800 (trapped 0x11 0x11000), at_ (.cpyOut 10 4 1 2) 0x10000 0x400003FFE8 (trapped 0x14 0x400003FFE8),
    at_ (.cpyPin 4 1 2) 0x13000 0x100 (trapped 0x12 0x13000), at_ (.cpyPin 4 1 2) 0x10000 0x40 (trapped 0x13 0x10000)] = true := by decide +kernel

theorem test_unpin : holds [
    ends (.cpyUnpin 4 0) (coreOn base fun c => { c with pins := [{ id := 0, va := 0, len := 128, cls := 0, lines := [] }] }) 0 (fun t => t.co.pins == []),
    ends (.cpyUnpin 4 0) base 4 (fun _ => true), after (.cpyPin 4 1 2) (tabled [(1, 0x10040), (2, 0x100)]) (trapped 0x13 0x10040)] = true := by
  decide +kernel

/-- Few lines pass the pinned ways of no set, whatever the sets of the lines are. -/
theorem wouldPass_few (p new : List (Nat × Nat)) (h : new.length + p.length ≤ 12) : wouldPass p new = false := by
  simp only [wouldPass, List.any_eq_false, decide_eq_true_eq, not_lt]
  intro x _
  refine le_trans List.countP_le_length ?_
  have := List.length_filter_le (fun l => !new.contains l) p
  simp only [List.length_append]
  omega

/-- Hypotheses of the clause on `cpy.pin`: a checked range of two lines, no pin yet, and no set passed. -/
theorem witness_pin :
    (tabled []).rangeParts .load (fun p => (pteKind p == kPlain || pteKind p == kTiled) && !pteBd p) (rangePieces 1025 0x10000 0x100) =
      .ok [{ va := 0x10000, pa := 0x5000, n := 0x100, pte := 0x5027 }] ∧
    wouldPass (tabled []).pinnedLines ([{ va := 0x10000, pa := 0x5000, n := 0x100, pte := 0x5027 }].flatMap Part.pinLines) = false :=
  ⟨of_decide_eq_true (by decide +kernel), wouldPass_few _ _ (by decide +kernel)⟩
/-! ## Tiles (Tables 13-2, 13-7) -/

/-- Record BA, rows 0 to 3 of an 8 x 8 FP32 grid, and HB, its row 3. -/
def recBA : TileRec := { asid := 1, fmt := 4, rank := 2, base := 0x10000000000, hbase := 0, ext := [8, 4, 0, 0], str := [4, 32, 0, 0] }
def recHB : TileRec := { recBA with base := 0x10000000060, ext := [8, 1, 0, 0] }

/-- The state of Table 13-7 at a tick, before B's acquire: A is context 0 of core 10 of die 3, B of core 20; `cur` issues. -/
def split (tick cur : Nat) (ents : List Tenure) (queue : List TenReq) (l : List (Reg × Word)) : State :=
  let s := { State.reset with started := true, tick := tick, cur := cur }
  let s := s.modCor 1546 fun c => { c with launch := some 1, asid := 1, nctx := 16, scr := 0x40000, classes := [(3, { ctx := 0, entry := none })] }
  let s := s.modCor 1556 fun c => { c with launch := some 1, asid := 1, nctx := 16, scr := 0x40000 }
  let s := s.modThr 24736 fun t => { t with st := .ready, pc := 0x1000 }
  let s := s.modThr 24896 fun t => { t with st := .ready, pc := 0x1000 }
  (s.modSli 192 fun x => { x with recs := [(5, recBA), (6, recHB)], ents := ents, queue := queue }).modTh
    fun t => l.foldl (fun t e => t.setG e.1 e.2) t

/-- A's entry over rows of BA. -/
def entA (lo hi : Nat) (st : TenSt) : Tenure := { idx := 5, thread := 24736, lo := lo, hi := hi, write := true, r := 4, cls := 3, st := st }

/-- B's request for HB. -/
def reqB : TenReq := { thread := 24896, idx := 6, write := false, recalling := true, r := 4, cls := 3, recalled := false }

/-- B waits for the slice. -/
def waitB (s : State) : State :=
  s.modThr 24896 fun t => { t with st := .waiting, wait := some { kind := .tenure 192, d := 4, since := 1000, e := 10 } }

/-- The acquire, the recall of the overlapping row, A's release, and B's grant (R257 to R261). -/
theorem test_tenure_split : holds [
    decide (handleOf 192 5 1 = 0x30005001), decide (handleOf 192 6 1 = 0x30006001),
    after (.tilAcq .rdr 10 4 5 6) (split 1000 24896 [entA 0 3 .held] [] [(5, 0x30006001), (6, 0x34)])
      (fun t => waits .waiting (.tenure 192) t && (t.sli 192).queue == [{ reqB with recalled := true }] &&
        (t.sli 192).ents == [entA 3 3 (.recalling 2024), entA 0 2 .held]),
    after (.tenureGrant 192) (waitB (split 1010 24896 [entA 0 3 .held] [reqB] []))
      (fun t => (t.sli 192).ents == [entA 0 2 .held, entA 3 3 (.recalling 2034)] || (t.sli 192).ents == [entA 3 3 (.recalling 2034), entA 0 2 .held]),
    after (.tilRel 7 5 8) (split 1200 24736 [entA 0 2 .held, entA 3 3 (.recalling 2034)] [{ reqB with recalled := true }] [(5, 0x30005001), (8, 0x8000000300000003)])
      (fun t => (t.sli 192).ents == [entA 0 2 .held] && t.th.rg 7 == 0),
    after (.tenureGrant 192) (waitB (split 1310 24896 [entA 0 2 .held] [{ reqB with recalled := true }] []))
      (fun t => (t.thr 24896).rg 4 == 0 && (t.thr 24896).st == .ready && (t.thr 24896).pc == 0x1004 && (t.sli 192).queue == [] &&
        (t.sli 192).ents.length == 2),
    after (.recallDeadlineExpiry 192) (split 2040 24896 [entA 0 2 .held, entA 3 3 (.recalling 2034)] [] [])
      (fun t => (t.sli 192).ents == [entA 0 2 .held, entA 3 3 .revoked]),
    after (.recallDeadlineExpiry 192) ((split 2040 24896 [entA 3 3 (.recalling 2034)] [] []).modDie 3 fun d => { d with clock := { d.clock with t0 := some 0 } })
      (fun t => (t.sli 192).ents == [entA 3 3 .leaving]),
    after (.recallDeadlineExpiry 192) (split 2050 24896 [entA 3 3 .leaving] [] []) (fun t => (t.sli 192).ents == [entA 3 3 .revoked]),
    after (.tilRel 7 5 8) (split 2050 24736 [entA 0 2 .held, entA 3 3 .leaving] [] [(5, 0x30005001), (8, 0x8000000300000003)]) (fun t => t.th.rg 7 == 5),
    (split 2050 24896 [entA 3 3 .leaving] [{ reqB with recalled := true }] []).sliceWork 192 == none,
    after (.tilRel 7 5 8) (split 2200 24736 [entA 0 2 .held, entA 3 3 .revoked] [] [(5, 0x30005001), (8, 0x8000000300000003)])
      (fun t => (t.sli 192).ents == [entA 0 2 .held] && t.th.rg 7 == 5)] = true := by decide +kernel

/-- Hypotheses of TileForms: an acquire with nothing in its way, releases and closes of a record held and not held, a stale
handle. -/
theorem test_tile_forms : holds [
    ends (.tilAcq .wr 10 4 5 6) (split 1000 24736 [] [] [(5, 0x30005001), (6, 0x34)]) 0 (fun t => (t.sli 192).ents == [entA 0 3 .held]),
    ends (.tilAcq .rd 0 4 5 6) (split 1000 24896 [entA 0 3 .held] [] [(5, 0x30006001), (6, 0x34)]) 1 (fun t => (t.sli 192).queue == []),
    ends (.tilRel 4 5 8) (split 1000 24896 [entA 0 3 .held] [] [(5, 0x30005001)]) 4 (fun _ => true),
    ends (.tilClose 4 5) (split 1000 24896 [entA 0 3 .held] [] [(5, 0x30005001)]) 2 (fun _ => true),
    ends (.tilClose 4 5) (split 1000 24896 [entA 0 3 .held] [] [(5, 0x30006001)]) 0
      (fun t => (t.sli 192).recs.map (·.1) == [5] && (t.sli 192).gen 6 == 2 && errAnd (t.handle 0x30006001) (fun e => e == .trap { cause := 0x32, info := 0x30006001 })),
    after (.tilRel 4 5 8) (split 1000 24896 [] [] [(5, 0x30005002)]) (trapped 0x32 0x30005002),
    after (.tilAcq .rd 10 4 5 6) (split 1000 24896 [entA 0 3 .held] (List.replicate 256 reqB) [(5, 0x30006001), (6, 0x34)])
      (fun t => waits .waiting (.tenure 192) t && (t.sli 192).outside == [{ reqB with recalling := false }] && (t.sli 192).queue.length == 256),
    ends (.tilAcq .rd 10 4 5 6) ((split 1000 24896 [] [] [(5, 0x30006001)]).modDie 3 fun d => { d with online := false }) 3 (fun _ => true)] = true := by decide +kernel

/-- `tabled` with a transfer block for the sixteen rows of a record of 4-byte elements and a WRITE tenure of thread 0 over it; the
lines of its page are valid in the L1. -/
def moving : State :=
  let s := coreOn (tabled [(5, 0x2001), (6, 0x200)]) fun c =>
    { (c.scrWrite 0x200 (bytesOf 0x10000000000000000000001000 16)).scrWrite 0x1000 ((List.range 64).map fun i => BitVec.ofNat 8 (i + 1)) with
      l1 := [(0xE0, { valid := BitVec.allOnes 32, dirty := 0, bad := 0, data := 0x0706050403020100, ro := false, tile := some 0x240 })] }
  s.modSli 0 fun x =>
    { x with recs := [(2, { asid := 1, fmt := 4, rank := 1, base := 0x12000, hbase := 0, ext := [16, 0, 0, 0], str := [4, 0, 0, 0] })],
             ents := [{ idx := 2, thread := 0, lo := 0, hi := 15, write := true, r := 0, cls := 0, st := .held }] }

/-- `til.get` and `til.put` of a row that its thread holds (R265, R266). -/
theorem test_tile_moves : holds [
    okAnd (moving.handle 0x2001) (fun h => h.2.1 == 2 && okAnd (moving.xferBlock 0 h.2.2 0x200) fun x =>
      x.words == [0x200, 0x201, 0x202, 0x203, 0x204, 0x205, 0x206, 0x207] && okAnd (moving.xferParts x false x.elems) (fun ps => ps.length == 16) &&
      okAnd (moving.xferParts x true x.elems) fun ps => ps.length == 16),
    after (.tilGet 4 5 6) moving (fun t => t.th.rg 4 == 0 && t.co.scratch.get 0 0x200 == 0x0706050403020100 && t.co.scratch.get 0 0x201 == 0 && wentOn t),
    after (.tilGet 4 5 6) (coreOn moving fun c => { c with spoison := [(0x207, 0)] }) (fun t => t.th.rg 4 == 0 && t.co.spoison == []),
    after (.tilGet 4 5 6) (coreOn moving fun c => { (c.scrSetWord 0x41 0xF00000000) with spoison := [(0x207, 0)] }) (fun t => trapped 0x90 0x1038 t && t.co.spoison == [(0x207, 0)]),
    after (.tilPut 4 5 6) moving (fun t => t.th.rg 4 == 0 && wentOn t && (t.co.l1.find 0xE0).map (fun l => l.dirty) == some 0xFFFF &&
      (t.co.l1.find 0xE0).map (fun l => lineGet l.data 0 8) == some 0x0807060504030201)] = true := by decide +kernel

/-- A tile image at 0x300: FP32, one dimension of 16 elements at 0x12000. -/
def imaged (fmt : Nat) : State :=
  coreOn (tabled [(5, 0x300)]) fun c => c.scrWrite 0x300
    (bytesOf (0x100000000 * fmt + 0x10000000000) 8 ++ bytesOf 0x12000 8 ++ bytesOf 0 8 ++ bytesOf 16 16 ++ bytesOf 4 32)

/-- Hypotheses of the clauses on `til.open`: a record that passes the checks, and one of no format (R249). -/
theorem test_tile_open : holds [
    decide ((tileOfImage 1 ((List.range 72).map fun i => (imaged 4).co.scrByte (0x300 + i))).bad = none),
    okAnd ((imaged 4).tilePages ((tileOfImage 1 ((List.range 72).map fun i => (imaged 4).co.scrByte (0x300 + i))).whole.flatMap
      fun p => pageStarts (vaOf p.first) (vaOf p.last))) (fun _ => true),
    after (.tilOpen 4 4 5) (imaged 7) (trapped 0x34 2), after (.tilOpen 4 4 5) (imaged 4) wentOn,
    after (.tilOpen 4 4 5) ((imaged 4).modSli 0 fun x => { x with recs := (List.range 256).map fun i => (i, recBA) }) (waits .waiting (.recordEntry 0)),
    after (.tilOpen 4 4 5) ((imaged 4).modThr 0 fun t => t.setG 5 0x304) (trapped 0x13 0x304), after (.tilOpen 4 4 5) ((imaged 4).modThr 0 fun t => t.setG 5 0x3FFC0) (trapped 0x14 0x3FFC0),
    after (.tilGet 4 5 6) (moving.modTh fun t => t.setG 6 0x204) (trapped 0x13 0x204), after (.tilPut 4 5 6) (moving.modTh fun t => t.setG 6 0x3FFF8) (trapped 0x14 0x3FFF8),
    after (.gangMm 15 4 6) (base.modTh fun t => t.setG 6 0x104) (trapped 0x13 0x104), after (.latheReq 4 4 7 8) (base.modTh fun t => t.setG 7 0x40000) (trapped 0x14 0x40000),
    after (.sprsScan .h 5 8 9) (regs [(8, 0x400), (9, 0x48000000000)]) (trapped 0x71 0x300400), after (.sprsScan .h 5 8 9) (regs [(8, 0x401), (9, 0x48000000002)]) (trapped 0x13 0x401),
    after (.sprsScan .w 5 8 9) (regs [(8, 0x400), (9, 0x3FFFF00000002)]) (trapped 0x14 0x3FFFF)] = true := by decide +kernel

/-! ## The cluster (R222 to R246) -/

/-- The eight cores of cluster 0 belong to launch 1; arrivals of the cores after the first `n` have not come. -/
def pegged (n : Nat) (mm : Bool) : State :=
  let s := (List.range 8).foldl (fun s i => s.modCor i fun c => { c with launch := some 1, asid := 1, nctx := 16, scr := 0x40000 }) base
  let s := (List.range n).foldl (fun s i => s.modThr (16 * (i + 1)) fun t =>
    { t with st := .waiting, pc := 0x1000, wait := some { kind := .peg, d := 4, since := 0, e := 15 } }) s
  s.modClu 0 fun k => { k with arrivals := (List.range n).map fun i =>
    { pos := i + 1, thread := 16 * (i + 1), d := 4, mm := mm, desc := [], ahdr := [], bhdr := [], bidx := [], tabs := [], apay := [], bpay := [] } }

/-- An earlier arrival of core 0, by its context 1, is there yet. -/
def earlier (s : State) : State :=
  s.modClu 0 fun k => { k with arrivals := k.arrivals ++ (k.arrivals.take 1).map fun x => { x with pos := 0, thread := 1 } }

theorem test_peg : holds [
    after (.gangPeg 10 4) (pegged 3 false) (fun t => waits .waiting .peg t && (t.clu 0).arrivals.length == 4),
    ends (.gangPeg 0 4) (pegged 3 false) 1 (fun t => (t.clu 0).arrivals.length == 3),
    ends (.gangPeg 10 4) (pegged 7 false) 0 (fun t => (t.clu 0).arrivals == [] && (t.thr 112).st == .ready),
    decide ((pegged 7 false).pegBusy = false),
    after (.gangPeg 10 4) (earlier (pegged 3 false)) (waits .waiting .arrival), ends (.gangPeg 0 4) (earlier (pegged 3 false)) 1 (fun _ => true)] = true := by decide +kernel

/-- A descriptor of one live block of FP16, with 1.5 at A(0, 0) and 2.0 at B(0, 0) of core 0. -/
def ganged (n : Nat) : State :=
  let put := fun (c : Core) => ((c.scrWrite 0x100 (bytesOf 0x101000000 8 ++ bytesOf 1 24 ++ bytesOf 0x400 4 ++ bytesOf 0 4 ++ bytesOf 0x800 4 ++ bytesOf 0 20)).scrWrite
    0x400 [0, 0x3E]).scrWrite 0x800 [0, 0x40]
  let s := (List.range 8).foldl (fun s i => s.modCor i put) ((pegged n true).modTh fun t => t.setG 6 0x100)
  s.modClu 0 fun k => { k with arrivals := k.arrivals.map fun x => { x with desc := (List.range 64).map fun i => s.co.scrByte (0x100 + i) } }

/-- `gang.mm` arrives, waits, and as the eighth joins the line; hypotheses of the clause on a part (R223, R230). -/
theorem test_gang_mm : holds [
    okAnd ((ganged 7).gangChecks 4 0x100) (fun x => mismatchInfo ((((ganged 7).clu 0).arrivals) ++ [x]) == none),
    after (.gangMm 15 4 6) (ganged 3) (fun t => waits .waiting .peg t && (t.clu 0).arrivals.length == 4),
    ends (.gangMm 0 4 6) (ganged 3) 1 (fun _ => true),
    after (.gangMm 15 4 6) (earlier (ganged 3)) (fun t => waits .waiting .arrival t && t.th.gangAt.map (·.desc.length) == some 64),
    (match exec (.gangMm 15 4 6) (earlier (ganged 3)) with
      | .next t => after (.gangMm 15 4 6) (((t.modClu 0 fun k => { k with arrivals := k.arrivals.take 3 }).modCor 0 fun c => c.scrWrite 0x104 [0, 0]).modTh fun x => { x with st := .ready })
          (fun u => waits .waiting .peg u && (u.clu 0).arrivals.length == 4)
      | _ => false),
    after (.gangMm 15 4 6) (ganged 7) (fun t => waits .waiting .peg t && (t.clu 0).running == List.range 8 && (t.clu 0).arrivals == [] &&
      ((t.clu 0).joined.find? (·.pos == 0)).map (fun x => (x.thread, x.d)) == some (0, 4)),
    after (.gangMm 15 4 6) ((ganged 7).modCor 0 fun c => c.scrWrite 0x104 [0, 0]) (fun t => t.th.st == .trapped && t.th.kcause == 0x71)] = true := by
  decide +kernel

/-- The part of core 0 after the join: 1.5 times 2.0 at row 0 and column 0 of each column tile, on several
accumulators (R71 to R75, R229 to R232); hypotheses of PartSums and ReadsPlane. -/
theorem test_gang_part :
    let joined := match exec (.gangMm 15 4 6) (ganged 7) with | .next t => t | _ => base
    holds [joined.co.spoison == [], ((joined.clu 0).joined.find? (·.pos == 0)).map (fun x => (x.apay.take 1, x.bpay.take 1)) == some ([0x3E00], [0x4000]),
    after (.gangPartComplete 0 0) joined (fun t => t.th.st == .ready && t.th.rg 4 == 0 && (t.clu 0).running.length == 7),
    ((joined.clu 0).joined.find? (·.pos == 3)).any fun b => ((joined.clu 0).joined.find? (·.pos == 0)).any fun a =>
      partElem a b 0 0 0 == 0x40400000 && partElem a b 0 1 0 == 0 && partElem a b 0 0 0x3F800000 == 0x40800000 && partElem a b 0 0 0x7FC00001 == 0x7FC00000 && partElem a b 0 0 0xFF800000 == 0xFF800000] = true := by decide +kernel

theorem test_accumulators :
    let s := (coreOn (regs [(7, 0x45)]) fun c => { c with acc := [(accIdx 1 1 17, 9), (accIdx 2 0 0, 8)] }).modTh fun t => t.setV 3 (vec 32 [5, 6])
    holds [after (.gangRdacc 2 7) s (fun t => lane 32 (t.th.rv 2) 1 == 9 && wentOn t),
    after (.gangWracc 3 7) s (fun t => t.co.acc.get 0 (accIdx 1 1 16) == 5 && t.co.acc.get 0 (accIdx 1 1 17) == 6 && t.co.acc.get 0 (accIdx 2 0 0) == 8 && wentOn t),
    after (.gangZacc 7) s (fun t => t.co.acc.get 0 (accIdx 1 1 17) == 0 && t.co.acc.get 0 (accIdx 2 0 0) == 8 && wentOn t)] = true := by decide +kernel

/-- The scan of chapter 11, the index word of an empty block, and a group with three values (R236, R237). -/
theorem test_sparse : holds [
    after (.sprsScan .h 5 8 9) (coreOn (regs [(8, 0x400), (9, 0x48000000002)]) fun c => (c.scrWrite 0x406 [0, 0x80]).scrWrite 0x428 [0, 0x3C, 0, 0xBC])
      (fun t => t.th.rg 5 == 2 && t.co.scrByte 0x480 == 1 && t.co.scrByte 0x481 == 0 && wentOn t),
    after (.sprsScan .h 5 8 9) (coreOn (regs [(8, 0x400), (9, 0x44000000003)]) fun c => c.scrWrite 0x428 [0, 0x3C])
      (fun t => t.th.rg 5 == 2 && t.co.scrByte 0x440 == 1 && t.co.scrByte 0x441 == 0 && wentOn t),
    after (.sprsS24 .h 5 2) base (fun t => t.th.rg 5 == 0x4444 && wentOn t),
    after (.sprsS24 .w 5 2) (base.modTh fun t => t.setV 2 (vec 32 [0, 0, 0, 0, 1, 2, 3])) (trapped 0x71 0x600001)] = true := by decide +kernel

/-- Table 11-12: the request as the lathe accepts it, its run, and its reply. -/
def lathed : State :=
  coreOn (regs [(7, 0x500), (8, 0xAB05)]) fun c =>
    { ((c.scrWrite 0x600 [0x02, 0xAA, 0xBB, 0xCC, 0x84, 0x87, 0, 0x11]).scrWrite 0x700 (bytesOf 0x80000000500000000 12)) with
      classes := [(5, { ctx := 0, entry := none })] }

theorem test_lathe_accept : holds [
    ends (.latheReq 4 4 7 8) lathed 0 (fun t => (t.clu 0).lathe.map (fun q => (q.core, q.cls, q.tag, q.answer)) == [(0, 5, 0xAB, none)]),
    after (.latheReq 4 4 7 8) (lathed.modClu 0 fun k => { k with lathe := List.replicate 4 { core := 0, cls := 0, tag := 0, block := [], tabs := [], tacc := 0, answer := none } })
      (waits .waiting .lathePort),
    ends (.latheReq 0 4 7 8) (lathed.modClu 0 fun k => { k with lathe := List.replicate 4 { core := 0, cls := 0, tag := 0, block := [], tabs := [], tacc := 0, answer := none } })
      2 (fun _ => true)] = true := by decide +kernel

/-! ## Groups, prefetch, tables and contexts -/

/-- A group with the members A, B, C, D of Table 15-6 as threads 0 to 3; `cur` issues. -/
def groupedAt (g cur c : Nat) (bits gone : List Nat) (x lv : Nat) : State :=
  let s := { base with groups := [(g, { asid := 1, members := [0, 1, 2, 3], c := c, bits := bits, gone := gone, x := x, lv := lv })], cur := cur }
  (List.range 4).foldl (fun s t => s.modThr t fun th =>
    { (th.setG 5 (BitVec.ofNat 64 g)).setG 6 0 with st := .ready, pc := 0x1000, kgrp := th.kgrp.set 0 (BitVec.ofNat 64 (0x1000 + g)) }) s

/-- Group 0x205 of Table 15-6, at home on die 2. -/
def grouped (cur c : Nat) (bits gone : List Nat) (x lv : Nat) : State := groupedAt 0x205 cur c bits gone x lv

/-- The group after a form. -/
def groupIs (c : Nat) (bits gone : List Nat) (x lv : Nat) (t : State) : Bool :=
  t.groups.find 0x205 == some { asid := 1, members := [0, 1, 2, 3], c := c, bits := bits, gone := gone, x := x, lv := lv }

/-- The form is over; its answer is on its way back from the home's die (R319, R323). -/
def onItsWay (t : State) : Bool := t.th.pc == 0x1004 && t.th.wait.any fun w => match w.kind with | .crossing _ => true | _ => false

/-- The form is sent to the home, and its arrival there has an effect (R319). -/
def arrived (i : Instr) (s : State) (p : State → Bool) : Bool :=
  after i s fun t => t.th.st == .waiting && t.groups == s.groups && (match execHomeRequestArrival 0 t with
    | .next u => (u.cor 0).outq == [] && p u
    | _ => false)

/-- Steps 1 to 6 and 8 of Table 15-6. -/
theorem test_group : holds [
    arrived (.grpArrive .thread 4 5) (grouped 0 0 [] [] 4 0) (fun t => t.th.rg 4 == 0 && groupIs 0 [0] [] 4 0 t && onItsWay t),
    after (.grpWait .thread 10 4 5 6) (grouped 1 0 [1, 0] [] 4 0) (waits .waiting (.phase 0x205 0 false)), ends (.grpWait .thread 0 4 5 6) (grouped 1 0 [1, 0] [] 4 0) 1 (fun _ => true),
    arrived (.grpDrop .thread 4 5) (grouped 2 0 [1, 0] [] 4 0) (fun t => t.th.rg 4 == 0 && groupIs 0 [2, 1, 0] [2] 4 1 t && t.th.groups == [] && onItsWay t),
    arrived (.grpArrive .thread 4 5) (grouped 3 0 [2, 1, 0] [2] 4 1) (fun t => t.th.rg 4 == 0 && groupIs 1 [] [2] 3 0 t),
    ends (.grpWait .thread 10 4 5 6) (grouped 1 1 [] [2] 3 0) 0 (fun _ => true),
    arrived (.grpArrive .thread 4 5) (grouped 0 1 [0] [2] 3 0) (fun t => trapped 0x50 0x10205 t && groupIs 1 [0] [2] 3 0 t),
    after (.grpArrive .thread 4 5) ((grouped 2 1 [0] [2] 3 0).modTh fun t => { t with kgrp := Vector.replicate 4 0 }) (trapped 0x51 0x205),
    arrived (.grpArrive .thread 4 5) (grouped 3 1 [0] [1, 2] 2 0) (fun t => t.th.rg 4 == 0x100 && groupIs 2 [] [1, 2] 2 0 t),
    ends (.grpInfo 4 5) (grouped 0 1 [0] [2] 3 0) 0x600010001 (fun _ => true),
    after (.grpQuiet 15 4) (grouped 0 0 [] [] 4 0) (waits .waiting .quiet), ends (.grpQuiet 0 4) (grouped 0 0 [] [] 4 0) 1 (fun _ => true),
    ends (.grpWait .thread 10 4 5 6) ((grouped 0 0 [] [] 4 0).modDie 2 fun d => { d with online := false }) 3 (fun _ => true)] = true := by decide +kernel

/-- Hypotheses of GroupForms: a group at home on the thread's die, and releases with something to publish. -/
theorem witness_group_forms :
    let own := groupedAt 5 3 0 [1, 0] [] 4 0
    let carry := (groupedAt 5 3 0 [1, 0] [] 4 0).modCor 0 fun c => { c with batten := [(1, 1)] }
    holds [
    ends (.grpArrive .thread 4 5) own 0 (fun t => (t.groups.find 5).map (·.bits.length) == some 3), ends (.grpDrop .die 4 5) own 0 (fun t => t.th.groups == []),
    after (.grpArrive .thread 4 5) (groupedAt 5 0 1 [0] [2] 3 0) (trapped 0x50 0x10005),
    after (.grpArrive .cluster 4 5) carry (fun t => waits .waiting .publish t && t.groups == carry.groups), after (.grpDrop .die 4 5) carry (waits .waiting .publish),
    ends (.grpArrive .thread 4 5) (carry.modTh fun t => { t with released := true }) 0 (fun t => !t.th.released),
    ends (.grpArrive .thread 4 5) ((grouped 0 0 [] [] 4 0).modDie 2 fun d => { d with online := false }) 3 (fun _ => true)] = true := by decide +kernel

/-- Threads that wait for a phase on the home's die and on another, an arrival of another die's thread, its answer's way back, a
thread that is no member, and an id with no entry (R299, R300, R319, R323); hypotheses of GroupForms. -/
theorem witness_phases :
    let waiting := fun (g : Nat) (s : State) => s.modThr 1 fun t => { t with st := .waiting, wait := some { kind := .phase g 0 false, d := 4, since := 0, e := 15 } }
    let own := waiting 5 (groupedAt 5 3 0 [2, 1, 0] [] 4 0)
    let away := (waiting 0x205 (grouped 3 0 [2, 1, 0] [] 4 0)).modCor 0 fun c => { c with outq := [{ thread := 3, gid := 0x205, op := .arrive }] }
    let away := away.modThr 3 fun t => { t with st := .waiting, wait := some { kind := .groupReq, d := 4, since := 0, e := 15 } }
    let none_ := { (groupedAt 5 3 0 [] [] 4 0) with groups := [] }
    holds [
    AMap.sorted own.threads, after (.grpArrive .thread 4 5) own (fun t => (t.thr 1).st == .ready && (t.thr 1).rg 4 == 0 && (t.groups.find 5).map (·.c) == some 1),
    AMap.sorted away.threads, (away.cor 0).resent == [], (away.groupReady 0).map (·.thread) == some 3,
    after (.homeRequestArrival 0) away (fun t => [1, 3].all fun u => (t.thr u).st == .waiting && (t.thr u).wait.map (·.kind) == some (.crossing t.tick) && (t.thr u).rg 4 == 0),
    after (.replyArrival 3) (away.modThr 3 fun t => { t with wait := some { kind := .crossing 0, d := 4, since := 0, e := 15 } }) (fun t => (t.thr 3).st == .ready && (t.thr 3).pc == 0x1000),
    after (.grpArrive .thread 4 5) (groupedAt 5 3 0 [] [] 4 0) (fun t => t.th.rg 4 == 0),
    after (.grpArrive .thread 4 5) { own with groups := [(5, { asid := 1, members := [0, 1], c := 0, bits := [], gone := [], x := 2, lv := 0 })] } (trapped 0x51 5),
    ends (.grpInfo 4 5) none_ 0 (fun _ => true), ends (.grpWait .die 10 4 5 6) (none_.modTh fun t => t.setG 6 1) 0 (fun _ => true),
    after (.grpWait .die 10 4 5 6) none_ (waits .waiting (.phase 5 0 true))] = true := by decide +kernel

/-- Die 0 with counters claimed by launch 1 and prefetch requests of expert 7 (R302, R303). -/
def prefetching (n : Nat) : State :=
  (regs [(5, 0x400), (6, 0x12000), (7, 0x300000002), (8, 7)]).modDie 0 fun d =>
    { d with rtClaim := some 1, rtCount := [(0, 5), (3, 6)],
             xpf := (List.range n).map fun i => { id := i + 1, base := 0, pages := 1, ex := 7, pr := 0, dl := 100, lid := 1 } }

theorem test_xpf : holds [
    ends (.xpfSnap 4 5) (prefetching 0) 0 (fun t => t.co.scratch.get 0 0x80 == 5 && t.co.scratch.get 0 0x81 == 0x600000000 && (t.die 0).rtCount == []),
    after (.xpfSnap 4 5) ((prefetching 0).modDie 0 fun d => { d with rtClaim := none }) (trapped 0x11 0), after (.xpfSnap 4 5) ((prefetching 0).modTh fun t => t.setG 5 0x408) (trapped 0x13 0x408),
    after (.xpfReq 4 6 7) (prefetching 63) (fun t => t.th.rg 4 == 64 && (t.die 0).xpf.length == 64 && wentOn t),
    ends (.xpfReq 4 6 7) (prefetching 64) 2 (fun t => (t.die 0).xpf.length == 64), ends (.xpfCancel 4 8) (prefetching 3) 3 (fun t => (t.die 0).xpf == [])] = true := by
  decide +kernel

/-- A decode table loaded and stored (R131, R132). -/
theorem test_tables :
    let s := coreOn (regs [(5, 0x400), (6, 0x600)]) fun c => { c.scrWrite 0x400 (bytesOf 0x1234500054321 8) with tabs := [(257, 9)] }
    let done := fun (i : Instr) (k : WaitKind) (p : State → Bool) => (match exec i s with
      | .next t => waits .waiting k t && t.co == s.co && after (.replyArrival 0) t (fun u => u.th.pc == 0x1004 && u.th.st == .ready && p u)
      | _ => false)
    holds [done (.sysNuld 5 .tabB) (.tableMove true .tabB 0x400) (fun t => t.co.tabs.get 0 256 == 0x54321 && t.co.tabs.get 0 257 == 0x12345),
    done (.sysNust 6 .tabB) (.tableMove false .tabB 0x600) (fun t => t.co.scrRead 0x600 4 == 0 && t.co.scrRead 0x604 4 == 9),
    after (.replyArrival 0) ((coreOn s fun c => { c with spoison := [(0x80, 0)] }).modTh fun t => { t with st := .waiting, wait := some { kind := .tableMove true .tabB 0x400, d := 0, since := 0, e := 0 } }) (fun t => t.th.st == .trapped && t.th.kcause == 0x90 && t.th.kinfo == 0x400 && t.co.tabs == [(257, 9)]),
    after (.contextSaveComplete 0) (s.modTh fun t => { t with saveFrom := some 0, st := .waiting, wait := some { kind := .tableMove true .tabB 0x400, d := 0, since := 0, e := 0 } }) (fun t => t.th.st == .saved && t.slotRead 0 287 == 0x1000 && t.co.tabs == [(257, 9)]),
    after (.sysNuld 5 .n8) (s.modTh fun t => t.setG 5 0x3FC04) (trapped 0x14 0x3FC04)] = true := by decide +kernel

/-- A service thread that may save thread 5 of core 0 (R137). -/
def saving (f : Thread → Thread) : State :=
  let s := base.modThr 5 fun t => f { t.setG 7 77 with st := .ready, pc := 0x2000 }
  { (s.modThr 0x20000 fun t => { t.setG 5 5 with st := .ready, pc := 0x1000, kstat := 1 }) with cur := 0x20000 }

/-- A save asked for, done, and restored (R133 to R138); hypotheses of ContextForms. -/
theorem test_contexts :
    let dead := match exec (.contextSaveComplete 5) ((saving id).modThr 5 fun t => { t with saveFrom := some 0, st := .trapped }) with
      | .next t => t
      | _ => base
    let saved := match exec (.contextSaveComplete 5) ((saving id).modThr 5 fun t => { t with saveFrom := some 0 }) with
      | .next t => t
      | _ => base
    holds [after (.sysTsave 4 5) (saving id) (fun t => waits .waiting (.save 5) t && (t.thr 5).saveFrom == some 0),
    after (.sysTsave 4 5) (saving fun t => { t with packet := [1] }) (fun t => t.th.rg 4 == 2 && t.th.pc == 0x1004),
    after (.sysTsave 4 5) (saving fun t => { t with st := .saved }) (trapped 0x11 5), after (.sysTload 4 5) (saving id) (trapped 0x11 5),
    (dead.thr 5).st == .saved, bitAt (dead.slotRead 5 319) 0, after (.sysTread 9 5 (.g 7)) dead (fun t => t.th.rg 9 == 77), after (.sysTread 9 5 .pc) dead (fun t => t.th.rg 9 == 0x2000),
    after (.sysTwrite 9 5 .pc) (dead.modTh fun t => t.setG 9 0x2004) (fun t => t.slotRead 5 287 == 0x2004 && bitAt (t.slotRead 5 319) 0 && (t.thr 5).st == .saved),
    after (.sysTresume 5) dead (fun t => (t.thr 5).st == .saved && bitAt (t.slotRead 5 319) 0 == false), after (.sysTkill 5) dead (fun t => (t.thr 5).st == .ended),
    (saved.thr 5).st == .saved, (saved.slotRead 5 287).toNat == 0x2000, (saved.slotRead 5 262).toNat == 77,
    after (.sysTload 4 5) (saved.modThr 5 fun _ => { Thread.init with st := .saved }) (fun t => (t.thr 5).rg 7 == 77 && (t.thr 5).pc == 0x2000 && (t.thr 5).st == .ready && t.th.rg 4 == 0),
    after (.sysTsave 4 5) (saving fun t => { t with saveFrom := some 0 }) (waits .waiting (.saved 5)), after (.sysTload 4 5) (saving fun t => { t with saveFrom := some 0 }) (waits .waiting (.saved 5)),
    after (.sysTsave 4 5) base (fun t => t.th.st == .trapped && t.th.kcause == 3),
    after (.sysTload 4 5) base (fun t => t.th.st == .trapped && t.th.kcause == 3)] = true := by decide +kernel


/-! ## Events of threads and engines -/

/-- `base` where thread 5, at 0x2000, has left the rotation at tick 0 for a wait that returns its status in `g7`. -/
def awaiting (st : CtxState) (k : WaitKind) (e tick : Nat) : State :=
  { (base.modThr 5 fun t => { t with st := st, pc := 0x2000, wait := some { kind := k, d := 7, since := 0, e := e } }) with tick := tick }

/-- Thread 5 is READY at 0x2004 with a status in `g7`. -/
def endsWait (status : Word) (t : State) : Bool :=
  (t.thr 5).st == .ready && (t.thr 5).wait == none && (t.thr 5).rg 7 == status && (t.thr 5).pc == 0x2004

/-- A reply, and limits that pass at their first tick and at the last exponent (R20, R115). -/
theorem test_wait_ends : holds [
    after (.replyArrival 5) (awaiting .waiting .reply 15 0) (fun t => t.thr 5 == { (awaiting .waiting .reply 15 0).thr 5 with st := .ready, wait := none, justReady := true }),
    after (.replyArrival 5) (awaiting .waiting .deviceStore 15 0) (fun t => (t.thr 5).st == .ready && (t.thr 5).pc == 0x2000),
    after (.waitExpiry 5) (awaiting .parked (.message 4) 1 128) (endsWait 1), after (.waitExpiry 5) (awaiting .waiting .permit 1 128) (endsWait 6),
    after (.waitExpiry 5) (awaiting .waiting .lathePort 14 0x100000) (endsWait 2), after (.waitExpiry 5) (awaiting .waiting (.recordEntry 0) 14 0x100000) (endsWait 0),
    after (.waitExpiry 5) (awaiting .parked (.message 4) 1 127) (fun t => (t.thr 5).st == .parked),
    after (.waitExpiry 5) (awaiting .waiting (.homeLoad [(0, 0x12000, 4)]) 10 65536) (fun t => (t.thr 5).st == .ready && (t.thr 5).pc == 0x2000),
    after (.waitExpiry 5) (blockedLoad 65536) (fun t => (t.thr 5).st == .trapped && (t.thr 5).kcause == 0x31 && (t.thr 5).kinfo == 0x12000 && (t.thr 5).pc == 0x2000)] = true := by
  decide +kernel

/-- An answer on its way whose limit of 128 ticks is over (R20): it arrives within 64 ticks more, else TIMEOUT stands in its
place where a relock holds it back. -/
theorem test_answer_late :
    let s := fun (tick : Nat) => awaiting .waiting (.crossing 100) 1 tick
    let held := fun (s : State) => s.modDie 0 fun d => { d with clock := { d.clock with t0 := some 90 } }
    holds [(s 191).threads.any (fun e => e.2.wait.any (·.over 191)) == false, after (.waitExpiry 5) (held (s 191)) (fun t => (t.thr 5).st == .waiting),
    after (.waitExpiry 5) (held (s 192)) (fun t => (t.thr 5).st == .ready && (t.thr 5).rg 7 == 1),
    after (.replyArrival 5) (s 130) (fun t => (t.thr 5).st == .ready && (t.thr 5).rg 7 == 0)] = true := by decide +kernel

/-- A message of class 2 on its way to core 0 of launch 1, of which thread 5 takes class 2. -/
def arriving (n : Nat) (f : Thread → Thread) : State :=
  let s := (coreOn base fun c => { c with classes := [(2, { ctx := 5, entry := none })], mailbox := List.replicate n { msg79 with permitted := false } }).modThr 5 f
  { s with transit := [{ core := some 0, lid := some 1, msg := { msg79 with permitted := false, words := [1] }, trapRec := false, src := none, fwd := none }] }

/-- Arrival with room, without it, for a launch that is SAVED, for nobody, and out of the trap queue; it wakes a parked
context, and starts a parked one at its entry (R41, R94, R117, R119, R294). -/
theorem test_arrival : holds [
    after .messageArrival (arriving 15 fun t => { t with st := .parked }) (fun t => t.transit == [] && (t.cor 0).mailbox.length == 16 && (t.thr 5).readyBit && (t.thr 5).st == .ready),
    after .messageArrival (arriving 16 fun t => { t with st := .parked }) (fun t => t.transit == [] && (t.die 0).trapQ.length == 1 && (t.thr 5).st == .parked),
    after .messageArrival ((arriving 0 fun t => { t with st := .parked, parkedStart := true }).modCor 0 fun c => { c with classes := [(2, { ctx := 5, entry := some 0x3000 })] })
      (fun t => (t.thr 5).st == .ready && (t.thr 5).pc == 0x3000),
    after .messageArrival { (arriving 0 id).modCor 0 (fun c => { c with launch := some 3 }) with launches := [(1, { Launch.init with images := [(0, (arriving 0 id).cor 0)] })] }
      (fun t => t.transit == [] && (t.die 0).trapQ.length == 1 && (t.cor 0).mailbox == []),
    after .messageArrival ((arriving 0 id).modCor 0 fun c => { c with launch := some 3 }) (fun t => t.transit == [] && t.service.length == 1 && (t.cor 0).mailbox == []),
    after (.trapQueueDelivery 0) ((arriving 15 id).modDie 0 fun d => { d with trapQ := (arriving 0 id).transit }) (fun t => (t.die 0).trapQ == [] && (t.cor 0).mailbox.length == 16)] = true := by
  decide +kernel

/-- Saves: complete, with a packet open, and reported after 2^20 ticks (R133, R134). -/
theorem test_saves :
    let s := fun (k : Nat) (x : List Word) => { (saving fun t => { t with saveFrom := some 0, packet := x }) with tick := k }
    holds [(s 0 []).saveReady 5, (s 0 [1]).saveReady 5 == false,
    after (.contextSaveComplete 5) ((s 0 []).modThr 5 fun t => { t with st := .trapped }) (fun t => (t.thr 5).st == .saved && t.slotRead 5 319 == 1 && (t.slotRead 5 262).toNat == 77 && (t.slotRead 5 287).toNat == 0x2000),
    after (.contextSaveComplete 5) (((s 0 []).modThr 5 fun t => { (t.setG 7 99) with pc := 0x2004, st := .waiting, wait := some { kind := .reply, d := 7, since := 0, e := 15 }, before := some ((s 0 []).thr 5).regs }).modThr 6 fun t =>
      { t with st := .waiting, pc := 0x3000, wait := some { kind := .save 5, d := 4, since := 0, e := 15 } })
      (fun t => (t.slotRead 5 262).toNat == 77 && (t.slotRead 5 287).toNat == 0x2000 && (t.thr 6).st == .ready && (t.thr 6).pc == 0x3004),
    after (.saveDeferralReport 5) (s 0x100000 [1]) (fun t => (t.thr 5).saveTold && t.transit.map (·.core) == [none]),
    after (.saveDeferralReport 5) (s 0xFFFFF [1]) (fun t => !(t.thr 5).saveTold)] = true := by decide +kernel

/-- Lines and walks (R130, R277). -/
theorem test_misses :
    let s := fun (k : WaitKind) => { ((tabled []).modThr 5 fun t => { t with st := .waiting, pc := 0x10044, wait := some { kind := k, d := 0, since := 0, e := 15 } }) with walks := [5] }
    holds [after (.icacheMissFill 5) (s (.icacheMiss 0x10078)) (fun t => (t.thr 5).st == .ready && (t.thr 5).pc == 0x10044 &&
      ((t.cor 0).icache.find 0x401).map (fun l => l.getD 14 none) == some (some 0x04030201#32)),
    after (.pageWalkComplete 5) (s (.pageWalk 0x12345)) (fun t => (t.thr 5).st == .ready && t.walks == [] && (t.cor 0).tlb.head? == some { va := 0x12000, pte := 0x400000000007027 }),
    after (.pageWalkComplete 5) { (s (.pageWalk 0x12345)) with poison := [(0x20812, 0)] } (fun t => (t.thr 5).st == .trapped && (t.thr 5).kcause == 0x90 && (t.thr 5).kinfo == 0x104090),
    after (.pageWalkComplete 5) { ((s (.pageWalk 0x12345)).modThr 5 fun t => { t with word := 0x1245408F }) with poison := [(0x20812, 0)] } (fun t => (t.thr 5).st == .trapped && (t.thr 5).kcause == 0x90 && (t.thr 5).kinfo == 0x12345),
    after (.pageWalkComplete 5) (s (.pageWalk 0x15008)) (fun t => (t.thr 5).st == .trapped && (t.thr 5).kcause == 0x10 && (t.thr 5).kinfo == 0x15008)] = true := by decide +kernel

/-- A queued part of a word, and requests of core 0 to die 3 numbered up to 6 (R170, R280). -/
def requested : State :=
  coreOn base fun c => { c with wtq := [{ pa := 0x5080, bytes := [some 0xDD, none, some 0xCC], dev := false }], seq := [(3, 7), (4, 0)] }

theorem test_home_requests : holds [
    after (.homeRequestArrival 0) (coreOn base fun c => { c with wtq := [{ pa := 0x8000000010000, bytes := [some 0, some 0x13], dev := true }] }) (fun t => t.co.wtq == [] && t.mem == [] && t.inbox == [.deviceRegisterWrite 0x8000000010000 2 0x1300]),
    after (.homeRequestArrival 0) (((coreOn requested fun c => { c with resent := [(3, 6)] }).modThr 0 fun t => { t with st := .waiting, asked := [{ die := 3, seq := 5, off := 0, n := 2 }, { die := 3, seq := 6, off := 2, n := 2 }], wait := some { kind := .reply, d := 7, since := 0, e := 15 } }.setG 7 0x8877665544332211).modDie 3 fun d =>
      { d with replies := [(0, [(6, some 0xAABB)])] }) (fun t => t.co.resent == [] && t.th.rg 7 == 0x88776655AABB2211 && t.th.st == .waiting),
    after (.homeRequestArrival 0) requested (fun t => t.co.wtq == [] && memRead t.mem 0x5080 3 == [0xDD, 0, 0xCC]),
    after (.flitCheckFailure 0 3) requested (fun t => t.co.resent == [(3, 6)] && t.mem == []),
    after (.flitCheckFailure 0 4) requested (fun t => t.co.resent == [(4, 65535)]),
    after (.homeRequestArrival 0) (coreOn requested fun c => { c with resent := [(3, 6)] }) (fun t => t.co.resent == [] && t.co.wtq.length == 1 && t.mem == [])] = true := by
  decide +kernel

/-- Hypotheses of EngineEvents for the slices. -/
theorem witness_slices :
    let s := waitB (split 1310 24896 [entA 0 2 .held] [{ reqB with recalled := true }] [])
    holds [decide (s.sliceWork 192 = some (.grant 0)), decide ((s.sli 192).queue[0]? = some { reqB with recalled := true }),
    decide ((s.sli 192).recs.find 6 = some recHB),
    after (.tenureGrant 192) ((split 1310 24896 [entA 0 3 .held] [] []).modSli 192 fun x => { x with outside := [reqB] }) (fun t => (t.sli 192).queue == [reqB] && (t.sli 192).outside == []),
    (entA 3 3 (.recalling 2034)).expired 2035, (entA 3 3 (.recalling 2034)).expired 2034 == false] = true := by decide +kernel

/-- Keyed entries on their way out: a merge, a drain, a settle, and an idle quarter (R200, R238 to R240, R308, R309). -/
theorem test_key_engines :
    let s := (keyed [(n7, 6554)] [] [(n7, 13108)] 0 []).modCor 0 fun c => { c with merging := [n7] }
    let d := (keyed [] [] [(n7, 13108)] 0 []).modClu 0 fun k => { k with draining := [n7] }
    let b := fun (k : Nat) (l : List Nat) => { ((keyed [] [] [] 0 []).modDie 0 fun x => { x with beam := [(beamKey 1 n7, 5)], settling := [(quarterOf n7, l)] }) with tick := k }
    holds [(match s.mergeStep 0 n7 with | .moved _ => true | _ => false), (match d.drainStep 0 1 n7 with | .moved _ => true | _ => false),
    (match (b 0 []).settleStep 0 (beamKey 1 n7) with | .moved _ => true | _ => false), decide (d.clusterAsid 0 = 1),
    after (.battenMergeStep 0) s (fun t => (t.cor 0).batten == [] && (t.cor 0).merging == [] && (t.clu 0).purlin.find n7 == some 19662),
    after (.purlinDrainStep 0) d (fun t => (t.clu 0).purlin == [] && (t.clu 0).draining == [] && (t.die 0).beam.find (beamKey 1 n7) == some 13108),
    after (.beamSettleStep 0 (quarterOf n7)) (b 0 [beamKey 1 n7]) (fun t => (t.die 0).beam == [] && (t.footing 0 1 2 .fx128).find n7 == some 5 && memRead t.mem 0x200000 16 == bytesOf n7 8 ++ bytesOf 5 8),
    after (.purlinDrainStep 0) ((keyed [] [] [(0x30000000000001, 0x7D00)] 0 []).modClu 0 (fun k => { k with draining := [0x30000000000001] }) |>.modDie 0 fun x => { x with beam := [(beamKey 1 0x30000000000001, 0x4200)] })
      (fun t => (t.clu 0).pstall.map (·.key) == some (some 0x30000000000001) && (t.clu 0).draining == [] && t.transit.length == 1),
    after (.beamSettleStep 0 (quarterOf n7)) ({ (b 0 [beamKey 1 n7]) with spaces := (b 0 []).spaces.map fun e => (e.1, { e.2 with regions := [(2, { fx with cap := 0 })] }) })
      (fun t => (t.die 0).bstall.map (·.key) == some (some (beamKey 1 n7)) && t.mem == [] && t.transit.length == 1),
    (b 0x1000000 []).quarterIdle 0 (quarterOf n7), (b 0xFFFFFF []).quarterIdle 0 (quarterOf n7) == false,
    after (.beamIdleSettle 0 (quarterOf n7)) (b 0x1000000 []) (fun t => (t.die 0).settling.get [] (quarterOf n7) == [beamKey 1 n7])] = true := by decide +kernel

/-- A list that holds one key again and again has no other. -/
theorem find_replicate {α : Type} (n k i : Nat) (v : α) (h : i ≠ k) : AMap.find (List.replicate n (k, v)) i = none := by
  induction n with
  | zero => rfl
  | succ n ih => simp [List.replicate_succ, AMap.find, h, ih]

/-- Hypotheses of EngineEvents and ServiceCalls on a full purlin and a full quarter (R206, R308, R362). -/
theorem witness_full :
    (let c := { Cluster.init with purlin := List.replicate 8192 (n7 + 1, 0) }
     8192 ≤ c.purlin.length ∧ c.purlin.find n7 = none) ∧
    (let d := { Die.init with beam := List.replicate 131072 (beamKey 1 (n7 + 2), 0) }
     131072 ≤ (d.quarter (quarterOf n7)).length ∧ d.beam.find (beamKey 1 n7) = none) := by
  have hq : (quarterOf (beamKey 1 (n7 + 2)) == quarterOf n7) = true := by decide +kernel
  refine ⟨⟨le_of_eq (List.length_replicate ..).symm, find_replicate _ _ _ _ (by decide)⟩, ?_, find_replicate _ _ _ _ (by decide)⟩
  simp only [Die.quarter, List.map_replicate, List.filter_replicate, hq, if_true, List.length_replicate, le_refl]

/-- A step of a core that another of a higher ring position has stepped before in the same cycle (R238), and publications whose
least name is met by a stalled full purlin, or goes on, and a wide one yet at its batten; hypotheses of EngineEvents. -/
theorem witness_merges :
    let s := published .cluster
    let p : Pub := { owner := some 0, release := false, wide := false, batten := [n7], purlin := [], met := false }
    holds [(s.cor 0).pubs == [p], ((published .package).cor 0).pubs == [{ p with wide := true }], ((published .package).cor 1).pubs == [], (s.cor 0).stall == none, (s.clu 0).mergeAt == none,
    after (.battenMergeStep 0) (s.modClu 0 fun k => { k with mergeAt := some ((s.die 0).cycle, 5) }) (fun t => t == s.modClu 0 fun k => { k with mergeAt := some ((s.die 0).cycle, 5) }),
    after (.battenMergeStep 0) (s.modClu 0 fun k => { k with mergeAt := some ((s.die 0).cycle + 1, 5) }) (fun t => (t.cor 0).batten == [] && (t.clu 0).mergeAt == some (0, 0)),
    after (.battenMergeStep 0) s (fun t => (t.clu 0).mergeAt == some (0, 0))] = true := by decide +kernel

/-- A copy of eight bytes into slot 0 ends (R284), prefetches end (R302, R304), and a filter is cleared (R273). -/
theorem test_die_engines :
    let c : Copy := { isIn := true, thread := 0, slot := 0, va := 0x10078, len := 8, cls := 3, scr := 0x400, pieces := [{ pa := 0x5078, n := 8, bd := false }], written := 0 }
    holds [after (.copyCompletion 0 0) (((slotted .filling []).modCo fun x => { x with slots := x.slots.map fun e => (e.1, { e.2 with running := 1 }) }).modDie 0 fun d => { d with copies := [(0, [c])] })
      (fun t => t.co.scratch.get 0 0x80 == 0x0807060504030201 && (t.co.slot 0).st == .done && (t.die 0).copyQ 0 == [] && t.transit.map (fun p => (p.core, p.msg.cls)) == [(some 0, 3)]),
    after (.copyCompletion 0 0) ((((slotted .filling []).modDie 0 fun d => { d with copies := [(0, [{ c with pieces := [{ pa := 0x1800005078, n := 8, bd := false }] }])] })).modDie 1 fun d => { d with online := false })
      (fun t => (t.co.slot 0).st == .done && t.co.scratch == [] && t.transit.map (fun p => p.msg.words.headD 0) == [0x301]),
    after (.copyCompletion 0 0) ((coreOn (slotted .granted []) fun x => { x with scratch := [(0x80, 9)] }).modDie 0 fun d => { d with copies := [(0, [{ c with isIn := false }])] })
      (fun t => memRead t.mem 0x5078 8 == [9, 0, 0, 0, 0, 0, 0, 0] && (t.die 0).copyQ 0 == [] && t.transit.map (fun p => p.msg.words.headD 0) == [0x800000002]),
    after (.copyCompletion 0 0) ((coreOn (slotted .filling []) fun x => { x with wtq := [{ pa := 0x5079, bytes := [some 0xFF], dev := false }] }).modDie 0 fun d => { d with copies := [(0, [c])] })
      (fun t => t.co.scratch.get 0 0x80 == 0x080706050403FF01 && t.co.isFull 0x80),
    after (.prefetchServe 0) (prefetching 2) (fun t => (t.die 0).xpf.map (·.id) == [2]),
    after (.prefetchDeadline 0) { (prefetching 2) with tick := 100 } (fun t => (t.die 0).xpf == []),
    after (.prefetchDeadline 0) { (prefetching 2) with tick := 99 } (fun t => (t.die 0).xpf.length == 2),
    after (.mscFilterClear 0) (base.modDie 0 fun d => { d with filter := [(1, true)] }) (fun t => (t.die 0).filter == [])] = true := by decide +kernel

/-- Two waves of a launch whose one context waits in `grp.quiet` while another is parked (R301). -/
def quieted (w : Option (Nat × Nat × Nat)) : State :=
  let s := (coreOn base fun c => { c with nctx := 2, sentCount := 3, recvCount := 3 }).modThr 0 fun t =>
    { t with st := .waiting, wait := some { kind := .quiet, d := 4, since := 0, e := 15 } }
  { (s.modThr 1 fun t => { t with st := .parked }) with launches := [(1, { Launch.init with wave := w })] }

theorem test_waves : holds [
    after (.quiescenceWave 1) (quieted none) (fun t => (t.launchOf 1).wave == some (3, 3, 0) && t.th.st == .waiting),
    after (.quiescenceWave 1) (quieted (some (2, 3, 0))) (fun t => (t.launchOf 1).wave == some (3, 3, 0) && t.th.st == .waiting),
    after (.quiescenceWave 1) (quieted (some (3, 3, 0))) (fun t => t.th.rg 4 == 0x100 && wentOn t && t.transit.length == 1),
    after (.quiescenceWave 1) ((quieted (some (3, 3, 0))).modDie 0 fun d => { d with clock := { d.clock with t0 := some 0 } }) (fun t => t.th.st == .waiting && (t.launchOf 1).wave == some (3, 3, 0))] = true := by decide +kernel

/-- A lathe with a request of core 0 at its head, over a scratchpad with these bytes; and the request's block from its fields. -/
def latheOn (block : List Byte) (scr : List (Nat × List Byte)) : State :=
  (coreOn lathed fun c => scr.foldl (fun c e => c.scrWrite e.1 e.2) c).modClu 0 fun k =>
    { k with lathe := [{ core := 0, cls := 5, tag := 0xAB, tabs := [], tacc := 7, answer := none, block := block }] }
def latheBlock (kind sub : Nat) (f : List Nat) : List Byte :=
  bytesOf (kind + 256 * sub) 4 ++ f.flatMap (fun x => bytesOf x 4) ++ bytesOf 0 (36 + 4 * (6 - f.length))

/-- The request is run: its reply's words 1 to 3, and a property of the core. -/
def latheGives (s : State) (status nfail first flen poison bytes : Nat) (p : Core → Bool) : Bool :=
  after (.latheRequestStart 0) s fun t => p t.co && (t.clu 0).lathe.map (fun x => (x.answer.map fun a => a.drop 1)) ==
    [some [BitVec.ofNat 64 (((s.clu 0).lathe.map fun x => fieldOf x.block 0 1).headD 0 + 2 ^ 8 * status + 2 ^ 16 * nfail + 2 ^ 32 * first), BitVec.ofNat 64 (flen + 2 ^ 32 * poison), BitVec.ofNat 64 bytes, 7]]

/-- Table 11-12; a raw chunk, an input that is short, one that is long, a literal past its end, offsets that fall, and a request
past the extents (R242, R243, R246); hypotheses of Decompresses. -/
theorem test_decompress :
    let req := fun (sub n z : Nat) => latheBlock 1 sub [0x600, 0x800, 0x700, 0, n, z]
    let one := fun (sub z : Nat) (bs : List Byte) => latheOn (req sub 1 z) [(0x600, bs), (0x700, bytesOf (2 ^ 32 * bs.length) 8)]
    holds [latheGives (latheOn (req 1 2 8) []) 1 1 1 8 0 16 (fun c => c.scrRead 0x800 16 == 0xCCBBAA && c.isFull 0x100 && c.isFull 0x101),
    latheGives (coreOn (latheOn (req 1 2 8) [(0x800, bytesOf (2 ^ 192 - 1) 24)]) fun c => { c with empty := [(0x101, true), (0x102, true)] }) 1 1 1 8 0 16 (fun c => c.scrRead 0x800 24 == 2 ^ 192 - 2 ^ 128 + 0xCCBBAA && c.isFull 0x101 && !c.isFull 0x102),
    latheGives (one 0 8 [1, 2, 3, 4, 5, 6, 7, 8]) 0 0 0 0 0 8 (fun c => c.scrRead 0x800 8 == 0x0807060504030201), latheGives (one 0 16 [1, 2, 3]) 3 1 0 3 0 8 (fun c => c.scrRead 0x800 8 == 0x030201),
    latheGives (one 1 8 [0x03, 1, 2]) 4 1 0 2 0 8 (fun c => c.scrRead 0x800 8 == 0x0201), latheGives (latheOn (req 1 1 8) [(0x700, bytesOf 5 8)]) 5 1 0 0 0 0 (fun c => c.scrRead 0x800 8 == 0),
    latheGives (latheOn (req 1 1 12) []) 8 0 0 0 0 0 (fun c => c == lathed.co), latheGives (latheOn (req 2 1 8) []) 8 0 0 0 0 0 (fun _ => true)] = true := by decide +kernel

/-- A transposition of 2 by 3 elements of 2 bytes, one that overlaps, a re-encoding of the block of Table 3-8 into its own width and
to `blk8`, and headers that fail (R242, R244, R245); hypotheses of Transposes and Reencodes. -/
theorem test_transpose_reencode :
    let src := (0x600, [1, 0x11, 2, 0x12, 3, 0x13, 4, 0x14, 5, 0x15, 6, 0x16])
    let recode := fun (sub hdr : Nat) => latheOn (latheBlock 3 sub [0x600, 0x800, 0x610, 0x810, 1, 3]) [(0x600, bytesOf 0x1A13D7 8), (0x610, bytesOf hdr 2)]
    holds [latheGives (latheOn (latheBlock 2 1 [0x600, 0x800, 2, 3]) [src]) 0 0 0 0 0 16 (fun c => c.scrRead 0x800 12 == 0x160613031505120214041101),
    latheGives (latheOn (latheBlock 2 1 [0x600, 0x608, 2, 3]) [src]) 8 0 0 0 0 0 (fun _ => true),
    latheGives (recode 0 0xE3E1) 0 0 0 0 0 16 (fun c => c.scrRead 0x800 8 == 0x1A13D7 && c.scrRead 0x810 2 == 0xE3E1),
    latheGives (recode 0 0xE3E9) 9 0 0 0 0 0 (fun c => c.scrRead 0x810 2 == 0)] = true := by decide +kernel

/-- The reply goes out (R246). -/
theorem test_lathe_reply : holds [
    after (.latheReply 0) (lathed.modClu 0 fun k => { k with lathe := [{ core := 0, cls := 5, tag := 0xAB, tabs := [], tacc := 0, block := [], answer := some [1, 2] }] })
      (fun t => (t.clu 0).lathe == [] && t.transit.map (fun p => (p.core, p.msg.cls, p.msg.words)) == [(some 0, 5, [1, 2, 0, 0, 0])])] = true := by decide +kernel

/-! ## Launches (R289 to R296, R318) -/

/-- A record of lid 7 and address space 1 in a state, with priority 1 and one context per core. -/
def rec7 (st : Nat) (flags : Nat) (dep : Nat) : LqRec :=
  ((((((LqRec.free.put 0 2 7).put 2 2 1).put 4 1 1).put 5 1 flags).put 6 1 1).put 7 1 st).put 0x28 2 dep

/-- Launch 7 on core 0, whose record stands in slot 3 of die 0. -/
def launched (r : LqRec) : State :=
  { ({ State.reset with started := true, launches := [(7, { Launch.init with asid := 1, set := [0] })] }.modDie 0 fun d => { d with lq := [(3, r)] }) with
    spaces := [(1, { root := 0x100000, regions := [], recs := [], sdata := [], digest := 0, sects := [], subs := [], foots := [], serial := 0 })] }

/-- `launched` while it runs: thread 0 in a state. -/
def running7 (st lq : Nat) (x : CtxState) : State :=
  ((launched (rec7 lq 0 0)).modCor 0 fun c => { c with launch := some 7, asid := 1, nctx := st, scr := 0x40000 }).modThr 0 fun t => { t with st := x }

/-- `launched` where the cluster of its core holds a keyed entry of address space 2 (R221). -/
def holding : State :=
  ((launched (rec7 1 0 0)).modCor 1 fun c => { c with asid := 2 }).modClu 0 fun k => { k with purlin := [(n7, 1)] }

/-- Launch 7 starts, alone and as a launch of several dies, and its priority rises (R291, R292, R318). -/
theorem test_launch_start : holds [
    (((launched (rec7 1 0 0)).nextStart 0).map fun r => r.lid) == some 7, ((launched (rec7 1 2 0)).nextMulti.map fun r => r.lid) == some 7,
    ((launched (rec7 1 0 9)).nextStart 0).isNone, (launched (rec7 1 0 0)).toClear 1 [0] == [],
    after (.launchStart 0) (launched (rec7 1 0 0)) (fun t => (t.cor 0).launch == some 7 && (t.cor 0).asid == 1 && (t.cor 0).nctx == 1 && (t.thr 0).st == .ready && t.lstate 7 == lqRunning),
    after .multiDieLaunchStart (launched (rec7 1 2 0)) (fun t => (t.cor 0).launch == some 7 && t.lstate 7 == lqRunning),
    holding.toClear 1 [0] == [0], after (.launchStart 0) holding (fun t => t.clearing 0 && (t.cor 0).launch == none && t.threads == []),
    after .multiDieLaunchStart (holding.modDie 0 fun d => { d with lq := [(3, rec7 1 2 0)] }) (fun t => t.clearing 0 && (t.cor 0).launch == none),
    after (.launchPriorityPromotion 0) { (launched (rec7 1 0 9)) with tick := 0x100000 } (fun t => (t.lqRec 0 3).prio == 2 && (t.lqRec 0 3).since == 0x100000),
    after (.launchPriorityPromotion 0) { (launched (rec7 1 0 9)) with tick := 0xFFFFF } (fun t => (t.lqRec 0 3).prio == 1)] = true := by decide +kernel

/-- It ends; it is saved; it is resumed (R290, R293, R294). -/
theorem test_launch_end :
    let saved := match exec (.launchSaveComplete 7) (running7 1 lqSaving .saved) with | .next t => t | _ => base
    let again := saved.modLaunch 7 fun l => { l with resume := true }
    holds [(running7 1 lqRunning .ended).launchOver 7, (running7 1 lqRunning .ready).launchOver 7 == false,
    after (.launchEnd 7) (running7 1 lqRunning .ended) (fun t => (t.cor 0).launch == none && t.lstate 7 == lqEnded),
    after (.launchEnd 7) ((running7 1 lqRunning .ended).modCor 0 fun c => { c with batten := [(n7, 1)] }) (fun t => (t.launchOf 7).flushing && (t.cor 0).launch == some 7 && (t.cor 0).pubs.map (·.owner) == [none]),
    after (.launchSaveComplete 7) ((running7 1 lqSaving .saved).modCor 0 fun c => { c with batten := [(n7, 1)] }) (fun t => (t.launchOf 7).flushing && (t.cor 0).launch == some 7),
    after (.launchResumeStart 7) ((again.modCor 0 fun c => { c with asid := 2 }).modClu 0 fun k => { k with purlin := [(n7, 1)] }) (fun t => t.clearing 0 && (t.cor 0).launch == none),
    (running7 1 lqSaving .saved).imageReady 7, saved.lstate 7 == lqSaved, (saved.cor 0).launch == none, ((saved.launchOf 7).images.find 0).isSome,
    again.resumable 7, again.toClear 1 (again.launchOf 7).clusters == [],
    after (.launchResumeStart 7) again (fun t => (t.cor 0).launch == some 7 && (t.thr 0).st == .ready && t.lstate 7 == lqRunning && (t.launchOf 7).images == [])] = true := by decide +kernel

/-- The commands of `lqcmd` where they are accepted and where `lqstat` is 2 (R290, R293 to R296); a DEVICE write. -/
theorem test_lq_commands : holds [
    after (.lqSubmit 0 3) { (launched (rec7 0 0 0)) with tick := 9 } (fun t => (t.die 0).lqstat == 0 && (t.lqRec 0 3).state == lqQueued && (t.lqRec 0 3).enq == 9),
    after (.lqSubmit 0 3) ((launched (rec7 0 0 0)).modDie 0 fun d => { d with lq := d.lq ++ [(4, rec7 1 0 0)] }) (fun t => (t.die 0).lqstat == 2 && (t.lqRec 0 3).state == lqFree),
    after (.lqSubmit 1 3) ((launched (rec7 1 2 0)).modDie 1 fun d => { d with lq := [(3, (rec7 0 2 0).put 0x40 64 4)] }) (fun t => (t.die 1).lqstat == 0 && (t.launchOf 7).set == [0, 514]),
    after (.lqSubmit 0 3) (launched (rec7 5 0 0)) (fun t => (t.die 0).lqstat == 2), after (.lqFree 0 3) (launched (rec7 5 0 0)) (fun t => (t.die 0).lqstat == 0 && (t.die 0).live == []),
    after (.lqFree 0 3) (launched (rec7 6 0 0)) (fun t => t.launches == []), after (.lqFree 0 3) (launched (rec7 2 0 0)) (fun t => (t.die 0).lqstat == 2),
    after (.lqPreempt 0 7) (running7 1 lqRunning .ready) (fun t => (t.die 0).lqstat == 1 && t.lstate 7 == lqSaving && (t.thr 0).saveFrom == some 0),
    after (.lqResume 0 7) (launched (rec7 4 0 0)) (fun t => (t.die 0).lqstat == 1 && (t.launchOf 7).resume), after (.lqResume 0 7) (launched (rec7 1 0 0)) (fun t => (t.die 0).lqstat == 2),
    after (.lqStop 0 7) (running7 1 lqRunning .ready) (fun t => (t.die 0).lqstat == 1 && (t.launchOf 7).stopping && (t.thr 0).st == .ended),
    after (.lqStop 0 7) (launched (rec7 1 0 0)) (fun t => (t.die 0).lqstat == 0 && t.lstate 7 == lqStopped), after (.lqPreempt 0 8) base (fun t => (t.die 0).lqstat == 2),
    okAnd ((launched (rec7 0 0 0)).devWrite 0x8000000001180 8 0x70001) (fun t => (t.lqRec 0 3).lid == 1),
    after (.deviceRegisterWrite 0x8000000001180 8 0x70001) (launched (rec7 0 0 0)) (fun t => (t.lqRec 0 3).lid == 1)] = true := by decide +kernel

/-! ## The package (R275, R297, R305 to R307, R315, R321, R322, R356, R365, R367, R371) -/

/-- `base` with the clock of die 0 changed. -/
def clocked (f : Clock → Clock) : State := base.modDie 0 fun d => { d with clock := f d.clock }

/-- A clock's step at the bounds of m, its relock, and the temperature. -/
theorem test_clock : holds [
    after (.dclkTargetWrite 0 0x800) (clocked id) (fun t => (t.die 0).clock.target == 8 && (t.die 0).clock.next == some 8 && (t.die 0).clock.m == 17),
    after (.dclkTargetWrite 0 0x1300) (clocked id) (fun t => (t.die 0).clock.target == 19), after (.dclkTargetWrite 0 0x1400) (clocked id) (fun t => (t.die 0).clock.target == 17),
    after (.dclkTargetWrite 0 0x700) (clocked id) (fun t => (t.die 0).clock.target == 17),
    after (.dclkTargetWrite 0 0x800) (clocked fun c => { c with next := some 9 }) (fun t => (t.die 0).clock.target == 17),
    after (.clockRelockEnd 0) { (clocked fun c => { c with next := some 17, m := 10, t0 := some 100 }) with tick := 2100 }
      (fun t => (t.die 0).clock.m == 17 && (t.die 0).clock.next == none && (t.die 0).cycle == 3400),
    after (.dclkTargetWrite 0 0x1300) { (clocked id) with tick := 5 } (fun t => (t.die 0).clock.t0 == some 5 && (t.die 0).clock.next == some 19),
    after (.clockRelockEnd 2) ((base.modDie 2 fun d => { d with clock := { d.clock with next := some 8, t0 := some 0 } }).modThr 5 fun t => { t with st := .waiting, pc := 0x2000, wait := some { kind := .relock 2 0, d := 0, since := 0, e := 15 } })
      (fun t => (t.thr 5).st == .ready && (t.thr 5).pc == 0x2000),
    after (.hbmRetrainRequest 0 0 3) base (fun t => t == base),
    after (.thermalStepDown 0) (clocked id) (fun t => (t.die 0).clock.hot && (t.die 0).clock.next == some 8),
    after (.thermalRecovery 0) (clocked fun c => { c with m := 8, hot := true }) (fun t => !(t.die 0).clock.hot && (t.die 0).clock.next == some 17)] = true := by decide +kernel

/-- `running7` in SAVING with its save writing to a stack of die 0. -/
def savingTo (k : Nat) : State := (running7 1 lqSaving .saved).modLaunch 7 fun l => { l with saveStack := [(0, k)] }

/-- Retraining of a stack, at once and after a save, and a stack that fails. -/
theorem test_hbm :
    let late := { ((savingTo 1).modStack 0 1 fun h => { h with deferred := some (0, 5) }) with tick := 2000005 }
    holds [(savingTo 1).savesTo 0 1, (savingTo 1).savesTo 0 0 == false, late.deferralOver 0 1, { late with tick := 2000004 }.deferralOver 0 1 == false,
    after (.hbmRetrainRequest 0 0 1) (savingTo 1) (fun t => ((t.die 0).stack 0).target == some 1),
    after (.hbmRetrainRequest 0 1 0) (savingTo 1) (fun t => ((t.die 0).stack 1).target == none && ((t.die 0).stack 1).deferred == some (0, 0)),
    after (.hbmRetrainEnd 0 0 true) (base.modStack 0 0 fun h => { h with target := some 1 }) (fun t => (t.die 0).stack 0 == { rate := 1, target := none, deferred := none, asked := none, failed := false }),
    after (.hbmRetrainRequest 0 1 1) (base.modStack 0 0 fun h => { h with asked := some 0 }) (fun t => (t.die 0).stack 1 == (base.die 0).stack 1),
    after (.hbmRetrainRequest 0 1 1) ({ base with tick := 2000000 }.modStack 0 0 fun h => { h with asked := some 0 }) (fun t => ((t.die 0).stack 1).target == some 1 && ((t.die 0).stack 1).asked == some 2000000),
    after (.hbmRetrainRequest 0 1 1) { ((savingTo 1).modStack 0 1 fun h => { h with deferred := some (0, 5) }) with tick := 7 } (fun t => ((t.die 0).stack 1).deferred == some (1, 5)),
    after (.hbmRetrainEnd 0 1 false) (base.modStack 0 1 fun h => { h with target := some 1 }) (fun t => ((t.die 0).stack 1).failed),
    after (.retrainDeferralExpiry 0 1) late (fun t => ((t.die 0).stack 1).target == some 0 && t.movedTo 0 0),
    after (.hbmPhyError 0 1) (savingTo 1) (fun t => (t.launchOf 7).saveStack.find 0 == some 2)] = true := by decide +kernel

/-- Links and ports that go down, a page that is unmapped, and a die that goes offline. -/
theorem test_losses :
    let s := { (tabled []) with used := [(0x5000, 4096), (0x6000, 4096)], cxlUp := [0, 1], events := [4] }
    holds [after (.linkRetrainFailure 16) s (fun t => t.links == List.range 16), after (.cxlLinkDown 0) s (fun t => t.cxlUp == [1]),
    after (.portDown 15) s (fun t => t.ports == List.range 15), (findLeaf s.mem 0x10000 4 0x100000).map (·.pte) == some 0x5027,
    after (.unmapMigrate 1 0x10000 none) s (fun t => t.used == [(0x6000, 4096)] && t.co.tlb.all (·.va != 0x10000) && t.co.tlb.length == 4 && memWord t.mem 0x104080 == 0x5026),
    after (.dieOfflineMark 1) s (fun t => !(t.die 1).online && t.events == [4, 1] && !t.ports.contains 1 && t.cxlUp == [0]),
    after (.heartbeatTimeout 0) s (fun t => !(t.die 0).online && t.events == [4, 0]), after (.thermalOfflineTimeout 11) s (fun t => !(t.die 11).online)] = true := by decide +kernel

/-- What the hardware finds where everything works. -/
def sound : StartReport :=
  { svcOk := List.range 12, images := List.replicate 5 (some 7), pkg := 3, hbm := (List.range 24).map fun i => (i, 2), links := List.range 17,
    cxl := [], ports := List.range 16 }

/-- Start-up where everything works, where no stack of the dies trains, with one image or another that does not verify, with no
configuration, and with no link (R367). -/
theorem test_start_up : holds [
    startGood sound, startGood { sound with images := [none, some 7, some 7, some 7, some 7] }, startGood { sound with images := [some 7, some 7, some 7, none, some 7] } == false,
    startGood { sound with images := List.replicate 5 none } == false, startGood { sound with links := [] } == false,
    after (.startUp sound) base (fun t => t.started && t.pkg == 3 && t.threads == [] && (t.die 11).online && t.cores == []),
    after (.startUp { sound with images := [some 7, some 7, some 7, some 7, none] }) base (fun t => !t.started && t.pkg == 3),
    after (.startUp { sound with hbm := [] }) base (fun t => t.started && !(t.die 0).online),
    after (.startUp { sound with links := [] }) base (fun t => !t.started && t.threads == [])] = true := by decide +kernel

/-! ## The service (R110, R356 to R364, R366, R369) -/

/-- Thread 0x23 of `calling` has made a call, which the service has received; its block is at 0x400. -/
def called (k : Word) (bs : List Byte) : State :=
  let s := (calling.modCor 2 fun c => { c.scrWrite 0x400 bs with asid := 1 }).modThr 0x23 fun t => { t with ktvec := 0 }
  let s := { s with spaces := [(1, { root := 0x100000, regions := [(2, { fx with dmg := [0] })], recs := [], sdata := [], digest := 7, sects := [], subs := [], foots := [], serial := 0 })] }
  let s := s.trapNow { cause := 0xA0, info := k, aux := 0x400 }
  { s with service := s.transit, transit := [] }

/-- The call is answered with a status in `g10`, and its thread goes on. -/
def answered (status : Word) (t : State) : Bool := (t.thr 0x23).st == .ready && (t.thr 0x23).rg 10 == status && (t.thr 0x23).pc == 0x10A44

/-- A block with 8-byte fields (Table 19-3). -/
def block (w : List Nat) : List Byte := w.flatMap fun x => bytesOf x 8

/-- The hypothesis that the statements on calls make of these states, at a call's number, register and block. -/
theorem witness_called : holds [
    (called 1 []).callAt 0x23 == some { thread := 0x23, k := 1, ga := 0x400, reg := 10 },
    (((called 1 (block [5, 6])).takeCall 0x23).callBlock { thread := 0x23, k := 1, ga := 0x400, reg := 10 } 64).map (fun x => (x.1, fieldOf x.2 0 8, fieldOf x.2 8 8)) == some (0x400, 5, 6),
    (((called 5 []).takeCall 0x23).callBlock { thread := 0x23, k := 5, ga := 0x400, reg := 10 } 496).isSome, blockClean (block [0x20000000, 0, 0, 0, 0, 0, 0x300, 0])] = true := by decide +kernel

/-- EXPORT, UNEXPORT, DIESTAT and KRESTORE; the hypotheses of their clauses, with the last free id for EXPORT. -/
theorem test_service_calls :
    let w : Window := { asid := 1, kind := .memory, rights := 3, off := 0x10000, len := 0x1000 }
    let s := { (called 1 (block [0x100000000000, 0x10000, 0, 0, 0, 0, 0x300, 0])) with windows := (List.range 255).map fun i => (i, { w with asid := 2 }) }
    holds [(s.windowOf 0x23 (block [0x100000000000, 0x10000, 0, 0, 0, 0, 0x300, 0])) == some w, s.freeWins == [255],
    after (.exportWindow 0x23) (called 1 (block [0x100000000000, 0x10000, 0, 0, 0, 0, 0x300, 1])) (answered 8), after (.krestore 0x23) (called 4 (block [0, 0, 0, 2, 0, 0, 0x10000])) (answered 8),
    after (.unexportWindow 0x23) { (called 2 (block [0x50000])) with windows := [(5, w)], remoteWaits := [{ work := .op { ep := 0x20001, seq := 9, kind := .rread, win := 5, aop := 0, len := 8, off := 0, val := 1, cmp := 0, data := [] }, since := 0 }] }
      (fun t => t.windows == [(5, { w with closing := true })] && (t.thr 0x23).st == .trapped),
    after (.callAttest 0x23) (called 5 []) (answered 0),
    after (.unexportWindow 0x23) { (called 2 (block [0x50000])) with windows := [(5, w), (6, w)] } (fun t => answered 0 t && t.windows == [(6, w)]),
    after (.unexportWindow 0x23) { (called 2 (block [0x50000])) with windows := [(5, { w with asid := 2 })] } (answered 9),
    after (.diestat 0x23) ((called 3 []).modDie 4 fun d => { d with online := false }) (fun t => answered 0 t && (t.cor 2).scratch.get 0 0x80 == 0xFEF),
    after (.krestore 0x23) (called 4 (block [0, 0, 0, 2])) (answered 13), ((called 4 []).spaces.find 1).isSome,
    after (.exportWindow 0x23) (called 1 (block [0, 4, 0, 0, 0, 0, 0x100])) (answered 8), after (.diestat 0x23) ((called 3 []).modCor 2 fun c => { c with scr := 0x43F }) (answered 8)] = true := by decide +kernel

/-- The clause on a checkpoint: one whose digests match its images. -/
theorem witness_checkpoint : ({ tick := 0, mem := [], areas := [], foots := [], serials := [], ports := [], digests := imageDigests [] [] [] } : Ckpt).good = true := by
  simp [Ckpt.good]

/-- A checkpoint of address space 1 with the entry of name `n7` in its footing on die 0. -/
def kept : Ckpt :=
  let m := memWrite [] 0x200000 (bytesOf n7 8 ++ bytesOf 5 8 ++ bytesOf 0 8)
  { tick := 0, mem := m, areas := [], foots := [(0x1002, (0x200000, 1))], serials := [(1, 0)], ports := [], digests := imageDigests m [] [(0x1002, (0x200000, 1))] }

/-- Hypotheses of the clause on KRESTORE: the latest checkpoint is good and has a key of a damaged die, taken of this address space
or not (R2, R317, R366). -/
theorem witness_restore :
    kept.good = true ∧ ∃ s : State, s = { (called 4 (block [2])) with ckpts := [kept] } ∧ s.ckpts = [] ++ kept :: [] ∧
      holds [(s.spaces.find 1).map (·.serial) == some 0, (kept.lostKeys 1 2 0 { fx with dmg := [0] }).map (·.1) == [n7],
        kept.lostKeys 1 2 1 { fx with dmg := [0] } == [], fx.lostDies == []] = true :=
  ⟨by simp [Ckpt.good, kept], _, rfl, rfl, by decide +kernel⟩

/-- A pending call of thread 0x23 of `called`. -/
def pending (k : Word) (e tick : Nat) : State :=
  { (called k (block [2, 0, 0x500])) with calls := [{ thread := 0x23, seq := 4, block := 0x400, since := 10, e := e }], tick := tick }

/-- Remote calls go out under the next number, and end with their reply or at their limit (R361). -/
theorem test_remote_calls :
    let go := fun (i : Instr) (k : Word) (w : List Nat) (kind : RemoteKind) => after i { (called k (block w)) with outSeq := [(1, 41)] } fun t =>
      t.outbox.map (fun o => (o.1, o.2.kind, o.2.seq, o.2.ep, o.2.win)) == [(2, kind, 42, 1, 5)] && t.calls.map (fun c => (c.thread, c.seq)) == [(0x23, 42)] &&
      (t.thr 0x23).st == .trapped && (t.cor 2).scrRead 0x414 4 == 42
    holds [go (.rread 0x23) 0x10 [0x800050002, 0, 0x500] .rread, go (.rwrite 0x23) 0x11 [0x100000050002, 0, 0x500] .rwrite,
    go (.ramo 0x23) 0x12 [0x19050002, 8] .ramo, go (.rkey 0x23) 0x13 [0x05050002, 0] .rkey, go (.rmsg 0x23) 0x14 [0x800050002, 0, 0x500] .rmsg,
    sendRange .rread 0 4096 0x500 0x1500, sendRange .rread 0 4096 0x508 0x1500 == false, sendRange .rmsg 0 8 0x500 0x540,
    after (.remoteReplyArrival { ep := 1, seq := 4, status := 0, old := 0, data := [7, 8] }) (pending 0x10 1 0) (fun t => answered 0 t && t.calls == [] && (t.cor 2).scrByte 0x501 == 8),
    after (.remoteReplyArrival { ep := 1, seq := 4, status := 0, old := 9, data := [] }) (pending 0x12 1 0) (fun t => answered 0 t && (t.cor 2).scrRead 0x428 8 == 9),
    after (.remoteReplyArrival { ep := 1, seq := 5, status := 0, old := 0, data := [] }) (pending 0x10 1 0) (fun t => t.calls.length == 1),
    after (.lateReplyDiscard { ep := 1, seq := 5, status := 0, old := 0, data := [] }) (pending 0x10 1 0) (fun t => t == pending 0x10 1 0),
    after (.remoteCallTimeout 0x23) (pending 0x10 1 138) (fun t => answered 1 t && t.calls == []), after (.remoteCallTimeout 0x23) (pending 0x10 1 137) (fun t => t.calls.length == 1),
    after (.remoteCallTimeout 0x23) (pending 0x10 0 10) (answered 1), ((pending 0x10 1 0).callFor { ep := 1, seq := 4, status := 0, old := 0, data := [] }).isSome] = true := by decide +kernel

/-- `tabled` with window 0 over the PLAIN page at 0x10000, and an operation of package 2. -/
def windowed : State := { (tabled []) with windows := [(0, { asid := 1, kind := .memory, rights := 7, off := 0x10000, len := 0x1000 })] }
def opOf (kind : RemoteKind) (off : Word) : RemoteOp :=
  { ep := 0x20001, seq := 9, kind := kind, win := 0, aop := 0x11, len := 8, off := off, val := 1, cmp := 0, data := [9, 8, 7, 6, 5, 4, 3, 2] }

/-- Operations at their target: a read, a write, an `amo.add`, a range that ends outside, and one performed once (R361, R362). -/
theorem test_remote_ops :
    let gives := fun (op : RemoteOp) (status : Nat) (old : Word) (data : List Byte) (p : State → Bool) => after (.remoteOpArrival op) windowed fun t =>
      t.netOut == [{ ep := 0x20001, seq := 9, status := status, old := old, data := data }] && p t && (t.cached 0x20001 9).isSome
    holds [gives (opOf .rread 0x78) 0 0 [1, 2, 3, 4, 5, 6, 7, 8] (fun _ => true), gives (opOf .rwrite 0x78) 0 0 [] (fun t => memRead t.mem 0x5078 2 == [9, 8]),
    gives (opOf .ramo 0x78) 0 0x0807060504030201 [] (fun t => memGet t.mem 0x5078 == 2), gives (opOf .rread 0x1000) 8 0 [] (fun _ => true), gives (opOf .rmsg 0) 10 0 [] (fun _ => true),
    after (.remoteOpArrival (opOf .rread 0x2000)) { windowed with windows := [(0, { asid := 1, kind := .memory, rights := 7, off := 0x10000, len := 0x3000 })], slices := (tenured 16 true).slices, tick := 3 }
      (fun t => t.remoteWaits.map (·.since) == [3] && t.netOut == []),
    after (.remoteOpArrival (opOf .rread 0x78)) { windowed with windows := [] } (fun t => t.netOut.map (·.status) == [9]),
    after (.remoteOpArrival (opOf .rwrite 0x78)) (windowed.saveReply { ep := 0x20001, seq := 9, status := 0, old := 0, data := [] }) (fun t => t.netOut.length == 1 && memGet t.mem 0x5078 == 1)] = true := by
  decide +kernel

/-- `rkey` on a window of region 2: an update that goes to the beam, one of another region, and one that meets a full quarter of a
stalled beam or waits for it (R205, R360, R362); hypotheses of ServiceCalls. -/
theorem test_rkey :
    let w : Window := { asid := 1, kind := .keyed, rights := 8, off := 2, len := 0 }
    let s := { (keyed [] [] [] 0 []) with windows := [(5, w)] }
    let op := fun (name : Word) => { ep := 0x20001, seq := 9, kind := RemoteKind.rkey, win := 5, aop := 5, len := 8, off := 0, val := name, cmp := 0x3DCCCCCD, data := [] }
    holds [fx.vt.code == 5, s.regionAt 1 2 == some fx, s.keyHome fx n7 == 0,
    after (.remoteOpArrival (op 0x20000000000007)) s (fun t => t.netOut.map (·.status) == [0] && (t.die 0).beam.find (beamKey 1 n7) == some 6554),
    after (.remoteOpArrival (op 0x30000000000007)) s (fun t => t.netOut.map (·.status) == [10] && (t.die 0).beam == [])] = true := by decide +kernel

/-! ## Requests of hosts (R316, R364, R375) -/

/-- A request of endpoint 0xFFFF0001. -/
def h1 : HostHdr := { ep := 0xFFFF0001, seq := 1 }

/-- The request is answered once, with a status. -/
def replies (i : Instr) (s : State) (status : Nat) (p : State → RemoteReply → Bool) : Bool :=
  after i s fun t => match t.netOut with
    | [r] => r.ep == h1.ep && r.seq == 1 && r.status == status && p t r
    | _ => false

/-- Before start-up, again, and each request but `load` and `submit` with its effect. -/
theorem test_host : holds [
    replies (.hostStatus h1) State.reset 2 (fun _ _ => true),
    after (.hostWrite h1 1 0x10000 [1, 2, 3, 4, 5, 6, 7, 8]) ((tabled []).saveReply { ep := h1.ep, seq := 1, status := 8, old := 0, data := [] }) (fun t => t.netOut.map (·.status) == [8] && memGet t.mem 0x5000 == 0),
    replies (.hostPreempt h1 7) (running7 1 lqRunning .ready) 0 (fun t _ => (t.thr 0).saveFrom == some 0), replies (.hostPreempt h1 7) (launched (rec7 1 0 0)) 2 (fun _ _ => true),
    replies (.hostResume h1 7) (launched (rec7 4 0 0)) 0 (fun t _ => (t.launchOf 7).resume), replies (.hostStop h1 7) (running7 1 lqRunning .ready) 0 (fun t _ => (t.thr 0).st == .ended),
    replies (.hostRead h1 1 0x10078 16) (tabled []) 0 (fun _ r => r.data == (List.range 16).map fun i => BitVec.ofNat 8 (i + 1)), replies (.hostRead h1 1 0x15000 8) (tabled []) 14 (fun _ _ => true),
    okAnd ((tabled []).remoteWords 1 0x10080 [kPlain] true 1) (fun ps => ps == [0x5080]), hostRange 0x10080 4096, hostRange 0x10080 4104 == false,
    after (.hostRead h1 1 0x12000 8) { (tabled []) with slices := (tenured 16 true).slices } (fun t => t.netOut == [] && t.remoteWaits.length == 1),
    replies (.hostCkpt h1) { base with ckptRun := some { hdr := { h1 with seq := 9 }, tick := 0, settled := false, lids := [] }, cxlUp := [0] } 2 (fun _ _ => true),
    after (.hostCkpt h1) ({ base with ckptRun := some { hdr := h1, tick := 0, settled := false, lids := [] }, cxlUp := [0] }.modDie 0 fun d => { d with beam := [(beamKey 1 n7, 5)] })
      (fun t => t.ckptRun.map (·.settled) == some true && (t.die 0).settling.get [] (quarterOf n7) == [beamKey 1 n7]),
    replies (.hostWrite h1 1 0x10080 [1, 2, 3, 4, 5, 6, 7, 8]) (tabled []) 0 (fun t _ => memGet t.mem 0x5081 == 2 && memGet t.mem 0x5088 == 0),
    replies (.hostStatus h1) { base with events := [4] } 0 (fun t r => t.events == [] && r.old == 0xFFF && r.data == bytesOf 0 8 ++ bytesOf 4 8),
    replies (.hostCkpt h1) State.reset 2 (fun _ _ => true), after (.hostCkpt h1) (base.saveReply { ep := h1.ep, seq := 1, status := 3, old := 0, data := [] }) (fun t => t.netOut.map (·.status) == [3] && t.ckptRun == none),
    replies (.hostUnload h1 1) { windowed with windows := windowed.windows ++ [(3, { asid := 2, kind := .memory, rights := 7, off := 0, len := 8 })] } 0 (fun t _ => t.spaces.find 1 == none && t.windows.map (·.1) == [3]),
    after (.hostUnload h1 1) { windowed with remoteWaits := [{ work := .op (opOf .rread 0x78), since := 0 }] } (fun t => t.netOut == [] && t.remoteWaits.length == 2 && (t.spaces.find 1).isSome && t.windows.length == 1),
    replies (.hostUnload h1 1) (launched (rec7 1 0 0)) 2 (fun t _ => (t.spaces.find 1).isSome), (launched (rec7 5 0 0)).spaceBusy 1 == false,
    replies (.hostSubmit h1 9 0 none) base 8 (fun _ _ => true), replies (.hostLoad h1 [1, 2, 3]) base 8 (fun _ _ => true),
    replies (.hostCkpt h1) { (running7 1 lqRunning .ready) with cxlUp := [] } 3 (fun _ _ => true),
    after (.hostCkpt h1) { (running7 1 lqRunning .ready) with cxlUp := [0] } (fun t => t.ckptRun == some { hdr := h1, tick := 0, settled := false, lids := [7] } && t.netOut == [] && t.lstate 7 == lqSaving)] = true := by decide +kernel

/-- Hypotheses of the clause on `submit`: a record over core 0 of die 0, which has a FREE slot. -/
theorem witness_submit :
    let r : LaunchRec := { entry := 0x1000, ctx := 1, prio := 1, scratch := 0, deps := [], classes := [], groups := [], arg := 0, set := [0], extra := [], rtc := false }
    holds [diesOf (r.set ++ r.extra) == [0], (launched (rec7 1 0 0)).freeSlots 0 != [], (launched (rec7 1 0 0)).dieHolds 0 7] = true := by decide +kernel

/-- An object of one null section. -/
def emptyObject : List Byte :=
  bytesOf 0x00010001004F5146 8 ++ bytesOf 0x4000000001 8 ++ bytesOf 0 48 ++ bytesOf 0 32

/-- The object as parsed. -/
def emptyParsed : Obj := (parse emptyObject).getD { file := [], entry := 0, sects := [], syms := [] }

/-- A page can be placed on a die of which nothing is in use. -/
theorem allocPage_unused (s : State) (die n : Nat) (h : s.used = []) (hd : die < 12) (hn : n ≤ hbmBytes) :
    ∃ b t, s.allocPage die n = (some b, t) := by
  unfold State.allocPage
  dsimp only
  split
  · exact ⟨_, _, rfl⟩
  · rename_i heq
    exfalso
    refine List.find?_eq_none.mp heq (placeRange die).1 (List.mem_append_right _ (List.mem_singleton.mpr rfl)) ?_
    have hu : s.draw.2.used = [] := h
    simp only [State.pageFits, State.rangeFree, hu, List.all_nil, Bool.and_true, Bool.and_eq_true, decide_eq_true_eq,
      placeRange, if_pos hd]
    omega

/-- The die that a draw picks is one of the twelve. -/
theorem pick_openDies_lt (s t : State) : (s.pick 0 t.openDies).1 < 12 := by
  simp only [State.pick, List.getD_eq_getElem?_getD]
  rcases h : t.openDies[Config.place s.draw.1 % t.openDies.length]? with _ | x
  · simp
  · have := List.mem_of_getElem? h
    simp only [State.openDies, List.mem_filter, List.mem_range] at this
    simpa using this.1

/-- The first hypothesis on `load`: where no page is in use, the object loads. -/
theorem witness_load (s : State) (hu : s.used = []) (hn : s.loads < 65535) : ∃ t n, s.load emptyObject = .ok (t, n) := by
  have hp : parse emptyObject = some emptyParsed := by decide +kernel
  have hg : emptyParsed.good = true := by decide +kernel
  have hl : emptyParsed.launches = [] := by decide +kernel
  have hs : emptyParsed.sects.zipIdx.map (fun x => (x.1.placed)) = [false] := by decide +kernel
  have ht : itemsOf 72 (emptyParsed.ofKind skTile) = [] := by decide +kernel
  have hk : itemsOf 16 (emptyParsed.ofKind skRegion) = [] := by decide +kernel
  have hr : emptyParsed.relocs = [] := by decide +kernel
  obtain ⟨x, hx⟩ : ∃ x, emptyParsed.sects.zipIdx = [x] := by
    have := congrArg List.length hs
    simp only [List.length_map, List.length_singleton] at this
    exact List.length_eq_one_iff.mp this
  have hx1 : x.1.placed = false := by simpa [hx] using hs
  generalize emptyParsed = o at *
  generalize emptyObject = f at *
  have h0 : ∀ s : State, s.placeAll [] = .ok ([], s) := fun _ => rfl
  have h1 : ∀ (s : State) a, s.reserveAll a [] = .ok ([], s) := fun _ _ => rfl
  have h2 : ∀ (s : State) a, s.openTiles a [] = .ok ([], s) := fun _ _ => rfl
  have h3 : ∀ xs, o.groupHomes xs = [] := fun xs => by unfold Obj.groupHomes; rw [hl]; rfl
  have h4 : ∀ (s : State) r va, s.mapSects r [(x.1, va)] = some s := fun s r va => by unfold State.mapSects; rw [hx1]; rfl
  have h5 : ∀ xs, o.regions xs = [] := fun xs => by unfold Obj.regions; rw [hk]; rfl
  have h6 : ∀ (s : State) a, s.addFoots a [] = some s := fun _ _ => rfl
  have ha : s.freeAsid = some (s.loads + 1) := if_pos hn
  unfold State.load
  simp only [hp, hg, ha, hl, ht, hr, hx, h0, h1, h2, h3, h4, h5, h6, Bind.bind, Except.bind, Bool.not_true, Bool.false_eq_true,
    if_false, List.map_cons, List.map_nil, List.any_nil]
  have hd := pick_openDies_lt s s
  generalize hq : State.pick _ 0 _ = q at hd ⊢
  have hu : q.2.used = [] := by rw [← hq]; exact hu
  obtain ⟨b, t, hb⟩ := allocPage_unused q.2 q.1 4096 hu hd (by decide)
  simp only [hb]
  exact ⟨_, _, rfl⟩
end Sys2Proof.Tests
end

section
/-! PROOFS. The thread's own forms (spec chapter 4): integer immediates, branches and jumps, `kid` and `ktvec`. -/

namespace Sys2Proof.Machine

/-! ## Immediates as numbers (R15) -/

/-- An immediate scaled and added to a word, as one sum of signed numbers. -/
theorem add_simm_mul {n : Nat} (x : Word) (k : BitVec n) (c : Int) :
    x + simm k * BitVec.ofInt 64 c = BitVec.ofInt 64 (x.toInt + k.toInt * c) := by
  rw [BitVec.ofInt_add, BitVec.ofInt_mul, BitVec.ofInt_toInt, simm, BitVec.signExtend]

theorem add_simm {n : Nat} (x : Word) (k : BitVec n) : x + simm k = BitVec.ofInt 64 (x.toInt + k.toInt) := by
  rw [BitVec.ofInt_add, BitVec.ofInt_toInt, simm, BitVec.signExtend]

theorem toInt_simm {n : Nat} (k : BitVec n) (h : n ≤ 64) : (simm k).toInt = k.toInt := BitVec.toInt_signExtend_of_le h

theorem add_joff {n : Nat} (x : Word) (k : BitVec n) : x + joff k = BitVec.ofInt 64 (x.toInt + 4 * k.toInt) := by
  rw [Int.mul_comm]
  exact add_simm_mul x k 4

theorem uimm_eq_ofInt (k : BitVec 21) : uimm k = BitVec.ofInt 64 (k.toInt * 4096) :=
  (BitVec.ofInt_mul k.toInt 4096).symm

theorem flag_decide (p : Prop) [Decidable p] : flag (decide p) = if p then 1 else 0 := by simp [flag]

/-! ## Shifts as numbers (Table 4-8) -/

theorem shiftLeft_eq_ofNat (x : Word) (n : Nat) : x <<< n = BitVec.ofNat 64 (x.toNat * 2 ^ n) :=
  BitVec.eq_of_toNat_eq (by rw [BitVec.toNat_shiftLeft, BitVec.toNat_ofNat, Nat.shiftLeft_eq])

theorem ushiftRight_eq_ofNat (x : Word) (n : Nat) : x >>> n = BitVec.ofNat 64 (x.toNat / 2 ^ n) := by
  rw [← Nat.shiftRight_eq_div_pow, ← BitVec.toNat_ushiftRight, BitVec.ofNat_toNat, BitVec.setWidth_eq]

theorem sshiftRight_eq_ofInt (x : Word) (n : Nat) : x.sshiftRight n = BitVec.ofInt 64 (x.toInt / 2 ^ n) := by
  rw [BitVec.sshiftRight_eq, Int.shiftRight_eq_div_pow, Int.natCast_pow, Nat.cast_ofNat]

/-- The two parts of a rotated word share no bit, so that their union is their sum. -/
theorem rotateRight_eq_ofNat (x : Word) {n : Nat} (h : n < 64) :
    x.rotateRight n = BitVec.ofNat 64 (x.toNat / 2 ^ n + x.toNat * 2 ^ (64 - n)) := by
  have hdisjoint : x >>> n &&& x <<< (64 - n) = 0 := by
    refine BitVec.eq_of_getLsbD_eq fun i _ => ?_
    by_cases hi : i < 64 - n
    · simp [hi]
    · simp [BitVec.getLsbD_of_ge x (n + i) (by omega)]
  rw [BitVec.rotateRight_def, Nat.mod_eq_of_lt h, ← BitVec.add_eq_or_of_and_eq_zero _ _ hdisjoint, BitVec.ofNat_add,
    shiftLeft_eq_ofNat, ushiftRight_eq_ofNat]

/-- A fixed-latency form on one source (R99): everything it does. -/
theorem writesG_alu1 {i : Instr} {s : State} {d a : Reg} {f : Word → Word} {x : Word} (h : exec i s = s.alu1 d a f)
    (hx : f (s.th.rg a) = x) : WritesG i s d x := writesG_outG (hx ▸ h)

/-- Settles O3: each form is one `alu1`, whose function is the row's arithmetic. -/
theorem integerImmediateResult : Obligations.IntegerImmediateResult := by
  unfold Obligations.IntegerImmediateResult
  constructor
  · simp only [immediateResults, List.forall_mem_cons, List.not_mem_nil, false_implies, implies_true, and_true]
    refine ⟨?addi, ?andi, ?ori, ?xori, ?slti, ?sltiu⟩ <;> intro s d a k
    case addi => exact writesG_alu1 (f := (· + simm k)) rfl (add_simm _ k)
    case andi => exact writesG_alu1 (f := (· &&& simm k)) rfl rfl
    case ori => exact writesG_alu1 (f := (· ||| simm k)) rfl rfl
    case xori => exact writesG_alu1 (f := (· ^^^ simm k)) rfl rfl
    case slti =>
      exact writesG_alu1 (f := fun x => flag (decide (x.toInt < (simm k).toInt))) rfl
        (by rw [flag_decide, toInt_simm k (by decide)])
    case sltiu => exact writesG_alu1 (f := fun x => flag (decide (x.toNat < (simm k).toNat))) rfl (flag_decide _)
  · simp only [shiftResults, List.forall_mem_cons, List.not_mem_nil, false_implies, implies_true, and_true]
    refine ⟨?slli, ?srli, ?srai, ?rori⟩ <;> intro s d a n
    case slli => exact writesG_alu1 (f := (· <<< n.toNat)) rfl (shiftLeft_eq_ofNat _ _)
    case srli => exact writesG_alu1 (f := (· >>> n.toNat)) rfl (ushiftRight_eq_ofNat _ _)
    case srai => exact writesG_alu1 (f := (·.sshiftRight n.toNat)) rfl (sshiftRight_eq_ofInt _ _)
    case rori => exact writesG_alu1 (f := (·.rotateRight n.toNat)) rfl (rotateRight_eq_ofNat _ n.isLt)

/-- Settles O4: both forms are one `outG` of the scaled immediate. -/
theorem upperImmediateResult : Obligations.UpperImmediateResult := by
  unfold Obligations.UpperImmediateResult
  intro s d k
  have hlui := writesG_outG (i := .lui d k) (s := s) rfl
  have haddpc := writesG_outG (i := .addpc d k) (s := s) rfl
  rw [uimm_eq_ofInt] at hlui
  rw [uimm, show (4096 : Word) = BitVec.ofInt 64 4096 from rfl, add_simm_mul] at haddpc
  exact ⟨hlui, haddpc⟩

/-! ## Going on at an address (R105, R106) -/

@[simp] theorem th_jumpTo (s : State) (pc : Word) : (s.jumpTo pc).th = { s.th.formOver with pc := pc, st := .ready } :=
  th_modTh s _

theorem onlyThread_jumpTo (s : State) (pc : Word) : OnlyThread s (s.jumpTo pc) := onlyThread_modTh s _

/-- A jump moves `pc` and keeps every register. -/
theorem jumpTo_keeps (s : State) (pc : Word) : Keeps [] [] [] s.th (s.jumpTo pc).th := by
  rw [th_jumpTo]
  exact ⟨fun _ _ => rfl, fun _ _ => rfl, fun _ _ => rfl, ⟨rfl, rfl, rfl⟩, ⟨rfl, rfl, rfl, rfl, rfl⟩, rfl,
    ⟨rfl, rfl, rfl, rfl, rfl⟩, ⟨rfl, rfl⟩⟩

/-- One update of the issuing thread after another is an update of it alone. -/
theorem OnlyThread.trans {s t u : State} (h : OnlyThread s t) (k : OnlyThread t u) : OnlyThread s u := by
  refine ⟨k.cur.trans h.cur, fun v hv => ?_, fun a => (k.mem a).trans (h.mem a), ?_⟩
  · exact (k.others v (h.cur ▸ hv)).trans (h.others v hv)
  · rw [k.rest, h.rest]

/-- A branch (R105): it is taken where its condition holds, and completes at the next word where it does not. -/
theorem branch_result {i : Instr} {s : State} {a b : Reg} {off : BitVec 13} {c : Word → Word → Bool} {p : Prop}
    (h : exec i s = s.branch a b off c) (hp : c (s.th.rg a) (s.th.rg b) = true ↔ p) : ∃ t,
    exec i s = .next t ∧ OnlyThread s t ∧ Keeps [] [] [] s.th t.th ∧ t.th.kstat = s.th.kstat ∧
    t.th.st = .ready ∧ t.th.wait = none ∧ (p → t.th.pc = BitVec.ofInt 64 (s.th.pc.toInt + 4 * off.toInt)) ∧
    (¬ p → NextWord s.th t.th) := by
  rw [State.branch] at h
  by_cases hc : p
  · rw [show c (s.rg a) (s.rg b) = true from hp.mpr hc, if_pos rfl] at h
    refine ⟨_, h, onlyThread_jumpTo s _, jumpTo_keeps s _, ?_, ?_, ?_, fun _ => ?_, fun hn => absurd hc hn⟩ <;>
      rw [th_jumpTo]
    · rfl
    · rfl
    · exact add_joff s.th.pc off
  · rw [show c (s.rg a) (s.rg b) = false from Bool.eq_false_iff.mpr (mt hp.mp hc)] at h
    have hth : s.done.th = s.th.retire := th_modTh s _
    refine ⟨_, h, onlyThread_modTh s _, ?_⟩
    simp only [if_neg Bool.false_ne_true, hth]
    exact ⟨retire_keeps _, retire_kstat _, rfl, rfl, fun ht => absurd ht hc, fun _ => retire_next _⟩

/-- Two words share a set bit where their conjunction is not zero. -/
theorem and_ne_zero_iff (x y : Word) : x &&& y ≠ 0 ↔ ∃ i, x.toNat.testBit i = true ∧ y.toNat.testBit i = true := by
  rw [Ne, ← BitVec.toNat_inj, BitVec.toNat_and, ← Ne, show (0 : Word).toNat = 0 from rfl]
  constructor
  · intro h
    obtain ⟨i, hi⟩ := Nat.exists_testBit_of_ne_zero h
    exact ⟨i, by simpa [Nat.testBit_and] using hi⟩
  · rintro ⟨i, hx, hy⟩ h
    have hi : (x.toNat &&& y.toNat).testBit i = true := by rw [Nat.testBit_and, hx, hy]; rfl
    rw [h, Nat.zero_testBit] at hi
    exact absurd hi (by decide)

/-- Settles O5: `branch_result` with the condition of each row. -/
theorem branchResult : Obligations.BranchResult := by
  unfold Obligations.BranchResult
  simp only [branchConditions, List.forall_mem_cons, List.not_mem_nil, false_implies, implies_true, and_true]
  refine ⟨?eq, ?ne, ?lt, ?ge, ?ltu, ?geu, ?any, ?none⟩ <;> intro s a b off
  case eq => exact branch_result (c := fun x y => x == y) rfl beq_iff_eq
  case ne => exact branch_result (c := fun x y => x != y) rfl bne_iff_ne
  case lt => exact branch_result (c := fun x y => decide (x.toInt < y.toInt)) rfl decide_eq_true_iff
  case ge => exact branch_result (c := fun x y => decide (y.toInt ≤ x.toInt)) rfl decide_eq_true_iff
  case ltu => exact branch_result (c := fun x y => decide (x.toNat < y.toNat)) rfl decide_eq_true_iff
  case geu => exact branch_result (c := fun x y => decide (y.toNat ≤ x.toNat)) rfl decide_eq_true_iff
  case any => exact branch_result (c := fun x y => x &&& y != 0) rfl (bne_iff_ne.trans (and_ne_zero_iff _ _))
  case none =>
    refine branch_result (c := fun x y => x &&& y == 0) rfl (beq_iff_eq.trans ?_)
    rw [← not_exists]
    exact (not_iff_comm.mp (and_ne_zero_iff _ _)).symm

/-- A jump with a link (R106): everything it does. -/
theorem link_result {i : Instr} {s : State} {d : Reg} {target : Word} (h : exec i s = .next (s.link d target)) : ∃ t,
    exec i s = .next t ∧ OnlyThread s t ∧ Keeps [d] [] [] s.th t.th ∧ t.th.kstat = s.th.kstat ∧
    t.th.rg d = (if d = 0 then 0 else s.th.pc + 4) ∧ t.th.pc = target ∧ t.th.st = .ready := by
  have hg := setG_keeps s.th d (s.th.pc + 4)
  have hth : (s.modTh fun t => t.setG d (t.pc + 4)).th = s.th.setG d (s.th.pc + 4) := th_modTh s _
  have hk := jumpTo_keeps (s.modTh fun t => t.setG d (t.pc + 4)) target
  refine ⟨_, h, (onlyThread_modTh s _).trans (onlyThread_jumpTo _ target), hg.1.trans (hth ▸ hk), ?_, ?_, ?_, ?_⟩
  · rw [State.link, th_jumpTo, hth]; exact hg.2.1
  · rw [State.link, hk.g d (by simp), hth, rg_setG_same]
  · rw [State.link, th_jumpTo]
  · rw [State.link, th_jumpTo]

/-- Bits [1:0] of a word are zero where it is a multiple of 4 (R10). -/
theorem bitsAt_low2 (x : Word) : bitsAt x 0 2 = x.toNat % 4 := by simp [bitsAt]

/-- Settles O6: both jumps end in `link`, except `jalr` to a target that fails its check. -/
theorem jumpResult : Obligations.JumpResult := by
  unfold Obligations.JumpResult
  intro s d a off imm target
  have htarget : s.rg a + simm imm = target := add_simm _ imm
  have hexec : exec (.jalr d a imm) s =
      finish s (do trapIf (target.toNat % 4 != 0) cMisaligned target; .ok (s.link d target)) := by
    rw [← htarget, ← bitsAt_low2]; rfl
  refine ⟨?_, fun haligned => ?_, fun hmis => ?_⟩
  · rw [← add_joff]
    exact link_result rfl
  · exact link_result (hexec.trans (by rw [haligned]; rfl))
  · have hb : (target.toNat % 4 != 0) = true := bne_iff_ne.mpr hmis
    exact traps_finish (tr := { cause := cMisaligned, info := target }) hexec (by rw [hb]; rfl)

/-! ## Reading and writing a k-register of the issuing thread (R85, R89) -/

/-- What a claim calls the value of a k-register is what the model reads. -/
theorem readK_own (s : State) (k : KReg) : s.readK s.cur s.th k = kValue s k := by cases k <;> rfl

/-- A k-register reads the same of two threads whose own registers read the same. -/
theorem readK_congr (s : State) (t : Nat) {x y : Thread} {k : KReg} (h : y.readK k = x.readK k) :
    s.readK t y k = s.readK t x k := by
  cases k with
  | kid | kcycle | ktick | kswait => rfl
  | _ => exact h

theorem readK_modTh (s : State) (f : Thread → Thread) (t : Nat) (x : Thread) (k : KReg) :
    (s.modTh f).readK t x k = s.readK t x k := by
  cases k <;> rfl

/-- A k-register that an update of the issuing thread leaves alone. -/
theorem kValue_modTh (s : State) {f : Thread → Thread} {k : KReg} (h : (f s.th).readK k = s.th.readK k) :
    kValue (s.modTh f) k = kValue s k := by
  rw [← readK_own, ← readK_own, readK_modTh, th_modTh]
  exact readK_congr s s.cur h

/-- Completion moves no k-register but the frame's place (R159). -/
theorem retire_readK (t : Thread) {k : KReg} (hcnt : k ≠ .kfcnt) (hidx : k ≠ .kfidx) (hstg : k ≠ .kfstg) :
    t.retire.readK k = t.readK k := by
  obtain ⟨p, c, i, g, h⟩ := advance_form t
  rw [Thread.retire, h]
  cases k with
  | kfcnt => exact absurd rfl hcnt
  | kfidx => exact absurd rfl hidx
  | kfstg => exact absurd rfl hstg
  | _ => rfl

theorem retire_files (t : Thread) : t.retire.g = t.g ∧ t.retire.v = t.v ∧ t.retire.m = t.m := by
  obtain ⟨p, c, i, g, h⟩ := advance_form t
  rw [Thread.retire, h]
  exact ⟨rfl, rfl, rfl⟩

/-- A write of a k-register is one operation in each of its three forms (R89). -/
theorem exec_of_kWrite {i : Instr} {s : State} {a : Reg} {k : KReg} {x : Word} (h : KWrite i s a k x) :
    exec i s = finish s (s.writeOwn k x) := by
  obtain ⟨rfl, rfl⟩ | ⟨rfl, rfl⟩ | ⟨rfl, rfl⟩ := h
  · rfl
  · rw [← readK_own]; rfl
  · rw [← readK_own]; rfl

/-- A value with no bit in the register's RES field passes step 1 of R89. -/
theorem resCheck_ok (s : State) {k : KReg} {x : Word} (h : x.toNat < 2 ^ kBits k) : s.resCheck k x = .ok () := by
  simp only [State.resCheck, Nat.div_eq_of_lt h]
  rfl

/-- A write whose checks pass, of a register that the thread holds. -/
theorem writeOwn_of_checks {s : State} {k : KReg} {x : Word} (hk : k ≠ .kswait)
    (h : s.writeChecks k (s.readK s.cur s.th k) x = .ok ()) :
    s.writeOwn k x = .ok (s.modTh fun t => t.retire.writeK k x) := by
  unfold State.writeOwn
  rw [h]
  cases k with
  | kswait => exact absurd rfl hk
  | _ => rfl

/-- A write that fails a check. -/
theorem writeOwn_of_refused {s : State} {k : KReg} {x : Word} {e : Stop}
    (h : s.writeChecks k (s.readK s.cur s.th k) x = .error e) : s.writeOwn k x = .error e := by
  unfold State.writeOwn
  rw [h]
  rfl

/-! ## `kid` (R85, Table 4-4) -/

/-- `kid` of a context of a launch as one number: the TID below the launch core number. -/
theorem kid_toNat {s : State} {t : Nat} (ht : t < 2 ^ 17) (hc : (s.cor (coreOf t)).lcore < 2 ^ 13) :
    (s.kid t).toNat = (s.cor (coreOf t)).lcore * 2 ^ 32 + t := by
  have hs : isService t = false := by simp [isService]; omega
  rw [State.kid, hs, if_neg Bool.false_ne_true, BitVec.toNat_ofNat]
  omega

/-- A write of `kid` passes every check and changes nothing (R85, R89). -/
theorem writeOwn_kid (s : State) (x : Word) : s.writeOwn .kid x = .ok s.done :=
  writeOwn_of_checks nofun (by unfold State.writeChecks; rw [resCheck_ok s x.isLt]; rfl)

/-- Settles O19: the read gives `kid_toNat`'s number, and each form of write ends in `done`. -/
theorem threadIdentityRegister : Obligations.ThreadIdentityRegister := by
  unfold Obligations.ThreadIdentityRegister
  intro s hcur hcore
  refine ⟨fun d hd => ?_, fun a i hi => ?_⟩
  · obtain ⟨t, ht, -, -, -, hd', -, -⟩ := writesG_outG (i := .sysRdk d .kid) (s := s) (x := s.kid s.cur) rfl
    have hnum := kid_toNat (s := s) hcur hcore
    change _ = s.co.lcore * 2 ^ 32 + s.cur at hnum
    rw [if_neg hd] at hd'
    refine ⟨t, ht, ?_, ?_, ?_, ?_⟩ <;> rw [hd', hnum] <;> omega
  · obtain ⟨x, hx⟩ : ∃ x, KWrite i s a .kid x := by
      obtain rfl | rfl | rfl := hi
      · exact ⟨_, .inl ⟨rfl, rfl⟩⟩
      · exact ⟨_, .inr (.inl ⟨rfl, rfl⟩)⟩
      · exact ⟨_, .inr (.inr ⟨rfl, rfl⟩)⟩
    have hth : s.done.th = s.th.retire := th_modTh s _
    refine ⟨s.done, by rw [exec_of_kWrite hx, writeOwn_kid]; rfl, rfl, ?_, ?_⟩ <;> rw [hth]
    · exact (retire_files s.th).1
    · exact retire_completed s.th

/-! ## `ktvec` (R84) -/

/-- A value of `ktvec` names a core of the issuing thread's own launch, on a die of cores. -/
def NamesOwnCore (s : State) (x : Word) : Prop :=
  bitsAt x 4 13 / 512 < 12 ∧ s.co.launch ≠ none ∧ (s.cor (bitsAt x 4 13)).launch = s.co.launch

/-- The test of R84 as the model makes it. -/
theorem otherCore_iff (s : State) (x : Word) :
    (decide (12 ≤ bitsAt x 4 13 / 512) || s.co.launch.isNone || (s.cor (bitsAt x 4 13)).launch != s.co.launch) = true ↔
      ¬ NamesOwnCore s x := by
  simp only [NamesOwnCore, Bool.or_eq_true, decide_eq_true_iff, Option.isNone_iff_eq_none, bne_iff_ne, not_and_or,
    not_not, Nat.not_lt, or_assoc, Ne]

/-- R84: at launch level an enabled `ktvec` that names another core is refused. -/
theorem vecCheck_refuses {s : State} {x : Word} (hen : bitAt x 17 = true) (hl : s.th.service = false)
    (hother : ¬ NamesOwnCore s x) : s.vecCheck x = .error (.trap { cause := cPermission, info := x }) := by
  rw [State.vecCheck, hl, hen, (otherCore_iff s x).mpr hother]
  rfl

/-- R84: any value passes at service level, and one that names an own core passes. -/
theorem vecCheck_ok {s : State} {x : Word} (h : s.th.service = true ∨ NamesOwnCore s x) : s.vecCheck x = .ok () := by
  rw [State.vecCheck]
  obtain hs | hown := h
  · rw [hs]; rfl
  · rw [Bool.eq_false_iff.mpr (mt (otherCore_iff s x).mp (not_not_intro hown)), Bool.and_false]; rfl

/-- Of a value within the fields of `ktvec`, only the check of R84 is left. -/
theorem writeChecks_ktvec {s : State} {old x : Word} (h : x.toNat < 2 ^ 18) :
    s.writeChecks .ktvec old x = s.vecCheck x := by
  unfold State.writeChecks
  rw [resCheck_ok s (k := .ktvec) h]
  rfl

/-- A write of `ktvec` that passes its checks: everything it does. -/
theorem writesK_ktvec {i : Instr} {s : State} {x : Word}
    (h : exec i s = .next (s.modTh fun t => t.retire.writeK .ktvec x)) : WritesK i s .ktvec x := by
  have hth : (s.modTh fun t => t.retire.writeK .ktvec x).th = { s.th.retire with ktvec := x } := th_modTh s _
  obtain ⟨hg, hv, hm⟩ := retire_files s.th
  refine ⟨_, h, fun _ _ => ?written, fun j hj hcnt hidx hstg _ => ?others, fun hb => ?buffer, ?g, ?v, ?m, ?st,
    fun u hu => thr_modThr_other s _ hu, fun a => rfl⟩
  case written => rw [kValue, hth]; rfl
  case others =>
    refine kValue_modTh s ?_
    rw [← retire_readK s.th hcnt hidx hstg]
    cases j with
    | ktvec => exact absurd rfl hj
    | _ => rfl
  case buffer => exact absurd hb (by simp [bufferReg])
  case g => rw [hth]; exact hg
  case v => rw [hth]; exact hv
  case m => rw [hth]; exact hm
  case st => rw [hth]; rfl

/-! ## The start of a launch (R41, R84, R291, R318) -/

/-- A fold reaches what each of its steps keeps, where it holds before or some step brings it about. -/
theorem foldl_reaches {α σ : Type} {f : σ → α → σ} {p : σ → Prop} (hkeep : ∀ s a, p s → p (f s a)) (l : List α) (s : σ)
    (h : p s ∨ ∃ a ∈ l, ∀ s, p (f s a)) : p (l.foldl f s) := by
  induction l generalizing s with
  | nil => simpa using h
  | cons a r ih =>
    refine ih _ ?_
    obtain hs | ⟨b, hb, hp⟩ := h
    · exact .inl (hkeep s a hs)
    · obtain rfl | hb := List.mem_cons.mp hb
      · exact .inl (hp s)
      · exact .inr ⟨b, hb, hp⟩

/-- The thread `u` has `ktvec` 0. -/
def VecZero (u : Nat) (s : State) : Prop := (s.thr u).ktvec = 0

theorem vecZero_setLstate {u : Nat} {s : State} (h : VecZero u s) (lid st : Nat) : VecZero u (s.setLstate lid st) := h

theorem vecZero_modDie {u : Nat} {s : State} (h : VecZero u s) (d : Nat) (f : Die → Die) : VecZero u (s.modDie d f) := h

/-- A context set to its state at the start has `ktvec` 0, and every other thread keeps its own. -/
theorem vecZero_setThr {u v : Nat} {s : State} {l : Launch} {r : LqRec} {ck c : Nat} (h : VecZero u s ∨ u = v) :
    VecZero u (s.setThr v (l.thread r ck c)) := by
  unfold VecZero
  by_cases hu : u = v
  · rw [hu, thr_setThr_same]; rfl
  · rw [thr_setThr_other s _ hu]; exact h.resolve_right hu

/-- The start of a core keeps `ktvec` 0, and brings it about in each context that it starts (R79, R84). -/
theorem vecZero_startCore {u : Nat} {s : State} {r : LqRec} {l : Launch} {ck i n : Nat}
    (h : VecZero u s ∨ ∃ c < n, u = threadOf ck c) : VecZero u (s.startCore r l ck i n) := by
  refine foldl_reaches (p := VecZero u) (fun s c hs => vecZero_setThr (.inl hs)) _ _ ?_
  obtain hs | ⟨c, hc, hu⟩ := h
  · exact .inl hs
  · exact .inr ⟨c, List.mem_range.mpr hc, fun s => vecZero_setThr (.inr hu)⟩

/-- The cores of a launch start one after another: each context of its set then has `ktvec` 0. -/
theorem vecZero_startCores {l : Launch} {r : LqRec} {ck c : Nat} (hck : ck ∈ l.set) (hc : c < r.ctx) (s : State) :
    VecZero (threadOf ck c) (l.extra.foldl (fun s ck => s.startCore r l ck 0 0)
      (l.set.zipIdx.foldl (fun s e => s.startCore r l e.1 e.2 r.ctx) s)) := by
  obtain ⟨e, he, hfst⟩ : ∃ e ∈ l.set.zipIdx, e.1 = ck := by rwa [← List.mem_map, List.zipIdx_map_fst]
  refine foldl_reaches (fun s k hs => vecZero_startCore (.inl hs)) _ _ (.inl ?_)
  refine foldl_reaches (fun s e hs => vecZero_startCore (.inl hs)) _ _ (.inr ⟨e, he, fun s => ?_⟩)
  exact vecZero_startCore (.inr ⟨c, hc, by rw [hfst]⟩)

/-- Once its clusters are clear, a launch starts every context of its set with `ktvec` 0. -/
theorem vecZero_startLaunch {s : State} {r : LqRec} (hclear : s.toClear r.asid (s.launchOf r.lid).clusters = [])
    {ck c : Nat} (hck : ck ∈ (s.launchOf r.lid).set) (hc : c < r.ctx) : VecZero (threadOf ck c) (s.startLaunch r) := by
  unfold State.startLaunch
  dsimp only
  rw [hclear]
  refine vecZero_setLstate ?_ _ _
  split
  · exact foldl_reaches (p := VecZero _) (fun s d hs => vecZero_modDie hs d _) _ _ (.inl (vecZero_startCores hck hc _))
  · exact vecZero_startCores hck hc _

/-- The two events that start a launch of a record (R291, R318). -/
theorem exec_launchStart {s : State} {die : Nat} {r : LqRec} (h : s.nextStart die = some r) :
    exec (.launchStart die) s = .next (s.startLaunch r) := by
  change execLaunchStart die s = _
  rw [execLaunchStart, h]

theorem exec_multiDieLaunchStart {s : State} {r : LqRec} (h : s.nextMulti = some r) :
    exec .multiDieLaunchStart s = .next (s.startLaunch r) := by
  change execMultiDieLaunchStart s = _
  rw [execMultiDieLaunchStart, h]

/-- Settles O21: a write is `writeOwn` with R84's check alone left of its checks, and both events that start a launch
are `startLaunch`. -/
theorem trapVectorCheck : Obligations.TrapVectorCheck := by
  unfold Obligations.TrapVectorCheck
  refine ⟨fun s a i x hw hx hen => ?write, fun s i r hstart hclear => ?start⟩
  case write =>
    have hexec := exec_of_kWrite hw
    refine ⟨fun hl hother => ?_, fun hok => ?_⟩
    · exact traps_finish (tr := { cause := cPermission, info := x }) hexec
        (writeOwn_of_refused ((writeChecks_ktvec hx).trans (vecCheck_refuses hen hl hother)))
    · refine writesK_ktvec ?_
      rw [hexec, writeOwn_of_checks (k := .ktvec) nofun ((writeChecks_ktvec hx).trans (vecCheck_ok hok))]
      rfl
  case start =>
    refine ⟨s.startLaunch r, ?_, fun ck hck c hc => vecZero_startLaunch hclear hck hc⟩
    obtain ⟨die, rfl, hnext⟩ | ⟨rfl, hnext⟩ := hstart
    · exact exec_launchStart hnext
    · exact exec_multiDieLaunchStart hnext

end Sys2Proof.Machine
end

section
/-! PROOFS. The integer half of the vector unit (spec chapter 6): `vint`, the permutes and moves of `vperm` and `vmov`, and
the mask forms of `vmsk`. -/

namespace Sys2Proof.Machine

/-! ## Lanes and masks (R78, R140) -/

/-- The lanes of an integer lane type fill the register. -/
theorem iw_fills (ty : ITy) : iw ty * (512 / iw ty) = 512 := by cases ty <;> rfl

theorem iw_pos (ty : ITy) : 0 < iw ty := by cases ty <;> decide

@[simp] theorem lane_mod (w : Nat) (v : VReg) (k : Nat) : lane w v k % 2 ^ w = lane w v k := Nat.mod_mod _ _

@[simp] theorem toNat_laneBits (w : Nat) (v : VReg) (k : Nat) : (laneBits w v k).toNat = lane w v k := by
  rw [laneBits, BitVec.toNat_ofNat, lane_mod]

theorem lane_lanesTo {w : Nat} (hw : w * (512 / w) = 512) (f : Nat → Nat) {k : Nat} (hk : k < 512 / w) :
    lane w (lanesTo w f) k = f k % 2 ^ w := by
  rw [lanesTo, lane_vecOf (by simpa using hw) (by simpa using hk)]
  simp

/-- A mask built from one bit for each 32-bit lane. -/
theorem getLsbD_vecOf (c : Nat → Prop) [DecidablePred c] {k : Nat} (hk : k < 16) :
    (BitVec.ofNat 16 (vecOf 1 ((List.range 16).map fun i => if c i then 1 else 0))).getLsbD k = decide (c k) := by
  have hbit := vecOf_lane 1 ((List.range 16).map fun i => if c i then 1 else 0) k (by simpa using hk)
  rw [List.getElem_map, List.getElem_range, Nat.one_mul, Nat.pow_one] at hbit
  rw [BitVec.getLsbD_ofNat, decide_eq_true hk, Bool.true_and, Nat.testBit_eq_decide_div_mod_eq, hbit]
  by_cases h : c k <;> simp [h]

theorem getLsbD_maskOf (m : LMask) (c : Nat → Bool) {k : Nat} (hk : k < 16) :
    (maskOf m c).getLsbD k = (m.getLsbD k && c k) :=
  (getLsbD_vecOf (fun i => (m.getLsbD i && c i) = true) hk).trans (Bool.decide_eq_true)

/-! ## Endings -/

/-- An update of the issuing thread is what it makes of that thread. -/
theorem modTh_congr {s : State} {f g : Thread → Thread} (h : f s.th = g s.th) : s.modTh f = s.modTh g :=
  congrArg (s.setThr s.cur) h

/-- A form that writes one vector register from the thread's own registers. -/
theorem writesV_own {i : Instr} {s : State} {d : Reg} (f : Thread → VReg)
    (h : exec i s = .next (s.modTh fun t => (t.setV d (f t)).retire)) : WritesV i s d (f s.th) 0 :=
  writesV_retire (h.trans (congrArg _ (modTh_congr rfl)))

/-- A fixed-latency form that writes one mask and no flag: everything it does. -/
theorem writesM_maskOut {i : Instr} {s : State} {d : MReg} (f : Thread → LMask) (h : exec i s = s.maskOut d f) :
    WritesM i s d (f s.th) 0 := by
  obtain ⟨hkeep, hstat, hpc, hcnt⟩ := setM_keeps s.th d (f s.th)
  refine ⟨_, h, onlyThread_modTh s _, ?_, ?_, ?_, ?_, ?_⟩ <;> rw [th_modTh]
  · exact hkeep.trans (retire_keeps _)
  · rw [retire_kstat, hstat]
    exact BitVec.or_zero.symm
  · rw [retire_rm, rm_setM, if_pos rfl]
  · intro hf
    have hframe : (s.th.setM d (f s.th)).inFrame = false := by rw [Thread.inFrame, hcnt]; exact hf
    rw [retire_next _ hframe, hpc]
  · exact retire_completed _

/-- A form that writes a lane-wise result (R140). -/
theorem writesLanes_laneMap {i : Instr} {s : State} {ty : ITy} {m : MReg} {d : Reg} {g f : Nat → Nat}
    (h : WritesV i s d (laneMap (iw ty) (s.th.rm m) (s.th.rv d) fun k => (g k, 0)).1 0)
    (hg : ∀ k, g k % 2 ^ iw ty = f k % 2 ^ iw ty) : WritesLanes i s d (iw ty) (act (iw ty) (s.th.rm m)) f 0 :=
  ⟨_, h, fun k hk => by rw [lane_laneMap (iw_fills ty) (iw_pos ty) _ _ _ hk, hg]⟩

/-- A form that writes a value for each lane. -/
theorem writesLanes_lanesTo {i : Instr} {s : State} {ty : ITy} {d : Reg} {g : Nat → Nat} {on : Nat → Bool} {f : Nat → Nat}
    (h : WritesV i s d (lanesTo (iw ty) g) 0)
    (hg : ∀ k, g k % 2 ^ iw ty = if on k then f k % 2 ^ iw ty else lane (iw ty) (s.th.rv d) k) :
    WritesLanes i s d (iw ty) on f 0 :=
  ⟨_, h, fun k hk => by rw [lane_lanesTo (iw_fills ty) _ hk, hg]⟩

/-! ## Numbers of a lane as bit vectors (R47, R148) -/

theorem sgn_toNat {w : Nat} (hw : 0 < w) (x : BitVec w) : sgn w x.toNat = x.toInt := by
  obtain ⟨v, rfl⟩ := Nat.exists_eq_add_of_lt hw
  rw [sgn, BitVec.toInt_eq_toNat_cond]
  simp only [Nat.zero_add, Nat.add_sub_cancel, Nat.pow_succ, Nat.mul_comm 2]
  push_cast
  simp [Int.pow_succ]

theorem ofNat_toNat_self {w : Nat} (x : BitVec w) : BitVec.ofNat w x.toNat = x := by
  rw [BitVec.ofNat_toNat, BitVec.setWidth_eq]

theorem ofNat_wrapTo (w : Nat) (v : Int) : BitVec.ofNat w (wrapTo w v) = BitVec.ofInt w v := by
  have h : wrapTo w v = (BitVec.ofInt w v).toNat := by rw [BitVec.toNat_ofInt, wrapTo]; push_cast; rfl
  rw [h, ofNat_toNat_self]

theorem ofNat_clampTo (w : Nat) {lo hi : Int} (h : lo ≤ hi) (v : Int) :
    BitVec.ofNat w (clampTo w lo hi v) = BitVec.ofInt w (max lo (min hi v)) := by
  rw [clampTo, ofNat_wrapTo]
  congr 1
  omega

theorem ofNat_clampTo_signed (w : Nat) (v : Int) :
    BitVec.ofNat w (clampTo w (loS w) (hiS w) v) = BitVec.ofInt w (max (-(2 ^ (w - 1))) (min (2 ^ (w - 1) - 1) v)) := by
  have hp : (0 : Int) < 2 ^ (w - 1) := by positivity
  exact ofNat_clampTo w (by rw [loS, hiS]; omega) v

theorem ofNat_clampTo_unsigned (w n : Nat) :
    BitVec.ofNat w (clampTo w 0 (hiU w) (Int.ofNat n)) = BitVec.ofNat w (min (2 ^ w - 1) n) := by
  have hp : 0 < 2 ^ w := Nat.two_pow_pos w
  have hhi : hiU w = ((2 ^ w - 1 : Nat) : Int) := by rw [hiU]; push_cast [hp]; rfl
  rw [hhi, ofNat_clampTo w (Int.natCast_nonneg _), ← BitVec.ofInt_natCast w (min _ _)]
  congr 1
  rw [Int.ofNat_eq_natCast, max_eq_right (le_min (Int.natCast_nonneg _) (Int.natCast_nonneg _)), Nat.cast_min]

theorem ofNat_wrapTo_sub {w : Nat} (x y : BitVec w) :
    BitVec.ofNat w (wrapTo w (Int.ofNat x.toNat - Int.ofNat y.toNat)) = x - y := by
  rw [ofNat_wrapTo, Int.sub_eq_add_neg, BitVec.ofInt_add, BitVec.ofInt_neg, BitVec.sub_eq_add_neg]
  simp only [Int.ofNat_eq_natCast, BitVec.ofInt_natCast, ofNat_toNat_self]

theorem ofNat_andn {w : Nat} (x y : BitVec w) : BitVec.ofNat w (x.toNat &&& (2 ^ w - 1 - y.toNat)) = x &&& ~~~ y := by
  rw [← BitVec.toNat_not, ← BitVec.toNat_and, ofNat_toNat_self]

theorem ofNat_mul_two_pow {w : Nat} (x : BitVec w) (n : Nat) : BitVec.ofNat w (x.toNat * 2 ^ n) = x <<< n :=
  BitVec.eq_of_toNat_eq (by rw [BitVec.toNat_shiftLeft, BitVec.toNat_ofNat, Nat.shiftLeft_eq])

theorem ofNat_div_two_pow {w : Nat} (x : BitVec w) (n : Nat) : BitVec.ofNat w (x.toNat / 2 ^ n) = x >>> n := by
  rw [← Nat.shiftRight_eq_div_pow, ← BitVec.toNat_ushiftRight, ofNat_toNat_self]

theorem ofNat_wrapTo_div_two_pow {w : Nat} (hw : 0 < w) (x : BitVec w) (n : Nat) :
    BitVec.ofNat w (wrapTo w (sgn w x.toNat / 2 ^ n)) = x.sshiftRight n := by
  rw [ofNat_wrapTo, sgn_toNat hw, BitVec.sshiftRight_eq, Int.shiftRight_eq_div_pow, Int.natCast_pow, Nat.cast_ofNat]

/-- A choice between two lanes. -/
theorem ofNat_ite {w : Nat} (p : Prop) [Decidable p] (x y : BitVec w) :
    BitVec.ofNat w (if p then x.toNat else y.toNat) = if p then x else y := by
  rw [apply_ite (BitVec.ofNat w), ofNat_toNat_self, ofNat_toNat_self]

/-! ## `vint` (R148) -/

/-- A row of Table 6-2: each lane type's form is the lane-wise form of `g`, and `g` on the numbers of two lanes is the row's
function of their bits. -/
def IsVint (e : (ITy → MReg → Reg → Reg → Reg → Instr) × ((w : Nat) → BitVec w → BitVec w → BitVec w))
    (g : Nat → Nat → Nat → Nat) : Prop :=
  (∀ s ty m d a b, exec (e.1 ty m d a b) s = s.vint ty m d a b g) ∧
  ∀ w, 0 < w → ∀ x y : BitVec w, BitVec.ofNat w (g w x.toNat y.toNat) = e.2 w x y

theorem isVint_integerLanes : ∀ e ∈ integerLanes, ∃ g, IsVint e g := by
  simp only [integerLanes, List.forall_mem_cons, List.not_mem_nil, false_implies, implies_true, and_true]
  refine ⟨⟨fun _ x y => x + y, fun _ _ _ _ _ _ => rfl, ?add⟩,
    ⟨fun w x y => wrapTo w (Int.ofNat x - Int.ofNat y), fun _ _ _ _ _ _ => rfl, ?sub⟩,
    ⟨fun w x y => clampTo w (loS w) (hiS w) (sgn w x + sgn w y), fun _ _ _ _ _ _ => rfl, ?adds⟩,
    ⟨fun w x y => clampTo w 0 (hiU w) (Int.ofNat (x + y)), fun _ _ _ _ _ _ => rfl, ?addus⟩,
    ⟨fun w x y => clampTo w (loS w) (hiS w) (sgn w x - sgn w y), fun _ _ _ _ _ _ => rfl, ?subs⟩,
    ⟨fun _ x y => x - y, fun _ _ _ _ _ _ => rfl, fun _ _ _ _ => rfl⟩,
    ⟨fun _ x y => x * y, fun _ _ _ _ _ _ => rfl, ?mul⟩,
    ⟨fun w x y => wrapTo w (sgn w x * sgn w y / 2 ^ w), fun _ _ _ _ _ _ => rfl, ?mulh⟩,
    ⟨fun _ x y => x &&& y, fun _ _ _ _ _ _ => rfl, ?and⟩,
    ⟨fun _ x y => x ||| y, fun _ _ _ _ _ _ => rfl, ?or⟩,
    ⟨fun _ x y => x ^^^ y, fun _ _ _ _ _ _ => rfl, ?xor⟩,
    ⟨fun w x y => x &&& (2 ^ w - 1 - y), fun _ _ _ _ _ _ => rfl, ?andn⟩,
    ⟨fun w x y => x * 2 ^ (y % w), fun _ _ _ _ _ _ => rfl, ?sll⟩,
    ⟨fun w x y => x / 2 ^ (y % w), fun _ _ _ _ _ _ => rfl, ?srl⟩,
    ⟨fun w x y => wrapTo w (sgn w x / 2 ^ (y % w)), fun _ _ _ _ _ _ => rfl, ?sra⟩,
    ⟨fun w x y => if sgn w x ≤ sgn w y then x else y, fun _ _ _ _ _ _ => rfl, ?min⟩,
    ⟨fun w x y => if sgn w y ≤ sgn w x then x else y, fun _ _ _ _ _ _ => rfl, ?max⟩,
    ⟨fun _ x y => min x y, fun _ _ _ _ _ _ => rfl, ?minu⟩,
    ⟨fun _ x y => max x y, fun _ _ _ _ _ _ => rfl, ?maxu⟩⟩ <;> intro w hw x y <;> dsimp only
  case add => rw [BitVec.ofNat_add, ofNat_toNat_self, ofNat_toNat_self]
  case sub => exact ofNat_wrapTo_sub x y
  case adds => rw [ofNat_clampTo_signed, sgn_toNat hw, sgn_toNat hw]
  case addus => exact ofNat_clampTo_unsigned _ _
  case subs => rw [ofNat_clampTo_signed, sgn_toNat hw, sgn_toNat hw]
  case mul => rw [BitVec.ofNat_mul, ofNat_toNat_self, ofNat_toNat_self]
  case mulh => rw [ofNat_wrapTo, sgn_toNat hw, sgn_toNat hw]
  case and => rw [BitVec.ofNat_and, ofNat_toNat_self, ofNat_toNat_self]
  case or => rw [BitVec.ofNat_or, ofNat_toNat_self, ofNat_toNat_self]
  case xor => rw [BitVec.ofNat_xor, ofNat_toNat_self, ofNat_toNat_self]
  case andn => exact ofNat_andn x y
  case sll => exact ofNat_mul_two_pow x _
  case srl => exact ofNat_div_two_pow x _
  case sra => exact ofNat_wrapTo_div_two_pow hw x _
  case min => rw [sgn_toNat hw, sgn_toNat hw, ofNat_ite]
  case max => rw [sgn_toNat hw, sgn_toNat hw, ofNat_ite]
  case minu => rw [Nat.min_def, ofNat_ite]
  case maxu => rw [Nat.max_comm, Nat.max_def, ofNat_ite]

/-- A row of R148's comparisons: the form compares lanes by `g`, and `g` on their numbers is the row's condition on their
bits. -/
def IsVintCmp (e : (MReg → MReg → Reg → Reg → Instr) × (BitVec 32 → BitVec 32 → Bool)) (g : Nat → Nat → Bool) : Prop :=
  (∀ s m d a b, exec (e.1 m d a b) s = s.vintCmp m d a b g) ∧ ∀ x y, g x.toNat y.toNat = e.2 x y

theorem isVintCmp_integerCompares : ∀ e ∈ integerCompares, ∃ g, IsVintCmp e g := by
  simp only [integerCompares, List.forall_mem_cons, List.not_mem_nil, false_implies, implies_true, and_true]
  refine ⟨⟨fun x y => x == y, fun _ _ _ _ _ => rfl, fun x y => ?ceq⟩,
    ⟨fun x y => decide (sgn 32 x < sgn 32 y), fun _ _ _ _ _ => rfl, fun x y => ?clt⟩,
    ⟨fun x y => decide (x < y), fun _ _ _ _ _ => rfl, fun _ _ => rfl⟩⟩
  case ceq => rw [Bool.eq_iff_iff, beq_iff_eq, beq_iff_eq, BitVec.toNat_inj]
  case clt =>
    dsimp only
    rw [sgn_toNat (by decide), sgn_toNat (by decide)]

/-- Settles O39: a row's function on the bits of two lanes is what its form computes on their numbers. -/
theorem vectorIntegerResult : Obligations.VectorIntegerResult := by
  unfold Obligations.VectorIntegerResult
  refine ⟨fun e he s ty m d a b => ?lanes, fun e he s m d a b => ?masks⟩
  case lanes =>
    obtain ⟨g, hexec, hop⟩ := isVint_integerLanes e he
    refine writesLanes_laneMap (writesV_retire (hexec s ty m d a b)) fun k => ?_
    rw [← hop _ (iw_pos ty), BitVec.toNat_ofNat, toNat_laneBits, toNat_laneBits, Nat.mod_mod]
  case masks =>
    obtain ⟨g, hexec, hcond⟩ := isVintCmp_integerCompares e he
    refine ⟨_, writesM_maskOut (fun t => maskOf (t.rm m) fun k => g (lane 32 (t.rv a) k) (lane 32 (t.rv b) k))
      (hexec s m d a b), fun k hk => ?_⟩
    rw [getLsbD_maskOf _ _ hk, ← hcond, toNat_laneBits, toNat_laneBits]

/-! ## Counting set bits (R153, R154) -/

theorem testBit_comp_succ (v : Nat) : v.testBit ∘ Nat.succ = (v / 2).testBit := funext fun i => Nat.testBit_succ v i

theorem popN_eq_length_filter (n v : Nat) : popN n v = ((List.range n).filter v.testBit).length := by
  induction n generalizing v with
  | zero => rfl
  | succ n ih =>
    rw [popN, ih, List.range_succ_eq_map, List.filter_cons, List.filter_map, testBit_comp_succ, Nat.testBit_zero]
    rcases Nat.mod_two_eq_zero_or_one v with h | h <;> simp [h, Nat.add_comm]

theorem lowBit_eq_find? (n v : Nat) : lowBit n v = ((List.range n).find? v.testBit).getD n := by
  induction n generalizing v with
  | zero => rfl
  | succ n ih =>
    rw [lowBit, ih, List.range_succ_eq_map, List.find?_cons, List.find?_map, testBit_comp_succ, Nat.testBit_zero]
    rcases Nat.mod_two_eq_zero_or_one v with h | h
    · cases (List.range n).find? (v / 2).testBit <;> simp [h, Nat.add_comm]
    · simp [h]

theorem popN_eq_rankOf (m : LMask) (k : Nat) : popN k m.toNat = rankOf m k := popN_eq_length_filter k m.toNat

theorem rankOf_le (m : LMask) (k : Nat) : rankOf m k ≤ k := (List.length_filter_le _ _).trans_eq List.length_range

/-- A selected number stands in a filtered range after those selected below it. -/
theorem getElem?_filter_range {p : Nat → Bool} {n k : Nat} (hk : k < n) (hp : p k = true) :
    ((List.range n).filter p)[((List.range k).filter p).length]? = some k := by
  obtain ⟨r, rfl⟩ := Nat.exists_eq_add_of_lt hk
  rw [Nat.add_assoc, List.range_add, List.filter_append, List.getElem?_append_right le_rfl, Nat.sub_self,
    List.range_succ_eq_map, List.map_cons, Nat.add_zero, List.filter_cons_of_pos hp, List.getElem?_cons_zero]

/-! ## `cmpr` and `expd` (R153) -/

/-- A lane of a packed register is the lane at its place among the live lanes and the fill after them. -/
theorem lane_compress {m : LMask} {a b : VReg} {j x : Nat} (hj : j < 16)
    (h : (((List.range 16).filter m.getLsbD).map (lane 32 a) ++ (List.range 16).map (lane 32 b))[j]? = some x) :
    lane 32 (compress m a b) j = x % 2 ^ 32 := by
  obtain ⟨hlen, hx⟩ := List.getElem?_eq_some_iff.mp h
  rw [compress, lane_vecOf (by simp) (by simpa using hj), List.getElem_take, hx]

theorem lane_compress_live {m : LMask} (a b : VReg) {k : Nat} (hk : k < 16) (hm : m.getLsbD k = true) :
    lane 32 (compress m a b) (rankOf m k) = lane 32 a k := by
  have hlive : (((List.range 16).filter m.getLsbD).map (lane 32 a))[rankOf m k]? = some (lane 32 a k) := by
    rw [List.getElem?_map, rankOf, getElem?_filter_range hk hm, Option.map_some]
  obtain ⟨hlen, -⟩ := List.getElem?_eq_some_iff.mp hlive
  rw [lane_compress ((rankOf_le m k).trans_lt hk) ((List.getElem?_append_left hlen).trans hlive), lane_mod]

theorem lane_compress_fill {m : LMask} (a b : VReg) {k : Nat} (hk : rankOf m 16 + k < 16) :
    lane 32 (compress m a b) (rankOf m 16 + k) = lane 32 b k := by
  have hlen : (((List.range 16).filter m.getLsbD).map (lane 32 a)).length = rankOf m 16 := List.length_map _
  have hfill : ((List.range 16).map (lane 32 b))[k]? = some (lane 32 b k) := by
    rw [List.getElem?_map, List.getElem?_range (by omega), Option.map_some]
  rw [lane_compress hk ?_, lane_mod]
  rw [List.getElem?_append_right (by omega), hlen, Nat.add_sub_cancel_left, hfill]

theorem lane_expand (m : LMask) (a b : VReg) {k : Nat} (hk : k < 16) :
    lane 32 (expand m a b) k = if m.getLsbD k then lane 32 a (rankOf m k) else lane 32 b k := by
  rw [expand, lane_lanesTo rfl _ hk, rankBelow, popN_eq_rankOf]
  split <;> rw [lane_mod]

/-! ## Moves and masks (R151, R154, R157) -/

/-- A permute (R151): everything it does. -/
theorem writesLanes_permute {i : Instr} {s : State} {ty : ITy} {m : MReg} {d a : Reg} (src : Nat → Nat)
    (h : exec i s = s.permute ty m d a src) : WritesLanes i s d (iw ty) (act (iw ty) (s.th.rm m))
      (fun k => lane (iw ty) (s.th.rv a) (src k % (512 / iw ty))) 0 :=
  writesLanes_laneMap (writesV_retire h) fun _ => rfl

theorem lanes_pos (ty : GSize) : 0 < ty.lanes := by cases ty <;> decide

theorem getLsbD_glen (ty : GSize) (x : Word) {k : Nat} (hk : k < 16) :
    (glen ty x).getLsbD k = decide (k % ty.lanes < x.toNat / 2 ^ (5 * (k / ty.lanes)) % 32) := by
  have hlane : k % ty.lanes < ty.lanes := Nat.mod_lt _ (lanes_pos ty)
  rw [glen, getLsbD_vecOf (fun i => i % ty.lanes < min (bitsAt x (5 * (i / ty.lanes)) 5) ty.lanes) hk, bitsAt]
  simp [hlane]

theorem getLsbD_pre (x : Word) {k : Nat} (hk : k < 16) :
    (maskOf (BitVec.allOnes 16) fun i => decide (i < x.toNat)).getLsbD k = decide (k < x.toNat) := by
  rw [getLsbD_maskOf _ _ hk, BitVec.getLsbD_allOnes, decide_eq_true hk, Bool.true_and]

/-- `vmsk.first` gives 16 for the empty mask without a case of its own. -/
theorem first_eq_find? (m : LMask) :
    (if m = 0 then 16 else lowBit 16 m.toNat) = ((List.range 16).find? m.getLsbD).getD 16 := by
  have hlow : lowBit 16 m.toNat = ((List.range 16).find? m.getLsbD).getD 16 := lowBit_eq_find? 16 m.toNat
  split
  next hm => rw [← hlow, hm]; rfl
  next => exact hlow

/-- Settles O41: each form is one of the shared endings, with the lane or the bit that its register function gives. -/
theorem vectorMoveResult : Obligations.VectorMoveResult := by
  unfold Obligations.VectorMoveResult
  refine ⟨fun s ty m d a b n => ⟨?perm, ?bcl, ?rot, ?mov, ?sel, ?bcg, ?ins, ?ext, ?iota⟩, fun s m d a b => ?pack, ?logic,
    fun s ty d a r c => ?convert⟩
  case perm => exact writesLanes_permute (fun k => lane (iw ty) (s.th.rv b) k) rfl
  case bcl => exact writesLanes_permute (fun _ => n.toNat) rfl
  case rot => exact writesLanes_permute (fun k => k + n.toNat) rfl
  case mov => exact writesLanes_permute (fun k => k) rfl
  case sel =>
    exact writesLanes_lanesTo (writesV_own (fun t => lanesTo (iw ty) fun k =>
      if act (iw ty) (t.rm m) k then lane (iw ty) (t.rv a) k else lane (iw ty) (t.rv b) k) rfl) fun _ => rfl
  case bcg =>
    exact writesLanes_laneMap (writesV_own (fun t => (laneMap (iw ty) (t.rm m) (t.rv d) fun _ =>
      ((t.rg a).toNat % 2 ^ iw ty, 0)).1) rfl) fun _ => Nat.mod_mod _ _
  case ins =>
    refine writesLanes_lanesTo (writesV_own (fun t => lanesTo (iw ty) fun k =>
      if k = (t.rg b).toNat % (512 / iw ty) then (t.rg a).toNat else lane (iw ty) (t.rv d) k) rfl) fun k => ?_
    rw [apply_ite (· % 2 ^ iw ty), lane_mod]
    simp only [beq_iff_eq]
  case ext => exact writesG_outG rfl
  case iota =>
    exact writesLanes_laneMap (writesV_own (fun t => (laneMap (iw ty) (t.rm m) (t.rv d) fun k => (k, 0)).1) rfl)
      fun _ => rfl
  case pack =>
    exact ⟨_, _, writesV_own (fun t => compress (t.rm m) (t.rv a) (t.rv b)) rfl,
      writesV_own (fun t => expand (t.rm m) (t.rv a) (t.rv b)) rfl, fun _ hk hm => lane_compress_live _ _ hk hm,
      fun _ hk => lane_compress_fill _ _ hk, fun _ hk => lane_expand _ _ _ hk⟩
  case logic =>
    simp only [maskResults, List.forall_mem_cons, List.not_mem_nil, false_implies, implies_true, and_true]
    refine ⟨?and, ?or, ?xor, ?andn, ?not⟩ <;> intro s d a b
    case and => exact ⟨_, writesM_maskOut (fun t => t.rm a &&& t.rm b) rfl, fun _ _ => BitVec.getLsbD_and⟩
    case or => exact ⟨_, writesM_maskOut (fun t => t.rm a ||| t.rm b) rfl, fun _ _ => BitVec.getLsbD_or⟩
    case xor => exact ⟨_, writesM_maskOut (fun t => t.rm a ^^^ t.rm b) rfl, fun _ _ => BitVec.getLsbD_xor⟩
    case andn =>
      exact ⟨_, writesM_maskOut (fun t => t.rm a &&& ~~~ t.rm b) rfl, fun k hk => by simp [hk]⟩
    case not => exact ⟨_, writesM_maskOut (fun t => ~~~ t.rm a) rfl, fun k hk => by simp [hk]⟩
  case convert =>
    have hpopc := writesG_outG (i := .vmskPopc r c) (s := s) rfl
    have hfirst := writesG_outG (i := .vmskFirst r c) (s := s) rfl
    rw [popN_eq_rankOf] at hpopc
    rw [first_eq_find?] at hfirst
    refine ⟨_, _, _, writesM_maskOut (fun t => (t.rg a).setWidth 16) rfl,
      writesM_maskOut (fun t => maskOf (BitVec.allOnes 16) fun k => decide (k < (t.rg a).toNat)) rfl,
      writesM_maskOut (fun t => glen ty (t.rg a)) rfl,
      fun k hk => ⟨?fromg, getLsbD_pre _ hk, getLsbD_glen ty _ hk⟩, ?tog, hpopc, hfirst⟩
    case fromg => rw [BitVec.getLsbD_setWidth, decide_eq_true hk, Bool.true_and]
    case tog =>
      rw [BitVec.ofNat_toNat]
      exact writesG_outG rfl

end Sys2Proof.Machine
end

section
/-! PROOFS. Decoding and encoding agree (spec chapter 1): the round trip of every form, and the words that decode. -/

namespace Sys2Proof

/-! ## Decode of encode -/

namespace Laws.RoundTrip

/-- Every constructor's round trip. -/
theorem statement_all : ∀ i : Instr, Statement i
  | .opiAdd _ _ _ => opiAdd _ _ _ | .opiSub _ _ _ => opiSub _ _ _ | .opiAnd _ _ _ => opiAnd _ _ _
  | .opiOr _ _ _ => opiOr _ _ _ | .opiXor _ _ _ => opiXor _ _ _ | .opiAndn _ _ _ => opiAndn _ _ _
  | .opiOrn _ _ _ => opiOrn _ _ _ | .opiSll _ _ _ => opiSll _ _ _ | .opiSrl _ _ _ => opiSrl _ _ _
  | .opiSra _ _ _ => opiSra _ _ _ | .opiSlt _ _ _ => opiSlt _ _ _ | .opiSltu _ _ _ => opiSltu _ _ _
  | .opiMin _ _ _ => opiMin _ _ _ | .opiMax _ _ _ => opiMax _ _ _ | .opiMinu _ _ _ => opiMinu _ _ _
  | .opiMaxu _ _ _ => opiMaxu _ _ _ | .opiSxb _ _ => opiSxb _ _ | .opiSxh _ _ => opiSxh _ _
  | .opiSxw _ _ => opiSxw _ _ | .opiZxb _ _ => opiZxb _ _ | .opiZxh _ _ => opiZxh _ _ | .opiZxw _ _ => opiZxw _ _
  | .addi _ _ _ => addi _ _ _ | .andi _ _ _ => andi _ _ _ | .ori _ _ _ => ori _ _ _ | .xori _ _ _ => xori _ _ _
  | .slti _ _ _ => slti _ _ _ | .sltiu _ _ _ => sltiu _ _ _ | .lui _ _ => lui _ _ | .addpc _ _ => addpc _ _
  | .shiSlli _ _ _ => shiSlli _ _ _ | .shiSrli _ _ _ => shiSrli _ _ _ | .shiSrai _ _ _ => shiSrai _ _ _
  | .shiRori _ _ _ => shiRori _ _ _ | .shiClz _ _ => shiClz _ _ | .shiCtz _ _ => shiCtz _ _
  | .shiPopc _ _ => shiPopc _ _ | .shiBrev _ _ => shiBrev _ _ | .shiBswap _ _ => shiBswap _ _
  | .muldivMul _ _ _ => muldivMul _ _ _ | .muldivMulh _ _ _ => muldivMulh _ _ _
  | .muldivMulhu _ _ _ => muldivMulhu _ _ _ | .muldivMulhsu _ _ _ => muldivMulhsu _ _ _
  | .muldivDiv _ _ _ => muldivDiv _ _ _ | .muldivDivu _ _ _ => muldivDivu _ _ _ | .muldivRem _ _ _ => muldivRem _ _ _
  | .muldivRemu _ _ _ => muldivRemu _ _ _ | .brEq _ _ _ => brEq _ _ _ | .brNe _ _ _ => brNe _ _ _
  | .brLt _ _ _ => brLt _ _ _ | .brGe _ _ _ => brGe _ _ _ | .brLtu _ _ _ => brLtu _ _ _ | .brGeu _ _ _ => brGeu _ _ _
  | .brAny _ _ _ => brAny _ _ _ | .brNone _ _ _ => brNone _ _ _ | .jal _ _ => jal _ _ | .jalr _ _ _ => jalr _ _ _
  | .rep _ _ _ _ _ => rep _ _ _ _ _ | .ldPlain _ _ _ _ => ldPlain _ _ _ _ | .ldTiled _ _ _ _ => ldTiled _ _ _ _
  | .ldDevice _ _ _ _ => ldDevice _ _ _ _ | .stPlain _ _ _ _ => stPlain _ _ _ _ | .stTiled _ _ _ _ => stTiled _ _ _ _
  | .stDevice _ _ _ _ => stDevice _ _ _ _ | .lds _ _ _ _ => lds _ _ _ _ | .sts _ _ _ _ => sts _ _ _ _
  | .vlds _ _ _ => vlds _ _ _ | .vsts _ _ _ => vsts _ _ _ | .feTake _ _ _ => feTake _ _ _
  | .fePut _ _ _ => fePut _ _ _ | .feSload _ _ _ => feSload _ _ _ | .feFill _ _ _ => feFill _ _ _
  | .amoSwap _ _ _ _ => amoSwap _ _ _ _ | .amoAdd _ _ _ _ => amoAdd _ _ _ _ | .amoAnd _ _ _ _ => amoAnd _ _ _ _
  | .amoOr _ _ _ _ => amoOr _ _ _ _ | .amoXor _ _ _ _ => amoXor _ _ _ _ | .amoMin _ _ _ _ => amoMin _ _ _ _
  | .amoMax _ _ _ _ => amoMax _ _ _ _ | .amoMinu _ _ _ _ => amoMinu _ _ _ _ | .amoMaxu _ _ _ _ => amoMaxu _ _ _ _
  | .amoCas _ _ _ _ => amoCas _ _ _ _ | .ordAcq _ => ordAcq _ | .ordRel _ => ordRel _ | .ordFence _ => ordFence _
  | .ordLda _ _ _ _ => ordLda _ _ _ _ | .ordStl _ _ _ _ => ordStl _ _ _ _ | .keyUpd _ _ _ _ _ => keyUpd _ _ _ _ _
  | .keyLd _ _ _ => keyLd _ _ _ | .keyLdx _ _ => keyLdx _ _ | .keyPub _ _ _ => keyPub _ _ _
  | .keyFixDrop _ _ _ => keyFixDrop _ _ _ | .keyFixSet _ _ _ => keyFixSet _ _ _ | .keyResume _ _ => keyResume _ _
  | .keyInfo _ _ => keyInfo _ _ | .qstQ _ _ _ _ _ _ => qstQ _ _ _ _ _ _ | .qstBl _ _ _ _ _ => qstBl _ _ _ _ _
  | .bitInit _ _ _ => bitInit _ _ _ | .bitPeek _ _ => bitPeek _ _ | .bitGet _ _ => bitGet _ _
  | .bitSkip _ => bitSkip _ | .bitGetv _ _ => bitGetv _ _ | .bitUnar _ => bitUnar _ | .bitTell _ => bitTell _
  | .bitAvail _ => bitAvail _ | .msgPut _ => msgPut _ | .msgSend _ _ _ _ => msgSend _ _ _ _
  | .msgRecv _ _ _ _ => msgRecv _ _ _ _ | .msgWait _ _ _ => msgWait _ _ _ | .msgAlt _ _ _ => msgAlt _ _ _
  | .msgGrant _ _ _ => msgGrant _ _ _ | .msgDrop => msgDrop | .cpySlot _ _ _ => cpySlot _ _ _
  | .cpyIn _ _ _ _ => cpyIn _ _ _ _ | .cpyOut _ _ _ _ => cpyOut _ _ _ _ | .cpyFree _ _ => cpyFree _ _
  | .cpyPin _ _ _ => cpyPin _ _ _ | .cpyUnpin _ _ => cpyUnpin _ _ | .tilOpen _ _ _ => tilOpen _ _ _
  | .tilClose _ _ => tilClose _ _ | .tilAcq _ _ _ _ _ => tilAcq _ _ _ _ _ | .tilRel _ _ _ => tilRel _ _ _
  | .tilGet _ _ _ => tilGet _ _ _ | .tilPut _ _ _ => tilPut _ _ _ | .xpfSnap _ _ => xpfSnap _ _
  | .xpfReq _ _ _ => xpfReq _ _ _ | .xpfCancel _ _ => xpfCancel _ _ | .vfpAdd _ _ _ _ _ => vfpAdd _ _ _ _ _
  | .vfpSub _ _ _ _ _ => vfpSub _ _ _ _ _ | .vfpMul _ _ _ _ _ => vfpMul _ _ _ _ _
  | .vfpDiv _ _ _ _ _ => vfpDiv _ _ _ _ _ | .vfpSqrt _ _ _ _ => vfpSqrt _ _ _ _
  | .vfpFma _ _ _ _ _ => vfpFma _ _ _ _ _ | .vfpFms _ _ _ _ _ => vfpFms _ _ _ _ _
  | .vfpFnma _ _ _ _ _ => vfpFnma _ _ _ _ _ | .vfpMin _ _ _ _ _ => vfpMin _ _ _ _ _
  | .vfpMax _ _ _ _ _ => vfpMax _ _ _ _ _ | .vfpAbs _ _ _ _ => vfpAbs _ _ _ _ | .vfpNeg _ _ _ _ => vfpNeg _ _ _ _
  | .vfpSgnj _ _ _ _ _ => vfpSgnj _ _ _ _ _ | .vfpCeq _ _ _ _ => vfpCeq _ _ _ _ | .vfpClt _ _ _ _ => vfpClt _ _ _ _
  | .vfpCle _ _ _ _ => vfpCle _ _ _ _ | .vfpCun _ _ _ _ => vfpCun _ _ _ _ | .vintAdd _ _ _ _ _ => vintAdd _ _ _ _ _
  | .vintSub _ _ _ _ _ => vintSub _ _ _ _ _ | .vintAdds _ _ _ _ _ => vintAdds _ _ _ _ _
  | .vintAddus _ _ _ _ _ => vintAddus _ _ _ _ _ | .vintSubs _ _ _ _ _ => vintSubs _ _ _ _ _
  | .vintSubus _ _ _ _ _ => vintSubus _ _ _ _ _ | .vintMul _ _ _ _ _ => vintMul _ _ _ _ _
  | .vintMulh _ _ _ _ _ => vintMulh _ _ _ _ _ | .vintAnd _ _ _ _ _ => vintAnd _ _ _ _ _
  | .vintOr _ _ _ _ _ => vintOr _ _ _ _ _ | .vintXor _ _ _ _ _ => vintXor _ _ _ _ _
  | .vintAndn _ _ _ _ _ => vintAndn _ _ _ _ _ | .vintSll _ _ _ _ _ => vintSll _ _ _ _ _
  | .vintSrl _ _ _ _ _ => vintSrl _ _ _ _ _ | .vintSra _ _ _ _ _ => vintSra _ _ _ _ _
  | .vintMin _ _ _ _ _ => vintMin _ _ _ _ _ | .vintMax _ _ _ _ _ => vintMax _ _ _ _ _
  | .vintMinu _ _ _ _ _ => vintMinu _ _ _ _ _ | .vintMaxu _ _ _ _ _ => vintMaxu _ _ _ _ _
  | .vintCeq _ _ _ _ => vintCeq _ _ _ _ | .vintClt _ _ _ _ => vintClt _ _ _ _ | .vintCltu _ _ _ _ => vintCltu _ _ _ _
  | .vcvtNf16l _ _ _ _ => vcvtNf16l _ _ _ _ | .vcvtNf16h _ _ _ _ => vcvtNf16h _ _ _ _
  | .vcvtNbf16l _ _ _ _ => vcvtNbf16l _ _ _ _ | .vcvtNbf16h _ _ _ _ => vcvtNbf16h _ _ _ _
  | .vcvtWf16l _ _ _ => vcvtWf16l _ _ _ | .vcvtWf16h _ _ _ => vcvtWf16h _ _ _ | .vcvtWbf16l _ _ _ => vcvtWbf16l _ _ _
  | .vcvtWbf16h _ _ _ => vcvtWbf16h _ _ _ | .vcvtFtoi _ _ _ _ => vcvtFtoi _ _ _ _
  | .vcvtFtou _ _ _ _ => vcvtFtou _ _ _ _ | .vcvtItof _ _ _ _ => vcvtItof _ _ _ _
  | .vcvtUtof _ _ _ _ => vcvtUtof _ _ _ _ | .vcvtRint _ _ _ _ => vcvtRint _ _ _ _
  | .vpermFsum _ _ _ _ => vpermFsum _ _ _ _ | .vpermFmax _ _ _ _ => vpermFmax _ _ _ _
  | .vpermFmin _ _ _ _ => vpermFmin _ _ _ _ | .vpermIsum _ _ _ _ => vpermIsum _ _ _ _
  | .vpermImax _ _ _ _ => vpermImax _ _ _ _ | .vpermImin _ _ _ _ => vpermImin _ _ _ _
  | .vpermImaxu _ _ _ _ => vpermImaxu _ _ _ _ | .vpermIminu _ _ _ _ => vpermIminu _ _ _ _
  | .vpermPerm _ _ _ _ _ => vpermPerm _ _ _ _ _ | .vpermBcl _ _ _ _ _ => vpermBcl _ _ _ _ _
  | .vpermRot _ _ _ _ _ => vpermRot _ _ _ _ _ | .vpermCmpr _ _ _ _ => vpermCmpr _ _ _ _
  | .vpermExpd _ _ _ _ => vpermExpd _ _ _ _ | .vbmmMma _ _ _ _ _ => vbmmMma _ _ _ _ _
  | .vbmmMm _ _ _ _ _ => vbmmMm _ _ _ _ _ | .vmskAnd _ _ _ => vmskAnd _ _ _ | .vmskOr _ _ _ => vmskOr _ _ _
  | .vmskXor _ _ _ => vmskXor _ _ _ | .vmskAndn _ _ _ => vmskAndn _ _ _ | .vmskNot _ _ => vmskNot _ _
  | .vmskFromg _ _ => vmskFromg _ _ | .vmskTog _ _ => vmskTog _ _ | .vmskPopc _ _ => vmskPopc _ _
  | .vmskFirst _ _ => vmskFirst _ _ | .vmskPre _ _ => vmskPre _ _ | .vmskGlen _ _ _ => vmskGlen _ _ _
  | .vmovMov _ _ _ _ => vmovMov _ _ _ _ | .vmovSel _ _ _ _ _ => vmovSel _ _ _ _ _
  | .vmovBcg _ _ _ _ => vmovBcg _ _ _ _ | .vmovIns _ _ _ _ => vmovIns _ _ _ _ | .vmovExt _ _ _ _ => vmovExt _ _ _ _
  | .vmovIota _ _ _ => vmovIota _ _ _ | .gangMm _ _ _ => gangMm _ _ _ | .gangPeg _ _ => gangPeg _ _
  | .gangRdacc _ _ => gangRdacc _ _ | .gangWracc _ _ => gangWracc _ _ | .gangZacc _ => gangZacc _
  | .sprsScan _ _ _ _ => sprsScan _ _ _ _ | .sprsS24 _ _ _ => sprsS24 _ _ _ | .latheReq _ _ _ _ => latheReq _ _ _ _
  | .grpArrive _ _ _ => grpArrive _ _ _ | .grpWait _ _ _ _ _ => grpWait _ _ _ _ _ | .grpDrop _ _ _ => grpDrop _ _ _
  | .grpInfo _ _ => grpInfo _ _ | .grpQuiet _ _ => grpQuiet _ _ | .sysRdk _ _ => sysRdk _ _
  | .sysWrk _ _ => sysWrk _ _ | .sysSetk _ _ => sysSetk _ _ | .sysClrk _ _ => sysClrk _ _
  | .sysTread _ _ _ => sysTread _ _ _ | .sysTwrite _ _ _ => sysTwrite _ _ _ | .sysTresume _ => sysTresume _
  | .sysTkill _ => sysTkill _ | .sysCall _ _ => sysCall _ _ | .sysBrk _ => sysBrk _ | .sysExit => sysExit
  | .sysNuld _ _ => sysNuld _ _ | .sysNust _ _ => sysNust _ _ | .sysTsave _ _ => sysTsave _ _
  | .sysTload _ _ => sysTload _ _ | .repeatFrameIssue => repeatFrameIssue
  | .gangPartComplete _ _ => gangPartComplete _ _ | .latheRequestStart _ => latheRequestStart _
  | .latheReply _ => latheReply _ | .waitExpiry _ => waitExpiry _ | .replyArrival _ => replyArrival _
  | .messageArrival => messageArrival | .trapQueueDelivery _ => trapQueueDelivery _
  | .contextSaveComplete _ => contextSaveComplete _ | .saveDeferralReport _ => saveDeferralReport _
  | .icacheMissFill _ => icacheMissFill _ | .pageWalkComplete _ => pageWalkComplete _
  | .homeRequestArrival _ => homeRequestArrival _ | .flitCheckFailure _ _ => flitCheckFailure _ _
  | .linkRetrainFailure _ => linkRetrainFailure _ | .tenureGrant _ => tenureGrant _
  | .recallDeadlineExpiry _ => recallDeadlineExpiry _ | .battenMergeStep _ => battenMergeStep _
  | .purlinDrainStep _ => purlinDrainStep _ | .beamSettleStep _ _ => beamSettleStep _ _
  | .beamIdleSettle _ _ => beamIdleSettle _ _ | .mscFilterClear _ => mscFilterClear _
  | .copyCompletion _ _ => copyCompletion _ _ | .prefetchServe _ => prefetchServe _
  | .prefetchDeadline _ => prefetchDeadline _ | .quiescenceWave _ => quiescenceWave _
  | .launchStart _ => launchStart _ | .multiDieLaunchStart => multiDieLaunchStart
  | .launchPriorityPromotion _ => launchPriorityPromotion _ | .launchEnd _ => launchEnd _
  | .launchSaveComplete _ => launchSaveComplete _ | .launchResumeStart _ => launchResumeStart _
  | .lqSubmit _ _ => lqSubmit _ _ | .lqPreempt _ _ => lqPreempt _ _ | .lqResume _ _ => lqResume _ _
  | .lqStop _ _ => lqStop _ _ | .lqFree _ _ => lqFree _ _ | .deviceRegisterWrite _ _ _ => deviceRegisterWrite _ _ _
  | .dclkTargetWrite _ _ => dclkTargetWrite _ _ | .clockRelockEnd _ => clockRelockEnd _
  | .thermalStepDown _ => thermalStepDown _ | .thermalRecovery _ => thermalRecovery _
  | .hbmRetrainRequest _ _ _ => hbmRetrainRequest _ _ _ | .retrainDeferralExpiry _ _ => retrainDeferralExpiry _ _
  | .hbmPhyError _ _ => hbmPhyError _ _ | .unmapMigrate _ _ _ => unmapMigrate _ _ _
  | .dieOfflineMark _ => dieOfflineMark _ | .heartbeatTimeout _ => heartbeatTimeout _
  | .thermalOfflineTimeout _ => thermalOfflineTimeout _ | .exportWindow _ => exportWindow _
  | .unexportWindow _ => unexportWindow _ | .diestat _ => diestat _ | .krestore _ => krestore _
  | .callAttest _ => callAttest _ | .rread _ => rread _ | .rwrite _ => rwrite _ | .ramo _ => ramo _
  | .rkey _ => rkey _ | .rmsg _ => rmsg _ | .remoteOpArrival _ => remoteOpArrival _
  | .remoteCallTimeout _ => remoteCallTimeout _ | .lateReplyDiscard _ => lateReplyDiscard _
  | .hostLoad _ _ => hostLoad _ _ | .hostSubmit _ _ _ _ => hostSubmit _ _ _ _ | .hostPreempt _ _ => hostPreempt _ _
  | .hostResume _ _ => hostResume _ _ | .hostStop _ _ => hostStop _ _ | .hostRead _ _ _ _ => hostRead _ _ _ _
  | .hostWrite _ _ _ _ => hostWrite _ _ _ _ | .hostCkpt _ => hostCkpt _ | .hostAttest _ _ _ => hostAttest _ _ _
  | .hostStatus _ => hostStatus _ | .hostUnload _ _ => hostUnload _ _ | .portDown _ => portDown _
  | .startUp _ => startUp _ | .remoteReplyArrival _ => remoteReplyArrival _
  | .hbmRetrainEnd _ _ _ => hbmRetrainEnd _ _ _ | .cxlLinkDown _ => cxlLinkDown _

end Laws.RoundTrip

/-- Only the issue of a frame and the events of the opcode table have no word. -/
theorem row_of_encode_eq_none {i : Instr} (hnone : encode i = none) :
    i = .repeatFrameIssue ∨ ∃ e : Machine.Event, rowOf e = some i := by
  cases i with
  | repeatFrameIssue => exact .inl rfl
  | gangPartComplete cl p => exact .inr ⟨.gangPartComplete cl p, rfl⟩
  | latheRequestStart cl => exact .inr ⟨.latheRequestStart cl, rfl⟩
  | latheReply cl => exact .inr ⟨.latheReply cl, rfl⟩
  | waitExpiry t => exact .inr ⟨.waitExpiry t, rfl⟩
  | replyArrival t => exact .inr ⟨.replyArrival t, rfl⟩
  | messageArrival => exact .inr ⟨.messageArrival, rfl⟩
  | trapQueueDelivery die => exact .inr ⟨.trapQueueDelivery die, rfl⟩
  | contextSaveComplete t => exact .inr ⟨.contextSaveComplete t, rfl⟩
  | saveDeferralReport t => exact .inr ⟨.saveDeferralReport t, rfl⟩
  | icacheMissFill t => exact .inr ⟨.icacheMissFill t, rfl⟩
  | pageWalkComplete t => exact .inr ⟨.pageWalkComplete t, rfl⟩
  | homeRequestArrival core => exact .inr ⟨.homeRequestArrival core, rfl⟩
  | flitCheckFailure core die => exact .inr ⟨.flitCheckFailure core die, rfl⟩
  | linkRetrainFailure link => exact .inr ⟨.linkRetrainFailure link, rfl⟩
  | tenureGrant sl => exact .inr ⟨.tenureGrant sl, rfl⟩
  | recallDeadlineExpiry sl => exact .inr ⟨.recallDeadlineExpiry sl, rfl⟩
  | battenMergeStep core => exact .inr ⟨.battenMergeStep core, rfl⟩
  | purlinDrainStep cl => exact .inr ⟨.purlinDrainStep cl, rfl⟩
  | beamSettleStep die q => exact .inr ⟨.beamSettleStep die q, rfl⟩
  | beamIdleSettle die q => exact .inr ⟨.beamIdleSettle die q, rfl⟩
  | mscFilterClear die => exact .inr ⟨.mscFilterClear die, rfl⟩
  | copyCompletion die unit => exact .inr ⟨.copyCompletion die unit, rfl⟩
  | prefetchServe die => exact .inr ⟨.prefetchServe die, rfl⟩
  | prefetchDeadline die => exact .inr ⟨.prefetchDeadline die, rfl⟩
  | quiescenceWave lid => exact .inr ⟨.quiescenceWave lid, rfl⟩
  | launchStart die => exact .inr ⟨.launchStart die, rfl⟩
  | multiDieLaunchStart => exact .inr ⟨.multiDieLaunchStart, rfl⟩
  | launchPriorityPromotion die => exact .inr ⟨.launchPriorityPromotion die, rfl⟩
  | launchEnd lid => exact .inr ⟨.launchEnd lid, rfl⟩
  | launchSaveComplete lid => exact .inr ⟨.launchSaveComplete lid, rfl⟩
  | launchResumeStart lid => exact .inr ⟨.launchResumeStart lid, rfl⟩
  | lqSubmit die slot => exact .inr ⟨.lqSubmit die slot, rfl⟩
  | lqPreempt die lid => exact .inr ⟨.lqPreempt die lid, rfl⟩
  | lqResume die lid => exact .inr ⟨.lqResume die lid, rfl⟩
  | lqStop die lid => exact .inr ⟨.lqStop die lid, rfl⟩
  | lqFree die slot => exact .inr ⟨.lqFree die slot, rfl⟩
  | deviceRegisterWrite pa n v => exact .inr ⟨.deviceRegisterWrite pa n v, rfl⟩
  | dclkTargetWrite die v => exact .inr ⟨.dclkTargetWrite die v, rfl⟩
  | clockRelockEnd die => exact .inr ⟨.clockRelockEnd die, rfl⟩
  | thermalStepDown die => exact .inr ⟨.thermalStepDown die, rfl⟩
  | thermalRecovery die => exact .inr ⟨.thermalRecovery die, rfl⟩
  | hbmRetrainRequest die stack rate => exact .inr ⟨.hbmRetrainRequest die stack rate, rfl⟩
  | retrainDeferralExpiry die stack => exact .inr ⟨.retrainDeferralExpiry die stack, rfl⟩
  | hbmPhyError die stack => exact .inr ⟨.hbmPhyError die stack, rfl⟩
  | unmapMigrate asid va dest => exact .inr ⟨.unmapMigrate asid va dest, rfl⟩
  | dieOfflineMark die => exact .inr ⟨.dieOfflineMark die, rfl⟩
  | heartbeatTimeout die => exact .inr ⟨.heartbeatTimeout die, rfl⟩
  | thermalOfflineTimeout die => exact .inr ⟨.thermalOfflineTimeout die, rfl⟩
  | exportWindow t => exact .inr ⟨.exportWindow t, rfl⟩
  | unexportWindow t => exact .inr ⟨.unexportWindow t, rfl⟩
  | diestat t => exact .inr ⟨.diestat t, rfl⟩
  | krestore t => exact .inr ⟨.krestore t, rfl⟩
  | callAttest t => exact .inr ⟨.callAttest t, rfl⟩
  | rread t => exact .inr ⟨.rread t, rfl⟩
  | rwrite t => exact .inr ⟨.rwrite t, rfl⟩
  | ramo t => exact .inr ⟨.ramo t, rfl⟩
  | rkey t => exact .inr ⟨.rkey t, rfl⟩
  | rmsg t => exact .inr ⟨.rmsg t, rfl⟩
  | remoteOpArrival op => exact .inr ⟨.remoteOpArrival op, rfl⟩
  | remoteCallTimeout t => exact .inr ⟨.remoteCallTimeout t, rfl⟩
  | lateReplyDiscard r => exact .inr ⟨.lateReplyDiscard r, rfl⟩
  | hostLoad h file => exact .inr ⟨.hostLoad h file, rfl⟩
  | hostSubmit h asid rec karg => exact .inr ⟨.hostSubmit h asid rec karg, rfl⟩
  | hostPreempt h lid => exact .inr ⟨.hostPreempt h lid, rfl⟩
  | hostResume h lid => exact .inr ⟨.hostResume h lid, rfl⟩
  | hostStop h lid => exact .inr ⟨.hostStop h lid, rfl⟩
  | hostRead h asid va len => exact .inr ⟨.hostRead h asid va len, rfl⟩
  | hostWrite h asid va data => exact .inr ⟨.hostWrite h asid va data, rfl⟩
  | hostCkpt h => exact .inr ⟨.hostCkpt h, rfl⟩
  | hostAttest h asid nonce => exact .inr ⟨.hostAttest h asid nonce, rfl⟩
  | hostStatus h => exact .inr ⟨.hostStatus h, rfl⟩
  | hostUnload h asid => exact .inr ⟨.hostUnload h asid, rfl⟩
  | portDown port => exact .inr ⟨.portDown port, rfl⟩
  | startUp r => exact .inr ⟨.startUp r, rfl⟩
  | remoteReplyArrival r => exact .inr ⟨.remoteReplyArrival r, rfl⟩
  | hbmRetrainEnd die stack ok => exact .inr ⟨.hbmRetrainEnd die stack ok, rfl⟩
  | cxlLinkDown port => exact .inr ⟨.cxlLinkDown port, rfl⟩
  | _ => exact nomatch hnone

/-- Settles O11: each constructor has its own round trip, and those without a word are the rows of `rowOf`. -/
theorem decodeOfEncode : Obligations.DecodeOfEncode := by
  unfold Obligations.DecodeOfEncode
  exact ⟨fun i w => Laws.RoundTrip.statement_all i w, fun _ _ => row_of_encode_eq_none⟩

/-! ## Encode of decode -/

theorem fld_lt (w lo n : Nat) : fld w lo n < 2 ^ n := Nat.mod_lt _ (Nat.two_pow_pos n)

theorem testBit_fld (w lo n j : Nat) : (fld w lo n).testBit j = (decide (j < n) && w.testBit (lo + j)) := by
  rw [fld, Nat.testBit_mod_two_pow, Nat.testBit_div_two_pow, Nat.add_comm]

/-- The lowest set bit, or the width where none is set. -/
theorem lowBit_spec (n v : Nat) : lowBit n v ≤ n ∧ (∀ i, i < lowBit n v → v.testBit i = false) ∧
    (lowBit n v < n → v.testBit (lowBit n v) = true) := by
  induction n generalizing v with
  | zero => exact ⟨le_rfl, fun i hi => absurd hi (Nat.not_lt_zero i), fun h => absurd h (lt_irrefl _)⟩
  | succ n ih =>
    rw [lowBit]
    split
    next hodd =>
      exact ⟨Nat.zero_le _, fun i hi => absurd hi (Nat.not_lt_zero i), fun _ => by rw [Nat.testBit_zero]; simpa using hodd⟩
    next heven =>
      obtain ⟨hle, hbelow, hat⟩ := ih (v / 2)
      refine ⟨by omega, fun i hi => ?_, fun h => ?_⟩
      · cases i with
        | zero => rw [Nat.testBit_zero]; simpa using heven
        | succ i => rw [Nat.testBit_succ]; exact hbelow i (by omega)
      · rw [Nat.add_comm, Nat.testBit_succ]; exact hat (by omega)

/-- The lowest set bit of a field that is not zero lies in it. -/
theorem lowBit_lt {n v : Nat} (hv : v < 2 ^ n) (hne : v ≠ 0) : lowBit n v < n := by
  obtain ⟨hle, hbelow, -⟩ := lowBit_spec n v
  refine lt_of_le_of_ne hle fun h => hne (Nat.eq_of_testBit_eq fun i => ?_)
  rw [Nat.zero_testBit]
  by_cases hi : i < n
  · exact hbelow i (by omega)
  · exact Nat.testBit_lt_two_pow (hv.trans_le (Nat.pow_le_pow_right (by decide) (by omega)))

/-- A part of a word's layout from bit 6 on: a field of the form's own, or a reserved field (R18). -/
inductive WordPart where
  | used (n : Nat)
  | rsv (n : Nat)

/-- The bits that a layout covers. -/
def width : List WordPart → Nat
  | [] => 0
  | .used n :: ps => n + width ps
  | .rsv n :: ps => n + width ps

/-- The reserved fields of a layout from bit `lo` on. -/
def reserved : Nat → List WordPart → List (Nat × Nat)
  | _, [] => []
  | lo, .used n :: ps => reserved (lo + n) ps
  | lo, .rsv n :: ps => (lo, n) :: reserved (lo + n) ps

/-- The bits of a word from bit `lo` on with zeros for its reserved fields. -/
def kept (w : Nat) : Nat → List WordPart → Nat
  | _, [] => 0
  | lo, .used n :: ps => fld w lo n + 2 ^ n * kept w (lo + n) ps
  | lo, .rsv n :: ps => 2 ^ n * kept w (lo + n) ps

theorem testBit_add_two_pow_mul {a n : Nat} (ha : a < 2 ^ n) (b j : Nat) :
    (a + 2 ^ n * b).testBit j = if j < n then a.testBit j else b.testBit (j - n) := by
  rw [Nat.add_comm, Nat.testBit_two_pow_mul_add b ha]

theorem testBit_two_pow_mul' (n b j : Nat) : (2 ^ n * b).testBit j = if j < n then false else b.testBit (j - n) := by
  simpa using testBit_add_two_pow_mul (Nat.two_pow_pos n) b j

/-- A layout keeps no bit that the word has not. -/
theorem testBit_of_kept {w lo j : Nat} {ps : List WordPart} (h : (kept w lo ps).testBit j = true) :
    w.testBit (lo + j) = true := by
  induction ps generalizing lo j with
  | nil => rw [kept, Nat.zero_testBit] at h; exact absurd h (by decide)
  | cons p ps ih =>
    cases p with
    | used n =>
      rw [kept, testBit_add_two_pow_mul (fld_lt w lo n)] at h
      split at h
      next hj => rw [testBit_fld, Bool.and_eq_true] at h; exact h.2
      next hj => rw [show lo + j = lo + n + (j - n) by omega]; exact ih h
    | rsv n =>
      rw [kept, testBit_two_pow_mul'] at h
      split at h
      next => exact absurd h (by decide)
      next hj => rw [show lo + j = lo + n + (j - n) by omega]; exact ih h

theorem fld_add (w lo n m : Nat) : fld w lo (n + m) = fld w lo n + 2 ^ n * fld w (lo + n) m := by
  rw [fld, fld, fld, Nat.pow_add 2 n, Nat.mod_mul, Nat.pow_add 2 lo, Nat.div_div_eq_div_mul]

/-- Where every reserved field is zero a layout keeps the whole word. -/
theorem kept_eq_fld {w lo : Nat} {ps : List WordPart} (h : rsvCheck w (reserved lo ps) = none) :
    kept w lo ps = fld w lo (width ps) := by
  induction ps generalizing lo with
  | nil => rw [kept, width, fld, pow_zero, Nat.mod_one]
  | cons p ps ih =>
    cases p with
    | used n => rw [kept, width, fld_add, ih h]
    | rsv n =>
      rw [reserved, rsvCheck] at h
      split at h
      next hz => rw [kept, width, fld_add, hz, ih h, Nat.zero_add]
      next => exact nomatch h

/-- The lowest offending bit (R25) is set, lies in the layout and is not kept, and below it the layout keeps every bit. -/
theorem kept_of_rsvCheck {w lo b : Nat} {ps : List WordPart} (h : rsvCheck w (reserved lo ps) = some b) :
    lo ≤ b ∧ b < lo + width ps ∧ w.testBit b = true ∧ (kept w lo ps).testBit (b - lo) = false ∧
      ∀ j, lo + j < b → (kept w lo ps).testBit j = w.testBit (lo + j) := by
  induction ps generalizing lo with
  | nil => exact nomatch h
  | cons p ps ih =>
    cases p with
    | used n =>
      obtain ⟨hlo, hhi, hb, hoff, hbelow⟩ := ih h
      simp only [kept, width, testBit_add_two_pow_mul (fld_lt w lo n)]
      refine ⟨by omega, by omega, hb, ?_, fun j hj => ?_⟩
      · rw [if_neg (by omega), Nat.sub_sub]; exact hoff
      · split
        next hjn => rw [testBit_fld, decide_eq_true hjn, Bool.true_and]
        next hjn => rw [hbelow _ (by omega), show lo + n + (j - n) = lo + j by omega]
    | rsv n =>
      simp only [kept, width, testBit_two_pow_mul']
      rw [reserved, rsvCheck] at h
      split at h
      next hz =>
        obtain ⟨hlo, hhi, hb, hoff, hbelow⟩ := ih h
        refine ⟨by omega, by omega, hb, ?_, fun j hj => ?_⟩
        · rw [if_neg (by omega), Nat.sub_sub]; exact hoff
        · split
          next hjn =>
            have hbit := testBit_fld w lo n j
            rwa [hz, Nat.zero_testBit, decide_eq_true hjn, Bool.true_and] at hbit
          next hjn => rw [hbelow _ (by omega), show lo + n + (j - n) = lo + j by omega]
      next hne =>
        obtain rfl := Option.some.inj h
        obtain ⟨-, hbelow, hat⟩ := lowBit_spec n (fld w lo n)
        have hlt := lowBit_lt (fld_lt w lo n) hne
        refine ⟨by omega, by omega, ?_, ?_, fun j hj => ?_⟩
        · have hset := hat hlt
          rwa [testBit_fld, decide_eq_true hlt, Bool.true_and] at hset
        · rw [Nat.add_sub_cancel_left, if_pos hlt]
        · rw [if_pos (by omega)]
          have hclear := hbelow j (by omega)
          rw [testBit_fld, decide_eq_true (show j < n by omega), Bool.true_and] at hclear
          exact hclear.symm

/-- The number `x` is the word `w` with its lowest offending bit `b` and some of its set bits above it cleared (R25). -/
def Clears (w b x : Nat) : Prop :=
  b < 32 ∧ w.testBit b = true ∧ x.testBit b = false ∧ x % 64 = w % 64 ∧ (∀ j, j < b → x.testBit j = w.testBit j) ∧
    ∀ j, x.testBit j = true → w.testBit j = true

/-- What a decoder's answer says of a word: an instruction is well formed and the word is its word; an offending bit is the
lowest one, and with it and some bits above it cleared the word is one of a well-formed instruction. -/
def IsWordOf (w : Nat) (r : Except DecodeErr Instr) : Prop :=
  (∀ i, r = .ok i → i.wf = true ∧ encode i = some w) ∧
  ∀ b, r = .error (.reservedField b) → ∃ i x, i.wf = true ∧ encode i = some x ∧ Clears w b x

theorem isWordOf_illegal (w : Nat) : IsWordOf w illegal := ⟨fun _ h => (nomatch h), fun _ h => nomatch h⟩

/-- An operand of a form is the one whose code the field holds. -/
theorem isWordOf_need {α : Type} {w k : Nat} {code : α → Nat} {ofCode : Nat → Option α}
    {f : α → Except DecodeErr Instr} (hcode : ∀ {k x}, ofCode k = some x → code x = k)
    (h : ∀ x, code x = k → IsWordOf w (f x)) : IsWordOf w (need (ofCode k) f) := by
  unfold need
  split
  next x hx => exact h x (hcode hx)
  next => exact isWordOf_illegal w

theorem isWordOf_noCount {w : Nat} {r : Except DecodeErr Instr} (h : fld w 16 8 = 0 → IsWordOf w r) :
    IsWordOf w (noCount w r) := by
  unfold noCount
  split
  next hk => exact h hk
  next => exact isWordOf_illegal w

theorem head_add_mod (w k : Nat) : (fld w 0 6 + 64 * k) % 64 = w % 64 := by
  have hhead : fld w 0 6 = w % 64 := by simp [fld]
  omega

/-- A decided form whose encoding is what a layout keeps of the word. -/
theorem isWordOf_done {w x : Nat} {rs : List (Nat × Nat)} {i : Instr} (hw : w < 2 ^ 32) (ps : List WordPart)
    (hrs : reserved 6 ps = rs) (hn : width ps = 26) (hi : encode i = some x) (hx : x = fld w 0 6 + 2 ^ 6 * kept w 6 ps) :
    IsWordOf w (done w rs i) := by
  subst hrs
  rw [done]
  split
  next hwf =>
    split
    next hr =>
      have hword : x = w := by
        rw [hx, kept_eq_fld hr, hn, ← fld_add w 0 6 26, fld, pow_zero, Nat.div_one, Nat.mod_eq_of_lt hw]
      refine ⟨fun j hj => ?_, fun _ h => nomatch h⟩
      cases hj
      exact ⟨hwf, hword ▸ hi⟩
    next b hr =>
      obtain ⟨hlo, hhi, hb, hoff, hbelow⟩ := kept_of_rsvCheck hr
      have hbit (j : Nat) : x.testBit j = if j < 6 then w.testBit j else (kept w 6 ps).testBit (j - 6) := by
        rw [hx, testBit_add_two_pow_mul (fld_lt w 0 6), testBit_fld, Nat.zero_add]
        by_cases hj : j < 6 <;> simp [hj]
      refine ⟨fun _ h => (nomatch h), fun b' hb' => ?_⟩
      cases hb'
      refine ⟨i, x, hwf, hi, by omega, hb, ?_, ?_, fun j hj => ?_, fun j hj => ?_⟩
      · rw [hbit, if_neg (by omega)]; exact hoff
      · rw [hx]; exact head_add_mod w _
      · rw [hbit]
        split
        next => rfl
        next hj6 => rw [hbelow _ (by omega), show 6 + (j - 6) = j by omega]
      · rw [hbit] at hj
        split at hj
        next => exact hj
        next hj6 => rw [show j = 6 + (j - 6) by omega]; exact testBit_of_kept hj
  next => exact isWordOf_illegal w

@[simp] theorem regAt_val (w lo : Nat) : (regAt w lo).val = fld w lo 5 := rfl
@[simp] theorem mregAt_val (w lo : Nat) : (mregAt w lo).val = fld w lo 3 := rfl

@[simp] theorem toNat_ofNat_fld (w lo n : Nat) : (BitVec.ofNat n (fld w lo n)).toNat = fld w lo n :=
  (BitVec.toNat_ofNat ..).trans (Nat.mod_mod _ _)


theorem Size.code_of_ofCode {k : Nat} {x : Size} (h : Size.ofCode k = some x) : x.code = k := by
  unfold Size.ofCode at h
  split at h <;> cases h <;> rfl

theorem SSize.code_of_ofCode {k : Nat} {x : SSize} (h : SSize.ofCode k = some x) : x.code = k := by
  unfold SSize.ofCode at h
  split at h <;> cases h <;> rfl

theorem Scope.code_of_ofCode {k : Nat} {x : Scope} (h : Scope.ofCode k = some x) : x.code = k := by
  unfold Scope.ofCode at h
  split at h <;> cases h <;> rfl

theorem AmoPlace.code_of_ofCode {k : Nat} {x : AmoPlace} (h : AmoPlace.ofCode k = some x) : x.code = k := by
  unfold AmoPlace.ofCode at h
  split at h <;> cases h <;> rfl

theorem VType.code_of_ofCode {k : Nat} {x : VType} (h : VType.ofCode k = some x) : x.code = k := by
  unfold VType.ofCode at h
  split at h <;> cases h <;> rfl

theorem AcqMode.code_of_ofCode {k : Nat} {x : AcqMode} (h : AcqMode.ofCode k = some x) : x.code = k := by
  unfold AcqMode.ofCode at h
  split at h <;> cases h <;> rfl

theorem FTy.code_of_ofCode {k : Nat} {x : FTy} (h : FTy.ofCode k = some x) : x.code = k := by
  unfold FTy.ofCode at h
  split at h <;> cases h <;> rfl

theorem ITy.code_of_ofCode {k : Nat} {x : ITy} (h : ITy.ofCode k = some x) : x.code = k := by
  unfold ITy.ofCode at h
  split at h <;> cases h <;> rfl

theorem ElemTy.code_of_ofCode {k : Nat} {x : ElemTy} (h : ElemTy.ofCode k = some x) : x.code = k := by
  unfold ElemTy.ofCode at h
  split at h <;> cases h <;> rfl

theorem DTable.code_of_ofCode {k : Nat} {x : DTable} (h : DTable.ofCode k = some x) : x.code = k := by
  unfold DTable.ofCode at h
  split at h <;> cases h <;> rfl

theorem KReg.code_of_ofCode {k : Nat} {x : KReg} (h : KReg.ofCode k = some x) : x.code = k := by
  unfold KReg.ofCode at h
  split at h
  case h_21 =>
    split at h
    next hk => cases h; simp only [KReg.code, Fin.val_ofNat]; omega
    next =>
      split at h
      next hk => cases h; simp only [KReg.code, Fin.val_ofNat]; omega
      next => cases h
  all_goals cases h; rfl

theorem TState.code_of_ofCode {k : Nat} {x : TState} (h : TState.ofCode k = some x) : x.code = k := by
  simp only [TState.ofCode] at h
  split at h
  next =>
    obtain ⟨r, hr, rfl⟩ := Option.map_eq_some_iff.mp h
    exact KReg.code_of_ofCode hr
  next =>
    repeat' split at h
    all_goals cases h
    all_goals simp only [TState.code, Fin.val_ofNat]
    all_goals omega

theorem BlkW.code_ofCode {k : Nat} (h : k < 2 ^ 1) : (BlkW.ofCode k).code = k := by
  interval_cases k <;> rfl

theorem CRnd.code_ofCode {k : Nat} (h : k < 2 ^ 2) : (CRnd.ofCode k).code = k := by
  interval_cases k <;> rfl

theorem GSize.code_ofCode {k : Nat} (h : k < 2 ^ 2) : (GSize.ofCode k).code = k := by
  interval_cases k <;> rfl

theorem toNat_beq_one {k : Nat} (h : k < 2 ^ 1) : (k == 1).toNat = k := by
  interval_cases k <;> rfl

theorem toNat_ofNat_shift (w : Nat) :
    (BitVec.ofNat 6 (32 * fld w 28 1 + fld w 16 5)).toNat = 32 * fld w 28 1 + fld w 16 5 := by
  have hhigh := fld_lt w 28 1
  have hlow := fld_lt w 16 5
  rw [BitVec.toNat_ofNat, Nat.mod_eq_of_lt (by omega)]

section
variable {w : Nat} (hw : w < 2 ^ 32)
include hw

/-- The forms of a register, a register and a 16-bit immediate. -/
theorem isWordOf_imm16 {op : Nat} {f : Reg → Reg → BitVec 16 → Instr} (hm : fld w 0 6 = op)
    (hf : ∀ d a k, encode (f d a k) = some (op + 64 * d.val + 2048 * a.val + 65536 * k.toNat)) :
    IsWordOf w (done w [] (f (regAt w 6) (regAt w 11) (BitVec.ofNat 16 (fld w 16 16)))) := by
  refine isWordOf_done hw [.used 5, .used 5, .used 16] rfl rfl (hf ..) ?_
  simp only [kept, regAt_val, toNat_ofNat_fld, Nat.reduceAdd, Nat.reducePow, Nat.mul_zero, Nat.add_zero]
  omega

/-- The forms of a register and a 21-bit immediate. -/
theorem isWordOf_imm21 {op : Nat} {f : Reg → BitVec 21 → Instr} (hm : fld w 0 6 = op)
    (hf : ∀ d k, encode (f d k) = some (op + 64 * d.val + 2048 * k.toNat)) :
    IsWordOf w (done w [] (f (regAt w 6) (BitVec.ofNat 21 (fld w 11 21)))) := by
  refine isWordOf_done hw [.used 5, .used 21] rfl rfl (hf ..) ?_
  simp only [kept, regAt_val, toNat_ofNat_fld, Nat.reduceAdd, Nat.reducePow, Nat.mul_zero, Nat.add_zero]
  omega

theorem isWordOf_decOpi (hm : fld w 0 6 = 1) : IsWordOf w (decOpi w) := by
  unfold decOpi
  split
  case h_23 => exact isWordOf_illegal w
  case h_17 | h_18 | h_19 | h_20 | h_21 | h_22 =>
    refine isWordOf_done hw [.used 5, .used 5, .rsv 5, .used 7, .rsv 4]
      rfl rfl rfl ?_
    simp only [kept, regAt_val, Nat.reduceAdd, Nat.reducePow, Nat.mul_zero, Nat.add_zero]
    omega
  all_goals
    refine isWordOf_done hw [.used 5, .used 5, .used 5, .used 7, .rsv 4]
      rfl rfl rfl ?_
    simp only [kept, regAt_val, Nat.reduceAdd, Nat.reducePow, Nat.mul_zero, Nat.add_zero]
    omega

theorem isWordOf_decShi (hm : fld w 0 6 = 10) : IsWordOf w (decShi w) := by
  have hlow := fld_lt w 16 5
  unfold decShi
  split
  case h_10 => exact isWordOf_illegal w
  case h_1 | h_2 | h_3 | h_4 =>
    refine isWordOf_done hw [.used 5, .used 5, .used 5, .used 7, .used 1, .rsv 3]
      rfl rfl rfl ?_
    simp only [kept, regAt_val, toNat_ofNat_shift, Nat.reduceAdd, Nat.reducePow, Nat.mul_zero, Nat.add_zero]
    omega
  all_goals
    refine isWordOf_done hw [.used 5, .used 5, .rsv 5, .used 7, .rsv 4]
      rfl rfl rfl ?_
    simp only [kept, regAt_val, Nat.reduceAdd, Nat.reducePow, Nat.mul_zero, Nat.add_zero]
    omega

theorem isWordOf_decMuldiv (hm : fld w 0 6 = 11) : IsWordOf w (decMuldiv w) := by
  unfold decMuldiv
  split
  case h_9 => exact isWordOf_illegal w
  all_goals
    refine isWordOf_done hw [.used 5, .used 5, .used 5, .used 7, .rsv 4]
      rfl rfl rfl ?_
    simp only [kept, regAt_val, Nat.reduceAdd, Nat.reducePow, Nat.mul_zero, Nat.add_zero]
    omega

theorem isWordOf_decBr (hm : fld w 0 6 = 12) : IsWordOf w (decBr w) := by
  have hcond := fld_lt w 16 3
  unfold decBr
  split
  case h_8 =>
    have hlast : fld w 16 3 = 7 := by simp only [imp_false] at *; omega
    refine isWordOf_done hw [.used 5, .used 5, .used 3, .used 13]
      rfl rfl rfl ?_
    simp only [kept, regAt_val, toNat_ofNat_fld, Nat.reduceAdd, Nat.reducePow, Nat.mul_zero, Nat.add_zero]
    omega
  all_goals
    refine isWordOf_done hw [.used 5, .used 5, .used 3, .used 13]
      rfl rfl rfl ?_
    simp only [kept, regAt_val, toNat_ofNat_fld, Nat.reduceAdd, Nat.reducePow, Nat.mul_zero, Nat.add_zero]
    omega

theorem isWordOf_decRep (hm : fld w 0 6 = 15) : IsWordOf w (decRep w) := by
  unfold decRep
  refine isWordOf_done hw [.used 8, .used 4, .used 4, .used 4, .used 4, .rsv 2]
    rfl rfl rfl ?_
  simp only [kept, toNat_ofNat_fld, Nat.reduceAdd, Nat.reducePow, Nat.mul_zero, Nat.add_zero]
  omega

theorem isWordOf_decLd (hm : fld w 0 6 = 16) : IsWordOf w (decLd w) := by
  unfold decLd
  split
  case h_4 => exact isWordOf_illegal w
  all_goals
    refine isWordOf_need Size.code_of_ofCode fun sz hsz =>
      isWordOf_done hw [.used 5, .used 5, .used 3, .used 2, .used 11]
      rfl rfl rfl ?_
    simp only [kept, regAt_val, toNat_ofNat_fld, Nat.reduceAdd, Nat.reducePow, Nat.mul_zero, Nat.add_zero]
    omega

theorem isWordOf_decSt (hm : fld w 0 6 = 17) : IsWordOf w (decSt w) := by
  unfold decSt
  split
  case h_4 => exact isWordOf_illegal w
  all_goals
    refine isWordOf_need Size.code_of_ofCode fun sz hsz =>
      isWordOf_done hw [.used 5, .used 5, .used 3, .used 2, .used 11]
      rfl rfl rfl ?_
    simp only [kept, regAt_val, toNat_ofNat_fld, Nat.reduceAdd, Nat.reducePow, Nat.mul_zero, Nat.add_zero]
    omega

theorem isWordOf_decLds (hm : fld w 0 6 = 18) : IsWordOf w (decLds w) := by
  unfold decLds
  refine isWordOf_need SSize.code_of_ofCode fun sz hsz =>
    isWordOf_done hw [.used 5, .used 5, .used 3, .rsv 2, .used 11]
    rfl rfl rfl ?_
  simp only [kept, regAt_val, toNat_ofNat_fld, Nat.reduceAdd, Nat.reducePow, Nat.mul_zero, Nat.add_zero]
  omega

theorem isWordOf_decSts (hm : fld w 0 6 = 19) : IsWordOf w (decSts w) := by
  unfold decSts
  refine isWordOf_need SSize.code_of_ofCode fun sz hsz =>
    isWordOf_done hw [.used 5, .used 5, .used 3, .rsv 2, .used 11]
    rfl rfl rfl ?_
  simp only [kept, regAt_val, toNat_ofNat_fld, Nat.reduceAdd, Nat.reducePow, Nat.mul_zero, Nat.add_zero]
  omega

theorem isWordOf_decVlds (hm : fld w 0 6 = 24) : IsWordOf w (decVlds w) := by
  unfold decVlds
  split
  case h_1 =>
    refine isWordOf_done hw [.used 5, .used 5, .used 3, .rsv 2, .used 11]
      rfl rfl rfl ?_
    simp only [kept, regAt_val, toNat_ofNat_fld, Nat.reduceAdd, Nat.reducePow, Nat.mul_zero, Nat.add_zero]
    omega
  case h_2 => exact isWordOf_illegal w

theorem isWordOf_decVsts (hm : fld w 0 6 = 25) : IsWordOf w (decVsts w) := by
  unfold decVsts
  split
  case h_1 =>
    refine isWordOf_done hw [.used 5, .used 5, .used 3, .rsv 2, .used 11]
      rfl rfl rfl ?_
    simp only [kept, regAt_val, toNat_ofNat_fld, Nat.reduceAdd, Nat.reducePow, Nat.mul_zero, Nat.add_zero]
    omega
  case h_2 => exact isWordOf_illegal w

theorem isWordOf_decFe (hm : fld w 0 6 = 20) : IsWordOf w (decFe w) := by
  have hform := fld_lt w 19 2
  unfold decFe
  split
  case h_1 =>
    split
    case h_4 =>
      have hlast : fld w 19 2 = 3 := by simp only [imp_false] at *; omega
      refine isWordOf_done hw [.used 5, .used 5, .used 3, .used 2, .used 11]
        rfl rfl rfl ?_
      simp only [kept, regAt_val, toNat_ofNat_fld, Nat.reduceAdd, Nat.reducePow, Nat.mul_zero, Nat.add_zero]
      omega
    all_goals
      refine isWordOf_done hw [.used 5, .used 5, .used 3, .used 2, .used 11]
        rfl rfl rfl ?_
      simp only [kept, regAt_val, toNat_ofNat_fld, Nat.reduceAdd, Nat.reducePow, Nat.mul_zero, Nat.add_zero]
      omega
  case h_2 => exact isWordOf_illegal w

theorem isWordOf_decAmo (hm : fld w 0 6 = 21) : IsWordOf w (decAmo w) := by
  unfold decAmo
  split
  case h_11 => exact isWordOf_illegal w
  all_goals
    refine isWordOf_need AmoPlace.code_of_ofCode fun x hx =>
      isWordOf_done hw [.used 5, .used 5, .used 5, .used 4, .rsv 4, .used 3]
      rfl rfl rfl ?_
    simp only [kept, regAt_val, Nat.reduceAdd, Nat.reducePow, Nat.mul_zero, Nat.add_zero]
    omega

theorem isWordOf_decOrd (hm : fld w 0 6 = 22) : IsWordOf w (decOrd w) := by
  have hsize := fld_lt w 21 2
  unfold decOrd
  split
  case h_12 => exact isWordOf_illegal w
  case h_1 | h_2 | h_3 =>
    refine isWordOf_need Scope.code_of_ofCode fun x hx => isWordOf_done hw [.rsv 15, .used 4, .rsv 4, .used 3]
      rfl rfl rfl ?_
    simp only [kept, Nat.reduceAdd, Nat.reducePow, Nat.mul_zero, Nat.add_zero]
    omega
  case h_4 | h_5 | h_6 | h_7 =>
    have hsplit : fld w 21 4 = fld w 21 2 + 2 ^ 2 * fld w 23 2 := fld_add w 21 2 2
    refine isWordOf_need Scope.code_of_ofCode fun x hx =>
      isWordOf_need Size.code_of_ofCode fun sz hsz =>
      isWordOf_done hw [.used 5, .used 5, .rsv 5, .used 4, .rsv 4, .used 3]
      rfl rfl rfl ?_
    simp only [kept, regAt_val, Nat.reduceAdd, Nat.reducePow, Nat.mul_zero, Nat.add_zero]
    omega
  all_goals
    have hsplit : fld w 21 4 = fld w 21 2 + 2 ^ 2 * fld w 23 2 := fld_add w 21 2 2
    refine isWordOf_need Scope.code_of_ofCode fun x hx =>
      isWordOf_need Size.code_of_ofCode fun sz hsz =>
      isWordOf_done hw [.rsv 5, .used 5, .used 5, .used 4, .rsv 4, .used 3]
      rfl rfl rfl ?_
    simp only [kept, regAt_val, Nat.reduceAdd, Nat.reducePow, Nat.mul_zero, Nat.add_zero]
    omega

theorem isWordOf_decKey (hm : fld w 0 6 = 23) : IsWordOf w (decKey w) := by
  unfold decKey
  split
  case h_1 =>
    refine isWordOf_need VType.code_of_ofCode fun x hx =>
      isWordOf_done hw [.used 5, .used 5, .used 5, .used 4, .used 4, .used 3]
      rfl rfl rfl ?_
    simp only [kept, regAt_val, toNat_ofNat_fld, Nat.reduceAdd, Nat.reducePow, Nat.mul_zero, Nat.add_zero]
    omega
  case h_2 =>
    refine isWordOf_need VType.code_of_ofCode fun x hx =>
      isWordOf_done hw [.used 5, .used 5, .rsv 5, .used 4, .rsv 4, .used 3]
      rfl rfl rfl ?_
    simp only [kept, regAt_val, Nat.reduceAdd, Nat.reducePow, Nat.mul_zero, Nat.add_zero]
    omega
  case h_3 =>
    split
    case h_1 =>
      refine isWordOf_done hw [.used 5, .used 5, .rsv 5, .used 4, .rsv 4, .used 3]
        rfl rfl rfl ?_
      simp only [kept, regAt_val, Nat.reduceAdd, Nat.reducePow, Nat.mul_zero, Nat.add_zero]
      omega
    case h_2 => exact isWordOf_illegal w
  case h_4 =>
    refine isWordOf_need Scope.code_of_ofCode fun x hx =>
      isWordOf_done hw [.used 5, .rsv 10, .used 4, .used 4, .used 3]
      rfl rfl rfl ?_
    simp only [kept, regAt_val, toNat_ofNat_fld, Nat.reduceAdd, Nat.reducePow, Nat.mul_zero, Nat.add_zero]
    omega
  case h_5 =>
    split
    case h_3 => exact isWordOf_illegal w
    case h_1 | h_2 =>
      refine isWordOf_done hw [.used 5, .used 5, .used 5, .used 4, .rsv 4, .used 3]
        rfl rfl rfl ?_
      simp only [kept, regAt_val, Nat.reduceAdd, Nat.reducePow, Nat.mul_zero, Nat.add_zero]
      omega
  case h_8 => exact isWordOf_illegal w
  case h_6 | h_7 =>
    refine isWordOf_done hw [.used 5, .used 5, .rsv 5, .used 4, .rsv 7]
      rfl rfl rfl ?_
    simp only [kept, regAt_val, Nat.reduceAdd, Nat.reducePow, Nat.mul_zero, Nat.add_zero]
    omega

theorem isWordOf_decQst (hm : fld w 0 6 = 26) : IsWordOf w (decQst w) := by
  unfold decQst
  split
  case h_1 =>
    refine isWordOf_done hw [.used 5, .used 5, .used 1, .used 1, .used 1, .used 2, .used 11]
      rfl rfl rfl ?_
    simp only [kept, regAt_val, toNat_ofNat_fld, BlkW.code_ofCode (fld_lt ..), toNat_beq_one (fld_lt ..), Nat.reduceAdd,
      Nat.reducePow, Nat.mul_zero, Nat.add_zero]
    omega
  case h_2 =>
    split
    case h_1 =>
      refine isWordOf_done hw [.used 5, .used 5, .used 1, .used 1, .used 1, .used 2, .used 11]
        rfl rfl rfl ?_
      simp only [kept, regAt_val, toNat_ofNat_fld, BlkW.code_ofCode (fld_lt ..), toNat_beq_one (fld_lt ..),
        Nat.reduceAdd, Nat.reducePow, Nat.mul_zero, Nat.add_zero]
      omega
    case h_2 => exact isWordOf_illegal w
  case h_3 => exact isWordOf_illegal w

theorem isWordOf_decBit (hm : fld w 0 6 = 27) : IsWordOf w (decBit w) := by
  unfold decBit
  split
  case h_1 =>
    refine isWordOf_done hw [.used 5, .used 5, .used 8, .used 4, .rsv 4]
      rfl rfl rfl ?_
    simp only [kept, regAt_val, toNat_ofNat_fld, Nat.reduceAdd, Nat.reducePow, Nat.mul_zero, Nat.add_zero]
    omega
  case h_4 =>
    refine isWordOf_done hw [.rsv 10, .used 8, .used 4, .rsv 4]
      rfl rfl rfl ?_
    simp only [kept, toNat_ofNat_fld, Nat.reduceAdd, Nat.reducePow, Nat.mul_zero, Nat.add_zero]
    omega
  case h_5 =>
    refine isWordOf_noCount fun hk => isWordOf_done hw [.used 5, .used 5, .used 8, .used 4, .rsv 4]
      rfl rfl rfl ?_
    simp only [kept, regAt_val, Nat.reduceAdd, Nat.reducePow, Nat.mul_zero, Nat.add_zero]
    omega
  case h_9 => exact isWordOf_illegal w
  case h_2 | h_3 =>
    refine isWordOf_done hw [.used 5, .rsv 5, .used 8, .used 4, .rsv 4]
      rfl rfl rfl ?_
    simp only [kept, regAt_val, toNat_ofNat_fld, Nat.reduceAdd, Nat.reducePow, Nat.mul_zero, Nat.add_zero]
    omega
  all_goals
    refine isWordOf_noCount fun hk => isWordOf_done hw [.used 5, .rsv 5, .used 8, .used 4, .rsv 4]
      rfl rfl rfl ?_
    simp only [kept, regAt_val, Nat.reduceAdd, Nat.reducePow, Nat.mul_zero, Nat.add_zero]
    omega

theorem isWordOf_decMsg (hm : fld w 0 6 = 28) : IsWordOf w (decMsg w) := by
  unfold decMsg
  split
  case h_1 =>
    refine isWordOf_done hw [.rsv 5, .used 5, .rsv 5, .used 4, .rsv 7]
      rfl rfl rfl ?_
    simp only [kept, regAt_val, Nat.reduceAdd, Nat.reducePow, Nat.mul_zero, Nat.add_zero]
    omega
  case h_6 =>
    refine isWordOf_done hw [.used 5, .used 5, .used 5, .used 4, .rsv 7]
      rfl rfl rfl ?_
    simp only [kept, regAt_val, Nat.reduceAdd, Nat.reducePow, Nat.mul_zero, Nat.add_zero]
    omega
  case h_7 =>
    refine isWordOf_done hw [.rsv 15, .used 4, .rsv 7]
      rfl rfl rfl ?_
    simp only [kept, Nat.reduceAdd, Nat.reducePow, Nat.mul_zero, Nat.add_zero]
    omega
  case h_8 => exact isWordOf_illegal w
  case h_2 | h_3 =>
    refine isWordOf_done hw [.used 5, .used 5, .used 5, .used 4, .used 4, .rsv 3]
      rfl rfl rfl ?_
    simp only [kept, regAt_val, toNat_ofNat_fld, Nat.reduceAdd, Nat.reducePow, Nat.mul_zero, Nat.add_zero]
    omega
  case h_4 | h_5 =>
    refine isWordOf_done hw [.used 5, .used 5, .rsv 5, .used 4, .used 4, .rsv 3]
      rfl rfl rfl ?_
    simp only [kept, regAt_val, toNat_ofNat_fld, Nat.reduceAdd, Nat.reducePow, Nat.mul_zero, Nat.add_zero]
    omega

theorem isWordOf_decCpy (hm : fld w 0 6 = 29) : IsWordOf w (decCpy w) := by
  unfold decCpy
  split
  case h_7 => exact isWordOf_illegal w
  case h_1 | h_5 =>
    refine isWordOf_done hw [.used 5, .used 5, .used 5, .used 4, .rsv 7]
      rfl rfl rfl ?_
    simp only [kept, regAt_val, Nat.reduceAdd, Nat.reducePow, Nat.mul_zero, Nat.add_zero]
    omega
  case h_2 | h_3 =>
    refine isWordOf_done hw [.used 5, .used 5, .used 5, .used 4, .used 4, .rsv 3]
      rfl rfl rfl ?_
    simp only [kept, regAt_val, toNat_ofNat_fld, Nat.reduceAdd, Nat.reducePow, Nat.mul_zero, Nat.add_zero]
    omega
  case h_4 | h_6 =>
    refine isWordOf_done hw [.used 5, .used 5, .rsv 5, .used 4, .rsv 7]
      rfl rfl rfl ?_
    simp only [kept, regAt_val, Nat.reduceAdd, Nat.reducePow, Nat.mul_zero, Nat.add_zero]
    omega

theorem isWordOf_decTil (hm : fld w 0 6 = 30) : IsWordOf w (decTil w) := by
  unfold decTil
  split
  case h_1 =>
    refine isWordOf_done hw [.used 5, .used 5, .rsv 5, .used 4, .used 4, .rsv 3]
      rfl rfl rfl ?_
    simp only [kept, regAt_val, toNat_ofNat_fld, Nat.reduceAdd, Nat.reducePow, Nat.mul_zero, Nat.add_zero]
    omega
  case h_2 =>
    refine isWordOf_done hw [.used 5, .used 5, .rsv 5, .used 4, .rsv 7]
      rfl rfl rfl ?_
    simp only [kept, regAt_val, Nat.reduceAdd, Nat.reducePow, Nat.mul_zero, Nat.add_zero]
    omega
  case h_3 =>
    refine isWordOf_need AcqMode.code_of_ofCode fun x hx =>
      isWordOf_done hw [.used 5, .used 5, .used 5, .used 4, .used 4, .used 3]
      rfl rfl rfl ?_
    simp only [kept, regAt_val, toNat_ofNat_fld, Nat.reduceAdd, Nat.reducePow, Nat.mul_zero, Nat.add_zero]
    omega
  case h_7 => exact isWordOf_illegal w
  all_goals
    refine isWordOf_done hw [.used 5, .used 5, .used 5, .used 4, .rsv 7]
      rfl rfl rfl ?_
    simp only [kept, regAt_val, Nat.reduceAdd, Nat.reducePow, Nat.mul_zero, Nat.add_zero]
    omega

theorem isWordOf_decXpf (hm : fld w 0 6 = 31) : IsWordOf w (decXpf w) := by
  unfold decXpf
  split
  case h_2 =>
    refine isWordOf_done hw [.used 5, .used 5, .used 5, .used 4, .rsv 7]
      rfl rfl rfl ?_
    simp only [kept, regAt_val, Nat.reduceAdd, Nat.reducePow, Nat.mul_zero, Nat.add_zero]
    omega
  case h_4 => exact isWordOf_illegal w
  case h_1 | h_3 =>
    refine isWordOf_done hw [.used 5, .used 5, .rsv 5, .used 4, .rsv 7]
      rfl rfl rfl ?_
    simp only [kept, regAt_val, Nat.reduceAdd, Nat.reducePow, Nat.mul_zero, Nat.add_zero]
    omega

theorem isWordOf_decVfp (hm : fld w 0 6 = 32) : IsWordOf w (decVfp w) := by
  unfold decVfp
  split
  case h_18 => exact isWordOf_illegal w
  case h_5 | h_11 | h_12 =>
    refine isWordOf_need FTy.code_of_ofCode fun ty hty =>
      isWordOf_done hw [.used 5, .used 5, .rsv 5, .used 6, .used 3, .used 2]
      rfl rfl rfl ?_
    simp only [kept, regAt_val, mregAt_val, Nat.reduceAdd, Nat.reducePow, Nat.mul_zero, Nat.add_zero]
    omega
  case h_14 | h_15 | h_16 | h_17 =>
    split
    case h_1 =>
      refine isWordOf_done hw [.used 3, .rsv 2, .used 5, .used 5, .used 6, .used 3, .used 2]
        rfl rfl rfl ?_
      simp only [kept, regAt_val, mregAt_val, Nat.reduceAdd, Nat.reducePow, Nat.mul_zero, Nat.add_zero]
      omega
    case h_2 => exact isWordOf_illegal w
  all_goals
    refine isWordOf_need FTy.code_of_ofCode fun ty hty =>
      isWordOf_done hw [.used 5, .used 5, .used 5, .used 6, .used 3, .used 2]
      rfl rfl rfl ?_
    simp only [kept, regAt_val, mregAt_val, Nat.reduceAdd, Nat.reducePow, Nat.mul_zero, Nat.add_zero]
    omega

theorem isWordOf_decVint (hm : fld w 0 6 = 33) : IsWordOf w (decVint w) := by
  unfold decVint
  split
  case h_23 => exact isWordOf_illegal w
  case h_20 | h_21 | h_22 =>
    split
    case h_1 =>
      refine isWordOf_done hw [.used 3, .rsv 2, .used 5, .used 5, .used 6, .used 3, .used 2]
        rfl rfl rfl ?_
      simp only [kept, regAt_val, mregAt_val, Nat.reduceAdd, Nat.reducePow, Nat.mul_zero, Nat.add_zero]
      omega
    case h_2 => exact isWordOf_illegal w
  all_goals
    refine isWordOf_need ITy.code_of_ofCode fun ty hty =>
      isWordOf_done hw [.used 5, .used 5, .used 5, .used 6, .used 3, .used 2]
      rfl rfl rfl ?_
    simp only [kept, regAt_val, mregAt_val, Nat.reduceAdd, Nat.reducePow, Nat.mul_zero, Nat.add_zero]
    omega

theorem isWordOf_decVcvt (hm : fld w 0 6 = 34) : IsWordOf w (decVcvt w) := by
  unfold decVcvt
  split
  case h_14 => exact isWordOf_illegal w
  case h_5 | h_6 | h_7 | h_8 =>
    refine isWordOf_done hw [.used 5, .used 5, .rsv 5, .used 6, .used 3, .rsv 2]
      rfl rfl rfl ?_
    simp only [kept, regAt_val, mregAt_val, Nat.reduceAdd, Nat.reducePow, Nat.mul_zero, Nat.add_zero]
    omega
  all_goals
    refine isWordOf_done hw [.used 5, .used 5, .rsv 5, .used 6, .used 3, .used 2]
      rfl rfl rfl ?_
    simp only [kept, regAt_val, mregAt_val, CRnd.code_ofCode (fld_lt ..), Nat.reduceAdd, Nat.reducePow, Nat.mul_zero,
      Nat.add_zero]
    omega

theorem isWordOf_decVperm (hm : fld w 0 6 = 35) : IsWordOf w (decVperm w) := by
  unfold decVperm
  split
  case h_14 => exact isWordOf_illegal w
  case h_12 | h_13 =>
    split
    case h_1 =>
      refine isWordOf_done hw [.used 5, .used 5, .used 5, .used 6, .used 3, .used 2]
        rfl rfl rfl ?_
      simp only [kept, regAt_val, mregAt_val, Nat.reduceAdd, Nat.reducePow, Nat.mul_zero, Nat.add_zero]
      omega
    case h_2 => exact isWordOf_illegal w
  case h_1 | h_2 | h_3 =>
    refine isWordOf_need FTy.code_of_ofCode fun ty hty =>
      isWordOf_done hw [.used 5, .used 5, .rsv 5, .used 6, .used 3, .used 2]
      rfl rfl rfl ?_
    simp only [kept, regAt_val, mregAt_val, Nat.reduceAdd, Nat.reducePow, Nat.mul_zero, Nat.add_zero]
    omega
  case h_9 | h_10 | h_11 =>
    refine isWordOf_need ITy.code_of_ofCode fun ty hty =>
      isWordOf_done hw [.used 5, .used 5, .used 5, .used 6, .used 3, .used 2]
      rfl rfl rfl ?_
    simp only [kept, regAt_val, mregAt_val, toNat_ofNat_fld, Nat.reduceAdd, Nat.reducePow, Nat.mul_zero, Nat.add_zero]
    omega
  all_goals
    refine isWordOf_need ITy.code_of_ofCode fun ty hty =>
      isWordOf_done hw [.used 5, .used 5, .rsv 5, .used 6, .used 3, .used 2]
      rfl rfl rfl ?_
    simp only [kept, regAt_val, mregAt_val, Nat.reduceAdd, Nat.reducePow, Nat.mul_zero, Nat.add_zero]
    omega

theorem isWordOf_decVbmm (hm : fld w 0 6 = 36) : IsWordOf w (decVbmm w) := by
  unfold decVbmm
  split
  case h_3 => exact isWordOf_illegal w
  case h_1 | h_2 =>
    refine isWordOf_done hw [.used 5, .used 5, .used 5, .used 6, .used 3, .used 2]
      rfl rfl rfl ?_
    simp only [kept, regAt_val, mregAt_val, GSize.code_ofCode (fld_lt ..), Nat.reduceAdd, Nat.reducePow, Nat.mul_zero,
      Nat.add_zero]
    omega

theorem isWordOf_decVmsk (hm : fld w 0 6 = 37) : IsWordOf w (decVmsk w) := by
  unfold decVmsk
  split
  case h_5 =>
    refine isWordOf_done hw [.used 3, .rsv 2, .used 3, .rsv 7, .used 6, .rsv 5]
      rfl rfl rfl ?_
    simp only [kept, mregAt_val, Nat.reduceAdd, Nat.reducePow, Nat.mul_zero, Nat.add_zero]
    omega
  case h_11 =>
    refine isWordOf_done hw [.used 3, .rsv 2, .used 5, .rsv 5, .used 6, .rsv 3, .used 2]
      rfl rfl rfl ?_
    simp only [kept, regAt_val, mregAt_val, GSize.code_ofCode (fld_lt ..), Nat.reduceAdd, Nat.reducePow, Nat.mul_zero,
      Nat.add_zero]
    omega
  case h_12 => exact isWordOf_illegal w
  case h_6 | h_10 =>
    refine isWordOf_done hw [.used 3, .rsv 2, .used 5, .rsv 5, .used 6, .rsv 5]
      rfl rfl rfl ?_
    simp only [kept, regAt_val, mregAt_val, Nat.reduceAdd, Nat.reducePow, Nat.mul_zero, Nat.add_zero]
    omega
  case h_7 | h_8 | h_9 =>
    refine isWordOf_done hw [.used 5, .used 3, .rsv 7, .used 6, .rsv 5]
      rfl rfl rfl ?_
    simp only [kept, regAt_val, mregAt_val, Nat.reduceAdd, Nat.reducePow, Nat.mul_zero, Nat.add_zero]
    omega
  all_goals
    refine isWordOf_done hw [.used 3, .rsv 2, .used 3, .rsv 2, .used 3, .rsv 2, .used 6, .rsv 5]
      rfl rfl rfl ?_
    simp only [kept, mregAt_val, Nat.reduceAdd, Nat.reducePow, Nat.mul_zero, Nat.add_zero]
    omega

theorem isWordOf_decVmov (hm : fld w 0 6 = 38) : IsWordOf w (decVmov w) := by
  unfold decVmov
  split
  case h_2 =>
    refine isWordOf_need ITy.code_of_ofCode fun ty hty =>
      isWordOf_done hw [.used 5, .used 5, .used 5, .used 6, .used 3, .used 2]
      rfl rfl rfl ?_
    simp only [kept, regAt_val, mregAt_val, Nat.reduceAdd, Nat.reducePow, Nat.mul_zero, Nat.add_zero]
    omega
  case h_6 =>
    refine isWordOf_need ITy.code_of_ofCode fun ty hty =>
      isWordOf_done hw [.used 5, .rsv 10, .used 6, .used 3, .used 2]
      rfl rfl rfl ?_
    simp only [kept, regAt_val, mregAt_val, Nat.reduceAdd, Nat.reducePow, Nat.mul_zero, Nat.add_zero]
    omega
  case h_7 => exact isWordOf_illegal w
  case h_1 | h_3 =>
    refine isWordOf_need ITy.code_of_ofCode fun ty hty =>
      isWordOf_done hw [.used 5, .used 5, .rsv 5, .used 6, .used 3, .used 2]
      rfl rfl rfl ?_
    simp only [kept, regAt_val, mregAt_val, Nat.reduceAdd, Nat.reducePow, Nat.mul_zero, Nat.add_zero]
    omega
  case h_4 | h_5 =>
    refine isWordOf_need ITy.code_of_ofCode fun ty hty =>
      isWordOf_done hw [.used 5, .used 5, .used 5, .used 6, .rsv 3, .used 2]
      rfl rfl rfl ?_
    simp only [kept, regAt_val, Nat.reduceAdd, Nat.reducePow, Nat.mul_zero, Nat.add_zero]
    omega

theorem isWordOf_decGang (hm : fld w 0 6 = 40) : IsWordOf w (decGang w) := by
  unfold decGang
  split
  case h_1 =>
    refine isWordOf_done hw [.used 5, .used 5, .rsv 5, .used 4, .used 4, .rsv 3]
      rfl rfl rfl ?_
    simp only [kept, regAt_val, toNat_ofNat_fld, Nat.reduceAdd, Nat.reducePow, Nat.mul_zero, Nat.add_zero]
    omega
  case h_2 =>
    refine isWordOf_done hw [.used 5, .rsv 10, .used 4, .used 4, .rsv 3]
      rfl rfl rfl ?_
    simp only [kept, regAt_val, toNat_ofNat_fld, Nat.reduceAdd, Nat.reducePow, Nat.mul_zero, Nat.add_zero]
    omega
  case h_5 =>
    refine isWordOf_done hw [.rsv 5, .used 5, .rsv 5, .used 4, .rsv 7]
      rfl rfl rfl ?_
    simp only [kept, regAt_val, Nat.reduceAdd, Nat.reducePow, Nat.mul_zero, Nat.add_zero]
    omega
  case h_6 => exact isWordOf_illegal w
  case h_3 | h_4 =>
    refine isWordOf_done hw [.used 5, .used 5, .rsv 5, .used 4, .rsv 7]
      rfl rfl rfl ?_
    simp only [kept, regAt_val, Nat.reduceAdd, Nat.reducePow, Nat.mul_zero, Nat.add_zero]
    omega

theorem isWordOf_decSprs (hm : fld w 0 6 = 41) : IsWordOf w (decSprs w) := by
  unfold decSprs
  split
  case h_1 =>
    refine isWordOf_need ElemTy.code_of_ofCode fun x hx =>
      isWordOf_done hw [.used 5, .used 5, .used 5, .used 4, .rsv 4, .used 3]
      rfl rfl rfl ?_
    simp only [kept, regAt_val, Nat.reduceAdd, Nat.reducePow, Nat.mul_zero, Nat.add_zero]
    omega
  case h_2 =>
    refine isWordOf_need ElemTy.code_of_ofCode fun x hx =>
      isWordOf_done hw [.used 5, .used 5, .rsv 5, .used 4, .rsv 4, .used 3]
      rfl rfl rfl ?_
    simp only [kept, regAt_val, Nat.reduceAdd, Nat.reducePow, Nat.mul_zero, Nat.add_zero]
    omega
  case h_3 => exact isWordOf_illegal w

theorem isWordOf_decLathe (hm : fld w 0 6 = 42) : IsWordOf w (decLathe w) := by
  unfold decLathe
  split
  case h_1 =>
    refine isWordOf_done hw [.used 5, .used 5, .used 5, .used 4, .used 4, .rsv 3]
      rfl rfl rfl ?_
    simp only [kept, regAt_val, toNat_ofNat_fld, Nat.reduceAdd, Nat.reducePow, Nat.mul_zero, Nat.add_zero]
    omega
  case h_2 => exact isWordOf_illegal w

theorem isWordOf_decGrp (hm : fld w 0 6 = 43) : IsWordOf w (decGrp w) := by
  unfold decGrp
  split
  case h_2 =>
    refine isWordOf_need Scope.code_of_ofCode fun x hx =>
      isWordOf_done hw [.used 5, .used 5, .used 5, .used 4, .used 4, .used 3]
      rfl rfl rfl ?_
    simp only [kept, regAt_val, toNat_ofNat_fld, Nat.reduceAdd, Nat.reducePow, Nat.mul_zero, Nat.add_zero]
    omega
  case h_4 =>
    refine isWordOf_done hw [.used 5, .used 5, .rsv 5, .used 4, .rsv 7]
      rfl rfl rfl ?_
    simp only [kept, regAt_val, Nat.reduceAdd, Nat.reducePow, Nat.mul_zero, Nat.add_zero]
    omega
  case h_5 =>
    refine isWordOf_done hw [.used 5, .rsv 10, .used 4, .used 4, .rsv 3]
      rfl rfl rfl ?_
    simp only [kept, regAt_val, toNat_ofNat_fld, Nat.reduceAdd, Nat.reducePow, Nat.mul_zero, Nat.add_zero]
    omega
  case h_6 => exact isWordOf_illegal w
  case h_1 | h_3 =>
    refine isWordOf_need Scope.code_of_ofCode fun x hx =>
      isWordOf_done hw [.used 5, .used 5, .rsv 5, .used 4, .rsv 4, .used 3]
      rfl rfl rfl ?_
    simp only [kept, regAt_val, Nat.reduceAdd, Nat.reducePow, Nat.mul_zero, Nat.add_zero]
    omega

theorem isWordOf_decSys (hm : fld w 0 6 = 44) : IsWordOf w (decSys w) := by
  unfold decSys
  split
  case h_1 =>
    refine isWordOf_need KReg.code_of_ofCode fun k hk => isWordOf_done hw [.used 5, .rsv 5, .used 8, .used 4, .rsv 4]
      rfl rfl rfl ?_
    simp only [kept, regAt_val, Nat.reduceAdd, Nat.reducePow, Nat.mul_zero, Nat.add_zero]
    omega
  case h_9 =>
    refine isWordOf_done hw [.rsv 5, .used 5, .used 8, .used 4, .rsv 4]
      rfl rfl rfl ?_
    simp only [kept, regAt_val, toNat_ofNat_fld, Nat.reduceAdd, Nat.reducePow, Nat.mul_zero, Nat.add_zero]
    omega
  case h_10 =>
    refine isWordOf_done hw [.rsv 10, .used 8, .used 4, .rsv 4]
      rfl rfl rfl ?_
    simp only [kept, toNat_ofNat_fld, Nat.reduceAdd, Nat.reducePow, Nat.mul_zero, Nat.add_zero]
    omega
  case h_11 =>
    refine isWordOf_done hw [.rsv 18, .used 4, .rsv 4]
      rfl rfl rfl ?_
    simp only [kept, Nat.reduceAdd, Nat.reducePow, Nat.mul_zero, Nat.add_zero]
    omega
  case h_16 => exact isWordOf_illegal w
  case h_5 | h_6 =>
    refine isWordOf_need TState.code_of_ofCode fun k hk =>
      isWordOf_done hw [.used 5, .used 5, .used 8, .used 4, .rsv 4]
      rfl rfl rfl ?_
    simp only [kept, regAt_val, Nat.reduceAdd, Nat.reducePow, Nat.mul_zero, Nat.add_zero]
    omega
  case h_7 | h_8 =>
    refine isWordOf_done hw [.rsv 5, .used 5, .rsv 8, .used 4, .rsv 4]
      rfl rfl rfl ?_
    simp only [kept, regAt_val, Nat.reduceAdd, Nat.reducePow, Nat.mul_zero, Nat.add_zero]
    omega
  case h_12 | h_13 =>
    refine isWordOf_need DTable.code_of_ofCode fun k hk => isWordOf_done hw [.rsv 5, .used 5, .used 8, .used 4, .rsv 4]
      rfl rfl rfl ?_
    simp only [kept, regAt_val, Nat.reduceAdd, Nat.reducePow, Nat.mul_zero, Nat.add_zero]
    omega
  case h_14 | h_15 =>
    refine isWordOf_done hw [.used 5, .used 5, .rsv 8, .used 4, .rsv 4]
      rfl rfl rfl ?_
    simp only [kept, regAt_val, Nat.reduceAdd, Nat.reducePow, Nat.mul_zero, Nat.add_zero]
    omega
  all_goals
    refine isWordOf_need KReg.code_of_ofCode fun k hk => isWordOf_done hw [.rsv 5, .used 5, .used 8, .used 4, .rsv 4]
      rfl rfl rfl ?_
    simp only [kept, regAt_val, Nat.reduceAdd, Nat.reducePow, Nat.mul_zero, Nat.add_zero]
    omega

/-- The decoder by its major opcodes. -/
theorem isWordOf_decode : IsWordOf w (decode w) := by
  unfold decode
  split
  case h_1 hm => exact isWordOf_decOpi hw hm
  case h_2 hm => exact isWordOf_imm16 hw hm fun _ _ _ => rfl
  case h_3 hm => exact isWordOf_imm16 hw hm fun _ _ _ => rfl
  case h_4 hm => exact isWordOf_imm16 hw hm fun _ _ _ => rfl
  case h_5 hm => exact isWordOf_imm16 hw hm fun _ _ _ => rfl
  case h_6 hm => exact isWordOf_imm16 hw hm fun _ _ _ => rfl
  case h_7 hm => exact isWordOf_imm16 hw hm fun _ _ _ => rfl
  case h_8 hm => exact isWordOf_imm21 hw hm fun _ _ => rfl
  case h_9 hm => exact isWordOf_imm21 hw hm fun _ _ => rfl
  case h_10 hm => exact isWordOf_decShi hw hm
  case h_11 hm => exact isWordOf_decMuldiv hw hm
  case h_12 hm => exact isWordOf_decBr hw hm
  case h_13 hm => exact isWordOf_imm21 hw hm fun _ _ => rfl
  case h_14 hm => exact isWordOf_imm16 hw hm fun _ _ _ => rfl
  case h_15 hm => exact isWordOf_decRep hw hm
  case h_16 hm => exact isWordOf_decLd hw hm
  case h_17 hm => exact isWordOf_decSt hw hm
  case h_18 hm => exact isWordOf_decLds hw hm
  case h_19 hm => exact isWordOf_decSts hw hm
  case h_20 hm => exact isWordOf_decVlds hw hm
  case h_21 hm => exact isWordOf_decVsts hw hm
  case h_22 hm => exact isWordOf_decFe hw hm
  case h_23 hm => exact isWordOf_decAmo hw hm
  case h_24 hm => exact isWordOf_decOrd hw hm
  case h_25 hm => exact isWordOf_decKey hw hm
  case h_26 hm => exact isWordOf_decQst hw hm
  case h_27 hm => exact isWordOf_decBit hw hm
  case h_28 hm => exact isWordOf_decMsg hw hm
  case h_29 hm => exact isWordOf_decCpy hw hm
  case h_30 hm => exact isWordOf_decTil hw hm
  case h_31 hm => exact isWordOf_decXpf hw hm
  case h_32 hm => exact isWordOf_decVfp hw hm
  case h_33 hm => exact isWordOf_decVint hw hm
  case h_34 hm => exact isWordOf_decVcvt hw hm
  case h_35 hm => exact isWordOf_decVperm hw hm
  case h_36 hm => exact isWordOf_decVbmm hw hm
  case h_37 hm => exact isWordOf_decVmsk hw hm
  case h_38 hm => exact isWordOf_decVmov hw hm
  case h_39 hm => exact isWordOf_decGang hw hm
  case h_40 hm => exact isWordOf_decSprs hw hm
  case h_41 hm => exact isWordOf_decLathe hw hm
  case h_42 hm => exact isWordOf_decGrp hw hm
  case h_43 hm => exact isWordOf_decSys hw hm
  case h_44 => exact isWordOf_illegal w

end

/-- Settles O12: the word of a decoded instruction is what its layout keeps, its reserved fields being zero. -/
theorem encodeOfDecode : Obligations.EncodeOfDecode := by
  unfold Obligations.EncodeOfDecode
  exact fun i _ hw h => (isWordOf_decode hw).1 i h

end Sys2Proof
end

section
/-! PROOFS. Registers, words and bytes: reads after writes, the integer instructions on registers (spec chapters 1 and 4),
and the canonical form of memory (spec chapter 0). -/

namespace Sys2Proof.Machine

/-! ## Registers (R14) -/

/-- Settles O1: the read after a write to a register of each file. -/
theorem registerReadsWhatWasWritten : Obligations.RegisterReadsWhatWasWritten := by
  unfold Obligations.RegisterReadsWhatWasWritten
  refine fun t d r x v k j m => ⟨?general, rv_setV t d r v, ?mask, rg_zero t, rm_zero t⟩
  case general =>
    rw [rg_setG]
    by_cases hd : r = d
    · rw [if_pos hd, if_pos hd, hd]
    · rw [if_neg hd, if_neg hd]
      by_cases h0 : r = 0
      · rw [if_pos h0, h0, rg_zero]
      · rw [if_neg h0]
  case mask =>
    rw [rm_setM]
    by_cases hk : j = k
    · rw [if_pos hk, if_pos hk, hk]
    · rw [if_neg hk, if_neg hk]
      by_cases h0 : j = 0
      · rw [if_pos h0, h0, rm_zero]
      · rw [if_neg h0]

/-! ## Canonical memory (R6) -/

/-- Settles O59: the empty table is canonical. -/
theorem memoryCanonicalAtReset : Obligations.MemoryCanonicalAtReset := by
  unfold Obligations.MemoryCanonicalAtReset
  exact ⟨memWf_reset, fun a => AMap.get_nil memDefault a⟩

/-- A key below every key of a table reads the default there. -/
theorem get_of_above {α : Type} (d : α) {m : AMap α} {k i : Nat} (h : AMap.above k m) (hi : i ≤ k) : AMap.get d m i = d := by
  induction m with
  | nil => rfl
  | cons e r ih =>
    obtain ⟨he, hr⟩ := List.forall_mem_cons.mp h
    rw [AMap.get, if_neg (by omega), ih hr]

theorem memWf_cons {a : Nat} {b : Byte} {m : List Host.Cell} (h : memWf ((a, b) :: m) = true) :
    AMap.above a m ∧ b ≠ memDefault ∧ memWf m = true := by
  obtain ⟨hs, hd⟩ := (memWf_iff _).mp h
  obtain ⟨ha, hr⟩ := (AMap.sorted_cons a b m).mp hs
  obtain ⟨hb, hm⟩ := List.forall_mem_cons.mp hd
  exact ⟨ha, hb, (memWf_iff m).mpr ⟨hr, hm⟩⟩

theorem memGet_cons_same (a : Nat) (b : Byte) (m : List Host.Cell) : memGet ((a, b) :: m) a = b := if_pos rfl

theorem memGet_cons_other {a x : Nat} (b : Byte) (m : List Host.Cell) (h : x ≠ a) :
    memGet ((a, b) :: m) x = memGet m x := if_neg h

theorem memGet_of_above {m : List Host.Cell} {a x : Nat} (h : AMap.above a m) (hx : x ≤ a) : memGet m x = 0 :=
  get_of_above memDefault h hx

/-- Memories in canonical form that read alike start at the same address. -/
theorem first_le_of_reads {a a' : Nat} {b b' : Byte} {m m' : List Host.Cell} (h : memWf ((a, b) :: m) = true)
    (h' : memWf ((a', b') :: m') = true) (hr : ∀ x, memGet ((a', b') :: m') x = memGet ((a, b) :: m) x) : a' ≤ a := by
  by_contra hlt
  obtain ⟨-, hb, -⟩ := memWf_cons h
  obtain ⟨habove, -, -⟩ := memWf_cons h'
  have hread := hr a
  rw [memGet_cons_same, memGet_cons_other b' m' (by omega), memGet_of_above habove (by omega)] at hread
  exact hb hread.symm

/-- Memories in canonical form that read alike are equal data. -/
theorem memWf_ext {m m' : List Host.Cell} (h : memWf m = true) (h' : memWf m' = true)
    (hr : ∀ x, memGet m' x = memGet m x) : m' = m := by
  induction m generalizing m' with
  | nil =>
    cases m' with
    | nil => rfl
    | cons e m' => exact absurd ((memGet_cons_same e.1 e.2 m').symm.trans (hr e.1)) (memWf_cons h').2.1
  | cons c m ih =>
    cases m' with
    | nil => exact absurd ((memGet_cons_same c.1 c.2 m).symm.trans (hr c.1).symm) (memWf_cons h).2.1
    | cons e m' =>
      obtain ⟨a, b⟩ := c
      obtain ⟨a', b'⟩ := e
      obtain rfl : a' = a := Nat.le_antisymm (first_le_of_reads h h' hr) (first_le_of_reads h' h fun x => (hr x).symm)
      obtain ⟨habove, -, hm⟩ := memWf_cons h
      obtain ⟨habove', -, hm'⟩ := memWf_cons h'
      obtain rfl : b' = b := by simpa only [memGet_cons_same] using hr a'
      refine congrArg _ (ih hm hm' fun x => ?_)
      by_cases hx : x = a'
      · rw [hx, memGet_of_above habove le_rfl, memGet_of_above habove' le_rfl]
      · simpa only [memGet_cons_other _ _ hx] using hr x

/-- Settles O25: reads after a write, and `memWf_ext`. -/
theorem memoryReadsWhatWasWritten : Obligations.MemoryReadsWhatWasWritten := by
  unfold Obligations.MemoryReadsWhatWasWritten
  exact fun m a bs => ⟨memRead_memWrite m a bs, memGet_memWrite_outside m a bs,
    fun h => ⟨memWf_memWrite m a bs h, fun _ h' => memWf_ext h h'⟩⟩

/-! ## Words and special registers (R10, R81) -/

/-- Settles O10: each word is decoded field by field. -/
theorem wordsDecode : Obligations.WordsDecode := by
  unfold Obligations.WordsDecode
  decide

/-- Settles O18: `sys.rdk` is one `outG` of the register's value. -/
theorem specialRegisterRead : Obligations.SpecialRegisterRead := by
  unfold Obligations.SpecialRegisterRead
  intro s d k
  rw [← readK_own]
  exact writesG_outG rfl

/-! ## Integer instructions on two registers (R30, R102) -/

/-- A fixed-latency form on two sources (R99): everything it does. -/
theorem writesG_alu {i : Instr} {s : State} {d a b : Reg} {f : Word → Word → Word} {x : Word} (h : exec i s = s.alu d a b f)
    (hx : f (s.th.rg a) (s.th.rg b) = x) : WritesG i s d x := writesG_outG (hx ▸ h)

/-- A variable-latency form on two sources (R103): everything it does. -/
theorem writesG_aluReply {i : Instr} {s : State} {d a b : Reg} {f : Word → Word → Word} {x : Word}
    (h : exec i s = s.aluReply d a b f) (hx : f (s.th.rg a) (s.th.rg b) = x) : WritesG i s d x := writesG_pureG (hx ▸ h)

theorem bitsAt_low6 (x : Word) : bitsAt x 0 6 = x.toNat % 64 := by simp [bitsAt]

theorem ofInt_sub_toInt (x y : Word) : BitVec.ofInt 64 (x.toInt - y.toInt) = x - y := by
  rw [Int.sub_eq_add_neg, BitVec.ofInt_add, BitVec.ofInt_neg, BitVec.ofInt_toInt, BitVec.ofInt_toInt,
    BitVec.sub_eq_add_neg]

theorem ofNat_orn (x y : Word) : BitVec.ofNat 64 (x.toNat ||| (2 ^ 64 - 1 - y.toNat)) = x ||| ~~~y := by
  rw [← BitVec.toNat_not, ← BitVec.toNat_or, ofNat_toNat_self]

theorem mulHi_ofNat (n : Nat) : mulHi (Int.ofNat n) = BitVec.ofNat 64 (n / 2 ^ 64) := by
  rw [← BitVec.ofInt_natCast]; rfl

theorem isTwoSource_twoSourceResults : ∀ e ∈ twoSourceResults, ∀ (s : State) (d a b : Reg),
    WritesG (e.1 d a b) s d (e.2 (s.th.rg a) (s.th.rg b)) := by
  simp only [twoSourceResults, List.forall_mem_cons, List.not_mem_nil, false_implies, implies_true, and_true]
  refine ⟨?add, ?sub, ?and, ?or, ?xor, ?andn, ?orn, ?sll, ?srl, ?sra, ?slt, ?sltu, ?min, ?max, ?minu, ?maxu, ?mul, ?mulh,
    ?mulhu, ?mulhsu, ?div, ?divu, ?rem, ?remu⟩ <;> intro s d a b
  case add => exact writesG_alu (f := fun x y => x + y) rfl rfl
  case sub => exact writesG_alu (f := fun x y => x - y) rfl (ofInt_sub_toInt _ _).symm
  case and =>
    exact writesG_alu (f := fun x y => x &&& y) rfl (by rw [BitVec.ofNat_and, ofNat_toNat_self, ofNat_toNat_self])
  case or =>
    exact writesG_alu (f := fun x y => x ||| y) rfl (by rw [BitVec.ofNat_or, ofNat_toNat_self, ofNat_toNat_self])
  case xor =>
    exact writesG_alu (f := fun x y => x ^^^ y) rfl (by rw [BitVec.ofNat_xor, ofNat_toNat_self, ofNat_toNat_self])
  case andn => exact writesG_alu (f := fun x y => x &&& ~~~y) rfl (ofNat_andn _ _).symm
  case orn => exact writesG_alu (f := fun x y => x ||| ~~~y) rfl (ofNat_orn _ _).symm
  case sll =>
    exact writesG_alu (f := fun x y => x <<< bitsAt y 0 6) rfl (by rw [shiftLeft_eq_ofNat, bitsAt_low6])
  case srl =>
    exact writesG_alu (f := fun x y => x >>> bitsAt y 0 6) rfl (by rw [ushiftRight_eq_ofNat, bitsAt_low6])
  case sra =>
    exact writesG_alu (f := fun x y => x.sshiftRight (bitsAt y 0 6)) rfl (by rw [sshiftRight_eq_ofInt, bitsAt_low6])
  case slt => exact writesG_alu (f := fun x y => flag (decide (x.toInt < y.toInt))) rfl (flag_decide _)
  case sltu => exact writesG_alu (f := fun x y => flag (decide (x.toNat < y.toNat))) rfl (flag_decide _)
  case min =>
    refine writesG_alu (f := fun x y => if x.toInt ≤ y.toInt then x else y) rfl ?_
    rw [min_def, apply_ite (BitVec.ofInt 64), BitVec.ofInt_toInt, BitVec.ofInt_toInt]
  case max =>
    refine writesG_alu (f := fun x y => if y.toInt ≤ x.toInt then x else y) rfl ?_
    rw [max_comm, max_def, apply_ite (BitVec.ofInt 64), BitVec.ofInt_toInt, BitVec.ofInt_toInt]
  case minu =>
    refine writesG_alu (f := fun x y => if x.toNat ≤ y.toNat then x else y) rfl ?_
    rw [min_def, ofNat_ite]
  case maxu =>
    refine writesG_alu (f := fun x y => if y.toNat ≤ x.toNat then x else y) rfl ?_
    rw [max_comm, max_def, ofNat_ite]
  case mul =>
    exact writesG_alu (f := fun x y => x * y) rfl (by rw [BitVec.ofInt_mul, BitVec.ofInt_toInt, BitVec.ofInt_toInt])
  case mulh => exact writesG_alu (f := fun x y => mulHi (x.toInt * y.toInt)) rfl rfl
  case mulhu => exact writesG_alu (f := fun x y => mulHi (Int.ofNat (x.toNat * y.toNat))) rfl (mulHi_ofNat _)
  case mulhsu => exact writesG_alu (f := fun x y => mulHi (x.toInt * Int.ofNat y.toNat)) rfl rfl
  case div => exact writesG_aluReply (f := divS) rfl rfl
  case divu => exact writesG_aluReply (f := divU) rfl rfl
  case rem => exact writesG_aluReply (f := remS) rfl (by rw [remS, Int.tmod_def])
  case remu => exact writesG_aluReply (f := remU) rfl rfl

/-! ## Counts and orders of bits (Table 4-8) -/

/-- A count of at most 64 keeps its number in a word. -/
theorem toNat_ofNat_le {n : Nat} (h : n ≤ 64) : (BitVec.ofNat 64 n).toNat = n := by
  rw [BitVec.toNat_ofNat, Nat.mod_eq_of_lt (by omega)]

theorem clzW_spec (x : Word) : (clzW x).toNat ≤ 64 ∧ (∀ i, 64 - (clzW x).toNat ≤ i → x.toNat.testBit i = false) ∧
    ((clzW x).toNat < 64 → x.toNat.testBit (63 - (clzW x).toNat) = true) := by
  by_cases hx : x = 0
  · have hc : (clzW x).toNat = 64 := by rw [clzW, if_pos hx]; exact toNat_ofNat_le le_rfl
    rw [hc, hx]
    exact ⟨le_rfl, fun i _ => Nat.zero_testBit i, fun h => absurd h (lt_irrefl _)⟩
  · have hn : x.toNat ≠ 0 := fun h => hx (BitVec.eq_of_toNat_eq h)
    have hlog : Nat.log2 x.toNat < 64 := (Nat.log2_lt hn).mpr x.isLt
    have hc : (clzW x).toNat = 63 - Nat.log2 x.toNat := by rw [clzW, if_neg hx]; exact toNat_ofNat_le (by omega)
    rw [hc]
    refine ⟨by omega, fun i hi => Nat.testBit_lt_two_pow ?_, fun _ => ?_⟩
    · exact (Nat.log2_lt hn).mp (by omega)
    · rw [show 63 - (63 - Nat.log2 x.toNat) = Nat.log2 x.toNat by omega]
      exact Nat.testBit_log2 hn

theorem ctzW_spec (x : Word) : (ctzW x).toNat ≤ 64 ∧ (∀ i, i < (ctzW x).toNat → x.toNat.testBit i = false) ∧
    ((ctzW x).toNat < 64 → x.toNat.testBit (ctzW x).toNat = true) := by
  by_cases hx : x = 0
  · have hc : (ctzW x).toNat = 64 := by rw [ctzW, lowestBit, if_pos hx]; exact toNat_ofNat_le le_rfl
    rw [hc, hx]
    exact ⟨le_rfl, fun i _ => Nat.zero_testBit i, fun h => absurd h (lt_irrefl _)⟩
  · have hlow := lowBit_spec 64 x.toNat
    have hc : (ctzW x).toNat = lowBit 64 x.toNat := by rw [ctzW, lowestBit, if_neg hx]; exact toNat_ofNat_le hlow.1
    rwa [hc]

theorem onesBelow_eq_length_filter (v n : Nat) : onesBelow v n = ((List.range n).filter v.testBit).length := by
  induction n with
  | zero => rfl
  | succ n ih =>
    rw [onesBelow, ih, List.range_succ, List.filter_append, List.length_append]
    cases h : v.testBit n <;> simp [h]

theorem popW_spec (x : Word) : (popW x).toNat = onesBelow x.toNat 64 := by
  have hle : onesBelow x.toNat 64 ≤ 64 := by
    rw [onesBelow_eq_length_filter]; exact (List.length_filter_le _ _).trans_eq List.length_range
  rw [popW, popN_eq_length_filter, ← onesBelow_eq_length_filter]
  exact toNat_ofNat_le hle

/-- Reversal moves bit `n - 1 - i` to place `i` and what was there before behind it. -/
theorem testBit_revN (n v r i : Nat) :
    (revN n v r).testBit i = if i < n then v.testBit (n - 1 - i) else r.testBit (i - n) := by
  induction n generalizing v r with
  | zero => simp [revN]
  | succ n ih =>
    rw [revN, ih]
    rcases Nat.lt_trichotomy i n with h | rfl | h
    · rw [if_pos h, if_pos (by omega), show n + 1 - 1 - i = (n - 1 - i) + 1 by omega, Nat.testBit_succ]
    · rw [if_neg (lt_irrefl _), if_pos (by omega), Nat.sub_self, show i + 1 - 1 - i = 0 by omega, Nat.testBit_zero,
        Nat.testBit_zero]
      congr 2
      omega
    · rw [if_neg (by omega), if_neg (by omega), show i - n = (i - (n + 1)) + 1 by omega, Nat.testBit_succ]
      congr 1
      omega

theorem brevW_spec (x : Word) {i : Nat} (hi : i < 64) : (brevW x).toNat.testBit i = x.toNat.testBit (63 - i) := by
  rw [brevW, BitVec.toNat_ofNat, Nat.testBit_mod_two_pow, testBit_revN, if_pos hi, decide_eq_true hi, Bool.true_and]

theorem natOfBytes_lt (l : List Byte) : natOfBytes l < 256 ^ l.length := by
  induction l with
  | nil => exact Nat.one_pos
  | cons b r ih =>
    have hb : b.toNat < 256 := b.isLt
    rw [natOfBytes, List.length_cons, Nat.pow_succ]
    omega

/-- Byte `i` of the number of some bytes. -/
theorem natOfBytes_byte (l : List Byte) {i : Nat} (hi : i < l.length) : natOfBytes l / 256 ^ i % 256 = l[i].toNat := by
  induction l generalizing i with
  | nil => exact absurd hi (Nat.not_lt_zero i)
  | cons b r ih =>
    have hb : b.toNat < 256 := b.isLt
    cases i with
    | zero => rw [natOfBytes, Nat.pow_zero, Nat.div_one, List.getElem_cons_zero]; omega
    | succ i =>
      rw [natOfBytes, Nat.pow_succ', ← Nat.div_div_eq_div_mul, List.getElem_cons_succ,
        ← ih (Nat.lt_of_succ_lt_succ hi)]
      congr 2
      omega

@[simp] theorem length_bytesOf (v n : Nat) : (bytesOf v n).length = n := by
  induction n generalizing v with
  | zero => rfl
  | succ n ih => rw [bytesOf, List.length_cons, ih]

theorem bytesOf_getElem (v n : Nat) {i : Nat} (hi : i < (bytesOf v n).length) :
    (bytesOf v n)[i].toNat = v / 256 ^ i % 256 := by
  induction n generalizing v i with
  | zero => exact absurd hi (Nat.not_lt_zero i)
  | succ n ih =>
    cases i with
    | zero => simp [bytesOf]
    | succ i =>
      simp only [bytesOf, List.getElem_cons_succ]
      rw [ih, Nat.pow_succ, Nat.mul_comm, Nat.div_div_eq_div_mul]

theorem bswapW_spec (x : Word) {i : Nat} (hi : i < 8) :
    (bswapW x).toNat / 2 ^ (8 * i) % 256 = x.toNat / 2 ^ (8 * (7 - i)) % 256 := by
  have hlt : natOfBytes (bytesOf x.toNat 8).reverse < 2 ^ 64 := by
    simpa using natOfBytes_lt (bytesOf x.toNat 8).reverse
  rw [bswapW, BitVec.toNat_ofNat, Nat.mod_eq_of_lt hlt, Nat.pow_mul, Nat.pow_mul, show 2 ^ 8 = 256 from rfl,
    natOfBytes_byte _ (by simpa using hi), List.getElem_reverse, bytesOf_getElem, length_bytesOf]

theorem zeroExtend_truncate (x : Word) (n : Nat) :
    (x.truncate n).zeroExtend 64 = BitVec.ofNat 64 (x.toNat % 2 ^ n) := by
  refine BitVec.eq_of_toNat_eq ?_
  rw [BitVec.toNat_setWidth, BitVec.toNat_setWidth, BitVec.toNat_ofNat]

theorem isOneSource_oneSourceResults : ∀ e ∈ oneSourceResults, ∀ (s : State) (d a : Reg),
    ∃ y, e.2 (s.th.rg a) y ∧ WritesG (e.1 d a) s d y := by
  simp only [oneSourceResults, List.forall_mem_cons, List.not_mem_nil, false_implies, implies_true, and_true]
  refine ⟨?sxb, ?sxh, ?sxw, ?zxb, ?zxh, ?zxw, ?clz, ?ctz, ?popc, ?brev, ?bswap⟩ <;> intro s d a
  case sxb => exact ⟨_, rfl, writesG_alu1 (f := fun x => (x.truncate 8).signExtend 64) rfl rfl⟩
  case sxh => exact ⟨_, rfl, writesG_alu1 (f := fun x => (x.truncate 16).signExtend 64) rfl rfl⟩
  case sxw => exact ⟨_, rfl, writesG_alu1 (f := fun x => (x.truncate 32).signExtend 64) rfl rfl⟩
  case zxb => exact ⟨_, rfl, writesG_alu1 (f := fun x => (x.truncate 8).zeroExtend 64) rfl (zeroExtend_truncate _ _)⟩
  case zxh => exact ⟨_, rfl, writesG_alu1 (f := fun x => (x.truncate 16).zeroExtend 64) rfl (zeroExtend_truncate _ _)⟩
  case zxw => exact ⟨_, rfl, writesG_alu1 (f := fun x => (x.truncate 32).zeroExtend 64) rfl (zeroExtend_truncate _ _)⟩
  case clz => exact ⟨_, clzW_spec _, writesG_alu1 (f := clzW) rfl rfl⟩
  case ctz => exact ⟨_, ctzW_spec _, writesG_alu1 (f := ctzW) rfl rfl⟩
  case popc => exact ⟨_, popW_spec _, writesG_alu1 (f := popW) rfl rfl⟩
  case brev => exact ⟨_, fun _ hi => brevW_spec _ hi, writesG_alu1 (f := brevW) rfl rfl⟩
  case bswap => exact ⟨_, fun _ hi => bswapW_spec _ hi, writesG_alu1 (f := bswapW) rfl rfl⟩

/-- Settles O2: each row's function on two sources or one is its arithmetic. -/
theorem integerRegisterResult : Obligations.IntegerRegisterResult := by
  unfold Obligations.IntegerRegisterResult
  exact ⟨isTwoSource_twoSourceResults, isOneSource_oneSourceResults⟩

end Sys2Proof.Machine
end

section
/-! PROOFS. Frames, traps, the issue of a word and the order of events (spec chapters 1, 4, 5, 6 and 16). -/

namespace Sys2Proof.Machine

/-! ## Fields of a word -/

/-- A field of a word that is given as a number below `2 ^ 64`. -/
theorem bitsAt_ofNat {n : Nat} (h : n < 2 ^ 64) (lo k : Nat) : bitsAt (BitVec.ofNat 64 n) lo k = n / 2 ^ lo % 2 ^ k := by
  rw [bitsAt, BitVec.toNat_ofNat, Nat.mod_eq_of_lt h]

theorem inFrame_of_kfcnt {t : Thread} {n : Nat} (h : t.kfcnt = BitVec.ofNat 64 (65536 + n)) (hn : n < 65536) :
    t.inFrame = true := by
  rw [Thread.inFrame, bitAt, h, BitVec.toNat_ofNat, Nat.mod_eq_of_lt (by omega), beq_iff_eq]
  omega

/-- Completion inside an active frame, by the place in the body and the repetition (R159). -/
theorem advance_inFrame {t : Thread} (h : t.inFrame = true) :
    t.advance =
      if bitsAt t.kfidx 0 4 < bitsAt t.kfidx 4 4 then
        { t with kfidx := BitVec.ofNat 64 (bitsAt t.kfidx 4 4 * 16 + (bitsAt t.kfidx 0 4 + 1)), pc := t.pc + 4 }
      else if bitsAt t.kfcnt 0 8 < bitsAt t.kfcnt 8 8 then
        { t with kfcnt := t.kfcnt + 1, kfidx := BitVec.ofNat 64 (bitsAt t.kfidx 4 4 * 16),
                 pc := t.pc - BitVec.ofNat 64 (4 * bitsAt t.kfidx 0 4) }
      else
        { t with kfcnt := 0, kfidx := 0, kfstg := 0,
                 pc := t.pc - BitVec.ofNat 64 (4 * bitsAt t.kfidx 0 4) + BitVec.ofNat 64 (4 * (bitsAt t.kfidx 4 4 + 1)) } :=
  if_pos h

/-- Settles O13: the place in the body and the repetition are the fields that `advance_inFrame` asks for. -/
theorem frameAdvances : Obligations.FrameAdvances := by
  unfold Obligations.FrameAdvances
  refine ⟨fun t h => if_neg (by rw [h]; exact Bool.false_ne_true), fun t k n idx len hk hn hidx hlen hcnt hplace => ?_⟩
  have hframe : t.inFrame = true := inFrame_of_kfcnt (n := n * 256 + k) (by rw [hcnt, Nat.add_assoc]) (by omega)
  have hword : bitsAt t.kfidx 0 4 = idx := by rw [hplace, bitsAt_ofNat (by omega)]; omega
  have hlast : bitsAt t.kfidx 4 4 = len := by rw [hplace, bitsAt_ofNat (by omega)]; omega
  have hrep : bitsAt t.kfcnt 0 8 = k := by rw [hcnt, bitsAt_ofNat (by omega)]; omega
  have hreps : bitsAt t.kfcnt 8 8 = n := by rw [hcnt, bitsAt_ofNat (by omega)]; omega
  rw [advance_inFrame hframe, hword, hlast, hrep, hreps]
  refine ⟨fun h => if_pos h, fun h hmore => ?_, fun h hdone => ?_⟩
  · rw [if_neg (by omega), if_pos hmore, BitVec.ofNat_add (65536 + n * 256 + k) 1, hcnt]
    rfl
  · rw [if_neg (by omega), if_neg (by omega)]

/-! ## `rep` (R158) -/

theorem length_of_fetchBody {s : State} {pc n : Nat} {ws : List Word} (h : s.fetchBody pc n = .ok ws) : ws.length = n := by
  induction n generalizing pc ws with
  | zero => rw [← Except.ok.inj h]; rfl
  | succ n ih =>
    rw [State.fetchBody] at h
    split at h
    next w _ =>
      cases hr : s.fetchBody (pc + 4) n with
      | ok r =>
        rw [hr] at h
        rw [← Except.ok.inj h, List.length_cons, ih hr]
      | error e => rw [hr] at h; exact nomatch h
    all_goals exact nomatch h

/-- The thread after a `rep`: its frame is active at the first word and repetition. -/
def Thread.startFrame (t : Thread) (now : Nat) (n : BitVec 8) (len sd sa sb : BitVec 4) (ws : List Word) : Thread :=
  { t.formOver with
    kfbuf := Vector.ofFn fun i => ws.getD i.val (t.kfbuf.get i),
    kfstg := BitVec.ofNat 64 (sb.toNat * 256 + sa.toNat * 16 + sd.toNat),
    kfcnt := BitVec.ofNat 64 (65536 + n.toNat * 256),
    kfidx := BitVec.ofNat 64 (len.toNat * 16),
    pc := t.pc + 4, st := .waiting, before := some t.regs,
    wait := some { kind := .reply, d := 0, since := now, e := 15 } }

theorem exec_rep {s : State} {n : BitVec 8} {len sd sa sb : BitVec 4} {ws : List Word}
    (h : s.fetchBody (s.th.pc.toNat + 4) (len.toNat + 1) = .ok ws) :
    exec (.rep n len sd sa sb) s = .next (s.modTh fun t => t.startFrame s.tick n len sd sa sb ws) := by
  change execRep n len sd sa sb s = _
  rw [execRep, h]
  rfl

theorem startFrame_kfbuf (t : Thread) (now : Nat) (n : BitVec 8) (len sd sa sb : BitVec 4) {ws : List Word} {k : Nat}
    (hk : k < 16) (hws : k < ws.length) : (t.startFrame now n len sd sa sb ws).kfbuf[k] = ws[k] := by
  change (Vector.ofFn fun i : Fin 16 => ws.getD i.val (t.kfbuf.get i))[k] = _
  rw [Vector.getElem_ofFn, List.getD_eq_getElem _ _ hws]

/-- Settles O14: where the body is fetched the form is one update of its thread. -/
theorem repStartsFrame : Obligations.RepStartsFrame := by
  unfold Obligations.RepStartsFrame
  intro s n len sd sa sb ws hfetch
  have hn := n.isLt
  have hlen := len.isLt
  have hsd := sd.isLt
  have hsa := sa.isLt
  have hsb := sb.isLt
  refine ⟨_, exec_rep hfetch, onlyThread_modTh s _, ?frame, ?cnt, ?place, ?stride, ?pc, fun k hk => ?body, ?g, ?v, ?m, ?kstat⟩
  case frame => rw [th_modTh]; exact inFrame_of_kfcnt rfl (by omega)
  case cnt => rw [th_modTh]; change (BitVec.ofNat 64 _).toNat = _; rw [BitVec.toNat_ofNat]; omega
  case place => rw [th_modTh]; change (BitVec.ofNat 64 _).toNat = _; rw [BitVec.toNat_ofNat]; omega
  case stride => rw [th_modTh]; change (BitVec.ofNat 64 _).toNat = _; rw [BitVec.toNat_ofNat]; omega
  case body =>
    rw [th_modTh]
    have hws : k < ws.length := by rw [length_of_fetchBody hfetch]; omega
    simp [List.getD_eq_getElem?_getD, hws, show k < 16 by omega, startFrame_kfbuf]
  all_goals rw [th_modTh]; rfl

/-! ## Words that are held, or trap (R24, R25, R322) -/

theorem th_setWord (s : State) (w : Nat) : (s.setWord w).th = { s.th with word := BitVec.ofNat 32 w } := th_modTh s _

theorem onlyThread_setWord (s : State) (w : Nat) : OnlyThread s (s.setWord w) := onlyThread_modTh s _

theorem keeps_setWord (s : State) (w : Nat) : Keeps [] [] [] s.th (s.setWord w).th := by
  rw [th_setWord]
  exact ⟨fun _ _ => rfl, fun _ _ => rfl, fun _ _ => rfl, ⟨rfl, rfl, rfl⟩, ⟨rfl, rfl, rfl, rfl, rfl⟩, rfl,
    ⟨rfl, rfl, rfl, rfl, rfl⟩, ⟨rfl, rfl⟩⟩

/-- A thread that has taken a trap (R93). -/
structure TookTrap (x y : Thread) (tr : Trap) : Prop where
  st : y.st = .trapped
  kcause : y.kcause = BitVec.ofNat 64 tr.cause
  kinfo : y.kinfo = tr.info
  kepc : y.kepc = x.pc
  pc : y.pc = x.pc
  g : y.g = x.g
  v : y.v = x.v
  m : y.m = x.m
  kstat : y.kstat = x.kstat
  word : y.word = x.word

theorem tookTrap_takeTrap (s : State) (t : Nat) (tr : Trap) : TookTrap (s.thr t) ((s.takeTrap t tr).thr t) tr := by
  rw [thr_takeTrap_same]
  exact ⟨rfl, rfl, rfl, rfl, rfl, rfl, rfl, rfl, rfl, rfl⟩

theorem tookTrap_trapNow (s : State) (tr : Trap) : TookTrap s.th (s.trapNow tr).th tr := by
  have hcur : (s.trapNow tr).cur = s.cur := cur_postRecord s s.cur tr
  rw [State.th.eq_1 (s.trapNow tr), hcur]
  exact tookTrap_takeTrap s s.cur tr

theorem tookTrap_setWord (s : State) (w : Nat) (tr : Trap) :
    TookTrap { s.th with word := BitVec.ofNat 32 w } ((s.setWord w).trapNow tr).th tr :=
  th_setWord s w ▸ tookTrap_trapNow (s.setWord w) tr

/-- The trap of a word that the issuing thread has just taken: what `Traps` says of the state before it. -/
theorem traps_setWord {i : Instr} {s : State} {w : Nat} {tr : Trap} (h : exec i s = .next ((s.setWord w).trapNow tr)) :
    Traps i s tr.cause tr.info := by
  have ht := tookTrap_setWord s w tr
  exact ⟨_, h, ht.st, ht.kcause, ht.kinfo, ht.kepc, ht.pc, ht.g, ht.v, ht.m, ht.kstat, cur_postRecord (s.setWord w) s.cur tr,
    fun u hu => (thr_takeTrap_other (s.setWord w) tr hu).trans ((onlyThread_setWord s w).others u hu),
    fun a => by rw [mem_trapNow]; rfl⟩

/-- An instruction that has asked no die that relocks has its own outcome. -/
theorem hold_of_free (i : Instr) (s : State) {o : Host.Outcome State Fault Refusal}
    (h : ∀ t, o = .next t → t.relocking = none) : hold i s o = o := by
  cases o with
  | next t => rw [hold, h t rfl]
  | _ => rfl

/-- A thread that waits for the end of a relock keeps what it has. -/
theorem block_keeps (t : Thread) (now : Nat) (st : CtxState) (k : WaitKind) (d : Reg) (e : Nat) :
    Keeps [] [] [] t (t.block now st k d e) ∧ (t.block now st k d e).kstat = t.kstat ∧ (t.block now st k d e).pc = t.pc ∧
      (t.block now st k d e).st = st :=
  ⟨⟨fun _ _ => rfl, fun _ _ => rfl, fun _ _ => rfl, ⟨rfl, rfl, rfl⟩, ⟨rfl, rfl, rfl, rfl, rfl⟩, rfl,
    ⟨rfl, rfl, rfl, rfl, rfl⟩, ⟨rfl, rfl⟩⟩, rfl, rfl, rfl⟩

theorem keepTabs_keeps (s : State) : OnlyThread s s.keepTabs ∧ Keeps [] [] [] s.th s.keepTabs.th ∧
    s.keepTabs.th.kstat = s.th.kstat ∧ s.keepTabs.th.pc = s.th.pc := by
  refine ⟨onlyThread_modTh s _, ?_⟩
  rw [State.keepTabs, th_modTh]
  exact ⟨⟨fun _ _ => rfl, fun _ _ => rfl, fun _ _ => rfl, ⟨rfl, rfl, rfl⟩, ⟨rfl, rfl, rfl, rfl, rfl⟩, rfl,
    ⟨rfl, rfl, rfl, rfl, rfl⟩, ⟨rfl, rfl⟩⟩, rfl, rfl⟩

/-- The issuing thread waits at its instruction, with nothing else changed. -/
structure WaitsAtInstr (s u : State) : Prop where
  only : OnlyThread s u
  keeps : Keeps [] [] [] s.th u.th
  kstat : u.th.kstat = s.th.kstat
  pc : u.th.pc = s.th.pc
  st : u.th.st = .waiting

theorem waitsAtInstr_block (s : State) (now : Nat) (k : WaitKind) (d : Reg) (e : Nat) :
    WaitsAtInstr s (s.modTh fun x => x.block now .waiting k d e) := by
  obtain ⟨hkeeps, hkstat, hpc, hst⟩ := block_keeps s.th now .waiting k d e
  refine ⟨onlyThread_modTh s _, ?_, ?_, ?_, ?_⟩ <;> rw [th_modTh] <;> assumption

theorem WaitsAtInstr.of_keepTabs {s u : State} (h : WaitsAtInstr s.keepTabs u) : WaitsAtInstr s u := by
  obtain ⟨honly, hkeeps, hkstat, hpc⟩ := keepTabs_keeps s
  exact ⟨honly.trans h.only, hkeeps.trans h.keeps, h.kstat.trans hkstat, h.pc.trans hpc, h.st⟩

/-- An instruction that has asked a die that relocks waits where it is. -/
theorem hold_relocking (i : Instr) (s : State) {t : State} {d : Nat} (h : t.relocking = some d) :
    ∃ u, hold i s (.next t) = .next u ∧ WaitsAtInstr s u := by
  rw [hold, h]
  refine ⟨_, rfl, ?_⟩
  split
  · exact (waitsAtInstr_block s.keepTabs _ _ _ _).of_keepTabs
  · exact waitsAtInstr_block s _ _ _ _

/-! ## The issue of a frame (R159 to R161) -/

theorem staggerField_lt {u : FieldUse} {f k stride : Nat} (h : f < 32) : staggerField u f k stride < 32 := by
  cases u <;> rw [staggerField]
  case unused => exact h
  case gpr => split <;> omega
  case plain => omega

theorem stagger_lt (w k sd sa sb : Nat) : stagger w k sd sa sb < 2 ^ 32 := by
  have hop : fld w 0 6 < 2 ^ 6 := fld_lt w 0 6
  have hhigh : fld w 21 11 < 2 ^ 11 := fld_lt w 21 11
  have h1 := staggerField_lt (u := (fieldUses w).1) (k := k) (stride := if fld w 0 6 == 12 then sa else sd) (fld_lt w 6 5)
  have h2 := staggerField_lt (u := (fieldUses w).2.1) (k := k) (stride := if fld w 0 6 == 12 then sb else sa) (fld_lt w 11 5)
  have h3 := staggerField_lt (u := (fieldUses w).2.2) (k := k) (stride := sb) (fld_lt w 16 5)
  rw [stagger]
  omega

/-- A word that a frame does not refuse and that decodes has the meaning it has outside a frame. -/
theorem exec_repeatFrameIssue {s : State} {i : Instr} (hf : frameRefuses s.frameWord = false)
    (hd : decode s.frameWord = .ok i) :
    exec .repeatFrameIssue s = hold i (s.setWord s.frameWord) (exec i (s.setWord s.frameWord)) := by
  obtain ⟨-, hencode⟩ := encodeOfDecode i s.frameWord (stagger_lt _ _ _ _ _) hd
  rw [← bodyExec_of_word i _ hencode hf]
  change execRepeatFrameIssue s = _
  rw [execRepeatFrameIssue]
  rw [if_neg (by rw [hf]; exact Bool.false_ne_true), hd]

/-- A completed fixed-latency form, or one that changes nothing but a register, has asked no die that did not have its request
before. -/
theorem asked_retire (t : Thread) (d : Reg) (x : Word) : ((t.setG d x).retire).asked = t.asked := by
  obtain ⟨p, c, i, g, h⟩ := advance_form (t.setG d x)
  rw [Thread.retire, h]
  change (t.setG d x).asked = _
  rw [Thread.setG]
  split <;> rfl

theorem asked_retirePure (t : Thread) (now : Nat) (d : Reg) (x : Word) :
    (t.retirePure now d (·.setG d x)).asked = t.asked := by
  obtain ⟨p, c, i, g, h⟩ := advance_form (t.setG d x)
  rw [Thread.retirePure, Thread.retireReply, h]
  change (t.setG d x).asked = _
  rw [Thread.setG]
  split <;> rfl

/-- A form that ends in one of the two ways of the integer instructions, and so asks no die. -/
def EndsInG (i : Instr) (s : State) (d : Reg) : Prop :=
  ∃ x, exec i s = .next (s.outG d x) ∨ exec i s = .next (s.pureG d x)

theorem relocking_of_asked {s : State} (h : s.th.asked = []) : s.relocking = none := by
  rw [State.relocking, h]; rfl

theorem EndsInG.free {i : Instr} {s : State} {d : Reg} (h : EndsInG i s d) (hs : s.th.asked = []) :
    ∀ t, exec i s = .next t → t.relocking = none := by
  intro t ht
  refine relocking_of_asked ?_
  obtain ⟨x, hx | hx⟩ := h <;> rw [hx] at ht <;> obtain rfl := Host.Outcome.next.inj ht
  · rw [State.outG, th_modTh, asked_retire, hs]
  · rw [State.pureG, State.pure, th_modTh, asked_retirePure, hs]

theorem endsInG_twoSource : ∀ e ∈ twoSourceResults, ∀ s d a b, EndsInG (e.1 d a b) s d := by
  simp only [twoSourceResults, List.forall_mem_cons, List.not_mem_nil, false_implies, implies_true, and_true]
  refine ⟨?_, ?_, ?_, ?_, ?_, ?_, ?_, ?_, ?_, ?_, ?_, ?_, ?_, ?_, ?_, ?_, ?_, ?_, ?_, ?_, ?div, ?divu, ?rem, ?remu⟩
  case div | divu | rem | remu => exact fun _ _ _ _ => ⟨_, .inr rfl⟩
  all_goals exact fun _ _ _ _ => ⟨_, .inl rfl⟩

theorem endsInG_oneSource : ∀ e ∈ oneSourceResults, ∀ s d a, EndsInG (e.1 d a) s d := by
  simp only [oneSourceResults, List.forall_mem_cons, List.not_mem_nil, false_implies, implies_true, and_true]
  refine ⟨?_, ?_, ?_, ?_, ?_, ?_, ?_, ?_, ?_, ?_, ?_⟩ <;> exact fun _ _ _ => ⟨_, .inl rfl⟩

theorem endsInG_immediate : ∀ e ∈ immediateResults, ∀ s d a k, EndsInG (e.1 d a k) s d := by
  simp only [immediateResults, List.forall_mem_cons, List.not_mem_nil, false_implies, implies_true, and_true]
  refine ⟨?_, ?_, ?_, ?_, ?_, ?_⟩ <;> exact fun _ _ _ _ => ⟨_, .inl rfl⟩

theorem endsInG_shift : ∀ e ∈ shiftResults, ∀ s d a n, EndsInG (e.1 d a n) s d := by
  simp only [shiftResults, List.forall_mem_cons, List.not_mem_nil, false_implies, implies_true, and_true]
  refine ⟨?_, ?_, ?_, ?_⟩ <;> exact fun _ _ _ _ => ⟨_, .inl rfl⟩

/-- An integer instruction as a frame's word: it completes with its result. -/
theorem writesG_repeatFrameIssue {s : State} {i : Instr} {d : Reg} {x : Word} (hasked : s.th.asked = [])
    (hf : frameRefuses s.frameWord = false) (hd : decode s.frameWord = .ok i)
    (hends : EndsInG i (s.setWord s.frameWord) d) (h : WritesG i (s.setWord s.frameWord) d x) :
    WritesG .repeatFrameIssue s d x := by
  obtain ⟨t, hexec, honly, hkeeps, hkstat, hd', hnext, hdone⟩ := h
  have hfree := hends.free (by rw [th_setWord]; exact hasked)
  have hword := keeps_setWord s s.frameWord
  have hw := th_setWord s s.frameWord
  refine ⟨t, ?_, (onlyThread_setWord s _).trans honly, ?_, ?_, hd', ?_, hdone⟩
  · rw [exec_repeatFrameIssue hf hd, hold_of_free _ _ hfree, hexec]
  · rw [hw] at hkeeps
    exact ⟨hkeeps.g, hkeeps.v, hkeeps.m, hkeeps.saved, hkeeps.control, hkeeps.frame, hkeeps.bits, hkeeps.packet⟩
  · rw [hkstat, hw]
  · rw [hw] at hnext
    exact hnext

theorem exec_repeatFrameIssue_refused {s : State} (h : frameRefuses s.frameWord = true) :
    exec .repeatFrameIssue s =
      .next ((s.setWord s.frameWord).trapNow { cause := cIllegal, info := BitVec.ofNat 64 (s.frameWord % 2 ^ 32) }) := by
  have hinfo : (s.setWord s.frameWord).wordInfo = BitVec.ofNat 64 (s.frameWord % 2 ^ 32) := by
    rw [State.wordInfo, th_setWord]
    refine BitVec.eq_of_toNat_eq ?_
    simp only [BitVec.toNat_setWidth, BitVec.toNat_ofNat]
  change execRepeatFrameIssue s = _
  rw [execRepeatFrameIssue]
  rw [if_pos h, State.illegalNow, hinfo]

theorem exec_repeatFrameIssue_undecoded {s : State} {e : DecodeErr} (hf : frameRefuses s.frameWord = false)
    (hd : decode s.frameWord = .error e) :
    exec .repeatFrameIssue s = .next ((s.setWord s.frameWord).trapNow (decodeTrap s.frameWord e)) := by
  change execRepeatFrameIssue s = _
  rw [execRepeatFrameIssue]
  rw [if_neg (by rw [hf]; exact Bool.false_ne_true), hd]

/-- Settles O15: `exec_repeatFrameIssue` for the words that run, and the two traps for those that do not. -/
theorem frameIssueRunsBodyWord : Obligations.FrameIssueRunsBodyWord := by
  unfold Obligations.FrameIssueRunsBodyWord
  refine fun s => ⟨fun hasked hf => ⟨fun e he d a b hd => ?two, fun e he d a hd => ?one, fun e he d a k hd => ?imm,
    fun e he d a n hd => ?shift⟩, fun i t hf hd ht => ⟨fun hfree => ?runs, fun d hr => ?held⟩, fun h => ?illegal,
    fun b hf hd hw hb => ?reserved⟩
  case two =>
    refine writesG_repeatFrameIssue hasked hf hd (endsInG_twoSource e he _ _ _ _) ?_
    have h := isTwoSource_twoSourceResults e he (s.setWord s.frameWord) d a b
    rwa [th_setWord] at h
  case one =>
    obtain ⟨y, hy, h⟩ := isOneSource_oneSourceResults e he (s.setWord s.frameWord) d a
    rw [th_setWord] at hy
    exact ⟨y, hy, writesG_repeatFrameIssue hasked hf hd (endsInG_oneSource e he _ _ _) h⟩
  case imm =>
    refine writesG_repeatFrameIssue hasked hf hd (endsInG_immediate e he _ _ _ _) ?_
    have h := integerImmediateResult.1 e he (s.setWord s.frameWord) d a k
    rwa [th_setWord] at h
  case shift =>
    refine writesG_repeatFrameIssue hasked hf hd (endsInG_shift e he _ _ _ _) ?_
    have h := integerImmediateResult.2 e he (s.setWord s.frameWord) d a n
    rwa [th_setWord] at h
  case runs =>
    rw [exec_repeatFrameIssue hf hd, ht, hold_of_free]
    intro t' ht'
    rwa [← Host.Outcome.next.inj ht']
  case held =>
    obtain ⟨u, hu, hwaits⟩ := hold_relocking i (s.setWord s.frameWord) hr
    refine ⟨u, by rw [exec_repeatFrameIssue hf hd, ht, hu], hwaits.st, ?_, ?_⟩
    · rw [hwaits.pc, th_setWord]
    · rw [hwaits.only.rest]; rfl
  case illegal =>
    cases hf : frameRefuses s.frameWord with
    | true => exact traps_setWord (exec_repeatFrameIssue_refused hf)
    | false =>
      have hd := h.resolve_left (by rw [hf]; exact Bool.false_ne_true)
      exact traps_setWord (exec_repeatFrameIssue_undecoded hf hd)
  case reserved =>
    have h := traps_setWord (exec_repeatFrameIssue_undecoded hf hd)
    rwa [decodeTrap, Nat.mod_eq_of_lt hw] at h

/-! ## Words that are no instruction (R24, R25) -/

theorem issueWord_undecoded {s : State} {w : Nat} {e : DecodeErr} (h : decode w = .error e) :
    issueWord w s = .next ((s.setWord w).trapNow (decodeTrap w e)) := by
  rw [issueWord, h]

/-- Settles O9: the offending bit is the one `isWordOf_decode` speaks of, and the cleared word decodes. -/
theorem undecodedWordTraps : Obligations.UndecodedWordTraps := by
  unfold Obligations.UndecodedWordTraps
  refine fun s w hw => ⟨fun h => ?illegal, fun b h => ?reserved⟩
  case illegal =>
    have ht := tookTrap_setWord s w (decodeTrap w .illegal)
    refine ⟨_, issueWord_undecoded h, ht.st, ht.kcause, ?_, ht.kepc, ht.pc⟩
    rw [ht.kinfo, decodeTrap, BitVec.toNat_ofNat]
    omega
  case reserved =>
    obtain ⟨i, x, hwf, henc, hb, hset, hclear, hop, hbelow, hsub⟩ := (isWordOf_decode hw).2 b h
    have ht := tookTrap_setWord s w (decodeTrap w (.reservedField b))
    refine ⟨hb, hset, ⟨x, i, (decodeOfEncode.1 i x hwf henc).1, hclear, hop, hbelow, hsub⟩, _, issueWord_undecoded h, ht.st,
      ht.kcause, ?_, ht.kepc, ht.pc⟩
    rw [ht.kinfo, decodeTrap, BitVec.toNat_ofNat]
    omega

/-! ## Events and rounds (R3, R20, R113, R320, R321) -/

/-- An event of the opcode table has the meaning of its own row. -/
theorem run_eq_exec_rowOf {e : Event} {i : Instr} (h : rowOf e = some i) (s : State) : e.run s = exec i s := by
  cases e
  case remoteGo | softError | stackHot | quotas => exact nomatch h
  all_goals
    obtain rfl := Option.some.inj h
    rfl

theorem step_of_external {s : State} {e : Event} {r : List Event} (h : s.external = some (e, r)) :
    step s = e.run { s with inbox := r } := by
  rw [step, h]

theorem step_of_dueEvent {s s1 : State} {e : Event} (hx : s.external = none) (h : s.dueEvent = (some e, s1)) :
    step s = e.run s1 := by
  rw [step, hx, h]

theorem step_eq_advance {s s1 : State} (hx : s.external = none) (h : s.dueEvent = (none, s1)) : step s = advance s1 := by
  rw [step, hx, h]

theorem beforeIssue_eq_false {s : State} (h : s.focus ≠ 0) : s.beforeIssue = false := by
  rw [State.beforeIssue, beq_eq_false_iff_ne]; exact h

/-- One of the engines' events, or none, is due where there are some. -/
theorem dueEvent_of_engineEvents {s : State} (hf : s.focus = 0) (hne : s.engineEvents ≠ []) :
    s.dueEvent = (s.engineEvents[Config.choice s.fresh % (s.engineEvents.length + 1)]?,
      { s with fresh := s.fresh + 1 }) := by
  have hb : s.beforeIssue = true := by rw [State.beforeIssue, hf]; rfl
  rw [State.dueEvent, if_pos hb]
  split
  next h => exact absurd h hne
  next => rfl

theorem dueEvent_none {s : State} (h : s.engineEvents = [] ∨ s.focus ≠ 0) : s.dueEvent = (none, s) := by
  have hes : (if s.beforeIssue then s.engineEvents else []) = [] := by
    rcases h with h | h
    · rw [h, ite_self]
    · rw [beforeIssue_eq_false h]; rfl
  rw [State.dueEvent, hes]

theorem external_of_focus {s : State} (h : s.focus ≠ 0) : s.external = none := by
  rw [State.external]
  split
  · rw [beforeIssue_eq_false h]; rfl
  · rfl

theorem advance_of_turn {s : State} {ck c : Nat} (h : s.turn = some (ck, c)) :
    advance s = issue ({ s with focus := ck + 1 }.issueAs ck c) := by
  rw [advance, h]

/-- A die that has a cycle in the round counts it. -/
def State.countCycle (s u : State) (d : Nat) : State :=
  if s.hasCycle d then u.modDie d fun x => { x with cycle := x.cycle + 1 } else u

theorem countCycle_keeps (s u : State) (d : Nat) :
    (s.countCycle u d).threads = u.threads ∧ (s.countCycle u d).mem = u.mem ∧ (s.countCycle u d).tick = u.tick := by
  unfold State.countCycle
  split <;> exact ⟨rfl, rfl, rfl⟩

theorem cycle_countCycle_same (s u : State) (d : Nat) :
    ((s.countCycle u d).die d).cycle = (u.die d).cycle + if s.hasCycle d then 1 else 0 := by
  unfold State.countCycle
  split <;> simp

theorem die_countCycle_other (s u : State) {d e : Nat} (h : e ≠ d) : (s.countCycle u d).die e = u.die e := by
  unfold State.countCycle
  split
  · exact die_modDie_other _ _ h
  · rfl

theorem foldl_countCycle_keeps (s : State) (l : List Nat) (u : State) :
    (l.foldl s.countCycle u).threads = u.threads ∧ (l.foldl s.countCycle u).mem = u.mem ∧
      (l.foldl s.countCycle u).tick = u.tick := by
  induction l generalizing u with
  | nil => exact ⟨rfl, rfl, rfl⟩
  | cons d l ih =>
    obtain ⟨hthreads, hmem, htick⟩ := ih (s.countCycle u d)
    obtain ⟨hthreads', hmem', htick'⟩ := countCycle_keeps s u d
    exact ⟨hthreads.trans hthreads', hmem.trans hmem', htick.trans htick'⟩

theorem die_foldl_countCycle_of_not_mem (s : State) {l : List Nat} {d : Nat} (u : State) (h : d ∉ l) :
    (l.foldl s.countCycle u).die d = u.die d := by
  induction l generalizing u with
  | nil => rfl
  | cons e l ih =>
    rw [List.mem_cons, not_or] at h
    exact (ih _ h.2).trans (die_countCycle_other s u h.1)

theorem cycle_foldl_countCycle (s : State) {l : List Nat} {d : Nat} (u : State) (hnd : l.Nodup) (h : d ∈ l) :
    ((l.foldl s.countCycle u).die d).cycle = (u.die d).cycle + if s.hasCycle d then 1 else 0 := by
  induction l generalizing u with
  | nil => exact nomatch h
  | cons e l ih =>
    obtain ⟨hel, hl⟩ := List.nodup_cons.mp hnd
    by_cases hde : d = e
    · subst hde
      rw [List.foldl_cons, die_foldl_countCycle_of_not_mem s _ hel, cycle_countCycle_same]
    · rw [List.foldl_cons, ih _ hl ((List.mem_cons.mp h).resolve_left hde), die_countCycle_other s u hde]

theorem endRound_eq (s : State) :
    s.endRound = { (List.range 12).foldl s.countCycle s.settleReady with focus := 0, round := s.round + 1 } := rfl

/-- A die whose clock has the multiplier `m` counts `m` cycles in ten ticks. -/
theorem sum_cycles (c : Clock) (k : Nat) : ((List.range 10).map fun j => c.cycles (10 * k + j)).sum = c.m := by
  have hlin : ∀ j, c.m * (10 * k + j) = 10 * (c.m * k) + j * c.m := fun j => by ring
  have hcycles : ∀ j, c.cycles (10 * k + j) = (j + 1) * c.m / 10 - j * c.m / 10 := by
    intro j
    rw [Clock.cycles, Nat.add_assoc, hlin, hlin, Nat.mul_add_div (by decide), Nat.mul_add_div (by decide),
      Nat.add_sub_add_left]
  simp only [hcycles, show List.range 10 = [0, 1, 2, 3, 4, 5, 6, 7, 8, 9] from rfl, List.map_cons, List.map_nil,
    List.sum_cons, List.sum_nil]
  omega

theorem eligible_of_justReady {s : State} {ck c : Nat} (h : (s.thr (threadOf ck c)).justReady = true) :
    s.eligible ck c = false := by
  rw [State.eligible, h, Bool.not_true, Bool.and_false, Bool.false_and]

/-- Settles O8: each branch of `step` and `advance` by its lemma. -/
theorem stepRunsEvent : Obligations.StepRunsEvent := by
  unfold Obligations.StepRunsEvent
  refine ⟨fun e i => run_eq_exec_rowOf, fun s e r => step_of_external, fun s hx hf hne => ?engine,
    fun s => dueEvent_none, fun s => external_of_focus, fun s s1 hx hdue hturn => ⟨fun hr => ?round, fun e hr hl he => ?timed,
    fun hr hl he => ?tick⟩, fun s t hturn hr hl => ?late, fun s ck c => eligible_of_justReady, sum_cycles⟩
  case engine =>
    have hdue := dueEvent_of_engineEvents hf hne
    cases he : s.engineEvents[Config.choice s.fresh % (s.engineEvents.length + 1)]? with
    | none => rw [he] at hdue; exact .inr hdue
    | some e => rw [he] at hdue; exact .inl ⟨e, List.mem_of_getElem? he, step_of_dueEvent hx hdue⟩
  case round =>
    obtain ⟨hthreads, hmem, htick⟩ := foldl_countCycle_keeps s1 (List.range 12) s1.settleReady
    have hadv : advance s1 = .next s1.endRound := by rw [advance, hturn]; exact if_pos hr
    refine ⟨_, (step_eq_advance hx hdue).trans hadv, ?_, ?_, fun u => ?_, ?_, fun d hd => ?_⟩
    · rw [endRound_eq]; exact htick
    · rw [endRound_eq]
    · rw [← settleReady_thr, endRound_eq]; exact congrArg (fun ts => AMap.get (threadInit u) ts u) hthreads
    · rw [endRound_eq]; exact hmem
    · rw [endRound_eq]; exact cycle_foldl_countCycle s1 s1.settleReady List.nodup_range (List.mem_range.mpr hd)
  case timed => rw [step_eq_advance hx hdue, advance, hturn, if_neg (by omega), hl, he]
  case tick => rw [step_eq_advance hx hdue, advance, hturn, if_neg (by omega), hl, he]; rfl
  case late => rw [advance, hturn, if_neg (by omega), hl]
/-! ## The fetch (R11, R24, R107, R130, R276, R277) -/

theorem issue_of_frame {s : State} (h : s.th.inFrame = true) : issue s = exec .repeatFrameIssue s := if_pos h

theorem issue_of_word {s : State} {w : Nat} (h : s.th.inFrame = false) (hw : s.fetchPc s.th.pc.toNat = .word w) :
    issue s = issueWord w s := by
  rw [issue, if_neg (by rw [h]; exact Bool.false_ne_true), hw]

theorem issue_of_trap {s : State} {tr : Trap} (h : s.th.inFrame = false) (hw : s.fetchPc s.th.pc.toNat = .trap tr) :
    issue s = .next ((s.setWord 0).trapNow tr) := by
  rw [issue, if_neg (by rw [h]; exact Bool.false_ne_true), hw]

theorem issue_of_miss {s : State} {k : WaitKind} (h : s.th.inFrame = false) (hw : s.fetchPc s.th.pc.toNat = .miss k) :
    issue s = .next (s.fetchMiss k) := by
  rw [issue, if_neg (by rw [h]; exact Bool.false_ne_true), hw]

theorem issueWord_decoded {s : State} {w : Nat} {i : Instr} (h : decode w = .ok i) :
    issueWord w s = hold i (s.setWord w) (exec i (s.setWord w)) := by
  rw [issueWord, h]

theorem canonical_iff (pc : Nat) : canonical pc = true ↔ pc / 2 ^ 56 % 2 ^ 8 = 0 ∨ pc / 2 ^ 56 % 2 ^ 8 = 255 := by
  rw [canonical, Bool.or_eq_true, beq_iff_eq, beq_iff_eq]
  rfl

theorem fetchPc_noncanonical {s : State} {pc : Nat} (h : canonical pc = false) :
    s.fetchPc pc = .trap { cause := cTranslation, info := BitVec.ofNat 64 pc } := by
  rw [State.fetchPc, canonCheck, h]
  rfl

theorem fetchPc_untranslated {s : State} {pc : Nat} (h : canonical pc = true) (ht : tlbFind s.co.tlb pc = none) :
    s.fetchPc pc = .miss (.pageWalk pc) := by
  rw [State.fetchPc, canonCheck, h, State.pagePart, ht]
  rfl

/-- The checks of a fetch pass just where its page is executable and, at launch level, has `lu` = 1. -/
theorem pagePart_fetch {s : State} {va n : Nat} {e : TlbEnt} (ht : tlbFind s.co.tlb va = some e) :
    s.pagePart .fetch va n =
      if pteX e.pte = false ∨ (s.th.service = false ∧ pteLu e.pte = false) then
        .error (.trap { cause := cPermission, info := BitVec.ofNat 64 va })
      else .ok { va := va, pa := ptePa e.pte + (va - e.va), n := n, pte := e.pte } := by
  rw [State.pagePart, ht]
  refine if_congr ?_ rfl rfl
  rw [show (Acc.fetch == Acc.store) = false from rfl, show (Acc.fetch == Acc.fetch) = true from rfl]
  cases s.th.service <;> cases pteLu e.pte <;> cases pteX e.pte <;> simp

theorem fetchPc_denied {s : State} {pc : Nat} {e : TlbEnt} (h : canonical pc = true) (ht : tlbFind s.co.tlb pc = some e)
    (hd : pteX e.pte = false ∨ (s.th.service = false ∧ pteLu e.pte = false)) :
    s.fetchPc pc = .trap { cause := cPermission, info := BitVec.ofNat 64 pc } := by
  rw [State.fetchPc, canonCheck, h, pagePart_fetch ht, if_pos hd]
  rfl

section
variable {s : State} {pc : Nat} {e : TlbEnt} (h : canonical pc = true) (ht : tlbFind s.co.tlb pc = some e)
  (hd : ¬ (pteX e.pte = false ∨ (s.th.service = false ∧ pteLu e.pte = false)))
include h ht hd

theorem fetchPc_uncached (hl : s.co.icache.find (pc / 64) = none) : s.fetchPc pc = .miss (.icacheMiss pc) := by
  rw [State.fetchPc, canonCheck, h, pagePart_fetch ht, if_neg hd, hl]
  rfl

theorem fetchPc_uncorrectable {l : List (Option (BitVec 32))} (hl : s.co.icache.find (pc / 64) = some l)
    (hw : l.getD (pc % 64 / 4) none = none) :
    s.fetchPc pc = .trap (uncorrectable ((ptePa e.pte + (pc - e.va)) / 8)) := by
  rw [State.fetchPc, canonCheck, h, pagePart_fetch ht, if_neg hd, hl]
  dsimp only
  rw [hw]
  rfl

theorem fetchPc_word {l : List (Option (BitVec 32))} {w : BitVec 32} (hl : s.co.icache.find (pc / 64) = some l)
    (hw : l.getD (pc % 64 / 4) none = some w) : s.fetchPc pc = .word w.toNat := by
  rw [State.fetchPc, canonCheck, h, pagePart_fetch ht, if_neg hd, hl]
  dsimp only
  rw [hw]
  rfl

end

/-- A step whose issue traps at the fetch. -/
theorem fetchTraps_of_trap {s s2 : State} {tr : Trap} (hadv : advance s = issue s2) (hf : s2.th.inFrame = false)
    (hw : s2.fetchPc s2.th.pc.toNat = .trap tr) : FetchTraps s s2 tr.cause tr.info := by
  have ht := tookTrap_setWord s2 0 tr
  exact ⟨_, hadv.trans (issue_of_trap hf hw), ht.st, ht.kcause, ht.kinfo, ht.kepc, ht.pc, ht.g, ht.v, ht.m, ht.kstat, ht.word,
    by rw [mem_trapNow]; rfl,
    fun u hu => (thr_takeTrap_other (s2.setWord 0) tr hu).trans ((onlyThread_setWord s2 0).others u hu)⟩

/-- The issuing thread after a fetch that misses. -/
theorem th_fetchMiss (s : State) (k : WaitKind) :
    (s.fetchMiss k).th = ({ s.th with word := 0 } : Thread).blockFetch s.tick k := by
  have hw : ∀ k', (s.setWord 0).th.blockFetch s.tick k' = ({ s.th with word := 0 } : Thread).blockFetch s.tick k' :=
    fun k' => congrArg (Thread.blockFetch · s.tick k') (th_setWord s 0)
  unfold State.fetchMiss
  rw [th_modTh]
  cases k <;> exact hw _

theorem mem_fetchMiss (s : State) (k : WaitKind) : (s.fetchMiss k).mem = s.mem := by
  cases k <;> rfl

/-- A step whose issue waits for what its fetch needs. -/
theorem fetchWaits_of_miss {s s2 : State} {k : WaitKind} (hadv : advance s = issue s2) (hf : s2.th.inFrame = false)
    (hw : s2.fetchPc s2.th.pc.toNat = .miss k) : FetchWaits s s2 k := by
  refine ⟨_, hadv.trans (issue_of_miss hf hw), ?_, ?_, ?_, ?_, mem_fetchMiss s2 k⟩ <;> rw [th_fetchMiss]
  · rfl
  · rfl
  · rfl
  · exact ⟨fun _ _ => rfl, fun _ _ => rfl, fun _ _ => rfl, ⟨rfl, rfl, rfl⟩, ⟨rfl, rfl, rfl, rfl, rfl⟩, rfl,
      ⟨rfl, rfl, rfl, rfl, rfl⟩, ⟨rfl, rfl⟩⟩

/-- A bit of a word as a test of its number. -/
theorem bitAt_eq_testBit (x : Word) (i : Nat) : bitAt x i = x.toNat.testBit i := by
  rw [bitAt, Nat.testBit_eq_decide_div_mod_eq]
  rfl

/-- Settles O7: the branches of `issue`, of the hold of a relock and of the fetch. -/
theorem stepRunsDecodedInstruction : Obligations.StepRunsDecodedInstruction := by
  unfold Obligations.StepRunsDecodedInstruction
  refine ⟨fun s s1 => step_eq_advance, fun s ck c hturn => ?_⟩
  intro s2
  have hadv : advance s = issue s2 := advance_of_turn hturn
  refine ⟨fun hf => hadv.trans (issue_of_frame hf), fun w i hf hw hd => ⟨fun hfree => ?runs, fun t d ht hr => ?held⟩,
    fun hf => ⟨fun hc => ?noncanonical, fun hc ht => ?walk, fun e hc ht => ⟨fun hden => ?denied, fun hden hl => ?line,
      fun l hden hl => ⟨fun hw => ?bad, fun w hw => ?word⟩⟩⟩⟩
  case runs => rw [hadv, issue_of_word hf hw, issueWord_decoded hd, hold_of_free i _ hfree]
  case held =>
    obtain ⟨u, hu, hwaits⟩ := hold_relocking i (s2.setWord w) hr
    exact ⟨u, by rw [hadv, issue_of_word hf hw, issueWord_decoded hd, ← hu, ← ht], hwaits.only, hwaits.keeps, hwaits.kstat,
      hwaits.pc, hwaits.st⟩
  case noncanonical =>
    have hpc := fetchPc_noncanonical (s := s2) (pc := s2.th.pc.toNat) (Bool.eq_false_iff.mpr fun h => hc ((canonical_iff _).mp h))
    have htraps := fetchTraps_of_trap hadv hf hpc
    rwa [BitVec.ofNat_toNat, BitVec.setWidth_eq] at htraps
  case walk => exact fetchWaits_of_miss hadv hf (fetchPc_untranslated ((canonical_iff _).mpr hc) ht)
  all_goals rw [← bitAt_eq_testBit, ← bitAt_eq_testBit] at hden
  case denied =>
    have htraps := fetchTraps_of_trap hadv hf (fetchPc_denied ((canonical_iff _).mpr hc) ht hden)
    rwa [BitVec.ofNat_toNat, BitVec.setWidth_eq] at htraps
  case line => exact fetchWaits_of_miss hadv hf (fetchPc_uncached ((canonical_iff _).mpr hc) ht hden hl)
  case bad =>
    have htraps := fetchTraps_of_trap hadv hf (fetchPc_uncorrectable ((canonical_iff _).mpr hc) ht hden hl hw)
    rwa [uncorrectable, Nat.mul_comm] at htraps
  case word => exact fetchPc_word ((canonical_iff _).mpr hc) ht hden hl hw

/-! ## Trap records (R92 to R95) -/

theorem isRecord_recordFrom (s : State) (t : Nat) (dest : Option (Nat × Nat × Option Nat)) (words : List Word) :
    IsRecord (s.recordFrom t dest words) words (dest.map fun d => (d.1, d.2.1)) := by
  refine ⟨?_, fun d hd => ?_, rfl, rfl, rfl, rfl⟩
  · cases dest <;> rfl
  · cases dest with
    | none => exact nomatch hd
    | some e => rw [← Option.some.inj hd]; rfl

theorem transit_takeTrap (s : State) (t : Nat) (tr : Trap) : (s.takeTrap t tr).transit = (s.postRecord t tr).transit := rfl

/-- The record of a trap whose cause sends it where R94 says, with no copy. -/
theorem transit_takeTrap_once {s : State} {t : Nat} {tr : Trap} (h : tr.cause ≠ cTranslation)
    (hc : tr.cause ≠ cUncorrectable) :
    (s.takeTrap t tr).transit = s.transit ++ [s.recordFrom t (s.trapDest t) (s.trapRecord t tr)] := by
  rw [transit_takeTrap, State.postRecord, if_neg h, if_neg (by simp [hc])]
  rfl

/-- A meaning that takes a trap with one record. -/
theorem trapsWithRecord_trapNow {i : Instr} {s : State} {tr : Trap} (h : exec i s = .next (s.trapNow tr))
    (ht : tr.cause ≠ cTranslation) (hu : tr.cause ≠ cUncorrectable) :
    TrapsWithRecord i s tr.cause tr.info tr.aux (destOf s s.cur) :=
  ⟨traps_trapNow h, _, _, h, transit_takeTrap_once ht hu, isRecord_recordFrom s s.cur _ _⟩

/-- Settles O16: each is one `trapNow`. -/
theorem callAndBreakTrap : Obligations.CallAndBreakTrap := by
  unfold Obligations.CallAndBreakTrap
  intro s a k
  have hcall : cSyscall ≠ cTranslation ∧ cSyscall ≠ cUncorrectable := by decide
  have hbrk : cBreak ≠ cTranslation ∧ cBreak ≠ cUncorrectable := by decide
  exact ⟨trapsWithRecord_trapNow (tr := { cause := cSyscall, info := k.setWidth 64, aux := s.rg a }) rfl hcall.1 hcall.2,
    trapsWithRecord_trapNow (tr := { cause := cBreak, info := k.setWidth 64 }) rfl hbrk.1 hbrk.2⟩


/-! ## A record that names a destination (R94, R358) -/

/-- A SYSCALL record of thread 0 with the call number 0, which Table 19-1 has not, and with a destination to forward it to. -/
def strayCall : Post :=
  { core := none, lid := none, msg := hwMsg 0 [0, 0, BitVec.ofNat 64 cSyscall, 0, 0, 0, 0, 0], trapRec := true, src := none,
    fwd := some (0, 0, none) }

/-- Thread 0 is TRAPPED and that record is on its way to the service. -/
def withStrayCall : State :=
  { State.reset with threads := [(0, { threadInit 0 with st := .trapped })], transit := [strayCall] }

/-- The service answers the call as it receives it, and so does not keep its record (R358). -/
theorem service_of_strayCall {u : State} (h : exec .messageArrival withStrayCall = .next u) : u.service = [] := by
  have hservice : (match exec .messageArrival withStrayCall with | .next v => v.service | _ => []) = [] := by decide
  rwa [h] at hservice

/-- Refutes O17: the last clause asks of every record with a destination that the service keeps it, a SYSCALL record of a call
that it answers at once among them. -/
theorem not_trapDestination : ¬ Obligations.TrapDestination := by
  unfold Obligations.TrapDestination
  rintro ⟨-, -, hforward⟩
  have harrives : withStrayCall.takeArriving withStrayCall.transit = some (strayCall, []) := by decide
  obtain ⟨u, hu, hkept, -⟩ := hforward withStrayCall strayCall [] 0 0 none harrives rfl rfl
  rw [service_of_strayCall hu] at hkept
  exact nomatch hkept

end Sys2Proof.Machine
end

section
/-! PROOFS. k-registers and the handler's forms (spec chapter 4). -/

namespace Sys2Proof.Machine

/-! ## k-registers (R81 to R89) -/

theorem kRws_iff (k : KReg) : kRws k = true ↔ serviceOnly k := by
  cases k <;> simp [kRws, serviceOnly]

theorem kBits_of_mem_kWidths : ∀ e ∈ kWidths, kBits e.1 = e.2 := by decide

/-- What a write leaves in its register: the value, but of a read-only register and of `kstat.pl` the old one. -/
theorem writeK_readK_same (s : State) (t : Nat) (x : Thread) (v : Word) {k : KReg} (h : ¬ readOnly k) (hs : k ≠ .kstat)
    (hw : k ≠ .kswait) (hlo : k ≠ .kbbuf) (hhi : k ≠ .kbbufh) : s.readK t (x.writeK k v) k = v := by
  cases k
  case kgrp i => exact (get_set x.kgrp i i v).trans (if_pos rfl)
  case kfbuf i => exact (get_set x.kfbuf i i v).trans (if_pos rfl)
  case kcause | kinfo | kepc | kid | karg | kcycle | ktick => exact absurd trivial h
  case kstat | kswait | kbbuf | kbbufh => contradiction
  all_goals rfl

theorem writeK_readOnly (x : Thread) (v : Word) {k : KReg} (h : readOnly k) : x.writeK k v = x := by
  cases k
  case kcause | kinfo | kepc | kid | karg | kcycle | ktick => rfl
  all_goals exact h.elim

theorem writeK_kstat (x : Thread) (v : Word) :
    (x.writeK .kstat v).kstat = BitVec.ofNat 64 (v.toNat / 2 * 2 + x.kstat.toNat % 2) := by
  refine BitVec.eq_of_getLsbD_eq fun i hi => ?_
  change ((v &&& ~~~ 1#64) ||| (x.kstat &&& 1#64)).getLsbD i = _
  rw [BitVec.getLsbD_ofNat]
  cases i with
  | zero => simp [Nat.testBit_zero, BitVec.getLsbD]
  | succ i =>
    rw [Nat.testBit_succ, show (v.toNat / 2 * 2 + x.kstat.toNat % 2) / 2 = v.toNat / 2 by omega, ← Nat.testBit_succ]
    rw [BitVec.getLsbD_or, BitVec.getLsbD_and, BitVec.getLsbD_and, BitVec.getLsbD_not, BitVec.getLsbD_one]
    simp [hi, BitVec.getLsbD]

/-- A write leaves every other register, but that of the bit buffer's registers each masks the buffer (R183). -/
theorem writeK_readK_other (x : Thread) (v : Word) {j k : KReg} (h : j ≠ k)
    (hb : ¬ (bufferReg k ∧ (j = .kbbuf ∨ j = .kbbufh))) : (x.writeK k v).readK j = x.readK j := by
  cases k
  case kbbuf | kbbufh | kbfill =>
    have hj : ¬ (j = .kbbuf ∨ j = .kbbufh) := fun hj => hb ⟨by simp [bufferReg], hj⟩
    cases j <;> simp_all [Thread.writeK, Thread.readK, Thread.maskBits]
  case kgrp i =>
    cases j
    case kgrp j => exact (get_set x.kgrp i j v).trans (if_neg fun e => h (congrArg _ e))
    all_goals rfl
  case kfbuf i =>
    cases j
    case kfbuf j => exact (get_set x.kfbuf i j v).trans (if_neg fun e => h (congrArg _ e))
    all_goals rfl
  all_goals cases j
  all_goals simp_all [Thread.writeK, Thread.readK]

/-- What a write leaves of the thread outside its k-registers. -/
theorem writeK_files (x : Thread) (v : Word) (k : KReg) :
    (x.writeK k v).g = x.g ∧ (x.writeK k v).v = x.v ∧ (x.writeK k v).m = x.m ∧ (x.writeK k v).pc = x.pc ∧
      (x.writeK k v).st = x.st := by
  cases k <;> exact ⟨rfl, rfl, rfl, rfl, rfl⟩

/-- The low bits of two words as one number. -/
theorem low_bits_of_pair {lo : Nat} (hi n : Nat) (hlo : lo < 2 ^ 64) :
    lo % 2 ^ n + 2 ^ 64 * (hi % 2 ^ (n - 64)) = (lo + 2 ^ 64 * hi) % 2 ^ n := by
  rcases Nat.le_total n 64 with h | h
  · obtain ⟨d, hd⟩ := Nat.exists_eq_add_of_le h
    rw [Nat.sub_eq_zero_of_le h, Nat.pow_zero, Nat.mod_one, Nat.mul_zero, Nat.add_zero, hd, Nat.pow_add, Nat.mul_assoc,
      Nat.add_mul_mod_self_left]
  · obtain ⟨d, rfl⟩ := Nat.exists_eq_add_of_le h
    rw [Nat.add_sub_cancel_left, Nat.pow_add, Nat.mod_mul (x := lo + 2 ^ 64 * hi), Nat.add_mul_mod_self_left,
      Nat.add_mul_div_left _ _ (by decide), Nat.div_eq_of_lt hlo, Nat.zero_add, Nat.mod_eq_of_lt hlo,
      Nat.mod_eq_of_lt (hlo.trans_le (Nat.le_mul_of_pos_right _ (Nat.two_pow_pos d)))]

/-- The bit buffer as one number after the mask (R183). -/
theorem bufferOf_maskBits (x : Thread) :
    bufferOf x.maskBits.kbbuf x.maskBits.kbbufh = bufferOf x.kbbuf x.kbbufh % 2 ^ min 128 (x.kbfill.toNat % 256) := by
  have hfill : bitsAt x.kbfill 0 8 = x.kbfill.toNat % 256 := by simp [bitsAt]
  have hmod : ∀ (w : Word) m, (BitVec.ofNat 64 (bitsAt w 0 m)).toNat = w.toNat % 2 ^ m := fun w m => by
    rw [BitVec.toNat_ofNat, bitsAt, Nat.pow_zero, Nat.div_one]
    exact Nat.mod_eq_of_lt ((Nat.mod_le _ _).trans_lt w.isLt)
  rw [Thread.maskBits, hfill, bufferOf, bufferOf, hmod, hmod]
  exact low_bits_of_pair _ _ x.kbbuf.isLt

/-- The tables that a k-register's value depends on besides its thread are the same in two states (R85, R87). -/
def SameTables (t z : State) : Prop := ∀ x j, t.readK t.cur x j = z.readK z.cur x j

section
variable {t z : State} {y : Thread} {k : KReg} {v : Word} (hread : SameTables t z) (hth : t.th = y.writeK k v)
include hread hth

theorem kValue_written (hkstat : y.kstat = z.th.kstat) (hro : readOnly k → y.readK k = z.th.readK k) (hw : k ≠ .kswait)
    (hlo : k ≠ .kbbuf) (hhi : k ≠ .kbbufh) : kValue t k = kWritten z k v := by
  rw [← readK_own, hread, hth]
  by_cases hr : readOnly k
  · rw [writeK_readOnly y v hr, readK_congr z z.cur (hro hr), readK_own]
    cases k
    case kcause | kinfo | kepc | kid | karg | kcycle | ktick => rfl
    all_goals exact hr.elim
  · by_cases hs : k = .kstat
    · subst hs
      exact (writeK_kstat y v).trans (by rw [hkstat]; rfl)
    · rw [writeK_readK_same z z.cur y v hr hs hw hlo hhi]
      cases k
      case kstat => exact absurd rfl hs
      case kcause | kinfo | kepc | kid | karg | kcycle | ktick => exact absurd trivial hr
      all_goals rfl

theorem kValue_kept {j : KReg} (hj : y.readK j = z.th.readK j) (h : j ≠ k)
    (hb : ¬ (bufferReg k ∧ (j = .kbbuf ∨ j = .kbbufh))) : kValue t j = kValue z j := by
  rw [← readK_own, ← readK_own, hread, hth]
  exact readK_congr z z.cur ((writeK_readK_other y v h hb).trans hj)

end

theorem bufferOf_written {t z : State} {y : Thread} {k : KReg} {v : Word} (hth : t.th = y.writeK k v)
    (hlo : y.kbbuf = z.th.kbbuf) (hhi : y.kbbufh = z.th.kbbufh) (hb : bufferReg k) :
    bufferOf (kValue t .kbbuf) (kValue t .kbbufh) =
      bufferOf (if k = .kbbuf then v else kValue z .kbbuf) (if k = .kbbufh then v else kValue z .kbbufh) %
        2 ^ min 128 ((kValue t .kbfill).toNat % 256) := by
  change bufferOf t.th.kbbuf t.th.kbbufh = bufferOf (if k = .kbbuf then v else z.th.kbbuf)
    (if k = .kbbufh then v else z.th.kbbufh) % 2 ^ min 128 (t.th.kbfill.toNat % 256)
  rw [hth, ← hlo, ← hhi]
  obtain rfl | rfl | rfl := hb
  · rw [if_pos rfl, if_neg nofun]; exact bufferOf_maskBits { y with kbbuf := v }
  · rw [if_neg nofun, if_pos rfl]; exact bufferOf_maskBits { y with kbbufh := v }
  · rw [if_neg nofun, if_neg nofun]; exact bufferOf_maskBits { y with kbfill := v }

/-- A write of a k-register of the issuing thread whose checks pass: everything it does. -/
theorem writesK_own {i : Instr} {s : State} {k : KReg} {x : Word} (hk : k ≠ .kswait)
    (h : exec i s = .next (s.modTh fun t => t.retire.writeK k x)) : WritesK i s k x := by
  have hth : (s.modTh fun t => t.retire.writeK k x).th = s.th.retire.writeK k x := th_modTh s _
  have hread : SameTables (s.modTh fun t => t.retire.writeK k x) s := fun y j => readK_modTh s _ s.cur y j
  obtain ⟨hg, hv, hm⟩ := retire_files s.th
  obtain ⟨hg', hv', hm', -, hst'⟩ := writeK_files s.th.retire x k
  have hplace : ∀ {j}, j ≠ KReg.kfcnt → j ≠ .kfidx → j ≠ .kfstg → s.th.retire.readK j = s.th.readK j := retire_readK s.th
  refine ⟨_, h, fun hlo hhi => ?written, fun j hj hcnt hidx hstg hb => kValue_kept hread hth (hplace hcnt hidx hstg) hj hb,
    bufferOf_written hth (hplace (j := .kbbuf) nofun nofun nofun) (hplace (j := .kbbufh) nofun nofun nofun),
    ?g, ?v, ?m, ?st, fun u hu => thr_modThr_other s _ hu, fun a => rfl⟩
  case written =>
    refine kValue_written hread hth (retire_kstat s.th) (fun hr => hplace ?_ ?_ ?_) hk hlo hhi <;> rintro rfl <;> exact hr
  case g => rw [hth, hg', hg]
  case v => rw [hth, hv', hv]
  case m => rw [hth, hm', hm]
  case st => rw [hth, hst']; rfl

/-- A core with `kswait` written. -/
def Core.withKswait (c : Core) (x : Word) : Core := { c with kswait := x }

theorem lcore_withKswait (s : State) (c d : Nat) (x : Word) :
    ((s.modCor c (·.withKswait x)).cor d).lcore = (s.cor d).lcore := by
  by_cases h : d = c
  · rw [h, cor_modCor_same]; rfl
  · rw [cor_modCor_other s _ h]

/-- No other register of any thread depends on `kswait`. -/
theorem readK_withKswait (s : State) (c t : Nat) (v : Word) (x : Thread) {j : KReg} (h : j ≠ .kswait) :
    (s.modCor c (·.withKswait v)).readK t x j = s.readK t x j := by
  cases j
  case kswait => exact absurd rfl h
  case kid =>
    change (s.modCor c (·.withKswait v)).kid t = s.kid t
    rw [State.kid, State.kid, lcore_withKswait]
  all_goals rfl

theorem kswait_withKswait (s : State) (c t : Nat) (v : Word) (x : Thread) (h : coreOf t = c) :
    (s.modCor c (·.withKswait v)).readK t x .kswait = v := by
  change ((s.modCor c (·.withKswait v)).cor (coreOf t)).kswait = v
  rw [h, cor_modCor_same]
  rfl

/-- A write of `kswait`, which the core holds. -/
theorem writesK_kswait {i : Instr} {s : State} {x : Word} (h : exec i s = .next (s.modCo (·.withKswait x)).done) :
    WritesK i s .kswait x := by
  have hth : (s.modCo (·.withKswait x)).done.th = s.th.retire := th_modTh _ _
  have hread : ∀ y j, (s.modCo (·.withKswait x)).done.readK s.cur y j = (s.modCo (·.withKswait x)).readK s.cur y j :=
    fun y j => readK_modTh _ _ _ y j
  obtain ⟨hg, hv, hm⟩ := retire_files s.th
  refine ⟨_, h, fun _ _ => ?written, fun j hj hcnt hidx hstg _ => ?others, fun hb => absurd hb (by simp [bufferReg]),
    (congrArg Thread.g hth).trans hg, (congrArg Thread.v hth).trans hv, (congrArg Thread.m hth).trans hm,
    congrArg Thread.st hth, fun u hu => thr_modThr_other _ _ hu, fun a => rfl⟩
  case written =>
    rw [← readK_own]
    exact (hread _ _).trans (kswait_withKswait s s.ck s.cur x _ rfl)
  case others =>
    rw [← readK_own, ← readK_own, hth]
    exact (hread _ _).trans ((readK_withKswait s s.ck s.cur x _ hj).trans
      (readK_congr s s.cur (retire_readK s.th hcnt hidx hstg)))

/-! ## The checks of a write (R89) -/

/-- The checks of R89 pass for an allowed write. -/
theorem writeChecks_ok {s : State} {old x : Word} {k : KReg} {w : Nat} (hw : kBits k = w) (h : WriteAllowed s old k w x) :
    s.writeChecks k old x = .ok () := by
  obtain ⟨hservice, hlt, hflags, hvec⟩ := h
  have hpriv : (kRws k && !s.th.service) = false := by
    cases hr : kRws k
    · rfl
    · rw [hservice ((kRws_iff k).mp hr)]; rfl
  unfold State.writeChecks
  rw [hpriv, resCheck_ok s (by rw [hw]; exact hlt)]
  cases k
  case kstat =>
    change trapIf (!s.th.service && bitsAt x 3 6 != bitsAt old 3 6) cPrivilege s.wordInfo = _
    rcases hflags rfl with h | h
    · rw [h]; rfl
    · rw [h, bne_self_eq_false, Bool.and_false]; rfl
  case ktvec =>
    change s.vecCheck x = _
    rcases hvec rfl with h | h | h
    · exact vecCheck_ok (.inl h)
    · rw [State.vecCheck, h, Bool.and_false]; rfl
    · exact vecCheck_ok (.inr h)
  all_goals rfl

theorem writesK_of_allowed {s : State} {a : Reg} {i : Instr} {k : KReg} {w : Nat} {x : Word} (hi : KWrite i s a k x)
    (hw : kBits k = w) (h : WriteAllowed s s.th.kstat k w x) : WritesK i s k x := by
  have hchecks : s.writeChecks k (s.readK s.cur s.th k) x = .ok () := by
    refine writeChecks_ok hw ⟨h.1, h.2.1, fun hk => ?_, h.2.2.2⟩
    subst hk
    exact h.2.2.1 rfl
  have hexec := exec_of_kWrite hi
  by_cases hk : k = .kswait
  · subst hk
    refine writesK_kswait (hexec.trans ?_)
    rw [State.writeOwn, hchecks]
    rfl
  · refine writesK_own hk (hexec.trans ?_)
    rw [writeOwn_of_checks hk hchecks]
    rfl

/-- At launch level a register that only the service writes is refused first. -/
theorem writeChecks_serviceOnly {s : State} {old x : Word} {k : KReg} (hk : serviceOnly k) (h : s.th.service = false) :
    s.writeChecks k old x = .error (.trap { cause := cPrivilege, info := s.wordInfo }) := by
  unfold State.writeChecks
  rw [h, (kRws_iff k).mpr hk]
  rfl

/-- The lowest set bit of a word, by what is below it. -/
theorem lowestBit_eq {x : Word} {b : Nat} (hset : x.toNat.testBit b = true) (hbelow : ∀ j, j < b → x.toNat.testBit j = false) :
    lowestBit x = b := by
  have hx : x ≠ 0 := by rintro rfl; simp at hset
  have hb : b < 64 := by
    by_contra hb
    rw [Nat.testBit_lt_two_pow (x.isLt.trans_le (Nat.pow_le_pow_right (by decide) (by omega)))] at hset
    exact nomatch hset
  obtain ⟨hle, hmin, hat⟩ := lowBit_spec 64 x.toNat
  rw [lowestBit, if_neg hx]
  rcases Nat.lt_trichotomy (lowBit 64 x.toNat) b with h | h | h
  · rw [hbelow _ h] at hat
    exact nomatch hat (by omega)
  · exact h
  · rw [hmin b h] at hset
    exact nomatch hset

/-- The trap of a value whose lowest offending bit is `b` (R25, R89). -/
def State.reservedTrap (s : State) (b : Nat) : Trap :=
  { cause := cReservedField, info := BitVec.ofNat 64 (s.th.word.toNat + 2 ^ 37 + 2 ^ 38 * b) }

/-- The lowest offending bit of a value with a bit in the register's RES field. -/
theorem resCheck_refuses {s : State} {k : KReg} {x : Word} {b : Nat} (hle : kBits k ≤ b) (hset : x.toNat.testBit b = true)
    (hbelow : ∀ j, kBits k ≤ j → j < b → x.toNat.testBit j = false) :
    s.resCheck k x = .error (.trap (s.reservedTrap b)) := by
  have hhi : (BitVec.ofNat 64 (x.toNat / 2 ^ kBits k)).toNat = x.toNat / 2 ^ kBits k := by
    rw [BitVec.toNat_ofNat, Nat.mod_eq_of_lt ((Nat.div_le_self _ _).trans_lt x.isLt)]
  have hbit : (x.toNat / 2 ^ kBits k).testBit (b - kBits k) = true := by
    rw [Nat.testBit_div_two_pow, Nat.sub_add_cancel hle, hset]
  have hne : (x.toNat / 2 ^ kBits k != 0) = true := by
    rw [bne_iff_ne]
    intro h
    rw [h, Nat.zero_testBit] at hbit
    exact nomatch hbit
  have hlow : lowestBit (BitVec.ofNat 64 (x.toNat / 2 ^ kBits k)) = b - kBits k := by
    refine lowestBit_eq (by rw [hhi, hbit]) fun j hj => ?_
    rw [hhi, Nat.testBit_div_two_pow]
    exact hbelow _ (by omega) (by omega)
  rw [State.resCheck, hlow, Nat.add_sub_cancel' hle, Nat.mul_comm b, hne]
  rfl

theorem writeChecks_reserved {s : State} {old x : Word} {k : KReg} {b : Nat} (hservice : serviceOnly k → s.th.service = true)
    (hle : kBits k ≤ b) (hset : x.toNat.testBit b = true)
    (hbelow : ∀ j, kBits k ≤ j → j < b → x.toNat.testBit j = false) :
    s.writeChecks k old x = .error (.trap (s.reservedTrap b)) := by
  have hpriv : (kRws k && !s.th.service) = false := by
    cases hr : kRws k
    · rfl
    · rw [hservice ((kRws_iff k).mp hr)]; rfl
  unfold State.writeChecks
  rw [hpriv, resCheck_refuses hle hset hbelow]
  rfl

/-- At launch level the flags of `kstat` stay. -/
theorem writeChecks_flags {s : State} {old x : Word} (hlt : x.toNat < 2 ^ 15) (h : s.th.service = false)
    (hne : bitsAt x 3 6 ≠ bitsAt old 3 6) :
    s.writeChecks .kstat old x = .error (.trap { cause := cPrivilege, info := s.wordInfo }) := by
  unfold State.writeChecks
  rw [resCheck_ok s (k := .kstat) hlt, h, (bne_iff_ne).mpr hne]
  rfl

/-- A write that fails a check traps. -/
theorem traps_of_writeChecks {s : State} {a : Reg} {i : Instr} {k : KReg} {x : Word} {tr : Trap} (hi : KWrite i s a k x)
    (h : s.writeChecks k (s.readK s.cur s.th k) x = .error (.trap tr)) : Traps i s tr.cause tr.info :=
  traps_finish (exec_of_kWrite hi) (writeOwn_of_refused h)

/-- Settles O20: the three forms are one write, and its checks are those of R89 in their order. -/
theorem specialRegisterWrite : Obligations.SpecialRegisterWrite := by
  unfold Obligations.SpecialRegisterWrite
  refine ⟨fun e he s a => ?completes, fun e he s a i x b hi hservice hle hset hbelow => ?reserved,
    fun s a k hlaunch => ⟨fun hk => ?serviceOnly, fun i x hi hlt hne => ?flags⟩⟩
  case completes =>
    have hbits := kBits_of_mem_kWidths e he
    exact ⟨writesK_of_allowed (.inl ⟨rfl, rfl⟩) hbits, writesK_of_allowed (.inr (.inl ⟨rfl, rfl⟩)) hbits,
      writesK_of_allowed (.inr (.inr ⟨rfl, rfl⟩)) hbits⟩
  case reserved =>
    rw [← kBits_of_mem_kWidths e he] at hle hbelow
    exact traps_of_writeChecks hi (writeChecks_reserved hservice hle hset hbelow)
  case serviceOnly =>
    have htraps : ∀ i x, KWrite i s a k x → Traps i s 0x03 (s.th.word.setWidth 64) :=
      fun i x hi => traps_of_writeChecks hi (writeChecks_serviceOnly hk hlaunch)
    exact ⟨htraps _ _ (.inl ⟨rfl, rfl⟩), htraps _ _ (.inr (.inl ⟨rfl, rfl⟩)), htraps _ _ (.inr (.inr ⟨rfl, rfl⟩))⟩
  case flags => exact traps_of_writeChecks hi (writeChecks_flags hlt hlaunch hne)

/-! ## The target of a handler's form (R97, R322) -/

theorem namesContext_iff (s : State) (t : Nat) : s.namesContext t = true ↔
    t / 8192 < 12 ∧ (s.cor (coreOf t)).launch ≠ none ∧ ctxOf t < (s.cor (coreOf t)).nctx := by
  simp only [State.namesContext, Bool.and_eq_true, decide_eq_true_iff, Option.isSome_iff_ne_none, and_assoc]

theorem launchThread_iff (s : State) (t : Nat) : s.launchThread t = true ↔
    t / 8192 < 12 ∧ s.co.launch ≠ none ∧ (s.cor (coreOf t)).launch = s.co.launch ∧
      ctxOf t < (s.cor (coreOf t)).nctx := by
  simp only [State.launchThread, State.sameLaunch, Bool.and_eq_true, decide_eq_true_iff, Option.isSome_iff_ne_none,
    beq_iff_eq, and_assoc]

theorem savedTrapped_eq_false {s : State} {t : Nat} (h : (s.thr t).st ≠ .saved) : s.savedTrapped t = false := by
  rw [State.savedTrapped, beq_eq_false_iff_ne.mpr h, Bool.false_and]

/-- A handler of the thread's own launch, or at service level, may reach the context. -/
theorem launchThread_of_names {s : State} {t : Nat} (hn : s.namesContext t = true)
    (hl : s.th.service = true ∨ (s.cor (coreOf t)).launch = s.co.launch) :
    s.th.service = true ∨ s.launchThread t = true := by
  refine hl.imp_right fun hl => ?_
  obtain ⟨hd, hne, hc⟩ := (namesContext_iff s t).mp hn
  exact (launchThread_iff s t).mpr ⟨hd, hl ▸ hne, hl, hc⟩

theorem tidOf_lt (x : Word) : tidOf x < 2 ^ 17 := Nat.mod_lt _ (by decide)

theorem targetHeld_near {s : State} {x : Word} (h : Near s (tidOf x)) : s.targetHeld x = none := by
  rw [State.targetHeld]
  refine if_neg ?_
  rcases h with h | h
  · rw [h, bne_self_eq_false]; simp
  · rw [h]; simp

theorem targetHeld_unnamed {s : State} {x : Word} (h : s.namesContext (tidOf x) = false) : s.targetHeld x = none := by
  rw [State.targetHeld, h]
  exact if_neg (by simp)

theorem targetHeld_unreached {s : State} {x : Word} (h : s.th.service = false) (hl : s.launchThread (tidOf x) = false) :
    s.targetHeld x = none := by
  rw [State.targetHeld, h, hl]
  exact if_neg (by simp)

theorem targetHeld_far {s : State} {x : Word} (h : ¬ Near s (tidOf x)) (hn : s.namesContext (tidOf x) = true)
    (hl : s.th.service = true ∨ s.launchThread (tidOf x) = true) :
    s.targetHeld x = some (coreDie (coreOf (tidOf x))) := by
  obtain ⟨hdie, hclock⟩ := not_or.mp h
  rw [State.targetHeld]
  refine if_pos ?_
  rw [hn, bne_iff_ne.mpr hdie, Option.isSome_iff_ne_none.mpr hclock]
  rcases hl with hl | hl <;> simp [hl]

/-- R97: who is refused what, in the order of the checks. -/
theorem target_refuses_launch {s : State} {x : Word} (h : s.th.service = false) (hl : s.launchThread (tidOf x) = false) :
    s.target x = .error (.trap { cause := cPrivilege, info := s.wordInfo }) := by
  rw [State.target, h, hl]
  rfl

theorem target_refuses_name {s : State} {x : Word} (h : s.th.service = true) (hn : s.namesContext (tidOf x) = false) :
    s.target x = .error (.trap { cause := cPermission, info := BitVec.ofNat 64 (tidOf x) }) := by
  rw [State.target, h, hn]
  rfl

theorem target_refuses_state {s : State} {x : Word} (hl : s.th.service = true ∨ s.launchThread (tidOf x) = true)
    (ht : (s.thr (tidOf x)).st ≠ .trapped) (hs : s.savedTrapped (tidOf x) = false) :
    s.target x = .error (.trap { cause := cPermission, info := BitVec.ofNat 64 (tidOf x) }) := by
  have hpriv : (!s.th.service && !s.launchThread (tidOf x)) = false := by rcases hl with hl | hl <;> simp [hl]
  rw [State.target, hpriv, hs, bne_iff_ne.mpr ht]
  cases s.namesContext (tidOf x) <;> rfl

theorem target_ok {s : State} {x : Word} (hl : s.th.service = true ∨ s.launchThread (tidOf x) = true)
    (hn : s.namesContext (tidOf x) = true) (h : (s.thr (tidOf x)).st = .trapped ∨ s.savedTrapped (tidOf x) = true) :
    s.target x = .ok (tidOf x) := by
  have hpriv : (!s.th.service && !s.launchThread (tidOf x)) = false := by rcases hl with hl | hl <;> simp [hl]
  have hst : ((s.thr (tidOf x)).st != .trapped && !s.savedTrapped (tidOf x)) = false := by rcases h with h | h <;> simp [h]
  rw [State.target, hpriv, hn, hst]
  rfl

/-- A form on a target: what is held off it, and what its check does. -/
theorem atTarget_near {s : State} {x : Word} {f : Except Stop State} (h : s.targetHeld x = none) : s.atTarget x f = f := by
  rw [State.atTarget, h]

theorem atTarget_held {s : State} {x : Word} {f : Except Stop State} {d : Nat} (h : s.targetHeld x = some d) :
    s.atTarget x f = .ok (s.waitFor (.relock d 0) 0) := by
  rw [State.atTarget, h]

/-- A form of a handler past its decode: `rest` does what it does at the target. -/
def OnTarget (i : Instr) (s : State) (a : Reg) (rest : Nat → Except Stop State) : Prop :=
  exec i s = finish s (s.atTarget (s.th.rg a) (s.target (s.th.rg a) >>= rest))

theorem OnTarget.traps {i : Instr} {s : State} {a : Reg} {rest : Nat → Except Stop State} {tr : Trap}
    (h : OnTarget i s a rest) (hnear : s.targetHeld (s.th.rg a) = none)
    (ht : s.target (s.th.rg a) = .error (.trap tr)) : Traps i s tr.cause tr.info :=
  traps_finish h (by rw [atTarget_near hnear, ht]; rfl)

theorem OnTarget.heldOff {i : Instr} {s : State} {a : Reg} {rest : Nat → Except Stop State} {d : Nat}
    (h : OnTarget i s a rest) (hheld : s.targetHeld (s.th.rg a) = some d) : HeldOff i s := by
  have hw := waitsAtInstr_block s s.tick (.relock d 0) 0 15
  exact ⟨_, by rw [h, atTarget_held hheld]; rfl, hw.only, hw.keeps, hw.kstat, hw.st, hw.pc⟩

theorem OnTarget.next {i : Instr} {s : State} {a : Reg} {rest : Nat → Except Stop State} {u : Nat}
    (h : OnTarget i s a rest) (hnear : s.targetHeld (s.th.rg a) = none) (ht : s.target (s.th.rg a) = .ok u) :
    exec i s = finish s (rest u) := by
  rw [h, atTarget_near hnear, ht]
  rfl

theorem onTarget_tread (s : State) (d a : Reg) (k : TState) : OnTarget (.sysTread d a k) s a fun t =>
    .ok (s.pureG d (s.readT t (s.targetThread t) (bitsAt (s.th.rg a) 17 3) k)) := rfl

/-- What `sys.twrite` does at its target. -/
def State.twriteAt (s : State) (d a : Reg) (k : TState) (t : Nat) : Except Stop State := do
  s.targetChecks t (s.targetThread t) (s.rg d) k
  .ok (match k with
    | .k .kswait => s.modCor (coreOf t) fun c => { c with kswait := s.rg d }
    | _ => s.setTarget t ((s.targetThread t).writeT (bitsAt (s.rg a) 17 3) (s.rg d) k)).reply

theorem tRws_iff (k : TState) : tRws k = true ↔ ∃ r, k = .k r ∧ serviceOnly r := by
  cases k <;> simp [tRws, kRws_iff]

theorem onTarget_twrite (s : State) (d a : Reg) (k : TState)
    (h : s.th.service = true ∨ ∀ r, k = .k r → ¬ serviceOnly r) : OnTarget (.sysTwrite d a k) s a (s.twriteAt d a k) := by
  have hpriv : (tRws k && !s.th.service) = false := by
    rcases h with h | h
    · rw [h]; simp
    · have hk : tRws k = false := Bool.eq_false_iff.mpr fun hk => by
        obtain ⟨r, hr, hs⟩ := (tRws_iff k).mp hk
        exact h r hr hs
      rw [hk, Bool.false_and]
  change execSysTwrite d a k s = _
  rw [execSysTwrite, hpriv]
  rfl

theorem onTarget_tresume (s : State) (a : Reg) : OnTarget (.sysTresume a) s a fun t =>
    .ok (if (s.thr t).st = .saved then (s.dropCall t).slotWrite t { s.slotImage t with st := .ready }
      else s.resume t).reply := rfl

theorem onTarget_tkill (s : State) (a : Reg) : OnTarget (.sysTkill a) s a fun t =>
    .ok (s.otherCore t (s.endThread t).reply) := rfl

theorem traps_twrite_serviceOnly {s : State} {d a : Reg} {r : KReg} (h : s.th.service = false) (hr : serviceOnly r) :
    Traps (.sysTwrite d a (.k r)) s 0x03 (s.th.word.setWidth 64) := by
  refine traps_finish (tr := { cause := cPrivilege, info := s.wordInfo }) (r := .error _) ?_ rfl
  change execSysTwrite d a (.k r) s = _
  rw [execSysTwrite, h, (tRws_iff (.k r)).mpr ⟨r, rfl, hr⟩]
  rfl

/-- Settles O23: each refusal is one of the checks of `State.target`, which stand before what the forms do. -/
theorem handlerFormsRefused : Obligations.HandlerFormsRefused := by
  unfold Obligations.HandlerFormsRefused
  intro s d a k i hi
  obtain ⟨rest, hform⟩ : ∃ rest, OnTarget i s a rest := by
    obtain rfl | ⟨rfl, hr⟩ | rfl | rfl := hi
    · exact ⟨_, onTarget_tread s d a k⟩
    · exact ⟨_, onTarget_twrite s d a k hr⟩
    · exact ⟨_, onTarget_tresume s a⟩
    · exact ⟨_, onTarget_tkill s a⟩
  refine ⟨fun hservice hne hother => ?otherLaunch, fun hservice hnear ht hs => ?state, fun hservice hn => ?name,
    fun hservice hne hl hd hc hnear ht hs => ?ownState, fun hfar hd hne hc hl => ?far,
    fun hservice r hr => traps_twrite_serviceOnly hservice hr⟩
  case otherLaunch =>
    have hl : s.launchThread (tidOf (s.th.rg a)) = false :=
      Bool.eq_false_iff.mpr fun h => hother ((launchThread_iff s _).mp h).2.2.1
    exact hform.traps (targetHeld_unreached hservice hl) (target_refuses_launch hservice hl)
  case state =>
    exact hform.traps (targetHeld_near hnear) (target_refuses_state (.inl hservice) ht (savedTrapped_eq_false hs))
  case name =>
    have hname : s.namesContext (tidOf (s.th.rg a)) = false := by
      refine Bool.eq_false_iff.mpr fun h => ?_
      obtain ⟨hd, hl, -⟩ := (namesContext_iff s _).mp h
      exact hn.elim (Nat.not_le_of_lt hd) hl
    exact hform.traps (targetHeld_unnamed hname) (target_refuses_name hservice hname)
  case ownState =>
    exact hform.traps (targetHeld_near hnear)
      (target_refuses_state (.inr ((launchThread_iff s _).mpr ⟨hd, hne, hl, hc⟩)) ht (savedTrapped_eq_false hs))
  case far =>
    have hn : s.namesContext (tidOf (s.th.rg a)) = true := (namesContext_iff s _).mpr ⟨hd, hne, hc⟩
    exact hform.heldOff (targetHeld_far hfar hn (launchThread_of_names hn hl))

/-! ## Pieces of a vector register and words of a save slot (R96, R135) -/

/-- A word placed at piece `p` of a vector register, bit by bit. -/
theorem getLsbD_atPiece (x : Word) {p q i : Nat} (hq : q < 8) (hi : i < 64) :
    (x.setWidth 512 <<< (64 * p)).getLsbD (64 * q + i) = (decide (q = p) && x.getLsbD i) := by
  rw [BitVec.getLsbD_shiftLeft, BitVec.getLsbD_setWidth]
  rcases Nat.lt_trichotomy q p with h | rfl | h
  · rw [decide_eq_true (show 64 * q + i < 64 * p by omega), decide_eq_false (show ¬ q = p by omega)]
    simp
  · rw [Nat.add_sub_cancel_left, decide_eq_false (show ¬ 64 * q + i < 64 * q by omega), decide_eq_true rfl,
      decide_eq_true (show 64 * q + i < 512 by omega), decide_eq_true (show i < 512 by omega)]
    simp
  · rw [BitVec.getLsbD_of_ge x _ (show 64 ≤ 64 * q + i - 64 * p by omega), decide_eq_false (show ¬ q = p by omega)]
    simp

theorem getLsbD_setPiece (v : VReg) (x : Word) {p q i : Nat} (hq : q < 8) (hi : i < 64) :
    (setPiece v p x).getLsbD (64 * q + i) = if q = p then x.getLsbD i else v.getLsbD (64 * q + i) := by
  have hones : BitVec.ofNat 512 (2 ^ 64 - 1) = (BitVec.allOnes 64).setWidth 512 :=
    BitVec.eq_of_toNat_eq (by rw [BitVec.toNat_setWidth, BitVec.toNat_allOnes, BitVec.toNat_ofNat])
  rw [setPiece, hones, BitVec.getLsbD_or, BitVec.getLsbD_and, BitVec.getLsbD_not, getLsbD_atPiece _ hq hi,
    getLsbD_atPiece _ hq hi, BitVec.getLsbD_allOnes, decide_eq_true hi, decide_eq_true (show 64 * q + i < 512 by omega)]
  by_cases h : q = p <;> simp [h]

theorem getLsbD_vPiece (v : VReg) (q : Nat) {i : Nat} (hi : i < 64) : (vPiece v q).getLsbD i = v.getLsbD (64 * q + i) := by
  simp [vPiece, hi]

theorem vPiece_setPiece (v : VReg) (x : Word) {p q : Nat} (hq : q < 8) :
    vPiece (setPiece v p x) q = if q = p then x else vPiece v q := by
  refine BitVec.eq_of_getLsbD_eq fun i hi => ?_
  rw [getLsbD_vPiece _ _ hi, getLsbD_setPiece v x hq hi]
  split
  · rfl
  · rw [getLsbD_vPiece _ _ hi]

theorem toNat_vPiece (v : VReg) (p : Nat) : (vPiece v p).toNat = pieceOf v p := by
  rw [vPiece, BitVec.toNat_setWidth, BitVec.toNat_ushiftRight, Nat.shiftRight_eq_div_pow, pieceOf]

/-- A vector register read back from its eight pieces. -/
theorem vPiece_of_pieces (f : Nat → Word) {p : Nat} (hp : p < 8) :
    vPiece ((List.range 8).foldl (fun v q => setPiece v q (f q)) 0) p = f p := by
  simp only [show List.range 8 = [0, 1, 2, 3, 4, 5, 6, 7] from rfl, List.foldl_cons, List.foldl_nil, vPiece_setPiece _ _ hp]
  rcases (show p = 0 ∨ p = 1 ∨ p = 2 ∨ p = 3 ∨ p = 4 ∨ p = 5 ∨ p = 6 ∨ p = 7 by omega) with
    rfl | rfl | rfl | rfl | rfl | rfl | rfl | rfl <;> rfl

/-- The pieces of a list of vector registers, one after another. -/
theorem getElem?_pieces (l : List VReg) {i p : Nat} (hp : p < 8) :
    (l.flatMap fun v => (List.range 8).map (vPiece v))[8 * i + p]? = l[i]?.map (vPiece · p) := by
  induction l generalizing i with
  | nil => rfl
  | cons v l ih =>
    rw [List.flatMap_cons]
    cases i with
    | zero => rw [List.getElem?_append_left (by simp; omega)]; simp [hp]
    | succ i =>
      rw [List.getElem?_append_right (by simp; omega), List.getElem?_cons_succ, ← ih]
      congr 1
      simp
      omega

theorem length_pieces (l : List VReg) : (l.flatMap fun v => (List.range 8).map (vPiece v)).length = 8 * l.length := by
  induction l with
  | nil => rfl
  | cons v l ih => rw [List.flatMap_cons, List.length_append, ih, List.length_cons]; simp; omega

theorem getD_append_of_length {a : List Word} {n : Nat} (b : List Word) (j : Nat) (h : a.length = n) :
    (a ++ b).getD (n + j) 0 = b.getD j 0 := by
  rw [List.getD_append_right _ _ _ _ (by omega), h, Nat.add_sub_cancel_left]

theorem getD_append_of_lt {a : List Word} {j : Nat} (b : List Word) (h : j < a.length) : (a ++ b).getD j 0 = a.getD j 0 :=
  List.getD_append _ _ _ _ h

theorem length_vectorWords (t : Thread) : (t.v.toList.flatMap fun v => (List.range 8).map (vPiece v)).length = 256 := by
  rw [length_pieces, Vector.length_toList]

/-- The words of a slot that hold the vector registers, the general registers and `pc` of a context (Table 5-4). -/
theorem toSlot_v (t : Thread) (r : Reg) {p : Nat} (hp : p < 8) :
    t.toSlot.getD (8 * r.val + p) 0 = vPiece (t.rv r) p := by
  have hr := r.isLt
  have hreg : t.v.toList[r.val]? = some (t.rv r) := by
    rw [Vector.getElem?_toList, Vector.getElem?_eq_getElem hr]; rfl
  rw [Thread.toSlot, List.append_assoc, List.append_assoc, List.append_assoc,
    getD_append_of_lt _ (by rw [length_vectorWords]; omega), List.getD_eq_getElem?_getD, getElem?_pieces _ hp, hreg]
  rfl

theorem toSlot_g (t : Thread) {r : Reg} (hr : r ≠ 0) : t.toSlot.getD (255 + r.val) 0 = t.rg r := by
  obtain ⟨j, hj⟩ : ∃ j, r.val = j + 1 := Nat.exists_eq_succ_of_ne_zero fun h => hr (Fin.ext h)
  have hlt := r.isLt
  have hg : (t.g.toList.drop 1).length = 31 := by simp
  have hreg : t.g.toList[1 + j]? = some (t.rg r) := by
    rw [Vector.getElem?_toList, Nat.add_comm, ← hj, Vector.getElem?_eq_getElem hlt, Thread.rg, if_neg hr]; rfl
  rw [Thread.toSlot, List.append_assoc, List.append_assoc, List.append_assoc, hj, show 255 + (j + 1) = 256 + j by omega,
    getD_append_of_length _ _ (length_vectorWords t), getD_append_of_lt _ (by omega), List.getD_eq_getElem?_getD,
    List.getElem?_drop, hreg]
  rfl

/-- The words of a slot past the general registers. -/
theorem toSlot_rest (t : Thread) (j : Nat) : ∃ l : List Word, l.length = 8 ∧ l.getD 0 0 = t.pc ∧
    t.toSlot.getD (287 + j) 0 = (l ++ (t.kfbuf.toList ++
      [t.kfcnt, t.kfidx, t.kfstg, t.kbbuf, t.kbbufh, t.kbfill, t.kbsrc, t.kbend, if t.st = .trapped then 1 else 0])).getD j 0 := by
  have hg : (t.g.toList.drop 1).length = 31 := by simp
  rw [Thread.toSlot, List.append_assoc, List.append_assoc, List.append_assoc, show 287 + j = 256 + (31 + j) by omega,
    getD_append_of_length _ _ (length_vectorWords t), getD_append_of_length _ _ hg]
  exact ⟨_, rfl, rfl, rfl⟩

theorem toSlot_pc (t : Thread) : t.toSlot.getD 287 0 = t.pc := by
  obtain ⟨l, hl, hpc, h⟩ := toSlot_rest t 0
  rw [h, getD_append_of_lt _ (by omega), hpc]

/-- The words of a slot past the instruction words of a frame. -/
theorem toSlot_tail (t : Thread) (j : Nat) : t.toSlot.getD (311 + j) 0 =
    [t.kfcnt, t.kfidx, t.kfstg, t.kbbuf, t.kbbufh, t.kbfill, t.kbsrc, t.kbend, if t.st = .trapped then 1 else 0].getD j 0 := by
  obtain ⟨l, hl, -, h⟩ := toSlot_rest t (8 + (16 + j))
  rw [show 311 + j = 287 + (8 + (16 + j)) by omega, h, getD_append_of_length _ _ hl,
    getD_append_of_length _ _ (Vector.length_toList)]

theorem length_toSlot (t : Thread) : t.toSlot.length = 320 := by
  rw [Thread.toSlot]
  simp only [List.length_append, length_vectorWords, List.length_drop, Vector.length_toList]
  rfl

/-- Words 0 to 287 of a slot hold one piece of state each. -/
theorem plainSlotWord_cases {j : Nat} (h : plainSlotWord j) :
    (∃ (r : Reg) (p : Nat), p < 8 ∧ j = 8 * r.val + p) ∨ (∃ r : Reg, r ≠ 0 ∧ j = 255 + r.val) ∨ j = 287 := by
  rcases Nat.lt_or_ge j 256 with hj | hj
  · exact .inl ⟨⟨j / 8, by omega⟩, j % 8, Nat.mod_lt _ (by decide), (Nat.div_add_mod j 8).symm⟩
  · rcases Nat.lt_or_ge j 287 with hj' | hj'
    · exact .inr (.inl ⟨⟨j - 255, by omega⟩, fun h0 => by have := congrArg Fin.val h0; simp at this; omega, by simp; omega⟩)
    · exact .inr (.inr (Nat.le_antisymm h hj'))

/-- A context read from a slot, register by register (Table 5-4). -/
theorem vPiece_ofSlot (t : Thread) (f : Nat → Word) (r : Reg) {p : Nat} (hp : p < 8) :
    vPiece ((t.ofSlot f).rv r) p = f (8 * r.val + p) := by
  have hreg : (t.ofSlot f).rv r = (List.range 8).foldl (fun v q => setPiece v q (f (8 * r.val + q))) 0 :=
    Vector.getElem_ofFn r.isLt
  rw [hreg, vPiece_of_pieces (fun q => f (8 * r.val + q)) hp]

theorem rg_ofSlot (t : Thread) (f : Nat → Word) {r : Reg} (hr : r ≠ 0) : (t.ofSlot f).rg r = f (255 + r.val) := by
  have hreg : (t.ofSlot f).g.get r = if r.val = 0 then 0 else f (255 + r.val) := Vector.getElem_ofFn r.isLt
  rw [Thread.rg, if_neg hr, hreg, if_neg fun h : r.val = 0 => hr (Fin.ext h)]

/-- A slot read and written back: its plain words stay. -/
theorem toSlot_ofSlot (t : Thread) (f : Nat → Word) {j : Nat} (h : plainSlotWord j) : (t.ofSlot f).toSlot.getD j 0 = f j := by
  obtain ⟨r, p, hp, rfl⟩ | ⟨r, hr, rfl⟩ | rfl := plainSlotWord_cases h
  · rw [toSlot_v _ r hp, vPiece_ofSlot _ _ r hp]
  · rw [toSlot_g _ hr, rg_ofSlot _ _ hr]
  · rw [toSlot_pc]; rfl

/-! ## Slots in the scratchpad (R122, R135) -/

theorem get_scrWords (c : Core) (w : Nat) (l : List Word) (j : Nat) :
    (c.scrWords (8 * w) l).scratch.get 0 j =
      if w ≤ j ∧ j < w + l.length then l.getD (j - w) 0 else c.scratch.get 0 j := by
  induction l generalizing c w with
  | nil => rw [if_neg (by simp)]; rfl
  | cons x l ih =>
    rw [Core.scrWords, Nat.mul_div_cancel_left w (by decide), show 8 * w + 8 = 8 * (w + 1) by omega, ih]
    have hget : (c.scrSetWord w x).scratch.get 0 j = if j = w then x else c.scratch.get 0 j := by
      by_cases h : j = w
      · rw [if_pos h, h]; exact AMap.get_put_same 0 c.scratch w x
      · rw [if_neg h]; exact AMap.get_put_other 0 c.scratch x h
    rw [hget, List.length_cons]
    by_cases h : j = w
    · rw [if_neg (by omega), if_pos h, if_pos (by omega), h, Nat.sub_self]; rfl
    · by_cases hj : w + 1 ≤ j ∧ j < w + 1 + l.length
      · rw [if_pos hj, if_pos (by omega), show j - w = (j - (w + 1)) + 1 by omega, List.getD_cons_succ]
      · rw [if_neg hj, if_neg h, if_neg (by omega)]

theorem savedTid_eq_false {t : Nat} (h : t < 2 ^ 17) : savedTid t = false := by
  rw [savedTid, decide_eq_false_iff_not]; omega

theorem slotWrite_eq {s : State} {t : Nat} (h : t < 2 ^ 17) (x : Thread) :
    s.slotWrite t x = s.modCor (coreOf t) fun c => c.scrWords (8 * slotWord (ctxOf t)) x.toSlot := by
  rw [State.slotWrite, State.modHome, savedTid_eq_false h]
  rfl

theorem slotRead_eq {s : State} {t : Nat} (h : t < 2 ^ 17) (i : Nat) :
    s.slotRead t i = (s.cor (coreOf t)).scratch.get 0 (slotWord (ctxOf t) + i) := by
  rw [State.slotRead, State.homeCor, savedTid_eq_false h]
  rfl

/-- A word of a slot after the slot is written. -/
theorem slotRead_slotWrite {s : State} {t : Nat} (h : t < 2 ^ 17) (x : Thread) {i : Nat} (hi : i < 320) :
    (s.slotWrite t x).slotRead t i = x.toSlot.getD i 0 := by
  rw [slotRead_eq h, slotWrite_eq h, cor_modCor_same, get_scrWords, length_toSlot, if_pos (by omega), Nat.add_sub_cancel_left]

/-! ## What a handler's form does at its target (R96, R97) -/

/-- A state in which the issuing thread goes on as `s` has it: a form has had its effect elsewhere. -/
structure SameIssuer (s u : State) : Prop where
  cur : u.cur = s.cur
  th : u.th = s.th
  mem : u.mem = s.mem

/-- The completion of a form that has had its effect elsewhere. -/
theorem reply_completes {s u : State} (h : SameIssuer s u) : Keeps [] [] [] s.th u.reply.th ∧
    u.reply.th.kstat = s.th.kstat ∧ Completed u.reply.th ∧ (∀ x, memGet u.reply.mem x = memGet s.mem x) ∧
    ∀ t, t ≠ s.cur → u.reply.thr t = u.thr t := by
  have hth : u.reply.th = s.th.retireReply u.tick 0 := (th_modTh u _).trans (by rw [h.th])
  refine ⟨hth ▸ retireReply_keeps s.th u.tick 0, hth ▸ retireReply_kstat s.th u.tick 0,
    hth ▸ retireReply_completed s.th u.tick 0, fun x => ?_, fun t ht => ?_⟩
  · rw [← h.mem]; rfl
  · exact thr_modThr_other u _ (h.cur ▸ ht)

theorem sameIssuer_setThr {s : State} {t : Nat} (x : Thread) (h : t ≠ s.cur) : SameIssuer s (s.setThr t x) :=
  ⟨rfl, thr_setThr_other s x h.symm, rfl⟩

theorem sameIssuer_modCor (s : State) (c : Nat) (f : Core → Core) : SameIssuer s (s.modCor c f) := ⟨rfl, rfl, rfl⟩

theorem sameIssuer_resume {s : State} {t : Nat} (h : t ≠ s.cur) : SameIssuer s (s.resume t) :=
  ⟨rfl, thr_modThr_other (s.dropCall t) _ h.symm, rfl⟩

theorem reaches_target {s : State} {a : Reg} (h : Reaches s (tidOf (s.th.rg a)) ∨ ReachesSaved s (tidOf (s.th.rg a))) :
    s.namesContext (tidOf (s.th.rg a)) = true ∧
      (s.th.service = true ∨ s.launchThread (tidOf (s.th.rg a)) = true) ∧
      s.target (s.th.rg a) = .ok (tidOf (s.th.rg a)) := by
  rcases h with ⟨hst, hd, hne, hc, hl⟩ | ⟨hst, hbit, hd, hne, hc, hl⟩
  all_goals
    have hn := (namesContext_iff s _).mpr ⟨hd, hne, hc⟩
    have hreach := launchThread_of_names hn hl
    refine ⟨hn, hreach, target_ok hreach hn ?_⟩
  · exact .inl hst
  · exact .inr (by rw [State.savedTrapped, hst, hbit]; rfl)

/-- A handler's form at a thread that it reaches and that no relock keeps from it. -/
theorem OnTarget.reaches {i : Instr} {s : State} {a : Reg} {rest : Nat → Except Stop State} (h : OnTarget i s a rest)
    (hr : Reaches s (tidOf (s.th.rg a)) ∨ ReachesSaved s (tidOf (s.th.rg a))) (hnear : Near s (tidOf (s.th.rg a))) :
    exec i s = finish s (rest (tidOf (s.th.rg a))) :=
  h.next (targetHeld_near hnear) (reaches_target hr).2.2

theorem targetThread_of_ne {s : State} {t : Nat} (h : (s.thr t).st ≠ .saved) : s.targetThread t = s.thr t := if_neg h

theorem targetThread_of_saved {s : State} {t : Nat} (h : (s.thr t).st = .saved) : s.targetThread t = s.slotImage t :=
  if_pos h

section
variable {s : State} {d a : Reg}

/-- `sys.tread` writes what it reads of the target. -/
theorem writesG_tread (k : TState) (hr : Reaches s (tidOf (s.th.rg a)) ∨ ReachesSaved s (tidOf (s.th.rg a)))
    (hnear : Near s (tidOf (s.th.rg a))) : WritesG (.sysTread d a k) s d (s.readT (tidOf (s.th.rg a))
      (s.targetThread (tidOf (s.th.rg a))) (bitsAt (s.th.rg a) 17 3) k) :=
  writesG_pureG ((onTarget_tread s d a k).reaches hr hnear)

/-- `sys.twrite` of anything but `kswait` writes its target. -/
theorem exec_twrite {k : TState} (hr : Reaches s (tidOf (s.th.rg a)) ∨ ReachesSaved s (tidOf (s.th.rg a)))
    (hnear : Near s (tidOf (s.th.rg a))) (hs : s.th.service = true ∨ ∀ r, k = .k r → ¬ serviceOnly r)
    (hk : k ≠ .k .kswait) (hchecks : s.targetChecks (tidOf (s.th.rg a)) (s.targetThread (tidOf (s.th.rg a))) (s.rg d) k = .ok ()) :
    exec (.sysTwrite d a k) s = .next (s.setTarget (tidOf (s.th.rg a))
      ((s.targetThread (tidOf (s.th.rg a))).writeT (bitsAt (s.th.rg a) 17 3) (s.th.rg d) k)).reply := by
  rw [(onTarget_twrite s d a k hs).reaches hr hnear]
  unfold State.twriteAt
  rw [hchecks]
  cases k
  case k r =>
    cases r
    case kswait => exact absurd rfl hk
    all_goals rfl
  all_goals rfl

/-- `sys.twrite` of a TRAPPED thread: the thread is written and the form completes. -/
theorem twrite_trapped {k : TState} (hr : Reaches s (tidOf (s.th.rg a))) (hcur : tidOf (s.th.rg a) ≠ s.cur)
    (hnear : Near s (tidOf (s.th.rg a))) (hs : s.th.service = true ∨ ∀ r, k = .k r → ¬ serviceOnly r)
    (hk : k ≠ .k .kswait)
    (hchecks : s.targetChecks (tidOf (s.th.rg a)) (s.thr (tidOf (s.th.rg a))) (s.rg d) k = .ok ()) :
    ∃ t, exec (.sysTwrite d a k) s = .next t ∧
      t.thr (tidOf (s.th.rg a)) = (s.thr (tidOf (s.th.rg a))).writeT (bitsAt (s.th.rg a) 17 3) (s.th.rg d) k ∧
      SameTables { t with cur := tidOf (s.th.rg a) } { s with cur := tidOf (s.th.rg a) } ∧
      Keeps [] [] [] s.th t.th ∧ t.th.kstat = s.th.kstat ∧ Completed t.th ∧ ∀ x, memGet t.mem x = memGet s.mem x := by
  have hne : (s.thr (tidOf (s.th.rg a))).st ≠ .saved := by rw [hr.1]; exact nofun
  have htt := targetThread_of_ne hne
  have hexec := exec_twrite (.inl hr) hnear hs hk (htt.symm ▸ hchecks)
  rw [htt, State.setTarget, if_neg hne] at hexec
  obtain ⟨hkeeps, hkstat, hdone, hmem, hthr⟩ := reply_completes (sameIssuer_setThr
    ((s.thr (tidOf (s.th.rg a))).writeT (bitsAt (s.th.rg a) 17 3) (s.th.rg d) k) hcur)
  exact ⟨_, hexec, (hthr _ hcur).trans (thr_setThr_same s _ _), fun x j => by cases j <;> rfl, hkeeps, hkstat, hdone, hmem⟩

end

/-- A k-register of another thread after the completion of the issuing thread's form. -/
theorem kValue_reply_at (s : State) {u : Nat} (h : u ≠ s.cur) (j : KReg) :
    kValue { s.reply with cur := u } j = s.readK u (s.thr u) j := by
  have htables : ∀ x, State.readK { s.reply with cur := u } u x j = s.readK u x j := fun x => by cases j <;> rfl
  have hthr : s.reply.thr u = s.thr u := thr_modThr_other s _ h
  rw [← readK_own]
  exact (htables _).trans (congrArg (s.readK u · j) hthr)

/-- A handler's write of a k-register (R89, R96). -/
theorem writesTargetK_twrite {s : State} {d a : Reg} {k : KReg} {w : Nat} (hr : Reaches s (tidOf (s.th.rg a)))
    (hcur : tidOf (s.th.rg a) ≠ s.cur) (hnear : Near s (tidOf (s.th.rg a))) (hw : kBits k = w)
    (h : WriteAllowed s (s.thr (tidOf (s.th.rg a))).kstat k w (s.th.rg d)) :
    WritesTargetK (.sysTwrite d a (.k k)) s (tidOf (s.th.rg a)) k (s.th.rg d) := by
  have hne : (s.thr (tidOf (s.th.rg a))).st ≠ .saved := by rw [hr.1]; exact nofun
  have hs : s.th.service = true ∨ ∀ r, TState.k k = .k r → ¬ serviceOnly r := by
    cases hservice : s.th.service
    · refine .inr fun r e hso => ?_
      obtain rfl := TState.k.inj e
      rw [h.1 hso] at hservice
      exact nomatch hservice
    · exact .inl rfl
  have hchecks : s.targetChecks (tidOf (s.th.rg a)) (s.thr (tidOf (s.th.rg a))) (s.rg d) (.k k) = .ok () := by
    refine writeChecks_ok hw ⟨h.1, h.2.1, fun hk => ?_, h.2.2.2⟩
    subst hk
    exact h.2.2.1 rfl
  by_cases hk : k = .kswait
  · subst hk
    have hexec : exec (.sysTwrite d a (.k .kswait)) s =
        .next (s.modCor (coreOf (tidOf (s.th.rg a))) (·.withKswait (s.th.rg d))).reply := by
      rw [(onTarget_twrite s d a _ hs).reaches (.inl hr) hnear, State.twriteAt, targetThread_of_ne hne, hchecks]
      rfl
    obtain ⟨hkeeps, hkstat, hdone, hmem, hthr⟩ :=
      reply_completes (sameIssuer_modCor s (coreOf (tidOf (s.th.rg a))) (·.withKswait (s.th.rg d)))
    have ht := hthr _ hcur
    refine ⟨_, hexec, fun _ _ => ?_, fun j hj _ => ?_, fun hb => absurd hb (by simp [bufferReg]),
      congrArg Thread.g ht, congrArg Thread.v ht, congrArg Thread.m ht, congrArg Thread.pc ht,
      (congrArg Thread.st ht).trans hr.1, hkeeps, hkstat, hdone, hmem⟩
    · rw [kValue_reply_at (s.modCor _ _) hcur]
      exact kswait_withKswait s _ _ _ _ rfl
    · rw [kValue_reply_at (s.modCor _ _) hcur, readK_withKswait s _ _ _ _ hj]
      exact readK_own { s with cur := tidOf (s.th.rg a) } j
  · obtain ⟨t, hexec, ht, htables, hkeeps, hkstat, hdone, hmem⟩ :=
      twrite_trapped (d := d) hr hcur hnear hs (fun e => hk (TState.k.inj e)) hchecks
    obtain ⟨hg, hv, hm, hpc, hst⟩ := writeK_files (s.thr (tidOf (s.th.rg a))) (s.th.rg d) k
    refine ⟨t, hexec, fun hlo hhi => kValue_written htables ht rfl (fun _ => rfl) hk hlo hhi,
      fun j hj hb => kValue_kept htables ht rfl hj hb, bufferOf_written ht rfl rfl, (congrArg Thread.g ht).trans hg,
      (congrArg Thread.v ht).trans hv, (congrArg Thread.m ht).trans hm, (congrArg Thread.pc ht).trans hpc,
      (congrArg Thread.st ht).trans (hst.trans hr.1), hkeeps, hkstat, hdone, hmem⟩

section
variable {s : State} {d a : Reg}

/-- `sys.tread` of a TRAPPED thread reads the thread itself. -/
theorem writesG_tread_trapped (k : TState) (hr : Reaches s (tidOf (s.th.rg a))) (hnear : Near s (tidOf (s.th.rg a))) :
    WritesG (.sysTread d a k) s d
      (s.readT (tidOf (s.th.rg a)) (s.thr (tidOf (s.th.rg a))) (bitsAt (s.th.rg a) 17 3) k) := by
  rw [← targetThread_of_ne (s := s) (by rw [hr.1]; exact nofun)]
  exact writesG_tread k (.inl hr) hnear

theorem pieceOf_setPiece (v : VReg) (x : Word) {p q : Nat} (hq : q < 8) :
    pieceOf (setPiece v p x) q = if q = p then x.toNat else pieceOf v q := by
  rw [← toNat_vPiece, vPiece_setPiece v x hq, apply_ite BitVec.toNat, toNat_vPiece]

/-- A form on a thread that it reaches on another die that relocks waits (R322). -/
theorem heldOff_of_far {i : Instr} {rest : Nat → Except Stop State} (h : OnTarget i s a rest)
    (hr : Reaches s (tidOf (s.th.rg a)) ∨ ReachesSaved s (tidOf (s.th.rg a))) (hfar : ¬ Near s (tidOf (s.th.rg a))) :
    HeldOff i s := by
  obtain ⟨hn, hl, -⟩ := reaches_target hr
  exact h.heldOff (targetHeld_far hfar hn hl)

/-- A piece of state that is no k-register is written with no check of privilege. -/
theorem unprivileged {k : TState} (h : ∀ r, k ≠ .k r) (s : State) :
    s.th.service = true ∨ ∀ r, k = .k r → ¬ serviceOnly r := .inr fun r e => absurd e (h r)

/-- `sys.twrite` of `pc` with an address that is no multiple of 4. -/
theorem traps_twrite_pc (hr : Reaches s (tidOf (s.th.rg a))) (hnear : Near s (tidOf (s.th.rg a)))
    (h : (s.th.rg d).toNat % 4 ≠ 0) : Traps (.sysTwrite d a .pc) s 0x13 (s.th.rg d) := by
  refine traps_finish (tr := { cause := cMisaligned, info := s.th.rg d })
    ((onTarget_twrite s d a .pc (unprivileged (k := .pc) (fun _ => nofun) s)).reaches (.inl hr) hnear) ?_
  have hb : (bitsAt (s.rg d) 0 2 != 0) = true := by rw [bne_iff_ne, bitsAt_low2]; exact h
  unfold State.twriteAt
  rw [State.targetChecks, hb]
  rfl

theorem targetChecks_pc (h : (s.th.rg d).toNat % 4 = 0) (t : Nat) (x : Thread) :
    s.targetChecks t x (s.rg d) .pc = .ok () := by
  have hb : (bitsAt (s.rg d) 0 2 != 0) = false := by rw [bne_eq_false_iff_eq, bitsAt_low2]; exact h
  rw [State.targetChecks, hb]
  rfl

/-- `sys.tresume` of a TRAPPED thread. -/
theorem exec_tresume_trapped (hr : Reaches s (tidOf (s.th.rg a))) (hnear : Near s (tidOf (s.th.rg a))) :
    exec (.sysTresume a) s = .next (s.resume (tidOf (s.th.rg a))).reply := by
  rw [(onTarget_tresume s a).reaches (.inl hr) hnear, if_neg (by rw [hr.1]; exact nofun)]
  rfl

/-- What a handler's form on a SAVED thread leaves: the thread is SAVED, the form completes, and every plain word of the slot
but one stays. -/
def SlotStays (s t : State) (u w : Nat) : Prop :=
  (t.thr u).st = .saved ∧ Keeps [] [] [] s.th t.th ∧ Completed t.th ∧
    ∀ j, plainSlotWord j → j ≠ w → t.slotRead u j = s.slotRead u j

theorem slotRead_reply (s : State) (u i : Nat) : s.reply.slotRead u i = s.slotRead u i := rfl

/-- A slot written by a form that completes: its words, and what stays. -/
theorem slotWrite_reply {u : Nat} {x : Thread} {w : Nat} {s' : State} (hs : s'.cur = s.cur ∧ s'.th = s.th ∧ s'.mem = s.mem)
    (hst : (s'.thr u).st = .saved) (hu : u < 2 ^ 17) (hcur : u ≠ s.cur)
    (hx : ∀ j, plainSlotWord j → j ≠ w → x.toSlot.getD j 0 = s.slotRead u j) :
    SlotStays s (s'.slotWrite u x).reply u w ∧
      ∀ i, i < 320 → (s'.slotWrite u x).reply.slotRead u i = x.toSlot.getD i 0 := by
  have hread : ∀ i, i < 320 → (s'.slotWrite u x).reply.slotRead u i = x.toSlot.getD i 0 :=
    fun i hi => (slotRead_reply _ u i).trans (slotRead_slotWrite hu x hi)
  have hsame : SameIssuer s (s'.slotWrite u x) := by
    rw [slotWrite_eq hu]
    exact ⟨hs.1, hs.2.1, hs.2.2⟩
  obtain ⟨hkeeps, -, hdone, -, hthr⟩ := reply_completes hsame
  have hst' : ((s'.slotWrite u x).reply.thr u).st = .saved := by
    rw [hthr u hcur, slotWrite_eq hu]
    exact hst
  exact ⟨⟨hst', hkeeps, hdone, fun j hj hw => (hread j (Nat.lt_of_le_of_lt hj (by decide))).trans (hx j hj hw)⟩, hread⟩

/-- A plain word of a slot is what its own piece of state gives. -/
theorem toSlot_congr {x y : Thread} {j : Nat} (hj : plainSlotWord j)
    (hv : ∀ (r : Reg) p, p < 8 → j = 8 * r.val + p → vPiece (y.rv r) p = vPiece (x.rv r) p)
    (hg : ∀ r : Reg, r ≠ 0 → j = 255 + r.val → y.rg r = x.rg r) (hpc : j = 287 → y.pc = x.pc) :
    y.toSlot.getD j 0 = x.toSlot.getD j 0 := by
  obtain ⟨r, p, hp, h⟩ | ⟨r, hr, h⟩ | h := plainSlotWord_cases hj
  · rw [h, toSlot_v _ r hp, toSlot_v _ r hp, hv r p hp h]
  · rw [h, toSlot_g _ hr, toSlot_g _ hr, hg r hr h]
  · rw [h, toSlot_pc, toSlot_pc, hpc h]

/-- The `trap` bit of a slot that is written with a TRAPPED context, or with one that is not. -/
theorem trapBit_toSlot (x : Thread) : bitAt (x.toSlot.getD 319 0) 0 = decide (x.st = .trapped) := by
  rw [toSlot_tail x 8]
  by_cases h : x.st = .trapped <;> simp [h, bitAt]

theorem st_slotImage {u : Nat} (h : bitAt (s.slotRead u 319) 0 = true) : (s.slotImage u).st = .trapped := if_pos h

theorem toSlot_slotImage (u : Nat) {j : Nat} (hj : plainSlotWord j) : (s.slotImage u).toSlot.getD j 0 = s.slotRead u j :=
  toSlot_ofSlot _ _ hj

/-- `sys.twrite` of a SAVED thread writes its slot. -/
theorem twrite_saved {k : TState} {w : Nat} (hr : ReachesSaved s (tidOf (s.th.rg a))) (hcur : tidOf (s.th.rg a) ≠ s.cur)
    (hnear : Near s (tidOf (s.th.rg a))) (hs : s.th.service = true ∨ ∀ r, k = .k r → ¬ serviceOnly r) (hk : k ≠ .k .kswait)
    (hchecks : s.targetChecks (tidOf (s.th.rg a)) (s.slotImage (tidOf (s.th.rg a))) (s.rg d) k = .ok ())
    (hst : ((s.slotImage (tidOf (s.th.rg a))).writeT (bitsAt (s.th.rg a) 17 3) (s.th.rg d) k).st =
      (s.slotImage (tidOf (s.th.rg a))).st)
    (hw : ∀ j, plainSlotWord j → j ≠ w →
      ((s.slotImage (tidOf (s.th.rg a))).writeT (bitsAt (s.th.rg a) 17 3) (s.th.rg d) k).toSlot.getD j 0 =
        (s.slotImage (tidOf (s.th.rg a))).toSlot.getD j 0) :
    ∃ t, exec (.sysTwrite d a k) s = .next t ∧
      (∀ i, i < 320 → t.slotRead (tidOf (s.th.rg a)) i =
        ((s.slotImage (tidOf (s.th.rg a))).writeT (bitsAt (s.th.rg a) 17 3) (s.th.rg d) k).toSlot.getD i 0) ∧
      SlotStays s t (tidOf (s.th.rg a)) w ∧ bitAt (t.slotRead (tidOf (s.th.rg a)) 319) 0 = true := by
  have htt := targetThread_of_saved hr.1
  have hexec := exec_twrite (.inr hr) hnear hs hk (htt.symm ▸ hchecks)
  rw [htt, State.setTarget, if_pos hr.1] at hexec
  obtain ⟨hstays, hread⟩ := slotWrite_reply (s := s) ⟨rfl, rfl, rfl⟩ hr.1 (tidOf_lt _) hcur fun j hj hne =>
    (hw j hj hne).trans (toSlot_slotImage _ hj)
  refine ⟨_, hexec, hread, hstays, ?_⟩
  rw [hread 319 (by decide), trapBit_toSlot, hst, st_slotImage hr.2.1]
  rfl

end

/-- The plain words of a slot that a write of one piece of state leaves. -/
theorem toSlot_writeG (x : Thread) (p : Nat) (v : Word) (r : Reg) {j : Nat} (hj : plainSlotWord j) (h : j ≠ 255 + r.val) :
    (x.writeT p v (.g r)).toSlot.getD j 0 = x.toSlot.getD j 0 :=
  toSlot_congr hj (fun q n _ _ => congrArg (vPiece · n) ((setG_keeps x r v).1.v q (by simp)))
    (fun q _ hq => rg_setG_other (d := r) (r := q) x v fun e => h (e ▸ hq)) fun _ => (setG_keeps x r v).2.2.1

theorem toSlot_writePc (x : Thread) (p : Nat) (v : Word) {j : Nat} (hj : plainSlotWord j) (h : j ≠ 287) :
    (x.writeT p v .pc).toSlot.getD j 0 = x.toSlot.getD j 0 :=
  toSlot_congr hj (fun _ _ _ _ => rfl) (fun _ _ _ => rfl) fun e => absurd e h

theorem toSlot_writeV (x : Thread) (p : Nat) (v : Word) (r : Reg) {j : Nat} (hj : plainSlotWord j) (h : j ≠ 8 * r.val + p) :
    (x.writeT p v (.v r)).toSlot.getD j 0 = x.toSlot.getD j 0 := by
  refine toSlot_congr hj (fun q n hn hjq => (congrArg (vPiece · n) (rv_setV x r q _)).trans ?_) (fun _ _ _ => rfl)
    fun _ => rfl
  split
  next hq =>
    subst hq
    rw [vPiece_setPiece _ _ hn, if_neg fun e : n = p => h (e ▸ hjq)]
  next => rfl

theorem toSlot_writeCnt (x : Thread) (p : Nat) (v : Word) {j : Nat} (hj : plainSlotWord j) :
    (x.writeT p v (.k .kfcnt)).toSlot.getD j 0 = x.toSlot.getD j 0 :=
  toSlot_congr hj (fun _ _ _ _ => rfl) (fun _ _ _ => rfl) fun _ => rfl

theorem toSlot_ready (x : Thread) {j : Nat} (hj : plainSlotWord j) :
    ({ x with st := .ready } : Thread).toSlot.getD j 0 = x.toSlot.getD j 0 :=
  toSlot_congr hj (fun _ _ _ _ => rfl) (fun _ _ _ => rfl) fun _ => rfl

theorem vPiece_writeV (x : Thread) {p : Nat} (hp : p < 8) (v : Word) (r : Reg) :
    (x.writeT p v (.v r)).toSlot.getD (8 * r.val + p) 0 = v := by
  rw [toSlot_v _ r hp]
  exact (congrArg (vPiece · p) ((rv_setV x r r _).trans (if_pos rfl))).trans ((vPiece_setPiece _ _ hp).trans (if_pos rfl))

/-- The forms of a handler on a SAVED thread act on its slot. -/
theorem savedForms {s : State} {d a r : Reg} (hr : ReachesSaved s (tidOf (s.th.rg a))) (hcur : tidOf (s.th.rg a) ≠ s.cur)
    (hnear : Near s (tidOf (s.th.rg a))) : SavedForms s d a r (tidOf (s.th.rg a)) (bitsAt (s.th.rg a) 17 3) := by
  have hp : bitsAt (s.th.rg a) 17 3 < 8 := Nat.mod_lt _ (by decide)
  have hread := fun k => writesG_tread (d := d) k (.inr hr) hnear
  simp only [targetThread_of_saved hr.1] at hread
  have hrg : (s.slotImage (tidOf (s.th.rg a))).rg r = if r = 0 then 0 else s.slotRead (tidOf (s.th.rg a)) (255 + r.val) := by
    by_cases h : r = 0
    · rw [if_pos h, h]; rfl
    · rw [if_neg h]; exact rg_ofSlot _ _ h
  refine ⟨?readG, hread .pc, ?readV, hread (.k .kinfo), hread (.k .kepc), hread (.k .ktvec), fun hr0 => ?writeG,
    fun hpc => ?writePc, ?writeV, fun hs hlt => ?writeCnt, ?resume⟩
  case readG => rw [← hrg]; exact hread (.g r)
  case readV =>
    have h := hread (.v r)
    rwa [State.readT, State.slotImage, vPiece_ofSlot _ _ r hp] at h
  case writeG =>
    obtain ⟨t, hexec, hwords, hstays, htrap⟩ := twrite_saved (d := d) (k := .g r) (w := 255 + r.val) hr hcur hnear
      (unprivileged (k := .g r) (fun _ => nofun) s) nofun rfl (setG_keeps _ r _).2.2.2.2.2
      fun j => toSlot_writeG _ _ _ r
    refine ⟨t, hexec, ?_, hstays, htrap⟩
    rw [hwords _ (by have := r.isLt; omega), toSlot_g _ hr0]
    exact (rg_setG_same _ r _).trans (if_neg hr0)
  case writePc =>
    obtain ⟨t, hexec, hwords, hstays, htrap⟩ := twrite_saved (d := d) (k := .pc) (w := 287) hr hcur hnear
      (unprivileged (k := .pc) (fun _ => nofun) s) nofun (targetChecks_pc hpc _ _) rfl fun j => toSlot_writePc _ _ _
    exact ⟨t, hexec, by rw [hwords _ (by decide), toSlot_pc]; rfl, hstays, htrap⟩
  case writeV =>
    obtain ⟨t, hexec, hwords, hstays, htrap⟩ := twrite_saved (d := d) (k := .v r)
      (w := 8 * r.val + bitsAt (s.th.rg a) 17 3) hr hcur hnear
      (unprivileged (k := .v r) (fun _ => nofun) s) nofun rfl rfl fun j => toSlot_writeV _ _ _ r
    refine ⟨t, hexec, ?_, hstays, htrap⟩
    rw [hwords _ (by have := r.isLt; omega), vPiece_writeV _ hp]
  case writeCnt =>
    have hallowed : s.targetChecks (tidOf (s.th.rg a)) (s.slotImage (tidOf (s.th.rg a))) (s.rg d) (.k .kfcnt) = .ok () :=
      writeChecks_ok (k := .kfcnt) (old := (s.slotImage (tidOf (s.th.rg a))).kfcnt) rfl ⟨fun _ => hs, hlt, nofun, nofun⟩
    obtain ⟨t, hexec, hwords, hstays, htrap⟩ := twrite_saved (d := d) (k := .k .kfcnt) (w := 311) hr hcur hnear (.inl hs)
      nofun hallowed rfl fun j hj _ => toSlot_writeCnt _ _ _ hj
    exact ⟨t, hexec, by rw [hwords _ (by decide), toSlot_tail _ 0]; rfl, hstays, htrap⟩
  case resume =>
    have hexec : exec (.sysTresume a) s = .next ((s.dropCall (tidOf (s.th.rg a))).slotWrite (tidOf (s.th.rg a))
        { s.slotImage (tidOf (s.th.rg a)) with st := .ready }).reply := by
      rw [(onTarget_tresume s a).reaches (.inr hr) hnear, if_pos hr.1]
      rfl
    obtain ⟨hstays, hwords⟩ := slotWrite_reply (s := s) (s' := s.dropCall (tidOf (s.th.rg a))) (w := 319)
      (x := { s.slotImage (tidOf (s.th.rg a)) with st := .ready }) ⟨rfl, rfl, rfl⟩ hr.1 (tidOf_lt _) hcur
      fun j hj _ => (toSlot_ready _ hj).trans (toSlot_slotImage _ hj)
    refine ⟨_, hexec, hstays, ?_⟩
    rw [hwords 319 (by decide), trapBit_toSlot]
    rfl

/-- Settles O22: each form does at its target what `State.readT` and `Thread.writeT` say, of a SAVED one in its slot. -/
theorem handlerForms : Obligations.HandlerForms := by
  unfold Obligations.HandlerForms
  refine ⟨fun s d a r m hr hcur hnear => ?trapped, fun s d a r hr hcur hnear => savedForms hr hcur hnear,
    fun s d a r i hi hr hfar => ?held⟩
  case held =>
    obtain rfl | rfl | rfl := hi
    · exact heldOff_of_far (onTarget_tread s d a (.g r)) hr hfar
    · exact heldOff_of_far (onTarget_twrite s d a (.g r) (unprivileged (k := .g r) (fun _ => nofun) s)) hr hfar
    · exact heldOff_of_far (onTarget_tresume s a) hr hfar
  case trapped =>
    have hread := fun k => writesG_tread_trapped (d := d) k hr hnear
    have hwrite := fun (k : TState) (h : ∀ q, k ≠ .k q) hchecks =>
      twrite_trapped (d := d) (k := k) hr hcur hnear (unprivileged h s) (h .kswait) hchecks
    refine ⟨hread (.g r), hread .pc, hread (.m m), ?readV, fun k => ?readK, ?writeG, ?writeM, ?writeV,
      fun e he hallowed => writesTargetK_twrite hr hcur hnear (kBits_of_mem_kWidths e he) hallowed, fun hpc => ?writePc,
      traps_twrite_pc hr hnear, ?resume⟩
    case readV =>
      have h := hread (.v r)
      rwa [State.readT, ← ofNat_toNat_self (vPiece _ _), toNat_vPiece] at h
    case readK => rw [← readK_own]; exact hread (.k k)
    case writeG =>
      obtain ⟨t, hexec, ht, -, hkeeps, -, hdone, hmem⟩ := hwrite (.g r) (fun _ => nofun) rfl
      exact ⟨t, hexec, ht, hkeeps, hdone, hmem⟩
    case writeM =>
      obtain ⟨t, hexec, ht, -, hkeeps, -, hdone, hmem⟩ := hwrite (.m m) (fun _ => nofun) rfl
      exact ⟨t, hexec, ht, hkeeps, hdone, hmem⟩
    case writeV =>
      obtain ⟨t, hexec, ht, -, hkeeps, -, hdone, hmem⟩ := hwrite (.v r) (fun _ => nofun) rfl
      exact ⟨t, _, hexec, ht, fun q hq => pieceOf_setPiece _ _ hq, hkeeps, hdone, hmem⟩
    case writePc =>
      obtain ⟨t, hexec, ht, -, hkeeps, -, hdone, -⟩ := hwrite .pc (fun _ => nofun) (targetChecks_pc hpc _ _)
      exact ⟨t, hexec, ht, hkeeps, hdone⟩
    case resume =>
      obtain ⟨hkeeps, -, hdone, hmem, hthr⟩ := reply_completes (sameIssuer_resume hcur)
      exact ⟨_, exec_tresume_trapped hr hnear, (hthr _ hcur).trans (thr_modThr_same (s.dropCall _) _ _), hkeeps, hdone, hmem⟩

/-! ## The end of a thread (R91) -/

/-- From a state to another the issuing thread and every thread's permits are the same. -/
def SamePermits (s t : State) : Prop := t.cur = s.cur ∧ ∀ u, (t.thr u).permits = (s.thr u).permits

theorem SamePermits.refl (s : State) : SamePermits s s := ⟨rfl, fun _ => rfl⟩

theorem SamePermits.trans {s t u : State} (h : SamePermits s t) (k : SamePermits t u) : SamePermits s u :=
  ⟨k.1.trans h.1, fun v => (k.2 v).trans (h.2 v)⟩

/-- A change of something else. -/
theorem samePermits_of_threads {s t : State} (hc : t.cur = s.cur) (h : t.threads = s.threads) : SamePermits s t :=
  ⟨hc, fun u => by rw [State.thr, State.thr, h]⟩

theorem samePermits_modThr (s : State) (t : Nat) {f : Thread → Thread} (h : ∀ x, (f x).permits = x.permits) :
    SamePermits s (s.modThr t f) := by
  refine ⟨rfl, fun u => ?_⟩
  by_cases hu : u = t
  · rw [hu, thr_modThr_same, h]
  · rw [thr_modThr_other s f hu]

theorem samePermits_foldl {α : Type} (l : List α) {f : State → α → State} (h : ∀ s a, SamePermits s (f s a)) (s : State) :
    SamePermits s (l.foldl f s) := by
  induction l generalizing s with
  | nil => exact .refl s
  | cons a l ih => exact (h s a).trans (ih _)

theorem samePermits_modCor (s : State) (k : Nat) (f : Core → Core) : SamePermits s (s.modCor k f) :=
  samePermits_of_threads rfl rfl

theorem permits_setG (t : Thread) (d : Reg) (x : Word) : (t.setG d x).permits = t.permits := (setG_keeps t d x).1.packet.2

theorem permits_endWait (t : Thread) (d : Reg) (x : Word) : (t.endWait d x).permits = t.permits :=
  (endWait_keeps t d x).packet.2

theorem samePermits_ask (s : State) (ck : Nat) (a : Ask) : SamePermits s (s.ask ck a) := by
  unfold State.ask
  split
  · exact samePermits_modThr s s.cur fun _ => rfl
  · exact .refl s

theorem samePermits_noteRequest (s : State) (ck die : Nat) (x : Option Word) (off n : Nat) :
    SamePermits s (s.noteRequest ck die x off n) := by
  unfold State.noteRequest
  split
  · exact .refl s
  · exact (samePermits_modCor s ck _).trans ((samePermits_ask _ _ _).trans (samePermits_of_threads rfl rfl))

theorem samePermits_wtPerform (s : State) (ck : Nat) (e : WtEntry) : SamePermits s (s.wtPerform ck e) := by
  unfold State.wtPerform
  split
  · exact (samePermits_of_threads rfl rfl).trans (samePermits_noteRequest _ _ _ _ _ _)
  · exact (samePermits_of_threads rfl rfl).trans (samePermits_noteRequest _ _ _ _ _ _)

theorem samePermits_wtDrainOne (s : State) (ck : Nat) : SamePermits s (s.wtDrainOne ck) := by
  unfold State.wtDrainOne
  split
  · exact .refl s
  · split <;> exact (samePermits_modCor s ck _).trans (samePermits_wtPerform _ _ _)

theorem samePermits_wtDrainAll (s : State) (ck n : Nat) : SamePermits s (s.wtDrainAll ck n) := by
  induction n generalizing s with
  | zero => exact .refl s
  | succ n ih => exact (samePermits_wtDrainOne s ck).trans (ih _)

theorem samePermits_wtPush (s : State) (ck : Nat) (e : WtEntry) : SamePermits s (s.wtPush ck e) := by
  unfold State.wtPush
  refine SamePermits.trans ?_ (samePermits_modCor _ ck _)
  split
  · exact samePermits_wtDrainOne s ck
  · exact .refl s

theorem samePermits_l1Clean (s : State) (ck line : Nat) : SamePermits s (s.l1Clean ck line) := by
  unfold State.l1Clean
  split
  · exact .refl s
  · split
    · exact .refl s
    · exact (samePermits_modCor s ck _).trans (samePermits_wtPush _ _ _)

theorem samePermits_l1Release (s : State) (ck : Nat) : SamePermits s (s.l1Release ck) :=
  (samePermits_foldl _ (fun s l => samePermits_l1Clean s ck l) s).trans (samePermits_wtDrainAll _ ck _)

theorem samePermits_giveUpEnt (s : State) (sl : Nat) (e : Tenure) : SamePermits s (s.giveUpEnt sl e) := by
  unfold State.giveUpEnt
  split
  · exact .refl s
  · split
    · unfold State.giveUp
      split
      · exact .refl s
      · exact (samePermits_l1Release s _).trans (samePermits_modCor _ _ _)
    · exact .refl s

theorem samePermits_takeTrap (s : State) (t : Nat) (tr : Trap) : SamePermits s (s.takeTrap t tr) :=
  (samePermits_of_threads (cur_postRecord s t tr) (threads_postRecord s t tr)).trans (samePermits_modThr _ t fun _ => rfl)

theorem samePermits_readHome (s : State) (t : Nat) (ps : List (Nat × Nat × Nat)) : SamePermits s (s.readHome t ps) := by
  unfold State.readHome
  dsimp only
  split
  · exact samePermits_modThr s t fun _ => rfl
  · split
    · exact samePermits_takeTrap s t _
    · refine SamePermits.trans ?_ (samePermits_modCor _ (coreOf t) _)
      exact samePermits_modThr s t fun _ => rfl

theorem samePermits_endTenures (s : State) (t : Nat) : SamePermits s (s.endTenures t) := by
  refine samePermits_foldl _ (fun s sl => ?_) s
  refine SamePermits.trans ?_ (samePermits_of_threads rfl rfl)
  unfold State.freeEnts
  exact (samePermits_foldl _ (fun s e => samePermits_giveUpEnt s sl e) s).trans
    ((samePermits_of_threads rfl rfl).trans (samePermits_foldl _ (fun s e => samePermits_readHome s _ _) _))

theorem samePermits_wakeCore (s : State) (ck : Nat) (p : WaitKind → Bool) : SamePermits s (s.wakeCore ck p) := by
  unfold State.wakeCore
  refine samePermits_foldl _ (fun s c => samePermits_modThr s _ fun x => ?_) s
  split <;> rfl

theorem permits_takeBack (t : Thread) : t.takeBack.permits = t.permits := by
  unfold Thread.takeBack
  split <;> rfl

theorem samePermits_withdrawArrival (s : State) (t : Nat) : SamePermits s (s.withdrawArrival t) :=
  (samePermits_of_threads (cur_modClu s _ _) (threads_modClu s _ _)).trans
    (samePermits_foldl _ (fun s _ => samePermits_wakeCore s _ _) _)

theorem samePermits_dropPub (s : State) (t : Nat) : SamePermits s (s.dropPub t) := by
  unfold State.dropPub
  split
  · exact .refl s
  · exact samePermits_modCor s _ _

theorem samePermits_withdraw (s : State) (t : Nat) : SamePermits s (s.withdraw t) := by
  have hwalks : SamePermits s { s with walks := s.walks.erase t } := samePermits_of_threads rfl rfl
  unfold State.withdraw
  generalize { s with walks := s.walks.erase t } = u at hwalks ⊢
  refine SamePermits.trans (hwalks.trans ?_) (samePermits_modThr _ t permits_takeBack)
  split
  · exact samePermits_of_threads rfl rfl
  · exact samePermits_withdrawArrival u t
  · exact samePermits_modCor u _ _
  · exact samePermits_dropPub u t
  · exact .refl u

theorem samePermits_crossBack (s : State) (t die : Nat) (d : Reg) (v : Word) : SamePermits s (s.crossBack t die d v) :=
  (samePermits_noteRequest s _ die (some v) 0 8).trans (samePermits_modThr _ t fun x => by
    exact ((retireReply_keeps (x.setG d v) s.tick d).packet.2).trans (permits_setG x d v))

theorem samePermits_phaseDone (s : State) (t g : Nat) (d : Reg) (wide : Bool) : SamePermits s (s.phaseDone t g d wide) := by
  unfold State.phaseDone
  have hacq : SamePermits s (if wide then s.l1Acquire (coreOf t) else s) := by
    split
    · exact samePermits_modCor s _ _
    · exact .refl s
  refine hacq.trans ?_
  generalize (if wide then s.l1Acquire (coreOf t) else s) = u
  split
  · exact samePermits_modThr _ t fun x => permits_endWait x d stDone
  · exact samePermits_crossBack _ _ _ _ _

theorem samePermits_leaveGroup (s : State) (t g : Nat) : SamePermits s (s.leaveGroup t g) := by
  unfold State.leaveGroup
  split
  · split
    · unfold State.setGroup
      refine (samePermits_of_threads (t := { s with groups := _ }) rfl rfl).trans ?_
      dsimp only
      split
      · exact samePermits_foldl _ (fun s w => samePermits_phaseDone s _ _ _ _) _
      · exact .refl _
    · exact .refl s
  · exact .refl s

theorem samePermits_leaveGroups (s : State) (t : Nat) : SamePermits s (s.leaveGroups t) := by
  unfold State.leaveGroups
  refine samePermits_foldl _ (fun s g => ?_) s
  split
  · exact .refl s
  · split
    · exact samePermits_leaveGroup s t g
    · exact samePermits_modCor s _ _

theorem cur_returnPermits (s : State) (t : Nat) : (s.returnPermits t).cur = s.cur := by
  unfold State.returnPermits
  exact (samePermits_foldl _ (fun s (p : Permit) => samePermits_modCor s p.core _) s).1

theorem permits_returnPermits (s : State) (t : Nat) : ((s.returnPermits t).thr t).permits = [] := by
  unfold State.returnPermits
  rw [thr_modThr_same]

/-- A thread that does not wait is not woken. -/
theorem thr_wakeWhere {s : State} {p : Nat → WaitKind → Bool} {t : Nat} (h : (s.thr t).st ≠ .waiting) :
    (s.wakeWhere p).thr t = s.thr t := by
  have hmap := AMap.get_map (fun k (x : Thread) =>
    if x.st = .waiting ∧ (x.wait.map fun w => p k w.kind) = some true then x.wake else x) (threadInit t) s.threads t
  have hinit : (threadInit t).st ≠ .waiting := by unfold threadInit; split <;> exact nofun
  rw [if_neg fun e => hinit e.1] at hmap
  refine Eq.trans ?_ (hmap.trans (if_neg fun e => h e.1))
  refine congrArg (fun m => AMap.get (threadInit t) m t) (List.map_congr_left fun e _ => ?_)
  split <;> rfl

/-- The duties of a thread that ends, and its end (R91). -/
def State.endDuties (s : State) (t : Nat) : State := (((s.endTenures t).returnPermits t).leaveGroups t).dropCall t

def State.ended (s : State) (t : Nat) : State :=
  ((s.endDuties t).modThr t fun x =>
    { x.formOver with st := .ended, packet := [], saveFrom := none, saveTold := false, parkedStart := false }).wakeSavers t

/-- A thread ends after what stands for its wait is withdrawn. -/
theorem endThread_eq_ended (s : State) (t : Nat) : ∃ u : State, u.cur = s.cur ∧ s.endThread t = u.ended t := by
  unfold State.endThread
  split
  · exact ⟨_, (samePermits_withdraw s t).1, rfl⟩
  · exact ⟨_, (samePermits_withdraw s t).1, rfl⟩
  · exact ⟨_, cur_modThr s t _, rfl⟩
  · exact ⟨_, rfl, rfl⟩

theorem samePermits_dropCall (s : State) (t : Nat) : SamePermits s (s.dropCall t) := samePermits_of_threads rfl rfl

theorem samePermits_endDuties (s : State) (t : Nat) : SamePermits ((s.endTenures t).returnPermits t) (s.endDuties t) :=
  (samePermits_leaveGroups _ t).trans (samePermits_dropCall _ t)

theorem cur_endDuties (s : State) (t : Nat) : (s.endDuties t).cur = s.cur :=
  (samePermits_endDuties s t).1.trans ((cur_returnPermits _ t).trans (samePermits_endTenures s t).1)

theorem permits_endDuties (s : State) (t : Nat) : ((s.endDuties t).thr t).permits = [] :=
  ((samePermits_endDuties s t).2 t).trans (permits_returnPermits _ t)

theorem cur_wakeWhere (s : State) (p : Nat → WaitKind → Bool) : (s.wakeWhere p).cur = s.cur := rfl

theorem cur_ended (s : State) (t : Nat) : (s.ended t).cur = s.cur := by
  rw [State.ended, State.wakeSavers, cur_wakeWhere, cur_modThr, cur_endDuties]

/-- A thread that ends: ENDED, with no permit, no packet and no wait. -/
theorem endThread_spec (s : State) (t : Nat) : (s.endThread t).cur = s.cur ∧ ((s.endThread t).thr t).st = .ended ∧
    ((s.endThread t).thr t).packet = [] ∧ ((s.endThread t).thr t).permits = [] ∧ ((s.endThread t).thr t).wait = none := by
  obtain ⟨u, hcur, h⟩ := endThread_eq_ended s t
  have hthr : (u.ended t).thr t = { ((u.endDuties t).thr t).formOver with
      st := .ended, packet := [], saveFrom := none, saveTold := false, parkedStart := false } := by
    rw [State.ended, State.wakeSavers, thr_wakeWhere (by rw [thr_modThr_same]; exact nofun), thr_modThr_same]
  rw [h, hthr, cur_ended, hcur]
  exact ⟨rfl, rfl, rfl, permits_endDuties u t, rfl⟩

theorem near_of_coreOf {s : State} {u : Nat} (h : coreOf u = s.ck) : Near s u := .inl (by rw [h])

theorem someRelock_of_noRelock {s : State} (h : NoRelock s) : s.someRelock = none := by
  rw [State.someRelock, Option.map_eq_none_iff, List.find?_eq_none]
  intro e he
  rw [h e he]
  exact Bool.false_ne_true

theorem someRelock_of_relock {s : State} (h : ¬ NoRelock s) : ∃ d, s.someRelock = some d := by
  refine Option.ne_none_iff_exists'.mp fun hnone => h fun e he => ?_
  rw [State.someRelock, Option.map_eq_none_iff, List.find?_eq_none] at hnone
  exact Option.not_isSome_iff_eq_none.mp (hnone e he)

/-- A property of every value of a table, and of the default, is one of every value that it reads. -/
theorem AMap.get_of_forall {α : Type} {p : α → Prop} {d : α} {m : AMap α} (hd : p d) (h : ∀ e ∈ m, p e.2) (i : Nat) :
    p (AMap.get d m i) := by
  induction m with
  | nil => exact hd
  | cons e m ih =>
    obtain ⟨he, hm⟩ := List.forall_mem_cons.mp h
    rw [AMap.get]
    split
    · exact he
    · exact ih hm

theorem near_of_noRelock {s : State} (h : NoRelock s) (u : Nat) : Near s u :=
  .inr (AMap.get_of_forall (p := fun d : Die => d.clock.t0 = none) rfl h _)

theorem thr_reply_other {s : State} {u : Nat} (h : u ≠ s.cur) : s.reply.thr u = s.thr u := thr_modThr_other s _ h

theorem endThread_reply {s : State} {u : Nat} (h : u ≠ s.cur) : ((s.endThread u).reply.thr u).st = .ended ∧
    ((s.endThread u).reply.thr u).packet = [] ∧ ((s.endThread u).reply.thr u).permits = [] := by
  obtain ⟨hcur, hst, hpacket, hpermits, -⟩ := endThread_spec s u
  rw [thr_reply_other (by rw [hcur]; exact h)]
  exact ⟨hst, hpacket, hpermits⟩

/-- Settles O24: both forms end in `State.endThread`, whose duties leave the thread's own fields alone. -/
theorem threadsEnd : Obligations.ThreadsEnd := by
  unfold Obligations.ThreadsEnd
  refine ⟨fun s hp => ?exits, fun s hp => ?packetOpen, fun s a => ?kills⟩
  case exits =>
    obtain ⟨-, hst, hpacket, hpermits, hwait⟩ := endThread_spec s s.cur
    refine ⟨s.endThread s.cur, ?_, hst, hpacket, hpermits, hwait⟩
    change execSysExit s = _
    rw [execSysExit, hp]
    rfl
  case packetOpen =>
    refine traps_finish (tr := { cause := cPacketOpen, info := 0 }) (r := .error (packetTrap 0)) ?_ rfl
    change execSysExit s = _
    rw [execSysExit, List.isEmpty_eq_false_iff.mpr hp]
    rfl
  case kills =>
    intro u hr hcur
    have hform := onTarget_tkill s a
    refine ⟨fun h => ?ends, fun hcore hrelock => ?waits⟩
    case ends =>
      have hnear : Near s u := h.elim near_of_coreOf fun h => near_of_noRelock h u
      have hother : s.otherCore u (s.endThread u).reply = (s.endThread u).reply := by
        rw [State.otherCore]
        split
        · rfl
        next hc => rw [someRelock_of_noRelock (h.resolve_left hc)]
      refine ⟨(s.endThread u).reply, ?_, endThread_reply hcur⟩
      rw [hform.reaches hr hnear]
      exact congrArg Host.Outcome.next hother
    case waits =>
      obtain ⟨d, hd⟩ := someRelock_of_relock hrelock
      by_cases hnear : Near s u
      · have hother : s.otherCore u (s.endThread u).reply = s.waitFor (.relock d 0) 0 := by
          rw [State.otherCore, if_neg hcore, hd]
        have hw := waitsAtInstr_block s s.tick (.relock d 0) 0 15
        refine ⟨_, ?_, hw.only, hw.keeps, hw.st, hw.pc⟩
        rw [hform.reaches hr hnear]
        exact congrArg Host.Outcome.next hother
      · obtain ⟨t, ht, honly, hkeeps, -, hst, hpc⟩ := heldOff_of_far hform hr hnear
        exact ⟨t, ht, honly, hkeeps, hst, hpc⟩

end Sys2Proof.Machine
end

section
/-! PROOFS. Every step keeps the canonical form of memory (O60). A function of the model either leaves memory alone, which
its lemma says as an equation, or writes it through an operation that keeps the form. -/

namespace Sys2Proof.Machine

/-- Where a computation has a value, the value is as `P` says. -/
def Holds {ε α : Type} (P : α → Prop) : Except ε α → Prop
  | .ok a => P a
  | .error _ => True

@[simp] theorem holds_ok {ε α : Type} (P : α → Prop) (a : α) : Holds P (.ok a : Except ε α) ↔ P a := Iff.rfl

@[simp] theorem holds_pure {ε α : Type} (P : α → Prop) (a : α) : Holds P (pure a : Except ε α) ↔ P a := Iff.rfl

@[simp] theorem holds_error {ε α : Type} (P : α → Prop) (e : ε) : Holds P (.error e) ↔ True := Iff.rfl

@[simp] theorem holds_throw {ε α : Type} (P : α → Prop) (e : ε) : Holds P (throw e : Except ε α) ↔ True := Iff.rfl

@[simp] theorem holds_true {ε α : Type} (x : Except ε α) : Holds (fun _ => True) x ↔ True := by
  cases x <;> exact Iff.rfl

@[simp] theorem holds_bind {ε α β : Type} (P : β → Prop) (x : Except ε α) (f : α → Except ε β) :
    Holds P (x >>= f) ↔ Holds (fun a => Holds P (f a)) x := by
  cases x <;> exact Iff.rfl

@[simp] theorem holds_ite {ε α : Type} (P : α → Prop) (c : Prop) [Decidable c] (x y : Except ε α) :
    Holds P (if c then x else y) ↔ if c then Holds P x else Holds P y := by
  split <;> exact Iff.rfl

theorem holds_of_forall {ε α : Type} {P : α → Prop} (x : Except ε α) (h : ∀ a, P a) : Holds P x := by
  cases x with
  | ok a => exact h a
  | error _ => trivial

theorem holds_imp {ε α : Type} {P Q : α → Prop} {x : Except ε α} (h : Holds P x) (k : ∀ a, P a → Q a) : Holds Q x := by
  cases x with
  | ok a => exact k a h
  | error _ => trivial

theorem holds_iff {ε α : Type} {P : α → Prop} {x : Except ε α} : Holds P x ↔ ∀ a, x = .ok a → P a := by
  cases x with
  | ok a => exact ⟨fun h b e => Except.ok.inj e ▸ h, fun h => h a rfl⟩
  | error _ => exact ⟨fun _ _ e => absurd e nofun, fun _ => trivial⟩

/-- An outcome in whose state, where it has one, memory is in canonical form. -/
def OutForm : Host.Outcome State Fault Refusal → Prop
  | .next t => memWf t.mem = true
  | _ => True

@[simp] theorem outForm_next (t : State) : OutForm (.next t) ↔ memWf t.mem = true := Iff.rfl

@[simp] theorem outForm_refused (r : Refusal) : OutForm (.refused r) ↔ True := Iff.rfl

@[simp] theorem outForm_fault (f : Fault) : OutForm (.fault f) ↔ True := Iff.rfl

@[simp] theorem outForm_ite (c : Prop) [Decidable c] (x y : Host.Outcome State Fault Refusal) :
    OutForm (if c then x else y) ↔ if c then OutForm x else OutForm y := by
  split <;> exact Iff.rfl

@[simp] theorem outForm_finish {s : State} {r : Except Stop State} (h : memWf s.mem = true) :
    OutForm (finish s r) ↔ Holds (fun t => memWf t.mem = true) r := by
  match r with
  | .ok _ => exact Iff.rfl
  | .error (.trap t) => exact iff_of_true ((congrArg (memWf · = true) (mem_trapNow s t)).mpr h) trivial
  | .error (.walk _) => exact iff_of_true h trivial
  | .error (.line _) => exact iff_of_true h trivial
  | .error (.fault _) => exact Iff.rfl
  | .error (.refuse _) => exact Iff.rfl

@[simp] theorem mem_ite (c : Prop) [Decidable c] (s t : State) : (if c then s else t).mem = if c then s.mem else t.mem := by
  split <;> rfl

@[simp] theorem memWf_ite (c : Prop) [Decidable c] (l m : List Host.Cell) :
    memWf (if c then l else m) = if c then memWf l else memWf m := by
  split <;> rfl

/-! ## Folds over threads and dies leave memory alone -/

@[simp] theorem mem_foldl_modThr {α : Type} (l : List α) (t : State → α → Nat) (f : State → α → Thread → Thread) (s : State) :
    (l.foldl (fun s a => s.modThr (t s a) (f s a)) s).mem = s.mem :=
  mem_foldl l (fun s a => s.modThr (t s a) (f s a)) (fun _ _ => rfl) s

@[simp] theorem mem_foldl_setThr {α : Type} (l : List α) (t : State → α → Nat) (x : State → α → Thread) (s : State) :
    (l.foldl (fun s a => s.setThr (t s a) (x s a)) s).mem = s.mem :=
  mem_foldl l (fun s a => s.setThr (t s a) (x s a)) (fun _ _ => rfl) s

@[simp] theorem mem_foldl_modDie {α : Type} (l : List α) (t : State → α → Nat) (f : State → α → Die → Die) (s : State) :
    (l.foldl (fun s a => s.modDie (t s a) (f s a)) s).mem = s.mem :=
  mem_foldl l (fun s a => s.modDie (t s a) (f s a)) (fun _ _ => rfl) s

/-! ## What keeps the form of memory -/

@[simp] theorem memWf_homeWrite (s : State) (pa : Nat) (bs : List Byte) (h : memWf s.mem = true) :
    memWf (s.homeWrite pa bs).mem = true :=
  memKept_homeWrite s pa bs h

@[simp] theorem memWf_clearRange (s : State) (b n : Nat) (h : memWf s.mem = true) :
    memWf (s.clearRange b n).mem = true :=
  memKept_clearRange s b n h

@[simp] theorem memWf_takeRange (s : State) (b n : Nat) (h : memWf s.mem = true) : memWf (s.takeRange b n).mem = true :=
  memKept_takeRange s b n h

@[simp] theorem memWf_movePage (s : State) (src dst n : Nat) (h : memWf s.mem = true) :
    memWf (s.movePage src dst n).mem = true :=
  memKept_movePage s src dst n h

@[simp] theorem memWf_wtPerform (s : State) (ck : Nat) (e : WtEntry) (h : memWf s.mem = true) :
    memWf (s.wtPerform ck e).mem = true :=
  memKept_wtPerform s ck e h

@[simp] theorem memWf_wtDrainOne (s : State) (ck : Nat) (h : memWf s.mem = true) : memWf (s.wtDrainOne ck).mem = true :=
  memKept_wtDrainOne s ck h

@[simp] theorem memWf_wtDrainAll (s : State) (ck n : Nat) (h : memWf s.mem = true) :
    memWf (s.wtDrainAll ck n).mem = true :=
  memKept_wtDrainAll s ck n h

@[simp] theorem memWf_wtDrain (s : State) (ck : Nat) (h : memWf s.mem = true) : memWf (s.wtDrain ck).mem = true :=
  memKept_wtDrain s ck h

@[simp] theorem memWf_wtPush (s : State) (ck : Nat) (e : WtEntry) (h : memWf s.mem = true) :
    memWf (s.wtPush ck e).mem = true :=
  memKept_wtPush s ck e h

@[simp] theorem memWf_l1Clean (s : State) (ck line : Nat) (h : memWf s.mem = true) :
    memWf (s.l1Clean ck line).mem = true :=
  memKept_l1Clean s ck line h

@[simp] theorem memWf_l1Evict (s : State) (ck line : Nat) (h : memWf s.mem = true) :
    memWf (s.l1Evict ck line).mem = true :=
  memKept_l1Evict s ck line h

@[simp] theorem memWf_l1Room (s : State) (ck line : Nat) (h : memWf s.mem = true) :
    memWf (s.l1Room ck line).mem = true :=
  memKept_l1Room s ck line h

@[simp] theorem memWf_l1Fresh (s : State) (ck : Nat) (p : Part) (h : memWf s.mem = true) :
    memWf (s.l1Fresh ck p).mem = true :=
  memKept_l1Fresh s ck p h

@[simp] theorem memWf_l1Fill (s : State) (ck : Nat) (p : Part) (h : memWf s.mem = true) :
    memWf (s.l1Fill ck p).mem = true :=
  memKept_l1Fill s ck p h

@[simp] theorem memWf_l1Release (s : State) (ck : Nat) (h : memWf s.mem = true) : memWf (s.l1Release ck).mem = true :=
  memKept_l1Release s ck h

@[simp] theorem memWf_l1Flush (s : State) (ck pa n : Nat) (h : memWf s.mem = true) :
    memWf (s.l1Flush ck pa n).mem = true :=
  memKept_l1Flush s ck pa n h

@[simp] theorem memWf_storeWhole (s : State) (ck : Nat) (p : Part) (v : Nat) (h : memWf s.mem = true) :
    memWf (s.storeWhole ck p v).mem = true :=
  memKept_storeWhole s ck p v h

@[simp] theorem memWf_storePartial (s : State) (ck : Nat) (p : Part) (v : Nat) (h : memWf s.mem = true) :
    memWf (s.storePartial ck p v).mem = true :=
  memKept_storePartial s ck p v h

@[simp] theorem memWf_allocPage (s : State) (die n : Nat) (h : memWf s.mem = true) : memWf (s.allocPage die n).2.mem = true :=
  memKept_allocPage s die n h

theorem holds_loadParts {s : State} (ck : Nat) (ps : List Part) (h : memWf s.mem = true) :
    Holds (fun r => memWf r.2.mem = true) (s.loadParts ck ps) :=
  holds_iff.mpr fun _ e => memKept_loadParts e h

theorem holds_storeParts {s : State} (ck : Nat) (whole : Bool) (v : Nat) (ps : List Part) (h : memWf s.mem = true) :
    Holds (fun r => memWf r.2.mem = true) (s.storeParts ck whole v ps) :=
  holds_iff.mpr fun _ e => memKept_storeParts e h

/-- A fold of changes that keep the form. -/
theorem memWf_foldl {α : Type} (l : List α) (f : State → α → State)
    (hf : ∀ s a, memWf s.mem = true → memWf (f s a).mem = true) (s : State) (h : memWf s.mem = true) :
    memWf (l.foldl f s).mem = true :=
  memKept_foldl l f hf s h

/-! ### Completion, waits, posts and traps -/

@[simp] theorem mem_pure (s : State) (d : Reg) (f : Thread → Thread) : (s.pure d f).mem = s.mem := rfl

@[simp] theorem mem_voidCalls (s : State) (p : Nat → Bool) : (s.voidCalls p).mem = s.mem := rfl

@[simp] theorem mem_dropCall (s : State) (t : Nat) : (s.dropCall t).mem = s.mem := rfl

@[simp] theorem mem_illegalNow (s : State) : (s.illegalNow).mem = s.mem := rfl

/-! ### Memory, the L1 and full/empty words -/

@[simp] theorem mem_deliverTake (s : State) (ck w : Nat) (y : Word) : (s.deliverTake ck w y).mem = s.mem := by
  unfold State.deliverTake
  split <;> simp

@[simp] theorem mem_trapReaders (s : State) (ck w : Nat) : (s.trapReaders ck w).mem = s.mem := by
  unfold State.trapReaders
  exact mem_foldl _ _ (fun s a => by simp) _

@[simp] theorem mem_trapTaker (s : State) (ck w : Nat) : (s.trapTaker ck w).mem = s.mem := by
  unfold State.trapTaker
  split <;> simp

@[simp] theorem mem_wakeReaders (s : State) (ck w : Nat) (y : Word) : (s.wakeReaders ck w y).mem = s.mem := by
  unfold State.wakeReaders
  refine mem_foldl _ _ (fun s c => ?_) _
  dsimp only
  split
  · split
    · rfl
    · split <;> rfl
  · rfl

@[simp] theorem mem_fillWord (s : State) (ck w : Nat) (y : Word) : (s.fillWord ck w y).mem = s.mem := by
  unfold State.fillWord
  simp

@[simp] theorem mem_arriveWord (s : State) (ck w : Nat) (y : Word) : (s.arriveWord ck w y).mem = s.mem := by
  unfold State.arriveWord
  split <;> simp

@[simp] theorem mem_arriveWords (s : State) (ck w : Nat) (l : List Word) : (s.arriveWords ck w l).mem = s.mem := by
  induction l generalizing s w with
  | nil => rfl
  | cons y r ih => exact (ih _ _).trans (mem_arriveWord s ck w y)

/-! ### Bit streams -/

@[simp] theorem holds_bitForm (s : State) (need : Nat) (b : BitBuf) (f : BitBuf → Thread → Thread)
    (h : memWf s.mem = true) : Holds (fun t => memWf t.mem = true) (s.bitForm need b f) := by
  unfold State.bitForm
  split
  · exact h
  · refine (holds_bind ..).mpr (holds_of_forall _ fun r => ?_)
    cases r <;> exact h

@[simp] theorem outForm_execBitInit (d a : Reg) (k : BitVec 8) (s : State) (h : memWf s.mem = true) :
    OutForm (execBitInit d a k s) := by
  unfold execBitInit
  rw [outForm_finish h]
  simp only [holds_bind]
  refine holds_of_forall _ fun _ => holds_of_forall _ fun _ => holds_of_forall _ fun _ => holds_of_forall _ fun _ =>
    holds_of_forall _ fun r => ?_
  cases r <;> exact h

/-! ### Loads and stores -/

@[simp] theorem holds_loadTo (s : State) (d : Reg) (ps : List Part) (h : memWf s.mem = true) :
    Holds (fun t => memWf t.mem = true) (s.loadTo d ps) :=
  (holds_bind ..).mpr (holds_imp (holds_loadParts s.ck ps h) fun r hr => by simp [hr])

@[simp] theorem holds_storeFrom (s : State) (va n v : Nat) (ps : List Part) (h : memWf s.mem = true) :
    Holds (fun t => memWf t.mem = true) (s.storeFrom va n v ps) := by
  refine (holds_bind ..).mpr (holds_imp (holds_storeParts s.ck _ v ps h) fun r hr => ?_)
  obtain ⟨bad, t⟩ := r
  cases bad <;> simpa using hr

@[simp] theorem outForm_execLds (sz : SSize) (d a : Reg) (off : BitVec 11) (s : State) (hm : memWf s.mem = true) :
    OutForm (execLds sz d a off s) := by
  unfold execLds
  split <;> simp [hm]

@[simp] theorem holds_scrStore (s : State) (l : List (Nat × List Byte)) (h : memWf s.mem = true) :
    Holds (fun t => memWf t.mem = true) (s.scrStore l) := by
  induction l generalizing s with
  | nil => exact h
  | cons x r ih =>
    unfold State.scrStore
    split
    · simpa using h
    · trivial
    · exact ih _ h

@[simp] theorem mem_markFull (s : State) (ck w : Nat) : (s.markFull ck w).mem = s.mem := by
  unfold State.markFull
  simp

@[simp] theorem mem_arrivePart (s : State) (ck w : Nat) (y : Word) : (s.arrivePart ck w y).mem = s.mem := by
  unfold State.arrivePart
  simp

/-! ### Integer instructions -/

@[simp] theorem outForm_alu (s : State) (d a b : Reg) (f : Word → Word → Word) (hm : memWf s.mem = true) :
    OutForm (s.alu d a b f) := by
  unfold State.alu
  simp [hm]

@[simp] theorem outForm_aluReply (s : State) (d a b : Reg) (f : Word → Word → Word) (hm : memWf s.mem = true) :
    OutForm (s.aluReply d a b f) := by
  unfold State.aluReply
  simp [hm]

@[simp] theorem outForm_alu1 (s : State) (d a : Reg) (f : Word → Word) (hm : memWf s.mem = true) :
    OutForm (s.alu1 d a f) := by
  unfold State.alu1
  simp [hm]

/-! ### Vectors -/

@[simp] theorem outForm_fpOut (s : State) (flags : Nat) (reply : Bool) (f : Thread → Thread) (hm : memWf s.mem = true) :
    OutForm (s.fpOut flags reply f) := by
  unfold State.fpOut
  simp [hm]

@[simp] theorem outForm_vfp (s : State) (ty : FTy) (m : MReg) (d a b : Reg) (reply : Bool)
    (f : Fmt → Nat → Nat → Nat → Nat → Nat × Nat) (hm : memWf s.mem = true) :
    OutForm (s.vfp ty m d a b reply f) := by
  unfold State.vfp
  simp [hm]

@[simp] theorem outForm_vfpCmp (s : State) (m d : MReg) (a b : Reg) (f : Nat → Nat → Bool × Nat)
    (hm : memWf s.mem = true) :
    OutForm (s.vfpCmp m d a b f) := by
  unfold State.vfpCmp
  simp [hm]

@[simp] theorem outForm_vint (s : State) (ty : ITy) (m : MReg) (d a b : Reg) (f : Nat → Nat → Nat → Nat)
    (hm : memWf s.mem = true) :
    OutForm (s.vint ty m d a b f) := by
  unfold State.vint
  simp [hm]

@[simp] theorem outForm_vintCmp (s : State) (m d : MReg) (a b : Reg) (f : Nat → Nat → Bool) (hm : memWf s.mem = true) :
    OutForm (s.vintCmp m d a b f) := by
  unfold State.vintCmp
  simp [hm]

@[simp] theorem outForm_vcvtNarrow (s : State) (g : Fmt) (base : Nat) (ty : CRnd) (m : MReg) (d a : Reg)
    (hm : memWf s.mem = true) :
    OutForm (s.vcvtNarrow g base ty m d a) := by
  unfold State.vcvtNarrow
  simp [hm]

@[simp] theorem outForm_vcvtWiden (s : State) (f : Fmt) (base : Nat) (m : MReg) (d a : Reg) (hm : memWf s.mem = true) :
    OutForm (s.vcvtWiden f base m d a) := by
  unfold State.vcvtWiden
  simp [hm]

@[simp] theorem outForm_vcvt32 (s : State) (ty : CRnd) (m : MReg) (d a : Reg) (f : Nat → Nat → Nat × Nat)
    (hm : memWf s.mem = true) :
    OutForm (s.vcvt32 ty m d a f) := by
  unfold State.vcvt32
  simp [hm]

@[simp] theorem outForm_fpReduce (s : State) (ty : FTy) (m : MReg) (d a : Reg) (empty : Fmt → Nat)
    (op : Fmt → Nat → Nat → Nat → Nat × Nat) (hm : memWf s.mem = true) :
    OutForm (s.fpReduce ty m d a empty op) := by
  unfold State.fpReduce
  simp [hm]

@[simp] theorem outForm_intReduce (s : State) (ty : ITy) (m : MReg) (d a : Reg) (unit : Nat → Nat)
    (op : Nat → Nat → Nat → Nat) (hm : memWf s.mem = true) :
    OutForm (s.intReduce ty m d a unit op) := by
  unfold State.intReduce
  simp [hm]

@[simp] theorem outForm_permute (s : State) (ty : ITy) (m : MReg) (d a : Reg) (src : Nat → Nat)
    (hm : memWf s.mem = true) :
    OutForm (s.permute ty m d a src) := by
  unfold State.permute
  simp [hm]

@[simp] theorem outForm_vbmm (s : State) (ty : GSize) (m : MReg) (d a b : Reg) (accumulate : Bool)
    (hm : memWf s.mem = true) :
    OutForm (s.vbmm ty m d a b accumulate) := by
  unfold State.vbmm
  simp [hm]

@[simp] theorem outForm_maskOut (s : State) (d : MReg) (f : Thread → LMask) (hm : memWf s.mem = true) :
    OutForm (s.maskOut d f) := by
  unfold State.maskOut
  simp [hm]

/-! ### Keyed memory -/

@[simp] theorem memWf_setFooting (s : State) (die asid region : Nat) (vt : VType) (run : AMap Nat)
    (hm : memWf s.mem = true) :
    memWf (s.setFooting die asid region vt run).mem = true := by
  unfold State.setFooting
  split <;> simp [hm]

@[simp] theorem mem_postKeyFault (s : State) (core : Option Nat) (fclass : Nat) (words : List Word) :
    (s.postKeyFault core fclass words).mem = s.mem := by
  unfold State.postKeyFault
  split <;> simp

@[simp] theorem mem_endPub (s : State) (p : Pub) : (s.endPub p).mem = s.mem := by
  unfold State.endPub
  split <;> simp

@[simp] theorem mem_endPubs (s : State) (ck : Nat) : (s.endPubs ck).mem = s.mem := by
  unfold State.endPubs
  exact mem_foldl _ _ (fun s a => by simp) _

@[simp] theorem mem_modPubs (s : State) (ck : Nat) (f : Pub → Pub) : (s.modPubs ck f).mem = s.mem := by
  unfold State.modPubs
  simp

@[simp] theorem mem_modCluPubs (s : State) (cl : Nat) (f : Pub → Pub) : (s.modCluPubs cl f).mem = s.mem := by
  unfold State.modCluPubs
  exact mem_foldl _ _ (fun s a => by simp) _

@[simp] theorem mem_dropPub (s : State) (t : Nat) : (s.dropPub t).mem = s.mem := by
  unfold State.dropPub
  simp

@[simp] theorem mem_wakeRoom (s : State) (ck : Nat) : (s.wakeRoom ck).mem = s.mem := by
  unfold State.wakeRoom
  split
  · exact mem_foldl _ _ (fun s c => mem_modThr ..) _
  · rfl

@[simp] theorem mem_stepAt (s : State) (ck : Nat) : (s.stepAt ck).mem = s.mem := rfl

/-- How a per-key step leaves memory in canonical form. -/
def KStep.Form : KStep → Prop
  | .moved t => memWf t.mem = true
  | .stalled t => memWf t.mem = true
  | .full t => memWf t.mem = true

@[simp] theorem form_moved (t : State) : (KStep.moved t).Form ↔ memWf t.mem = true := Iff.rfl

@[simp] theorem form_stalled (t : State) : (KStep.stalled t).Form ↔ memWf t.mem = true := Iff.rfl

@[simp] theorem form_full (t : State) : (KStep.full t).Form ↔ memWf t.mem = true := Iff.rfl

theorem form_mergeStep (s : State) (ck name : Nat) (h : memWf s.mem = true) : (s.mergeStep ck name).Form := by
  unfold State.mergeStep
  dsimp only
  split
  · exact h
  · split
    · split <;> exact h
    · split
      · exact h
      · split
        · exact h
        · simpa using h

theorem form_drainStep (s : State) (cl asid name : Nat) (h : memWf s.mem = true) : (s.drainStep cl asid name).Form := by
  unfold State.drainStep
  dsimp only
  split
  · exact h
  · exact h
  · split
    · split <;> simpa using h
    · split <;> simpa using h

theorem form_settleStep (s : State) (die key : Nat) (h : memWf s.mem = true) : (s.settleStep die key).Form := by
  unfold State.settleStep
  dsimp only
  split
  · exact h
  · exact h
  · split
    · split <;> simp [h]
    · split <;> simp [h]

@[simp] theorem outForm_execBattenMergeStep (core : Nat) (s : State) (h : memWf s.mem = true) :
    OutForm (execBattenMergeStep core s) := by
  unfold execBattenMergeStep
  split
  · exact h
  · next n _ =>
    have k := form_mergeStep s core n h
    revert k
    cases s.mergeStep core n with
    | moved t => intro k; simpa using k
    | stalled t => intro k; simpa using k
    | full t => intro k; dsimp only; split <;> simpa using k

@[simp] theorem outForm_execPurlinDrainStep (cl : Nat) (s : State) (h : memWf s.mem = true) :
    OutForm (execPurlinDrainStep cl s) := by
  unfold execPurlinDrainStep
  split
  · exact h
  · next n _ =>
    have k := form_drainStep s cl (s.clusterAsid cl) n h
    revert k
    cases s.drainStep cl (s.clusterAsid cl) n with
    | moved t => intro k; simpa using k
    | stalled t => intro k; simpa using k
    | full t => intro k; dsimp only; split <;> simpa using k

@[simp] theorem outForm_execBeamSettleStep (die q : Nat) (s : State) (h : memWf s.mem = true) :
    OutForm (execBeamSettleStep die q s) := by
  unfold execBeamSettleStep
  split
  · next key r _ _ =>
    have k := form_settleStep s die key h
    revert k
    cases s.settleStep die key with
    | moved t => exact id
    | stalled t => exact id
    | full t => exact id
  · exact h

@[simp] theorem outForm_execBeamIdleSettle (die q : Nat) (s : State) (hm : memWf s.mem = true) :
    OutForm (execBeamIdleSettle die q s) := by
  unfold execBeamIdleSettle
  simp [hm]

@[simp] theorem outForm_execKeyUpd (x : VType) (e : BitVec 4) (d a b : Reg) (s : State) (h : memWf s.mem = true) :
    OutForm (execKeyUpd x e d a b s) := by
  unfold execKeyUpd
  dsimp only
  rw [outForm_finish h, holds_bind]
  refine holds_of_forall _ fun r => ?_
  split
  · trivial
  · split
    · split
      · trivial
      · exact h
    · split
      · exact h
      · simpa using h

@[simp] theorem mem_runReq (s : State) (r : Run) (status : Word) : (s.runReq r status).mem = s.mem := by
  unfold State.runReq
  simp

@[simp] theorem mem_runSet (s : State) (r : Run) (key : Nat) (v : Option (BitVec 128)) :
    (s.runSet r key v).mem = s.mem := by
  unfold State.runSet
  dsimp only
  split <;> simp

@[simp] theorem mem_setStall (s : State) (r : Run) (x : Option Stall) : (s.setStall r x).mem = s.mem := by
  unfold State.setStall
  split <;> simp

@[simp] theorem mem_roomIn (s : State) (r : Run) : (s.roomIn r).mem = s.mem := by
  cases r with
  | batten ck => exact mem_wakeRoom s ck
  | purlin cl => rfl
  | beam die => rfl
  | footing x => rfl

@[simp] theorem outForm_keyFix (s : State) (d a : Reg) (f : Run → Nat → Option Stall × Option (BitVec 128))
    (h : memWf s.mem = true) : OutForm (s.keyFix d a f) := by
  unfold State.keyFix
  rw [outForm_finish h]
  simp only [holds_bind]
  refine holds_of_forall _ fun r => holds_of_forall _ fun _ => ?_
  split
  · split <;> simpa using h
  · simpa using h

@[simp] theorem mem_restart (s : State) (r : Run) : (s.restart r).mem = s.mem := by
  unfold State.restart
  split <;> simp

@[simp] theorem outForm_execKeyResume (d a : Reg) (s : State) (h : memWf s.mem = true) : OutForm (execKeyResume d a s) := by
  unfold execKeyResume
  rw [outForm_finish h]
  simp only [holds_bind]
  refine holds_of_forall _ fun r => holds_of_forall _ fun _ => ?_
  split
  · simpa using h
  · simpa using h

/-! ### Ordering and atomics -/

theorem memWf_afterRel (s : State) (x : Scope) (f : State → State) (hf : ∀ t, memWf t.mem = true → memWf (f t).mem = true)
    (h : memWf s.mem = true) : memWf (s.afterRel x f).mem = true := by
  have hr := memWf_l1Release s s.ck h
  unfold State.afterRel
  dsimp only
  split
  · exact hf s h
  · split
    · exact hf _ hr
    · exact hr

@[simp] theorem mem_acqAct (s : State) (x : Scope) : (s.acqAct x).mem = s.mem := by
  unfold State.acqAct
  simp

@[simp] theorem outForm_execOrdRel (x : Scope) (s : State) (h : memWf s.mem = true) : OutForm (execOrdRel x s) :=
  memWf_afterRel s x _ (fun _ h => h) h

@[simp] theorem outForm_execOrdFence (x : Scope) (s : State) (h : memWf s.mem = true) : OutForm (execOrdFence x s) :=
  memWf_afterRel s x _ (fun _ h => by simpa using h) h

@[simp] theorem mem_homeVisit (s : State) (p : Part) (reply : Option Word) : (s.homeVisit p reply).mem = s.mem := by
  unfold State.homeVisit
  simp

@[simp] theorem memWf_writeHome (s : State) (ck : Nat) (p : Part) (v : Nat) (h : memWf s.mem = true) :
    memWf (s.writeHome ck p v).mem = true := by
  unfold State.writeHome
  simp [h]

@[simp] theorem outForm_execOrdStl (x : Scope) (sz : Size) (a b : Reg) (s : State) (h : memWf s.mem = true) :
    OutForm (execOrdStl x sz a b s) := by
  unfold execOrdStl
  dsimp only
  rw [outForm_finish h, holds_bind]
  refine holds_of_forall _ fun p => ?_
  split
  · split
    · trivial
    · exact memWf_afterRel s x _ (fun t ht => by simp [ht]) h
  · exact holds_storeFrom s _ _ _ _ h

@[simp] theorem outForm_amo (s : State) (x : AmoPlace) (d a b : Reg) (f : Nat → Nat → Nat → Nat → Nat)
    (h : memWf s.mem = true) : OutForm (s.amo x d a b f) := by
  unfold State.amo
  dsimp only
  rw [outForm_finish h, holds_bind]
  refine holds_of_forall _ fun p => ?_
  split <;> simp [h]

/-! ### Tiles and tenure -/

@[simp] theorem mem_modSli (s : State) (k : Nat) (f : Slice → Slice) : (s.modSli k f).mem = s.mem := rfl

@[simp] theorem memWf_giveUp (s : State) (ck : Nat) (ps : List Plane) (hm : memWf s.mem = true) :
    memWf (s.giveUp ck ps).mem = true := by
  unfold State.giveUp
  split <;> simp [hm]

@[simp] theorem mem_dropClean (s : State) (ck : Nat) (ps : List Plane) : (s.dropClean ck ps).mem = s.mem := rfl

@[simp] theorem mem_takeUp (s : State) (ck : Nat) (ps : List Plane) : (s.takeUp ck ps).mem = s.mem := rfl

@[simp] theorem memWf_giveUpEnt (s : State) (sl : Nat) (e : Tenure) (hm : memWf s.mem = true) :
    memWf (s.giveUpEnt sl e).mem = true := by
  unfold State.giveUpEnt
  split
  · simp [hm]
  · split <;> simp [hm]

@[simp] theorem mem_readHome (s : State) (t : Nat) (ps : List (Nat × Nat × Nat)) : (s.readHome t ps).mem = s.mem := by
  unfold State.readHome
  dsimp only
  repeat' split
  all_goals simp

@[simp] theorem mem_wakeHome (s : State) : (s.wakeHome).mem = s.mem := by
  unfold State.wakeHome
  exact mem_foldl _ _ (fun s a => by simp) _

@[simp] theorem memWf_freeEnts (s : State) (sl : Nat) (p : Tenure → Bool) (h : memWf s.mem = true) :
    memWf (s.freeEnts sl p).mem = true := by
  have hk : memWf (((s.sli sl).ents.filter p).foldl (fun s e => s.giveUpEnt sl e) s).mem = true :=
    memWf_foldl _ _ (fun s e h => memWf_giveUpEnt s sl e h) s h
  unfold State.freeEnts
  simpa using hk

@[simp] theorem memWf_endTenures (s : State) (t : Nat) (hm : memWf s.mem = true) :
    memWf (s.endTenures t).mem = true := by
  unfold State.endTenures
  exact memWf_foldl _ _ (fun s a h => by simp [h]) _ hm

theorem mem_recallOne {s t : State} {sl : Nat} {q : TenReq} {i : Nat} {e : Tenure} (h : s.recallOne sl q i e = some t) :
    t.mem = s.mem := by
  unfold State.recallOne at h
  dsimp only at h
  split at h
  · cases h
  · exact Option.some.inj h ▸ rfl

@[simp] theorem mem_recallAll (s : State) (sl : Nat) (q : TenReq) (l : Nat) : (s.recallAll sl q l).1.mem = s.mem := by
  induction l generalizing s with
  | zero => rfl
  | succ n ih =>
    unfold State.recallAll
    split
    · rfl
    · split
      · rfl
      · next t ht => exact (ih t).trans (mem_recallOne ht)

@[simp] theorem mem_recallFor (s : State) (sl k : Nat) : (s.recallFor sl k).mem = s.mem := by
  unfold State.recallFor
  split <;> simp

@[simp] theorem mem_grantAt (s : State) (sl k : Nat) : (s.grantAt sl k).mem = s.mem := by
  unfold State.grantAt
  repeat' split
  all_goals simp

@[simp] theorem mem_answerReq (s : State) (t die : Nat) (v : Word) : (s.answerReq t die v).mem = s.mem := by
  unfold State.answerReq
  split <;> simp

@[simp] theorem mem_endTenureWait (s : State) (sl t : Nat) (status : Word) :
    (s.endTenureWait sl t status).mem = s.mem := by
  unfold State.endTenureWait
  simp

@[simp] theorem outForm_execTenureGrant (sl : Nat) (s : State) (hm : memWf s.mem = true) :
    OutForm (execTenureGrant sl s) := by
  unfold execTenureGrant
  repeat' split
  all_goals simp [hm]

@[simp] theorem mem_setEntSt (s : State) (sl : Nat) (e : Tenure) (st : TenSt) : (s.setEntSt sl e st).mem = s.mem := by
  unfold State.setEntSt
  simp

@[simp] theorem memWf_revoke (s : State) (sl : Nat) (e : Tenure) (hm : memWf s.mem = true) :
    memWf (s.revoke sl e).mem = true := by
  unfold State.revoke
  simp [hm]

@[simp] theorem outForm_execRecallDeadlineExpiry (sl : Nat) (s : State) (hm : memWf s.mem = true) :
    OutForm (execRecallDeadlineExpiry sl s) := by
  unfold execRecallDeadlineExpiry
  split <;> simp [hm]

@[simp] theorem memWf_revokeBytes (s : State) (asid va n : Nat) (h : memWf s.mem = true) :
    memWf (s.revokeBytes asid va n).mem = true := by
  refine memWf_foldl _ _ (fun s sl h => memWf_foldl _ _ (fun s e h => memWf_foldl _ _ (fun s f h => ?_) s h) s h) s h
  exact (congrArg (memWf · = true) (mem_postHw ..)).mpr (memWf_revoke s sl f h)

@[simp] theorem mem_tileReq (s : State) (sl : Nat) (reply : Option Word) : (s.tileReq sl reply).mem = s.mem := by
  unfold State.tileReq
  simp

@[simp] theorem mem_joinQueue (s : State) (sl : Nat) (q : TenReq) : (s.joinQueue sl q).2.mem = s.mem := by
  unfold State.joinQueue
  dsimp only
  split
  · rfl
  · exact mem_recallFor ..

@[simp] theorem outForm_execTilAcq (x : AcqMode) (e : BitVec 4) (d a b : Reg) (s : State) (h : memWf s.mem = true) :
    OutForm (execTilAcq x e d a b s) := by
  unfold execTilAcq
  rw [outForm_finish h, holds_bind]
  refine holds_of_forall _ fun r => ?_
  dsimp only
  split
  · exact h
  · split
    · simpa using h
    · split <;> simpa using h

@[simp] theorem outForm_execTilRel (d a b : Reg) (s : State) (h : memWf s.mem = true) : OutForm (execTilRel d a b s) := by
  unfold execTilRel
  rw [outForm_finish h, holds_bind]
  refine holds_of_forall _ fun r => ?_
  dsimp only
  split
  · simpa using h
  · simpa using memWf_freeEnts s _ _ h

@[simp] theorem mem_enterRec (s : State) (sl : Nat) (r : TileRec) (free : List Nat) :
    (s.enterRec sl r free).2.mem = s.mem := rfl

@[simp] theorem outForm_execTilOpen (e : BitVec 4) (d a : Reg) (s : State) (h : memWf s.mem = true) :
    OutForm (execTilOpen e d a s) := by
  unfold execTilOpen
  rw [outForm_finish h]
  simp only [holds_bind]
  refine holds_of_forall _ fun la => holds_of_forall _ fun _ => holds_of_forall _ fun _ => holds_of_forall _ fun _ => ?_
  split
  · trivial
  · refine (holds_bind ..).mpr (holds_of_forall _ fun _ => ?_)
    split
    · simp [h]
    · simpa using h

@[simp] theorem mem_wakeOpens (s : State) (sl : Nat) : (s.wakeOpens sl).mem = s.mem := by
  unfold State.wakeOpens
  simp

theorem holds_homeParts (s : State) (ck off : Nat) (ps : List Part) (h : memWf s.mem = true) :
    Holds (fun r => memWf r.2.mem = true) (s.homeParts ck off ps) := by
  induction ps generalizing s off with
  | nil => exact h
  | cons p r ih =>
    unfold State.homeParts
    split
    · trivial
    · exact (holds_bind ..).mpr (ih _ _ (by simpa using h))

/-- How a load of TILED bytes leaves memory in canonical form. -/
def TileLoad.Form : TileLoad → Prop
  | .value _ t => memWf t.mem = true
  | .waits _ => True

theorem holds_tiledLoad (s : State) (ck : Nat) (ps : List Part) (h : memWf s.mem = true) :
    Holds TileLoad.Form (s.tiledLoad ck ps) := by
  have hh : Holds TileLoad.Form (do
      let (v, s) ← s.homeParts ck 0 ps
      .ok (.value v s)) := (holds_bind ..).mpr (holds_homeParts s ck 0 ps h)
  unfold State.tiledLoad
  dsimp only
  split
  · split
    · trivial
    · exact hh
  · refine (holds_bind ..).mpr (holds_of_forall _ fun r => ?_)
    split
    · exact (holds_bind ..).mpr (holds_loadParts ck ps h)
    · split
      · trivial
      · exact hh

@[simp] theorem mem_homeWait (s : State) (d : Reg) (ps : List (Nat × Nat × Nat)) : (s.homeWait d ps).mem = s.mem := by
  unfold State.homeWait
  simp

@[simp] theorem outForm_execLdTiled (sz : Size) (d a : Reg) (off : BitVec 11) (s : State) (h : memWf s.mem = true) :
    OutForm (execLdTiled sz d a off s) := by
  unfold execLdTiled
  rw [outForm_finish h]
  simp only [holds_bind]
  refine holds_of_forall _ fun ps => holds_imp (holds_tiledLoad s s.ck ps h) fun r hr => ?_
  cases r with
  | value v t => simpa using (show memWf t.mem = true from hr)
  | waits ws => simpa using h

theorem holds_loadPart {s : State} (ck : Nat) (p : Part) (h : memWf s.mem = true) :
    Holds (fun r => memWf r.2.mem = true) (s.loadPart ck p) :=
  holds_iff.mpr fun _ e => memKept_loadPart e h

theorem holds_xferRead (s : State) (c : Core) (l : List (Part × Nat)) (h : memWf s.mem = true) :
    Holds (fun r => memWf r.2.mem = true) (s.xferRead c l) := by
  induction l generalizing s c with
  | nil => exact h
  | cons x r ih => exact (holds_bind ..).mpr (holds_imp (holds_loadPart s.ck x.1 h) fun y hy => ih _ _ hy)

@[simp] theorem memWf_xferWrite (s : State) (l : List (Part × Nat)) (h : memWf s.mem = true) :
    memWf (s.xferWrite l).mem = true := by
  induction l generalizing s with
  | nil => exact h
  | cons x r ih =>
    refine ih _ ?_
    split
    · exact memWf_storeWhole s _ _ _ h
    · exact memWf_storePartial s _ _ _ h

@[simp] theorem mem_fillFrom (s : State) (img : Core) (l : List Nat) : (s.fillFrom img l).mem = s.mem := by
  induction l generalizing s with
  | nil => rfl
  | cons w r ih => exact (ih _).trans (mem_arriveWord ..)

@[simp] theorem outForm_execTilGet (d a b : Reg) (s : State) (h : memWf s.mem = true) : OutForm (execTilGet d a b s) := by
  unfold execTilGet
  rw [outForm_finish h, holds_bind]
  refine holds_of_forall _ fun r => ?_
  dsimp only
  split
  · exact h
  · simp only [holds_bind]
    refine holds_of_forall _ fun x => holds_of_forall _ fun ps => holds_of_forall _ fun _ =>
      holds_imp (holds_xferRead s s.co _ h) fun y hy => ?_
    simpa using hy

@[simp] theorem outForm_execTilPut (d a b : Reg) (s : State) (h : memWf s.mem = true) : OutForm (execTilPut d a b s) := by
  unfold execTilPut
  rw [outForm_finish h, holds_bind]
  refine holds_of_forall _ fun r => ?_
  dsimp only
  split
  · exact h
  · simp only [holds_bind]
    refine holds_of_forall _ fun x => holds_of_forall _ fun ps => ?_
    split
    · trivial
    · simpa using memWf_xferWrite s _ h

/-! ### Quantising forms -/

@[simp] theorem mem_keepTabs (s : State) : (s.keepTabs).mem = s.mem := rfl

@[simp] theorem outForm_finishBlock {s : State} {r : Except Stop State} (h : memWf s.mem = true) :
    OutForm (finishBlock s r) ↔ Holds (fun t => memWf t.mem = true) r := by
  unfold finishBlock
  split
  · exact outForm_finish h
  · exact outForm_finish h

@[simp] theorem mem_qstDone (s : State) (nan : Bool) : (s.qstDone nan).mem = s.mem := by
  unfold State.qstDone
  simp

@[simp] theorem holds_writeBlock (s : State) (x : BlockAt) (w : BlkW) (hd pay : Nat) (nan : Bool)
    (h : memWf s.mem = true) : Holds (fun t => memWf t.mem = true) (s.writeBlock x w hd pay nan) := by
  unfold State.writeBlock
  simp only [holds_bind]
  refine holds_of_forall _ fun p => holds_of_forall _ fun q => holds_imp (holds_storeParts s.ck _ _ _ h) fun r hr => ?_
  split
  · simpa using hr
  · refine (holds_bind ..).mpr (holds_imp (holds_storeParts s.ck _ _ _ hr) fun r hr => ?_)
    split <;> simpa using hr

@[simp] theorem holds_writeScrBlock (s : State) (x : BlockAt) (w : BlkW) (hd pay : Nat) (nan : Bool)
    (hm : memWf s.mem = true) :
    Holds (fun t => memWf t.mem = true) (s.writeScrBlock x w hd pay nan) := by
  unfold State.writeScrBlock
  dsimp only
  split <;> simp [hm]

@[simp] theorem holds_blLanes (s : State) (w : BlkW) (d : Reg) (hdr : Word) (h pay : Nat) (hm : memWf s.mem = true) :
    Holds (fun t => memWf t.mem = true) (s.blLanes w d hdr h pay) := by
  unfold State.blLanes
  split
  · trivial
  · exact hm

theorem holds_blockLoad (s : State) (p : Part) (h : memWf s.mem = true) : Holds TileLoad.Form (s.blockLoad p) := by
  unfold State.blockLoad
  split
  · exact holds_tiledLoad s s.ck [p] h
  · exact (holds_bind ..).mpr (holds_loadParts s.ck [p] h)

@[simp] theorem holds_blVirtual (s : State) (w : BlkW) (d : Reg) (x : BlockAt) (h : memWf s.mem = true) :
    Holds (fun t => memWf t.mem = true) (s.blVirtual w d x) := by
  unfold State.blVirtual
  extract_lets low
  refine (holds_bind ..).mpr (holds_of_forall _ fun p => (holds_bind ..).mpr (holds_of_forall _ fun q => ?_))
  extract_lets ps home
  rw [holds_ite]
  split
  · simpa using h
  · refine (holds_bind ..).mpr (holds_imp (holds_blockLoad s _ h) fun r hr => ?_)
    cases r with
    | waits ws => simpa using h
    | value u t =>
      refine (holds_bind ..).mpr (holds_imp (holds_blockLoad t _ hr) fun r hr => ?_)
      cases r with
      | waits ws => simpa using h
      | value v t => exact holds_blLanes t _ _ _ _ _ hr

/-! ### Messages -/

@[simp] theorem mem_returnPermits (s : State) (t : Nat) : (s.returnPermits t).mem = s.mem := by
  unfold State.returnPermits
  exact mem_foldl _ _ (fun s a => by simp) _

@[simp] theorem mem_takeNow (s : State) (m : Msg) (rest : List Msg) (at_ : Nat) :
    (s.takeNow m rest at_).mem = s.mem := by
  unfold State.takeNow
  simp

@[simp] theorem outForm_execMsgRecv (e : BitVec 4) (d a b : Reg) (s : State) (hm : memWf s.mem = true) :
    OutForm (execMsgRecv e d a b s) := by
  unfold execMsgRecv
  dsimp only
  split <;> simp [hm]

@[simp] theorem holds_waitOn (s : State) (mask : Nat) (d : Reg) (e : BitVec 4) (hm : memWf s.mem = true) :
    Holds (fun t => memWf t.mem = true) (s.waitOn mask d e) := by
  unfold State.waitOn
  split <;> simp [hm]

@[simp] theorem mem_wakePermit (s : State) (t : Nat) : (s.wakePermit t).mem = s.mem := by
  unfold State.wakePermit
  simp

@[simp] theorem mem_waitQueued (s : State) (ck : Nat) (p : Post) : (s.waitQueued ck p).mem = s.mem := rfl

@[simp] theorem mem_ackSend (s : State) (ck : Nat) (p : Post) : (s.ackSend ck p).mem = s.mem := by
  unfold State.ackSend
  simp

@[simp] theorem mem_reach (s : State) (ck : Nat) (p : Post) : (s.reach ck p).mem = s.mem := by
  unfold State.reach
  simp

@[simp] theorem mem_serviceReceives (s : State) (p : Post) : (s.serviceReceives p).mem = s.mem := by
  unfold State.serviceReceives
  split <;> simp

@[simp] theorem mem_deliver (s : State) (p : Post) : (s.deliver p).mem = s.mem := by
  unfold State.deliver
  split <;> simp

@[simp] theorem outForm_execTrapQueueDelivery (die : Nat) (s : State) (hm : memWf s.mem = true) :
    OutForm (execTrapQueueDelivery die s) := by
  unfold execTrapQueueDelivery
  split <;> simp [hm]

/-! ### Cluster units -/

@[simp] theorem mem_wakeCore (s : State) (ck : Nat) (p : WaitKind → Bool) : (s.wakeCore ck p).mem = s.mem := by
  unfold State.wakeCore
  simp

@[simp] theorem mem_wakeArrivals (s : State) (cl : Nat) : (s.wakeArrivals cl).mem = s.mem := by
  unfold State.wakeArrivals
  exact mem_foldl _ _ (fun s a => by simp) _

@[simp] theorem mem_withdrawArrival (s : State) (t : Nat) : (s.withdrawArrival t).mem = s.mem := by
  unfold State.withdrawArrival
  simp

@[simp] theorem mem_endArrival (s : State) (x : GangArr) (status : Word) : (s.endArrival x status).mem = s.mem := by
  unfold State.endArrival
  simp

@[simp] theorem mem_pegJoin (s : State) (cl : Nat) (xs : List GangArr) : (s.pegJoin cl xs).mem = s.mem := by
  unfold State.pegJoin
  dsimp only
  split
  · simp [mem_foldl]
  · split <;> simp [mem_foldl]

@[simp] theorem mem_arrive (s : State) (x : GangArr) (e : BitVec 4) : (s.arrive x e).mem = s.mem := by
  unfold State.arrive
  simp

@[simp] theorem outForm_execGangMm (e : BitVec 4) (d a : Reg) (s : State) (hm : memWf s.mem = true) :
    OutForm (execGangMm e d a s) := by
  unfold execGangMm
  split <;> simp [hm]

@[simp] theorem outForm_accForm (s : State) (a : Nat) (f : State) (h : memWf s.mem = true) (hf : memWf f.mem = true) :
    OutForm (s.accForm a f) := by
  unfold State.accForm
  split
  · exact h
  · exact hf

@[simp] theorem mem_rdacc (s : State) (d a : Reg) : (s.rdacc d a).mem = s.mem := rfl

@[simp] theorem mem_wracc (s : State) (d a : Reg) : (s.wracc d a).mem = s.mem := by
  unfold State.wracc
  simp

@[simp] theorem mem_zacc (s : State) (a : Reg) : (s.zacc a).mem = s.mem := rfl

@[simp] theorem mem_accGo (s : State) (t : Nat) : (s.accGo t).mem = s.mem := by
  unfold State.accGo
  split <;> simp

@[simp] theorem mem_accDone (s : State) (ck a : Nat) : (s.accDone ck a).mem = s.mem := by
  unfold State.accDone
  exact mem_foldl _ _ (fun s a => by simp) _

@[simp] theorem outForm_execGangPartComplete (cl p : Nat) (s : State) (hm : memWf s.mem = true) :
    OutForm (execGangPartComplete cl p s) := by
  unfold execGangPartComplete
  dsimp only
  repeat' split
  all_goals simp [hm]

@[simp] theorem mem_scanInto (s : State) (d : Reg) (list : Nat) (js : List Nat) :
    (s.scanInto d list js).mem = s.mem := rfl

@[simp] theorem outForm_execSprsS24 (x : ElemTy) (d a : Reg) (s : State) (hm : memWf s.mem = true) :
    OutForm (execSprsS24 x d a s) := by
  unfold execSprsS24
  dsimp only
  split <;> simp [hm]

/-! ### Copies and pins -/

@[simp] theorem outForm_execCpySlot (d a b : Reg) (s : State) (hm : memWf s.mem = true) :
    OutForm (execCpySlot d a b s) := by
  unfold execCpySlot
  split <;> simp [hm]

@[simp] theorem outForm_execCpyFree (d a : Reg) (s : State) (hm : memWf s.mem = true) :
    OutForm (execCpyFree d a s) := by
  unfold execCpyFree
  dsimp only
  split <;> simp [hm]

@[simp] theorem memWf_beforeCopy (s : State) (c : Copy) (h : memWf s.mem = true) : memWf (s.beforeCopy c).mem = true := by
  unfold State.beforeCopy
  refine memWf_wtDrain _ _ ?_
  split
  · exact h
  · refine memWf_foldl _ _ (fun s p h => memWf_foldl _ _ (fun s i h => ?_) s h) s h
    split
    · exact memWf_l1Clean s _ _ h
    · exact h

@[simp] theorem mem_offerCopy (s : State) (e : BitVec 4) (d : Reg) (c : Copy) : (s.offerCopy e d c).mem = s.mem := by
  unfold State.offerCopy
  simp

@[simp] theorem memWf_copyWord (s : State) (c : Copy) (hm : memWf s.mem = true) : memWf (s.copyWord c).mem = true := by
  unfold State.copyWord
  split <;> simp [hm]

@[simp] theorem memWf_copyWords (s : State) (c : Copy) (n : Nat) (h : memWf s.mem = true) :
    memWf (s.copyWords c n).1.mem = true := by
  induction n generalizing s c with
  | zero => exact h
  | succ n ih =>
    unfold State.copyWords
    split
    · exact ih _ _ (memWf_copyWord s c h)
    · exact h

@[simp] theorem mem_copyNotice (s : State) (c : Copy) (status pa : Nat) : (s.copyNotice c status pa).mem = s.mem := by
  unfold State.copyNotice
  simp

@[simp] theorem mem_endCopy (s : State) (c : Copy) (status pa : Nat) : (s.endCopy c status pa).mem = s.mem := by
  unfold State.endCopy
  simp

@[simp] theorem mem_wakeWhere (s : State) (p : Nat → WaitKind → Bool) : (s.wakeWhere p).mem = s.mem := by
  unfold State.wakeWhere
  simp

@[simp] theorem mem_wakeCopies (s : State) (die unit : Nat) : (s.wakeCopies die unit).mem = s.mem := rfl

@[simp] theorem outForm_execCopyCompletion (die unit : Nat) (s : State) (h : memWf s.mem = true) :
    OutForm (execCopyCompletion die unit s) := by
  unfold execCopyCompletion
  split
  · exact h
  · next c r _ =>
    rw [outForm_next, mem_wakeCopies]
    split
    · simpa using h
    · have k := memWf_copyWords _ c (c.len / 8 - c.written)
        (memWf_beforeCopy (s.modDie die fun d => d.setCopyQ unit r) c h)
      split <;> next e => rw [e] at k; simpa using k

@[simp] theorem memWf_settleCopy (s : State) (c : Copy) (pa n : Nat) (h : memWf s.mem = true) :
    memWf (s.settleCopy c pa n).1.mem = true := by
  unfold State.settleCopy
  split
  · exact h
  · split
    · simpa using h
    · dsimp only
      have k := memWf_copyWords _ c (Config.copiedPart s.draw.1 % (c.len / 8 - c.written + 1))
        (memWf_beforeCopy s.draw.2 c h)
      split
      · next e => rw [e] at k; simpa using k
      · next e =>
        rw [e] at k
        split
        · exact k
        · simpa using k

@[simp] theorem memWf_settleQueue (s : State) (pa n : Nat) (l : List Copy) (h : memWf s.mem = true) :
    memWf (s.settleQueue pa n l).1.mem = true := by
  induction l generalizing s with
  | nil => exact h
  | cons c r ih => exact ih _ (memWf_settleCopy s c pa n h)

@[simp] theorem memWf_settleCopies (s : State) (pa n : Nat) (h : memWf s.mem = true) :
    memWf (s.settleCopies pa n).mem = true := by
  refine memWf_foldl _ _ (fun s die h => memWf_foldl _ _ (fun s u h => ?_) s h) s h
  simpa using memWf_settleQueue s pa n ((s.die die).copyQ u) h

@[simp] theorem mem_pinLine (s : State) (l : Nat × Nat) : (s.pinLine l).mem = s.mem := by
  unfold State.pinLine
  simp

@[simp] theorem outForm_execCpyPin (d a b : Reg) (s : State) (h : memWf s.mem = true) : OutForm (execCpyPin d a b s) := by
  unfold execCpyPin
  dsimp only
  rw [outForm_finish h]
  simp only [holds_bind]
  refine holds_of_forall _ fun _ => holds_of_forall _ fun ps => ?_
  split
  · exact h
  · split
    · exact h
    · simpa [mem_foldl] using h

@[simp] theorem mem_unpinNotices (s : State) (ck pa n : Nat) (c : Core) : (s.unpinNotices ck pa n c).mem = s.mem := by
  unfold State.unpinNotices
  exact mem_foldl _ _ (fun s a => by simp) _

@[simp] theorem mem_unpinRange (s : State) (pa n : Nat) : (s.unpinRange pa n).mem = s.mem := by
  unfold State.unpinRange
  simp [mem_foldl]

/-! ### Fetch -/

@[simp] theorem mem_issueAs (s : State) (ck c : Nat) : (s.issueAs ck c).mem = s.mem := rfl

/-! ### Page walks and instruction lines -/

@[simp] theorem mem_endWalk (s : State) (t : Nat) : (s.endWalk t).mem = s.mem := rfl

@[simp] theorem mem_walkRead (ck : Nat) (s : State) (a : Nat) : (State.walkRead ck s a).mem = s.mem := by
  unfold State.walkRead
  simp

@[simp] theorem outForm_execPageWalkComplete (t : Nat) (s : State) (h : memWf s.mem = true) :
    OutForm (execPageWalkComplete t s) := by
  unfold execPageWalkComplete
  split
  · exact h
  · split
    · exact h
    · dsimp only
      rw [outForm_next]
      split <;> simpa [mem_foldl] using h

@[simp] theorem mem_icacheSet (s : State) (ck line : Nat) (l : List (Option (BitVec 32))) :
    (s.icacheSet ck line l).mem = s.mem := by
  unfold State.icacheSet
  simp

@[simp] theorem outForm_execIcacheMissFill (t : Nat) (s : State) (hm : memWf s.mem = true) :
    OutForm (execIcacheMissFill t s) := by
  unfold execIcacheMissFill
  repeat' split
  all_goals simp [hm]

@[simp] theorem mem_returnReply (s : State) (core die q : Nat) : (s.returnReply core die q).mem = s.mem := by
  unfold State.returnReply
  split <;> simp

@[simp] theorem mem_resentArrives (s : State) (core : Nat) : (s.resentArrives core).mem = s.mem := by
  unfold State.resentArrives
  split <;> simp

@[simp] theorem outForm_execFlitCheckFailure (core die : Nat) (s : State) (hm : memWf s.mem = true) :
    OutForm (execFlitCheckFailure core die s) := by
  unfold execFlitCheckFailure
  simp [hm]

@[simp] theorem outForm_execMscFilterClear (die : Nat) (s : State) (hm : memWf s.mem = true) :
    OutForm (execMscFilterClear die s) := by
  unfold execMscFilterClear
  simp [hm]

/-! ### Groups and quiescence -/

@[simp] theorem mem_crossBack (s : State) (t die : Nat) (d : Reg) (v : Word) : (s.crossBack t die d v).mem = s.mem := by
  unfold State.crossBack
  simp

@[simp] theorem mem_phaseDone (s : State) (t g : Nat) (d : Reg) (wide : Bool) :
    (s.phaseDone t g d wide).mem = s.mem := by
  unfold State.phaseDone
  simp

@[simp] theorem mem_setGroup (s : State) (g : Nat) (r : Group × Bool) : (s.setGroup g r).mem = s.mem := by
  unfold State.setGroup
  dsimp only
  split
  · simp [mem_foldl]
  · rfl

@[simp] theorem mem_leaveGroup (s : State) (t g : Nat) : (s.leaveGroup t g).mem = s.mem := by
  unfold State.leaveGroup
  repeat' split
  all_goals simp

@[simp] theorem mem_setGroupOf (s : State) (t g : Nat) (arrives : Bool) (r : Group × Bool) :
    (s.setGroupOf t g arrives r).mem = s.mem := by
  unfold State.setGroupOf
  simp

@[simp] theorem mem_sendGroup (s : State) (t g : Nat) (op : GroupOp) : (s.sendGroup t g op).mem = s.mem := rfl

@[simp] theorem mem_leaveGroups (s : State) (t : Nat) : (s.leaveGroups t).mem = s.mem := by
  unfold State.leaveGroups
  exact mem_foldl _ _ (fun s a => by simp) _

@[simp] theorem mem_answerGroup (s : State) (t die : Nat) (v : Word) : (s.answerGroup t die v).mem = s.mem := by
  unfold State.answerGroup
  simp

@[simp] theorem mem_groupArrives (s : State) (ck : Nat) (q : GroupReq) : (s.groupArrives ck q).mem = s.mem := by
  unfold State.groupArrives
  dsimp only
  repeat' split
  all_goals simp

@[simp] theorem outForm_execHomeRequestArrival (core : Nat) (s : State) (hm : memWf s.mem = true) :
    OutForm (execHomeRequestArrival core s) := by
  unfold execHomeRequestArrival
  split
  · simp [hm]
  · split <;> simp [hm]

@[simp] theorem mem_groupForm (s : State) (d : Reg) (g : Nat) (arrives : Bool) :
    (s.groupForm d g arrives).mem = s.mem := by
  unfold State.groupForm
  repeat' split
  all_goals simp

@[simp] theorem outForm_execGrpArrive (x : Scope) (d a : Reg) (s : State) (h : memWf s.mem = true) :
    OutForm (execGrpArrive x d a s) := by
  unfold execGrpArrive
  rw [outForm_finish h, holds_bind]
  exact holds_of_forall _ fun g => memWf_afterRel s x _ (fun t ht => by simpa using ht) h

@[simp] theorem outForm_execGrpDrop (x : Scope) (d a : Reg) (s : State) (h : memWf s.mem = true) :
    OutForm (execGrpDrop x d a s) := by
  unfold execGrpDrop
  rw [outForm_finish h, holds_bind]
  exact holds_of_forall _ fun g => memWf_afterRel s x _ (fun t ht => by simpa using ht) h

@[simp] theorem outForm_execGrpWait (x : Scope) (e : BitVec 4) (d a b : Reg) (s : State) (h : memWf s.mem = true) :
    OutForm (execGrpWait x e d a b s) := by
  unfold execGrpWait
  dsimp only
  rw [outForm_finish h, holds_bind]
  refine holds_of_forall _ fun r => ?_
  obtain ⟨g, r⟩ := r
  cases r with
  | none => exact h
  | some y => dsimp only; split <;> simpa using h

@[simp] theorem outForm_execGrpInfo (d a : Reg) (s : State) (h : memWf s.mem = true) : OutForm (execGrpInfo d a s) := by
  unfold execGrpInfo
  rw [outForm_finish h, holds_bind]
  refine holds_of_forall _ fun r => ?_
  obtain ⟨g, r⟩ := r
  cases r <;> simpa using h

@[simp] theorem mem_modLaunch (s : State) (lid : Nat) (f : Launch → Launch) : (s.modLaunch lid f).mem = s.mem := rfl

@[simp] theorem outForm_execGrpQuiet (e : BitVec 4) (d : Reg) (s : State) (hm : memWf s.mem = true) :
    OutForm (execGrpQuiet e d s) := by
  unfold execGrpQuiet
  split <;> simp [hm]

@[simp] theorem outForm_execQuiescenceWave (lid : Nat) (s : State) (h : memWf s.mem = true) :
    OutForm (execQuiescenceWave lid s) := by
  unfold execQuiescenceWave
  dsimp only
  split
  · exact h
  · split
    · simp [h]
    · simpa using h

@[simp] theorem mem_dropXpf (s : State) (lid : Nat) : (s.dropXpf lid).mem = s.mem := rfl

@[simp] theorem outForm_execPrefetchServe (die : Nat) (s : State) (hm : memWf s.mem = true) :
    OutForm (execPrefetchServe die s) := by
  unfold execPrefetchServe
  split <;> simp [hm]

@[simp] theorem outForm_execPrefetchDeadline (die : Nat) (s : State) (hm : memWf s.mem = true) :
    OutForm (execPrefetchDeadline die s) := by
  unfold execPrefetchDeadline
  simp [hm]

/-! ### Contexts -/

@[simp] theorem mem_withdraw (s : State) (t : Nat) : (s.withdraw t).mem = s.mem := by
  unfold State.withdraw
  dsimp only
  split <;> simp

@[simp] theorem mem_wakeSavers (s : State) (t : Nat) : (s.wakeSavers t).mem = s.mem := rfl

@[simp] theorem mem_endSavers (s : State) (t : Nat) : (s.endSavers t).mem = s.mem := by
  unfold State.endSavers
  simp

@[simp] theorem mem_modHome (s : State) (t : Nat) (f : Core → Core) : (s.modHome t f).mem = s.mem := by
  unfold State.modHome
  simp

@[simp] theorem mem_slotWrite (s : State) (t : Nat) (x : Thread) : (s.slotWrite t x).mem = s.mem := by
  unfold State.slotWrite
  simp

@[simp] theorem memWf_endThread (s : State) (t : Nat) (hm : memWf s.mem = true) : memWf (s.endThread t).mem = true := by
  unfold State.endThread
  split <;> simp [hm]

@[simp] theorem mem_foldl_modLaunch {α : Type} (l : List α) (t : State → α → Nat) (f : State → α → Launch → Launch)
    (s : State) : (l.foldl (fun s a => s.modLaunch (t s a) (f s a)) s).mem = s.mem :=
  mem_foldl l (fun s a => s.modLaunch (t s a) (f s a)) (fun _ _ => rfl) s

@[simp] theorem memWf_endSaved (s : State) (t : Nat) (h : memWf s.mem = true) : memWf (s.endSaved t).mem = true := by
  unfold State.endSaved
  simp [mem_foldl, h]

@[simp] theorem memWf_saveContext (s : State) (t : Nat) (hm : memWf s.mem = true) :
    memWf (s.saveContext t).mem = true := by
  unfold State.saveContext
  split <;> simp [hm]

@[simp] theorem outForm_execContextSaveComplete (t : Nat) (s : State) (hm : memWf s.mem = true) :
    OutForm (execContextSaveComplete t s) := by
  unfold execContextSaveComplete
  simp [hm]

@[simp] theorem memWf_restoreContext (s : State) (t : Nat) (hm : memWf s.mem = true) :
    memWf (s.restoreContext t).mem = true := by
  unfold State.restoreContext
  simp [hm]

@[simp] theorem outForm_execSaveDeferralReport (t : Nat) (s : State) (hm : memWf s.mem = true) :
    OutForm (execSaveDeferralReport t s) := by
  unfold execSaveDeferralReport
  split <;> simp [hm]

/-! ### Control flow -/

@[simp] theorem mem_jumpTo (s : State) (pc : Word) : (s.jumpTo pc).mem = s.mem := rfl

@[simp] theorem outForm_branch (s : State) (a b : Reg) (off : BitVec 13) (c : Word → Word → Bool)
    (hm : memWf s.mem = true) :
    OutForm (s.branch a b off c) := by
  unfold State.branch
  simp [hm]

@[simp] theorem mem_link (s : State) (d : Reg) (target : Word) : (s.link d target).mem = s.mem := rfl

/-! ### Launches -/

@[simp] theorem mem_setLq (s : State) (die slot : Nat) (r : LqRec) : (s.setLq die slot r).mem = s.mem := rfl

@[simp] theorem mem_mapDies (s : State) (f : Die → Die) : (s.mapDies f).mem = s.mem := rfl

@[simp] theorem mem_modRecs (s : State) (lid : Nat) (f : LqRec → LqRec) : (s.modRecs lid f).mem = s.mem := by
  unfold State.modRecs
  simp

@[simp] theorem mem_setLstate (s : State) (lid st : Nat) : (s.setLstate lid st).mem = s.mem := rfl

@[simp] theorem mem_endCmd (s : State) (cmd lid v : Nat) : (s.endCmd cmd lid v).mem = s.mem := by
  unfold State.endCmd
  simp

@[simp] theorem mem_stopLaunch (n : Nat) (s : State) (lid : Nat) : (stopLaunch n s lid).mem = s.mem := by
  induction n generalizing s lid with
  | zero => rfl
  | succ n ih =>
    unfold stopLaunch
    dsimp only
    exact mem_foldl _ _ (fun s d => (ih _ d).trans (mem_postService ..)) _

@[simp] theorem mem_stopped (s : State) (lid : Nat) : (s.stopped lid).mem = s.mem := by
  unfold State.stopped
  simp

@[simp] theorem mem_addPub (s : State) (ck : Nat) : (s.addPub ck).mem = s.mem := by
  unfold State.addPub
  simp

@[simp] theorem mem_startClear (s : State) (cl : Nat) : (s.startClear cl).mem = s.mem := by
  unfold State.startClear
  dsimp only
  split <;> simp [mem_foldl]

@[simp] theorem mem_startClears (s : State) (cls : List Nat) : (s.startClears cls).mem = s.mem := by
  unfold State.startClears
  exact mem_foldl _ _ (fun s a => by simp) _

@[simp] theorem mem_retag (s : State) (asid : Nat) (cls : List Nat) : (s.retag asid cls).mem = s.mem := by
  unfold State.retag
  simp

@[simp] theorem mem_startCore (s : State) (r : LqRec) (l : Launch) (ck i n : Nat) :
    (s.startCore r l ck i n).mem = s.mem := by
  unfold State.startCore
  simp

@[simp] theorem mem_startLaunch (s : State) (r : LqRec) : (s.startLaunch r).mem = s.mem := by
  unfold State.startLaunch
  dsimp only
  split
  · exact mem_startClears ..
  · simp [mem_foldl]

@[simp] theorem outForm_execLaunchStart (die : Nat) (s : State) (hm : memWf s.mem = true) :
    OutForm (execLaunchStart die s) := by
  unfold execLaunchStart
  split <;> simp [hm]

@[simp] theorem outForm_execMultiDieLaunchStart (s : State) (hm : memWf s.mem = true) :
    OutForm (execMultiDieLaunchStart s) := by
  unfold execMultiDieLaunchStart
  split <;> simp [hm]

@[simp] theorem outForm_execLaunchPriorityPromotion (die : Nat) (s : State) (hm : memWf s.mem = true) :
    OutForm (execLaunchPriorityPromotion die s) := by
  unfold execLaunchPriorityPromotion
  split <;> simp [hm]

@[simp] theorem memWf_flushCores (s : State) (cks : List Nat) (h : memWf s.mem = true) :
    memWf (s.flushCores cks).mem = true := by
  unfold State.flushCores
  exact memWf_foldl _ _ (fun s ck h => by simp [h]) _ h

theorem memWf_afterFlush (s : State) (lid : Nat) (f : State → State) (hf : ∀ t, memWf t.mem = true → memWf (f t).mem = true)
    (h : memWf s.mem = true) : memWf (s.afterFlush lid f).mem = true := by
  have hk := memWf_flushCores s (s.launchCores lid) h
  unfold State.afterFlush
  dsimp only
  split
  · split
    · exact h
    · exact hf s h
  · split
    · exact hk
    · exact hf _ hk

@[simp] theorem mem_handStall (s : State) (x : Option Stall) : (s.handStall x).mem = s.mem := by
  unfold State.handStall
  split <;> simp

@[simp] theorem mem_resetCore (s : State) (ck : Nat) : (s.resetCore ck).mem = s.mem := by
  unfold State.resetCore
  simp

@[simp] theorem mem_dropWaiting (s : State) (lid : Nat) : (s.dropWaiting lid).mem = s.mem := rfl

@[simp] theorem mem_releaseClaim (s : State) (lid : Nat) : (s.releaseClaim lid).mem = s.mem := by
  unfold State.releaseClaim
  simp

@[simp] theorem mem_emptyGroups (s : State) (l : Launch) (asid : Nat) : (s.emptyGroups l asid).mem = s.mem := by
  unfold State.emptyGroups
  exact mem_foldl _ _ (fun s a => by simp) _

@[simp] theorem mem_releaseLaunch (s : State) (lid : Nat) : (s.releaseLaunch lid).mem = s.mem := by
  unfold State.releaseLaunch
  simp

@[simp] theorem mem_endLaunch (s : State) (lid : Nat) : (s.endLaunch lid).mem = s.mem := by
  unfold State.endLaunch
  dsimp only
  split <;> simp [mem_foldl]

@[simp] theorem outForm_execLaunchEnd (lid : Nat) (s : State) (h : memWf s.mem = true) : OutForm (execLaunchEnd lid s) := by
  unfold execLaunchEnd
  rw [outForm_next, mem_ite]
  split
  · exact memWf_afterFlush s lid _ (fun t ht => by simpa using ht) h
  · exact h

@[simp] theorem mem_preempt (s : State) (lid : Nat) : (s.preempt lid).mem = s.mem := by
  unfold State.preempt
  simp

@[simp] theorem mem_modStack (s : State) (die i : Nat) (f : HbmStack → HbmStack) :
    (s.modStack die i f).mem = s.mem := rfl

@[simp] theorem mem_startDeferred (s : State) : (s.startDeferred).mem = s.mem := by
  unfold State.startDeferred
  exact mem_foldl _ _ (fun s a => by simp) _

@[simp] theorem mem_rename (s : State) (f : Nat → Nat) : (s.rename f).mem = s.mem := by
  unfold State.rename
  simp

@[simp] theorem memWf_saveCore (s : State) (lid ck : Nat) (h : memWf s.mem = true) : memWf (s.saveCore lid ck).mem = true := by
  unfold State.saveCore
  simp [h]

@[simp] theorem memWf_saveLaunch (s : State) (lid : Nat) (h : memWf s.mem = true) : memWf (s.saveLaunch lid).mem = true := by
  unfold State.saveLaunch
  simpa using memWf_foldl _ _ (fun s ck h => memWf_saveCore s lid ck h) s h

@[simp] theorem outForm_execLaunchSaveComplete (lid : Nat) (s : State) (h : memWf s.mem = true) :
    OutForm (execLaunchSaveComplete lid s) := by
  unfold execLaunchSaveComplete
  rw [outForm_next, mem_ite]
  split
  · exact memWf_afterFlush _ lid _ (fun t ht => memWf_saveLaunch t lid ht) h
  · exact h

@[simp] theorem memWf_reloadCore (s : State) (lid ck : Nat) (hm : memWf s.mem = true) :
    memWf (s.reloadCore lid ck).mem = true := by
  unfold State.reloadCore
  exact memWf_foldl _ _ (fun s a h => by simp [h]) _ hm

@[simp] theorem memWf_reload (s : State) (lid : Nat) (hm : memWf s.mem = true) : memWf (s.reload lid).mem = true := by
  unfold State.reload
  exact memWf_foldl _ _ (fun s a h => by simp [h]) _ hm

@[simp] theorem outForm_execLaunchResumeStart (lid : Nat) (s : State) (hm : memWf s.mem = true) :
    OutForm (execLaunchResumeStart lid s) := by
  unfold execLaunchResumeStart
  simp [hm]

@[simp] theorem mem_lqDone (s : State) (die v : Nat) : (s.lqDone die v).mem = s.mem := rfl

@[simp] theorem mem_lqSubmit (s : State) (die slot : Nat) : (s.lqSubmit die slot).mem = s.mem := by
  unfold State.lqSubmit
  simp

@[simp] theorem mem_lqPreempt (s : State) (die lid : Nat) : (s.lqPreempt die lid).mem = s.mem := by
  unfold State.lqPreempt
  simp

@[simp] theorem mem_lqResume (s : State) (die lid : Nat) : (s.lqResume die lid).mem = s.mem := by
  unfold State.lqResume
  simp

@[simp] theorem mem_reportBatten (s : State) (ck : Nat) (c : Core) : (s.reportBatten ck c).mem = s.mem := by
  unfold State.reportBatten
  exact mem_foldl _ _ (fun s a => by simp) _

@[simp] theorem memWf_discardImage (s : State) (lid : Nat) (h : memWf s.mem = true) :
    memWf (s.discardImage lid).mem = true := by
  have hk : memWf (((s.threads.map (·.1)).filter fun t => t / 2 ^ 20 == lid).foldl
      (fun s t => (s.endTenures t).dropCall t) s).mem = true := memWf_foldl _ _ (fun s t h => by simp [h]) s h
  unfold State.discardImage
  simpa [mem_foldl] using hk

@[simp] theorem memWf_stop (s : State) (lid : Nat) (h : memWf s.mem = true) : memWf (s.stop lid).mem = true := by
  unfold State.stop
  split
  · simpa using h
  · split
    · simp [h]
    · exact memWf_foldl _ _ (fun s t h => memWf_endThread s t h) s h

@[simp] theorem memWf_lqStop (s : State) (die lid : Nat) (hm : memWf s.mem = true) :
    memWf (s.lqStop die lid).mem = true := by
  unfold State.lqStop
  dsimp only
  split <;> simp [hm]

@[simp] theorem mem_lqFreeSlot (s : State) (die slot : Nat) : (s.lqFreeSlot die slot).mem = s.mem := by
  unfold State.lqFreeSlot
  simp

@[simp] theorem mem_storeCmd (s : State) (die cmd slot lid : Nat) : (s.storeCmd die cmd slot lid).mem = s.mem := rfl

@[simp] theorem outForm_execLqSubmit (die slot : Nat) (s : State) (hm : memWf s.mem = true) :
    OutForm (execLqSubmit die slot s) := by
  unfold execLqSubmit
  simp [hm]

@[simp] theorem outForm_execLqPreempt (die lid : Nat) (s : State) (hm : memWf s.mem = true) :
    OutForm (execLqPreempt die lid s) := by
  unfold execLqPreempt
  simp [hm]

@[simp] theorem outForm_execLqResume (die lid : Nat) (s : State) (hm : memWf s.mem = true) :
    OutForm (execLqResume die lid s) := by
  unfold execLqResume
  simp [hm]

@[simp] theorem outForm_execLqStop (die lid : Nat) (s : State) (hm : memWf s.mem = true) :
    OutForm (execLqStop die lid s) := by
  unfold execLqStop
  simp [hm]

@[simp] theorem outForm_execLqFree (die slot : Nat) (s : State) (hm : memWf s.mem = true) :
    OutForm (execLqFree die slot s) := by
  unfold execLqFree
  simp [hm]

/-! ### Pages -/

@[simp] theorem mem_freePages (s : State) (p : Nat → Bool) : (s.freePages p).mem = s.mem := rfl

theorem memWf_mapLeaf {s t : State} {die va level : Nat} {leaf : Word} {k table : Nat}
    (e : s.mapLeaf die va level leaf k table = some t) (h : memWf s.mem = true) : memWf t.mem = true := by
  induction k generalizing s table with
  | zero =>
    refine Option.some.inj e ▸ memWf_foldl _ _ (fun s j h => ?_) s h
    exact memWf_homeWrite s _ _ h
  | succ k ih =>
    unfold State.mapLeaf at e
    dsimp only at e
    split at e
    · exact ih e h
    · have ha := memWf_allocPage s die 4096 h
      split at e
      · next ea =>
        rw [ea] at ha
        exact ih e (memWf_homeWrite _ _ _ ha)
      · cases e

theorem memWf_mapFoot {s t : State} {root die va b c n : Nat} (e : s.mapFoot root die va b c n = some t)
    (h : memWf s.mem = true) : memWf t.mem = true := by
  induction n generalizing s va b with
  | zero => exact Option.some.inj e ▸ h
  | succ n ih =>
    unfold State.mapFoot at e
    split at e
    · next em => exact ih e (memWf_mapLeaf em h)
    · cases e

/-- `State.addFoot` for a number of pages and their size code. The kernel must not compute the two from `cap`. -/
def State.addFootPages (s : State) (asid region die n c : Nat) : Option State :=
  match s.spaces.find asid with
  | none => none
  | some sp =>
    if (sp.foots.find (region * 16 + die)).isSome then some s
    else
      match s.allocPage die (n * pageBytes c) with
      | (none, _) => none
      | (some b, s) =>
        match s.mapFoot sp.root die (footVa region die) b c n with
        | none => none
        | some s => some { s with spaces := s.spaces.set asid { sp with foots := sp.foots.set (region * 16 + die) b } }

theorem addFoot_eq (s : State) (asid region die cap : Nat) :
    s.addFoot asid region die cap = s.addFootPages asid region die (footPages cap) (footCode cap) := rfl

theorem memWf_addFootPages {s t : State} {asid region die n c : Nat} (e : s.addFootPages asid region die n c = some t)
    (h : memWf s.mem = true) : memWf t.mem = true := by
  unfold State.addFootPages at e
  split at e
  · cases e
  · split at e
    · exact Option.some.inj e ▸ h
    · have ha := memWf_allocPage s die (n * pageBytes c) h
      split at e
      · cases e
      · next ea =>
        rw [ea] at ha
        split at e
        · cases e
        · next v em =>
          have k : t.mem = v.mem := by rw [← Option.some.inj e]
          rw [k]
          exact memWf_mapFoot em ha

theorem memWf_addFoot {s t : State} {asid region die cap : Nat} (e : s.addFoot asid region die cap = some t)
    (h : memWf s.mem = true) : memWf t.mem = true :=
  memWf_addFootPages (addFoot_eq s asid region die cap ▸ e) h

theorem memWf_addFootsOn {s t : State} {asid region cap : Nat} {ds : List Nat}
    (e : s.addFootsOn asid region cap ds = some t) (h : memWf s.mem = true) : memWf t.mem = true := by
  induction ds generalizing s with
  | nil => exact Option.some.inj e ▸ h
  | cons d r ih =>
    unfold State.addFootsOn at e
    split at e
    · next ea => exact ih e (memWf_addFoot ea h)
    · cases e

theorem memWf_addFoots {s t : State} {asid : Nat} {rs : List (Nat × Region)} (e : s.addFoots asid rs = some t)
    (h : memWf s.mem = true) : memWf t.mem = true := by
  induction rs generalizing s with
  | nil => exact Option.some.inj e ▸ h
  | cons d r ih =>
    unfold State.addFoots at e
    split at e
    · next ea => exact ih e (memWf_addFootsOn ea h)
    · cases e

@[simp] theorem memWf_writeLeaf (s : State) (l : LeafAt) (e : Word) (hm : memWf s.mem = true) :
    memWf (s.writeLeaf l e).mem = true := by
  unfold State.writeLeaf
  exact memWf_foldl _ _ (fun s a h => by simp [h]) _ hm

@[simp] theorem mem_dropTlb (s : State) (asid base : Nat) : (s.dropTlb asid base).mem = s.mem := by
  unfold State.dropTlb
  simp

@[simp] theorem memWf_flushPage (s : State) (ck pa n : Nat) (h : memWf s.mem = true) :
    memWf (s.flushPage ck pa n).mem = true :=
  memWf_wtDrain _ ck (memWf_foldl _ _ (fun s l h => memWf_l1Clean s ck l h) s h)

@[simp] theorem memWf_unmapPage (s : State) (asid va : Nat) (l : LeafAt) (h : memWf s.mem = true) :
    memWf (s.unmapPage asid va l).mem = true := by
  refine memWf_revokeBytes _ _ _ _ (memWf_settleCopies _ _ _ ?_)
  rw [mem_unpinRange]
  exact memWf_foldl _ _ (fun s ck h => memWf_flushPage s ck _ _ h) _ (by simp [h])

@[simp] theorem mem_dropFoots (s : State) (asid pa n : Nat) : (s.dropFoots asid pa n).mem = s.mem := by
  unfold State.dropFoots
  split <;> simp

theorem memWf_allocPages (s : State) (p : Nat) (l : List (Nat × LeafAt)) (h : memWf s.mem = true) :
    memWf (s.allocPages p l).2.mem = true := by
  induction l generalizing s with
  | nil => exact h
  | cons x r ih =>
    have ha := memWf_allocPage s p (pageBytes (pteSize x.2.pte)) h
    unfold State.allocPages
    split
    · next ea => rw [ea] at ha; exact ha
    · next ea =>
      rw [ea] at ha
      have hr := ih _ ha
      split <;> next er => rw [er] at hr; exact hr

@[simp] theorem memWf_migratePage (s : State) (asid va b : Nat) (l : LeafAt) (h : memWf s.mem = true) :
    memWf (s.migratePage asid va b l).mem = true := by
  unfold State.migratePage
  dsimp only
  rw [mem_freePages]
  exact memWf_writeLeaf _ _ _ (memWf_movePage _ _ _ _ (memWf_unmapPage s asid va l h))

@[simp] theorem outForm_execUnmapMigrate (asid : Nat) (va : Word) (dest : Option Nat) (s : State)
    (h : memWf s.mem = true) : OutForm (execUnmapMigrate asid va dest s) := by
  unfold execUnmapMigrate
  split
  · exact h
  · next sp _ =>
    split
    · exact h
    · next l _ =>
      split
      · rw [outForm_next, mem_freePages]
        refine memWf_unmapPage _ _ _ _ ?_
        split
        · simpa using h
        · exact h
      · next p =>
        split
        · exact h
        · dsimp only
          have ha := memWf_allocPages s p (s.moveWith sp.root va.toNat l) h
          split
          · exact h
          · next ea =>
            rw [ea] at ha
            exact memWf_foldl _ _ (fun s x h => memWf_migratePage s asid _ _ _ h) _ ha

/-! ### The package -/

@[simp] theorem outForm_execDclkTargetWrite (die : Nat) (v : Word) (s : State) (hm : memWf s.mem = true) :
    OutForm (execDclkTargetWrite die v s) := by
  unfold execDclkTargetWrite
  simp [hm]

@[simp] theorem outForm_execClockRelockEnd (die : Nat) (s : State) (hm : memWf s.mem = true) :
    OutForm (execClockRelockEnd die s) := by
  unfold execClockRelockEnd
  split <;> simp [hm]

@[simp] theorem outForm_execThermalStepDown (die : Nat) (s : State) (hm : memWf s.mem = true) :
    OutForm (execThermalStepDown die s) := by
  unfold execThermalStepDown
  simp [hm]

@[simp] theorem outForm_execThermalRecovery (die : Nat) (s : State) (hm : memWf s.mem = true) :
    OutForm (execThermalRecovery die s) := by
  unfold execThermalRecovery
  simp [hm]

@[simp] theorem mem_retrain (s : State) (die stack rate : Nat) : (s.retrain die stack rate).mem = s.mem := by
  unfold State.retrain
  simp

@[simp] theorem outForm_execHbmRetrainRequest (die stack rate : Nat) (s : State) (hm : memWf s.mem = true) :
    OutForm (execHbmRetrainRequest die stack rate s) := by
  unfold execHbmRetrainRequest
  simp [hm]

@[simp] theorem mem_coolStack (s : State) (die stack : Nat) : (s.coolStack die stack).mem = s.mem := by
  unfold State.coolStack
  simp

@[simp] theorem mem_moveSaves (s : State) (die stack : Nat) : (s.moveSaves die stack).mem = s.mem := by
  unfold State.moveSaves
  simp

@[simp] theorem outForm_execRetrainDeferralExpiry (die stack : Nat) (s : State) (hm : memWf s.mem = true) :
    OutForm (execRetrainDeferralExpiry die stack s) := by
  unfold execRetrainDeferralExpiry
  simp [hm]

@[simp] theorem outForm_execHbmPhyError (die stack : Nat) (s : State) (hm : memWf s.mem = true) :
    OutForm (execHbmPhyError die stack s) := by
  unfold execHbmPhyError
  simp [hm]

@[simp] theorem outForm_execHbmRetrainEnd (die stack : Nat) (ok : Bool) (s : State) (hm : memWf s.mem = true) :
    OutForm (execHbmRetrainEnd die stack ok s) := by
  unfold execHbmRetrainEnd
  simp [hm]

@[simp] theorem outForm_execLinkRetrainFailure (link : Nat) (s : State) (h : memWf s.mem = true) :
    OutForm (execLinkRetrainFailure link s) :=
  memWf_foldl _ _ (fun s d h => by simpa using h) _ h

@[simp] theorem outForm_execCxlLinkDown (port : Nat) (s : State) (hm : memWf s.mem = true) :
    OutForm (execCxlLinkDown port s) := by
  unfold execCxlLinkDown
  simp [hm]

@[simp] theorem outForm_execPortDown (port : Nat) (s : State) (hm : memWf s.mem = true) :
    OutForm (execPortDown port s) := by
  unfold execPortDown
  simp [hm]

@[simp] theorem mem_damage (s : State) (die : Nat) : (s.damage die).mem = s.mem := by
  unfold State.damage
  simp

@[simp] theorem mem_losePeers (s : State) (die : Nat) : (s.losePeers die).mem = s.mem := by
  unfold State.losePeers
  simp

@[simp] theorem mem_stopQueued (s : State) (die : Nat) : (s.stopQueued die).mem = s.mem := by
  unfold State.stopQueued
  exact mem_foldl _ _ (fun s a => by simp) _

@[simp] theorem memWf_loseThread (s : State) (t : Nat) (h : memWf s.mem = true) : memWf (s.loseThread t).mem = true := by
  unfold State.loseThread
  split
  · exact memWf_endSaved s t h
  · exact memWf_foldl _ _ (fun s g h => by simpa using h) _ (memWf_endThread s t h)

@[simp] theorem mem_loseImages (s : State) (die : Nat) : (s.loseImages die).mem = s.mem := rfl

@[simp] theorem memWf_loseContexts (s : State) (die : Nat) (h : memWf s.mem = true) :
    memWf (s.loseContexts die).mem = true := by
  refine memWf_foldl _ State.loseThread (fun s t h => memWf_loseThread s t h) _ ?_
  exact h

theorem memWf_addFoot_getD (s : State) (asid region die cap : Nat) (h : memWf s.mem = true) :
    memWf ((s.addFoot asid region die cap).getD s).mem = true := by
  cases e : s.addFoot asid region die cap with
  | none => exact h
  | some t => exact memWf_addFoot e h

@[simp] theorem memWf_moveFoots (s : State) (h : memWf s.mem = true) : memWf s.moveFoots.mem = true :=
  memWf_foldl _ _ (fun s e h => memWf_foldl _ _ (fun s r h => memWf_foldl _ _
    (fun s d h => memWf_addFoot_getD s e.1 r.1 d r.2.cap h) s h) s h) s h

@[simp] theorem memWf_markOffline (s : State) (die : Nat) (hm : memWf s.mem = true) :
    memWf (s.markOffline die).mem = true := by
  unfold State.markOffline
  split <;> simp [hm]

@[simp] theorem outForm_execDieOfflineMark (die : Nat) (s : State) (hm : memWf s.mem = true) :
    OutForm (execDieOfflineMark die s) := by
  unfold execDieOfflineMark
  simp [hm]

@[simp] theorem outForm_execHeartbeatTimeout (die : Nat) (s : State) (hm : memWf s.mem = true) :
    OutForm (execHeartbeatTimeout die s) := by
  unfold execHeartbeatTimeout
  simp [hm]

@[simp] theorem outForm_execThermalOfflineTimeout (die : Nat) (s : State) (hm : memWf s.mem = true) :
    OutForm (execThermalOfflineTimeout die s) := by
  unfold execThermalOfflineTimeout
  simp [hm]

/-! ### Devices -/

@[simp] theorem memWf_lqCommand (s : State) (die v : Nat) (hm : memWf s.mem = true) :
    memWf (s.lqCommand die v).mem = true := by
  unfold State.lqCommand
  split <;> simp [hm]

@[simp] theorem holds_devWrite (s : State) (pa n v : Nat) (h : memWf s.mem = true) :
    Holds (fun t => memWf t.mem = true) (s.devWrite pa n v) := by
  unfold State.devWrite
  split
  · exact h
  · split
    · dsimp only
      split
      · exact h
      · split
        · simp [h]
        · exact h
    · exact h
    · dsimp only
      split <;> exact h
    · dsimp only
      split <;> exact h
    · trivial

@[simp] theorem outForm_execDeviceRegisterWrite (pa n : Nat) (v : Word) (s : State) (h : memWf s.mem = true) :
    OutForm (execDeviceRegisterWrite pa n v s) := by
  have k := holds_devWrite s pa n (v.toNat % 2 ^ (8 * n)) h
  unfold execDeviceRegisterWrite
  split
  · next e => rw [e] at k; exact k
  · trivial
  · trivial
  · exact h

@[simp] theorem mem_setQuotas (s : State) (die : Nat) (q : List Nat) : (s.setQuotas die q).mem = s.mem := by
  unfold State.setQuotas
  simp

/-! ### System forms -/

@[simp] theorem holds_writeOwn (s : State) (k : KReg) (x : Word) (hm : memWf s.mem = true) :
    Holds (fun t => memWf t.mem = true) (s.writeOwn k x) := by
  unfold State.writeOwn
  split <;> simp [hm]

@[simp] theorem mem_waitFor (s : State) (k : WaitKind) (d : Reg) : (s.waitFor k d).mem = s.mem := rfl

@[simp] theorem holds_atTarget (s : State) (x : Word) (f : Except Stop State) (h : memWf s.mem = true)
    (hf : Holds (fun t => memWf t.mem = true) f) : Holds (fun t => memWf t.mem = true) (s.atTarget x f) := by
  unfold State.atTarget
  split
  · exact h
  · exact hf

@[simp] theorem mem_setTarget (s : State) (t : Nat) (x : Thread) : (s.setTarget t x).mem = s.mem := by
  unfold State.setTarget
  simp

@[simp] theorem outForm_execSysTread (d a : Reg) (k : TState) (s : State) (h : memWf s.mem = true) :
    OutForm (execSysTread d a k s) := by
  unfold execSysTread
  rw [outForm_finish h]
  exact holds_atTarget s _ _ h ((holds_bind ..).mpr (holds_of_forall _ fun t => h))

@[simp] theorem outForm_execSysTwrite (d a : Reg) (k : TState) (s : State) (h : memWf s.mem = true) :
    OutForm (execSysTwrite d a k s) := by
  unfold execSysTwrite
  rw [outForm_finish h, holds_bind]
  refine holds_of_forall _ fun _ => holds_atTarget s _ _ h ((holds_bind ..).mpr (holds_of_forall _ fun t => ?_))
  refine (holds_bind ..).mpr (holds_of_forall _ fun _ => ?_)
  split <;> simpa using h

@[simp] theorem outForm_execSysTresume (a : Reg) (s : State) (h : memWf s.mem = true) : OutForm (execSysTresume a s) := by
  unfold execSysTresume
  rw [outForm_finish h]
  exact holds_atTarget s _ _ h ((holds_bind ..).mpr (holds_of_forall _ fun t => by simpa using h))

@[simp] theorem memWf_otherCore (s : State) (t : Nat) (f : State) (h : memWf s.mem = true) (hf : memWf f.mem = true) :
    memWf (s.otherCore t f).mem = true := by
  unfold State.otherCore
  split
  · exact hf
  · split
    · exact h
    · exact hf

@[simp] theorem outForm_execSysTkill (a : Reg) (s : State) (h : memWf s.mem = true) : OutForm (execSysTkill a s) := by
  unfold execSysTkill
  rw [outForm_finish h]
  refine holds_atTarget s _ _ h ((holds_bind ..).mpr (holds_of_forall _ fun t => ?_))
  exact memWf_otherCore s t _ h (by simp [h])

@[simp] theorem mem_moveTable (s : State) (t : Nat) (load : Bool) (k : DTable) (base : Nat) :
    (s.moveTable t load k base).mem = s.mem := by
  unfold State.moveTable
  dsimp only
  split <;> simp

@[simp] theorem outForm_execSysTsave (d a : Reg) (s : State) (h : memWf s.mem = true) : OutForm (execSysTsave d a s) := by
  unfold execSysTsave
  rw [outForm_finish h, holds_bind]
  refine holds_of_forall _ fun _ => holds_atTarget s _ _ h ((holds_bind ..).mpr (holds_of_forall _ fun t => ?_))
  refine (holds_bind ..).mpr (holds_of_forall _ fun _ => ?_)
  split
  · exact h
  · split <;> exact h

@[simp] theorem outForm_execSysTload (d a : Reg) (s : State) (h : memWf s.mem = true) : OutForm (execSysTload d a s) := by
  unfold execSysTload
  rw [outForm_finish h, holds_bind]
  refine holds_of_forall _ fun _ => holds_atTarget s _ _ h ((holds_bind ..).mpr (holds_of_forall _ fun t => ?_))
  split
  · exact h
  · refine (holds_bind ..).mpr (holds_of_forall _ fun _ => ?_)
    exact memWf_otherCore s t _ h (by simp [h])

/-! ### The service and remote operations -/

@[simp] theorem mem_takeCall (s : State) (t : Nat) : (s.takeCall t).mem = s.mem := rfl

@[simp] theorem mem_answer (s : State) (t : Nat) (reg : Reg) (status : Nat) : (s.answer t reg status).mem = s.mem := by
  unfold State.answer
  simp

@[simp] theorem mem_putBlock (s : State) (t a : Nat) (bs : List Byte) : (s.putBlock t a bs).mem = s.mem := by
  unfold State.putBlock
  simp

theorem outForm_serve {s : State} {t k n : Nat} {f : State → Call → Nat → List Byte → State}
    (hf : ∀ u c a bs, memWf u.mem = true → memWf (f u c a bs).mem = true) (h : memWf s.mem = true) :
    OutForm (s.serve t k n f) := by
  unfold State.serve
  split
  · exact h
  · split
    · exact h
    · dsimp only
      rw [outForm_next]
      split
      · simpa using h
      · exact hf _ _ _ _ (by simpa using h)

@[simp] theorem mem_badCall (s : State) (t : Nat) : (s.badCall t).mem = s.mem := by
  unfold State.badCall
  split <;> simp

@[simp] theorem outForm_execMessageArrival (s : State) (hm : memWf s.mem = true) : OutForm (execMessageArrival s) := by
  unfold execMessageArrival
  split <;> simp [hm]

@[simp] theorem outForm_execExportWindow (t : Nat) (s : State) (h : memWf s.mem = true) :
    OutForm (execExportWindow t s) := by
  refine outForm_serve (fun u c a bs hu => ?_) h
  split
  · simpa using hu
  · split <;> simpa using hu

@[simp] theorem outForm_execUnexportWindow (t : Nat) (s : State) (h : memWf s.mem = true) :
    OutForm (execUnexportWindow t s) := by
  unfold execUnexportWindow
  split
  · exact h
  · refine outForm_serve (fun u c a bs hu => ?_) h
    dsimp only
    split
    · simpa using hu
    · split
      · split <;> simpa using hu
      · simpa using hu

@[simp] theorem outForm_execDiestat (t : Nat) (s : State) (h : memWf s.mem = true) : OutForm (execDiestat t s) :=
  outForm_serve (fun u c a bs hu => by simpa using hu) h

@[simp] theorem mem_keyPut (s : State) (asid : Nat) (r : Region) (name x : Nat) :
    (s.keyPut asid r name x).mem = s.mem := rfl

@[simp] theorem mem_restoreKey (s : State) (asid : Nat) (r : Region) (name : Nat) (v : BitVec 128) :
    (s.restoreKey asid r name v).mem = s.mem := by
  unfold State.restoreKey
  dsimp only
  repeat' split
  all_goals simp

@[simp] theorem mem_restoreKeys (asid : Nat) (r : Region) (l : List (Nat × BitVec 128)) (s : State) :
    (State.restoreKeys asid r l s).1.mem = s.mem := by
  induction l generalizing s with
  | nil => rfl
  | cons e rest ih =>
    unfold State.restoreKeys
    split
    · rfl
    · exact (ih _).trans (mem_restoreKey ..)

@[simp] theorem mem_modSpace (s : State) (asid : Nat) (f : Space → Space) : (s.modSpace asid f).mem = s.mem := by
  unfold State.modSpace
  simp

@[simp] theorem mem_clearDamage (s : State) (asid n : Nat) (dies : List Nat) :
    (s.clearDamage asid n dies).mem = s.mem := by
  unfold State.clearDamage
  simp

@[simp] theorem mem_restoreGo (s : State) (t : Nat) (reg : Reg) (asid n : Nat) (dies : List Nat)
    (left : List (Nat × BitVec 128)) (since : Nat) : (s.restoreGo t reg asid n dies left since).mem = s.mem := by
  unfold State.restoreGo
  split
  · simp
  · next r _ =>
    have k := mem_restoreKeys asid r left s
    split <;> next e => rw [e] at k; simpa using k

@[simp] theorem outForm_execKrestore (t : Nat) (s : State) (h : memWf s.mem = true) : OutForm (execKrestore t s) := by
  refine outForm_serve (fun u c a bs hu => ?_) h
  dsimp only
  split
  · simpa using hu
  · split
    · simpa using hu
    · split <;> simpa using hu

@[simp] theorem outForm_execCallAttest (t : Nat) (s : State) (h : memWf s.mem = true) : OutForm (execCallAttest t s) :=
  outForm_serve (fun u c a bs hu => by simpa using hu) h

@[simp] theorem mem_sendOp (s : State) (pkg : Nat) (op : RemoteOp) : (s.sendOp pkg op).mem = s.mem := by
  unfold State.sendOp
  simp

@[simp] theorem outForm_remoteCall (s : State) (t k : Nat) (kind : RemoteKind) (h : memWf s.mem = true) :
    OutForm (s.remoteCall t k kind) := by
  refine outForm_serve (fun u c a bs hu => ?_) h
  dsimp only
  split
  · simpa using hu
  · split
    · simpa using hu
    · simpa using hu

@[simp] theorem outForm_execRread (t : Nat) (s : State) (hm : memWf s.mem = true) : OutForm (execRread t s) := by
  unfold execRread
  simp [hm]

@[simp] theorem outForm_execRwrite (t : Nat) (s : State) (hm : memWf s.mem = true) : OutForm (execRwrite t s) := by
  unfold execRwrite
  simp [hm]

@[simp] theorem outForm_execRamo (t : Nat) (s : State) (hm : memWf s.mem = true) : OutForm (execRamo t s) := by
  unfold execRamo
  simp [hm]

@[simp] theorem outForm_execRkey (t : Nat) (s : State) (hm : memWf s.mem = true) : OutForm (execRkey t s) := by
  unfold execRkey
  simp [hm]

@[simp] theorem outForm_execRmsg (t : Nat) (s : State) (hm : memWf s.mem = true) : OutForm (execRmsg t s) := by
  unfold execRmsg
  simp [hm]

@[simp] theorem memWf_spaceWrite (s : State) (asid va : Nat) (bs : List Byte) (h : memWf s.mem = true) :
    memWf (s.spaceWrite asid va bs).1.mem = true := by
  unfold State.spaceWrite
  split
  · exact h
  · exact memWf_foldl _ _ (fun s e h => memWf_homeWrite s _ _ h) s h

@[simp] theorem memWf_remoteAmo (s : State) (w : Window) (op : RemoteOp) (h : memWf s.mem = true) :
    memWf (s.remoteAmo w op).1.mem = true := by
  unfold State.remoteAmo
  extract_lets n m
  split
  · exact h
  · split
    · exact memWf_homeWrite s _ _ h
    · exact h
    · exact h

theorem mem_remoteKey {s : State} {w : Window} {op : RemoteOp} {x : State × Answer} (e : s.remoteKey w op = some x) :
    x.1.mem = s.mem := by
  unfold State.remoteKey at e
  dsimp only at e
  split at e
  · exact Option.some.inj e ▸ rfl
  · split at e
    · exact Option.some.inj e ▸ rfl
    · split at e
      · exact Option.some.inj e ▸ rfl
      · split at e
        · exact Option.some.inj e ▸ rfl
        · split at e
          · split at e
            · exact Option.some.inj e ▸ rfl
            · cases e
          · split at e
            · exact Option.some.inj e ▸ rfl
            · split at e <;> exact Option.some.inj e ▸ rfl

@[simp] theorem mem_remoteMsg (s : State) (w : Window) (op : RemoteOp) : (s.remoteMsg w op).1.mem = s.mem := by
  unfold State.remoteMsg
  dsimp only
  repeat' split
  all_goals simp

theorem memWf_performOp {s : State} {op : RemoteOp} {since : Nat} {begun : Bool} {x : State × Answer}
    (e : s.performOp op since begun = some x) (h : memWf s.mem = true) : memWf x.1.mem = true := by
  unfold State.performOp at e
  split at e
  · exact Option.some.inj e ▸ h
  · split at e
    · split at e
      · exact Option.some.inj e ▸ h
      · split at e
        · exact Option.some.inj e ▸ h
        · obtain ⟨a, _, rfl⟩ := Option.map_eq_some_iff.mp e
          exact h
    · split at e
      · exact Option.some.inj e ▸ h
      · split at e
        · exact Option.some.inj e ▸ h
        · exact Option.some.inj e ▸ memWf_spaceWrite s _ _ _ h
    · refine Option.some.inj e ▸ ?_
      split
      · exact h
      · exact memWf_remoteAmo s _ _ h
    · split at e
      · exact Option.some.inj e ▸ h
      · exact (congrArg (memWf · = true) (mem_remoteKey e)).mpr h
    · refine Option.some.inj e ▸ ?_
      split
      · exact h
      · simpa using h

@[simp] theorem mem_sendReply (s : State) (r : RemoteReply) : (s.sendReply r).mem = s.mem := by
  unfold State.sendReply
  simp

@[simp] theorem mem_saveReply (s : State) (r : RemoteReply) : (s.saveReply r).mem = s.mem := rfl

theorem memWf_once (s : State) (ep seq : Nat) (f : State → State × Answer)
    (hf : memWf s.mem = true → memWf (f s).1.mem = true) (h : memWf s.mem = true) : memWf (s.once ep seq f).1.mem = true := by
  unfold State.once
  split
  · exact h
  · exact hf h

theorem memWf_onceOrWait (s : State) (ep seq : Nat) (w : RemoteWork) (since : Nat) (f : State → Option (State × Answer))
    (hf : ∀ x, f s = some x → memWf x.1.mem = true) (h : memWf s.mem = true) :
    memWf (s.onceOrWait ep seq w since f).1.mem = true := by
  unfold State.onceOrWait
  split
  · exact h
  · split
    · next x e => exact memWf_once s ep seq _ (fun _ => hf x e) h
    · split <;> exact h

/-- The reply of work that did not wait goes out; memory stays as the work has left it. -/
theorem mem_elim_reply (x : State × Option RemoteReply) (f : State → RemoteReply → State)
    (hf : ∀ s r, (f s r).mem = s.mem) : (x.2.elim x.1 (f x.1)).mem = x.1.mem := by
  obtain ⟨s, r⟩ := x
  cases r with
  | none => rfl
  | some r => exact hf s r

@[simp] theorem memWf_doOp (s : State) (op : RemoteOp) (since : Nat) (begun : Bool) (h : memWf s.mem = true) :
    memWf (s.doOp op since begun).mem = true := by
  unfold State.doOp
  dsimp only
  rw [mem_elim_reply _ State.sendReply mem_sendReply]
  exact memWf_onceOrWait s _ _ _ _ _ (fun x e => memWf_performOp e h) h

@[simp] theorem outForm_execRemoteOpArrival (op : RemoteOp) (s : State) (hm : memWf s.mem = true) :
    OutForm (execRemoteOpArrival op s) := by
  unfold execRemoteOpArrival
  simp [hm]

@[simp] theorem mem_endCall (s : State) (c : PendingCall) (status : Nat) : (s.endCall c status).mem = s.mem := by
  unfold State.endCall
  simp

@[simp] theorem mem_replyData (s : State) (c : PendingCall) (r : RemoteReply) : (s.replyData c r).mem = s.mem := by
  unfold State.replyData
  split <;> simp

@[simp] theorem outForm_execRemoteReplyArrival (r : RemoteReply) (s : State) (hm : memWf s.mem = true) :
    OutForm (execRemoteReplyArrival r s) := by
  unfold execRemoteReplyArrival
  split <;> simp [hm]

@[simp] theorem outForm_execRemoteCallTimeout (t : Nat) (s : State) (hm : memWf s.mem = true) :
    OutForm (execRemoteCallTimeout t s) := by
  unfold execRemoteCallTimeout
  split <;> simp [hm]

@[simp] theorem outForm_execLateReplyDiscard (_r : RemoteReply) (s : State) (hm : memWf s.mem = true) :
    OutForm (execLateReplyDiscard _r s) := by
  unfold execLateReplyDiscard
  simp [hm]

/-! ### The lathe -/

@[simp] theorem mem_wakeLathe (s : State) (cl : Nat) : (s.wakeLathe cl).mem = s.mem := by
  unfold State.wakeLathe
  exact mem_foldl _ _ (fun s a => by simp) _

@[simp] theorem mem_fillOut (s : State) (ck : Nat) (o : LatheOut) (w : Nat) : (s.fillOut ck o w).mem = s.mem := by
  unfold State.fillOut
  simp

@[simp] theorem mem_fillWords (s : State) (ck : Nat) (o : LatheOut) (l : List Nat) : (s.fillWords ck o l).mem = s.mem := by
  induction l generalizing s with
  | nil => rfl
  | cons w r ih => exact (ih _).trans (mem_fillOut ..)

@[simp] theorem outForm_execLatheRequestStart (cl : Nat) (s : State) (hm : memWf s.mem = true) :
    OutForm (execLatheRequestStart cl s) := by
  unfold execLatheRequestStart
  split <;> simp [hm]

@[simp] theorem outForm_execLatheReply (cl : Nat) (s : State) (hm : memWf s.mem = true) :
    OutForm (execLatheReply cl s) := by
  unfold execLatheReply
  split
  · simp [hm]
  · split <;> simp [hm]

/-! ### Frames and relocks -/

@[simp] theorem outForm_hold (i : Instr) (s : State) (o : Host.Outcome State Fault Refusal) (h : memWf s.mem = true)
    (ho : OutForm o) : OutForm (hold i s o) := by
  unfold hold
  split
  · split
    · simpa using h
    · exact ho
  · exact ho

/-! ### The loader -/

@[simp] theorem mem_pick {α : Type} (s : State) (d : α) (l : List α) : (s.pick d l).2.mem = s.mem := rfl

@[simp] theorem mem_thin (s : State) (l : List Nat) (n : Nat) : (s.thin l n).2.mem = s.mem := by
  induction n generalizing s l with
  | zero => rfl
  | succ n ih => exact (ih _ _).trans (mem_draw s)

@[simp] theorem mem_several (s : State) (l : List Nat) (n : Nat) : (s.several l n).2.mem = s.mem := by
  induction n generalizing s l with
  | zero => rfl
  | succ n ih => exact (ih _ _).trans (mem_pick s 0 l)

theorem mem_placeCores (s : State) (n : Nat) : (s.placeCores n).2.mem = s.mem := by
  unfold State.placeCores
  dsimp only
  split
  · rfl
  · split
    · simp
    · split
      · split <;> simp
      · split <;> simp

theorem memWf_mapRange {s t : State} {root k va n : Nat} {bits : Word} (e : s.mapRange root k va bits n = some t)
    (h : memWf s.mem = true) : memWf t.mem = true := by
  induction n generalizing s va with
  | zero => exact Option.some.inj e ▸ h
  | succ n ih =>
    unfold State.mapRange at e
    dsimp only at e
    have ha := memWf_allocPage s (s.openDies.getD (Config.place (k + va / 2 ^ 22) % s.openDies.length) 0) 4096 h
    split at e
    · cases e
    · next ea =>
      rw [ea] at ha
      split at e
      · cases e
      · next em => exact ih e (memWf_mapLeaf em ha)

theorem memWf_mapSects {s t : State} {root : Nat} {l : List (Sect × Nat)} (e : s.mapSects root l = some t)
    (h : memWf s.mem = true) : memWf t.mem = true := by
  induction l generalizing s with
  | nil => exact Option.some.inj e ▸ h
  | cons x r ih =>
    unfold State.mapSects at e
    split at e
    · dsimp only at e
      split at e
      · next em => exact ih e (memWf_mapRange em (by simpa using h))
      · cases e
    · exact ih e h

@[simp] theorem memWf_putSpace (s : State) (asid va : Nat) (l : Nat) (bs : List Byte) (h : memWf s.mem = true) :
    memWf (s.putSpace asid va l bs).mem = true := by
  induction l generalizing s va bs with
  | zero => exact h
  | succ n ih =>
    refine ih _ _ _ ?_
    split
    · exact memWf_homeWrite s _ _ h
    · exact h

theorem holds_foldlM_placeNext (p : List (List Nat × List Nat) × State) (ls : List LaunchIn) (h : memWf p.2.mem = true) :
    Holds (fun r => memWf r.2.mem = true) (ls.foldlM placeNext p) := by
  induction ls generalizing p with
  | nil =>
    rw [List.foldlM_nil]
    exact (holds_pure ..).mpr h
  | cons l r ih =>
    rw [List.foldlM_cons, holds_bind, placeNext]
    have k := mem_placeCores p.2 l.cores
    generalize p.2.placeCores l.cores = x at k ⊢
    obtain ⟨y, t⟩ := x
    cases y with
    | none => trivial
    | some y => exact ih _ ((congrArg (memWf · = true) k).mpr h)

theorem holds_placeAll (s : State) (ls : List LaunchIn) (h : memWf s.mem = true) :
    Holds (fun r => memWf r.2.mem = true) (s.placeAll ls) := holds_foldlM_placeNext ([], s) ls h

theorem holds_reserve (s : State) (asid die : Nat) (h : memWf s.mem = true) :
    Holds (fun r => memWf r.2.mem = true) (s.reserve asid die) := by
  unfold State.reserve
  split
  · trivial
  · simpa using h

theorem holds_reserveAll (s : State) (asid : Nat) (l : List (Nat × Nat)) (h : memWf s.mem = true) :
    Holds (fun r => memWf r.2.mem = true) (s.reserveAll asid l) := by
  induction l generalizing s with
  | nil => exact h
  | cons x r ih =>
    exact (holds_bind ..).mpr (holds_imp (holds_reserve s asid x.2 h) fun y hy =>
      (holds_bind ..).mpr (ih y.2 hy))

theorem holds_openTiles (s : State) (asid : Nat) (l : List (List Byte)) (h : memWf s.mem = true) :
    Holds (fun r => memWf r.2.mem = true) (s.openTiles asid l) := by
  induction l generalizing s with
  | nil => exact h
  | cons b r ih =>
    unfold State.openTiles
    dsimp only
    split
    · trivial
    · next i l _ =>
      generalize hv : s.enterRec _ _ (i :: l) = v
      have k := ih v.2 (by rw [← hv, mem_enterRec]; exact h)
      split
      · next e => rw [e] at k; exact k
      · trivial

@[simp] theorem memWf_fillSects (s : State) (asid : Nat) (o : Obj) (f : Fixed) (h : memWf s.mem = true) :
    memWf (s.fillSects asid o f).mem = true := by
  refine memWf_foldl _ _ (fun s x h => ?_) s h
  split
  · exact memWf_putSpace s _ _ _ _ h
  · exact h

theorem holds_load (s : State) (file : List Byte) (h : memWf s.mem = true) :
    Holds (fun r => memWf r.1.mem = true) (s.load file) := by
  unfold State.load
  split
  · trivial
  · split
    · trivial
    · split
      · trivial
      · refine (holds_bind ..).mpr (holds_imp (holds_placeAll s _ h) fun p hp => ?_)
        refine (holds_bind ..).mpr (holds_imp (holds_reserveAll p.2 _ _ hp) fun q hq => ?_)
        dsimp only
        have ha := memWf_allocPage (q.2.pick 0 q.2.openDies).2 (q.2.pick 0 q.2.openDies).1 4096 (by simpa using hq)
        split
        · trivial
        · next ea =>
          rw [ea] at ha
          split
          · trivial
          · next em =>
            have hm := memWf_mapSects em ha
            split
            · trivial
            · next ef =>
              have hf := memWf_addFoots ef hm
              refine (holds_bind ..).mpr (holds_imp (holds_openTiles _ _ _ hf) fun r hr => ?_)
              split
              · trivial
              · exact memWf_fillSects r.2 _ _ _ hr

@[simp] theorem mem_hostReply (s : State) (r : RemoteReply) : (s.hostReply r).mem = s.mem := rfl

theorem outForm_hostDo {s : State} {h : HostHdr} {f : State → State × Answer}
    (hf : memWf s.mem = true → memWf (f s).1.mem = true) (hm : memWf s.mem = true) : OutForm (s.hostDo h f) := by
  unfold State.hostDo
  split
  · exact memWf_once s _ _ f hf hm
  · exact hm

@[simp] theorem outForm_execHostLoad (h : HostHdr) (file : List Byte) (s : State) (hm : memWf s.mem = true) :
    OutForm (execHostLoad h file s) := by
  unfold execHostLoad
  split
  · rw [outForm_next]
    split <;> exact hm
  · refine outForm_hostDo (fun hm => ?_) hm
    have k := holds_load s file hm
    split
    · next e => rw [e] at k; exact k
    · exact hm
    · exact hm

/-! ### Host requests -/

@[simp] theorem mem_newLid (s : State) : (s.newLid).2.mem = s.mem := rfl

@[simp] theorem mem_enterLq (s : State) (die : Nat) (q : LqRec) : (s.enterLq die q).mem = s.mem := rfl

@[simp] theorem memWf_submit (s : State) (asid j : Nat) (sp : Space) (r : LaunchRec) (karg : Option Word) (blk : Nat)
    (h : memWf s.mem = true) : memWf (s.submit asid j sp r karg blk).1.mem = true := by
  have k : memWf (s.homeWrite blk r.block).newLid.2.mem = true := by simp [h]
  unfold State.submit
  generalize (s.homeWrite blk r.block).newLid = x at k ⊢
  dsimp only
  split
  · rw [mem_stopped, mem_postService]
    exact memWf_foldl _ _ (fun s die h => by simpa using h) _ k
  · exact memWf_foldl _ _ (fun s die h => by simpa using h) _ k

@[simp] theorem outForm_execHostSubmit (h : HostHdr) (asid rec_ : Nat) (karg : Option Word) (s : State)
    (hm : memWf s.mem = true) : OutForm (execHostSubmit h asid rec_ karg s) := by
  refine outForm_hostDo (fun hm => ?_) hm
  dsimp only
  split
  · exact hm
  · split
    · exact hm
    · split
      · exact hm
      · next r _ _ =>
        have ha := memWf_allocPage s ((diesOf (r.set ++ r.extra)).headD 0) r.blockSize hm
        split
        · exact hm
        · next ea =>
          rw [ea] at ha
          exact memWf_submit _ _ _ _ _ _ _ ha

theorem memWf_hostCmd (s : State) (lid cmd : Nat) (f : State → Nat → Nat → State)
    (hf : ∀ t d l, memWf t.mem = true → memWf (f t d l).mem = true) (h : memWf s.mem = true) :
    memWf (s.hostCmd lid cmd f).1.mem = true := by
  unfold State.hostCmd
  split
  · exact h
  · exact hf _ _ _ (by simpa using h)

@[simp] theorem outForm_execHostPreempt (h : HostHdr) (lid : Nat) (s : State) (hm : memWf s.mem = true) :
    OutForm (execHostPreempt h lid s) :=
  outForm_hostDo (memWf_hostCmd s lid 2 State.lqPreempt (fun t d l ht => by simpa using ht)) hm

@[simp] theorem outForm_execHostResume (h : HostHdr) (lid : Nat) (s : State) (hm : memWf s.mem = true) :
    OutForm (execHostResume h lid s) :=
  outForm_hostDo (memWf_hostCmd s lid 3 State.lqResume (fun t d l ht => by simpa using ht)) hm

@[simp] theorem outForm_execHostStop (h : HostHdr) (lid : Nat) (s : State) (hm : memWf s.mem = true) :
    OutForm (execHostStop h lid s) :=
  outForm_hostDo (memWf_hostCmd s lid 4 State.lqStop (fun t d l ht => by simp [ht])) hm

@[simp] theorem memWf_doRead (s : State) (h : HostHdr) (asid : Nat) (va : Word) (len since : Nat)
    (hm : memWf s.mem = true) : memWf (s.doRead h asid va len since).mem = true := by
  unfold State.doRead
  dsimp only
  rw [mem_elim_reply _ State.hostReply mem_hostReply]
  refine memWf_onceOrWait s _ _ _ _ _ (fun x e => ?_) hm
  split at e
  · exact Option.some.inj e ▸ hm
  · obtain ⟨a, _, rfl⟩ := Option.map_eq_some_iff.mp e
    exact hm

@[simp] theorem outForm_execHostRead (h : HostHdr) (asid : Nat) (va : Word) (len : Nat) (s : State)
    (hm : memWf s.mem = true) : OutForm (execHostRead h asid va len s) := by
  unfold execHostRead
  split
  · exact memWf_doRead s h asid va len s.tick hm
  · exact outForm_hostDo id hm

@[simp] theorem outForm_execHostWrite (h : HostHdr) (asid : Nat) (va : Word) (data : List Byte) (s : State)
    (hm : memWf s.mem = true) : OutForm (execHostWrite h asid va data s) := by
  refine outForm_hostDo (fun hm => ?_) hm
  split
  · exact hm
  · exact memWf_spaceWrite s _ _ _ hm

@[simp] theorem outForm_execHostAttest (h : HostHdr) (asid : Nat) (nonce : BitVec 384) (s : State)
    (hm : memWf s.mem = true) : OutForm (execHostAttest h asid nonce s) := by
  refine outForm_hostDo (fun hm => ?_) hm
  dsimp only
  split
  · exact hm
  · split <;> exact hm

@[simp] theorem outForm_execHostStatus (h : HostHdr) (s : State) (hm : memWf s.mem = true) : OutForm (execHostStatus h s) :=
  outForm_hostDo id hm

@[simp] theorem mem_forgetKeys (s : State) (asid : Nat) : (s.forgetKeys asid).mem = s.mem := by
  unfold State.forgetKeys
  simp

@[simp] theorem mem_unload (s : State) (asid : Nat) (sp : Space) : (s.unload asid sp).mem = s.mem := by
  unfold State.unload
  exact mem_foldl _ _ (fun s a => by simp) _

@[simp] theorem memWf_doUnload (s : State) (h : HostHdr) (asid since : Nat) (hm : memWf s.mem = true) :
    memWf (s.doUnload h asid since).mem = true := by
  unfold State.doUnload
  dsimp only
  rw [mem_elim_reply _ State.hostReply mem_hostReply]
  have hk : memWf (if s.unloadWaits h asid then s.closeWins fun _ w => w.asid == asid else s).mem = true := by simpa using hm
  generalize (if s.unloadWaits h asid then s.closeWins fun _ w => w.asid == asid else s) = u at hk ⊢
  refine memWf_onceOrWait u _ _ _ _ _ (fun x e => ?_) hk
  split at e
  · exact Option.some.inj e ▸ hk
  · split at e
    · exact Option.some.inj e ▸ hk
    · split at e
      · cases e
      · exact Option.some.inj e ▸ (congrArg (memWf · = true) (mem_unload ..)).mpr hk

@[simp] theorem outForm_execHostUnload (h : HostHdr) (asid : Nat) (s : State) (hm : memWf s.mem = true) :
    OutForm (execHostUnload h asid s) := by
  unfold execHostUnload
  split
  · exact memWf_doUnload s h asid s.tick hm
  · exact outForm_hostDo id hm

@[simp] theorem memWf_doWork (s : State) (w : RemoteWait) (h : memWf s.mem = true) : memWf (s.doWork w).mem = true := by
  unfold State.doWork
  split <;> simp [h]

@[simp] theorem outForm_goRemote (s : State) (hm : memWf s.mem = true) : OutForm (goRemote s) := by
  unfold goRemote
  split <;> simp [hm]

@[simp] theorem mem_ckptStart (s : State) (h : HostHdr) : (s.ckptStart h).mem = s.mem := by
  unfold State.ckptStart
  exact mem_foldl _ _ (fun s a => by simp) _

@[simp] theorem mem_ckptEnd (s : State) (r : CkptRun) : (s.ckptEnd r).mem = s.mem := by
  unfold State.ckptEnd
  exact mem_foldl _ _ (fun s a => by simp) _

@[simp] theorem mem_ckptGo (s : State) (r : CkptRun) : (s.ckptGo r).mem = s.mem := by
  unfold State.ckptGo
  split
  · exact mem_ckptEnd ..
  · split
    · rfl
    · exact mem_foldl _ _ (fun s cl => mem_modClu ..) s

@[simp] theorem outForm_execHostCkpt (h : HostHdr) (s : State) (hm : memWf s.mem = true) : OutForm (execHostCkpt h s) := by
  unfold execHostCkpt
  split
  · split
    · rw [outForm_next]
      split
      · simpa using hm
      · exact hm
    · exact outForm_hostDo id hm
  · split
    · simpa using hm
    · exact outForm_hostDo id hm

@[simp] theorem outForm_execStartUp (r : StartReport) (s : State) : OutForm (execStartUp r s) := by
  unfold execStartUp
  split <;> rfl

/-! ### Ends of waits -/

@[simp] theorem outForm_execReplyArrival (t : Nat) (s : State) (hm : memWf s.mem = true) :
    OutForm (execReplyArrival t s) := by
  unfold execReplyArrival
  repeat' split
  all_goals simp [hm]

@[simp] theorem mem_lateReply (s : State) (t : Nat) (k : WaitKind) : (s.lateReply t k).mem = s.mem := by
  unfold State.lateReply
  split <;> simp

@[simp] theorem outForm_execWaitExpiry (t : Nat) (s : State) (hm : memWf s.mem = true) :
    OutForm (execWaitExpiry t s) := by
  unfold execWaitExpiry
  repeat' split
  all_goals simp [hm]

/-! ### Every instruction -/

/-- Every instruction but the issue of a frame, and every event, keeps memory in canonical form. -/
theorem outForm_exec_of_ne (i : Instr) (s : State) (hi : i ≠ .repeatFrameIssue) (h : memWf s.mem = true) :
    OutForm (exec i s) := by
  cases i
  case repeatFrameIssue => exact absurd rfl hi
  all_goals simp [exec, h, execBitPeek, execBitGet, execBitSkip, execBitGetv, execBitUnar, execBitTell, execBitAvail,
    execLdPlain, execStPlain, execSts, execVlds, execVsts, execFeTake, execFePut, execFeSload, execFeFill, execOpiAdd,
    execOpiSub, execOpiAnd, execOpiOr, execOpiXor, execOpiAndn, execOpiOrn, execOpiSll, execOpiSrl, execOpiSra,
    execOpiSlt, execOpiSltu, execOpiMin, execOpiMax, execOpiMinu, execOpiMaxu, execOpiSxb, execOpiSxh, execOpiSxw,
    execOpiZxb, execOpiZxh, execOpiZxw, execAddi, execAndi, execOri, execXori, execSlti, execSltiu, execLui, execAddpc,
    execShiSlli, execShiSrli, execShiSrai, execShiRori, execShiClz, execShiCtz, execShiPopc, execShiBrev, execShiBswap,
    execMuldivMul, execMuldivMulh, execMuldivMulhu, execMuldivMulhsu, execMuldivDiv, execMuldivDivu, execMuldivRem,
    execMuldivRemu, execVfpAdd, execVfpSub, execVfpMul, execVfpDiv, execVfpFma, execVfpFms, execVfpFnma, execVfpMin,
    execVfpMax, execVfpSgnj, execVfpSqrt, execVfpAbs, execVfpNeg, execVfpCeq, execVfpClt, execVfpCle, execVfpCun,
    execVintAdd, execVintSub, execVintAdds, execVintAddus, execVintSubs, execVintSubus, execVintMul, execVintMulh,
    execVintAnd, execVintOr, execVintXor, execVintAndn, execVintSll, execVintSrl, execVintSra, execVintMin,
    execVintMax, execVintMinu, execVintMaxu, execVintCeq, execVintClt, execVintCltu, execVcvtNf16l, execVcvtNf16h,
    execVcvtNbf16l, execVcvtNbf16h, execVcvtWf16l, execVcvtWf16h, execVcvtWbf16l, execVcvtWbf16h, execVcvtFtoi,
    execVcvtFtou, execVcvtItof, execVcvtUtof, execVcvtRint, execVpermFsum, execVpermFmax, execVpermFmin, execVpermIsum,
    execVpermImax, execVpermImin, execVpermImaxu, execVpermIminu, execVpermPerm, execVpermBcl, execVpermRot,
    execVpermCmpr, execVpermExpd, execVbmmMma, execVbmmMm, execVmskAnd, execVmskOr, execVmskXor, execVmskAndn,
    execVmskNot, execVmskFromg, execVmskPre, execVmskGlen, execVmskTog, execVmskPopc, execVmskFirst, execVmovMov,
    execVmovSel, execVmovBcg, execVmovIns, execVmovExt, execVmovIota, execKeyLd, execKeyLdx, execKeyPub,
    execKeyFixDrop, execKeyFixSet, execKeyInfo, execOrdAcq, execOrdLda, execAmoSwap, execAmoAdd, execAmoAnd, execAmoOr,
    execAmoXor, execAmoMin, execAmoMax, execAmoMinu, execAmoMaxu, execAmoCas, execTilClose, execStTiled, execQstQ,
    execQstBl, execMsgPut, execMsgDrop, execMsgSend, execMsgWait, execMsgAlt, execMsgGrant, execGangPeg, execGangRdacc,
    execGangWracc, execGangZacc, execSprsScan, execCpyIn, execCpyOut, execCpyUnpin, execXpfSnap, execXpfReq,
    execXpfCancel, execBrEq, execBrNe, execBrLt, execBrGe, execBrLtu, execBrGeu, execBrAny, execBrNone, execJal,
    execJalr, execRep, execLdDevice, execStDevice, execSysRdk, execSysWrk, execSysSetk, execSysClrk, execSysCall,
    execSysBrk, execSysExit, execSysNuld, execSysNust, execLatheReq]

/-- The word that a frame issues has the meaning that it has outside one. -/
theorem outForm_execRepeatFrameIssue (s : State) (h : memWf s.mem = true) : OutForm (execRepeatFrameIssue s) := by
  cases hf : frameRefuses s.frameWord with
  | true => simp [execRepeatFrameIssue, hf, h]
  | false =>
    cases hd : decode s.frameWord with
    | error e => simp [execRepeatFrameIssue, hf, hd, h]
    | ok i =>
      obtain ⟨-, he⟩ := encodeOfDecode i s.frameWord (stagger_lt _ _ _ _ _) hd
      have hi : i ≠ .repeatFrameIssue := fun e => absurd (e ▸ he) nofun
      rw [show execRepeatFrameIssue s = _ from exec_repeatFrameIssue hf hd]
      exact outForm_hold i _ _ h (outForm_exec_of_ne i _ hi h)

/-- Every instruction and every event keeps memory in canonical form. -/
theorem outForm_exec (i : Instr) (s : State) (h : memWf s.mem = true) : OutForm (exec i s) := by
  by_cases hi : i = .repeatFrameIssue
  · exact hi ▸ outForm_execRepeatFrameIssue s h
  · exact outForm_exec_of_ne i s hi h

/-! ### Every event -/

@[simp] theorem outForm_run (e : Event) (s : State) (h : memWf s.mem = true) : OutForm (e.run s) := by
  cases e <;> simp [Event.run, h]

@[simp] theorem mem_dueEvent (s : State) : s.dueEvent.2.mem = s.mem := by
  unfold State.dueEvent
  split <;> rfl

@[simp] theorem mem_endRound (s : State) : (s.endRound).mem = s.mem := by
  unfold State.endRound
  exact mem_foldl _ _ (fun s a => by simp) _

@[simp] theorem mem_endTick (s : State) : (s.endTick).mem = s.mem := rfl

/-! ### Last tests -/

theorem memWf_testForm {s u : State} {t : Nat} {r : Retest} (e : s.testForm t r = some u) (h : memWf s.mem = true) :
    memWf u.mem = true := by
  unfold State.testForm at e
  dsimp only at e
  generalize hv : State.modThr { s with cur := t, walks := s.walks.erase t } t _ = v at e
  have hm : memWf v.mem = true := hv ▸ h
  split at e
  · next i _ =>
    have k := outForm_hold i v (exec i v) hm (outForm_exec i v hm)
    split at e
    · next eo => rw [eo] at k; exact Option.some.inj e ▸ k
    · cases e
  · cases e

@[simp] theorem mem_waitAgain (s : State) (t : Nat) (r : Retest) : (s.waitAgain t r).mem = s.mem := by
  unfold State.waitAgain
  simp

theorem memWf_testLate {s u : State} {t : Nat} {r : Retest} (e : s.testLate t r = some u) (h : memWf s.mem = true) :
    memWf u.mem = true := by
  unfold State.testLate at e
  split at e
  · next et =>
    have k := memWf_testForm et h
    split at e
    · exact Option.some.inj e ▸ k
    · split at e
      · split at e
        · exact Option.some.inj e ▸ h
        · cases e
      · split at e
        · exact Option.some.inj e ▸ k
        · cases e
  · cases e

theorem memWf_lateTest {s u : State} (e : s.lateTest = some u) (h : memWf s.mem = true) : memWf u.mem = true := by
  obtain ⟨l, x, r, _, hx, _⟩ := List.findSome?_eq_some_iff.mp e
  obtain ⟨q, _, hq⟩ := Option.bind_eq_some_iff.mp hx
  exact memWf_testLate hq h

/-! ### The step -/

@[simp] theorem outForm_issueWord (w : Nat) (s : State) (h : memWf s.mem = true) : OutForm (issueWord w s) := by
  unfold issueWord
  split
  · simpa using h
  · exact outForm_hold _ _ _ h (outForm_exec _ _ h)

@[simp] theorem outForm_issue (s : State) (h : memWf s.mem = true) : OutForm (issue s) := by
  unfold issue
  split
  · exact outForm_exec _ s h
  · split
    · exact outForm_issueWord _ s h
    · simpa using h
    · simpa [mem_fetchMiss] using h

@[simp] theorem outForm_advance (s : State) (h : memWf s.mem = true) : OutForm (advance s) := by
  unfold advance
  split
  · exact outForm_issue _ (by simpa using h)
  · split
    · simpa using h
    · split
      · next e => exact memWf_lateTest e h
      · split
        · exact outForm_run _ s h
        · simpa using h

theorem outForm_step (s : State) (h : memWf s.mem = true) : OutForm (step s) := by
  unfold step
  split
  · exact outForm_run _ _ h
  · have k := mem_dueEvent s
    split
    · next e => rw [e] at k; exact outForm_run _ _ ((congrArg (memWf · = true) k).mpr h)
    · next e => rw [e] at k; exact outForm_advance _ ((congrArg (memWf · = true) k).mpr h)

/-- Settles O60: what a step performs writes memory through operations that keep its canonical form. -/
theorem memoryCanonicalKept : Obligations.MemoryCanonicalKept := by
  unfold Obligations.MemoryCanonicalKept
  intro s t h e
  have k := outForm_step s h
  rw [e] at k
  exact k

end Sys2Proof.Machine
end

section
/-! PROOFS. The frame of memory in the plain and tiled loads and stores fails (R128, R170): a core whose write-through
queue holds more than 32 entries. An eviction takes every entry of its line out of the queue, so that the next entry
performed to make room need not be one of the four oldest. -/

namespace Sys2Proof.Machine

/-- The entry of a page of a kind at physical address 0, which every access at launch level may load and store. -/
def pageEntry (kind : Nat) : Word := BitVec.ofNat 64 (kind * 2 ^ 58 + 0x24)

/-- Core 0 holds 37 entries in its write-through queue: four for line 0, whose line its L1 has with a dirty and a stale clean
word, then one that writes 1 at address 256, then empty ones. Its one page is of the kind given, and thread 0 has WRITE
tenure of the bytes 16 to 19 and 126 to 129. -/
def overfull (kind : Nat) : State :=
  { State.reset with
    threads := [(0, { Thread.init with st := .ready })]
    dies := [(0, { Die.init with online := true })]
    cores := [(0, { Core.init with
      tlb := [{ va := 0, pte := pageEntry kind }]
      l1 := [(0, { valid := 2, dirty := 1, bad := 0, data := 2 ^ 32, ro := false, tile := none })]
      wtq := { pa := 0, bytes := [some 0], dev := false } :: List.replicate 3 { pa := 0, bytes := [], dev := false } ++
        { pa := 256, bytes := [some 1], dev := false } :: List.replicate 32 { pa := 512, bytes := [], dev := false } })]
    slices := [(0, { Slice.init with
      recs := [(0, { asid := 0, fmt := 4, rank := 1, base := 16, hbase := 0, ext := [1, 0, 0, 0], str := [4, 0, 0, 0] }),
               (1, { asid := 0, fmt := 4, rank := 1, base := 126, hbase := 0, ext := [1, 0, 0, 0], str := [4, 0, 0, 0] })]
      ents := [{ idx := 0, thread := 0, lo := 0, hi := 0, write := true, r := 0, cls := 0, st := .held },
               { idx := 1, thread := 0, lo := 0, hi := 0, write := true, r := 0, cls := 0, st := .held }] })] }

/-- The same with 127 in `g2`, the address of an access of two bytes in two lines. -/
def overfullSplit (kind : Nat) : State := (overfull kind).modTh fun t => t.setG 2 127

/-- What shows of the state after an instruction. -/
def seenAfter {α : Type} (f : State → α) (i : Instr) (s : State) : Option α :=
  match exec i s with
  | .next t => some (f t)
  | _ => none

theorem seenAfter_next {α : Type} {f : State → α} {i : Instr} {s t : State} (h : exec i s = .next t) :
    seenAfter f i s = some (f t) := by
  simp only [seenAfter, h]

/-- No instruction that leaves the bytes outside the four oldest entries alone writes the byte at 256. -/
theorem not_keepsOutside {i : Instr} {s : State}
    (hx : ∀ e ∈ s.co.wtq.take 4, (256 < e.pa ∨ e.pa + e.bytes.length ≤ 256) ∧ 256 / 128 ≠ e.pa / 128)
    (hm : memGet s.mem 256 = 0)
    (hb : seenAfter (fun t => memGet t.mem 256) i s = some 1) :
    ¬ ∃ t, exec i s = .next t ∧ ∀ x, OutsideOldest s x → memGet t.mem x = memGet s.mem x := by
  rintro ⟨t, ht, hk⟩
  have h := hk 256 hx
  rw [seenAfter_next ht, Option.some.injEq] at hb
  rw [hb, hm] at h
  exact absurd h (by decide)

theorem exists_of_toBool {ε α : Type} {x : Except ε α} (h : x.toBool = true) : ∃ a, x = .ok a := by
  cases x with
  | ok a => exact ⟨a, rfl⟩
  | error e => exact absurd h Bool.false_ne_true

/-- The parts of a store of two bytes at 127. -/
def splitParts (pte : Word) : List Part := [⟨127, 127, 1, pte⟩, ⟨128, 128, 1, pte⟩]

/-- A store that meets no word that it cannot write. -/
theorem storeParts_none {s : State} {ck v : Nat} {whole : Bool} {ps : List Part}
    (h : (match s.storeParts ck whole v ps with | .ok (none, _) => true | _ => false) = true) :
    ∃ s1, s.storeParts ck whole v ps = .ok (none, s1) := by
  split at h
  · next s1 hs => exact ⟨s1, hs⟩
  · exact absurd h Bool.false_ne_true

/-- Refutes O26: `overfull`, where the load evicts line 0 and with it four entries of the queue, and performs the fifth. -/
theorem not_plainLoadResult : ¬ Obligations.PlainLoadResult := by
  intro h
  obtain ⟨⟨v, s1⟩, hl⟩ := exists_of_toBool (x := (overfull 0).loadParts 0 [⟨16, 16, 1, pageEntry 0⟩]) (by decide +kernel)
  obtain ⟨t, ht, -, -, -, -, -, -, hm⟩ := h.2 (overfull 0) s1 .b 1 0 16 [⟨16, 16, 1, pageEntry 0⟩] v rfl (by decide +kernel) hl
  exact not_keepsOutside (by decide +kernel) rfl (by decide +kernel) ⟨t, ht, hm⟩

/-- Refutes O28: `overfullSplit`, where the first part of the store writes line 0 through and with it four entries of the
queue, and the second performs the fifth. -/
theorem not_plainStoreResult : ¬ Obligations.PlainStoreResult := by
  intro h
  obtain ⟨s1, hs⟩ := storeParts_none (s := overfullSplit 0) (ck := 0) (v := 0) (whole := false)
    (ps := splitParts (pageEntry 0)) (by decide +kernel)
  obtain ⟨t, ht, -, -, -, -, -, -, -, hm⟩ := h.2 (overfullSplit 0) s1 .h 1 2 0 (splitParts (pageEntry 0)) rfl
    (by decide +kernel) hs
  exact not_keepsOutside (by decide +kernel) rfl (by decide +kernel) ⟨t, ht, hm⟩

/-- Refutes O30: `overfull` with its page TILED and the bytes of the load under tenure. -/
theorem not_tiledLoadResult : ¬ Obligations.TiledLoadResult := by
  intro h
  obtain ⟨⟨v, s1⟩, hl⟩ := exists_of_toBool (x := (overfull 1).loadParts 0 [⟨16, 16, 1, pageEntry 1⟩]) (by decide +kernel)
  obtain ⟨hcovered, -⟩ := h.2.1 (overfull 1) .b 1 0 16 [⟨16, 16, 1, pageEntry 1⟩] rfl (by decide +kernel)
  obtain ⟨t, ht, -, -, -, -, -, hm⟩ := (hcovered rfl).1 v s1 (by decide +kernel) hl
  exact not_keepsOutside (by decide +kernel) rfl (by decide +kernel) ⟨t, ht, hm⟩

/-- Refutes O31: `overfullSplit` with its page TILED and the bytes of the store under WRITE tenure. -/
theorem not_tiledStoreResult : ¬ Obligations.TiledStoreResult := by
  intro h
  obtain ⟨s1, hs⟩ := storeParts_none (s := overfullSplit 1) (ck := 0) (v := 0) (whole := false)
    (ps := splitParts (pageEntry 1)) (by decide +kernel)
  obtain ⟨t, ht, -, -, -, hm⟩ := (h.2 (overfullSplit 1) .h 1 2 0 (splitParts (pageEntry 1)) rfl
    (by decide +kernel)).1 .l1 s1 (by decide +kernel) hs
  exact not_keepsOutside (by decide +kernel) rfl (by decide +kernel) ⟨t, ht, hm⟩

end Sys2Proof.Machine
end

section
/-! PROOFS. Statements that fail: of a peg line whose arrivals are all bare when the last of them is a matrix form's (R223,
R226), of a release of tenure beside a home load of the same thread (R261, R264), of the merges of a service core, whose die
is not its number divided by 512 (R88, R238), of the state of a launch whose records on two dies disagree (R289), of a
saved reply under another endpoint than its own (R361), and of a checkpoint while a die relocks (R316, R322). -/

namespace Sys2Proof.Machine

/-- A bare arrival at the peg line. -/
def bareArrival (pos thread : Nat) : GangArr :=
  { pos := pos, thread := thread, d := 0, mm := false, desc := [], ahdr := [], bhdr := [], bidx := [], tabs := [],
    apay := [], bpay := [] }

/-- The cores 1 to 7 of a cluster have arrived with `gang.peg`, and what the issuing thread of core 0 keeps of its checks is a
bare arrival. -/
def bareLine : State :=
  { State.reset with
    threads := [(0, { Thread.init with st := .ready, gangAt := some (bareArrival 0 0) })]
    cores := (List.range 8).map fun i => (i, { Core.init with launch := some 1 })
    clusters := [(0, { Cluster.init with arrivals := (List.range 7).map fun i => bareArrival (i + 1) (16 * (i + 1)) })] }

theorem mayArrive_bareLine : MayArrive bareLine := by
  unfold MayArrive
  decide +kernel

/-- Refutes O50: `bareLine`, where a `gang.mm` completes the bare barrier at once and does not wait. -/
theorem not_clusterForms : ¬ Obligations.ClusterForms := by
  intro h
  obtain ⟨-, -, -, -, hjoin, -⟩ := h bareLine 0 0 0 0 rfl
  obtain ⟨t, ht, ⟨hst, -⟩, -⟩ :=
    (hjoin (bareArrival 0 0) (.inl rfl) rfl mayArrive_bareLine).2 rfl (by decide +kernel)
  have hready : seenAfter (fun t => t.th.st) (.gangMm 0 0 0) bareLine = some .ready := by decide +kernel
  rw [seenAfter_next ht, hst] at hready
  exact absurd hready (by decide)

/-- Thread 0 holds tenure of a record, and a second entry of it in the table waits with a load at its home slice, of an
uncorrectable word. -/
def twiceThere : State :=
  { State.reset with
    threads := [(0, { Thread.init with st := .ready }),
      (0, { Thread.init with st := .waiting, wait := some { kind := .homeLoad [(0, 0, 1)], d := 0, since := 0, e := 0 } })]
    cores := [(0, { Core.init with tlb := [{ va := 0, pte := pageEntry 1 }] })]
    poison := [(0, true)]
    slices := [(0, { Slice.init with
      gens := [(0, 0)]
      recs := [(0, { asid := 0, fmt := 4, rank := 1, base := 16, hbase := 0, ext := [1, 0, 0, 0], str := [4, 0, 0, 0] })]
      ents := [{ idx := 0, thread := 0, lo := 0, hi := 0, write := false, r := 0, cls := 0, st := .held }] })] }

/-- The record that handle 0 names in `twiceThere`. -/
theorem handle_twiceThere : ∃ r, twiceThere.handle (twiceThere.th.rg 0) = .ok (0, 0, r) :=
  ⟨_, by with_unfolding_all rfl⟩

/-- Refutes O49: `twiceThere`, where the `til.rel` lets the home load of the second entry go on, whose trap is recorded in
the first. -/
theorem not_tileForms : ¬ Obligations.TileForms := by
  intro h
  obtain ⟨r, hr⟩ := handle_twiceThere
  obtain ⟨-, hhandle, -⟩ := h twiceThere 0 0 0 0 rfl
  obtain ⟨-, -, -, hrel, -⟩ := hhandle 0 0 r hr
  obtain ⟨t, ht, hk, -⟩ := hrel.2 (by decide +kernel)
  have hcause : seenAfter (fun t => t.th.kcause) (.tilRel 0 0 0) twiceThere = some 0x90 := by decide +kernel
  rw [seenAfter_next ht, hk.saved.1] at hcause
  exact absurd hcause (by decide +kernel)

/-- Service core 8192, which is of die 0, has a name to merge; at its purlin core position 7 has stepped last, in cycle 0,
and die 0 is in cycle 1. -/
def serviceMerge : State :=
  { State.reset with
    cores := [(8192, { Core.init with merging := [3] })]
    dies := [(0, { Die.init with cycle := 1 })]
    clusters := [(1024, { Cluster.init with mergeAt := some (0, 7) })] }

/-- In `serviceMerge` die 16 is in the cycle of the last step. -/
theorem not_mayStep_serviceMerge : ¬ MayStep serviceMerge 8192 := fun h => absurd (h 0 7 rfl rfl) (by decide)

/-- Refutes O54: `serviceMerge`, where the step of the core is not behind one of its own cycle and takes place. -/
theorem not_engineEvents : ¬ Obligations.EngineEvents := by
  intro h
  obtain ⟨⟨hturn, -⟩, -⟩ := h serviceMerge 0 0 0 0 0 0
  have hstays := seenAfter_next (f := fun t => (t.cor 8192).merging) (hturn 8192 not_mayStep_serviceMerge)
  have hsteps : seenAfter (fun t => (t.cor 8192).merging) (.battenMergeStep 8192) serviceMerge = some [] := by
    decide +kernel
  exact absurd (hstays.symm.trans hsteps) (by decide)

/-- A record of lid 7 in a state. -/
def recordOf7 (state : Nat) : LqRec := { LqRec.free with img := bytesOf 7 7 ++ bytesOf state 1 }

/-- Die 5, which the table lists before die 0, has lid 7 RUNNING, and die 0 has it SAVED. -/
def twoRecords : State :=
  { State.reset with
    dies := [(5, { Die.init with lq := [(0, recordOf7 lqRunning)] }), (0, { Die.init with lq := [(0, recordOf7 lqSaved)] })] }

/-- Refutes O55: `twoRecords`, where the command that stands in `lqcmd` of die 0 has its own record come first, and the
pre-emption of lid 7 is refused. -/
theorem not_launchEvents : ¬ Obligations.LaunchEvents := by
  intro h
  obtain ⟨-, -, -, -, -, -, -, hholds, -⟩ := h twoRecords 0 0 7
  obtain ⟨t, ht, hstat, -⟩ := (hholds (by decide +kernel)).1 (by decide +kernel) (by decide +kernel)
  have hrefused : seenAfter (fun t => (t.die 0).lqstat) (.lqPreempt 0 7) twoRecords = some 2 := by decide +kernel
  rw [seenAfter_next ht, hstat] at hrefused
  exact absurd hrefused (by decide)

/-- An operation of address space 1 of package 1. -/
def foreignOp : RemoteOp :=
  { ep := 65537, seq := 5, kind := .rread, win := 0, aop := 0, len := 0, off := 0, val := 0, cmp := 0, data := [] }

/-- A reply to address space 1 of package 0. -/
def ownReply : RemoteReply := { ep := 1, seq := 5, status := 0, old := 0, data := [] }

/-- Package 0 has saved `ownReply` under the endpoint and the number of `foreignOp`. -/
def misfiled : State := { State.reset with started := true, caches := [(65537, { newest := 5, saved := [ownReply] })] }

/-- Refutes O57: `misfiled`, where the saved reply goes to the package's own inbox and not to the net. -/
theorem not_serviceCalls : ¬ Obligations.ServiceCalls := by
  intro h
  obtain ⟨-, -, -, -, -, -, -, -, hop, -⟩ := h misfiled 0 0 0 []
  obtain ⟨t, ht, hnet⟩ := (hop foreignOp rfl (by decide)).1 ownReply rfl
  have hkept : seenAfter (fun t => t.netOut) (.remoteOpArrival foreignOp) misfiled = some [] := by decide +kernel
  rw [seenAfter_next ht, hnet] at hkept
  exact absurd hkept (by decide)

/-- A checkpoint that is to settle its beams, and die 0 relocks. -/
def relockingCkpt : State :=
  { State.reset with
    ckptRun := some { hdr := ⟨0, 0⟩, tick := 0, lids := [], settled := false }
    dies := [(0, { Die.init with clock := { Die.init.clock with t0 := some 0 } })] }

/-- Refutes O58: `relockingCkpt`, where no stage of the checkpoint goes on. -/
theorem not_hostRequests : ¬ Obligations.HostRequests := by
  intro h
  obtain ⟨-, -, -, hckpt⟩ := h relockingCkpt ⟨0, 0⟩ [] [] 0 0 0 0 none 0 0
  obtain ⟨t, ht, hrun, -⟩ := (hckpt _ rfl rfl (by decide +kernel)).1 rfl (by decide +kernel)
  have hwaits : seenAfter (fun t => t.ckptRun.map (·.settled)) (.hostCkpt ⟨0, 0⟩) relockingCkpt = some (some false) := by
    decide +kernel
  rw [seenAfter_next ht, hrun] at hwaits
  exact absurd hwaits (by decide)

end Sys2Proof.Machine
end

section
/-! PROOFS. The scratchpad: the rules of its bytes, words and lists, its loads, its stores and its full/empty forms. -/

namespace Sys2Proof.Machine

/-! ## Checks of an address (R121, R122, R123, R165, R166) -/

theorem scrAddr_ok {x : Word} (h : x.toNat < 2 ^ 18) : scrAddr x = .ok x.toNat := by
  simp only [scrAddr, trapIf]
  rw [if_neg (by simp; omega)]; rfl

theorem scrAddr_error {x : Word} (h : 2 ^ 18 ≤ x.toNat) :
    scrAddr x = .error (.trap { cause := cScratchBounds, info := x }) := by
  simp only [scrAddr, trapIf]
  rw [if_pos (by simp; omega)]; rfl

theorem scrBounds_cons_ok {s : State} {a n : Nat} (r : List (Nat × Nat)) (h : a + n ≤ s.scrLimit) :
    s.scrBounds ((a, n) :: r) = s.scrBounds r := by
  simp only [State.scrBounds, trapIf]
  rw [if_neg (by simp; omega)]; rfl

theorem scrBounds_cons_error {s : State} {a n : Nat} (r : List (Nat × Nat)) (h : s.scrLimit < a + n) :
    s.scrBounds ((a, n) :: r) = .error (.trap { cause := cScratchBounds, info := BitVec.ofNat 64 a }) := by
  simp only [State.scrBounds, trapIf]
  rw [if_pos (by simp; omega)]; rfl

theorem rowPieces_one {a n : Nat} (h : n ≤ 256 - a % 256) : rowPieces a n = [(a, n)] := if_pos h

theorem rowPieces_two {a n : Nat} (h : 256 - a % 256 < n) :
    rowPieces a n = [(a, 256 - a % 256), (a + (256 - a % 256), n - (256 - a % 256))] := if_neg (by omega)

/-- Bytes within the limit pass the check of every row. -/
theorem scrBounds_rowPieces {s : State} {a n : Nat} (h : a + n ≤ s.scrLimit) : s.scrBounds (rowPieces a n) = .ok () := by
  by_cases hn : n ≤ 256 - a % 256
  · rw [rowPieces_one hn, scrBounds_cons_ok _ h]; rfl
  · rw [rowPieces_two (by omega), scrBounds_cons_ok _ (by omega), scrBounds_cons_ok _ (by omega)]; rfl

theorem scrEa_ok {s : State} {a : Reg} {off : BitVec 11} {n la : Nat} (h : ScratchAt s a off n la) :
    s.scrEa a off n = .ok la := by
  obtain ⟨hx, hla, hb⟩ := h
  rw [State.scrEa, scrAddr_ok (hx ▸ hla), hx]
  change (s.scrBounds (rowPieces la n)).bind _ = _
  rw [scrBounds_rowPieces hb]; rfl

/-- Every form that takes its scratchpad address from `scrEa` first makes these checks. -/
theorem scratchChecks_of_scrEa {i : Instr} {s : State} {a : Reg} {off : BitVec 11} {n : Nat}
    {k : Nat → Except Stop State} (h : exec i s = finish s ((s.scrEa a off n).bind k)) :
    ScratchChecks i s n (s.th.ea a off n) := by
  generalize hx : s.th.ea a off n = x
  have hea : s.scrEa a off n = (scrAddr x).bind fun la => (s.scrBounds (rowPieces la n)).bind fun _ => .ok la := by
    rw [← hx]; rfl
  have stop : ∀ {tr : Trap}, s.scrEa a off n = .error (.trap tr) → Traps i s tr.cause tr.info :=
    fun {tr} e => traps_finish h (by rw [e]; rfl)
  have bounds : ∀ {tr : Trap}, x.toNat < 2 ^ 18 → s.scrBounds (rowPieces x.toNat n) = .error (.trap tr) →
      Traps i s tr.cause tr.info := fun hlt e => stop (by
    rw [hea, scrAddr_ok hlt]
    change (s.scrBounds _).bind _ = _
    rw [e]; rfl)
  refine ⟨fun hge => stop (tr := ⟨cScratchBounds, x, 0⟩) ?_, fun hlt hmin => bounds (tr := ⟨cScratchBounds, x, 0⟩) hlt ?_,
    fun hlt hrow hl hn =>
      bounds (tr := ⟨cScratchBounds, BitVec.ofNat 64 ((x.toNat / 256 + 1) * 256), 0⟩) hlt ?_⟩
  · rw [hea, scrAddr_error hge]; rfl
  · have hself : BitVec.ofNat 64 x.toNat = x := BitVec.ofNat_toNat _ _ |>.trans (BitVec.setWidth_eq x)
    by_cases hn : n ≤ 256 - x.toNat % 256
    · rw [rowPieces_one hn, scrBounds_cons_error _ (by omega), hself]
    · rw [rowPieces_two (by omega), scrBounds_cons_error _ (by omega), hself]
  · rw [rowPieces_two (by omega), scrBounds_cons_ok _ (by omega), scrBounds_cons_error _ (by omega),
      show x.toNat + (256 - x.toNat % 256) = (x.toNat / 256 + 1) * 256 by omega]

/-! ## Uncorrectable words (R281) -/

theorem mem_wordsOf {a n w : Nat} : w ∈ wordsOf a n ↔ a / 8 ≤ w ∧ 8 * w < a + n := by
  rw [wordsOf, List.mem_map]
  constructor
  · rintro ⟨k, hk, rfl⟩
    rw [List.mem_range] at hk
    omega
  · rintro ⟨h1, h2⟩
    exact ⟨w - a / 8, by rw [List.mem_range]; omega, by omega⟩

/-- The words of some bytes are listed from the lowest on. -/
theorem find_wordsOf {a n w : Nat} {bad : Nat → Prop} {p : Nat → Bool}
    (hp : ∀ v, a / 8 ≤ v → 8 * v < a + n → (p v = true ↔ bad v)) (h : FirstWord bad a n w) :
    (wordsOf a n).find? p = some w := by
  obtain ⟨hlo, hhi, hw, hfirst⟩ := h
  rw [wordsOf, List.find?_map, Option.map_eq_some_iff]
  refine ⟨w - a / 8, ?_, by omega⟩
  rw [List.find?_range_eq_some]
  have ha : a / 8 + (w - a / 8) = w := by omega
  refine ⟨?_, by rw [List.mem_range]; omega, fun j hj => ?_⟩
  · rw [Function.comp, ha]; exact (hp w hlo hhi).2 hw
  · rw [Function.comp, Bool.not_eq_true', ← Bool.not_eq_true]
    exact fun hb => hfirst (a / 8 + j) (by omega) (by omega) ((hp _ (by omega) (by omega)).1 hb)

theorem scrPoison_error {s : State} {a n w : Nat}
    (h : FirstWord (fun w => s.co.spoison.find w ≠ none) a n w) :
    s.scrPoison a n = .error (.trap (uncorrectable w)) := by
  rw [State.scrPoison, Core.scrBad, find_wordsOf (fun v _ _ => Option.isSome_iff_ne_none) h]

theorem fullWord_iff {a n w : Nat} : fullWord a n w = true ↔ Covers a n w := by
  rw [fullWord, Bool.and_eq_true, decide_eq_true_iff, decide_eq_true_iff, Covers]

/-! ## Loads of the scratchpad (R172, R173) -/

theorem Reg.next_eq (d : Reg) : Reg.next d = d + 1 := by
  apply Fin.ext
  rw [Fin.val_add]
  rfl

/-- Where the checks pass and every word is correct, the load goes on as it is written. -/
theorem finish_scrLoad {s : State} {a : Reg} {off : BitVec 11} {n la : Nat} {k : Nat → Except Stop State}
    (h : ScratchAt s a off n la) (hp : s.scrPoison la n = .ok ()) :
    finish s ((s.scrEa a off n).bind fun la => (s.scrPoison la n).bind fun _ => k la) = finish s (k la) := by
  rw [scrEa_ok h]
  change finish s ((s.scrPoison la n).bind _) = _
  rw [hp]; rfl

theorem traps_scrLoad {i : Instr} {s : State} {a : Reg} {off : BitVec 11} {n la w : Nat} {k : Nat → Except Stop State}
    (he : exec i s = finish s ((s.scrEa a off n).bind fun la => (s.scrPoison la n).bind fun _ => k la))
    (h : ScratchAt s a off n la) (hw : FirstWord (fun w => s.co.spoison.find w ≠ none) la n w) :
    Traps i s 0x90 (BitVec.ofNat 64 (8 * w)) :=
  traps_finish (tr := uncorrectable w) he (by
    rw [scrEa_ok h]
    change (s.scrPoison la n).bind _ = _
    rw [scrPoison_error hw]; rfl)

/-- What `lds` does with the address once its checks have passed. -/
def ldsResult (sz : SSize) (d : Reg) (s : State) (la : Nat) : Except Stop State :=
  match sz with
  | .q => .ok (s.modTh fun t =>
      ((t.setG d (BitVec.ofNat 64 (s.co.scrRead la 8))).setG (Reg.next d) (BitVec.ofNat 64 (s.co.scrRead (la + 8) 8))).retire)
  | _ => .ok (s.outG d (BitVec.ofNat 64 (s.co.scrRead la sz.bytes)))

theorem exec_lds (sz : SSize) (d a : Reg) (off : BitVec 11) (s : State) :
    exec (.lds sz d a off) s = finish s ((s.scrEa a off sz.bytes).bind fun la =>
      (s.scrPoison la sz.bytes).bind fun _ => ldsResult sz d s la) := by
  cases sz <;> rfl

theorem ldsResult_of_ne_q {sz : SSize} (h : sz ≠ .q) (d : Reg) (s : State) (la : Nat) :
    ldsResult sz d s la = .ok (s.outG d (BitVec.ofNat 64 (s.co.scrRead la sz.bytes))) := by
  cases sz with
  | q => exact absurd rfl h
  | b | h | w | d => rfl

theorem exec_vlds (d a : Reg) (off : BitVec 11) (s : State) :
    exec (.vlds d a off) s = finish s ((s.scrEa a off 64).bind fun la => (s.scrPoison la 64).bind fun _ =>
      .ok (s.modTh fun t => (t.setV d (BitVec.ofNat 512 (s.co.scrRead la 64))).retire)) := rfl

/-- A load of two halves: what two registers hold after it. -/
theorem ldsQ_result {i : Instr} {s : State} {d : Reg} {x y : Word} (hd : d.val < 31)
    (h : exec i s = .next (s.modTh fun t => ((t.setG d x).setG (Reg.next d) y).retire)) :
    ∃ t, exec i s = .next t ∧ OnlyThread s t ∧ Keeps [d, d + 1] [] [] s.th t.th ∧
      t.th.rg d = (if d = 0 then 0 else x) ∧ t.th.rg (d + 1) = y ∧ t.th.kstat = s.th.kstat ∧ Completed t.th := by
  rw [Reg.next_eq] at h
  have hne : d ≠ d + 1 := fun e => by
    have := congrArg Fin.val e
    rw [Fin.val_add] at this
    change d.val = (d.val + 1) % 32 at this
    omega
  have h0 : d + 1 ≠ 0 := fun e => by
    have := congrArg Fin.val e
    rw [Fin.val_add] at this
    change (d.val + 1) % 32 = 0 at this
    omega
  obtain ⟨k1, s1, -⟩ := setG_keeps s.th d x
  obtain ⟨k2, s2, -⟩ := setG_keeps (s.th.setG d x) (d + 1) y
  have hk : Keeps [d, d + 1] [] [] s.th ((s.th.setG d x).setG (d + 1) y) := by
    refine ⟨fun r hr => ?_, fun r _ => ?_, fun r _ => ?_, ?_, ?_, k2.frame.trans k1.frame, ?_, ?_⟩
    · simp only [List.mem_cons, List.not_mem_nil, or_false, not_or] at hr
      exact (k2.g r (by simpa using hr.2)).trans (k1.g r (by simpa using hr.1))
    · exact (k2.v r (by simp)).trans (k1.v r (by simp))
    · exact (k2.m r (by simp)).trans (k1.m r (by simp))
    · simpa only [k1.saved] using k2.saved
    · simpa only [k1.control] using k2.control
    · simpa only [k1.bits] using k2.bits
    · simpa only [k1.packet] using k2.packet
  refine ⟨_, h, onlyThread_modTh s _, ?_, ?_, ?_, ?_, ?_⟩ <;> rw [th_modTh]
  · exact hk.trans (retire_keeps _)
  · rw [retire_rg, rg_setG_other _ _ hne, rg_setG_same]
  · rw [retire_rg, rg_setG_same, if_neg h0]
  · rw [retire_kstat, s2, s1]
  · exact retire_completed _

/-- Settles O35: the checks of the address, the first uncorrectable word, and the bytes read. -/
theorem scratchpadLoadResult : Obligations.ScratchpadLoadResult := by
  unfold Obligations.ScratchpadLoadResult
  refine ⟨fun s d a off => ⟨fun sz => scratchChecks_of_scrEa (exec_lds sz d a off s),
    scratchChecks_of_scrEa (exec_vlds d a off s), fun la w => ⟨fun sz h hw => ?_, fun h hw => ?_⟩⟩,
    fun s d a off la => ⟨fun sz hq h hp => ?_, fun hd h hp => ?_, fun h hp => ?_⟩⟩
  · exact traps_scrLoad (exec_lds sz d a off s) h hw
  · exact traps_scrLoad (exec_vlds d a off s) h hw
  · exact writesG_outG (by rw [exec_lds, finish_scrLoad h hp, ldsResult_of_ne_q hq]; rfl)
  · exact ldsQ_result hd (by rw [exec_lds]; exact finish_scrLoad h hp)
  · exact writesV_retire (by rw [exec_vlds]; exact finish_scrLoad h hp)

/-! ## Bytes of the scratchpad (R121) -/

/-- One byte of a number replaced, as its lower part, itself and its upper part. -/
theorem replaceByte_eq (x k b : Nat) :
    x - x / k % 256 * k + b * k = x / (256 * k) * (256 * k) + b * k + x % k := by
  have h1 := Nat.div_add_mod x k
  have h2 := Nat.div_add_mod (x / k) 256
  rw [Nat.div_div_eq_div_mul, Nat.mul_comm k 256] at h2
  have h3 : x = x / (256 * k) * (256 * k) + x / k % 256 * k + x % k := by
    calc x = k * (x / k) + x % k := h1.symm
      _ = k * (256 * (x / (256 * k)) + x / k % 256) + x % k := by rw [h2]
      _ = _ := by ring
  omega

theorem replaceByte_div_mod {x k b : Nat} (hk : 0 < k) (hb : b < 256) : (x - x / k % 256 * k + b * k) / k % 256 = b := by
  rw [replaceByte_eq, show x / (256 * k) * (256 * k) + b * k + x % k = x % k + k * (256 * (x / (256 * k)) + b) by ring,
    Nat.add_mul_div_left _ _ hk, Nat.div_eq_of_lt (Nat.mod_lt _ hk)]
  omega

/-- Every other byte of the number is kept. -/
theorem replaceByte_other {x b i j : Nat} (hb : b < 256) (h : i ≠ j) :
    (x - x / 256 ^ j % 256 * 256 ^ j + b * 256 ^ j) / 256 ^ i % 256 = x / 256 ^ i % 256 := by
  have hj : 0 < 256 ^ j := by positivity
  have hi : 0 < 256 ^ i := by positivity
  generalize hy : x - x / 256 ^ j % 256 * 256 ^ j + b * 256 ^ j = y
  rw [replaceByte_eq] at hy
  rcases Nat.lt_or_gt_of_ne h with hlt | hgt
  · have hdvd : 256 ^ (i + 1) ∣ 256 ^ j := pow_dvd_pow 256 hlt
    have hmod : ∀ z : Nat, z / 256 ^ i % 256 = z % 256 ^ j / 256 ^ i % 256 := fun z => by
      rw [← Nat.mod_mul_right_div_self, ← Nat.mod_mul_right_div_self (z % 256 ^ j), ← Nat.pow_succ, Nat.mod_mod_of_dvd _ hdvd]
    rw [hmod y, hmod x, ← hy, show x / (256 * 256 ^ j) * (256 * 256 ^ j) + b * 256 ^ j + x % 256 ^ j =
      x % 256 ^ j + 256 ^ j * (256 * (x / (256 * 256 ^ j)) + b) by ring, Nat.add_mul_mod_self_left, Nat.mod_mod]
  · have hdvd : 256 * 256 ^ j ∣ 256 ^ i := by rw [← Nat.pow_succ']; exact pow_dvd_pow 256 hgt
    have hlow : b * 256 ^ j + x % 256 ^ j < 256 * 256 ^ j := by
      have := Nat.mod_lt x hj
      nlinarith
    have hdiv : y / (256 * 256 ^ j) = x / (256 * 256 ^ j) := by
      rw [← hy, show x / (256 * 256 ^ j) * (256 * 256 ^ j) + b * 256 ^ j + x % 256 ^ j =
        b * 256 ^ j + x % 256 ^ j + (256 * 256 ^ j) * (x / (256 * 256 ^ j)) by ring,
        Nat.add_mul_div_left _ _ (by positivity), Nat.div_eq_of_lt hlow, Nat.zero_add]
    obtain ⟨c, hc⟩ := hdvd
    rw [hc, ← Nat.div_div_eq_div_mul y, ← Nat.div_div_eq_div_mul x, hdiv]

theorem replaceByte_lt {x b j n : Nat} (hb : b < 256) (hx : x < 256 ^ n) (hj : j < n) :
    x - x / 256 ^ j % 256 * 256 ^ j + b * 256 ^ j < 256 ^ n := by
  have hp : 0 < 256 ^ j := by positivity
  rw [replaceByte_eq]
  obtain ⟨m, rfl⟩ := Nat.exists_eq_add_of_lt hj
  have hc : 256 ^ (j + m + 1) = 256 ^ m * (256 * 256 ^ j) := by ring
  have hd : x / (256 * 256 ^ j) < 256 ^ m := Nat.div_lt_of_lt_mul (by rw [Nat.mul_comm, ← hc]; exact hx)
  have := Nat.mod_lt x hp
  rw [hc]
  nlinarith [Nat.mul_le_mul_right (256 * 256 ^ j) (Nat.succ_le_of_lt hd)]

theorem scrByte_eq (c : Core) (a : Nat) :
    c.scrByte a = BitVec.ofNat 8 ((c.scratch.get 0 (a / 8)).toNat / 256 ^ (a % 8) % 256) := by
  apply BitVec.eq_of_toNat_eq
  rw [Core.scrByte, BitVec.toNat_ofNat, BitVec.toNat_ofNat, Nat.pow_mul]
  exact (Nat.mod_mod _ _).symm

/-- A byte of the scratchpad written. -/
theorem scrByte_scrPut (c : Core) (a x : Nat) (b : Byte) :
    (c.scrPut a b).scrByte x = if x = a then b else c.scrByte x := by
  have hw : ((c.scrPut a b).scratch.get 0 (a / 8)).toNat = (c.scratch.get 0 (a / 8)).toNat -
      (c.scratch.get 0 (a / 8)).toNat / 256 ^ (a % 8) % 256 * 256 ^ (a % 8) + b.toNat * 256 ^ (a % 8) := by
    have hlt := replaceByte_lt (n := 8) b.isLt (c.scratch.get 0 (a / 8)).isLt (Nat.mod_lt a (by decide))
    simp only [Core.scrPut, AMap.get_put_same, Nat.pow_mul, BitVec.toNat_ofNat]
    exact Nat.mod_eq_of_lt hlt
  rw [scrByte_eq, scrByte_eq]
  by_cases hx : x = a
  · rw [if_pos hx, hx, hw, replaceByte_div_mod (by positivity) b.isLt, BitVec.ofNat_toNat]
    exact BitVec.setWidth_eq b
  · rw [if_neg hx]
    by_cases hd : x / 8 = a / 8
    · rw [hd, hw, replaceByte_other b.isLt (by omega)]
    · rw [show (c.scrPut a b).scratch.get 0 (x / 8) = c.scratch.get 0 (x / 8) from AMap.get_put_other _ _ _ hd]

/-- Several bytes of the scratchpad written one after the other. -/
def Core.scrPuts (c : Core) (l : List (Nat × Byte)) : Core := l.foldl (fun c e => c.scrPut e.1 e.2) c

theorem scrPuts_form (c : Core) (l : List (Nat × Byte)) : ∃ m, c.scrPuts l = { c with scratch := m } := by
  induction l generalizing c with
  | nil => exact ⟨c.scratch, rfl⟩
  | cons e r ih =>
    obtain ⟨m, hm⟩ := ih (c.scrPut e.1 e.2)
    exact ⟨m, hm⟩

theorem scrByte_scrPuts_other (c : Core) (l : List (Nat × Byte)) {x : Nat} (h : ∀ e ∈ l, e.1 ≠ x) :
    (c.scrPuts l).scrByte x = c.scrByte x := by
  induction l generalizing c with
  | nil => rfl
  | cons e r ih =>
    refine (ih _ fun e' he' => h e' (List.mem_cons_of_mem _ he')).trans ?_
    rw [scrByte_scrPut, if_neg (fun hx => h e List.mem_cons_self hx.symm)]

theorem scrByte_scrPuts_mem (c : Core) (l : List (Nat × Byte)) {x : Nat} {b : Byte} (h : (x, b) ∈ l)
    (hu : ∀ e ∈ l, e.1 = x → e.2 = b) : (c.scrPuts l).scrByte x = b := by
  induction l generalizing c with
  | nil => exact absurd h (List.not_mem_nil)
  | cons e r ih =>
    by_cases hr : (x, b) ∈ r
    · exact ih _ hr fun e' he' => hu e' (List.mem_cons_of_mem _ he')
    · obtain rfl | hm := List.mem_cons.1 h
      · refine (scrByte_scrPuts_other _ r fun e' he' hx => hr ?_).trans (by rw [scrByte_scrPut, if_pos rfl])
        have := hu e' (List.mem_cons_of_mem _ he') hx
        exact (show e' = (x, b) from Prod.ext hx this) ▸ he'
      · exact absurd hm hr

/-- The addresses and values of a run of bytes. -/
def placedBytes (a : Nat) (bs : List Byte) : List (Nat × Byte) :=
  (bs.zip (List.range bs.length)).map fun e => (a + e.2, e.1)

theorem mem_placedBytes {a x : Nat} {b : Byte} {bs : List Byte} :
    (x, b) ∈ placedBytes a bs ↔ ∃ i, ∃ h : i < bs.length, x = a + i ∧ b = bs[i] := by
  rw [placedBytes, List.mem_map]
  constructor
  · rintro ⟨⟨v, k⟩, hm, he⟩
    obtain ⟨i, hi, hik⟩ := List.getElem_of_mem hm
    simp only [List.length_zip, List.length_range, Nat.min_self] at hi
    simp only [List.getElem_zip, List.getElem_range, Prod.mk.injEq] at hik he
    exact ⟨i, hi, by omega, by rw [← he.2, hik.1]⟩
  · rintro ⟨i, hi, rfl, rfl⟩
    refine ⟨(bs[i], i), ?_, rfl⟩
    rw [List.mem_iff_getElem]
    exact ⟨i, by simpa using hi, by simp⟩

/-- A write of the scratchpad: its bytes, and which marks it takes away. -/
theorem scrWrite_eq (c : Core) (a : Nat) (bs : List Byte) :
    c.scrWrite a bs = { c.scrPuts (placedBytes a bs) with
      spoison := (wordsOf a bs.length).foldl (fun p w => if fullWord a bs.length w then p.erase w else p) c.spoison } := by
  obtain ⟨m, hm⟩ := scrPuts_form c (placedBytes a bs)
  have hf : (bs.zip (List.range bs.length)).foldl (fun c e => c.scrPut (a + e.2) e.1) c = c.scrPuts (placedBytes a bs) := by
    rw [Core.scrPuts, placedBytes, List.foldl_map]
  rw [Core.scrWrite, hf, hm]

theorem scrByte_scrWrite (c : Core) (a : Nat) (bs : List Byte) {i : Nat} (h : i < bs.length) :
    (c.scrWrite a bs).scrByte (a + i) = bs[i] := by
  rw [scrWrite_eq]
  refine scrByte_scrPuts_mem c _ (mem_placedBytes.2 ⟨i, h, rfl, rfl⟩) fun e he hx => ?_
  obtain ⟨j, hj, hxj, hb⟩ := mem_placedBytes.1 he
  obtain rfl : i = j := by omega
  exact hb

theorem scrByte_scrWrite_outside (c : Core) (a : Nat) (bs : List Byte) {x : Nat} (h : x < a ∨ a + bs.length ≤ x) :
    (c.scrWrite a bs).scrByte x = c.scrByte x := by
  rw [scrWrite_eq]
  refine scrByte_scrPuts_other c _ fun e he hx => ?_
  obtain ⟨j, hj, hxj, -⟩ := mem_placedBytes.1 he
  omega

@[simp] theorem empty_scrWrite (c : Core) (a : Nat) (bs : List Byte) : (c.scrWrite a bs).empty = c.empty := by
  obtain ⟨m, hm⟩ := scrPuts_form c (placedBytes a bs)
  rw [scrWrite_eq, hm]

@[simp] theorem takers_scrWrite (c : Core) (a : Nat) (bs : List Byte) : (c.scrWrite a bs).takers = c.takers := by
  obtain ⟨m, hm⟩ := scrPuts_form c (placedBytes a bs)
  rw [scrWrite_eq, hm]

@[simp] theorem scr_scrWrite (c : Core) (a : Nat) (bs : List Byte) : (c.scrWrite a bs).scr = c.scr := by
  obtain ⟨m, hm⟩ := scrPuts_form c (placedBytes a bs)
  rw [scrWrite_eq, hm]

/-- A word that the bytes do not reach keeps its mark. -/
theorem spoison_scrWrite_outside (c : Core) (a : Nat) (bs : List Byte) {w : Nat} (h : a + bs.length ≤ 8 * w) :
    (c.scrWrite a bs).spoison.find w = c.spoison.find w := by
  have hfold : ∀ (l : List Nat) (p : AMap Bool), (∀ v ∈ l, v ≠ w) →
      (l.foldl (fun p v => if fullWord a bs.length v then p.erase v else p) p).find w = p.find w := by
    intro l
    induction l with
    | nil => exact fun p _ => rfl
    | cons v r ih =>
      intro p hne
      refine (ih _ fun v' hv' => hne v' (List.mem_cons_of_mem _ hv')).trans ?_
      dsimp only
      split
      · exact AMap.find_erase_other _ (hne v List.mem_cons_self).symm
      · rfl
  rw [scrWrite_eq]
  exact hfold _ _ fun v hv => by
    have := mem_wordsOf.1 hv
    omega

theorem spoison_scrWrite_nil (c : Core) (a : Nat) (bs : List Byte) (h : c.spoison = []) :
    (c.scrWrite a bs).spoison = [] := by
  rw [scrWrite_eq, h]
  exact List.foldl_fixed' (fun v => by split <;> rfl) _

/-! ## Stores of the scratchpad (R172, R173) -/

/-- A trap taken in a state that differs from the issue's in no thread and in no byte of memory. -/
theorem traps_of_trapNow {i : Instr} {s t : State} {tr : Trap} (h : exec i s = .next (t.trapNow tr))
    (hc : t.cur = s.cur) (ht : t.threads = s.threads) (hm : t.mem = s.mem) : Traps i s tr.cause tr.info := by
  have hthr : ∀ u, t.thr u = s.thr u := fun u => by rw [State.thr, State.thr, ht]
  have hcur : (t.trapNow tr).cur = s.cur := (cur_postRecord t t.cur tr).trans hc
  have hth : (t.trapNow tr).th = { s.th.formOver with
      st := .trapped, kcause := BitVec.ofNat 64 tr.cause, kinfo := tr.info, kepc := s.th.pc } := by
    rw [State.th, hcur, State.trapNow, hc, thr_takeTrap_same, hthr]; rfl
  refine ⟨_, h, ?_, ?_, ?_, ?_, ?_, ?_, ?_, ?_, ?_, hcur, fun u hu => ?_, fun a => by rw [mem_trapNow, hm]⟩
  any_goals rw [hth]
  · rfl
  · rfl
  · rfl
  · rfl
  · rfl
  · rw [State.trapNow, hc, thr_takeTrap_other t tr hu, hthr]

/-- The bytes of a store stand in the scratchpad of the issuing core, and nothing else has changed. -/
structure ScrStored (s t : State) (a : Nat) (bs : List Byte) : Prop where
  cur : t.cur = s.cur
  threads : t.threads = s.threads
  mem : t.mem = s.mem
  others : ∀ k, k ≠ s.ck → t.cor k = s.cor k
  bytes : ∀ i, ∀ h : i < bs.length, t.co.scrByte (a + i) = bs[i]
  outside : ∀ x, x < a ∨ a + bs.length ≤ x → t.co.scrByte x = s.co.scrByte x
  empty : t.co.empty = s.co.empty
  takers : t.co.takers = s.co.takers

theorem scrStored_modCo (s : State) (a : Nat) (bs : List Byte) : ScrStored s (s.modCo fun c => c.scrWrite a bs) a bs where
  cur := rfl
  threads := rfl
  mem := rfl
  others _ hk := cor_modCor_other s _ hk
  bytes i h := by rw [co_modCo, scrByte_scrWrite _ _ _ h]
  outside x h := by rw [co_modCo, scrByte_scrWrite_outside _ _ _ h]
  empty := by rw [co_modCo, empty_scrWrite]
  takers := by rw [co_modCo, takers_scrWrite]

/-- Two runs of bytes, one behind the other, are one run. -/
theorem ScrStored.append {s t u : State} {a : Nat} {bs cs : List Byte} (h : ScrStored s t a bs)
    (k : ScrStored t u (a + bs.length) cs) : ScrStored s u a (bs ++ cs) where
  cur := k.cur.trans h.cur
  threads := k.threads.trans h.threads
  mem := k.mem.trans h.mem
  others j hj := (k.others j (by rw [State.ck, h.cur]; exact hj)).trans (h.others j hj)
  bytes i hi := by
    rw [List.length_append] at hi
    by_cases hlt : i < bs.length
    · rw [k.outside _ (.inl (by omega)), h.bytes i hlt, List.getElem_append_left hlt]
    · have := k.bytes (i - bs.length) (by omega)
      rw [List.getElem_append_right (by omega), ← this]
      congr 1; omega
  outside x hx := by
    rw [List.length_append] at hx
    rw [k.outside x (by omega), h.outside x (by omega)]
  empty := k.empty.trans h.empty
  takers := k.takers.trans h.takers

/-- The bytes of a store by rows: all of them where they lie in one row, else those of each of two rows. -/
theorem rowBytes_cases (la : Nat) (bs : List Byte) :
    rowBytes la bs = [(la, bs)] ∨
      ∃ l r, bs = l ++ r ∧ l ≠ [] ∧ r ≠ [] ∧ (la + l.length) % 8 = 0 ∧ rowBytes la bs = [(la, l), (la + l.length, r)] := by
  by_cases h : bs.length ≤ 256 - la % 256
  · refine .inl ?_
    rw [rowBytes, rowPieces_one h]
    simp only [List.map_cons, List.map_nil, Nat.sub_self, List.drop_zero, List.take_length]
  · have hl : (bs.take (256 - la % 256)).length = 256 - la % 256 := by rw [List.length_take]; omega
    refine .inr ⟨bs.take (256 - la % 256), bs.drop (256 - la % 256), (List.take_append_drop _ _).symm, ?_, ?_, ?_, ?_⟩
    · exact List.ne_nil_of_length_pos (by omega)
    · exact List.ne_nil_of_length_pos (by rw [List.length_drop]; omega)
    · omega
    · rw [rowBytes, rowPieces_two (by omega)]
      simp only [List.map_cons, List.map_nil, Nat.sub_self, List.drop_zero, Nat.add_sub_cancel_left, hl, List.cons.injEq,
        Prod.mk.injEq, true_and, and_true]
      exact List.take_of_length_le (by rw [List.length_drop])

theorem scrPartPoison_ok {s : State} {a n : Nat}
    (h : ∀ w, a / 8 ≤ w → 8 * w < a + n → ¬(s.co.spoison.find w ≠ none ∧ ¬ Covers a n w)) :
    s.scrPartPoison a n = .ok () := by
  have hnone : s.co.scrPartBad a n = none := by
    rw [Core.scrPartBad, List.find?_eq_none]
    intro w hw hb
    obtain ⟨hlo, hhi⟩ := mem_wordsOf.1 hw
    rw [Bool.and_eq_true, Option.isSome_iff_ne_none, Bool.not_eq_true', ← Bool.not_eq_true, fullWord_iff] at hb
    exact h w hlo hhi hb
  rw [State.scrPartPoison, hnone]

theorem scrPartPoison_error {s : State} {a n w : Nat}
    (h : FirstWord (fun w => s.co.spoison.find w ≠ none ∧ ¬ Covers a n w) a n w) :
    s.scrPartPoison a n = .error (.trap (uncorrectable w)) := by
  rw [State.scrPartPoison, Core.scrPartBad, find_wordsOf (fun v _ _ => ?_) h]
  rw [Bool.and_eq_true, Option.isSome_iff_ne_none, Bool.not_eq_true', ← Bool.not_eq_true, fullWord_iff]

theorem scrStore_cons_ok {s : State} {a : Nat} {bs : List Byte} (r : List (Nat × List Byte))
    (h : s.scrPartPoison a bs.length = .ok ()) :
    s.scrStore ((a, bs) :: r) = (s.modCo fun c => c.scrWrite a bs).scrStore r := by
  rw [State.scrStore, h]

theorem scrStore_cons_error {s : State} {a : Nat} {bs : List Byte} {tr : Trap} (r : List (Nat × List Byte))
    (h : s.scrPartPoison a bs.length = .error (.trap tr)) : s.scrStore ((a, bs) :: r) = .ok (s.trapNow tr) := by
  rw [State.scrStore, h]

/-- With no uncorrectable word every row of the store is written, and the form is over. -/
theorem scrStore_rowBytes {s : State} (la : Nat) (bs : List Byte) (h : s.co.spoison = []) :
    ∃ t, s.scrStore (rowBytes la bs) = .ok t.done ∧ ScrStored s t la bs := by
  have hok : ∀ {t : State} (a n : Nat), t.co.spoison = [] → t.scrPartPoison a n = .ok () := fun a n ht =>
    scrPartPoison_ok fun w _ _ hw => hw.1 (by rw [ht]; rfl)
  obtain he | ⟨l, r, rfl, -, -, -, he⟩ := rowBytes_cases la bs
  · exact ⟨_, by rw [he, scrStore_cons_ok _ (hok _ _ h)]; rfl, scrStored_modCo s la bs⟩
  · have h1 : (s.modCo fun c => c.scrWrite la l).co.spoison = [] := by
      rw [co_modCo, spoison_scrWrite_nil _ _ _ h]
    refine ⟨_, ?_, (scrStored_modCo s la l).append (scrStored_modCo _ (la + l.length) r)⟩
    rw [he, scrStore_cons_ok _ (hok _ _ h), scrStore_cons_ok _ (hok _ _ h1)]; rfl

/-- The first word that the store would write but a part of, and that is uncorrectable, traps; what stands in the row before it
stays written. -/
theorem scrStore_traps {i : Instr} {s : State} {la w : Nat} {bs : List Byte}
    (hw : FirstWord (fun w => s.co.spoison.find w ≠ none ∧ ¬ Covers la bs.length w) la bs.length w)
    (he : exec i s = finish s (s.scrStore (rowBytes la bs))) : Traps i s 0x90 (BitVec.ofNat 64 (8 * w)) := by
  obtain hb | ⟨l, r, rfl, hl, hr, h8, hb⟩ := rowBytes_cases la bs
  · exact traps_trapNow (tr := uncorrectable w) (by rw [he, hb, scrStore_cons_error _ (scrPartPoison_error hw)]; rfl)
  rw [List.length_append] at hw
  have hlpos := List.length_pos_iff.2 hl
  have hrpos := List.length_pos_iff.2 hr
  have covL : ∀ v, 8 * v < la + l.length → (Covers la (l.length + r.length) v ↔ Covers la l.length v) := fun v hv => by
    unfold Covers; omega
  have covR : ∀ v, la + l.length ≤ 8 * v →
      (Covers la (l.length + r.length) v ↔ Covers (la + l.length) r.length v) := fun v hv => by
    unfold Covers; omega
  obtain ⟨hlo, hhi, ⟨hp, hc⟩, hfirst⟩ := hw
  by_cases hin : 8 * w < la + l.length
  · have hw1 : FirstWord (fun w => s.co.spoison.find w ≠ none ∧ ¬ Covers la l.length w) la l.length w :=
      ⟨hlo, hin, ⟨hp, fun h => hc ((covL w hin).2 h)⟩, fun v h1 h2 h3 =>
        hfirst v h1 h2 ⟨h3.1, fun h => h3.2 ((covL v (by omega)).1 h)⟩⟩
    exact traps_trapNow (tr := uncorrectable w) (by rw [he, hb, scrStore_cons_error _ (scrPartPoison_error hw1)]; rfl)
  · have hok : s.scrPartPoison la l.length = .ok () := scrPartPoison_ok fun v h1 h2 h3 =>
      hfirst v h1 (by omega) ⟨h3.1, fun h => h3.2 ((covL v h2).1 h)⟩
    have hsp : ∀ v, la + l.length ≤ 8 * v →
        (s.modCo fun c => c.scrWrite la l).co.spoison.find v = s.co.spoison.find v := fun v hv => by
      rw [co_modCo, spoison_scrWrite_outside _ _ _ hv]
    have hw2 : FirstWord (fun w => (s.modCo fun c => c.scrWrite la l).co.spoison.find w ≠ none ∧
        ¬ Covers (la + l.length) r.length w) (la + l.length) r.length w := by
      refine ⟨by omega, by omega, ⟨?_, fun h => hc ((covR w (by omega)).2 h)⟩, fun v h1 h2 h3 => ?_⟩
      · rw [hsp w (by omega)]; exact hp
      · have hv : la + l.length ≤ 8 * v := by omega
        obtain ⟨h4, h5⟩ := h3
        rw [hsp v hv] at h4
        exact hfirst v (by omega) h2 ⟨h4, fun h => h5 ((covR v hv).1 h)⟩
    exact traps_of_trapNow (tr := uncorrectable w) (t := s.modCo fun c => c.scrWrite la l)
      (by rw [he, hb, scrStore_cons_ok _ hok, scrStore_cons_error _ (scrPartPoison_error hw2)]; rfl) rfl rfl rfl

/-- The bytes that `sts` stores. -/
def stsBytes (sz : SSize) (d : Reg) (s : State) : List Byte :=
  match sz with
  | .q => bytesOf (s.rg d).toNat 8 ++ bytesOf (s.rg (Reg.next d)).toNat 8
  | _ => bytesOf (s.rg d).toNat sz.bytes

theorem exec_sts (sz : SSize) (d a : Reg) (off : BitVec 11) (s : State) :
    exec (.sts sz d a off) s =
      finish s ((s.scrEa a off sz.bytes).bind fun la => s.scrStore (rowBytes la (stsBytes sz d s))) := by
  cases sz <;> rfl

theorem stsBytes_of_ne_q {sz : SSize} (h : sz ≠ .q) (d : Reg) (s : State) :
    stsBytes sz d s = bytesOf (s.rg d).toNat sz.bytes := by
  cases sz with
  | q => exact absurd rfl h
  | b | h | w | d => rfl

theorem length_stsBytes (sz : SSize) (d : Reg) (s : State) : (stsBytes sz d s).length = sz.bytes := by
  cases sz with
  | q => rw [stsBytes, List.length_append, length_bytesOf, length_bytesOf]; rfl
  | b | h | w | d => exact length_bytesOf _ _

theorem exec_vsts (d a : Reg) (off : BitVec 11) (s : State) :
    exec (.vsts d a off) s =
      finish s ((s.scrEa a off 64).bind fun la => s.scrStore (rowBytes la (bytesOf (s.th.rv d).toNat 64))) := rfl

theorem bytesOf_getElem_eq (v n : Nat) {i : Nat} (hi : i < (bytesOf v n).length) :
    (bytesOf v n)[i] = BitVec.ofNat 8 (v / 2 ^ (8 * i)) := by
  apply BitVec.eq_of_toNat_eq
  rw [bytesOf_getElem, BitVec.toNat_ofNat, Nat.pow_mul]

/-- A store whose checks pass completes with its bytes in place. -/
theorem scrStore_completes {i : Instr} {s : State} {a : Reg} {off : BitVec 11} {n la : Nat} {bs : List Byte}
    (he : exec i s = finish s ((s.scrEa a off n).bind fun la => s.scrStore (rowBytes la bs))) (hn : bs.length = n)
    (h : ScratchAt s a off n la) (hp : s.co.spoison = []) :
    ∃ t, exec i s = .next t ∧ Keeps [] [] [] s.th t.th ∧ Completed t.th ∧
      OnlyScratch s t (fun x => x < la ∨ la + n ≤ x) ∧ ∀ i, ∀ h : i < bs.length, t.co.scrByte (la + i) = bs[i] := by
  obtain ⟨t, hs, k⟩ := scrStore_rowBytes la bs hp
  have hth : t.th = s.th := by rw [State.th, State.th, State.thr, State.thr, k.cur, k.threads]
  refine ⟨t.done, ?_, ?_, ?_, ⟨k.cur, fun u hu => ?_, fun x => ?_, k.others, fun x hx => ?_, k.empty, k.takers⟩, k.bytes⟩
  · rw [he, scrEa_ok h]
    exact congrArg (finish s) hs
  · rw [State.done, th_modTh, hth]; exact retire_keeps _
  · rw [State.done, th_modTh]; exact retire_completed _
  · rw [State.done, State.modTh, k.cur, thr_modThr_other _ _ hu, State.thr, State.thr, k.threads]
  · rw [mem_done, k.mem]
  · exact k.outside x (by rw [hn]; exact hx)

theorem traps_scrStore {i : Instr} {s : State} {a : Reg} {off : BitVec 11} {n la w : Nat} {bs : List Byte}
    (he : exec i s = finish s ((s.scrEa a off n).bind fun la => s.scrStore (rowBytes la bs))) (hn : bs.length = n)
    (h : ScratchAt s a off n la) (hw : FirstWord (fun w => s.co.spoison.find w ≠ none ∧ ¬ Covers la n w) la n w) :
    Traps i s 0x90 (BitVec.ofNat 64 (8 * w)) := by
  subst hn
  exact scrStore_traps hw (by rw [he, scrEa_ok h]; rfl)

/-- Settles O36: the checks of the address, the first uncorrectable word written in part, and the bytes stored. -/
theorem scratchpadStoreResult : Obligations.ScratchpadStoreResult := by
  unfold Obligations.ScratchpadStoreResult
  refine ⟨fun s d a off => ⟨fun sz => scratchChecks_of_scrEa (exec_sts sz d a off s),
    scratchChecks_of_scrEa (exec_vsts d a off s), fun la w => ⟨fun sz h hw => ?_, fun h hw => ?_⟩⟩,
    fun s d a off la hp => ⟨fun sz hq h => ?_, fun hd h => ?_, fun h => ?_⟩⟩
  · exact traps_scrStore (exec_sts sz d a off s) (length_stsBytes sz d s) h hw
  · exact traps_scrStore (exec_vsts d a off s) (length_bytesOf _ _) h hw
  · obtain ⟨t, he, hk, hc, ho, hb⟩ := scrStore_completes (exec_sts sz d a off s) (length_stsBytes sz d s) h hp
    rw [stsBytes_of_ne_q hq] at hb
    exact ⟨t, he, hk, hc, ho, fun i hi =>
      (hb i (by rw [length_bytesOf]; exact hi)).trans (bytesOf_getElem_eq _ _ _)⟩
  · obtain ⟨t, he, hk, hc, ho, hb⟩ := scrStore_completes (exec_sts .q d a off s) (length_stsBytes .q d s) h hp
    have hlen := length_stsBytes .q d s
    refine ⟨t, he, hk, hc, ho, fun i hi => ⟨?_, ?_⟩⟩
    · refine (hb i (by rw [hlen]; exact Nat.lt_of_lt_of_le hi (by decide))).trans ?_
      simp only [stsBytes]
      rw [List.getElem_append_left (by rw [length_bytesOf]; exact hi), bytesOf_getElem_eq]
      rfl
    · rw [Nat.add_assoc]
      refine (hb (8 + i) (by rw [hlen]; exact Nat.add_lt_add_left hi 8)).trans ?_
      simp only [stsBytes]
      rw [List.getElem_append_right (by rw [length_bytesOf]; omega), bytesOf_getElem_eq, length_bytesOf, Reg.next_eq,
        Nat.add_sub_cancel_left]
      rfl
  · obtain ⟨t, he, hk, hc, ho, hb⟩ := scrStore_completes (exec_vsts d a off s) (length_bytesOf _ _) h hp
    exact ⟨t, he, hk, hc, ho, fun i hi =>
      (hb i (by rw [length_bytesOf]; exact hi)).trans (bytesOf_getElem_eq _ _ _)⟩

/-! ## Full/empty forms (R124, R125, R174) -/

theorem feWord_ok {s : State} {a : Reg} {off : BitVec 11} {w : Nat} (h : ScratchAt s a off 8 (8 * w)) :
    s.feWord a off = .ok w := by
  obtain ⟨hx, hla, hb⟩ := h
  rw [State.feWord, scrAddr_ok (hx ▸ hla), hx]
  change (trapIf (8 * w % 8 != 0) cMisaligned _).bind _ = _
  rw [trapIf, if_neg (by simp)]
  change (s.scrBounds [(8 * w, 8)]).bind _ = _
  rw [scrBounds_cons_ok _ hb]
  exact congrArg Except.ok (by omega)

/-- Every form that takes its word from `feWord` first makes these checks. -/
theorem blockChecks_of_feWord {i : Instr} {s : State} {a : Reg} {off : BitVec 11} {k : Nat → Except Stop State}
    (h : exec i s = finish s ((s.feWord a off).bind k)) : BlockChecks i s 8 8 (s.th.ea a off 8) := by
  generalize hx : s.th.ea a off 8 = x
  have hfe : s.feWord a off = (scrAddr x).bind fun la => (trapIf (la % 8 != 0) cMisaligned x).bind fun _ =>
      (s.scrBounds [(la, 8)]).bind fun _ => .ok (la / 8) := by rw [← hx]; rfl
  have stop : ∀ {tr : Trap}, s.feWord a off = .error (.trap tr) → Traps i s tr.cause tr.info :=
    fun {tr} e => traps_finish h (by rw [e]; rfl)
  refine ⟨fun hge => stop (tr := ⟨cScratchBounds, x, 0⟩) ?_, fun hlt hm => stop (tr := ⟨cMisaligned, x, 0⟩) ?_,
    fun hlt hm hl => stop (tr := ⟨cScratchBounds, x, 0⟩) ?_⟩
  · rw [hfe, scrAddr_error hge]; rfl
  · rw [hfe, scrAddr_ok hlt]
    change (trapIf (x.toNat % 8 != 0) cMisaligned x).bind _ = _
    rw [trapIf, if_pos (by simpa using hm)]; rfl
  · rw [hfe, scrAddr_ok hlt]
    change (trapIf (x.toNat % 8 != 0) cMisaligned x).bind _ = _
    rw [trapIf, if_neg (by simpa using hm)]
    change (s.scrBounds [(x.toNat, 8)]).bind _ = _
    rw [scrBounds_cons_error _ hl, show BitVec.ofNat 64 x.toNat = x from (BitVec.ofNat_toNat _ _).trans (BitVec.setWidth_eq x)]
    rfl

/-! ### The bits and lists of the words -/

@[simp] theorem isFull_setFull_same (c : Core) (w : Nat) (b : Bool) : (c.setFull w b).isFull w = b := by
  cases b <;> simp [Core.isFull, Core.setFull]

theorem isFull_setFull_other (c : Core) {v w : Nat} (b : Bool) (h : v ≠ w) : (c.setFull w b).isFull v = c.isFull v := by
  cases b
  · simp [Core.isFull, Core.setFull, AMap.find_set_other, h]
  · simp [Core.isFull, Core.setFull, AMap.find_erase_other, h]

@[simp] theorem takersOf_setTakers (c : Core) (w : Nat) (l : List Nat) : (c.setTakers w l).takersOf w = l := by
  unfold Core.takersOf Core.setTakers
  split
  · next h => simpa using h.symm
  · simp

/-! ### Folds over the contexts of a core -/

theorem foldl_kept {α β : Type} {f : State → α → State} {p : State → β} (h : ∀ s a, p (f s a) = p s) (l : List α)
    (s : State) : p (l.foldl f s) = p s := by
  induction l generalizing s with
  | nil => rfl
  | cons a r ih => exact (ih _).trans (h s a)

theorem threadOf_inj {ck c e : Nat} (h : threadOf ck c = threadOf ck e) : c = e := by
  unfold threadOf at h; omega

/-- A change of one context after the other, each by its own thread alone: what every thread is afterwards. -/
theorem thr_foldl_contexts {f : State → Nat → State} {g : Thread → Thread} {ck : Nat}
    (hs : ∀ s c, (f s c).thr (threadOf ck c) = g (s.thr (threadOf ck c)))
    (ho : ∀ s c u, u ≠ threadOf ck c → (f s c).thr u = s.thr u) (l : List Nat) (hl : l.Nodup) (s : State) (u : Nat) :
    (l.foldl f s).thr u = if ∃ c ∈ l, u = threadOf ck c then g (s.thr u) else s.thr u := by
  induction l generalizing s with
  | nil => simp
  | cons e r ih =>
    obtain ⟨he, hr⟩ := List.nodup_cons.1 hl
    rw [List.foldl_cons, ih hr]
    by_cases hu : u = threadOf ck e
    · have hno : ¬ ∃ c ∈ r, u = threadOf ck c := fun ⟨c, hc, hx⟩ => he (threadOf_inj (hu.symm.trans hx) ▸ hc)
      rw [if_neg hno, if_pos ⟨e, List.mem_cons_self, hu⟩, hu, hs]
    · rw [ho s e u hu]
      exact if_congr ⟨fun ⟨c, hc, hx⟩ => ⟨c, List.mem_cons_of_mem _ hc, hx⟩, fun ⟨c, hc, hx⟩ =>
        ⟨c, (List.mem_cons.1 hc).resolve_left fun h => hu (h ▸ hx), hx⟩⟩ rfl rfl

/-- What a word that becomes full does to a thread (R174, R184). -/
def readerWoken (w : Nat) (y : Word) (t : Thread) : Thread :=
  match t.st, t.wait with
  | .waiting, some x =>
    if x.kind = .fullWord w then t.endWait x.d y
    else if x.kind = .refill w then { t.wake with got := (w, y) :: t.got }
    else t
  | _, _ => t

/-- What a word that becomes full and is uncorrectable does to a thread (R281). -/
def readerTrapped (w : Nat) (t : Thread) : Thread :=
  if t.readsWord w then { t.formOver with
    st := .trapped, kcause := BitVec.ofNat 64 cUncorrectable, kinfo := BitVec.ofNat 64 (8 * w), kepc := t.pc } else t

/-- One context of `State.wakeReaders`. -/
def State.wakeReader (s : State) (ck w : Nat) (y : Word) (c : Nat) : State :=
  match (s.thr (threadOf ck c)).st, (s.thr (threadOf ck c)).wait with
  | .waiting, some x =>
    if x.kind = .fullWord w then s.modThr (threadOf ck c) fun th => th.endWait x.d y
    else if x.kind = .refill w then s.modThr (threadOf ck c) fun th => { th.wake with got := (w, y) :: th.got }
    else s
  | _, _ => s

theorem wakeReaders_eq (s : State) (ck w : Nat) (y : Word) :
    s.wakeReaders ck w y = (List.range 16).foldl (fun s c => s.wakeReader ck w y c) s := rfl

/-- A reader of a word is changed alone. -/
theorem wakeReader_cases (s : State) (ck w : Nat) (y : Word) (c : Nat) :
    s.wakeReader ck w y c = s.modThr (threadOf ck c) (readerWoken w y) ∨
      s.wakeReader ck w y c = s ∧ readerWoken w y (s.thr (threadOf ck c)) = s.thr (threadOf ck c) := by
  generalize ht : s.thr (threadOf ck c) = t
  have hw : s.wakeReader ck w y c = match t.st, t.wait with
    | .waiting, some x =>
      if x.kind = .fullWord w then s.setThr (threadOf ck c) (t.endWait x.d y)
      else if x.kind = .refill w then s.setThr (threadOf ck c) { t.wake with got := (w, y) :: t.got }
      else s
    | _, _ => s := by
    rw [← ht]; rfl
  have hm : s.modThr (threadOf ck c) (readerWoken w y) = s.setThr (threadOf ck c) (readerWoken w y t) := by
    rw [← ht]; rfl
  rw [hm, hw]
  unfold readerWoken
  split
  · next x hst hwt =>
    by_cases h1 : x.kind = .fullWord w
    · exact .inl (by rw [if_pos h1, if_pos h1])
    · rw [if_neg h1, if_neg h1]
      by_cases h2 : x.kind = .refill w
      · exact .inl (by rw [if_pos h2, if_pos h2])
      · exact .inr ⟨if_neg h2, if_neg h2⟩
  · exact .inr ⟨rfl, rfl⟩

theorem thr_wakeReaders (s : State) (ck w : Nat) (y : Word) (u : Nat) :
    (s.wakeReaders ck w y).thr u =
      if ∃ c ∈ List.range 16, u = threadOf ck c then readerWoken w y (s.thr u) else s.thr u := by
  rw [wakeReaders_eq]
  refine thr_foldl_contexts (fun s c => ?_) (fun s c v hv => ?_) _ List.nodup_range s u
  · obtain h | ⟨h, hg⟩ := wakeReader_cases s ck w y c
    · rw [h, thr_modThr_same]
    · rw [h, hg]
  · obtain h | ⟨h, -⟩ := wakeReader_cases s ck w y c
    · rw [h, thr_modThr_other _ _ hv]
    · rw [h]

theorem cores_wakeReaders (s : State) (ck w : Nat) (y : Word) : (s.wakeReaders ck w y).cores = s.cores :=
  foldl_kept (f := fun s c => s.wakeReader ck w y c) (p := State.cores)
    (fun s c => by obtain h | ⟨h, -⟩ := wakeReader_cases s ck w y c <;> rw [h]; rfl) _ s

theorem cur_wakeReaders (s : State) (ck w : Nat) (y : Word) : (s.wakeReaders ck w y).cur = s.cur :=
  foldl_kept (f := fun s c => s.wakeReader ck w y c) (p := State.cur)
    (fun s c => by obtain h | ⟨h, -⟩ := wakeReader_cases s ck w y c <;> rw [h]; rfl) _ s

theorem cores_takeTrap (s : State) (t : Nat) (tr : Trap) : (s.takeTrap t tr).cores = s.cores := by
  unfold State.takeTrap State.postRecord
  dsimp only
  split
  · rfl
  · split <;> rfl

theorem cur_takeTrap (s : State) (t : Nat) (tr : Trap) : (s.takeTrap t tr).cur = s.cur := cur_postRecord s t tr

theorem thr_trapReaders (s : State) (ck w : Nat) (u : Nat) :
    (s.trapReaders ck w).thr u =
      if ∃ c ∈ List.range 16, u = threadOf ck c then readerTrapped w (s.thr u) else s.thr u := by
  rw [State.trapReaders]
  refine thr_foldl_contexts (fun s c => ?_) (fun s c v hv => ?_) _ List.nodup_range s u
  · unfold readerTrapped
    split
    · rw [thr_takeTrap_same]; rfl
    · rfl
  · split
    · exact thr_takeTrap_other s _ hv
    · rfl

theorem cores_trapReaders (s : State) (ck w : Nat) : (s.trapReaders ck w).cores = s.cores :=
  foldl_kept (fun s c => by split; exacts [cores_takeTrap _ _ _, rfl]) _ s

theorem cur_trapReaders (s : State) (ck w : Nat) : (s.trapReaders ck w).cur = s.cur :=
  foldl_kept (fun s c => by split; exacts [cur_takeTrap _ _ _, rfl]) _ s

theorem readerWoken_ready {t : Thread} (w : Nat) (y : Word) (h : t.st = .ready) : readerWoken w y t = t := by
  simp only [readerWoken, h]

theorem readerTrapped_ready {t : Thread} (w : Nat) (h : t.st = .ready) : readerTrapped w t = t := by
  rw [readerTrapped, if_neg (by simp [Thread.readsWord, h])]

theorem readerWoken_load {t : Thread} {x : Wait} {w : Nat} (y : Word) (hst : t.st = .waiting) (hw : t.wait = some x)
    (hk : x.kind = .fullWord w) : readerWoken w y t = t.endWait x.d y := by
  simp only [readerWoken, hst, hw, hk, if_true]

theorem readerTrapped_load {t : Thread} {x : Wait} {w : Nat} (hst : t.st = .waiting) (hw : t.wait = some x)
    (hk : x.kind = .fullWord w) : readerTrapped w t = { t.formOver with
      st := .trapped, kcause := BitVec.ofNat 64 cUncorrectable, kinfo := BitVec.ofNat 64 (8 * w), kepc := t.pc } := by
  rw [readerTrapped, if_pos (by simp [Thread.readsWord, hst, hw, hk])]

/-! ### The forms -/

theorem exec_feTake (d a : Reg) (off : BitVec 11) (s : State) :
    exec (.feTake d a off) s = finish s ((s.feWord a off).bind fun w =>
      if s.co.isFull w then
        (s.scrPoison (8 * w) 8).bind fun _ => .ok ((s.modCo fun c => c.setFull w false).outG d (s.co.scratch.get 0 w))
      else .ok ((s.modCo fun c => c.setTakers w (c.takersOf w ++ [s.cur])).modTh fun t =>
        t.block s.tick .waiting (.take w) d 15)) := rfl

theorem exec_feSload (d a : Reg) (off : BitVec 11) (s : State) :
    exec (.feSload d a off) s = finish s ((s.feWord a off).bind fun w =>
      if s.co.isFull w then (s.scrPoison (8 * w) 8).bind fun _ => .ok (s.outG d (s.co.scratch.get 0 w))
      else .ok (s.modTh fun t => t.block s.tick .waiting (.fullWord w) d 15)) := rfl

theorem exec_fePut (d a : Reg) (off : BitVec 11) (s : State) :
    exec (.fePut d a off) s = finish s ((s.feWord a off).bind fun w => .ok ((s.arriveWord s.ck w (s.rg d)).done)) := rfl

theorem exec_feFill (d a : Reg) (off : BitVec 11) (s : State) :
    exec (.feFill d a off) s = finish s ((s.feWord a off).bind fun w =>
      .ok (if bitAt (s.rg d) 0 then s.markFull s.ck w else s.modCo fun c => c.setFull w false).reply) := rfl

section
variable {s : State} {d a : Reg} {off : BitVec 11} {w : Nat} (h : ScratchAt s a off 8 (8 * w))
include h

theorem feTake_full (hf : s.co.isFull w = true) (hp : s.scrPoison (8 * w) 8 = .ok ()) :
    exec (.feTake d a off) s = .next ((s.modCo fun c => c.setFull w false).outG d (s.co.scratch.get 0 w)) := by
  rw [exec_feTake, feWord_ok h]
  change finish s (if s.co.isFull w = true then _ else _) = _
  rw [if_pos hf, hp]; rfl

theorem feTake_empty (hf : s.co.isFull w = false) :
    exec (.feTake d a off) s = .next ((s.modCo fun c => c.setTakers w (c.takersOf w ++ [s.cur])).modTh fun t =>
      t.block s.tick .waiting (.take w) d 15) := by
  rw [exec_feTake, feWord_ok h]
  change finish s (if s.co.isFull w = true then _ else _) = _
  rw [if_neg (by rw [hf]; decide)]; rfl

theorem feSload_full (hf : s.co.isFull w = true) (hp : s.scrPoison (8 * w) 8 = .ok ()) :
    exec (.feSload d a off) s = .next (s.outG d (s.co.scratch.get 0 w)) := by
  rw [exec_feSload, feWord_ok h]
  change finish s (if s.co.isFull w = true then _ else _) = _
  rw [if_pos hf, hp]; rfl

theorem feSload_empty (hf : s.co.isFull w = false) :
    exec (.feSload d a off) s = .next (s.modTh fun t => t.block s.tick .waiting (.fullWord w) d 15) := by
  rw [exec_feSload, feWord_ok h]
  change finish s (if s.co.isFull w = true then _ else _) = _
  rw [if_neg (by rw [hf]; decide)]; rfl

theorem fePut_eq : exec (.fePut d a off) s = .next (s.arriveWord s.ck w (s.th.rg d)).done := by
  rw [exec_fePut, feWord_ok h]; rfl

theorem feFill_set (hb : bitAt (s.th.rg d) 0 = true) : exec (.feFill d a off) s = .next (s.markFull s.ck w).reply := by
  rw [exec_feFill, feWord_ok h, State.rg, hb]; rfl

theorem feFill_clear (hb : bitAt (s.th.rg d) 0 = false) :
    exec (.feFill d a off) s = .next (s.modCo fun c => c.setFull w false).reply := by
  rw [exec_feFill, feWord_ok h, State.rg, hb]; rfl

theorem traps_feTake (hf : s.co.isFull w = true) (hp : s.scrPoison (8 * w) 8 = .error (.trap (uncorrectable w))) :
    Traps (.feTake d a off) s 0x90 (BitVec.ofNat 64 (8 * w)) :=
  traps_finish (tr := uncorrectable w) (exec_feTake d a off s) (by
    rw [feWord_ok h]
    change (if s.co.isFull w = true then _ else _) = _
    rw [if_pos hf, hp]; rfl)

theorem traps_feSload (hf : s.co.isFull w = true) (hp : s.scrPoison (8 * w) 8 = .error (.trap (uncorrectable w))) :
    Traps (.feSload d a off) s 0x90 (BitVec.ofNat 64 (8 * w)) :=
  traps_finish (tr := uncorrectable w) (exec_feSload d a off s) (by
    rw [feWord_ok h]
    change (if s.co.isFull w = true then _ else _) = _
    rw [if_pos hf, hp]; rfl)

end

/-- What a word that has become full or has been given to a taker leaves as it was: the issuing thread, and the identity of the
issue. -/
structure IssuerKept (s t : State) : Prop where
  cur : t.cur = s.cur
  th : t.th = s.th

theorem IssuerKept.done {s t : State} (h : IssuerKept s t) : Completed t.done.th ∧ Keeps [] [] [] s.th t.done.th := by
  rw [State.done, th_modTh, h.th]
  exact ⟨retire_completed _, retire_keeps _⟩

theorem IssuerKept.reply {s t : State} (h : IssuerKept s t) : Completed t.reply.th ∧ Keeps [] [] [] s.th t.reply.th := by
  rw [State.reply, th_modTh, h.th]
  exact ⟨retireReply_completed _ _ _, retireReply_keeps _ _ _⟩

theorem thr_done_other {t : State} {u : Nat} (h : u ≠ t.cur) : t.done.thr u = t.thr u := thr_modThr_other t _ h

theorem scrPoison_word {s : State} {w : Nat} (h : s.scrPoison (8 * w) 8 = .ok ()) : s.co.spoison.find w = none := by
  by_contra hw
  have hfw : FirstWord (fun w => s.co.spoison.find w ≠ none) (8 * w) 8 w :=
    ⟨by omega, by omega, hw, fun v h1 h2 => absurd h1 (by omega)⟩
  rw [scrPoison_error hfw] at h
  exact nomatch h

theorem scrPoison_word_error {s : State} {w : Nat} (h : s.co.spoison.find w ≠ none) :
    s.scrPoison (8 * w) 8 = .error (.trap (uncorrectable w)) :=
  scrPoison_error ⟨by omega, by omega, h, fun v h1 h2 => absurd h1 (by omega)⟩

/-- A word that its core's readers take: the loads among them, and the issuing thread. -/
theorem issuerKept_wakeReaders {s t : State} (w : Nat) (y : Word) (hc : t.cur = s.cur) (ht : t.threads = s.threads)
    (hr : s.th.st = .ready) : IssuerKept s (t.wakeReaders s.ck w y) := by
  have hthr : ∀ u, t.thr u = s.thr u := fun u => by rw [State.thr, State.thr, ht]
  refine ⟨(cur_wakeReaders ..).trans hc, ?_⟩
  rw [State.th, cur_wakeReaders, hc, thr_wakeReaders, hthr]
  change (if _ then readerWoken w y s.th else s.th) = s.th
  rw [readerWoken_ready w y hr, ite_self]

theorem wakeReaders_load {s t : State} {c w : Nat} {x : Wait} (y : Word) (ht : t.threads = s.threads)
    (h : LoadWaits s c w x) :
    ((t.wakeReaders s.ck w y).thr (threadOf s.ck c)).st = .ready ∧
      ((t.wakeReaders s.ck w y).thr (threadOf s.ck c)).rg x.d = (if x.d = 0 then 0 else y) := by
  obtain ⟨hc, -, hst, hw, hk⟩ := h
  have hthr : ∀ u, t.thr u = s.thr u := fun u => by rw [State.thr, State.thr, ht]
  rw [thr_wakeReaders, if_pos ⟨c, List.mem_range.2 hc, rfl⟩, hthr, readerWoken_load y hst hw hk]
  exact ⟨rfl, endWait_rg _ _ _⟩

theorem issuerKept_trapReaders {s t : State} (w : Nat) (hc : t.cur = s.cur) (ht : t.threads = s.threads)
    (hr : s.th.st = .ready) : IssuerKept s (t.trapReaders s.ck w) := by
  have hthr : ∀ u, t.thr u = s.thr u := fun u => by rw [State.thr, State.thr, ht]
  refine ⟨(cur_trapReaders ..).trans hc, ?_⟩
  rw [State.th, cur_trapReaders, hc, thr_trapReaders, hthr]
  change (if _ then readerTrapped w s.th else s.th) = s.th
  rw [readerTrapped_ready w hr, ite_self]

theorem trapReaders_load {s t : State} {c w : Nat} {x : Wait} (ht : t.threads = s.threads) (h : LoadWaits s c w x) :
    LostWord (t.trapReaders s.ck w) (threadOf s.ck c) w := by
  obtain ⟨hc, -, hst, hw, hk⟩ := h
  have hthr : ∀ u, t.thr u = s.thr u := fun u => by rw [State.thr, State.thr, ht]
  unfold LostWord
  rw [thr_trapReaders, if_pos ⟨c, List.mem_range.2 hc, rfl⟩, hthr, readerTrapped_load hst hw hk]
  exact ⟨rfl, rfl, rfl⟩

theorem co_eq {s t : State} (hc : t.cur = s.cur) (h : t.cores = s.cores) : t.co = s.co := by
  rw [State.co, State.co, State.cor, State.cor, State.ck, State.ck, hc, h]

theorem deliverTake_eq {s : State} {ck w u : Nat} {r : List Nat} {x : Wait} (y : Word)
    (h : (s.cor ck).takersOf w = u :: r) (hx : (s.thr u).wait = some x) :
    s.deliverTake ck w y = (s.modCor ck fun c => c.setTakers w r).modThr u fun t => t.endWait x.d y := by
  unfold State.deliverTake
  rw [h]
  simp only [State.modThr, thr_modCor, hx, Option.elim]

/-- The oldest taker of a word gets a value: the word, the bits and the issuing thread stay as they are. -/
theorem deliverTake_taker {s : State} {w u : Nat} {r : List Nat} {x : Wait} (y : Word)
    (h : s.co.takersOf w = u :: r) (hu : u ≠ s.cur) (hx : (s.thr u).wait = some x) :
    IssuerKept s (s.deliverTake s.ck w y) ∧ (s.deliverTake s.ck w y).co.takersOf w = r ∧
      (s.deliverTake s.ck w y).co.empty = s.co.empty ∧ (s.deliverTake s.ck w y).co.scratch = s.co.scratch ∧
      ((s.deliverTake s.ck w y).thr u).st = .ready ∧
      ((s.deliverTake s.ck w y).thr u).rg x.d = if x.d = 0 then 0 else y := by
  have hco : (s.deliverTake s.ck w y).co = s.co.setTakers w r := by
    rw [deliverTake_eq y h hx]
    exact co_modCo s fun c => c.setTakers w r
  refine ⟨⟨?_, ?_⟩, ?_, ?_, ?_, ?_, ?_⟩
  · rw [deliverTake_eq y h hx]; rfl
  · rw [deliverTake_eq y h hx]; exact thr_modThr_other _ _ hu.symm
  · rw [hco, takersOf_setTakers]
  · rw [hco]; rfl
  · rw [hco]; rfl
  · rw [deliverTake_eq y h hx, thr_modThr_same]; rfl
  · rw [deliverTake_eq y h hx, thr_modThr_same]; exact endWait_rg _ _ _

theorem trapTaker_eq {s : State} {ck w u : Nat} {r : List Nat} (h : (s.cor ck).takersOf w = u :: r) :
    s.trapTaker ck w = (s.modCor ck fun c => c.setTakers w r).takeTrap u (uncorrectable w) := by
  unfold State.trapTaker
  rw [h]

/-- The oldest taker of an uncorrectable word traps, and the issuing thread stays as it is. -/
theorem trapTaker_taker {s : State} {w u : Nat} {r : List Nat} (h : s.co.takersOf w = u :: r) (hu : u ≠ s.cur) :
    IssuerKept s (s.trapTaker s.ck w) ∧ (s.trapTaker s.ck w).co.takersOf w = r ∧ LostWord (s.trapTaker s.ck w) u w := by
  rw [trapTaker_eq h]
  refine ⟨⟨cur_takeTrap _ _ _, ?_⟩, ?_, ?_⟩
  · rw [State.th, cur_takeTrap]
    exact thr_takeTrap_other _ _ hu.symm
  · rw [co_eq (cur_takeTrap _ _ _) (cores_takeTrap _ _ _)]
    exact (congrArg (Core.takersOf · w) (co_modCo s fun c => c.setTakers w r)).trans (takersOf_setTakers _ _ _)
  · unfold LostWord
    rw [thr_takeTrap_same]
    exact ⟨rfl, rfl, rfl⟩

theorem fillWord_issuer {s : State} (w : Nat) (y : Word) (hr : s.th.st = .ready) :
    IssuerKept s (s.fillWord s.ck w y) ∧ (s.fillWord s.ck w y).co = (s.co.scrSetWord w y).setFull w true ∧
      ∀ c x, LoadWaits s c w x → ((s.fillWord s.ck w y).thr (threadOf s.ck c)).st = .ready ∧
        ((s.fillWord s.ck w y).thr (threadOf s.ck c)).rg x.d = (if x.d = 0 then 0 else y) := by
  refine ⟨issuerKept_wakeReaders w y rfl rfl hr, ?_, fun c x hl => wakeReaders_load y rfl hl⟩
  exact (co_eq (cur_wakeReaders ..) (cores_wakeReaders ..)).trans (co_modCo s _)

/-- A word marked full with no taker, correct or not: what the loads that wait for it have. -/
theorem markFull_noTaker {s : State} {w : Nat} (hr : s.th.st = .ready) (ht : s.co.takersOf w = []) :
    IssuerKept s (s.markFull s.ck w) ∧ (s.markFull s.ck w).co = s.co.setFull w true ∧
      ∀ c x, LoadWaits s c w x →
        (s.co.spoison.find w = none → ((s.markFull s.ck w).thr (threadOf s.ck c)).st = .ready ∧
          ((s.markFull s.ck w).thr (threadOf s.ck c)).rg x.d = (if x.d = 0 then 0 else s.co.scratch.get 0 w)) ∧
        (s.co.spoison.find w ≠ none → LostWord (s.markFull s.ck w) (threadOf s.ck c) w) := by
  have hm : s.markFull s.ck w = if (s.co.spoison.find w).isSome then (s.modCo fun c => c.setFull w true).trapReaders s.ck w
      else (s.modCo fun c => c.setFull w true).wakeReaders s.ck w (s.co.scratch.get 0 w) := by
    rw [State.markFull]
    exact if_pos ht
  rw [hm]
  cases hb : s.co.spoison.find w with
  | none =>
    refine ⟨issuerKept_wakeReaders w _ rfl rfl hr, ?_, fun c x hl => ⟨fun _ => wakeReaders_load _ rfl hl, fun h => absurd rfl h⟩⟩
    exact (co_eq (cur_wakeReaders ..) (cores_wakeReaders ..)).trans (co_modCo s _)
  | some v =>
    refine ⟨issuerKept_trapReaders w rfl rfl hr, ?_, fun c x hl => ⟨fun h => (nomatch h), fun _ => trapReaders_load rfl hl⟩⟩
    exact (co_eq (cur_trapReaders ..) (cores_trapReaders ..)).trans (co_modCo s _)

theorem markFull_taker {s : State} {w u : Nat} {r : List Nat} (ht : s.co.takersOf w = u :: r) :
    s.markFull s.ck w =
      if (s.co.spoison.find w).isSome then s.trapTaker s.ck w else s.deliverTake s.ck w (s.co.scratch.get 0 w) := by
  rw [State.markFull]
  exact if_neg (by rw [show (s.cor s.ck).takersOf w = u :: r from ht]; exact List.cons_ne_nil _ _)

theorem arriveWord_taker {s : State} {w u : Nat} {r : List Nat} (y : Word) (ht : s.co.takersOf w = u :: r) :
    s.arriveWord s.ck w y = s.deliverTake s.ck w y :=
  if_neg (by rw [show (s.cor s.ck).takersOf w = u :: r from ht]; exact List.cons_ne_nil _ _)

theorem scratch_scrSetWord_other (c : Core) {v w : Nat} (y : Word) (h : v ≠ w) :
    (c.scrSetWord w y).scratch.get 0 v = c.scratch.get 0 v := AMap.get_put_other _ _ _ h

/-- Settles O37: the checks of the address, and each form on a full, an empty and an uncorrectable word, with takers and without. -/
theorem fullEmptyForms : Obligations.FullEmptyForms := by
  unfold Obligations.FullEmptyForms
  refine ⟨fun s d a off i hi => ?_, fun s d a off w h hr =>
    ⟨fun hp => ⟨fun hf => ⟨?_, ?_⟩, fun hf => ⟨?_, ?_⟩, fun ht => ?_, fun u r x ht hu hx => ⟨?_, fun hb => ?_⟩, fun hb => ?_,
      fun hb ht => ?_⟩, fun hbad => ⟨fun hf => ⟨?_, ?_⟩, fun hb => ⟨fun u r ht hu => ?_, fun ht => ?_⟩⟩⟩⟩
  · obtain rfl | rfl | rfl | rfl := hi
    · exact blockChecks_of_feWord (exec_feTake d a off s)
    · exact blockChecks_of_feWord (exec_fePut d a off s)
    · exact blockChecks_of_feWord (exec_feSload d a off s)
    · exact blockChecks_of_feWord (exec_feFill d a off s)
  · refine ⟨_, feTake_full h hf hp, ?_, ?_, ?_, ?_, ?_, fun v hv => ?_⟩
    · rw [State.outG, th_modTh, retire_rg, rg_setG_same]
    · rw [State.outG, th_modTh]
      exact (setG_keeps s.th d _).1.trans (retire_keeps _)
    · rw [State.outG, th_modTh]; exact retire_completed _
    · rw [State.outG, co_modTh, co_modCo, isFull_setFull_same]
    · rw [State.outG, co_modTh, co_modCo]; rfl
    · rw [State.outG, co_modTh, co_modCo, isFull_setFull_other _ _ hv]
  · exact writesG_outG (feSload_full h hf hp)
  · refine ⟨_, feTake_empty h hf, ?_, ?_, ?_, ?_⟩
    · rw [th_modTh]; rfl
    · rw [th_modTh]; rfl
    · rw [co_modTh, co_modCo, takersOf_setTakers]
    · rw [th_modTh]; exact (block_keeps _ _ _ _ _ _).1
  · exact ⟨_, _, feSload_empty h hf, onlyThread_modTh s _, by rw [th_modTh]; exact (block_keeps _ _ _ _ _ _).1, by rw [th_modTh]; rfl,
      by rw [th_modTh]; rfl, by rw [th_modTh]; rfl, rfl, rfl⟩
  · obtain ⟨hk, hco, hload⟩ := fillWord_issuer w (s.th.rg d) hr
    have he := fePut_eq (d := d) h
    rw [show s.arriveWord s.ck w (s.th.rg d) = s.fillWord s.ck w (s.th.rg d) from if_pos ht] at he
    refine ⟨_, he, ?_, ?_, fun v hv => ⟨?_, ?_⟩, hk.done.1, hk.done.2, fun c x hl => ?_⟩
    · rw [State.done, co_modTh, hco, isFull_setFull_same]
    · rw [State.done, co_modTh, hco]
      exact AMap.get_put_same _ _ _ _
    · rw [State.done, co_modTh, hco]
      exact scratch_scrSetWord_other _ _ hv
    · rw [State.done, co_modTh, hco, isFull_setFull_other _ _ hv]; rfl
    · rw [thr_done_other (by rw [hk.cur]; exact hl.2.1)]
      exact hload c x hl
  · obtain ⟨hk, h1, h2, h3, h4, h5⟩ := deliverTake_taker (s.th.rg d) ht hu hx
    have he := fePut_eq (d := d) h
    rw [arriveWord_taker _ ht] at he
    refine ⟨_, he, h1, h2, h3, ?_, ?_, hk.done.1, hk.done.2⟩ <;>
      rw [thr_done_other (by rw [hk.cur]; exact hu)]
    · exact h4
    · exact h5
  · obtain ⟨hk, h1, h2, h3, h4, h5⟩ := deliverTake_taker (s.co.scratch.get 0 w) ht hu hx
    have he := feFill_set h hb
    rw [markFull_taker ht, if_neg (by rw [scrPoison_word hp]; exact Bool.false_ne_true)] at he
    refine ⟨_, he, h1, h2, h3, ?_, ?_, hk.reply.1, hk.reply.2⟩ <;>
      rw [thr_reply_other (by rw [hk.cur]; exact hu)]
    · exact h4
    · exact h5
  · have hk : IssuerKept s (s.modCo fun c => c.setFull w false) := ⟨rfl, rfl⟩
    refine ⟨_, feFill_clear h hb, ?_, ?_, hk.reply.1, hk.reply.2⟩
    · rw [State.reply, co_modTh, co_modCo, isFull_setFull_same]
    · rw [State.reply, co_modTh, co_modCo]; rfl
  · obtain ⟨hk, hco, hload⟩ := markFull_noTaker hr ht
    refine ⟨_, feFill_set h hb, ?_, ?_, hk.reply.1, hk.reply.2, fun c x hl => ?_⟩
    · rw [State.reply, co_modTh, hco, isFull_setFull_same]
    · rw [State.reply, co_modTh, hco]; rfl
    · rw [thr_reply_other (by rw [hk.cur]; exact hl.2.1)]
      exact (hload c x hl).1 (scrPoison_word hp)
  · exact traps_feTake h hf (scrPoison_word_error hbad)
  · exact traps_feSload h hf (scrPoison_word_error hbad)
  · obtain ⟨hk, h1, h2⟩ := trapTaker_taker ht hu
    have he := feFill_set h hb
    rw [markFull_taker ht, if_pos (Option.isSome_iff_ne_none.2 hbad)] at he
    refine ⟨_, he, h1, ?_, hk.reply.1, hk.reply.2⟩
    unfold LostWord
    rw [thr_reply_other (by rw [hk.cur]; exact hu)]
    exact h2
  · obtain ⟨hk, hco, hload⟩ := markFull_noTaker hr ht
    refine ⟨_, feFill_set h hb, ?_, hk.reply.1, hk.reply.2, fun c x hl => ?_⟩
    · rw [State.reply, co_modTh, hco, isFull_setFull_same]
    · unfold LostWord
      rw [thr_reply_other (by rw [hk.cur]; exact hl.2.1)]
      exact (hload c x hl).2 hbad

end Sys2Proof.Machine
end

section
/-! PROOFS. What an access of a core to memory, its L1 and its write-through queue leaves as it was. -/

namespace Sys2Proof.Machine

/-! ## What the memory side of a core leaves alone (R115, R280) -/

/-- From a state to another a core has at most used its L1 and its write-through queue: memory, the requests that are noted and
the filters may have changed, and nothing else has. -/
structure MemAside (ck : Nat) (s t : State) : Prop where
  rest : t = { s with
    mem := t.mem, poison := t.poison, cores := t.cores, threads := t.threads, dies := t.dies, inbox := t.inbox, fresh := t.fresh }
  others : ∀ u, u ≠ s.cur → t.thr u = s.thr u
  th : ∃ l, t.thr s.cur = { s.thr s.cur with asked := l }
  cores : ∀ k, k ≠ ck → t.cor k = s.cor k
  core : ∃ l q n, t.cor ck = { s.cor ck with l1 := l, wtq := q, seq := n }
  dies : ∀ d, ∃ r f, t.die d = { s.die d with replies := r, filter := f }

theorem MemAside.refl (ck : Nat) (s : State) : MemAside ck s s :=
  ⟨rfl, fun _ _ => rfl, ⟨_, rfl⟩, fun _ _ => rfl, ⟨_, _, _, rfl⟩, fun _ => ⟨_, _, rfl⟩⟩

theorem MemAside.cur {ck : Nat} {s t : State} (h : MemAside ck s t) : t.cur = s.cur := by rw [h.rest]

theorem MemAside.trans {ck : Nat} {s t u : State} (h : MemAside ck s t) (k : MemAside ck t u) : MemAside ck s u where
  rest := by rw [k.rest, h.rest]
  others v hv := (k.others v (by rw [h.cur]; exact hv)).trans (h.others v hv)
  th := by
    obtain ⟨l, hl⟩ := h.th
    obtain ⟨m, hm⟩ := k.th
    rw [h.cur, hl] at hm
    exact ⟨m, hm⟩
  cores j hj := (k.cores j hj).trans (h.cores j hj)
  core := by
    obtain ⟨l, q, n, hl⟩ := h.core
    obtain ⟨l', q', n', hm⟩ := k.core
    rw [hl] at hm
    exact ⟨l', q', n', hm⟩
  dies d := by
    obtain ⟨r, f, hl⟩ := h.dies d
    obtain ⟨r', f', hm⟩ := k.dies d
    rw [hl] at hm
    exact ⟨r', f', hm⟩

theorem MemAside.foldl {α : Type} {ck : Nat} {f : State → α → State} (h : ∀ s a, MemAside ck s (f s a)) (l : List α)
    (s : State) : MemAside ck s (l.foldl f s) := by
  induction l generalizing s with
  | nil => exact .refl ck s
  | cons a r ih => exact (h s a).trans (ih _)

section
variable {ck : Nat} {s t : State} (h : MemAside ck s t)
include h

theorem MemAside.tick : t.tick = s.tick := by rw [h.rest]
theorem MemAside.walks : t.walks = s.walks := by rw [h.rest]
theorem MemAside.clusters : t.clusters = s.clusters := by rw [h.rest]
theorem MemAside.cxlUp : t.cxlUp = s.cxlUp := by rw [h.rest]
theorem MemAside.ck_eq : t.ck = s.ck := by rw [State.ck, State.ck, h.cur]

theorem MemAside.th_eq : ∃ l, t.th = { s.th with asked := l } := by
  obtain ⟨l, hl⟩ := h.th
  exact ⟨l, by rw [State.th, h.cur]; exact hl⟩

theorem MemAside.keeps : Keeps [] [] [] s.th t.th := by
  obtain ⟨l, hl⟩ := h.th_eq
  rw [hl]
  exact ⟨fun _ _ => rfl, fun _ _ => rfl, fun _ _ => rfl, ⟨rfl, rfl, rfl⟩, ⟨rfl, rfl, rfl, rfl, rfl⟩, rfl,
    ⟨rfl, rfl, rfl, rfl, rfl⟩, ⟨rfl, rfl⟩⟩

theorem MemAside.kstat : t.th.kstat = s.th.kstat := by obtain ⟨l, hl⟩ := h.th_eq; rw [hl]
theorem MemAside.pc : t.th.pc = s.th.pc := by obtain ⟨l, hl⟩ := h.th_eq; rw [hl]
theorem MemAside.inFrame : t.th.inFrame = s.th.inFrame := by obtain ⟨l, hl⟩ := h.th_eq; rw [hl]; rfl
theorem MemAside.regs : t.th.g = s.th.g ∧ t.th.v = s.th.v ∧ t.th.m = s.th.m := by
  obtain ⟨l, hl⟩ := h.th_eq
  rw [hl]
  exact ⟨rfl, rfl, rfl⟩

theorem MemAside.released : t.th.released = s.th.released := by obtain ⟨l, hl⟩ := h.th_eq; rw [hl]

/-- A word's place is lost after the access where it was before, but for a mark that a whole write takes away. -/
theorem MemAside.goneWord (w : Nat) : t.goneWord w = s.goneWord w := by
  obtain ⟨r, f, hd⟩ := h.dies (homeDie (8 * w))
  rw [State.goneWord, State.goneWord, hd, h.cxlUp]

end

/-! ### The steps -/

theorem memAside_modCor {ck : Nat} {f : Core → Core} (hf : ∀ c, ∃ l q n, f c = { c with l1 := l, wtq := q, seq := n })
    (s : State) : MemAside ck s (s.modCor ck f) where
  rest := rfl
  others _ _ := rfl
  th := ⟨_, rfl⟩
  cores _ hk := cor_modCor_other s f hk
  core := by rw [cor_modCor_same]; exact hf _
  dies _ := ⟨_, _, rfl⟩

/-- Memory itself written. -/
theorem memAside_mem (ck : Nat) (s : State) (m : List Host.Cell) (p : AMap Bool) :
    MemAside ck s { s with mem := m, poison := p } :=
  ⟨rfl, fun _ _ => rfl, ⟨_, rfl⟩, fun _ _ => rfl, ⟨_, _, _, rfl⟩, fun _ => ⟨_, _, rfl⟩⟩

theorem memAside_draw (ck : Nat) (s : State) : MemAside ck s s.draw.2 :=
  ⟨rfl, fun _ _ => rfl, ⟨_, rfl⟩, fun _ _ => rfl, ⟨_, _, _, rfl⟩, fun _ => ⟨_, _, rfl⟩⟩

theorem memAside_modDie (ck : Nat) {f : Die → Die} (hf : ∀ d, ∃ r m, f d = { d with replies := r, filter := m }) (s : State)
    (d : Nat) : MemAside ck s (s.modDie d f) where
  rest := rfl
  others _ _ := rfl
  th := ⟨_, rfl⟩
  cores _ _ := rfl
  core := ⟨_, _, _, rfl⟩
  dies e := by
    by_cases he : e = d
    · subst he
      rw [die_modDie_same]
      exact hf _
    · rw [die_modDie_other s f he]
      exact ⟨_, _, rfl⟩

theorem memAside_ask (s : State) (ck k : Nat) (a : Ask) : MemAside ck s (s.ask k a) := by
  unfold State.ask
  split
  · exact ⟨rfl, fun u hu => thr_modThr_other s _ hu, ⟨_, thr_modThr_same s _ _⟩, fun _ _ => rfl, ⟨_, _, _, rfl⟩,
      fun _ => ⟨_, _, rfl⟩⟩
  · exact .refl ck s

theorem memAside_noteRequest (s : State) (ck die : Nat) (r : Option Word) (off n : Nat) :
    MemAside ck s (s.noteRequest ck die r off n) := by
  unfold State.noteRequest
  split
  · exact .refl ck s
  · exact ((memAside_modCor (fun _ => ⟨_, _, _, rfl⟩) s).trans (memAside_ask _ ck ck _)).trans
      (memAside_modDie ck (fun _ => ⟨_, _, rfl⟩) _ _)

theorem memAside_toDevice (s : State) (ck : Nat) (e : WtEntry) : MemAside ck s (s.toDevice e) :=
  ⟨rfl, fun _ _ => rfl, ⟨_, rfl⟩, fun _ _ => rfl, ⟨_, _, _, rfl⟩, fun _ => ⟨_, _, rfl⟩⟩

theorem memAside_wtPerform (s : State) (ck : Nat) (e : WtEntry) : MemAside ck s (s.wtPerform ck e) := by
  unfold State.wtPerform
  split
  · exact (memAside_toDevice s ck e).trans (memAside_noteRequest _ ck _ _ _ _)
  · exact (memAside_mem ck s _ _).trans (memAside_noteRequest _ ck _ _ _ _)

theorem memAside_wtDrainOne (s : State) (ck : Nat) : MemAside ck s (s.wtDrainOne ck) := by
  unfold State.wtDrainOne
  split
  · exact .refl ck s
  · split
    · exact (memAside_modCor (fun _ => ⟨_, _, _, rfl⟩) s).trans (memAside_wtPerform _ ck _)
    · exact (memAside_modCor (fun _ => ⟨_, _, _, rfl⟩) s).trans (memAside_wtPerform _ ck _)

theorem memAside_wtDrainAll (s : State) (ck n : Nat) : MemAside ck s (s.wtDrainAll ck n) := by
  induction n generalizing s with
  | zero => exact .refl ck s
  | succ n ih => exact (memAside_wtDrainOne s ck).trans (ih _)

theorem memAside_wtDrain (s : State) (ck : Nat) : MemAside ck s (s.wtDrain ck) := memAside_wtDrainAll s ck _

theorem memAside_wtPush (s : State) (ck : Nat) (e : WtEntry) : MemAside ck s (s.wtPush ck e) := by
  unfold State.wtPush
  split
  · exact (memAside_wtDrainOne s ck).trans (memAside_modCor (fun _ => ⟨_, _, _, rfl⟩) _)
  · exact memAside_modCor (fun _ => ⟨_, _, _, rfl⟩) s

theorem memAside_l1Clean (s : State) (ck line : Nat) : MemAside ck s (s.l1Clean ck line) := by
  unfold State.l1Clean
  split
  · exact .refl ck s
  · split
    · exact .refl ck s
    · exact (memAside_modCor (fun _ => ⟨_, _, _, rfl⟩) s).trans (memAside_wtPush _ ck _)

theorem memAside_l1Evict (s : State) (ck line : Nat) : MemAside ck s (s.l1Evict ck line) :=
  (memAside_l1Clean s ck line).trans (memAside_modCor (fun _ => ⟨_, _, _, rfl⟩) _)

theorem memAside_l1Room (s : State) (ck line : Nat) : MemAside ck s (s.l1Room ck line) := by
  unfold State.l1Room
  extract_lets ls
  split
  · exact .refl ck s
  · split
    · exact .refl ck s
    · exact (memAside_draw ck s).trans (memAside_l1Evict _ ck _)

theorem memAside_l1Fresh (s : State) (ck : Nat) (p : Part) : MemAside ck s (s.l1Fresh ck p) := by
  have h := memAside_l1Room s ck (p.pa / 128)
  unfold State.l1Fresh
  extract_lets t
  split
  · exact h.trans (memAside_l1Evict t ck _)
  · exact h

theorem memAside_filterEnter (s : State) (ck pa : Nat) (bd : Bool) : MemAside ck s (s.filterEnter pa bd) := by
  unfold State.filterEnter
  split
  · exact .refl ck s
  · exact memAside_modDie ck (fun _ => ⟨_, _, rfl⟩) s _

theorem memAside_l1Fill (s : State) (ck : Nat) (p : Part) : MemAside ck s (s.l1Fill ck p) :=
  (((memAside_l1Fresh s ck p).trans (memAside_modCor (fun _ => ⟨_, _, _, rfl⟩) _)).trans (memAside_filterEnter _ ck _ _)).trans
    (memAside_noteRequest _ ck _ _ _ _)

theorem memAside_loadPart {s t : State} {ck : Nat} {p : Part} {v : Nat} (h : s.loadPart ck p = .ok (v, t)) :
    MemAside ck s t := by
  unfold State.loadPart at h
  split at h
  · exact nomatch h
  · injection h with h
    injection h with _ ht
    rw [← ht]
    split
    · exact .refl ck s
    · exact memAside_l1Fill s ck p

theorem memAside_loadParts {s t : State} {ck : Nat} {ps : List Part} {v : Nat} (h : s.loadParts ck ps = .ok (v, t)) :
    MemAside ck s t := by
  induction ps generalizing s t v with
  | nil =>
    injection h with h
    injection h with _ ht
    exact ht ▸ .refl ck s
  | cons p r ih =>
    change (s.loadPart ck p).bind (fun x => (x.2.loadParts ck r).bind fun y => .ok (x.1 + 2 ^ (8 * p.n) * y.1, y.2)) = _ at h
    cases h1 : s.loadPart ck p with
    | error e => rw [h1] at h; exact nomatch h
    | ok x =>
      rw [h1] at h
      change (x.2.loadParts ck r).bind _ = _ at h
      cases h2 : x.2.loadParts ck r with
      | error e => rw [h2] at h; exact nomatch h
      | ok y =>
        rw [h2] at h
        injection h with h
        injection h with _ ht
        exact ht ▸ (memAside_loadPart h1).trans (ih h2)

theorem memAside_storeWhole (s : State) (ck : Nat) (p : Part) (v : Nat) : MemAside ck s (s.storeWhole ck p v) :=
  (memAside_l1Room s ck _).trans (memAside_modCor (fun _ => ⟨_, _, _, rfl⟩) _)

theorem memAside_storePartial (s : State) (ck : Nat) (p : Part) (v : Nat) : MemAside ck s (s.storePartial ck p v) :=
  (memAside_modCor (fun _ => by split <;> exact ⟨_, _, _, rfl⟩) s).trans (memAside_wtPush _ ck _)

theorem memAside_storeParts {s t : State} {ck : Nat} {whole : Bool} {v : Nat} {ps : List Part} {b : Option Nat}
    (h : s.storeParts ck whole v ps = .ok (b, t)) : MemAside ck s t := by
  induction ps generalizing s t v with
  | nil =>
    injection h with h
    injection h with _ ht
    exact ht ▸ .refl ck s
  | cons p r ih =>
    unfold State.storeParts at h
    split at h
    · injection h with h
      injection h with _ ht
      exact ht ▸ .refl ck s
    · refine MemAside.trans ?_ (ih h)
      split
      · exact memAside_storeWhole s ck p _
      · exact memAside_storePartial s ck p _

theorem memAside_l1Release (s : State) (ck : Nat) : MemAside ck s (s.l1Release ck) :=
  (MemAside.foldl (fun s l => memAside_l1Clean s ck l) _ s).trans (memAside_wtDrain _ ck)

theorem memAside_l1Acquire (s : State) (ck : Nat) : MemAside ck s (s.l1Acquire ck) :=
  memAside_modCor (fun _ => ⟨_, _, _, rfl⟩) s

theorem memAside_l1Flush (s : State) (ck pa n : Nat) : MemAside ck s (s.l1Flush ck pa n) := by
  have h : MemAside ck s (if (s.cor ck).l1Dirty pa n then s.l1Clean ck (pa / 128) else s) := by
    split
    · exact memAside_l1Clean s ck _
    · exact .refl ck s
  unfold State.l1Flush
  extract_lets t
  split
  · exact h.trans (memAside_wtDrain t ck)
  · exact h

theorem memAside_l1Invalidate (s : State) (ck pa n : Nat) : MemAside ck s (s.l1Invalidate ck pa n) :=
  memAside_modCor (fun _ => by split <;> exact ⟨_, _, _, rfl⟩) s

theorem memAside_homeWrite (s : State) (ck pa : Nat) (bs : List Byte) : MemAside ck s (s.homeWrite pa bs) :=
  memAside_mem ck s _ _

theorem memAside_homeVisit (s : State) (p : Part) (r : Option Word) : MemAside s.ck s (s.homeVisit p r) := by
  have h := memAside_filterEnter s s.ck p.pa (pteBd p.pte)
  exact h.trans (memAside_noteRequest _ s.ck _ _ _ _)

theorem memAside_writeHome (s : State) (ck : Nat) (p : Part) (v : Nat) : MemAside ck s (s.writeHome ck p v) :=
  (((memAside_l1Flush s ck p.pa p.n).trans (memAside_modCor (fun _ => by split <;> exact ⟨_, _, _, rfl⟩) _)).trans
    (memAside_homeWrite _ ck _ _)).trans (memAside_noteRequest _ ck _ _ _ _)

end Sys2Proof.Machine
end

section
/-! PROOFS. The checks of R166: canonical addresses, pages, kinds, alignment and residency, in their order. -/

namespace Sys2Proof.Machine

/-! ## Canonical addresses (R5) -/

theorem canonical_iff_canonicalAt {va : Nat} : canonical va = true ↔ canonicalAt va := canonical_iff va

theorem canonChecks_cons_ok {va n : Nat} (r : List (Nat × Nat)) (h : canonicalAt va) :
    canonChecks ((va, n) :: r) = canonChecks r := by
  rw [canonChecks, canonCheck, trapIf, if_neg (by rw [canonical_iff_canonicalAt.2 h]; decide)]; rfl

theorem canonChecks_error {va n : Nat} (l r : List (Nat × Nat)) (hl : ∀ e ∈ l, canonicalAt e.1) (h : ¬ canonicalAt va) :
    canonChecks (l ++ (va, n) :: r) = .error (.trap { cause := cTranslation, info := BitVec.ofNat 64 va }) := by
  induction l with
  | nil =>
    rw [List.nil_append, canonChecks, canonCheck, trapIf,
      if_pos (by rw [Bool.not_eq_true', ← Bool.not_eq_true, canonical_iff_canonicalAt]; exact h)]
    rfl
  | cons e l ih =>
    rw [List.cons_append, canonChecks_cons_ok _ (hl e List.mem_cons_self)]
    exact ih fun e' he' => hl e' (List.mem_cons_of_mem _ he')

theorem canonChecks_ok (l : List (Nat × Nat)) (hl : ∀ e ∈ l, canonicalAt e.1) : canonChecks l = .ok () := by
  induction l with
  | nil => rfl
  | cons e l ih =>
    rw [canonChecks_cons_ok _ (hl e List.mem_cons_self)]
    exact ih fun e' he' => hl e' (List.mem_cons_of_mem _ he')

/-! ## Pages (R276, R277) -/

/-- The access of a load or a store. -/
def accOf (store : Bool) : Acc := if store then .store else .load

/-- A page refuses the access as `State.pagePart` decides it. -/
theorem denies_iff (s : State) (store : Bool) (e : TlbEnt) :
    ((!s.th.service && !pteLu e.pte) || (accOf store == .store && !pteW e.pte) || (accOf store == .fetch && !pteX e.pte)) = true
      ↔ Denies s store e := by
  cases store <;> simp [accOf, Denies, pteLu, pteW, bitAt_eq_testBit]

theorem pagePart_walk {s : State} {va n : Nat} (acc : Acc) (h : tlbFind s.co.tlb va = none) :
    s.pagePart acc va n = .error (.walk va) := by
  rw [State.pagePart, h]

theorem pagePart_denied {s : State} {store : Bool} {va n : Nat} {e : TlbEnt} (h : tlbFind s.co.tlb va = some e)
    (hd : Denies s store e) :
    s.pagePart (accOf store) va n = .error (.trap { cause := cPermission, info := BitVec.ofNat 64 va }) := by
  rw [State.pagePart, h]
  exact if_pos ((denies_iff s store e).2 hd)

/-- The part of an access that a piece becomes by the translation of its page. -/
def State.partAt (s : State) (x : Nat × Nat) : Part :=
  match tlbFind s.co.tlb x.1 with
  | some e => { va := x.1, pa := ptePa e.pte + (x.1 - e.va), n := x.2, pte := e.pte }
  | none => { va := x.1, pa := 0, n := x.2, pte := 0 }

theorem pagePart_ok {s : State} {store : Bool} {va n : Nat} (h : Allowed s store va) :
    s.pagePart (accOf store) va n = .ok (s.partAt (va, n)) := by
  obtain ⟨e, he, hd⟩ := h
  rw [State.pagePart, State.partAt, he]
  exact if_neg fun hb => hd ((denies_iff s store e).1 hb)

theorem pagesOf_cons {s : State} {acc : Acc} (va n : Nat) (r : List (Nat × Nat)) :
    s.pagesOf acc ((va, n) :: r) = (s.pagePart acc va n).bind fun p => (s.pagesOf acc r).bind fun ps => .ok (p :: ps) := rfl

theorem pagesOf_error {s : State} {store : Bool} {x : Nat × Nat} {e : Stop} (l r : List (Nat × Nat))
    (hl : ∀ y ∈ l, Allowed s store y.1) (h : s.pagePart (accOf store) x.1 x.2 = .error e) :
    s.pagesOf (accOf store) (l ++ x :: r) = .error e := by
  induction l with
  | nil => rw [List.nil_append, pagesOf_cons, h]; rfl
  | cons y l ih =>
    rw [List.cons_append, pagesOf_cons, pagePart_ok (hl y List.mem_cons_self)]
    change (s.pagesOf (accOf store) (l ++ x :: r)).bind _ = _
    rw [ih fun y' hy' => hl y' (List.mem_cons_of_mem _ hy')]
    rfl

theorem pagesOf_ok {s : State} {store : Bool} (l : List (Nat × Nat)) (hl : ∀ y ∈ l, Allowed s store y.1) :
    s.pagesOf (accOf store) l = .ok (l.map s.partAt) := by
  induction l with
  | nil => rfl
  | cons y l ih =>
    rw [pagesOf_cons, pagePart_ok (hl y List.mem_cons_self)]
    change (s.pagesOf (accOf store) l).bind _ = _
    rw [ih fun y' hy' => hl y' (List.mem_cons_of_mem _ hy')]
    rfl

theorem pageParts_ok {s : State} {store : Bool} (l : List (Nat × Nat)) (hl : ∀ y ∈ l, canonicalAt y.1 ∧ Allowed s store y.1) :
    s.pageParts (accOf store) l = .ok (l.map s.partAt) := by
  rw [State.pageParts, canonChecks_ok l fun y hy => (hl y hy).1]
  exact pagesOf_ok l fun y hy => (hl y hy).2

/-- What a fetch of the pages that passes has found. -/
theorem pageParts_inv {s : State} {store : Bool} {l : List (Nat × Nat)} {ps : List Part}
    (h : s.pageParts (accOf store) l = .ok ps) :
    (∀ y ∈ l, canonicalAt y.1 ∧ Allowed s store y.1) ∧ ps = l.map s.partAt := by
  have split : ∀ {p : Nat × Nat → Prop}, (¬ ∀ y ∈ l, p y) → ∃ a x b, l = a ++ x :: b ∧ (∀ y ∈ a, p y) ∧ ¬ p x := by
    clear h
    induction l with
    | nil => exact fun h => absurd (fun y hy => absurd hy List.not_mem_nil) h
    | cons z r ih =>
      intro p h
      by_cases hz : p z
      · obtain ⟨a, x, b, hr, ha, hx⟩ := ih (p := p) fun hr => h fun y hy => by
          obtain rfl | hy := List.mem_cons.1 hy
          · exact hz
          · exact hr y hy
        refine ⟨z :: a, x, b, by rw [hr]; rfl, fun y hy => ?_, hx⟩
        obtain rfl | hy := List.mem_cons.1 hy
        · exact hz
        · exact ha y hy
      · exact ⟨[], z, r, rfl, fun y hy => absurd hy List.not_mem_nil, hz⟩
  have hcan : ∀ y ∈ l, canonicalAt y.1 := by
    by_contra hc
    obtain ⟨a, x, b, rfl, ha, hx⟩ := split hc
    rw [State.pageParts, canonChecks_error a b ha hx] at h
    exact nomatch h
  rw [State.pageParts, canonChecks_ok l hcan] at h
  change s.pagesOf (accOf store) l = _ at h
  have hall : ∀ y ∈ l, Allowed s store y.1 := by
    by_contra hc
    obtain ⟨a, x, b, rfl, ha, hx⟩ := split hc
    have herr : ∃ e, s.pagePart (accOf store) x.1 x.2 = .error e := by
      cases ht : tlbFind s.co.tlb x.1 with
      | none => exact ⟨_, pagePart_walk _ ht⟩
      | some e => exact ⟨_, pagePart_denied ht (by by_contra hd; exact hx ⟨e, ht, hd⟩)⟩
    obtain ⟨e, he⟩ := herr
    rw [pagesOf_error a b ha he] at h
    exact nomatch h
  refine ⟨fun y hy => ⟨hcan y hy, hall y hy⟩, ?_⟩
  rw [pagesOf_ok l hall] at h
  exact (Except.ok.inj h).symm

/-! ## Kinds (Table 14-2) -/

theorem kindCheck_cons_ok {kinds : List Nat} {p : Part} (r : List Part) (h : pteKind p.pte ∈ kinds) :
    kindCheck kinds (p :: r) = kindCheck kinds r := by
  rw [kindCheck, trapIf, if_neg (by simpa using h)]; rfl

theorem kindCheck_ok {kinds : List Nat} (ps : List Part) (h : ∀ p ∈ ps, pteKind p.pte ∈ kinds) :
    kindCheck kinds ps = .ok () := by
  induction ps with
  | nil => rfl
  | cons p r ih =>
    rw [kindCheck_cons_ok r (h p List.mem_cons_self)]
    exact ih fun q hq => h q (List.mem_cons_of_mem _ hq)

theorem kindCheck_error {kinds : List Nat} {p : Part} (l r : List Part) (hl : ∀ q ∈ l, pteKind q.pte ∈ kinds)
    (h : pteKind p.pte ∉ kinds) :
    kindCheck kinds (l ++ p :: r) = .error (.trap { cause := cKindMismatch, info := BitVec.ofNat 64 p.va }) := by
  induction l with
  | nil => rw [List.nil_append, kindCheck, trapIf, if_pos (by simpa using h)]; rfl
  | cons q l ih =>
    rw [List.cons_append, kindCheck_cons_ok _ (hl q List.mem_cons_self)]
    exact ih fun q' hq' => hl q' (List.mem_cons_of_mem _ hq')

theorem partAt_va (s : State) (x : Nat × Nat) : (s.partAt x).va = x.1 := by
  unfold State.partAt; split <;> rfl

theorem partAt_n (s : State) (x : Nat × Nat) : (s.partAt x).n = x.2 := by
  unfold State.partAt; split <;> rfl

theorem partAt_pte {s : State} {x : Nat × Nat} {e : TlbEnt} (h : tlbFind s.co.tlb x.1 = some e) :
    (s.partAt x).pte = e.pte := by
  rw [State.partAt, h]

/-- A form that waits for a page walk (R277). -/
theorem walksFor_finish {i : Instr} {s : State} {va : Nat} (h : exec i s = finish s (.error (.walk va))) :
    WalksFor i s va := by
  refine ⟨_, h, ?_, ?_, ?_, ?_, rfl, rfl⟩ <;> rw [th_modTh]
  · exact ⟨fun _ _ => rfl, fun _ _ => rfl, fun _ _ => rfl, ⟨rfl, rfl, rfl⟩, ⟨rfl, rfl, rfl, rfl, rfl⟩, rfl,
      ⟨rfl, rfl, rfl, rfl, rfl⟩, ⟨rfl, rfl⟩⟩
  · rfl
  · rfl
  · rfl

/-- Every form that checks the pages of its pieces and then their kind, however it ends where a check stops it. -/
theorem pageChecks_of_stops {i : Instr} {s : State} {store : Bool} {kinds : List Nat} {fits : Word → Prop}
    {l : List (Nat × Nat)} {k : List Part → Except Stop State} (hf : ∀ e, fits e ↔ pteKind e ∈ kinds)
    (htrap : ∀ tr, ((s.pageParts (accOf store) l).bind fun ps => (kindCheck kinds ps).bind fun _ => k ps) = .error (.trap tr) →
      Traps i s tr.cause tr.info)
    (hwalk : ∀ va, ((s.pageParts (accOf store) l).bind fun ps => (kindCheck kinds ps).bind fun _ => k ps) = .error (.walk va) →
      WalksFor i s va) :
    PageChecks i s store fits (l.map (·.1)) := by
  have stop : ∀ {e : Stop}, s.pageParts (accOf store) l = .error e →
      ((s.pageParts (accOf store) l).bind fun ps => (kindCheck kinds ps).bind fun _ => k ps) = .error e := fun e => by
    rw [e]; rfl
  intro a va r hl
  obtain ⟨la, x, rfl, hla, hx⟩ := List.map_eq_append_iff.1 hl
  obtain ⟨y, lb, rfl, hy, hlb⟩ := List.map_eq_cons_iff.1 hx
  subst hla hy hlb
  refine ⟨fun hc hn => ?_, fun hc ha => ⟨fun ht => ?_, fun e he hd => ?_⟩, fun hall hin hno => ?_⟩
  · refine htrap ⟨cTranslation, BitVec.ofNat 64 y.1, 0⟩ (stop ?_)
    rw [State.pageParts, canonChecks_error la lb (fun e he => hc _ (List.mem_map_of_mem he)) hn]
    rfl
  · refine hwalk _ (stop ?_)
    rw [State.pageParts, canonChecks_ok _ (fun e he => hc _ (List.mem_map_of_mem he))]
    exact pagesOf_error la lb (fun e he => ha _ (List.mem_map_of_mem he)) (pagePart_walk _ ht)
  · refine htrap ⟨cPermission, BitVec.ofNat 64 y.1, 0⟩ (stop ?_)
    rw [State.pageParts, canonChecks_ok _ (fun e he => hc _ (List.mem_map_of_mem he))]
    exact pagesOf_error la lb (fun e he => ha _ (List.mem_map_of_mem he)) (pagePart_denied he hd)
  · refine htrap ⟨cKindMismatch, BitVec.ofNat 64 y.1, 0⟩ ?_
    rw [pageParts_ok _ fun e he => hall _ (List.mem_map_of_mem he), List.map_append, List.map_cons]
    change (kindCheck kinds _).bind _ = _
    rw [kindCheck_error _ _ ?_ ?_, partAt_va]
    · rfl
    · intro q hq
      obtain ⟨z, hz, rfl⟩ := List.mem_map.1 hq
      obtain ⟨e, he, hfe⟩ := hin _ (List.mem_map_of_mem hz)
      rw [partAt_pte he]
      exact (hf _).1 hfe
    · obtain ⟨-, e, he, -⟩ := hall y.1 (List.mem_map_of_mem (List.mem_append_right _ List.mem_cons_self))
      rw [partAt_pte he]
      exact fun hk => hno ⟨e, he, (hf _).2 hk⟩

/-- Every form that checks the pages of its pieces and then their kind. -/
theorem pageChecks_of_pageParts {i : Instr} {s : State} {store : Bool} {kinds : List Nat} {fits : Word → Prop}
    {l : List (Nat × Nat)} {k : List Part → Except Stop State} (hf : ∀ e, fits e ↔ pteKind e ∈ kinds)
    (h : exec i s = finish s ((s.pageParts (accOf store) l).bind fun ps => (kindCheck kinds ps).bind fun _ => k ps)) :
    PageChecks i s store fits (l.map (·.1)) :=
  pageChecks_of_stops hf (fun _ ht => traps_finish h ht) (fun _ hw => walksFor_finish (h.trans (congrArg _ hw)))

/-! ## Alignment and residency (R166, R168) -/

theorem map_linePieces (x : Word) (n : Nat) : (linePieces x.toNat n).map (·.1) = piecesOf x n := by
  unfold linePieces piecesOf
  extract_lets r
  by_cases h : n ≤ r
  · rw [if_pos h, if_pos (by omega)]; rfl
  · rw [if_neg h, if_neg (by omega), show (x.toNat / 128 + 1) * 128 = x.toNat + r by omega]; rfl

theorem kindIs_iff (kind : Nat) (e : Word) : kindIs kind e ↔ pteKind e ∈ [kind] := by
  rw [List.mem_singleton]; rfl

/-- Where every page of an access passes its checks, the parts and their kinds do. -/
theorem pieces_pass {s : State} {store : Bool} {kind n : Nat} {x : Word}
    (h : ∀ u ∈ piecesOf x n, canonicalAt u ∧ Allowed s store u ∧ InPage s (kindIs kind) u) :
    s.pageParts (accOf store) (linePieces x.toNat n) = .ok ((linePieces x.toNat n).map s.partAt) ∧
      kindCheck [kind] ((linePieces x.toNat n).map s.partAt) = .ok () := by
  rw [← map_linePieces] at h
  have h' : ∀ y ∈ linePieces x.toNat n, canonicalAt y.1 ∧ Allowed s store y.1 ∧ InPage s (kindIs kind) y.1 :=
    fun y hy => h y.1 (List.mem_map_of_mem hy)
  refine ⟨pageParts_ok _ fun y hy => ⟨(h' y hy).1, (h' y hy).2.1⟩, kindCheck_ok _ fun p hp => ?_⟩
  obtain ⟨y, hy, rfl⟩ := List.mem_map.1 hp
  obtain ⟨-, -, e, he, hk⟩ := h' y hy
  rw [partAt_pte he]
  exact (kindIs_iff kind _).1 hk

/-- The one part of an access that is never split, once its pages and kinds have passed. -/
def wholeOf (ea : Word) (n : Nat) (ps : List Part) : Except Stop Part :=
  match ps with
  | [p] => if ea.toNat % n = 0 then .ok p else .error (.trap { cause := cMisaligned, info := ea })
  | _ => .error (.trap { cause := cMisaligned, info := ea })

theorem wholePart_eq (s : State) (store : Bool) (kind : Nat) (ea : Word) (n : Nat) :
    s.wholePart (accOf store) kind ea n =
      (s.pageParts (accOf store) (linePieces ea.toNat n)).bind fun ps => (kindCheck [kind] ps).bind fun _ =>
        wholeOf ea n ps := rfl

/-- An access that is never split, past its pages and kinds: MISALIGNED where it is no multiple of its size. -/
theorem wholePart_misaligned {s : State} {store : Bool} {kind n : Nat} {x : Word}
    (h : ∀ u ∈ piecesOf x n, canonicalAt u ∧ Allowed s store u ∧ InPage s (kindIs kind) u) (hx : x.toNat % n ≠ 0) :
    s.wholePart (accOf store) kind x n = .error (.trap { cause := cMisaligned, info := x }) := by
  obtain ⟨h1, h2⟩ := pieces_pass h
  rw [wholePart_eq, h1]
  change (kindCheck [kind] _).bind _ = _
  rw [h2]
  change wholeOf x n _ = _
  unfold wholeOf
  split
  · exact if_neg hx
  · rfl

/-- Every form that takes the one part of an access that is never split first makes these checks. -/
theorem accessChecks_of_wholePart {i : Instr} {s : State} {store : Bool} {kind n : Nat} {x : Word}
    {k : Part → Except Stop State} (h : exec i s = finish s ((s.wholePart (accOf store) kind x n).bind k)) :
    AccessChecks i s store true kind n x := by
  refine ⟨?_, fun hall => ⟨fun _ hx => ?_, fun hw => (nomatch hw)⟩⟩
  · rw [← map_linePieces]
    refine pageChecks_of_pageParts (k := fun ps => (wholeOf x n ps).bind k) (kindIs_iff kind) ?_
    rw [h, wholePart_eq]
    cases s.pageParts (accOf store) (linePieces x.toNat n) with
    | error e => rfl
    | ok ps => exact congrArg (finish s) (by
        change ((kindCheck [kind] ps).bind _).bind _ = (kindCheck [kind] ps).bind _
        cases kindCheck [kind] ps <;> rfl)
  · exact traps_finish (tr := ⟨cMisaligned, x, 0⟩) h (by rw [wholePart_misaligned hall hx]; rfl)

/-- The part that passes: it is the one piece, translated. -/
theorem wholePart_inv {s : State} {store : Bool} {kind n : Nat} {x : Word} {p : Part}
    (h : s.wholePart (accOf store) kind x n = .ok p) : p = s.partAt (x.toNat, n) ∧ x.toNat % n = 0 ∧ x.toNat % 128 + n ≤ 128 := by
  rw [wholePart_eq] at h
  cases hp : s.pageParts (accOf store) (linePieces x.toNat n) with
  | error e => rw [hp] at h; exact nomatch h
  | ok ps =>
    rw [hp] at h
    change (kindCheck [kind] ps).bind _ = _ at h
    cases hk : kindCheck [kind] ps with
    | error e => rw [hk] at h; exact nomatch h
    | ok u =>
      rw [hk] at h
      obtain ⟨-, rfl⟩ := pageParts_inv hp
      by_cases hn : n ≤ 128 - x.toNat % 128
      · rw [show linePieces x.toNat n = [(x.toNat, n)] from if_pos hn] at h
        change (if x.toNat % n = 0 then Except.ok (s.partAt (x.toNat, n)) else _) = _ at h
        split at h
        · next hx => exact ⟨(Except.ok.inj h).symm, hx, by omega⟩
        · exact nomatch h
      · rw [show linePieces x.toNat n = [(x.toNat, 128 - x.toNat % 128), ((x.toNat + (128 - x.toNat % 128)) % 2 ^ 64,
          n - (128 - x.toNat % 128))] from if_neg hn] at h
        exact nomatch h

end Sys2Proof.Machine
end

section
/-! PROOFS. The write-through queue and the L1: how each is drained and cleaned; the ordering forms. -/

namespace Sys2Proof.Machine

/-! ## Steps of the queue (R170) -/

theorem l1_modCor_keep {f : Core → Core} (hf : ∀ c, (f c).l1 = c.l1) (s : State) (ck k : Nat) :
    ((s.modCor ck f).cor k).l1 = (s.cor k).l1 := by
  by_cases h : k = ck
  · rw [h, cor_modCor_same, hf]
  · rw [cor_modCor_other s f h]

theorem wtq_modCor_keep {f : Core → Core} (hf : ∀ c, (f c).wtq = c.wtq) (s : State) (ck k : Nat) :
    ((s.modCor ck f).cor k).wtq = (s.cor k).wtq := by
  by_cases h : k = ck
  · rw [h, cor_modCor_same, hf]
  · rw [cor_modCor_other s f h]

@[simp] theorem cores_ask (s : State) (ck : Nat) (a : Ask) : (s.ask ck a).cores = s.cores := by
  unfold State.ask; split <;> rfl

/-- A request that is noted leaves the L1s and the queues as they are. -/
theorem l1_noteRequest (s : State) (ck die : Nat) (r : Option Word) (off n k : Nat) :
    ((s.noteRequest ck die r off n).cor k).l1 = (s.cor k).l1 := by
  unfold State.noteRequest
  split
  · rfl
  · refine Eq.trans ?_ (l1_modCor_keep (f := fun c => { c with seq := c.seq.set die (((s.cor ck).seq.get 0 die + 1) % 65536) })
      (fun _ => rfl) s ck k)
    rw [cor_modDie, State.cor, cores_ask]; rfl

theorem wtq_noteRequest (s : State) (ck die : Nat) (r : Option Word) (off n k : Nat) :
    ((s.noteRequest ck die r off n).cor k).wtq = (s.cor k).wtq := by
  unfold State.noteRequest
  split
  · rfl
  · refine Eq.trans ?_ (wtq_modCor_keep (f := fun c => { c with seq := c.seq.set die (((s.cor ck).seq.get 0 die + 1) % 65536) })
      (fun _ => rfl) s ck k)
    rw [cor_modDie, State.cor, cores_ask]; rfl

theorem l1_wtPerform (s : State) (ck : Nat) (e : WtEntry) (k : Nat) : ((s.wtPerform ck e).cor k).l1 = (s.cor k).l1 := by
  unfold State.wtPerform
  split <;> exact l1_noteRequest _ ck _ _ _ _ k

theorem wtq_wtPerform (s : State) (ck : Nat) (e : WtEntry) (k : Nat) :
    ((s.wtPerform ck e).cor k).wtq = (s.cor k).wtq := by
  unfold State.wtPerform
  split <;> exact wtq_noteRequest _ ck _ _ _ _ k

theorem wtDrainOne_nil {s : State} {ck : Nat} (h : (s.cor ck).wtq = []) : s.wtDrainOne ck = s := by
  rw [State.wtDrainOne, h]

theorem wtDrainOne_dirty {s : State} {ck : Nat} {e : WtEntry} {r : List WtEntry} {l : L1Line} (h : (s.cor ck).wtq = e :: r)
    (hd : (s.cor ck).dirtyLine e = some l) :
    s.wtDrainOne ck = (s.modCor ck (·.cleaned (e.pa / 128) l)).wtPerform ck (s.lineEntry ck (e.pa / 128) l) := by
  rw [State.wtDrainOne, h]
  dsimp only
  rw [hd]

theorem wtDrainOne_clean {s : State} {ck : Nat} {e : WtEntry} {r : List WtEntry} (h : (s.cor ck).wtq = e :: r)
    (hd : (s.cor ck).dirtyLine e = none) :
    s.wtDrainOne ck = (s.modCor ck fun c => { c with wtq := r }).wtPerform ck e := by
  rw [State.wtDrainOne, h]
  dsimp only
  rw [hd]

theorem dirtyLine_some {c : Core} {e : WtEntry} {l : L1Line} (h : c.dirtyLine e = some l) :
    e.dev = false ∧ c.l1.find (e.pa / 128) = some l := by
  unfold Core.dirtyLine at h
  split at h
  · exact nomatch h
  · next hd => exact ⟨by simpa using hd, (Option.filter_eq_some_iff.1 h).1⟩

/-- The oldest entry leaves the queue, and what stood behind it on its line may leave with it. -/
theorem length_wtDrainOne (s : State) (ck : Nat) :
    ((s.wtDrainOne ck).cor ck).wtq.length ≤ (s.cor ck).wtq.length - 1 := by
  cases h : (s.cor ck).wtq with
  | nil => rw [wtDrainOne_nil h, h]; exact Nat.le_refl _
  | cons e r =>
    cases hd : (s.cor ck).dirtyLine e with
    | none => rw [wtDrainOne_clean h hd, wtq_wtPerform, cor_modCor_same]; exact Nat.le_refl _
    | some l =>
      have hon : e.onLine (e.pa / 128) = true := by simp [WtEntry.onLine, (dirtyLine_some hd).1]
      rw [wtDrainOne_dirty h hd, wtq_wtPerform, cor_modCor_same, Core.cleaned, h, List.filter_cons_of_neg (by simpa using hon)]
      exact List.length_filter_le _ _

theorem wtq_wtDrainAll (s : State) (ck : Nat) {n : Nat} (h : (s.cor ck).wtq.length ≤ n) :
    ((s.wtDrainAll ck n).cor ck).wtq = [] := by
  induction n generalizing s with
  | zero => exact List.eq_nil_of_length_eq_zero (Nat.le_zero.1 h)
  | succ n ih => exact ih _ (by have := length_wtDrainOne s ck; omega)

@[simp] theorem wtq_wtDrain (s : State) (ck : Nat) : ((s.wtDrain ck).cor ck).wtq = [] := wtq_wtDrainAll s ck (Nat.le_refl _)

/-! ## Lines that become clean (R128, R129) -/

/-- The L1 of a core at most cleaned: each line is as it was, or has no dirty word any more and is otherwise as it was. -/
structure OnlyCleaned (ck : Nat) (s t : State) : Prop where
  find : ∀ k, (t.cor ck).l1.find k = (s.cor ck).l1.find k ∨
    ∃ l, (s.cor ck).l1.find k = some l ∧ (t.cor ck).l1.find k = some { l with dirty := 0 }
  sorted : AMap.sorted (s.cor ck).l1 = true → AMap.sorted (t.cor ck).l1 = true

theorem onlyCleaned_of_eq {ck : Nat} {s t : State} (h : (t.cor ck).l1 = (s.cor ck).l1) : OnlyCleaned ck s t :=
  ⟨fun k => .inl (by rw [h]), fun hs => by rw [h]; exact hs⟩

theorem OnlyCleaned.trans {ck : Nat} {s t u : State} (h : OnlyCleaned ck s t) (k : OnlyCleaned ck t u) :
    OnlyCleaned ck s u where
  find j := by
    obtain h1 | ⟨l, h1, h2⟩ := h.find j
    · rw [← h1]; exact k.find j
    · obtain h3 | ⟨m, h3, h4⟩ := k.find j
      · exact .inr ⟨l, h1, h3.trans h2⟩
      · obtain rfl : m = { l with dirty := 0 } := Option.some.inj (h3.symm.trans h2)
        exact .inr ⟨l, h1, h4⟩
  sorted hs := k.sorted (h.sorted hs)

/-- A line once clean stays clean. -/
theorem OnlyCleaned.clean {ck : Nat} {s t : State} (h : OnlyCleaned ck s t) {k : Nat}
    (hc : ∀ l, (s.cor ck).l1.find k = some l → l.dirty = 0) : ∀ l, (t.cor ck).l1.find k = some l → l.dirty = 0 := by
  intro l hl
  obtain h1 | ⟨m, -, h2⟩ := h.find k
  · exact hc l (h1 ▸ hl)
  · rw [h2] at hl
    rw [← Option.some.inj hl]

theorem onlyCleaned_cleaned {s : State} {ck line : Nat} {l : L1Line} (h : (s.cor ck).l1.find line = some l) :
    OnlyCleaned ck s (s.modCor ck (·.cleaned line l)) := by
  refine ⟨fun k => ?_, fun hs => ?_⟩ <;> rw [cor_modCor_same, Core.cleaned]
  · by_cases hk : k = line
    · subst hk
      exact .inr ⟨l, h, AMap.find_set_same _ _ _⟩
    · exact .inl (AMap.find_set_other _ _ hk)
  · exact AMap.sorted_set _ _ _ hs

theorem onlyCleaned_wtDrainOne (s : State) (ck : Nat) : OnlyCleaned ck s (s.wtDrainOne ck) := by
  cases h : (s.cor ck).wtq with
  | nil => exact onlyCleaned_of_eq (by rw [wtDrainOne_nil h])
  | cons e r =>
    cases hd : (s.cor ck).dirtyLine e with
    | none => exact onlyCleaned_of_eq (by rw [wtDrainOne_clean h hd, l1_wtPerform, cor_modCor_same])
    | some l =>
      rw [wtDrainOne_dirty h hd]
      exact (onlyCleaned_cleaned (dirtyLine_some hd).2).trans (onlyCleaned_of_eq (l1_wtPerform _ ck _ ck))

theorem onlyCleaned_wtDrain (s : State) (ck : Nat) : OnlyCleaned ck s (s.wtDrain ck) := by
  have h : ∀ n, ∀ s : State, OnlyCleaned ck s (s.wtDrainAll ck n) := by
    intro n
    induction n with
    | zero => exact fun _ => onlyCleaned_of_eq rfl
    | succ n ih => exact fun s => (onlyCleaned_wtDrainOne s ck).trans (ih _)
  exact h _ s

theorem onlyCleaned_wtPush (s : State) (ck : Nat) (e : WtEntry) : OnlyCleaned ck s (s.wtPush ck e) := by
  unfold State.wtPush
  split
  · exact (onlyCleaned_wtDrainOne s ck).trans (onlyCleaned_of_eq (by rw [cor_modCor_same]))
  · exact onlyCleaned_of_eq (by rw [cor_modCor_same])

theorem l1Clean_dirty {s : State} {ck line : Nat} {l : L1Line} (h : (s.cor ck).l1.find line = some l) (hd : l.dirty ≠ 0) :
    s.l1Clean ck line = (s.modCor ck (·.cleaned line l)).wtPush ck (s.lineEntry ck line l) := by
  rw [State.l1Clean, h]
  exact if_neg hd

theorem l1Clean_clean {s : State} {ck line : Nat} (h : ∀ l, (s.cor ck).l1.find line = some l → l.dirty = 0) :
    s.l1Clean ck line = s := by
  cases hf : (s.cor ck).l1.find line with
  | none => rw [State.l1Clean, hf]
  | some l =>
    rw [State.l1Clean, hf]
    exact if_pos (h l hf)

theorem onlyCleaned_l1Clean (s : State) (ck line : Nat) : OnlyCleaned ck s (s.l1Clean ck line) := by
  by_cases h : ∀ l, (s.cor ck).l1.find line = some l → l.dirty = 0
  · exact onlyCleaned_of_eq (by rw [l1Clean_clean h])
  · push Not at h
    obtain ⟨l, hl, hd⟩ := h
    rw [l1Clean_dirty hl hd]
    exact (onlyCleaned_cleaned hl).trans (onlyCleaned_wtPush _ ck _)

/-- A line that is written through has no dirty word any more. -/
theorem clean_l1Clean (s : State) (ck line : Nat) :
    ∀ l, ((s.l1Clean ck line).cor ck).l1.find line = some l → l.dirty = 0 := by
  by_cases h : ∀ l, (s.cor ck).l1.find line = some l → l.dirty = 0
  · rw [l1Clean_clean h]; exact h
  · push Not at h
    obtain ⟨l, hl, hd⟩ := h
    rw [l1Clean_dirty hl hd]
    refine (onlyCleaned_wtPush _ ck _).clean fun m hm => ?_
    rw [cor_modCor_same, cleaned_line] at hm
    rw [← Option.some.inj hm]

theorem onlyCleaned_foldl (ck : Nat) (ls : List Nat) (s : State) :
    OnlyCleaned ck s (ls.foldl (fun s l => s.l1Clean ck l) s) := by
  induction ls generalizing s with
  | nil => exact onlyCleaned_of_eq rfl
  | cons a r ih => exact (onlyCleaned_l1Clean s ck a).trans (ih _)

theorem clean_foldl (ck : Nat) (ls : List Nat) (s : State) {k : Nat} (h : k ∈ ls) :
    ∀ l, ((ls.foldl (fun s l => s.l1Clean ck l) s).cor ck).l1.find k = some l → l.dirty = 0 := by
  induction ls generalizing s with
  | nil => exact absurd h List.not_mem_nil
  | cons a r ih =>
    obtain rfl | h := List.mem_cons.1 h
    · exact (onlyCleaned_foldl ck r _).clean (clean_l1Clean s ck k)
    · exact ih _ h

theorem AMap.mem_of_find {α : Type} {m : AMap α} {k : Nat} {x : α} (h : m.find k = some x) : (k, x) ∈ m := by
  induction m with
  | nil => exact nomatch h
  | cons e r ih =>
    obtain ⟨j, y⟩ := e
    rw [AMap.find] at h
    split at h
    · next hk => rw [hk, Option.some.inj h]; exact List.mem_cons_self
    · exact List.mem_cons_of_mem _ (ih h)

theorem AMap.find_of_mem {α : Type} {m : AMap α} (hs : AMap.sorted m = true) {k : Nat} {x : α} (h : (k, x) ∈ m) :
    m.find k = some x := by
  induction m with
  | nil => exact absurd h List.not_mem_nil
  | cons e r ih =>
    obtain ⟨j, y⟩ := e
    obtain ⟨ha, hr⟩ := (AMap.sorted_cons j y r).1 hs
    rw [AMap.find]
    obtain he | h := List.mem_cons.1 h
    · obtain ⟨rfl, rfl⟩ := Prod.mk.inj he
      exact if_pos rfl
    · rw [if_neg (Nat.ne_of_gt (ha _ h))]
      exact ih hr h

/-- Past a release no word of the L1 is dirty. -/
theorem clean_l1Release (s : State) (ck k : Nat) : ∀ l, ((s.l1Release ck).cor ck).l1.find k = some l → l.dirty = 0 := by
  refine (onlyCleaned_wtDrain _ ck).clean ?_
  by_cases h : k ∈ (s.cor ck).l1Lines
  · exact clean_foldl ck _ s h
  · refine (onlyCleaned_foldl ck _ s).clean fun l hl => absurd ?_ h
    exact List.mem_map_of_mem (AMap.mem_of_find hl)

theorem sorted_l1Release {s : State} {ck : Nat} (h : AMap.sorted (s.cor ck).l1 = true) :
    AMap.sorted ((s.l1Release ck).cor ck).l1 = true :=
  (onlyCleaned_wtDrain _ ck).sorted ((onlyCleaned_foldl ck _ s).sorted h)

@[simp] theorem wtq_l1Release (s : State) (ck : Nat) : ((s.l1Release ck).cor ck).wtq = [] := wtq_wtDrain _ ck

/-! ## Acquires (R129) -/

theorem l1_l1Acquire (s : State) (ck : Nat) : ((s.l1Acquire ck).cor ck).l1 =
    ((s.cor ck).l1.map fun e => if e.2.ro then e else (e.1, e.2.cleanGone)).filter fun e => (e.2.valid ||| e.2.dirty) != 0 := by
  rw [State.l1Acquire, cor_modCor_same]

@[simp] theorem wtq_l1Acquire (s : State) (ck : Nat) : ((s.l1Acquire ck).cor ck).wtq = (s.cor ck).wtq := by
  rw [State.l1Acquire, cor_modCor_same]

/-- What an acquire leaves in the L1 comes from a line of it, of whose words only the dirty ones are still valid. -/
theorem l1Acquire_source {s : State} {ck : Nat} {e : Nat × L1Line} (h : e ∈ ((s.l1Acquire ck).cor ck).l1) :
    e ∈ (s.cor ck).l1 ∧ e.2.ro = true ∨
      ∃ l, (e.1, l) ∈ (s.cor ck).l1 ∧ e.2 = l.cleanGone ∧ (e.2.valid ||| e.2.dirty) ≠ 0 := by
  rw [l1_l1Acquire] at h
  obtain ⟨hm, hv⟩ := List.mem_filter.1 h
  obtain ⟨a, ha, hae⟩ := List.mem_map.1 hm
  split at hae
  · next hro => subst hae; exact .inl ⟨ha, hro⟩
  · subst hae; exact .inr ⟨a.2, ha, rfl, by simpa using hv⟩

theorem clean_l1Acquire {s : State} {ck : Nat} : ∀ e ∈ ((s.l1Acquire ck).cor ck).l1, e.2.ro = true ∨ e.2.valid = e.2.dirty := by
  intro e he
  obtain ⟨-, hro⟩ | ⟨l, -, hl, -⟩ := l1Acquire_source he
  · exact .inl hro
  · exact .inr (by rw [hl]; rfl)

/-! ## Releases (R177, R204, R205) -/

theorem reachesOut_iff {x : Scope} : reachesOut x ↔ Scope.wide x = true := by
  cases x <;> simp [reachesOut, Scope.wide]

theorem reachesFar_iff {x : Scope} : reachesFar x ↔ Scope.far x = true := by
  cases x <;> simp [reachesFar, Scope.far]

/-- The publication of a release is over at once just where it has nothing to carry or meets a stall. -/
theorem newPub_over_iff (s : State) (x : Scope) (o : Option Nat) (r : Bool) :
    (s.newPub s.ck o r (Scope.far x)).over = true ↔ NothingToPublish s x := by
  unfold NothingToPublish
  rw [reachesFar_iff]
  unfold State.newPub State.co
  generalize (s.cor s.ck).batten = b
  generalize (s.cor s.ck).stall.isSome = st
  generalize s.clu (clusterOf s.ck) = k
  cases b with
  | nil =>
    simp only [List.isEmpty_nil, if_true, ne_eq, not_true, false_and, false_or, true_and, Pub.toPurlin]
    cases hf : Scope.far x
    · simp [Pub.over]
    · cases hp : k.purlin <;> simp [Pub.over, namesOf]
  | cons e rest =>
    simp [Pub.over, namesOf]

theorem newPub_eq {s t : State} {ck : Nat} (h : MemAside ck s t) (j : Nat) (o : Option Nat) (r w : Bool) :
    t.newPub j o r w = s.newPub j o r w := by
  have hc : (t.cor j).batten = (s.cor j).batten ∧ (t.cor j).stall = (s.cor j).stall := by
    by_cases hj : j = ck
    · obtain ⟨l, q, n, hl⟩ := h.core
      rw [hj, hl]
      exact ⟨rfl, rfl⟩
    · rw [h.cores j hj]
      exact ⟨rfl, rfl⟩
  unfold State.newPub
  rw [hc.1, hc.2, State.clu, State.clu, h.clusters]

theorem newPub_owner (s : State) (ck : Nat) (o : Option Nat) (r w : Bool) :
    (s.newPub ck o r w).owner = o ∧ (s.newPub ck o r w).release = r := by
  unfold State.newPub Pub.toPurlin
  dsimp only
  split
  · split <;> exact ⟨rfl, rfl⟩
  · exact ⟨rfl, rfl⟩

section
variable (s : State) {x : Scope} (f : State → State)

theorem afterRel_narrow (h : ¬ reachesOut x) : s.afterRel x f = f s := by
  rw [reachesOut_iff, Bool.not_eq_true] at h
  exact if_pos (by rw [h]; rfl)

theorem afterRel_released (h : s.th.released = true) : s.afterRel x f = f s :=
  if_pos (by rw [h, Bool.or_true])

theorem afterRel_over (hx : reachesOut x) (hr : s.th.released = false) (h : NothingToPublish s x) :
    s.afterRel x f = f (s.l1Release s.ck) := by
  rw [State.afterRel, if_neg (by rw [reachesOut_iff.1 hx, hr]; decide)]
  refine if_pos ?_
  rw [newPub_eq (memAside_l1Release s s.ck), newPub_over_iff]
  exact h

theorem afterRel_waits (hx : reachesOut x) (hr : s.th.released = false) (h : ¬ NothingToPublish s x) :
    s.afterRel x f = ((s.l1Release s.ck).modCor s.ck fun c =>
      { c with pubs := c.pubs ++ [s.newPub s.ck (some s.cur) true (Scope.far x)] }).modTh fun t =>
        t.block s.tick .waiting .publish 0 15 := by
  rw [State.afterRel, if_neg (by rw [reachesOut_iff.1 hx, hr]; decide)]
  dsimp only
  rw [newPub_eq (memAside_l1Release s s.ck)]
  exact if_neg fun ho => h ((newPub_over_iff s x _ _).1 ho)

end

/-- A release that has something to publish: the thread waits for it. -/
theorem waitsToPublish_of_afterRel {i : Instr} {s : State} {x : Scope} {f : State → State}
    (h : exec i s = .next (s.afterRel x f)) (hx : reachesOut x) (hr : s.th.released = false) (hn : ¬ NothingToPublish s x) :
    WaitsToPublish i s := by
  have ha := memAside_l1Release s s.ck
  have hpubs : ((s.l1Release s.ck).cor s.ck).pubs = s.co.pubs := by
    obtain ⟨l, q, n, hco⟩ := ha.core
    rw [hco]
    rfl
  rw [afterRel_waits s f hx hr hn] at h
  have hblock : ∀ t : Thread, Keeps [] [] [] t (t.block s.tick .waiting .publish 0 15) := fun t => (block_keeps _ _ _ _ _ _).1
  have hcor : ∀ {g : Core → Core}, ((s.l1Release s.ck).modCor s.ck g).co = g ((s.l1Release s.ck).cor s.ck) := fun {g} => by
    rw [State.co, show ((s.l1Release s.ck).modCor s.ck g).ck = s.ck from ha.ck_eq]
    exact cor_modCor_same _ _ _
  obtain ⟨ho, hrel⟩ := newPub_owner s s.ck (some s.cur) true (Scope.far x)
  refine ⟨_, h, ?_, ?_, ?_, ?_, ?_, ?_, _, ?_, ho, hrel⟩
  · rw [th_modTh, th_modCor]; exact ha.keeps.trans (hblock _)
  · rw [th_modTh, th_modCor]; exact ha.kstat
  · rw [th_modTh, th_modCor]; exact ha.pc
  · rw [th_modTh]; rfl
  · rw [th_modTh]; exact ⟨_, rfl, rfl, rfl⟩
  · rw [co_modTh, hcor]; exact wtq_l1Release s s.ck
  · rw [co_modTh, hcor, ← hpubs]

/-! ## Replies after an access -/

theorem MemAside.reply {ck : Nat} {s t : State} (h : MemAside ck s t) :
    Keeps [] [] [] s.th t.reply.th ∧ t.reply.th.kstat = s.th.kstat ∧ NextWord s.th t.reply.th ∧ Completed t.reply.th := by
  rw [State.reply, th_modTh]
  refine ⟨h.keeps.trans (retireReply_keeps _ _ _), (retireReply_kstat _ _ _).trans h.kstat, fun hf => ?_,
    retireReply_completed _ _ _⟩
  rw [retireReply_next t.th _ _ (h.inFrame.trans hf), h.pc]

theorem MemAside.done {ck : Nat} {s t : State} (h : MemAside ck s t) :
    Keeps [] [] [] s.th t.done.th ∧ t.done.th.kstat = s.th.kstat ∧ NextWord s.th t.done.th ∧ Completed t.done.th := by
  rw [State.done, th_modTh]
  refine ⟨h.keeps.trans (retire_keeps _), (retire_kstat _).trans h.kstat, fun hf => ?_, retire_completed _⟩
  rw [retire_next t.th (h.inFrame.trans hf), h.pc]

theorem MemAside.co {s t : State} (h : MemAside s.ck s t) : t.co = t.cor s.ck := by rw [State.co, h.ck_eq]

theorem memAside_acqAct (s : State) (x : Scope) : MemAside s.ck s (s.acqAct x) := by
  unfold State.acqAct
  split
  · exact memAside_l1Acquire s s.ck
  · exact .refl _ s

theorem acqAct_narrow {s : State} {x : Scope} (h : ¬ reachesOut x) : s.acqAct x = s :=
  if_neg fun hw => h (reachesOut_iff.2 hw)

theorem acqAct_wide {s : State} {x : Scope} (h : reachesOut x) : s.acqAct x = s.l1Acquire s.ck :=
  if_pos (reachesOut_iff.1 h)

/-- Where every line that is not of a read-only page has only dirty words valid, its core sees of them what its home has. -/
theorem coreByte_eq_homeByte {s : State} {ck a : Nat}
    (h : ∀ l, (s.cor ck).l1.find (a / 128) = some l → l.valid = l.dirty) : coreByte s ck a = homeByte s ck a := by
  unfold coreByte homeByte
  cases hf : (s.cor ck).l1.find (a / 128) with
  | none => rfl
  | some l =>
    dsimp only
    rw [h l hf, BitVec.or_self]

theorem exec_ordAcq (x : Scope) (s : State) : exec (.ordAcq x) s = .next (s.acqAct x).reply := rfl
theorem exec_ordRel (x : Scope) (s : State) : exec (.ordRel x) s = .next (s.afterRel x State.reply) := rfl
theorem exec_ordFence (x : Scope) (s : State) :
    exec (.ordFence x) s = .next (s.afterRel x fun s => (s.acqAct x).reply) := rfl

theorem released_reply (s : State) : s.reply.th.released = false := by
  rw [State.reply, th_modTh]; rfl

/-- The state after `ord.acq`, and what its core sees in it. -/
theorem ordAcq_result (s : State) (x : Scope) :
    ∃ t, exec (.ordAcq x) s = .next t ∧ Keeps [] [] [] s.th t.th ∧ Completed t.th ∧
      (∀ a, memGet t.mem a = memGet s.mem a) ∧ (¬ reachesOut x → OnlyThread s t) ∧
      (reachesOut x → (∀ e ∈ t.co.l1, e.2.ro = true ∨ e.2.valid = e.2.dirty) ∧
        ∀ a, (∀ l, t.co.l1.find (a / 128) = some l → l.ro = false) → coreByte t s.ck a = homeByte t s.ck a) := by
  obtain ⟨hk, -, -, hc⟩ := (memAside_acqAct s x).reply
  refine ⟨_, exec_ordAcq x s, hk, hc, fun a => by rw [mem_reply, mem_acqAct], fun hx => ?_, fun hx => ?_⟩
  · rw [acqAct_narrow hx]
    exact onlyThread_modTh s _
  · rw [acqAct_wide hx]
    have hl : ∀ e ∈ ((s.l1Acquire s.ck).cor s.ck).l1, e.2.ro = true ∨ e.2.valid = e.2.dirty := clean_l1Acquire
    refine ⟨hl, fun a hro => coreByte_eq_homeByte fun l hf => ?_⟩
    obtain h | h := hl _ (AMap.mem_of_find hf)
    · have := hro l hf
      rw [h] at this
      exact nomatch this
    · exact h

/-- Settles O33: acquires, and releases by what they have to publish. -/
theorem orderingForms : Obligations.OrderingForms := by
  unfold Obligations.OrderingForms
  refine fun s x => ⟨ordAcq_result s x, fun _ hx => ⟨?_, ?_⟩, fun _ hx hr hn => ⟨?_, fun hs => ?_⟩, fun _ hr => ⟨?_, ?_⟩,
    fun _ hx hr hn => ⟨waitsToPublish_of_afterRel (exec_ordRel x s) hx hr hn,
      waitsToPublish_of_afterRel (exec_ordFence x s) hx hr hn⟩⟩
  · have he : exec (.ordRel x) s = .next s.reply := by rw [exec_ordRel, afterRel_narrow s _ hx]
    exact ⟨_, he, onlyThread_modTh s _, (MemAside.refl s.ck s).reply⟩
  · have he : exec (.ordFence x) s = .next s.reply := by rw [exec_ordFence, afterRel_narrow s _ hx, acqAct_narrow hx]
    exact ⟨_, he, onlyThread_modTh s _, (MemAside.refl s.ck s).reply⟩
  · have ha := memAside_l1Release s s.ck
    obtain ⟨hk, -, hw, hc⟩ := ha.reply
    refine ⟨_, by rw [exec_ordRel, afterRel_over s _ hx hr hn], hk, hw, hc, ?_, ?_⟩ <;>
      rw [State.reply, co_modTh, ha.co]
    · exact wtq_l1Release s s.ck
    · exact clean_l1Release s s.ck
  · have ha := memAside_l1Release s s.ck
    have hb := ha.trans (memAside_l1Acquire (s.l1Release s.ck) s.ck)
    obtain ⟨hk, -, hw, hc⟩ := hb.reply
    refine ⟨_, by rw [exec_ordFence, afterRel_over s _ hx hr hn, acqAct_wide hx, ha.ck_eq], hk, hw, hc, ?_, fun k l hl => ?_⟩
    · rw [State.reply, co_modTh, hb.co, wtq_l1Acquire, wtq_l1Release]
    · rw [State.reply, co_modTh, hb.co] at hl
      obtain ⟨-, hro⟩ | ⟨m, hm, rfl, hv⟩ := l1Acquire_source (AMap.mem_of_find hl)
      · exact .inl hro
      · refine absurd ?_ hv
        have hd := clean_l1Release s s.ck k m (AMap.find_of_mem (sorted_l1Release hs) hm)
        simp [L1Line.cleanGone, hd]
  · have he : exec (.ordRel x) s = .next s.reply := by rw [exec_ordRel, afterRel_released s _ hr]
    obtain ⟨hk, -, hw, hc⟩ := (MemAside.refl s.ck s).reply
    exact ⟨_, he, hk, hw, hc, released_reply s, fun _ => rfl⟩
  · have he : exec (.ordFence x) s = .next (s.acqAct x).reply := by rw [exec_ordFence, afterRel_released s _ hr]
    obtain ⟨hk, -, hw, hc⟩ := (memAside_acqAct s x).reply
    refine ⟨_, he, hk, hw, hc, released_reply _, fun hx => ?_⟩
    rw [acqAct_wide hx]
    exact clean_l1Acquire

end Sys2Proof.Machine
end

section
/-! PROOFS. Acquire loads, release stores and atomics: at their home or through the L1. -/

namespace Sys2Proof.Machine

/-! ## A line of which a core holds nothing -/

theorem wtByte_none {q : List WtEntry} {a : Nat} (h : ∀ e ∈ q, e.pa + e.bytes.length ≤ a ∨ a < e.pa) : wtByte q a = none := by
  induction q with
  | nil => rfl
  | cons e r ih =>
    rw [wtByte, ih fun x hx => h x (List.mem_cons_of_mem _ hx)]
    dsimp only
    split
    · next hc =>
      have := h e List.mem_cons_self
      rw [List.getD_eq_default _ _ (by have := hc.1; omega)]
    · rfl

/-- Where neither the L1 nor the queue has the bytes there is nothing to send home. -/
theorem l1Flush_nothing {s : State} {ck pa n : Nat} (hl : (s.cor ck).l1.find (pa / 128) = none)
    (hq : ∀ i, i < n → wtByte (s.cor ck).wtq (pa + i) = none) : s.l1Flush ck pa n = s := by
  have hd : (s.cor ck).l1Dirty pa n = false := by rw [Core.l1Dirty, hl]
  have hany : ((List.range n).any fun i => (wtByte (s.cor ck).wtq (pa + i)).isSome) = false := by
    rw [Bool.eq_false_iff]
    intro hany
    obtain ⟨i, hi, hs⟩ := List.any_eq_true.1 hany
    rw [hq i (List.mem_range.1 hi)] at hs
    exact nomatch hs
  unfold State.l1Flush
  rw [hd, if_neg Bool.false_ne_true]
  dsimp only
  rw [hany, if_neg Bool.false_ne_true]

section
variable {s : State} {p : Part} (h : LineAbsent s p)
include h

theorem lineAbsent_wtByte {a : Nat} (ha : a / 128 = p.pa / 128) : wtByte s.co.wtq a = none :=
  wtByte_none fun e he => by have := h.2.2 e he; omega

theorem lineAbsent_ownByte {a : Nat} (ha : a / 128 = p.pa / 128) : s.co.ownByte a = false := by
  rw [Core.ownByte, ha, h.2.1, lineAbsent_wtByte h ha]; rfl

theorem lineAbsent_homeBad {w : Nat} (hw : w / 16 = p.pa / 128) : s.homeBad s.ck w = s.lostWord w := by
  have ho : s.co.ownWord w = false := by
    rw [Core.ownWord, Bool.eq_false_iff]
    intro hall
    have := List.all_eq_true.1 hall 0 (by decide)
    rw [lineAbsent_ownByte h (by omega)] at this
    exact nomatch this
  rw [State.homeBad, show (s.cor s.ck).ownWord w = false from ho, Bool.not_false, Bool.and_true]

theorem lineAbsent_badCopy {w : Nat} (hw : w / 16 = p.pa / 128) : s.co.badCopy w = false := by
  rw [Core.badCopy, hw, h.2.1]

/-- A word that the access touches lies in its line. -/
theorem lineAbsent_word {w : Nat} (hlo : p.pa / 8 ≤ w) (hhi : 8 * w < p.pa + p.n) : w / 16 = p.pa / 128 := by
  have := h.1
  omega

theorem lineAbsent_flush {n : Nat} (hn : n ≤ p.n) : s.l1Flush s.ck p.pa n = s :=
  l1Flush_nothing h.2.1 fun i hi => lineAbsent_wtByte h (by have := h.1; omega)

theorem lineAbsent_badWord {w : Nat} (hw : FirstWord (fun w => s.lostWord w = true) p.pa p.n w) :
    s.badWord s.ck p.pa p.n = some w := by
  refine find_wordsOf (fun v hlo hhi => ?_) hw
  rw [State.badRead, show (s.cor s.ck).l1.find (p.pa / 128) = none from h.2.1]
  exact Bool.eq_iff_iff.1 (lineAbsent_homeBad h (lineAbsent_word h hlo hhi))

theorem lineAbsent_noStore {w : Nat}
    (hw : FirstWord (fun w => s.goneWord w = true ∨ (s.lostWord w = true ∧ ¬ Covers p.pa p.n w)) p.pa p.n w) :
    ((wordsOf p.pa p.n).find? fun w => s.noStore s.ck p.pa p.n w) = some w := by
  refine find_wordsOf (fun v hlo hhi => ?_) hw
  have hv := lineAbsent_word h hlo hhi
  rw [State.noStore, lineAbsent_homeBad h hv, show (s.cor s.ck).badCopy v = false from lineAbsent_badCopy h hv,
    Bool.or_false, Bool.or_eq_true, Bool.and_eq_true, Bool.not_eq_true', ← Bool.not_eq_true, fullWord_iff]

end

/-! ## Results of an access that writes one register -/

/-- The form has completed with a value in one register, and nothing else of any thread has changed. -/
structure GaveG (s t : State) (d : Reg) (x : Word) : Prop where
  rg : t.th.rg d = if d = 0 then 0 else x
  keeps : Keeps [d] [] [] s.th t.th
  kstat : t.th.kstat = s.th.kstat
  next : NextWord s.th t.th
  completed : Completed t.th
  others : ∀ u, u ≠ s.cur → t.thr u = s.thr u

theorem Keeps.after {gs vs : List Reg} {ms : List MReg} {x y z : Thread} (h : Keeps [] [] [] x y) (k : Keeps gs vs ms y z) :
    Keeps gs vs ms x z where
  g r hr := (k.g r hr).trans (h.g r (by simp))
  v r hr := (k.v r hr).trans (h.v r (by simp))
  m r hr := (k.m r hr).trans (h.m r (by simp))
  saved := by simpa only [h.saved] using k.saved
  control := by simpa only [h.control] using k.control
  frame := k.frame.trans h.frame
  bits := by simpa only [h.bits] using k.bits
  packet := by simpa only [h.packet] using k.packet

section
variable {ck : Nat} {s t : State} (h : MemAside ck s t) (d : Reg) (x : Word)
include h

theorem MemAside.nextSetG (f : Thread → Thread) (hf : ∀ y, NextWord y (f y)) : NextWord s.th (f (t.th.setG d x)) := by
  intro hs
  have hi : (t.th.setG d x).inFrame = false := by
    rw [Thread.inFrame, (setG_keeps t.th d x).2.2.2.1]
    exact h.inFrame.trans hs
  rw [hf _ hi, (setG_keeps t.th d x).2.2.1, h.pc]

theorem MemAside.otherThr (f : Thread → Thread) {u : Nat} (hu : u ≠ s.cur) : (t.modTh f).thr u = s.thr u :=
  (thr_modThr_other t f (by rw [h.cur]; exact hu)).trans (h.others u hu)

theorem MemAside.outG : GaveG s (t.outG d x) d x where
  rg := by rw [State.outG, th_modTh, retire_rg, rg_setG_same]
  keeps := by rw [State.outG, th_modTh]; exact h.keeps.after ((setG_keeps t.th d x).1.trans (retire_keeps _))
  kstat := by rw [State.outG, th_modTh, retire_kstat, (setG_keeps t.th d x).2.1, h.kstat]
  next := by rw [State.outG, th_modTh]; exact h.nextSetG d x _ retire_next
  completed := by rw [State.outG, th_modTh]; exact retire_completed _
  others _ hu := h.otherThr _ hu

theorem MemAside.replyG : GaveG s (t.replyG d x) d x where
  rg := by rw [State.replyG, th_modTh, retireReply_rg, rg_setG_same]
  keeps := by rw [State.replyG, th_modTh]; exact h.keeps.after ((setG_keeps t.th d x).1.trans (retireReply_keeps _ _ _))
  kstat := by rw [State.replyG, th_modTh, retireReply_kstat, (setG_keeps t.th d x).2.1, h.kstat]
  next := by rw [State.replyG, th_modTh]; exact h.nextSetG d x (·.retireReply t.tick d) fun y => retireReply_next y _ _
  completed := by rw [State.replyG, th_modTh]; exact retireReply_completed _ _ _
  others _ hu := h.otherThr _ hu

theorem MemAside.pureG : GaveG s (t.pureG d x) d x where
  rg := by
    rw [State.pureG, State.pure, th_modTh]
    exact (retireReply_rg (t.th.setG d x) t.tick d d).trans (rg_setG_same t.th d x)
  keeps := by
    rw [State.pureG, State.pure, th_modTh]
    exact h.keeps.after (((setG_keeps t.th d x).1.trans (retireReply_keeps _ t.tick d)).withBefore _)
  kstat := by
    rw [State.pureG, State.pure, th_modTh]
    exact (retireReply_kstat (t.th.setG d x) t.tick d).trans ((setG_keeps t.th d x).2.1.trans h.kstat)
  next := by
    rw [State.pureG, State.pure, th_modTh]
    exact h.nextSetG d x (fun y => { y.retireReply t.tick d with before := some t.th.regs }) fun y =>
      retireReply_next y t.tick d
  completed := by rw [State.pureG, State.pure, th_modTh]; exact .inr ⟨rfl, _, rfl, rfl⟩
  others _ hu := h.otherThr _ hu

end

/-! ## Loads and stores through the L1 -/

theorem loadTo_eq (s : State) (d : Reg) (ps : List Part) : s.loadTo d ps = (s.loadParts s.ck ps).bind fun x =>
    .ok (if s.partsHit ps then x.2.outG d (BitVec.ofNat 64 x.1) else x.2.pureG d (BitVec.ofNat 64 x.1)) := rfl

theorem loadTo_ok {s t : State} {d : Reg} {ps : List Part} {v : Nat} (h : s.loadParts s.ck ps = .ok (v, t)) :
    ∃ u, s.loadTo d ps = .ok u ∧ GaveG s u d (BitVec.ofNat 64 v) := by
  refine ⟨_, by rw [loadTo_eq, h]; rfl, ?_⟩
  have ha := memAside_loadParts h
  dsimp only
  split
  · exact ha.outG d _
  · exact ha.pureG d _

theorem loadTo_lost {s : State} {d : Reg} {p : Part} {w : Nat} (ha : LineAbsent s p)
    (hw : FirstWord (fun w => s.lostWord w = true) p.pa p.n w) :
    s.loadTo d [p] = .error (.trap (uncorrectable w)) := by
  have hp : s.loadPart s.ck p = .error (.trap (uncorrectable w)) := by rw [State.loadPart, lineAbsent_badWord ha hw]
  rw [loadTo_eq, State.loadParts, hp]
  rfl

theorem storeFrom_eq (s : State) (va n v : Nat) (ps : List Part) :
    s.storeFrom va n v ps = (s.storeParts s.ck (wholeWords va n) v ps).bind fun x =>
      match x.1 with
      | some w => .ok (x.2.trapNow (uncorrectable w))
      | none => .ok (if s.storeFull (wholeWords va n) v ps then x.2.reply else x.2.done) := rfl

theorem storeFrom_ok {s t : State} {va n v : Nat} {ps : List Part}
    (h : s.storeParts s.ck (wholeWords va n) v ps = .ok (none, t)) :
    ∃ u, s.storeFrom va n v ps = .ok u ∧ Keeps [] [] [] s.th u.th ∧ Completed u.th := by
  refine ⟨_, by rw [storeFrom_eq, h]; rfl, ?_⟩
  have ha := memAside_storeParts h
  dsimp only
  split
  · exact ⟨ha.reply.1, ha.reply.2.2.2⟩
  · exact ⟨ha.done.1, ha.done.2.2.2⟩

theorem storeFrom_lost {s : State} {va n v w : Nat} {p : Part} (ha : LineAbsent s p)
    (hw : FirstWord (fun w => s.goneWord w = true ∨ (s.lostWord w = true ∧ ¬ Covers p.pa p.n w)) p.pa p.n w) :
    s.storeFrom va n v [p] = .ok (s.trapNow (uncorrectable w)) := by
  have hp : s.storeParts s.ck (wholeWords va n) v [p] = .ok (some w, s) := by rw [State.storeParts, lineAbsent_noStore ha hw]
  rw [storeFrom_eq, hp]
  rfl

/-! ## The forms that are ordered (R177) -/

/-- What `ord.lda` does with its part. -/
def ldaResult (x : Scope) (sz : Size) (d : Reg) (s : State) (p : Part) : Except Stop State :=
  if Scope.wide x then
    ((s.l1Flush s.ck p.pa sz.bytes).homeRead p.pa sz.bytes).bind fun v =>
      .ok ((((s.l1Flush s.ck p.pa sz.bytes).homeVisit p (some (BitVec.ofNat 64 v))).acqAct x).pureG d (BitVec.ofNat 64 v))
  else s.loadTo d [p]

theorem exec_ordLda (x : Scope) (sz : Size) (d a : Reg) (s : State) :
    exec (.ordLda x sz d a) s =
      finish s ((s.wholePart (accOf false) kPlain (s.th.rg a) sz.bytes).bind (ldaResult x sz d s)) := rfl

/-- What `ord.stl` does with its part. -/
def stlResult (x : Scope) (sz : Size) (a b : Reg) (s : State) (p : Part) : Except Stop State :=
  if Scope.wide x then
    match (wordsOf p.pa p.n).find? fun w => s.noStore s.ck p.pa p.n w with
    | some w => .error (.trap (uncorrectable w))
    | none => .ok (s.afterRel x fun t => (t.writeHome t.ck p ((s.rg b).toNat % 2 ^ (8 * sz.bytes))).reply)
  else s.storeFrom (s.rg a).toNat sz.bytes ((s.rg b).toNat % 2 ^ (8 * sz.bytes)) [p]

theorem exec_ordStl (x : Scope) (sz : Size) (a b : Reg) (s : State) :
    exec (.ordStl x sz a b) s =
      finish s ((s.wholePart (accOf true) kPlain (s.th.rg a) sz.bytes).bind (stlResult x sz a b s)) := rfl

theorem finish_wholePart {s : State} {store : Bool} {n : Nat} {x : Word} {p : Part} {k : Part → Except Stop State}
    (h : s.wholePart (accOf store) kPlain x n = .ok p) :
    finish s ((s.wholePart (accOf store) kPlain x n).bind k) = finish s (k p) := by
  rw [h]; rfl

theorem n_wholePart {s : State} {store : Bool} {n kind : Nat} {x : Word} {p : Part}
    (h : s.wholePart (accOf store) kind x n = .ok p) : p.n = n := by
  rw [(wholePart_inv h).1, partAt_n]

theorem homeRead_lost {s : State} {pa n w : Nat} (hw : FirstWord (fun w => s.lostWord w = true) pa n w) :
    s.homeRead pa n = .error (.trap (uncorrectable w)) := by
  rw [State.homeRead, find_wordsOf (p := s.lostWord) (fun _ _ _ => Iff.rfl) hw]

theorem lostLoad_ordLda {x : Scope} {sz : Size} {d a : Reg} {s : State} {p : Part}
    (h : s.wholePart (accOf false) kPlain (s.th.rg a) sz.bytes = .ok p) : LostLoad (.ordLda x sz d a) s p := by
  intro w ha hw
  have hn := n_wholePart h
  refine traps_finish (tr := uncorrectable w) ((exec_ordLda x sz d a s).trans (finish_wholePart h)) ?_
  unfold ldaResult
  split
  · rw [lineAbsent_flush ha (Nat.le_of_eq hn.symm), ← hn, homeRead_lost hw]; rfl
  · exact loadTo_lost ha hw

theorem lostStore_ordStl {x : Scope} {sz : Size} {a b : Reg} {s : State} {p : Part}
    (h : s.wholePart (accOf true) kPlain (s.th.rg a) sz.bytes = .ok p) : LostStore (.ordStl x sz a b) s p := by
  intro w ha hw
  have he := (exec_ordStl x sz a b s).trans (finish_wholePart h)
  by_cases hx : Scope.wide x = true
  · exact traps_finish (tr := uncorrectable w) he (by rw [stlResult, if_pos hx, lineAbsent_noStore ha hw])
  · refine traps_trapNow (tr := uncorrectable w) (he.trans ?_)
    rw [stlResult, if_neg hx, storeFrom_lost ha hw]; rfl

theorem mem_writeHome (s : State) (ck : Nat) (p : Part) (v : Nat) :
    (s.writeHome ck p v).mem = memWrite (s.l1Flush ck p.pa p.n).mem p.pa (bytesOf v p.n) := by
  rw [State.writeHome, mem_noteRequest]; rfl

/-- A release store that has nothing to wait for writes its bytes at their home. -/
theorem ordStl_writes {x : Scope} {sz : Size} {a b : Reg} {s t : State} {p : Part}
    (h : s.wholePart (accOf true) kPlain (s.th.rg a) sz.bytes = .ok p) (hx : reachesOut x)
    (hw : ((wordsOf p.pa p.n).find? fun w => s.noStore s.ck p.pa p.n w) = none) (ha : MemAside s.ck s t)
    (hr : ∀ f, s.afterRel x f = f t) :
    ∃ u, exec (.ordStl x sz a b) s = .next u ∧
      memRead u.mem p.pa sz.bytes = bytesOf ((s.th.rg b).toNat % 2 ^ (8 * sz.bytes)) sz.bytes ∧
      Keeps [] [] [] s.th u.th ∧ Completed u.th := by
  have hn := n_wholePart h
  have hb := ha.trans (memAside_writeHome t s.ck p ((s.rg b).toNat % 2 ^ (8 * sz.bytes)))
  refine ⟨_, ?_, ?_, hb.reply.1, hb.reply.2.2.2⟩
  · refine ((exec_ordStl x sz a b s).trans (finish_wholePart h)).trans ?_
    rw [stlResult, if_pos (reachesOut_iff.1 hx), hw]
    dsimp only
    rw [hr, ha.ck_eq]; rfl
  · rw [mem_reply, mem_writeHome, hn]
    have := memRead_memWrite (t.l1Flush s.ck p.pa sz.bytes).mem p.pa
      (bytesOf ((s.th.rg b).toNat % 2 ^ (8 * sz.bytes)) sz.bytes)
    rwa [length_bytesOf] at this

/-- Settles O34: the checks, then the access at its home or through the L1 by the scope. -/
theorem orderedLoadStore : Obligations.OrderedLoadStore := by
  unfold Obligations.OrderedLoadStore
  refine ⟨fun s x sz d a b => ⟨accessChecks_of_wholePart (exec_ordLda x sz d a s),
    accessChecks_of_wholePart (exec_ordStl x sz a b s), fun p hp => lostLoad_ordLda hp, fun p hp => lostStore_ordStl hp⟩,
    fun s x sz d a b _ => ⟨fun p v hp hx hv => ?_, fun p v s1 hp hx hl => ?_, fun p hp hx hw => ⟨fun hn => ?_, fun hn hr => ?_⟩,
      fun p s1 hp hx hl => ?_⟩⟩
  · have ha := ((memAside_l1Flush s s.ck p.pa sz.bytes).trans
      ((memAside_l1Flush s s.ck p.pa sz.bytes).ck_eq ▸ memAside_homeVisit (s.l1Flush s.ck p.pa sz.bytes) p (some (BitVec.ofNat 64 v))))
    have hb := (ha.trans (ha.ck_eq ▸ memAside_acqAct _ x)).pureG d (BitVec.ofNat 64 v)
    refine ⟨_, ?_, hb.rg, hb.keeps, hb.completed⟩
    refine ((exec_ordLda x sz d a s).trans (finish_wholePart hp)).trans ?_
    rw [ldaResult, if_pos (reachesOut_iff.1 hx), hv]; rfl
  · obtain ⟨u, hu, hg⟩ := loadTo_ok (d := d) hl
    refine ⟨u, ?_, hg.rg, hg.keeps, hg.completed⟩
    refine ((exec_ordLda x sz d a s).trans (finish_wholePart hp)).trans ?_
    rw [ldaResult, if_neg fun hw => hx (reachesOut_iff.2 hw), hu]; rfl
  · by_cases hr : s.th.released = true
    · exact ordStl_writes hp hx hw (.refl _ s) fun f => afterRel_released s f hr
    · rw [Bool.not_eq_true] at hr
      have hnp : NothingToPublish s x := hn.resolve_right fun h => by rw [hr] at h; exact nomatch h
      exact ordStl_writes hp hx hw (memAside_l1Release s s.ck) fun f => afterRel_over s f hx hr hnp
  · refine waitsToPublish_of_afterRel (f := fun t => (t.writeHome t.ck p ((s.rg b).toNat % 2 ^ (8 * sz.bytes))).reply)
      (((exec_ordStl x sz a b s).trans (finish_wholePart hp)).trans ?_) hx hr hn
    rw [stlResult, if_pos (reachesOut_iff.1 hx), hw]; rfl
  · obtain ⟨u, hu, hk, hc⟩ := storeFrom_ok hl
    refine ⟨u, ?_, hk, hc⟩
    refine ((exec_ordStl x sz a b s).trans (finish_wholePart hp)).trans ?_
    rw [stlResult, if_neg fun hw => hx (reachesOut_iff.2 hw)]
    exact congrArg (finish s) hu

/-! ## Atomics (R278, R279) -/

theorem sgn_eq_toInt {w x : Nat} (hw : 0 < w) (hx : x < 2 ^ w) : sgn w x = (BitVec.ofNat w x).toInt := by
  rw [← sgn_toNat hw, BitVec.toNat_ofNat, Nat.mod_eq_of_lt hx]

/-- What an atomic does with its part. -/
def amoResult (x : AmoPlace) (d b : Reg) (f : Nat → Nat → Nat → Nat → Nat) (s : State) (p : Part) : Except Stop State :=
  let n := x.bytes
  let m := 2 ^ (8 * n)
  let s1 := (s.l1Flush s.ck p.pa n).l1Invalidate s.ck p.pa n
  match (wordsOf p.pa n).find? s1.lostWord with
  | some w => .ok (s1.trapNow (uncorrectable w))
  | none =>
    let o := natOfBytes (memRead s1.mem p.pa n)
    .ok (((s1.homeWrite p.pa (bytesOf (f (8 * n) o ((s.rg b).toNat % m) ((s.rg d).toNat % m) % m) n)).homeVisit p
      (some (BitVec.ofNat 64 o))).replyG d (BitVec.ofNat 64 o))

/-- The atomic `i` takes the result of `f` and means what `g` says. -/
structure AmoMeans (i : AmoPlace → Reg → Reg → Reg → Instr) (f g : Nat → Nat → Nat → Nat → Nat) : Prop where
  exec : ∀ (x : AmoPlace) (d a b : Reg) (s : State), exec (i x d a b) s =
    finish s ((s.wholePart (accOf true) kPlain (s.th.rg a) x.bytes).bind (amoResult x d b f s))
  result : ∀ w o u c, 0 < w → o < 2 ^ w → u < 2 ^ w → c < 2 ^ w → f w o u c % 2 ^ w = g w o u c

theorem amo_means : ∀ e ∈ amoResults, ∃ f, AmoMeans e.1 f e.2 := by
  intro e he
  simp only [amoResults, List.mem_cons, List.not_mem_nil, or_false] at he
  obtain rfl | rfl | rfl | rfl | rfl | rfl | rfl | rfl | rfl | rfl := he
  · exact ⟨fun _ _ u _ => u, ⟨fun _ _ _ _ _ => rfl, fun w o u c _ _ hu _ => Nat.mod_eq_of_lt hu⟩⟩
  · exact ⟨fun _ o u _ => o + u, ⟨fun _ _ _ _ _ => rfl, fun w o u c _ _ _ _ => rfl⟩⟩
  · exact ⟨fun _ o u _ => o &&& u, ⟨fun _ _ _ _ _ => rfl, fun w o u c _ ho _ _ =>
      Nat.mod_eq_of_lt (Nat.lt_of_le_of_lt Nat.and_le_left ho)⟩⟩
  · exact ⟨fun _ o u _ => o ||| u, ⟨fun _ _ _ _ _ => rfl, fun w o u c _ ho hu _ => Nat.mod_eq_of_lt (Nat.or_lt_two_pow ho hu)⟩⟩
  · exact ⟨fun _ o u _ => o ^^^ u, ⟨fun _ _ _ _ _ => rfl, fun w o u c _ ho hu _ => Nat.mod_eq_of_lt (Nat.xor_lt_two_pow ho hu)⟩⟩
  · refine ⟨fun w o u _ => if sgn w o ≤ sgn w u then o else u, ⟨fun _ _ _ _ _ => rfl, fun w o u c hw ho hu _ => ?_⟩⟩
    rw [sgn_eq_toInt hw ho, sgn_eq_toInt hw hu]
    exact Nat.mod_eq_of_lt (by split <;> assumption)
  · refine ⟨fun w o u _ => if sgn w u ≤ sgn w o then o else u, ⟨fun _ _ _ _ _ => rfl, fun w o u c hw ho hu _ => ?_⟩⟩
    rw [sgn_eq_toInt hw ho, sgn_eq_toInt hw hu]
    exact Nat.mod_eq_of_lt (by split <;> assumption)
  · exact ⟨fun _ o u _ => min o u, ⟨fun _ _ _ _ _ => rfl, fun w o u c _ ho hu _ =>
      (Nat.mod_eq_of_lt (Nat.lt_of_le_of_lt (Nat.min_le_left _ _) ho)).trans (Nat.min_def)⟩⟩
  · refine ⟨fun _ o u _ => max o u, ⟨fun _ _ _ _ _ => rfl, fun w o u c _ ho hu _ => ?_⟩⟩
    rw [Nat.mod_eq_of_lt (Nat.max_lt.2 ⟨ho, hu⟩), Nat.max_comm, Nat.max_def]
  · refine ⟨fun _ o u c => if o = c then u else o, ⟨fun _ _ _ _ _ => rfl, fun w o u c _ ho hu _ => ?_⟩⟩
    exact Nat.mod_eq_of_lt (by split <;> assumption)

theorem lostWord_l1Invalidate (s : State) (ck pa n : Nat) : (s.l1Invalidate ck pa n).lostWord = s.lostWord := rfl

theorem lostLoad_amo {i : AmoPlace → Reg → Reg → Reg → Instr} {f g : Nat → Nat → Nat → Nat → Nat} (hm : AmoMeans i f g)
    {x : AmoPlace} {d a b : Reg} {s : State} {p : Part}
    (h : s.wholePart (accOf true) kPlain (s.th.rg a) x.bytes = .ok p) : LostLoad (i x d a b) s p := by
  intro w ha hw
  have hn := n_wholePart h
  rw [hn] at hw
  have hf : (wordsOf p.pa x.bytes).find? ((s.l1Flush s.ck p.pa x.bytes).l1Invalidate s.ck p.pa x.bytes).lostWord = some w := by
    rw [lostWord_l1Invalidate, lineAbsent_flush ha (Nat.le_of_eq hn.symm)]
    exact find_wordsOf (fun _ _ _ => Iff.rfl) hw
  have hfl : s.l1Flush s.ck p.pa x.bytes = s := lineAbsent_flush ha (Nat.le_of_eq hn.symm)
  refine traps_of_trapNow (tr := uncorrectable w) (t := s.l1Invalidate s.ck p.pa x.bytes) ?_ rfl rfl rfl
  rw [hm.exec, finish_wholePart h, amoResult]
  dsimp only
  rw [hf, hfl]
  rfl

theorem length_memRead (m : List Host.Cell) (a n : Nat) : (memRead m a n).length = n := by
  induction n generalizing a with
  | zero => rfl
  | succ n ih => rw [memRead, List.length_cons, ih]

/-- Settles O32: the checks, and the old value, the result and what memory keeps. -/
theorem atomicResult : Obligations.AtomicResult := by
  unfold Obligations.AtomicResult
  refine ⟨fun e he s x d a b => ?_, fun e he s s1 x d a b p _ hp hs1 hw => ?_⟩
  · obtain ⟨f, hm⟩ := amo_means e he
    exact ⟨accessChecks_of_wholePart (hm.exec x d a b s), fun p hp => lostLoad_amo hm hp⟩
  obtain ⟨f, hm⟩ := amo_means e he
  have hwhole : s.wholePart (accOf true) kPlain (s.th.rg a) x.bytes = .ok p := hp
  have h1 : MemAside s.ck s s1 := by
    rw [hs1]
    exact (memAside_l1Flush s s.ck p.pa x.bytes).trans (memAside_l1Invalidate _ s.ck p.pa x.bytes)
  intro o m
  have hb : ∀ bs : List Byte, GaveG s (((s1.homeWrite p.pa bs).homeVisit p (some (BitVec.ofNat 64 o))).replyG d (BitVec.ofNat 64 o))
      d (BitVec.ofNat 64 o) := fun bs => by
    have h2 := h1.trans (memAside_homeWrite s1 s.ck p.pa bs)
    exact (h2.trans (h2.ck_eq ▸ memAside_homeVisit (s1.homeWrite p.pa bs) p (some (BitVec.ofNat 64 o)))).replyG d _
  have hmem : ∀ bs : List Byte, (((s1.homeWrite p.pa bs).homeVisit p (some (BitVec.ofNat 64 o))).replyG d (BitVec.ofNat 64 o)).mem =
      memWrite s1.mem p.pa bs := fun bs => by rw [mem_replyG, mem_homeVisit]; rfl
  have ho : o < 2 ^ (8 * x.bytes) := by
    have hlt := natOfBytes_lt (memRead s1.mem p.pa x.bytes)
    rw [length_memRead, show (256 : Nat) = 2 ^ 8 by rfl, ← Nat.pow_mul] at hlt
    exact hlt
  have hres := hm.result (8 * x.bytes) o ((s.th.rg b).toNat % m) ((s.th.rg d).toNat % m)
    (by cases x <;> decide) ho (Nat.mod_lt _ (Nat.two_pow_pos _)) (Nat.mod_lt _ (Nat.two_pow_pos _))
  have hexec : exec (e.1 x d a b) s = .next (((s1.homeWrite p.pa (bytesOf (e.2 (8 * x.bytes) o ((s.th.rg b).toNat % m)
      ((s.th.rg d).toNat % m)) x.bytes)).homeVisit p (some (BitVec.ofNat 64 o))).replyG d (BitVec.ofNat 64 o)) := by
    rw [hm.exec, finish_wholePart hwhole, amoResult]
    dsimp only
    rw [← hs1, hw, ← hres]
    rfl
  refine ⟨_, hexec, (hb _).rg, ?_, fun y hy => ?_, fun hq hl => ?_, (hb _).keeps, (hb _).kstat, (hb _).next, (hb _).completed,
    (hb _).others⟩
  · rw [hmem]
    have := memRead_memWrite s1.mem p.pa (bytesOf (e.2 (8 * x.bytes) o ((s.th.rg b).toNat % m) ((s.th.rg d).toNat % m)) x.bytes)
    rwa [length_bytesOf] at this
  · rw [hmem, memGet_memWrite_outside _ _ _ _ (by rw [length_bytesOf]; exact hy)]
  · rw [hs1, l1Flush_nothing hl fun i _ => by rw [show (s.cor s.ck).wtq = [] from hq]; rfl]
    rfl

end Sys2Proof.Machine
end

section
/-! PROOFS. Lines of an L1 byte by byte, the bytes of a queue, and what a core sees of memory through both. -/

namespace Sys2Proof.Machine

/-! ## Bits and bytes of a line (R127, R128) -/

theorem testBit_ones (a m j : Nat) : ((2 ^ m - 1) * 2 ^ a).testBit j = (decide (a ≤ j) && decide (j < a + m)) := by
  rw [Nat.testBit_mul_two_pow, Nat.testBit_two_pow_sub_one]
  by_cases h : a ≤ j
  · rw [decide_eq_true h, Bool.true_and, Bool.true_and]
    exact decide_eq_decide.2 (by omega)
  · rw [decide_eq_false h, Bool.false_and, Bool.false_and]

/-- A bit of a mask of words: whether the bytes reach the word. -/
theorem getLsbD_wordMask {off n w : Nat} (hn : 0 < n) (hw : w < 32) :
    (wordMask off n).getLsbD w = (decide (off / 4 ≤ w) && decide (w ≤ (off + n - 1) / 4)) := by
  have hle : off / 4 ≤ (off + n - 1) / 4 := Nat.div_le_div_right (by omega)
  have hpow : 2 ^ ((off + n - 1) / 4 + 1) - 2 ^ (off / 4) =
      (2 ^ ((off + n - 1) / 4 + 1 - off / 4) - 1) * 2 ^ (off / 4) := by
    rw [Nat.sub_mul, Nat.one_mul, ← Nat.pow_add, Nat.sub_add_cancel (by omega)]
  rw [wordMask, if_neg (by omega), BitVec.getLsbD_ofNat, hpow, testBit_ones, decide_eq_true hw, Bool.true_and]
  congr 1
  exact decide_eq_decide.2 (by omega)

theorem getLsbD_linePut {d : BitVec 1024} {off n v j : Nat} (hj : j < 1024) :
    (linePut d off n v).getLsbD j =
      if 8 * off ≤ j ∧ j < 8 * (off + n) then v.testBit (j - 8 * off) else d.getLsbD j := by
  rw [linePut, BitVec.getLsbD_or, BitVec.getLsbD_and, BitVec.getLsbD_not, BitVec.getLsbD_ofNat, BitVec.getLsbD_ofNat,
    testBit_ones, Nat.testBit_mul_two_pow, Nat.testBit_mod_two_pow, decide_eq_true hj, Bool.true_and, Bool.true_and,
    Bool.true_and]
  by_cases h1 : 8 * off ≤ j
  · by_cases h2 : j < 8 * (off + n)
    · rw [if_pos ⟨h1, h2⟩]
      simp [h1, show j < 8 * off + 8 * n by omega, show j - 8 * off < 8 * n by omega]
    · rw [if_neg (fun h => h2 h.2)]
      simp [h1, show ¬ j < 8 * off + 8 * n by omega, show ¬ j - 8 * off < 8 * n by omega]
  · rw [if_neg (fun h => h1 h.1)]
    simp [h1]

/-- One byte of a line. -/
def lineByte (d : BitVec 1024) (i : Nat) : Byte := BitVec.ofNat 8 (lineGet d i 1)

theorem getLsbD_lineByte {d : BitVec 1024} {i k : Nat} (hk : k < 8) : (lineByte d i).getLsbD k = d.getLsbD (8 * i + k) := by
  rw [lineByte, BitVec.getLsbD_ofNat, lineGet, Nat.testBit_mod_two_pow, Nat.testBit_div_two_pow, decide_eq_true hk,
    Bool.true_and, Bool.true_and, Nat.add_comm k]
  rfl

theorem lineByte_linePut {d : BitVec 1024} {off n v i : Nat} (hi : i < 128) :
    lineByte (linePut d off n v) i =
      if off ≤ i ∧ i < off + n then BitVec.ofNat 8 (v / 2 ^ (8 * (i - off))) else lineByte d i := by
  apply BitVec.eq_of_getLsbD_eq
  intro k hk
  rw [getLsbD_lineByte hk, getLsbD_linePut (by omega)]
  by_cases h : off ≤ i ∧ i < off + n
  · rw [if_pos h, if_pos (by omega), BitVec.getLsbD_ofNat, Nat.testBit_div_two_pow, decide_eq_true hk, Bool.true_and]
    congr 1
    omega
  · rw [if_neg h, if_neg (by omega), getLsbD_lineByte hk]

theorem toNat_lineByte (d : BitVec 1024) (i : Nat) : (lineByte d i).toNat = d.toNat / 2 ^ (8 * i) % 256 := by
  rw [lineByte, lineGet, BitVec.toNat_ofNat]
  exact Nat.mod_mod _ _

/-- Several bytes of a line are the number of its bytes. -/
theorem lineGet_eq_natOfBytes (d : BitVec 1024) (off n : Nat) :
    lineGet d off n = natOfBytes ((List.range n).map fun i => lineByte d (off + i)) := by
  have h : ∀ n x : Nat, ∀ f : Nat → Byte, (∀ i, (f i).toNat = x / 2 ^ (8 * i) % 256) →
      x % 2 ^ (8 * n) = natOfBytes ((List.range n).map f) := by
    intro n
    induction n with
    | zero => intro x f _; exact Nat.mod_one x
    | succ n ih =>
      intro x f hf
      rw [List.range_succ_eq_map, List.map_cons, List.map_map, natOfBytes, hf 0, Nat.mul_zero, Nat.pow_zero, Nat.div_one,
        ← ih (x / 256) (f ∘ Nat.succ) fun i => ?_, show 2 ^ (8 * (n + 1)) = 256 * 2 ^ (8 * n) by rw [Nat.mul_succ, Nat.pow_add]; ring,
        Nat.mod_mul]
      rw [Function.comp, hf, Nat.div_div_eq_div_mul, show 2 ^ (8 * i.succ) = 256 * 2 ^ (8 * i) by
        rw [Nat.mul_succ, Nat.pow_add]; ring]
  rw [lineGet]
  refine h n _ _ fun i => ?_
  rw [toNat_lineByte, Nat.div_div_eq_div_mul, ← Nat.pow_add, Nat.mul_add]

/-! ## Bytes of the queue and of memory (R128, R170, R330) -/

/-- The byte of memory that an entry of a queue holds for an address. -/
def entryByte (e : WtEntry) (a : Nat) : Option Byte :=
  if e.pa ≤ a ∧ !e.dev then e.bytes.getD (a - e.pa) none else none

theorem wtByte_cons (e : WtEntry) (r : List WtEntry) (a : Nat) : wtByte (e :: r) a = (wtByte r a).or (entryByte e a) := by
  rw [wtByte, entryByte]
  cases wtByte r a <;> rfl

theorem wtByte_append (q : List WtEntry) (e : WtEntry) (a : Nat) :
    wtByte (q ++ [e]) a = (entryByte e a).or (wtByte q a) := by
  induction q with
  | nil => rw [List.nil_append, wtByte_cons, wtByte, Option.none_or, Option.or_none]
  | cons x r ih => rw [List.cons_append, wtByte_cons, ih, wtByte_cons, Option.or_assoc]

theorem wtByte_eq_none {q : List WtEntry} {a : Nat} (h : ∀ e ∈ q, entryByte e a = none) : wtByte q a = none := by
  induction q with
  | nil => rfl
  | cons e r ih =>
    rw [wtByte_cons, ih fun x hx => h x (List.mem_cons_of_mem _ hx), h e List.mem_cons_self]; rfl

/-- An entry of memory lies in one line. -/
def inLine (e : WtEntry) : Prop := e.dev = false → e.pa % 128 + e.bytes.length ≤ 128

theorem entryByte_otherLine {e : WtEntry} {a : Nat} (h : inLine e) (hne : e.pa / 128 ≠ a / 128) : entryByte e a = none := by
  rw [entryByte]
  split
  · next hc =>
    have := h (by simpa using hc.2)
    exact List.getD_eq_default _ _ (by omega)
  · rfl

theorem entryByte_dev {e : WtEntry} (h : e.dev = true) (a : Nat) : entryByte e a = none :=
  if_neg fun hc => by simp [h] at hc

theorem onLine_iff {e : WtEntry} {k : Nat} : e.onLine k = true ↔ e.dev = false ∧ e.pa / 128 = k := by
  simp [WtEntry.onLine]

theorem entryByte_offLine {e : WtEntry} {a : Nat} (h : inLine e) (hne : e.onLine (a / 128) = false) : entryByte e a = none := by
  by_cases hd : e.dev = true
  · exact entryByte_dev hd a
  · refine entryByte_otherLine h fun he => ?_
    rw [Bool.not_eq_true] at hd
    rw [onLine_iff.2 ⟨hd, he⟩] at hne
    exact nomatch hne

/-- Without the entries of a line the queue holds what it held for every other line. -/
theorem wtByte_filter {q : List WtEntry} (hq : ∀ e ∈ q, inLine e) {k a : Nat} (hne : a / 128 ≠ k) :
    wtByte (q.filter fun e => !e.onLine k) a = wtByte q a := by
  induction q with
  | nil => rfl
  | cons e r ih =>
    have ihr := ih fun x hx => hq x (List.mem_cons_of_mem _ hx)
    by_cases he : e.onLine k = true
    · rw [List.filter_cons_of_neg (by simp [he]), wtByte_cons, ihr,
        entryByte_otherLine (hq e List.mem_cons_self) (by rw [(onLine_iff.1 he).2]; exact hne.symm), Option.or_none]
    · rw [List.filter_cons_of_pos (by simpa using he), wtByte_cons, wtByte_cons, ihr]

theorem wtByte_offLine {q : List WtEntry} (hq : ∀ e ∈ q, inLine e) {a : Nat} (h : ∀ e ∈ q, e.onLine (a / 128) = false) :
    wtByte q a = none :=
  wtByte_eq_none fun e he => entryByte_offLine (hq e he) (h e he)

/-- A byte of memory after a write by mask. -/
theorem memGet_memWriteMask (m : List Host.Cell) (p : Nat) (bs : List (Option Byte)) (a : Nat) :
    memGet (memWriteMask m p bs) a = (if p ≤ a then bs.getD (a - p) none else none).getD (memGet m a) := by
  induction bs generalizing m p with
  | nil => simp [memWriteMask]
  | cons b r ih =>
    have hrest : ∀ m' : List Host.Cell, p ≠ a → memGet (memWriteMask m' (p + 1) r) a =
        (if p ≤ a then (b :: r).getD (a - p) none else none).getD (memGet m' a) := by
      intro m' hne
      rw [ih]
      by_cases hp : p ≤ a
      · rw [if_pos hp, if_pos (by omega), show a - p = a - (p + 1) + 1 by omega, List.getD_cons_succ]
      · rw [if_neg hp, if_neg (by omega)]
    by_cases hpa : p = a
    · subst hpa
      rw [if_pos (Nat.le_refl _), Nat.sub_self, List.getD_cons_zero]
      cases b with
      | none => rw [memWriteMask, ih, if_neg (by omega)]
      | some x => rw [memWriteMask, ih, if_neg (by omega)]; exact memGet_memPut_same m p x
    · cases b with
      | none => exact hrest m hpa
      | some x => rw [memWriteMask, hrest _ hpa, memGet_memPut_other m x (fun h => hpa h.symm)]

/-- An entry of memory performed. -/
theorem memGet_wtPerform (s : State) (ck : Nat) (e : WtEntry) (a : Nat) :
    memGet (s.wtPerform ck e).mem a = (entryByte e a).getD (memGet s.mem a) := by
  unfold State.wtPerform
  by_cases hd : e.dev = true
  · rw [if_pos hd, mem_noteRequest, entryByte_dev hd]; rfl
  · rw [if_neg hd, mem_noteRequest, entryByte]
    rw [Bool.not_eq_true] at hd
    rw [hd]
    simp only [Bool.not_false, and_true]
    exact memGet_memWriteMask _ _ _ _

/-! ## What a core sees (R330) -/

/-- The line of the L1 at an address, empty if absent. -/
def lineAt (s : State) (ck a : Nat) : L1Line :=
  ((s.cor ck).l1.find (a / 128)).getD { valid := 0, dirty := 0, bad := 0, data := 0, ro := false, tile := none }

theorem homeByte_eq (s : State) (ck a : Nat) : homeByte s ck a =
    if (lineAt s ck a).dirty.getLsbD (a % 128 / 4) then lineByte (lineAt s ck a).data (a % 128) else s.seenByte ck a := by
  unfold homeByte lineAt
  cases (s.cor ck).l1.find (a / 128) with
  | none => simp
  | some l => rfl

theorem coreByte_eq (s : State) (ck a : Nat) : coreByte s ck a =
    if ((lineAt s ck a).valid ||| (lineAt s ck a).dirty).getLsbD (a % 128 / 4) then lineByte (lineAt s ck a).data (a % 128)
    else s.seenByte ck a := by
  unfold coreByte lineAt
  cases (s.cor ck).l1.find (a / 128) with
  | none => simp
  | some l => rfl

theorem seenByte_eq (s : State) (ck a : Nat) : s.seenByte ck a = (wtByte (s.cor ck).wtq a).getD (memGet s.mem a) := rfl

/-- A change after which the L1 and queue of a core are sound, and it sees every byte as it did, itself and at its home. -/
structure SameView (ck : Nat) (s t : State) : Prop where
  sound : SoundCache t ck
  home : ∀ a, homeByte t ck a = homeByte s ck a
  core : ∀ a, coreByte t ck a = coreByte s ck a

theorem SameView.trans {ck : Nat} {s t u : State} (h : SameView ck s t) (k : SameView ck t u) : SameView ck s u :=
  ⟨k.sound, fun a => (k.home a).trans (h.home a), fun a => (k.core a).trans (h.core a)⟩

theorem SameView.refl {ck : Nat} {s : State} (h : SoundCache s ck) : SameView ck s s := ⟨h, fun _ => rfl, fun _ => rfl⟩

/-- A line sent home: at the addresses of the line the core sees at its home what it saw there before, and of the L1 itself too. -/
theorem sameView_lineHome {s t : State} {ck k : Nat} {l : L1Line}
    (hf : (s.cor ck).l1.find k = some l) (ht : SoundCache t ck)
    (hline : (t.cor ck).l1.find k = some { l with dirty := 0 })
    (hhome : ∀ a, a / 128 = k → t.seenByte ck a =
      if l.dirty.getLsbD (a % 128 / 4) then lineByte l.data (a % 128) else s.seenByte ck a)
    (hother : ∀ a, a / 128 ≠ k → homeByte t ck a = homeByte s ck a ∧ coreByte t ck a = coreByte s ck a) :
    SameView ck s t := by
  have hat : ∀ a, a / 128 = k → lineAt s ck a = l ∧ lineAt t ck a = { l with dirty := 0 } := fun a ha => by
    unfold lineAt
    rw [ha, hf, hline]
    exact ⟨rfl, rfl⟩
  refine ⟨ht, fun a => ?_, fun a => ?_⟩
  · by_cases ha : a / 128 = k
    · rw [homeByte_eq, homeByte_eq, (hat a ha).1, (hat a ha).2, hhome a ha]
      simp
    · exact (hother a ha).1
  · by_cases ha : a / 128 = k
    · rw [coreByte_eq, coreByte_eq, (hat a ha).1, (hat a ha).2, hhome a ha]
      rw [BitVec.getLsbD_or, BitVec.getLsbD_or, show BitVec.getLsbD (0 : BitVec 32) (a % 128 / 4) = false by simp, Bool.or_false]
      dsimp only
      cases l.valid.getLsbD (a % 128 / 4) <;> cases l.dirty.getLsbD (a % 128 / 4) <;> rfl
    · exact (hother a ha).2

/-- The byte that a line's entry carries home. -/
theorem entryByte_lineEntry (s : State) (ck k : Nat) (l : L1Line) (a : Nat) :
    entryByte (s.lineEntry ck k l) a = if a / 128 = k then
      (if l.dirty.getLsbD (a % 128 / 4) then some (lineByte l.data (a % 128)) else wtByte (s.cor ck).wtq a) else none := by
  have hb : (s.lineEntry ck k l).bytes.length = 128 := by simp [State.lineEntry]
  by_cases ha : a / 128 = k
  · have hle : k * 128 ≤ a := by omega
    rw [if_pos ha, entryByte, if_pos ⟨hle, rfl⟩, show a - (s.lineEntry ck k l).pa = a % 128 by
      change a - k * 128 = a % 128; omega, List.getD_eq_getElem _ _ (by rw [hb]; omega)]
    simp only [State.lineEntry, List.getElem_map, List.getElem_range]
    rw [show k * 128 + a % 128 = a by omega]
    rfl
  · rw [if_neg ha]
    refine entryByte_otherLine (fun _ => ?_) ?_
    · rw [hb]; change k * 128 % 128 + 128 ≤ 128; omega
    · change k * 128 / 128 ≠ _; omega

theorem inLine_lineEntry (s : State) (ck k : Nat) (l : L1Line) : inLine (s.lineEntry ck k l) := fun _ => by
  have hb : (s.lineEntry ck k l).bytes.length = 128 := by simp [State.lineEntry]
  rw [hb]; change k * 128 % 128 + 128 ≤ 128; omega

/-! ## The queue drained (R170) -/

theorem soundCache_of {s t : State} {ck : Nat} (hs : SoundCache s ck) (hl : AMap.sorted (t.cor ck).l1 = true)
    (hq : ∀ e ∈ (t.cor ck).wtq, e ∈ (s.cor ck).wtq ∨ inLine e) : SoundCache t ck :=
  ⟨hl, fun e he => (hq e he).elim (hs.2 e) id⟩

theorem sameView_wtDrainOne {s : State} {ck : Nat} (hs : SoundCache s ck) : SameView ck s (s.wtDrainOne ck) := by
  cases hq : (s.cor ck).wtq with
  | nil => rw [wtDrainOne_nil hq]; exact .refl hs
  | cons e r =>
    cases hd : (s.cor ck).dirtyLine e with
    | none =>
      rw [wtDrainOne_clean hq hd]
      generalize ht : (s.modCor ck fun c => { c with wtq := r }).wtPerform ck e = t
      have hl1 : (t.cor ck).l1 = (s.cor ck).l1 := by rw [← ht, l1_wtPerform, cor_modCor_same]
      have hwt : (t.cor ck).wtq = r := by rw [← ht, wtq_wtPerform, cor_modCor_same]
      have hseen : ∀ a, t.seenByte ck a = s.seenByte ck a := fun a => by
        rw [seenByte_eq, seenByte_eq, hwt, hq, ← ht, memGet_wtPerform, wtByte_cons, mem_modCor]
        cases wtByte r a <;> rfl
      have hat : ∀ a, lineAt t ck a = lineAt s ck a := fun a => by rw [lineAt, lineAt, hl1]
      refine ⟨soundCache_of hs (by rw [hl1]; exact hs.1) fun x hx => .inl ?_, fun a => ?_, fun a => ?_⟩
      · rw [hwt] at hx
        rw [hq]
        exact List.mem_cons_of_mem _ hx
      · rw [homeByte_eq, homeByte_eq, hat, hseen]
      · rw [coreByte_eq, coreByte_eq, hat, hseen]
    | some l =>
      obtain ⟨-, hf⟩ := dirtyLine_some hd
      rw [wtDrainOne_dirty hq hd]
      generalize ht : (s.modCor ck (·.cleaned (e.pa / 128) l)).wtPerform ck (s.lineEntry ck (e.pa / 128) l) = t
      generalize hk : e.pa / 128 = k at ht hf
      have hl1 : (t.cor ck).l1 = (s.cor ck).l1.set k { l with dirty := 0 } := by rw [← ht, l1_wtPerform, cor_modCor_same]; rfl
      have hwt : (t.cor ck).wtq = (s.cor ck).wtq.filter fun e => !e.onLine k := by
        rw [← ht, wtq_wtPerform, cor_modCor_same]; rfl
      have hmem : ∀ a, memGet t.mem a = (entryByte (s.lineEntry ck k l) a).getD (memGet s.mem a) := fun a => by
        rw [← ht, memGet_wtPerform, mem_modCor]
      refine sameView_lineHome hf (soundCache_of hs ?_ fun x hx => .inl ?_) ?_ (fun a ha => ?_) fun a ha => ?_
      · rw [hl1]; exact AMap.sorted_set _ _ _ hs.1
      · rw [hwt] at hx; exact List.mem_of_mem_filter hx
      · rw [hl1]; exact AMap.find_set_same _ _ _
      · have hnone : wtByte (t.cor ck).wtq a = none := by
          rw [hwt]
          refine wtByte_offLine (fun x hx => hs.2 x (List.mem_of_mem_filter hx)) fun x hx => ?_
          rw [ha]
          simpa using (List.mem_filter.1 hx).2
        rw [seenByte_eq, hnone, hmem, entryByte_lineEntry, if_pos ha, seenByte_eq]
        split <;> rfl
      · have hseen : t.seenByte ck a = s.seenByte ck a := by
          rw [seenByte_eq, seenByte_eq, hwt, wtByte_filter hs.2 ha, hmem, entryByte_lineEntry, if_neg ha]; rfl
        have hat : lineAt t ck a = lineAt s ck a := by rw [lineAt, lineAt, hl1, AMap.find_set_other _ _ ha]
        exact ⟨by rw [homeByte_eq, homeByte_eq, hat, hseen], by rw [coreByte_eq, coreByte_eq, hat, hseen]⟩

/-- The state in which a new entry is taken: the oldest has left a full queue. -/
def State.wtRoom (s : State) (ck : Nat) : State := if 32 ≤ (s.cor ck).wtq.length then s.wtDrainOne ck else s

theorem wtPush_eq (s : State) (ck : Nat) (e : WtEntry) :
    s.wtPush ck e = (s.wtRoom ck).modCor ck fun c => { c with wtq := c.wtq ++ [e] } := rfl

theorem sameView_wtRoom {s : State} {ck : Nat} (hs : SoundCache s ck) : SameView ck s (s.wtRoom ck) := by
  unfold State.wtRoom
  split
  · exact sameView_wtDrainOne hs
  · exact .refl hs

theorem onlyCleaned_wtRoom (s : State) (ck : Nat) : OnlyCleaned ck s (s.wtRoom ck) := by
  unfold State.wtRoom
  split
  · exact onlyCleaned_wtDrainOne s ck
  · exact onlyCleaned_of_eq rfl

section
variable {s : State} {ck : Nat} (e : WtEntry)

@[simp] theorem l1_wtPush : ((s.wtPush ck e).cor ck).l1 = ((s.wtRoom ck).cor ck).l1 := by rw [wtPush_eq, cor_modCor_same]

theorem wtq_wtPush : ((s.wtPush ck e).cor ck).wtq = ((s.wtRoom ck).cor ck).wtq ++ [e] := by rw [wtPush_eq, cor_modCor_same]

theorem lineAt_wtPush (a : Nat) : lineAt (s.wtPush ck e) ck a = lineAt (s.wtRoom ck) ck a := by
  rw [lineAt, lineAt, l1_wtPush]

theorem seenByte_wtPush (a : Nat) :
    (s.wtPush ck e).seenByte ck a = (entryByte e a).getD ((s.wtRoom ck).seenByte ck a) := by
  rw [seenByte_eq, wtq_wtPush, wtByte_append, seenByte_eq]
  change _ = (entryByte e a).getD ((wtByte ((s.wtRoom ck).cor ck).wtq a).getD (memGet (s.wtPush ck e).mem a))
  cases entryByte e a <;> rfl

theorem soundCache_wtPush (hs : SoundCache s ck) (he : inLine e) : SoundCache (s.wtPush ck e) ck := by
  have hr := (sameView_wtRoom hs).sound
  refine ⟨by rw [l1_wtPush]; exact hr.1, fun x hx => ?_⟩
  rw [wtq_wtPush] at hx
  obtain hx | hx := List.mem_append.1 hx
  · exact hr.2 x hx
  · rw [List.mem_singleton.1 hx]; exact he

/-- At an address that the entry does not hold, everything is seen as before. -/
theorem view_wtPush (hs : SoundCache s ck) {a : Nat} (ha : entryByte e a = none) :
    homeByte (s.wtPush ck e) ck a = homeByte s ck a ∧ coreByte (s.wtPush ck e) ck a = coreByte s ck a := by
  have hr := sameView_wtRoom hs
  have hseen : (s.wtPush ck e).seenByte ck a = (s.wtRoom ck).seenByte ck a := by rw [seenByte_wtPush, ha]; rfl
  rw [← hr.home, ← hr.core]
  exact ⟨by rw [homeByte_eq, homeByte_eq, lineAt_wtPush, hseen], by rw [coreByte_eq, coreByte_eq, lineAt_wtPush, hseen]⟩

end

/-! ## A line written through (R128, R129) -/

theorem sameView_l1Clean {s : State} {ck k : Nat} (hs : SoundCache s ck) : SameView ck s (s.l1Clean ck k) := by
  by_cases h : ∀ l, (s.cor ck).l1.find k = some l → l.dirty = 0
  · rw [l1Clean_clean h]; exact .refl hs
  push Not at h
  obtain ⟨l, hf, hd⟩ := h
  rw [l1Clean_dirty hf hd]
  generalize hu : s.modCor ck (·.cleaned k l) = u
  have hl1 : (u.cor ck).l1 = (s.cor ck).l1.set k { l with dirty := 0 } := by rw [← hu, cor_modCor_same]; rfl
  have hwt : (u.cor ck).wtq = (s.cor ck).wtq.filter fun e => !e.onLine k := by rw [← hu, cor_modCor_same]; rfl
  have hmem : u.mem = s.mem := by rw [← hu]; rfl
  have husound : SoundCache u ck := soundCache_of hs (by rw [hl1]; exact AMap.sorted_set _ _ _ hs.1) fun x hx => .inl (by
    rw [hwt] at hx; exact List.mem_of_mem_filter hx)
  have hroom := sameView_wtRoom husound
  have hoff : ∀ a, a / 128 = k → ∀ v : State, (∀ x ∈ (v.cor ck).wtq, x ∈ (u.cor ck).wtq) → wtByte (v.cor ck).wtq a = none := by
    intro a ha v hv
    refine wtByte_offLine (fun x hx => husound.2 x (hv x hx)) fun x hx => ?_
    have := hv x hx
    rw [hwt] at this
    rw [ha]
    simpa using (List.mem_filter.1 this).2
  have hclean : ∀ a, a / 128 = k → ∀ v : State, OnlyCleaned ck u v → (lineAt v ck a).dirty = 0 := by
    intro a ha v hv
    have : ∀ m, (v.cor ck).l1.find k = some m → m.dirty = 0 := hv.clean fun m hm => by
      rw [hl1, AMap.find_set_same] at hm
      rw [← Option.some.inj hm]
    unfold lineAt
    rw [ha]
    cases hfv : (v.cor ck).l1.find k with
    | none => rfl
    | some m => exact this m hfv
  refine sameView_lineHome hf (soundCache_wtPush _ husound (inLine_lineEntry s ck k l)) ?_ (fun a ha => ?_) fun a ha => ?_
  · have hk : (u.cor ck).l1.find k = some { l with dirty := 0 } := by rw [hl1, AMap.find_set_same]
    rw [l1_wtPush]
    obtain h1 | ⟨m, h1, h2⟩ := (onlyCleaned_wtRoom u ck).find k
    · rw [h1, hk]
    · rw [h2, ← Option.some.inj (hk.symm.trans h1)]
  · have hsame : (u.wtRoom ck).seenByte ck a = u.seenByte ck a := by
      have := hroom.home a
      rw [homeByte_eq, homeByte_eq, hclean a ha _ (onlyCleaned_wtRoom u ck), hclean a ha u (onlyCleaned_of_eq rfl)] at this
      simpa using this
    have hmema : u.seenByte ck a = memGet s.mem a := by
      rw [seenByte_eq, hoff a ha u fun _ hx => hx, hmem]; rfl
    rw [seenByte_wtPush, hsame, hmema, entryByte_lineEntry, if_pos ha, seenByte_eq]
    split <;> rfl
  · have hv := view_wtPush (s.lineEntry ck k l) husound (a := a) (by rw [entryByte_lineEntry, if_neg ha])
    have hseen : u.seenByte ck a = s.seenByte ck a := by
      rw [seenByte_eq, seenByte_eq, hwt, wtByte_filter hs.2 ha, hmem]
    have hat : lineAt u ck a = lineAt s ck a := by rw [lineAt, lineAt, hl1, AMap.find_set_other _ _ ha]
    rw [hv.1, hv.2]
    exact ⟨by rw [homeByte_eq, homeByte_eq, hat, hseen], by rw [coreByte_eq, coreByte_eq, hat, hseen]⟩

/-- After an access the L1 and queue are sound, and the core sees every byte at its home as it did. -/
structure SameHome (ck : Nat) (s t : State) : Prop where
  sound : SoundCache t ck
  home : ∀ a, homeByte t ck a = homeByte s ck a

theorem SameHome.trans {ck : Nat} {s t u : State} (h : SameHome ck s t) (k : SameHome ck t u) : SameHome ck s u :=
  ⟨k.sound, fun a => (k.home a).trans (h.home a)⟩

theorem sameHome_l1Evict {s : State} {ck k : Nat} (hs : SoundCache s ck) :
    SameHome ck s (s.l1Evict ck k) ∧ ((s.l1Evict ck k).cor ck).l1.find k = none := by
  have hc := sameView_l1Clean (k := k) hs
  have hl1 : ((s.l1Evict ck k).cor ck).l1 = ((s.l1Clean ck k).cor ck).l1.erase k := by
    rw [State.l1Evict, cor_modCor_same]
  have hwt : ((s.l1Evict ck k).cor ck).wtq = ((s.l1Clean ck k).cor ck).wtq := by rw [State.l1Evict, cor_modCor_same]
  have hseen : ∀ a, (s.l1Evict ck k).seenByte ck a = (s.l1Clean ck k).seenByte ck a := fun a => by
    rw [seenByte_eq, seenByte_eq, hwt]; rfl
  refine ⟨⟨soundCache_of hc.sound (by rw [hl1]; exact AMap.sorted_erase _ _ hc.sound.1) fun x hx => .inl (hwt ▸ hx), fun a => ?_⟩,
    by rw [hl1, AMap.find_erase_same]⟩
  rw [← hc.home, homeByte_eq, homeByte_eq, hseen]
  by_cases ha : a / 128 = k
  · have h1 : lineAt (s.l1Evict ck k) ck a =
        { valid := 0, dirty := 0, bad := 0, data := 0, ro := false, tile := none } := by
      rw [lineAt, hl1, ha, AMap.find_erase_same]; rfl
    have h2 : (lineAt (s.l1Clean ck k) ck a).dirty = 0 := by
      unfold lineAt
      rw [ha]
      cases hf : ((s.l1Clean ck k).cor ck).l1.find k with
      | none => rfl
      | some l => exact clean_l1Clean s ck k l hf
    rw [h1, h2]
    simp
  · rw [show lineAt (s.l1Evict ck k) ck a = lineAt (s.l1Clean ck k) ck a by
      rw [lineAt, lineAt, hl1, AMap.find_erase_other _ ha]]

theorem sameHome_l1Room {s : State} {ck k : Nat} (hs : SoundCache s ck) : SameHome ck s (s.l1Room ck k) := by
  unfold State.l1Room
  extract_lets ls
  split
  · exact ⟨hs, fun _ => rfl⟩
  · split
    · exact ⟨hs, fun _ => rfl⟩
    · have h := (sameHome_l1Evict (s := s.draw.2) (ck := ck)
        (k := ls.getD (Config.l1Victim s.draw.1 % ls.length) 0) hs).1
      exact ⟨h.sound, h.home⟩

/-- Where the line is there, or its set has a free way, no line leaves the L1. -/
theorem l1Room_same {s : State} {ck k : Nat} (h : ((s.cor ck).l1.find k).isSome ∨ (setLines (s.cor ck) k).length < 8) :
    s.l1Room ck k = s := by
  unfold State.l1Room
  extract_lets ls
  split
  · rfl
  · next hn => exact if_pos (h.resolve_left hn)

end Sys2Proof.Machine
end

section
/-! PROOFS. One part of a load and one part of a store: what the core sees after it. -/

namespace Sys2Proof.Machine

/-! ## A line filled (R128) -/

/-- The line of a part, as the L1 has it or as it is allocated. -/
theorem line_lineAt (s : State) (ck : Nat) (p : Part) :
    ((s.cor ck).line p).valid = (lineAt s ck p.pa).valid ∧ ((s.cor ck).line p).dirty = (lineAt s ck p.pa).dirty ∧
      ((s.cor ck).line p).data = (lineAt s ck p.pa).data := by
  unfold Core.line lineAt
  cases (s.cor ck).l1.find (p.pa / 128) <;> exact ⟨rfl, rfl, rfl⟩

theorem lineAt_line {s : State} {ck a b : Nat} (h : a / 128 = b / 128) : lineAt s ck a = lineAt s ck b := by
  rw [lineAt, lineAt, h]

theorem bytes_seenNat (s : State) (ck pa n : Nat) {i : Nat} (hi : i < n) :
    BitVec.ofNat 8 (s.seenNat ck pa n / 2 ^ (8 * i)) = s.seenByte ck (pa + i) := by
  apply BitVec.eq_of_toNat_eq
  rw [BitVec.toNat_ofNat, State.seenNat, Nat.pow_mul]
  refine (natOfBytes_byte _ (by simpa using hi)).trans ?_
  rw [List.getElem_map, List.getElem_range]

theorem getLsbD_bit {w i : Nat} (hi : i < 32) : (BitVec.ofNat 32 (2 ^ w)).getLsbD i = decide (i = w) := by
  rw [BitVec.getLsbD_ofNat, Nat.testBit_two_pow, decide_eq_true hi, Bool.true_and]
  exact decide_eq_decide.2 ⟨Eq.symm, Eq.symm⟩

section
variable (s : State) (ck k : Nat)

/-- One word of a line filled. -/
theorem fillWord1_bytes (l : L1Line) {w i : Nat} (hi : i < 128) :
    lineByte (s.fillWord1 ck k l w).data i = if i / 4 = w then s.seenByte ck (k * 128 + i) else lineByte l.data i := by
  rw [State.fillWord1]
  dsimp only
  rw [lineByte_linePut hi]
  by_cases h : i / 4 = w
  · rw [if_pos h, if_pos (by omega), bytes_seenNat s ck _ 4 (by omega), show k * 128 + 4 * w + (i - 4 * w) = k * 128 + i by omega]
  · rw [if_neg h, if_neg (by omega)]

theorem fillWord1_valid (l : L1Line) (w : Nat) {i : Nat} (hi : i < 32) :
    (s.fillWord1 ck k l w).valid.getLsbD i = (l.valid.getLsbD i || decide (i = w)) := by
  rw [State.fillWord1]
  dsimp only
  rw [BitVec.getLsbD_or, getLsbD_bit hi]

/-- Several words of a line filled: their bytes are those that the home has, and they are valid. -/
theorem fillWords_bytes (ws : List Nat) (l : L1Line) {i : Nat} (hi : i < 128) :
    lineByte (ws.foldl (s.fillWord1 ck k) l).data i =
        (if i / 4 ∈ ws then s.seenByte ck (k * 128 + i) else lineByte l.data i) ∧
      (ws.foldl (s.fillWord1 ck k) l).valid.getLsbD (i / 4) = (l.valid.getLsbD (i / 4) || decide (i / 4 ∈ ws)) := by
  induction ws generalizing l with
  | nil => simp
  | cons w r ih =>
    obtain ⟨h1, h2⟩ := ih (s.fillWord1 ck k l w)
    rw [List.foldl_cons, h1, h2, fillWord1_bytes s ck k l hi,
      fillWord1_valid s ck k l w (by omega)]
    by_cases hr : i / 4 ∈ r
    · simp [hr]
    · by_cases hw : i / 4 = w
      · simp [hw]
      · simp [hr, hw]

end

/-! ## Loads (R128, R329, R330) -/

/-- The bytes of a part lie in its line. -/
theorem part_line {p : Part} (hp : p.pa % 128 + p.n ≤ 128) {i : Nat} (hi : i < p.n) :
    (p.pa + i) / 128 = p.pa / 128 ∧ (p.pa + i) % 128 = p.pa % 128 + i := by
  omega

/-- The words of a part are those of its mask. -/
theorem part_mask {p : Part} (hp : p.pa % 128 + p.n ≤ 128) {i : Nat} (hi : i < p.n) :
    (wordMask (p.pa % 128) p.n).getLsbD ((p.pa % 128 + i) / 4) = true := by
  rw [getLsbD_wordMask (by omega) (by omega), Bool.and_eq_true, decide_eq_true_iff, decide_eq_true_iff]
  constructor <;> exact Nat.div_le_div_right (by omega)

theorem l1Hit_iff {c : Core} {p : Part} (hp : p.pa % 128 + p.n ≤ 128) (hn : 0 < p.n) :
    c.l1Hit p.pa p.n = true ↔ ∃ l, c.l1.find (p.pa / 128) = some l ∧
      ∀ i, i < p.n → l.valid.getLsbD ((p.pa % 128 + i) / 4) = true := by
  unfold Core.l1Hit
  cases hf : c.l1.find (p.pa / 128) with
  | none => simp
  | some l =>
    simp only [Option.some.injEq, exists_eq_left', beq_iff_eq]
    constructor
    · intro h i hi
      have hbit := congrArg (fun m : BitVec 32 => m.getLsbD ((p.pa % 128 + i) / 4)) h
      rw [BitVec.getLsbD_and, part_mask hp hi, Bool.and_true] at hbit
      exact hbit
    · intro h
      apply BitVec.eq_of_getLsbD_eq
      intro w hw
      rw [BitVec.getLsbD_and]
      cases hm : (wordMask (p.pa % 128) p.n).getLsbD w with
      | false => rw [Bool.and_false]
      | true =>
        rw [getLsbD_wordMask hn hw, Bool.and_eq_true, decide_eq_true_iff, decide_eq_true_iff] at hm
        have : l.valid.getLsbD w = true := by
          by_cases hlow : p.pa % 128 ≤ 4 * w
          · have := h (4 * w - p.pa % 128) (by omega)
            rwa [show (p.pa % 128 + (4 * w - p.pa % 128)) / 4 = w by omega] at this
          · have := h 0 hn
            rwa [show (p.pa % 128 + 0) / 4 = w by omega] at this
        rw [this]; rfl

/-- A fetch makes room so that no valid clean word of the line is older than what its home has. -/
theorem l1Fresh_result {s : State} {ck : Nat} {p : Part} (hs : SoundCache s ck) :
    SameHome ck s (s.l1Fresh ck p) ∧ ∀ w, w < 32 →
      (s.l1Fresh ck p).staleWord ck (p.pa / 128) (((s.l1Fresh ck p).cor ck).line p) w = false := by
  have hr := sameHome_l1Room (k := p.pa / 128) hs
  unfold State.l1Fresh
  extract_lets t
  split
  · obtain ⟨he, hnone⟩ := sameHome_l1Evict (k := p.pa / 128) hr.sound
    refine ⟨hr.trans he, fun w hw => ?_⟩
    rw [State.staleWord, Core.line, hnone]
    simp
  · next hst =>
    refine ⟨hr, fun w hw => ?_⟩
    rw [Bool.not_eq_true, List.any_eq_false] at hst
    simpa using hst w (List.mem_range.2 hw)

/-- What a core's own view and its home's view of the bytes of a line come to. -/
theorem fetched_byte {s : State} {ck : Nat} {p : Part} {i : Nat} (hi : i < 128)
    (hstale : ∀ w, w < 32 → s.staleWord ck (p.pa / 128) ((s.cor ck).line p) w = false)
    (hv : (((s.cor ck).line p).valid ||| ((s.cor ck).line p).dirty).getLsbD (i / 4) = true) :
    lineByte ((s.cor ck).line p).data i = homeByte s ck (p.pa / 128 * 128 + i) := by
  obtain ⟨hvalid, hdirty, hdata⟩ := line_lineAt s ck p
  have hline : lineAt s ck (p.pa / 128 * 128 + i) = lineAt s ck p.pa := lineAt_line (by omega)
  rw [homeByte_eq, hline, ← hdirty, ← hdata, show (p.pa / 128 * 128 + i) % 128 = i by omega]
  by_cases hd : ((s.cor ck).line p).dirty.getLsbD (i / 4) = true
  · rw [if_pos hd]
  · rw [if_neg hd]
    rw [BitVec.getLsbD_or] at hv
    rw [Bool.not_eq_true] at hd
    rw [hd, Bool.or_false] at hv
    have hnot := hstale (i / 4) (by omega)
    rw [State.staleWord, hv, hd] at hnot
    simp only [Bool.not_false, Bool.and_self, Bool.true_and, Bool.or_eq_false_iff, bne_eq_false_iff_eq] at hnot
    have hseen := bytes_seenNat s ck (p.pa / 128 * 128 + 4 * (i / 4)) 4 (i := i % 4) (by omega)
    rw [← hnot.1, show p.pa / 128 * 128 + 4 * (i / 4) + i % 4 = p.pa / 128 * 128 + i by omega] at hseen
    rw [← hseen]
    apply BitVec.eq_of_toNat_eq
    rw [toNat_lineByte, BitVec.toNat_ofNat, lineGet]
    have hsplit : 8 * i = 8 * (4 * (i / 4)) + 8 * (i % 4) := by omega
    rw [hsplit, Nat.pow_add, ← Nat.div_div_eq_div_mul]
    generalize ((s.cor ck).line p).data.toNat / 2 ^ (8 * (4 * (i / 4))) = x
    have hlt : i % 4 < 4 := Nat.mod_lt _ (by decide)
    have hdvd : 2 ^ (8 * (i % 4)) * 256 ∣ 2 ^ (8 * 4) := by
      rw [show (256 : Nat) = 2 ^ 8 by rfl, ← Nat.pow_add]
      exact pow_dvd_pow 2 (by omega)
    rw [← Nat.mod_mul_right_div_self, ← Nat.mod_mul_right_div_self (x % 2 ^ (8 * 4)), Nat.mod_mod_of_dvd _ hdvd]

theorem l1_filterEnter (s : State) (pa : Nat) (bd : Bool) (k : Nat) : ((s.filterEnter pa bd).cor k) = s.cor k := by
  unfold State.filterEnter
  split <;> rfl

/-- The line that a fetch leaves in the L1. -/
def State.filledLine (s : State) (ck : Nat) (p : Part) : L1Line :=
  let l := (s.cor ck).line p
  let l := { l with valid := l.valid ||| l.dirty }
  ((List.range 32).filter fun w => (fillMask p).getLsbD w && !l.valid.getLsbD w).foldl (s.fillWord1 ck (p.pa / 128)) l

theorem l1Fill_l1 (s : State) (ck : Nat) (p : Part) : ((s.l1Fill ck p).cor ck).l1 =
    ((s.l1Fresh ck p).cor ck).l1.set (p.pa / 128) ((s.l1Fresh ck p).filledLine ck p) := by
  unfold State.l1Fill
  dsimp only
  rw [l1_noteRequest, l1_filterEnter, cor_modCor_same]
  rfl

theorem l1Fill_wtq (s : State) (ck : Nat) (p : Part) : ((s.l1Fill ck p).cor ck).wtq = ((s.l1Fresh ck p).cor ck).wtq := by
  unfold State.l1Fill
  dsimp only
  rw [wtq_noteRequest, l1_filterEnter, cor_modCor_same]

/-- A byte of the part in the line that a fetch leaves: valid, and as the core sees it at its home. -/
theorem filledLine_byte {s : State} {ck : Nat} {p : Part} (hp : p.pa % 128 + p.n ≤ 128)
    (hstale : ∀ w, w < 32 → s.staleWord ck (p.pa / 128) ((s.cor ck).line p) w = false) {i : Nat} (hi : i < p.n) :
    (s.filledLine ck p).valid.getLsbD ((p.pa % 128 + i) / 4) = true ∧
      lineByte (s.filledLine ck p).data (p.pa % 128 + i) = homeByte s ck (p.pa + i) := by
  have hj : p.pa % 128 + i < 128 := by omega
  have hmask : (fillMask p).getLsbD ((p.pa % 128 + i) / 4) = true := by
    unfold fillMask
    split
    · exact part_mask hp hi
    · rw [BitVec.getLsbD_allOnes, decide_eq_true_iff]; omega
  have haddr : p.pa / 128 * 128 + (p.pa % 128 + i) = p.pa + i := by omega
  unfold State.filledLine
  extract_lets l l'
  obtain ⟨h1, h2⟩ := fillWords_bytes s ck (p.pa / 128)
    ((List.range 32).filter fun w => (fillMask p).getLsbD w && !l'.valid.getLsbD w) l' hj
  rw [h1, h2, haddr]
  have hmem : (p.pa % 128 + i) / 4 ∈ (List.range 32).filter (fun w => (fillMask p).getLsbD w && !l'.valid.getLsbD w) ↔
      l'.valid.getLsbD ((p.pa % 128 + i) / 4) = false := by
    rw [List.mem_filter, List.mem_range, hmask]
    simp; omega
  by_cases hv : l'.valid.getLsbD ((p.pa % 128 + i) / 4) = true
  · have hno := mt hmem.1 (by rw [hv]; decide)
    rw [hv, if_neg hno, ← haddr]
    exact ⟨rfl, fetched_byte hj hstale hv⟩
  · rw [Bool.not_eq_true] at hv
    have hin := hmem.2 hv
    rw [if_pos hin, decide_eq_true hin, Bool.or_true]
    refine ⟨rfl, ?_⟩
    obtain ⟨-, hdirty, -⟩ := line_lineAt s ck p
    have hd : ((s.cor ck).line p).dirty.getLsbD ((p.pa % 128 + i) / 4) = false := by
      change (((s.cor ck).line p).valid ||| ((s.cor ck).line p).dirty).getLsbD _ = false at hv
      rw [BitVec.getLsbD_or, Bool.or_eq_false_iff] at hv
      exact hv.2
    obtain ⟨hk, ho⟩ := part_line hp hi
    rw [homeByte_eq, lineAt_line hk, ← hdirty, ho, hd, if_neg Bool.false_ne_true]

theorem loadPart_ok {s s1 : State} {ck : Nat} {p : Part} {v : Nat} (h : s.loadPart ck p = .ok (v, s1)) :
    s1 = (if (s.cor ck).l1Hit p.pa p.n then s else s.l1Fill ck p) ∧
      v = lineGet ((s1.cor ck).line p).data (p.pa % 128) p.n := by
  unfold State.loadPart at h
  split at h
  · exact nomatch h
  · obtain ⟨h1, h2⟩ := Prod.mk.inj (Except.ok.inj h)
    exact ⟨h2.symm, by rw [← h1, ← h2]⟩

/-- Settles O27: a hit gives the L1's bytes; a miss fetches what is not valid from the home, past what is stale. -/
theorem loadSeesCoreView : Obligations.LoadSeesCoreView := by
  unfold Obligations.LoadSeesCoreView
  intro s s1 ck p v hp hn hs h
  obtain ⟨h1, rfl⟩ := loadPart_ok h
  obtain ⟨hf, hstale⟩ := l1Fresh_result (p := p) hs
  by_cases hhit : (s.cor ck).l1Hit p.pa p.n = true
  · rw [if_pos hhit] at h1
    subst h1
    refine ⟨hs, fun _ => ⟨rfl, ?_⟩, fun hmiss => absurd hhit (by rw [hmiss]; decide)⟩
    obtain ⟨l, hl, hv⟩ := (l1Hit_iff hp hn).1 hhit
    rw [lineGet_eq_natOfBytes]
    refine congrArg natOfBytes (List.map_congr_left fun i hi => ?_)
    have hi := List.mem_range.1 hi
    obtain ⟨hk, ho⟩ := part_line hp hi
    obtain ⟨hvalid, -, hdata⟩ := line_lineAt s1 ck p
    have hat : lineAt s1 ck p.pa = l := by rw [lineAt, hl]; rfl
    rw [coreByte_eq, lineAt_line hk, ho, hdata, hat, BitVec.getLsbD_or, hv i hi, Bool.true_or, if_pos rfl]
  · rw [if_neg hhit] at h1
    subst h1
    have hl1 := l1Fill_l1 s ck p
    have hfind : ((s.l1Fill ck p).cor ck).l1.find (p.pa / 128) = some ((s.l1Fresh ck p).filledLine ck p) := by
      rw [hl1, AMap.find_set_same]
    refine ⟨soundCache_of hf.sound (by rw [hl1]; exact AMap.sorted_set _ _ _ hf.sound.1) fun e he => .inl
      (l1Fill_wtq s ck p ▸ he), fun hh => absurd hh hhit, fun _ => ⟨?_, ?_⟩⟩
    · exact (l1Hit_iff hp hn).2 ⟨_, hfind, fun i hi => (filledLine_byte hp hstale hi).1⟩
    · rw [lineGet_eq_natOfBytes]
      refine congrArg natOfBytes (List.map_congr_left fun i hi => ?_)
      rw [show ((s.l1Fill ck p).cor ck).line p = (s.l1Fresh ck p).filledLine ck p by rw [Core.line, hfind]; rfl,
        (filledLine_byte hp hstale (List.mem_range.1 hi)).2, hf.home]

/-! ## Stores (R128, R170, R330) -/

/-- The line that a store of whole words leaves in the L1. -/
def wholeLine (l : L1Line) (p : Part) (v : Nat) : L1Line :=
  let mask := wordMask (p.pa % 128) p.n
  { l with valid := l.valid ||| mask, dirty := l.dirty ||| mask, bad := l.bad &&& ~~~ mask,
           data := linePut l.data (p.pa % 128) p.n v }

theorem storeWhole_eq (s : State) (ck : Nat) (p : Part) (v : Nat) :
    s.storeWhole ck p v = (s.l1Room ck (p.pa / 128)).modCor ck fun c =>
      { c with l1 := c.l1.set (p.pa / 128) (wholeLine (((s.l1Room ck (p.pa / 128)).cor ck).line p) p v) } := rfl

/-- What the core sees after a store of whole words, from what it sees once there is room for the line. -/
theorem coreByte_storeWhole {s : State} {ck : Nat} {p : Part} (v : Nat) (hp : p.pa % 128 + p.n ≤ 128) (hn : 0 < p.n)
    (h4 : p.pa % 4 = 0 ∧ p.n % 4 = 0) (x : Nat) :
    coreByte (s.storeWhole ck p v) ck x =
      if p.pa ≤ x ∧ x < p.pa + p.n then BitVec.ofNat 8 (v / 2 ^ (8 * (x - p.pa)))
      else coreByte (s.l1Room ck (p.pa / 128)) ck x := by
  rw [storeWhole_eq]
  generalize s.l1Room ck (p.pa / 128) = u
  generalize ht : (u.modCor ck fun c => { c with l1 := c.l1.set (p.pa / 128) (wholeLine ((u.cor ck).line p) p v) }) = t
  have hl1 : (t.cor ck).l1 = (u.cor ck).l1.set (p.pa / 128) (wholeLine ((u.cor ck).line p) p v) := by
    rw [← ht, cor_modCor_same]
  have hseen : t.seenByte ck x = u.seenByte ck x := by
    rw [seenByte_eq, seenByte_eq, ← ht, cor_modCor_same]; rfl
  rw [coreByte_eq, coreByte_eq]
  by_cases hx : x / 128 = p.pa / 128
  · obtain ⟨hvalid, hdirty, hdata⟩ := line_lineAt u ck p
    have hat : lineAt t ck x = wholeLine ((u.cor ck).line p) p v := by rw [lineAt, hl1, hx, AMap.find_set_same]; rfl
    have hbit : (wordMask (p.pa % 128) p.n).getLsbD (x % 128 / 4) = decide (p.pa ≤ x ∧ x < p.pa + p.n) := by
      rw [getLsbD_wordMask hn (by omega), ← Bool.decide_and]
      exact decide_eq_decide.2 (by omega)
    rw [hat, lineAt_line hx, wholeLine]
    dsimp only
    rw [lineByte_linePut (by omega), BitVec.getLsbD_or, BitVec.getLsbD_or, BitVec.getLsbD_or, hbit, hvalid, hdirty, hdata,
      hseen]
    by_cases hin : p.pa ≤ x ∧ x < p.pa + p.n
    · rw [if_pos hin, decide_eq_true hin, Bool.or_true, Bool.true_or, if_pos rfl, if_pos (by omega),
        show x % 128 - p.pa % 128 = x - p.pa by omega]
    · rw [if_neg hin, decide_eq_false hin, Bool.or_false, Bool.or_false, ← BitVec.getLsbD_or,
        if_neg (show ¬(p.pa % 128 ≤ x % 128 ∧ x % 128 < p.pa % 128 + p.n) by omega)]
  · have hat : lineAt t ck x = lineAt u ck x := by rw [lineAt, lineAt, hl1, AMap.find_set_other _ _ hx]
    rw [if_neg (show ¬(p.pa ≤ x ∧ x < p.pa + p.n) by omega), hseen, hat]

theorem soundCache_storeWhole {s : State} {ck : Nat} {p : Part} (v : Nat) (hs : SoundCache s ck) :
    SoundCache (s.storeWhole ck p v) ck := by
  have hr := (sameHome_l1Room (k := p.pa / 128) hs).sound
  rw [storeWhole_eq]
  refine soundCache_of hr ?_ fun e he => .inl ?_
  · rw [cor_modCor_same]; exact AMap.sorted_set _ _ _ hr.1
  · rw [cor_modCor_same] at he; exact he

/-- The bytes of a line after a store of part of a word: those of valid words are replaced. -/
theorem lineByte_update (l : L1Line) (off n v : Nat) {j : Nat} (hj : j < 128) :
    lineByte (l.update off n v).data j = if off ≤ j ∧ j < off + n ∧ (l.valid ||| l.dirty).getLsbD (j / 4) = true then
      BitVec.ofNat 8 (v / 2 ^ (8 * (j - off))) else lineByte l.data j := by
  have h : ∀ n, ∀ d : BitVec 1024, lineByte ((List.range n).foldl (fun d i =>
      if (l.valid ||| l.dirty).getLsbD ((off + i) / 4) then linePut d (off + i) 1 (v / 2 ^ (8 * i)) else d) d) j =
      if off ≤ j ∧ j < off + n ∧ (l.valid ||| l.dirty).getLsbD (j / 4) = true then BitVec.ofNat 8 (v / 2 ^ (8 * (j - off)))
      else lineByte d j := by
    intro n d
    induction n with
    | zero => rw [if_neg (by omega)]; rfl
    | succ n ih =>
      rw [List.range_succ, List.foldl_append, List.foldl_cons, List.foldl_nil]
      by_cases hjn : j = off + n
      · by_cases hbit : (l.valid ||| l.dirty).getLsbD (j / 4) = true
        · rw [if_pos (by rw [← hjn]; exact hbit), lineByte_linePut hj, if_pos (by omega), if_pos ⟨by omega, by omega, hbit⟩, hjn,
            Nat.add_sub_cancel_left, Nat.sub_self, Nat.mul_zero, Nat.pow_zero, Nat.div_one]
        · rw [if_neg (by rw [← hjn]; exact hbit), ih, if_neg (by omega), if_neg (fun hc => hbit hc.2.2)]
      · have hrest : (off ≤ j ∧ j < off + (n + 1) ∧ (l.valid ||| l.dirty).getLsbD (j / 4) = true) ↔
            off ≤ j ∧ j < off + n ∧ (l.valid ||| l.dirty).getLsbD (j / 4) = true := by
          constructor <;> rintro ⟨h1, h2, h3⟩ <;> exact ⟨h1, by omega, h3⟩
        rw [if_congr hrest rfl rfl, ← ih]
        split
        · rw [lineByte_linePut hj, if_neg (by omega)]
        · rfl
  exact h n l.data

/-- The L1 after a store of part of a word has replaced the bytes of its valid copies. -/
def State.l1Update (s : State) (ck : Nat) (p : Part) (v : Nat) : State :=
  s.modCor ck fun c =>
    match c.l1.find (p.pa / 128) with
    | some l => { c with l1 := c.l1.set (p.pa / 128) (l.update (p.pa % 128) p.n v) }
    | none => c

/-- The entry of the queue that a store of part of a word takes. -/
def partEntry (p : Part) (v : Nat) : WtEntry := { pa := p.pa, bytes := (bytesOf v p.n).map some, dev := false }

theorem storePartial_eq (s : State) (ck : Nat) (p : Part) (v : Nat) :
    s.storePartial ck p v = (s.l1Update ck p v).wtPush ck (partEntry p v) := rfl

section
variable (s : State) (ck : Nat) (p : Part) (v : Nat)

theorem find_l1Update (k : Nat) : ((s.l1Update ck p v).cor ck).l1.find k =
    if k = p.pa / 128 then ((s.cor ck).l1.find k).map fun l => l.update (p.pa % 128) p.n v else (s.cor ck).l1.find k := by
  rw [State.l1Update, cor_modCor_same]
  by_cases hk : k = p.pa / 128
  · subst hk
    rw [if_pos rfl]
    cases hf : (s.cor ck).l1.find (p.pa / 128) with
    | none => exact hf
    | some l => exact AMap.find_set_same _ _ _
  · rw [if_neg hk]
    cases (s.cor ck).l1.find (p.pa / 128) with
    | none => rfl
    | some l => exact AMap.find_set_other _ _ hk

theorem wtq_l1Update : ((s.l1Update ck p v).cor ck).wtq = (s.cor ck).wtq := by
  rw [State.l1Update, cor_modCor_same]
  split <;> rfl

theorem soundCache_l1Update {s : State} {ck : Nat} (hs : SoundCache s ck) : SoundCache (s.l1Update ck p v) ck := by
  refine soundCache_of hs ?_ fun e he => .inl (wtq_l1Update s ck p v ▸ he)
  rw [State.l1Update, cor_modCor_same]
  split
  · exact AMap.sorted_set _ _ _ hs.1
  · exact hs.1

theorem seenByte_l1Update (a : Nat) : (s.l1Update ck p v).seenByte ck a = s.seenByte ck a := by
  rw [seenByte_eq, seenByte_eq, wtq_l1Update]; rfl

/-- The line at an address after the update. -/
theorem lineAt_l1Update (a : Nat) :
    (lineAt (s.l1Update ck p v) ck a).valid = (lineAt s ck a).valid ∧
      (lineAt (s.l1Update ck p v) ck a).dirty = (lineAt s ck a).dirty ∧
      (((lineAt s ck a).valid ||| (lineAt s ck a).dirty).getLsbD (a % 128 / 4) = true →
        lineByte (lineAt (s.l1Update ck p v) ck a).data (a % 128) = lineByte (if a / 128 = p.pa / 128 then
          ((lineAt s ck a).update (p.pa % 128) p.n v).data else (lineAt s ck a).data) (a % 128)) := by
  unfold lineAt
  rw [find_l1Update]
  by_cases ha : a / 128 = p.pa / 128
  · rw [if_pos ha, if_pos ha]
    cases (s.cor ck).l1.find (a / 128) with
    | none => exact ⟨rfl, rfl, fun h => by simp at h⟩
    | some l => exact ⟨rfl, rfl, fun _ => rfl⟩
  · rw [if_neg ha, if_neg ha]
    exact ⟨rfl, rfl, fun _ => rfl⟩

end

theorem entryByte_partEntry {p : Part} {v a : Nat} (h : p.pa ≤ a ∧ a < p.pa + p.n) :
    entryByte (partEntry p v) a = some (BitVec.ofNat 8 (v / 2 ^ (8 * (a - p.pa)))) := by
  have hlen : a - p.pa < ((bytesOf v p.n).map some).length := by rw [List.length_map, length_bytesOf]; omega
  rw [entryByte, if_pos ⟨h.1, rfl⟩]
  change ((bytesOf v p.n).map some).getD (a - p.pa) none = _
  rw [List.getD_eq_getElem _ _ hlen, List.getElem_map, bytesOf_getElem_eq]

theorem entryByte_partEntry_outside {p : Part} {v a : Nat} (h : a < p.pa ∨ p.pa + p.n ≤ a) :
    entryByte (partEntry p v) a = none := by
  rw [entryByte]
  split
  · next hc =>
    change ((bytesOf v p.n).map some).getD (a - p.pa) none = _
    have := hc.1
    change p.pa ≤ a at this
    exact List.getD_eq_default _ _ (by rw [List.length_map, length_bytesOf]; omega)
  · rfl

theorem inLine_partEntry {p : Part} (v : Nat) (hp : p.pa % 128 + p.n ≤ 128) : inLine (partEntry p v) := fun _ => by
  change p.pa % 128 + ((bytesOf v p.n).map some).length ≤ 128
  rw [List.length_map, length_bytesOf]
  exact hp

/-- What a store of part of a word leaves of the core's view. -/
theorem coreByte_storePartial {s : State} {ck : Nat} {p : Part} (v : Nat) (hp : p.pa % 128 + p.n ≤ 128)
    (hs : SoundCache s ck) (x : Nat) :
    coreByte (s.storePartial ck p v) ck x =
      if p.pa ≤ x ∧ x < p.pa + p.n then BitVec.ofNat 8 (v / 2 ^ (8 * (x - p.pa))) else coreByte s ck x := by
  have hu := soundCache_l1Update p v hs
  have hroom := sameView_wtRoom hu
  obtain ⟨hvalid, hdirty, hdata⟩ := lineAt_l1Update s ck p v x
  rw [storePartial_eq]
  by_cases hin : p.pa ≤ x ∧ x < p.pa + p.n
  · rw [if_pos hin, coreByte_eq, lineAt_wtPush, seenByte_wtPush, entryByte_partEntry hin]
    split
    · next hbit =>
      have hupd : coreByte (s.l1Update ck p v) ck x = BitVec.ofNat 8 (v / 2 ^ (8 * (x - p.pa))) := by
        have hbits : ((lineAt s ck x).valid ||| (lineAt s ck x).dirty).getLsbD (x % 128 / 4) = true := by
          rw [← hvalid, ← hdirty]
          have hc := (onlyCleaned_wtRoom (s.l1Update ck p v) ck).find (x / 128)
          unfold lineAt at hbit ⊢
          obtain h1 | ⟨l, h1, h2⟩ := hc
          · rw [h1] at hbit; exact hbit
          · rw [h2] at hbit
            rw [h1]
            simp only [Option.getD_some, BitVec.getLsbD_or] at hbit ⊢
            simpa using .inl (by simpa using hbit)
        have hb := hdata hbits
        rw [if_pos (by omega), lineByte_update _ _ _ _ (by omega), if_pos ⟨by omega, by omega, hbits⟩,
          show x % 128 - p.pa % 128 = x - p.pa by omega] at hb
        rw [coreByte_eq, hvalid, hdirty, if_pos hbits, hb]
      have := hroom.core x
      rw [coreByte_eq, if_pos hbit] at this
      rw [this, hupd]
    · rfl
  · rw [if_neg hin, (view_wtPush (partEntry p v) hu (entryByte_partEntry_outside (by omega))).2, coreByte_eq, coreByte_eq, hvalid,
      hdirty, seenByte_l1Update]
    split
    · next hbits =>
      rw [hdata hbits]
      split
      · rw [lineByte_update _ _ _ _ (by omega), if_neg (by omega)]
      · rfl
    · rfl

/-- A store of part of a word keeps the valid and the dirty words of the L1, but for the line that a full queue sends home. -/
theorem bits_storePartial {s : State} {ck : Nat} {p : Part} (v k : Nat)
    (h : (s.cor ck).wtq.length < 32 ∨ ∀ e ∈ (s.cor ck).wtq.take 1, e.pa / 128 ≠ k) :
    (((s.storePartial ck p v).cor ck).l1.find k).map (fun l => (l.valid, l.dirty)) =
      ((s.cor ck).l1.find k).map fun l => (l.valid, l.dirty) := by
  have hroom : (((s.l1Update ck p v).wtRoom ck).cor ck).l1.find k = ((s.l1Update ck p v).cor ck).l1.find k := by
    unfold State.wtRoom
    split
    · next hlen =>
      rw [wtq_l1Update] at hlen
      cases hq : ((s.l1Update ck p v).cor ck).wtq with
      | nil => rw [wtDrainOne_nil hq]
      | cons e r =>
        have hne : e.pa / 128 ≠ k := by
          refine (h.resolve_left (by omega)) e ?_
          rw [← wtq_l1Update s ck p v, hq]
          exact List.mem_cons_self
        cases hd : ((s.l1Update ck p v).cor ck).dirtyLine e with
        | none => rw [wtDrainOne_clean hq hd, l1_wtPerform, cor_modCor_same]
        | some l =>
          rw [wtDrainOne_dirty hq hd, l1_wtPerform, cor_modCor_same]
          exact AMap.find_set_other _ _ hne.symm
    · rfl
  rw [storePartial_eq, l1_wtPush, hroom, find_l1Update]
  split
  · cases (s.cor ck).l1.find k <;> rfl
  · rfl

theorem storeParts_one {s s1 : State} {ck : Nat} {whole : Bool} {v : Nat} {p : Part} (hv : v < 2 ^ (8 * p.n))
    (h : s.storeParts ck whole v [p] = .ok (none, s1)) :
    s1 = if whole then s.storeWhole ck p v else s.storePartial ck p v := by
  unfold State.storeParts at h
  rw [Nat.mod_eq_of_lt hv] at h
  split at h
  · exact nomatch (Prod.mk.inj (Except.ok.inj h)).1
  · exact (Prod.mk.inj (Except.ok.inj h)).2.symm

/-- Settles O29: a store of whole words takes the line, one of part of a word the valid copies and the queue. -/
theorem storeChangesCoreView : Obligations.StoreChangesCoreView := by
  unfold Obligations.StoreChangesCoreView
  intro s s1 ck whole v p hp hn hv h4 hs h
  have h1 := storeParts_one hv h
  cases whole with
  | true =>
    rw [if_pos rfl] at h1
    subst h1
    refine ⟨soundCache_storeWhole v hs, fun i hi => ?_, fun hroom x hx => ?_, fun hw => (nomatch hw)⟩
    · rw [coreByte_storeWhole v hp hn (h4 rfl), if_pos (by omega), Nat.add_sub_cancel_left]
    · rw [coreByte_storeWhole v hp hn (h4 rfl), if_neg (by omega), l1Room_same hroom]
  | false =>
    rw [if_neg Bool.false_ne_true] at h1
    subst h1
    refine ⟨soundCache_wtPush _ (soundCache_l1Update p v hs) (inLine_partEntry v hp), fun i hi => ?_, fun _ x hx => ?_,
      fun _ k hk => bits_storePartial v k hk⟩
    · rw [coreByte_storePartial v hp hs, if_pos (by omega), Nat.add_sub_cancel_left]
    · rw [coreByte_storePartial v hp hs, if_neg (by omega)]

end Sys2Proof.Machine
end

section
/-! PROOFS. The bit-stream forms: the buffer and its refill. -/

namespace Sys2Proof.Machine

/-! ## The buffer (R183, Table 7-5b) -/

/-- A buffer that the registers of a thread can hold: bits below the fill, and places in the scratchpad. -/
structure BufWf (b : BitBuf) : Prop where
  bits : b.bits < 2 ^ b.fill
  fill : b.fill ≤ 128
  src : b.src < 2 ^ 19
  fin : b.fin < 2 ^ 19

theorem bufWf_bitBuf (t : Thread) : BufWf t.bitBuf where
  bits := Nat.mod_lt _ (Nat.two_pow_pos _)
  fill := Nat.min_le_right _ _
  src := Nat.mod_lt _ (by decide)
  fin := Nat.mod_lt _ (by decide)

theorem bitsAt_zero_ofNat {x n : Nat} (hx : x < 2 ^ n) (hn : n ≤ 64) : bitsAt (BitVec.ofNat 64 x) 0 n = x := by
  have h64 : x < 2 ^ 64 := Nat.lt_of_lt_of_le hx (Nat.pow_le_pow_right (by decide) hn)
  rw [bitsAt, BitVec.toNat_ofNat, Nat.mod_eq_of_lt h64, Nat.pow_zero, Nat.div_one, Nat.mod_eq_of_lt hx]

/-- A buffer written is the buffer that is read. -/
theorem bitBuf_setBitBuf {b : BitBuf} (h : BufWf b) (t : Thread) : (t.setBitBuf b).bitBuf = b := by
  have hfill : min (bitsAt (BitVec.ofNat 64 b.fill) 0 8) 128 = b.fill := by
    rw [bitsAt_zero_ofNat (by have := h.fill; omega) (by decide)]
    exact Nat.min_eq_left h.fill
  have hbits : (BitVec.ofNat 64 b.bits).toNat + 2 ^ 64 * (BitVec.ofNat 64 (b.bits / 2 ^ 64)).toNat = b.bits := by
    have hlt : b.bits < 2 ^ 128 := Nat.lt_of_lt_of_le h.bits (Nat.pow_le_pow_right (by decide) h.fill)
    rw [BitVec.toNat_ofNat, BitVec.toNat_ofNat]
    omega
  change BitBuf.mk (((BitVec.ofNat 64 b.bits).toNat + 2 ^ 64 * (BitVec.ofNat 64 (b.bits / 2 ^ 64)).toNat) %
    2 ^ min (bitsAt (BitVec.ofNat 64 b.fill) 0 8) 128) (min (bitsAt (BitVec.ofNat 64 b.fill) 0 8) 128)
    (bitsAt (BitVec.ofNat 64 b.src) 0 19) (bitsAt (BitVec.ofNat 64 b.fin) 0 19) = b
  rw [hfill, hbits, Nat.mod_eq_of_lt h.bits, bitsAt_zero_ofNat h.src (by decide), bitsAt_zero_ofNat h.fin (by decide)]

theorem bufWf_drop {b : BitBuf} (h : BufWf b) {c : Nat} (hc : c ≤ b.fill) : BufWf (b.drop c) where
  bits := by
    refine Nat.div_lt_of_lt_mul ?_
    change b.bits < 2 ^ c * 2 ^ (b.fill - c)
    rw [← Nat.pow_add, Nat.add_sub_cancel' hc]
    exact h.bits
  fill := Nat.le_trans (Nat.sub_le _ _) h.fill
  src := h.src
  fin := h.fin

theorem bitBuf_of_keeps {gs vs : List Reg} {ms : List MReg} {x y : Thread} (h : Keeps gs vs ms x y) :
    y.bitBuf = x.bitBuf := by
  obtain ⟨h1, h2, h3, h4, h5⟩ := h.bits
  rw [Thread.bitBuf, Thread.bitBuf, h1, h2, h3, h4, h5]

/-! ## Completion of a bit form -/

theorem retire_vm (t : Thread) : t.retire.v = t.v ∧ t.retire.m = t.m := by
  obtain ⟨p, c, i, g, h⟩ := advance_form t
  rw [Thread.retire, h]
  exact ⟨rfl, rfl⟩

theorem retireReply_vm (t : Thread) (n : Nat) (d : Reg) : (t.retireReply n d).v = t.v ∧ (t.retireReply n d).m = t.m := by
  obtain ⟨p, c, i, g, h⟩ := advance_form t
  rw [Thread.retireReply, h]
  exact ⟨rfl, rfl⟩

theorem setG_vm (t : Thread) (d : Reg) (x : Word) : (t.setG d x).v = t.v ∧ (t.setG d x).m = t.m := by
  unfold Thread.setG
  split <;> exact ⟨rfl, rfl⟩

/-- A change of the issuing thread to its buffer and one register, before its form is over. -/
structure BitsSet (x y : Thread) (d : Reg) (b : BitBuf) (v : Word) : Prop where
  buf : y.bitBuf = b
  other : ∀ r, r ≠ d → y.rg r = x.rg r
  rg : y.rg d = if d = 0 then 0 else v
  v : y.v = x.v
  m : y.m = x.m
  kstat : y.kstat = x.kstat
  pc : y.pc = x.pc
  inFrame : y.inFrame = x.inFrame

theorem bitsSet_setG {x y : Thread} {b : BitBuf} (h : BitsSet x y 0 b 0) (d : Reg) (v : Word) :
    BitsSet x (y.setG d v) d b v := by
  obtain ⟨k, hstat, hpc, hcnt, -⟩ := setG_keeps y d v
  have hall : ∀ r, y.rg r = x.rg r := fun r => by
    by_cases hr : r = 0
    · rw [hr]; rfl
    · exact h.other r hr
  exact ⟨(bitBuf_of_keeps k).trans h.buf, fun r hr => (rg_setG_other y v hr).trans (hall r), rg_setG_same y d v,
    (setG_vm y d v).1.trans h.v, (setG_vm y d v).2.trans h.m, hstat.trans h.kstat, hpc.trans h.pc,
    by rw [← h.inFrame, Thread.inFrame, Thread.inFrame, hcnt]⟩

theorem bitsSet_setBitBuf {b : BitBuf} (h : BufWf b) (t : Thread) : BitsSet t (t.setBitBuf b) 0 b 0 :=
  ⟨bitBuf_setBitBuf h t, fun _ _ => rfl, rfl, rfl, rfl, rfl, rfl, rfl⟩

theorem bitsSet_self (t : Thread) : BitsSet t t 0 t.bitBuf 0 := ⟨rfl, fun _ _ => rfl, rfl, rfl, rfl, rfl, rfl, rfl⟩

theorem writesBits_retire {i : Instr} {s : State} {d : Reg} {b : BitBuf} {v : Word} {f : Thread → Thread}
    (h : exec i s = .next (s.modTh fun t => (f t).retire)) (hb : BitsSet s.th (f s.th) d b v) : WritesBits i s d b v := by
  refine ⟨_, h, onlyThread_modTh s _, ?_, fun r hr => ?_, ?_, ?_, ?_, ?_, fun hf => ?_, ?_⟩ <;> rw [th_modTh]
  · exact (bitBuf_of_keeps (retire_keeps _)).trans hb.buf
  · rw [retire_rg, hb.other r hr]
  · rw [retire_rg, hb.rg]
  · rw [(retire_vm _).1, hb.v]
  · rw [(retire_vm _).2, hb.m]
  · rw [retire_kstat, hb.kstat]
  · rw [retire_next _ (hb.inFrame.trans hf), hb.pc]
  · exact retire_completed _

theorem writesBits_pure {i : Instr} {s : State} {b : BitBuf} {f : Thread → Thread}
    (h : exec i s = .next (s.pure 0 f)) (hb : BitsSet s.th (f s.th) 0 b 0) : WritesBits i s 0 b 0 := by
  refine ⟨_, h, onlyThread_modTh s _, ?_, fun r hr => ?_, rfl, ?_, ?_, ?_, fun hf => ?_,
    .inr ⟨?_, ⟨.reply, 0, s.tick, 15⟩, ?_, rfl⟩⟩ <;> rw [State.pure, th_modTh]
  · exact (bitBuf_of_keeps (retireReply_keeps (f s.th) s.tick 0)).trans hb.buf
  · exact (retireReply_rg (f s.th) s.tick 0 r).trans (hb.other r hr)
  · exact (retireReply_vm (f s.th) s.tick 0).1.trans hb.v
  · exact (retireReply_vm (f s.th) s.tick 0).2.trans hb.m
  · exact (retireReply_kstat (f s.th) s.tick 0).trans hb.kstat
  · exact (retireReply_next (f s.th) s.tick 0 (hb.inFrame.trans hf)).trans (by rw [hb.pc])
  · rfl
  · rfl

/-- A form whose bits are all in the buffer. -/
theorem bitForm_held {s : State} {need : Nat} (f : BitBuf → Thread → Thread) (h : need ≤ s.th.bitBuf.fill) :
    finish s (s.bitForm need s.th.bitBuf f) = .next (s.modTh fun t => (f s.th.bitBuf t).retire) := by
  rw [State.bitForm, if_pos h]; rfl

/-- The position of the first one, from below. -/
theorem lowBit_eq {n v z : Nat} (hz : z < n) (hlow : ∀ i, i < z → v.testBit i = false) (hbit : v.testBit z = true) :
    lowBit n v = z := by
  obtain ⟨-, h1, h2⟩ := lowBit_spec n v
  rcases Nat.lt_trichotomy (lowBit n v) z with h | h | h
  · have := h2 (by omega)
    rw [hlow _ h] at this
    exact nomatch this
  · exact h
  · have := h1 z h
    rw [hbit] at this
    exact nomatch this

/-- What `bit.unar` leaves: with a one among the next 64 bits, and with none. -/
def unarSet (d : Reg) (b : BitBuf) (t : Thread) : Thread :=
  let lim := min b.fill 64
  let v := b.peek lim
  let z := if v = 0 then lim else lowBit 64 v
  (t.setBitBuf (b.drop (if z < lim then z + 1 else lim))).setG d (BitVec.ofNat 64 z)

theorem unarSet_one {b : BitBuf} {z : Nat} (hb : 64 ≤ b.fill) (hz : z < 64) (hlow : ∀ i, i < z → b.bits.testBit i = false)
    (hbit : b.bits.testBit z = true) (d : Reg) (t : Thread) :
    unarSet d b t = (t.setBitBuf (b.drop (z + 1))).setG d (BitVec.ofNat 64 z) := by
  have hlim : min b.fill 64 = 64 := Nat.min_eq_right hb
  have htest : ∀ i, i < 64 → (b.peek 64).testBit i = b.bits.testBit i := fun i hi => by
    rw [BitBuf.peek, Nat.testBit_mod_two_pow, decide_eq_true hi, Bool.true_and]
  have hne : b.peek 64 ≠ 0 := fun h0 => by
    have := htest z hz
    rw [h0, Nat.zero_testBit, hbit] at this
    exact nomatch this
  have hl : lowBit 64 (b.peek 64) = z :=
    lowBit_eq hz (fun i hi => (htest i (by omega)).trans (hlow i hi)) ((htest z hz).trans hbit)
  unfold unarSet
  simp only [hlim, if_neg hne, hl, if_pos hz]

theorem unarSet_none {b : BitBuf} (hb : 64 ≤ b.fill) (hlow : ∀ i, i < 64 → b.bits.testBit i = false) (d : Reg) (t : Thread) :
    unarSet d b t = (t.setBitBuf (b.drop 64)).setG d 64 := by
  have hlim : min b.fill 64 = 64 := Nat.min_eq_right hb
  have h0 : b.peek 64 = 0 := by
    apply Nat.eq_of_testBit_eq
    intro i
    rw [BitBuf.peek, Nat.testBit_mod_two_pow, Nat.zero_testBit]
    by_cases hi : i < 64
    · rw [hlow i hi, Bool.and_false]
    · rw [decide_eq_false hi, Bool.false_and]
  unfold unarSet
  simp only [hlim, h0, if_true, Nat.lt_irrefl, if_false]
  rfl

/-! ## `bit.init` and its refill (R184) -/

theorem exec_bitInit (d a : Reg) (k : BitVec 8) (s : State) :
    exec (.bitInit d a k) s = finish s ((scrAddr (s.th.rg a)).bind fun st => (scrAddr (s.th.rg d)).bind fun e =>
      (trapIf (st % 8 != 0) cMisaligned (s.th.rg a)).bind fun _ =>
        (trapIf (decide (s.scrLimit < e)) cScratchBounds (s.th.rg d)).bind fun _ =>
          (s.refill { bits := 0, fill := 0, src := st, fin := max e st }).bind fun r =>
            match r with
            | .full b => .ok (s.pure 0 (·.setBitBuf (b.drop (min k.toNat b.fill))))
            | .waits w got => .ok (s.modTh fun t => { t.block s.tick .waiting (.refill w) 0 15 with got := got })) := rfl

theorem natOfBytes_bytesOf (v n : Nat) : natOfBytes (bytesOf v n) = v % 256 ^ n := by
  induction n generalizing v with
  | zero => exact (Nat.mod_one v).symm
  | succ n ih =>
    rw [bytesOf, natOfBytes, ih, BitVec.toNat_ofNat, show 256 ^ (n + 1) = 256 * 256 ^ n from Nat.pow_succ']
    exact Nat.mod_mul.symm

/-- A word of the scratchpad by its bytes. -/
theorem scratch_word (c : Core) (w : Nat) :
    (c.scratch.get 0 w).toNat = natOfBytes ((List.range 8).map fun i => c.scrByte (8 * w + i)) := by
  have hb : ∀ i, i < 8 → c.scrByte (8 * w + i) = BitVec.ofNat 8 ((c.scratch.get 0 w).toNat / 256 ^ i % 256) := fun i hi => by
    rw [scrByte_eq, show (8 * w + i) / 8 = w by omega, show (8 * w + i) % 8 = i by omega]
  have hn : natOfBytes ((List.range 8).map fun i => c.scrByte (8 * w + i)) =
      natOfBytes (bytesOf (c.scratch.get 0 w).toNat 8) := by
    refine congrArg natOfBytes (List.ext_getElem (by simp) fun i h1 h2 => ?_)
    have hi : i < 8 := by simpa using h1
    rw [List.getElem_map, List.getElem_range, hb i hi, bytesOf_getElem_eq, Nat.pow_mul]
    exact BitVec.eq_of_toNat_eq (by simp)
  rw [hn, natOfBytes_bytesOf]
  exact (Nat.mod_eq_of_lt (c.scratch.get 0 w).isLt).symm

theorem natOfBytes_append (l r : List Byte) : natOfBytes (l ++ r) = natOfBytes l + 256 ^ l.length * natOfBytes r := by
  induction l with
  | nil => simp [natOfBytes]
  | cons b l ih => rw [List.cons_append, natOfBytes, natOfBytes, ih, List.length_cons, Nat.pow_succ]; ring

/-- One step of a refill whose word is full and correct. -/
theorem refillGo_step {s : State} {fuel : Nat} {got : List (Nat × Word)} {b : BitBuf} (hf : b.fill ≤ 64)
    (hfin : b.src + 8 ≤ b.fin) (hl : b.src + 8 ≤ s.scrLimit) (h8 : b.src % 8 = 0) (hg : got.find? (·.1 == b.src / 8) = none)
    (he : s.co.empty = []) (hp : s.co.spoison = []) :
    s.refillGo (fuel + 1) got b = s.refillGo fuel ((b.src / 8, s.co.scratch.get 0 (b.src / 8)) :: got)
      { b with bits := b.bits + (s.co.scratch.get 0 (b.src / 8)).toNat * 2 ^ b.fill, fill := b.fill + 64, src := b.src + 8 } := by
  have hfull : s.co.isFull (b.src / 8) = true := by rw [Core.isFull, he]; rfl
  have hpois : s.scrPoison (8 * (b.src / 8)) 8 = .ok () := by
    have hbad : s.co.scrBad (8 * (b.src / 8)) 8 = none := by
      rw [Core.scrBad, List.find?_eq_none, hp]
      exact fun x _ => Bool.false_ne_true
    rw [State.scrPoison, hbad]
  rw [State.refillGo, if_pos ⟨hf, by omega⟩]
  dsimp only
  rw [trapIf, if_neg (by simpa using hl)]
  change (trapIf (b.src % 8 != 0) cMisaligned _).bind _ = _
  rw [trapIf, if_neg (by simp [h8])]
  change (match got.find? (·.1 == b.src / 8) with | some e => _ | none => _) = _
  rw [hg]
  change (if s.co.isFull (b.src / 8) = true then _ else _) = _
  rw [if_pos hfull, hpois, Nat.min_eq_left (by omega)]
  change s.refillGo fuel _ ⟨b.bits + (s.co.scratch.get 0 (b.src / 8)).toNat % 2 ^ (8 * 8) * 2 ^ b.fill, b.fill + 8 * 8,
    b.src + 8, b.fin⟩ = _
  rw [Nat.mod_eq_of_lt (s.co.scratch.get 0 (b.src / 8)).isLt]

theorem refillGo_over {s : State} {fuel : Nat} {got : List (Nat × Word)} {b : BitBuf} (hf : 64 < b.fill) :
    s.refillGo (fuel + 1) got b = .ok (.full b) := by
  rw [State.refillGo, if_neg (by omega)]

/-- Two words of the scratchpad fill an empty buffer. -/
theorem refill_empty {s : State} {st e : Nat} (h8 : st % 8 = 0) (he : st + 16 ≤ e) (hl : e ≤ s.scrLimit) (hg : s.th.got = [])
    (hem : s.co.empty = []) (hp : s.co.spoison = []) :
    s.refill { bits := 0, fill := 0, src := st, fin := e } = .ok (.full
      { bits := natOfBytes ((List.range 16).map fun i => s.co.scrByte (st + i)), fill := 128, src := st + 16, fin := e }) := by
  have hw : st = 8 * (st / 8) := by omega
  have hnum : natOfBytes ((List.range 16).map fun i => s.co.scrByte (st + i)) =
      (s.co.scratch.get 0 (st / 8)).toNat + (s.co.scratch.get 0 ((st + 8) / 8)).toNat * 2 ^ 64 := by
    rw [show List.range 16 = List.range 8 ++ (List.range 8).map (8 + ·) by decide, List.map_append, natOfBytes_append,
      List.map_map, scratch_word, scratch_word, List.length_map, List.length_range, ← hw, show 8 * ((st + 8) / 8) = st + 8 by omega,
      Nat.mul_comm]
    simp only [Function.comp_def, Nat.add_assoc]
    norm_num
  rw [State.refill, hg, refillGo_step (b := ⟨0, 0, st, e⟩) (by simp) (by dsimp only; omega) (by dsimp only; omega) h8 rfl hem hp,
    refillGo_step (by simp) (by dsimp only; omega) (by dsimp only; omega) (by dsimp only; omega) ?_ hem hp,
    refillGo_over (by simp), hnum]
  · simp
  · simp only [List.find?_cons, List.find?_nil]
    have hne : (st / 8 == (st + 8) / 8) = false := by rw [beq_eq_false_iff_ne]; omega
    rw [hne]

/-- Settles O45: the buffer holds the bits, or its first 16 bytes are fetched. -/
theorem bitStreamForms : Obligations.BitStreamForms := by
  unfold Obligations.BitStreamForms
  intro s d a k b n c
  have hb : BufWf b := bufWf_bitBuf s.th
  refine ⟨fun hn => ⟨?_, ?_, ?_⟩, fun hc => ?_, fun z hz hlow => ⟨fun hlt hbit => ?_, fun h64 => ?_⟩, ⟨?_, ?_⟩,
    ⟨fun hx => ?_, fun hx hy => ?_, fun hx hy h8 => ?_, fun hx hy h8 hl => ?_⟩,
    fun st e hst he h8 hlen hlt hlim hg hem hp => ?_⟩
  · exact writesBits_retire (bitForm_held (need := n)
      (fun b t => (t.setBitBuf b).setG d (BitVec.ofNat 64 (b.peek k.toNat))) hn) (bitsSet_setG (bitsSet_setBitBuf hb _) d _)
  · exact writesBits_retire (bitForm_held (need := n)
      (fun b t => (t.setBitBuf (b.drop k.toNat)).setG d (BitVec.ofNat 64 (b.peek k.toNat))) hn)
      (bitsSet_setG (bitsSet_setBitBuf (bufWf_drop hb hn) _) d _)
  · exact writesBits_retire (bitForm_held (need := n) (fun b t => t.setBitBuf (b.drop k.toNat)) hn)
      (bitsSet_setBitBuf (bufWf_drop hb hn) _)
  · refine writesBits_retire (bitForm_held (need := c)
      (fun b t => if c = 0 then t.setG d 0 else (t.setBitBuf (b.drop c)).setG d (BitVec.ofNat 64 (b.peek c))) hc) ?_
    by_cases h0 : c = 0
    · have hself := bitsSet_setG (bitsSet_self s.th) d 0
      rw [if_pos h0, h0, Nat.pow_zero, Nat.mod_one, Nat.div_one]
      exact hself
    · rw [if_neg h0]
      exact bitsSet_setG (bitsSet_setBitBuf (bufWf_drop hb hc) _) d _
  · refine writesBits_retire (bitForm_held (need := 64) (unarSet d) hz) ?_
    rw [unarSet_one hz hlt hlow hbit]
    exact bitsSet_setG (bitsSet_setBitBuf (bufWf_drop hb (Nat.le_trans hlt hz)) _) d _
  · refine writesBits_retire (bitForm_held (need := 64) (unarSet d) hz) ?_
    rw [unarSet_none hz (fun i hi => hlow i (h64 ▸ hi))]
    exact bitsSet_setG (bitsSet_setBitBuf (bufWf_drop hb hz) _) d _
  · exact writesG_outG rfl
  · exact writesG_outG rfl
  · exact traps_finish (tr := ⟨cScratchBounds, s.th.rg a, 0⟩) (exec_bitInit d a k s) (by rw [scrAddr_error hx]; rfl)
  · exact traps_finish (tr := ⟨cScratchBounds, s.th.rg d, 0⟩) (exec_bitInit d a k s) (by
      rw [scrAddr_ok hx]
      change (scrAddr (s.th.rg d)).bind _ = _
      rw [scrAddr_error hy]; rfl)
  · exact traps_finish (tr := ⟨cMisaligned, s.th.rg a, 0⟩) (exec_bitInit d a k s) (by
      rw [scrAddr_ok hx, scrAddr_ok hy]
      change (trapIf ((s.th.rg a).toNat % 8 != 0) cMisaligned _).bind _ = _
      rw [trapIf, if_pos (by simpa using h8)]; rfl)
  · exact traps_finish (tr := ⟨cScratchBounds, s.th.rg d, 0⟩) (exec_bitInit d a k s) (by
      rw [scrAddr_ok hx, scrAddr_ok hy]
      change (trapIf ((s.th.rg a).toNat % 8 != 0) cMisaligned _).bind _ = _
      rw [trapIf, if_neg (by simp [h8])]
      change (trapIf (decide (s.scrLimit < (s.th.rg d).toNat)) cScratchBounds _).bind _ = _
      rw [trapIf, if_pos (by simpa using hl)]; rfl)
  · have hwf : BufWf ⟨natOfBytes ((List.range 16).map fun i => s.co.scrByte (st + i)), 128, st + 16, e⟩ := by
      refine ⟨?_, Nat.le_refl _, by dsimp only; omega, by dsimp only; omega⟩
      have := natOfBytes_lt ((List.range 16).map fun i => s.co.scrByte (st + i))
      simpa using this
    refine writesBits_pure (f := (·.setBitBuf (BitBuf.drop _ (min n 128)))) ?_
      (bitsSet_setBitBuf (bufWf_drop hwf (c := min n 128) (Nat.min_le_right _ _)) s.th)
    rw [exec_bitInit, scrAddr_ok (by omega), scrAddr_ok (by omega), hst, he]
    change finish s ((trapIf (st % 8 != 0) cMisaligned _).bind _) = _
    rw [trapIf, if_neg (by simp [h8])]
    change finish s ((trapIf (decide (s.scrLimit < e)) cScratchBounds _).bind _) = _
    rw [trapIf, if_neg (by simpa using hlim)]
    change finish s ((s.refill { bits := 0, fill := 0, src := st, fin := max e st }).bind _) = _
    rw [Nat.max_eq_left (by omega), refill_empty h8 hlen hlim hg hem hp]
    rfl

end Sys2Proof.Machine
end

section
/-! PROOFS. Forms that end with a status, and the message forms. -/

namespace Sys2Proof.Machine

/-! ## Endings with a status in one register (R20, R115) -/

/-- The registers, the flags and the place in the program of a thread are kept. -/
structure RegsKept (x y : Thread) : Prop where
  g : y.g = x.g
  v : y.v = x.v
  m : y.m = x.m
  kstat : y.kstat = x.kstat
  pc : y.pc = x.pc
  kfcnt : y.kfcnt = x.kfcnt

theorem RegsKept.refl (x : Thread) : RegsKept x x := ⟨rfl, rfl, rfl, rfl, rfl, rfl⟩

theorem RegsKept.trans {x y z : Thread} (h : RegsKept x y) (k : RegsKept y z) : RegsKept x z :=
  ⟨k.g.trans h.g, k.v.trans h.v, k.m.trans h.m, k.kstat.trans h.kstat, k.pc.trans h.pc, k.kfcnt.trans h.kfcnt⟩

theorem RegsKept.rg {x y : Thread} (h : RegsKept x y) (r : Reg) : y.rg r = x.rg r := by
  rw [Thread.rg, Thread.rg, h.g]

theorem MemAside.regsKept {ck : Nat} {s t : State} (h : MemAside ck s t) : RegsKept s.th t.th := by
  obtain ⟨l, hl⟩ := h.th_eq
  rw [hl]
  exact ⟨rfl, rfl, rfl, rfl, rfl, rfl⟩

/-- What a form leaves of a thread that it ends with a value in one register. -/
structure Ended (x y : Thread) (d : Reg) (v : Word) : Prop where
  rg : y.rg d = if d = 0 then 0 else v
  other : ∀ r, r ≠ d → y.rg r = x.rg r
  v : y.v = x.v
  m : y.m = x.m
  kstat : y.kstat = x.kstat
  next : NextWord x y
  completed : Completed y

theorem endsThread_iff {s t : State} {d : Reg} {v : Word} : EndsThread s t d v ↔ Ended s.th t.th d v :=
  ⟨fun ⟨a, b, c, d, e, f, g⟩ => ⟨a, b, c, d, e, f, g⟩, fun ⟨a, b, c, d, e, f, g⟩ => ⟨a, b, c, d, e, f, g⟩⟩

theorem ended_setG {x y : Thread} (h : RegsKept x y) (d : Reg) (v : Word) {z : Thread}
    (hg : ∀ r, z.rg r = (y.setG d v).rg r) (hv : z.v = (y.setG d v).v) (hm : z.m = (y.setG d v).m)
    (hk : z.kstat = (y.setG d v).kstat) (hn : NextWord (y.setG d v) z) (hc : Completed z) : Ended x z d v where
  rg := (hg d).trans (rg_setG_same y d v)
  other r hr := ((hg r).trans (rg_setG_other y v hr)).trans (h.rg r)
  v := hv.trans ((setG_vm y d v).1.trans h.v)
  m := hm.trans ((setG_vm y d v).2.trans h.m)
  kstat := hk.trans ((setG_keeps y d v).2.1.trans h.kstat)
  next hf := by
    have hi : (y.setG d v).inFrame = false := by
      rw [Thread.inFrame, (setG_keeps y d v).2.2.2.1, h.kfcnt]
      exact hf
    rw [hn hi, (setG_keeps y d v).2.2.1, h.pc]
  completed := hc

theorem ended_retireReply {x y : Thread} (h : RegsKept x y) (d : Reg) (v : Word) (n : Nat) :
    Ended x ((y.setG d v).retireReply n d) d v :=
  ended_setG h d v (fun r => retireReply_rg _ n d r) (retireReply_vm _ n d).1 (retireReply_vm _ n d).2
    (retireReply_kstat _ n d) (retireReply_next _ n d) (retireReply_completed _ n d)

theorem ended_retire {x y : Thread} (h : RegsKept x y) (d : Reg) (v : Word) : Ended x (y.setG d v).retire d v :=
  ended_setG h d v (fun r => retire_rg _ r) (retire_vm _).1 (retire_vm _).2 (retire_kstat _) (retire_next _)
    (retire_completed _)

theorem ended_endWait {x y : Thread} (h : RegsKept x y) (d : Reg) (v : Word) : Ended x (y.endWait d v) d v :=
  ended_setG h d v (fun r => retire_rg (y.setG d v) r) (retire_vm (y.setG d v)).1 (retire_vm (y.setG d v)).2
    (retire_kstat (y.setG d v)) (retire_next (y.setG d v)) (retire_completed (y.setG d v))

/-- With no register written. -/
theorem ended_reply {x y : Thread} (h : RegsKept x y) (n : Nat) : Ended x (y.retireReply n) 0 0 :=
  ended_retireReply h 0 0 n

theorem ended_retirePure {x y : Thread} (h : RegsKept x y) (d : Reg) (v : Word) (n : Nat) :
    Ended x (y.retirePure n d (·.setG d v)) d v :=
  ended_setG h d v (fun r => retireReply_rg (y.setG d v) n d r) (retireReply_vm (y.setG d v) n d).1
    (retireReply_vm (y.setG d v) n d).2 (retireReply_kstat (y.setG d v) n d) (retireReply_next (y.setG d v) n d)
    (.inr ⟨rfl, _, rfl, rfl⟩)

section
variable {s t : State}

theorem endsWith_of {d : Reg} {v : Word} (h : Ended s.th t.th d v) (hm : ∀ y, memGet t.mem y = memGet s.mem y) :
    EndsWith s t d v := ⟨endsThread_iff.2 h, hm⟩

theorem endsWith_replyG (h : RegsKept s.th t.th) (hm : ∀ y, memGet t.mem y = memGet s.mem y) (d : Reg) (v : Word) :
    EndsWith s (t.replyG d v) d v :=
  endsWith_of (by rw [State.replyG, th_modTh]; exact ended_retireReply h d v _) hm

theorem endsWith_pureG (h : RegsKept s.th t.th) (hm : ∀ y, memGet t.mem y = memGet s.mem y) (d : Reg) (v : Word) :
    EndsWith s (t.pureG d v) d v :=
  endsWith_of (by rw [State.pureG, State.pure, th_modTh]; exact ended_retirePure h d v _) hm

theorem endsWith_reply (h : RegsKept s.th t.th) (hm : ∀ y, memGet t.mem y = memGet s.mem y) : EndsWith s t.reply 0 0 :=
  endsWith_of (by rw [State.reply, th_modTh]; exact ended_reply h _) hm

end

theorem replyG_packet (t : Thread) (n : Nat) (d : Reg) (v : Word) :
    ((t.setG d v).retireReply n d).packet = t.packet ∧ ((t.setG d v).retireReply n d).permits = t.permits ∧
      ((t.setG d v).retireReply n d).readyBit = t.readyBit := by
  obtain ⟨p, c, i, g, h⟩ := advance_form (t.setG d v)
  have hs : (t.setG d v).packet = t.packet ∧ (t.setG d v).permits = t.permits ∧ (t.setG d v).readyBit = t.readyBit := by
    unfold Thread.setG
    split <;> exact ⟨rfl, rfl, rfl⟩
  rw [Thread.retireReply, h]
  exact hs

/-- A wait that a form enters. -/
theorem waitsFor_block {s t : State} (ht : t.th = s.th) (hm : t.mem = s.mem) (n : Nat) (st : CtxState) (k : WaitKind) (d : Reg)
    (e : Nat) : WaitsFor s (t.modTh fun x => x.block n st k d e) st k := by
  unfold WaitsFor
  rw [th_modTh, ht]
  exact ⟨rfl, rfl, rfl, rfl, rfl, rfl, rfl, fun y => by rw [mem_modTh, hm]⟩

/-- A form that answers BUSY or the like at once, or waits under a limit. -/
theorem timed_cases (s : State) (k : WaitKind) (d : Reg) (e : BitVec 4) (v : Word) :
    if e = 0 then EndsWith s (s.timed k d e v) d v else WaitsFor s (s.timed k d e v) .waiting k := by
  unfold State.timed
  split
  · exact endsWith_pureG (.refl _) (fun _ => rfl) d v
  · exact waitsFor_block rfl rfl _ _ _ _ _

/-! ## Putting and dropping (R188) -/

theorem exec_msgPut_ok {s : State} {a : Reg} (h : s.th.packet.length < 8) :
    exec (.msgPut a) s = .next (s.modTh fun t => { t with packet := t.packet ++ [t.rg a] }).reply :=
  if_neg (by omega)

theorem exec_msgPut_full {s : State} {a : Reg} (h : 8 ≤ s.th.packet.length) :
    exec (.msgPut a) s = finish s (.error (packetTrap 1)) := if_pos h

theorem reply_packet (s : State) (f : Thread → Thread) : (s.modTh f).reply.th.packet = (f s.th).packet := by
  rw [State.reply, th_modTh, th_modTh]
  exact (replyG_packet (f s.th) _ 0 0).1

/-! ## Sending (R116, R188) -/

theorem exec_msgSend (e : BitVec 4) (d a b : Reg) (s : State) :
    exec (.msgSend e d a b) s = finish s
      ((trapIf (decide (12 ≤ bitsAt (s.th.rg a) 13 4) || !s.sameLaunch (bitsAt (s.th.rg a) 4 13)) cPermission (s.th.rg a)).bind
        fun _ => (if 8 ≤ s.th.packet.length then (.error (packetTrap 1) : Except Stop Unit) else .ok ()).bind fun _ =>
          if !(s.die (coreDie (bitsAt (s.th.rg a) 4 13))).online then
            .ok ((s.modTh fun t => { t with packet := [] }).replyG d stPeerLost)
          else if permitCount s.th.permits (bitsAt (s.th.rg a) 4 13) (bitsAt (s.th.rg a) 0 4) = 0 then
            .ok (s.timed .permit d e stNoPermit)
          else
            .ok (((s.modTh fun t => { t with
                permits := permitUse t.permits (bitsAt (s.th.rg a) 4 13) (bitsAt (s.th.rg a) 0 4), packet := [] }).replyG d
              stDone).post (s.sendPost (bitsAt (s.th.rg a) 4 13) (s.sendMsg (s.th.rg a) (s.th.rg b))))) := by
  rcases Nat.lt_or_ge s.th.packet.length 8 with h | h
  · rw [if_neg (by omega)]
    change finish s (Except.bind _ fun _ => (if 8 ≤ s.th.packet.length then _ else _)) = _
    rw [if_neg (by omega)]
    rfl
  · rw [if_pos h]
    change finish s (Except.bind _ fun _ => (if 8 ≤ s.th.packet.length then _ else _)) = _
    rw [if_pos h]
    rfl

/-- The core that a descriptor names is one of the thread's launch, on a die of the package. -/
theorem sendCheck_iff (s : State) (x : Word) :
    (decide (12 ≤ bitsAt x 13 4) || !s.sameLaunch (bitsAt x 4 13)) = false ↔
      bitsAt x 4 13 / 512 < 12 ∧ s.co.launch ≠ none ∧ (s.cor (bitsAt x 4 13)).launch = s.co.launch := by
  have hdie : bitsAt x 13 4 = bitsAt x 4 13 / 512 := by unfold bitsAt; omega
  rw [Bool.or_eq_false_iff, decide_eq_false_iff_not, Bool.not_eq_false', State.sameLaunch, Bool.and_eq_true,
    Option.isSome_iff_ne_none, beq_iff_eq, hdie, Nat.not_le]

theorem coreDie_of_lt {k : Nat} (h : k < 8192) : coreDie k = k / 512 := if_pos h

theorem bitsAt_lt (x : Word) (lo n : Nat) : bitsAt x lo n < 2 ^ n := Nat.mod_lt _ (Nat.two_pow_pos _)

/-- The state after a send under a permit: the packet and one permit are gone, the message is on its way. -/
def State.sent (s : State) (d : Reg) (desc last : Word) : State :=
  ((s.modTh fun t => { t with
      permits := permitUse t.permits (bitsAt desc 4 13) (bitsAt desc 0 4), packet := [] }).replyG d stDone).post
    (s.sendPost (bitsAt desc 4 13) (s.sendMsg desc last))

section
variable {e : BitVec 4} {d a b : Reg} {s : State}

theorem msgSend_past (h : bitsAt (s.th.rg a) 4 13 / 512 < 12 ∧ s.co.launch ≠ none ∧
      (s.cor (bitsAt (s.th.rg a) 4 13)).launch = s.co.launch) (hp : s.th.packet.length < 8) :
    exec (.msgSend e d a b) s = finish s
      (if !(s.die (bitsAt (s.th.rg a) 4 13 / 512)).online then
        .ok ((s.modTh fun t => { t with packet := [] }).replyG d stPeerLost)
      else if permitCount s.th.permits (bitsAt (s.th.rg a) 4 13) (bitsAt (s.th.rg a) 0 4) = 0 then
        .ok (s.timed .permit d e stNoPermit)
      else
        .ok (s.sent d (s.th.rg a) (s.th.rg b))) := by
  rw [exec_msgSend, trapIf, (sendCheck_iff s _).2 h, if_neg Bool.false_ne_true, if_neg (by omega),
    coreDie_of_lt (bitsAt_lt _ 4 13)]
  rfl

theorem traps_msgSend_core (h : ¬(bitsAt (s.th.rg a) 4 13 / 512 < 12 ∧ s.co.launch ≠ none ∧
      (s.cor (bitsAt (s.th.rg a) 4 13)).launch = s.co.launch)) : Traps (.msgSend e d a b) s 0x11 (s.th.rg a) :=
  traps_finish (tr := ⟨cPermission, s.th.rg a, 0⟩) (exec_msgSend e d a b s) (by
    rw [trapIf, if_pos (by rw [← Bool.not_eq_false, sendCheck_iff]; exact h)]; rfl)

theorem traps_msgSend_full (h : bitsAt (s.th.rg a) 4 13 / 512 < 12 ∧ s.co.launch ≠ none ∧
      (s.cor (bitsAt (s.th.rg a) 4 13)).launch = s.co.launch) (hp : 8 ≤ s.th.packet.length) :
    Traps (.msgSend e d a b) s 0x60 1 :=
  traps_finish (tr := ⟨cPacketOpen, 1, 0⟩) (exec_msgSend e d a b s) (by
    rw [trapIf, (sendCheck_iff s _).2 h, if_neg Bool.false_ne_true, if_pos hp]; rfl)

end

/-! ## Receiving and waiting (R118, R119, R190) -/

theorem recvChecks_eq (s : State) (mask : Nat) : s.recvChecks mask =
    (if !s.th.packet.isEmpty then (.error (packetTrap 2) : Except Stop Unit) else .ok ()).bind fun _ =>
      trapIf (!(classesOf mask).all fun i => s.ownsClass i) cPermission (BitVec.ofNat 64 mask) := by
  unfold State.recvChecks
  cases s.th.packet.isEmpty <;> rfl

theorem recvChecks_open {s : State} (mask : Nat) (h : s.th.packet ≠ []) : s.recvChecks mask = .error (packetTrap 2) := by
  rw [recvChecks_eq, if_pos (by simpa using h)]; rfl

theorem recvChecks_other {s : State} {mask : Nat} (h : s.th.packet = []) {i : Nat} (hi : i ∈ classesOf mask)
    (ho : s.ownsClass i = false) :
    s.recvChecks mask = .error (.trap { cause := cPermission, info := BitVec.ofNat 64 mask }) := by
  rw [recvChecks_eq, h]
  change trapIf _ cPermission _ = _
  rw [trapIf, if_pos]
  rw [Bool.not_eq_true', List.all_eq_false]
  exact ⟨i, hi, by rw [ho]; decide⟩

theorem recvChecks_ok {s : State} {mask : Nat} (h : s.th.packet = []) (ho : ∀ i ∈ classesOf mask, s.ownsClass i = true) :
    s.recvChecks mask = .ok () := by
  rw [recvChecks_eq, h]
  change trapIf _ cPermission _ = _
  rw [trapIf, if_neg]
  rw [Bool.not_eq_true, Bool.not_eq_false', List.all_eq_true]
  exact ho

theorem mem_classesOf {mask i : Nat} : i ∈ classesOf mask ↔ i < 16 ∧ mask.testBit i = true := by
  rw [classesOf, List.mem_filter, List.mem_range, beq_iff_eq, Nat.testBit_eq_decide_div_mod_eq, decide_eq_true_iff]

theorem mem_classesOf_single {k i : Nat} (hk : k < 16) : i ∈ classesOf (2 ^ k) ↔ i = k := by
  rw [mem_classesOf, Nat.testBit_two_pow, decide_eq_true_iff]
  omega

theorem mem_classesOf_word {x : Word} {i : Nat} : i ∈ classesOf (bitsAt x 0 16) ↔ i < 16 ∧ bitAt x i = true := by
  rw [mem_classesOf, bitAt_eq_testBit, bitsAt, Nat.testBit_mod_two_pow, Nat.pow_zero, Nat.div_one]
  constructor
  · rintro ⟨h1, h2⟩
    exact ⟨h1, by rw [decide_eq_true h1, Bool.true_and] at h2; exact h2⟩
  · rintro ⟨h1, h2⟩
    exact ⟨h1, by rw [decide_eq_true h1, Bool.true_and]; exact h2⟩

theorem waitOn_eq (s : State) (mask : Nat) (d : Reg) (e : BitVec 4) : s.waitOn mask d e =
    (s.recvChecks mask).bind fun _ => match s.co.holds mask with
      | c :: _ => .ok ((s.modTh fun t => { t with readyBit := false }).replyG d (BitVec.ofNat 64 (c * 16)))
      | [] => if s.th.readyBit then .ok ((s.modTh fun t => { t with readyBit := false }).replyG d 8)
        else .ok (s.park mask d e) := rfl

theorem exec_msgWait (e : BitVec 4) (d a : Reg) (s : State) :
    exec (.msgWait e d a) s = finish s (s.waitOn (2 ^ bitsAt (s.th.rg a) 0 4) d e) := rfl

theorem exec_msgAlt (e : BitVec 4) (d a : Reg) (s : State) :
    exec (.msgAlt e d a) s = finish s (s.waitOn (bitsAt (s.th.rg a) 0 16) d e) := rfl

theorem exec_msgRecv (e : BitVec 4) (d a b : Reg) (s : State) :
    exec (.msgRecv e d a b) s = finish s ((s.recvChecks (2 ^ bitsAt (s.th.rg a) 0 4)).bind fun _ =>
      (scrAddr (s.th.rg b)).bind fun la => (trapIf (la % 8 != 0) cMisaligned (s.th.rg b)).bind fun _ =>
        (trapIf (decide (s.scrLimit < la + 64)) cScratchBounds (s.th.rg b)).bind fun _ =>
          match takeMsg s.co.mailbox (bitsAt (s.th.rg a) 0 4) with
          | some (m, rest) => .ok ((s.takeNow m rest la).replyG d (recvStatus m))
          | none => .ok (s.park (2 ^ bitsAt (s.th.rg a) 0 4) d e)) := rfl

/-- The form finds a message of a class of its mask. -/
theorem waitOn_holds {s : State} {mask c : Nat} {r : List Nat} (d : Reg) (e : BitVec 4) (hc : s.recvChecks mask = .ok ())
    (hh : s.co.holds mask = c :: r) :
    s.waitOn mask d e = .ok ((s.modTh fun t => { t with readyBit := false }).replyG d (BitVec.ofNat 64 (c * 16))) := by
  rw [waitOn_eq, hc]
  change (match s.co.holds mask with | c :: _ => _ | [] => _) = _
  rw [hh]

theorem regsKept_readyBit (t : Thread) (b : Bool) : RegsKept t { t with readyBit := b } := ⟨rfl, rfl, rfl, rfl, rfl, rfl⟩

/-- What a form that finds a message leaves. -/
theorem holds_result {i : Instr} {s : State} {d : Reg} {v : Word}
    (h : exec i s = .next ((s.modTh fun t => { t with readyBit := false }).replyG d v)) :
    ∃ t, exec i s = .next t ∧ EndsWith s t d v ∧ t.th.readyBit = false ∧ t.co.mailbox = s.co.mailbox := by
  have hr : RegsKept s.th (s.modTh fun t => { t with readyBit := false }).th := by rw [th_modTh]; exact regsKept_readyBit _ _
  refine ⟨_, h, endsWith_replyG hr (fun _ => rfl) d v, ?_, rfl⟩
  rw [State.replyG, th_modTh, th_modTh]
  exact (replyG_packet _ _ d v).2.2

/-- Words in the scratchpad, one after the other. -/
theorem scratch_scrWords (c : Core) (a : Nat) (ws : List Word) (ha : a % 8 = 0) :
    (∀ i, i < ws.length → (c.scrWords a ws).scratch.get 0 (a / 8 + i) = ws.getD i 0) ∧
      (∀ v, v < a / 8 → (c.scrWords a ws).scratch.get 0 v = c.scratch.get 0 v) := by
  induction ws generalizing c a with
  | nil => exact ⟨fun i hi => absurd hi (Nat.not_lt_zero i), fun _ _ => rfl⟩
  | cons w r ih =>
    obtain ⟨h1, h2⟩ := ih (c.scrSetWord (a / 8) w) (a + 8) (by omega)
    rw [show (a + 8) / 8 = a / 8 + 1 by omega] at h1 h2
    refine ⟨fun i hi => ?_, fun v hv => ?_⟩
    · cases i with
      | zero =>
        rw [Core.scrWords, Nat.add_zero, h2 _ (by omega), List.getD_cons_zero]
        exact AMap.get_put_same _ _ _ _
      | succ i =>
        rw [Core.scrWords, List.getD_cons_succ, ← h1 i (by simpa using hi)]
        congr 1
        omega
    · rw [Core.scrWords, h2 _ (by omega)]
      exact scratch_scrSetWord_other _ _ (by omega)

theorem scrWords_form (c : Core) (a : Nat) (ws : List Word) :
    ∃ m p, c.scrWords a ws = { c with scratch := m, spoison := p } := by
  induction ws generalizing c a with
  | nil => exact ⟨_, _, rfl⟩
  | cons w r ih =>
    obtain ⟨m, p, h⟩ := ih (c.scrSetWord (a / 8) w) (a + 8)
    exact ⟨m, p, h⟩

/-- A core that has taken `m` and keeps the messages `rest`. -/
def afterTake (c : Core) (m : Msg) (rest : List Msg) : Core :=
  { c with mailbox := rest, outstanding := c.outstanding - (if m.permitted then 1 else 0),
           recvCount := c.recvCount + (if m.permitted then 1 else 0) }

theorem co_takeNow (s : State) (m : Msg) (rest : List Msg) (la : Nat) :
    (s.takeNow m rest la).co = (afterTake s.co m rest).scrWords la m.words := by
  rw [State.takeNow]
  dsimp only
  rw [co_modTh, co_modCo]
  rfl

theorem th_takeNow (s : State) (m : Msg) (rest : List Msg) (la : Nat) :
    ∃ b, (s.takeNow m rest la).th = { s.th with readyBit := b } := by
  rw [State.takeNow, th_modTh]
  exact ⟨_, rfl⟩

/-! ## Granting (R189) -/

theorem exec_msgGrant (d a b : Reg) (s : State) :
    exec (.msgGrant d a b) s = finish s ((trapIf (!s.ownsClass (bitsAt (s.th.rg b) 0 4)) cPermission (s.th.rg b)).bind fun _ =>
      (trapIf (!s.launchThread (bitsAt (s.th.rg a) 0 17)) cPermission (s.th.rg a)).bind fun _ =>
        if (s.thr (bitsAt (s.th.rg a) 0 17)).st = .ended then .ok (s.pureG d stCancelled)
        else if bitsAt (s.th.rg b) 8 6 = 0 then .ok (s.pureG d stDone)
        else if 48 < s.co.outstanding + bitsAt (s.th.rg b) 8 6 ∨
            (8 ≤ (s.thr (bitsAt (s.th.rg a) 0 17)).permits.length ∧
              permitCount (s.thr (bitsAt (s.th.rg a) 0 17)).permits s.ck (bitsAt (s.th.rg b) 0 4) = 0) then
          .ok (s.pureG d stBusy)
        else
          .ok (((((s.modCo fun c => { c with outstanding := c.outstanding + bitsAt (s.th.rg b) 8 6 }).modThr
            (bitsAt (s.th.rg a) 0 17) fun x =>
              { x with permits := permitAdd x.permits s.ck (bitsAt (s.th.rg b) 0 4) (bitsAt (s.th.rg b) 8 6) }).noteRequest s.ck
                (coreDie (coreOf (bitsAt (s.th.rg a) 0 17))) none).replyG d stDone).wakePermit (bitsAt (s.th.rg a) 0 17))) := rfl

/-- What a grant that is within its bounds leaves. -/
theorem grant_result (s : State) (d : Reg) (u k n : Nat) :
    let t := ((((s.modCo fun c => { c with outstanding := c.outstanding + n }).modThr u fun x =>
      { x with permits := permitAdd x.permits s.ck k n }).noteRequest s.ck (coreDie (coreOf u)) none).replyG d stDone).wakePermit u
    EndsWith s t d 0 ∧ t.co.outstanding = s.co.outstanding + n ∧
      (t.thr u).permits = permitAdd (s.thr u).permits s.ck k n := by
  generalize h1 : (s.modCo fun c => { c with outstanding := c.outstanding + n }).modThr u
    (fun x => { x with permits := permitAdd x.permits s.ck k n }) = s1
  generalize h2 : s1.noteRequest s.ck (coreDie (coreOf u)) none = s2
  have hcur1 : s1.cur = s.cur := by rw [← h1]; rfl
  have ha : MemAside s.ck s1 s2 := by rw [← h2]; exact memAside_noteRequest s1 s.ck _ _ _ _
  have hu1 : s1.thr u = { s.thr u with permits := permitAdd (s.thr u).permits s.ck k n } := by
    rw [← h1, thr_modThr_same]; rfl
  have hregs : RegsKept s.th s2.th := by
    refine RegsKept.trans ?_ ha.regsKept
    rw [State.th, State.th, hcur1]
    by_cases hc : s.cur = u
    · rw [hc, hu1]; exact ⟨rfl, rfl, rfl, rfl, rfl, rfl⟩
    · rw [← h1, thr_modThr_other _ _ hc]
      exact .refl _
  have hco2 : s2.co.outstanding = s.co.outstanding + n := by
    obtain ⟨l, q, m, hq⟩ := ha.core
    rw [State.co, ha.ck_eq, State.ck, hcur1]
    change (s2.cor s.ck).outstanding = _
    rw [hq, ← h1, cor_modThr]
    exact congrArg Core.outstanding (cor_modCor_same s s.ck _)
  have hcur2 : s2.cur = s.cur := ha.cur.trans hcur1
  have hmem : s2.mem = s.mem := by rw [← h2, mem_noteRequest, ← h1]; rfl
  have hu2 : (s2.thr u).permits = permitAdd (s.thr u).permits s.ck k n := by
    by_cases hc : u = s1.cur
    · obtain ⟨l, hl⟩ := ha.th
      rw [← hc, hu1] at hl
      rw [hl]
    · rw [ha.others u hc, hu1]
  have hwake : ∀ t : State, t.th.wait.map (·.kind) ≠ some .permit →
      (t.wakePermit u).th = t.th ∧ ((t.wakePermit u).thr u).permits = (t.thr u).permits := by
    intro t ht
    unfold State.wakePermit
    refine ⟨?_, ?_⟩
    · by_cases hc : t.cur = u
      · subst hc
        exact (thr_modThr_same t _ _).trans (if_neg fun h => ht h.2)
      · exact thr_modThr_other _ _ hc
    · rw [thr_modThr_same]
      split <;> rfl
  obtain ⟨hth, hper⟩ := hwake (s2.replyG d stDone) (by
    rw [State.replyG, th_modTh]
    exact fun h => nomatch h)
  have hend := endsWith_replyG (s := s) (t := s2) hregs (fun y => by rw [hmem]) d stDone
  refine ⟨endsWith_of ?_ hend.2, hco2, hper.trans ?_⟩
  · rw [hth]
    exact endsThread_iff.1 hend.1
  · by_cases hc : u = s2.cur
    · rw [hc] at hu2 ⊢
      rw [State.replyG, State.modTh, thr_modThr_same]
      exact (replyG_packet _ _ d _).2.1.trans hu2
    · rw [State.replyG, State.modTh, thr_modThr_other _ _ hc, hu2]

/-! ## All of it -/

theorem msgPut_result {s : State} {a : Reg} (h : s.th.packet.length < 8) :
    ∃ t, exec (.msgPut a) s = .next t ∧ t.th.packet = s.th.packet ++ [s.th.rg a] ∧ EndsWith s t 0 0 := by
  have hr : RegsKept s.th (s.modTh fun t => { t with packet := t.packet ++ [t.rg a] }).th := by
    rw [th_modTh]; exact ⟨rfl, rfl, rfl, rfl, rfl, rfl⟩
  exact ⟨_, exec_msgPut_ok h, reply_packet s _, endsWith_reply hr fun _ => rfl⟩

theorem msgDrop_result (s : State) : ∃ t, exec .msgDrop s = .next t ∧ t.th.packet = [] ∧ EndsWith s t 0 0 := by
  have hr : RegsKept s.th (s.modTh fun t => { t with packet := [] }).th := by
    rw [th_modTh]; exact ⟨rfl, rfl, rfl, rfl, rfl, rfl⟩
  exact ⟨_, rfl, reply_packet s _, endsWith_reply hr fun _ => rfl⟩

section
variable {e : BitVec 4} {d a b : Reg} {s : State}

theorem msgSend_lost (h : bitsAt (s.th.rg a) 4 13 / 512 < 12 ∧ s.co.launch ≠ none ∧
      (s.cor (bitsAt (s.th.rg a) 4 13)).launch = s.co.launch) (hp : s.th.packet.length < 8)
    (ho : (s.die (bitsAt (s.th.rg a) 4 13 / 512)).online = false) :
    ∃ t, exec (.msgSend e d a b) s = .next t ∧ EndsWith s t d 3 ∧ t.th.packet = [] ∧ t.th.permits = s.th.permits := by
  have hr : RegsKept s.th (s.modTh fun t => { t with packet := [] }).th := by
    rw [th_modTh]; exact ⟨rfl, rfl, rfl, rfl, rfl, rfl⟩
  refine ⟨_, ?_, endsWith_replyG hr (fun _ => rfl) d stPeerLost, ?_⟩
  · rw [msgSend_past h hp, ho]; rfl
  · rw [State.replyG, th_modTh, th_modTh]
    obtain ⟨h1, h2, -⟩ := replyG_packet { s.th with packet := [] } s.tick d stPeerLost
    exact ⟨h1, h2⟩

theorem msgSend_sends (h : bitsAt (s.th.rg a) 4 13 / 512 < 12 ∧ s.co.launch ≠ none ∧
      (s.cor (bitsAt (s.th.rg a) 4 13)).launch = s.co.launch) (hp : s.th.packet.length < 8)
    (ho : (s.die (bitsAt (s.th.rg a) 4 13 / 512)).online = true)
    (hn : permitCount s.th.permits (bitsAt (s.th.rg a) 4 13) (bitsAt (s.th.rg a) 0 4) ≠ 0) :
    ∃ t p, exec (.msgSend e d a b) s = .next t ∧ EndsWith s t d 0 ∧ t.transit = s.transit ++ [p] ∧
      p.core = some (bitsAt (s.th.rg a) 4 13) ∧ p.lid = s.co.launch ∧ p.msg.cls = bitsAt (s.th.rg a) 0 4 ∧
      p.msg.sender = s.cur ∧ p.msg.words = s.th.packet ++ [s.th.rg b] ∧ p.msg.permitted = true ∧
      p.msg.tag = (if bitAt (s.th.rg a) 25 then some (bitsAt (s.th.rg a) 17 8) else none) ∧
      t.th.packet = [] ∧ t.th.permits = permitUse s.th.permits (bitsAt (s.th.rg a) 4 13) (bitsAt (s.th.rg a) 0 4) := by
  have hr : RegsKept s.th (s.modTh fun t => { t with
      permits := permitUse t.permits (bitsAt (s.th.rg a) 4 13) (bitsAt (s.th.rg a) 0 4), packet := [] }).th := by
    rw [th_modTh]; exact ⟨rfl, rfl, rfl, rfl, rfl, rfl⟩
  have hend := endsWith_replyG hr (fun _ => rfl) d stDone
  have hth := replyG_packet { s.th with
    permits := permitUse s.th.permits (bitsAt (s.th.rg a) 4 13) (bitsAt (s.th.rg a) 0 4), packet := [] } s.tick d stDone
  have he : exec (.msgSend e d a b) s = .next (s.sent d (s.th.rg a) (s.th.rg b)) := by
    rw [msgSend_past h hp, ho]
    exact congrArg (finish s) (if_neg hn)
  refine ⟨_, s.sendPost (bitsAt (s.th.rg a) 4 13) (s.sendMsg (s.th.rg a) (s.th.rg b)), he, ⟨hend.1, hend.2⟩,
    rfl, rfl, rfl, rfl, rfl, rfl, rfl, rfl, ?_, ?_⟩
  · change ((s.modTh _).replyG d stDone).th.packet = []
    rw [State.replyG, th_modTh, th_modTh]
    exact hth.1
  · change ((s.modTh _).replyG d stDone).th.permits = _
    rw [State.replyG, th_modTh, th_modTh]
    exact hth.2.1

theorem msgSend_waits (h : bitsAt (s.th.rg a) 4 13 / 512 < 12 ∧ s.co.launch ≠ none ∧
      (s.cor (bitsAt (s.th.rg a) 4 13)).launch = s.co.launch) (hp : s.th.packet.length < 8)
    (ho : (s.die (bitsAt (s.th.rg a) 4 13 / 512)).online = true)
    (hn : permitCount s.th.permits (bitsAt (s.th.rg a) 4 13) (bitsAt (s.th.rg a) 0 4) = 0) :
    ∃ t, exec (.msgSend e d a b) s = .next t ∧ if e = 0 then EndsWith s t d 6 else WaitsFor s t .waiting .permit := by
  refine ⟨_, ?_, timed_cases s .permit d e stNoPermit⟩
  rw [msgSend_past h hp, ho]
  exact congrArg (finish s) (if_pos hn)

theorem traps_recvChecks {i : Instr} {mask : Nat} {k : Unit → Except Stop State} {tr : Trap}
    (he : exec i s = finish s ((s.recvChecks mask).bind k)) (h : s.recvChecks mask = .error (.trap tr)) :
    Traps i s tr.cause tr.info := traps_finish he (by rw [h]; rfl)

theorem msgRecv_blockChecks (hp : s.th.packet = []) (ho : s.ownsClass (bitsAt (s.th.rg a) 0 4) = true) :
    BlockChecks (.msgRecv e d a b) s 8 64 (s.th.rg b) := by
  have hok : s.recvChecks (2 ^ bitsAt (s.th.rg a) 0 4) = .ok () :=
    recvChecks_ok hp fun i hi => by rw [(mem_classesOf_single (bitsAt_lt _ 0 4)).1 hi]; exact ho
  have he := exec_msgRecv e d a b s
  rw [hok] at he
  refine ⟨fun hx => ?_, fun hx h8 => ?_, fun hx h8 hl => ?_⟩
  · exact traps_finish (tr := ⟨cScratchBounds, s.th.rg b, 0⟩) he (by
      change (scrAddr (s.th.rg b)).bind _ = _
      rw [scrAddr_error hx]; rfl)
  · exact traps_finish (tr := ⟨cMisaligned, s.th.rg b, 0⟩) he (by
      change (scrAddr (s.th.rg b)).bind _ = _
      rw [scrAddr_ok hx]
      change (trapIf ((s.th.rg b).toNat % 8 != 0) cMisaligned _).bind _ = _
      rw [trapIf, if_pos (by simpa using h8)]; rfl)
  · exact traps_finish (tr := ⟨cScratchBounds, s.th.rg b, 0⟩) he (by
      change (scrAddr (s.th.rg b)).bind _ = _
      rw [scrAddr_ok hx]
      change (trapIf ((s.th.rg b).toNat % 8 != 0) cMisaligned _).bind _ = _
      rw [trapIf, if_neg (by simp [h8])]
      change (trapIf (decide (s.scrLimit < (s.th.rg b).toNat + 64)) cScratchBounds _).bind _ = _
      rw [trapIf, if_pos (by simpa using hl)]; rfl)

theorem msgRecv_takes {m : Msg} {rest : List Msg} (hp : s.th.packet = [])
    (ho : s.ownsClass (bitsAt (s.th.rg a) 0 4) = true) (h8 : (s.th.rg b).toNat % 8 = 0) (hx : (s.th.rg b).toNat < 2 ^ 18)
    (hl : (s.th.rg b).toNat + 64 ≤ s.scrLimit) (hm : takeMsg s.co.mailbox (bitsAt (s.th.rg a) 0 4) = some (m, rest)) :
    ∃ t, exec (.msgRecv e d a b) s = .next t ∧ EndsWith s t d (recvStatus m) ∧ t.co.mailbox = rest ∧
      (∀ i, i < m.words.length → t.co.scratch.get 0 ((s.th.rg b).toNat / 8 + i) = m.words.getD i 0) ∧
      t.co.outstanding = s.co.outstanding - if m.permitted then 1 else 0 := by
  have hok : s.recvChecks (2 ^ bitsAt (s.th.rg a) 0 4) = .ok () :=
    recvChecks_ok hp fun i hi => by rw [(mem_classesOf_single (bitsAt_lt _ 0 4)).1 hi]; exact ho
  have he : exec (.msgRecv e d a b) s = .next ((s.takeNow m rest (s.th.rg b).toNat).replyG d (recvStatus m)) := by
    rw [exec_msgRecv, hok]
    change finish s ((scrAddr (s.th.rg b)).bind _) = _
    rw [scrAddr_ok hx]
    change finish s ((trapIf ((s.th.rg b).toNat % 8 != 0) cMisaligned _).bind _) = _
    rw [trapIf, if_neg (by simp [h8])]
    change finish s ((trapIf (decide (s.scrLimit < (s.th.rg b).toNat + 64)) cScratchBounds _).bind _) = _
    rw [trapIf, if_neg (by simpa using hl)]
    change finish s (match takeMsg s.co.mailbox (bitsAt (s.th.rg a) 0 4) with | some (m, rest) => _ | none => _) = _
    rw [hm]
    rfl
  have hr : RegsKept s.th (s.takeNow m rest (s.th.rg b).toNat).th := by
    obtain ⟨x, hth⟩ := th_takeNow s m rest (s.th.rg b).toNat
    rw [hth]; exact regsKept_readyBit _ _
  refine ⟨_, he, endsWith_replyG hr (fun _ => rfl) d _, ?_, fun i hi => ?_, ?_⟩ <;>
    rw [State.replyG, co_modTh, co_takeNow]
  · obtain ⟨x, y, hf⟩ := scrWords_form (afterTake s.co m rest) (s.th.rg b).toNat m.words
    rw [hf]; rfl
  · exact (scratch_scrWords _ _ _ h8).1 i hi
  · obtain ⟨x, y, hf⟩ := scrWords_form (afterTake s.co m rest) (s.th.rg b).toNat m.words
    rw [hf]; rfl

theorem holds_none {c : Core} {k : Nat} (hk : k < 16) (h : c.mailbox.all (fun m => m.cls != k) = true) : c.holds (2 ^ k) = [] := by
  rw [Core.holds, List.filter_eq_nil_iff]
  intro i hi
  rw [(mem_classesOf_single hk).1 hi, List.any_eq_true]
  rintro ⟨m, hm, hc⟩
  have := List.all_eq_true.1 h m hm
  rw [beq_iff_eq] at hc
  simp [hc] at this

theorem msgWait_parks (hp : s.th.packet = []) (ho : s.ownsClass (bitsAt (s.th.rg a) 0 4) = true)
    (hm : s.co.mailbox.all (fun m => m.cls != bitsAt (s.th.rg a) 0 4) = true) (hb : s.th.readyBit = false) (he : e ≠ 0) :
    ∃ t, exec (.msgWait e d a) s = .next t ∧ WaitsFor s t .parked (.message (2 ^ bitsAt (s.th.rg a) 0 4)) := by
  have hok : s.recvChecks (2 ^ bitsAt (s.th.rg a) 0 4) = .ok () :=
    recvChecks_ok hp fun i hi => by rw [(mem_classesOf_single (bitsAt_lt _ 0 4)).1 hi]; exact ho
  refine ⟨_, ?_, waitsFor_block rfl rfl s.tick .parked (.message (2 ^ bitsAt (s.th.rg a) 0 4)) d e.toNat⟩
  rw [exec_msgWait, waitOn_eq, hok]
  change finish s (match s.co.holds (2 ^ bitsAt (s.th.rg a) 0 4) with | c :: _ => _ | [] => _) = _
  rw [holds_none (bitsAt_lt _ 0 4) hm, hb, State.park, if_neg he]
  rfl

/-- What the two checks of a grant decide. -/
theorem msgGrant_past (hk : s.ownsClass (bitsAt (s.th.rg b) 0 4) = true) (hu : s.launchThread (bitsAt (s.th.rg a) 0 17) = true) :
    exec (.msgGrant d a b) s = finish s
      (if (s.thr (bitsAt (s.th.rg a) 0 17)).st = .ended then .ok (s.pureG d stCancelled)
      else if bitsAt (s.th.rg b) 8 6 = 0 then .ok (s.pureG d stDone)
      else if 48 < s.co.outstanding + bitsAt (s.th.rg b) 8 6 ∨
          (8 ≤ (s.thr (bitsAt (s.th.rg a) 0 17)).permits.length ∧
            permitCount (s.thr (bitsAt (s.th.rg a) 0 17)).permits s.ck (bitsAt (s.th.rg b) 0 4) = 0) then
        .ok (s.pureG d stBusy)
      else
        .ok (((((s.modCo fun c => { c with outstanding := c.outstanding + bitsAt (s.th.rg b) 8 6 }).modThr
          (bitsAt (s.th.rg a) 0 17) fun x =>
            { x with permits := permitAdd x.permits s.ck (bitsAt (s.th.rg b) 0 4) (bitsAt (s.th.rg b) 8 6) }).noteRequest s.ck
              (coreDie (coreOf (bitsAt (s.th.rg a) 0 17))) none).replyG d stDone).wakePermit (bitsAt (s.th.rg a) 0 17))) := by
  rw [exec_msgGrant, trapIf, if_neg (by rw [hk]; decide)]
  change finish s ((trapIf (!s.launchThread (bitsAt (s.th.rg a) 0 17)) cPermission _).bind _) = _
  rw [trapIf, if_neg (by rw [hu]; decide)]
  rfl

end

/-- Settles O46: each form by its checks, and what it finds behind them. -/
theorem messageForms : Obligations.MessageForms := by
  unfold Obligations.MessageForms
  intro s e d a b _
  refine ⟨msgPut_result, fun h => traps_finish (tr := ⟨cPacketOpen, 1, 0⟩) (exec_msgPut_full h) rfl, msgDrop_result s,
    ⟨traps_msgSend_core, traps_msgSend_full, msgSend_lost, fun h hp ho => ⟨msgSend_sends h hp ho, msgSend_waits h hp ho⟩⟩,
    fun i hi hp => ?_, fun hp => ⟨fun ho => ⟨?_, ?_⟩, ?_, msgRecv_blockChecks hp⟩,
    fun hp ho => ⟨fun m rest h8 hx hl _ hm => msgRecv_takes hp ho h8 hx hl hm, msgWait_parks hp ho⟩,
    fun c r hp ho hh => ?_, fun r hp ho hh => ?_,
    ⟨fun hk => ?_, fun hk hu => ?_, fun hk hu hs => ?_, fun hk hu hs => ⟨fun hn => ?_, fun hn hbusy => ?_⟩,
      fun hk hu hs hn hmax hper => ?_⟩⟩
  · obtain rfl | rfl | rfl := hi
    · exact traps_recvChecks (tr := ⟨cPacketOpen, 2, 0⟩) (exec_msgRecv e d a b s) (recvChecks_open _ hp)
    · exact traps_recvChecks (tr := ⟨cPacketOpen, 2, 0⟩) (exec_msgWait e d a s) (recvChecks_open _ hp)
    · exact traps_recvChecks (tr := ⟨cPacketOpen, 2, 0⟩) (exec_msgAlt e d a s) (recvChecks_open _ hp)
  · exact traps_recvChecks (tr := ⟨cPermission, _, 0⟩) (exec_msgRecv e d a b s)
      (recvChecks_other hp ((mem_classesOf_single (bitsAt_lt _ 0 4)).2 rfl) ho)
  · exact traps_recvChecks (tr := ⟨cPermission, _, 0⟩) (exec_msgWait e d a s)
      (recvChecks_other hp ((mem_classesOf_single (bitsAt_lt _ 0 4)).2 rfl) ho)
  · rintro ⟨i, hi, hbit, ho⟩
    exact traps_recvChecks (tr := ⟨cPermission, _, 0⟩) (exec_msgAlt e d a s)
      (recvChecks_other hp (mem_classesOf_word.2 ⟨hi, hbit⟩) ho)
  · refine holds_result ?_
    rw [exec_msgAlt, waitOn_holds d e (recvChecks_ok hp fun i hi => ?_) hh]
    · rfl
    · obtain ⟨h1, h2⟩ := mem_classesOf_word.1 hi
      exact ho i h1 h2
  · obtain ⟨t, ht, hend, -⟩ := holds_result (i := .msgWait e d a) (s := s) (d := d)
      (v := BitVec.ofNat 64 (bitsAt (s.th.rg a) 0 4 * 16)) (by
        rw [exec_msgWait, waitOn_holds d e (recvChecks_ok hp fun i hi => ?_) hh]
        · rfl
        · rw [(mem_classesOf_single (bitsAt_lt _ 0 4)).1 hi]; exact ho)
    exact ⟨t, ht, hend⟩
  · exact traps_finish (tr := ⟨cPermission, s.th.rg b, 0⟩) (exec_msgGrant d a b s) (by
      rw [trapIf, if_pos (by rw [hk]; rfl)]; rfl)
  · exact traps_finish (tr := ⟨cPermission, s.th.rg a, 0⟩) (exec_msgGrant d a b s) (by
      rw [trapIf, if_neg (by rw [hk]; decide)]
      change (trapIf (!s.launchThread (bitsAt (s.th.rg a) 0 17)) cPermission _).bind _ = _
      rw [trapIf, if_pos (by rw [hu]; rfl)]; rfl)
  · exact writesG_pureG (x := stCancelled) (by rw [msgGrant_past hk hu, if_pos hs]; rfl)
  · exact writesG_pureG (x := stDone) (by rw [msgGrant_past hk hu, if_neg hs, if_pos hn]; rfl)
  · exact writesG_pureG (x := stBusy) (by rw [msgGrant_past hk hu, if_neg hs, if_neg hn, if_pos hbusy]; rfl)
  · refine ⟨_, ?_, grant_result s d _ _ _⟩
    rw [msgGrant_past hk hu, if_neg hs, if_neg hn, if_neg ?_]
    · rfl
    · rintro (h | ⟨h1, h2⟩)
      · omega
      · obtain h3 | h3 := hper
        · omega
        · exact h3 h2

end Sys2Proof.Machine
end

section
/-! PROOFS. The copy forms: landing slots, copies offered to their unit, pins (R282 to R285). -/

namespace Sys2Proof.Machine

/-! ## Checks in a row -/

theorem trapIf_pass {α : Type} {b : Bool} {c : Nat} {x : Word} {k : Unit → Except Stop α} (h : b = false) :
    (trapIf b c x).bind k = k () := by
  rw [h]; rfl

theorem trapIf_stop {α : Type} {b : Bool} {c : Nat} {x : Word} {k : Unit → Except Stop α} (h : b = true) :
    (trapIf b c x).bind k = .error (.trap ⟨c, x, 0⟩) := by
  rw [h]; rfl

/-! ## The pages of a range (R277, R284, R285) -/

/-- The check of a page's kind, as `State.rangePages` makes it. -/
theorem rangePages_cons (s : State) (acc : Acc) (ok : Word → Bool) (va n : Nat) (r : List (Nat × Nat)) :
    s.rangePages acc ok ((va, n) :: r) = (s.pagePart acc va n).bind fun p =>
      (trapIf (!ok p.pte) cKindMismatch (BitVec.ofNat 64 va)).bind fun _ => (s.rangePages acc ok r).bind fun ps => .ok (p :: ps) := rfl

section
variable {s : State} {store : Bool} {ok : Word → Bool} {fits : Word → Prop} (hf : ∀ e, fits e ↔ ok e = true)
include hf

theorem rangePages_error {y : Nat × Nat} {e : Stop} (l r : List (Nat × Nat))
    (hl : ∀ z ∈ l, Allowed s store z.1 ∧ InPage s fits z.1)
    (h : s.rangePages (accOf store) ok (y :: r) = .error e) : s.rangePages (accOf store) ok (l ++ y :: r) = .error e := by
  induction l with
  | nil => exact h
  | cons z l ih =>
    obtain ⟨ha, t, ht, hk⟩ := hl z List.mem_cons_self
    rw [List.cons_append, rangePages_cons, pagePart_ok ha]
    change (trapIf _ cKindMismatch _).bind _ = _
    rw [trapIf_pass (by rw [partAt_pte ht, (hf _).1 hk]; rfl), ih fun w hw => hl w (List.mem_cons_of_mem _ hw)]
    rfl

/-- Every form that checks the pages of a range one after the other. -/
theorem rangeChecks_of_rangeParts {i : Instr} {l : List (Nat × Nat)} {k : List Part → Except Stop State}
    (h : exec i s = finish s ((s.rangeParts (accOf store) ok l).bind k)) : RangeChecks i s store fits (l.map (·.1)) := by
  have stop : ∀ {e : Stop}, s.rangeParts (accOf store) ok l = .error e → exec i s = finish s (.error e) := fun e => by
    rw [h, e]; rfl
  intro a va r hl
  obtain ⟨la, x, rfl, hla, hx⟩ := List.map_eq_append_iff.1 hl
  obtain ⟨y, lb, rfl, hy, hlb⟩ := List.map_eq_cons_iff.1 hx
  subst hla hy hlb
  have past : (∀ u ∈ (la ++ y :: lb).map (·.1), canonicalAt u) → s.rangeParts (accOf store) ok (la ++ y :: lb) =
      s.rangePages (accOf store) ok (la ++ y :: lb) := fun hc => by
    rw [State.rangeParts, canonChecks_ok _ fun e he => hc _ (List.mem_map_of_mem he)]; rfl
  refine ⟨fun hc hn => ?_, fun hc ha => ⟨fun ht => ?_, fun e he hd => ?_, fun hy hno => ?_⟩⟩
  · refine traps_finish (tr := ⟨cTranslation, BitVec.ofNat 64 y.1, 0⟩) (stop ?_) rfl
    rw [State.rangeParts, canonChecks_error la lb (fun e he => hc _ (List.mem_map_of_mem he)) hn]
    rfl
  · refine walksFor_finish (stop ((past hc).trans (rangePages_error hf la lb (fun z hz => ha _ (List.mem_map_of_mem hz)) ?_)))
    rw [rangePages_cons, pagePart_walk _ ht]; rfl
  · refine traps_finish (tr := ⟨cPermission, BitVec.ofNat 64 y.1, 0⟩)
      (stop ((past hc).trans (rangePages_error hf la lb (fun z hz => ha _ (List.mem_map_of_mem hz)) ?_))) rfl
    rw [rangePages_cons, pagePart_denied he hd]; rfl
  · refine traps_finish (tr := ⟨cKindMismatch, BitVec.ofNat 64 y.1, 0⟩)
      (stop ((past hc).trans (rangePages_error hf la lb (fun z hz => ha _ (List.mem_map_of_mem hz)) ?_))) rfl
    rw [rangePages_cons, pagePart_ok hy]
    obtain ⟨t, ht, -⟩ := hy
    change (trapIf _ cKindMismatch _).bind _ = _
    refine trapIf_stop ?_
    rw [partAt_pte (x := (y.1, y.2)) ht, Bool.not_eq_true', ← Bool.not_eq_true]
    exact fun hk => hno ⟨t, ht, (hf _).2 hk⟩

end

theorem kindIs_zero_iff (e : Word) : kindIs 0 e ↔ (pteKind e == kPlain) = true := by
  rw [beq_iff_eq]; rfl

/-- The pages that may be pinned (R285). -/
theorem pinned_iff (e : Word) : ((kindIs 0 e ∨ kindIs 1 e) ∧ bitAt e 4 = false) ↔
    ((pteKind e == kPlain || pteKind e == kTiled) && !pteBd e) = true := by
  rw [Bool.and_eq_true, Bool.or_eq_true, beq_iff_eq, beq_iff_eq, Bool.not_eq_true']
  rfl

/-! ## The numbers given (R283, R285) -/

theorem find_range_lowest {n i : Nat} {p : Nat → Bool} (hi : i < n) (h : p i = true) (hlow : ∀ j, j < i → p j = false) :
    (List.range n).find? p = some i := by
  rw [List.find?_range_eq_some]
  exact ⟨h, List.mem_range.2 hi, fun j hj => by rw [hlow j hj]; rfl⟩

theorem find_range_none {n : Nat} {p : Nat → Bool} (h : ∀ j, j < n → p j = false) : (List.range n).find? p = none := by
  rw [List.find?_eq_none]
  exact fun j hj => by rw [h j (List.mem_range.1 hj)]; decide

/-! ## Slots (R283) -/

theorem slot_setSlot (c : Core) (i j : Nat) (x : Slot) : (c.setSlot i x).slot j = if j = i then x else c.slot j :=
  AMap.get_set Slot.none c.slots i j x

section
variable {s : State} {e : BitVec 4} {d a b : Reg}

/-- The slot that `cpy.slot` gives for a range. -/
def State.slotGiven (s : State) (x y : Word) : Slot where
  base := bitsAt x 0 18
  len := bitsAt x 32 19
  ctx := ctxOf s.cur
  cls := bitsAt y 0 4
  st := .granted
  running := 0

theorem exec_cpySlot (d a b : Reg) (s : State) : exec (.cpySlot d a b) s = finish s
    ((trapIf (bitsAt (s.th.rg a) 0 18 % 8 != 0 || bitsAt (s.th.rg a) 32 19 % 8 != 0 || decide (bitsAt (s.th.rg a) 32 19 < 8))
      cMisaligned (s.th.rg a)).bind fun _ =>
      (trapIf (decide (s.scrLimit < bitsAt (s.th.rg a) 0 18 + bitsAt (s.th.rg a) 32 19)) cScratchBounds (s.th.rg a)).bind fun _ =>
        match (List.range 32).find? fun i => (s.co.slot i).st == .free with
        | none => .ok (s.pureG d stBusy)
        | some i =>
          .ok ((s.modCo fun c => c.setSlot i (s.slotGiven (s.th.rg a) (s.th.rg b))).replyG d (grantWord i))) := rfl

/-- The length and the base of a slot are multiples of 8. -/
theorem slotEven_iff (x : Word) :
    (bitsAt x 0 18 % 8 != 0 || bitsAt x 32 19 % 8 != 0 || decide (bitsAt x 32 19 < 8)) = false ↔
      bitsAt x 0 18 % 8 = 0 ∧ bitsAt x 32 19 % 8 = 0 ∧ 8 ≤ bitsAt x 32 19 := by
  simp only [Bool.or_eq_false_iff, bne_eq_false_iff_eq, decide_eq_false_iff_not, Nat.not_lt, and_assoc]

theorem traps_cpySlot_even (h : ¬(bitsAt (s.th.rg a) 0 18 % 8 = 0 ∧ bitsAt (s.th.rg a) 32 19 % 8 = 0 ∧
    8 ≤ bitsAt (s.th.rg a) 32 19)) : Traps (.cpySlot d a b) s 0x13 (s.th.rg a) :=
  traps_finish (tr := ⟨cMisaligned, s.th.rg a, 0⟩) (exec_cpySlot d a b s)
    (trapIf_stop (by rw [← slotEven_iff, Bool.not_eq_false] at h; exact h))

/-- `cpy.slot` past its checks. -/
theorem cpySlot_past (h : bitsAt (s.th.rg a) 0 18 % 8 = 0 ∧ bitsAt (s.th.rg a) 32 19 % 8 = 0 ∧ 8 ≤ bitsAt (s.th.rg a) 32 19)
    (hl : bitsAt (s.th.rg a) 0 18 + bitsAt (s.th.rg a) 32 19 ≤ s.scrLimit) : exec (.cpySlot d a b) s = finish s
      (match (List.range 32).find? fun i => (s.co.slot i).st == .free with
      | none => .ok (s.pureG d stBusy)
      | some i =>
        .ok ((s.modCo fun c => c.setSlot i (s.slotGiven (s.th.rg a) (s.th.rg b))).replyG d (grantWord i))) := by
  rw [exec_cpySlot, trapIf_pass ((slotEven_iff _).2 h), trapIf_pass (decide_eq_false (by omega))]

theorem cpySlot_full (h : bitsAt (s.th.rg a) 0 18 % 8 = 0 ∧ bitsAt (s.th.rg a) 32 19 % 8 = 0 ∧ 8 ≤ bitsAt (s.th.rg a) 32 19)
    (hl : bitsAt (s.th.rg a) 0 18 + bitsAt (s.th.rg a) 32 19 ≤ s.scrLimit)
    (hr : ∀ i, i < 32 → (s.co.slot i).st ≠ .free) : WritesG (.cpySlot d a b) s d 2 :=
  writesG_pureG (x := stBusy) (by rw [cpySlot_past h hl, find_range_none fun i hi => beq_false_of_ne (hr i hi)]; rfl)

theorem cpySlot_grants (h : bitsAt (s.th.rg a) 0 18 % 8 = 0 ∧ bitsAt (s.th.rg a) 32 19 % 8 = 0 ∧ 8 ≤ bitsAt (s.th.rg a) 32 19)
    (hl : bitsAt (s.th.rg a) 0 18 + bitsAt (s.th.rg a) 32 19 ≤ s.scrLimit) {i : Nat} (hi : i < 32)
    (hfree : (s.co.slot i).st = .free) (hlow : ∀ j, j < i → (s.co.slot j).st ≠ .free) :
    ∃ t, exec (.cpySlot d a b) s = .next t ∧ EndsWith s t d (BitVec.ofNat 64 (i * 256)) ∧
      t.co.slot i = { base := bitsAt (s.th.rg a) 0 18, len := bitsAt (s.th.rg a) 32 19, ctx := ctxOf s.cur,
                      cls := bitsAt (s.th.rg b) 0 4, st := .granted, running := 0 } ∧
      ∀ j, j ≠ i → t.co.slot j = s.co.slot j := by
  have hfind := find_range_lowest (p := fun i => (s.co.slot i).st == .free) hi (beq_iff_eq.2 hfree)
    fun j hj => beq_false_of_ne (hlow j hj)
  have he : exec (.cpySlot d a b) s =
      .next ((s.modCo fun c => c.setSlot i (s.slotGiven (s.th.rg a) (s.th.rg b))).replyG d (grantWord i)) := by
    rw [cpySlot_past h hl, hfind]; rfl
  refine ⟨_, he, endsWith_replyG (.refl _) (fun _ => rfl) d _, ?_, fun j hj => ?_⟩ <;>
    rw [State.replyG, co_modTh, co_modCo, slot_setSlot]
  · exact if_pos rfl
  · exact if_neg hj

theorem exec_cpyFree (d a : Reg) (s : State) : exec (.cpyFree d a) s = finish s
    ((trapIf ((s.co.slot (bitsAt (s.th.rg a) 0 5)).st != .free && (s.co.slot (bitsAt (s.th.rg a) 0 5)).ctx != ctxOf s.cur)
      cPermission (s.th.rg a)).bind fun _ =>
        match (s.co.slot (bitsAt (s.th.rg a) 0 5)).st with
        | .free => .ok (s.pureG d stCancelled)
        | .filling => .ok (s.pureG d stBusy)
        | _ => .ok ((s.modCo fun c => c.setSlot (bitsAt (s.th.rg a) 0 5)
            { s.co.slot (bitsAt (s.th.rg a) 0 5) with st := .free }).replyG d stDone)) := rfl

theorem cpyFree_frees (hx : (s.co.slot (bitsAt (s.th.rg a) 0 5)).ctx = ctxOf s.cur)
    (hst : (s.co.slot (bitsAt (s.th.rg a) 0 5)).st = .granted ∨ (s.co.slot (bitsAt (s.th.rg a) 0 5)).st = .done) :
    ∃ t, exec (.cpyFree d a) s = .next t ∧ EndsWith s t d 0 ∧ (t.co.slot (bitsAt (s.th.rg a) 0 5)).st = .free := by
  have he : exec (.cpyFree d a) s = .next ((s.modCo fun c => c.setSlot (bitsAt (s.th.rg a) 0 5)
      { s.co.slot (bitsAt (s.th.rg a) 0 5) with st := .free }).replyG d stDone) := by
    rw [exec_cpyFree, trapIf_pass (by rw [hx, bne_self_eq_false, Bool.and_false])]
    obtain h | h := hst <;> rw [h] <;> rfl
  refine ⟨_, he, endsWith_replyG (.refl _) (fun _ => rfl) d _, ?_⟩
  rw [State.replyG, co_modTh, co_modCo, slot_setSlot, if_pos rfl]

/-! ## Copies offered (R284) -/

/-- The state after a copy has been taken by its unit. -/
def State.copyTaken (s : State) (d : Reg) (c : Copy) : State :=
  let s1 := s.modDie (coreDie s.ck) fun x => x.setCopyQ (copyUnit s.ck) (x.copyQ (copyUnit s.ck) ++ [c])
  (if c.isIn then s1.modCo fun k => k.setSlot c.slot
    { k.slot c.slot with st := .filling, running := (k.slot c.slot).running + 1 } else s1).replyG d stDone

theorem offerCopy_takes {c : Copy} (h : ((s.die (coreDie s.ck)).copyQ (copyUnit s.ck)).length < 16) :
    s.offerCopy e d c = s.copyTaken d c := if_pos h

theorem offerCopy_waits {c : Copy} (h : 16 ≤ ((s.die (coreDie s.ck)).copyQ (copyUnit s.ck)).length) :
    s.offerCopy e d c = s.timed .copyQueue d e stBusy := if_neg (by omega)

theorem copyTaken_ends (s : State) (d : Reg) (c : Copy) : EndsWith s (s.copyTaken d c) d 0 := by
  unfold State.copyTaken
  dsimp only
  split <;> exact endsWith_replyG (.refl _) (fun _ => rfl) d _

theorem copyTaken_core (s : State) (d : Reg) (c : Copy) :
    (s.copyTaken d c).co.wtq = s.co.wtq ∧ (s.copyTaken d c).co.l1 = s.co.l1 := by
  unfold State.copyTaken
  dsimp only
  split <;> rw [State.replyG, co_modTh]
  · rw [co_modCo]; exact ⟨rfl, rfl⟩
  · exact ⟨rfl, rfl⟩

theorem copyTaken_queue (s : State) (d : Reg) (c : Copy) :
    ((s.copyTaken d c).die (coreDie s.ck)).copyQ (copyUnit s.ck) = (s.die (coreDie s.ck)).copyQ (copyUnit s.ck) ++ [c] := by
  have hq : ((s.modDie (coreDie s.ck) fun x => x.setCopyQ (copyUnit s.ck) (x.copyQ (copyUnit s.ck) ++ [c])).die
      (coreDie s.ck)).copyQ (copyUnit s.ck) = (s.die (coreDie s.ck)).copyQ (copyUnit s.ck) ++ [c] := by
    rw [die_modDie_same]; exact AMap.get_set_same [] _ _ _
  unfold State.copyTaken
  dsimp only
  split <;> exact hq

theorem copyTaken_slot (s : State) (d : Reg) {c : Copy} (h : c.isIn = true) :
    ((s.copyTaken d c).co.slot c.slot).st = .filling := by
  unfold State.copyTaken
  dsimp only
  rw [if_pos h, State.replyG, co_modTh, co_modCo, slot_setSlot, if_pos rfl]

/-- Where the unit has no room the form answers BUSY or waits. -/
theorem offerCopy_busy {i : Instr} {c : Copy} (h : exec i s = .next (s.offerCopy e d c))
    (hq : 16 ≤ ((s.die (coreDie s.ck)).copyQ (copyUnit s.ck)).length) :
    ∃ t, exec i s = .next t ∧ if e = 0 then EndsWith s t d 2 else WaitsFor s t .waiting .copyQueue :=
  ⟨_, h, by rw [offerCopy_waits hq]; exact timed_cases s .copyQueue d e stBusy⟩

theorem copyAlign_iff (len : Nat) (x : Word) :
    (len % 8 != 0 || decide (len < 8) || decide (262144 < len) || x.toNat % 8 != 0) = false ↔
      x.toNat % 8 = 0 ∧ len % 8 = 0 ∧ 8 ≤ len ∧ len ≤ 262144 := by
  simp only [Bool.or_eq_false_iff, bne_eq_false_iff_eq, decide_eq_false_iff_not, Nat.not_lt]
  omega

/-! ### `cpy.in` -/

/-- The copy that `cpy.in` offers. -/
def State.copyIn (s : State) (x y : Word) (ps : List Part) : Copy where
  isIn := true
  thread := s.cur
  slot := bitsAt y 0 5
  va := x.toNat
  len := bitsAt y 32 19
  cls := (s.co.slot (bitsAt y 0 5)).cls
  scr := (s.co.slot (bitsAt y 0 5)).base + bitsAt y 8 18
  pieces := ps.map Part.piece
  written := 0

theorem exec_cpyIn (e : BitVec 4) (d a b : Reg) (s : State) : exec (.cpyIn e d a b) s = finish s
    ((copyAlign (bitsAt (s.th.rg b) 32 19) (s.th.rg a)).bind fun _ =>
      (trapIf ((s.co.slot (bitsAt (s.th.rg b) 0 5)).st == .free || (s.co.slot (bitsAt (s.th.rg b) 0 5)).ctx != ctxOf s.cur)
        cPermission (s.th.rg b)).bind fun _ =>
      (trapIf (bitsAt (s.th.rg b) 8 18 % 8 != 0 ||
        decide ((s.co.slot (bitsAt (s.th.rg b) 0 5)).len < bitsAt (s.th.rg b) 8 18 + bitsAt (s.th.rg b) 32 19))
        cScratchBounds (s.th.rg b)).bind fun _ =>
      (s.rangeParts .load (fun p => pteKind p == kPlain) (rangePieces 65 (s.th.rg a).toNat (bitsAt (s.th.rg b) 32 19))).bind
        fun ps => .ok (s.offerCopy e d (s.copyIn (s.th.rg a) (s.th.rg b) ps))) := rfl

theorem slotMine_iff (x : Slot) (n : Nat) : (x.st == .free || x.ctx != n) = false ↔ x.st ≠ .free ∧ x.ctx = n := by
  rw [Bool.or_eq_false_iff, bne_eq_false_iff_eq, beq_eq_false_iff_ne]

theorem fits_iff (off len lim : Nat) : (off % 8 != 0 || decide (lim < off + len)) = false ↔ off % 8 = 0 ∧ off + len ≤ lim := by
  simp only [Bool.or_eq_false_iff, bne_eq_false_iff_eq, decide_eq_false_iff_not, Nat.not_lt]

section
variable (hen : (s.th.rg a).toNat % 8 = 0 ∧ bitsAt (s.th.rg b) 32 19 % 8 = 0 ∧ 8 ≤ bitsAt (s.th.rg b) 32 19 ∧
  bitsAt (s.th.rg b) 32 19 ≤ 262144)
include hen

theorem copyAlign_ok : copyAlign (bitsAt (s.th.rg b) 32 19) (s.th.rg a) = .ok () := by
  rw [copyAlign, trapIf, if_neg (by rw [(copyAlign_iff _ _).2 hen]; decide)]

theorem traps_cpyIn_other (h : ¬((s.co.slot (bitsAt (s.th.rg b) 0 5)).st ≠ .free ∧
    (s.co.slot (bitsAt (s.th.rg b) 0 5)).ctx = ctxOf s.cur)) : Traps (.cpyIn e d a b) s 0x11 (s.th.rg b) := by
  refine traps_finish (tr := ⟨cPermission, s.th.rg b, 0⟩) (exec_cpyIn e d a b s) ?_
  rw [copyAlign_ok hen]
  exact trapIf_stop (by rw [← slotMine_iff, Bool.not_eq_false] at h; exact h)

variable (hm : (s.co.slot (bitsAt (s.th.rg b) 0 5)).st ≠ .free ∧ (s.co.slot (bitsAt (s.th.rg b) 0 5)).ctx = ctxOf s.cur)
include hm

theorem traps_cpyIn_bounds (h : ¬(bitsAt (s.th.rg b) 8 18 % 8 = 0 ∧
    bitsAt (s.th.rg b) 8 18 + bitsAt (s.th.rg b) 32 19 ≤ (s.co.slot (bitsAt (s.th.rg b) 0 5)).len)) :
    Traps (.cpyIn e d a b) s 0x14 (s.th.rg b) := by
  refine traps_finish (tr := ⟨cScratchBounds, s.th.rg b, 0⟩) (exec_cpyIn e d a b s) ?_
  rw [copyAlign_ok hen]
  change (trapIf _ cPermission _).bind _ = _
  rw [trapIf_pass ((slotMine_iff _ _).2 hm)]
  exact trapIf_stop (by rw [← fits_iff, Bool.not_eq_false] at h; exact h)

/-- `cpy.in` past the checks of its operands. -/
theorem cpyIn_past (h : bitsAt (s.th.rg b) 8 18 % 8 = 0 ∧
    bitsAt (s.th.rg b) 8 18 + bitsAt (s.th.rg b) 32 19 ≤ (s.co.slot (bitsAt (s.th.rg b) 0 5)).len) :
    exec (.cpyIn e d a b) s = finish s
      ((s.rangeParts (accOf false) (fun p => pteKind p == kPlain)
        (rangePieces 65 (s.th.rg a).toNat (bitsAt (s.th.rg b) 32 19))).bind
          fun ps => .ok (s.offerCopy e d (s.copyIn (s.th.rg a) (s.th.rg b) ps))) := by
  rw [exec_cpyIn, copyAlign_ok hen]
  change finish s ((trapIf _ cPermission _).bind _) = _
  rw [trapIf_pass ((slotMine_iff _ _).2 hm), trapIf_pass ((fits_iff _ _ _).2 h)]
  rfl

end

/-! ### `cpy.out` -/

/-- The copy that `cpy.out` offers. -/
def State.copyOut (s : State) (x y : Word) (ps : List Part) : Copy where
  isIn := false
  thread := s.cur
  slot := 0
  va := x.toNat
  len := bitsAt y 32 19
  cls := bitsAt y 56 4
  scr := bitsAt y 0 18
  pieces := ps.map Part.piece
  written := 0

theorem exec_cpyOut (e : BitVec 4) (d a b : Reg) (s : State) : exec (.cpyOut e d a b) s = finish s
    ((copyAlign (bitsAt (s.th.rg b) 32 19) (s.th.rg a)).bind fun _ =>
      (trapIf (bitsAt (s.th.rg b) 0 18 % 8 != 0 || decide (s.scrLimit < bitsAt (s.th.rg b) 0 18 + bitsAt (s.th.rg b) 32 19))
        cScratchBounds (s.th.rg b)).bind fun _ =>
      (s.rangeParts .store (fun p => pteKind p == kPlain) (rangePieces 65 (s.th.rg a).toNat (bitsAt (s.th.rg b) 32 19))).bind
        fun ps => .ok (s.offerCopy e d (s.copyOut (s.th.rg a) (s.th.rg b) ps))) := rfl

section
variable (hen : (s.th.rg a).toNat % 8 = 0 ∧ bitsAt (s.th.rg b) 32 19 % 8 = 0 ∧ 8 ≤ bitsAt (s.th.rg b) 32 19 ∧
  bitsAt (s.th.rg b) 32 19 ≤ 262144)
include hen

theorem traps_cpyOut_bounds (h : ¬(bitsAt (s.th.rg b) 0 18 % 8 = 0 ∧
    bitsAt (s.th.rg b) 0 18 + bitsAt (s.th.rg b) 32 19 ≤ s.scrLimit)) : Traps (.cpyOut e d a b) s 0x14 (s.th.rg b) := by
  refine traps_finish (tr := ⟨cScratchBounds, s.th.rg b, 0⟩) (exec_cpyOut e d a b s) ?_
  rw [copyAlign_ok hen]
  exact trapIf_stop (by rw [← fits_iff, Bool.not_eq_false] at h; exact h)

/-- `cpy.out` past the checks of its operands. -/
theorem cpyOut_past (h : bitsAt (s.th.rg b) 0 18 % 8 = 0 ∧ bitsAt (s.th.rg b) 0 18 + bitsAt (s.th.rg b) 32 19 ≤ s.scrLimit) :
    exec (.cpyOut e d a b) s = finish s
      ((s.rangeParts (accOf true) (fun p => pteKind p == kPlain)
        (rangePieces 65 (s.th.rg a).toNat (bitsAt (s.th.rg b) 32 19))).bind
          fun ps => .ok (s.offerCopy e d (s.copyOut (s.th.rg a) (s.th.rg b) ps))) := by
  rw [exec_cpyOut, copyAlign_ok hen]
  change finish s ((trapIf _ cScratchBounds _).bind _) = _
  rw [trapIf_pass ((fits_iff _ _ _).2 h)]
  rfl

end

/-! ## Pins (R285) -/

/-- A pin granted: its lines are fetched and it is entered. -/
def State.pinGiven (s : State) (d : Reg) (x y : Word) (i : Nat) (new : List (Nat × Nat)) : State :=
  ((new.foldl State.pinLine s).modCo fun c =>
    { c with pins := c.pins ++ [{ id := i, va := x.toNat, len := bitsAt y 0 23, cls := bitsAt y 56 4, lines := new }] }).replyG d
      (grantWord i)

theorem exec_cpyPin (d a b : Reg) (s : State) : exec (.cpyPin d a b) s = finish s
    ((trapIf ((s.th.rg a).toNat % 128 != 0 || bitsAt (s.th.rg b) 0 23 % 128 != 0 || decide (bitsAt (s.th.rg b) 0 23 < 128) ||
      decide (2 ^ 22 < bitsAt (s.th.rg b) 0 23)) cMisaligned (s.th.rg a)).bind fun _ =>
      (s.rangeParts (accOf false) (fun p => (pteKind p == kPlain || pteKind p == kTiled) && !pteBd p)
        (rangePieces 1025 (s.th.rg a).toNat (bitsAt (s.th.rg b) 0 23))).bind fun ps =>
        match (List.range 16).find? fun i => !(s.co.pins.any (·.id == i)) with
        | none => .ok (s.pureG d stBusy)
        | some i =>
          if wouldPass s.pinnedLines (ps.flatMap Part.pinLines) then .ok (s.pureG d stBusy)
          else .ok (s.pinGiven d (s.th.rg a) (s.th.rg b) i (ps.flatMap Part.pinLines))) := rfl

theorem pinEven_iff (x : Word) (len : Nat) :
    (x.toNat % 128 != 0 || len % 128 != 0 || decide (len < 128) || decide (2 ^ 22 < len)) = false ↔
      x.toNat % 128 = 0 ∧ len % 128 = 0 ∧ 128 ≤ len ∧ len ≤ 2 ^ 22 := by
  simp only [Bool.or_eq_false_iff, bne_eq_false_iff_eq, decide_eq_false_iff_not, Nat.not_lt, and_assoc]

theorem traps_cpyPin_even (h : ¬((s.th.rg a).toNat % 128 = 0 ∧ bitsAt (s.th.rg b) 0 23 % 128 = 0 ∧
    128 ≤ bitsAt (s.th.rg b) 0 23 ∧ bitsAt (s.th.rg b) 0 23 ≤ 2 ^ 22)) : Traps (.cpyPin d a b) s 0x13 (s.th.rg a) :=
  traps_finish (tr := ⟨cMisaligned, s.th.rg a, 0⟩) (exec_cpyPin d a b s)
    (trapIf_stop (by rw [← pinEven_iff, Bool.not_eq_false] at h; exact h))

theorem memAside_pinLine (s : State) (l : Nat × Nat) : MemAside s.ck s (s.pinLine l) :=
  (memAside_filterEnter s s.ck _ _).trans (memAside_noteRequest _ _ _ _ _ _)

/-- Fetching the lines of a pin is on the memory side. -/
theorem memAside_pinLines (l : List (Nat × Nat)) (s : State) : MemAside s.ck s (l.foldl State.pinLine s) := by
  induction l generalizing s with
  | nil => exact .refl _ s
  | cons x r ih =>
    have h := memAside_pinLine s x
    have hr := ih (s.pinLine x)
    rw [h.ck_eq] at hr
    exact h.trans hr

theorem regsKept_memAside {ck : Nat} {s t : State} (h : MemAside ck s t) : RegsKept s.th t.th := by
  obtain ⟨l, hl⟩ := h.th_eq
  rw [hl]; exact ⟨rfl, rfl, rfl, rfl, rfl, rfl⟩

theorem pinGiven_result (s : State) (d : Reg) (x y : Word) (i : Nat) (new : List (Nat × Nat)) :
    EndsWith s (s.pinGiven d x y i new) d (BitVec.ofNat 64 (i * 256)) ∧ (s.pinGiven d x y i new).co.pins =
      s.co.pins ++ [{ id := i, va := x.toNat, len := bitsAt y 0 23, cls := bitsAt y 56 4, lines := new }] := by
  have h := memAside_pinLines new s
  refine ⟨endsWith_replyG (regsKept_memAside h) (fun z => ?_) d _, ?_⟩
  · exact congrArg (memGet · z) (mem_foldl new State.pinLine mem_pinLine s)
  · obtain ⟨l, q, n, hc⟩ := h.core
    rw [State.pinGiven, State.replyG, co_modTh, co_modCo, State.co, State.co, h.ck_eq, hc]

theorem cpyPin_grants (hen : (s.th.rg a).toNat % 128 = 0 ∧ bitsAt (s.th.rg b) 0 23 % 128 = 0 ∧
      128 ≤ bitsAt (s.th.rg b) 0 23 ∧ bitsAt (s.th.rg b) 0 23 ≤ 2 ^ 22) {ps : List Part} {i : Nat}
    (hps : s.rangeParts .load (fun p => (pteKind p == kPlain || pteKind p == kTiled) && !pteBd p)
      (rangePieces 1025 (s.th.rg a).toNat (bitsAt (s.th.rg b) 0 23)) = .ok ps)
    (hw : wouldPass s.pinnedLines (ps.flatMap Part.pinLines) = false) (hi : i < 16) (hfree : ∀ p ∈ s.co.pins, p.id ≠ i)
    (hlow : ∀ j, j < i → ∃ p ∈ s.co.pins, p.id = j) :
    exec (.cpyPin d a b) s = .next (s.pinGiven d (s.th.rg a) (s.th.rg b) i (ps.flatMap Part.pinLines)) := by
  have hfind : (List.range 16).find? (fun i => !(s.co.pins.any (·.id == i))) = some i := by
    refine find_range_lowest hi ?_ fun j hj => ?_
    · rw [Bool.not_eq_true', List.any_eq_false]
      exact fun p hp => by simpa using hfree p hp
    · obtain ⟨p, hp, hid⟩ := hlow j hj
      rw [Bool.not_eq_false', List.any_eq_true]
      exact ⟨p, hp, by simpa using hid⟩
  rw [exec_cpyPin, trapIf_pass ((pinEven_iff _ _).2 hen)]
  change finish s ((s.rangeParts .load _ _).bind _) = _
  rw [hps]
  change finish s (match (List.range 16).find? _ with | none => _ | some i => _) = _
  rw [hfind]
  change finish s (if wouldPass s.pinnedLines (ps.flatMap Part.pinLines) then _ else _) = _
  rw [if_neg (by rw [hw]; decide)]
  rfl

theorem cpyUnpin_drops (h : ∃ p ∈ s.co.pins, p.id = bitsAt (s.th.rg a) 0 4) :
    ∃ t, exec (.cpyUnpin d a) s = .next t ∧ EndsWith s t d 0 ∧
      t.co.pins = s.co.pins.filter fun p => p.id != bitsAt (s.th.rg a) 0 4 := by
  obtain ⟨p, hp, hid⟩ := h
  have hany : s.co.pins.any (·.id == bitsAt (s.th.rg a) 0 4) = true := List.any_eq_true.2 ⟨p, hp, by simpa using hid⟩
  refine ⟨_, if_pos hany, endsWith_replyG (.refl _) (fun _ => rfl) d _, ?_⟩
  rw [State.replyG, co_modTh, co_modCo]
  rfl

theorem cpyUnpin_none (h : ∀ p ∈ s.co.pins, p.id ≠ bitsAt (s.th.rg a) 0 4) : WritesG (.cpyUnpin d a) s d 4 :=
  writesG_pureG (if_neg (by
    rw [List.any_eq_true]
    rintro ⟨p, hp, hid⟩
    exact h p hp (beq_iff_eq.1 hid)))

end

/-- Settles O48: each form by its checks, and what it changes behind them. -/
theorem copyForms : Obligations.CopyForms := by
  unfold Obligations.CopyForms
  intro s e d a b _
  refine ⟨⟨traps_cpySlot_even, fun h hl => ?_, cpySlot_full, fun i h1 h2 h3 hl hi => cpySlot_grants ⟨h1, h2, h3⟩ hl hi⟩,
    ⟨fun h1 h2 => ?_, fun h => ?_, fun hx => ⟨cpyFree_frees hx, fun hst => ?_⟩⟩,
    ⟨fun h => ?_, traps_cpyIn_other, traps_cpyIn_bounds,
      fun h1 h2 h3 => rangeChecks_of_rangeParts kindIs_zero_iff (cpyIn_past h1 h2 h3),
      fun ps h1 h2 h3 h4 h5 h6 h7 h8 hps => ?_⟩,
    ⟨fun h => ?_, traps_cpyOut_bounds, fun h1 h2 => rangeChecks_of_rangeParts kindIs_zero_iff (cpyOut_past h1 h2),
      fun ps h1 h2 h3 h4 h5 h6 hps => ?_⟩,
    ⟨traps_cpyPin_even, fun h => ?_, fun ps i h1 h2 h3 h4 hps hw hi hfree hlow => ?_⟩, cpyUnpin_drops, cpyUnpin_none⟩
  · exact traps_finish (tr := ⟨cScratchBounds, s.th.rg a, 0⟩) (exec_cpySlot d a b s)
      ((trapIf_pass ((slotEven_iff _).2 h)).trans (trapIf_stop (decide_eq_true hl)))
  · exact traps_finish (tr := ⟨cPermission, s.th.rg a, 0⟩) (exec_cpyFree d a s)
      (trapIf_stop (by rw [bne_iff_ne.2 h1, bne_iff_ne.2 h2]; rfl))
  · exact writesG_pureG (x := stCancelled) (by rw [exec_cpyFree, trapIf_pass (by rw [h]; rfl), h]; rfl)
  · exact writesG_pureG (x := stBusy) (by
      rw [exec_cpyFree, trapIf_pass (by rw [hx, bne_self_eq_false, Bool.and_false]), hst]; rfl)
  · exact traps_finish (tr := ⟨cMisaligned, s.th.rg a, 0⟩) (exec_cpyIn e d a b s)
      (trapIf_stop (by rw [← copyAlign_iff, Bool.not_eq_false] at h; exact h))
  · have he := cpyIn_past (e := e) (d := d) ⟨h1, h2, h3, h4⟩ ⟨h5, h6⟩ ⟨h7, h8⟩
    change exec _ s = finish s ((s.rangeParts .load _ _).bind _) at he
    rw [hps] at he
    refine ⟨fun hq => ?_, offerCopy_busy he⟩
    obtain ⟨hw, hl⟩ := copyTaken_core s d (s.copyIn (s.th.rg a) (s.th.rg b) ps)
    exact ⟨_, _, he.trans (congrArg _ (offerCopy_takes hq)), copyTaken_ends s d _, hw, hl, rfl, copyTaken_queue s d _, rfl,
      rfl, rfl, rfl, rfl, rfl, copyTaken_slot s d (c := s.copyIn (s.th.rg a) (s.th.rg b) ps) rfl⟩
  · exact traps_finish (tr := ⟨cMisaligned, s.th.rg a, 0⟩) (exec_cpyOut e d a b s)
      (trapIf_stop (by rw [← copyAlign_iff, Bool.not_eq_false] at h; exact h))
  · have he := cpyOut_past (e := e) (d := d) ⟨h1, h2, h3, h4⟩ ⟨h5, h6⟩
    change exec _ s = finish s ((s.rangeParts .store _ _).bind _) at he
    rw [hps] at he
    refine ⟨fun hq => ?_, offerCopy_busy he⟩
    obtain ⟨hw, hl⟩ := copyTaken_core s d (s.copyOut (s.th.rg a) (s.th.rg b) ps)
    exact ⟨_, _, he.trans (congrArg _ (offerCopy_takes hq)), copyTaken_ends s d _, hw, hl, rfl, copyTaken_queue s d _, rfl,
      rfl, rfl, rfl, rfl, rfl, rfl⟩
  · exact rangeChecks_of_rangeParts pinned_iff ((exec_cpyPin d a b s).trans
      (congrArg (finish s) (trapIf_pass ((pinEven_iff _ _).2 h))))
  · obtain ⟨hend, hpins⟩ := pinGiven_result s d (s.th.rg a) (s.th.rg b) i (ps.flatMap Part.pinLines)
    exact ⟨_, _, cpyPin_grants ⟨h1, h2, h3, h4⟩ hps hw hi hfree hlow, hend, hpins, rfl, rfl, rfl, rfl⟩

end Sys2Proof.Machine
end

section
/-! PROOFS. Device registers: reads, stores through the queue, and `dclk` (R169, R170, R280, R296, R321). -/

namespace Sys2Proof.Machine

/-! ## A request that is noted (R280) -/

/-- From a state to another a request of the issuing thread's core has been numbered, and its home may keep the reply. -/
structure Noted (s t : State) : Prop where
  rest : t = { s with threads := t.threads, cores := t.cores, dies := t.dies }
  th : ∃ l, t.th = { s.th with asked := l }
  others : ∀ u, u ≠ s.cur → t.thr u = s.thr u
  cores : ∀ k, k ≠ s.ck → t.cor k = s.cor k
  core : t.cor s.ck = { s.co with seq := (t.cor s.ck).seq }
  dies : ∀ k, t.die k = { s.die k with replies := (t.die k).replies }

theorem Noted.refl (s : State) : Noted s s :=
  ⟨rfl, ⟨_, rfl⟩, fun _ _ => rfl, fun _ _ => rfl, rfl, fun _ => rfl⟩

theorem Noted.cur {s t : State} (h : Noted s t) : t.cur = s.cur := by rw [h.rest]

theorem Noted.trans {s t u : State} (h : Noted s t) (k : Noted t u) : Noted s u where
  rest := by rw [k.rest, h.rest]
  th := by
    obtain ⟨l, hl⟩ := h.th
    obtain ⟨m, hm⟩ := k.th
    exact ⟨m, by rw [hm, hl]⟩
  others v hv := (k.others v (by rw [h.cur]; exact hv)).trans (h.others v hv)
  cores j hj := (k.cores j (by rw [State.ck, h.cur]; exact hj)).trans (h.cores j hj)
  core := by
    have hck : t.ck = s.ck := by rw [State.ck, State.ck, h.cur]
    have hk := k.core
    rw [State.co, hck, h.core] at hk
    exact hk
  dies j := by rw [k.dies j, h.dies j]

theorem noted_seq (s : State) (f : Core → AMap Nat) : Noted s (s.modCor s.ck fun c => { c with seq := f c }) :=
  ⟨rfl, ⟨_, rfl⟩, fun _ _ => rfl, fun _ hk => cor_modCor_other s _ hk, by rw [cor_modCor_same]; rfl, fun _ => rfl⟩

theorem noted_ask (s : State) (ck : Nat) (x : Ask) : Noted s (s.ask ck x) := by
  unfold State.ask
  split
  · exact ⟨rfl, ⟨_, th_modTh s _⟩, fun _ hu => thr_modThr_other _ _ hu, fun _ _ => rfl, rfl, fun _ => rfl⟩
  · exact .refl s

theorem noted_replies (s : State) (die : Nat) (f : Die → AMap (List (Nat × Option Word))) :
    Noted s (s.modDie die fun d => { d with replies := f d }) := by
  refine ⟨rfl, ⟨_, rfl⟩, fun _ _ => rfl, fun _ _ => rfl, rfl, fun k => ?_⟩
  by_cases h : k = die
  · rw [h, die_modDie_same]
  · rw [die_modDie_other _ _ h]

theorem noted_noteRequest (s : State) (die : Nat) (r : Option Word) (off n : Nat) :
    Noted s (s.noteRequest s.ck die r off n) := by
  unfold State.noteRequest
  split
  · exact .refl s
  · exact ((noted_seq s _).trans (noted_ask _ _ _)).trans (noted_replies _ _ _)

theorem noteRequest_own {s : State} {die : Nat} (r : Option Word) (off n : Nat) (h : die = coreDie s.ck) :
    s.noteRequest s.ck die r off n = s := if_pos h.symm

/-- A form that a unit on a die answers with a value. -/
theorem answeredFrom_noteRequest {i : Instr} {s : State} {d : Reg} {die : Nat} {x : Word} {r : Option Word} {off n : Nat}
    (h : exec i s = .next ((s.noteRequest s.ck die r off n).replyG d x)) : AnsweredFrom i s d die x := by
  have hn := noted_noteRequest s die r off n
  obtain ⟨l, hl⟩ := hn.th
  refine ⟨fun hd => writesG_replyG (by rw [h, noteRequest_own _ _ _ hd]), _, h,
    endsWith_replyG (by rw [hl]; exact ⟨rfl, rfl, rfl, rfl, rfl, rfl⟩) (fun y => by rw [hn.rest]) d x, ?_, fun u hu => ?_,
    hn.cores, hn.core, hn.dies⟩
  · generalize hu : s.noteRequest s.ck die r off n = u at hn
    rw [State.replyG, State.modTh, State.modThr, State.setThr, hn.rest]
  · have hcur : (s.noteRequest s.ck die r off n).cur = s.cur := by rw [hn.rest]
    rw [State.replyG, State.modTh, thr_modThr_other _ _ (by rw [hcur]; exact hu)]
    exact hn.others u hu

/-! ## Loads (R169) -/

section
variable {s : State} {sz : Size} {d a : Reg} {off : BitVec 11} {p : Part}

theorem exec_ldDevice (sz : Size) (d a : Reg) (off : BitVec 11) (s : State) : exec (.ldDevice sz d a off) s = finish s
    ((s.wholePart (accOf false) 3 (s.th.ea a off sz.bytes) sz.bytes).bind fun p => (s.devRead p.pa sz.bytes).bind fun v =>
      .ok ((s.noteRequest s.ck (deviceDie p.pa) (some (BitVec.ofNat 64 v))).replyG d (BitVec.ofNat 64 v))) := rfl

theorem ldDevice_answers {v : Nat} (hp : s.devPart .load (s.th.ea a off sz.bytes) sz.bytes = .ok p)
    (hv : s.devRead p.pa sz.bytes = .ok v) :
    AnsweredFrom (.ldDevice sz d a off) s d (deviceDie p.pa) (BitVec.ofNat 64 v) := by
  refine answeredFrom_noteRequest (r := some (BitVec.ofNat 64 v)) (off := 0) (n := 8) ?_
  rw [exec_ldDevice]
  change finish s ((s.devPart .load (s.th.ea a off sz.bytes) sz.bytes).bind _) = _
  rw [hp]
  change finish s ((s.devRead p.pa sz.bytes).bind _) = _
  rw [hv]
  rfl

/-! ## Stores (R169, R170, R89) -/

/-- The queue entry of a device store. -/
def devEntry (pa n v : Nat) : WtEntry := { pa := pa, bytes := (bytesOf v n).map some, dev := true }

theorem exec_stDevice (sz : Size) (d a : Reg) (off : BitVec 11) (s : State) : exec (.stDevice sz d a off) s = finish s
    ((s.wholePart (accOf true) 3 (s.th.ea a off sz.bytes) sz.bytes).bind fun p =>
      (s.devChecks p.pa sz.bytes ((s.th.rg d).toNat % 2 ^ (8 * sz.bytes))).bind fun _ =>
        .ok ((s.wtPush s.ck (devEntry p.pa sz.bytes ((s.th.rg d).toNat % 2 ^ (8 * sz.bytes)))).modTh fun t =>
          t.retireDevice s.tick)) := rfl

/-- The checks of a store to a register. -/
theorem devChecks_eq {pa n v : Nat} (h : (devReg pa).isSome = true) : s.devChecks pa n v =
    (trapIf (devRes pa n v != 0) cReservedField
      (BitVec.ofNat 64 (s.th.word.toNat + 2 ^ 37 + lowestBit (BitVec.ofNat 64 (devRes pa n v)) * 2 ^ 38))).bind fun _ =>
        trapIf (devRws pa n && !s.th.service) cPrivilege s.wordInfo := by
  unfold State.devChecks
  rw [if_neg (by rw [Option.isNone_iff_eq_none, ← ne_eq, ← Option.isSome_iff_ne_none]; exact h)]
  rfl

theorem stDevice_past (hp : s.devPart .store (s.th.ea a off sz.bytes) sz.bytes = .ok p) (h : (devReg p.pa).isSome = true) :
    exec (.stDevice sz d a off) s = finish s
      (((trapIf (devRes p.pa sz.bytes ((s.th.rg d).toNat % 2 ^ (8 * sz.bytes)) != 0) cReservedField (BitVec.ofNat 64
          (s.th.word.toNat + 2 ^ 37 +
            lowestBit (BitVec.ofNat 64 (devRes p.pa sz.bytes ((s.th.rg d).toNat % 2 ^ (8 * sz.bytes)))) * 2 ^ 38))).bind fun _ =>
        trapIf (devRws p.pa sz.bytes && !s.th.service) cPrivilege s.wordInfo).bind fun _ =>
        .ok ((s.wtPush s.ck (devEntry p.pa sz.bytes ((s.th.rg d).toNat % 2 ^ (8 * sz.bytes)))).modTh fun t =>
          t.retireDevice s.tick)) := by
  rw [exec_stDevice]
  change finish s ((s.devPart .store (s.th.ea a off sz.bytes) sz.bytes).bind _) = _
  rw [hp, ← devChecks_eq h]
  rfl

theorem retireDevice_keeps (t : Thread) (n : Nat) : Keeps [] [] [] t (t.retireDevice n) ∧
    (t.retireDevice n).kstat = t.kstat ∧ NextWord t (t.retireDevice n) := by
  obtain ⟨h, hk, -⟩ := advance_keeps t
  refine ⟨⟨h.g, h.v, h.m, h.saved, h.control, h.frame, h.bits, h.packet⟩, hk, fun hf => ?_⟩
  rw [Thread.retireDevice, ← advance_pc t hf]; rfl

theorem wtPush_room {e : WtEntry} (h : s.co.wtq.length < 32) :
    s.wtPush s.ck e = s.modCo fun c => { c with wtq := c.wtq ++ [e] } := by
  rw [wtPush_eq, State.wtRoom, if_neg (show ¬ 32 ≤ (s.cor s.ck).wtq.length from Nat.not_le.2 h)]; rfl

theorem stDevice_queues (hp : s.devPart .store (s.th.ea a off sz.bytes) sz.bytes = .ok p)
    (h : (devReg p.pa).isSome = true) (hres : devRes p.pa sz.bytes ((s.th.rg d).toNat % 2 ^ (8 * sz.bytes)) = 0)
    (hrws : devRws p.pa sz.bytes = true → s.th.service = true) (hq : s.co.wtq.length < 32) :
    ∃ t, exec (.stDevice sz d a off) s = .next t ∧ Keeps [] [] [] s.th t.th ∧ t.th.kstat = s.th.kstat ∧
      NextWord s.th t.th ∧ t.th.st = .waiting ∧ t.th.wait.map (·.kind) = some .deviceStore ∧
      t.co.wtq = s.co.wtq ++ [devEntry p.pa sz.bytes ((s.th.rg d).toNat % 2 ^ (8 * sz.bytes))] ∧
      t.co.l1 = s.co.l1 ∧ (∀ u, u ≠ s.cur → t.thr u = s.thr u) ∧ (∀ x, memGet t.mem x = memGet s.mem x) := by
  have he : exec (.stDevice sz d a off) s = .next ((s.modCo fun c =>
      { c with wtq := c.wtq ++ [devEntry p.pa sz.bytes ((s.th.rg d).toNat % 2 ^ (8 * sz.bytes))] }).modTh fun t =>
        t.retireDevice s.tick) := by
    rw [stDevice_past hp h, trapIf_pass (by rw [hres]; rfl), wtPush_room hq]
    refine congrArg (finish s) (trapIf_pass ?_)
    cases hr : devRws p.pa sz.bytes
    · rfl
    · rw [hrws hr]; rfl
  obtain ⟨hk, hst, hn⟩ := retireDevice_keeps s.th s.tick
  refine ⟨_, he, ?_, ?_, ?_, ?_, ?_, ?_, ?_, fun u hu => ?_, fun _ => rfl⟩
  · rw [th_modTh]; exact hk
  · rw [th_modTh]; exact hst
  · rw [th_modTh]; exact hn
  · rw [th_modTh]; rfl
  · rw [th_modTh]; rfl
  · rw [co_modTh, co_modCo]
  · rw [co_modTh, co_modCo]
  · exact thr_modThr_other _ _ hu

theorem traps_stDevice_reserved (hp : s.devPart .store (s.th.ea a off sz.bytes) sz.bytes = .ok p)
    (h : (devReg p.pa).isSome = true) {b : Nat}
    (hset : (devRes p.pa sz.bytes ((s.th.rg d).toNat % 2 ^ (8 * sz.bytes))).testBit b = true)
    (hlow : ∀ j, j < b → (devRes p.pa sz.bytes ((s.th.rg d).toNat % 2 ^ (8 * sz.bytes))).testBit j = false) (hb : b < 64) :
    Traps (.stDevice sz d a off) s 0x02 (BitVec.ofNat 64 (s.th.word.toNat + 2 ^ 37 + 2 ^ 38 * b)) := by
  have he := stDevice_past (d := d) hp h
  generalize devRes p.pa sz.bytes ((s.th.rg d).toNat % 2 ^ (8 * sz.bytes)) = r at hset hlow he
  have hlb : lowestBit (BitVec.ofNat 64 r) = b := by
    refine lowestBit_eq ?_ fun j hj => ?_ <;> rw [BitVec.toNat_ofNat, Nat.testBit_mod_two_pow]
    · rw [hset, decide_eq_true hb]; rfl
    · rw [hlow j hj, Bool.and_false]
  rw [hlb, Nat.mul_comm b] at he
  have hr : r ≠ 0 := by rintro rfl; simp at hset
  refine traps_finish (tr := ⟨cReservedField, _, 0⟩) he ?_
  rw [trapIf_stop (bne_iff_ne.2 hr)]
  rfl

theorem traps_stDevice_privilege (hp : s.devPart .store (s.th.ea a off sz.bytes) sz.bytes = .ok p)
    (h : (devReg p.pa).isSome = true) (hres : devRes p.pa sz.bytes ((s.th.rg d).toNat % 2 ^ (8 * sz.bytes)) = 0)
    (hrws : devRws p.pa sz.bytes = true) (hsv : s.th.service = false) :
    Traps (.stDevice sz d a off) s 0x03 (s.th.word.setWidth 64) := by
  refine traps_finish (tr := ⟨cPrivilege, s.wordInfo, 0⟩) (stDevice_past hp h) ?_
  rw [trapIf_pass (by rw [hres]; rfl)]
  exact trapIf_stop (by rw [hrws, hsv]; rfl)

end

/-! ## A write of `dclk` (R321, Table 16-3) -/

theorem clock_foldl_startSettle (l : List Nat) (d : Die) : (l.foldl (fun d q => d.startSettle q) d).clock = d.clock := by
  induction l generalizing d with
  | nil => rfl
  | cons q r ih => rw [List.foldl_cons, ih]; rfl

theorem target_beginRelock (d : Die) (tick : Nat) : (d.beginRelock tick).clock.target = d.clock.target := by
  unfold Die.beginRelock
  split
  · split <;> rfl
  · rfl

/-- Steering a die's clock leaves its target. -/
theorem target_steer (d : Die) (tick : Nat) : (d.steer tick).clock.target = d.clock.target := by
  unfold Die.steer Die.stepTo
  split
  · rfl
  · dsimp only
    rw [target_beginRelock]
    split
    · dsimp only; rw [clock_foldl_startSettle]
    · rfl

theorem target_writeDclk {d : Die} {tick m : Nat} (h8 : 8 ≤ m) (h19 : m ≤ 19) (hn : d.clock.next = none) :
    (d.writeDclk tick (m * 2 ^ 8)).clock.target = m := by
  have hm : m * 2 ^ 8 / 2 ^ 8 % 32 = m := by omega
  unfold Die.writeDclk
  rw [hm, if_neg (by simp [Clock.busy, hn]; omega), target_steer]

theorem devReg_dclk {die : Nat} (h : die < 12) : devReg (0x8000000000000 + die * 2 ^ 32 + 0x10000) = some (.dclk die 0) := by
  have ho : 0x8000000000000 + die * 2 ^ 32 + 0x10000 - 0x8000000000000 = die * 2 ^ 32 + 0x10000 := by omega
  have hd : (die * 2 ^ 32 + 0x10000) / 2 ^ 32 = die := by omega
  have hr : (die * 2 ^ 32 + 0x10000) % 2 ^ 32 = 0x10000 := by omega
  unfold devReg
  dsimp only
  rw [ho, hd, hr, if_neg (by omega), if_neg (by decide), if_neg (by decide), if_neg (by decide), if_pos (by decide)]

/-- A write of the whole of `dclk` that sets no reserved bit. -/
theorem devWrite_dclk {s : State} {pa die m : Nat} (h : devReg pa = some (.dclk die 0)) (h8 : 8 ≤ m) (h19 : m ≤ 19) :
    s.devWrite pa 8 (m * 2 ^ 8) = .ok (s.modDie die (·.writeDclk s.tick (m * 2 ^ 8))) := by
  have hput : ∀ v, v < 2 ^ 64 → bytesPut v 0 8 (m * 2 ^ 8) = m * 2 ^ 8 := fun v hv => by
    unfold bytesPut bytesAt
    rw [Nat.mul_zero, pow_zero, Nat.div_one, Nat.mul_one, Nat.mul_one, Nat.mod_eq_of_lt hv, Nat.sub_self, Nat.zero_add]
    exact Nat.mod_eq_of_lt (by omega)
  have hres : devRes pa 8 (m * 2 ^ 8) = 0 := by
    unfold devRes
    rw [h]
    dsimp only
    rw [hput 0 (by decide)]
    unfold dclkRes
    omega
  unfold State.devWrite
  rw [if_neg (not_not.2 hres), h]
  dsimp only
  rw [hput _ (Nat.mod_lt _ (by decide)), if_pos (by decide)]

theorem deviceRegisterWrite_dclk {s : State} {pa die m : Nat} (h : devReg pa = some (.dclk die 0)) (h8 : 8 ≤ m) (h19 : m ≤ 19)
    (hn : (s.die die).clock.next = none) :
    ∃ t, exec (.deviceRegisterWrite pa 8 (BitVec.ofNat 64 (m * 2 ^ 8))) s = .next t ∧
      (t.die die).clock.target = m ∧ t.threads = s.threads ∧ t.cores = s.cores ∧ t.mem = s.mem ∧
      ∀ k, k ≠ die → t.die k = s.die k := by
  have hv : (BitVec.ofNat 64 (m * 2 ^ 8)).toNat % 2 ^ (8 * 8) = m * 2 ^ 8 := by rw [BitVec.toNat_ofNat]; omega
  have he : exec (.deviceRegisterWrite pa 8 (BitVec.ofNat 64 (m * 2 ^ 8))) s =
      .next (s.modDie die (·.writeDclk s.tick (m * 2 ^ 8))) := by
    rw [exec, execDeviceRegisterWrite, hv, devWrite_dclk h h8 h19]
  exact ⟨_, he, by rw [die_modDie_same]; exact target_writeDclk h8 h19 hn, rfl, rfl, rfl,
    fun k hk => die_modDie_other _ _ hk⟩

/-- Settles O43: the checks of a part that is never split, then the register that its address names. -/
theorem deviceAccess : Obligations.DeviceAccess := by
  unfold Obligations.DeviceAccess
  refine ⟨fun s sz d a off => ⟨accessChecks_of_wholePart (exec_ldDevice sz d a off s),
      accessChecks_of_wholePart (exec_stDevice sz d a off s)⟩,
    fun s sz d a off p => ⟨fun v => ldDevice_answers, fun hp h => ⟨stDevice_queues hp h,
      fun b => traps_stDevice_reserved hp h, traps_stDevice_privilege hp h⟩⟩,
    fun s die m h h8 h19 hn => deviceRegisterWrite_dclk (devReg_dclk h) h8 h19 hn⟩

end Sys2Proof.Machine
end

section
/-! PROOFS. Decode tables, and the save and the restore of one context (R131, R132, R135, R137). -/

namespace Sys2Proof.Machine

/-! ## Tables asked for (R132) -/

theorem exec_sysNuld (a : Reg) (k : DTable) (s : State) : exec (.sysNuld a k) s = finish s
    ((s.tableAddr a (tableAt k).2).bind fun base => .ok (s.waitFor (.tableMove true k base) 0)) := rfl

theorem exec_sysNust (a : Reg) (k : DTable) (s : State) : exec (.sysNust a k) s = finish s
    ((s.tableAddr a (tableAt k).2).bind fun base => .ok (s.waitFor (.tableMove false k base) 0)) := rfl

theorem tableAddr_eq (s : State) (a : Reg) (n : Nat) : s.tableAddr a n = (scrAddr (s.th.rg a)).bind fun base =>
    (trapIf (base % 4 != 0) cMisaligned (s.th.rg a)).bind fun _ =>
      (trapIf (decide (s.scrLimit < base + 4 * n)) cScratchBounds (s.th.rg a)).bind fun _ => .ok base := rfl

section
variable {s : State} {a : Reg} {n : Nat}

theorem tableAddr_ok (h4 : (s.th.rg a).toNat % 4 = 0) (hx : (s.th.rg a).toNat < 2 ^ 18)
    (hl : (s.th.rg a).toNat + 4 * n ≤ s.scrLimit) : s.tableAddr a n = .ok (s.th.rg a).toNat := by
  rw [tableAddr_eq, scrAddr_ok hx]
  change (trapIf _ cMisaligned _).bind _ = _
  rw [trapIf_pass (by rw [h4]; rfl), trapIf_pass (decide_eq_false (by omega))]

/-- Every form that takes the address of a table first makes these checks. -/
theorem blockChecks_of_tableAddr {i : Instr} {k : Nat → Except Stop State}
    (h : exec i s = finish s ((s.tableAddr a n).bind k)) : BlockChecks i s 4 (4 * n) (s.th.rg a) := by
  have stop : ∀ {c : Nat}, s.tableAddr a n = .error (.trap ⟨c, s.th.rg a, 0⟩) → Traps i s c (s.th.rg a) := fun {c} e =>
    traps_finish (tr := ⟨c, s.th.rg a, 0⟩) h (by rw [e]; rfl)
  refine ⟨fun hx => stop ?_, fun hx h4 => stop ?_, fun hx h4 hl => stop ?_⟩
  · rw [tableAddr_eq, scrAddr_error hx]; rfl
  · rw [tableAddr_eq, scrAddr_ok hx]
    exact trapIf_stop (bne_iff_ne.2 h4)
  · rw [tableAddr_eq, scrAddr_ok hx]
    change (trapIf _ cMisaligned _).bind _ = _
    rw [trapIf_pass (by rw [h4]; rfl)]
    exact trapIf_stop (decide_eq_true hl)

theorem waitFor_waits (s : State) (k : WaitKind) (d : Reg) : WaitsFor s (s.waitFor k d) .waiting k :=
  waitsFor_block rfl rfl _ _ _ _ _

theorem table_asked {i : Instr} {d : Nat → WaitKind}
    (h : exec i s = finish s ((s.tableAddr a n).bind fun base => .ok (s.waitFor (d base) 0)))
    (h4 : (s.th.rg a).toNat % 4 = 0) (hx : (s.th.rg a).toNat < 2 ^ 18) (hl : (s.th.rg a).toNat + 4 * n ≤ s.scrLimit) :
    ∃ t, exec i s = .next t ∧ OnlyThread s t ∧ WaitsFor s t .waiting (d (s.th.rg a).toNat) :=
  ⟨_, by rw [h, tableAddr_ok h4 hx hl]; rfl, onlyThread_modTh s _, waitFor_waits s _ 0⟩

end

/-! ## Tables moved (R132) -/

/-- The first entries of a table loaded. -/
def loadEntries (c : Core) (first b n : Nat) : AMap (BitVec 19) :=
  (List.range n).foldl (fun m j => AMap.put 0 m (first + j) (BitVec.ofNat 19 (c.scrRead (b + 4 * j) 4))) c.tabs

theorem get_loadEntries (c : Core) (first b n i : Nat) : (loadEntries c first b n).get 0 i =
    if first ≤ i ∧ i < first + n then BitVec.ofNat 19 (c.scrRead (b + 4 * (i - first)) 4) else c.tabs.get 0 i := by
  induction n with
  | zero => rw [if_neg (by omega)]; rfl
  | succ n ih =>
    rw [loadEntries, List.range_succ, List.foldl_append, List.foldl_cons, List.foldl_nil]
    by_cases h : i = first + n
    · subst h
      rw [AMap.get_put_same, if_pos (by omega), Nat.add_sub_cancel_left]
    · rw [AMap.get_put_other _ _ _ h]
      refine ih.trans ?_
      by_cases hi : first ≤ i ∧ i < first + n
      · rw [if_pos hi, if_pos (by omega)]
      · rw [if_neg hi, if_neg (by omega)]

theorem loadTable_eq (c : Core) (k : DTable) (b : Nat) :
    c.loadTable k b = { c with tabs := loadEntries c (tableAt k).1 b (tableAt k).2 } := rfl

/-- The first entries of a table stored. -/
def storeEntries (c : Core) (first b n : Nat) : Core :=
  (List.range n).foldl (fun c j => c.scrWrite (b + 4 * j) (bytesOf (c.tabs.get 0 (first + j)).toNat 4)) c

theorem tabs_scrWrite (c : Core) (x : Nat) (bs : List Byte) : (c.scrWrite x bs).tabs = c.tabs := by
  obtain ⟨m, hm⟩ := scrPuts_form c (placedBytes x bs)
  rw [scrWrite_eq, hm]

theorem storeEntries_succ (c : Core) (first b n : Nat) : storeEntries c first b (n + 1) =
    (storeEntries c first b n).scrWrite (b + 4 * n) (bytesOf ((storeEntries c first b n).tabs.get 0 (first + n)).toNat 4) := by
  rw [storeEntries, List.range_succ, List.foldl_append]; rfl

theorem storeEntries_keeps (c : Core) (first b n : Nat) :
    (storeEntries c first b n).tabs = c.tabs ∧ (storeEntries c first b n).empty = c.empty := by
  induction n with
  | zero => exact ⟨rfl, rfl⟩
  | succ n ih => rw [storeEntries_succ, tabs_scrWrite, empty_scrWrite]; exact ih

theorem scrByte_storeEntries_outside (c : Core) (first b n : Nat) {i : Nat} (h : i < b ∨ b + 4 * n ≤ i) :
    (storeEntries c first b n).scrByte i = c.scrByte i := by
  induction n with
  | zero => rfl
  | succ n ih =>
    rw [storeEntries_succ, scrByte_scrWrite_outside _ _ _ (by rw [length_bytesOf]; omega)]
    exact ih (by omega)

theorem scrByte_storeEntries (c : Core) (first b n : Nat) {j i : Nat} (hj : j < n) (hi : i < 4) :
    (storeEntries c first b n).scrByte (b + 4 * j + i) = BitVec.ofNat 8 ((c.tabs.get 0 (first + j)).toNat / 2 ^ (8 * i)) := by
  induction n with
  | zero => exact absurd hj (Nat.not_lt_zero _)
  | succ n ih =>
    rw [storeEntries_succ, (storeEntries_keeps c first b n).1]
    by_cases h : j = n
    · subst h
      rw [scrByte_scrWrite _ _ _ (by rw [length_bytesOf]; exact hi), bytesOf_getElem_eq]
    · rw [scrByte_scrWrite_outside _ _ _ (by omega)]
      exact ih (by omega)

theorem scrRead_storeEntries (c : Core) (first b n : Nat) {j : Nat} (hj : j < n) :
    (storeEntries c first b n).scrRead (b + 4 * j) 4 = (c.tabs.get 0 (first + j)).toNat := by
  have hl : (List.range 4).map (fun i => (storeEntries c first b n).scrByte (b + 4 * j + i)) =
      bytesOf (c.tabs.get 0 (first + j)).toNat 4 := by
    refine List.ext_getElem (by rw [List.length_map, List.length_range, length_bytesOf]) fun i h1 h2 => ?_
    rw [List.getElem_map, List.getElem_range, bytesOf_getElem_eq]
    exact scrByte_storeEntries c first b n hj (by rw [List.length_map, List.length_range] at h1; exact h1)
  rw [Core.scrRead, hl, natOfBytes_bytesOf]
  exact Nat.mod_eq_of_lt ((c.tabs.get 0 (first + j)).isLt.trans (by decide))

theorem storeTable_eq (c : Core) (k : DTable) (b : Nat) : c.storeTable k b = storeEntries c (tableAt k).1 b (tableAt k).2 := rfl

theorem scrBad_clean {c : Core} (h : c.spoison = []) (x n : Nat) : c.scrBad x n = none ∧ c.scrPartBad x n = none := by
  rw [Core.scrBad, Core.scrPartBad, List.find?_eq_none, List.find?_eq_none, h]
  exact ⟨fun _ _ => Bool.false_ne_true, fun _ _ => Bool.false_ne_true⟩

theorem rejoin_keeps (t : Thread) : Keeps [] [] [] t t.advance.rejoin ∧ NextWord t t.advance.rejoin := by
  obtain ⟨h, -, -⟩ := advance_keeps t
  exact ⟨⟨h.g, h.v, h.m, h.saved, h.control, h.frame, h.bits, h.packet⟩, fun hf => by
    rw [Thread.rejoin, ← advance_pc t hf]; rfl⟩

/-- The reply of a form that has moved nothing yet on a core with no uncorrectable word. -/
theorem moveTable_arrives {s : State} {u b : Nat} {load : Bool} {k : DTable} (hst : (s.thr u).st = .waiting)
    (hw : (s.thr u).wait.map (·.kind) = some (.tableMove load k b)) (hc : (s.cor (coreOf u)).spoison = []) :
    exec (.replyArrival u) s = .next ((s.modCor (coreOf u) fun c => if load then c.loadTable k b else c.storeTable k b).modThr u
      fun x => x.advance.rejoin) := by
  obtain ⟨w, hwait, hkind⟩ := Option.map_eq_some_iff.1 hw
  have hm : s.moveTable u load k b = (s.modCor (coreOf u) fun c => if load then c.loadTable k b else c.storeTable k b).modThr u
      fun x => x.advance.rejoin := by
    unfold State.moveTable
    dsimp only
    obtain ⟨h1, h2⟩ := scrBad_clean hc b (4 * (tableAt k).2)
    cases load
    · rw [if_neg Bool.false_ne_true, h2]
    · rw [if_pos rfl, h1]
  rw [← hm, exec, execReplyArrival, hst, hwait]
  dsimp only
  rw [hkind]

theorem moved_thread (s : State) (u : Nat) (f : Core → Core) :
    let t := (s.modCor (coreOf u) f).modThr u fun x => x.advance.rejoin
    (t.thr u).st = .ready ∧ (t.thr u).wait = none ∧ Keeps [] [] [] (s.thr u) (t.thr u) ∧
      NextWord (s.thr u) (t.thr u) ∧ t.mem = s.mem ∧ ∀ v, v ≠ u → t.thr v = s.thr v := by
  dsimp only
  rw [thr_modThr_same]
  obtain ⟨h1, h2⟩ := rejoin_keeps (s.thr u)
  exact ⟨rfl, rfl, h1, h2, rfl, fun v hv => thr_modThr_other _ _ hv⟩

/-! ## Saves and restores asked for (R135, R137, R138, R322) -/

/-- A save of a context has been asked for at this tick. -/
def State.saveAsked (s : State) (u : Nat) : State := s.modThr u fun x => { x with saveFrom := some s.tick }

theorem th_saveAsked (s : State) (u : Nat) : ∃ f, (s.saveAsked u).th = { s.th with saveFrom := f } := by
  by_cases hu : u = s.cur
  · rw [hu]
    exact ⟨_, th_modTh s fun x => { x with saveFrom := some s.tick }⟩
  · exact ⟨s.th.saveFrom, thr_modThr_other _ _ (Ne.symm hu)⟩

theorem saveFrom_waitFor (s : State) (k : WaitKind) (d : Reg) (u : Nat) :
    ((s.waitFor k d).thr u).saveFrom = (s.thr u).saveFrom := by
  by_cases hu : u = s.cur
  · rw [hu, State.waitFor, State.modTh, thr_modThr_same]; rfl
  · rw [State.waitFor, State.modTh, thr_modThr_other _ _ hu]

theorem saveAsked_waits (s : State) (u : Nat) (k : WaitKind) (d : Reg) :
    WaitsFor s ((s.saveAsked u).waitFor k d) .waiting k := by
  obtain ⟨f, hf⟩ := th_saveAsked s u
  unfold WaitsFor
  rw [State.waitFor, th_modTh, hf]
  exact ⟨rfl, rfl, rfl, rfl, rfl, rfl, rfl, fun _ => rfl⟩

/-- A form of the service on a context past its decode: `rest` does what it does at the context. -/
def OnSave (i : Instr) (s : State) (a : Reg) (rest : Nat → Except Stop State) : Prop :=
  exec i s = finish s (s.needService.bind fun _ => s.atTarget (s.th.rg a) ((s.saveTarget (s.th.rg a)).bind rest))

theorem onSave_tsave (s : State) (d a : Reg) : OnSave (.sysTsave d a) s a fun t =>
    (trapIf ((s.thr t).st == .saved) cPermission (BitVec.ofNat 64 t)).bind fun _ =>
      if !(s.thr t).packet.isEmpty then .ok (s.pureG d stBusy)
      else if (s.thr t).saveFrom.isSome then .ok (s.waitFor (.saved t) d)
      else .ok ((s.modThr t fun x => { x with saveFrom := some s.tick }).waitFor (.save t) d) := rfl

theorem onSave_tload (s : State) (d a : Reg) : OnSave (.sysTload d a) s a fun t =>
    if (s.thr t).saveFrom.isSome then .ok (s.waitFor (.saved t) d)
    else (trapIf ((s.thr t).st != .saved) cPermission (BitVec.ofNat 64 t)).bind fun _ =>
      .ok (s.otherCore t ((s.restoreContext t).replyG d stDone)) := rfl

section
variable {i : Instr} {s : State} {d a : Reg} {rest : Nat → Except Stop State}

theorem OnSave.traps (h : OnSave i s a rest) (hs : s.th.service = false) : Traps i s 0x03 (s.th.word.setWidth 64) :=
  traps_finish (tr := ⟨cPrivilege, s.wordInfo, 0⟩) h (trapIf_stop (by rw [hs]; rfl))

theorem saveTarget_named {u : Nat} (ht : SaveTarget s u) : s.namesContext u = true := by
  obtain ⟨h1, h2, h3, -, -⟩ := ht
  exact (namesContext_iff s _).2 ⟨h1, h2, h3⟩

variable (hs : s.th.service = true) (ht : SaveTarget s (tidOf (s.th.rg a)))
include hs ht

theorem OnSave.heldOff (h : OnSave i s a rest) (hfar : ¬ Near s (tidOf (s.th.rg a))) : HeldOff i s := by
  have hw := waitsAtInstr_block s s.tick (.relock (coreDie (coreOf (tidOf (s.th.rg a)))) 0) 0 15
  refine ⟨_, ?_, hw.only, hw.keeps, hw.kstat, hw.st, hw.pc⟩
  rw [h, State.needService, trapIf_pass (by rw [hs]; rfl),
    atTarget_held (targetHeld_far hfar (saveTarget_named ht) (.inl hs))]
  rfl

theorem OnSave.near (h : OnSave i s a rest) (hnear : Near s (tidOf (s.th.rg a))) :
    exec i s = finish s (rest (tidOf (s.th.rg a))) := by
  have hname := saveTarget_named ht
  obtain ⟨-, -, -, hidle, hended⟩ := ht
  rw [h, State.needService, trapIf_pass (by rw [hs]; rfl), atTarget_near (targetHeld_near hnear), State.saveTarget]
  change finish s (((trapIf _ cPermission _).bind _).bind _) = _
  rw [trapIf_pass (by rw [hname, beq_false_of_ne hidle, beq_false_of_ne hended]; rfl)]
  rfl

variable (hnear : Near s (tidOf (s.th.rg a)))
include hnear

theorem tsave_traps (h : (s.thr (tidOf (s.th.rg a))).st = .saved) :
    Traps (.sysTsave d a) s 0x11 (BitVec.ofNat 64 (tidOf (s.th.rg a))) :=
  traps_finish (tr := ⟨cPermission, _, 0⟩) ((onSave_tsave s d a).near hs ht hnear) (trapIf_stop (beq_iff_eq.2 h))

theorem tsave_past (h : (s.thr (tidOf (s.th.rg a))).st ≠ .saved) : exec (.sysTsave d a) s = finish s
    (if !(s.thr (tidOf (s.th.rg a))).packet.isEmpty then .ok (s.pureG d stBusy)
    else if (s.thr (tidOf (s.th.rg a))).saveFrom.isSome then .ok (s.waitFor (.saved (tidOf (s.th.rg a))) d)
    else .ok ((s.modThr (tidOf (s.th.rg a)) fun x => { x with saveFrom := some s.tick }).waitFor
      (.save (tidOf (s.th.rg a))) d)) := by
  rw [(onSave_tsave s d a).near hs ht hnear, trapIf_pass (beq_false_of_ne h)]

theorem tsave_busy (h : (s.thr (tidOf (s.th.rg a))).st ≠ .saved) (hp : (s.thr (tidOf (s.th.rg a))).packet ≠ []) :
    WritesG (.sysTsave d a) s d 2 := by
  refine writesG_pureG (x := stBusy) ?_
  rw [tsave_past hs ht hnear h, if_pos (by rw [Bool.not_eq_true', List.isEmpty_eq_false_iff]; exact hp)]
  rfl

theorem tsave_second (h : (s.thr (tidOf (s.th.rg a))).st ≠ .saved) (hp : (s.thr (tidOf (s.th.rg a))).packet = [])
    (hf : (s.thr (tidOf (s.th.rg a))).saveFrom ≠ none) :
    ∃ t, exec (.sysTsave d a) s = .next t ∧ WaitsFor s t .waiting (.saved (tidOf (s.th.rg a))) := by
  refine ⟨_, ?_, waitFor_waits s _ d⟩
  rw [tsave_past hs ht hnear h, if_neg (by rw [hp]; decide), if_pos (Option.isSome_iff_ne_none.2 hf)]
  rfl

theorem tsave_asks (h : (s.thr (tidOf (s.th.rg a))).st ≠ .saved) (hp : (s.thr (tidOf (s.th.rg a))).packet = [])
    (hf : (s.thr (tidOf (s.th.rg a))).saveFrom = none) : ∃ t, exec (.sysTsave d a) s = .next t ∧
      (t.thr (tidOf (s.th.rg a))).saveFrom = some s.tick ∧ WaitsFor s t .waiting (.save (tidOf (s.th.rg a))) := by
  refine ⟨(s.saveAsked (tidOf (s.th.rg a))).waitFor (.save (tidOf (s.th.rg a))) d, ?_, ?_, saveAsked_waits s _ _ d⟩
  · rw [tsave_past hs ht hnear h, if_neg (by rw [hp]; decide), if_neg (by rw [hf]; decide)]; rfl
  · rw [saveFrom_waitFor, State.saveAsked, thr_modThr_same]

theorem tload_waits (hf : (s.thr (tidOf (s.th.rg a))).saveFrom ≠ none) :
    ∃ t, exec (.sysTload d a) s = .next t ∧ WaitsFor s t .waiting (.saved (tidOf (s.th.rg a))) := by
  refine ⟨_, ?_, waitFor_waits s _ d⟩
  rw [(onSave_tload s d a).near hs ht hnear, if_pos (Option.isSome_iff_ne_none.2 hf)]
  rfl

theorem tload_traps (h : (s.thr (tidOf (s.th.rg a))).st ≠ .saved) (hf : (s.thr (tidOf (s.th.rg a))).saveFrom = none) :
    Traps (.sysTload d a) s 0x11 (BitVec.ofNat 64 (tidOf (s.th.rg a))) := by
  refine traps_finish (tr := ⟨cPermission, _, 0⟩) ((onSave_tload s d a).near hs ht hnear) ?_
  rw [if_neg (by rw [hf]; decide)]
  exact trapIf_stop (bne_iff_ne.2 h)

theorem tload_past (h : (s.thr (tidOf (s.th.rg a))).st = .saved) (hf : (s.thr (tidOf (s.th.rg a))).saveFrom = none)
    (hc : coreOf (tidOf (s.th.rg a)) = s.ck ∨ NoRelock s) :
    exec (.sysTload d a) s = .next ((s.restoreContext (tidOf (s.th.rg a))).replyG d stDone) := by
  rw [(onSave_tload s d a).near hs ht hnear, if_neg (by rw [hf]; decide), trapIf_pass (by rw [h]; rfl), State.otherCore]
  obtain hc | hc := hc
  · rw [if_pos hc]; rfl
  · rw [someRelock_of_noRelock hc]
    split <;> rfl

end

/-! ### What a restore gives back (R135) -/

/-- A context as a restore gives it back from its slot. -/
def State.slotBack (s : State) (u : Nat) : Thread := { ((s.thr u).ofSlot (s.slotRead u)).formOver with startCyc := none }

theorem pc_slotBack (s : State) (u : Nat) : (s.slotBack u).pc = s.slotRead u 287 := rfl

theorem rg_formOver (t : Thread) (c : Option Nat) (r : Reg) : ({ t.formOver with startCyc := c } : Thread).rg r = t.rg r := rfl

theorem rg_slotBack (s : State) (u : Nat) {r : Reg} (hr : r ≠ 0) : (s.slotBack u).rg r = s.slotRead u (255 + r.val) :=
  (rg_formOver _ none r).trans (rg_ofSlot (s.thr u) (s.slotRead u) hr)

theorem parkedStart_ofSlot (t : Thread) (f : Nat → Word) : (t.ofSlot f).parkedStart = t.parkedStart := by
  rw [Thread.ofSlot]

theorem parkedStart_formOver (t : Thread) (c : Option Nat) :
    ({ t.formOver with startCyc := c } : Thread).parkedStart = t.parkedStart := rfl

theorem parkedStart_slotBack (s : State) (u : Nat) : (s.slotBack u).parkedStart = (s.thr u).parkedStart :=
  (parkedStart_formOver _ none).trans (parkedStart_ofSlot (s.thr u) (s.slotRead u))

theorem st_slotBack (s : State) (u : Nat) :
    (s.slotBack u).st = if bitAt (s.slotRead u 319) 0 then .trapped else .ready := rfl

/-- A context that has not waited since its start goes on as it stands. -/
theorem parkedAgain_started (s : State) (u : Nat) {x : Thread} (h : x.parkedStart = false) : s.parkedAgain u x = x := by
  unfold State.parkedAgain
  rw [h]
  rfl

theorem thr_restoreContext {s : State} {u : Nat} (hu : u < 2 ^ 17) (hcur : u ≠ s.cur) (hp : (s.thr u).parkedStart = false) :
    (s.restoreContext u).thr u = s.slotBack u := by
  have hm := (memAside_l1Release s (coreOf u)).trans (memAside_l1Acquire _ (coreOf u))
  have hthr : ((s.l1Release (coreOf u)).l1Acquire (coreOf u)).thr u = s.thr u := hm.others u hcur
  have hslot : ((s.l1Release (coreOf u)).l1Acquire (coreOf u)).slotRead u = s.slotRead u := by
    funext j
    obtain ⟨l, q, n, hc⟩ := hm.core
    rw [slotRead_eq hu, slotRead_eq hu, hc]
  rw [State.restoreContext]
  dsimp only
  rw [thr_modThr_same, State.slotImage, hthr, hslot]
  rw [← State.slotBack]
  exact parkedAgain_started _ u ((parkedStart_slotBack s u).trans hp)

theorem th_restoreContext {s : State} {u : Nat} (hcur : u ≠ s.cur) :
    ∃ l, (s.restoreContext u).th = { s.th with asked := l } ∧ (s.restoreContext u).cur = s.cur := by
  have hm := (memAside_l1Release s (coreOf u)).trans (memAside_l1Acquire _ (coreOf u))
  obtain ⟨l, hl⟩ := hm.th_eq
  refine ⟨l, ?_, hm.cur⟩
  rw [State.restoreContext]
  dsimp only
  rw [State.th, cur_modThr, thr_modThr_other _ _ (by rw [hm.cur]; exact Ne.symm hcur)]
  exact hl

theorem tload_restores {s : State} {d a : Reg} (hready : s.th.st = .ready) (hs : s.th.service = true)
    (ht : SaveTarget s (tidOf (s.th.rg a))) (hnear : Near s (tidOf (s.th.rg a)))
    (h : (s.thr (tidOf (s.th.rg a))).st = .saved) (hf : (s.thr (tidOf (s.th.rg a))).saveFrom = none)
    (hp : (s.thr (tidOf (s.th.rg a))).parkedStart = false) (hc : coreOf (tidOf (s.th.rg a)) = s.ck ∨ NoRelock s) :
    ∃ t, exec (.sysTload d a) s = .next t ∧ t.th.rg d = 0 ∧ Keeps [d] [] [] s.th t.th ∧ Completed t.th ∧
      (t.thr (tidOf (s.th.rg a))).pc = s.slotRead (tidOf (s.th.rg a)) 287 ∧
      (∀ r : Reg, r ≠ 0 → (t.thr (tidOf (s.th.rg a))).rg r = s.slotRead (tidOf (s.th.rg a)) (255 + r.val)) ∧
      (t.thr (tidOf (s.th.rg a))).st = if bitAt (s.slotRead (tidOf (s.th.rg a)) 319) 0 then .trapped else .ready := by
  have he := tload_past (d := d) hs ht hnear h hf hc
  have hlt := tidOf_lt (s.th.rg a)
  generalize tidOf (s.th.rg a) = u at *
  have hcur : u ≠ s.cur := fun e => by
    rw [e] at h
    exact absurd (hready.symm.trans h) (by decide)
  obtain ⟨l, hth, hrc⟩ := th_restoreContext hcur
  have hthr : ((s.restoreContext u).replyG d stDone).thr u = s.slotBack u := by
    rw [State.replyG, State.modTh, thr_modThr_other _ _ (by rw [hrc]; exact hcur), thr_restoreContext hlt hcur hp]
  refine ⟨_, he, ?_, ?_, ?_, ?_, fun r hr => ?_, ?_⟩
  · rw [State.replyG, th_modTh, retireReply_rg, rg_setG_same]
    split <;> rfl
  · rw [State.replyG, th_modTh]
    refine Keeps.after (y := (s.restoreContext u).th) ?_ ((setG_keeps _ d stDone).1.trans (retireReply_keeps _ _ _))
    rw [hth]
    exact ⟨fun _ _ => rfl, fun _ _ => rfl, fun _ _ => rfl, ⟨rfl, rfl, rfl⟩, ⟨rfl, rfl, rfl, rfl, rfl⟩, rfl,
      ⟨rfl, rfl, rfl, rfl, rfl⟩, ⟨rfl, rfl⟩⟩
  · rw [State.replyG, th_modTh]; exact retireReply_completed _ _ _
  · rw [hthr, pc_slotBack]
  · rw [hthr, rg_slotBack s u hr]
  · rw [hthr, st_slotBack]

/-- Settles O52: tables asked for and moved, then saves and restores by their checks. -/
theorem contextForms : Obligations.ContextForms := by
  unfold Obligations.ContextForms
  intro s d a k hready
  refine ⟨⟨blockChecks_of_tableAddr (exec_sysNuld a k s), blockChecks_of_tableAddr (exec_sysNust a k s),
      fun h4 hx hl => ⟨table_asked (d := .tableMove true k) (exec_sysNuld a k s) h4 hx hl,
        table_asked (d := .tableMove false k) (exec_sysNust a k s) h4 hx hl⟩,
      fun u b hst => ⟨fun hw hc => ?_, fun hw hc => ?_⟩⟩,
    fun hs => ⟨(onSave_tsave s d a).traps hs, (onSave_tload s d a).traps hs⟩,
    fun hs ht => ⟨fun hfar => ⟨(onSave_tsave s d a).heldOff hs ht hfar, (onSave_tload s d a).heldOff hs ht hfar⟩,
      fun hnear => ⟨tsave_asks hs ht hnear, tsave_second hs ht hnear, tsave_busy hs ht hnear, tsave_traps hs ht hnear,
        tload_waits hs ht hnear, tload_traps hs ht hnear, tload_restores hready hs ht hnear⟩⟩⟩
  · refine ⟨_, moveTable_arrives hst hw hc, moved_thread s u _, ?_⟩
    rw [cor_modThr, cor_modCor_same, if_pos rfl, loadTable_eq]
    refine ⟨fun j hj => ?_, fun i hi => ?_, rfl⟩
    · refine (get_loadEntries _ _ _ _ _).trans ?_
      rw [if_pos (by omega), Nat.add_sub_cancel_left]
    · exact (get_loadEntries _ _ _ _ _).trans (if_neg (by omega))
  · refine ⟨_, moveTable_arrives hst hw hc, moved_thread s u _, ?_⟩
    rw [cor_modThr, cor_modCor_same, if_neg Bool.false_ne_true, storeTable_eq]
    obtain ⟨h1, h2⟩ := storeEntries_keeps (s.cor (coreOf u)) (tableAt k).1 b (tableAt k).2
    exact ⟨fun j hj => scrRead_storeEntries _ _ _ _ hj, fun i hi => scrByte_storeEntries_outside _ _ _ _ hi, h1, h2⟩

end Sys2Proof.Machine
end

section
/-! PROOFS. What the ends of threads, revoked tenures, copies and stopped launches leave of the package: its events, its ports,
the dies that are online, the address spaces, and the translations of its cores. -/

namespace Sys2Proof.Machine

/-! ## The frame -/

/-- From a state to another the package has the same events, ports and online dies. -/
structure PkgKept (s t : State) : Prop where
  events : t.events = s.events
  ports : t.ports = s.ports
  cxlUp : t.cxlUp = s.cxlUp
  online : ∀ d, (t.die d).online = (s.die d).online

/-- The address spaces and the translations of the cores are the same too. -/
structure Bystander (s t : State) : Prop extends PkgKept s t where
  spaces : t.spaces = s.spaces
  tlb : ∀ ck, (t.cor ck).tlb = (s.cor ck).tlb

theorem PkgKept.refl (s : State) : PkgKept s s := ⟨rfl, rfl, rfl, fun _ => rfl⟩

theorem PkgKept.trans {s t u : State} (h : PkgKept s t) (k : PkgKept t u) : PkgKept s u :=
  ⟨k.events.trans h.events, k.ports.trans h.ports, k.cxlUp.trans h.cxlUp, fun d => (k.online d).trans (h.online d)⟩

theorem Bystander.refl (s : State) : Bystander s s := ⟨.refl s, rfl, fun _ => rfl⟩

theorem Bystander.trans {s t u : State} (h : Bystander s t) (k : Bystander t u) : Bystander s u :=
  ⟨h.toPkgKept.trans k.toPkgKept, k.spaces.trans h.spaces, fun ck => (k.tlb ck).trans (h.tlb ck)⟩

theorem Bystander.foldl {α : Type} {f : State → α → State} (h : ∀ s a, Bystander s (f s a)) (l : List α) (s : State) :
    Bystander s (l.foldl f s) := by
  induction l generalizing s with
  | nil => exact .refl s
  | cons a r ih => exact (h s a).trans (ih _)

/-! ### The steps -/

theorem bystander_modThr (s : State) (t : Nat) (f : Thread → Thread) : Bystander s (s.modThr t f) :=
  ⟨⟨rfl, rfl, rfl, fun _ => rfl⟩, rfl, fun _ => rfl⟩

theorem bystander_modSli (s : State) (k : Nat) (f : Slice → Slice) : Bystander s (s.modSli k f) :=
  ⟨⟨rfl, rfl, rfl, fun _ => rfl⟩, rfl, fun _ => rfl⟩

theorem bystander_modClu (s : State) (k : Nat) (f : Cluster → Cluster) : Bystander s (s.modClu k f) :=
  ⟨⟨rfl, rfl, rfl, fun _ => rfl⟩, rfl, fun _ => rfl⟩

theorem bystander_modLaunch (s : State) (k : Nat) (f : Launch → Launch) : Bystander s (s.modLaunch k f) :=
  ⟨⟨rfl, rfl, rfl, fun _ => rfl⟩, rfl, fun _ => rfl⟩

theorem bystander_post (s : State) (p : Post) : Bystander s (s.post p) :=
  ⟨⟨rfl, rfl, rfl, fun _ => rfl⟩, rfl, fun _ => rfl⟩

theorem bystander_modCor (s : State) (k : Nat) {f : Core → Core} (hf : ∀ c, (f c).tlb = c.tlb) : Bystander s (s.modCor k f) := by
  refine ⟨⟨rfl, rfl, rfl, fun _ => rfl⟩, rfl, fun ck => ?_⟩
  by_cases h : ck = k
  · rw [h, cor_modCor_same, hf]
  · rw [cor_modCor_other _ _ h]

theorem bystander_modDie (s : State) (k : Nat) {f : Die → Die} (hf : ∀ d, (f d).online = d.online) :
    Bystander s (s.modDie k f) := by
  refine ⟨⟨rfl, rfl, rfl, fun d => ?_⟩, rfl, fun _ => rfl⟩
  by_cases h : d = k
  · rw [h, die_modDie_same, hf]
  · rw [die_modDie_other _ _ h]

theorem MemAside.bystander {ck : Nat} {s t : State} (h : MemAside ck s t) : Bystander s t := by
  refine ⟨⟨by rw [h.rest], by rw [h.rest], h.cxlUp, fun d => ?_⟩, by rw [h.rest], fun k => ?_⟩
  · obtain ⟨r, f, hd⟩ := h.dies d
    rw [hd]
  · by_cases hk : k = ck
    · obtain ⟨l, q, n, hc⟩ := h.core
      rw [hk, hc]
    · rw [h.cores k hk]

/-- Reading a map after a change of each of its entries that a projection does not see. -/
theorem AMap.get_map_proj {α β : Type} {f : Nat × α → α} {p : α → β} (hf : ∀ e, p (f e) = p e.2) (d : α) (m : AMap α) (i : Nat) :
    p (AMap.get d (m.map fun e => (e.1, f e)) i) = p (AMap.get d m i) := by
  induction m with
  | nil => rfl
  | cons e r ih =>
    by_cases h : i = e.1
    · simp [AMap.get, h, hf]
    · simpa [AMap.get, h] using ih

/-! ## Traps and waits -/

theorem bystander_postRecord (s : State) (t : Nat) (tr : Trap) : Bystander s (s.postRecord t tr) := by
  unfold State.postRecord
  dsimp only
  split
  · exact bystander_post s _
  · split
    · exact (bystander_post s _).trans (bystander_post _ _)
    · exact bystander_post s _

theorem bystander_takeTrap (s : State) (t : Nat) (tr : Trap) : Bystander s (s.takeTrap t tr) :=
  (bystander_postRecord s t tr).trans (bystander_modThr _ _ _)

theorem bystander_readHome (s : State) (t : Nat) (ps : List (Nat × Nat × Nat)) : Bystander s (s.readHome t ps) := by
  unfold State.readHome
  dsimp only
  split
  · exact bystander_modThr s _ _
  · split
    · exact bystander_takeTrap s _ _
    · exact (bystander_modThr s _ _).trans (bystander_modCor _ _ (by intro _; rfl))

theorem bystander_wakeHome (s : State) : Bystander s s.wakeHome := Bystander.foldl (fun s _ => bystander_readHome s _ _) _ s

theorem bystander_wakeCore (s : State) (ck : Nat) (p : WaitKind → Bool) : Bystander s (s.wakeCore ck p) :=
  Bystander.foldl (fun s _ => bystander_modThr s _ _) _ s

theorem bystander_wakeWhere (s : State) (p : Nat → WaitKind → Bool) : Bystander s (s.wakeWhere p) :=
  ⟨⟨rfl, rfl, rfl, fun _ => rfl⟩, rfl, fun _ => rfl⟩

theorem bystander_withdraw (s : State) (t : Nat) : Bystander s (s.withdraw t) := by
  unfold State.withdraw
  refine Bystander.trans ?_ (bystander_modThr _ t _)
  refine Bystander.trans (t := { s with walks := s.walks.erase t }) ⟨⟨rfl, rfl, rfl, fun _ => rfl⟩, rfl, fun _ => rfl⟩ ?_
  generalize { s with walks := s.walks.erase t } = u
  split
  · exact bystander_modSli u _ _
  · exact (bystander_modClu u _ _).trans (Bystander.foldl (fun s _ => bystander_wakeCore s _ _) _ _)
  · exact bystander_modCor u _ (by intro _; rfl)
  · unfold State.dropPub
    split
    · exact .refl u
    · exact bystander_modCor u _ (by intro _; rfl)
  · exact .refl u

/-! ## Tenures (R254, R259, R261) -/

theorem bystander_giveUpEnt (s : State) (sl : Nat) (e : Tenure) : Bystander s (s.giveUpEnt sl e) := by
  unfold State.giveUpEnt
  split
  · exact .refl s
  · split
    · unfold State.giveUp
      split
      · exact .refl s
      · exact (memAside_l1Release s _).bystander.trans (bystander_modCor _ _ (by intro _; rfl))
    · exact .refl s

theorem bystander_endTenures (s : State) (t : Nat) : Bystander s (s.endTenures t) :=
  Bystander.foldl (fun s sl => (((Bystander.foldl (fun s e => bystander_giveUpEnt s sl e) _ s).trans
    (bystander_modSli _ _ _)).trans (bystander_wakeHome _)).trans (bystander_modSli _ _ _)) _ s

theorem bystander_revokeBytes (s : State) (asid va n : Nat) : Bystander s (s.revokeBytes asid va n) :=
  Bystander.foldl (fun s sl => Bystander.foldl (fun s _ => Bystander.foldl (fun s f =>
    (((bystander_giveUpEnt s sl f).trans (bystander_modSli _ _ _)).trans (bystander_wakeHome _)).trans
      (bystander_post _ _)) _ s) _ s) _ s

/-! ## Groups (R91, R299, R300) -/

theorem bystander_noteRequest (s : State) (ck die : Nat) (r : Option Word) (off n : Nat) :
    Bystander s (s.noteRequest ck die r off n) := (memAside_noteRequest s ck die r off n).bystander

theorem bystander_phaseDone (s : State) (t g : Nat) (d : Reg) (wide : Bool) : Bystander s (s.phaseDone t g d wide) := by
  unfold State.phaseDone State.crossBack
  have hacq : Bystander s (if wide then s.l1Acquire (coreOf t) else s) := by
    split
    · exact bystander_modCor s _ (by intro _; rfl)
    · exact .refl s
  refine hacq.trans ?_
  generalize (if wide then s.l1Acquire (coreOf t) else s) = u
  split
  · exact bystander_modThr u _ _
  · exact (bystander_noteRequest u _ _ _ _ _).trans (bystander_modThr _ _ _)

theorem bystander_setGroup (s : State) (g : Nat) (r : Group × Bool) : Bystander s (s.setGroup g r) := by
  unfold State.setGroup
  refine Bystander.trans (t := { s with groups := s.groups.set g r.1 }) ⟨⟨rfl, rfl, rfl, fun _ => rfl⟩, rfl, fun _ => rfl⟩ ?_
  dsimp only
  split
  · exact Bystander.foldl (fun s w => bystander_phaseDone s _ _ _ _) _ _
  · exact .refl _

theorem bystander_leaveGroup (s : State) (t g : Nat) : Bystander s (s.leaveGroup t g) := by
  unfold State.leaveGroup
  split
  · split
    · exact bystander_setGroup s _ _
    · exact .refl s
  · exact .refl s

theorem bystander_leaveGroups (s : State) (t : Nat) : Bystander s (s.leaveGroups t) := by
  unfold State.leaveGroups
  refine Bystander.foldl (fun s g => ?_) _ s
  split
  · exact .refl s
  · split
    · exact bystander_leaveGroup s t g
    · exact bystander_modCor s _ (by intro _; rfl)

/-! ## Threads that end (R90, R91, R305) -/

theorem bystander_returnPermits (s : State) (t : Nat) : Bystander s (s.returnPermits t) := by
  unfold State.returnPermits
  dsimp only
  exact (Bystander.foldl (fun s _ => bystander_modCor s _ (by intro _; rfl)) _ s).trans (bystander_modThr _ _ _)

theorem bystander_dropCall (s : State) (t : Nat) : Bystander s (s.dropCall t) :=
  ⟨⟨rfl, rfl, rfl, fun _ => rfl⟩, rfl, fun _ => rfl⟩

theorem bystander_ended (s : State) (t : Nat) : Bystander s (s.ended t) := by
  unfold State.ended State.endDuties State.wakeSavers
  exact (((((bystander_endTenures s t).trans (bystander_returnPermits _ t)).trans (bystander_leaveGroups _ t)).trans
    (bystander_dropCall _ t)).trans (bystander_modThr _ _ _)).trans (bystander_wakeWhere _ _)

theorem bystander_endThread (s : State) (t : Nat) : Bystander s (s.endThread t) := by
  unfold State.endThread
  split
  · exact (bystander_withdraw s t).trans (bystander_ended _ t)
  · exact (bystander_withdraw s t).trans (bystander_ended _ t)
  · exact (bystander_modThr s t _).trans (bystander_ended _ t)
  · exact bystander_ended s t

theorem bystander_endSaved (s : State) (t : Nat) : Bystander s (s.endSaved t) := by
  unfold State.endSaved
  dsimp only
  exact ((((bystander_endTenures s t).trans (bystander_dropCall _ t)).trans
    (Bystander.foldl (fun s _ => bystander_modLaunch s _ _) _ _)).trans
    (Bystander.foldl (fun s _ => bystander_leaveGroup s _ _) _ _)).trans (bystander_modThr _ _ _)

theorem bystander_loseThread (s : State) (t : Nat) : Bystander s (s.loseThread t) := by
  unfold State.loseThread
  split
  · exact bystander_endSaved s t
  · exact (bystander_endThread s t).trans (Bystander.foldl (fun s _ => bystander_leaveGroup s _ _) _ _)

/-- A change of each core that its translations do not see. -/
theorem bystander_mapCores (s : State) {f : Nat × Core → Core} (hf : ∀ e, (f e).tlb = e.2.tlb) :
    Bystander s { s with cores := s.cores.map fun e => (e.1, f e) } :=
  ⟨⟨rfl, rfl, rfl, fun _ => rfl⟩, rfl, fun ck => AMap.get_map_proj hf Core.init s.cores ck⟩

/-- A change of each die that leaves it online or offline. -/
theorem bystander_mapDies (s : State) {f : Die → Die} (hf : ∀ d, (f d).online = d.online) : Bystander s (s.mapDies f) :=
  ⟨⟨rfl, rfl, rfl, fun d => AMap.get_map_proj (fun e => hf e.2) Die.init s.dies d⟩, rfl, fun _ => rfl⟩

/-! ## Launches that stop (R290, R305) -/

theorem bystander_setLstate (s : State) (lid st : Nat) : Bystander s (s.setLstate lid st) := by
  unfold State.setLstate State.modRecs
  exact bystander_mapDies s (by intro _; rfl)

theorem bystander_stopLaunch (n : Nat) (s : State) (lid : Nat) : Bystander s (stopLaunch n s lid) := by
  induction n generalizing s lid with
  | zero => exact bystander_setLstate s lid lqStopped
  | succ n ih =>
    exact (bystander_setLstate s lid lqStopped).trans
      (Bystander.foldl (fun s d => (bystander_post s _).trans (ih _ d)) _ _)

theorem bystander_stopQueued (s : State) (die : Nat) : Bystander s (s.stopQueued die) := by
  unfold State.stopQueued
  refine Bystander.foldl (fun s lid => ?_) _ s
  split
  · exact bystander_stopLaunch _ s lid
  · exact .refl s

/-! ## Copies (R284, R287) -/

theorem bystander_wakeReaders (s : State) (ck w : Nat) (y : Word) : Bystander s (s.wakeReaders ck w y) := by
  unfold State.wakeReaders
  refine Bystander.foldl (fun s c => ?_) _ s
  dsimp only
  split
  · split
    · exact bystander_modThr s _ _
    · split
      · exact bystander_modThr s _ _
      · exact .refl s
  · exact .refl s

theorem bystander_arriveWord (s : State) (ck w : Nat) (y : Word) : Bystander s (s.arriveWord ck w y) := by
  unfold State.arriveWord
  split
  · exact (bystander_modCor s _ (by intro _; rfl)).trans (bystander_wakeReaders _ _ _ _)
  · unfold State.deliverTake
    split
    · exact .refl s
    · exact (bystander_modCor s _ (by intro _; rfl)).trans (bystander_modThr _ _ _)

theorem bystander_l1Forget (s : State) (ck line : Nat) : Bystander s (s.l1Forget ck line) :=
  bystander_modCor s ck fun c => by
    split
    · split <;> rfl
    · rfl

theorem bystander_copyWord (s : State) (c : Copy) : Bystander s (s.copyWord c) := by
  unfold State.copyWord
  dsimp only
  have h : Bystander s ((s.filterEnter c.nextPa (pieceAt c.pieces (8 * c.written)).2).noteRequest (coreOf c.thread)
      (homeDie c.nextPa) none) := (memAside_filterEnter s 0 _ _).bystander.trans (bystander_noteRequest _ _ _ _ _ _)
  refine h.trans ?_
  split
  · exact (bystander_l1Forget _ _ _).trans (bystander_arriveWord _ _ _ _)
  · exact ⟨⟨rfl, rfl, rfl, fun _ => rfl⟩, rfl, fun _ => rfl⟩

theorem bystander_copyWords (n : Nat) (s : State) (c : Copy) : Bystander s (s.copyWords c n).1 := by
  induction n generalizing s c with
  | zero => exact .refl s
  | succ n ih =>
    rw [State.copyWords]
    split
    · exact (bystander_copyWord s c).trans (ih _ _)
    · exact .refl s

theorem bystander_beforeCopy (s : State) (c : Copy) : Bystander s (s.beforeCopy c) := by
  unfold State.beforeCopy
  dsimp only
  refine Bystander.trans ?_ (memAside_wtDrain _ _).bystander
  split
  · exact .refl s
  · refine Bystander.foldl (fun s p => Bystander.foldl (fun s i => ?_) _ s) _ s
    split
    · exact (memAside_l1Clean s _ _).bystander
    · exact .refl s

theorem bystander_endCopy (s : State) (c : Copy) (status pa : Nat) : Bystander s (s.endCopy c status pa) := by
  unfold State.endCopy
  dsimp only
  split
  · exact (bystander_post s _).trans (bystander_modCor _ _ (by intro _; rfl))
  · exact bystander_post s _

theorem bystander_settleCopy (s : State) (c : Copy) (pa n : Nat) : Bystander s (s.settleCopy c pa n).1 := by
  unfold State.settleCopy
  split
  · exact .refl s
  · split
    · exact bystander_endCopy s _ _ _
    · dsimp only
      have h : Bystander s (s.draw.2.beforeCopy c) := (memAside_draw 0 s).bystander.trans (bystander_beforeCopy _ c)
      have hw := bystander_copyWords (Config.copiedPart s.draw.1 % (c.len / 8 - c.written + 1)) (s.draw.2.beforeCopy c) c
      revert hw
      generalize (s.draw.2.beforeCopy c).copyWords c (Config.copiedPart s.draw.1 % (c.len / 8 - c.written + 1)) = r
      intro hw
      split
      · exact (h.trans hw).trans (bystander_endCopy _ _ _ _)
      · split
        · exact h.trans hw
        · exact (h.trans hw).trans (bystander_endCopy _ _ _ _)

theorem bystander_settleQueue (l : List Copy) (s : State) (pa n : Nat) : Bystander s (s.settleQueue pa n l).1 := by
  induction l generalizing s with
  | nil => exact .refl s
  | cons c r ih =>
    rw [State.settleQueue]
    exact (bystander_settleCopy s c pa n).trans (ih _)

theorem bystander_settleCopies (s : State) (pa n : Nat) : Bystander s (s.settleCopies pa n) := by
  unfold State.settleCopies
  refine Bystander.foldl (fun s die => Bystander.foldl (fun s u => ?_) _ s) _ s
  dsimp only
  refine ((bystander_settleQueue _ s pa n).trans (bystander_modDie _ die fun d => ?_)).trans (bystander_wakeWhere _ _)
  split <;> rfl

/-! ## Pins and lines (R286) -/

theorem bystander_unpinNotices (s : State) (ck pa n : Nat) (c : Core) : Bystander s (s.unpinNotices ck pa n c) :=
  Bystander.foldl (fun s _ => bystander_post s _) _ s

theorem bystander_unpinRange (s : State) (pa n : Nat) : Bystander s (s.unpinRange pa n) := by
  have h1 : Bystander s (s.cores.foldl (fun s e => s.unpinNotices e.1 pa n e.2) s) :=
    .foldl (fun s e => bystander_unpinNotices s _ _ _ _) _ s
  have h2 : ∀ u : State, Bystander u (u.launches.foldl (fun s l =>
      l.2.images.foldl (fun s e => s.unpinNotices (65536 * l.1 + e.1) pa n e.2) s) u) := fun u =>
    .foldl (fun s l => .foldl (fun s e => bystander_unpinNotices s _ _ _ _) _ s) _ u
  have h3 : ∀ (u : State) (l : AMap Launch),
      Bystander u { u with cores := u.cores.map (fun e => (e.1, e.2.unpin pa n)), launches := l } := fun u l =>
    (bystander_mapCores u (f := fun e => e.2.unpin pa n) fun _ => rfl).trans ⟨⟨rfl, rfl, rfl, fun _ => rfl⟩, rfl, fun _ => rfl⟩
  exact (h1.trans (h2 _)).trans (h3 _ _)

theorem bystander_flushPage (s : State) (ck pa n : Nat) : Bystander s (s.flushPage ck pa n) := by
  unfold State.flushPage
  dsimp only
  exact ((Bystander.foldl (fun s l => (memAside_l1Clean s ck l).bystander) _ s).trans (memAside_wtDrain _ ck).bystander).trans
    (bystander_modCor _ _ (by intro _; rfl))

end Sys2Proof.Machine
end

section
/-! PROOFS. The package's events: clocks, stacks, links, pages, dies that fail, start-up (R196, R286, R297, R305 to R307, R321,
R322, R365, R367, R371). -/

namespace Sys2Proof.Machine

/-! ## Clocks (R309, R321, R322, R371) -/

theorem settling_beginRelock (d : Die) (tick : Nat) : (d.beginRelock tick).settling = d.settling := by
  unfold Die.beginRelock
  split
  · split <;> rfl
  · rfl

theorem clock_beginRelock (d : Die) (tick : Nat) : ∃ t, (d.beginRelock tick).clock = { d.clock with t0 := t } := by
  unfold Die.beginRelock
  split
  · split
    · exact ⟨_, rfl⟩
    · exact ⟨d.clock.t0, rfl⟩
  · exact ⟨d.clock.t0, rfl⟩

theorem cycle_beginRelock (d : Die) (tick : Nat) : (d.beginRelock tick).cycle = d.cycle := by
  unfold Die.beginRelock
  split
  · split <;> rfl
  · rfl

/-- A relock towards a higher clock begins at once. -/
theorem t0_beginRelock {d : Die} {m tick : Nat} (hn : d.clock.next = some m) (hm : d.clock.m < m) (ht : d.clock.t0 = none) :
    (d.beginRelock tick).clock.t0 = some tick := by
  unfold Die.beginRelock
  rw [hn]
  dsimp only
  rw [if_pos (by rw [ht, decide_eq_true hm]; rfl)]

theorem foldl_startSettle (l : List Nat) (d : Die) :
    l.foldl (fun d q => d.startSettle q) d = { d with settling := l.foldl (fun m q => m.set q (d.quarter q)) d.settling } := by
  induction l generalizing d with
  | nil => rfl
  | cons q r ih => rw [List.foldl_cons, ih]; rfl

theorem get_foldl_set {f : Nat → List Nat} (l : List Nat) (m : AMap (List Nat)) {q : Nat} (hq : q ∈ l) :
    (l.foldl (fun m q => AMap.set m q (f q)) m).get [] q = f q := by
  induction l using List.reverseRecOn generalizing q with
  | nil => exact absurd hq List.not_mem_nil
  | append_singleton r x ih =>
    rw [List.foldl_append, List.foldl_cons, List.foldl_nil]
    by_cases h : q = x
    · rw [h, AMap.get_set_same]
    · rw [AMap.get_set_other _ _ _ h]
      exact ih ((List.mem_append.1 hq).resolve_right (by simpa using h))

/-- A die that steps towards an m: it is its next one, towards a lower clock its beam settles, towards a higher one it relocks. -/
theorem stepTo_begins {d : Die} {tick m : Nat} (hn : d.clock.next = none) (hm : m ≠ d.clock.m) :
    (d.stepTo tick m).clock.next = some m ∧
      (m < d.clock.m → ∀ q, q < 4 → (d.stepTo tick m).settling.get [] q = d.quarter q) ∧
      (d.clock.m < m → d.clock.t0 = none → (d.stepTo tick m).clock.t0 = some tick) := by
  unfold Die.stepTo
  rw [if_neg (by rw [Clock.busy, hn, Bool.or_eq_true, beq_iff_eq]; exact fun h => h.elim (fun h => (nomatch h)) hm)]
  dsimp only
  refine ⟨?_, fun hlt q hq => ?_, fun hlt ht => ?_⟩
  · obtain ⟨t, ht⟩ := clock_beginRelock { (if m < d.clock.m then (List.range 4).foldl (fun d q => d.startSettle q) d else d) with
      clock := { (if m < d.clock.m then (List.range 4).foldl (fun d q => d.startSettle q) d else d).clock with next := some m } } tick
    rw [ht]
  · rw [settling_beginRelock, if_pos hlt, foldl_startSettle]
    exact get_foldl_set _ _ (List.mem_range.2 hq)
  · rw [if_neg (by omega)]
    exact t0_beginRelock rfl hlt ht

/-- What a step towards another clock leaves of the rest. -/
theorem stepTo_keeps (d : Die) (tick m : Nat) : (d.stepTo tick m).clock.m = d.clock.m ∧ (d.stepTo tick m).clock.hot = d.clock.hot ∧
    (d.stepTo tick m).clock.target = d.clock.target ∧ (d.stepTo tick m).cycle = d.cycle := by
  unfold Die.stepTo
  split
  · exact ⟨rfl, rfl, rfl, rfl⟩
  · dsimp only
    rw [cycle_beginRelock]
    have hs : (if m < d.clock.m then (List.range 4).foldl (fun d q => d.startSettle q) d else d).clock = d.clock ∧
        (if m < d.clock.m then (List.range 4).foldl (fun d q => d.startSettle q) d else d).cycle = d.cycle := by
      split
      · rw [foldl_startSettle]; exact ⟨rfl, rfl⟩
      · exact ⟨rfl, rfl⟩
    generalize (if m < d.clock.m then (List.range 4).foldl (fun d q => d.startSettle q) d else d) = e at hs
    obtain ⟨h1, h2⟩ := hs
    obtain ⟨t, ht⟩ := clock_beginRelock { e with clock := { e.clock with next := some m } } tick
    rw [ht, h1]
    exact ⟨rfl, rfl, rfl, h2⟩

section
variable {s : State} {die : Nat}

theorem dclkTargetWrite_sets {v : Word} (h8 : 8 ≤ v.toNat / 2 ^ 8 % 32) (h19 : v.toNat / 2 ^ 8 % 32 ≤ 19)
    (hn : (s.die die).clock.next = none) :
    ∃ t, exec (.dclkTargetWrite die v) s = .next t ∧ (t.die die).clock.target = v.toNat / 2 ^ 8 % 32 ∧
      t.mem = s.mem ∧ t.threads = s.threads ∧
      ((s.die die).clock.hot = false → v.toNat / 2 ^ 8 % 32 ≠ (s.die die).clock.m →
        (t.die die).clock.next = some (v.toNat / 2 ^ 8 % 32) ∧
        (v.toNat / 2 ^ 8 % 32 < (s.die die).clock.m → ∀ q, q < 4 → (t.die die).settling.get [] q = (s.die die).quarter q) ∧
        ((s.die die).clock.m < v.toNat / 2 ^ 8 % 32 → (s.die die).clock.t0 = none →
          (t.die die).clock.t0 = some s.tick)) := by
  have hw : (s.die die).writeDclk s.tick v.toNat =
      ({ s.die die with clock := { (s.die die).clock with target := v.toNat / 2 ^ 8 % 32 } } : Die).steer s.tick := by
    unfold Die.writeDclk
    rw [if_neg (by simp [Clock.busy, hn]; omega)]
  refine ⟨_, rfl, ?_, rfl, rfl, fun hhot hm => ?_⟩ <;> rw [die_modDie_same, hw]
  · rw [target_steer]
  · unfold Die.steer
    rw [show (({ s.die die with clock := { (s.die die).clock with target := v.toNat / 2 ^ 8 % 32 } } : Die).clock.goal) =
      v.toNat / 2 ^ 8 % 32 from if_neg (by rw [hhot]; decide)]
    exact stepTo_begins hn hm

theorem dclkTargetWrite_ignored {v : Word}
    (h : v.toNat / 2 ^ 8 % 32 < 8 ∨ 19 < v.toNat / 2 ^ 8 % 32 ∨ (s.die die).clock.next ≠ none) :
    ∃ t, exec (.dclkTargetWrite die v) s = .next t ∧ t.die die = s.die die := by
  refine ⟨_, rfl, ?_⟩
  rw [die_modDie_same]
  unfold Die.writeDclk
  refine if_pos ?_
  rw [Bool.or_eq_true, Bool.or_eq_true, decide_eq_true_iff, decide_eq_true_iff, Clock.busy, Option.isSome_iff_ne_none]
  obtain h | h | h := h
  · exact .inl (.inr h)
  · exact .inr h
  · exact .inl (.inl h)

/-- A waiting thread that a test selects is woken. -/
theorem thr_wakeWhere_wakes {p : Nat → WaitKind → Bool} {t : Nat} {w : Wait} (hst : (s.thr t).st = .waiting)
    (hw : (s.thr t).wait = some w) (hp : p t w.kind = true) : (s.wakeWhere p).thr t = (s.thr t).wake := by
  have hmap := AMap.get_map (fun k (x : Thread) =>
    if x.st = .waiting ∧ (x.wait.map fun w => p k w.kind) = some true then x.wake else x) (threadInit t) s.threads t
  have hinit : (threadInit t).st ≠ .waiting := by unfold threadInit; split <;> exact nofun
  rw [if_neg fun e => hinit e.1] at hmap
  refine Eq.trans ?_ (hmap.trans (if_pos ⟨hst, ?_⟩))
  · refine congrArg (fun m => AMap.get (threadInit t) m t) (List.map_congr_left fun e _ => ?_)
    split <;> rfl
  · change ((s.thr t).wait.map fun w => p t w.kind) = some true
    rw [hw, Option.map_some, hp]

/-- The waits that the end of a die's relock ends. -/
def relockWait (die : Nat) (k : WaitKind) : Bool :=
  match k with
  | .relock d _ => d == die
  | _ => false

theorem clockRelockEnd_ends {m t0 : Nat} (hn : (s.die die).clock.next = some m) (ht : (s.die die).clock.t0 = some t0) :
    ∃ t, exec (.clockRelockEnd die) s = .next t ∧ (t.die die).clock.m = m ∧
      (t.die die).cycle = (s.die die).cycle + m * (s.tick - t0) / 10 ∧
      ∀ u w x, (s.thr u).st = .waiting → (s.thr u).wait = some w → w.kind = .relock die x → Woken t u ∧
        (t.thr u).pc = (s.thr u).pc ∧ (t.thr u).g = (s.thr u).g := by
  obtain ⟨hm, -, -, hc⟩ := stepTo_keeps ((s.die die).relocked m (s.tick - t0)) s.tick
    ((s.die die).relocked m (s.tick - t0)).clock.goal
  have hdie : (s.modDie die fun d => (d.relocked m (s.tick - t0)).steer s.tick).die die =
      ((s.die die).relocked m (s.tick - t0)).steer s.tick := die_modDie_same s die _
  have he : exec (.clockRelockEnd die) s =
      .next ((s.modDie die fun d => (d.relocked m (s.tick - t0)).steer s.tick).wakeWhere fun _ => relockWait die) := by
    rw [exec, execClockRelockEnd, hn, ht]
    rfl
  have hthr : ∀ u, (s.modDie die fun d => (d.relocked m (s.tick - t0)).steer s.tick).thr u = s.thr u := fun _ => rfl
  generalize s.modDie die (fun d => (d.relocked m (s.tick - t0)).steer s.tick) = v at hdie he hthr
  refine ⟨_, he, (congrArg (·.clock.m) hdie).trans hm, (congrArg (·.cycle) hdie).trans hc, fun u w x hst hw hk => ?_⟩
  rw [← hthr u] at hst hw
  rw [Woken, thr_wakeWhere_wakes hst hw (by rw [hk]; exact beq_self_eq_true die), ← hthr u]
  exact ⟨⟨rfl, rfl, rfl⟩, rfl, rfl⟩

/-- A die that is hot, or is not. -/
def heated (d : Die) (hot : Bool) : Die := { d with clock := { d.clock with hot := hot } }

theorem thermalStepDown_result : ∃ t, exec (.thermalStepDown die) s = .next t ∧ (t.die die).clock.hot = true ∧
    ((s.die die).clock.next = none → (s.die die).clock.m ≠ 8 → (t.die die).clock.next = some 8) := by
  refine ⟨_, rfl, ?_, fun hn hm => ?_⟩ <;> rw [die_modDie_same, Die.steer]
  · exact (stepTo_keeps _ _ _).2.1
  · exact (stepTo_begins (d := heated (s.die die) true) hn hm.symm).1

theorem thermalRecovery_result : ∃ t, exec (.thermalRecovery die) s = .next t ∧ (t.die die).clock.hot = false ∧
    ((s.die die).clock.next = none → (s.die die).clock.m ≠ (s.die die).clock.target →
      (t.die die).clock.next = some (s.die die).clock.target) := by
  refine ⟨_, rfl, ?_, fun hn hm => ?_⟩ <;> rw [die_modDie_same, Die.steer]
  · exact (stepTo_keeps _ _ _).2.1
  · exact (stepTo_begins (d := heated (s.die die) false) hn hm.symm).1

/-! ## Stacks (R297, R313) -/

variable {stack rate : Nat}

theorem stack_modStack (f : HbmStack → HbmStack) (h : stack < (s.die die).hbm.length) :
    ((s.modStack die stack f).die die).stack stack = f ((s.die die).stack stack) := by
  rw [State.modStack, die_modDie_same, Die.stack]
  dsimp only
  rw [List.getD_eq_getElem?_getD, List.getElem?_set_self h]
  rfl

theorem mayRetrain_iff : s.mayRetrain die stack = true ↔
    ∀ x, ((s.die die).stack (1 - stack)).asked = some x → x + 2000000 ≤ s.tick := by
  rw [State.mayRetrain, Option.all_eq_true]
  exact forall₂_congr fun x _ => decide_eq_true_iff

theorem exec_hbmRetrainRequest (h2 : stack < 2) (h3 : rate < 3)
    (hsp : ∀ x, ((s.die die).stack (1 - stack)).asked = some x → x + 2000000 ≤ s.tick) :
    exec (.hbmRetrainRequest die stack rate) s = .next (s.retrain die stack rate) :=
  congrArg Host.Outcome.next (if_neg (by rw [mayRetrain_iff.2 hsp]; simp; omega))

theorem hbmRetrainRequest_none (h : 3 ≤ rate ∨ ¬ ∀ x, ((s.die die).stack (1 - stack)).asked = some x → x + 2000000 ≤ s.tick) :
    exec (.hbmRetrainRequest die stack rate) s = .next s := by
  refine congrArg Host.Outcome.next (if_pos ?_)
  obtain h | h := h
  · exact .inr (.inl h)
  · rw [← mayRetrain_iff, Bool.not_eq_true] at h
    exact .inr (.inr (by rw [h]; rfl))

theorem hbmRetrainRequest_begins (h2 : stack < 2) (h3 : rate < 3) (hl : stack < (s.die die).hbm.length)
    (hsp : ∀ x, ((s.die die).stack (1 - stack)).asked = some x → x + 2000000 ≤ s.tick) (hs : s.savesTo die stack = false) :
    ∃ t, exec (.hbmRetrainRequest die stack rate) s = .next t ∧
      ((t.die die).stack stack).target = some rate ∧ ((t.die die).stack stack).asked = some s.tick := by
  refine ⟨_, exec_hbmRetrainRequest h2 h3 hsp, ?_⟩
  rw [State.retrain, stack_modStack _ hl, hs, if_neg Bool.false_ne_true]
  exact ⟨rfl, rfl⟩

theorem hbmRetrainRequest_deferred (h2 : stack < 2) (h3 : rate < 3) (hl : stack < (s.die die).hbm.length)
    (hsp : ∀ x, ((s.die die).stack (1 - stack)).asked = some x → x + 2000000 ≤ s.tick) (hs : s.savesTo die stack = true) :
    ∃ t, exec (.hbmRetrainRequest die stack rate) s = .next t ∧ ((t.die die).stack stack).asked = some s.tick ∧
      ((t.die die).stack stack).target = ((s.die die).stack stack).target ∧
      (((s.die die).stack stack).deferred = none → ((t.die die).stack stack).deferred = some (rate, s.tick)) ∧
      ∀ r x, ((s.die die).stack stack).deferred = some (r, x) → ((t.die die).stack stack).deferred = some (rate, x) := by
  refine ⟨_, exec_hbmRetrainRequest h2 h3 hsp, ?_⟩
  rw [State.retrain, stack_modStack _ hl, hs, if_pos rfl]
  exact ⟨rfl, rfl, fun h => by rw [h]; rfl, fun r x h => by rw [h]; rfl⟩

theorem exec_hbmRetrainEnd (h2 : stack < 2) (ok : Bool) : exec (.hbmRetrainEnd die stack ok) s =
    .next (s.modStack die stack fun h => match h.target with
      | some r => if ok then { h with rate := r, target := none } else { h with target := none, failed := true }
      | none => h) := if_neg (by omega)

theorem hbmRetrainEnd_result {r : Nat} (h2 : stack < 2) (hl : stack < (s.die die).hbm.length)
    (hr : ((s.die die).stack stack).target = some r) :
    (∃ t, exec (.hbmRetrainEnd die stack true) s = .next t ∧ ((t.die die).stack stack).rate = r ∧
      ((t.die die).stack stack).target = none) ∧
    (∃ t, exec (.hbmRetrainEnd die stack false) s = .next t ∧ ((t.die die).stack stack).failed = true) := by
  refine ⟨⟨_, exec_hbmRetrainEnd h2 true, ?_⟩, ⟨_, exec_hbmRetrainEnd h2 false, ?_⟩⟩ <;>
    rw [stack_modStack _ hl, hr]
  · exact ⟨rfl, rfl⟩
  · rfl

theorem retrainDeferralExpiry_begins {r x : Nat} (hl : stack < (s.die die).hbm.length)
    (hd : ((s.die die).stack stack).deferred = some (r, x)) (ho : s.deferralOver die stack = true) :
    ∃ t, exec (.retrainDeferralExpiry die stack) s = .next t ∧ ((t.die die).stack stack).target = some r := by
  refine ⟨_, congrArg Host.Outcome.next (if_pos ho), ?_⟩
  rw [stack_modStack (s := s.moveSaves die stack) _ hl]
  change (HbmStack.startDeferred ((s.die die).stack stack)).target = some r
  rw [HbmStack.startDeferred, hd]

theorem AMap.get_of_find {α : Type} {d x : α} {m : AMap α} {i : Nat} (h : AMap.find m i = some x) : AMap.get d m i = x := by
  induction m with
  | nil => exact nomatch h
  | cons e r ih =>
    by_cases hi : i = e.1
    · simpa [AMap.get, AMap.find, hi] using h
    · simp only [AMap.get, AMap.find, if_neg hi] at h ⊢
      exact ih h

theorem launches_startDeferred (s : State) : s.startDeferred.launches = s.launches := by
  have h : ∀ (l : List Nat) (u : State), (l.foldl (fun s k =>
      if ((s.die (k / 2)).stack (k % 2)).deferred.isSome && !s.savesTo (k / 2) (k % 2) then
        s.modStack (k / 2) (k % 2) HbmStack.startDeferred else s) u).launches = u.launches := fun l => by
    induction l with
    | nil => exact fun _ => rfl
    | cons k r ih => intro u; rw [List.foldl_cons, ih]; split <;> rfl
  exact h _ s

theorem hbmPhyError_moves {l : Nat} {x : Launch} (h2 : stack < 2) (hx : s.launches.find l = some x)
    (hst : s.lstate l = lqSaving) (hs : x.saveStack.find die = some stack) :
    ∃ t, exec (.hbmPhyError die stack) s = .next t ∧ (t.launchOf l).saveStack.find die = some (3 - stack) := by
  refine ⟨(s.moveSaves die stack).startDeferred, congrArg Host.Outcome.next (if_pos h2), ?_⟩
  have hmap := AMap.find_map (fun k (x : Launch) =>
    if s.lstate k == lqSaving && (x.saveStack.find die).map (· % 2) == some stack then
      { x with saveStack := x.saveStack.set die (3 - stack) } else x) s.launches l
  rw [hx, Option.map_some, if_pos (by rw [hst, hs]; simp; omega)] at hmap
  have hmoved : (s.moveSaves die stack).launches.find l = some { x with saveStack := x.saveStack.set die (3 - stack) } := by
    rw [← hmap]
    refine congrArg (fun m => AMap.find m l) (List.map_congr_left fun e _ => ?_)
    split <;> rfl
  rw [State.launchOf, launches_startDeferred, AMap.get_of_find hmoved]
  exact AMap.find_set_same _ _ _

end

/-! ## Links and ports (R306, R307, R315, R356) -/

theorem links_foldl_postService (f : Nat → List Word) (l : List Nat) (s : State) :
    (l.foldl (fun s d => s.postService (f d)) s).links = s.links := by
  induction l generalizing s with
  | nil => rfl
  | cons d r ih => exact ih _

theorem linkRetrainFailure_result (s : State) (link : Nat) :
    ∃ t, exec (.linkRetrainFailure link) s = .next t ∧ t.links = s.links.filter (· != link) :=
  ⟨_, rfl, links_foldl_postService (reportWords repUnreached) _ _⟩

/-! ## A page unmapped (R286) -/

theorem cores_foldl {α : Type} {f : State → α → State} (h : ∀ s a, (f s a).cores = s.cores) (l : List α) (s : State) :
    (l.foldl f s).cores = s.cores := by
  induction l generalizing s with
  | nil => rfl
  | cons a r ih => exact (ih _).trans (h s a)

theorem cores_dropFoots (s : State) (asid pa n : Nat) : (s.dropFoots asid pa n).cores = s.cores := by
  unfold State.dropFoots
  split
  · rfl
  · dsimp only
    rw [cores_foldl (by intro _ _; rfl)]

theorem cores_writeLeaf (s : State) (l : LeafAt) (e : Word) : (s.writeLeaf l e).cores = s.cores := by
  unfold State.writeLeaf
  dsimp only
  rw [cores_foldl (by intro _ _; rfl)]

/-- A core that drops its translation of a page. -/
def dropPageTlb (asid base : Nat) (c : Core) : Core :=
  if c.asid = asid then { c with tlb := c.tlb.filter (·.va != base) } else c

theorem cor_dropTlb (s : State) {asid : Nat} (base ck : Nat) (h : asid ≠ 0) :
    (s.dropTlb asid base).cor ck = dropPageTlb asid base (s.cor ck) := by
  have hmap := AMap.get_map (fun _ => dropPageTlb asid base) Core.init s.cores ck
  rw [show dropPageTlb asid base Core.init = Core.init from if_neg (Ne.symm h)] at hmap
  refine Eq.trans (congrArg (fun m => AMap.get Core.init m ck) (List.map_congr_left fun e _ => ?_)) hmap
  unfold dropPageTlb
  split <;> rfl

/-- No core of the address space has a translation of a page that has been unmapped. -/
theorem tlb_unmapPage {s : State} {asid va : Nat} {l : LeafAt} (h : asid ≠ 0) {ck : Nat} (hck : (s.cor ck).asid = asid) :
    ∀ e ∈ ((s.unmapPage asid va l).cor ck).tlb, e.va ≠ va - va % pageBytes (pteSize l.pte) := by
  unfold State.unmapPage
  dsimp only
  generalize hu : (s.writeLeaf l (l.pte &&& ~~~ 1#64)).dropTlb asid (va - va % pageBytes (pteSize l.pte)) = u
  have hcor : (u.cor ck).tlb = (s.cor ck).tlb.filter (·.va != va - va % pageBytes (pteSize l.pte)) := by
    rw [← hu, cor_dropTlb _ _ _ h, State.cor, cores_writeLeaf]
    exact congrArg Core.tlb (if_pos hck)
  have hb := (((Bystander.foldl (fun s ck => bystander_flushPage s ck (ptePa l.pte) (pageBytes (pteSize l.pte)))
    (u.spaceCores asid) u).trans (bystander_unpinRange _ (ptePa l.pte) (pageBytes (pteSize l.pte)))).trans
    (bystander_settleCopies _ (ptePa l.pte) (pageBytes (pteSize l.pte)))).trans
    (bystander_revokeBytes _ asid (va - va % pageBytes (pteSize l.pte)) (pageBytes (pteSize l.pte)))
  rw [hb.tlb ck, hcor]
  intro e he
  exact bne_iff_ne.1 (List.mem_filter.1 he).2

theorem cor_freePages (s : State) (p : Nat → Bool) (ck : Nat) : (s.freePages p).cor ck = s.cor ck := rfl

theorem used_freePages (s : State) (p : Nat → Bool) : (s.freePages p).used = s.used.filter fun u => !p u.1 := rfl

theorem unmapMigrate_unmaps {s : State} {asid : Nat} {va : Word} {sp : Space} {l : LeafAt} (hsp : s.spaces.find asid = some sp)
    (hl : findLeaf s.mem va.toNat 4 sp.root = some l) (h : asid ≠ 0) :
    ∃ t, exec (.unmapMigrate asid va none) s = .next t ∧ (∀ u ∈ t.used, u.1 ≠ ptePa l.pte) ∧
      ∀ ck, (s.cor ck).asid = asid → ∀ e ∈ (t.cor ck).tlb, e.va ≠ va.toNat - va.toNat % pageBytes (pteSize l.pte) := by
  generalize hu : (if pteKind l.pte = kKeyed then s.dropFoots asid (ptePa l.pte) (pageBytes (pteSize l.pte)) else s) = u
  have hcor : ∀ ck, u.cor ck = s.cor ck := fun ck => by
    rw [← hu, State.cor]
    split
    · rw [cores_dropFoots]; rfl
    · rfl
  have he : exec (.unmapMigrate asid va none) s = .next ((u.unmapPage asid va.toNat l).freePages (· == ptePa l.pte)) := by
    rw [exec, execUnmapMigrate, hsp]
    dsimp only
    rw [hl]
    dsimp only
    rw [hu]
  refine ⟨_, he, fun x hx => ?_, fun ck hck => ?_⟩
  swap
  · rw [cor_freePages]
    exact tlb_unmapPage (s := u) (asid := asid) (va := va.toNat) (l := l) h ((congrArg Core.asid (hcor ck)).trans hck)
  rw [used_freePages] at hx
  have hp := (List.mem_filter.1 hx).2
  rw [Bool.not_eq_true'] at hp
  exact ne_of_beq_false hp

/-! ## A die that fails (R196, R305, R365) -/

/-- What is kept but for new footings of regions. -/
structure RegionsKept (s t : State) : Prop extends PkgKept s t where
  regions : ∀ asid sp, s.spaces.find asid = some sp → ∃ sp', t.spaces.find asid = some sp' ∧ sp'.regions = sp.regions

theorem RegionsKept.refl (s : State) : RegionsKept s s := ⟨.refl s, fun _ sp h => ⟨sp, h, rfl⟩⟩

theorem RegionsKept.trans {s t u : State} (h : RegionsKept s t) (k : RegionsKept t u) : RegionsKept s u :=
  ⟨h.toPkgKept.trans k.toPkgKept, fun asid sp hsp => by
    obtain ⟨sp', h1, h2⟩ := h.regions asid sp hsp
    obtain ⟨sp'', h3, h4⟩ := k.regions asid sp' h1
    exact ⟨sp'', h3, h4.trans h2⟩⟩

theorem RegionsKept.foldl {α : Type} {f : State → α → State} (h : ∀ s a, RegionsKept s (f s a)) (l : List α) (s : State) :
    RegionsKept s (l.foldl f s) := by
  induction l generalizing s with
  | nil => exact .refl s
  | cons a r ih => exact (h s a).trans (ih _)

theorem Bystander.regionsKept {s t : State} (h : Bystander s t) : RegionsKept s t :=
  ⟨h.toPkgKept, fun _ sp hsp => ⟨sp, by rw [h.spaces]; exact hsp, rfl⟩⟩

theorem bystander_allocPage (s : State) (p n : Nat) : Bystander s (s.allocPage p n).2 := by
  unfold State.allocPage
  dsimp only
  split <;> exact ⟨⟨rfl, rfl, rfl, fun _ => rfl⟩, rfl, fun _ => rfl⟩

theorem bystander_homeWrite (s : State) (pa : Nat) (bs : List Byte) : Bystander s (s.homeWrite pa bs) :=
  ⟨⟨rfl, rfl, rfl, fun _ => rfl⟩, rfl, fun _ => rfl⟩

theorem bystander_mapLeaf (k : Nat) {s t : State} {die va level : Nat} {leaf : Word} {table : Nat}
    (h : s.mapLeaf die va level leaf k table = some t) : Bystander s t := by
  induction k generalizing s table with
  | zero =>
    rw [State.mapLeaf] at h
    rw [← Option.some.inj h]
    exact Bystander.foldl (fun s _ => bystander_homeWrite s _ _) _ s
  | succ k ih =>
    rw [State.mapLeaf] at h
    split at h
    · exact ih h
    · have ha := bystander_allocPage s die 4096
      revert ha h
      generalize s.allocPage die 4096 = r
      intro h ha
      split at h
      · exact (ha.trans (bystander_homeWrite _ _ _)).trans (ih h)
      · exact nomatch h

theorem bystander_mapFoot (n : Nat) {s t : State} {root die va b c : Nat} (h : s.mapFoot root die va b c n = some t) :
    Bystander s t := by
  induction n generalizing s va b with
  | zero => rw [← Option.some.inj h]; exact .refl s
  | succ n ih =>
    rw [State.mapFoot] at h
    split at h
    · next hm => exact (bystander_mapLeaf _ hm).trans (ih h)
    · exact nomatch h

/-- The footing of a region entered in its address space. -/
def State.withFoot (s : State) (asid : Nat) (sp : Space) (k b : Nat) : State :=
  { s with spaces := s.spaces.set asid { sp with foots := sp.foots.set k b } }

theorem regionsKept_withFoot {s : State} {asid : Nat} {sp : Space} (h : s.spaces.find asid = some sp) (k b : Nat) :
    RegionsKept s (s.withFoot asid sp k b) := by
  refine ⟨⟨rfl, rfl, rfl, fun _ => rfl⟩, fun a sp' hsp' => ?_⟩
  unfold State.withFoot
  by_cases hk : a = asid
  · subst hk
    refine ⟨_, AMap.find_set_same _ _ _, ?_⟩
    rw [h] at hsp'
    rw [← Option.some.inj hsp']
  · exact ⟨sp', (AMap.find_set_other _ _ hk).trans hsp', rfl⟩

theorem regionsKept_addFootPages {s t : State} {asid region die n c : Nat}
    (h : s.addFootPages asid region die n c = some t) : RegionsKept s t := by
  unfold State.addFootPages at h
  split at h
  · exact nomatch h
  · next sp hsp =>
    split at h
    · rw [← Option.some.inj h]; exact .refl s
    · have ha := bystander_allocPage s die (n * pageBytes c)
      split at h
      · exact nomatch h
      · next hu =>
        rw [hu] at ha
        split at h
        · exact nomatch h
        · next v hv =>
          have hb := ha.trans (bystander_mapFoot n hv)
          rw [← Option.some.inj h]
          exact hb.regionsKept.trans (regionsKept_withFoot (by rw [hb.spaces]; exact hsp) _ _)

theorem regionsKept_addFoot {s t : State} {asid region die cap : Nat} (h : s.addFoot asid region die cap = some t) :
    RegionsKept s t :=
  regionsKept_addFootPages (addFoot_eq s asid region die cap ▸ h)

theorem regionsKept_moveFoots (s : State) : RegionsKept s s.moveFoots := by
  unfold State.moveFoots
  refine RegionsKept.foldl (fun s e => RegionsKept.foldl (fun s r => RegionsKept.foldl (fun s d => ?_) _ s) _ s) _ s
  cases h : s.addFoot e.1 r.1 d r.2.cap with
  | none => exact .refl s
  | some t => exact regionsKept_addFoot h

theorem bystander_losePeers (s : State) (die : Nat) : Bystander s (s.losePeers die) := by
  unfold State.losePeers
  exact ⟨⟨rfl, rfl, rfl, fun _ => rfl⟩, rfl,
    fun ck => AMap.get_map_proj (f := fun e => { e.2 with outq := e.2.outq.filter fun q => groupDie q.gid != die })
      (fun _ => rfl) Core.init s.cores ck⟩

/-- The contexts of a die end: its online dies, its events, its ports and its address spaces stay. -/
theorem kept_loseContexts (s : State) (die : Nat) : PkgKept s (s.loseContexts die) ∧ (s.loseContexts die).spaces = s.spaces := by
  unfold State.loseContexts
  extract_lets u v
  have hu : PkgKept s u ∧ u.spaces = s.spaces := ⟨⟨rfl, rfl, rfl, fun _ => rfl⟩, rfl⟩
  have hv : Bystander u v := (Bystander.foldl (fun s t => bystander_loseThread s t) _ u).trans
    ⟨⟨rfl, rfl, rfl, fun _ => rfl⟩, rfl, fun _ => rfl⟩
  exact ⟨(hu.1.trans hv.toPkgKept).trans ⟨rfl, rfl, rfl, fun _ => rfl⟩, hv.spaces.trans hu.2⟩

/-- A region with the damage bit of a die, if it is among its dies (R196). -/
def damagedRegion (die : Nat) (r : Region) : Region :=
  if r.dies.contains die && !r.dmg.contains die then { r with dmg := die :: r.dmg } else r

theorem mem_dmg_damagedRegion {die : Nat} {r : Region} (h : die ∈ r.dies) : die ∈ (damagedRegion die r).dmg := by
  unfold damagedRegion
  split
  · exact List.mem_cons_self
  · next hn =>
    rw [Bool.and_eq_true, Bool.not_eq_true', List.contains_iff_mem, not_and, Bool.not_eq_false, List.contains_iff_mem] at hn
    exact hn h

theorem spaces_damage {s : State} {die asid k : Nat} {sp : Space} {r : Region} (hsp : s.spaces.find asid = some sp)
    (hr : sp.regions.find k = some r) (h : die ∈ r.dies) :
    ∃ sp' r', (s.damage die).spaces.find asid = some sp' ∧ sp'.regions.find k = some r' ∧ die ∈ r'.dmg := by
  refine ⟨_, _, (AMap.find_map (fun _ (x : Space) => { x with regions := x.regions.map fun r => (r.1, damagedRegion die r.2) })
    s.spaces asid).trans (by rw [hsp]; rfl), ?_, mem_dmg_damagedRegion h⟩
  exact (AMap.find_map (fun _ => damagedRegion die) sp.regions k).trans (by rw [hr]; rfl)

/-- A die marked offline. -/
theorem markOffline_result {s : State} {die : Nat} (hd : die < 12) (ho : (s.die die).online = true) :
    ((s.markOffline die).die die).online = false ∧ (s.markOffline die).events = s.events ++ [die] ∧
      (s.markOffline die).ports = s.ports.filter (fun p => portDie p != die) ∧
      (s.markOffline die).cxlUp = s.cxlUp.filter (fun p => cxlDie p != die) ∧
      ∀ asid sp k r, s.spaces.find asid = some sp → sp.regions.find k = some r → die ∈ r.dies →
        ∃ sp' r', (s.markOffline die).spaces.find asid = some sp' ∧ sp'.regions.find k = some r' ∧ die ∈ r'.dmg := by
  unfold State.markOffline
  rw [if_neg (by rw [ho]; simp; omega)]
  extract_lets waiting u v
  obtain ⟨hc, hcs⟩ := kept_loseContexts (s.modDie die fun d => { d with online := false }) die
  have hu1 : u.events = s.events ∧ u.ports = s.ports ∧ u.cxlUp = s.cxlUp ∧ u.spaces = s.spaces :=
    ⟨hc.events, hc.ports, hc.cxlUp, hcs⟩
  have hu2 : (u.die die).online = false := by
    change (((s.modDie die _).loseContexts die).modDie die Die.lost |>.die die).online = false
    rw [die_modDie_same]; rfl
  clear_value u
  obtain ⟨hev, hpo, hcx, hsp⟩ := hu1
  have hv : RegionsKept (u.damage die) v := (((bystander_losePeers _ die).trans (bystander_stopQueued _ die)).regionsKept.trans
    (regionsKept_moveFoots _)).trans (bystander_wakeHome _).regionsKept
  clear_value v
  refine ⟨(hv.online die).trans hu2, ?_, ?_, ?_, fun asid sp k r hf hr hm => ?_⟩
  · change v.events ++ [die] = _
    rw [hv.events]; exact congrArg (· ++ [die]) hev
  · change v.ports.filter _ = _
    rw [hv.ports]; exact congrArg _ hpo
  · change v.cxlUp.filter _ = _
    rw [hv.cxlUp]; exact congrArg _ hcx
  · obtain ⟨sp1, r1, h1, h2, h3⟩ := spaces_damage (s := u) (by rw [hsp]; exact hf) hr hm
    obtain ⟨sp2, h4, h5⟩ := hv.regions asid sp1 h1
    exact ⟨sp2, r1, h4, by rw [h5]; exact h2, h3⟩

/-! ## Start-up (R367, R368) -/

theorem measureAll_image {r : StartReport} {i : Nat} (hi : i < 5) {d : BitVec 384} (h : r.images.getD i none = some d) :
    (measureAll r).getD i 0 = Config.sha384 (List.replicate 48 0 ++ beBytes d.toNat 48) := by
  have hlt : i < (List.range 5).length := by rw [List.length_range]; exact hi
  unfold measureAll
  rw [List.getD_append _ _ _ _ (by rw [List.length_map]; exact hlt), List.getD_eq_getElem _ _ (by rw [List.length_map]; exact hlt),
    List.getElem_map, List.getElem_range, h]
  rfl

/-- Settles O56: each event by its definition; a die that fails and a page that is unmapped by what they leave alone. -/
theorem packageEvents : Obligations.PackageEvents := by
  unfold Obligations.PackageEvents
  intro s die stack rate
  refine ⟨fun v => ⟨dclkTargetWrite_sets, dclkTargetWrite_ignored⟩, fun m t0 => clockRelockEnd_ends,
    fun h => hbmRetrainRequest_none (.inl h), thermalStepDown_result, thermalRecovery_result,
    fun h2 hl => ⟨⟨fun hsp hs h3 => hbmRetrainRequest_begins h2 h3 hl hsp hs,
        fun hsp hs h3 => hbmRetrainRequest_deferred h2 h3 hl hsp hs, fun h => hbmRetrainRequest_none (.inr h)⟩,
      fun r => hbmRetrainEnd_result h2 hl, fun r x => retrainDeferralExpiry_begins hl, fun l x => hbmPhyError_moves h2⟩,
    linkRetrainFailure_result s die, ⟨_, rfl, rfl⟩, ⟨_, rfl, rfl⟩, fun asid va sp l => unmapMigrate_unmaps,
    fun i hi hd ho => ?_, fun r => ⟨fun h => ?_, fun h => ?_⟩⟩
  · obtain rfl | rfl | rfl := hi <;> exact ⟨_, rfl, markOffline_result hd ho⟩
  · exact ⟨_, congrArg Host.Outcome.next (if_pos h), rfl, rfl, rfl, rfl, rfl, rfl, rfl, rfl, fun i hi d => measureAll_image hi⟩
  · exact ⟨_, congrArg Host.Outcome.next (if_neg (by rw [h]; decide)), rfl, rfl, rfl, fun i hi d => measureAll_image hi⟩

end Sys2Proof.Machine
end

section
/-! PROOFS. Groups at their home: the waiters of a phase that completes, and a group changed by an arrival or a drop. -/

namespace Sys2Proof.Machine

/-! ## The order of the contexts -/

/-- The contexts of `t` are in order where those of `s` are. -/
def ThreadsInOrder (s t : State) : Prop := AMap.sorted s.threads = true → AMap.sorted t.threads = true

theorem ThreadsInOrder.trans {s t u : State} (h : ThreadsInOrder s t) (k : ThreadsInOrder t u) : ThreadsInOrder s u :=
  fun hs => k (h hs)

theorem threadsInOrder_of_eq {s t : State} (h : t.threads = s.threads) : ThreadsInOrder s t := fun hs => by rw [h]; exact hs

theorem threadsInOrder_modThr (s : State) (t : Nat) (f : Thread → Thread) : ThreadsInOrder s (s.modThr t f) :=
  fun h => AMap.sorted_set _ _ _ h

theorem threadsInOrder_noteRequest (s : State) (ck die : Nat) (r : Option Word) (off n : Nat) :
    ThreadsInOrder s (s.noteRequest ck die r off n) := by
  unfold State.noteRequest State.ask
  split
  · exact threadsInOrder_of_eq rfl
  · dsimp only
    split
    · exact fun h => AMap.sorted_set _ _ _ h
    · exact threadsInOrder_of_eq rfl

theorem threadsInOrder_wtPerform (s : State) (ck : Nat) (e : WtEntry) : ThreadsInOrder s (s.wtPerform ck e) := by
  unfold State.wtPerform
  split
  · exact fun hs => threadsInOrder_noteRequest _ _ _ _ _ _ hs
  · exact fun hs => threadsInOrder_noteRequest _ _ _ _ _ _ hs

theorem threadsInOrder_wtDrainOne (s : State) (ck : Nat) : ThreadsInOrder s (s.wtDrainOne ck) := by
  unfold State.wtDrainOne
  split
  · exact threadsInOrder_of_eq rfl
  · split <;> exact fun hs => threadsInOrder_wtPerform _ _ _ hs

theorem threadsInOrder_wtDrainAll (ck n : Nat) (s : State) : ThreadsInOrder s (s.wtDrainAll ck n) := by
  induction n generalizing s with
  | zero => exact threadsInOrder_of_eq rfl
  | succ n ih => exact (threadsInOrder_wtDrainOne s ck).trans (ih _)

theorem threadsInOrder_l1Clean (s : State) (ck line : Nat) : ThreadsInOrder s (s.l1Clean ck line) := by
  unfold State.l1Clean State.wtPush
  split
  · exact threadsInOrder_of_eq rfl
  · split
    · exact threadsInOrder_of_eq rfl
    · dsimp only
      split
      · exact fun hs => threadsInOrder_wtDrainOne _ ck hs
      · exact threadsInOrder_of_eq rfl

theorem threadsInOrder_l1Release (s : State) (ck : Nat) : ThreadsInOrder s (s.l1Release ck) := by
  have h : ∀ (ls : List Nat) (s : State), ThreadsInOrder s (ls.foldl (fun s l => s.l1Clean ck l) s) := fun ls => by
    induction ls with
    | nil => exact fun s => threadsInOrder_of_eq rfl
    | cons l r ih => exact fun s => (threadsInOrder_l1Clean s ck l).trans (ih _)
  exact (h _ s).trans (threadsInOrder_wtDrainAll _ _ _)

/-! ## A waiter of a phase that completes (R299, R300, R323) -/

/-- A thread has DONE in `d`, its other registers kept: it goes on, or where it is on another die than the group's home its answer
is on its way. -/
structure HasDone (x y : Thread) (d : Reg) (near : Prop) : Prop where
  rg : y.rg d = 0
  other : ∀ k, k ≠ d → y.rg k = x.rg k
  goesOn : near → y.st = .ready
  crosses : ¬ near → y.st = .waiting ∧ ∃ n, y.wait.map (·.kind) = some (.crossing n)

theorem HasDone.asked {x y : Thread} {d : Reg} {near : Prop} {l l' : List Ask}
    (h : HasDone { x with asked := l } y d near) : HasDone x { y with asked := l' } d near := ⟨h.rg, h.other, h.goesOn, h.crosses⟩

/-- A thread whose answer has set out over a link with a value in one register. -/
structure Crosses (x y : Thread) (d : Reg) (v : Word) : Prop where
  rg : y.rg d = if d = 0 then 0 else v
  other : ∀ k, k ≠ d → y.rg k = x.rg k
  next : NextWord x y
  st : y.st = .waiting
  wait : ∃ n, y.wait.map (·.kind) = some (.crossing n)

/-- A step of a core's memory side keeps every thread but for the list of what it has asked. -/
theorem MemAside.thr_asked {ck : Nat} {s t : State} (h : MemAside ck s t) (u : Nat) : ∃ l, t.thr u = { s.thr u with asked := l } := by
  by_cases hc : u = s.cur
  · rw [hc]; exact h.th
  · exact ⟨_, h.others u hc⟩

theorem thr_crossBack_same (s : State) (t die : Nat) (d : Reg) (v : Word) : Crosses (s.thr t) ((s.crossBack t die d v).thr t) d v := by
  obtain ⟨l, hl⟩ := (memAside_noteRequest s (coreOf t) die (some v) 0 8).thr_asked t
  have h := ended_retireReply (x := s.thr t) (y := { s.thr t with asked := l }) ⟨rfl, rfl, rfl, rfl, rfl, rfl⟩ d v s.tick
  rw [State.crossBack, thr_modThr_same, hl]
  exact ⟨h.rg, h.other, h.next, rfl, _, rfl⟩

theorem thr_crossBack_other (s : State) {t u : Nat} (die : Nat) (d : Reg) (v : Word) (h : u ≠ t) :
    ∃ l, (s.crossBack t die d v).thr u = { s.thr u with asked := l } := by
  rw [State.crossBack, thr_modThr_other _ _ h]
  exact (memAside_noteRequest s (coreOf t) die (some v) 0 8).thr_asked u

theorem groups_crossBack (s : State) (t die : Nat) (d : Reg) (v : Word) : (s.crossBack t die d v).groups = s.groups := by
  change (s.noteRequest (coreOf t) die (some v)).groups = _
  rw [(memAside_noteRequest s (coreOf t) die (some v) 0 8).rest]

theorem threadsInOrder_crossBack (s : State) (t die : Nat) (d : Reg) (v : Word) : ThreadsInOrder s (s.crossBack t die d v) :=
  (threadsInOrder_noteRequest s _ _ _ _ _).trans (threadsInOrder_modThr _ _ _)

/-! ## A phase that completes (R299) -/

/-- From a state to another each of some waiters of a group has DONE, and no other thread has changed but for what it has
asked. -/
structure Released (g : Nat) (ws : List (Nat × Reg × Bool)) (s t : State) : Prop where
  groups : t.groups = s.groups
  cur : t.cur = s.cur
  done : ∀ w ∈ ws, HasDone (s.thr w.1) (t.thr w.1) w.2.1 (coreDie (coreOf w.1) = groupDie g)
  others : ∀ u, u ∉ ws.map (·.1) → ∃ l, t.thr u = { s.thr u with asked := l }

theorem released_phaseDone (s : State) (g : Nat) (w : Nat × Reg × Bool) : Released g [w] s (s.phaseDone w.1 g w.2.1 w.2.2) := by
  obtain ⟨t, d, wide⟩ := w
  have ha : MemAside (coreOf t) s (if wide then s.l1Acquire (coreOf t) else s) := by
    split
    · exact memAside_l1Acquire s _
    · exact .refl _ s
  unfold State.phaseDone
  dsimp only
  generalize (if wide then s.l1Acquire (coreOf t) else s) = u at ha
  obtain ⟨l, hl⟩ := ha.thr_asked t
  split
  next hn =>
    have h := ended_endWait (x := s.thr t) (y := u.thr t) (by rw [hl]; exact ⟨rfl, rfl, rfl, rfl, rfl, rfl⟩) d stDone
    refine ⟨Eq.trans (b := u.groups) rfl (by rw [ha.rest]), ha.cur, ?_, fun v hv => ?_⟩
    · rw [List.forall_mem_singleton, thr_modThr_same]
      exact ⟨h.rg.trans (ite_self _), h.other, fun _ => rfl, fun h => absurd hn h⟩
    · rw [thr_modThr_other _ _ (by simpa using hv)]
      exact ha.thr_asked v
  next hn =>
    have h := thr_crossBack_same u t (groupDie g) d stDone
    refine ⟨by rw [groups_crossBack, ha.rest], ?_, ?_, fun v hv => ?_⟩
    · exact (memAside_noteRequest u _ _ _ _ _).cur.trans ha.cur
    · rw [List.forall_mem_singleton]
      exact ⟨h.rg.trans (ite_self _), fun k hk => (h.other k hk).trans (by rw [hl]; rfl), fun h => absurd h hn,
        fun _ => ⟨h.st, h.wait⟩⟩
    · obtain ⟨m, hm⟩ := thr_crossBack_other u (groupDie g) d stDone (show v ≠ t by simpa using hv)
      obtain ⟨l', hl'⟩ := ha.thr_asked v
      exact ⟨m, by rw [hm, hl']⟩

theorem Released.cons {g : Nat} {w : Nat × Reg × Bool} {r : List (Nat × Reg × Bool)} {s t u : State} (h : Released g [w] s t)
    (k : Released g r t u) (hw : w.1 ∉ r.map (·.1)) : Released g (w :: r) s u where
  groups := k.groups.trans h.groups
  cur := k.cur.trans h.cur
  done x hx := by
    obtain rfl | hx := List.mem_cons.1 hx
    · obtain ⟨l, hl⟩ := k.others x.1 hw
      rw [hl]
      exact HasDone.asked (h.done x (List.mem_singleton_self x))
    · have hne : x.1 ∉ [w].map (·.1) := fun hm =>
        hw (by rw [← show x.1 = w.1 from List.mem_singleton.1 hm]; exact List.mem_map_of_mem hx)
      obtain ⟨l, hl⟩ := h.others x.1 hne
      have hd := k.done x hx
      rw [hl] at hd
      exact hd.asked
  others v hv := by
    rw [List.map_cons, List.mem_cons, not_or] at hv
    obtain ⟨l, hl⟩ := h.others v (by simpa using hv.1)
    obtain ⟨m, hm⟩ := k.others v hv.2
    exact ⟨m, by rw [hm, hl]⟩

theorem released_foldl (g : Nat) {ws : List (Nat × Reg × Bool)} (h : (ws.map (·.1)).Nodup) (s : State) :
    Released g ws s (ws.foldl (fun s w => s.phaseDone w.1 g w.2.1 w.2.2) s) := by
  induction ws generalizing s with
  | nil => exact ⟨rfl, rfl, fun _ hw => (nomatch hw), fun _ _ => ⟨_, rfl⟩⟩
  | cons w r ih =>
    rw [List.map_cons, List.nodup_cons] at h
    exact (released_phaseDone s g w).cons (ih h.2 _) h.1

theorem AMap.nodup_keys {α : Type} {m : AMap α} (h : AMap.sorted m = true) : (m.map (·.1)).Nodup := by
  induction m with
  | nil => exact List.nodup_nil
  | cons e r ih =>
    obtain ⟨k, v⟩ := e
    obtain ⟨ha, hr⟩ := (AMap.sorted_cons k v r).1 h
    rw [List.map_cons, List.nodup_cons]
    refine ⟨fun hm => ?_, ih hr⟩
    obtain ⟨e, he, rfl⟩ := List.mem_map.1 hm
    exact absurd (ha e he) (Nat.lt_irrefl _)

theorem AMap.get_of_find_none {α : Type} {d : α} {m : AMap α} {i : Nat} (h : AMap.find m i = none) : AMap.get d m i = d := by
  induction m with
  | nil => rfl
  | cons e r ih =>
    obtain ⟨k, v⟩ := e
    rw [AMap.find] at h
    rw [AMap.get]
    split at h
    · cases h
    next hk => rw [if_neg hk, ih h]

/-- A thread waits on a phase of a group. -/
def Thread.inPhase (x : Thread) (g : Nat) (d : Reg) (wide : Bool) : Prop :=
  x.st = .waiting ∧ ∃ w p, x.wait = some w ∧ w.kind = .phase g p wide ∧ w.d = d

/-- What one context gives the list of a phase's waiters. -/
def phaseWaiter (g : Nat) (e : Nat × Thread) : Option (Nat × Reg × Bool) :=
  match e.2.st, e.2.wait with
  | .waiting, some w => match w.kind with
    | .phase g' _ wide => if g' = g then some (e.1, w.d, wide) else none
    | _ => none
  | _, _ => none

theorem phaseWaiter_iff {g : Nat} {e : Nat × Thread} {w : Nat × Reg × Bool} :
    phaseWaiter g e = some w ↔ w.1 = e.1 ∧ e.2.inPhase g w.2.1 w.2.2 := by
  obtain ⟨k, x⟩ := e
  obtain ⟨u, d, wide⟩ := w
  unfold phaseWaiter Thread.inPhase
  dsimp only
  constructor
  · intro h
    split at h
    next w hst hw =>
      split at h
      next g' p wide' hk =>
        split at h
        next hg =>
          obtain ⟨rfl, rfl, rfl⟩ := by simpa using h
          exact ⟨rfl, hst, w, p, hw, by rw [hk, hg], rfl⟩
        · cases h
      · cases h
    · cases h
  · rintro ⟨rfl, hst, w, p, hw, hk, rfl⟩
    simp [hst, hw, hk]

theorem phaseWaiters_eq (s : State) (g : Nat) : s.phaseWaiters g = s.threads.filterMap (phaseWaiter g) := rfl

/-- The contexts in the list of a phase's waiters stand there in the order of the contexts. -/
theorem nodup_phaseWaiters {s : State} (g : Nat) (h : AMap.sorted s.threads = true) : ((s.phaseWaiters g).map (·.1)).Nodup := by
  have hsub : ∀ l : List (Nat × Thread), ((l.filterMap (phaseWaiter g)).map (·.1)).Sublist (l.map (·.1)) := by
    intro l
    induction l with
    | nil => exact .slnil
    | cons e r ih =>
      cases he : phaseWaiter g e with
      | none => rw [List.filterMap_cons_none he]; exact ih.cons _
      | some w =>
        rw [List.filterMap_cons_some he, List.map_cons, List.map_cons, (phaseWaiter_iff.1 he).1]
        exact ih.cons_cons _
  exact (hsub s.threads).nodup (AMap.nodup_keys h)

theorem mem_phaseWaiters {s : State} {g : Nat} (h : AMap.sorted s.threads = true) {w : Nat × Reg × Bool} :
    w ∈ s.phaseWaiters g ↔ (s.thr w.1).inPhase g w.2.1 w.2.2 := by
  rw [phaseWaiters_eq, List.mem_filterMap]
  constructor
  · rintro ⟨e, he, hw⟩
    obtain ⟨hk, hp⟩ := phaseWaiter_iff.1 hw
    rw [hk, State.thr, AMap.get_of_find (AMap.find_of_mem h he)]
    exact hp
  · intro hp
    cases hf : s.threads.find w.1 with
    | none =>
      have hd : s.thr w.1 = threadInit w.1 := AMap.get_of_find_none hf
      rw [hd] at hp
      exact absurd hp.1 (by unfold threadInit; split <;> decide)
    | some x =>
      refine ⟨(w.1, x), AMap.mem_of_find hf, phaseWaiter_iff.2 ⟨rfl, ?_⟩⟩
      rw [State.thr, AMap.get_of_find hf] at hp
      exact hp

/-- A group is in its table as it is after its phase. -/
structure GroupSet (g : Nat) (r : Group × Bool) (s t : State) : Prop where
  find : t.groups.find g = some r.1
  cur : t.cur = s.cur
  done : r.2 = true → WaitersDone s t g
  others : ∀ u, (∀ d wide, ¬ (s.thr u).inPhase g d wide) → ∃ l, t.thr u = { s.thr u with asked := l }

theorem groupSet_setGroup {s : State} (g : Nat) (r : Group × Bool) (h : AMap.sorted s.threads = true) :
    GroupSet g r s (s.setGroup g r) := by
  unfold State.setGroup
  dsimp only
  have hfind : ({ s with groups := s.groups.set g r.1 } : State).groups.find g = some r.1 := AMap.find_set_same _ _ _
  have hs : AMap.sorted ({ s with groups := s.groups.set g r.1 } : State).threads = true := h
  have hthr : ∀ u, ({ s with groups := s.groups.set g r.1 } : State).thr u = s.thr u := fun _ => rfl
  have hcur : ({ s with groups := s.groups.set g r.1 } : State).cur = s.cur := rfl
  generalize ({ s with groups := s.groups.set g r.1 } : State) = u at hfind hs hthr hcur
  split
  next hr =>
    have hrel := released_foldl g (nodup_phaseWaiters g hs) u
    refine ⟨by rw [hrel.groups, hfind], hrel.cur.trans hcur, fun _ v w p wide hst hw hk => ?_, fun v hv => ?_⟩
    · have hd := hrel.done (v, w.d, wide) ((mem_phaseWaiters hs).2 (by rw [hthr]; exact ⟨hst, w, p, hw, hk, rfl⟩))
      rw [hthr] at hd
      refine ⟨hd.rg, hd.other, ?_⟩
      split
      next hn => exact hd.goesOn hn
      next hn => exact hd.crosses hn
    · rw [← hthr]
      refine hrel.others v fun hm => ?_
      obtain ⟨w, hw, rfl⟩ := List.mem_map.1 hm
      exact hv w.2.1 w.2.2 (by rw [← hthr]; exact (mem_phaseWaiters hs).1 hw)
  next hr => exact ⟨hfind, hcur, fun h => absurd h hr, fun v _ => ⟨_, hthr v⟩⟩

theorem WaitersDone.mono {s t u : State} {g : Nat} (h : WaitersDone t u g)
    (k : ∀ v d wide, (s.thr v).inPhase g d wide → ∃ l, t.thr v = { s.thr v with asked := l }) : WaitersDone s u g := by
  intro v w p wide hst hw hk
  obtain ⟨l, hl⟩ := k v w.d wide ⟨hst, w, p, hw, hk, rfl⟩
  have hv := h v w p wide (by rw [hl]; exact hst) (by rw [hl]; exact hw) hk
  rw [hl] at hv
  exact hv

/-! ## Arrivals and drops at the group's home (R299, R300) -/

section
variable {s : State} {y : Group} {t g m : Nat}

theorem groupReply_arrives {r : Group × Bool} (hy : s.groups.find g = some y) (hm : y.memberOf t = some m)
    (hr : y.arrive m = some r) : s.groupReply t g true = .ok (BitVec.ofNat 64 (y.c * 256), r) := by
  simp only [State.groupReply, State.grp, hy, hm, hr, if_true]

theorem groupReply_over (hy : s.groups.find g = some y) (hm : y.memberOf t = some m) (hr : y.arrive m = none) :
    s.groupReply t g true = .error (.trap { cause := cOverArrival, info := BitVec.ofNat 64 (g + y.c * 2 ^ 16) }) := by
  simp only [State.groupReply, State.grp, hy, hm, hr, if_true]

theorem groupReply_drops (hy : s.groups.find g = some y) (hm : y.memberOf t = some m) :
    s.groupReply t g false = .ok (BitVec.ofNat 64 (y.c * 256), y.leave m true) := by
  simp only [State.groupReply, State.grp, hy, hm]
  rfl

theorem groupReply_stranger (arrives : Bool) (hy : s.groups.find g = some y) (hm : y.memberOf t = none) :
    s.groupReply t g arrives = .error (.trap { cause := cNotMember, info := BitVec.ofNat 64 g }) := by
  simp only [State.groupReply, State.grp, hy, hm]

end

section
variable {s : State} {d : Reg} {g : Nat} {arrives : Bool}

theorem groupForm_lost (h : (s.die (groupDie g)).online = false) : s.groupForm d g arrives = s.pureG d stPeerLost :=
  if_pos (by rw [h]; rfl)

theorem groupForm_own {v : Word} {r : Group × Bool} (h : (s.die (groupDie g)).online = true) (hd : groupDie g = coreDie s.ck)
    (hr : s.groupReply s.cur g arrives = .ok (v, r)) :
    s.groupForm d g arrives = (s.replyG d v).setGroupOf s.cur g arrives r := by
  rw [State.groupForm, if_neg (by rw [h]; decide), if_pos hd, hr]

theorem groupForm_traps {tr : Trap} (h : (s.die (groupDie g)).online = true) (hd : groupDie g = coreDie s.ck)
    (hr : s.groupReply s.cur g arrives = .error (.trap tr)) : s.groupForm d g arrives = s.trapNow tr := by
  rw [State.groupForm, if_neg (by rw [h]; decide), if_pos hd, hr]

theorem groupForm_far (h : (s.die (groupDie g)).online = true) (hd : groupDie g ≠ coreDie s.ck) : s.groupForm d g arrives =
    (s.sendGroup s.cur g (if arrives then .arrive else .drop)).modTh fun t => t.block s.tick .waiting .groupReq d 15 := by
  rw [State.groupForm, if_neg (by rw [h]; decide), if_neg hd]

end

/-- A drop clears the thread's register of the group. -/
theorem not_mem_clearGroup (t : Thread) (g : Nat) : g ∉ (t.clearGroup g).groups := by
  unfold Thread.groups Thread.clearGroup
  intro hm
  simp only [List.mem_map, List.mem_filter, Vector.toList_map] at hm
  obtain ⟨k, ⟨⟨j, -, hj⟩, hk⟩, hg⟩ := hm
  split at hj
  next hb =>
    rw [← hj, bitAt_eq_testBit, ← BitVec.getLsbD, BitVec.getLsbD_and] at hk
    simp at hk
  next hb =>
    refine hb ?_
    rw [hj, hk, hg]
    simp

theorem MemAside.groups {ck : Nat} {s t : State} (h : MemAside ck s t) : t.groups = s.groups := by rw [h.rest]

theorem MemAside.online {ck : Nat} {s t : State} (h : MemAside ck s t) (d : Nat) : (t.die d).online = (s.die d).online := by
  obtain ⟨r, f, hd⟩ := h.dies d
  rw [hd]

theorem Keeps.asked {gs vs : List Reg} {ms : List MReg} {x y : Thread} (h : Keeps gs vs ms x y) (l : List Ask) :
    Keeps gs vs ms x { y with asked := l } := ⟨h.g, h.v, h.m, h.saved, h.control, h.frame, h.bits, h.packet⟩

/-- What a form does after a release that is over, it does in a state that its core's memory side alone has reached. -/
theorem afterRel_goes {s : State} {x : Scope} (h : ReleaseOver s x) :
    ∃ u, MemAside s.ck s u ∧ ThreadsInOrder s u ∧ ∀ f, s.afterRel x f = f u := by
  by_cases hx : reachesOut x
  · by_cases hr : s.th.released = true
    · exact ⟨s, .refl _ s, id, fun f => afterRel_released s f hr⟩
    · have hn : NothingToPublish s x := (h.resolve_left (not_not.2 hx)).resolve_left hr
      exact ⟨_, memAside_l1Release s s.ck, threadsInOrder_l1Release s s.ck, fun f =>
        afterRel_over s f hx (Bool.not_eq_true _ ▸ hr) hn⟩
  · exact ⟨s, .refl _ s, id, fun f => afterRel_narrow s f hx⟩

/-- What a drop leaves of its thread's registers of groups. -/
def Thread.afterGroup (x : Thread) (g : Nat) (arrives : Bool) : Thread := if arrives then x else x.clearGroup g

theorem setGroupOf_eq (s : State) (t g : Nat) (arrives : Bool) (r : Group × Bool) :
    s.setGroupOf t g arrives r = (if arrives then s else s.modThr t (·.clearGroup g)).setGroup g r := rfl

/-- A group changed by a thread that waits on no phase of it. -/
theorem groupSet_setGroupOf {s u : State} {t g : Nat} {arrives : Bool} {r : Group × Bool} (hs : AMap.sorted u.threads = true)
    (ho : ∀ v, v ≠ t → ∃ l, u.thr v = { s.thr v with asked := l }) (ht : ∀ d wide, ¬ (s.thr t).inPhase g d wide)
    (hu : ∀ d wide, ¬ (u.thr t).inPhase g d wide) :
    (u.setGroupOf t g arrives r).groups.find g = some r.1 ∧ (u.setGroupOf t g arrives r).cur = u.cur ∧
      (∃ l, (u.setGroupOf t g arrives r).thr t = { (u.thr t).afterGroup g arrives with asked := l }) ∧
      (r.2 = true → WaitersDone s (u.setGroupOf t g arrives r) g) := by
  obtain ⟨u', hu', hs', hc', hthr, hoth⟩ : ∃ u' : State, u.setGroupOf t g arrives r = u'.setGroup g r ∧
      AMap.sorted u'.threads = true ∧
      u'.cur = u.cur ∧ u'.thr t = (u.thr t).afterGroup g arrives ∧ ∀ v, v ≠ t → u'.thr v = u.thr v := by
    rw [setGroupOf_eq]
    cases arrives with
    | true => exact ⟨u, rfl, hs, rfl, rfl, fun _ _ => rfl⟩
    | false =>
      exact ⟨u.modThr t (·.clearGroup g), rfl, AMap.sorted_set _ _ _ hs, rfl, thr_modThr_same _ _ _,
        fun v hv => thr_modThr_other _ _ hv⟩
  have hset := groupSet_setGroup g r hs'
  rw [hu']
  have hnot : ∀ d wide, ¬ (u'.thr t).inPhase g d wide := by
    rw [hthr, Thread.afterGroup]
    split <;> exact hu
  obtain ⟨l, hl⟩ := hset.others t hnot
  refine ⟨hset.find, hset.cur.trans hc', ⟨l, by rw [hl, hthr]⟩, fun hr => WaitersDone.mono (hset.done hr) fun v d wide hv => ?_⟩
  have hne : v ≠ t := fun h => ht d wide (h ▸ hv)
  rw [hoth v hne]
  exact ho v hne

theorem not_inPhase_of_st {x : Thread} (h : x.st = .ready) (g : Nat) (d : Reg) (wide : Bool) : ¬ x.inPhase g d wide :=
  fun hp => by
    have := hp.1
    rw [h] at this
    cases this

/-- A form on a group of the thread's own die has its effect. -/
theorem groupForm_answers {s u : State} {d : Reg} {g : Nat} {arrives : Bool} {v : Word} {r : Group × Bool}
    (hst : s.th.st = .ready) (hs : AMap.sorted u.threads = true) (hu : MemAside s.ck s u)
    (hon : (s.die (groupDie g)).online = true) (hd : groupDie g = coreDie s.ck) (hr : u.groupReply s.cur g arrives = .ok (v, r)) :
    (u.groupForm d g arrives).groups.find g = some r.1 ∧
      (∃ l, (u.groupForm d g arrives).th = { (u.replyG d v).th.afterGroup g arrives with asked := l }) ∧
      (r.2 = true → WaitersDone s (u.groupForm d g arrives) g) := by
  have he : u.groupForm d g arrives = (u.replyG d v).setGroupOf s.cur g arrives r := by
    rw [groupForm_own (by rw [hu.online]; exact hon) (by rw [hu.ck_eq]; exact hd) (by rw [hu.cur]; exact hr), hu.cur]
  have hg := hu.replyG d v
  have hcur : (u.replyG d v).cur = s.cur := hu.cur
  have hth : (u.replyG d v).thr s.cur = (u.replyG d v).th := by rw [State.th, hcur]
  obtain ⟨hf, hc, ⟨l, hl⟩, hw⟩ := groupSet_setGroupOf (s := s) (u := u.replyG d v) (t := s.cur) (g := g)
    (arrives := arrives) (r := r)
    (AMap.sorted_set _ _ _ hs) (fun v hv => ⟨_, hg.others v hv⟩) (not_inPhase_of_st hst g) (fun d' wide hp => by
      rw [hth, State.replyG, th_modTh] at hp
      obtain ⟨-, w, p, hw, hk, -⟩ := hp
      cases hw
      cases hk)
  rw [he]
  refine ⟨hf, ⟨l, ?_⟩, hw⟩
  rw [State.th, hc, hcur, hl, hth]

end Sys2Proof.Machine
end

section
/-! PROOFS. The forms of `grp` and `xpf`, group requests on their way, and the routing counters. -/

namespace Sys2Proof.Machine

/-! ## The forms of `grp` on the thread's own die -/

section
variable {s : State} {x : Scope} {e : BitVec 4} {d a b : Reg}

theorem heldGroup_ok (h : s.th.groups.contains (bitsAt (s.th.rg a) 0 12) = true) :
    s.heldGroup (s.th.rg a) = .ok (bitsAt (s.th.rg a) 0 12) := trapIf_pass (by rw [h]; rfl)

theorem heldGroup_bad {α : Type} {k : Nat → Except Stop α} (h : s.th.groups.contains (bitsAt (s.th.rg a) 0 12) = false) :
    (s.heldGroup (s.th.rg a)).bind k = .error (.trap ⟨cNotMember, BitVec.ofNat 64 (bitsAt (s.th.rg a) 0 12), 0⟩) := by
  have he : s.heldGroup (s.th.rg a) = _ := trapIf_stop (by rw [h]; rfl)
  rw [he]
  rfl

theorem exec_grpArrive (x : Scope) (d a : Reg) (s : State) : exec (.grpArrive x d a) s = finish s
    ((s.heldGroup (s.th.rg a)).bind fun g => .ok (s.afterRel x fun s => s.groupForm d g true)) := rfl

theorem exec_grpDrop (x : Scope) (d a : Reg) (s : State) : exec (.grpDrop x d a) s = finish s
    ((s.heldGroup (s.th.rg a)).bind fun g => .ok (s.afterRel x fun s => s.groupForm d g false)) := rfl

theorem grpArrive_held (h : s.th.groups.contains (bitsAt (s.th.rg a) 0 12) = true) : exec (.grpArrive x d a) s =
    .next (s.afterRel x fun s' => s'.groupForm d (bitsAt (s.th.rg a) 0 12) true) := by
  rw [exec_grpArrive, heldGroup_ok h]; rfl

theorem grpDrop_held (h : s.th.groups.contains (bitsAt (s.th.rg a) 0 12) = true) : exec (.grpDrop x d a) s =
    .next (s.afterRel x fun s' => s'.groupForm d (bitsAt (s.th.rg a) 0 12) false) := by
  rw [exec_grpDrop, heldGroup_ok h]; rfl

/-- An arrival or a drop that the group's home refuses traps. -/
theorem groupForm_refused {u : State} {g : Nat} {arrives : Bool} {tr : Trap} (hu : MemAside s.ck s u)
    (hon : (s.die (groupDie g)).online = true) (hd : groupDie g = coreDie s.ck)
    (hr : u.groupReply s.cur g arrives = .error (.trap tr)) :
    (u.groupForm d g arrives).th.st = .trapped ∧ (u.groupForm d g arrives).th.kcause = BitVec.ofNat 64 tr.cause ∧
      (u.groupForm d g arrives).th.kinfo = tr.info ∧ (u.groupForm d g arrives).th.pc = s.th.pc ∧
      (u.groupForm d g arrives).th.g = s.th.g ∧ (u.groupForm d g arrives).groups = s.groups := by
  rw [groupForm_traps (by rw [hu.online]; exact hon) (by rw [hu.ck_eq]; exact hd) (by rw [hu.cur]; exact hr)]
  have hth : (u.trapNow tr).th = { u.th.formOver with
      st := .trapped, kcause := BitVec.ofNat 64 tr.cause, kinfo := tr.info, kepc := u.th.pc } := by
    rw [State.th, show (u.trapNow tr).cur = u.cur from cur_postRecord u u.cur tr]
    exact thr_takeTrap_same u u.cur tr
  rw [hth]
  refine ⟨rfl, rfl, rfl, hu.pc, hu.regs.1, Eq.trans ?_ hu.groups⟩
  unfold State.trapNow State.takeTrap State.postRecord
  dsimp only
  split
  · rfl
  · split <;> rfl

end

section
variable {s : State} {x : Scope} {d a : Reg} {y : Group} {m : Nat}

theorem grpArrive_answers {r : Group × Bool} (hst : s.th.st = .ready) (hh : s.th.groups.contains (bitsAt (s.th.rg a) 0 12) = true)
    (hon : (s.die (groupDie (bitsAt (s.th.rg a) 0 12))).online = true) (hy : s.groups.find (bitsAt (s.th.rg a) 0 12) = some y)
    (hx : ReleaseOver s x) (hd : groupDie (bitsAt (s.th.rg a) 0 12) = coreDie s.ck) (hs : AMap.sorted s.threads = true)
    (hm : y.memberOf s.cur = some m) (hr : y.arrive m = some r) :
    ∃ t, exec (.grpArrive x d a) s = .next t ∧ t.groups.find (bitsAt (s.th.rg a) 0 12) = some r.1 ∧
      t.th.rg d = (if d = 0 then 0 else BitVec.ofNat 64 (y.c * 256)) ∧ Keeps [d] [] [] s.th t.th ∧ t.th.kstat = s.th.kstat ∧
      NextWord s.th t.th ∧ Completed t.th ∧ (r.2 = true → WaitersDone s t (bitsAt (s.th.rg a) 0 12)) := by
  obtain ⟨u, hu, ho, hf⟩ := afterRel_goes hx
  obtain ⟨hfind, ⟨l, hl⟩, hw⟩ := groupForm_answers (d := d) hst (ho hs) hu hon hd
    (groupReply_arrives (by rw [hu.groups]; exact hy) hm hr)
  have hg := hu.replyG d (BitVec.ofNat 64 (y.c * 256))
  refine ⟨_, by rw [grpArrive_held hh, hf], hfind, ?_, ?_, ?_, ?_, ?_, hw⟩ <;> rw [hl]
  exacts [hg.rg, hg.keeps.asked l, hg.kstat, hg.next, hg.completed]

theorem grpDrop_answers (hst : s.th.st = .ready) (hh : s.th.groups.contains (bitsAt (s.th.rg a) 0 12) = true)
    (hon : (s.die (groupDie (bitsAt (s.th.rg a) 0 12))).online = true) (hy : s.groups.find (bitsAt (s.th.rg a) 0 12) = some y)
    (hx : ReleaseOver s x) (hd : groupDie (bitsAt (s.th.rg a) 0 12) = coreDie s.ck) (hs : AMap.sorted s.threads = true)
    (hm : y.memberOf s.cur = some m) :
    ∃ t, exec (.grpDrop x d a) s = .next t ∧ t.groups.find (bitsAt (s.th.rg a) 0 12) = some (y.leave m true).1 ∧
      bitsAt (s.th.rg a) 0 12 ∉ t.th.groups ∧
      t.th.rg d = (if d = 0 then 0 else BitVec.ofNat 64 (y.c * 256)) ∧ (∀ r, r ≠ d → t.th.rg r = s.th.rg r) ∧
      t.th.v = s.th.v ∧ t.th.m = s.th.m ∧ t.th.kstat = s.th.kstat ∧ Completed t.th ∧
      ((y.leave m true).2 = true → WaitersDone s t (bitsAt (s.th.rg a) 0 12)) := by
  obtain ⟨u, hu, ho, hf⟩ := afterRel_goes hx
  obtain ⟨hfind, ⟨l, hl⟩, hw⟩ := groupForm_answers (d := d) hst (ho hs) hu hon hd
    (groupReply_drops (by rw [hu.groups]; exact hy) hm)
  have he : Ended s.th (u.replyG d (BitVec.ofNat 64 (y.c * 256))).th d (BitVec.ofNat 64 (y.c * 256)) := by
    rw [State.replyG, th_modTh]
    exact ended_retireReply hu.regsKept d _ _
  refine ⟨_, by rw [grpDrop_held hh, hf], hfind, ?_, ?_, ?_, ?_, ?_, ?_, ?_, hw⟩ <;> rw [hl]
  exacts [not_mem_clearGroup _ _, he.rg, he.other, he.v, he.m, he.kstat, he.completed]

end

/-! ## Refusals, groups of other dies, and lost ones -/

section
variable {s : State} {x : Scope} {e : BitVec 4} {d a b : Reg}

theorem grpArrive_over {y : Group} {m : Nat} (hh : s.th.groups.contains (bitsAt (s.th.rg a) 0 12) = true)
    (hon : (s.die (groupDie (bitsAt (s.th.rg a) 0 12))).online = true) (hy : s.groups.find (bitsAt (s.th.rg a) 0 12) = some y)
    (hx : ReleaseOver s x) (hd : groupDie (bitsAt (s.th.rg a) 0 12) = coreDie s.ck)
    (hm : y.memberOf s.cur = some m) (hr : y.arrive m = none) :
    ∃ t, exec (.grpArrive x d a) s = .next t ∧ t.th.st = .trapped ∧ t.th.kcause = 0x50 ∧
      t.th.kinfo = BitVec.ofNat 64 (bitsAt (s.th.rg a) 0 12 + y.c * 2 ^ 16) ∧ t.th.pc = s.th.pc ∧ t.th.g = s.th.g ∧
      t.groups = s.groups := by
  obtain ⟨u, hu, -, hf⟩ := afterRel_goes hx
  exact ⟨_, by rw [grpArrive_held hh, hf], groupForm_refused hu hon hd (groupReply_over (by rw [hu.groups]; exact hy) hm hr)⟩

theorem grp_stranger {y : Group} (hh : s.th.groups.contains (bitsAt (s.th.rg a) 0 12) = true)
    (hon : (s.die (groupDie (bitsAt (s.th.rg a) 0 12))).online = true) (hy : s.groups.find (bitsAt (s.th.rg a) 0 12) = some y)
    (hx : ReleaseOver s x) (hd : groupDie (bitsAt (s.th.rg a) 0 12) = coreDie s.ck)
    (hm : y.memberOf s.cur = none) {i : Instr} (hi : i = .grpArrive x d a ∨ i = .grpDrop x d a) :
    ∃ t, exec i s = .next t ∧ t.th.st = .trapped ∧ t.th.kcause = 0x51 ∧
      t.th.kinfo = BitVec.ofNat 64 (bitsAt (s.th.rg a) 0 12) ∧ t.th.pc = s.th.pc ∧ t.th.g = s.th.g ∧ t.groups = s.groups := by
  obtain ⟨u, hu, -, hf⟩ := afterRel_goes hx
  have hy' : u.groups.find (bitsAt (s.th.rg a) 0 12) = some y := by rw [hu.groups]; exact hy
  obtain rfl | rfl := hi
  · exact ⟨_, by rw [grpArrive_held hh, hf], groupForm_refused hu hon hd (groupReply_stranger true hy' hm)⟩
  · exact ⟨_, by rw [grpDrop_held hh, hf], groupForm_refused hu hon hd (groupReply_stranger false hy' hm)⟩

/-- A form on a group of another die is sent there. -/
theorem groupForm_sent {u : State} {g : Nat} {arrives : Bool} (hu : MemAside s.ck s u)
    (hon : (s.die (groupDie g)).online = true) (hd : groupDie g ≠ coreDie s.ck) :
    (u.groupForm d g arrives).th.st = .waiting ∧ (u.groupForm d g arrives).th.wait.map (·.kind) = some .groupReq ∧
      (u.groupForm d g arrives).th.pc = s.th.pc ∧ Keeps [] [] [] s.th (u.groupForm d g arrives).th ∧
      (u.groupForm d g arrives).groups = s.groups ∧
      (u.groupForm d g arrives).co.outq = s.co.outq ++
        [{ thread := s.cur, gid := g, op := if arrives then .arrive else .drop }] := by
  rw [groupForm_far (by rw [hu.online]; exact hon) (by rw [hu.ck_eq]; exact hd)]
  have hth : (u.sendGroup u.cur g (if arrives then .arrive else .drop)).th = u.th := rfl
  refine ⟨?_, ?_, ?_, ?_, hu.groups, ?_⟩
  · rw [th_modTh]; rfl
  · rw [th_modTh]; rfl
  · rw [th_modTh]; exact hu.pc
  · rw [th_modTh, hth]; exact hu.keeps.trans (block_keeps _ _ _ _ _ _).1
  · obtain ⟨l, q, n, hc⟩ := hu.core
    rw [co_modTh, State.co, State.sendGroup]
    change (State.cor (State.modCor _ u.ck _) u.ck).outq = _
    rw [cor_modCor_same, hu.cur, hu.ck_eq, hc]
    rfl

theorem grp_lost {i : Instr} {arrives : Bool} {g : Nat} (hon : (s.die (groupDie g)).online = false) (hx : ReleaseOver s x)
    (he : exec i s = .next (s.afterRel x fun s' => s'.groupForm d g arrives)) : ∃ t, exec i s = .next t ∧ EndsThread s t d 3 := by
  obtain ⟨u, hu, -, hf⟩ := afterRel_goes hx
  refine ⟨_, by rw [he, hf], ?_⟩
  rw [groupForm_lost (by rw [hu.online]; exact hon), endsThread_iff, State.pureG, State.pure, th_modTh]
  exact ended_retirePure hu.regsKept d _ _

/-! ## `grp.wait` and `grp.info` -/

theorem heldEntry_ok (h : s.th.groups.contains (bitsAt (s.th.rg a) 0 12) = true) : s.heldEntry (s.th.rg a) =
    .ok (bitsAt (s.th.rg a) 0 12, if (s.die (groupDie (bitsAt (s.th.rg a) 0 12))).online
      then some ((s.groups.find (bitsAt (s.th.rg a) 0 12)).getD (Group.empty 0)) else none) := by
  change (s.heldGroup (s.th.rg a)).bind _ = _
  rw [heldGroup_ok h]
  rfl

theorem heldEntry_bad {α : Type} {k : Nat × Option Group → Except Stop α}
    (h : s.th.groups.contains (bitsAt (s.th.rg a) 0 12) = false) :
    (s.heldEntry (s.th.rg a)).bind k = .error (.trap ⟨cNotMember, BitVec.ofNat 64 (bitsAt (s.th.rg a) 0 12), 0⟩) := by
  change ((s.heldGroup (s.th.rg a)).bind _).bind k = _
  rw [heldGroup_bad h]
  rfl

/-- What `grp.wait` does with the group it names. -/
def State.waitGroup (s : State) (x : Scope) (e : BitVec 4) (d : Reg) (p : Nat) (r : Nat × Option Group) : Except Stop State :=
  match r.2 with
  | none => .ok (s.pureG d stPeerLost)
  | some y =>
    if y.c ≠ p then .ok (((s.acqAct x).noteRequest s.ck (groupDie r.1) (some stDone)).pureG d stDone)
    else .ok (s.timed (.phase r.1 p (Scope.wide x)) d e stTimeout)

theorem exec_grpWait (x : Scope) (e : BitVec 4) (d a b : Reg) (s : State) : exec (.grpWait x e d a b) s =
    finish s ((s.heldEntry (s.th.rg a)).bind (s.waitGroup x e d (bitsAt (s.th.rg b) 0 16))) := rfl

/-- What `grp.info` does with the group it names. -/
def State.readGroup (s : State) (d : Reg) (r : Nat × Option Group) : Except Stop State :=
  match r.2 with
  | some y =>
    let v := BitVec.ofNat 64 (y.c + y.bits.length * 2 ^ 16 + y.x * 2 ^ 33)
    .ok ((s.noteRequest s.ck (groupDie r.1) (some v)).pureG d v)
  | none => .ok (s.draw.2.pureG d (Config.lostInfo s.draw.1))

theorem exec_grpInfo (d a : Reg) (s : State) : exec (.grpInfo d a) s =
    finish s ((s.heldEntry (s.th.rg a)).bind (s.readGroup d)) := rfl

theorem grpWait_past {y : Group} (hh : s.th.groups.contains (bitsAt (s.th.rg a) 0 12) = true)
    (hon : (s.die (groupDie (bitsAt (s.th.rg a) 0 12))).online = true)
    (hy : y = (s.groups.find (bitsAt (s.th.rg a) 0 12)).getD (Group.empty 0)) : exec (.grpWait x e d a b) s =
    finish s (s.waitGroup x e d (bitsAt (s.th.rg b) 0 16) (bitsAt (s.th.rg a) 0 12, some y)) := by
  rw [exec_grpWait, heldEntry_ok hh, if_pos hon, hy]
  rfl

theorem grpWait_over {y : Group} (hh : s.th.groups.contains (bitsAt (s.th.rg a) 0 12) = true)
    (hon : (s.die (groupDie (bitsAt (s.th.rg a) 0 12))).online = true)
    (hy : y = (s.groups.find (bitsAt (s.th.rg a) 0 12)).getD (Group.empty 0)) (hc : y.c ≠ bitsAt (s.th.rg b) 0 16) :
    ∃ t, exec (.grpWait x e d a b) s = .next t ∧ EndsWith s t d 0 ∧
      (reachesOut x → ∀ e ∈ t.co.l1, e.2.ro = true ∨ e.2.valid = e.2.dirty) := by
  have ha := memAside_acqAct s x
  have hn : MemAside s.ck s ((s.acqAct x).noteRequest s.ck (groupDie (bitsAt (s.th.rg a) 0 12)) (some stDone)) :=
    ha.trans (memAside_noteRequest _ _ _ _ _ _)
  have he : exec (.grpWait x e d a b) s =
      .next (((s.acqAct x).noteRequest s.ck (groupDie (bitsAt (s.th.rg a) 0 12)) (some stDone)).pureG d stDone) := by
    rw [grpWait_past hh hon hy, State.waitGroup]
    exact congrArg (finish s) (if_pos hc)
  refine ⟨_, he, endsWith_pureG hn.regsKept (fun y => ?_) d _, fun hx => ?_⟩
  · rw [mem_noteRequest, State.acqAct]
    split <;> rfl
  · rw [State.pureG, State.pure, co_modTh, hn.co, l1_noteRequest, acqAct_wide hx]
    exact clean_l1Acquire

theorem grpWait_waits {y : Group} (hh : s.th.groups.contains (bitsAt (s.th.rg a) 0 12) = true)
    (hon : (s.die (groupDie (bitsAt (s.th.rg a) 0 12))).online = true)
    (hy : y = (s.groups.find (bitsAt (s.th.rg a) 0 12)).getD (Group.empty 0)) (hc : y.c = bitsAt (s.th.rg b) 0 16) :
    ∃ t, exec (.grpWait x e d a b) s = .next t ∧ if e = 0 then EndsWith s t d 1
      else ∀ wide, (wide = true ↔ reachesOut x) → WaitsFor s t .waiting (.phase (bitsAt (s.th.rg a) 0 12) y.c wide) := by
  have he : exec (.grpWait x e d a b) s =
      .next (s.timed (.phase (bitsAt (s.th.rg a) 0 12) y.c (Scope.wide x)) d e stTimeout) := by
    rw [grpWait_past hh hon hy, State.waitGroup, hc]
    exact congrArg (finish s) (if_neg (not_not.2 hc))
  have ht := timed_cases s (.phase (bitsAt (s.th.rg a) 0 12) y.c (Scope.wide x)) d e stTimeout
  refine ⟨_, he, ?_⟩
  split
  next h0 => rw [if_pos h0] at ht; exact ht
  next h0 =>
    rw [if_neg h0] at ht
    intro wide hw
    rw [show wide = Scope.wide x from Bool.eq_iff_iff.2 (hw.trans reachesOut_iff)]
    exact ht

theorem grpInfo_reads {y : Group} (hh : s.th.groups.contains (bitsAt (s.th.rg a) 0 12) = true)
    (hon : (s.die (groupDie (bitsAt (s.th.rg a) 0 12))).online = true)
    (hy : y = (s.groups.find (bitsAt (s.th.rg a) 0 12)).getD (Group.empty 0)) : ∃ t, exec (.grpInfo d a) s = .next t ∧
    EndsWith s t d (BitVec.ofNat 64 (y.c + y.bits.length * 2 ^ 16 + y.x * 2 ^ 33)) := by
  have he : exec (.grpInfo d a) s = finish s (s.readGroup d (bitsAt (s.th.rg a) 0 12, some y)) := by
    rw [exec_grpInfo, heldEntry_ok hh, if_pos hon, hy]
    rfl
  exact ⟨_, he, endsWith_pureG (memAside_noteRequest s s.ck _ _ _ _).regsKept (fun _ => by rw [mem_noteRequest]) d _⟩

theorem grpInfo_lost (hh : s.th.groups.contains (bitsAt (s.th.rg a) 0 12) = true)
    (hon : (s.die (groupDie (bitsAt (s.th.rg a) 0 12))).online = false) :
    ∃ t v, exec (.grpInfo d a) s = .next t ∧ EndsWith s t d v := by
  have he : exec (.grpInfo d a) s = finish s (s.readGroup d (bitsAt (s.th.rg a) 0 12, none)) := by
    rw [exec_grpInfo, heldEntry_ok hh, if_neg (by rw [hon]; decide)]
    rfl
  exact ⟨_, _, he, endsWith_pureG (.refl _) (fun _ => rfl) d _⟩

theorem grpWait_lost (hh : s.th.groups.contains (bitsAt (s.th.rg a) 0 12) = true)
    (hon : (s.die (groupDie (bitsAt (s.th.rg a) 0 12))).online = false) : WritesG (.grpWait x e d a b) s d 3 :=
  writesG_pureG (x := stPeerLost) (by
    rw [exec_grpWait, heldEntry_ok hh, if_neg (by rw [hon]; decide)]
    rfl)

end

/-! ## A group request arrives at its home, and its reply at its thread (R280, R319) -/

/-- A group request past its home's answer, which goes back to its thread. -/
theorem groupArrives_answers {s : State} {ck : Nat} {q : GroupReq} {v : Word} {r : Group × Bool} {w : Wait}
    (hs : AMap.sorted s.threads = true) (hst : (s.thr q.thread).st = .waiting) (hw : (s.thr q.thread).wait = some w)
    (hk : w.kind = .groupReq) (hop : q.op ≠ .leave) (hr : s.groupReply q.thread q.gid (q.op == .arrive) = .ok (v, r)) :
    (s.groupArrives ck q).groups.find q.gid = some r.1 ∧ Crosses (s.thr q.thread) ((s.groupArrives ck q).thr q.thread) w.d v ∧
      (r.2 = true → WaitersDone s (s.groupArrives ck q) q.gid) := by
  obtain ⟨u, hu⟩ : ∃ u, u = s.modCor ck fun c => { c with outq := c.outq.erase q } := ⟨_, rfl⟩
  have hthr : ∀ k, u.thr k = s.thr k := fun k => by rw [hu]; rfl
  have hin : (u.thr q.thread).inGroupReq = true := by
    rw [hthr, Thread.inGroupReq, hst, hw]
    simp [hk]
  have hd : (u.thr q.thread).wait.elim 0 (·.d) = w.d := by rw [hthr, hw]; rfl
  have he : s.groupArrives ck q =
      (u.crossBack q.thread (groupDie q.gid) w.d v).setGroupOf q.thread q.gid (q.op == .arrive) r := by
    have hr' : u.groupReply q.thread q.gid (q.op == .arrive) = .ok (v, r) := by rw [hu]; exact hr
    unfold State.groupArrives
    dsimp only
    rw [← hu, if_neg hop, hr']
    dsimp only
    rw [State.answerGroup, if_pos hin, hd]
  have hc := thr_crossBack_same u q.thread (groupDie q.gid) w.d v
  obtain ⟨hf, hcur, ⟨l, hl⟩, hdone⟩ := groupSet_setGroupOf (s := s) (u := u.crossBack q.thread (groupDie q.gid) w.d v)
    (t := q.thread) (g := q.gid) (arrives := q.op == .arrive) (r := r)
    (threadsInOrder_crossBack u _ _ _ _ (by rw [hu]; exact hs))
    (fun k hk => by rw [← hthr]; exact thr_crossBack_other u _ _ _ hk)
    (fun d wide ⟨_, w', p, hw', hk', _⟩ => by
      rw [hw] at hw'
      rw [← Option.some.inj hw', hk] at hk'
      cases hk')
    (fun d wide ⟨_, w', p, hw', hk', _⟩ => by
      obtain ⟨n, hn⟩ := hc.wait
      rw [hw'] at hn
      have hn' : w'.kind = .crossing n := Option.some.inj hn
      rw [hk'] at hn'
      cases hn')
  rw [hthr] at hc
  rw [he]
  refine ⟨hf, ?_, hdone⟩
  rw [hl, Thread.afterGroup]
  split <;> exact ⟨hc.rg, hc.other, hc.next, hc.st, hc.wait⟩

theorem groupRequest_arrives {s : State} {ck m : Nat} {q : GroupReq} {y : Group} {r : Group × Bool} {w : Wait}
    (hs : AMap.sorted s.threads = true) (hres : (s.cor ck).resent = []) (hq : s.groupReady ck = some q)
    (hy : s.groups.find q.gid = some y) (hm : y.memberOf q.thread = some m) (hst : (s.thr q.thread).st = .waiting)
    (hw : (s.thr q.thread).wait = some w) (hk : w.kind = .groupReq)
    (hr : if q.op = .arrive then y.arrive m = some r else q.op = .drop ∧ r = y.leave m true) :
    ∃ t, exec (.homeRequestArrival ck) s = .next t ∧ t.groups.find q.gid = some r.1 ∧ OnItsWay t q.thread ∧
      (t.thr q.thread).rg w.d = (if w.d = 0 then 0 else BitVec.ofNat 64 (y.c * 256)) ∧
      (∀ k, k ≠ w.d → (t.thr q.thread).rg k = (s.thr q.thread).rg k) ∧
      ((s.thr q.thread).inFrame = false → (t.thr q.thread).pc = (s.thr q.thread).pc + 4) ∧
      (r.2 = true → WaitersDone s t q.gid) := by
  have he : exec (.homeRequestArrival ck) s = .next (s.groupArrives ck q) := by
    change execHomeRequestArrival ck s = _
    rw [execHomeRequestArrival, hres, hq]
    rfl
  have hreply : q.op ≠ .leave ∧
      s.groupReply q.thread q.gid (q.op == .arrive) = .ok (BitVec.ofNat 64 (y.c * 256), r) := by
    split at hr
    next ho => rw [ho]; exact ⟨by decide, groupReply_arrives hy hm hr⟩
    next ho =>
      obtain ⟨hdrop, rfl⟩ := hr
      rw [hdrop]
      exact ⟨by decide, groupReply_drops hy hm⟩
  obtain ⟨hf, hc, hdone⟩ := groupArrives_answers (ck := ck) hs hst hw hk hreply.1 hreply.2
  exact ⟨_, he, hf, ⟨hc.st, hc.wait⟩, hc.rg, hc.other, hc.next, hdone⟩

theorem replyArrival_onItsWay {s : State} {u : Nat} (h : OnItsWay s u) : ∃ t, exec (.replyArrival u) s = .next t ∧
    (t.thr u).st = .ready ∧ (t.thr u).g = (s.thr u).g ∧ (t.thr u).pc = (s.thr u).pc ∧ ∀ k, k ≠ u → t.thr k = s.thr k := by
  obtain ⟨hst, n, hn⟩ := h
  obtain ⟨w, hw, hk⟩ := Option.map_eq_some_iff.1 hn
  have he : exec (.replyArrival u) s = .next (s.modThr u Thread.rejoin) := by
    change execReplyArrival u s = _
    unfold execReplyArrival
    rw [hst, hw]
    dsimp only
    rw [hk]
  refine ⟨_, he, ?_, ?_, ?_, fun k hk => thr_modThr_other _ _ hk⟩ <;> rw [thr_modThr_same] <;> rfl

/-! ## `grp.quiet` (R301) -/

theorem grpQuiet_result (s : State) (e : BitVec 4) (d : Reg) :
    ∃ t, exec (.grpQuiet e d) s = .next t ∧ if e = 0 then EndsWith s t d 1 else WaitsFor s t .waiting .quiet := by
  have h : ∃ u : State, u.th = s.th ∧ u.mem = s.mem ∧ exec (.grpQuiet e d) s = .next (u.timed .quiet d e stTimeout) := by
    change ∃ u : State, u.th = s.th ∧ u.mem = s.mem ∧ execGrpQuiet e d s = _
    unfold execGrpQuiet
    split
    · exact ⟨s, rfl, rfl, rfl⟩
    · refine ⟨_, ?_, ?_, rfl⟩ <;> split <;> rfl
  obtain ⟨u, hth, hmem, he⟩ := h
  refine ⟨_, he, ?_⟩
  unfold State.timed
  split
  · exact endsWith_pureG (by rw [hth]; exact .refl _) (fun _ => by rw [hmem]) d _
  · exact waitsFor_block hth hmem _ _ _ _ _

/-! ## The prefetch queue and the routing counters (R302 to R304) -/

section
variable {s : State} {d a b : Reg}

theorem exec_xpfSnap (d a : Reg) (s : State) : exec (.xpfSnap d a) s = finish s
    ((trapIf (!(s.co.launch.isSome && (s.die (coreDie s.ck)).rtClaim == s.co.launch)) cPermission
      (BitVec.ofNat 64 (coreDie s.ck))).bind fun _ => (scrAddr (s.th.rg a)).bind fun la =>
      (trapIf (la % 64 != 0) cMisaligned (s.th.rg a)).bind fun _ =>
      (trapIf (decide (s.scrLimit < la + 1024)) cScratchBounds (s.th.rg a)).bind fun _ =>
      .ok (((s.modDie (coreDie s.ck) fun x => { x with rtCount := [] }).arriveWords s.ck (la / 8)
        (counterWords (s.die (coreDie s.ck)).rtCount)).replyG d stDone)) := rfl

theorem xpfSnap_claimed (h : s.co.launch ≠ none) (hc : (s.die (coreDie s.ck)).rtClaim = s.co.launch) : exec (.xpfSnap d a) s =
    finish s ((scrAddr (s.th.rg a)).bind fun la => (trapIf (la % 64 != 0) cMisaligned (s.th.rg a)).bind fun _ =>
      (trapIf (decide (s.scrLimit < la + 1024)) cScratchBounds (s.th.rg a)).bind fun _ =>
      .ok (((s.modDie (coreDie s.ck) fun x => { x with rtCount := [] }).arriveWords s.ck (la / 8)
        (counterWords (s.die (coreDie s.ck)).rtCount)).replyG d stDone)) := by
  rw [exec_xpfSnap, trapIf_pass]
  rw [hc, beq_self_eq_true, Bool.and_true, Bool.not_eq_false', Option.isSome_iff_ne_none]
  exact h

theorem traps_xpfSnap_claim (h : s.co.launch = none ∨ (s.die (coreDie s.ck)).rtClaim ≠ s.co.launch) :
    Traps (.xpfSnap d a) s 0x11 (BitVec.ofNat 64 (coreDie s.ck)) := by
  refine traps_finish (tr := ⟨cPermission, BitVec.ofNat 64 (coreDie s.ck), 0⟩) (exec_xpfSnap d a s) (trapIf_stop ?_)
  rw [Bool.not_eq_true', Bool.and_eq_false_iff]
  exact h.imp (fun h => by rw [h]; rfl) beq_false_of_ne

theorem blockChecks_xpfSnap (h : s.co.launch ≠ none) (hc : (s.die (coreDie s.ck)).rtClaim = s.co.launch) :
    BlockChecks (.xpfSnap d a) s 64 1024 (s.th.rg a) := by
  have he := xpfSnap_claimed (d := d) (a := a) h hc
  refine ⟨fun hx => ?_, fun hx h8 => ?_, fun hx h8 hl => ?_⟩
  · exact traps_finish (tr := ⟨cScratchBounds, s.th.rg a, 0⟩) he (by rw [scrAddr_error hx]; rfl)
  · refine traps_finish (tr := ⟨cMisaligned, s.th.rg a, 0⟩) he ?_
    rw [scrAddr_ok hx]
    exact trapIf_stop (bne_iff_ne.2 h8)
  · refine traps_finish (tr := ⟨cScratchBounds, s.th.rg a, 0⟩) he ?_
    rw [scrAddr_ok hx]
    exact (trapIf_pass (bne_eq_false_iff_eq.2 h8)).trans (trapIf_stop (decide_eq_true hl))

end

theorem dies_fillWord (s : State) (ck w : Nat) (y : Word) : (s.fillWord ck w y).dies = s.dies :=
  foldl_kept (f := fun s c => s.wakeReader ck w y c) (p := State.dies)
    (fun s c => by obtain h | ⟨h, -⟩ := wakeReader_cases s ck w y c <;> rw [h]; rfl) _ _

/-- From a state to another the words of the issuer's scratchpad from `w` on have been filled with `ws`. -/
structure Filled (w : Nat) (ws : List Word) (s t : State) : Prop where
  issuer : IssuerKept s t
  mem : t.mem = s.mem
  dies : t.dies = s.dies
  below : ∀ v, v < w → t.co.scratch.get 0 v = s.co.scratch.get 0 v
  words : ∀ i (h : i < ws.length), t.co.scratch.get 0 (w + i) = ws[i]

/-- Words that arrive where no thread takes them fill the scratchpad in order. -/
theorem filled_arriveWords (ws : List Word) : ∀ (s : State) (w : Nat), s.th.st = .ready → s.co.takers = [] →
    Filled w ws s (s.arriveWords s.ck w ws) := by
  induction ws with
  | nil => exact fun s w _ _ => ⟨⟨rfl, rfl⟩, rfl, rfl, fun _ _ => rfl, fun i h => absurd h (Nat.not_lt_zero i)⟩
  | cons y r ih =>
    intro s w hr ht
    obtain ⟨hk, hco, -⟩ := fillWord_issuer w y hr
    have he : s.arriveWords s.ck w (y :: r) = (s.fillWord s.ck w y).arriveWords s.ck (w + 1) r := by
      change (s.arriveWord s.ck w y).arriveWords s.ck (w + 1) r = _
      rw [State.arriveWord, if_pos (by
        change s.co.takersOf w = []
        rw [Core.takersOf, ht]; rfl)]
    have hck : (s.fillWord s.ck w y).ck = s.ck := by rw [State.ck, hk.cur, State.ck]
    have hf := ih (s.fillWord s.ck w y) (w + 1) (by rw [hk.th]; exact hr) (by rw [hco]; exact ht)
    rw [hck, ← he] at hf
    refine ⟨⟨hf.issuer.cur.trans hk.cur, hf.issuer.th.trans hk.th⟩, hf.mem.trans (mem_fillWord s _ w y),
      hf.dies.trans (dies_fillWord s _ w y), fun v hv => ?_, fun i hi => ?_⟩
    · rw [hf.below v (Nat.lt_succ_of_lt hv), hco]
      exact scratch_scrSetWord_other _ _ (Nat.ne_of_lt hv)
    · cases i with
      | zero =>
        rw [hf.below (w + 0) (Nat.lt_succ_self w), hco]
        exact AMap.get_put_same _ _ _ _
      | succ i =>
        rw [show w + (i + 1) = w + 1 + i from by omega, hf.words i (Nat.lt_of_succ_lt_succ hi)]
        rfl

theorem getElem_counterWords (m : AMap Nat) {i : Nat} (h : i < (counterWords m).length) : (counterWords m)[i] =
    BitVec.ofNat 64 (m.get 0 (2 * i) + m.get 0 (2 * i + 1) * 2 ^ 32) := by
  simp only [counterWords, List.getElem_map, List.getElem_range]

theorem xpfSnap_fills {s : State} {d a : Reg} (hr : s.th.st = .ready) (h : s.co.launch ≠ none)
    (hc : (s.die (coreDie s.ck)).rtClaim = s.co.launch) (h64 : (s.th.rg a).toNat % 64 = 0) (hlt : (s.th.rg a).toNat < 2 ^ 18)
    (hl : (s.th.rg a).toNat + 1024 ≤ s.scrLimit) (ht : s.co.takers = []) :
    ∃ t, exec (.xpfSnap d a) s = .next t ∧ EndsWith s t d 0 ∧ (t.die (coreDie s.ck)).rtCount = [] ∧
      ∀ i, i < 128 → t.co.scratch.get 0 ((s.th.rg a).toNat / 8 + i) =
        BitVec.ofNat 64 ((s.die (coreDie s.ck)).rtCount.get 0 (2 * i) +
          (s.die (coreDie s.ck)).rtCount.get 0 (2 * i + 1) * 2 ^ 32) := by
  have he := xpfSnap_claimed (d := d) (a := a) h hc
  rw [scrAddr_ok hlt] at he
  change _ = finish s ((trapIf ((s.th.rg a).toNat % 64 != 0) cMisaligned (s.th.rg a)).bind fun _ =>
    (trapIf (decide (s.scrLimit < (s.th.rg a).toNat + 1024)) cScratchBounds (s.th.rg a)).bind fun _ => _) at he
  rw [trapIf_pass (bne_eq_false_iff_eq.2 h64), trapIf_pass (decide_eq_false (Nat.not_lt.2 hl))] at he
  have hf := filled_arriveWords (counterWords (s.die (coreDie s.ck)).rtCount)
    (s.modDie (coreDie s.ck) fun x => { x with rtCount := [] }) ((s.th.rg a).toNat / 8) hr ht
  have hdie : ((s.modDie (coreDie s.ck) fun x => { x with rtCount := [] }).die (coreDie s.ck)).rtCount = [] := by
    rw [die_modDie_same]
  have hth : (s.modDie (coreDie s.ck) fun x => { x with rtCount := [] }).th = s.th := rfl
  have hck : (s.modDie (coreDie s.ck) fun x => { x with rtCount := [] }).ck = s.ck := rfl
  have hmem : (s.modDie (coreDie s.ck) fun x => { x with rtCount := [] }).mem = s.mem := rfl
  rw [hck] at hf
  generalize (s.modDie (coreDie s.ck) fun x => { x with rtCount := [] }) = u at he hf hdie hth hmem
  generalize u.arriveWords s.ck ((s.th.rg a).toNat / 8) (counterWords (s.die (coreDie s.ck)).rtCount) = t at he hf
  refine ⟨_, he, endsWith_replyG (by rw [hf.issuer.th, hth]; exact .refl _) (fun _ => by rw [hf.mem, hmem]) d _, ?_, fun i hi => ?_⟩
  · rw [State.replyG, die_modTh, State.die, hf.dies]
    exact hdie
  · have hlen : i < (counterWords (s.die (coreDie s.ck)).rtCount).length := by
      unfold counterWords
      rw [List.length_map, List.length_range]
      exact hi
    rw [State.replyG, co_modTh, hf.words i hlen, getElem_counterWords]

/-! ### Requests (R302, R304) -/

/-- Fewer than 64 requests leave an id of 1 to 64 free. -/
theorem freeXpfId_free {q : List XpfReq} (h : q.length < 64) :
    1 ≤ freeXpfId q ∧ freeXpfId q ≤ 64 ∧ ∀ z ∈ q, z.id ≠ freeXpfId q := by
  obtain ⟨i, hi, hfree⟩ : ∃ i ∈ (List.range 64).map (· + 1), ¬ q.any (·.id == i) = true := by
    by_contra hn
    push Not at hn
    have hsub : ((List.range 64).map (· + 1)) ⊆ q.map (·.id) := fun i hi => by
      obtain ⟨z, hz, he⟩ := List.any_eq_true.1 (hn i hi)
      exact List.mem_map.2 ⟨z, hz, by simpa using he⟩
    have hnd : ((List.range 64).map (· + 1)).Nodup := List.nodup_range.map fun _ _ h => Nat.succ.inj h
    have := (List.subperm_of_subset hnd hsub).length_le
    simp only [List.length_map, List.length_range] at this
    omega
  have hsome : (((List.range 64).map (· + 1)).find? fun i => !(q.any (·.id == i))).isSome = true :=
    List.find?_isSome.2 ⟨i, hi, by simpa using hfree⟩
  obtain ⟨j, hj⟩ := Option.isSome_iff_exists.1 hsome
  have hid : freeXpfId q = j := by rw [freeXpfId, hj]; rfl
  have hmem := List.mem_of_find?_eq_some hj
  have hp := List.find?_some hj
  obtain ⟨k, hk, rfl⟩ := List.mem_map.1 hmem
  rw [List.mem_range] at hk
  rw [hid]
  refine ⟨by omega, by omega, fun z hz he => ?_⟩
  simp only [Bool.not_eq_true', List.any_eq_false] at hp
  exact hp z hz (by rw [he]; exact beq_self_eq_true _)

section
variable {s : State} {d a b : Reg}

/-- The request that `xpf.req` queues. -/
def State.xpfGiven (s : State) (x y : Word) (i : Nat) : XpfReq where
  id := i
  base := x.toNat
  pages := bitsAt y 0 20
  ex := bitsAt y 20 8
  pr := bitsAt y 28 2
  dl := s.tick + 256 * bitsAt y 32 32
  lid := s.co.launch.getD 0

theorem exec_xpfReq (d a b : Reg) (s : State) : exec (.xpfReq d a b) s = finish s
    ((trapIf (!canonical (s.th.rg a).toNat) cTranslation (s.th.rg a)).bind fun _ =>
      (trapIf ((s.th.rg a).toNat % 4096 != 0) cMisaligned (s.th.rg a)).bind fun _ =>
      (trapIf (bitsAt (s.th.rg b) 0 20 == 0) cMisaligned (s.th.rg b)).bind fun _ =>
      if 64 ≤ (s.die (coreDie s.ck)).xpf.length then .ok (s.outG d stBusy)
      else .ok ((s.modDie (coreDie s.ck) fun y => { y with xpf := y.xpf ++ [s.xpfGiven (s.th.rg a) (s.th.rg b)
        (freeXpfId (s.die (coreDie s.ck)).xpf)] }).outG d (BitVec.ofNat 64 (freeXpfId (s.die (coreDie s.ck)).xpf)))) := rfl

theorem xpfReq_past (hc : canonical (s.th.rg a).toNat = true) (h4 : (s.th.rg a).toNat % 4096 = 0)
    (hn : bitsAt (s.th.rg b) 0 20 ≠ 0) : exec (.xpfReq d a b) s = finish s
      (if 64 ≤ (s.die (coreDie s.ck)).xpf.length then .ok (s.outG d stBusy)
      else .ok ((s.modDie (coreDie s.ck) fun y => { y with xpf := y.xpf ++ [s.xpfGiven (s.th.rg a) (s.th.rg b)
        (freeXpfId (s.die (coreDie s.ck)).xpf)] }).outG d (BitVec.ofNat 64 (freeXpfId (s.die (coreDie s.ck)).xpf)))) := by
  rw [exec_xpfReq, trapIf_pass (by rw [hc]; rfl), trapIf_pass (bne_eq_false_iff_eq.2 h4), trapIf_pass (beq_false_of_ne hn)]

theorem endsWith_outG {s t : State} (h : RegsKept s.th t.th) (hm : ∀ y, memGet t.mem y = memGet s.mem y) (d : Reg) (v : Word) :
    EndsWith s (t.outG d v) d v := endsWith_of (by rw [State.outG, th_modTh]; exact ended_retire h d v) hm

theorem xpfReq_queues (hc : canonical (s.th.rg a).toNat = true) (h4 : (s.th.rg a).toNat % 4096 = 0)
    (hn : bitsAt (s.th.rg b) 0 20 ≠ 0) (hl : (s.die (coreDie s.ck)).xpf.length < 64) :
    ∃ t y, exec (.xpfReq d a b) s = .next t ∧ EndsWith s t d (BitVec.ofNat 64 y.id) ∧
      (t.die (coreDie s.ck)).xpf = (s.die (coreDie s.ck)).xpf ++ [y] ∧ 1 ≤ y.id ∧ y.id ≤ 64 ∧
      (∀ z ∈ (s.die (coreDie s.ck)).xpf, z.id ≠ y.id) ∧ y.base = (s.th.rg a).toNat ∧ y.pages = bitsAt (s.th.rg b) 0 20 ∧
      y.dl = s.tick + 256 * bitsAt (s.th.rg b) 32 32 := by
  obtain ⟨h1, h2, h3⟩ := freeXpfId_free hl
  have he := xpfReq_past (d := d) hc h4 hn
  rw [if_neg (Nat.not_le.2 hl)] at he
  refine ⟨_, s.xpfGiven (s.th.rg a) (s.th.rg b) (freeXpfId (s.die (coreDie s.ck)).xpf), he, endsWith_outG (.refl _) (fun _ => rfl) d _,
    ?_, h1, h2, h3, rfl, rfl, rfl⟩
  rw [State.outG, die_modTh, die_modDie_same]

theorem xpfReq_full (hc : canonical (s.th.rg a).toNat = true) (h4 : (s.th.rg a).toNat % 4096 = 0)
    (hn : bitsAt (s.th.rg b) 0 20 ≠ 0) (hl : 64 ≤ (s.die (coreDie s.ck)).xpf.length) : WritesG (.xpfReq d a b) s d 2 :=
  writesG_outG (x := stBusy) (by rw [xpfReq_past hc h4 hn, if_pos hl]; rfl)

end

/-- Settles O51: the answers and the waiters of a phase at the group's home, its refusals, the way over a link and back, the
waits, and the counters and requests of `xpf`. -/
theorem groupForms : Obligations.GroupForms := by
  unfold Obligations.GroupForms
  intro s x e d a b hr
  refine ⟨fun hh hon => ⟨fun y hy hx hd hs => ⟨fun m hm => ⟨fun r ha => ?_, fun ha => ?_, ?_⟩, fun hm i hi => ?_⟩,
    fun hx hd => ?_, fun hc => ?_, fun hc => ?_, ?_⟩, fun hh hx hrel hn => ⟨?_, ?_⟩,
    fun ck q y m r w hs hres hq hy hm hst hw hk ha => ?_,
    fun u hu => replyArrival_onItsWay hu, fun hh hon => ⟨grpWait_lost hh hon, grpInfo_lost hh hon, fun hx => ⟨?_, ?_⟩⟩,
    fun hh => ?_, grpQuiet_result s e d, fun hl hc h64 hlt hlim ht => xpfSnap_fills hr hl hc h64 hlt hlim ht, traps_xpfSnap_claim,
    fun hl hc => blockChecks_xpfSnap hl hc, fun hc h4 hn => ⟨xpfReq_queues hc h4 hn, xpfReq_full hc h4 hn⟩, ?_⟩
  · exact grpArrive_answers hr hh hon hy hx hd hs hm ha
  · exact grpArrive_over hh hon hy hx hd hm ha
  · exact grpDrop_answers hr hh hon hy hx hd hs hm
  · exact grp_stranger hh hon hy hx hd hm hi
  · obtain ⟨u, hu, -, hf⟩ := afterRel_goes hx
    exact ⟨⟨_, by rw [grpArrive_held hh, hf], groupForm_sent hu hon hd⟩, _, by rw [grpDrop_held hh, hf], groupForm_sent hu hon hd⟩
  · exact grpWait_over hh hon rfl hc
  · exact grpWait_waits hh hon rfl hc
  · exact grpInfo_reads hh hon rfl
  · exact waitsToPublish_of_afterRel (grpArrive_held hh) hx hrel hn
  · exact waitsToPublish_of_afterRel (grpDrop_held hh) hx hrel hn
  · exact groupRequest_arrives hs hres hq hy hm hst hw hk ha
  · exact grp_lost hon hx (grpArrive_held hh)
  · exact grp_lost hon hx (grpDrop_held hh)
  · exact ⟨traps_finish (exec_grpArrive x d a s) (heldGroup_bad hh), traps_finish (exec_grpDrop x d a s) (heldGroup_bad hh),
      traps_finish (exec_grpWait x e d a b s) (heldEntry_bad hh), traps_finish (exec_grpInfo d a s) (heldEntry_bad hh)⟩
  · refine ⟨_, rfl, endsWith_outG (.refl _) (fun _ => rfl) d _, ?_⟩
    rw [State.outG, die_modTh, die_modDie_same]
    rfl

end Sys2Proof.Machine
end

section
/-! PROOFS. What ends a wait: a reply, a limit that has passed, and a home load that is free (R20, R115, R264). -/

namespace Sys2Proof.Machine

/-! ## Replies (R115) -/

theorem keeps_rejoin (x : Thread) : Keeps [] [] [] x x.rejoin :=
  ⟨fun _ _ => rfl, fun _ _ => rfl, fun _ _ => rfl, ⟨rfl, rfl, rfl⟩, ⟨rfl, rfl, rfl, rfl, rfl⟩, rfl,
    ⟨rfl, rfl, rfl, rfl, rfl⟩, ⟨rfl, rfl⟩⟩

theorem replyArrival_rejoins {s : State} {u : Nat} {w : Wait} (hst : (s.thr u).st = .waiting) (hw : (s.thr u).wait = some w)
    (hk : w.kind = .reply ∨ (∃ n, w.kind = .crossing n) ∨ w.kind = .deviceStore) :
    ∃ t, exec (.replyArrival u) s = .next t ∧ Woken t u ∧ Keeps [] [] [] (s.thr u) (t.thr u) ∧ (t.thr u).pc = (s.thr u).pc ∧
      (t.thr u).kstat = (s.thr u).kstat ∧ t = { s with threads := t.threads } ∧ ∀ v, v ≠ u → t.thr v = s.thr v := by
  have he : exec (.replyArrival u) s = .next (s.modThr u Thread.rejoin) := by
    change execReplyArrival u s = _
    unfold execReplyArrival
    rw [hst, hw]
    obtain hk | ⟨n, hk⟩ | hk := hk <;> dsimp only <;> rw [hk]
  refine ⟨_, he, ?_, ?_, ?_, ?_, rfl, fun v hv => thr_modThr_other _ _ hv⟩
  · rw [Woken, thr_modThr_same]; exact ⟨rfl, rfl, rfl⟩
  · rw [thr_modThr_same]; exact keeps_rejoin _
  · rw [thr_modThr_same]; rfl
  · rw [thr_modThr_same]; rfl

/-! ## Waits that are withdrawn (R21, R133) -/

theorem thr_wakeCore_kept {ck : Nat} {p : WaitKind → Bool} {v : Nat} {x : Thread} (hp : x.wait.map (fun w => p w.kind) ≠ some true)
    {s : State} (h : s.thr v = x) : (s.wakeCore ck p).thr v = x := by
  unfold State.wakeCore
  induction List.range 16 generalizing s with
  | nil => exact h
  | cons c r ih =>
    refine ih ?_
    by_cases hc : v = threadOf ck c
    · change (s.modThr _ _).thr v = x
      rw [hc, thr_modThr_same, ← hc, h, if_neg fun e => hp e.2]
    · exact (thr_modThr_other _ _ hc).trans h

theorem thr_wakeArrivals_kept {cl v : Nat} {x : Thread} (hp : x.wait.map (·.kind) ≠ some .arrival) {s : State} (h : s.thr v = x) :
    (s.wakeArrivals cl).thr v = x := by
  have hp' : x.wait.map (fun w => w.kind == .arrival) ≠ some true := by
    cases hw : x.wait with
    | none => exact nofun
    | some w =>
      rw [hw] at hp
      simpa using hp
  unfold State.wakeArrivals
  induction List.range 8 generalizing s with
  | nil => exact h
  | cons i r ih =>
    rw [List.foldl_cons]
    exact ih (thr_wakeCore_kept (p := (· == .arrival)) hp' h)

/-- What stands elsewhere for a wait goes without a change to a thread that does not wait for an earlier arrival. -/
theorem thr_withdraw_other {s : State} {t v : Nat} (hv : v ≠ t) (hp : (s.thr v).wait.map (·.kind) ≠ some .arrival) :
    (s.withdraw t).thr v = s.thr v := by
  unfold State.withdraw
  rw [thr_modThr_other _ _ hv]
  split
  · rfl
  · exact thr_wakeArrivals_kept hp rfl
  · rfl
  · unfold State.dropPub
    split <;> rfl
  · rfl

theorem thr_withdraw_same (s : State) (t : Nat) : (s.withdraw t).thr t = (s.thr t).takeBack := by
  unfold State.withdraw
  rw [thr_modThr_same]
  refine congrArg Thread.takeBack ?_
  split
  · rfl
  next h =>
    have h' : (s.thr t).wait.map (·.kind) = some .peg := h
    exact thr_wakeArrivals_kept (by rw [h']; exact nofun) rfl
  · rfl
  · unfold State.dropPub
    split <;> rfl
  · rfl

/-! ## Limits (R20) -/

theorem over_of_passed {w : Wait} {n : Nat} (h1 : 1 ≤ w.e) (h14 : w.e ≤ 14) (h : w.since + 2 ^ (6 + w.e) + w.kind.grace ≤ n) :
    w.over n = true := by
  rw [Wait.over, Wait.limited, decide_eq_true h1, decide_eq_true h14]
  exact decide_eq_true h

section
variable {s : State} {u : Nat} {w : Wait} (hst : (s.thr u).st = .waiting ∨ (s.thr u).st = .parked)
  (hw : (s.thr u).wait = some w) (h1 : 1 ≤ w.e) (h14 : w.e ≤ 14)
include hst hw h1 h14

/-- What a limit that has passed does. -/
theorem exec_waitExpiry (ho : w.since + 2 ^ (6 + w.e) + w.kind.grace ≤ s.tick) : exec (.waitExpiry u) s =
    match w.kind with
    | .homeLoad ps => .next (match s.homeBlocked (coreOf u) ps with
      | some va => s.takeTrap u { cause := cTenureConflict, info := BitVec.ofNat 64 va }
      | none => s.wakeHome)
    | .crossing _ => .next (s.modThr u fun x =>
        (if s.answered x && s.dieRuns (coreDie (coreOf u)) then x else x.setG w.d stTimeout).rejoin)
    | k => .next (((s.lateReply u k).withdraw u).modThr u (·.endWait w.d (expiryStatus k))) := by
  change execWaitExpiry u s = _
  unfold execWaitExpiry
  rw [hw]
  dsimp only
  have hs : ((s.thr u).st == .waiting || (s.thr u).st == .parked) = true := by
    obtain h | h := hst <;> rw [h] <;> rfl
  rw [over_of_passed h1 h14 ho, hs]
  rfl

end

/-- The late reply of a request changes its thread at most in what it has asked. -/
theorem thr_lateReply (s : State) (t : Nat) (k : WaitKind) : ∃ l, (s.lateReply t k).thr t = { s.thr t with asked := l } := by
  unfold State.lateReply
  split
  · unfold State.answerReq
    split <;> exact ⟨_, rfl⟩
  · exact (memAside_noteRequest s (coreOf t) _ _ _ _).thr_asked t
  · exact ⟨_, rfl⟩

theorem regsKept_takeBack {x : Thread} (h : x.before = none) : RegsKept x x.takeBack := by
  rw [Thread.takeBack, h]
  exact ⟨rfl, rfl, rfl, rfl, rfl, rfl⟩

section
variable {s : State} {u : Nat} {w : Wait} (hst : (s.thr u).st = .waiting ∨ (s.thr u).st = .parked)
  (hw : (s.thr u).wait = some w) (h1 : 1 ≤ w.e) (h14 : w.e ≤ 14)
include hst hw h1 h14

/-- A wait whose limit has passed ends with the status of its kind. -/
theorem waitExpiry_status (ho : w.since + 2 ^ (6 + w.e) ≤ s.tick) (hb : (s.thr u).before = none)
    (hh : ∀ ps, w.kind ≠ .homeLoad ps) (hc : ∀ n, w.kind ≠ .crossing n) : ∃ t, exec (.waitExpiry u) s = .next t ∧
    Woken t u ∧ (t.thr u).rg w.d = (if w.d = 0 then 0 else expiryStatus w.kind) ∧
    (∀ r, r ≠ w.d → (t.thr u).rg r = (s.thr u).rg r) ∧ NextWord (s.thr u) (t.thr u) := by
  have hgrace : w.kind.grace = 0 := by
    cases hk : w.kind with
    | crossing n => exact absurd hk (hc n)
    | _ => rfl
  have he := exec_waitExpiry hst hw h1 h14 (by rw [hgrace]; exact ho)
  have he' : exec (.waitExpiry u) s =
      .next (((s.lateReply u w.kind).withdraw u).modThr u (·.endWait w.d (expiryStatus w.kind))) := by
    rw [he]
    cases hk : w.kind with
    | homeLoad ps => exact absurd hk (hh ps)
    | crossing n => exact absurd hk (hc n)
    | _ => rfl
  obtain ⟨l, hl⟩ := thr_lateReply s u w.kind
  have hr : RegsKept (s.thr u) (((s.lateReply u w.kind).withdraw u).thr u) := by
    rw [thr_withdraw_same, hl]
    exact RegsKept.trans (y := { s.thr u with asked := l }) ⟨rfl, rfl, rfl, rfl, rfl, rfl⟩ (regsKept_takeBack hb)
  have hend := ended_endWait hr w.d (expiryStatus w.kind)
  refine ⟨_, he', ?_, ?_, ?_, ?_⟩
  · rw [Woken, thr_modThr_same]; exact ⟨rfl, rfl, rfl⟩
  · rw [thr_modThr_same]; exact hend.rg
  · rw [thr_modThr_same]; exact hend.other
  · rw [thr_modThr_same]; exact hend.next

/-- An answer on its way has 64 ticks more; one that a relock holds back comes too late. -/
theorem waitExpiry_crossing {n : Nat} (hk : w.kind = .crossing n) (ho : w.since + 2 ^ (6 + w.e) + 64 ≤ s.tick) :
    ∃ t, exec (.waitExpiry u) s = .next t ∧
      Woken t u ∧ (t.thr u).pc = (s.thr u).pc ∧ (∀ r, r ≠ w.d → (t.thr u).rg r = (s.thr u).rg r) ∧
      (t.thr u).rg w.d =
        if (s.die (coreDie (coreOf u))).online = true ∧ (s.die (coreDie (coreOf u))).clock.t0 = none ∧
          ∀ y ∈ (s.thr u).asked, (s.die y.die).clock.t0 = none
        then (s.thr u).rg w.d else if w.d = 0 then 0 else 1 := by
  have he := exec_waitExpiry hst hw h1 h14 (by rw [hk]; exact ho)
  rw [hk] at he
  have hcond : (s.answered (s.thr u) && s.dieRuns (coreDie (coreOf u))) = true ↔
      (s.die (coreDie (coreOf u))).online = true ∧ (s.die (coreDie (coreOf u))).clock.t0 = none ∧
        ∀ y ∈ (s.thr u).asked, (s.die y.die).clock.t0 = none := by
    rw [State.answered, State.dieRuns]
    simp only [Bool.and_eq_true, List.all_eq_true, Option.isNone_iff_eq_none]
    exact and_comm.trans and_assoc
  refine ⟨_, he, ?_, ?_, ?_, ?_⟩
  · rw [Woken, thr_modThr_same]; exact ⟨rfl, rfl, rfl⟩
  · rw [thr_modThr_same]
    split
    · rfl
    · exact (setG_keeps _ _ _).2.2.1
  · rw [thr_modThr_same]
    intro r hr
    split
    · rfl
    · exact rg_setG_other _ _ hr
  · rw [thr_modThr_same]
    by_cases h : (s.answered (s.thr u) && s.dieRuns (coreDie (coreOf u))) = true
    · rw [if_pos h, if_pos (hcond.1 h)]; rfl
    · rw [if_neg h, if_neg (fun e => h (hcond.2 e))]
      exact rg_setG_same _ _ _

/-- A home load that is blocked yet traps. -/
theorem waitExpiry_blocked {ps : List (Nat × Nat × Nat)} {va : Nat} (ho : w.since + 2 ^ (6 + w.e) ≤ s.tick)
    (hk : w.kind = .homeLoad ps) (hb : s.homeBlocked (coreOf u) ps = some va) : ∃ t, exec (.waitExpiry u) s = .next t ∧
    (t.thr u).st = .trapped ∧ (t.thr u).kcause = 0x31 ∧ (t.thr u).kinfo = BitVec.ofNat 64 va ∧
    (t.thr u).pc = (s.thr u).pc ∧ (t.thr u).g = (s.thr u).g := by
  have he := exec_waitExpiry hst hw h1 h14 (by rw [hk]; exact ho)
  rw [hk] at he
  dsimp only at he
  rw [hb] at he
  refine ⟨_, he, ?_⟩
  dsimp only
  rw [thr_takeTrap_same]
  exact ⟨rfl, rfl, rfl, rfl, rfl⟩

end

/-! ### Home loads (R264) -/

/-- What a step of `wakeHome` leaves for a later load of a core: its translations, the words that are lost, and the bytes that a
core itself holds. -/
structure HomeKept (s t : State) : Prop where
  tlb : ∀ ck, (t.cor ck).tlb = (s.cor ck).tlb
  lost : t.lostWord = s.lostWord
  own : ∀ ck pa, (s.cor ck).ownByte pa = true → (t.cor ck).ownByte pa = true

theorem HomeKept.trans {s t u : State} (h : HomeKept s t) (k : HomeKept t u) : HomeKept s u :=
  ⟨fun ck => (k.tlb ck).trans (h.tlb ck), k.lost.trans h.lost, fun ck pa ho => k.own ck pa (h.own ck pa ho)⟩

theorem homeKept_of_eq {s t : State} (hc : t.cores = s.cores) (hl : t.lostWord = s.lostWord) : HomeKept s t := by
  have hcor : ∀ ck, t.cor ck = s.cor ck := fun ck => by rw [State.cor, State.cor, hc]
  exact ⟨fun ck => by rw [hcor], hl, fun ck pa h => by rw [hcor]; exact h⟩

/-- An acquire keeps a line that has a dirty word. -/
theorem find_acquired {m : AMap L1Line} {k : Nat} {l : L1Line} (h : m.find k = some l) (hd : l.dirty ≠ 0) :
    ∃ l', AMap.find ((m.map fun e => if e.2.ro then e else (e.1, e.2.cleanGone)).filter fun e => (e.2.valid ||| e.2.dirty) != 0) k =
      some l' ∧ l'.dirty = l.dirty := by
  induction m with
  | nil => cases h
  | cons e r ih =>
    obtain ⟨j, x⟩ := e
    have hx : ∃ x', (if x.ro then (j, x) else (j, x.cleanGone)) = (j, x') ∧ x'.dirty = x.dirty := by
      split
      · exact ⟨x, rfl, rfl⟩
      · exact ⟨x.cleanGone, rfl, rfl⟩
    obtain ⟨x', hx', hdx⟩ := hx
    rw [AMap.find] at h
    rw [List.map_cons, List.filter_cons]
    dsimp only
    rw [hx']
    by_cases hk : k = j
    · rw [if_pos hk] at h
      obtain rfl := Option.some.inj h
      have hne : (x'.valid ||| x'.dirty != 0) = true := by
        rw [bne_iff_ne]
        intro h0
        exact hd (by rw [← hdx]; exact (BitVec.or_eq_zero_iff.1 h0).2)
      rw [if_pos hne, AMap.find, if_pos hk]
      exact ⟨x', rfl, hdx⟩
    · rw [if_neg hk] at h
      split
      · rw [AMap.find, if_neg hk]
        exact ih h
      · exact ih h

/-- An acquire drops no byte that the core alone holds. -/
theorem homeKept_l1Acquire (s : State) (k : Nat) : HomeKept s (s.l1Acquire k) := by
  refine ⟨fun ck => ?_, rfl, fun ck pa h => ?_⟩
  · by_cases hk : ck = k
    · rw [hk, State.l1Acquire, cor_modCor_same]
    · rw [State.l1Acquire, cor_modCor_other _ _ hk]
  · by_cases hk : ck = k
    · subst hk
      rw [Core.ownByte, Bool.or_eq_true] at h ⊢
      rw [wtq_l1Acquire, l1_l1Acquire]
      refine h.imp_left fun h => ?_
      obtain ⟨l, hl, ho⟩ := (Option.any_eq_true _ _).1 h
      obtain ⟨l', hl', hd⟩ := find_acquired hl fun h0 => by
        rw [L1Line.ownByte, h0] at ho
        simp at ho
      rw [hl', Option.any_some, L1Line.ownByte, hd]
      exact ho
    · rw [State.l1Acquire, cor_modCor_other _ _ hk]
      exact h

theorem lostWord_takeTrap (s : State) (t : Nat) (tr : Trap) : (s.takeTrap t tr).lostWord = s.lostWord := by
  unfold State.takeTrap State.postRecord
  dsimp only
  split
  · rfl
  · split <;> rfl

theorem homeKept_modThr_l1Acquire (s : State) (t : Nat) (f : Thread → Thread) (ck : Nat) :
    HomeKept s ((s.modThr t f).l1Acquire ck) :=
  HomeKept.trans (t := s.modThr t f) (homeKept_of_eq rfl rfl) (homeKept_l1Acquire _ _)

theorem thr_modThr_l1Acquire (s : State) (t : Nat) (f : Thread → Thread) (ck v : Nat) :
    ((s.modThr t f).l1Acquire ck).thr v = (s.modThr t f).thr v := rfl

theorem homeKept_readHome (s : State) (t : Nat) (ps : List (Nat × Nat × Nat)) : HomeKept s (s.readHome t ps) := by
  unfold State.readHome
  dsimp only
  split
  · exact homeKept_of_eq rfl rfl
  · split
    · exact homeKept_of_eq (cores_takeTrap s _ _) (lostWord_takeTrap s _ _)
    · exact homeKept_modThr_l1Acquire _ _ _ _

theorem thr_readHome_other (s : State) {t v : Nat} (ps : List (Nat × Nat × Nat)) (h : v ≠ t) :
    (s.readHome t ps).thr v = s.thr v := by
  unfold State.readHome
  dsimp only
  split
  · exact thr_modThr_other _ _ h
  · split
    · exact thr_takeTrap_other _ _ h
    · rw [thr_modThr_l1Acquire]
      exact thr_modThr_other _ _ h

/-- A home load none of whose words is lost is over: its thread goes on at the form with what it has read. -/
theorem thr_readHome_good {s : State} {t : Nat} {ps : List (Nat × Nat × Nat)}
    (h : ∀ e ∈ s.homeAt (coreOf t) ps, ∀ pa, e.2 = some pa → s.homeBad (coreOf t) (pa / 8) = false) :
    Woken (s.readHome t ps) t ∧ ((s.readHome t ps).thr t).pc = (s.thr t).pc ∧ ((s.readHome t ps).thr t).g = (s.thr t).g := by
  have hfind : (((s.homeAt (coreOf t) ps).filterMap (·.2)).find? fun pa => s.homeBad (coreOf t) (pa / 8)) = none := by
    rw [List.find?_eq_none]
    intro pa hpa
    obtain ⟨e, he, hp⟩ := List.mem_filterMap.1 hpa
    rw [h e he pa hp]
    decide
  have hthr : ∃ l, (s.readHome t ps).thr t = { (s.thr t).wake with got := l } := by
    unfold State.readHome
    dsimp only
    split
    · exact ⟨_, thr_modThr_same s _ _⟩
    · rw [hfind]
      dsimp only
      rw [thr_modThr_l1Acquire]
      exact ⟨_, thr_modThr_same s _ _⟩
  obtain ⟨l, hl⟩ := hthr
  rw [Woken, hl]
  exact ⟨⟨rfl, rfl, rfl⟩, rfl, rfl⟩

/-- The words of a home load that are good stay so while other loads are over. -/
theorem good_of_homeKept {s t : State} {ck : Nat} {ps : List (Nat × Nat × Nat)} (hk : HomeKept s t)
    (h : ∀ e ∈ s.homeAt ck ps, ∀ pa, e.2 = some pa → s.homeBad ck (pa / 8) = false) :
    ∀ e ∈ t.homeAt ck ps, ∀ pa, e.2 = some pa → t.homeBad ck (pa / 8) = false := by
  intro e he pa hp
  have hat : t.homeAt ck ps = s.homeAt ck ps := by rw [State.homeAt, State.homeAt, hk.tlb]
  rw [hat] at he
  have hs := h e he pa hp
  rw [State.homeBad] at hs ⊢
  rw [hk.lost]
  rw [Bool.and_eq_false_iff, Bool.not_eq_false'] at hs ⊢
  refine hs.imp_right fun ho => ?_
  rw [Core.ownWord, List.all_eq_true] at ho ⊢
  exact fun i hi => hk.own _ _ (ho i hi)

theorem readHomes_other {ls : List (Nat × Thread)} {v : Nat} (h : v ∉ ls.map (·.1)) : ∀ s : State,
    HomeKept s (ls.foldl (fun s e => s.readHome e.1 (e.2.homeLoad.getD [])) s) ∧
      (ls.foldl (fun s e => s.readHome e.1 (e.2.homeLoad.getD [])) s).thr v = s.thr v := by
  induction ls with
  | nil => exact fun s => ⟨homeKept_of_eq rfl rfl, rfl⟩
  | cons e r ih =>
    intro s
    rw [List.map_cons, List.mem_cons, not_or] at h
    obtain ⟨hk, hv⟩ := ih h.2 (s.readHome e.1 (e.2.homeLoad.getD []))
    exact ⟨(homeKept_readHome s _ _).trans hk, hv.trans (thr_readHome_other s _ h.1)⟩

theorem wakeHome_good {s : State} {u : Nat} {ps : List (Nat × Nat × Nat)} (hs : AMap.sorted s.threads = true)
    (hl : (s.thr u).homeLoad = some ps) (hb : s.homeBlocked (coreOf u) ps = none)
    (h : ∀ e ∈ s.homeAt (coreOf u) ps, ∀ pa, e.2 = some pa → s.homeBad (coreOf u) (pa / 8) = false) :
    Woken s.wakeHome u ∧ (s.wakeHome.thr u).pc = (s.thr u).pc ∧ (s.wakeHome.thr u).g = (s.thr u).g := by
  have hmem : (u, s.thr u) ∈ s.threads.filter s.homeFree := by
    rw [List.mem_filter]
    refine ⟨?_, ?_⟩
    · cases hf : s.threads.find u with
      | none =>
        have hd : s.thr u = threadInit u := AMap.get_of_find_none hf
        rw [hd] at hl
        have hnone : (threadInit u).homeLoad = none := by
          unfold threadInit
          split <;> rfl
        rw [hnone] at hl
        cases hl
      | some x =>
        have hx : s.thr u = x := AMap.get_of_find hf
        rw [hx]
        exact AMap.mem_of_find hf
    · rw [State.homeFree]
      dsimp only
      rw [hl, Option.any_some, hb]
      rfl
  obtain ⟨a, b, hab⟩ := List.append_of_mem hmem
  have hnd : ((s.threads.filter s.homeFree).map (·.1)).Nodup := (List.filter_sublist.map _).nodup (AMap.nodup_keys hs)
  rw [hab, List.map_append, List.map_cons] at hnd
  have hna : u ∉ a.map (·.1) := fun hm => (List.nodup_append.1 hnd).2.2 u hm u List.mem_cons_self rfl
  have hnb : u ∉ b.map (·.1) := (List.nodup_cons.1 (List.nodup_append.1 hnd).2.1).1
  unfold State.wakeHome
  rw [hab, List.foldl_append, List.foldl_cons]
  obtain ⟨hka, hva⟩ := readHomes_other hna s
  generalize a.foldl (fun s e => s.readHome e.1 (e.2.homeLoad.getD [])) s = s1 at hka hva
  obtain ⟨-, hvb⟩ := readHomes_other hnb (s1.readHome u ((s.thr u).homeLoad.getD []))
  have hg := thr_readHome_good (good_of_homeKept hka h)
  rw [hl] at hvb ⊢
  rw [Woken, hvb, ← hva]
  exact hg

theorem waitExpiry_free {s : State} {u : Nat} {w : Wait} {ps : List (Nat × Nat × Nat)} (hst : (s.thr u).st = .waiting)
    (hw : (s.thr u).wait = some w) (h1 : 1 ≤ w.e) (h14 : w.e ≤ 14) (ho : w.since + 2 ^ (6 + w.e) ≤ s.tick)
    (hk : w.kind = .homeLoad ps) (hb : s.homeBlocked (coreOf u) ps = none) (hs : AMap.sorted s.threads = true)
    (h : ∀ e ∈ s.homeAt (coreOf u) ps, ∀ pa, e.2 = some pa → s.homeBad (coreOf u) (pa / 8) = false) :
    ∃ t, exec (.waitExpiry u) s = .next t ∧ Woken t u ∧ (t.thr u).pc = (s.thr u).pc ∧ (t.thr u).g = (s.thr u).g := by
  have he := exec_waitExpiry (.inl hst) hw h1 h14 (by rw [hk]; exact ho)
  rw [hk] at he
  dsimp only at he
  rw [hb] at he
  have hl : (s.thr u).homeLoad = some ps := by
    unfold Thread.homeLoad
    rw [hst, hw]
    dsimp only
    rw [hk]
  exact ⟨_, he, wakeHome_good hs hl hb h⟩

end Sys2Proof.Machine
end

section
/-! PROOFS. Messages on their way: their arrival at a core, in a trap queue or at the service, and their delivery from a trap
queue (R94, R117 to R119). -/

namespace Sys2Proof.Machine

/-! ## The message that arrives (R322) -/

theorem takeArriving_split {s : State} {qs r : List Post} {p : Post} (hq : ∀ q ∈ qs, s.heldPost q = true)
    (hp : s.heldPost p = false) : s.takeArriving (qs ++ p :: r) = some (p, qs ++ r) := by
  induction qs with
  | nil =>
    change (if s.heldPost p = true then _ else _) = _
    rw [if_neg (by rw [hp]; decide)]
    rfl
  | cons q qs ih =>
    change (if s.heldPost q = true then _ else _) = _
    rw [if_pos (hq q List.mem_cons_self)]
    exact congrArg (Option.map _) (ih fun x hx => hq x (List.mem_cons_of_mem _ hx))

/-- The state with a message taken off its way. -/
def State.arriving (s : State) (rest : List Post) : State := { s with transit := rest }

section
variable {s : State} {qs r : List Post} {p : Post} (ht : s.transit = qs ++ p :: r) (hq : ∀ q ∈ qs, s.heldPost q = true)
  (hp : s.heldPost p = false)
include ht hq hp

theorem exec_messageArrival (h : (p.core.isNone && p.trapRec) = false) :
    exec .messageArrival s = .next ((s.arriving (qs ++ r)).deliver p) := by
  change execMessageArrival s = _
  unfold execMessageArrival
  rw [ht, takeArriving_split hq hp]
  dsimp only
  rw [h]
  rfl

theorem exec_messageArrival_core {ck : Nat} (hc : p.core = some ck) :
    exec .messageArrival s = .next ((s.arriving (qs ++ r)).deliver p) := exec_messageArrival ht hq hp (by rw [hc]; rfl)

end

/-! ## The acknowledgment (R280, R301) -/

/-- From a state to another a message has been acknowledged at most: counters of sent messages, numbers and saved replies of
requests may have changed, and what threads have asked. -/
structure Acked (s t : State) : Prop where
  cores : ∀ k, ∃ n q, t.cor k = { s.cor k with sentCount := n, seq := q }
  dies : ∀ d, ∃ r, t.die d = { s.die d with replies := r }
  threads : ∀ v, ∃ l, t.thr v = { s.thr v with asked := l }
  launches : t.launches = s.launches
  transit : t.transit = s.transit

theorem Acked.refl (s : State) : Acked s s := ⟨fun _ => ⟨_, _, rfl⟩, fun _ => ⟨_, rfl⟩, fun _ => ⟨_, rfl⟩, rfl, rfl⟩

theorem Acked.trans {s t u : State} (h : Acked s t) (k : Acked t u) : Acked s u where
  cores j := by
    obtain ⟨n, q, hn⟩ := h.cores j
    obtain ⟨n', q', hn'⟩ := k.cores j
    rw [hn] at hn'
    exact ⟨n', q', hn'⟩
  dies d := by
    obtain ⟨r, hr⟩ := h.dies d
    obtain ⟨r', hr'⟩ := k.dies d
    rw [hr] at hr'
    exact ⟨r', hr'⟩
  threads v := by
    obtain ⟨l, hl⟩ := h.threads v
    obtain ⟨l', hl'⟩ := k.threads v
    rw [hl] at hl'
    exact ⟨l', hl'⟩
  launches := k.launches.trans h.launches
  transit := k.transit.trans h.transit

theorem acked_modCor (s : State) (k : Nat) {f : Core → Core} (hf : ∀ c, ∃ n q, f c = { c with sentCount := n, seq := q }) :
    Acked s (s.modCor k f) where
  cores j := by
    by_cases h : j = k
    · rw [h, cor_modCor_same]; exact hf _
    · rw [cor_modCor_other _ _ h]; exact ⟨_, _, rfl⟩
  dies _ := ⟨_, rfl⟩
  threads _ := ⟨_, rfl⟩
  launches := rfl
  transit := rfl

theorem acked_modThr (s : State) (t : Nat) {f : Thread → Thread} (hf : ∀ x, ∃ l, f x = { x with asked := l }) :
    Acked s (s.modThr t f) where
  cores _ := ⟨_, _, rfl⟩
  dies _ := ⟨_, rfl⟩
  threads v := by
    by_cases h : v = t
    · rw [h, thr_modThr_same]; exact hf _
    · rw [thr_modThr_other _ _ h]; exact ⟨_, rfl⟩
  launches := rfl
  transit := rfl

theorem acked_modDie (s : State) (k : Nat) {f : Die → Die} (hf : ∀ d, ∃ r, f d = { d with replies := r }) :
    Acked s (s.modDie k f) where
  cores _ := ⟨_, _, rfl⟩
  dies d := by
    by_cases h : d = k
    · rw [h, die_modDie_same]; exact hf _
    · rw [die_modDie_other _ _ h]; exact ⟨_, rfl⟩
  threads _ := ⟨_, rfl⟩
  launches := rfl
  transit := rfl

theorem acked_ask (s : State) (ck : Nat) (a : Ask) : Acked s (s.ask ck a) := by
  unfold State.ask
  split
  · exact acked_modThr _ _ fun _ => ⟨_, rfl⟩
  · exact .refl _

theorem acked_noteRequest (s : State) (ck die : Nat) (r : Option Word) (off n : Nat) :
    Acked s (s.noteRequest ck die r off n) ∧
      ∀ k, ((s.noteRequest ck die r off n).cor k).sentCount = (s.cor k).sentCount := by
  unfold State.noteRequest
  split
  · exact ⟨.refl s, fun _ => rfl⟩
  · refine ⟨((acked_modCor s ck ?_).trans (acked_ask _ _ _)).trans (acked_modDie _ _ ?_), fun k => ?_⟩
    · exact fun c => ⟨c.sentCount, _, rfl⟩
    · exact fun _ => ⟨_, rfl⟩
    · dsimp only
      rw [cor_modDie, State.cor, cores_ask, ← State.cor]
      by_cases h : k = ck
      · rw [h, cor_modCor_same]
      · rw [cor_modCor_other _ _ h]

theorem acked_ackSend (s : State) (ck : Nat) (p : Post) : Acked s (s.ackSend ck p) ∧
    ((s.cor (coreOf p.msg.sender)).launch = p.lid →
      ((s.ackSend ck p).cor (coreOf p.msg.sender)).sentCount = (s.cor (coreOf p.msg.sender)).sentCount + 1) := by
  unfold State.ackSend
  dsimp only
  split
  next h => exact ⟨.refl s, fun hl => absurd hl (bne_iff_ne.1 h)⟩
  next h =>
    have h1 := acked_modCor s (coreOf p.msg.sender) (f := fun c => { c with sentCount := c.sentCount + 1 })
      (fun c => ⟨c.sentCount + 1, c.seq, rfl⟩)
    have hs1 : ((s.modCor (coreOf p.msg.sender) fun c => { c with sentCount := c.sentCount + 1 }).cor
        (coreOf p.msg.sender)).sentCount = (s.cor (coreOf p.msg.sender)).sentCount + 1 := by rw [cor_modCor_same]
    generalize (s.modCor (coreOf p.msg.sender) fun c => { c with sentCount := c.sentCount + 1 }) = u at h1 hs1
    obtain ⟨h2, hs2⟩ := acked_noteRequest u (coreOf p.msg.sender) (coreDie ck) none 0 8
    split
    · exact ⟨h1.trans h2, fun _ => (hs2 _).trans hs1⟩
    · refine ⟨(h1.trans h2).trans (acked_modThr _ _ fun x => ?_), fun _ => ?_⟩
      · split
        · exact ⟨_, rfl⟩
        · exact ⟨_, rfl⟩
      · rw [cor_modThr]
        exact (hs2 _).trans hs1

section
variable {s t : State} (h : Acked s t)
include h

theorem Acked.classReach (ck cls : Nat) (lid : Option Nat) : t.classReach ck cls lid = s.classReach ck cls lid := by
  obtain ⟨n, q, hc⟩ := h.cores ck
  obtain ⟨r, hd⟩ := h.dies (coreDie ck)
  unfold State.classReach
  rw [hc, hd, h.launches]

theorem Acked.mailbox (ck : Nat) : (t.cor ck).mailbox = (s.cor ck).mailbox := by
  obtain ⟨n, q, hc⟩ := h.cores ck
  rw [hc]

theorem Acked.mailFull (ck : Nat) (b : Bool) : (t.cor ck).mailFull b = (s.cor ck).mailFull b := by
  rw [Core.mailFull, Core.mailFull, h.mailbox]

theorem Acked.classes (ck : Nat) : (t.cor ck).classes = (s.cor ck).classes := by
  obtain ⟨n, q, hc⟩ := h.cores ck
  rw [hc]

theorem Acked.trapQ (d : Nat) : (t.die d).trapQ = (s.die d).trapQ := by
  obtain ⟨r, hd⟩ := h.dies d
  rw [hd]

end

/-! ## A mailbox that takes a message (R119, R303) -/

/-- From a state to another a message's tag has been counted at most. -/
structure Tagged (s t : State) : Prop where
  cores : t.cores = s.cores
  threads : t.threads = s.threads
  transit : t.transit = s.transit
  trapQ : ∀ d, (t.die d).trapQ = (s.die d).trapQ

theorem tagged_countTag (s : State) (ck : Nat) (m : Msg) : Tagged s (s.countTag ck m) := by
  unfold State.countTag
  split
  · dsimp only
    split
    · refine ⟨rfl, rfl, rfl, fun d => ?_⟩
      by_cases h : d = coreDie ck
      · rw [h, die_modDie_same]
      · rw [die_modDie_other _ _ h]
    · exact ⟨rfl, rfl, rfl, fun _ => rfl⟩
  · exact ⟨rfl, rfl, rfl, fun _ => rfl⟩

/-- A message queued: where it stands, and what the context of its class does. -/
structure Queued (s t : State) (ck : Nat) (m : Msg) : Prop where
  core : t.cor ck = { s.cor ck with mailbox := (s.cor ck).mailbox ++ [m] }
  cores : ∀ k, k ≠ ck → t.cor k = s.cor k
  transit : t.transit = s.transit
  trapQ : ∀ d, (t.die d).trapQ = (s.die d).trapQ
  notified : ∀ ce, (s.cor ck).classes.find m.cls = some ce → ∃ n, t.thr (threadOf ck ce.ctx) =
    (s.thr (threadOf ck ce.ctx)).notify n (Core.startEntry { s.cor ck with mailbox := (s.cor ck).mailbox ++ [m] } ce.ctx)

theorem queued_queueMsg (s : State) (ck : Nat) (m : Msg) : Queued s (s.queueMsg ck m) ck m := by
  unfold State.queueMsg
  dsimp only
  have hcor : (s.modCor ck fun c => { c with mailbox := c.mailbox ++ [m] }).cor ck =
      { s.cor ck with mailbox := (s.cor ck).mailbox ++ [m] } := cor_modCor_same _ _ _
  have hoth : ∀ k, k ≠ ck → (s.modCor ck fun c => { c with mailbox := c.mailbox ++ [m] }).cor k = s.cor k :=
    fun k hk => cor_modCor_other _ _ hk
  have htag := tagged_countTag (s.modCor ck fun c => { c with mailbox := c.mailbox ++ [m] }) ck m
  have hdie : ∀ d, (s.modCor ck fun c => { c with mailbox := c.mailbox ++ [m] }).die d = s.die d := fun _ => rfl
  have hthr : (s.modCor ck fun c => { c with mailbox := c.mailbox ++ [m] }).threads = s.threads := rfl
  have htr : (s.modCor ck fun c => { c with mailbox := c.mailbox ++ [m] }).transit = s.transit := rfl
  generalize (s.modCor ck fun c => { c with mailbox := c.mailbox ++ [m] }) = u at hcor hoth htag hdie hthr htr
  generalize u.countTag ck m = t at htag
  have hc : ∀ k, t.cor k = u.cor k := fun k => by rw [State.cor, State.cor, htag.cores]
  have hv : ∀ v, t.thr v = s.thr v := fun v => by rw [State.thr, State.thr, htag.threads, hthr]
  have hq : ∀ d, (t.die d).trapQ = (s.die d).trapQ := fun d => (htag.trapQ d).trans (congrArg Die.trapQ (hdie d))
  have hcls : (t.cor ck).classes = (s.cor ck).classes := by rw [hc, hcor]
  split
  next ce hce =>
    refine ⟨(hc ck).trans hcor, fun k hk => (hc k).trans (hoth k hk), htag.transit.trans htr, hq, fun ce' hce' => ?_⟩
    rw [hcls, hce'] at hce
    obtain rfl := Option.some.inj hce
    refine ⟨(t.die (coreDie ck)).cycle, ?_⟩
    rw [thr_modThr_same, hv, hc, hcor]
  next hce =>
    refine ⟨(hc ck).trans hcor, fun k hk => (hc k).trans (hoth k hk), htag.transit.trans htr, hq, fun ce' hce' => ?_⟩
    rw [hcls, hce'] at hce
    cases hce

/-! ## Where a message can go (R94, R116, R294) -/

section
variable {s : State} {ck cls : Nat} {lid : Option Nat}

theorem classReach_bound {ce : ClassEnt} (hon : (s.die (coreDie ck)).online = true) (hl : (s.cor ck).launch = lid)
    (hc : (s.cor ck).classes.find cls = some ce) : s.classReach ck cls lid = 2 := by
  rw [State.classReach, hon, hl, hc, beq_self_eq_true]
  rfl

theorem classReach_saved {l : Nat} {c : Core} (hon : (s.die (coreDie ck)).online = true) (hl : (s.cor ck).launch ≠ lid)
    (hlid : lid = some l) (hi : (s.launchOf l).images.find ck = some c) (hc : c.classes.find cls ≠ none) :
    s.classReach ck cls lid = 1 := by
  rw [State.classReach, hon, beq_false_of_ne hl, hlid]
  change (match (s.launchOf l).images.find ck with
    | some c => if (c.classes.find cls).isSome then 1 else 0
    | none => 0) = 1
  rw [hi]
  exact if_pos (Option.isSome_iff_ne_none.2 hc)

theorem deliver_reaches {p : Post} (hc : p.core = some ck) (h : s.classReach ck p.msg.cls p.lid ≠ 0) :
    s.deliver p = s.reach ck p := by
  unfold State.deliver
  rw [hc]
  exact if_pos h

/-- A message under a permit is acknowledged first. -/
def State.acks (s : State) (ck : Nat) (p : Post) : State := if p.msg.permitted then s.ackSend ck p else s

theorem acked_acks (s : State) (ck : Nat) (p : Post) : Acked s (s.acks ck p) := by
  unfold State.acks
  split
  · exact (acked_ackSend s ck p).1
  · exact .refl s

theorem acks_free {p : Post} (h : p.msg.permitted = false) : s.acks ck p = s := if_neg (by rw [h]; decide)

theorem sentCount_acks {p : Post} (h : p.msg.permitted = true) (hl : (s.cor (coreOf p.msg.sender)).launch = p.lid) :
    ((s.acks ck p).cor (coreOf p.msg.sender)).sentCount = (s.cor (coreOf p.msg.sender)).sentCount + 1 := by
  rw [State.acks, if_pos h]
  exact (acked_ackSend s ck p).2 hl

theorem reach_eq (s : State) (ck : Nat) (p : Post) : s.reach ck p =
    if s.classReach ck p.msg.cls p.lid = 1 then (s.acks ck p).waitQueued ck p
    else if !p.msg.permitted && ((s.cor ck).mailFull false ||
        (s.die (coreDie ck)).trapQ.any fun q => q.core == some ck && q.lid == p.lid) then (s.acks ck p).waitQueued ck p
    else (s.acks ck p).queueMsg ck p.msg := by
  have h := acked_acks s ck p
  change (if (s.acks ck p).classReach ck p.msg.cls p.lid = 1 then _ else if (!p.msg.permitted &&
    (((s.acks ck p).cor ck).mailFull false ||
      ((s.acks ck p).die (coreDie ck)).trapQ.any fun q => q.core == some ck && q.lid == p.lid)) = true
    then _ else _) = _
  rw [h.classReach, h.mailFull, h.trapQ]
  rfl

theorem reach_queues {p : Post} (hb : s.classReach ck p.msg.cls p.lid = 2) (hroom : p.msg.permitted = true ∨
    ((s.cor ck).mailFull false = false ∧ ∀ q ∈ (s.die (coreDie ck)).trapQ, q.core ≠ some ck ∨ q.lid ≠ p.lid)) :
    s.reach ck p = (s.acks ck p).queueMsg ck p.msg := by
  rw [reach_eq, hb, if_neg (by decide), if_neg]
  obtain h | ⟨hf, hq⟩ := hroom
  · rw [h]
    exact nofun
  · rw [hf, Bool.false_or, Bool.and_eq_true, List.any_eq_true]
    rintro ⟨-, q, hm, ho⟩
    rw [Bool.and_eq_true, beq_iff_eq, beq_iff_eq] at ho
    exact (hq q hm).elim (fun h => h ho.1) fun h => h ho.2

theorem reach_full {p : Post} (hb : s.classReach ck p.msg.cls p.lid = 2) (hp : p.msg.permitted = false)
    (hf : (s.cor ck).mailFull false = true) : s.reach ck p = s.waitQueued ck p := by
  rw [reach_eq, hb, if_neg (by decide), if_pos (by rw [hp, hf]; rfl), acks_free hp]

theorem reach_saved {p : Post} (hb : s.classReach ck p.msg.cls p.lid = 1) :
    s.reach ck p = (s.acks ck p).waitQueued ck p := by
  rw [reach_eq, if_pos hb]

theorem trapQ_waitQueued (s : State) (ck : Nat) (p : Post) :
    ((s.waitQueued ck p).die (coreDie ck)).trapQ = (s.die (coreDie ck)).trapQ ++ [p] := by
  rw [State.waitQueued, die_modDie_same]

end

/-! ## Where it goes -/

theorem notify_ready (x : Thread) (n : Nat) (e : Option Word) : (x.notify n e).readyBit = true := by
  unfold Thread.notify
  dsimp only
  split
  · split
    · split <;> rfl
    · rfl
  · split <;> rfl
  · rfl

theorem notify_parked {x : Thread} (n : Nat) (e : Option Word) (hst : x.st = .parked) (hp : x.parkedStart = false) :
    x.notify n e = { x with readyBit := true }.wake := by
  unfold Thread.notify
  dsimp only
  rw [hst]
  dsimp only
  rw [hp]
  rfl

theorem notify_starts {x : Thread} (n : Nat) {e : Word} (hst : x.st = .parked) (hp : x.parkedStart = true) :
    (x.notify n (some e)).st = .ready ∧ (x.notify n (some e)).pc = entryPc e := by
  unfold Thread.notify
  dsimp only
  rw [hst]
  dsimp only
  rw [hp]
  exact ⟨rfl, rfl⟩

theorem toNat_entryPc (a : Word) : (entryPc a).toNat = a.toNat / 4 * 4 := by
  have hm : (~~~3 : Word) = BitVec.allOnes 64 <<< 2 := by decide
  have h : entryPc a = (a >>> 2) <<< 2 := by
    rw [entryPc, hm]
    ext i hi
    simp only [BitVec.getElem_and, BitVec.getElem_shiftLeft, BitVec.getElem_ushiftRight]
    by_cases h2 : i < 2
    · simp [h2]
    · simp only [h2, decide_false, Bool.not_false, Bool.true_and]
      rw [show 2 + (i - 2) = i by omega]
      rw [BitVec.getElem_allOnes, Bool.and_true, BitVec.getLsbD_eq_getElem hi]
  rw [h, BitVec.toNat_shiftLeft, BitVec.toNat_ushiftRight, Nat.shiftRight_eq_div_pow, Nat.shiftLeft_eq]
  omega

theorem find?_of_find {c : AMap ClassEnt} {k : Nat} {ce : ClassEnt} {p : Nat × ClassEnt → Bool} (hc : c.find k = some ce)
    (hp : p (k, ce) = true) (hk : ∀ e, p e = true → e.1 = k) : List.find? p c = some (k, ce) := by
  induction c with
  | nil => cases hc
  | cons e r ih =>
    obtain ⟨j, x⟩ := e
    rw [AMap.find] at hc
    split at hc
    next h =>
      obtain rfl := Option.some.inj hc
      rw [← h, List.find?_cons_of_pos hp]
    next h =>
      rw [List.find?_cons_of_neg (fun hn => h (hk _ hn).symm)]
      exact ih hc

/-- A message that stands alone in its mailbox starts the context of its class at that class's entry. -/
theorem startEntry_alone {c : Core} {m : Msg} {ce : ClassEnt} {a : Word} (hm : c.mailbox = [])
    (hc : c.classes.find m.cls = some ce) (he : ce.entry = some a) :
    Core.startEntry { c with mailbox := c.mailbox ++ [m] } ce.ctx = some a := by
  have hf := find?_of_find (p := fun e => e.2.ctx == ce.ctx && e.2.entry.isSome && [m].any (·.cls == e.1)) hc
    (by simp [he]) (fun e h => by simp at h; exact h.2.symm)
  rw [Core.startEntry, hm]
  change (List.find? (fun e => e.2.ctx == ce.ctx && e.2.entry.isSome && [m].any (·.cls == e.1)) c.classes).bind _ = _
  rw [hf]
  exact he

section
variable {s : State} {qs r : List Post} {p : Post} (ht : s.transit = qs ++ p :: r) (hq : ∀ q ∈ qs, s.heldPost q = true)
  (hp : s.heldPost p = false)
include ht hq hp

/-- A message for a class that a core of its launch binds, with a slot for it. -/
theorem messageArrival_queues {ck : Nat} {ce : ClassEnt} (hcore : p.core = some ck) (hon : (s.die (coreDie ck)).online = true)
    (hl : (s.cor ck).launch = p.lid) (hc : (s.cor ck).classes.find p.msg.cls = some ce)
    (hroom : p.msg.permitted = true ∨ ((s.cor ck).mailFull false = false ∧
      ∀ q ∈ (s.die (coreDie ck)).trapQ, q.core ≠ some ck ∨ q.lid ≠ p.lid)) :
    ∃ t, exec .messageArrival s = .next t ∧ t.transit = qs ++ r ∧ (t.cor ck).mailbox = (s.cor ck).mailbox ++ [p.msg] ∧
      (p.msg.permitted = true → (s.cor (coreOf p.msg.sender)).launch = p.lid →
        (t.cor (coreOf p.msg.sender)).sentCount = (s.cor (coreOf p.msg.sender)).sentCount + 1) ∧
      (let v := threadOf ck ce.ctx
       (t.thr v).readyBit = true ∧
        ((s.thr v).st = .parked → (s.thr v).parkedStart = false → Woken t v ∧ (t.thr v).pc = (s.thr v).pc) ∧
        ∀ a, (s.thr v).st = .parked → (s.thr v).parkedStart = true → (s.cor ck).mailbox = [] → ce.entry = some a →
          (t.thr v).st = .ready ∧ (t.thr v).pc.toNat = a.toNat / 4 * 4) := by
  have h2 : (s.arriving (qs ++ r)).classReach ck p.msg.cls p.lid = 2 := classReach_bound (s := s.arriving (qs ++ r)) hon hl hc
  have he := exec_messageArrival_core ht hq hp hcore
  rw [deliver_reaches hcore (by rw [h2]; decide), reach_queues h2 hroom] at he
  have hack := acked_acks (s.arriving (qs ++ r)) ck p
  have hsent : p.msg.permitted = true → (s.cor (coreOf p.msg.sender)).launch = p.lid →
      (((s.arriving (qs ++ r)).acks ck p).cor (coreOf p.msg.sender)).sentCount = (s.cor (coreOf p.msg.sender)).sentCount + 1 :=
    fun h hl => sentCount_acks (s := s.arriving (qs ++ r)) h hl
  generalize ((s.arriving (qs ++ r)).acks ck p) = u at he hack hsent
  have hqu := queued_queueMsg u ck p.msg
  have hcls : (u.cor ck).classes = (s.cor ck).classes := hack.classes ck
  have hmb : (u.cor ck).mailbox = (s.cor ck).mailbox := hack.mailbox ck
  obtain ⟨l, hthr⟩ := hack.threads (threadOf ck ce.ctx)
  change u.thr (threadOf ck ce.ctx) = { s.thr (threadOf ck ce.ctx) with asked := l } at hthr
  obtain ⟨n, hn⟩ := hqu.notified ce (by rw [hcls]; exact hc)
  rw [hthr] at hn
  refine ⟨_, he, hqu.transit.trans hack.transit, ?_, fun h hl => ?_, ?_, fun hst hps => ?_, fun a hst hps hm hent => ?_⟩
  · rw [hqu.core, ← hmb]
  · rw [← hsent h hl]
    by_cases hk : coreOf p.msg.sender = ck
    · rw [hk, hqu.core]
    · rw [hqu.cores _ hk]
  · rw [hn]; exact notify_ready _ _ _
  · rw [Woken, hn, notify_parked _ _ (by exact hst) (by exact hps)]
    exact ⟨⟨rfl, rfl, rfl⟩, rfl⟩
  · rw [hn, startEntry_alone (hmb.trans hm) (by rw [hcls]; exact hc) hent, ← toNat_entryPc]
    have hs := notify_starts (x := { s.thr (threadOf ck ce.ctx) with asked := l }) n (e := a) hst hps
    exact ⟨hs.1, congrArg BitVec.toNat hs.2⟩

/-- One whose mailbox has no slot left waits in the die's trap queue. -/
theorem messageArrival_full {ck : Nat} {ce : ClassEnt} (hcore : p.core = some ck) (hon : (s.die (coreDie ck)).online = true)
    (hl : (s.cor ck).launch = p.lid) (hc : (s.cor ck).classes.find p.msg.cls = some ce) (hperm : p.msg.permitted = false)
    (hf : (s.cor ck).mailFull false = true) : ∃ t, exec .messageArrival s = .next t ∧ t.transit = qs ++ r ∧
      (t.die (coreDie ck)).trapQ = (s.die (coreDie ck)).trapQ ++ [p] ∧ t.cores = s.cores ∧ t.threads = s.threads := by
  have h2 : (s.arriving (qs ++ r)).classReach ck p.msg.cls p.lid = 2 := classReach_bound (s := s.arriving (qs ++ r)) hon hl hc
  have he := exec_messageArrival_core ht hq hp hcore
  rw [deliver_reaches hcore (by rw [h2]; decide), reach_full h2 hperm hf] at he
  exact ⟨_, he, rfl, trapQ_waitQueued (s.arriving (qs ++ r)) ck p, rfl, rfl⟩

/-- One for a SAVED launch waits there too. -/
theorem messageArrival_saved {ck l : Nat} {c : Core} (hcore : p.core = some ck) (hon : (s.die (coreDie ck)).online = true)
    (hl : (s.cor ck).launch ≠ p.lid) (hlid : p.lid = some l) (hi : (s.launchOf l).images.find ck = some c)
    (hc : c.classes.find p.msg.cls ≠ none) : ∃ t, exec .messageArrival s = .next t ∧ t.transit = qs ++ r ∧
      (t.die (coreDie ck)).trapQ = (s.die (coreDie ck)).trapQ ++ [p] ∧
      (p.msg.permitted = false → t.cores = s.cores ∧ t.threads = s.threads) := by
  have h1 : (s.arriving (qs ++ r)).classReach ck p.msg.cls p.lid = 1 :=
    classReach_saved (s := s.arriving (qs ++ r)) hon hl hlid hi hc
  have he := exec_messageArrival_core ht hq hp hcore
  rw [deliver_reaches hcore (by rw [h1]; decide), reach_saved h1] at he
  have hack := acked_acks (s.arriving (qs ++ r)) ck p
  refine ⟨_, he, hack.transit, ?_, fun hperm => ?_⟩
  · rw [trapQ_waitQueued, hack.trapQ]
    rfl
  · rw [acks_free hperm]
    exact ⟨rfl, rfl⟩

/-- A message for the service, or for no class that its launch binds, comes to the service. -/
theorem messageArrival_service (hfwd : p.fwd = none) (h : (p.core = none ∧ p.trapRec = false) ∨
      (p.msg.permitted = false ∧ ∃ ck, p.core = some ck ∧ s.classReach ck p.msg.cls p.lid = 0)) :
    ∃ t, exec .messageArrival s = .next t ∧ t = { s with transit := qs ++ r, service := p :: s.service } := by
  have hrec : (s.arriving (qs ++ r)).serviceReceives p = { s with transit := qs ++ r, service := p :: s.service } := by
    unfold State.serviceReceives
    rw [hfwd]
    rfl
  obtain ⟨hcore, hrt⟩ | ⟨hperm, ck, hcore, h0⟩ := h
  · refine ⟨_, exec_messageArrival ht hq hp (by rw [hrt, Bool.and_false]), ?_⟩
    rw [← hrec, State.deliver, hcore]
  · refine ⟨_, exec_messageArrival_core ht hq hp hcore, ?_⟩
    have h0' : (s.arriving (qs ++ r)).classReach ck p.msg.cls p.lid = 0 := h0
    unfold State.deliver
    rw [hcore]
    dsimp only
    rw [if_neg (not_not.2 h0'), hperm]
    exact hrec

/-- A message under a permit for no class that its launch binds goes with the launch. -/
theorem messageArrival_gone {ck : Nat} (hcore : p.core = some ck) (hperm : p.msg.permitted = true)
    (h0 : s.classReach ck p.msg.cls p.lid = 0) : exec .messageArrival s = .next { s with transit := qs ++ r } := by
  rw [exec_messageArrival_core ht hq hp hcore]
  have h0' : (s.arriving (qs ++ r)).classReach ck p.msg.cls p.lid = 0 := h0
  unfold State.deliver
  rw [hcore]
  dsimp only
  rw [if_neg (not_not.2 h0'), hperm]
  rfl

end

/-! ## Trap queues (R94) -/

theorem takeQueued_split {s : State} {qs r : List Post} {p : Post} (hq : ∀ q ∈ qs, s.canQueue q = false)
    (hp : s.canQueue p = true) : takeQueued s (qs ++ p :: r) = some (p, qs ++ r) := by
  induction qs with
  | nil =>
    change (if s.canQueue p = true then _ else _) = _
    rw [if_pos hp]
    rfl
  | cons q qs ih =>
    change (if s.canQueue q = true then _ else _) = _
    rw [if_neg (by rw [hq q List.mem_cons_self]; decide)]
    exact congrArg (Option.map _) (ih fun x hx => hq x (List.mem_cons_of_mem _ hx))

theorem trapQueueDelivery_queues {s : State} {die ck : Nat} {qs r : List Post} {p : Post}
    (ht : (s.die die).trapQ = qs ++ p :: r) (hq : ∀ q ∈ qs, s.canQueue q = false) (hp : s.canQueue p = true)
    (hc : p.core = some ck) : ∃ t, exec (.trapQueueDelivery die) s = .next t ∧ (t.die die).trapQ = qs ++ r ∧
      (t.cor ck).mailbox = (s.cor ck).mailbox ++ [p.msg] := by
  have he : exec (.trapQueueDelivery die) s =
      .next ((s.modDie die fun d => { d with trapQ := qs ++ r }).queueMsg ck p.msg) := by
    change execTrapQueueDelivery die s = _
    unfold execTrapQueueDelivery
    rw [ht, takeQueued_split hq hp]
    dsimp only
    rw [hc]
    rfl
  have h := queued_queueMsg (s.modDie die fun d => { d with trapQ := qs ++ r }) ck p.msg
  refine ⟨_, he, ?_, ?_⟩
  · rw [h.trapQ, die_modDie_same]
  · rw [h.core]
    rfl

end Sys2Proof.Machine
end

section
/-! PROOFS. Saves that complete, instruction lines and page walks that end, and the events of the threads (R130, R133 to R135,
R276, R277). -/

namespace Sys2Proof.Machine

/-! ## Saves (R133 to R138) -/

/-- What the completed save of a thread does to a context. -/
def saverEnded (t : Nat) (x : Thread) : Thread :=
  match x.st, x.wait with
  | .waiting, some w =>
    if w.kind = .save t then x.endWait w.d stDone else if w.kind = .saved t then x.wake else x
  | _, _ => x

theorem saverEnded_idle (t : Nat) {x : Thread} (h : x.st ≠ .waiting) : saverEnded t x = x := by
  unfold saverEnded
  split
  next hst _ => exact absurd hst h
  next => rfl

theorem thr_endSavers (s : State) (t v : Nat) : (s.endSavers t).thr v = saverEnded t (s.thr v) := by
  have hmap := AMap.get_map (fun _ (x : Thread) => saverEnded t x) (threadInit v) s.threads v
  have hinit : saverEnded t (threadInit v) = threadInit v :=
    saverEnded_idle t (by unfold threadInit; split <;> exact nofun)
  rw [hinit] at hmap
  refine Eq.trans ?_ hmap
  refine congrArg (fun m => AMap.get (threadInit v) m v) (List.map_congr_left fun e _ => ?_)
  obtain ⟨k, x⟩ := e
  by_cases hst : x.st = .waiting
  · cases hw : x.wait with
    | none => simp [saverEnded, hst, hw]
    | some w =>
      simp only [saverEnded, hst, hw]
      split
      · rfl
      · split <;> rfl
  · rw [saverEnded_idle t hst]
    dsimp only
    split
    next w h _ => exact absurd h hst
    next => rfl

theorem slotRead_endSavers (s : State) (t u : Nat) (i : Nat) : (s.endSavers t).slotRead u i = s.slotRead u i := rfl

/-- The state in which a save writes its slot. -/
def State.saving (s : State) (t : Nat) : State :=
  ((if (s.thr t).st = .trapped then s else s.withdraw t).l1Release (coreOf t)).l1Acquire (coreOf t)

theorem saveContext_eq (s : State) (t : Nat) : s.saveContext t =
    (((s.saving t).slotWrite t ((s.saving t).thr t)).modThr t fun x =>
      { x with st := .saved, saveFrom := none, saveTold := false }).endSavers t := rfl

theorem exec_contextSaveComplete {s : State} {u : Nat} (h : s.saveReady u = true) :
    exec (.contextSaveComplete u) s = .next (s.saveContext u) := by
  change execContextSaveComplete u s = _
  rw [execContextSaveComplete, if_pos h]

/-- The thread that a save writes: as it stands where it is TRAPPED, else as it stands past the withdrawal of its form. -/
theorem thr_saving (s : State) (t : Nat) :
    ∃ l, (s.saving t).thr t = { (if (s.thr t).st = .trapped then s.thr t else (s.thr t).takeBack) with asked := l } := by
  have ha : MemAside (coreOf t) (if (s.thr t).st = .trapped then s else s.withdraw t) (s.saving t) :=
    (memAside_l1Release _ _).trans (memAside_l1Acquire _ _)
  obtain ⟨l, hl⟩ := ha.thr_asked t
  refine ⟨l, ?_⟩
  rw [hl]
  split
  · rfl
  · rw [thr_withdraw_same]

/-- A thread that waits for the save keeps what it holds till the save is over. -/
theorem thr_saving_other {s : State} {t v : Nat} (hv : v ≠ t) {w : Wait} (hw : (s.thr v).wait = some w) (hk : w.kind = .save t) :
    ∃ l, (s.saving t).thr v = { s.thr v with asked := l } := by
  have ha : MemAside (coreOf t) (if (s.thr t).st = .trapped then s else s.withdraw t) (s.saving t) :=
    (memAside_l1Release _ _).trans (memAside_l1Acquire _ _)
  obtain ⟨l, hl⟩ := ha.thr_asked v
  refine ⟨l, ?_⟩
  rw [hl]
  split
  · rfl
  · rw [thr_withdraw_other hv (by rw [hw, Option.map_some, hk]; exact nofun)]

theorem thr_slotWrite (s : State) {t : Nat} (h : t < 2 ^ 17) (x : Thread) (v : Nat) : (s.slotWrite t x).thr v = s.thr v := by
  rw [slotWrite_eq h]
  rfl

/-- A thread past its save. -/
theorem thr_saveContext_same (s : State) (t : Nat) :
    ((s.saveContext t).thr t).st = .saved ∧ ((s.saveContext t).thr t).saveFrom = none := by
  rw [saveContext_eq, thr_endSavers, thr_modThr_same, saverEnded_idle _ (by exact nofun)]
  exact ⟨rfl, rfl⟩

theorem slotRead_saveContext {s : State} {t : Nat} (h : t < 2 ^ 17) {i : Nat} (hi : i < 320) :
    (s.saveContext t).slotRead t i = ((s.saving t).thr t).toSlot.getD i 0 := by
  rw [saveContext_eq, slotRead_endSavers]
  exact slotRead_slotWrite h _ hi

/-- What the slot of a saved thread holds. -/
theorem slot_saveContext {s : State} {t : Nat} (h : t < 2 ^ 17) {x : Thread} {l : List Ask}
    (hx : (s.saving t).thr t = { x with asked := l }) :
    (s.saveContext t).slotRead t 287 = x.pc ∧ (∀ r : Reg, r ≠ 0 → (s.saveContext t).slotRead t (255 + r.val) = x.rg r) ∧
      (s.saveContext t).slotRead t 319 = if x.st = .trapped then 1 else 0 := by
  refine ⟨?_, fun r hr => ?_, ?_⟩
  · rw [slotRead_saveContext h (by decide), toSlot_pc, hx]
  · rw [slotRead_saveContext h (by have := r.isLt; omega), toSlot_g _ hr, hx]
    rfl
  · rw [slotRead_saveContext h (by decide), show 319 = 311 + 8 from rfl, toSlot_tail, hx]
    rfl

theorem contextSave_stands {s : State} {u : Nat} (hu : u < 2 ^ 17) (hr : s.saveReady u = true)
    (hb : (s.thr u).before = none ∨ (s.thr u).st = .trapped) : ∃ t, exec (.contextSaveComplete u) s = .next t ∧
    (t.thr u).st = .saved ∧ (t.thr u).saveFrom = none ∧ t.slotRead u 287 = (s.thr u).pc ∧
    (∀ r : Reg, r ≠ 0 → t.slotRead u (255 + r.val) = (s.thr u).rg r) ∧
    t.slotRead u 319 = (if (s.thr u).st = .trapped then 1 else 0) ∧
    ∀ v w, v ≠ u → (s.thr v).st = .waiting → (s.thr v).wait = some w → w.kind = .save u → Woken t v ∧
      (t.thr v).rg w.d = 0 ∧ NextWord (s.thr v) (t.thr v) := by
  obtain ⟨l, hl⟩ := thr_saving s u
  obtain ⟨hst, hsf⟩ := thr_saveContext_same s u
  obtain ⟨hpc, hrg, htr⟩ := slot_saveContext hu hl
  have hx : RegsKept (s.thr u) (if (s.thr u).st = .trapped then s.thr u else (s.thr u).takeBack) := by
    split
    · exact .refl _
    next h => exact regsKept_takeBack (hb.resolve_right h)
  have hxst : (if (s.thr u).st = .trapped then s.thr u else (s.thr u).takeBack).st = (s.thr u).st := by
    split
    · rfl
    · unfold Thread.takeBack
      split <;> rfl
  refine ⟨_, exec_contextSaveComplete hr, hst, hsf, hpc.trans hx.pc, fun r hr => (hrg r hr).trans (hx.rg r),
    by rw [htr, hxst], fun v w hv hvst hw hk => ?_⟩
  obtain ⟨m, hm⟩ := thr_saving_other hv hw hk
  have hthr : (s.saveContext u).thr v = ({ s.thr v with asked := m } : Thread).endWait w.d stDone := by
    rw [saveContext_eq, thr_endSavers, thr_modThr_other _ _ hv, thr_slotWrite _ hu, hm]
    unfold saverEnded
    dsimp only
    rw [hvst, hw]
    exact if_pos hk
  have hend := ended_endWait (x := s.thr v) (y := { s.thr v with asked := m }) ⟨rfl, rfl, rfl, rfl, rfl, rfl⟩ w.d stDone
  rw [Woken, hthr]
  exact ⟨⟨rfl, rfl, rfl⟩, hend.rg.trans (ite_self _), hend.next⟩

/-- A save that withdraws a form saves the registers as they stood before it. -/
theorem contextSave_withdraws {s : State} {u : Nat} (hu : u < 2 ^ 17) (hr : s.saveReady u = true) {b : Regs}
    (hb : (s.thr u).before = some b) (hst : (s.thr u).st ≠ .trapped) : ∃ t, exec (.contextSaveComplete u) s = .next t ∧
    (t.thr u).st = .saved ∧ (t.thr u).saveFrom = none ∧ t.slotRead u 287 = b.pc ∧
    (∀ r : Reg, r ≠ 0 → t.slotRead u (255 + r.val) = b.g[r]) ∧ t.slotRead u 319 = 0 := by
  obtain ⟨l, hl⟩ := thr_saving s u
  have hx : (if (s.thr u).st = .trapped then s.thr u else (s.thr u).takeBack) = ((s.thr u).withRegs b).formOver := by
    rw [if_neg hst, Thread.takeBack, hb]
  rw [hx] at hl
  obtain ⟨hsaved, hsf⟩ := thr_saveContext_same s u
  obtain ⟨hpc, hrg, htr⟩ := slot_saveContext hu hl
  refine ⟨_, exec_contextSaveComplete hr, hsaved, hsf, hpc, fun r hr => (hrg r hr).trans ?_, htr.trans (if_neg hst)⟩
  exact if_neg hr

theorem saveDeferralReport_posts {s : State} {u k : Nat} (hk : (s.thr u).saveFrom = some k) (ho : k + 2 ^ 20 ≤ s.tick)
    (hp : (s.thr u).packet ≠ []) (ht : (s.thr u).saveTold = false) : ∃ t p, exec (.saveDeferralReport u) s = .next t ∧
    (t.thr u).saveTold = true ∧ t.transit = s.transit ++ [p] ∧ p.core = none := by
  have he : exec (.saveDeferralReport u) s = .next ((s.modThr u fun x => { x with saveTold := true }).post
      { s.recordFrom u none (reportWords repDeferral u) with src := none, trapRec := false }) := by
    change execSaveDeferralReport u s = _
    unfold execSaveDeferralReport
    rw [hk]
    dsimp only
    rw [if_pos]
    rw [ht, decide_eq_true ho]
    cases hq : (s.thr u).packet with
    | nil => exact absurd hq hp
    | cons _ _ => rfl
  refine ⟨_, _, he, ?_, rfl, rfl⟩
  exact congrArg Thread.saveTold (thr_modThr_same s u fun x => { x with saveTold := true })

/-! ## Instruction lines and page walks (R130, R276, R277) -/

theorem icacheMissFill_fills {s : State} {u va : Nat} {w : Wait} {e : TlbEnt} (hw : (s.thr u).wait = some w)
    (hk : w.kind = .icacheMiss va) (hf : tlbFind (s.cor (coreOf u)).tlb va = some e) :
    ∃ t, exec (.icacheMissFill u) s = .next t ∧ Woken t u ∧
      (t.cor (coreOf u)).icache.find (va / 64) = some (s.fetchLine (ptePa e.pte + (va - va % 64 - e.va))) := by
  obtain ⟨v, hv⟩ : ∃ v : State, exec (.icacheMissFill u) s = .next ((v.icacheSet (coreOf u) (va / 64)
      (s.fetchLine (ptePa e.pte + (va - va % 64 - e.va)))).modThr u (·.wake)) := by
    refine ⟨(s.filterEnter (ptePa e.pte + (va - va % 64 - e.va)) (pteBd e.pte)).noteRequest (coreOf u)
      (homeDie (ptePa e.pte + (va - va % 64 - e.va))) none, ?_⟩
    change execIcacheMissFill u s = _
    unfold execIcacheMissFill
    rw [hw]
    dsimp only
    rw [hk]
    dsimp only
    rw [hf]
  refine ⟨_, hv, ?_, ?_⟩
  · rw [Woken, thr_modThr_same]
    exact ⟨rfl, rfl, rfl⟩
  · rw [cor_modThr, State.icacheSet]
    split
    · rw [cor_modCor_same]
      exact AMap.find_set_same _ _ _
    · dsimp only
      rw [cor_modCor_same]
      exact AMap.find_set_same _ _ _

/-- The state in which a walk has read its entries. -/
def State.walked (s : State) (t va : Nat) : State :=
  (s.walkReads (s.cor (coreOf t)).asid va).foldl (State.walkRead (coreOf t)) (s.endWalk t)

theorem memAside_walked (s : State) (t va : Nat) : MemAside (coreOf t) (s.endWalk t) (s.walked t va) :=
  MemAside.foldl (fun s _ => (memAside_filterEnter s _ _ _).trans (memAside_noteRequest _ _ _ _ _ _)) _ _

theorem exec_pageWalkComplete {s : State} {u va : Nat} (hw : (s.thr u).walkVa = some va) (hh : s.hasWalker u = true) :
    exec (.pageWalkComplete u) s = .next (match s.walk (s.cor (coreOf u)).asid va with
        | .leaf base pte =>
          ((s.walked u va).modCor (coreOf u) fun c => { c with tlb := { va := base, pte := pte } :: c.tlb }).modThr u (·.wake)
        | .noPage => (s.walked u va).takeTrap u { cause := cTranslation, info := BitVec.ofNat 64 va }
        | .poisoned pa => (s.walked u va).takeTrap u ((s.thr u).walkTrap va (uncorrectable (pa / 8)))) := by
  change execPageWalkComplete u s = _
  unfold execPageWalkComplete
  rw [hw]
  dsimp only
  rw [hh]
  rfl

section
variable {s : State} {u va : Nat} (hw : (s.thr u).walkVa = some va) (hh : s.hasWalker u = true)
include hw hh

theorem pageWalk_leaf {b : Nat} {e : Word} (h : s.walk (s.cor (coreOf u)).asid va = .leaf b e) :
    ∃ t, exec (.pageWalkComplete u) s = .next t ∧ Woken t u ∧ t.walks = s.walks.erase u ∧
      (t.cor (coreOf u)).tlb = { va := b, pte := e } :: (s.cor (coreOf u)).tlb := by
  have he := exec_pageWalkComplete hw hh
  rw [h] at he
  have ha := memAside_walked s u va
  refine ⟨_, he, ?_, ?_, ?_⟩
  · rw [Woken, thr_modThr_same]
    exact ⟨rfl, rfl, rfl⟩
  · exact ha.walks
  · obtain ⟨l, q, n, hc⟩ := ha.core
    dsimp only
    rw [cor_modThr, cor_modCor_same, hc]
    rfl

theorem pageWalk_noPage (h : s.walk (s.cor (coreOf u)).asid va = .noPage) : ∃ t, exec (.pageWalkComplete u) s = .next t ∧
    (t.thr u).st = .trapped ∧ (t.thr u).kcause = 0x10 ∧ (t.thr u).kinfo = BitVec.ofNat 64 va := by
  have he := exec_pageWalkComplete hw hh
  rw [h] at he
  refine ⟨_, he, ?_⟩
  dsimp only
  rw [thr_takeTrap_same]
  exact ⟨rfl, rfl, rfl⟩

theorem pageWalk_poisoned {pa : Nat} (h : s.walk (s.cor (coreOf u)).asid va = .poisoned pa) :
    ∃ t, exec (.pageWalkComplete u) s = .next t ∧ (t.thr u).st = .trapped ∧ (t.thr u).kcause = 0x90 ∧
      ((∃ n len sd sa sb, decode (s.thr u).word.toNat = .ok (.rep n len sd sa sb)) → (t.thr u).kinfo = BitVec.ofNat 64 va) ∧
      ((¬ ∃ n len sd sa sb, decode (s.thr u).word.toNat = .ok (.rep n len sd sa sb)) →
        (t.thr u).kinfo = BitVec.ofNat 64 (pa / 8 * 8)) := by
  have he := exec_pageWalkComplete hw hh
  rw [h] at he
  have hcause : ((s.thr u).walkTrap va (uncorrectable (pa / 8))).cause = 0x90 := by
    unfold Thread.walkTrap
    split <;> rfl
  refine ⟨_, he, ?_⟩
  dsimp only
  rw [thr_takeTrap_same, hcause]
  refine ⟨rfl, rfl, fun ⟨n, len, sd, sa, sb, hd⟩ => ?_, fun hn => ?_⟩
  · dsimp only
    rw [Thread.walkTrap, hd]
  · dsimp only
    unfold Thread.walkTrap
    split
    next n len sd sa sb hd => exact absurd ⟨n, len, sd, sa, sb, hd⟩ hn
    next => rw [uncorrectable, Nat.mul_comm]

end

/-- Settles O53: replies and limits, messages that arrive and are delivered, saves, instruction lines and page walks. -/
theorem threadEvents : Obligations.ThreadEvents := by
  unfold Obligations.ThreadEvents
  intro s u
  refine ⟨fun w hst hw hk => replyArrival_rejoins hst hw hk, fun w hst hw h1 h14 ho => ⟨?_, ?_, ?_, ?_⟩,
    fun qs p r ht hq hp => ⟨fun ck ce hc _ hon hl hce => ⟨?_, ?_⟩, fun ck l c hc _ hon hl hlid hi hcls => ?_, ?_, ?_⟩,
    fun die qs p r ck ht hq hp hc => trapQueueDelivery_queues ht hq hp hc, fun hu hr => ⟨contextSave_stands hu hr, ?_⟩,
    fun k hk ho hp ht => saveDeferralReport_posts hk ho hp ht, fun w va e hw hk hf => icacheMissFill_fills hw hk hf,
    fun va hw hh => ⟨fun b e h => pageWalk_leaf hw hh h, pageWalk_noPage hw hh, fun pa h => pageWalk_poisoned hw hh h⟩⟩
  · exact fun hb hh hc => waitExpiry_status hst hw h1 h14 ho hb hh hc
  · exact fun n hk h64 => waitExpiry_crossing hst hw h1 h14 hk h64
  · exact fun ps va hk hb => waitExpiry_blocked hst hw h1 h14 ho hk hb
  · exact fun ps hst hk hb hs h => waitExpiry_free hst hw h1 h14 ho hk hb hs h
  · exact fun hroom => messageArrival_queues ht hq hp hc hon hl hce hroom
  · exact fun hperm hf => messageArrival_full ht hq hp hc hon hl hce hperm hf
  · exact messageArrival_saved ht hq hp hc hon hl hlid hi hcls
  · exact fun hfwd h => messageArrival_service ht hq hp hfwd h
  · exact fun ck hc hperm h0 => messageArrival_gone ht hq hp hc hperm h0
  · exact fun b hb hst => contextSave_withdraws hu hr hb hst

end Sys2Proof.Machine
end

section
/-! PROOFS. Keyed memory: the combination of FX128 values past 128 bits (R56, R198). -/

namespace Sys2Proof.Machine

/-- A pattern past 128 bits is not reduced: 2^129 counts as 2^128, which FX128 cannot hold, while its low 128 bits stand for 0. -/
theorem combine_fxadd_past : combine .fxadd .fx128 (2 ^ 129) 0 = .error 2 := by decide

/-- Refutes O47: its table of combinations takes the outer and the inner value of `fxadd` at every number, not only below 2^128, and
reads them by their low 128 bits. At the outer value 2^129 and the inner value 0 it has the sum 0; the model has a fault. -/
theorem not_keyedForms : ¬ Obligations.KeyedForms := by
  unfold Obligations.KeyedForms
  rintro ⟨⟨-, -, hfx, -⟩, -⟩
  have h : combine .fxadd .fx128 (2 ^ 129) 0 = .ok _ := (hfx (2 ^ 129) 0).1 (by decide) (by decide)
  rw [combine_fxadd_past] at h
  cases h

end Sys2Proof.Machine
end

section
/-! PROOFS. The floating half of the vector unit (spec chapter 6): how its forms end, lane by lane. -/

namespace Sys2Proof.Machine

/-! ## Lanes and flags (R50, R140) -/

theorem fw_fills (ty : FTy) : fw ty * (512 / fw ty) = 512 := by cases ty <;> rfl

theorem fw_pos (ty : FTy) : 0 < fw ty := by cases ty <;> decide

theorem lane_lt (w : Nat) (v : VReg) (k : Nat) : lane w v k < 2 ^ w := Nat.mod_lt _ (Nat.two_pow_pos w)

/-- The flags of a lane-wise result are those of its active lanes. -/
theorem flags_laneMap (w : Nat) (m : LMask) (old : VReg) (f : Nat → Nat × Nat) :
    (laneMap w m old f).2 = lanesRaise (512 / w) (act w m) fun k => (f k).2 := by
  rw [lanesRaise, laneMap]
  dsimp only
  rw [List.foldl_map]
  refine List.foldl_ext _ _ _ fun a k _ => ?_
  cases act w m k <;> simp

/-- Two selections of lanes whose selected lanes raise the same flags. -/
theorem lanesRaise_congr {n : Nat} {on on' : Nat → Bool} {f f' : Nat → Nat}
    (h : ∀ k, k < n → (if on k then f k else 0) = if on' k then f' k else 0) : lanesRaise n on f = lanesRaise n on' f' := by
  have step : ∀ (g : Nat → Bool) (f : Nat → Nat) (a k : Nat), (if g k then a ||| f k else a) = a ||| if g k then f k else 0 := by
    intro g f a k
    cases g k <;> simp
  unfold lanesRaise
  refine List.foldl_ext _ _ _ fun a k hk => ?_
  rw [step, step, h k (List.mem_range.mp hk)]

/-! ## Endings (R51) -/

/-- A floating form that writes one vector register: lane by lane. -/
theorem floatOut_lanes {i : Instr} {s : State} {d : Reg} {x : VReg} {flags w : Nat} {reply : Bool} {on : Nat → Bool}
    {f : Nat → Nat} (h : exec i s = s.fpOut flags reply fun t => t.setV d x)
    (hx : ∀ k, k < 512 / w → lane w x k = if on k then f k % 2 ^ w else lane w (s.th.rv d) k) :
    FloatOut i s flags (WritesLanes i s d w on f flags) := by
  obtain ⟨hdone, htrap⟩ := writesV_fpOut h
  exact ⟨fun hz => ⟨x, hdone hz, hx⟩, htrap⟩

/-- A floating form whose result is lane-wise under a mask. -/
theorem floatOut_laneMap {i : Instr} {s : State} {d : Reg} {w : Nat} {m : LMask} {reply : Bool} {f : Nat → Nat × Nat}
    (hw : w * (512 / w) = 512) (hpos : 0 < w)
    (h : exec i s = s.fpOut (laneMap w m (s.th.rv d) f).2 reply fun t => t.setV d (laneMap w m (s.th.rv d) f).1) :
    FloatOut i s (lanesRaise (512 / w) (act w m) fun k => (f k).2)
      (WritesLanes i s d w (act w m) (fun k => (f k).1) (lanesRaise (512 / w) (act w m) fun k => (f k).2)) := by
  rw [← flags_laneMap w m (s.th.rv d) f]
  exact floatOut_lanes h fun k hk => lane_laneMap hw hpos _ _ _ hk

/-- A floating form that writes one mask (R51): where no raised flag has its trap enabled it completes, else it traps FP_TRAP with
every raised flag. -/
theorem floatOut_mask {i : Instr} {s : State} {d : MReg} {flags : Nat} (f : Thread → LMask)
    (h : exec i s = s.fpOut flags false fun t => t.setM d (f t)) : FloatOut i s flags (WritesM i s d (f s.th) flags) := by
  refine ⟨fun hz => ?_, fun hn => ?_⟩
  · let x := f s.th
    have e : exec i s = .next (s.modTh fun t => ((t.setM d (f t)).addFlags flags).retire) := by
      rw [h, State.fpOut, hz]; rfl
    obtain ⟨hkeep, hstat, hpc, hcnt⟩ := setM_keeps s.th d x
    obtain ⟨hflags, hkstat, hfpc, hframe⟩ := addFlags_keeps (s.th.setM d x) flags
    refine ⟨_, e, onlyThread_modTh s _, ?_, ?_, ?_, ?_, ?_⟩ <;> rw [th_modTh]
    · exact (hkeep.trans hflags).trans (retire_keeps _)
    · rw [retire_kstat, hkstat, hstat]
    · rw [retire_rm]
      exact (rm_setM s.th d d x).trans (if_pos rfl)
    · intro hf
      have hin : ((s.th.setM d x).addFlags flags).inFrame = false := by rw [hframe, Thread.inFrame, hcnt]; exact hf
      rw [retire_next _ hin, hfpc, hpc]
    · exact retire_completed _
  · refine traps_finish (tr := { cause := cFpTrap, info := BitVec.ofNat 64 flags }) h ?_
    have hb : (flags &&& s.th.te != 0) = true := by simpa using hn
    rw [trapIf, hb]
    rfl

/-! ## `vfp` on lanes (Table 6-1) -/

/-- `neg` turns the sign bit over. -/
theorem fpNeg_eq (f : Fmt) (x : Nat) : fpNeg f x = x % f.sign + (1 - x / f.sign % 2) * f.sign := by
  unfold fpNeg
  rcases Nat.mod_two_eq_zero_or_one (x / f.sign) with h | h <;> simp [h]

/-- A row of Table 6-1: its form is the lane-wise form of `f`, which is the row's function and may leave the lane of `vb` unused. -/
def IsVfp (e : (FTy → MReg → Reg → Reg → Reg → Instr) × (Fmt → Nat → Nat → Nat → Nat → Nat × Nat)) (unused reply : Bool)
    (f : Fmt → Nat → Nat → Nat → Nat → Nat × Nat) : Prop :=
  (∀ s ty m d a b, exec (e.1 ty m d a b) s = s.vfp ty m d a (if unused then a else b) reply f) ∧
  (∀ F rm x y z, f F rm x y z = e.2 F rm x y z) ∧ (unused = true → ∀ F rm x y y' z, e.2 F rm x y z = e.2 F rm x y' z)

theorem isVfp_floatResults : ∀ e ∈ floatResults, ∃ unused reply f, IsVfp e unused reply f := by
  simp only [floatResults, List.forall_mem_cons, List.not_mem_nil, false_implies, implies_true, and_true]
  refine ⟨⟨false, false, fun f rm x y _ => fpAdd f rm false x y, ?_⟩, ⟨false, false, fun f rm x y _ => fpAdd f rm true x y, ?_⟩,
    ⟨false, false, fun f rm x y _ => fpMul f rm x y, ?_⟩, ⟨false, true, fun f rm x y _ => fpDiv f rm x y, ?_⟩,
    ⟨false, false, fun f rm x y z => fpFma f rm false false x y z, ?_⟩,
    ⟨false, false, fun f rm x y z => fpFma f rm false true x y z, ?_⟩,
    ⟨false, false, fun f rm x y z => fpFma f rm true false x y z, ?_⟩,
    ⟨false, false, fun f _ x y _ => fpMin f x y, ?_⟩, ⟨false, false, fun f _ x y _ => fpMax f x y, ?_⟩,
    ⟨false, false, fun f _ x y _ => (fpSgnj f x y, 0), ?_⟩,
    ⟨true, true, fun f rm x _ _ => fpSqrt f rm x, ?sqrt⟩, ⟨true, false, fun f _ x _ _ => (fpAbs f x, 0), ?abs⟩,
    ⟨true, false, fun f _ x _ _ => (fpNeg f x, 0), ?neg⟩⟩
  case sqrt | abs => exact ⟨fun _ _ _ _ _ _ => rfl, fun _ _ _ _ _ => rfl, fun _ _ _ _ _ _ _ => rfl⟩
  case neg =>
    exact ⟨fun _ _ _ _ _ _ => rfl, fun F _ x _ _ => congrArg (·, 0) (fpNeg_eq F x), fun _ _ _ _ _ _ _ => rfl⟩
  all_goals exact ⟨fun _ _ _ _ _ _ => rfl, fun _ _ _ _ _ => rfl, nofun⟩

/-- Every row of Table 6-1, lane by lane. -/
theorem floatOut_floatResults {e : (FTy → MReg → Reg → Reg → Reg → Instr) × (Fmt → Nat → Nat → Nat → Nat → Nat × Nat)}
    (he : e ∈ floatResults) (s : State) (ty : FTy) (m : MReg) (d a b : Reg) :
    let w := fw ty
    let on := fun k => act w (s.th.rm m) k
    let r := fun k => e.2 (fmtOf ty) s.th.round (lane w (s.th.rv a) k) (lane w (s.th.rv b) k) (lane w (s.th.rv d) k)
    let flags := lanesRaise (512 / w) on fun k => (r k).2
    FloatOut (e.1 ty m d a b) s flags (WritesLanes (e.1 ty m d a b) s d w on (fun k => (r k).1) flags) := by
  intro w on r flags
  obtain ⟨unused, reply, f, hexec, hf, hunused⟩ := isVfp_floatResults e he
  refine floatOut_laneMap (fw_fills ty) (fw_pos ty) (f := r) (reply := reply) ?_
  have hr : r = fun k => f (fmtOf ty) s.th.round (lane w (s.th.rv a) k) (lane w (s.th.rv (if unused then a else b)) k)
      (lane w (s.th.rv d) k) := by
    funext k
    rw [hf]
    cases unused with
    | false => rfl
    | true => exact hunused rfl _ _ _ _ _ _
  rw [hexec, hr]
  rfl

/-! ## Comparisons (R146) -/

/-- The flag of one comparison: a signalling NaN is a NaN. -/
theorem fpCompare_flag (strict : Bool) (x y : Nat) (c : Bool → Bool → Bool) (onNan : Bool) :
    (fpCompare strict x y c onNan).2 = if (isSignalling fmt32 x || isSignalling fmt32 y) ||
      (strict && ((unpack fmt32 x).isNan || (unpack fmt32 y).isNan)) then 1 else 0 := by
  unfold fpCompare isSignalling
  cases (unpack fmt32 x).isNan <;> cases (unpack fmt32 y).isNan <;> cases strict <;> simp [fNV]

/-- A pattern as its sign and its magnitude. -/
theorem sign_cases {f : Fmt} {x : Nat} (hx : x < 2 * f.sign) :
    (x < f.sign ∧ x / f.sign = 0 ∧ x % f.sign = x) ∨
    ∃ r, r < f.sign ∧ x = f.sign + r ∧ x / f.sign = 1 ∧ x % f.sign = r := by
  have hs : 0 < f.sign := Nat.two_pow_pos _
  obtain h | h := Nat.lt_or_ge x f.sign
  · exact .inl ⟨h, Nat.div_eq_of_lt h, Nat.mod_eq_of_lt h⟩
  · obtain ⟨r, rfl⟩ := Nat.exists_eq_add_of_le h
    have hr : r < f.sign := by omega
    exact .inr ⟨r, hr, rfl, by rw [Nat.add_div_left r hs, Nat.div_eq_of_lt hr],
      by rw [Nat.add_mod_left, Nat.mod_eq_of_lt hr]⟩

/-- Of two patterns that are not equal, one lies below the other, and never both do (R145). -/
theorem fpBelow_total {f : Fmt} {x y : Nat} (hx : x < 2 * f.sign) (hy : y < 2 * f.sign) :
    (fpBelow f x y = true → fpBelow f y x = false) ∧ ((!fpBelow f x y && !fpBelow f y x) = (x == y)) := by
  refine ⟨?_, Bool.eq_iff_iff.mpr ?_⟩ <;> unfold fpBelow <;>
    obtain ⟨hlt, hdx, hmx⟩ | ⟨r, hr, ex, hdx, hmx⟩ := sign_cases hx <;>
    obtain ⟨klt, hdy, hmy⟩ | ⟨q, hq, ey, hdy, hmy⟩ := sign_cases hy <;>
    rw [hdx, hmx, hdy, hmy] <;> simp <;> omega

/-- Two FP32 patterns are equal just where neither lies below the other, both zeros apart (R146). -/
theorem floatOrder_spec {x y : Nat} (hx : x < 2 ^ 32) (hy : y < 2 ^ 32) :
    let z := (unpack fmt32 x).isZero && (unpack fmt32 y).isZero
    let lt := !z && fpBelow fmt32 x y
    let gt := !z && fpBelow fmt32 y x
    floatOrder x y = (!lt && !gt, lt) ∧ (lt = true → gt = false) := by
  obtain ⟨hasym, htri⟩ := fpBelow_total (f := fmt32) hx hy
  intro z lt gt
  refine ⟨Prod.ext ?_ rfl, fun h => ?_⟩
  · change (z || x == y) = (!(!z && fpBelow fmt32 x y) && !(!z && fpBelow fmt32 y x))
    rw [← htri]
    cases z <;> simp
  · change (!z && fpBelow fmt32 x y) = true at h
    change (!z && fpBelow fmt32 y x) = false
    rw [hasym (Bool.and_eq_true_iff.mp h).2, Bool.and_false]

theorem vfpCmp_eq (s : State) (m d : MReg) (a b : Reg) (f : Nat → Nat → Bool × Nat) :
    s.vfpCmp m d a b f =
      s.fpOut (lanesRaise 16 (s.th.rm m).getLsbD fun k => (f (lane 32 (s.th.rv a) k) (lane 32 (s.th.rv b) k)).2) false fun t =>
        t.setM d (maskOf (t.rm m) fun k => (f (lane 32 (s.th.rv a) k) (lane 32 (s.th.rv b) k)).1) := rfl

/-- A comparison into a mask: `c` on "below" and "above" is the row's condition on "equal" and "below". -/
theorem floatOut_vfpCmp {i : Instr} {s : State} {m d : MReg} {a b : Reg} {strict onNan : Bool} {c : Bool → Bool → Bool}
    {cond : Bool × Bool → Bool} (h : exec i s = s.vfpCmp m d a b fun x y => fpCompare strict x y c onNan)
    (hc : ∀ lt gt : Bool, (lt = true → gt = false) → c lt gt = cond (!lt && !gt, lt)) :
    let x := fun k => lane 32 (s.th.rv a) k
    let y := fun k => lane 32 (s.th.rv b) k
    let on := fun k => (s.th.rm m).getLsbD k
    let nan := fun k => (unpack fmt32 (x k)).isNan || (unpack fmt32 (y k)).isNan
    let sig := fun k => isSignalling fmt32 (x k) || isSignalling fmt32 (y k)
    let flags := lanesRaise 16 on fun k => if sig k || (strict && nan k) then 1 else 0
    FloatOut i s flags (∃ r, WritesM i s d r flags ∧
      ∀ k, k < 16 → r.getLsbD k = (on k && if nan k then onNan else cond (floatOrder (x k) (y k)))) := by
  intro x y on nan sig flags
  have e := h.trans (vfpCmp_eq s m d a b _)
  simp only [fpCompare_flag] at e
  obtain ⟨hdone, htrap⟩ := floatOut_mask (fun t => maskOf (t.rm m) fun k => (fpCompare strict (x k) (y k) c onNan).1) e
  refine ⟨fun hz => ⟨_, hdone hz, fun k hk => ?_⟩, htrap⟩
  rw [getLsbD_maskOf _ _ hk]
  congr 1
  obtain ⟨horder, hasym⟩ := floatOrder_spec (lane_lt 32 (s.th.rv a) k) (lane_lt 32 (s.th.rv b) k)
  rw [horder, ← hc _ _ hasym]
  unfold fpCompare
  exact apply_ite Prod.fst _ _ _

/-- A row of R146: its form compares lanes by `fpCompare`, and `c` on "below" and "above" is the row's condition. -/
def IsCompare (e : (MReg → MReg → Reg → Reg → Instr) × Bool × Bool × (Bool × Bool → Bool)) (c : Bool → Bool → Bool) : Prop :=
  (∀ s m d a b, exec (e.1 m d a b) s = s.vfpCmp m d a b fun x y => fpCompare e.2.1 x y c e.2.2.1) ∧
  ∀ lt gt : Bool, (lt = true → gt = false) → c lt gt = e.2.2.2 (!lt && !gt, lt)

theorem isCompare_floatCompares : ∀ e ∈ floatCompares, ∃ c, IsCompare e c := by
  simp only [floatCompares, List.forall_mem_cons, List.not_mem_nil, false_implies, implies_true, and_true]
  exact ⟨⟨fun lt gt => !lt && !gt, fun _ _ _ _ _ => rfl, by decide⟩, ⟨fun lt _ => lt, fun _ _ _ _ _ => rfl, by decide⟩,
    ⟨fun _ gt => !gt, fun _ _ _ _ _ => rfl, by decide⟩, ⟨fun _ _ => false, fun _ _ _ _ _ => rfl, by decide⟩⟩

end Sys2Proof.Machine
end

section
/-! PROOFS. Floating patterns (R48, R52): NaNs, infinities and finite numbers, and the NaN that an operation gives. -/

namespace Sys2Proof.Machine

/-! ## The fields of a pattern (R48) -/

theorem Fmt.sign_pos (f : Fmt) : 0 < f.sign := Nat.two_pow_pos _

theorem Fmt.sign_eq (f : Fmt) : f.sign = 2 ^ f.fb * 2 ^ f.eb := by rw [Fmt.sign, Nat.add_comm, Nat.pow_add]

theorem Fmt.top_lt (f : Fmt) : f.top < 2 ^ f.eb := Nat.sub_lt (Nat.two_pow_pos _) Nat.one_pos

/-- A magnitude from its fraction and its exponent field. -/
theorem mod_sign (f : Fmt) (x : Nat) : x % f.sign = x % 2 ^ f.fb + 2 ^ f.fb * (x / 2 ^ f.fb % 2 ^ f.eb) := by
  rw [f.sign_eq, Nat.mod_mul]

theorem infinity_lt (f : Fmt) : f.top * 2 ^ f.fb < f.sign := by
  rw [f.sign_eq, Nat.mul_comm]
  exact Nat.mul_lt_mul_of_pos_left f.top_lt (Nat.two_pow_pos _)

@[simp] theorem infinityOf_div_sign (f : Fmt) (n : Nat) : infinityOf f n / f.sign = n := by
  rw [infinityOf, Nat.add_comm, Nat.add_mul_div_right _ _ f.sign_pos, Nat.div_eq_of_lt (infinity_lt f), Nat.zero_add]

@[simp] theorem infinityOf_field (f : Fmt) (n : Nat) : infinityOf f n / 2 ^ f.fb % 2 ^ f.eb = f.top := by
  have h : infinityOf f n = (n * 2 ^ f.eb + f.top) * 2 ^ f.fb := by rw [infinityOf, f.sign_eq]; ring
  rw [h, Nat.mul_div_cancel _ (Nat.two_pow_pos _), Nat.mul_comm n, Nat.mul_add_mod, Nat.mod_eq_of_lt f.top_lt]

@[simp] theorem infinityOf_fraction (f : Fmt) (n : Nat) : infinityOf f n % 2 ^ f.fb = 0 := by
  have h : infinityOf f n = (n * 2 ^ f.eb + f.top) * 2 ^ f.fb := by rw [infinityOf, f.sign_eq]; ring
  rw [h, Nat.mul_mod_left]

/-- A pattern with the exponent field of infinities and no fraction is the infinity of its sign. -/
theorem eq_infinityOf {f : Fmt} {x : Nat} (hex : x / 2 ^ f.fb % 2 ^ f.eb = f.top) (hfr : x % 2 ^ f.fb = 0) :
    x = infinityOf f (x / f.sign) := by
  conv_lhs => rw [← Nat.div_add_mod x f.sign, mod_sign, hex, hfr]
  rw [infinityOf, Nat.zero_add, Nat.mul_comm, Nat.mul_comm f.top]

/-! ## What a pattern stands for -/

theorem unpack_of_nan {f : Fmt} {x : Nat} (h : NanIn f x) :
    unpack f x = .nan (x / f.sign % 2 == 1) (x % 2 ^ f.fb) := by
  obtain ⟨hex, hfr⟩ := h
  unfold unpack
  dsimp only
  rw [if_pos hex, if_neg hfr]

theorem unpack_of_finite {f : Fmt} {x : Nat} (h : x / 2 ^ f.fb % 2 ^ f.eb ≠ f.top) :
    ∃ m e, unpack f x = .fin (x / f.sign % 2 == 1) m e ∧ (m = 0 ↔ x % f.sign = 0) := by
  have hp : 0 < 2 ^ f.fb := Nat.two_pow_pos _
  rw [mod_sign]
  unfold unpack
  dsimp only
  rw [if_neg h]
  by_cases hz : x / 2 ^ f.fb % 2 ^ f.eb = 0
  · exact ⟨_, _, if_pos hz, by rw [hz, Nat.mul_zero, Nat.add_zero]⟩
  · refine ⟨_, _, if_neg hz, ?_⟩
    have : 0 < 2 ^ f.fb * (x / 2 ^ f.fb % 2 ^ f.eb) := Nat.mul_pos hp (Nat.pos_of_ne_zero hz)
    omega

theorem unpack_infinityOf (f : Fmt) (n : Nat) : unpack f (infinityOf f n) = .inf (n % 2 == 1) := by
  unfold unpack
  dsimp only
  rw [if_pos (infinityOf_field f n), if_pos (infinityOf_fraction f n), infinityOf_div_sign]

/-- A pattern is a NaN, an infinity or finite. -/
theorem pattern_cases (f : Fmt) (x : Nat) :
    NanIn f x ∨ x = infinityOf f (x / f.sign) ∨ x / 2 ^ f.fb % 2 ^ f.eb ≠ f.top := by
  by_cases hex : x / 2 ^ f.fb % 2 ^ f.eb = f.top
  · by_cases hfr : x % 2 ^ f.fb = 0
    · exact .inr (.inl (eq_infinityOf hex hfr))
    · exact .inl ⟨hex, hfr⟩
  · exact .inr (.inr hex)

theorem not_nanIn_infinityOf (f : Fmt) (n : Nat) : ¬ NanIn f (infinityOf f n) := fun h => h.2 (infinityOf_fraction f n)

theorem FiniteIn.not_nanIn {f : Fmt} {x : Nat} (h : FiniteIn f x) : ¬ NanIn f x := fun hn => h.2 hn.1

theorem isNan_iff (f : Fmt) (x : Nat) : (unpack f x).isNan = true ↔ NanIn f x := by
  refine ⟨fun h => ?_, fun h => by rw [unpack_of_nan h]; rfl⟩
  obtain hn | hi | hf := pattern_cases f x
  · exact hn
  · rw [hi, unpack_infinityOf] at h
    cases h
  · obtain ⟨m, e, hu, -⟩ := unpack_of_finite hf
    rw [hu] at h
    cases h

theorem isNan_eq_false {f : Fmt} {x : Nat} (h : ¬ NanIn f x) : (unpack f x).isNan = false :=
  Bool.eq_false_iff.mpr fun hn => h ((isNan_iff f x).mp hn)

theorem isSignalling_iff (f : Fmt) (x : Nat) :
    isSignalling f x = true ↔ NanIn f x ∧ x.testBit (f.fb - 1) = false := by
  rw [isSignalling, Bool.and_eq_true, isNan_iff, Nat.testBit_eq_decide_div_mod_eq, beq_iff_eq]
  simp

/-! ## The NaN of an operation (R52) -/

/-- A clear bit set. -/
theorem or_two_pow_of_clear {x k : Nat} (h : x.testBit k = false) : x ||| 2 ^ k = x + 2 ^ k := by
  have hl : x % 2 ^ k < 2 ^ k := Nat.mod_lt _ (Nat.two_pow_pos k)
  have hx : x = 2 ^ (k + 1) * (x / 2 ^ (k + 1)) + x % 2 ^ k := by
    have hm : x % 2 ^ (k + 1) = x % 2 ^ k := by
      rw [Nat.pow_succ, Nat.mod_mul, ← Nat.toNat_testBit, h]; rfl
    rw [← hm, Nat.div_add_mod]
  have hs : 2 ^ k * 1 + x % 2 ^ k < 2 ^ (k + 1) := by rw [Nat.pow_succ]; omega
  have hlow := Nat.two_pow_add_eq_or_of_lt hl 1
  calc x ||| 2 ^ k = 2 ^ (k + 1) * (x / 2 ^ (k + 1)) ||| (2 ^ k * 1 ||| x % 2 ^ k) := by
        conv_lhs => rw [hx, Nat.two_pow_add_eq_or_of_lt (by rw [Nat.pow_succ]; omega)]
        rw [Nat.or_assoc, Nat.or_comm (x % 2 ^ k), Nat.mul_one]
    _ = x + 2 ^ k := by
        rw [← hlow, ← Nat.two_pow_add_eq_or_of_lt hs]
        omega

theorem quiet_eq (f : Fmt) (x : Nat) : quiet f x = x ||| 2 ^ (f.fb - 1) := by
  unfold quiet
  split
  next h =>
    have hb : x.testBit (f.fb - 1) = true := by rw [Nat.testBit_eq_decide_div_mod_eq, h]; rfl
    refine Nat.eq_of_testBit_eq fun i => ?_
    rw [Nat.testBit_or, Nat.testBit_two_pow]
    by_cases hi : f.fb - 1 = i
    · rw [← hi, hb]; rfl
    · simp [hi]
  next h =>
    exact (or_two_pow_of_clear (by rw [Nat.testBit_eq_decide_div_mod_eq]; exact decide_eq_false h)).symm

/-- Of operands without a NaN, none. -/
theorem nanResult_none {f : Fmt} {xs : List Nat} (h : ∀ x ∈ xs, ¬ NanIn f x) : nanResult f xs = none := by
  rw [nanResult, List.find?_eq_none.mpr fun x hx => by simpa using isNan_eq_false (h x hx)]

/-- Of operands with a NaN, the first one quieted; `bad` may raise NV beside a signalling operand. -/
theorem nanResult_some {f : Fmt} {xs : List Nat} {x : Nat} (hx : x ∈ xs) (h : NanIn f x) :
    ∃ r, nanResult f xs = some r ∧ ∀ (bad : Prop) [Decidable bad], NanResult f xs bad (r.1, if bad then fNV else r.2) := by
  obtain ⟨y, hy⟩ := Option.isSome_iff_exists.mp 
    (List.find?_isSome (p := fun x => (unpack f x).isNan) |>.mpr ⟨x, hx, (isNan_iff f x).mpr h⟩)
  refine ⟨_, by rw [nanResult, hy], fun bad _ => ?_⟩
  obtain ⟨hn, as, bs, hsplit, has⟩ := List.find?_eq_some_iff_append.mp hy
  have hany : xs.any (isSignalling f) = true ↔ ∃ y ∈ xs, NanIn f y ∧ y.testBit (f.fb - 1) = false := by
    simp only [List.any_eq_true, isSignalling_iff]
  refine ⟨⟨as.length, y, by rw [hsplit]; simp, (isNan_iff f y).mp hn, fun j z hj hz => ?_, quiet_eq f y⟩, ?_, ?_⟩
  · rw [hsplit, List.getElem?_append_left hj] at hz
    intro hnz
    have := has z (List.mem_of_getElem? hz)
    rw [(isNan_iff f z).mpr hnz] at this
    cases this
  · dsimp only
    split
    · exact .inr rfl
    · split
      · exact .inr rfl
      · exact .inl rfl
  · rw [← hany]
    dsimp only
    by_cases hb : bad <;> cases xs.any (isSignalling f) <;> simp [hb, fNV]

end Sys2Proof.Machine
end

section
/-! PROOFS. The arithmetic on NaNs, infinities and zeros (R50, R52, R144, R145). -/

namespace Sys2Proof.Machine

/-! ## Signs as parities -/

theorem odd_add (n m : Nat) : ((n + m) % 2 == 1) = ((n % 2 == 1) ^^ (m % 2 == 1)) := by
  rcases Nat.mod_two_eq_zero_or_one n with hn | hn <;> rcases Nat.mod_two_eq_zero_or_one m with hm | hm <;>
    simp [Nat.add_mod, hn, hm]

theorem odd_toNat (b : Bool) : (b.toNat % 2 == 1) = b := by cases b <;> rfl

theorem withSign_odd (f : Fmt) (n x : Nat) : withSign f (n % 2 == 1) x = n % 2 * f.sign + x := by
  rcases Nat.mod_two_eq_zero_or_one n with hn | hn <;> simp [withSign, hn]

theorem infBits_odd (f : Fmt) (n : Nat) : infBits f (n % 2 == 1) = infinityOf f (n % 2) := withSign_odd f n _

/-! ## Kinds of values -/

theorem neg_unpack (f : Fmt) (x : Nat) : (unpack f x).neg = (x / f.sign % 2 == 1) := by
  obtain hn | hi | hf := pattern_cases f x
  · rw [unpack_of_nan hn]; rfl
  · conv_lhs => rw [hi, unpack_infinityOf]
    rfl
  · obtain ⟨m, e, hu, -⟩ := unpack_of_finite hf
    rw [hu]; rfl

theorem isInf_iff (f : Fmt) (x : Nat) : (unpack f x).isInf = true ↔ ∃ n, x = infinityOf f n := by
  refine ⟨fun h => ?_, ?_⟩
  · obtain hn | hi | hf := pattern_cases f x
    · rw [unpack_of_nan hn] at h
      cases h
    · exact ⟨_, hi⟩
    · obtain ⟨m, e, hu, -⟩ := unpack_of_finite hf
      rw [hu] at h
      cases h
  · rintro ⟨n, rfl⟩
    rw [unpack_infinityOf]; rfl

theorem Fmt.top_pos {f : Fmt} (he : 0 < f.eb) : 0 < f.top :=
  Nat.sub_pos_of_lt (Nat.one_lt_two_pow (Nat.ne_of_gt he))

/-- A zero is finite. -/
theorem field_of_zero {f : Fmt} (he : 0 < f.eb) {x : Nat} (h : x % f.sign = 0) : x / 2 ^ f.fb % 2 ^ f.eb ≠ f.top := by
  intro htop
  rw [mod_sign, htop] at h
  have := Nat.mul_pos (Nat.two_pow_pos f.fb) (Fmt.top_pos he)
  omega

theorem isZero_iff {f : Fmt} (he : 0 < f.eb) (x : Nat) : (unpack f x).isZero = true ↔ x % f.sign = 0 := by
  refine ⟨fun h => ?_, fun h => ?_⟩
  · obtain hn | hi | hf := pattern_cases f x
    · rw [unpack_of_nan hn] at h
      cases h
    · rw [hi, unpack_infinityOf] at h
      cases h
    · obtain ⟨m, e, hu, hm⟩ := unpack_of_finite hf
      rw [hu] at h
      exact hm.mp (by simpa [FVal.isZero] using h)
  · obtain ⟨m, e, hu, hm⟩ := unpack_of_finite (field_of_zero he h)
    rw [hu, hm.mpr h]; rfl

theorem unpack_of_zero {f : Fmt} (he : 0 < f.eb) {x : Nat} (h : x % f.sign = 0) :
    ∃ e, unpack f x = .fin (x / f.sign % 2 == 1) 0 e := by
  obtain ⟨m, e, hu, hm⟩ := unpack_of_finite (field_of_zero he h)
  exact ⟨e, by rw [hu, hm.mpr h]⟩

/-! ## Operations on an infinity (R50, R144) -/

section
variable {f : Fmt} {rm : Nat} {a b : Nat}

theorem nanResult_pair (ha : ¬ NanIn f a) (hb : ¬ NanIn f b) : nanResult f [a, b] = none :=
  nanResult_none (by simp [ha, hb])

theorem fpAdd_inf_left {sub : Bool} (n : Nat) (hb : FiniteIn f b) :
    fpAdd f rm sub (infinityOf f n) b = (infinityOf f (n % 2), 0) := by
  obtain ⟨m, e, hu, -⟩ := unpack_of_finite hb.2
  unfold fpAdd
  rw [nanResult_pair (not_nanIn_infinityOf f n) (FiniteIn.not_nanIn hb), unpack_infinityOf, hu, ← infBits_odd]

theorem fpAdd_inf_right {sub : Bool} (n : Nat) (hb : FiniteIn f b) :
    fpAdd f rm sub b (infinityOf f n) = (infinityOf f ((n + sub.toNat) % 2), 0) := by
  obtain ⟨m, e, hu, -⟩ := unpack_of_finite hb.2
  unfold fpAdd
  rw [nanResult_pair (FiniteIn.not_nanIn hb) (not_nanIn_infinityOf f n), unpack_infinityOf, hu, ← infBits_odd, odd_add, odd_toNat]

theorem fpAdd_inf_inf {sub : Bool} {n m : Nat} (hn : n < 2) (hm : m < 2) :
    fpAdd f rm sub (infinityOf f n) (infinityOf f m) =
      if n = (m + sub.toNat) % 2 then (infinityOf f n, 0) else (defaultNaN f, fNV) := by
  unfold fpAdd
  rw [nanResult_pair (not_nanIn_infinityOf f n) (not_nanIn_infinityOf f m), unpack_infinityOf, unpack_infinityOf]
  have hcond : (n % 2 == 1) = ((m % 2 == 1) ^^ sub) ↔ n = (m + sub.toNat) % 2 := by
    have : n = 0 ∨ n = 1 := by omega
    have : m = 0 ∨ m = 1 := by omega
    cases sub <;> rcases this with rfl | rfl <;> rcases ‹n = 0 ∨ n = 1› with rfl | rfl <;> decide
  rw [← if_congr hcond rfl rfl, show infinityOf f n = infBits f (n % 2 == 1) by rw [infBits_odd, Nat.mod_eq_of_lt hn]]

/-- A product with an infinity: invalid with a zero, else the infinity of the signs' product. -/
theorem fpMul_inf (h : (unpack f a).isInf = true ∨ (unpack f b).isInf = true) (ha : ¬ NanIn f a) (hb : ¬ NanIn f b) :
    fpMul f rm a b = if (unpack f a).isZero || (unpack f b).isZero then (defaultNaN f, fNV)
      else (infinityOf f ((a / f.sign + b / f.sign) % 2), 0) := by
  rw [← infBits_odd, odd_add, ← neg_unpack, ← neg_unpack]
  unfold fpMul
  rw [nanResult_pair ha hb]
  cases hx : unpack f a <;> cases hy : unpack f b <;> first | rfl | (rw [hx, hy] at h; simp [FVal.isInf] at h)

theorem fpDiv_inf_left (n : Nat) (hb : FiniteIn f b) :
    fpDiv f rm (infinityOf f n) b = (infinityOf f ((n + b / f.sign) % 2), 0) := by
  obtain ⟨m, e, hu, -⟩ := unpack_of_finite hb.2
  unfold fpDiv
  rw [nanResult_pair (not_nanIn_infinityOf f n) (FiniteIn.not_nanIn hb), unpack_infinityOf, hu, ← infBits_odd, odd_add]
  rfl

theorem fpDiv_inf_right (n : Nat) (hb : FiniteIn f b) :
    fpDiv f rm b (infinityOf f n) = ((n + b / f.sign) % 2 * f.sign, 0) := by
  obtain ⟨m, e, hu, -⟩ := unpack_of_finite hb.2
  unfold fpDiv
  rw [nanResult_pair (FiniteIn.not_nanIn hb) (not_nanIn_infinityOf f n), unpack_infinityOf, hu]
  have h := withSign_odd f (b / f.sign + n) 0
  rw [odd_add, Nat.add_zero, Nat.add_comm] at h
  exact Prod.ext h rfl

theorem fpDiv_inf_inf (n m : Nat) : fpDiv f rm (infinityOf f n) (infinityOf f m) = (defaultNaN f, fNV) := by
  unfold fpDiv
  rw [nanResult_pair (not_nanIn_infinityOf f n) (not_nanIn_infinityOf f m), unpack_infinityOf, unpack_infinityOf]

theorem fpDiv_zero_zero (he : 0 < f.eb) (ha : a % f.sign = 0) (hb : b % f.sign = 0) :
    fpDiv f rm a b = (defaultNaN f, fNV) := by
  obtain ⟨e, hx⟩ := unpack_of_zero he ha
  obtain ⟨e', hy⟩ := unpack_of_zero he hb
  unfold fpDiv
  rw [nanResult_pair (fun h => field_of_zero he ha h.1) (fun h => field_of_zero he hb h.1), hx, hy]
  rfl

theorem fpSqrt_inf : fpSqrt f rm (infinityOf f 0) = (infinityOf f 0, 0) := by
  unfold fpSqrt
  rw [nanResult_none (by simp [not_nanIn_infinityOf]), unpack_infinityOf]
  exact congrArg (·, 0) (infBits_odd f 0)

/-- The root of a number below zero. -/
theorem fpSqrt_neg (hs : a / f.sign = 1) (hz : a % f.sign ≠ 0) (ha : ¬ NanIn f a) : fpSqrt f rm a = (defaultNaN f, fNV) := by
  unfold fpSqrt
  rw [nanResult_none (by simpa using ha)]
  obtain hn | hi | hf := pattern_cases f a
  · exact absurd hn ha
  · rw [hi, hs, unpack_infinityOf]
    rfl
  · obtain ⟨m, e, hu, hm⟩ := unpack_of_finite hf
    rw [hu, hs]
    dsimp only
    rw [if_neg fun h => hz (hm.mp h)]
    rfl

/-! ## The fused product and sum -/

/-- The product of an infinity and a zero (R52). -/
def FmaBad (f : Fmt) (a b : Nat) : Prop :=
  (∃ n, a = infinityOf f n) ∧ b % f.sign = 0 ∨ a % f.sign = 0 ∧ ∃ n, b = infinityOf f n

theorem fmaBad_iff (he : 0 < f.eb) : ((unpack f a).isInf && (unpack f b).isZero || (unpack f a).isZero && (unpack f b).isInf) = true ↔
    FmaBad f a b := by
  rw [Bool.or_eq_true, Bool.and_eq_true, Bool.and_eq_true, isInf_iff, isInf_iff, isZero_iff he, isZero_iff he, FmaBad]

/-- An addend that is the infinity of the other sign than the product. -/
theorem otherInfinity_iff {c p : Nat} {nc : Bool} (hlt : c < 2 * f.sign) :
    ((∃ n, c = infinityOf f n) ∧ ¬ ((c / f.sign + nc.toNat) % 2 = 1 ↔ p % 2 = 1)) ↔
      c = infinityOf f ((p % 2 + 1 + nc.toNat) % 2) := by
  have hsign : c / f.sign < 2 := (Nat.div_lt_iff_lt_mul f.sign_pos).mpr hlt
  refine ⟨fun ⟨⟨n, hn⟩, hne⟩ => ?_, fun h => ⟨⟨_, h⟩, ?_⟩⟩
  · rw [hn, infinityOf_div_sign] at hsign hne
    rw [hn]
    congr 1
    cases nc <;> simp at hne ⊢ <;> omega
  · rw [h, infinityOf_div_sign]
    cases nc <;> simp <;> omega

/-- The fused product and sum of operands that are no NaN, by their signs: an invalid one, an infinity, or a rounded sum. -/
theorem fpFma_number {c : Nat} {np nc : Bool} (he : 0 < f.eb) (ha : ¬ NanIn f a) (hb : ¬ NanIn f b) (hc : ¬ NanIn f c)
    (hlt : c < 2 * f.sign) :
    (FmaBad f a b → fpFma f rm np nc a b c = (defaultNaN f, fNV)) ∧
    (¬ FmaBad f a b → ((∃ n, a = infinityOf f n) ∨ ∃ n, b = infinityOf f n) →
      let sp := (a / f.sign + b / f.sign + np.toNat) % 2
      fpFma f rm np nc a b c =
        if c = infinityOf f ((sp + 1 + nc.toNat) % 2) then (defaultNaN f, fNV) else (infinityOf f sp, 0)) ∧
    ((¬ ∃ n, a = infinityOf f n) → (¬ ∃ n, b = infinityOf f n) → (∃ n, c = infinityOf f n) →
      fpFma f rm np nc a b c = (infinityOf f ((c / f.sign + nc.toNat) % 2), 0)) := by
  have hnone : nanResult f [a, b, c] = none := nanResult_none (by simp [ha, hb, hc])
  rw [← fmaBad_iff he, ← isInf_iff, ← isInf_iff, ← isInf_iff]
  unfold fpFma
  rw [hnone]
  dsimp only
  refine ⟨fun h => if_pos h, fun h hab => ?_, fun hna hnb hinf => ?_⟩
  · rw [if_neg h, if_pos (by simpa using hab), neg_unpack, neg_unpack, neg_unpack, ← odd_toNat np, ← odd_toNat nc, ← odd_add,
      ← odd_add, ← odd_add, infBits_odd, odd_toNat, odd_toNat]
    refine if_congr ?_ rfl rfl
    rw [Bool.and_eq_true, isInf_iff, bne_iff_ne, ne_eq, Bool.eq_iff_iff, beq_iff_eq, beq_iff_eq]
    exact otherInfinity_iff hlt
  · rw [if_neg (by simp [hna, hnb]), if_neg (by simp [hna, hnb]), if_pos hinf, neg_unpack, ← odd_toNat nc, ← odd_add, infBits_odd,
      odd_toNat]

end

/-! ## The NaN of an operation (R52, R145) -/

section
variable {f : Fmt} {rm a b c : Nat}

theorem nanResult_bad {xs : List Nat} {x : Nat} (hx : x ∈ xs) (h : NanIn f x) :
    ∃ r, nanResult f xs = some r ∧ NanResult f xs False r := by
  obtain ⟨r, hr, hall⟩ := nanResult_some hx h
  exact ⟨r, hr, by simpa using hall False⟩

theorem nanResult_binary (h : NanIn f a ∨ NanIn f b) :
    ∀ op ∈ [fpAdd f rm false, fpAdd f rm true, fpMul f rm, fpDiv f rm, fpMin f, fpMax f], NanResult f [a, b] False (op a b) := by
  obtain ⟨r, hr, hres⟩ : ∃ r, nanResult f [a, b] = some r ∧ NanResult f [a, b] False r := by
    obtain h | h := h
    · exact nanResult_bad (by simp) h
    · exact nanResult_bad (by simp) h
  simp only [List.forall_mem_cons, List.not_mem_nil, false_implies, implies_true, and_true, fpAdd, fpMul, fpDiv, fpMin, fpMax, hr]
  simp [hres]

theorem nanResult_sqrt (h : NanIn f a) : NanResult f [a] False (fpSqrt f rm a) := by
  obtain ⟨r, hr, hres⟩ := nanResult_bad (xs := [a]) (by simp) h
  unfold fpSqrt
  rw [hr]
  exact hres

theorem nanResult_fma {np nc : Bool} (he : 0 < f.eb) (h : NanIn f a ∨ NanIn f b ∨ NanIn f c) :
    NanResult f [a, b, c] (FmaBad f a b) (fpFma f rm np nc a b c) := by
  obtain ⟨x, hx, hn⟩ : ∃ x ∈ [a, b, c], NanIn f x := by simpa using h
  obtain ⟨r, hr, hall⟩ := nanResult_some hx hn
  rw [← fmaBad_iff he]
  unfold fpFma
  rw [hr]
  exact hall _

end

/-! ## The lesser and the greater (R145) -/

section
variable {f : Fmt} {a b : Nat}

theorem fpBelow_iff (ha : a < 2 * f.sign) (hb : b < 2 * f.sign) : fpBelow f a b = true ↔ LowerIn f a b := by
  unfold fpBelow LowerIn
  obtain ⟨hlt, hd, hm⟩ | ⟨r, hr, ea, hd, hm⟩ := sign_cases ha <;>
    obtain ⟨klt, kd, km⟩ | ⟨q, hq, eb, kd, km⟩ := sign_cases hb <;>
    (rw [hd, hm, kd, km]; grind)

theorem fpMinMax (hna : ¬ NanIn f a) (hnb : ¬ NanIn f b) (ha : a < 2 * f.sign) (hb : b < 2 * f.sign) :
    (LowerIn f a b → fpMin f a b = (a, 0) ∧ fpMax f a b = (b, 0)) ∧
    (LowerIn f b a → fpMin f a b = (b, 0) ∧ fpMax f a b = (a, 0)) := by
  unfold fpMin fpMax
  rw [nanResult_pair hna hnb, ← fpBelow_iff ha hb, ← fpBelow_iff hb ha]
  refine ⟨fun h => ?_, fun h => ?_⟩
  · have := (fpBelow_total ha hb).1 h
    simp [h, this]
  · have := (fpBelow_total hb ha).1 h
    simp [h, this]

theorem fpMinMax_self (hna : ¬ NanIn f a) : fpMin f a a = (a, 0) ∧ fpMax f a a = (a, 0) := by
  unfold fpMin fpMax
  rw [nanResult_pair hna hna]
  simp

end

end Sys2Proof.Machine
end

section
/-! PROOFS. `vfp` on special values and its settled statement (R50 to R52, R144 to R147). -/

namespace Sys2Proof.Machine

section
variable {f : Fmt} {rm a b c : Nat}

theorem isInf_infinityOf (n : Nat) : (unpack f (infinityOf f n)).isInf = true := (isInf_iff f _).mpr ⟨n, rfl⟩

theorem isZero_infinityOf (n : Nat) : (unpack f (infinityOf f n)).isZero = false := by rw [unpack_infinityOf]; rfl

/-- An infinity and another operand multiplied, on either side. -/
theorem fpMul_infinity (he : 0 < f.eb) (n : Nat) (hb : ¬ NanIn f b) :
    (b % f.sign = 0 → fpMul f rm (infinityOf f n) b = (defaultNaN f, fNV) ∧ fpMul f rm b (infinityOf f n) = (defaultNaN f, fNV)) ∧
    (b % f.sign ≠ 0 → fpMul f rm (infinityOf f n) b = (infinityOf f ((n + b / f.sign) % 2), 0) ∧
      fpMul f rm b (infinityOf f n) = (infinityOf f ((n + b / f.sign) % 2), 0)) := by
  have hinf := isInf_infinityOf (f := f) n
  have hl := fpMul_inf (rm := rm) (.inl hinf) (not_nanIn_infinityOf f n) hb
  have hr := fpMul_inf (rm := rm) (.inr hinf) hb (not_nanIn_infinityOf f n)
  rw [isZero_infinityOf, infinityOf_div_sign, Bool.false_or] at hl
  rw [isZero_infinityOf, infinityOf_div_sign, Bool.or_false, Nat.add_comm (b / f.sign)] at hr
  refine ⟨fun hz => ?_, fun hz => ?_⟩
  · have := (isZero_iff he b).mpr hz
    exact ⟨by rw [hl, if_pos this], by rw [hr, if_pos this]⟩
  · have : ¬ (unpack f b).isZero = true := fun h => hz ((isZero_iff he b).mp h)
    exact ⟨by rw [hl, if_neg this], by rw [hr, if_neg this]⟩

theorem not_infinityOf_of_zero (he : 0 < f.eb) (hb : b % f.sign = 0) : ¬ ∃ n, b = infinityOf f n := by
  rintro ⟨n, rfl⟩
  exact field_of_zero he hb (infinityOf_field f n)

theorem infinityOf_mod_sign (he : 0 < f.eb) (n : Nat) : infinityOf f n % f.sign ≠ 0 :=
  fun h => not_infinityOf_of_zero he h ⟨n, rfl⟩

theorem infinityOf_lt {n : Nat} (hn : n < 2) : infinityOf f n < 2 * f.sign := by
  have := infinity_lt f
  have : n * f.sign ≤ 1 * f.sign := Nat.mul_le_mul_right _ (by omega)
  unfold infinityOf
  omega

/-- An infinity in the product of a fused sum: with a zero invalid, else the infinity of the product unless the addend is the other
one. -/
theorem fpFma_infinity {np nc : Bool} (he : 0 < f.eb) {n : Nat} (hc : ¬ NanIn f c) (hlt : c < 2 * f.sign) :
    (b % f.sign = 0 → fpFma f rm np nc (infinityOf f n) b c = (defaultNaN f, fNV) ∧
      fpFma f rm np nc b (infinityOf f n) c = (defaultNaN f, fNV)) ∧
    (¬ NanIn f b → b % f.sign ≠ 0 → ∀ x y, x = infinityOf f n ∧ y = b ∨ x = b ∧ y = infinityOf f n →
      fpFma f rm np nc x y c = if c = infinityOf f (((n + b / f.sign + np.toNat) % 2 + 1 + nc.toNat) % 2) then (defaultNaN f, fNV)
        else (infinityOf f ((n + b / f.sign + np.toNat) % 2), 0)) := by
  have hn := not_nanIn_infinityOf f n
  refine ⟨fun hz => ?_, fun hb hz x y hxy => ?_⟩
  · have hb : ¬ NanIn f b := fun h => field_of_zero he hz h.1
    exact ⟨(fpFma_number he hn hb hc hlt).1 (.inl ⟨⟨n, rfl⟩, hz⟩), (fpFma_number he hb hn hc hlt).1 (.inr ⟨hz, n, rfl⟩)⟩
  · have hz' := infinityOf_mod_sign he n
    obtain ⟨rfl, rfl⟩ | ⟨rfl, rfl⟩ := hxy
    · have h := (fpFma_number (rm := rm) (np := np) (nc := nc) he hn hb hc hlt).2.1 (fun h => h.elim (hz ·.2) (hz' ·.1)) (.inl ⟨n, rfl⟩)
      simpa only [infinityOf_div_sign] using h
    · have h := (fpFma_number (rm := rm) (np := np) (nc := nc) he hb hn hc hlt).2.1 (fun h => h.elim (hz' ·.2) (hz ·.1)) (.inr ⟨n, rfl⟩)
      simpa only [infinityOf_div_sign, Nat.add_comm (x / f.sign)] using h

end

theorem formats_eb : ∀ f ∈ [fmt32, fmt16, fmtB16], 0 < f.eb := by decide

/-- R50, R52, R144, R145 on special values: each clause is the operation's lemma. -/
theorem specialValues : SpecialValues := by
  unfold SpecialValues
  refine ⟨by decide, fun f hf rm a b c sub np nc ha hb hc => ?_⟩
  have he := formats_eb f hf
  have h2 : ∀ {n : Nat}, n < 2 → n % 2 = n := Nat.mod_eq_of_lt
  refine ⟨nanResult_binary, nanResult_sqrt, nanResult_fma he, fun n m hn hm => ⟨fun hfb => ?finite, fpAdd_inf_inf hn hm, ?mul,
    fpDiv_inf_inf n m, fun hcn => ?fma, fun hfa hfb => ?addend⟩, fpDiv_zero_zero he, fpSqrt_inf, fpSqrt_neg,
    fun hna hnb => ⟨(fpMinMax hna hnb ha hb).1, (fpMinMax hna hnb ha hb).2, fpMinMax_self hna⟩⟩
  case finite =>
    obtain ⟨hzero, hnonzero⟩ := fpMul_infinity (rm := rm) he n (FiniteIn.not_nanIn hfb)
    refine ⟨?_, fpAdd_inf_right n hfb, hzero, hnonzero, fpDiv_inf_left n hfb, fpDiv_inf_right n hfb⟩
    rw [fpAdd_inf_left n hfb, h2 hn]
  case mul =>
    have h := ((fpMul_infinity (rm := rm) he n (not_nanIn_infinityOf f m)).2 (infinityOf_mod_sign he m)).1
    rwa [infinityOf_div_sign] at h
  case fma => exact fpFma_infinity he hcn hc
  case addend =>
    have h := (fpFma_number (rm := rm) (np := np) (nc := nc) he (FiniteIn.not_nanIn hfa) (FiniteIn.not_nanIn hfb)
      (not_nanIn_infinityOf f n) (infinityOf_lt hn)).2.2 ?_ ?_ ⟨n, rfl⟩
    · rwa [infinityOf_div_sign] at h
    · rintro ⟨k, rfl⟩
      exact hfa.2 (infinityOf_field f k)
    · rintro ⟨k, rfl⟩
      exact hfb.2 (infinityOf_field f k)

/-- Settles O38: the arithmetic on special values by each operation's lemma; a form's lanes and flags are those of its lane-wise
ending. -/
theorem vectorFloatResult : Obligations.VectorFloatResult := by
  unfold Obligations.VectorFloatResult
  refine ⟨specialValues, fun e he s ty m d a b => floatOut_floatResults he s ty m d a b, fun e he s m d a b => ?_⟩
  obtain ⟨c, hexec, hc⟩ := isCompare_floatCompares e he
  exact floatOut_vfpCmp (hexec s m d a b) hc

end Sys2Proof.Machine
end

section
/-! PROOFS. Conversions, reductions and matrix products of the vector unit: how they end (R149, R150, R152, R155). -/

namespace Sys2Proof.Machine

/-! ## Conversions on lanes (R149) -/

/-- A narrowing row: the lanes of its half that the mask selects. -/
theorem floatOut_narrow {i : Instr} {s : State} {g : Fmt} {base : Nat} {c : CRnd} {m : MReg} {d a : Reg}
    (h : exec i s = s.vcvtNarrow g base c m d a) :
    let on := fun k => decide (base ≤ k ∧ k < base + 16) && (s.th.rm m).getLsbD (k - base)
    let r := fun k => fpConvert fmt32 g (s.th.cvtRound c) (lane 32 (s.th.rv a) (k - base))
    let flags := lanesRaise 32 on fun k => (r k).2
    FloatOut i s flags (WritesLanes i s d 16 on (fun k => (r k).1) flags) := by
  intro on r flags
  let f := fun j => if base ≤ j ∧ j < base + 16 ∧ (s.th.rm m).getLsbD (j - base) then r j else (lane 16 (s.th.rv d) j, 0)
  have hon : ∀ j, (base ≤ j ∧ j < base + 16 ∧ (s.th.rm m).getLsbD (j - base) = true) ↔ on j = true := by
    intro j
    simp [on, and_assoc]
  have hact : ∀ k, k < 32 → act 16 (BitVec.allOnes 16) k = true := by
    intro k hk
    change (BitVec.allOnes 16).getLsbD (k / 2) = true
    rw [BitVec.getLsbD_allOnes]
    exact decide_eq_true (by omega)
  have hf : ∀ k, f k = if on k then r k else (lane 16 (s.th.rv d) k, 0) := fun k => if_congr (hon k) rfl rfl
  have hflags : (laneMap 16 (BitVec.allOnes 16) (s.th.rv d) f).2 = flags := by
    rw [flags_laneMap]
    refine lanesRaise_congr fun k hk => ?_
    rw [if_pos (hact k hk), hf]
    cases on k <;> rfl
  rw [← hflags]
  refine floatOut_lanes h fun k hk => ?_
  rw [lane_laneMap (n := 32) rfl (by decide) _ _ _ hk, if_pos (hact k hk)]
  change (f k).1 % 2 ^ 16 = _
  rw [hf]
  cases on k with
  | false => exact lane_mod _ _ _
  | true => rfl

theorem floatOut_widen {i : Instr} {s : State} {f : Fmt} {base : Nat} {m : MReg} {d a : Reg}
    (h : exec i s = s.vcvtWiden f base m d a) :
    let on := (s.th.rm m).getLsbD
    let r := fun k => fpConvert f fmt32 0 (lane 16 (s.th.rv a) (base + k))
    let flags := lanesRaise 16 on fun k => (r k).2
    FloatOut i s flags (WritesLanes i s d 32 on (fun k => (r k).1) flags) :=
  floatOut_laneMap (w := 32) rfl (by decide) h

/-- A row on 32-bit lanes: its function's results are the row's numbers. -/
theorem floatOut_vcvt32 {i : Instr} {s : State} {c : CRnd} {m : MReg} {d a : Reg} {f : Nat → Nat → Nat × Nat}
    {g : Nat → Nat → Int × Nat} (h : exec i s = s.vcvt32 c m d a f)
    (hfg : ∀ rm x, x < 2 ^ 32 → (f rm x).2 = (g rm x).2 ∧ (f rm x).1 % 2 ^ 32 = (BitVec.ofInt 32 (g rm x).1).toNat) :
    let on := (s.th.rm m).getLsbD
    let r := fun k => g (s.th.cvtRound c) (lane 32 (s.th.rv a) k)
    let flags := lanesRaise 16 on fun k => (r k).2
    FloatOut i s flags (WritesLanes i s d 32 on (fun k => (BitVec.ofInt 32 (r k).1).toNat) flags) := by
  intro on r flags
  have hlane : ∀ k, lane 32 (s.th.rv a) k < 2 ^ 32 := lane_lt 32 _
  have hflags : lanesRaise 16 (act 32 (s.th.rm m)) (fun k => (f (s.th.cvtRound c) (lane 32 (s.th.rv a) k)).2) = flags :=
    congrArg _ (funext fun k => (hfg _ _ (hlane k)).1)
  obtain ⟨hdone, htrap⟩ := floatOut_laneMap (w := 32) rfl (by decide) h
  rw [hflags] at hdone htrap
  refine ⟨fun hz => ?_, htrap⟩
  obtain ⟨x, hx, hk⟩ := hdone hz
  refine ⟨x, hx, fun k hlt => ?_⟩
  rw [hk k hlt, (hfg _ _ (hlane k)).2]
  congr 1
  exact (Nat.mod_eq_of_lt (BitVec.isLt _)).symm

theorem toNat_ofInt_natCast (n : Nat) : (BitVec.ofInt 32 (n : Int)).toNat = n % 2 ^ 32 := by
  rw [BitVec.ofInt_natCast, BitVec.toNat_ofNat]

theorem wrapTo_mod (v : Int) : wrapTo 32 v % 2 ^ 32 = (BitVec.ofInt 32 v).toNat := by
  rw [← ofNat_wrapTo, BitVec.toNat_ofNat]

/-- A row of `vcvt` on 32-bit lanes: its form converts lanes by `f`, whose patterns are those of the row's numbers. -/
def IsConvert (e : (CRnd → MReg → Reg → Reg → Instr) × (Nat → Nat → Int × Nat)) (f : Nat → Nat → Nat × Nat) : Prop :=
  (∀ s c m d a, exec (e.1 c m d a) s = s.vcvt32 c m d a f) ∧
  ∀ rm x, x < 2 ^ 32 → (f rm x).2 = (e.2 rm x).2 ∧ (f rm x).1 % 2 ^ 32 = (BitVec.ofInt 32 (e.2 rm x).1).toNat

theorem isConvert_convertRows : ∀ e ∈ convertRows, ∃ f, IsConvert e f := by
  simp only [convertRows, List.forall_mem_cons, List.not_mem_nil, false_implies, implies_true, and_true]
  refine ⟨⟨fun rm x => (wrapTo 32 (fpToInt rm (loS 32) (hiS 32) x).1, (fpToInt rm (loS 32) (hiS 32) x).2), fun _ _ _ _ _ => rfl,
      fun rm x _ => ⟨rfl, wrapTo_mod _⟩⟩,
    ⟨fun rm x => (wrapTo 32 (fpToInt rm 0 (hiU 32) x).1, (fpToInt rm 0 (hiU 32) x).2), fun _ _ _ _ _ => rfl,
      fun rm x _ => ⟨rfl, wrapTo_mod _⟩⟩,
    ⟨fun rm x => intToFp rm (sgn 32 x), fun _ _ _ _ _ => rfl, fun rm x hx => ?itof⟩,
    ⟨fun rm x => intToFp rm (Int.ofNat x), fun _ _ _ _ _ => rfl, fun rm x _ => ⟨rfl, (toNat_ofInt_natCast _).symm⟩⟩,
    ⟨fun rm x => fpRint rm x, fun _ _ _ _ _ => rfl, fun rm x _ => ⟨rfl, (toNat_ofInt_natCast _).symm⟩⟩⟩
  have hsgn : sgn 32 x = (BitVec.ofNat 32 x).toInt := by
    rw [← sgn_toNat (by decide), BitVec.toNat_ofNat, Nat.mod_eq_of_lt hx]
  dsimp only
  rw [hsgn]
  exact ⟨rfl, (toNat_ofInt_natCast _).symm⟩

theorem conversionsHold : ConversionsHold := by
  unfold ConversionsHold
  refine ⟨?narrow, ?widen, ?rows⟩
  case narrow =>
    simp only [narrowRows, List.forall_mem_cons, List.not_mem_nil, false_implies, implies_true, and_true]
    exact ⟨fun s c m d a => floatOut_narrow rfl, fun s c m d a => floatOut_narrow rfl,
      fun s c m d a => floatOut_narrow rfl, fun s c m d a => floatOut_narrow rfl⟩
  case widen =>
    simp only [widenRows, List.forall_mem_cons, List.not_mem_nil, false_implies, implies_true, and_true]
    exact ⟨fun s m d a => floatOut_widen rfl, fun s m d a => floatOut_widen rfl, fun s m d a => floatOut_widen rfl,
      fun s m d a => floatOut_widen rfl⟩
  case rows =>
    intro e he s c m d a
    obtain ⟨f, hexec, hfg⟩ := isConvert_convertRows e he
    exact floatOut_vcvt32 (hexec s c m d a) hfg

/-! ## Reductions (R152) -/

/-- A float reduction. -/
theorem floatOut_fpReduce {i : Instr} {s : State} {ty : FTy} {m : MReg} {d a : Reg} {empty : Fmt → Nat}
    {op : Fmt → Nat → Nat → Nat → Nat × Nat} (h : exec i s = s.fpReduce ty m d a empty op) :
    let w := fw ty
    let xs := (List.range (512 / w)).map fun k => if act w (s.th.rm m) k then some (lane w (s.th.rv a) k) else none
    let r := treeReduce (op (fmtOf ty) s.th.round) (if w = 32 then 4 else 5) xs
    FloatOut i s r.2 (WritesV i s d (BitVec.ofNat 512 (r.1.getD (empty (fmtOf ty)))) r.2) :=
  writesV_fpOut h

/-- A register with a value in lane 0 alone. -/
theorem lane_low {w x k : Nat} (hk : w * (k + 1) ≤ 512) (hx : x < 2 ^ w) :
    lane w (BitVec.ofNat 512 x) k = if k = 0 then x else 0 := by
  have hbig : 2 ^ w ≤ 2 ^ 512 := Nat.pow_le_pow_right (by decide) (by nlinarith)
  rw [lane, BitVec.toNat_ofNat, Nat.mod_eq_of_lt (hx.trans_le hbig)]
  split
  next h => rw [h, Nat.mul_zero, Nat.pow_zero, Nat.div_one, Nat.mod_eq_of_lt hx]
  next h =>
    have : 2 ^ w ≤ 2 ^ (w * k) := Nat.pow_le_pow_right (by decide) (Nat.le_mul_of_pos_right _ (Nat.pos_of_ne_zero h))
    rw [Nat.div_eq_of_lt (hx.trans_le this), Nat.zero_mod]

/-- Folds of patterns and of numbers go together where each step keeps them together. -/
theorem foldl_together {w : Nat} {op : Nat → Nat → Nat} {g : Int → Nat → Int} {good : Nat → Int → Prop}
    (hstep : ∀ p v x, good p v → x < 2 ^ w → good (op p x) (g v x)) {xs : List Nat} (hxs : ∀ x ∈ xs, x < 2 ^ w) {p : Nat} {v : Int}
    (h : good p v) : good (xs.foldl op p) (xs.foldl g v) := by
  induction xs generalizing p v with
  | nil => exact h
  | cons x r ih =>
    exact ih (fun y hy => hxs y (List.mem_cons_of_mem _ hy)) (hstep p v x h (hxs x (List.mem_cons_self ..)))

/-- A pattern of `w` bits and the signed number that it stands for. -/
def StandsFor (w p : Nat) (v : Int) : Prop := p < 2 ^ w ∧ (BitVec.ofNat w p).toInt = v

theorem StandsFor.pattern {w p : Nat} {v : Int} (h : StandsFor w p v) : BitVec.ofNat w p = BitVec.ofInt w v := by
  rw [← h.2, BitVec.ofInt_toInt]

theorem StandsFor.sgn {w p : Nat} {v : Int} (hw : 0 < w) (h : StandsFor w p v) : sgn w p = v := by
  rw [← h.2, ← sgn_toNat hw, BitVec.toNat_ofNat, Nat.mod_eq_of_lt h.1]

theorem standsFor_self {w x : Nat} (hx : x < 2 ^ w) : StandsFor w x (BitVec.ofNat w x).toInt := ⟨hx, rfl⟩

/-- An integer reduction: its form folds the active lanes by `op` from `unit`, and the pattern is that of the row's number. -/
def IsReduce (e : (ITy → MReg → Reg → Reg → Instr) × (Nat → List Nat → Int)) (unit : Nat → Nat) (op : Nat → Nat → Nat → Nat) : Prop :=
  (∀ s ty m d a, exec (e.1 ty m d a) s = s.intReduce ty m d a unit op) ∧
  ∀ (ty : ITy) (xs : List Nat), (∀ x ∈ xs, x < 2 ^ iw ty) →
    BitVec.ofNat (iw ty) (xs.foldl (op (iw ty)) (unit (iw ty))) = BitVec.ofInt (iw ty) (e.2 (iw ty) xs)

theorem isReduce_integerReductions : ∀ e ∈ integerReductions, ∃ unit op, IsReduce e unit op := by
  simp only [integerReductions, List.forall_mem_cons, List.not_mem_nil, false_implies, implies_true, and_true]
  refine ⟨⟨fun _ => 0, fun _ x y => x + y, fun _ _ _ _ _ => rfl, fun ty xs _ => ?sum⟩,
    ⟨fun w => 2 ^ (w - 1), fun w x y => if sgn w x ≤ sgn w y then y else x, fun _ _ _ _ _ => rfl, fun ty xs hxs => ?max⟩,
    ⟨fun w => 2 ^ (w - 1) - 1, fun w x y => if sgn w x ≤ sgn w y then x else y, fun _ _ _ _ _ => rfl, fun ty xs hxs => ?min⟩,
    ⟨fun _ => 0, fun _ x y => max x y, fun _ _ _ _ _ => rfl, fun ty xs _ => (BitVec.ofInt_natCast ..).symm⟩,
    ⟨fun w => 2 ^ w - 1, fun _ x y => min x y, fun _ _ _ _ _ => rfl, fun ty xs _ => (BitVec.ofInt_natCast ..).symm⟩⟩
  case sum => rw [BitVec.ofInt_natCast, List.sum_eq_foldl]
  case max =>
    refine StandsFor.pattern (foldl_together (good := StandsFor (iw ty)) (fun p v x h hx => ?_) hxs
      (by cases ty <;> exact ⟨by decide, by decide⟩))
    have hx' := standsFor_self hx
    dsimp only
    rw [h.sgn (iw_pos ty), hx'.sgn (iw_pos ty)]
    split
    next hle => rwa [max_eq_right hle]
    next hle => rwa [max_eq_left (le_of_not_ge hle)]
  case min =>
    refine StandsFor.pattern (foldl_together (good := StandsFor (iw ty)) (fun p v x h hx => ?_) hxs
      (by cases ty <;> exact ⟨by decide, by decide⟩))
    have hx' := standsFor_self hx
    dsimp only
    rw [h.sgn (iw_pos ty), hx'.sgn (iw_pos ty)]
    split
    next hle => rwa [min_eq_left hle]
    next hle => rwa [min_eq_right (le_of_not_ge hle)]

/-- An integer reduction: lane 0 of the result, every other lane 0. -/
theorem writesLanes_intReduce {e : (ITy → MReg → Reg → Reg → Instr) × (Nat → List Nat → Int)} (he : e ∈ integerReductions)
    (s : State) (ty : ITy) (m : MReg) (d a : Reg) :
    let w := iw ty
    let xs := ((List.range (512 / w)).filter (act w (s.th.rm m))).map (lane w (s.th.rv a))
    WritesLanes (e.1 ty m d a) s d w (fun _ => true) (fun k => if k = 0 then (BitVec.ofInt w (e.2 w xs)).toNat else 0) 0 := by
  intro w xs
  obtain ⟨unit, op, hexec, hfold⟩ := isReduce_integerReductions e he
  have hxs : ∀ x ∈ xs, x < 2 ^ w := by
    intro x hx
    obtain ⟨k, -, rfl⟩ := List.mem_map.mp hx
    exact lane_lt _ _ _
  refine ⟨_, writesV_retire (hexec s ty m d a), fun k hk => ?_⟩
  have hw : w * (k + 1) ≤ 512 := (Nat.mul_le_mul_left w hk).trans_eq (iw_fills ty)
  rw [lane_low hw (Nat.mod_lt _ (Nat.two_pow_pos w)), ← hfold ty xs hxs, BitVec.toNat_ofNat, if_pos rfl]
  dsimp only
  by_cases h0 : k = 0
  · rw [if_pos h0]
    exact (Nat.mod_mod _ _).symm
  · rw [if_neg h0, Nat.zero_mod]

/-! ## Matrix products (R155) -/

/-- A group's length is the number of its set mask bits. -/
theorem popN_group (m : LMask) (gs base : Nat) :
    popN gs (m.toNat / 2 ^ base) = ((List.range gs).filter fun j => m.getLsbD (base + j)).length := by
  rw [popN_eq_length_filter]
  congr 2
  funext j
  rw [Nat.testBit_div_two_pow, Nat.add_comm]
  rfl

/-- A matrix form: each lane's accumulator over its group's live columns. -/
theorem floatOut_vbmm {i : Instr} {s : State} {ty : GSize} {m : MReg} {d a b : Reg} {keep : Bool}
    (h : exec i s = s.vbmm ty m d a b keep) :
    let n := fun l => ((List.range ty.lanes).filter fun j => (s.th.rm m).getLsbD (l / ty.lanes * ty.lanes + j)).length
    let r := fun l => bmmLane s.th a b (l / ty.lanes * ty.lanes) l (n l) (if keep then lane 32 (s.th.rv d) l else 0, 0)
    let flags := lanesRaise 16 (fun _ => true) fun l => (r l).2
    FloatOut i s flags (WritesLanes i s d 32 (fun _ => true) (fun l => (r l).1) flags) := by
  intro n r flags
  have hrs : ∀ l, bmmLane s.th a b (l / ty.lanes * ty.lanes) l (popN ty.lanes ((s.th.rm m).toNat / 2 ^ (l / ty.lanes * ty.lanes)))
      (if keep then lane 32 (s.th.rv d) l else 0, 0) = r l := fun l => by rw [popN_group]
  unfold State.vbmm at h
  dsimp only at h
  simp only [hrs, List.foldl_map, List.map_map] at h
  refine floatOut_lanes h fun k hk => ?_
  rw [lane_vecOf (by simp) (by simpa using hk)]
  simp

end Sys2Proof.Machine
end

section
/-! PROOFS. Conversions of NaNs and infinities, and the settled statement on conversions and reductions (R52, R53, R150). -/

namespace Sys2Proof.Machine

/-! ## A NaN in another format (R52) -/

theorem infinityOf_eq_mul (f : Fmt) (n : Nat) : infinityOf f n = 2 ^ f.fb * (n * 2 ^ f.eb + f.top) := by
  rw [infinityOf, f.sign_eq]; ring

/-- A quieted NaN with the fraction `mv`. -/
theorem quiet_infinityOf_add {g : Fmt} (hg : 0 < g.fb) (n : Nat) {mv : Nat} (hmv : mv < 2 ^ g.fb) :
    quiet g (infinityOf g n + mv) = infinityOf g n + (mv ||| 2 ^ (g.fb - 1)) := by
  have hq : mv ||| 2 ^ (g.fb - 1) < 2 ^ g.fb := Nat.or_lt_two_pow hmv (Nat.pow_lt_pow_right (by decide) (by omega))
  rw [quiet_eq, infinityOf_eq_mul, Nat.two_pow_add_eq_or_of_lt hmv, Nat.or_assoc, ← Nat.two_pow_add_eq_or_of_lt hq]

/-- A fraction moved to another format keeps its high bits, or stands at the top of a wider one. -/
theorem testBit_moveFrac (f g : Fmt) (a : Nat) {j : Nat} (hj : j < g.fb) :
    (moveFrac f g (a % 2 ^ f.fb)).testBit j = (decide (g.fb ≤ j + f.fb) && a.testBit (j + f.fb - g.fb)) := by
  unfold moveFrac
  split
  next h =>
    rw [Nat.testBit_div_two_pow, Nat.testBit_mod_two_pow, decide_eq_true (by omega), decide_eq_true (by omega), Bool.true_and,
      Bool.true_and]
    congr 1
    omega
  next h =>
    rw [Nat.testBit_mul_two_pow, Nat.testBit_mod_two_pow]
    by_cases hle : g.fb ≤ j + f.fb
    · rw [decide_eq_true hle, decide_eq_true (by omega), decide_eq_true (by omega), Bool.true_and, Bool.true_and, Bool.true_and]
      congr 1
      omega
    · rw [decide_eq_false hle, decide_eq_false (by omega), Bool.false_and, Bool.false_and]

/-- R52: a NaN converted to another format. -/
theorem fpConvert_nan {f g : Fmt} {rm a : Nat} (hg : 0 < g.fb) (ha : a < 2 * f.sign) (h : NanIn f a) :
    ∃ fr fl, fpConvert f g rm a = (infinityOf g (a / f.sign) + fr, fl) ∧
      (∀ j, fr.testBit j = (decide (j < g.fb) && (decide (j = g.fb - 1) || (decide (g.fb ≤ j + f.fb) &&
        a.testBit (j + f.fb - g.fb))))) ∧
      (fl = 0 ∨ fl = fNV) ∧ (fl = fNV ↔ a.testBit (f.fb - 1) = false) := by
  have hsign : a / f.sign < 2 := (Nat.div_lt_iff_lt_mul f.sign_pos).mpr ha
  have hmv : moveFrac f g (a % 2 ^ f.fb) % 2 ^ g.fb < 2 ^ g.fb := Nat.mod_lt _ (Nat.two_pow_pos _)
  refine ⟨moveFrac f g (a % 2 ^ f.fb) % 2 ^ g.fb ||| 2 ^ (g.fb - 1), if isSignalling f a then fNV else 0, ?_, fun j => ?_, ?_, ?_⟩
  · unfold fpConvert
    rw [unpack_of_nan h]
    dsimp only
    rw [withSign_odd, Nat.mod_eq_of_lt hsign, ← Nat.add_assoc]
    exact congrArg (·, _) (quiet_infinityOf_add hg _ hmv)
  · rw [Nat.testBit_or, Nat.testBit_mod_two_pow, Nat.testBit_two_pow]
    by_cases hj : j < g.fb
    · rw [testBit_moveFrac f g a hj, decide_eq_true hj, Bool.true_and, Bool.true_and, Bool.or_comm]
      congr 2
      exact propext eq_comm
    · rw [decide_eq_false hj, decide_eq_false (by omega)]
      rfl
  · split
    · exact .inr rfl
    · exact .inl rfl
  · have hs : isSignalling f a = true ↔ a.testBit (f.fb - 1) = false := by rw [isSignalling_iff]; exact and_iff_right h
    rw [← hs]
    cases isSignalling f a <;> simp [fNV]

theorem fpConvert_infinityOf (f g : Fmt) (rm : Nat) {n : Nat} (hn : n < 2) :
    fpConvert f g rm (infinityOf f n) = (infinityOf g n, 0) := by
  unfold fpConvert
  rw [unpack_infinityOf]
  dsimp only
  rw [infBits_odd, Nat.mod_eq_of_lt hn]

/-! ## To integers and integral values (R53, R150) -/

theorem fpToInt_nan {rm a : Nat} (lo hi : Int) (h : NanIn fmt32 a) : fpToInt rm lo hi a = (0, fNV) := by
  unfold fpToInt
  rw [unpack_of_nan h]

theorem fpToInt_infinity (rm : Nat) (lo hi : Int) :
    fpToInt rm lo hi (infinityOf fmt32 0) = (hi, fNV) ∧ fpToInt rm lo hi (infinityOf fmt32 1) = (lo, fNV) := by
  unfold fpToInt
  rw [unpack_infinityOf, unpack_infinityOf]
  exact ⟨rfl, rfl⟩

theorem fpRint_inf {rm a : Nat} {n : Bool} (h : unpack fmt32 a = .inf n) : fpRint rm a = (a, 0) := by
  unfold fpRint
  rw [h]

theorem nanResult_single {f : Fmt} {a : Nat} (h : NanIn f a) :
    nanResult f [a] = some (quiet f a, if isSignalling f a then fNV else 0) := by
  rw [nanResult, List.find?_cons_of_pos (by simpa using (isNan_iff f a).mpr h)]
  simp

theorem fpRint_nan {rm a : Nat} (h : NanIn fmt32 a) : NanResult fmt32 [a] False (fpRint rm a) := by
  obtain ⟨r, hr, hres⟩ := nanResult_bad (xs := [a]) (by simp) h
  rw [nanResult_single h, Option.some_inj] at hr
  unfold fpRint
  rw [unpack_of_nan h]
  dsimp only
  rwa [hr]

/-- R52, R53, R150 on special values: each clause is the conversion's lemma. -/
theorem convertedSpecials : ConvertedSpecials := by
  intro rm _
  refine ⟨fun p hp a ha => ⟨fun n hn => fpConvert_infinityOf _ _ _ hn, fpConvert_nan ?_ ha⟩, fun lo hi a h => fpToInt_nan lo hi h,
    fpToInt_infinity rm, fun n _ => fpRint_inf (unpack_infinityOf fmt32 n), fun a _ h => fpRint_nan h⟩
  exact (by decide : ∀ p ∈ [(fmt32, fmt16), (fmt32, fmtB16), (fmt16, fmt32), (fmtB16, fmt32)], 0 < p.2.fb) p hp

/-- Settles O40: conversions, reductions and matrix products by the lemma of each ending; special values by each conversion's. -/
theorem vectorConversionAndReduction : Obligations.VectorConversionAndReduction := by
  unfold Obligations.VectorConversionAndReduction
  refine ⟨conversionsHold, convertedSpecials, ?floats, fun e he s ty m d a => writesLanes_intReduce he s ty m d a, ?matrix⟩
  case floats =>
    simp only [floatReductions, List.forall_mem_cons, List.not_mem_nil, false_implies, implies_true, and_true]
    exact ⟨fun s ty m d a => floatOut_fpReduce (empty := fun _ => 0) (op := fun f rm x y => fpAdd f rm false x y) rfl,
      fun s ty m d a => floatOut_fpReduce (empty := defaultNaN) (op := fun f _ x y => fpMax f x y) rfl,
      fun s ty m d a => floatOut_fpReduce (empty := defaultNaN) (op := fun f _ x y => fpMin f x y) rfl⟩
  case matrix =>
    rintro s ty m d a b i keep rfl
    exact floatOut_vbmm (by cases keep <;> rfl)

end Sys2Proof.Machine
end

section
/-! PROOFS. The numbers of a format in order (R48): the magnitude that a pattern without its sign stands for. -/

namespace Sys2Proof.Machine

/-- The number of a magnitude pattern; the formula of a finite one goes on past the format's largest. -/
noncomputable def magnitude (f : Fmt) (p : Nat) : ℝ :=
  if p / 2 ^ f.fb = 0 then (p : ℝ) * 2 ^ (1 - (f.bias : Int) - (f.fb : Int))
  else ((p % 2 ^ f.fb + 2 ^ f.fb : Nat) : ℝ) * 2 ^ (((p / 2 ^ f.fb : Nat) : Int) - (f.bias : Int) - (f.fb : Int))

/-- The sign of a pattern as a factor. -/
def signFactor (neg : Bool) : ℝ := if neg then -1 else 1

/-- The exponent of the units in which the patterns with exponent field `E` count; field 0 counts in the units of field 1. -/
def unitExp (f : Fmt) (E : Nat) : Int := (E : Int) - (f.bias : Int) - (f.fb : Int)

theorem two_zpow_pos (q : Int) : (0 : ℝ) < 2 ^ q := zpow_pos (by norm_num) q

theorem two_zpow_add (q : Int) (n : Nat) : (2 : ℝ) ^ (q + n) = 2 ^ n * 2 ^ q := by
  rw [zpow_add₀ (by norm_num), zpow_natCast, mul_comm]

/-- From field `E` to the start of the next one, magnitudes count units. -/
theorem magnitude_eq {f : Fmt} {E p : Nat} (hE : 1 ≤ E) (hlow : E = 1 ∨ E * 2 ^ f.fb ≤ p) (hhigh : p ≤ (E + 1) * 2 ^ f.fb) :
    magnitude f p = ((p : ℝ) - ((E - 1 : Nat) : ℝ) * 2 ^ f.fb) * 2 ^ unitExp f E := by
  have hP : 0 < 2 ^ f.fb := Nat.two_pow_pos _
  have hdecomp := Nat.div_add_mod p (2 ^ f.fb)
  have hcast : (p : ℝ) = 2 ^ f.fb * ((p / 2 ^ f.fb : Nat) : ℝ) + ((p % 2 ^ f.fb : Nat) : ℝ) := by exact_mod_cast hdecomp.symm
  obtain ⟨D, rfl⟩ : ∃ D, E = D + 1 := ⟨E - 1, by omega⟩
  rw [Nat.add_sub_cancel]
  have hquot : p / 2 ^ f.fb = 0 ∧ D = 0 ∨ p / 2 ^ f.fb = D + 1 ∨ p / 2 ^ f.fb = D + 2 ∧ p % 2 ^ f.fb = 0 := by
    have hle : p / 2 ^ f.fb ≤ D + 2 := Nat.div_le_of_le_mul (by rw [Nat.mul_comm]; exact hhigh)
    by_cases htop : p / 2 ^ f.fb = D + 2
    · refine .inr (.inr ⟨htop, ?_⟩)
      rw [htop] at hdecomp
      have : 2 ^ f.fb * (D + 2) = (D + 1 + 1) * 2 ^ f.fb := by ring
      omega
    · obtain rfl | hge := hlow.imp_left Nat.succ.inj
      · generalize p / 2 ^ f.fb = Q at hle htop ⊢
        omega
      · have : D + 1 ≤ p / 2 ^ f.fb := (Nat.le_div_iff_mul_le hP).mpr hge
        generalize p / 2 ^ f.fb = Q at hle htop this ⊢
        omega
  unfold magnitude unitExp
  obtain ⟨h0, rfl⟩ | h1 | ⟨h2, hmod⟩ := hquot
  · rw [if_pos h0]
    simp
  · rw [if_neg (by omega), hcast, h1]
    push_cast
    ring
  · rw [if_neg (by omega), hcast, h2, hmod]
    have : ((D + 2 : Nat) : Int) - f.bias - f.fb = ((D + 1 : Nat) : Int) - f.bias - f.fb + (1 : Nat) := by push_cast; ring
    rw [this, two_zpow_add]
    push_cast
    ring

/-- Larger patterns stand for larger magnitudes. -/
theorem magnitude_strictMono (f : Fmt) : StrictMono (magnitude f) := by
  refine strictMono_nat_of_lt_succ fun p => ?_
  have hP : 0 < 2 ^ f.fb := Nat.two_pow_pos _
  have hdecomp := Nat.div_add_mod p (2 ^ f.fb)
  have hmod := Nat.mod_lt p hP
  have hE : 1 ≤ max (p / 2 ^ f.fb) 1 := le_max_right _ _
  have hlow : max (p / 2 ^ f.fb) 1 = 1 ∨ max (p / 2 ^ f.fb) 1 * 2 ^ f.fb ≤ p := by
    rcases le_total (p / 2 ^ f.fb) 1 with h | h
    · exact .inl (max_eq_right h)
    · rw [max_eq_left h]
      exact .inr (Nat.div_mul_le_self _ _)
  have hhigh : p + 1 ≤ (max (p / 2 ^ f.fb) 1 + 1) * 2 ^ f.fb := by
    have : (p / 2 ^ f.fb + 1) * 2 ^ f.fb ≤ (max (p / 2 ^ f.fb) 1 + 1) * 2 ^ f.fb :=
      Nat.mul_le_mul_right _ (Nat.succ_le_succ (le_max_left _ _))
    have : (p / 2 ^ f.fb + 1) * 2 ^ f.fb = 2 ^ f.fb * (p / 2 ^ f.fb) + 2 ^ f.fb := by ring
    omega
  rw [magnitude_eq hE hlow (by omega), magnitude_eq hE (hlow.imp_right fun h => h.trans (Nat.le_succ p)) hhigh]
  refine mul_lt_mul_of_pos_right ?_ (two_zpow_pos _)
  push_cast
  linarith

theorem magnitude_zero (f : Fmt) : magnitude f 0 = 0 := by simp [magnitude]

theorem magnitude_nonneg (f : Fmt) (p : Nat) : 0 ≤ magnitude f p := by
  rw [← magnitude_zero f]
  exact (magnitude_strictMono f).monotone (Nat.zero_le p)

/-- Against the units of field `E`: a magnitude is a number of them, or it lies below every one with that field. -/
theorem magnitude_grid {f : Fmt} {E : Nat} (hE : 1 ≤ E) (p : Nat) :
    (∃ j : Nat, magnitude f p = j * 2 ^ unitExp f E) ∨ (E ≠ 1 ∧ magnitude f p < 2 ^ f.fb * 2 ^ unitExp f E) := by
  have hP : 0 < 2 ^ f.fb := Nat.two_pow_pos _
  by_cases hp : E = 1 ∨ E * 2 ^ f.fb ≤ p
  · left
    have hle : E ≤ max (p / 2 ^ f.fb) 1 := by
      obtain rfl | hge := hp
      · exact le_max_right _ _
      · exact le_max_of_le_left ((Nat.le_div_iff_mul_le hP).mpr hge)
    obtain ⟨n, hn⟩ := Nat.exists_eq_add_of_le hle
    have hlow : E + n = 1 ∨ (E + n) * 2 ^ f.fb ≤ p := by
      rw [← hn]
      rcases le_total (p / 2 ^ f.fb) 1 with h | h
      · exact .inl (max_eq_right h)
      · rw [max_eq_left h]
        exact .inr (Nat.div_mul_le_self _ _)
    have hhigh : p ≤ (E + n + 1) * 2 ^ f.fb := by
      rw [← hn]
      have : p < (p / 2 ^ f.fb + 1) * 2 ^ f.fb := by rw [Nat.mul_comm]; exact Nat.lt_mul_div_succ p hP
      exact this.le.trans (Nat.mul_le_mul_right _ (Nat.succ_le_succ (le_max_left _ _)))
    have hsub : (E + n - 1) * 2 ^ f.fb ≤ p := by
      obtain h | h := hlow
      · rw [h]; simp
      · exact (Nat.mul_le_mul_right _ (Nat.sub_le _ _)).trans h
    refine ⟨(p - (E + n - 1) * 2 ^ f.fb) * 2 ^ n, ?_⟩
    have hexp : unitExp f (E + n) = unitExp f E + n := by unfold unitExp; push_cast; ring
    rw [magnitude_eq (by omega) hlow hhigh, hexp, two_zpow_add]
    push_cast [hsub]
    ring
  · right
    obtain ⟨hne, hlt⟩ := not_or.mp hp
    refine ⟨hne, ?_⟩
    have h := magnitude_strictMono f (Nat.lt_of_not_le hlt)
    rw [magnitude_eq (p := E * 2 ^ f.fb) hE (.inr le_rfl) (Nat.mul_le_mul_right _ (Nat.le_succ E))] at h
    refine h.trans_eq ?_
    obtain ⟨D, rfl⟩ : ∃ D, E = D + 1 := ⟨E - 1, by omega⟩
    rw [Nat.add_sub_cancel]
    push_cast
    ring

/-! ## The number of a pattern -/

theorem mod_sign_div (f : Fmt) (x : Nat) : x % f.sign / 2 ^ f.fb = x / 2 ^ f.fb % 2 ^ f.eb := by
  rw [f.sign_eq, Nat.mod_mul_right_div_self]

theorem mod_sign_mod (f : Fmt) (x : Nat) : x % f.sign % 2 ^ f.fb = x % 2 ^ f.fb := by
  rw [f.sign_eq, Nat.mod_mul_right_mod]

/-- A finite pattern: sign, and a product that is its magnitude. -/
theorem unpack_magnitude {f : Fmt} {x : Nat} (h : x / 2 ^ f.fb % 2 ^ f.eb ≠ f.top) :
    ∃ m e, unpack f x = .fin (x / f.sign % 2 == 1) m e ∧ (m : ℝ) * 2 ^ e = magnitude f (x % f.sign) := by
  unfold unpack magnitude
  dsimp only
  rw [if_neg h, mod_sign_div, mod_sign_mod]
  by_cases hz : x / 2 ^ f.fb % 2 ^ f.eb = 0
  · refine ⟨_, _, if_pos hz, ?_⟩
    rw [if_pos hz, mod_sign, hz, Nat.mul_zero, Nat.add_zero]
    rfl
  · refine ⟨_, _, if_neg hz, ?_⟩
    rw [if_neg hz]
    rfl

theorem cast_rational (neg : Bool) (m : Nat) (e : Int) : ((rational neg m e : ℚ) : ℝ) = signFactor neg * (m * 2 ^ e) := by
  unfold rational signFactor
  cases neg <;> simp

/-- What it is for a pattern to stand for a number. -/
theorem isNumber_iff (f : Fmt) (p : Nat) (z : ℝ) :
    IsNumber f p z ↔ p / 2 ^ f.fb % 2 ^ f.eb ≠ f.top ∧ z = signFactor (p / f.sign % 2 == 1) * magnitude f (p % f.sign) := by
  refine ⟨fun ⟨n, m, e, hu, hz⟩ => ?_, fun ⟨hf, hz⟩ => ?_⟩
  · have hf : p / 2 ^ f.fb % 2 ^ f.eb ≠ f.top := by
      obtain hn | hi | hf := pattern_cases f p
      · rw [unpack_of_nan hn] at hu
        cases hu
      · rw [hi, unpack_infinityOf] at hu
        cases hu
      · exact hf
    obtain ⟨m', e', hu', hm⟩ := unpack_magnitude hf
    rw [hu] at hu'
    cases hu'
    exact ⟨hf, by rw [hz, cast_rational, hm]⟩
  · obtain ⟨m, e, hu, hm⟩ := unpack_magnitude hf
    exact ⟨_, m, e, hu, by rw [hz, cast_rational, hm]⟩

/-- The field of a magnitude is finite just where it lies below the infinity. -/
theorem field_ne_top_iff (f : Fmt) (x : Nat) : x / 2 ^ f.fb % 2 ^ f.eb ≠ f.top ↔ x % f.sign < f.top * 2 ^ f.fb := by
  have hlt : x / 2 ^ f.fb % 2 ^ f.eb < 2 ^ f.eb := Nat.mod_lt _ (Nat.two_pow_pos _)
  have htop : f.top + 1 = 2 ^ f.eb := Nat.sub_add_cancel (Nat.one_le_two_pow)
  rw [← mod_sign_div] at hlt ⊢
  rw [← Nat.div_lt_iff_lt_mul (Nat.two_pow_pos _)]
  omega

end Sys2Proof.Machine
end

section
/-! PROOFS. Rounding (R49, Table 3-2): the units that a magnitude is rounded to, and the pattern that they make. -/

namespace Sys2Proof.Machine

/-! ## Rounding to whole units -/

/-- Two magnitudes that no half unit tells apart: rounding does the same with both. -/
def SameCell (a t : ℝ) : Prop := ∀ c : Nat, (2 * a < c ↔ 2 * t < c) ∧ (2 * a = c ↔ 2 * t = c)

theorem SameCell.refl (a : ℝ) : SameCell a a := fun _ => ⟨Iff.rfl, Iff.rfl⟩

/-- A whole number of units is told apart from every other magnitude. -/
theorem SameCell.eq_natCast {n : Nat} {t : ℝ} (h : SameCell n t) : t = n := by
  have := (h (2 * n)).2.mp (by push_cast; ring)
  push_cast at this
  linarith

theorem SameCell.pos {a t : ℝ} (h : SameCell a t) (ha : 0 < a) : 0 < t := by
  have h0 := h 0
  push_cast at h0
  rcases lt_trichotomy t 0 with ht | ht | ht
  · linarith [h0.1.mpr (by linarith)]
  · linarith [h0.2.mpr (by linarith)]
  · exact ht

theorem SameCell.lt_iff {a t : ℝ} (h : SameCell a t) (n : Nat) : a < n ↔ t < n := by
  have := (h (2 * n)).1
  push_cast at this
  constructor <;> intro hlt
  · linarith [this.mp (by linarith)]
  · linarith [this.mpr (by linarith)]

/-- A magnitude rounded to whole units under a mode and a sign (Table 3-2). -/
def RoundsUnit (rm : Nat) (neg : Bool) (t : ℝ) (k : Nat) : Prop :=
  (rm = 0 → |(k : ℝ) - t| ≤ 1 / 2 ∧ (|(k : ℝ) - t| = 1 / 2 → k % 2 = 0)) ∧
  (rm = 1 ∨ rm = 2 ∧ neg = true ∨ rm = 3 ∧ neg = false → (k : ℝ) ≤ t ∧ t < k + 1) ∧
  (rm = 2 ∧ neg = false ∨ rm = 3 ∧ neg = true → t ≤ k ∧ (k : ℝ) < t + 1)

/-- A whole number of units stays as it is. -/
theorem roundsUnit_natCast (rm : Nat) (neg : Bool) (k : Nat) : RoundsUnit rm neg k k := by
  refine ⟨fun _ => ?_, fun _ => ⟨le_rfl, by linarith⟩, fun _ => ⟨le_rfl, by linarith⟩⟩
  rw [sub_self, abs_zero]
  norm_num

/-- What `roundsUp` decides makes the rounded number of units. -/
theorem roundsUnit_roundsUp {rm : Nat} (hrm : rm < 4) {neg : Bool} {t : ℝ} {k rem u : Nat} (hlow : (k : ℝ) < t) (hhigh : t < k + 1)
    (hrem : 0 < rem) (hlt : 2 * t < 2 * k + 1 ↔ 2 * rem < u) (heq : 2 * t = 2 * k + 1 ↔ 2 * rem = u) :
    RoundsUnit rm neg t (if roundsUp rm neg (k % 2 == 1) rem u then k + 1 else k) := by
  unfold RoundsUnit roundsUp
  have h4 : rm = 0 ∨ rm = 1 ∨ rm = 2 ∨ rm = 3 := by omega
  obtain rfl | rfl | rfl | rfl := h4
  · refine ⟨fun _ => ?_, by simp, by simp⟩
    rcases lt_trichotomy (2 * rem) u with h | h | h
    · have ht := hlt.mpr h
      rw [if_neg (by simp; omega), abs_sub_comm, abs_of_pos (by linarith)]
      exact ⟨by linarith, fun h => by linarith⟩
    · have ht := heq.mpr h
      rcases Nat.mod_two_eq_zero_or_one k with hk | hk
      · rw [if_neg (by simp [h, hk]), abs_sub_comm, abs_of_pos (by linarith)]
        exact ⟨by linarith, fun _ => hk⟩
      · rw [if_pos (by simp [h, hk]), abs_of_pos (by push_cast; linarith)]
        exact ⟨by push_cast; linarith, fun _ => by omega⟩
    · have ht : 2 * (k : ℝ) + 1 < 2 * t := lt_of_not_ge fun hle =>
        (lt_or_eq_of_le hle).elim (fun h' => by have := hlt.mp h'; omega) (fun h' => by have := heq.mp h'; omega)
      rw [if_pos (by simp [h]), abs_of_pos (by push_cast; linarith)]
      push_cast
      exact ⟨by linarith, fun h => by linarith⟩
  · refine ⟨by simp, fun _ => ?_, by simp⟩
    simp
    exact ⟨hlow.le, hhigh⟩
  · refine ⟨by simp, fun h => ?_, fun h => ?_⟩
    · have hn : neg = true := by simpa using h
      simp [hn]
      exact ⟨hlow.le, hhigh⟩
    · have hn : neg = false := by simpa using h
      simp [hn, hrem]
      exact ⟨hhigh.le, hlow⟩
  · refine ⟨by simp, fun h => ?_, fun h => ?_⟩
    · have hn : neg = false := by simpa using h
      simp [hn]
      exact ⟨hlow.le, hhigh⟩
    · have hn : neg = true := by simpa using h
      simp [hn, hrem]
      exact ⟨hhigh.le, hlow⟩

/-- `toUnits` rounds every magnitude that no half unit tells from its own, and knows whether that is exact. -/
theorem toUnits_spec {rm : Nat} (hrm : rm < 4) (neg : Bool) (m : Nat) {e q : Int} {t : ℝ} (h : SameCell (m * 2 ^ (e - q)) t) :
    RoundsUnit rm neg t (toUnits rm neg m e q).1 ∧ ((toUnits rm neg m e q).2 = false ↔ t = (toUnits rm neg m e q).1) := by
  unfold toUnits
  split
  next hle =>
    have hcast : (m : ℝ) * 2 ^ (e - q) = ((m * 2 ^ (e - q).toNat : Nat) : ℝ) := by
      conv_lhs => rw [← Int.toNat_of_nonneg (sub_nonneg.mpr hle), zpow_natCast]
      push_cast
      rfl
    rw [hcast] at h
    have ht := h.eq_natCast
    refine ⟨?_, iff_of_true rfl ht⟩
    rw [ht]
    exact roundsUnit_natCast _ _ _
  next hlt =>
    dsimp only
    have hu : (0 : ℝ) < ((2 ^ (q - e).toNat : Nat) : ℝ) := by positivity
    have hupos : 0 < 2 ^ (q - e).toNat := Nat.two_pow_pos _
    have hcast : (m : ℝ) * 2 ^ (e - q) = m / ((2 ^ (q - e).toNat : Nat) : ℝ) := by
      have hneg : e - q = -((q - e).toNat : Int) := by rw [Int.toNat_of_nonneg (by omega)]; ring
      conv_lhs => rw [hneg, zpow_neg, zpow_natCast]
      push_cast
      rfl
    rw [hcast] at h
    generalize 2 ^ (q - e).toNat = u at h hu hupos ⊢
    have hdecomp := Nat.div_add_mod m u
    have hmod := Nat.mod_lt m hupos
    generalize m / u = k at hdecomp ⊢
    generalize m % u = rem at hdecomp hmod ⊢
    have hlt : ∀ c : Nat, 2 * t < c ↔ 2 * m < c * u := fun c => by
      rw [← (h c).1, ← mul_div_assoc, div_lt_iff₀ hu]
      exact_mod_cast Iff.rfl
    have heq : ∀ c : Nat, 2 * t = c ↔ 2 * m = c * u := fun c => by
      rw [← (h c).2, ← mul_div_assoc, div_eq_iff hu.ne']
      exact_mod_cast Iff.rfl
    have h2k := hlt (2 * k)
    have e2k := heq (2 * k)
    have h2k1 := hlt (2 * k + 1)
    have e2k1 := heq (2 * k + 1)
    have h2k2 := hlt (2 * k + 2)
    have hm : 2 * m = 2 * k * u + 2 * rem := by rw [← hdecomp]; ring
    rw [hm] at h2k e2k h2k1 e2k1 h2k2
    rw [add_mul, one_mul, Nat.add_lt_add_iff_left] at h2k1
    rw [add_mul, one_mul, Nat.add_left_cancel_iff] at e2k1
    rw [add_mul, Nat.add_lt_add_iff_left] at h2k2
    rw [Nat.add_eq_left] at e2k
    push_cast at h2k e2k h2k1 e2k1 h2k2
    have hhigh : t < k + 1 := by linarith [h2k2.mpr (by omega)]
    have hlow : (k : ℝ) ≤ t := not_lt.mp fun hh => by have := h2k.mp (by linarith); omega
    by_cases hrem : rem = 0
    · have ht : t = k := by linarith [e2k.mpr (by omega)]
      have hup : roundsUp rm neg (k % 2 == 1) rem u = false := by
        unfold roundsUp
        simp [hrem, hupos.ne]
      rw [hup, hrem]
      refine ⟨?_, iff_of_true rfl ht⟩
      rw [ht]
      exact roundsUnit_natCast _ _ _
    · have hlow' : (k : ℝ) < t := lt_of_le_of_ne hlow fun hh => by have := e2k.mp (by linarith); omega
      refine ⟨roundsUnit_roundsUp hrm hlow' hhigh (Nat.pos_of_ne_zero hrem) h2k1 e2k1, iff_of_false (by simp [hrem]) ?_⟩
      split
      · push_cast
        exact hhigh.ne
      · exact hlow'.ne'

/-! ## What rounding keeps -/

section
variable {rm : Nat} {neg : Bool} {t : ℝ} {k : Nat}

theorem RoundsUnit.near (h : RoundsUnit rm neg t k) (hrm : rm < 4) : |(k : ℝ) - t| < 1 := by
  obtain ⟨h0, hdown, hup⟩ := h
  have h4 : rm = 0 ∨ (rm = 1 ∨ rm = 2 ∧ neg = true ∨ rm = 3 ∧ neg = false) ∨ (rm = 2 ∧ neg = false ∨ rm = 3 ∧ neg = true) := by
    cases neg <;> simp <;> omega
  obtain h | h | h := h4
  · linarith [(h0 h).1]
  · obtain ⟨h1, h2⟩ := hdown h
    rw [abs_lt]
    constructor <;> linarith
  · obtain ⟨h1, h2⟩ := hup h
    rw [abs_lt]
    constructor <;> linarith

/-- A whole number below the magnitude stays below what that rounds to, and one above it above. -/
theorem RoundsUnit.le (h : RoundsUnit rm neg t k) (hrm : rm < 4) (n : Nat) : ((n : ℝ) ≤ t → n ≤ k) ∧ (t ≤ n → k ≤ n) := by
  obtain ⟨h1, h2⟩ := abs_lt.mp (h.near hrm)
  refine ⟨fun hn => ?_, fun hn => ?_⟩
  · have : (n : ℝ) < k + 1 := by linarith
    exact Nat.lt_succ_iff.mp (by exact_mod_cast this)
  · have : (k : ℝ) < n + 1 := by linarith
    exact Nat.lt_succ_iff.mp (by exact_mod_cast this)

/-- The numbers that a rounded magnitude competes with: whole numbers of units, and numbers below a whole one that the magnitude
reaches. -/
def OnGrid (t v : ℝ) : Prop := (∃ j : Int, v = j) ∨ ∃ n : Nat, v < n ∧ (n : ℝ) ≤ t

theorem RoundsUnit.nearest (h : RoundsUnit 0 neg t k) {v : ℝ} (hv : OnGrid t v) :
    |(k : ℝ) - t| ≤ |v - t| ∧ (|(k : ℝ) - t| = |v - t| → v = k ∨ k % 2 = 0) := by
  obtain ⟨hhalf, htie⟩ := h.1 rfl
  have whole : ∀ j : Int, j ≠ k → 1 / 2 ≤ |(j : ℝ) - t| := fun j hj => by
    have h1 : (1 : ℝ) ≤ |((j - k : Int) : ℝ)| := by
      exact_mod_cast Int.one_le_abs (sub_ne_zero.mpr hj)
    have h2 : |((j - k : Int) : ℝ)| ≤ |(j : ℝ) - t| + |(k : ℝ) - t| := by
      push_cast
      rw [abs_sub_comm (k : ℝ) t]
      exact abs_sub_le _ _ _
    linarith
  obtain ⟨j, rfl⟩ | ⟨n, hvn, hnt⟩ := hv
  · by_cases hj : j = k
    · rw [hj]
      exact ⟨le_rfl, fun _ => .inl (by push_cast; rfl)⟩
    · exact ⟨hhalf.trans (whole j hj), fun heq => .inr (htie (le_antisymm hhalf (heq ▸ whole j hj)))⟩
  · have hstrict : |(k : ℝ) - t| < |v - t| := by
      have hn : |(k : ℝ) - t| ≤ |(n : ℝ) - t| := by
        by_cases hnk : (n : Int) = k
        · rw [Nat.cast_inj.mp hnk]
        · exact hhalf.trans (by exact_mod_cast whole n hnk)
      rw [abs_sub_comm (n : ℝ) t, abs_of_nonneg (sub_nonneg.mpr hnt)] at hn
      rw [abs_sub_comm v t, abs_of_pos (sub_pos.mpr (hvn.trans_le hnt))]
      linarith
    exact ⟨hstrict.le, fun heq => absurd heq hstrict.ne⟩

theorem OnGrid.le_of_down (hhigh : t < k + 1) {v : ℝ} (hv : OnGrid t v) (hvt : v ≤ t) : v ≤ k := by
  obtain ⟨j, rfl⟩ | ⟨n, hvn, hnt⟩ := hv
  · have : (j : ℝ) < ((k + 1 : Int) : ℝ) := by push_cast; linarith
    exact_mod_cast Int.lt_add_one_iff.mp (by exact_mod_cast this)
  · have : (n : ℝ) < ((k + 1 : Nat) : ℝ) := by push_cast; linarith
    have : n ≤ k := Nat.lt_succ_iff.mp (by exact_mod_cast this)
    have : (n : ℝ) ≤ k := by exact_mod_cast this
    linarith

theorem OnGrid.ge_of_up (hhigh : (k : ℝ) < t + 1) {v : ℝ} (hv : OnGrid t v) (hvt : t ≤ v) : (k : ℝ) ≤ v := by
  obtain ⟨j, rfl⟩ | ⟨n, hvn, hnt⟩ := hv
  · have : ((k : Int) : ℝ) < ((j + 1 : Int) : ℝ) := by push_cast; linarith
    exact_mod_cast Int.lt_add_one_iff.mp (by exact_mod_cast this)
  · linarith

end

end Sys2Proof.Machine
end

section
/-! PROOFS. `roundFin` gives the rounded number of the format (R49, R50). -/

namespace Sys2Proof.Machine

/-! ## The units of a number -/

/-- The exponent of the units that `roundFin` rounds `m` x 2^`e` to. -/
def quantum (f : Fmt) (m : Nat) (e : Int) : Int :=
  max (Int.ofNat (Nat.log2 m) + e) (1 - Int.ofNat f.bias) - Int.ofNat f.fb

/-- The exponent field of those units. -/
def quantumField (f : Fmt) (m : Nat) (e : Int) : Nat := (quantum f m e + Int.ofNat f.fb + Int.ofNat f.bias).toNat

theorem quantumField_spec (f : Fmt) (m : Nat) (e : Int) :
    1 ≤ quantumField f m e ∧ unitExp f (quantumField f m e) = quantum f m e := by
  have h : (1 : Int) ≤ quantum f m e + f.fb + f.bias := by
    have := le_max_right (Int.ofNat (Nat.log2 m) + e) (1 - Int.ofNat f.bias)
    simp only [quantum, Int.ofNat_eq_natCast] at this ⊢
    omega
  have hcast : ((quantumField f m e : Nat) : Int) = quantum f m e + f.fb + f.bias := Int.toNat_of_nonneg (by
    simp only [Int.ofNat_eq_natCast]; omega)
  refine ⟨by exact_mod_cast hcast ▸ h, ?_⟩
  rw [unitExp, hcast]
  ring

/-- The number of units: less than 2^(fb + 1), and at least 2^fb but in the least field. -/
theorem units_bounds {f : Fmt} {m : Nat} {e : Int} (hm : 0 < m) :
    (m : ℝ) * 2 ^ (e - quantum f m e) < ((2 * 2 ^ f.fb : Nat) : ℝ) ∧
    (quantumField f m e ≠ 1 → ((2 ^ f.fb : Nat) : ℝ) ≤ m * 2 ^ (e - quantum f m e)) := by
  have hlow : 2 ^ Nat.log2 m ≤ m := Nat.log2_self_le hm.ne'
  have hhigh : m < 2 ^ (Nat.log2 m + 1) := Nat.lt_log2_self
  have hpow : ∀ j : Int, (2 : ℝ) ^ (Nat.log2 m : Int) * 2 ^ j = 2 ^ ((Nat.log2 m : Int) + j) := fun j =>
    (zpow_add₀ (by norm_num) _ _).symm
  constructor
  · have hq : (Nat.log2 m : Int) + e - f.fb ≤ quantum f m e := by
      have := le_max_left (Int.ofNat (Nat.log2 m) + e) (1 - Int.ofNat f.bias)
      simp only [quantum, Int.ofNat_eq_natCast] at this ⊢
      omega
    calc (m : ℝ) * 2 ^ (e - quantum f m e) < (2 ^ (Nat.log2 m + 1) : ℝ) * 2 ^ (e - quantum f m e) :=
          mul_lt_mul_of_pos_right (by exact_mod_cast hhigh) (two_zpow_pos _)
      _ = 2 * 2 ^ ((Nat.log2 m : Int) + (e - quantum f m e)) := by rw [← hpow, zpow_natCast]; ring
      _ ≤ 2 * 2 ^ (f.fb : Int) := by
          refine mul_le_mul_of_nonneg_left (zpow_le_zpow_right₀ (by norm_num) (by omega)) (by norm_num)
      _ = ((2 * 2 ^ f.fb : Nat) : ℝ) := by rw [zpow_natCast]; push_cast; rfl
  · intro hne
    have hq : quantum f m e = (Nat.log2 m : Int) + e - f.fb := by
      obtain ⟨hone, hunit⟩ := quantumField_spec f m e
      rcases le_total (Int.ofNat (Nat.log2 m) + e) (1 - Int.ofNat f.bias) with h | h
      · exfalso
        have : quantum f m e = 1 - Int.ofNat f.bias - Int.ofNat f.fb := by rw [quantum, max_eq_right h]
        rw [this, unitExp] at hunit
        simp only [Int.ofNat_eq_natCast] at hunit
        omega
      · rw [quantum, max_eq_left h]
        rfl
    calc ((2 ^ f.fb : Nat) : ℝ) = 2 ^ ((Nat.log2 m : Int) + (e - quantum f m e)) := by
          have : (Nat.log2 m : Int) + (e - quantum f m e) = (f.fb : Int) := by rw [hq]; ring
          rw [this, zpow_natCast]
          push_cast
          rfl
      _ = (2 ^ Nat.log2 m : ℝ) * 2 ^ (e - quantum f m e) := by rw [← hpow, zpow_natCast]
      _ ≤ m * 2 ^ (e - quantum f m e) := mul_le_mul_of_nonneg_right (by exact_mod_cast hlow) (two_zpow_pos _).le

/-- The magnitude pattern of a number of units of a field. -/
def patternOf (f : Fmt) (E k : Nat) : Nat := if k < 2 ^ f.fb then k else E * 2 ^ f.fb + (k - 2 ^ f.fb)

theorem magnitude_patternOf {f : Fmt} {E k : Nat} (hE : 1 ≤ E) (hlow : E ≠ 1 → 2 ^ f.fb ≤ k) (hhigh : k ≤ 2 * 2 ^ f.fb) :
    magnitude f (patternOf f E k) = k * 2 ^ unitExp f E := by
  obtain ⟨D, rfl⟩ : ∃ D, E = D + 1 := ⟨E - 1, by omega⟩
  have hp : patternOf f (D + 1) k = D * 2 ^ f.fb + k := by
    unfold patternOf
    split
    next h =>
      have : D = 0 := by
        by_contra hD
        exact absurd (hlow (by omega)) (by omega)
      rw [this, Nat.zero_mul, Nat.zero_add]
    next h =>
      rw [add_mul, one_mul]
      omega
  have e1 : (D + 1) * 2 ^ f.fb = D * 2 ^ f.fb + 2 ^ f.fb := by ring
  have e2 : (D + 1 + 1) * 2 ^ f.fb = D * 2 ^ f.fb + 2 * 2 ^ f.fb := by ring
  rw [hp, magnitude_eq hE ?_ (by omega), Nat.add_sub_cancel]
  · push_cast
    ring
  · by_cases hD : D = 0
    · exact .inl (by omega)
    · exact .inr (by have := hlow (by omega); omega)

/-- Of two units, the pattern is even where their number is. -/
theorem patternOf_even {f : Fmt} (hf : 0 < f.fb) {E k : Nat} (h : k % 2 = 0) : patternOf f E k % 2 = 0 := by
  have hp : 2 ^ f.fb % 2 = 0 := by
    obtain ⟨n, hn⟩ : ∃ n, f.fb = n + 1 := ⟨f.fb - 1, by omega⟩
    rw [hn, pow_succ]
    omega
  have hm : E * 2 ^ f.fb % 2 = 0 := by rw [Nat.mul_mod, hp]; simp
  unfold patternOf
  split <;> omega

/-! ## The result of `roundFin` -/

/-- Whether an overflow gives an infinity. -/
def overflows (rm : Nat) (neg : Bool) : Bool := rm == 0 || (rm == 2 && !neg) || (rm == 3 && neg)

theorem raisesNX_iff (i t : Bool) : ((if i then fNX else 0) + (if t && i then fUF else 0)) &&& fNX = 0 ↔ i = false := by
  revert i t
  decide

/-- The two results of `roundFin`: an overflow, or the pattern of the rounded number of units. -/
theorem roundFin_cases (f : Fmt) (rm : Nat) (neg : Bool) {m : Nat} (e : Int) (hm : 0 < m) :
    let u := toUnits rm neg m e (quantum f m e)
    let mag := patternOf f (quantumField f m e) u.1
    (f.top * 2 ^ f.fb ≤ mag → roundFin f rm neg m e =
      (if overflows rm neg then infBits f neg else withSign f neg (f.top * 2 ^ f.fb - 1), fOF + fNX)) ∧
    (mag < f.top * 2 ^ f.fb → ∃ fl, roundFin f rm neg m e = (withSign f neg mag, fl) ∧ (fl &&& fNX = 0 ↔ u.2 = false) ∧
      (u.2 = false → fl = 0)) := by
  intro u mag
  have hu : toUnits rm neg m e (max (Int.ofNat m.log2 + e) (1 - Int.ofNat f.bias) - Int.ofNat f.fb) = (u.1, u.2) := rfl
  have hmag : (if u.1 < 2 ^ f.fb then u.1 else (if u.1 < 2 ^ f.fb then 0 else (max (Int.ofNat m.log2 + e) (1 - Int.ofNat f.bias) -
      Int.ofNat f.fb + Int.ofNat f.fb + Int.ofNat f.bias).toNat) * 2 ^ f.fb + (u.1 - 2 ^ f.fb)) = mag := by
    change _ = if u.1 < 2 ^ f.fb then u.1 else quantumField f m e * 2 ^ f.fb + (u.1 - 2 ^ f.fb)
    split <;> rfl
  unfold roundFin
  rw [if_neg hm.ne']
  dsimp only
  rw [hu]
  dsimp only
  rw [hmag]
  refine ⟨fun h => if_pos h, fun h => ⟨_, if_neg (Nat.not_le.mpr h), raisesNX_iff _ _, fun hex => by rw [hex]; simp⟩⟩

/-! ## Signed results -/

theorem withSign_eq (f : Fmt) (neg : Bool) (x : Nat) : withSign f neg x = neg.toNat * f.sign + x := by
  cases neg <;> simp [withSign]

theorem withSign_div (f : Fmt) (neg : Bool) {x : Nat} (hx : x < f.sign) : withSign f neg x / f.sign = neg.toNat := by
  rw [withSign_eq, Nat.add_comm, Nat.add_mul_div_right _ _ f.sign_pos, Nat.div_eq_of_lt hx, Nat.zero_add]

theorem withSign_mod (f : Fmt) (neg : Bool) {x : Nat} (hx : x < f.sign) : withSign f neg x % f.sign = x := by
  rw [withSign_eq, Nat.add_comm, Nat.add_mul_mod_self_right, Nat.mod_eq_of_lt hx]

/-- The number of a finite magnitude with a sign. -/
theorem isNumber_withSign {f : Fmt} (neg : Bool) {x : Nat} (hx : x < f.top * 2 ^ f.fb) (y : ℝ) :
    IsNumber f (withSign f neg x) y ↔ y = signFactor neg * magnitude f x := by
  have hs := hx.trans (infinity_lt f)
  rw [isNumber_iff, field_ne_top_iff, withSign_mod f neg hs, withSign_div f neg hs, odd_toNat]
  exact and_iff_right hx

theorem signFactor_false : signFactor false = 1 := by simp [signFactor]

theorem signFactor_true : signFactor true = -1 := by simp [signFactor]

theorem signFactor_mul_self (neg : Bool) : signFactor neg * signFactor neg = 1 := by cases neg <;> simp [signFactor]

theorem abs_signFactor_mul (neg : Bool) (x : ℝ) : |signFactor neg * x| = |x| := by cases neg <;> simp [signFactor]

/-- Every number of the format against the units of field `E`: a competitor of the magnitude `t`. -/
theorem competitor {f : Fmt} {E : Nat} (hE : 1 ≤ E) {t : ℝ} (ht : E ≠ 1 → ((2 ^ f.fb : Nat) : ℝ) ≤ t) {p : Nat} {z : ℝ}
    (hz : IsNumber f p z) : ∃ w, OnGrid t w ∧ 0 ≤ w ∧ (z = w * 2 ^ unitExp f E ∨ z = -(w * 2 ^ unitExp f E)) ∧
      |z| < magnitude f (f.top * 2 ^ f.fb) := by
  obtain ⟨hfin, hz⟩ := (isNumber_iff f p z).mp hz
  have hlt := magnitude_strictMono f ((field_ne_top_iff f p).mp hfin)
  have hnn := magnitude_nonneg f (p % f.sign)
  have hQ := two_zpow_pos (unitExp f E)
  refine ⟨magnitude f (p % f.sign) / 2 ^ unitExp f E, ?_, by positivity, ?_, ?_⟩
  · obtain ⟨j, hj⟩ | ⟨hne, hlt⟩ := magnitude_grid hE (p % f.sign)
    · exact .inl ⟨j, by rw [hj, mul_div_cancel_right₀ _ hQ.ne']; push_cast; rfl⟩
    · exact .inr ⟨2 ^ f.fb, by rw [div_lt_iff₀ hQ]; push_cast; exact hlt, ht hne⟩
  · rw [div_mul_cancel₀ _ hQ.ne', hz]
    cases p / f.sign % 2 == 1 <;> simp [signFactor]
  · rw [hz, abs_signFactor_mul, abs_of_nonneg hnn]
    exact hlt

/-- A competitor with the other sign. -/
theorem OnGrid.neg {t w : ℝ} (h : OnGrid t w) (hw : 0 ≤ w) : OnGrid t (-w) := by
  obtain ⟨j, rfl⟩ | ⟨n, hn, hnt⟩ := h
  · exact .inl ⟨-j, by push_cast; rfl⟩
  · exact .inr ⟨n, by linarith, hnt⟩

/-- A rounded number of units against a competitor, in each mode (Table 3-2). -/
theorem RoundsUnit.beats {rm : Nat} {neg : Bool} {t : ℝ} {k : Nat} (h : RoundsUnit rm neg t k) {Q : ℝ} (hQ : 0 < Q) (ht : 0 ≤ t)
    {w z : ℝ} (hw : OnGrid t w) (hw0 : 0 ≤ w) (hz : z = w * Q ∨ z = -(w * Q)) :
    let x := signFactor neg * (t * Q)
    let y := signFactor neg * (k * Q)
    (rm = 0 → |y - x| ≤ |z - x| ∧ (|y - x| = |z - x| → y = z ∨ k % 2 = 0)) ∧
    (rm = 1 → |y| ≤ |x| ∧ (|z| ≤ |x| → |z| ≤ |y|)) ∧
    (rm = 2 → x ≤ y ∧ (x ≤ z → y ≤ z)) ∧ (rm = 3 → y ≤ x ∧ (z ≤ x → z ≤ y)) := by
  intro x y
  obtain ⟨v, hv, hvw, rfl⟩ : ∃ v, OnGrid t v ∧ |v| = w ∧ z = signFactor neg * (v * Q) := by
    obtain rfl | rfl := hz <;> cases neg
    · exact ⟨w, hw, abs_of_nonneg hw0, by simp [signFactor]⟩
    · exact ⟨-w, hw.neg hw0, by rw [abs_neg, abs_of_nonneg hw0], by simp [signFactor]⟩
    · exact ⟨-w, hw.neg hw0, by rw [abs_neg, abs_of_nonneg hw0], by simp [signFactor]⟩
    · exact ⟨w, hw, abs_of_nonneg hw0, by simp [signFactor]⟩
  have hdist : ∀ a : ℝ, |signFactor neg * (a * Q) - x| = |a - t| * Q := fun a => by
    rw [← mul_sub, abs_signFactor_mul, ← sub_mul, abs_mul, abs_of_pos hQ]
  have habs : ∀ a : ℝ, |signFactor neg * (a * Q)| = |a| * Q := fun a => by rw [abs_signFactor_mul, abs_mul, abs_of_pos hQ]
  refine ⟨fun h0 => ?_, fun h1 => ?_, fun h2 => ?_, fun h3 => ?_⟩
  · subst h0
    obtain ⟨hle, htie⟩ := h.nearest hv
    rw [hdist, hdist]
    refine ⟨mul_le_mul_of_nonneg_right hle hQ.le, fun heq => ?_⟩
    exact (htie (mul_right_cancel₀ hQ.ne' heq)).imp_left fun hvk => by rw [hvk]
  · obtain ⟨hlow, hhigh⟩ := h.2.1 (.inl h1)
    rw [habs, habs, habs, abs_of_nonneg ht, Nat.abs_cast, hvw]
    exact ⟨mul_le_mul_of_nonneg_right hlow hQ.le, fun hle =>
      mul_le_mul_of_nonneg_right (hw.le_of_down hhigh (le_of_mul_le_mul_right hle hQ)) hQ.le⟩
  · cases neg with
    | false =>
      obtain ⟨hlow, hhigh⟩ := h.2.2 (.inl ⟨h2, rfl⟩)
      simp only [x, y, signFactor_false, one_mul]
      exact ⟨mul_le_mul_of_nonneg_right hlow hQ.le, fun hle =>
        mul_le_mul_of_nonneg_right (hv.ge_of_up hhigh (le_of_mul_le_mul_right hle hQ)) hQ.le⟩
    | true =>
      obtain ⟨hlow, hhigh⟩ := h.2.1 (.inr (.inl ⟨h2, rfl⟩))
      simp only [x, y, signFactor_true, neg_one_mul, neg_le_neg_iff]
      exact ⟨mul_le_mul_of_nonneg_right hlow hQ.le, fun hle =>
        mul_le_mul_of_nonneg_right (hv.le_of_down hhigh (le_of_mul_le_mul_right hle hQ)) hQ.le⟩
  · cases neg with
    | false =>
      obtain ⟨hlow, hhigh⟩ := h.2.1 (.inr (.inr ⟨h3, rfl⟩))
      simp only [x, y, signFactor_false, one_mul]
      exact ⟨mul_le_mul_of_nonneg_right hlow hQ.le, fun hle =>
        mul_le_mul_of_nonneg_right (hv.le_of_down hhigh (le_of_mul_le_mul_right hle hQ)) hQ.le⟩
    | true =>
      obtain ⟨hlow, hhigh⟩ := h.2.2 (.inr ⟨h3, rfl⟩)
      simp only [x, y, signFactor_true, neg_one_mul, neg_le_neg_iff]
      exact ⟨mul_le_mul_of_nonneg_right hlow hQ.le, fun hle =>
        mul_le_mul_of_nonneg_right (hv.ge_of_up hhigh (le_of_mul_le_mul_right hle hQ)) hQ.le⟩

/-! ## `roundFin` rounds -/

section
variable {f : Fmt} {rm : Nat} {neg : Bool} {m : Nat} {e : Int} {t : ℝ}

theorem signFactor_mul_neg (neg : Bool) {r : ℝ} (hr : 0 < r) : signFactor neg * r < 0 ↔ neg = true := by
  cases neg
  · simp [signFactor, hr.le]
  · simp [signFactor, hr]

theorem signFactor_inj (neg : Bool) {a b : ℝ} : signFactor neg * a = signFactor neg * b ↔ a = b := by
  cases neg <;> simp [signFactor]

/-- A finite result. -/
theorem roundedTo_finite (hrm : rm < 4) (hfb : 0 < f.fb) (hm : 0 < m) (h : SameCell (m * 2 ^ (e - quantum f m e)) t)
    (hfin : patternOf f (quantumField f m e) (toUnits rm neg m e (quantum f m e)).1 < f.top * 2 ^ f.fb) :
    RoundedTo f rm (signFactor neg * (t * 2 ^ quantum f m e)) (roundFin f rm neg m e) := by
  obtain ⟨hE, hunit⟩ := quantumField_spec f m e
  obtain ⟨hbelow, habove⟩ := units_bounds (f := f) (e := e) hm
  obtain ⟨hround, hexact⟩ := toUnits_spec hrm neg m h
  have hQ := two_zpow_pos (quantum f m e)
  have ht : 0 < t := h.pos (mul_pos (by exact_mod_cast hm) (two_zpow_pos _))
  have hge : quantumField f m e ≠ 1 → ((2 ^ f.fb : Nat) : ℝ) ≤ t := fun hne =>
    not_lt.mp fun hlt => absurd ((h.lt_iff _).mpr hlt) (not_lt.mpr (habove hne))
  have hkhigh := (hround.le hrm _).2 ((h.lt_iff _).mp hbelow).le
  have hmag := magnitude_patternOf hE (fun hne => (hround.le hrm _).1 (hge hne)) hkhigh
  obtain ⟨fl, hres, hfl, -⟩ := (roundFin_cases f rm neg e hm).2 hfin
  generalize (toUnits rm neg m e (quantum f m e)).1 = k at *
  generalize (toUnits rm neg m e (quantum f m e)).2 = inexact at *
  rw [hunit] at hmag
  rw [hres]
  refine ⟨fun y hy => ?_, fun hnone => absurd ((isNumber_withSign neg hfin _).mpr rfl) (hnone _)⟩
  obtain rfl := (isNumber_withSign neg hfin y).mp hy
  rw [hmag]
  refine ⟨?_, ?_, fun p z hz => ?_⟩
  · dsimp only
    rw [hfl, hexact, signFactor_inj, mul_left_inj' hQ.ne']
    exact eq_comm
  · dsimp only
    rw [withSign_div f neg (hfin.trans (infinity_lt f)), signFactor_mul_neg neg (mul_pos ht hQ)]
    cases neg <;> simp
  · obtain ⟨w, hw, hw0, hzw, -⟩ := competitor hE hge hz
    rw [hunit] at hzw
    obtain ⟨h0, h123⟩ := hround.beats hQ ht.le hw hw0 hzw
    refine ⟨fun hr0 => (h0 hr0).imp_right fun htie heq => (htie heq).imp_right fun heven => ?_, h123⟩
    dsimp only
    have hsign : f.sign % 2 = 0 := by
      obtain ⟨n, hn⟩ : ∃ n, f.fb = n + 1 := ⟨f.fb - 1, by omega⟩
      rw [Fmt.sign, hn, ← Nat.add_assoc, pow_succ]
      omega
    rw [withSign_eq, Nat.add_mod, Nat.mul_mod, hsign, patternOf_even hfb heven]
    rfl

theorem infBits_eq (f : Fmt) (neg : Bool) : infBits f neg = infinityOf f neg.toNat := withSign_eq f neg _

theorem not_isNumber_infinityOf (f : Fmt) (n : Nat) (y : ℝ) : ¬ IsNumber f (infinityOf f n) y :=
  fun h => ((isNumber_iff f _ y).mp h).1 (infinityOf_field f n)

/-- A number of units that reaches the infinity lies above every number of the format, where the mode goes to the infinity or the
magnitude itself reaches it. -/
theorem RoundsUnit.above {k : Nat} (h : RoundsUnit rm neg t k) (hrm : rm < 4) {w : ℝ} (hw : OnGrid t w) (hwk : w < k)
    (hmode : overflows rm neg = true) : w < t := by
  by_contra hle
  have hle : t ≤ w := not_lt.mp hle
  have hup : rm = 2 ∧ neg = false ∨ rm = 3 ∧ neg = true → False := fun hm =>
    absurd (hw.ge_of_up (h.2.2 hm).2 hle) (not_le.mpr hwk)
  have hcases : rm = 0 ∨ (rm = 2 ∧ neg = false ∨ rm = 3 ∧ neg = true) := by
    simpa [overflows, or_assoc] using hmode
  obtain rfl | hm := hcases
  · have hn := (h.nearest hw).1
    rw [abs_of_nonneg (by linarith), abs_of_nonneg (by linarith)] at hn
    linarith
  · exact hup hm

/-- An overflow. -/
theorem roundedTo_overflow (hrm : rm < 4) (heb : 0 < f.eb) (hm : 0 < m) (h : SameCell (m * 2 ^ (e - quantum f m e)) t)
    (hbig : f.top * 2 ^ f.fb ≤ patternOf f (quantumField f m e) (toUnits rm neg m e (quantum f m e)).1) :
    RoundedTo f rm (signFactor neg * (t * 2 ^ quantum f m e)) (roundFin f rm neg m e) := by
  obtain ⟨hE, hunit⟩ := quantumField_spec f m e
  obtain ⟨hbelow, habove⟩ := units_bounds (f := f) (e := e) hm
  obtain ⟨hround, -⟩ := toUnits_spec hrm neg m h
  have hQ := two_zpow_pos (quantum f m e)
  have ht : 0 < t := h.pos (mul_pos (by exact_mod_cast hm) (two_zpow_pos _))
  have hge : quantumField f m e ≠ 1 → ((2 ^ f.fb : Nat) : ℝ) ≤ t := fun hne =>
    not_lt.mp fun hlt => absurd ((h.lt_iff _).mpr hlt) (not_lt.mpr (habove hne))
  have hmag := magnitude_patternOf hE (fun hne => (hround.le hrm _).1 (hge hne)) ((hround.le hrm _).2 ((h.lt_iff _).mp hbelow).le)
  have hΩ := (magnitude_strictMono f).monotone hbig
  rw [hmag, hunit] at hΩ
  rw [(roundFin_cases f rm neg e hm).1 hbig]
  generalize (toUnits rm neg m e (quantum f m e)).1 = k at *
  have habs : |signFactor neg * (t * 2 ^ quantum f m e)| = t * 2 ^ quantum f m e := by
    rw [abs_signFactor_mul, abs_of_pos (mul_pos ht hQ)]
  cases hmode : overflows rm neg with
  | true =>
    rw [if_pos rfl, infBits_eq]
    refine ⟨fun y hy => absurd hy (not_isNumber_infinityOf f _ y), fun _ => ⟨rfl, ?_, fun p z hz => ?_⟩⟩
    · have hx := signFactor_mul_neg neg (mul_pos ht hQ)
      have hpos : neg = false → 0 < signFactor neg * (t * 2 ^ quantum f m e) := fun hn => by
        rw [hn, signFactor_false, one_mul]; exact mul_pos ht hQ
      cases neg with
      | false =>
        refine .inl ⟨by simp [infinityOf], hpos rfl, ?_, ?_⟩ <;> rintro rfl <;> simp [overflows] at hmode
      | true =>
        refine .inr ⟨by simp [infinityOf], hx.mpr rfl, ?_, ?_⟩ <;> rintro rfl <;> simp [overflows] at hmode
    · obtain ⟨w, hw, hw0, hzw, hlt⟩ := competitor hE hge hz
      rw [hunit] at hzw
      have hzabs : |z| = w * 2 ^ quantum f m e := by
        obtain rfl | rfl := hzw
        · exact abs_of_nonneg (mul_nonneg hw0 hQ.le)
        · rw [abs_neg, abs_of_nonneg (mul_nonneg hw0 hQ.le)]
      rw [hzabs] at hlt
      rw [habs, hzabs]
      refine mul_lt_mul_of_pos_right (hround.above hrm hw ?_ hmode) hQ
      exact lt_of_mul_lt_mul_right (hlt.trans_le hΩ) hQ.le
  | false =>
    rw [if_neg (by decide)]
    have hone : 0 < f.top * 2 ^ f.fb := Nat.mul_pos (Fmt.top_pos heb) (Nat.two_pow_pos _)
    have hfin : f.top * 2 ^ f.fb - 1 < f.top * 2 ^ f.fb := by omega
    have hM := magnitude_strictMono f hfin
    have hM0 := magnitude_nonneg f (f.top * 2 ^ f.fb - 1)
    have hdown : (k : ℝ) ≤ t := by
      refine (hround.2.1 ?_).1
      have h4 : rm = 0 ∨ rm = 1 ∨ rm = 2 ∨ rm = 3 := by omega
      obtain rfl | rfl | rfl | rfl := h4 <;> cases neg <;> simp [overflows] at hmode ⊢
    have hlt : magnitude f (f.top * 2 ^ f.fb - 1) < t * 2 ^ quantum f m e :=
      hM.trans_le (hΩ.trans (mul_le_mul_of_nonneg_right hdown hQ.le))
    refine ⟨fun y hy => ?_, fun hnone => absurd ((isNumber_withSign neg hfin _).mpr rfl) (hnone _)⟩
    obtain rfl := (isNumber_withSign neg hfin y).mp hy
    refine ⟨?_, ?_, fun p z hz => ?_⟩
    · rw [signFactor_inj]
      exact iff_of_false (show ¬ (fOF + fNX) &&& fNX = 0 by decide) hlt.ne
    · dsimp only
      rw [withSign_div f neg (hfin.trans (infinity_lt f)), signFactor_mul_neg neg (mul_pos ht hQ)]
      cases neg <;> simp
    · have hzM : |z| ≤ magnitude f (f.top * 2 ^ f.fb - 1) := by
        obtain ⟨hfz, hz⟩ := (isNumber_iff f p z).mp hz
        rw [hz, abs_signFactor_mul, abs_of_nonneg (magnitude_nonneg f _)]
        exact (magnitude_strictMono f).monotone (Nat.le_sub_one_of_lt ((field_ne_top_iff f p).mp hfz))
      obtain ⟨hz1, hz2⟩ := abs_le.mp hzM
      refine ⟨fun h0 => ?_, fun _ => ?_, fun h2 => ?_, fun h3 => ?_⟩
      · rw [h0] at hmode
        cases hmode
      · rw [habs, abs_signFactor_mul, abs_of_nonneg hM0]
        exact ⟨hlt.le, fun _ => hzM⟩
      · cases neg with
        | false => rw [h2] at hmode; cases hmode
        | true =>
          rw [signFactor_true, neg_one_mul, neg_one_mul]
          exact ⟨neg_le_neg hlt.le, fun _ => hz1⟩
      · cases neg with
        | true => rw [h3] at hmode; cases hmode
        | false =>
          rw [signFactor_false, one_mul, one_mul]
          exact ⟨hlt.le, fun _ => hz2⟩

/-- R49, R50: `roundFin` rounds every number that no half unit tells from its own operand. -/
theorem roundFin_rounded (hrm : rm < 4) (heb : 0 < f.eb) (hfb : 0 < f.fb) (hm : 0 < m)
    (h : SameCell (m * 2 ^ (e - quantum f m e)) t) :
    RoundedTo f rm (signFactor neg * (t * 2 ^ quantum f m e)) (roundFin f rm neg m e) := by
  rcases Nat.lt_or_ge (patternOf f (quantumField f m e) (toUnits rm neg m e (quantum f m e)).1) (f.top * 2 ^ f.fb) with hlt | hge
  · exact roundedTo_finite hrm hfb hm h hlt
  · exact roundedTo_overflow hrm heb hm h hge

/-- The operand itself. -/
theorem roundFin_exact (hrm : rm < 4) (heb : 0 < f.eb) (hfb : 0 < f.fb) (hm : 0 < m) :
    RoundedTo f rm ((rational neg m e : ℚ) : ℝ) (roundFin f rm neg m e) := by
  have h := roundFin_rounded (neg := neg) hrm heb hfb hm (SameCell.refl (m * 2 ^ (e - quantum f m e)))
  rwa [mul_assoc (m : ℝ), ← zpow_add₀ (by norm_num), sub_add_cancel, ← cast_rational] at h

end

end Sys2Proof.Machine
end

section
/-! PROOFS. Sums, products and fused sums of finite numbers (R144): the exact result rounded once. -/

namespace Sys2Proof.Machine

/-! ## Finite operands -/

/-- A finite pattern as its sign, its number and its units. -/
structure FiniteOperand (f : Fmt) (a : Nat) (x : ℝ) (n : Bool) (m : Nat) (e : Int) : Prop where
  unpack : unpack f a = .fin n m e
  sign : a / f.sign = n.toNat
  number : x = signFactor n * (m * 2 ^ e)
  zero : m = 0 ↔ a % f.sign = 0
  notNan : ¬ NanIn f a
  units : m < 2 ^ (f.fb + 1)

theorem unpack_units_lt {f : Fmt} {a : Nat} {n : Bool} {m : Nat} {e : Int} (h : unpack f a = .fin n m e) : m < 2 ^ (f.fb + 1) := by
  have hP : 0 < 2 ^ f.fb := Nat.two_pow_pos _
  have hfr := Nat.mod_lt a hP
  unfold Machine.unpack at h
  dsimp only at h
  rw [pow_succ]
  split at h
  · split at h <;> cases h
  · split at h <;> cases h <;> omega

/-- Every number of a format below its bound is one. -/
theorem IsNumber.operand {f : Fmt} {a : Nat} {x : ℝ} (h : IsNumber f a x) (ha : a < 2 * f.sign) :
    ∃ n m e, FiniteOperand f a x n m e := by
  obtain ⟨hfin, hx⟩ := (isNumber_iff f a x).mp h
  obtain ⟨m, e, hu, hm⟩ := unpack_magnitude hfin
  obtain ⟨m', e', hu', hz⟩ := unpack_of_finite hfin
  rw [hu] at hu'
  cases hu'
  refine ⟨_, m, e, hu, ?_, by rw [hx, hm], hz, fun hn => hfin hn.1, unpack_units_lt hu⟩
  have hsign : a / f.sign < 2 := (Nat.div_lt_iff_lt_mul f.sign_pos).mpr ha
  obtain hs | hs := Nat.le_one_iff_eq_zero_or_eq_one.mp (Nat.lt_succ_iff.mp hsign)
  all_goals rw [hs]; rfl

theorem FiniteOperand.number_eq_zero {f : Fmt} {a : Nat} {x : ℝ} {n : Bool} {m : Nat} {e : Int} (h : FiniteOperand f a x n m e) :
    x = 0 ↔ m = 0 := by
  rw [h.number]
  have := two_zpow_pos e
  cases n <;> simp [signFactor, this.ne']

/-- The pattern from its sign and magnitude. -/
theorem FiniteOperand.pattern {f : Fmt} {a : Nat} {x : ℝ} {n : Bool} {m : Nat} {e : Int} (h : FiniteOperand f a x n m e) :
    a = n.toNat * f.sign + a % f.sign := by
  conv_lhs => rw [← Nat.div_add_mod a f.sign, h.sign, Nat.mul_comm]

theorem signFactor_xor (a b : Bool) : signFactor (a ^^ b) = signFactor a * signFactor b := by
  cases a <;> cases b <;> simp [signFactor]

theorem toNat_xor (a b : Bool) : (a ^^ b).toNat = (a.toNat + b.toNat) % 2 := by cases a <;> cases b <;> rfl

theorem roundFin_zero (f : Fmt) (rm : Nat) (neg : Bool) (e : Int) : roundFin f rm neg 0 e = (neg.toNat * f.sign, 0) := by
  unfold roundFin
  rw [if_pos rfl, withSign_eq, Nat.add_zero]

/-! ## Sums (R49) -/

/-- A sum in units of the smaller exponent is exact. -/
theorem sumFin_spec (n1 : Bool) (m1 : Nat) (e1 : Int) (n2 : Bool) (m2 : Nat) (e2 : Int) :
    ((sumFin n1 m1 e1 n2 m2 e2).1 : ℝ) * 2 ^ (sumFin n1 m1 e1 n2 m2 e2).2 =
      signFactor n1 * (m1 * 2 ^ e1) + signFactor n2 * (m2 * 2 ^ e2) := by
  have hterm : ∀ (n : Bool) (m : Nat) (e g : Int), g ≤ e →
      (((if n then -1 else 1) * Int.ofNat (m * 2 ^ (e - g).toNat) : Int) : ℝ) * 2 ^ g = signFactor n * (m * 2 ^ e) := by
    intro n m e g hle
    have he : (2 : ℝ) ^ e = 2 ^ (e - g).toNat * 2 ^ g := by
      rw [← two_zpow_add, Int.toNat_of_nonneg (sub_nonneg.mpr hle)]
      congr 1
      ring
    rw [he, Int.ofNat_eq_natCast]
    cases n <;> simp [signFactor] <;> ring
  unfold sumFin
  dsimp only
  rw [Int.cast_add, add_mul, hterm _ _ _ _ (min_le_left _ _), hterm _ _ _ _ (min_le_right _ _)]

theorem signFactor_natAbs (v : Int) : signFactor (decide (v < 0)) * (v.natAbs : ℝ) = v := by
  rw [Nat.cast_natAbs]
  by_cases h : v < 0
  · rw [decide_eq_true h, signFactor_true, abs_of_neg h]
    push_cast
    ring
  · rw [decide_eq_false h, signFactor_false, abs_of_nonneg (not_lt.mp h), one_mul]

/-- A sum rounded once. -/
theorem roundSum_spec {f : Fmt} {rm : Nat} (hrm : rm < 4) (heb : 0 < f.eb) (hfb : 0 < f.fb) (n1 : Bool) (m1 : Nat) (e1 : Int)
    (n2 : Bool) (m2 : Nat) (e2 : Int) :
    SumTo f rm (signFactor n1 * (m1 * 2 ^ e1) + signFactor n2 * (m2 * 2 ^ e2))
      (if m1 = 0 ∧ m2 = 0 ∧ n1 = n2 then some n1.toNat else none) (roundSum f rm n1 m1 e1 n2 m2 e2) := by
  rw [← sumFin_spec]
  unfold roundSum
  generalize sumFin n1 m1 e1 n2 m2 e2 = r
  obtain ⟨v, e⟩ := r
  dsimp only
  have hpow := two_zpow_pos e
  refine ⟨fun hne => ?_, fun hz => ?_⟩
  · have hv : v ≠ 0 := fun h => hne (by rw [h]; simp)
    rw [if_neg hv]
    have h := roundFin_exact (neg := decide (v < 0)) (e := e) hrm heb hfb (Int.natAbs_pos.mpr hv)
    rwa [cast_rational, ← mul_assoc, signFactor_natAbs] at h
  · have hv : v = 0 := by simpa [hpow.ne'] using hz
    rw [if_pos hv, withSign_eq, Nat.add_zero]
    split
    · rfl
    · by_cases h3 : rm = 3 <;> simp [h3]

/-- What a sum of finite operands is told by. -/
theorem SumTo.congr {f : Fmt} {rm : Nat} {x y : ℝ} {s s' : Option Nat} {r : Nat × Nat} (h : SumTo f rm x s r) (hx : x = y) (hs : s = s') :
    SumTo f rm y s' r := hx ▸ hs ▸ h

section
variable {f : Fmt} {rm a b c : Nat} {x y z : ℝ} {n1 n2 n3 : Bool} {m1 m2 m3 : Nat} {e1 e2 e3 : Int}

theorem fpAdd_finite {sub : Bool} (hrm : rm < 4) (heb : 0 < f.eb) (hfb : 0 < f.fb) (ha : FiniteOperand f a x n1 m1 e1)
    (hb : FiniteOperand f b y n2 m2 e2) :
    SumTo f rm (x + signFactor sub * y) (if m1 = 0 ∧ m2 = 0 ∧ n1 = (n2 ^^ sub) then some n1.toNat else none) (fpAdd f rm sub a b) := by
  unfold fpAdd
  rw [nanResult_pair ha.notNan hb.notNan, ha.unpack, hb.unpack]
  refine SumTo.congr (roundSum_spec hrm heb hfb n1 m1 e1 (n2 ^^ sub) m2 e2) ?_ rfl
  rw [ha.number, hb.number, signFactor_xor]
  ring

/-- Zeros of one sign are equal patterns. -/
theorem FiniteOperand.zeros_eq (ha : FiniteOperand f a x n1 m1 e1) (hb : FiniteOperand f b y n2 m2 e2) (hz1 : m1 = 0) (hz2 : m2 = 0) :
    a = b ↔ n1 = n2 := by
  have ea := ha.pattern
  have eb := hb.pattern
  rw [ha.zero.mp hz1, Nat.add_zero] at ea
  rw [hb.zero.mp hz2, Nat.add_zero] at eb
  rw [ea, eb, Nat.mul_left_inj f.sign_pos.ne']
  cases n1 <;> cases n2 <;> simp

theorem fpAdd_sum (hrm : rm < 4) (heb : 0 < f.eb) (hfb : 0 < f.fb) (ha : FiniteOperand f a x n1 m1 e1)
    (hb : FiniteOperand f b y n2 m2 e2) :
    SumTo f rm (x + y) (if a = b ∧ a % f.sign = 0 then some (a / f.sign) else none) (fpAdd f rm false a b) := by
  refine SumTo.congr (fpAdd_finite hrm heb hfb ha hb) (by rw [signFactor_false, one_mul]) ?_
  rw [ha.sign]
  refine if_congr ?_ rfl rfl
  rw [Bool.xor_false, ← ha.zero]
  constructor
  · rintro ⟨h1, h2, h3⟩
    exact ⟨(ha.zeros_eq hb h1 h2).mpr h3, h1⟩
  · rintro ⟨rfl, h1⟩
    have h2 : m2 = 0 := hb.zero.mpr (ha.zero.mp h1)
    exact ⟨h1, h2, (ha.zeros_eq hb h1 h2).mp rfl⟩

theorem fpAdd_difference (hrm : rm < 4) (heb : 0 < f.eb) (hfb : 0 < f.fb) (ha : FiniteOperand f a x n1 m1 e1)
    (hb : FiniteOperand f b y n2 m2 e2) :
    SumTo f rm (x - y) (if a ≠ b ∧ a % f.sign = 0 ∧ b % f.sign = 0 then some (a / f.sign) else none) (fpAdd f rm true a b) := by
  refine SumTo.congr (fpAdd_finite hrm heb hfb ha hb) (by rw [signFactor_true]; ring) ?_
  rw [ha.sign]
  refine if_congr ?_ rfl rfl
  rw [← ha.zero, ← hb.zero, and_left_comm, and_comm (a := a ≠ b), and_assoc, and_left_comm]
  refine and_congr_right fun h1 => and_congr_right fun h2 => ?_
  rw [ne_eq, ha.zeros_eq hb h1 h2]
  cases n1 <;> cases n2 <;> simp

/-! ## Products -/

theorem fpMul_finite (hrm : rm < 4) (heb : 0 < f.eb) (hfb : 0 < f.fb) (ha : FiniteOperand f a x n1 m1 e1)
    (hb : FiniteOperand f b y n2 m2 e2) :
    (x * y ≠ 0 → RoundedTo f rm (x * y) (fpMul f rm a b)) ∧
    (x * y = 0 → fpMul f rm a b = ((a / f.sign + b / f.sign) % 2 * f.sign, 0)) := by
  have hmul : fpMul f rm a b = roundFin f rm (n1 ^^ n2) (m1 * m2) (e1 + e2) := by
    unfold fpMul
    rw [nanResult_pair ha.notNan hb.notNan, ha.unpack, hb.unpack]
  have hxy : x * y = ((rational (n1 ^^ n2) (m1 * m2) (e1 + e2) : ℚ) : ℝ) := by
    rw [cast_rational, ha.number, hb.number, signFactor_xor, zpow_add₀ (by norm_num)]
    push_cast
    ring
  have hzero : x * y = 0 ↔ m1 * m2 = 0 := by rw [mul_eq_zero, mul_eq_zero, ha.number_eq_zero, hb.number_eq_zero]
  rw [hmul]
  refine ⟨fun h => ?_, fun h => ?_⟩
  · have hm : 0 < m1 * m2 := Nat.pos_of_ne_zero fun h0 => h (hzero.mpr h0)
    rw [hxy]
    exact roundFin_exact hrm heb hfb hm
  · rw [hzero.mp h, roundFin_zero, ha.sign, hb.sign, toNat_xor]

/-! ## Fused sums -/

theorem fpFma_finite {np nc : Bool} (hrm : rm < 4) (heb : 0 < f.eb) (hfb : 0 < f.fb) (ha : FiniteOperand f a x n1 m1 e1)
    (hb : FiniteOperand f b y n2 m2 e2) (hc : FiniteOperand f c z n3 m3 e3) :
    let p := (if np then -(x * y) else x * y)
    let sp := (a / f.sign + b / f.sign + np.toNat) % 2
    SumTo f rm (p + if nc then -z else z) (if p = 0 ∧ z = 0 ∧ sp = (c / f.sign + nc.toNat) % 2 then some sp else none)
      (fpFma f rm np nc a b c) := by
  intro p sp
  have hfma : fpFma f rm np nc a b c = roundSum f rm (n1 ^^ n2 ^^ np) (m1 * m2) (e1 + e2) (n3 ^^ nc) m3 e3 := by
    unfold fpFma
    rw [nanResult_none (xs := [a, b, c]) (by simp [ha.notNan, hb.notNan, hc.notNan]), ha.unpack, hb.unpack, hc.unpack]
    simp [FVal.isInf, FVal.neg]
  have hp : p = signFactor (n1 ^^ n2 ^^ np) * ((m1 * m2 : Nat) * 2 ^ (e1 + e2)) := by
    have hsign : p = signFactor np * (x * y) := by
      change (if np then -(x * y) else x * y) = _
      cases np <;> simp [signFactor]
    rw [hsign, ha.number, hb.number, signFactor_xor, signFactor_xor, zpow_add₀ (by norm_num)]
    push_cast
    ring
  have hzc : (if nc then -z else z) = signFactor (n3 ^^ nc) * (m3 * 2 ^ e3) := by
    rw [hc.number, signFactor_xor]
    cases nc <;> simp [signFactor]
  have hp0 : p = 0 ↔ m1 * m2 = 0 := by
    have := two_zpow_pos (e1 + e2)
    rw [hp]
    cases n1 ^^ n2 ^^ np <;> simp [signFactor, this.ne']
  have hsp : sp = (n1 ^^ n2 ^^ np).toNat := by
    change (a / f.sign + b / f.sign + np.toNat) % 2 = _
    rw [ha.sign, hb.sign, toNat_xor, toNat_xor, Nat.mod_add_mod]
  have hsc : (c / f.sign + nc.toNat) % 2 = (n3 ^^ nc).toNat := by rw [hc.sign, toNat_xor]
  rw [hfma, hzc]
  refine SumTo.congr (roundSum_spec hrm heb hfb _ _ _ _ _ _) (by rw [hp]) ?_
  rw [hsp]
  refine if_congr ?_ rfl rfl
  rw [hp0, hc.number_eq_zero, hsc]
  refine and_congr_right fun _ => and_congr_right fun _ => ?_
  cases n1 ^^ n2 ^^ np <;> cases n3 ^^ nc <;> simp

end

end Sys2Proof.Machine
end

section
/-! PROOFS. Quotients and square roots of finite numbers (R144): a sticky bit keeps what a truncated result loses. -/

namespace Sys2Proof.Machine

/-! ## The sticky bit -/

/-- A truncated magnitude with a sticky bit below its last one: no half unit of at least four of its steps tells it from the
magnitude. -/
theorem sameCell_sticky {q st : Nat} {y : ℝ} {g : Nat} (hlow : 2 * (q : ℝ) ≤ y) (hhigh : y < 2 * q + 2)
    (hst : st = 0 ∧ y = 2 * q ∨ st = 1 ∧ 2 * (q : ℝ) < y) :
    SameCell (((2 * q + st : Nat) : ℝ) / 2 ^ (g + 2)) (y / 2 ^ (g + 2)) := by
  intro c
  have hG : (0 : ℝ) < 2 ^ (g + 2) := by positivity
  have hhalf : (c : ℝ) * 2 ^ (g + 2) = 2 * (2 * ((c * 2 ^ g : Nat) : ℝ)) := by push_cast; ring
  rw [← mul_div_assoc, ← mul_div_assoc, div_lt_iff₀ hG, div_lt_iff₀ hG, div_eq_iff hG.ne', div_eq_iff hG.ne', hhalf]
  generalize c * 2 ^ g = h
  have hcast : ((2 * q + st : Nat) : ℝ) = 2 * q + st := by push_cast; ring
  rcases Nat.lt_or_ge q h with hq | hq
  · have hqr : (q : ℝ) + 1 ≤ h := by exact_mod_cast hq
    have hstr : (st : ℝ) ≤ 1 := by
      have : st ≤ 1 := by omega
      exact_mod_cast this
    rw [hcast]
    exact ⟨iff_of_true (by linarith) (by linarith), iff_of_false (by intro; linarith) (by intro; linarith)⟩
  · have hqr : (h : ℝ) ≤ q := by exact_mod_cast hq
    have hst0 : (0 : ℝ) ≤ st := Nat.cast_nonneg _
    rw [hcast]
    refine ⟨iff_of_false (by linarith) (by linarith), ?_⟩
    obtain ⟨rfl, hy⟩ | ⟨rfl, hy⟩ := hst
    · rw [hy]
      push_cast
      rw [add_zero]
    · refine iff_of_false (fun hh => ?_) (fun hh => ?_)
      · push_cast at hh
        linarith
      · linarith

/-- A number read with a sticky bit is rounded as itself, where it has more digits than the format. -/
theorem roundFin_sticky {f : Fmt} {rm : Nat} (hrm : rm < 4) (heb : 0 < f.eb) (hfb : 0 < f.fb) (neg : Bool) {q st : Nat} {e : Int}
    {y : ℝ} (hlow : 2 * (q : ℝ) ≤ y) (hhigh : y < 2 * q + 2) (hst : st = 0 ∧ y = 2 * q ∨ st = 1 ∧ 2 * (q : ℝ) < y)
    (hbig : 2 ^ (f.fb + 1) ≤ q) : RoundedTo f rm (signFactor neg * (y * 2 ^ e)) (roundFin f rm neg (2 * q + st) e) := by
  have hm : 0 < 2 * q + st := by have := Nat.two_pow_pos (f.fb + 1); omega
  have hlog : f.fb + 2 ≤ Nat.log2 (2 * q + st) := by
    rw [Nat.le_log2 hm.ne', pow_succ]
    omega
  have hq : (2 : Int) ≤ quantum f (2 * q + st) e - e := by
    have := le_max_left (Int.ofNat (Nat.log2 (2 * q + st)) + e) (1 - Int.ofNat f.bias)
    simp only [quantum, Int.ofNat_eq_natCast] at this ⊢
    omega
  obtain ⟨g, hg⟩ : ∃ g : Nat, quantum f (2 * q + st) e - e = ((g + 2 : Nat) : Int) :=
    ⟨(quantum f (2 * q + st) e - e - 2).toNat, by push_cast; rw [Int.toNat_of_nonneg (by omega)]; ring⟩
  have hunit : ∀ a : ℝ, a * 2 ^ (e - quantum f (2 * q + st) e) = a / 2 ^ (g + 2) := fun a => by
    have : e - quantum f (2 * q + st) e = -((g + 2 : Nat) : Int) := by rw [← hg]; ring
    rw [this, zpow_neg, zpow_natCast, div_eq_mul_inv]
  have h := sameCell_sticky (g := g) hlow hhigh hst
  rw [← hunit, ← hunit] at h
  have hr := roundFin_rounded (neg := neg) hrm heb hfb hm h
  rwa [mul_assoc y, ← zpow_add₀ (by norm_num), sub_add_cancel] at hr

/-! ## Quotients -/

section
variable {f : Fmt} {rm a b : Nat} {x y : ℝ} {n1 n2 : Bool} {m1 m2 : Nat} {e1 e2 : Int}

/-- A quotient of units, truncated at 64 bits past the point. -/
theorem quotient_sticky (m1 : Nat) {m2 : Nat} (hm2 : 0 < m2) :
    let q : Nat := m1 * 2 ^ 64 / m2
    let st : Nat := if m1 * 2 ^ 64 % m2 = 0 then 0 else 1
    let y : ℝ := (m1 : ℝ) / m2 * 2 ^ 65
    2 * (q : ℝ) ≤ y ∧ y < 2 * q + 2 ∧ (st = 0 ∧ y = 2 * q ∨ st = 1 ∧ 2 * (q : ℝ) < y) := by
  intro q st y
  have hd : (0 : ℝ) < m2 := by exact_mod_cast hm2
  have hdecomp := Nat.div_add_mod (m1 * 2 ^ 64) m2
  have hmod := Nat.mod_lt (m1 * 2 ^ 64) hm2
  have hcast : (m1 : ℝ) * 2 ^ 64 = m2 * q + ((m1 * 2 ^ 64 % m2 : Nat) : ℝ) := by exact_mod_cast hdecomp.symm
  have hy : y = 2 * (q : ℝ) + 2 * (((m1 * 2 ^ 64 % m2 : Nat) : ℝ) / m2) := by
    have : y = 2 * ((m1 : ℝ) * 2 ^ 64) / m2 := by change (m1 : ℝ) / m2 * 2 ^ 65 = _; ring
    rw [this, hcast]
    field_simp
  have hfrac : ((m1 * 2 ^ 64 % m2 : Nat) : ℝ) / m2 < 1 := (div_lt_one hd).mpr (by exact_mod_cast hmod)
  have hfrac0 : 0 ≤ ((m1 * 2 ^ 64 % m2 : Nat) : ℝ) / m2 := by positivity
  refine ⟨by linarith, by linarith, ?_⟩
  by_cases hz : m1 * 2 ^ 64 % m2 = 0
  · exact .inl ⟨if_pos hz, by rw [hy, hz]; simp⟩
  · have : 0 < ((m1 * 2 ^ 64 % m2 : Nat) : ℝ) / m2 := div_pos (by exact_mod_cast Nat.pos_of_ne_zero hz) hd
    exact .inr ⟨if_neg hz, by linarith⟩

theorem fpDiv_finite (hrm : rm < 4) (heb : 0 < f.eb) (hfb : 0 < f.fb) (hfb2 : f.fb ≤ 23) (ha : FiniteOperand f a x n1 m1 e1)
    (hb : FiniteOperand f b y n2 m2 e2) :
    (x ≠ 0 → y ≠ 0 → RoundedTo f rm (x / y) (fpDiv f rm a b)) ∧
    (x = 0 → y ≠ 0 → fpDiv f rm a b = ((a / f.sign + b / f.sign) % 2 * f.sign, 0)) ∧
    (x ≠ 0 → y = 0 → fpDiv f rm a b = ((a / f.sign + b / f.sign) % 2 * f.sign + f.top * 2 ^ f.fb, fDZ)) := by
  have hdiv : fpDiv f rm a b = if m2 = 0 then (if m1 = 0 then (defaultNaN f, fNV) else (infBits f (n1 ^^ n2), fDZ))
      else roundFin f rm (n1 ^^ n2) (2 * (m1 * 2 ^ 64 / m2) + if m1 * 2 ^ 64 % m2 = 0 then 0 else 1) (e1 - e2 - 65) := by
    unfold fpDiv
    rw [nanResult_pair ha.notNan hb.notNan, ha.unpack, hb.unpack]
  rw [hdiv, ha.sign, hb.sign, ← toNat_xor, ne_eq, ne_eq, ha.number_eq_zero, hb.number_eq_zero]
  refine ⟨fun h1 h2 => ?_, fun h1 h2 => ?_, fun h1 h2 => ?_⟩
  · rw [if_neg h2]
    have hm2 : 0 < m2 := Nat.pos_of_ne_zero h2
    obtain ⟨hlow, hhigh, hst⟩ := quotient_sticky m1 hm2
    have hxy : x / y = signFactor (n1 ^^ n2) * ((m1 : ℝ) / m2 * 2 ^ 65 * 2 ^ (e1 - e2 - 65)) := by
      have h65 : (2 : ℝ) ^ (e1 - e2 - 65) = 2 ^ e1 / 2 ^ e2 / 2 ^ 65 := by
        rw [zpow_sub₀ (by norm_num), zpow_sub₀ (by norm_num)]
        norm_num
      have he2 := two_zpow_pos e2
      have hd : (0 : ℝ) < m2 := by exact_mod_cast hm2
      rw [h65, ha.number, hb.number, signFactor_xor]
      cases n2 <;> simp only [signFactor_false, signFactor_true] <;> field_simp
    rw [hxy]
    refine roundFin_sticky hrm heb hfb _ hlow hhigh hst ?_
    rw [Nat.le_div_iff_mul_le hm2]
    calc 2 ^ (f.fb + 1) * m2 ≤ 2 ^ (f.fb + 1) * 2 ^ (f.fb + 1) := Nat.mul_le_mul_left _ hb.units.le
      _ = 2 ^ (f.fb + 1 + (f.fb + 1)) := (pow_add ..).symm
      _ ≤ 2 ^ 64 := Nat.pow_le_pow_right (by decide) (by omega)
      _ ≤ m1 * 2 ^ 64 := Nat.le_mul_of_pos_left _ (Nat.pos_of_ne_zero h1)
  · rw [if_neg h2, h1, Nat.zero_mul, Nat.zero_div, Nat.zero_mod, if_pos rfl]
    exact roundFin_zero f rm _ _
  · rw [if_pos h2, if_neg h1, infBits_eq, infinityOf]

end

/-! ## Square roots -/

/-- The bit by bit root is the whole part of the root. -/
theorem isqrtFrom_spec (k v r : Nat) (hlow : r * r ≤ v) (hhigh : v < (r + 2 ^ k) * (r + 2 ^ k)) :
    isqrtFrom k v r * isqrtFrom k v r ≤ v ∧ v < (isqrtFrom k v r + 1) * (isqrtFrom k v r + 1) := by
  induction k generalizing r with
  | zero => exact ⟨hlow, hhigh⟩
  | succ k ih =>
    unfold isqrtFrom
    dsimp only
    split
    next h => exact ih _ h (by rw [add_assoc, ← two_mul, ← pow_succ']; exact hhigh)
    next h => exact ih _ hlow (Nat.lt_of_not_le h)

/-- An even exponent for a root. -/
theorem even_exponent (m : Nat) (e : Int) :
    ((if e % 2 = 0 then m else 2 * m : Nat) : ℝ) * 2 ^ (2 * ((if e % 2 = 0 then e else e - 1) / 2)) = m * 2 ^ e := by
  split
  next h => rw [Int.mul_ediv_cancel' (Int.dvd_of_emod_eq_zero h)]
  next h =>
    rw [Int.mul_ediv_cancel' (Int.dvd_of_emod_eq_zero (by omega)), zpow_sub₀ (by norm_num), zpow_one]
    push_cast
    ring

section
variable {f : Fmt} {rm a : Nat} {x : ℝ} {n : Bool} {m : Nat} {e : Int}

theorem fpSqrt_eq (ha : FiniteOperand f a x n m e) : fpSqrt f rm a = if m = 0 then (withSign f n 0, 0)
    else if n then (defaultNaN f, fNV)
    else
      let v := (if e % 2 = 0 then m else 2 * m) * 2 ^ 60
      let r := isqrtFrom 48 v 0
      roundFin f rm false (2 * r + if r * r = v then 0 else 1) ((if e % 2 = 0 then e else e - 1) / 2 - 31) := by
  unfold fpSqrt
  rw [nanResult_none (xs := [a]) (by simp [ha.notNan]), ha.unpack]

/-- The root of `v`, truncated. -/
theorem root_sticky {v r : Nat} (hlow : r * r ≤ v) (hhigh : v < (r + 1) * (r + 1)) :
    let st : Nat := if r * r = v then 0 else 1
    let y : ℝ := 2 * Real.sqrt v
    2 * (r : ℝ) ≤ y ∧ y < 2 * r + 2 ∧ (st = 0 ∧ y = 2 * r ∨ st = 1 ∧ 2 * (r : ℝ) < y) := by
  intro st y
  have hr0 : (0 : ℝ) ≤ r := Nat.cast_nonneg r
  have h1 : (r : ℝ) ≤ Real.sqrt v := Real.le_sqrt_of_sq_le (by rw [sq]; exact_mod_cast hlow)
  have h2 : Real.sqrt v < r + 1 := (Real.sqrt_lt' (by linarith)).mpr (by rw [sq]; exact_mod_cast hhigh)
  refine ⟨by linarith, by change 2 * Real.sqrt v < _; linarith, ?_⟩
  by_cases hz : r * r = v
  · refine .inl ⟨if_pos hz, ?_⟩
    change 2 * Real.sqrt v = _
    rw [← hz]
    push_cast
    rw [Real.sqrt_mul_self hr0]
  · refine .inr ⟨if_neg hz, ?_⟩
    have : (r : ℝ) < Real.sqrt v := Real.lt_sqrt_of_sq_lt (by rw [sq]; exact_mod_cast lt_of_le_of_ne hlow hz)
    change 2 * (r : ℝ) < 2 * Real.sqrt v
    linarith

theorem fpSqrt_finite (hrm : rm < 4) (heb : 0 < f.eb) (hfb : 0 < f.fb) (hfb2 : f.fb ≤ 23) (ha : FiniteOperand f a x n m e) :
    (0 < x → RoundedTo f rm (Real.sqrt x) (fpSqrt f rm a)) ∧ (x = 0 → fpSqrt f rm a = (a, 0)) ∧
    (x < 0 → (fpSqrt f rm a).2 = fNV) := by
  have hpow := two_zpow_pos e
  have hneg : n = true → x ≤ 0 := fun hn => by
    rw [ha.number, hn, signFactor_true, neg_one_mul]
    exact neg_nonpos.mpr (by positivity)
  have hpos : n = false → 0 ≤ x := fun hn => by
    rw [ha.number, hn, signFactor_false, one_mul]
    positivity
  rw [fpSqrt_eq ha]
  refine ⟨fun h => ?_, fun h => ?_, fun h => ?_⟩
  · have hm : m ≠ 0 := fun hm => h.ne' (ha.number_eq_zero.mpr hm)
    have hn : n = false := Bool.eq_false_iff.mpr fun hn => absurd (hneg hn) (not_le.mpr h)
    rw [if_neg hm, hn, if_neg (by decide)]
    dsimp only
    generalize hv : (if e % 2 = 0 then m else 2 * m) * 2 ^ 60 = v
    generalize hj : (if e % 2 = 0 then e else e - 1) / 2 = j
    have hmlow : 1 ≤ if e % 2 = 0 then m else 2 * m := by split <;> omega
    have hmhigh : (if e % 2 = 0 then m else 2 * m) ≤ 2 ^ 25 := by
      have h24 : 2 ^ (f.fb + 1) ≤ 2 ^ 24 := Nat.pow_le_pow_right (by decide) (by omega)
      have := ha.units
      split <;> omega
    obtain ⟨hrlow, hrhigh⟩ := isqrtFrom_spec 48 v 0 (Nat.zero_le _) (by rw [← hv]; omega)
    generalize isqrtFrom 48 v 0 = r at hrlow hrhigh ⊢
    obtain ⟨hlow, hhigh, hst⟩ := root_sticky hrlow hrhigh
    have hx : x = v * 2 ^ (2 * (j - 30)) := by
      have h60 : (2 : ℝ) ^ (2 * (j - 30)) = 2 ^ (2 * j) / 2 ^ 60 := by
        rw [mul_sub, zpow_sub₀ (by norm_num)]
        norm_num
      rw [ha.number, hn, signFactor_false, one_mul, ← even_exponent m e, hj, h60, ← hv]
      push_cast
      field_simp
      norm_num
    have hroot : Real.sqrt x = signFactor false * (2 * Real.sqrt v * 2 ^ (j - 31)) := by
      have hsq : (2 : ℝ) ^ (2 * (j - 30)) = 2 ^ (j - 30) * 2 ^ (j - 30) := by rw [two_mul, zpow_add₀ (by norm_num)]
      have h31 : (2 : ℝ) ^ (j - 30) = 2 * 2 ^ (j - 31) := by
        rw [← zpow_one_add₀ (by norm_num)]
        congr 1
        ring
      rw [hx, Real.sqrt_mul (Nat.cast_nonneg v), hsq, Real.sqrt_mul_self (two_zpow_pos _).le, signFactor_false, h31]
      ring
    rw [hroot]
    refine roundFin_sticky hrm heb hfb false hlow hhigh hst ?_
    have h24 : 2 ^ (f.fb + 1) ≤ 2 ^ 24 := Nat.pow_le_pow_right (by decide) (by omega)
    have hr : 2 ^ 24 ≤ r := by
      by_contra hlt
      have : (r + 1) * (r + 1) ≤ 2 ^ 24 * 2 ^ 24 := Nat.mul_le_mul (by omega) (by omega)
      omega
    exact h24.trans hr
  · rw [if_pos (ha.number_eq_zero.mp h)]
    have hp := ha.pattern
    rw [ha.zero.mp (ha.number_eq_zero.mp h)] at hp
    rw [withSign_eq, ← hp]
  · have hm : m ≠ 0 := fun hm => h.ne (ha.number_eq_zero.mpr hm)
    have hn : n = true := by
      cases n with
      | true => rfl
      | false => exact absurd (hpos rfl) (not_le.mpr h)
    rw [if_neg hm, hn]
    rfl

end

end Sys2Proof.Machine
end

section
/-! PROOFS. Conversions of finite numbers (R53, R150), and the settled statement on rounding (R49, R77, R155). -/

namespace Sys2Proof.Machine

/-! ## Numbers that a format has -/

/-- The first magnitude past the finite ones. -/
theorem magnitude_top {f : Fmt} (heb : 0 < f.eb) : magnitude f (f.top * 2 ^ f.fb) = 2 ^ ((f.top : Int) - f.bias) := by
  rw [magnitude_eq (Fmt.top_pos heb) (.inr le_rfl) (Nat.mul_le_mul_right _ (Nat.le_succ _)), unitExp]
  obtain ⟨D, hD⟩ : ∃ D, f.top = D + 1 := ⟨f.top - 1, by have := Fmt.top_pos heb; omega⟩
  have h : ((f.top : Int) - f.bias - f.fb) = (f.top : Int) - f.bias - (f.fb : Int) := rfl
  rw [zpow_sub₀ (by norm_num : (2 : ℝ) ≠ 0) _ (f.fb : Int), zpow_natCast, hD, Nat.add_sub_cancel]
  push_cast
  field_simp
  ring

/-- A number of whole units that is not too large is a number of the format: `roundFin` gives it, with no flag. -/
theorem roundFin_representable {f : Fmt} {rm : Nat} (hrm : rm < 4) (heb : 0 < f.eb) (neg : Bool) {m : Nat} {e : Int} (hm : 0 < m)
    (hq : quantum f m e ≤ e) (hlt : (m : ℝ) * 2 ^ e < 2 ^ ((f.top : Int) - f.bias)) :
    ∃ p, p < f.sign ∧ roundFin f rm neg m e = (withSign f neg p, 0) ∧
      IsNumber f (withSign f neg p) (signFactor neg * (m * 2 ^ e)) := by
  obtain ⟨hE, hunit⟩ := quantumField_spec f m e
  obtain ⟨hbelow, habove⟩ := units_bounds (f := f) (e := e) hm
  have h := SameCell.refl ((m : ℝ) * 2 ^ (e - quantum f m e))
  obtain ⟨hround, hexact⟩ := toUnits_spec hrm neg m h
  have hQ := two_zpow_pos (quantum f m e)
  have hex : (toUnits rm neg m e (quantum f m e)).2 = false := by
    unfold toUnits
    rw [if_pos hq]
  have hk := hexact.mp hex
  have hmag := magnitude_patternOf hE (fun hne => (hround.le hrm _).1 (habove hne)) ((hround.le hrm _).2 hbelow.le)
  rw [hunit, ← hk, mul_assoc, ← zpow_add₀ (by norm_num), sub_add_cancel] at hmag
  have hfin : patternOf f (quantumField f m e) (toUnits rm neg m e (quantum f m e)).1 < f.top * 2 ^ f.fb := by
    rw [← (magnitude_strictMono f).lt_iff_lt, hmag, magnitude_top heb]
    exact hlt
  obtain ⟨fl, hres, -, hfl⟩ := (roundFin_cases f rm neg e hm).2 hfin
  exact ⟨_, hfin.trans (infinity_lt f), by rw [hres, hfl hex], (isNumber_withSign neg hfin _).mpr (by rw [hmag])⟩

/-- Numbers below 2^24 with a whole exponent in range are numbers of FP32. -/
theorem quantum_fmt32_le {m : Nat} {e : Int} (hm : 0 < m) (hlt : m < 2 ^ 24) (he : -149 ≤ e) : quantum fmt32 m e ≤ e := by
  have hlog : Nat.log2 m < 24 := (Nat.log2_lt hm.ne').mpr hlt
  have hbias : fmt32.bias = 127 := rfl
  have hfb : fmt32.fb = 23 := rfl
  rw [quantum, hbias, hfb]
  simp only [Int.ofNat_eq_natCast]
  omega

theorem representable_fmt32 {rm : Nat} (hrm : rm < 4) (neg : Bool) {m : Nat} {e : Int} (hlt : m < 2 ^ 24) (he : -149 ≤ e)
    (hhigh : (m : ℝ) * 2 ^ e < 2 ^ (128 : Int)) :
    ∃ p, p < 2 ^ 31 ∧ roundFin fmt32 rm neg m e = (withSign fmt32 neg p, 0) ∧
      IsNumber fmt32 (withSign fmt32 neg p) (signFactor neg * (m * 2 ^ e)) := by
  rcases Nat.eq_zero_or_pos m with rfl | hm
  · refine ⟨0, by decide, by rw [roundFin_zero, withSign_eq, Nat.add_zero], ?_⟩
    rw [isNumber_withSign neg (by decide), magnitude_zero]
    simp
  · exact roundFin_representable hrm (by decide) neg hm (quantum_fmt32_le hm hlt he) hhigh

/-! ## Between formats and from integers (R53) -/

/-- The units of a finite pattern of a narrow format, and its size. -/
theorem operand_range {f : Fmt} (htop2 : 2 ≤ f.top) {a : Nat} {n : Bool} {m : Nat} {e : Int} (h : unpack f a = .fin n m e) :
    1 - (f.bias : Int) - f.fb ≤ e ∧ e ≤ (f.top : Int) - 1 - f.bias - f.fb := by
  have hlt : a / 2 ^ f.fb % 2 ^ f.eb < 2 ^ f.eb := Nat.mod_lt _ (Nat.two_pow_pos _)
  have htop : f.top + 1 = 2 ^ f.eb := Nat.sub_add_cancel (Nat.one_le_two_pow)
  unfold unpack at h
  dsimp only at h
  generalize a / 2 ^ f.fb % 2 ^ f.eb = field at h hlt
  rw [← htop] at hlt
  split at h
  · split at h <;> cases h
  next hne =>
    split at h <;> cases h <;> simp only [Int.ofNat_eq_natCast] <;> omega

theorem fpConvert_finite {f g : Fmt} {rm : Nat} (hrm : rm < 4) (heb : 0 < g.eb) (hfb : 0 < g.fb) {a : Nat} {x : ℝ} {n : Bool} {m : Nat}
    {e : Int} (ha : FiniteOperand f a x n m e) :
    (x ≠ 0 → RoundedTo g rm x (fpConvert f g rm a)) ∧ (x = 0 → fpConvert f g rm a = (a / f.sign * g.sign, 0)) := by
  have hconv : fpConvert f g rm a = roundFin g rm n m e := by
    unfold fpConvert
    rw [ha.unpack]
  rw [hconv, ne_eq, ha.number_eq_zero]
  refine ⟨fun h => ?_, fun h => ?_⟩
  · rw [ha.number, ← cast_rational]
    exact roundFin_exact hrm heb hfb (Nat.pos_of_ne_zero h)
  · rw [h, roundFin_zero, ha.sign]

/-- Widening is exact. -/
theorem fpConvert_widen {f : Fmt} {rm : Nat} (hrm : rm < 4) (htop : 2 ≤ f.top) (hfb : f.fb ≤ 22) (hlow : (f.bias : Int) + f.fb ≤ 150)
    (hhigh : (f.top : Int) - f.bias ≤ 128) {a : Nat} {x : ℝ} {n : Bool} {m : Nat} {e : Int} (ha : FiniteOperand f a x n m e) :
    IsNumber fmt32 (fpConvert f fmt32 rm a).1 x ∧ (fpConvert f fmt32 rm a).2 = 0 := by
  obtain ⟨he1, he2⟩ := operand_range htop ha.unpack
  have hm : m < 2 ^ 24 := ha.units.trans_le (Nat.pow_le_pow_right (by decide) (by omega))
  have hsize : (m : ℝ) * 2 ^ e < 2 ^ (128 : Int) := by
    calc (m : ℝ) * 2 ^ e < 2 ^ (f.fb + 1) * 2 ^ e := mul_lt_mul_of_pos_right (by exact_mod_cast ha.units) (two_zpow_pos e)
      _ = 2 ^ (((f.fb + 1 : Nat) : Int) + e) := by rw [zpow_add₀ (by norm_num), zpow_natCast]
      _ ≤ 2 ^ (128 : Int) := zpow_le_zpow_right₀ (by norm_num) (by push_cast; omega)
  obtain ⟨p, -, hres, hnum⟩ := representable_fmt32 hrm n hm (by omega) hsize
  have hconv : fpConvert f fmt32 rm a = roundFin fmt32 rm n m e := by
    unfold fpConvert
    rw [ha.unpack]
  rw [hconv, hres, ha.number]
  exact ⟨hnum, rfl⟩

theorem intToFp_rounded {rm : Nat} (hrm : rm < 4) {v : Int} (hv : v ≠ 0) : RoundedTo fmt32 rm (v : ℝ) (intToFp rm v) := by
  unfold intToFp
  rw [if_neg hv]
  have h := roundFin_exact (f := fmt32) (neg := decide (v < 0)) (e := 0) hrm (by decide) (by decide) (Int.natAbs_pos.mpr hv)
  rwa [cast_rational, zpow_zero, mul_one, signFactor_natAbs] at h

/-! ## To whole numbers (R150) -/

/-- A rounded number of units of 1 with its sign. -/
theorem RoundsUnit.toWhole {rm : Nat} {n : Bool} {t : ℝ} {k : Nat} (h : RoundsUnit rm n t k) (ht : 0 ≤ t) :
    RoundsToWhole rm (signFactor n * t) (if n then -(k : Int) else k) := by
  have hcast : (((if n then -(k : Int) else k : Int)) : ℝ) = signFactor n * k := by cases n <;> simp [signFactor]
  unfold RoundsToWhole
  rw [hcast, ← mul_sub, abs_signFactor_mul, abs_signFactor_mul, abs_signFactor_mul, Nat.abs_cast, abs_of_nonneg ht]
  obtain ⟨h0, hdown, hup⟩ := h
  refine ⟨fun hr => ⟨(h0 hr).1, fun htie => ?_⟩, fun hr => ?_, fun hr => ?_, fun hr => ?_⟩
  · have := (h0 hr).2 htie
    cases n <;> simp <;> omega
  · obtain ⟨h1, h2⟩ := hdown (.inl hr)
    refine ⟨h1, h2, ?_⟩
    have : signFactor n * k * (signFactor n * t) = (signFactor n * signFactor n) * (k * t) := by ring
    rw [this, signFactor_mul_self, one_mul]
    positivity
  · cases n with
    | false =>
      obtain ⟨h1, h2⟩ := hup (.inl ⟨hr, rfl⟩)
      rw [signFactor_false, one_mul, one_mul]
      exact ⟨h1, h2⟩
    | true =>
      obtain ⟨h1, h2⟩ := hdown (.inr (.inl ⟨hr, rfl⟩))
      rw [signFactor_true]
      constructor <;> linarith
  · cases n with
    | false =>
      obtain ⟨h1, h2⟩ := hdown (.inr (.inr ⟨hr, rfl⟩))
      rw [signFactor_false, one_mul, one_mul]
      exact ⟨h1, h2⟩
    | true =>
      obtain ⟨h1, h2⟩ := hup (.inr ⟨hr, rfl⟩)
      rw [signFactor_true]
      constructor <;> linarith

/-- FP32 to a whole number: the rounded number where it is in range, and the nearer end with NV. -/
theorem fpToInt_finite {rm a : Nat} {x : ℝ} {n : Bool} {m : Nat} {e : Int} (ha : FiniteOperand fmt32 a x n m e) (lo hi : Int)
    (hle : lo ≤ hi) :
    let u := toUnits rm n m e 0
    let k : Int := if n then -(u.1 : Int) else u.1
    (k < lo → fpToInt rm lo hi a = (lo, fNV)) ∧ (hi < k → fpToInt rm lo hi a = (hi, fNV)) ∧
      (lo ≤ k → k ≤ hi → fpToInt rm lo hi a = (k, if u.2 then fNX else 0)) := by
  intro u k
  have hconv : fpToInt rm lo hi a = if k < lo then (lo, fNV) else if hi < k then (hi, fNV) else (k, if u.2 then fNX else 0) := by
    unfold fpToInt
    rw [ha.unpack]
    rfl
  rw [hconv]
  refine ⟨fun h => if_pos h, fun h => ?_, fun h1 h2 => ?_⟩
  · rw [if_neg (by omega), if_pos h]
  · rw [if_neg (by omega), if_neg (by omega)]

/-- FP32 to an integral value: the whole number with the sign of its source. -/
theorem fpRint_finite {rm a : Nat} {x : ℝ} {n : Bool} {m : Nat} {e : Int} (hrm : rm < 4) (ha : FiniteOperand fmt32 a x n m e) :
    let u := toUnits rm n m e 0
    let k : Int := if n then -(u.1 : Int) else u.1
    ∃ y, fpRint rm a = (y, if u.2 then fNX else 0) ∧ IsNumber fmt32 y k ∧ y / 2 ^ 31 = a / 2 ^ 31 ∧ (u.2 = false → y = a) := by
  intro u k
  have hcast : (k : ℝ) = signFactor n * (u.1 : Nat) := by
    change (((if n then -(u.1 : Int) else u.1 : Int)) : ℝ) = _
    cases n <;> simp [signFactor]
  have hrint : fpRint rm a = if u.2 then ((roundFin fmt32 0 n u.1 0).1, fNX) else (a, 0) := by
    unfold fpRint
    rw [ha.unpack]
  have h : SameCell (m * 2 ^ (e - 0)) (m * 2 ^ e) := by rw [sub_zero]; exact SameCell.refl _
  obtain ⟨hround, hexact⟩ := toUnits_spec hrm n m h
  rw [hrint]
  cases hu : u.2 with
  | false =>
    refine ⟨a, rfl, ⟨n, m, e, ha.unpack, ?_⟩, rfl, fun _ => rfl⟩
    rw [hcast, cast_rational, ← hexact.mp hu]
  | true =>
    have he : e ≤ -1 := by
      by_contra hlt
      have : u.2 = false := by
        change (toUnits rm n m e 0).2 = false
        unfold toUnits
        rw [if_pos (by omega)]
      rw [this] at hu
      cases hu
    have ht : (m : ℝ) * 2 ^ e ≤ ((2 ^ 23 : Nat) : ℝ) := by
      calc (m : ℝ) * 2 ^ e ≤ 2 ^ 24 * 2 ^ (-1 : Int) := by
            refine mul_le_mul (by exact_mod_cast ha.units.le) (zpow_le_zpow_right₀ (by norm_num) he) (two_zpow_pos e).le (by norm_num)
        _ = ((2 ^ 23 : Nat) : ℝ) := by norm_num
    have hk : u.1 ≤ 2 ^ 23 := (hround.le hrm _).2 ht
    have hsize : ((u.1 : Nat) : ℝ) * 2 ^ (0 : Int) < 2 ^ (128 : Int) := by
      rw [zpow_zero, mul_one]
      calc ((u.1 : Nat) : ℝ) ≤ 2 ^ 23 := by exact_mod_cast hk
        _ < 2 ^ (128 : Int) := by norm_num
    obtain ⟨p, hp, hres, hnum⟩ := representable_fmt32 (rm := 0) (by decide) n (Nat.lt_of_le_of_lt hk (by decide)) (by decide) hsize
    refine ⟨withSign fmt32 n p, by rw [if_pos rfl, if_pos rfl, hres], ?_, ?_, fun h => by cases h⟩
    · rw [zpow_zero, mul_one] at hnum
      rwa [hcast]
    · exact (withSign_div fmt32 n hp).trans ha.sign.symm

theorem formats_fields : ∀ f ∈ [fmt32, fmt16, fmtB16], 0 < f.eb ∧ 0 < f.fb ∧ f.fb ≤ 23 := by decide

theorem convertedValues : ConvertedValues := by
  intro rm hrm
  refine ⟨fun p hp a x ha hx => ?formats, fun v => ⟨intToFp_rounded hrm, fun h => by rw [h]; rfl⟩, fun a x ha hx => ?whole⟩
  case formats =>
    obtain ⟨n, m, e, hop⟩ := IsNumber.operand hx ha
    have hfields : 0 < p.2.eb ∧ 0 < p.2.fb :=
      (by decide : ∀ p ∈ [(fmt32, fmt16), (fmt32, fmtB16), (fmt16, fmt32), (fmtB16, fmt32)], 0 < p.2.eb ∧ 0 < p.2.fb) p hp
    obtain ⟨hne, hzero⟩ := fpConvert_finite hrm hfields.1 hfields.2 hop
    refine ⟨hne, hzero, fun h32 => ?_⟩
    obtain ⟨htop, hfb, hlow, hhigh⟩ : 2 ≤ p.1.top ∧ p.1.fb ≤ 22 ∧ (p.1.bias : Int) + p.1.fb ≤ 150 ∧ (p.1.top : Int) - p.1.bias ≤ 128 :=
      (by decide : ∀ p ∈ [(fmt32, fmt16), (fmt32, fmtB16), (fmt16, fmt32), (fmtB16, fmt32)], p.2 = fmt32 →
        2 ≤ p.1.top ∧ p.1.fb ≤ 22 ∧ (p.1.bias : Int) + p.1.fb ≤ 150 ∧ (p.1.top : Int) - p.1.bias ≤ 128) p hp h32
    rw [h32]
    exact fpConvert_widen hrm htop hfb hlow hhigh hop
  case whole =>
    obtain ⟨n, m, e, hop⟩ := IsNumber.operand hx ha
    have h : SameCell (m * 2 ^ (e - 0)) (m * 2 ^ e) := by rw [sub_zero]; exact SameCell.refl _
    obtain ⟨hround, hexact⟩ := toUnits_spec hrm n m h
    have hwhole := hround.toWhole (by positivity)
    rw [← hop.number] at hwhole
    have hcast : (((if n then -((toUnits rm n m e 0).1 : Int) else (toUnits rm n m e 0).1 : Int)) : ℝ) =
        signFactor n * ((toUnits rm n m e 0).1 : Nat) := by cases n <;> simp [signFactor]
    have hflag : ((if (toUnits rm n m e 0).2 then fNX else 0) = 0 ↔
        (((if n then -((toUnits rm n m e 0).1 : Int) else (toUnits rm n m e 0).1 : Int)) : ℝ) = x) := by
      rw [hcast, hop.number, signFactor_inj, eq_comm (a := (((toUnits rm n m e 0).1 : Nat) : ℝ)), ← hexact]
      cases (toUnits rm n m e 0).2 <;> decide
    have hor : (if (toUnits rm n m e 0).2 then fNX else 0) = 0 ∨ (if (toUnits rm n m e 0).2 then fNX else 0) = fNX := by
      cases (toUnits rm n m e 0).2
      · exact .inl rfl
      · exact .inr rfl
    obtain ⟨y, hy, hnum, hsign, hsame⟩ := fpRint_finite hrm hop
    refine ⟨_, hwhole, fun lo hi hle => ?_, y, _, hy, hnum, hsign, hor, hflag, fun heq => hsame ?_⟩
    · obtain ⟨h1, h2, h3⟩ := fpToInt_finite (rm := rm) hop lo hi hle
      exact ⟨h1, h2, fun hlo hhi => ⟨_, h3 hlo hhi, hor, hflag⟩⟩
    · have := hflag.mpr heq
      cases hu : (toUnits rm n m e 0).2 with
      | false => rfl
      | true => rw [hu] at this; cases this

end Sys2Proof.Machine
end

section
/-! PROOFS. The tree of a reduction (R77), the columns of a matrix product (R155), and the settled statement on rounding. -/

namespace Sys2Proof.Machine

/-! ## The tree of R77 -/

/-- The entry of a lane, none past the end. -/
def entry (xs : List (Option Nat)) (i : Nat) : Option Nat := (xs[i]?).join

/-- Two nodes combined: the value, and the flags of the combination; a lone one passes on. -/
def joinNodes (op : Nat → Nat → Nat × Nat) : Option Nat → Option Nat → Option Nat × Nat
  | some a, some b => (some (op a b).1, (op a b).2)
  | some a, none => (some a, 0)
  | none, b => (b, 0)

/-- The flags of `k` nodes from `lo` on. -/
def orFrom (g : Nat → Nat) : Nat → Nat → Nat
  | 0, _ => 0
  | k + 1, lo => g lo ||| orFrom g k (lo + 1)

theorem orFrom_add (g : Nat → Nat) (a b lo : Nat) : orFrom g (a + b) lo = orFrom g a lo ||| orFrom g b (lo + a) := by
  induction a generalizing lo with
  | zero => simp [orFrom]
  | succ a ih =>
    rw [Nat.add_right_comm, orFrom, orFrom, ih, Nat.or_assoc, Nat.add_right_comm lo, Nat.add_assoc]

theorem orFrom_shift (g : Nat → Nat) (k lo : Nat) : orFrom g k (lo + 1) = orFrom (fun i => g (i + 1)) k lo := by
  induction k generalizing lo with
  | zero => rfl
  | succ k ih => rw [orFrom, orFrom, ih]

section
variable (op : Nat → Nat → Nat × Nat)

theorem treeNode_zero (xs : List (Option Nat)) (lo : Nat) : treeNode op xs 0 lo = (entry xs lo, 0) := rfl

theorem treeNode_succ (xs : List (Option Nat)) (n lo : Nat) :
    treeNode op xs (n + 1) lo =
      ((joinNodes op (treeNode op xs n lo).1 (treeNode op xs n (lo + 2 ^ n)).1).1,
        (treeNode op xs n lo).2 ||| (treeNode op xs n (lo + 2 ^ n)).2 |||
          (joinNodes op (treeNode op xs n lo).1 (treeNode op xs n (lo + 2 ^ n)).1).2) := by
  rw [treeNode]
  rcases (treeNode op xs n lo).1 with _ | a <;> rcases (treeNode op xs n (lo + 2 ^ n)).1 with _ | b <;> simp [joinNodes]

theorem treeLevel_cons (x y : Option Nat) (r : List (Option Nat)) :
    treeLevel op (x :: y :: r) =
      ((joinNodes op x y).1 :: (treeLevel op r).1, (treeLevel op r).2 ||| (joinNodes op x y).2) := by
  rw [treeLevel]
  rcases x with _ | a <;> rcases y with _ | b <;> simp [joinNodes]

/-- One level: half as many nodes, each of two neighbours, and the flags of all. -/
theorem treeLevel_spec (k : Nat) (xs : List (Option Nat)) (h : xs.length = 2 * k) :
    (treeLevel op xs).1.length = k ∧
    (∀ i, i < k → entry (treeLevel op xs).1 i = (joinNodes op (entry xs (2 * i)) (entry xs (2 * i + 1))).1) ∧
    (treeLevel op xs).2 = orFrom (fun i => (joinNodes op (entry xs (2 * i)) (entry xs (2 * i + 1))).2) k 0 := by
  induction k generalizing xs with
  | zero =>
    obtain rfl := List.eq_nil_of_length_eq_zero h
    exact ⟨rfl, fun i hi => absurd hi (Nat.not_lt_zero i), rfl⟩
  | succ k ih =>
    match xs, h with
    | x :: y :: r, h =>
      obtain ⟨hlen, hval, hfl⟩ := ih r (by simp only [List.length_cons] at h; omega)
      have hentry : ∀ i, entry (x :: y :: r) (2 * (i + 1)) = entry r (2 * i) ∧
          entry (x :: y :: r) (2 * (i + 1) + 1) = entry r (2 * i + 1) := fun i => ⟨rfl, rfl⟩
      rw [treeLevel_cons]
      refine ⟨by simp [hlen], fun i hi => ?_, ?_⟩
      · cases i with
        | zero => rfl
        | succ i =>
          rw [(hentry i).1, (hentry i).2, ← hval i (by omega)]
          rfl
      · rw [orFrom, orFrom_shift, Nat.or_comm]
        simp only [(hentry _).1, (hentry _).2, hfl]
        rfl

/-- A node over twice as many lanes is the node of the level's values, with the level's flags. -/
theorem treeNode_level {xs ys : List (Option Nat)} {k : Nat}
    (hys : ∀ i, i < k → entry ys i = (joinNodes op (entry xs (2 * i)) (entry xs (2 * i + 1))).1) (n lo : Nat) (h : lo + 2 ^ n ≤ k) :
    treeNode op xs (n + 1) (2 * lo) = ((treeNode op ys n lo).1,
      orFrom (fun i => (joinNodes op (entry xs (2 * i)) (entry xs (2 * i + 1))).2) (2 ^ n) lo ||| (treeNode op ys n lo).2) := by
  induction n generalizing lo with
  | zero =>
    rw [treeNode_succ, treeNode_zero, treeNode_zero, treeNode_zero, hys lo (by omega)]
    simp [orFrom]
  | succ n ih =>
    have h2 : 2 ^ (n + 1) = 2 ^ n + 2 ^ n := by rw [pow_succ]; ring
    have hpos := Nat.two_pow_pos n
    have hlo : 2 * lo + 2 ^ (n + 1) = 2 * (lo + 2 ^ n) := by rw [h2]; ring
    rw [treeNode_succ, hlo, ih lo (by omega), ih (lo + 2 ^ n) (by omega), treeNode_succ op ys, h2, orFrom_add]
    refine Prod.ext rfl ?_
    dsimp only
    ac_rfl

theorem treeReduce_eq_treeNode (n : Nat) (xs : List (Option Nat)) (h : xs.length = 2 ^ n) :
    treeReduce op n xs = treeNode op xs n 0 := by
  induction n generalizing xs with
  | zero =>
    rw [treeReduce, treeNode_zero, entry, List.head?_eq_getElem?]
  | succ n ih =>
    obtain ⟨hlen, hval, hfl⟩ := treeLevel_spec op (2 ^ n) xs (by rw [h, pow_succ, Nat.mul_comm])
    have hnode := treeNode_level op hval n 0 (by omega)
    rw [Nat.mul_zero] at hnode
    rw [treeReduce, hnode, ← hfl, ← ih _ hlen]

end

/-! ## Matrix products (R155) -/

/-- A lane's accumulator takes its columns one after another. -/
theorem bmmLane_eq_foldl (t : Thread) (a b : Reg) (base l n : Nat) (acc : Nat × Nat) : bmmLane t a b base l n acc =
    (List.range n).foldl (fun p j =>
      let q := fpFma fmt32 t.round false false (lane 32 (t.rv a) (base + j)) (lane 32 (t.rv (Fin.ofNat 32 (b.val + j))) l) p.1
      (q.1, p.2 ||| q.2)) acc := by
  induction n with
  | zero => rfl
  | succ n ih => rw [List.range_succ, List.foldl_append, ← ih]; rfl

/-! ## Rounding to nearest -/

/-- `roundFin` in the statement's own terms: a finite result has the sign of the number, and none lies nearer. -/
theorem roundFin_nearest {f : Fmt} (heb : 0 < f.eb) (hfb : 0 < f.fb) {neg : Bool} {m : Nat} {e : Int} (hm : 0 < m) {n : Bool}
    {k : Nat} {j : Int} (hu : unpack f (roundFin f 0 neg m e).1 = .fin n k j) :
    n = neg ∧ ((roundFin f 0 neg m e).2 &&& fNX = 0 ↔ rational n k j = rational neg m e) ∧
      ∀ y n' k' j', y < 2 * f.sign → unpack f y = .fin n' k' j' →
        |rational n k j - rational neg m e| ≤ |rational n' k' j' - rational neg m e| ∧
        (|rational n k j - rational neg m e| = |rational n' k' j' - rational neg m e| →
          rational n k j = rational n' k' j' ∨ (roundFin f 0 neg m e).1 % 2 = 0) := by
  obtain ⟨hfinite, -⟩ := roundFin_exact (neg := neg) (e := e) (rm := 0) (by decide) heb hfb hm
  obtain ⟨hnx, hsign, hbeats⟩ := hfinite _ ⟨n, k, j, hu, rfl⟩
  have hneg : n = neg := by
    have hn := neg_unpack f (roundFin f 0 neg m e).1
    rw [hu] at hn
    have hpos : (0 : ℝ) < m * 2 ^ e := mul_pos (by exact_mod_cast hm) (two_zpow_pos e)
    rw [cast_rational, signFactor_mul_neg neg hpos] at hsign
    change n = _ at hn
    rw [hn, Bool.eq_iff_iff, beq_iff_eq]
    exact hsign
  refine ⟨hneg, by rw [hnx]; exact Rat.cast_inj, fun y n' k' j' _ hy => ?_⟩
  obtain ⟨hle, htie⟩ := (hbeats y _ ⟨n', k', j', hy, rfl⟩).1 rfl
  refine ⟨by exact_mod_cast hle, fun heq => ?_⟩
  exact (htie (by exact_mod_cast heq)).imp_left fun h => by exact_mod_cast h

/-- Settles O42: `roundFin` rounds to whole units of the operand's field, which no number of the format beats; each operation gives it
the exact result, or one that a sticky bit keeps apart. -/
theorem roundingIsNearestEven : Obligations.RoundingIsNearestEven := by
  unfold Obligations.RoundingIsNearestEven
  refine ⟨convertedValues, fun f hf neg m e hm n k j hu => ?nearest, fun f hf rm a b c x y z hrm ha hb hc hx hy hz => ?arithmetic,
    treeReduce_eq_treeNode, bmmLane_eq_foldl⟩
  case nearest =>
    obtain ⟨heb, hfb, -⟩ := formats_fields f hf
    exact roundFin_nearest heb hfb hm hu
  case arithmetic =>
    obtain ⟨heb, hfb, hfb2⟩ := formats_fields f hf
    obtain ⟨n1, m1, e1, hA⟩ := IsNumber.operand hx ha
    obtain ⟨n2, m2, e2, hB⟩ := IsNumber.operand hy hb
    obtain ⟨n3, m3, e3, hC⟩ := IsNumber.operand hz hc
    obtain ⟨hmul, hmul0⟩ := fpMul_finite hrm heb hfb hA hB
    obtain ⟨hdiv, hdiv0, hdivz⟩ := fpDiv_finite hrm heb hfb hfb2 hA hB
    obtain ⟨hroot, hroot0, hrootneg⟩ := fpSqrt_finite hrm heb hfb hfb2 hA
    exact ⟨fpAdd_sum hrm heb hfb hA hB, fpAdd_difference hrm heb hfb hA hB, hmul, hmul0, hdiv, hdiv0, hdivz, hroot, hroot0, hrootneg,
      fun np nc => fpFma_finite hrm heb hfb hA hB hC⟩

end Sys2Proof.Machine
end

section
/-! PROOFS. The levels and the scales of the selector blocks, and a lane of a block (R54, R59, R61, R62, R64, R65). -/

namespace Sys2Proof.Machine

/-! ## Levels (Tables 3-6, 3-7) -/

theorem numberOf_intVal (v : Int) : numberOf (intVal v) = v := by
  have h : ((numberOf (intVal v) : ℚ) : ℝ) = ((v : ℚ) : ℝ) := by
    rw [intVal, numberOf, cast_rational, zpow_zero, mul_one, signFactor_natAbs]
    push_cast
    rfl
  exact_mod_cast h

theorem sgn_four {k : Nat} (hk : k < 16) : (if k < 8 then Int.ofNat k else Int.ofNat k - 16) = (BitVec.ofNat 4 k).toInt :=
  sgn_eq_toInt (w := 4) (by decide) hk

theorem sgn_eight {k : Nat} (hk : k < 256) : (if k < 128 then Int.ofNat k else Int.ofNat k - 256) =
    (BitVec.ofNat 8 k).toInt :=
  sgn_eq_toInt (w := 8) (by decide) hk

theorem fp4Halves_eq : ∀ j, j < 8 → fp4Halves j = [0, 1, 2, 3, 4, 6, 8, 12].getD j 0 := by decide

/-- E4M3 below its exponent 15 is the IEEE format of its widths. -/
theorem e4m3_unpack {k : Nat} (hk : k < 256) (hne : k / 8 % 16 ≠ 15) :
    fp8Level false k = unpack { eb := 4, fb := 3 } k := by
  have hnan : k % 128 ≠ 127 := fun h => hne (by omega)
  have hneg : (k / 128 == 1) = (k / 128 % 2 == 1) := by rw [Nat.mod_eq_of_lt (by omega)]
  unfold fp8Level unpack
  rw [if_neg (by decide), if_neg hnan]
  change _ = if k / 8 % 16 = 15 then _ else if k / 8 % 16 = 0 then FVal.fin (k / 128 % 2 == 1) (k % 8) (-9)
    else FVal.fin (k / 128 % 2 == 1) (k % 8 + 8) (Int.ofNat (k / 8 % 16) - 7 - 3)
  rw [if_neg hne, hneg]
  dsimp only
  split
  · rfl
  · congr 1
    omega

/-- E5M2 is the IEEE format of its widths but for its NaNs. -/
theorem e5m2_unpack {k : Nat} (hk : k < 256) (hne : k / 4 % 32 ≠ 31) : fp8Level true k = unpack { eb := 5, fb := 2 } k := by
  have hneg : (k / 128 == 1) = (k / 128 % 2 == 1) := by rw [Nat.mod_eq_of_lt (by omega)]
  unfold fp8Level unpack
  rw [if_pos rfl]
  change _ = if k / 4 % 32 = 31 then _ else if k / 4 % 32 = 0 then FVal.fin (k / 128 % 2 == 1) (k % 4) (-16)
    else FVal.fin (k / 128 % 2 == 1) (k % 4 + 4) (Int.ofNat (k / 4 % 32) - 15 - 2)
  dsimp only
  rw [if_neg hne, if_neg hne, hneg]
  split
  · rfl
  · congr 1
    omega

theorem sign_high {k : Nat} (hk : k < 256) : (k / 128 == 1) = decide (128 ≤ k) := by
  rw [Bool.eq_iff_iff, beq_iff_eq, decide_eq_true_iff]
  omega

theorem levelTables : LevelTables := by
  intro c k
  refine ⟨fun hk => ⟨?int4, ?fp4, ?nu2, rfl⟩, fun hk => ⟨?int8, fun hne => ?e4, fun he hne => ?e4top, fun hnan => ?e4nan,
    fun hne => ?e5, fun hinf => ?e5inf, fun hnan => ?e5nan, rfl⟩⟩
  case int4 =>
    rw [levelNumber, ← sgn_four hk]
    exact numberOf_intVal _
  case fp4 =>
    change rational (k / 8 == 1) (fp4Halves (k % 8)) (-1) = _
    have hneg : (k / 8 == 1) = decide (8 ≤ k) := by
      rw [Bool.eq_iff_iff, beq_iff_eq, decide_eq_true_iff]
      omega
    rw [rational, hneg, fp4Halves_eq _ (Nat.mod_lt _ (by decide)), zpow_neg_one, div_eq_mul_inv]
    simp only [decide_eq_true_eq]
  case nu2 =>
    change unpack fmtE8 (c.tabs.get 0 (0 + k)).toNat = _
    rw [Nat.zero_add]
  case int8 =>
    rw [levelNumber, ← sgn_eight hk]
    change numberOf (intVal (if k = 128 then -127 else if k < 128 then Int.ofNat k else Int.ofNat k - 256)) = _
    rw [numberOf_intVal]
    split <;> simp
  case e4 => exact congrArg numberOf (e4m3_unpack hk hne)
  case e4top =>
    have hnan : k % 128 ≠ 127 := by omega
    have hlev : fp8Level false k = .fin (k / 128 == 1) (k % 8 + 8) (Int.ofNat 15 - 10) := by
      unfold fp8Level
      dsimp only
      rw [if_neg (by decide), if_neg hnan, he, if_neg (by decide)]
    change numberOf (fp8Level false k) = _
    rw [hlev, numberOf, rational, sign_high hk, Nat.add_comm 8]
    simp only [decide_eq_true_eq]
    congr 1
  case e4nan =>
    change fp8Level false k = _
    unfold fp8Level
    dsimp only
    rw [if_neg (by decide), if_pos hnan, sign_high hk]
  case e5 => exact congrArg numberOf (e5m2_unpack hk hne)
  case e5inf =>
    change fp8Level true k = _
    unfold fp8Level
    dsimp only
    rw [if_pos rfl, if_pos (by omega), if_pos (by omega), sign_high hk]
  case e5nan =>
    change fp8Level true k = _
    unfold fp8Level
    dsimp only
    rw [if_pos rfl, if_pos (by omega), if_neg (by omega), sign_high hk]

/-! ## Scales (R59) -/

theorem scaleNumber_eq (sc : Nat) : scaleNumber sc = (scaleUnits sc : ℚ) / 2 ^ 32 := by
  unfold scaleNumber scaleUnits
  dsimp only
  split
  · rfl
  · next h =>
    obtain ⟨e, he⟩ : ∃ e, sc / 4 = e + 1 := ⟨sc / 4 - 1, by omega⟩
    rw [he, Nat.add_sub_cancel]
    have hexp : ((e + 1 : Nat) : Int) - 31 = (e : Int) - 30 := by push_cast; ring
    rw [hexp, zpow_sub₀ (by norm_num), zpow_natCast]
    push_cast
    norm_num
    ring

theorem scaleUnits_pos {sc : Nat} (h : sc ≠ 0) : 0 < scaleUnits sc := by
  unfold scaleUnits
  dsimp only
  split
  · omega
  · positivity

/-! ## A lane of a block (R64, R65) -/

/-- A finite level times a scale, rounded to nearest even. -/
theorem scaled_finite {n : Bool} {m : Nat} {e : Int} {sc : Nat} (hm : m ≠ 0) (hsc : sc ≠ 0) :
    ∃ fl, RoundedTo fmt32 0 ((rational n m e * scaleNumber sc : ℚ) : ℝ) (scaled (.fin n m e) (scaleUnits sc), fl) := by
  have hpos : 0 < m * scaleUnits sc := Nat.mul_pos (Nat.pos_of_ne_zero hm) (scaleUnits_pos hsc)
  have h := roundFin_exact (f := fmt32) (rm := 0) (neg := n) (e := e - 32) (by decide) (by decide) (by decide) hpos
  refine ⟨(roundFin fmt32 0 n (m * scaleUnits sc) (e - 32)).2, ?_⟩
  have hnum : ((rational n (m * scaleUnits sc) (e - 32) : ℚ) : ℝ) = ((rational n m e * scaleNumber sc : ℚ) : ℝ) := by
    rw [scaleNumber_eq, cast_rational]
    push_cast
    rw [cast_rational, zpow_sub₀ (by norm_num)]
    norm_num
    ring
  rw [hnum] at h
  exact h

theorem scaled_nan (n : Bool) (fr u : Nat) :
    scaled (.nan n fr) u = infinityOf fmt32 n.toNat + (2 ^ 22 ||| fr % 1024 * 8192) := by
  have hmod : fr * 8192 % 2 ^ 23 = fr % 1024 * 8192 := by omega
  have hlow : fr % 1024 * 8192 < 2 ^ 23 := by omega
  have hor : fr % 1024 * 8192 ||| 2 ^ 22 < 2 ^ 23 := Nat.or_lt_two_pow hlow (by decide)
  have hbits : 255 * 2 ^ 23 + fr * 8192 % 2 ^ 23 ||| 2 ^ 22 = 255 * 2 ^ 23 + (2 ^ 22 ||| fr % 1024 * 8192) := by
    rw [hmod, Nat.mul_comm 255, Nat.two_pow_add_eq_or_of_lt hlow, Nat.or_assoc, ← Nat.two_pow_add_eq_or_of_lt hor,
      Nat.or_comm (2 ^ 22)]
  unfold scaled
  dsimp only
  rw [hbits, withSign_eq, infinityOf, Nat.add_assoc]
  rfl

theorem decodeRule : DecodeRule := by
  intro c w h pay i _ hbad sc k x
  have hcode : k = codeAt w pay i := by cases w <;> rfl
  have hx : x = if h % 8 = 7 then 0x7FC00000 else if sc = 0 then 0 else scaled (c.level w (h % 8) k) (scaleUnits sc) := by
    rw [hcode]
    rfl
  refine ⟨fun h7 => by rw [hx, if_pos h7], fun h7 h0 => by rw [hx, if_neg h7, if_pos h0], fun h7 h0 => ?_⟩
  rw [if_neg h7, if_neg h0] at hx
  cases hlev : c.level w (h % 8) k with
  | nan n fr => rw [hlev, scaled_nan] at hx; exact hx
  | inf n => rw [hlev] at hx; exact hx.trans (infBits_eq fmt32 n)
  | fin n m e =>
    rw [hlev] at hx
    dsimp only
    split
    next hm =>
      rw [hx, hm, scaled, Nat.zero_mul, roundFin_zero]
      rfl
    next hm =>
      rw [hx]
      exact scaled_finite hm h0

end Sys2Proof.Machine
end

section
/-! PROOFS. The selection's numbers in units: inputs, levels and scales (R54, R59, R61, R62, R66, R67). -/

namespace Sys2Proof.Machine

/-! ## Values in units -/

theorem rational_units {n : Bool} {m : Nat} {e : Int} {b : Nat} (h : -(b : Int) ≤ e) :
    rational n m e = (((if n then -1 else 1) * Int.ofNat (m * 2 ^ (e + b).toNat) : Int) : ℚ) / 2 ^ b := by
  obtain ⟨k, hk⟩ : ∃ k : Nat, e = (k : Int) - b := ⟨(e + b).toNat, by omega⟩
  have hexp : (e + b).toNat = k := by omega
  rw [rational, hexp, hk, zpow_sub₀ (by norm_num), zpow_natCast, zpow_natCast]
  cases n <;> simp [mul_div_assoc, neg_div]

theorem unpack_exponent {f : Fmt} {x : Nat} {n : Bool} {m : Nat} {e : Int} (h : unpack f x = .fin n m e) :
    1 - (f.bias : Int) - (f.fb : Int) ≤ e := by
  unfold unpack at h
  dsimp only at h
  split at h
  · split at h <;> exact absurd h (by simp)
  · next _ =>
    split at h
    · cases h
      exact le_refl _
    · next hex =>
      cases h
      have hone : 1 ≤ x / 2 ^ f.fb % 2 ^ f.eb := Nat.one_le_iff_ne_zero.mpr hex
      simp only [Int.ofNat_eq_natCast]
      omega

/-- An FP32 input is its units over 2^168, an infinity and a NaN counting as 0. -/
theorem numberOf_inputUnits (x : Nat) : numberOf (unpack fmt32 x) = (inputUnits x : ℚ) / 2 ^ 168 := by
  unfold inputUnits
  cases hx : unpack fmt32 x with
  | fin n m e =>
    have he : (-149 : Int) ≤ e := unpack_exponent hx
    exact rational_units (b := 168) (by omega)
  | inf n => simp [numberOf]
  | nan n fr => simp [numberOf]

theorem int_le_sub {k : Nat} {a b : Int} (h : b + a ≤ 0) : a ≤ Int.ofNat k - b := by
  simp only [Int.ofNat_eq_natCast]
  omega

theorem fp8Level_exponent {e5 : Bool} {k : Nat} {n : Bool} {m : Nat} {e : Int} (h : fp8Level e5 k = .fin n m e) :
    -136 ≤ e := by
  unfold fp8Level at h
  dsimp only at h
  split at h
  · split at h
    · split at h <;> exact absurd h (by simp)
    · split at h
      · cases h
        decide
      · cases h
        exact int_le_sub (by decide)
  · split at h
    · exact absurd h (by simp)
    · split at h
      · cases h
        decide
      · cases h
        exact int_le_sub (by decide)

theorem level_exponent {c : Core} {w : BlkW} {sel k : Nat} {n : Bool} {m : Nat} {e : Int}
    (h : c.level w sel k = .fin n m e) :
    -136 ≤ e := by
  unfold Core.level at h
  split at h
  · have := unpack_exponent h
    exact this
  · cases w
    · dsimp only at h
      split at h
      · cases h
        decide
      · cases h
        decide
    · dsimp only at h
      split at h
      · cases h
        decide
      · exact fp8Level_exponent h

/-- A level is its units over 2^136. -/
theorem levelNumber_units (c : Core) (w : BlkW) (sel k : Nat) :
    levelNumber c w sel k = (levelUnits (c.level w sel k) : ℚ) / 2 ^ 136 := by
  unfold levelNumber
  cases hlev : c.level w sel k with
  | fin n m e => exact rational_units (b := 136) (level_exponent hlev)
  | inf n => simp [numberOf, levelUnits]
  | nan n fr => simp [numberOf, levelUnits]

/-! ## A code's value in a format with `b` fraction bits -/

/-- The magnitude of a code with `b` fraction bits below its exponent, in units of its least one. -/
def expUnits (b c : Nat) : Nat := if c / 2 ^ b = 0 then c % 2 ^ b else (2 ^ b + c % 2 ^ b) * 2 ^ (c / 2 ^ b - 1)

theorem expUnits_strictMono (b : Nat) : StrictMono (expUnits b) := by
  refine strictMono_nat_of_lt_succ fun c => ?_
  have hP : 0 < 2 ^ b := Nat.two_pow_pos b
  have hmod := Nat.mod_lt c hP
  have hdiv := Nat.div_add_mod c (2 ^ b)
  by_cases hlast : c % 2 ^ b + 1 = 2 ^ b
  · have hnext : c + 1 = 2 ^ b * (c / 2 ^ b + 1) := by rw [Nat.mul_add, Nat.mul_one]; omega
    have hq : (c + 1) / 2 ^ b = c / 2 ^ b + 1 := by rw [hnext, Nat.mul_div_cancel_left _ hP]
    have hr : (c + 1) % 2 ^ b = 0 := by rw [hnext, Nat.mul_mod_right]
    unfold expUnits
    rw [hq, hr, if_neg (Nat.succ_ne_zero _), Nat.add_zero, Nat.add_sub_cancel]
    split
    next hz =>
      rw [hz, pow_zero, Nat.mul_one]
      exact hmod
    next hz =>
      obtain ⟨q, hq'⟩ := Nat.exists_eq_succ_of_ne_zero hz
      rw [hq', Nat.succ_sub_one, pow_succ', ← Nat.mul_assoc]
      exact Nat.mul_lt_mul_of_pos_right (by omega) (Nat.two_pow_pos q)
  · have hnext : c + 1 = (c % 2 ^ b + 1) + 2 ^ b * (c / 2 ^ b) := by omega
    have hq : (c + 1) / 2 ^ b = c / 2 ^ b := by
      rw [hnext, Nat.add_mul_div_left _ _ hP, Nat.div_eq_of_lt (by omega), Nat.zero_add]
    have hr : (c + 1) % 2 ^ b = c % 2 ^ b + 1 := by rw [hnext, Nat.add_mul_mod_self_left, Nat.mod_eq_of_lt (by omega)]
    unfold expUnits
    rw [hq, hr]
    split
    · exact Nat.lt_succ_self _
    · exact Nat.mul_lt_mul_of_pos_right (by omega) (Nat.two_pow_pos _)

theorem scaleUnits_strictMono : StrictMono scaleUnits := expUnits_strictMono 2

/-! ## The scale of a candidate (R67) -/

/-- The least scale code that reaches, or the greatest. -/
theorem leastScale_spec (m l : Nat) :
    0 < leastScale m l ∧ leastScale m l < 256 ∧ (m ≤ scaleUnits (leastScale m l) * l ∨ leastScale m l = 255) ∧
      ∀ k, 0 < k → k < 256 → m ≤ scaleUnits k * l → leastScale m l ≤ k := by
  unfold leastScale
  cases hfind : ((List.range 255).map (· + 1)).find? fun k => decide (m ≤ scaleUnits k * l) with
  | none =>
    refine ⟨by decide, by decide, .inr rfl, fun k h0 hk hreach => ?_⟩
    have hmem : k ∈ (List.range 255).map (· + 1) := List.mem_map.mpr ⟨k - 1, List.mem_range.mpr (by omega), by omega⟩
    exact absurd (decide_eq_true hreach) (List.find?_eq_none.mp hfind k hmem)
  | some sc =>
    obtain ⟨j, hj, hsc⟩ := List.mem_map.mp (List.mem_of_find?_eq_some hfind)
    have hj' := List.mem_range.mp hj
    have hreach : m ≤ scaleUnits sc * l := by simpa using List.find?_some hfind
    refine ⟨by simp only [Option.getD_some]; omega, by simp only [Option.getD_some]; omega, .inl hreach,
      fun k h0 hk hk' => ?_⟩
    obtain ⟨_, as, bs, hsplit, hbefore⟩ := List.find?_eq_some_iff_append.mp hfind
    by_contra hlt
    simp only [Option.getD_some, not_le] at hlt
    have hmem : k ∈ as ++ sc :: bs := hsplit ▸ List.mem_map.mpr ⟨k - 1, List.mem_range.mpr (by omega), by omega⟩
    have hsorted : (as ++ sc :: bs).Pairwise (· < ·) := by
      rw [← hsplit]
      exact List.pairwise_map.mpr (List.pairwise_lt_range.imp fun h => Nat.add_lt_add_right h 1)
    rcases List.mem_append.mp hmem with hk1 | hk1
    · exact absurd hk' (by simpa using hbefore k hk1)
    · rcases List.mem_cons.mp hk1 with rfl | hk2
      · omega
      · have := (List.pairwise_cons.mp (List.pairwise_append.mp hsorted).2.1).1 k hk2
        omega

/-- A scale reaches where its units do. -/
theorem reach_iff {m l : Nat} (hl : 0 < l) (k : Nat) :
    ((m : ℚ) / 2 ^ 168) / ((l : ℚ) / 2 ^ 136) ≤ scaleNumber k ↔ m ≤ scaleUnits k * l := by
  have hl' : (0 : ℚ) < (l : ℚ) / 2 ^ 136 := by positivity
  rw [div_le_iff₀ hl', scaleNumber_eq, div_mul_div_comm, ← pow_add, div_le_div_iff_of_pos_right (by positivity)]
  exact_mod_cast Iff.rfl

theorem scaleNumber_le_iff (a b : Nat) : scaleNumber a ≤ scaleNumber b ↔ a ≤ b := by
  rw [scaleNumber_eq, scaleNumber_eq, div_le_div_iff_of_pos_right (by positivity), Nat.cast_le]
  exact scaleUnits_strictMono.le_iff_le

/-- The condition of R67 on a scale code: it is the model's. -/
theorem scale_iff {m l sc : Nat} (hm : 0 < m) (hl : 0 < l) :
    let r : ℚ := ((m : ℚ) / 2 ^ 168) / ((l : ℚ) / 2 ^ 136)
    (0 < sc ∧ sc < 256 ∧ (r ≤ scaleNumber sc ∨ sc = 255) ∧ ∀ k, k < 256 → r ≤ scaleNumber k →
      scaleNumber sc ≤ scaleNumber k) ↔
      sc = leastScale m l := by
  obtain ⟨hpos, hlt, hreach, hleast⟩ := leastScale_spec m l
  simp only [reach_iff hl, scaleNumber_le_iff]
  have hzero : ∀ k, m ≤ scaleUnits k * l → 0 < k := fun k hk => by
    rcases Nat.eq_zero_or_pos k with rfl | h
    · have : scaleUnits 0 = 0 := rfl
      rw [this, Nat.zero_mul] at hk
      omega
    · exact h
  constructor
  · rintro ⟨h0, h1, h2, h3⟩
    rcases h2 with h2 | rfl
    · have hle := hleast sc h0 h1 h2
      rcases hreach with hr | hr
      · exact le_antisymm (h3 _ hlt hr) hle
      · omega
    · rcases hreach with hr | hr
      · have := h3 _ hlt hr
        omega
      · exact hr.symm
  · rintro rfl
    exact ⟨hpos, hlt, hreach, fun k hk hk' => hleast k (hzero k hk') hk hk'⟩

end Sys2Proof.Machine
end

section
/-! PROOFS. The nearest code of a candidate (R68, R69). -/

namespace Sys2Proof.Machine

/-! ## The first least of a list -/

/-- A fold that keeps an element until one with a lesser key comes ends with the first of the least keys. -/
theorem foldl_least {β : Type} (key : Nat → Nat) (pack : Nat → β) (pick : Option β → Nat → Option β)
    (hpick : ∀ a k, pick (some (pack a)) k = if key k < key a then some (pack k) else some (pack a)) :
    ∀ (l : List Nat) (b : Nat), (b :: l).Pairwise (· < ·) → ∃ a ∈ b :: l, l.foldl pick (some (pack b)) = some (pack a) ∧
      ∀ k ∈ b :: l, key a ≤ key k ∧ (key a = key k → a ≤ k)
  | [], b, _ => ⟨b, List.mem_singleton.mpr rfl, rfl,
    fun k hk => by rw [List.mem_singleton.mp hk]; exact ⟨le_rfl, fun _ => le_rfl⟩⟩
  | x :: l, b, hsorted => by
    obtain ⟨hb, hl⟩ := List.pairwise_cons.mp hsorted
    have hbx := hb x List.mem_cons_self
    rw [List.foldl_cons, hpick]
    by_cases hlt : key x < key b
    · rw [if_pos hlt]
      obtain ⟨a, ha, hfold, hleast⟩ := foldl_least key pack pick hpick l x hl
      refine ⟨a, List.mem_cons_of_mem _ ha, hfold, fun k hk => ?_⟩
      rcases List.mem_cons.mp hk with rfl | hk
      · have := (hleast x List.mem_cons_self).1
        exact ⟨by omega, fun h => by omega⟩
      · exact hleast k hk
    · rw [if_neg hlt]
      have hbl : (b :: l).Pairwise (· < ·) :=
        List.pairwise_cons.mpr ⟨fun y hy => hb y (List.mem_cons_of_mem _ hy), (List.pairwise_cons.mp hl).2⟩
      obtain ⟨a, ha, hfold, hleast⟩ := foldl_least key pack pick hpick l b hbl
      have hmem : ∀ k, k ∈ b :: l → k ∈ b :: x :: l := fun k hk => by
        rcases List.mem_cons.mp hk with rfl | hk
        · exact List.mem_cons_self
        · exact List.mem_cons_of_mem _ (List.mem_cons_of_mem _ hk)
      refine ⟨a, hmem a ha, hfold, fun k hk => ?_⟩
      rcases List.mem_cons.mp hk with rfl | hk
      · exact hleast k List.mem_cons_self
      · rcases List.mem_cons.mp hk with rfl | hk
        · obtain ⟨hle, heq⟩ := hleast b List.mem_cons_self
          refine ⟨by omega, fun h => ?_⟩
          have := heq (by omega)
          omega
        · exact hleast k (List.mem_cons_of_mem _ hk)

/-! ## Ranks: the place of an INT or FP code among the levels -/

/-- The codes below the negative ones. -/
def codeHalf (w : BlkW) : Nat := match w with | .blk4 => 8 | .blk8 => 128

/-- The rank of a code: two's complement for an integer selector, else sign and magnitude. -/
def codeRank (w : BlkW) (sel k : Nat) : Int :=
  if k < codeHalf w then k else if sel = 0 then (k : Int) - 2 * codeHalf w else (codeHalf w : Int) - k

/-- The greatest rank. -/
def topRank (w : BlkW) (sel : Nat) : Nat :=
  match w, sel with
  | .blk4, _ => 7
  | .blk8, 0 => 127
  | .blk8, 1 => 126
  | .blk8, _ => 123

/-- The magnitude of a rank in units of 2^-136. -/
def rankUnits (w : BlkW) (sel r : Nat) : Nat :=
  match w, sel with
  | _, 0 => r * 2 ^ 136
  | .blk4, _ => expUnits 1 r * 2 ^ 135
  | .blk8, 1 => expUnits 3 r * 2 ^ 127
  | .blk8, _ => expUnits 2 r * 2 ^ 120

/-- A magnitude on both sides of 0. -/
def bothSides (f : Nat → Nat) (r : Int) : Int := if r < 0 then -(f r.natAbs : Int) else f r.natAbs

theorem bothSides_strictMono {f : Nat → Nat} (hf : StrictMono f) : StrictMono (bothSides f) := by
  intro a b hab
  unfold bothSides
  by_cases ha : a < 0
  · rw [if_pos ha]
    have hpos : f 0 < f a.natAbs := hf (by omega)
    by_cases hb : b < 0
    · have := hf (show b.natAbs < a.natAbs by omega)
      rw [if_pos hb]
      omega
    · rw [if_neg hb]
      omega
  · have := hf (show a.natAbs < b.natAbs by omega)
    rw [if_neg ha, if_neg (by omega)]
    omega

theorem rankUnits_strictMono (w : BlkW) (sel : Nat) : StrictMono (rankUnits w sel) := by
  have hscale : ∀ {f : Nat → Nat} (n : Nat), StrictMono f → StrictMono fun r => f r * 2 ^ n :=
    fun n hf a b hab => Nat.mul_lt_mul_of_pos_right (hf hab) (Nat.two_pow_pos n)
  unfold rankUnits
  split
  · exact hscale (f := id) 136 strictMono_id
  · exact hscale 135 (expUnits_strictMono 1)
  · exact hscale 127 (expUnits_strictMono 3)
  · exact hscale 120 (expUnits_strictMono 2)

theorem emitted_iff (w : BlkW) (sel k : Nat) : Emitted w sel k ↔ k < codeCount w ∧ emits w sel k = true := by
  unfold Emitted emits
  cases w
  · simp
  · split <;> simp_all

/-- The ranks of the codes that may be emitted. -/
theorem codeRank_le {w : BlkW} {sel k : Nat} (h : Emitted w sel k) : (codeRank w sel k).natAbs ≤ topRank w sel := by
  obtain ⟨hk, hcode⟩ := h
  cases w
  · dsimp only [codeCount] at hk hcode
    unfold codeRank topRank codeHalf
    dsimp only
    split <;> [skip; split] <;> omega
  · dsimp only [codeCount] at hk hcode
    unfold codeRank topRank codeHalf
    split at hcode <;> simp_all <;> split <;> omega

theorem codeRank_parity (w : BlkW) (sel k : Nat) : codeRank w sel k % 2 = (k % 2 : Nat) := by
  unfold codeRank codeHalf
  cases w <;> dsimp only <;> split <;> [skip; split; skip; split] <;> omega

theorem codeRank_inj {w : BlkW} {sel i k : Nat} (hi : Emitted w sel i) (hk : Emitted w sel k)
    (h : codeRank w sel i = codeRank w sel k) : i = k := by
  have hcount : codeCount w = 2 * codeHalf w := by cases w <;> rfl
  have hi' := hi.1
  have hk' := hk.1
  have hzero : ∀ j, Emitted w sel j → sel ≠ 0 → j ≠ codeHalf w := by
    rintro j ⟨-, hj⟩ hsel rfl
    cases w
    · exact hj rfl
    · rcases sel with _ | _ | _
      · exact hsel rfl
      · exact hj.2 rfl
      · exact hj.2 rfl
  have hiz := hzero i hi
  have hkz := hzero k hk
  unfold codeRank at h
  by_cases hsel : sel = 0
  · rw [if_pos hsel, if_pos hsel] at h
    split at h <;> split at h <;> omega
  · rw [if_neg hsel, if_neg hsel] at h
    split at h <;> split at h <;> omega

/-- The code of a rank. -/
def rankCode (w : BlkW) (sel : Nat) (r : Int) : Nat :=
  if 0 ≤ r then r.natAbs else if sel = 0 then 2 * codeHalf w - r.natAbs else codeHalf w + r.natAbs

theorem emitted_rankCode {w : BlkW} {sel : Nat} {r : Int} (h : r.natAbs ≤ topRank w sel) :
    Emitted w sel (rankCode w sel r) ∧ codeRank w sel (rankCode w sel r) = r := by
  rcases w with _ | _
  · have h' : r.natAbs ≤ 7 := h
    unfold Emitted codeRank rankCode codeHalf codeCount
    dsimp only
    by_cases hr : 0 ≤ r
    · rw [if_pos hr]
      exact ⟨by omega, by rw [if_pos (by omega)]; omega⟩
    · rw [if_neg hr]
      by_cases hsel : sel = 0
      · rw [if_pos hsel]
        exact ⟨by omega, by rw [if_neg (by omega), if_pos hsel]; omega⟩
      · rw [if_neg hsel]
        exact ⟨by omega, by rw [if_neg (by omega), if_neg hsel]; omega⟩
  · rcases sel with _ | _ | sel
    · have h' : r.natAbs ≤ 127 := h
      change (_ < 256 ∧ _ ≠ 128) ∧ _
      unfold codeRank rankCode codeHalf
      dsimp only
      by_cases hr : 0 ≤ r
      · rw [if_pos hr]
        exact ⟨by omega, by rw [if_pos (by omega)]; omega⟩
      · rw [if_neg hr, if_pos rfl]
        exact ⟨by omega, by rw [if_neg (by omega), if_pos rfl]; omega⟩
    · have h' : r.natAbs ≤ 126 := h
      change (_ < 256 ∧ _ % 128 ≠ 127 ∧ _ ≠ 128) ∧ _
      unfold codeRank rankCode codeHalf
      dsimp only
      by_cases hr : 0 ≤ r
      · rw [if_pos hr]
        exact ⟨by omega, by rw [if_pos (by omega)]; omega⟩
      · rw [if_neg hr, if_neg (by omega)]
        exact ⟨by omega, by rw [if_neg (by omega), if_neg (by omega)]; omega⟩
    · have h' : r.natAbs ≤ 123 := h
      change (_ < 256 ∧ _ / 4 % 32 ≠ 31 ∧ _ ≠ 128) ∧ _
      unfold codeRank rankCode codeHalf
      dsimp only
      by_cases hr : 0 ≤ r
      · rw [if_pos hr]
        exact ⟨by omega, by rw [if_pos (by omega)]; omega⟩
      · rw [if_neg hr, if_neg (by omega)]
        exact ⟨by omega, by rw [if_neg (by omega), if_neg (by omega)]; omega⟩

/-! ## Levels by rank (Tables 3-6, 3-7) -/

theorem levelUnits_intVal (v : Int) : levelUnits (intVal v) = bothSides (· * 2 ^ 136) v := by
  unfold levelUnits intVal bothSides
  dsimp only
  by_cases h : v < 0
  · simp [h]
  · simp [h]

/-- A level with the sign of a sign-and-magnitude code. -/
theorem levelUnits_signed {w : BlkW} {sel k m : Nat} {e : Int} {f : Nat → Nat} (hsel : sel ≠ 0) (hk : k < codeCount w)
    (hne : k ≠ codeHalf w) (hm : m * 2 ^ (e + 136).toNat = f (k % codeHalf w)) :
    levelUnits (.fin (k / codeHalf w == 1) m e) = bothSides f (codeRank w sel k) := by
  have hcount : codeCount w = 2 * codeHalf w := by cases w <;> rfl
  have hhalf : 0 < codeHalf w := by cases w <;> decide
  unfold levelUnits bothSides
  dsimp only
  rw [hm]
  by_cases h : k < codeHalf w
  · have hrank : codeRank w sel k = k := if_pos h
    rw [Nat.div_eq_of_lt h, Nat.mod_eq_of_lt h, hrank, if_neg (show ¬((k : Int) < 0) by omega), Int.natAbs_natCast]
    simp
  · have hq : k / codeHalf w = 1 := Nat.div_eq_of_lt_le (by omega) (by omega)
    have hmod : k % codeHalf w = k - codeHalf w := by rw [Nat.mod_eq_sub_mod (by omega), Nat.mod_eq_of_lt (by omega)]
    have hrank : codeRank w sel k = codeHalf w - k := by rw [codeRank, if_neg h, if_neg hsel]
    have hneg : (codeHalf w : Int) - k < 0 := by omega
    have habs : ((codeHalf w : Int) - k).natAbs = k - codeHalf w := by omega
    rw [hq, hmod, hrank, habs, if_pos hneg]
    simp

theorem fp4_magnitude (k : Nat) : fp4Halves (k % 8) * 2 ^ ((-1 : Int) + 136).toNat = expUnits 1 (k % 8) * 2 ^ 135 := by
  have hhalves : ∀ j, j < 8 → fp4Halves j = expUnits 1 j := by decide
  rw [hhalves _ (Nat.mod_lt _ (by decide))]
  rfl

theorem e4m3_magnitude {k : Nat} (h : k % 128 ≠ 127) : ∃ m e, fp8Level false k = .fin (k / 128 == 1) m e ∧
    m * 2 ^ (e + 136).toNat = expUnits 3 (k % 128) * 2 ^ 127 := by
  have hq : k % 128 / 2 ^ 3 = k / 8 % 16 := by omega
  have hr : k % 128 % 2 ^ 3 = k % 8 := by omega
  unfold fp8Level expUnits
  dsimp only
  rw [if_neg (by decide), if_neg h, hq, hr]
  by_cases h0 : k / 8 % 16 = 0
  · rw [if_pos h0, if_pos h0]
    exact ⟨_, _, rfl, rfl⟩
  · obtain ⟨q, hq'⟩ := Nat.exists_eq_succ_of_ne_zero h0
    rw [if_neg h0, if_neg h0, hq']
    refine ⟨_, _, rfl, ?_⟩
    have hexp : (Int.ofNat (q + 1) - 10 + 136).toNat = q + 127 := by simp only [Int.ofNat_eq_natCast]; omega
    rw [Nat.succ_eq_add_one, hexp, Nat.add_sub_cancel, pow_add, ← Nat.mul_assoc, Nat.add_comm (k % 8)]
    rfl

theorem e5m2_magnitude {k : Nat} (h : k / 4 % 32 ≠ 31) : ∃ m e, fp8Level true k = .fin (k / 128 == 1) m e ∧
    m * 2 ^ (e + 136).toNat = expUnits 2 (k % 128) * 2 ^ 120 := by
  have hq : k % 128 / 2 ^ 2 = k / 4 % 32 := by omega
  have hr : k % 128 % 2 ^ 2 = k % 4 := by omega
  unfold fp8Level expUnits
  dsimp only
  rw [if_pos rfl, if_neg h, hq, hr]
  by_cases h0 : k / 4 % 32 = 0
  · rw [if_pos h0, if_pos h0]
    exact ⟨_, _, rfl, rfl⟩
  · obtain ⟨q, hq'⟩ := Nat.exists_eq_succ_of_ne_zero h0
    rw [if_neg h0, if_neg h0, hq']
    refine ⟨_, _, rfl, ?_⟩
    have hexp : (Int.ofNat (q + 1) - 17 + 136).toNat = q + 120 := by simp only [Int.ofNat_eq_natCast]; omega
    rw [Nat.succ_eq_add_one, hexp, Nat.add_sub_cancel, pow_add, ← Nat.mul_assoc, Nat.add_comm (k % 4)]
    rfl

/-- The INT and FP selectors. -/
theorem uniform_cases {w : BlkW} {sel : Nat} (hsel : sel < 4) (hnu : isNu w sel = false) :
    w = .blk4 ∧ (sel = 0 ∨ sel = 1) ∨ w = .blk8 ∧ (sel = 0 ∨ sel = 1 ∨ sel = 2) := by
  cases w
  · have h : ∀ j, j < 4 → isNu .blk4 j = false → j = 0 ∨ j = 1 := by decide
    exact .inl ⟨rfl, h sel hsel hnu⟩
  · have h : ∀ j, j < 4 → isNu .blk8 j = false → j = 0 ∨ j = 1 ∨ j = 2 := by decide
    exact .inr ⟨rfl, h sel hsel hnu⟩

/-- The level of a code that may be emitted, by its rank. -/
theorem levelUnits_rank {w : BlkW} {sel k : Nat} (c : Core) (hsel : sel < 4) (hnu : isNu w sel = false)
    (h : Emitted w sel k) :
    levelUnits (c.level w sel k) = bothSides (rankUnits w sel) (codeRank w sel k) := by
  obtain ⟨hk, hcode⟩ := h
  rcases uniform_cases hsel hnu with ⟨rfl, rfl | rfl⟩ | ⟨rfl, rfl | rfl | rfl⟩
  · exact levelUnits_intVal _
  · exact levelUnits_signed (w := .blk4) (sel := 1) (f := fun r => expUnits 1 r * 2 ^ 135) (by decide) hk hcode
      (fp4_magnitude k)
  · have hrank : codeRank .blk8 0 k = if k = 128 then -127 else if k < 128 then Int.ofNat k else Int.ofNat k - 256 :=
      (if_neg hcode).symm
    rw [hrank]
    exact levelUnits_intVal _
  · obtain ⟨m, e, hlev, hm⟩ := e4m3_magnitude hcode.1
    change levelUnits (fp8Level false k) = _
    rw [hlev]
    exact levelUnits_signed (w := .blk8) (sel := 1) (f := fun r => expUnits 3 r * 2 ^ 127) (by decide) hk hcode.2 hm
  · obtain ⟨m, e, hlev, hm⟩ := e5m2_magnitude hcode.1
    change levelUnits (fp8Level true k) = _
    rw [hlev]
    exact levelUnits_signed (w := .blk8) (sel := 2) (f := fun r => expUnits 2 r * 2 ^ 120) (by decide) hk hcode.2 hm

/-! ## The nearest code of an INT or FP selector (R68) -/

/-- The distance of an input from a code's level at a scale, in units of 2^-168. -/
def codeDistance (c : Core) (w : BlkW) (sel s : Nat) (x : Int) (k : Nat) : Nat :=
  (x - levelUnits (c.level w sel k) * Int.ofNat s).natAbs

/-- Of two codes as near as each other, none nearer, one is odd: they are neighbours. -/
theorem tie_parity {c : Core} {w : BlkW} {sel s i k : Nat} {x : Int} (hsel : sel < 4) (hnu : isNu w sel = false)
    (hs : 0 < s)
    (hi : Emitted w sel i) (hk : Emitted w sel k) (hne : i ≠ k)
    (hmin : ∀ j, Emitted w sel j → codeDistance c w sel s x k ≤ codeDistance c w sel s x j)
    (htie : codeDistance c w sel s x i = codeDistance c w sel s x k) : i % 2 ≠ k % 2 := by
  wlog hlt : codeRank w sel i < codeRank w sel k generalizing i k
  · have hne' : codeRank w sel i ≠ codeRank w sel k := fun h => hne (codeRank_inj hi hk h)
    exact Ne.symm (this hk hi hne.symm (fun j hj => htie ▸ hmin j hj) htie.symm (by omega))
  have hmono : StrictMono fun r => bothSides (rankUnits w sel) r * Int.ofNat s := fun a b hab =>
    mul_lt_mul_of_pos_right (bothSides_strictMono (rankUnits_strictMono w sel) hab) (Int.natCast_pos.mpr hs)
  have hdist : ∀ j, Emitted w sel j →
      codeDistance c w sel s x j = (x - bothSides (rankUnits w sel) (codeRank w sel j) * Int.ofNat s).natAbs :=
        fun j hj => by
    rw [codeDistance, levelUnits_rank c hsel hnu hj]
  have hadj : codeRank w sel k = codeRank w sel i + 1 := by
    by_contra hgap
    have hib := codeRank_le hi
    have hkb := codeRank_le hk
    obtain ⟨hj, hrank⟩ := emitted_rankCode (w := w) (sel := sel) (r := codeRank w sel i + 1) (by omega)
    have hm := hmin _ hj
    rw [hdist _ hj, hrank, hdist k hk] at hm
    rw [hdist i hi, hdist k hk] at htie
    have h1 := hmono (show codeRank w sel i < codeRank w sel i + 1 by omega)
    have h2 := hmono (show codeRank w sel i + 1 < codeRank w sel k by omega)
    dsimp only at h1 h2
    omega
  have hpi := codeRank_parity w sel i
  have hpk := codeRank_parity w sel k
  omega

/-- R68: nearest, and of two the even one. -/
def NearestUnits (c : Core) (w : BlkW) (sel s : Nat) (x : Int) (k : Nat) : Prop :=
  Emitted w sel k ∧ ∀ i, Emitted w sel i → i ≠ k → codeDistance c w sel s x k < codeDistance c w sel s x i ∨
    codeDistance c w sel s x k = codeDistance c w sel s x i ∧ k % 2 = 0

/-- A code tried against the best so far. -/
def uniformPick (c : Core) (w : BlkW) (sel s : Nat) (x : Int) (best : Option (Nat × Nat)) (k : Nat) : Option (Nat × Nat) :=
  let d := codeDistance c w sel s x k
  match best with
  | none => some (d, k)
  | some (d0, k0) => if d < d0 ∨ (d = d0 ∧ k % 2 = 0 ∧ k0 % 2 = 1) then some (d, k) else best

theorem nearestUniform_eq (c : Core) (w : BlkW) (sel s : Nat) (x : Int) : c.nearestUniform w sel s x =
    (((List.range (codeCount w)).filter (emits w sel)).foldl (uniformPick c w sel s x) none).elim 0 (·.2) := by
  rw [List.foldl_filter]
  rfl

theorem emitted_zero (w : BlkW) (sel : Nat) : Emitted w sel 0 := by
  rw [emitted_iff]
  cases w
  · exact ⟨by decide, rfl⟩
  · refine ⟨by decide, ?_⟩
    unfold emits
    split <;> rfl

theorem nearestUniform_spec {c : Core} {w : BlkW} {sel s : Nat} {x : Int} (hsel : sel < 4) (hnu : isNu w sel = false)
    (hs : 0 < s) :
    NearestUnits c w sel s x (c.nearestUniform w sel s x) := by
  have hmem : ∀ k, k ∈ (List.range (codeCount w)).filter (emits w sel) ↔ Emitted w sel k := fun k => by
    rw [List.mem_filter, List.mem_range, emitted_iff]
  have hsorted : ((List.range (codeCount w)).filter (emits w sel)).Pairwise (· < ·) := List.pairwise_lt_range.filter _
  have hpick : ∀ a k, uniformPick c w sel s x (some (codeDistance c w sel s x a, a)) k =
      if 2 * codeDistance c w sel s x k + k % 2 < 2 * codeDistance c w sel s x a + a % 2
      then some (codeDistance c w sel s x k, k) else some (codeDistance c w sel s x a, a) := fun a k => by
    unfold uniformPick
    exact if_congr (by omega) rfl rfl
  rw [nearestUniform_eq]
  cases hl : (List.range (codeCount w)).filter (emits w sel) with
  | nil => exact absurd ((hmem 0).mpr (emitted_zero w sel)) (by rw [hl]; exact List.not_mem_nil)
  | cons b l =>
    rw [hl] at hmem hsorted
    obtain ⟨k, hk, hfold, hleast⟩ := foldl_least (fun k => 2 * codeDistance c w sel s x k + k % 2)
      (fun k => (codeDistance c w sel s x k, k)) (uniformPick c w sel s x) hpick l b hsorted
    change NearestUnits c w sel s x ((l.foldl (uniformPick c w sel s x) (some (codeDistance c w sel s x b, b))).elim 0
      (·.2))
    rw [hfold]
    have hkey : ∀ i, Emitted w sel i →
        2 * codeDistance c w sel s x k + k % 2 ≤ 2 * codeDistance c w sel s x i + i % 2 := fun i hi =>
          (hleast i ((hmem i).mpr hi)).1
    refine ⟨(hmem k).mp hk, fun i hi hik => ?_⟩
    have hki := hkey i hi
    by_cases htie : codeDistance c w sel s x i = codeDistance c w sel s x k
    · have hmin : ∀ j, Emitted w sel j → codeDistance c w sel s x k ≤ codeDistance c w sel s x j := fun j hj => by
        have := hkey j hj
        omega
      have := tie_parity hsel hnu hs hi ((hmem k).mp hk) hik hmin htie
      exact .inr ⟨htie.symm, by simp only [Option.elim_some]; omega⟩
    · exact .inl (by simp only [Option.elim_some]; omega)

theorem nearestUnits_unique {c : Core} {w : BlkW} {sel s i k : Nat} {x : Int} (hsel : sel < 4) (hnu : isNu w sel = false)
    (hs : 0 < s)
    (hi : NearestUnits c w sel s x i) (hk : NearestUnits c w sel s x k) : i = k := by
  by_contra hne
  have hik := hi.2 k hk.1 (Ne.symm hne)
  have hki := hk.2 i hi.1 hne
  have hmin : ∀ j, Emitted w sel j → codeDistance c w sel s x k ≤ codeDistance c w sel s x j := fun j hj => by
    by_cases hjk : j = k
    · rw [hjk]
    · have := hk.2 j hj hjk
      omega
  have := tie_parity hsel hnu hs hi.1 hk.1 hne hmin (by omega)
  omega

/-! ## The code of R68 and R69 -/

section
variable {c : Core} {w : BlkW} {sel sc : Nat} {x : Int}

/-- An input over a scale against a level, in units. -/
theorem scaled_sub_level (hsc : sc ≠ 0) (k : Nat) : (x : ℚ) / 2 ^ 168 / scaleNumber sc - levelNumber c w sel k =
    ((x - levelUnits (c.level w sel k) * Int.ofNat (scaleUnits sc) : Int) : ℚ) / (scaleUnits sc * 2 ^ 136) := by
  have hpos : (scaleUnits sc : ℚ) ≠ 0 := by exact_mod_cast (scaleUnits_pos hsc).ne'
  rw [scaleNumber_eq, levelNumber_units]
  push_cast
  rw [Int.ofNat_eq_natCast, Int.cast_natCast]
  field_simp

theorem unit_pos (hsc : sc ≠ 0) : (0 : ℚ) < scaleUnits sc * 2 ^ 136 := by
  have := scaleUnits_pos hsc
  positivity

theorem abs_scaled_sub_level (hsc : sc ≠ 0) (k : Nat) : |(x : ℚ) / 2 ^ 168 / scaleNumber sc - levelNumber c w sel k| =
    (codeDistance c w sel (scaleUnits sc) x k : ℚ) / (scaleUnits sc * 2 ^ 136) := by
  rw [scaled_sub_level hsc, abs_div, abs_of_nonneg (unit_pos hsc).le, codeDistance, Nat.cast_natAbs,
    Int.cast_abs]

theorem distance_lt_iff (hsc : sc ≠ 0) (i k : Nat) :
    |(x : ℚ) / 2 ^ 168 / scaleNumber sc - levelNumber c w sel i| <
      |(x : ℚ) / 2 ^ 168 / scaleNumber sc - levelNumber c w sel k| ↔
      codeDistance c w sel (scaleUnits sc) x i < codeDistance c w sel (scaleUnits sc) x k := by
  rw [abs_scaled_sub_level hsc, abs_scaled_sub_level hsc, div_lt_div_iff_of_pos_right (unit_pos hsc), Nat.cast_lt]

theorem distance_eq_iff (hsc : sc ≠ 0) (i k : Nat) :
    |(x : ℚ) / 2 ^ 168 / scaleNumber sc - levelNumber c w sel i| =
      |(x : ℚ) / 2 ^ 168 / scaleNumber sc - levelNumber c w sel k| ↔
      codeDistance c w sel (scaleUnits sc) x i = codeDistance c w sel (scaleUnits sc) x k := by
  rw [abs_scaled_sub_level hsc, abs_scaled_sub_level hsc, div_left_inj' (unit_pos hsc).ne', Nat.cast_inj]

theorem level_le_iff (hsc : sc ≠ 0) (k : Nat) : levelNumber c w sel k ≤ (x : ℚ) / 2 ^ 168 / scaleNumber sc ↔
    levelUnits (c.level w sel k) * Int.ofNat (scaleUnits sc) ≤ x := by
  rw [← sub_nonneg, scaled_sub_level hsc, le_div_iff₀ (unit_pos hsc), zero_mul, Int.cast_nonneg_iff, sub_nonneg]

/-- The search of R69 is the model's. -/
theorem searchTable_eq (hsc : sc ≠ 0) : ∀ n lo hi,
    searchTable (levelNumber c w sel) ((x : ℚ) / 2 ^ 168 / scaleNumber sc) n lo hi =
    nuSearch (fun k => levelUnits (c.level w sel k) * Int.ofNat (scaleUnits sc)) x n lo hi
  | 0, lo, hi => by
    have hflip : (levelUnits (c.level w sel hi) * Int.ofNat (scaleUnits sc) - x).natAbs =
      codeDistance c w sel (scaleUnits sc) x hi := by
      rw [codeDistance]
      omega
    unfold searchTable nuSearch
    dsimp only
    rw [abs_sub_comm (levelNumber c w sel hi), hflip]
    exact if_congr (distance_lt_iff hsc lo hi) rfl (if_congr (distance_lt_iff hsc hi lo) rfl rfl)
  | n + 1, lo, hi => by
    unfold searchTable nuSearch
    dsimp only
    rw [searchTable_eq hsc 0, searchTable_eq hsc n, searchTable_eq hsc n]
    by_cases h : hi - lo ≤ 1
    · rw [if_pos h, if_neg (by omega)]
    · rw [if_neg h, if_pos (show 1 < hi - lo by omega)]
      exact if_congr (level_le_iff hsc _) rfl rfl

theorem nuSearch_le (t : Nat → Int) (x : Int) : ∀ n lo hi, lo ≤ hi → nuSearch t x n lo hi ≤ hi
  | 0, lo, hi, h => by
    unfold nuSearch
    dsimp only
    split
    · exact h
    · split
      · exact le_rfl
      · split
        · exact h
        · exact le_rfl
  | n + 1, lo, hi, h => by
    unfold nuSearch
    dsimp only
    split
    · split
      · exact nuSearch_le t x n _ _ (by omega)
      · exact (nuSearch_le t x n _ _ (by omega)).trans (by omega)
    · exact nuSearch_le t x 0 _ _ h

/-- The code of a selector for an input: it is the model's. -/
theorem nearestCode_iff (hsel : sel < 4) (hsc : sc ≠ 0) (k : Nat) :
    NearestCode c w sel ((x : ℚ) / 2 ^ 168 / scaleNumber sc) k ↔ k = c.nearest w sel (scaleUnits sc) x := by
  unfold NearestCode Core.nearest
  split
  next hnu => rw [searchTable_eq hsc]
  next hnu =>
    have hnu' : isNu w sel = false := by simpa using hnu
    have hs := scaleUnits_pos hsc
    simp only [distance_lt_iff hsc, distance_eq_iff hsc]
    exact ⟨fun h => nearestUnits_unique hsel hnu' hs h (nearestUniform_spec hsel hnu' hs),
      fun h => h ▸ nearestUniform_spec hsel hnu' hs⟩

theorem nearest_lt (hsel : sel < 4) (hsc : sc ≠ 0) : c.nearest w sel (scaleUnits sc) x < codeCount w := by
  unfold Core.nearest
  split
  next hnu =>
    have hcount : (nuTable w sel).2 = codeCount w := by
      cases w
      · change (if sel = 2 then (0, 16) else (256, 16)).2 = 16
        split <;> rfl
      · rfl
    have hpos : 0 < codeCount w := by cases w <;> decide
    have := nuSearch_le (fun k => levelUnits (c.level w sel k) * Int.ofNat (scaleUnits sc)) x 8 0 ((nuTable w sel).2 - 1)
      (Nat.zero_le _)
    omega
  next hnu => exact (nearestUniform_spec hsel (by simpa using hnu) (scaleUnits_pos hsc)).1.1

end

end Sys2Proof.Machine
end

section
/-! PROOFS. The selection of a quantising store (R58, R60, R66 to R70). -/

namespace Sys2Proof.Machine

/-! ## Headers (R58, R60, Table 3-6a) -/

/-- A step of the check code on a bit 0. -/
def crcShift (c : Nat) : Nat := crcStep c false

theorem crcStep_eq (c : Nat) (b : Bool) : crcStep c b = crcShift c ^^^ (if b then 5 else 0) := by
  unfold crcShift crcStep
  dsimp only
  cases (c / 16 % 2 == 1) <;> cases b <;> simp

theorem crcShift_xor (a b : Nat) : crcShift (a ^^^ b) = crcShift a ^^^ crcShift b := by
  have hbit : ((a ^^^ b) / 16 % 2 == 1) = ((a / 16 % 2 == 1) ^^ (b / 16 % 2 == 1)) := by
    have h := Nat.testBit_xor a b 4
    rw [Nat.testBit_eq_decide_div_mod_eq, Nat.testBit_eq_decide_div_mod_eq, Nat.testBit_eq_decide_div_mod_eq] at h
    exact h
  have hshift : (a ^^^ b) * 2 % 32 = a * 2 % 32 ^^^ b * 2 % 32 := by
    have h : (a ^^^ b) <<< 1 = a <<< 1 ^^^ b <<< 1 := Nat.shiftLeft_xor_distrib
    rw [Nat.shiftLeft_eq, Nat.shiftLeft_eq, Nat.shiftLeft_eq, pow_one] at h
    rw [h]
    exact Nat.xor_mod_two_pow (n := 5)
  unfold crcShift crcStep
  dsimp only
  rw [hbit, hshift]
  cases (a / 16 % 2 == 1) <;> cases (b / 16 % 2 == 1) <;> simp [Nat.xor_left_comm, Nat.xor_comm]

theorem crcShift_ite (b : Bool) (t : Nat) : crcShift (if b then t else 0) = if b then crcShift t else 0 := by
  cases b
  · exact (by decide : crcShift 0 = 0)
  · rfl

/-- The terms of the chosen elements, added up. -/
theorem foldl_xor_filter (p : Nat × Nat → Bool) : ∀ (l : List (Nat × Nat)) (a : Nat),
    ((l.filter p).map (·.1)).foldl (· ^^^ ·) a = l.foldl (fun a e => a ^^^ if p e then e.1 else 0) a
  | [], _ => rfl
  | e :: l, a => by
    rw [List.filter_cons, List.foldl_cons]
    cases hp : p e
    · rw [if_neg (by decide), foldl_xor_filter p l a, if_neg (by decide), Nat.xor_zero]
    · rw [if_pos rfl, List.map_cons, List.foldl_cons, foldl_xor_filter p l, if_pos rfl]

/-- The check code is the sum of the terms of Table 3-6a. -/
theorem crc5_eq (h : Nat) : crc5 h = ((([0x05, 0x0A, 0x14, 0x0D, 0x1A, 0x11, 0x07, 0x0E, 0x1C, 0x1D, 0x1F].zipIdx).filter
    fun e => h.testBit e.2).map (·.1)).foldl (· ^^^ ·) 0 := by
  rw [foldl_xor_filter]
  have hterms : crcShift 0 = 0 ∧ crcShift 0x05 = 0x0A ∧ crcShift 0x0A = 0x14 ∧ crcShift 0x14 = 0x0D ∧ crcShift 0x0D = 0x1A ∧
      crcShift 0x1A = 0x11 ∧ crcShift 0x11 = 0x07 ∧ crcShift 0x07 = 0x0E ∧ crcShift 0x0E = 0x1C ∧ crcShift 0x1C = 0x1D ∧
      crcShift 0x1D = 0x1F := by decide
  obtain ⟨t0, t1, t2, t3, t4, t5, t6, t7, t8, t9, t10⟩ := hterms
  have hbit : ∀ i, (h / 2 ^ i % 2 == 1) = h.testBit i := fun i => by rw [Nat.testBit_eq_decide_div_mod_eq]; rfl
  unfold crc5
  simp only [hbit, List.range, List.range.loop, List.foldl_cons, List.foldl_nil, List.zipIdx_cons, List.zipIdx_nil,
    crcStep_eq, crcShift_xor,
    crcShift_ite, t0, t1, t2, t3, t4, t5, t6, t7, t8, t9, t10, Nat.zero_xor]
  norm_num
  ac_rfl

theorem header_of {sel sc : Nat} (hsel : sel < 8) (hsc : sc < 256) : HeaderOf (header sel sc) sel sc := by
  have hlow : sc % 256 * 8 + sel % 8 < 2048 := by omega
  have hcrc : crc5 (header sel sc) = crc5 (sc % 256 * 8 + sel % 8) := by
    rw [crc5_eq, crc5_eq]
    congr 2
    refine List.filter_congr fun e he => ?_
    have hlt : e.2 < 11 := List.snd_lt_of_mem_zipIdx he
    have hmod : header sel sc % 2 ^ 11 = sc % 256 * 8 + sel % 8 := by
      unfold header
      dsimp only
      omega
    rw [← hmod, Nat.testBit_mod_two_pow, decide_eq_true hlt, Bool.true_and]
  refine ⟨?_, ?_⟩
  · unfold header
    dsimp only
    omega
  · rw [← crc5_eq, hcrc]
    unfold header
    dsimp only
    omega

/-! ## Candidates (R61, R62, R66) -/

/-- The greatest of a list's measures: none above it, and it is one of them or 0. -/
theorem foldl_max_spec {α : Type} (f : α → Nat) (l : List α) :
    (∀ x ∈ l, f x ≤ l.foldl (fun m x => max m (f x)) 0) ∧
      (l.foldl (fun m x => max m (f x)) 0 = 0 ∨ ∃ x ∈ l, f x = l.foldl (fun m x => max m (f x)) 0) := by
  induction l using List.reverseRecOn with
  | nil => exact ⟨fun x hx => absurd hx List.not_mem_nil, .inl rfl⟩
  | append_singleton l a ih =>
    obtain ⟨hle, hatt⟩ := ih
    rw [List.foldl_append, List.foldl_cons, List.foldl_nil]
    generalize l.foldl (fun m x => max m (f x)) 0 = m at hle hatt ⊢
    refine ⟨fun x hx => ?_, ?_⟩
    · rcases List.mem_append.mp hx with h | h
      · exact (hle x h).trans (le_max_left _ _)
      · rw [List.mem_singleton.mp h]
        exact le_max_right _ _
    · rcases le_total (f a) m with h | h
      · rw [max_eq_left h]
        exact hatt.imp_right fun ⟨x, hx, hfx⟩ => ⟨x, List.mem_append_left _ hx, hfx⟩
      · rw [max_eq_right h]
        exact .inr ⟨a, List.mem_append_right _ (List.mem_singleton.mpr rfl), rfl⟩

theorem abs_levelNumber (c : Core) (w : BlkW) (sel k : Nat) :
    |levelNumber c w sel k| = ((levelUnits (c.level w sel k)).natAbs : ℚ) / 2 ^ 136 := by
  rw [levelNumber_units, abs_div, abs_of_nonneg (by positivity : (0 : ℚ) ≤ 2 ^ 136), Nat.cast_natAbs, Int.cast_abs]

/-- The entries of a decode table and their greatest magnitude. -/
theorem largest_table {c : Core} {w : BlkW} {sel : Nat} {l : ℚ} (hnu : isNu w sel = true) :
    (0 < l ∧ (∀ k, k < (nuTable w sel).2 → ¬ (c.level w sel k).isNan ∧ ¬ (c.level w sel k).isInf ∧
      |levelNumber c w sel k| ≤ l) ∧
      ∃ k, k < (nuTable w sel).2 ∧ |levelNumber c w sel k| = l) ↔ c.largest w sel ≠ 0 ∧ l =
        (c.largest w sel : ℚ) / 2 ^ 136 := by
  unfold Core.largest
  rw [if_pos hnu]
  dsimp only
  by_cases hany : (((List.range (nuTable w sel).2).map (c.level w sel)).any fun e => e.isNan || e.isInf) = true
  · rw [if_pos hany]
    refine ⟨fun ⟨_, hall, _⟩ => ?_, fun h => absurd rfl h.1⟩
    obtain ⟨v, hv, hbad⟩ := List.any_eq_true.mp hany
    obtain ⟨k, hk, rfl⟩ := List.mem_map.mp hv
    obtain ⟨hnan, hinf, _⟩ := hall k (List.mem_range.mp hk)
    rcases Bool.or_eq_true _ _ |>.mp hbad with h | h
    · exact absurd h hnan
    · exact absurd h hinf
  · rw [if_neg hany, List.foldl_map]
    have hgood : ∀ k, k < (nuTable w sel).2 → ¬ (c.level w sel k).isNan ∧ ¬ (c.level w sel k).isInf := fun k hk => by
      have h := fun hb => hany (List.any_eq_true.mpr ⟨_, List.mem_map_of_mem (List.mem_range.mpr hk), hb⟩)
      rw [Bool.or_eq_true] at h
      exact not_or.mp h
    obtain ⟨hle, hatt⟩ := foldl_max_spec (fun k => (levelUnits (c.level w sel k)).natAbs) (List.range (nuTable w sel).2)
    generalize (List.range (nuTable w sel).2).foldl (fun m k => max m (levelUnits (c.level w sel k)).natAbs) 0 =
      m at hle hatt ⊢
    have hle' : ∀ k, k < (nuTable w sel).2 → |levelNumber c w sel k| ≤ (m : ℚ) / 2 ^ 136 := fun k hk => by
      rw [abs_levelNumber, div_le_div_iff_of_pos_right (by positivity), Nat.cast_le]
      exact hle k (List.mem_range.mpr hk)
    constructor
    · rintro ⟨hpos, hall, k, hk, hl⟩
      have hlm := hl ▸ hle' k hk
      have hm0 : m ≠ 0 := fun h0 => by
        rw [h0, Nat.cast_zero, zero_div] at hlm
        linarith
      obtain ⟨j, hj, hjm⟩ := hatt.resolve_left hm0
      have hjl := (hall j (List.mem_range.mp hj)).2.2
      rw [abs_levelNumber, hjm] at hjl
      exact ⟨hm0, le_antisymm hlm hjl⟩
    · rintro ⟨hm0, rfl⟩
      obtain ⟨j, hj, hjm⟩ := hatt.resolve_left hm0
      refine ⟨by positivity, fun k hk => ⟨(hgood k hk).1, (hgood k hk).2, hle' k hk⟩, j, List.mem_range.mp hj, ?_⟩
      rw [abs_levelNumber, hjm]

/-- What it is to be a candidate: the model's own test. -/
theorem candidate_iff {c : Core} {w : BlkW} {mask k : Nat} {l : ℚ} : Candidate c w mask k l ↔
    k < 4 ∧ mask / 2 ^ k % 2 = 1 ∧ c.largest w k ≠ 0 ∧ l = (c.largest w k : ℚ) / 2 ^ 136 := by
  unfold Candidate
  refine and_congr_right fun hk => and_congr (by rw [Nat.testBit_eq_decide_div_mod_eq, decide_eq_true_iff]) ?_
  cases hnu : isNu w k
  · rw [if_neg (by decide)]
    have hrow : ∀ (n : Nat) (q : ℚ), (n : ℚ) = q → c.largest w k = n * 2 ^ 136 → n ≠ 0 →
        (l = q ↔ c.largest w k ≠ 0 ∧ l = (c.largest w k : ℚ) / 2 ^ 136) := fun n q hq hn h0 => by
      have hne : n * 2 ^ 136 ≠ 0 := Nat.mul_ne_zero h0 (by positivity)
      have hcast : ((n * 2 ^ 136 : Nat) : ℚ) / 2 ^ 136 = n := by
        rw [Nat.cast_mul, Nat.cast_pow, Nat.cast_ofNat, mul_div_assoc, div_self (by positivity), mul_one]
      rw [hn, hcast, hq]
      exact ⟨fun h => ⟨hne, h⟩, fun h => h.2⟩
    rcases uniform_cases hk hnu with ⟨rfl, rfl | rfl⟩ | ⟨rfl, rfl | rfl | rfl⟩
    · exact hrow 7 7 (by norm_num) (if_neg (by decide)) (by decide)
    · exact hrow 6 6 (by norm_num) (if_neg (by decide)) (by decide)
    · exact hrow 127 127 (by norm_num) (if_neg (by decide)) (by decide)
    · exact hrow 448 448 (by norm_num) (if_neg (by decide)) (by decide)
    · exact hrow 57344 57344 (by norm_num) (if_neg (by decide)) (by decide)
  · rw [if_pos rfl]
    exact largest_table hnu

/-! ## What a candidate gives (R67) -/

section
variable {c : Core} {w : BlkW} {us : List Int} {m sel : Nat}

/-- Inputs in units as numbers. -/
def unitNumber (u : Int) : ℚ := (u : ℚ) / 2 ^ 168

theorem leastScale_ne_zero (m l : Nat) : leastScale m l ≠ 0 := (leastScale_spec m l).1.ne'

theorem forall₂_eq_map {α β : Type} (g : α → β) : ∀ (us : List α) (qs : List β),
    List.Forall₂ (fun u k => k = g u) us qs ↔ qs = us.map g
  | [], qs => by rw [List.forall₂_nil_left_iff, List.map_nil]
  | u :: us, [] => by simp
  | u :: us, q :: qs => by rw [List.forall₂_cons, forall₂_eq_map g us qs, List.map_cons, List.cons.injEq]

/-- The scale and the codes of a candidate are those that the model tries. -/
theorem tried_iff (hsel : sel < 4) (hm : 0 < m) (hl : c.largest w sel ≠ 0) (sc : Nat) (qs : List Nat) :
    Tried c w (us.map unitNumber) ((m : ℚ) / 2 ^ 168) sel ((c.largest w sel : ℚ) / 2 ^ 136) sc qs ↔
      sc = (c.tryCandidate w us m sel).1 ∧ qs = (c.tryCandidate w us m sel).2.1 := by
  have hscale := scale_iff (sc := sc) hm (Nat.pos_of_ne_zero hl)
  have hcodes : sc = leastScale m (c.largest w sel) →
      (List.Forall₂ (fun x k => NearestCode c w sel (x / scaleNumber sc) k) (us.map unitNumber) qs ↔
        qs = us.map (c.nearest w sel (scaleUnits sc))) := fun h => by
    have h0 : sc ≠ 0 := h ▸ leastScale_ne_zero m _
    have hcode : ∀ (u : Int) (k : Nat), NearestCode c w sel (unitNumber u / scaleNumber sc) k ↔ k =
      c.nearest w sel (scaleUnits sc) u :=
      fun u k => nearestCode_iff hsel h0 k
    rw [List.forall₂_map_left_iff]
    simp only [hcode]
    exact forall₂_eq_map _ us qs
  unfold Tried Core.tryCandidate
  dsimp only at hscale ⊢
  constructor
  · rintro ⟨h1, h2, h3, h4, h5⟩
    have hsc := hscale.mp ⟨h1, h2, h3, h4⟩
    exact ⟨hsc, hsc ▸ (hcodes hsc).mp h5⟩
  · rintro ⟨hsc, hqs⟩
    obtain ⟨h1, h2, h3, h4⟩ := hscale.mpr hsc
    exact ⟨h1, h2, h3, h4, (hcodes hsc).mpr (hsc ▸ hqs)⟩

/-- The squared error of a candidate, in units. -/
theorem squaredError_eq (sc : Nat) (qs : List Nat) : squaredError c w (us.map unitNumber) sel sc qs =
    ((((us.zip qs).map fun e => (e.1 - levelUnits (c.level w sel e.2) * Int.ofNat
      (scaleUnits sc)).natAbs ^ 2).sum : Nat) : ℚ) /
      2 ^ 336 := by
  have hterm : ∀ (u : Int) (k : Nat), (unitNumber u - scaleNumber sc * levelNumber c w sel k) ^ 2 =
      (((u - levelUnits (c.level w sel k) * Int.ofNat (scaleUnits sc)).natAbs ^ 2 : Nat) : ℚ) / 2 ^ 336 := fun u k => by
    have hsq : (((u - levelUnits (c.level w sel k) * Int.ofNat (scaleUnits sc)).natAbs ^ 2 : Nat) : ℚ) =
        ((u - levelUnits (c.level w sel k) * Int.ofNat (scaleUnits sc) : Int) : ℚ) ^ 2 := by
      rw [Nat.cast_pow, Nat.cast_natAbs, Int.cast_abs, sq_abs]
    have hdiff : unitNumber u - scaleNumber sc * levelNumber c w sel k =
        ((u - levelUnits (c.level w sel k) * Int.ofNat (scaleUnits sc) : Int) : ℚ) / 2 ^ 168 := by
      rw [unitNumber, scaleNumber_eq, levelNumber_units]
      push_cast
      rw [Int.ofNat_eq_natCast, Int.cast_natCast]
      ring
    rw [hsq, hdiff, div_pow, ← pow_mul]
  unfold squaredError
  rw [List.zip_map_left, List.map_map]
  induction us.zip qs with
  | nil => simp
  | cons e l ih =>
    rw [List.map_cons, List.sum_cons, ih, List.map_cons, List.sum_cons, Nat.cast_add, add_div, ← hterm]
    rfl

end

/-! ## The best candidate (R67) -/

/-- A candidate tried against the best so far. -/
def candidatePick (c : Core) (w : BlkW) (us : List Int) (m : Nat) (b : Option (Nat × Nat × List Nat × Nat)) (k : Nat) :
    Option (Nat × Nat × List Nat × Nat) :=
  let r := c.tryCandidate w us m k
  match b with
  | none => some (k, r)
  | some (_, _, _, e0) => if r.2.2 < e0 then some (k, r) else b

/-- The candidates that the mask leaves, or selector 0. -/
def Core.candidates (c : Core) (w : BlkW) (mask : Nat) : List Nat :=
  let cs := (List.range 4).filter fun k => mask / 2 ^ k % 2 == 1 && c.largest w k != 0
  if cs.isEmpty then [0] else cs

theorem special_iff (x : Nat) : ((unpack fmt32 x).isNan || (unpack fmt32 x).isInf) = true ↔ x / 2 ^ 23 % 256 = 255 := by
  unfold unpack
  change ((if x / 2 ^ 23 % 256 = 255 then _ else _ : FVal).isNan ||
    (if x / 2 ^ 23 % 256 = 255 then _ else _ : FVal).isInf) = true ↔ _
  by_cases h : x / 2 ^ 23 % 256 = 255
  · rw [if_pos h]
    exact iff_of_true (by split <;> rfl) h
  · rw [if_neg h]
    exact iff_of_false (by split <;> simp [FVal.isNan, FVal.isInf]) h

theorem quantise_special {c : Core} {w : BlkW} {mask : Nat} {xs : List Nat} (h : ∃ x ∈ xs, x / 2 ^ 23 % 256 = 255) :
    c.quantise w mask xs = (0xD807, 0, true) := by
  obtain ⟨x, hx, hbad⟩ := h
  unfold Core.quantise
  rw [if_pos (List.any_eq_true.mpr ⟨x, hx, (special_iff x).mpr hbad⟩)]
  exact congrArg (fun h => (h, 0, true)) (by decide)

/-- The greatest magnitude of the inputs, in units. -/
def greatest (us : List Int) : Nat := us.foldl (fun a u => max a u.natAbs) 0

theorem quantise_finite {c : Core} {w : BlkW} {mask : Nat} {xs : List Nat} (h : ∀ x ∈ xs, x / 2 ^ 23 % 256 ≠ 255) :
    c.quantise w mask xs = if greatest (xs.map inputUnits) = 0 then (0, 0, false) else
      match (c.candidates w mask).foldl (candidatePick c w (xs.map inputUnits) (greatest (xs.map inputUnits))) none with
      | some (k, sc, qs, _) => (header k sc, payloadOf w qs, false)
      | none => (0, 0, false) := by
  unfold Core.quantise
  rw [if_neg fun hany => ?_]
  · rfl
  · obtain ⟨x, hx, hbad⟩ := List.any_eq_true.mp hany
    exact h x hx ((special_iff x).mp hbad)

theorem abs_unitNumber (u : Int) : |unitNumber u| = (u.natAbs : ℚ) / 2 ^ 168 := by
  rw [unitNumber, abs_div, abs_of_nonneg (by positivity : (0 : ℚ) ≤ 2 ^ 168), Nat.cast_natAbs, Int.cast_abs]

/-- The greatest magnitude, as a number. -/
theorem greatest_eq {us : List Int} {m : ℚ} (hle : ∀ v ∈ us.map unitNumber, |v| ≤ m)
    (hatt : ∃ v ∈ us.map unitNumber, |v| = m) :
    m = (greatest us : ℚ) / 2 ^ 168 := by
  obtain ⟨hmax, hmem⟩ := foldl_max_spec Int.natAbs us
  obtain ⟨v, hv, rfl⟩ := hatt
  obtain ⟨u, hu, rfl⟩ := List.mem_map.mp hv
  have hge : (greatest us : ℚ) / 2 ^ 168 ≤ |unitNumber u| := by
    rcases hmem with h0 | ⟨y, hy, hy'⟩
    · rw [greatest, h0, Nat.cast_zero, zero_div]
      exact abs_nonneg _
    · rw [greatest, ← hy', ← abs_unitNumber]
      exact hle _ (List.mem_map_of_mem hy)
  refine le_antisymm ?_ hge
  rw [abs_unitNumber, div_le_div_iff_of_pos_right (by positivity), Nat.cast_le]
  exact hmax u hu

/-- The candidates that the selection tries, where the mask leaves one and where it leaves none. -/
theorem mem_candidates {c : Core} {w : BlkW} {mask used : Nat}
    (h : used = mask ∧ (∃ k l, Candidate c w mask k l) ∨ used = 1 ∧ ¬ ∃ k l, Candidate c w mask k l) (k : Nat) :
    k ∈ c.candidates w mask ↔ ∃ l, Candidate c w used k l := by
  have hmem : ∀ k, k ∈ ((List.range 4).filter fun k => mask / 2 ^ k % 2 == 1 && c.largest w k != 0) ↔ ∃ l,
    Candidate c w mask k l :=
    fun k => by
      simp only [List.mem_filter, List.mem_range, Bool.and_eq_true, beq_iff_eq, bne_iff_ne, candidate_iff]
      exact ⟨fun ⟨h1, h2, h3⟩ => ⟨_, h1, h2, h3, rfl⟩, fun ⟨_, h1, h2, h3, _⟩ => ⟨h1, h2, h3⟩⟩
  unfold Core.candidates
  dsimp only
  rcases h with ⟨rfl, k0, hk0⟩ | ⟨rfl, hnone⟩
  · rw [if_neg fun hempty => ?_, hmem]
    have hk := (hmem k0).mpr hk0
    rw [List.isEmpty_iff.mp hempty] at hk
    exact List.not_mem_nil hk
  · have hempty : ((List.range 4).filter fun k => mask / 2 ^ k % 2 == 1 && c.largest w k != 0) = [] :=
      List.eq_nil_iff_forall_not_mem.mpr fun k hk => hnone ⟨k, (hmem k).mp hk⟩
    have hlargest : c.largest w 0 ≠ 0 := by
      obtain ⟨n, hn, h0⟩ : ∃ n, c.largest w 0 = n * 2 ^ 136 ∧ n ≠ 0 := by
        cases w
        · exact ⟨7, if_neg (by decide), by decide⟩
        · exact ⟨127, if_neg (by decide), by decide⟩
      rw [hn]
      exact Nat.mul_ne_zero h0 (by positivity)
    have hone : ∀ j, j < 4 → 1 / 2 ^ j % 2 = 1 → j = 0 := by decide
    rw [hempty, if_pos List.isEmpty_nil, List.mem_singleton]
    simp only [candidate_iff]
    refine ⟨?_, fun ⟨_, h1, h2, _⟩ => hone k h1 h2⟩
    rintro rfl
    exact ⟨_, by decide, by decide, hlargest, rfl⟩

theorem candidates_sorted (c : Core) (w : BlkW) (mask : Nat) : (c.candidates w mask).Pairwise (· < ·) := by
  unfold Core.candidates
  dsimp only
  split
  · exact List.pairwise_singleton _ _
  · exact List.pairwise_lt_range.filter _

theorem candidates_ne_nil (c : Core) (w : BlkW) (mask : Nat) : c.candidates w mask ≠ [] := by
  unfold Core.candidates
  dsimp only
  split
  next h => exact List.cons_ne_nil _ _
  next h => exact fun hnil => h (List.isEmpty_iff.mpr hnil)

theorem payloadCode_of {w : BlkW} {qs : List Nat} (hlt : ∀ q ∈ qs, q < codeCount w) {i : Nat} (hi : i < qs.length) :
    payloadCode w (payloadOf w qs) i = qs.getD i 0 := by
  have hq := hlt _ (List.getElem_mem hi)
  rw [List.getD_eq_getElem _ _ hi]
  cases w
  · exact (vecOf_lane 4 qs i hi).trans (Nat.mod_eq_of_lt hq)
  · exact (vecOf_lane 8 qs i hi).trans (Nat.mod_eq_of_lt hq)

/-- The fold over the candidates ends with the first of the least errors. -/
theorem best_candidate {c : Core} {w : BlkW} {mask : Nat} (us : List Int) (m : Nat) :
    ∃ k ∈ c.candidates w mask,
      (c.candidates w mask).foldl (candidatePick c w us m) none = some (k, c.tryCandidate w us m k) ∧
      ∀ j ∈ c.candidates w mask, (c.tryCandidate w us m k).2.2 ≤ (c.tryCandidate w us m j).2.2 ∧
        ((c.tryCandidate w us m k).2.2 = (c.tryCandidate w us m j).2.2 → k ≤ j) := by
  have hsorted := candidates_sorted c w mask
  obtain ⟨b, l, hl⟩ := List.exists_cons_of_ne_nil (candidates_ne_nil c w mask)
  rw [hl] at hsorted ⊢
  exact foldl_least (fun k => (c.tryCandidate w us m k).2.2) (fun k => (k, c.tryCandidate w us m k))
    (candidatePick c w us m)
    (fun _ _ => rfl) l b hsorted

theorem tryCandidate_scale_lt (c : Core) (w : BlkW) (us : List Int) (m k : Nat) : (c.tryCandidate w us m k).1 < 256 :=
  (leastScale_spec m (c.largest w k)).2.1

theorem squaredError_tryCandidate (c : Core) (w : BlkW) (us : List Int) (m k : Nat) :
    squaredError c w (us.map unitNumber) k (c.tryCandidate w us m k).1 (c.tryCandidate w us m k).2.1 =
      ((c.tryCandidate w us m k).2.2 : ℚ) / 2 ^ 336 := squaredError_eq _ _

theorem selectionRule : SelectionRule := by
  intro c w mask xs hlen _
  refine ⟨quantise_special, fun hfin => ?_⟩
  intro vs
  have hvs : vs = (xs.map inputUnits).map unitNumber := by
    rw [List.map_map]
    exact List.map_congr_left fun x _ => numberOf_inputUnits x
  have hq := quantise_finite (c := c) (w := w) (mask := mask) hfin
  generalize hus : xs.map inputUnits = us at hvs hq
  have hlen' : us.length = 16 := by rw [← hus, List.length_map, hlen]
  rw [hvs]
  refine ⟨fun hzero => ?_, fun m used hpos hle hatt hused => ?_⟩
  · have h0 : greatest us = 0 := by
      rcases (foldl_max_spec Int.natAbs us).2 with h | ⟨u, hu, h⟩
      · exact h
      · have hu0 := congrArg abs (hzero _ (List.mem_map_of_mem hu))
        rw [abs_unitNumber, abs_zero, div_eq_zero_iff, or_iff_left (by positivity), Nat.cast_eq_zero] at hu0
        exact h.symm.trans hu0
    rw [hq, if_pos h0]
  · have hm := greatest_eq hle hatt
    have hg : 0 < greatest us := by
      rcases Nat.eq_zero_or_pos (greatest us) with h0 | h0
      · rw [hm, h0, Nat.cast_zero, zero_div] at hpos
        exact absurd hpos (lt_irrefl _)
      · exact h0
    have hmem := mem_candidates hused
    obtain ⟨k, hk, hfold, hleast⟩ := best_candidate (c := c) (w := w) (mask := mask) us (greatest us)
    obtain ⟨l, hl⟩ := (hmem k).mp hk
    obtain ⟨hk4, hbit, hl0, hlk⟩ := candidate_iff.mp hl
    rw [hfold, if_neg hg.ne'] at hq
    refine ⟨k, l, (c.tryCandidate w us (greatest us) k).1, (c.tryCandidate w us (greatest us) k).2.1, _, _, hq, hl, ?_,
      header_of (by omega) (tryCandidate_scale_lt c w us _ k), fun i hi => ?_,
      fun j l' sc' qs' hj hj' => ?_⟩
    · rw [hm, hlk]
      exact (tried_iff hk4 hg hl0 _ _).mpr ⟨rfl, rfl⟩
    · refine payloadCode_of (fun q hq => ?_) ?_
      · obtain ⟨u, -, rfl⟩ := List.mem_map.mp hq
        exact nearest_lt hk4 (leastScale_ne_zero _ _)
      · exact (List.length_map (as := us) _).trans hlen' ▸ hi
    · obtain ⟨hj4, -, hj0, hlj⟩ := candidate_iff.mp hj
      rw [hm, hlj] at hj'
      obtain ⟨rfl, rfl⟩ := (tried_iff hj4 hg hj0 _ _).mp hj'
      obtain ⟨h1, h2⟩ := hleast j ((hmem j).mpr ⟨l', hj⟩)
      rw [squaredError_tryCandidate, squaredError_tryCandidate, div_le_div_iff_of_pos_right (by positivity),
        div_left_inj' (by positivity), Nat.cast_le, Nat.cast_inj]
      exact ⟨h1, h2⟩

end Sys2Proof.Machine
end

section
/-! PROOFS. The quantising store and the block load: their checks, in the scratchpad and in virtual memory (R165, R166,
R179). -/

namespace Sys2Proof.Machine

/-! ## How a block form ends (R63, R181) -/

theorem traps_finishBlock {i : Instr} {s : State} {tr : Trap} {r : Except Stop State} (h : exec i s = finishBlock s r)
    (e : r = .error (.trap tr)) : Traps i s tr.cause tr.info := traps_trapNow (by rw [h, e]; rfl)

/-- A block form that waits for a page walk keeps the tables of its issue, and nothing that a program sees changes. -/
theorem walk_finishBlock {i : Instr} {s : State} {va : Nat} {r : Except Stop State} (h : exec i s = finishBlock s r)
    (e : r = .error (.walk va)) : ∃ t, exec i s = .next t ∧ Keeps [] [] [] s.th t.th ∧ t.th.st = .waiting ∧
      t.th.wait.map (·.kind) = some (.pageWalk va) ∧ t.th.pc = s.th.pc ∧ t.th.tabsAt = some s.blockCore.tabs ∧
      t.walks = s.walks ++ [s.cur] ∧ t.mem = s.mem := by
  refine ⟨_, h.trans (congrArg _ e), ?_, ?_, ?_, ?_, ?_, rfl, rfl⟩ <;> rw [th_modTh]
  · change Keeps [] [] [] s.th (s.keepTabs.th.blockFetch _ _)
    rw [State.keepTabs, th_modTh]
    exact ⟨fun _ _ => rfl, fun _ _ => rfl, fun _ _ => rfl, ⟨rfl, rfl, rfl⟩, ⟨rfl, rfl, rfl, rfl, rfl⟩, rfl,
      ⟨rfl, rfl, rfl, rfl, rfl⟩, ⟨rfl, rfl⟩⟩
  · rfl
  · rfl
  · change (s.keepTabs.th.blockFetch _ _).pc = _
    rw [State.keepTabs, th_modTh]
    rfl
  · change (s.keepTabs.th.blockFetch _ _).tabsAt = _
    rw [State.keepTabs, th_modTh]
    rfl

theorem walksFor_finishBlock {i : Instr} {s : State} {va : Nat} {r : Except Stop State} (h : exec i s = finishBlock s r)
    (e : r = .error (.walk va)) : WalksFor i s va := by
  obtain ⟨t, he, hk, hst, hw, hpc, -, hws, hm⟩ := walk_finishBlock h e
  exact ⟨t, he, hk, hst, hw, hpc, hws, hm⟩

/-! ## Checks in the scratchpad (R165, R166) -/

theorem stop_bind_assoc {α β γ : Type} (r : Except Stop α) (f : α → Except Stop β) (g : β → Except Stop γ) :
    (r.bind f).bind g = r.bind fun x => (f x).bind g := by
  cases r <;> rfl

section
variable {K : Unit → Except Stop State}

theorem scrAddrAll_error {a : Word} {n : Nat} (l r : List (Word × Nat)) (hl : ∀ q ∈ l, q.1.toNat < 2 ^ 18)
    (h : ¬ a.toNat < 2 ^ 18) :
    scrAddrAll (l ++ (a, n) :: r) = .error (.trap { cause := cScratchBounds, info := a }) := by
  induction l with
  | nil =>
    rw [List.nil_append, scrAddrAll, scrAddr_error (by omega)]
    rfl
  | cons e l ih =>
    rw [List.cons_append, scrAddrAll, scrAddr_ok (hl e List.mem_cons_self)]
    exact ih fun q hq => hl q (List.mem_cons_of_mem _ hq)

theorem scrAddrAll_ok (l : List (Word × Nat)) (hl : ∀ q ∈ l, q.1.toNat < 2 ^ 18) : scrAddrAll l = .ok () := by
  induction l with
  | nil => rfl
  | cons e l ih =>
    rw [scrAddrAll, scrAddr_ok (hl e List.mem_cons_self)]
    exact ih fun q hq => hl q (List.mem_cons_of_mem _ hq)

theorem alignAll_cons_ok {a : Word} {n : Nat} (r : List (Word × Nat)) (h : a.toNat % n = 0) :
    alignAll ((a, n) :: r) = alignAll r := by
  rw [alignAll, trapIf, if_neg (by simp [h])]
  rfl

theorem alignAll_error {a : Word} {n : Nat} (l r : List (Word × Nat)) (hl : ∀ q ∈ l, q.1.toNat % q.2 = 0)
    (h : ¬ a.toNat % n = 0) :
    alignAll (l ++ (a, n) :: r) = .error (.trap { cause := cMisaligned, info := a }) := by
  induction l with
  | nil =>
    rw [List.nil_append, alignAll, trapIf, if_pos (by simpa using h)]
    rfl
  | cons e l ih =>
    rw [List.cons_append, alignAll_cons_ok _ (hl e List.mem_cons_self)]
    exact ih fun q hq => hl q (List.mem_cons_of_mem _ hq)

theorem alignAll_ok (l : List (Word × Nat)) (hl : ∀ q ∈ l, q.1.toNat % q.2 = 0) : alignAll l = .ok () := by
  induction l with
  | nil => rfl
  | cons e l ih =>
    rw [alignAll_cons_ok _ (hl e List.mem_cons_self)]
    exact ih fun q hq => hl q (List.mem_cons_of_mem _ hq)

/-- The bounds of some accesses. -/
def State.boundsAll (s : State) (l : List (Word × Nat)) : Except Stop Unit := s.scrBounds (l.map fun e => (e.1.toNat, e.2))

theorem boundsAll_error {s : State} {a : Word} {n : Nat} (l r : List (Word × Nat))
    (hl : ∀ q ∈ l, q.1.toNat + q.2 ≤ s.scrLimit)
    (h : s.scrLimit < a.toNat + n) : s.boundsAll (l ++ (a, n) :: r) =
      .error (.trap { cause := cScratchBounds, info := a }) := by
  unfold State.boundsAll
  induction l with
  | nil =>
    rw [List.nil_append, List.map_cons, scrBounds_cons_error _ h, BitVec.ofNat_toNat, BitVec.setWidth_eq]
  | cons e l ih =>
    rw [List.cons_append, List.map_cons, scrBounds_cons_ok _ (hl e List.mem_cons_self)]
    exact ih fun q hq => hl q (List.mem_cons_of_mem _ hq)

theorem boundsAll_ok {s : State} (l : List (Word × Nat)) (hl : ∀ q ∈ l, q.1.toNat + q.2 ≤ s.scrLimit) :
    s.boundsAll l = .ok () := by
  unfold State.boundsAll
  induction l with
  | nil => rfl
  | cons e l ih =>
    rw [List.map_cons, scrBounds_cons_ok _ (hl e List.mem_cons_self)]
    exact ih fun q hq => hl q (List.mem_cons_of_mem _ hq)

theorem scrBlock_bind (s : State) (x : BlockAt) (w : BlkW) : (s.scrBlock x w).bind K =
    (scrAddrAll (x.accesses w)).bind fun _ => (alignAll (x.accesses w)).bind fun _ =>
      (s.boundsAll (x.accesses w)).bind K := by
  change ((scrAddrAll _).bind fun _ => (alignAll _).bind fun _ => s.boundsAll _).bind K = _
  rw [stop_bind_assoc, funext fun _ => stop_bind_assoc _ _ _]

end

theorem blockPlaces_eq (w : BlkW) (x : BlockAt) : blockPlaces w x = x.accesses w := rfl

/-- A form that checks a block in the scratchpad first. -/
theorem planeChecks_scratch {i : Instr} {s : State} {w : BlkW} {x : BlockAt} {K : Unit → Except Stop State}
    (h : exec i s = finishBlock s ((s.scrBlock x w).bind K)) (l : List (Word × Nat)) (p : Word × Nat)
      (r : List (Word × Nat))
    (hp : blockPlaces w x = l ++ p :: r) :
    ((∀ q ∈ l, q.1.toNat < 2 ^ 18) → ¬ p.1.toNat < 2 ^ 18 → Traps i s 0x14 p.1) ∧
    ((∀ q ∈ blockPlaces w x, q.1.toNat < 2 ^ 18) → (∀ q ∈ l, q.1.toNat % q.2 = 0) → ¬ p.1.toNat % p.2 = 0 →
      Traps i s 0x13 p.1) ∧
    ((∀ q ∈ blockPlaces w x, q.1.toNat < 2 ^ 18 ∧ q.1.toNat % q.2 = 0) → (∀ q ∈ l, q.1.toNat + q.2 ≤ s.scrLimit) →
      s.scrLimit < p.1.toNat + p.2 → Traps i s 0x14 p.1) := by
  rw [scrBlock_bind, ← blockPlaces_eq] at h
  refine ⟨fun hl hn => ?_, fun ha hl hn => ?_, fun ha hl hn => ?_⟩
  · refine traps_finishBlock (tr := { cause := cScratchBounds, info := p.1 }) h ?_
    rw [hp, scrAddrAll_error l r hl hn]
    rfl
  · refine traps_finishBlock (tr := { cause := cMisaligned, info := p.1 }) h ?_
    rw [scrAddrAll_ok _ ha, hp, alignAll_error l r hl hn]
    rfl
  · refine traps_finishBlock (tr := { cause := cScratchBounds, info := p.1 }) h ?_
    rw [scrAddrAll_ok _ fun q hq => (ha q hq).1, alignAll_ok _ fun q hq => (ha q hq).2, hp, boundsAll_error l r hl hn]
    rfl

/-! ## Checks in virtual memory (R166) -/

theorem virtBlock_bind (s : State) (acc : Acc) (x : BlockAt) (w : BlkW) (K : Unit → Except Stop State) :
    (s.virtBlock acc x w).bind K =
    (s.pageParts acc ((x.accesses w).flatMap fun e => linePieces e.1.toNat e.2)).bind fun ps =>
      (kindCheck [kPlain, kTiled] ps).bind fun _ => (alignAll (x.accesses w)).bind K := by
  change ((s.pageParts acc _).bind fun ps => (kindCheck _ ps).bind fun _ => alignAll _).bind K = _
  rw [stop_bind_assoc, funext fun _ => stop_bind_assoc _ _ _]

/-- A form that checks a block's pages first. -/
theorem planeChecks_virtual {i : Instr} {s : State} {store : Bool} {w : BlkW} {x : BlockAt} {K : Unit → Except Stop State}
    (h : exec i s = finishBlock s ((s.virtBlock (accOf store) x w).bind K)) :
    PageChecks i s store (fun pte => kindIs 0 pte ∨ kindIs 1 pte) ((blockPlaces w x).flatMap fun p => piecesOf p.1 p.2) ∧
    ((∀ u ∈ (blockPlaces w x).flatMap fun p => piecesOf p.1 p.2,
        canonicalAt u ∧ Allowed s store u ∧ InPage s (fun pte => kindIs 0 pte ∨ kindIs 1 pte) u) →
      ∀ l p r, blockPlaces w x = l ++ p :: r → (∀ q ∈ l, q.1.toNat % q.2 = 0) → ¬ p.1.toNat % p.2 = 0 →
        Traps i s 0x13 p.1) := by
  rw [virtBlock_bind, ← blockPlaces_eq] at h
  have hpieces : ((blockPlaces w x).flatMap fun e => linePieces e.1.toNat e.2).map (·.1) =
      (blockPlaces w x).flatMap fun p => piecesOf p.1 p.2 := by
    rw [List.map_flatMap]
    simp only [map_linePieces]
  have hfits : ∀ e, (kindIs 0 e ∨ kindIs 1 e) ↔ pteKind e ∈ [kPlain, kTiled] := fun e => by
    rw [List.mem_cons, List.mem_singleton]
    rfl
  rw [← hpieces]
  refine ⟨pageChecks_of_stops hfits (fun tr ht => traps_finishBlock h ht) (fun va hw => walksFor_finishBlock h hw),
    fun hall l p r hp hl hn => ?_⟩
  refine traps_finishBlock (tr := { cause := cMisaligned, info := p.1 }) h ?_
  rw [pageParts_ok _ fun y hy => ?_]
  · change (kindCheck _ _).bind _ = _
    rw [kindCheck_ok _ fun q hq => ?_]
    · change (alignAll _).bind K = _
      rw [hp, alignAll_error l r hl hn]
      rfl
    · obtain ⟨y, hy, rfl⟩ := List.mem_map.mp hq
      obtain ⟨-, -, e, he, hfe⟩ := hall _ (List.mem_map_of_mem hy)
      rw [partAt_pte he]
      exact (hfits _).mp hfe
  · obtain ⟨hc, ha, -⟩ := hall _ (List.mem_map_of_mem hy)
    exact ⟨hc, ha⟩

end Sys2Proof.Machine
end

section
/-! PROOFS. The quantising store and the block load: what they write and what they leave (R57 to R70, R179 to R181). -/

namespace Sys2Proof.Machine

/-! ## A form over, and one that is not -/

/-- A trap is no completion. -/
theorem not_completed_trapNow (s : State) (tr : Trap) : ¬ Completed (s.trapNow tr).th := by
  have hcur : (s.trapNow tr).cur = s.cur := cur_postRecord s s.cur tr
  have hst : (s.trapNow tr).th.st = .trapped := by rw [State.th, hcur, State.trapNow, thr_takeTrap_same]
  rintro (⟨h, -⟩ | ⟨h, -⟩) <;> rw [hst] at h <;> exact nomatch h

/-- A wait at a home slice is none, and no trap for want of a limit is. -/
theorem not_completed_homeWait (s : State) (d : Reg) (ps : List (Nat × Nat × Nat)) : ¬ Completed (s.homeWait d ps).th := by
  unfold State.homeWait
  dsimp only
  split
  · exact not_completed_trapNow _ _
  · rw [th_modTh]
    rintro (⟨h, -⟩ | ⟨-, w, hw, hk⟩)
    · exact nomatch h
    · injection hw with hw
      subst hw
      exact nomatch hk

/-- The end of a quantising store: its flag is raised and nothing else of the thread changes. -/
theorem qstDone_th {s u : State} (nan : Bool) (hk : Keeps [] [] [] s.th u.th) (hs : u.th.kstat = s.th.kstat) :
    Keeps [] [] [] s.th (u.qstDone nan).th ∧
      (u.qstDone nan).th.kstat = s.th.kstat ||| (if nan then 0x100 else 0) ∧ Completed (u.qstDone nan).th := by
  unfold State.qstDone
  rw [th_modTh]
  cases nan
  · exact ⟨hk.trans (retireReply_keeps _ _ _), (retireReply_kstat u.th u.tick 0).trans (hs.trans (by simp)),
      retireReply_completed _ _ _⟩
  · obtain ⟨hf, hflag, -, -⟩ := addFlags_keeps u.th fQNAN
    exact ⟨(hk.trans hf).trans (retireReply_keeps _ _ _), by rw [retireReply_kstat]; exact hflag.trans (by rw [hs]; rfl),
      retireReply_completed _ _ _⟩

/-- A form of variable latency that writes one vector register. -/
theorem pure_setV {s u : State} (d : Reg) (y : VReg) (hk : Keeps [] [] [] s.th u.th) (hs : u.th.kstat = s.th.kstat) :
    Keeps [] [d] [] s.th (u.pure 0 (·.setV d y)).th ∧ (u.pure 0 (·.setV d y)).th.kstat = s.th.kstat := by
  rw [State.pure, th_modTh]
  exact ⟨(hk.after ((setV_keeps _ _ _).trans (retireReply_keeps _ _ _))).withBefore _,
    (retireReply_kstat (u.th.setV d y) u.tick 0).trans hs⟩

theorem writesV_pure {i : Instr} {s : State} {d : Reg} {y : VReg} (h : exec i s = .next (s.pure 0 (·.setV d y))) :
    WritesV i s d y 0 := by
  refine ⟨_, h, onlyThread_modTh s _, ?_, ?_, ?_, ?_, .inr ⟨?_, ⟨.reply, 0, s.tick, 15⟩, ?_, rfl⟩⟩ <;>
    rw [State.pure, th_modTh]
  · exact ((setV_keeps s.th d y).trans (retireReply_keeps _ _ _)).withBefore _
  · exact (retireReply_kstat (s.th.setV d y) s.tick 0).trans (BitVec.or_zero (x := s.th.kstat)).symm
  · exact (retireReply_rv (s.th.setV d y) s.tick 0 d).trans (by rw [rv_setV, if_pos rfl])
  · exact fun hf => retireReply_next (s.th.setV d y) s.tick 0 hf
  · rfl
  · rfl

/-! ## The selection's checks (R66, R70) -/

/-- The lanes that a quantising store selects for. -/
def State.selection (s : State) (w : BlkW) (mask : Nat) (d : Reg) : Nat × Nat × Bool :=
  s.blockCore.quantise w mask (s.lanes32 d)

/-- A quantising store behind the checks of its addresses. -/
def State.qstWrite (s : State) (w : BlkW) (sp : Bool) (mask : Nat) (d : Reg) (x : BlockAt) : Except Stop State :=
  (trapIf (mask / 16 != 0) cSelectorReserved 0).bind fun _ =>
    (trapIf ((s.selection w mask d).2.2 && s.th.te / 32 % 2 == 1) cFpTrap (BitVec.ofNat 64 fQNAN)).bind fun _ =>
      if sp then s.writeScrBlock x w (s.selection w mask d).1 (s.selection w mask d).2.1 (s.selection w mask d).2.2
      else s.writeBlock x w (s.selection w mask d).1 (s.selection w mask d).2.1 (s.selection w mask d).2.2

section
variable {s : State} {w : BlkW} {sp : Bool} {mask : Nat} {d : Reg} {x : BlockAt}

theorem qstWrite_reserved (h : 16 ≤ mask) :
    s.qstWrite w sp mask d x = .error (.trap { cause := cSelectorReserved, info := 0 }) := by
  have hne : mask / 16 ≠ 0 := by omega
  rw [State.qstWrite, trapIf, if_pos (by simpa using hne)]
  rfl

theorem qstWrite_trap (h : mask < 16) (hnan : (s.selection w mask d).2.2 = true) (hte : s.th.te / 32 % 2 = 1) :
    s.qstWrite w sp mask d x = .error (.trap { cause := cFpTrap, info := BitVec.ofNat 64 fQNAN }) := by
  have h0 : mask / 16 = 0 := by omega
  rw [State.qstWrite, trapIf, if_neg (by simp [h0])]
  change (trapIf _ _ _).bind _ = _
  rw [trapIf, if_pos (by simp [hnan, hte])]
  rfl

theorem qstWrite_ok (h : mask < 16) (hte : (s.selection w mask d).2.2 = true → s.th.te / 32 % 2 = 0) :
    s.qstWrite w sp mask d x =
      if sp then s.writeScrBlock x w (s.selection w mask d).1 (s.selection w mask d).2.1 (s.selection w mask d).2.2
      else s.writeBlock x w (s.selection w mask d).1 (s.selection w mask d).2.1 (s.selection w mask d).2.2 := by
  have h0 : mask / 16 = 0 := by omega
  have hno : ((s.selection w mask d).2.2 && s.th.te / 32 % 2 == 1) = false := by
    cases hnan : (s.selection w mask d).2.2
    · rfl
    · rw [hte hnan]
      rfl
  rw [State.qstWrite, trapIf, if_neg (by simp [h0])]
  change (trapIf _ _ _).bind _ = _
  rw [trapIf, hno, if_neg (by decide)]
  rfl

end

/-! ## The forms behind their checks -/

/-- The mask of a quantising store (R66). -/
def qstMask (s : State) (imm : Bool) (off : BitVec 11) : Nat := if imm then off.toNat % 256 else s.th.kqmask.toNat % 256

/-- The block of a quantising store (R179). -/
def qstPlace (s : State) (w : BlkW) (imm : Bool) (a : Reg) (off : BitVec 11) : BlockAt :=
  s.blockAt w a (if imm then BitVec.ofNat 64 (off.toNat / 256) else off.signExtend 64)

/-- The block of a block load (R179). -/
def blPlace (s : State) (w : BlkW) (a : Reg) (off : BitVec 11) : BlockAt := s.blockAt w a (off.signExtend 64)

theorem qstMask_eq (s : State) (imm : Bool) (off : BitVec 11) :
    (if imm then off.toNat % 256 else bitsAt s.th.kqmask 0 8) = qstMask s imm off := by
  cases imm
  · exact congrArg (· % 256) (Nat.div_one _)
  · rfl

theorem exec_qst_scratch (w : BlkW) (imm : Bool) (d a : Reg) (off : BitVec 11) (s : State) :
    exec (.qstQ w imm true d a off) s = finishBlock s ((s.scrBlock (qstPlace s w imm a off) w).bind fun _ =>
      s.qstWrite w true (qstMask s imm off) d (qstPlace s w imm a off)) := by
  rw [← qstMask_eq]
  rfl

theorem exec_qst_virtual (w : BlkW) (imm : Bool) (d a : Reg) (off : BitVec 11) (s : State) :
    exec (.qstQ w imm false d a off) s = finishBlock s ((s.virtBlock .store (qstPlace s w imm a off) w).bind fun _ =>
      (s.tenureAll .store ((qstPlace s w imm a off).accesses w)).bind fun _ =>
        s.qstWrite w false (qstMask s imm off) d (qstPlace s w imm a off)) := by
  rw [← qstMask_eq]
  rfl

theorem exec_bl_scratch (w : BlkW) (d a : Reg) (off : BitVec 11) (s : State) :
    exec (.qstBl w true d a off) s = finishBlock s ((s.scrBlock (blPlace s w a off) w).bind fun _ =>
      (s.scrPoisonAll ((blPlace s w a off).accesses w)).bind fun _ => s.blLanes w d (blPlace s w a off).hdr
        (s.co.scrRead (blPlace s w a off).hdr.toNat 2) (s.co.scrRead (blPlace s w a off).pay.toNat w.bytes)) := rfl

theorem exec_bl_virtual (w : BlkW) (d a : Reg) (off : BitVec 11) (s : State) :
    exec (.qstBl w false d a off) s = finishBlock s ((s.virtBlock .load (blPlace s w a off) w).bind fun _ =>
      (s.tenureAll .load ((blPlace s w a off).accesses w)).bind fun _ => s.blVirtual w d (blPlace s w a off)) := rfl

/-! ## In the scratchpad (R180, R181) -/

/-- A block that stands there passes its checks. -/
theorem scrBlock_ok {s : State} {w : BlkW} {x : BlockAt} (h : ScratchBlock s w x) : s.scrBlock x w = .ok () := by
  obtain ⟨hpay, hhdr, hpn, hhn, hpl, hhl, -⟩ := h
  have hall : ∀ q ∈ x.accesses w, q.1.toNat < 2 ^ 18 ∧ q.1.toNat % q.2 = 0 ∧ q.1.toNat + q.2 ≤ s.scrLimit := fun q hq => by
    have hq' : q = (x.pay, w.bytes) ∨ q = (x.hdr, 2) := by
      unfold BlockAt.accesses at hq
      split at hq <;> simp only [List.mem_cons, List.not_mem_nil, or_false] at hq
      · exact hq
      · exact hq.symm
    rcases hq' with rfl | rfl
    · exact ⟨hpn, hpay, hpl⟩
    · exact ⟨hhn, hhdr, hhl⟩
  have hb := scrBlock_bind (K := fun _ => .ok s) s x w
  rw [scrAddrAll_ok _ fun q hq => (hall q hq).1, alignAll_ok _ fun q hq => (hall q hq).2.1,
    boundsAll_ok _ fun q hq => (hall q hq).2.2] at hb
  cases hr : s.scrBlock x w with
  | ok u => rfl
  | error e =>
    rw [hr] at hb
    exact nomatch hb

theorem scrPoisonAll_ok {s : State} (h : s.co.spoison = []) (l : List (Word × Nat)) : s.scrPoisonAll l = .ok () := by
  induction l with
  | nil => rfl
  | cons e l ih =>
    have he : s.scrPoison e.1.toNat e.2 = .ok () := by
      have hnone : s.co.scrBad e.1.toNat e.2 = none := by
        rw [Core.scrBad, h]
        exact List.find?_eq_none.mpr fun v _ => Bool.false_ne_true
      rw [State.scrPoison, hnone]
    rw [State.scrPoisonAll, he]
    exact ih

/-- What a quantising store to the scratchpad leaves there. -/
theorem writeScrBlock_spec {s : State} {w : BlkW} {x : BlockAt} (hd pay : Nat) (nan : Bool) (h : s.co.spoison = []) :
    ∃ t, s.writeScrBlock x w hd pay nan = .ok t ∧ Keeps [] [] [] s.th t.th ∧
      t.th.kstat = s.th.kstat ||| (if nan then 0x100 else 0) ∧ Completed t.th ∧
      OnlyScratch s t (fun k => (k < x.hdr.toNat ∨ x.hdr.toNat + 2 ≤ k) ∧ (k < x.pay.toNat ∨ x.pay.toNat + w.bytes ≤ k)) ∧
      (∀ i, i < 2 → t.co.scrByte (x.hdr.toNat + i) = BitVec.ofNat 8 (hd / 2 ^ (8 * i))) ∧
      (∀ i, i < w.bytes → x.pay.toNat + i < x.hdr.toNat ∨ x.hdr.toNat + 2 ≤ x.pay.toNat + i →
        t.co.scrByte (x.pay.toNat + i) = BitVec.ofNat 8 (pay / 2 ^ (8 * i))) := by
  have h1 := scrStored_modCo s x.pay.toNat (bytesOf pay w.bytes)
  have hsp : (s.modCo fun c => c.scrWrite x.pay.toNat (bytesOf pay w.bytes)).co.spoison = [] := by
    rw [co_modCo, spoison_scrWrite_nil _ _ _ h]
  have hwr : s.writeScrBlock x w hd pay nan = .ok (((s.modCo fun c => c.scrWrite x.pay.toNat (bytesOf pay w.bytes)).modCo
      fun c => c.scrWrite x.hdr.toNat (bytesOf hd 2)).qstDone nan) := by
    unfold State.writeScrBlock
    dsimp only
    rw [scrPartPoison_ok fun v _ _ hv => hv.1 (by rw [hsp]; rfl)]
  generalize hu : (s.modCo fun c => c.scrWrite x.pay.toNat (bytesOf pay w.bytes)) = u at h1 hwr
  have h2 := scrStored_modCo u x.hdr.toNat (bytesOf hd 2)
  generalize hv : (u.modCo fun c => c.scrWrite x.hdr.toNat (bytesOf hd 2)) = v at h2 hwr
  have hcur : v.cur = s.cur := h2.cur.trans h1.cur
  have hthr : ∀ k, v.thr k = s.thr k := fun k => by rw [State.thr, State.thr, h2.threads, h1.threads]
  have hth : v.th = s.th := by rw [State.th, State.th, hcur, hthr]
  obtain ⟨hk, hs, hc⟩ := qstDone_th (s := s) (u := v) nan (by rw [hth]; exact (MemAside.refl s.ck s).keeps) (by rw [hth])
  have hco : (v.qstDone nan).co = v.co := co_modTh _ _
  refine ⟨_, hwr, hk, hs, hc, ⟨hcur, fun k hk' => ?_, fun a => ?_, fun k hk' => ?_, fun k hk' => ?_, ?_, ?_⟩,
    fun i hi => ?_,
    fun i hi hout => ?_⟩
  · exact (thr_modThr_other v _ (by rw [hcur]; exact hk')).trans (hthr k)
  · change memGet v.mem a = _
    rw [h2.mem, h1.mem]
  · change v.cor k = _
    rw [h2.others k (by rw [State.ck, h1.cur]; exact hk'), h1.others k hk']
  · rw [hco, h2.outside k (by rw [length_bytesOf]; exact hk'.1), h1.outside k (by rw [length_bytesOf]; exact hk'.2)]
  · rw [hco, h2.empty, h1.empty]
  · rw [hco, h2.takers, h1.takers]
  · rw [hco, h2.bytes i (by rw [length_bytesOf]; exact hi), bytesOf_getElem_eq]
  · rw [hco, h2.outside _ (by rw [length_bytesOf]; exact hout),
      h1.bytes i (by rw [length_bytesOf]; exact hi), bytesOf_getElem_eq]

/-! ## In virtual memory (R180, R181, R264) -/

theorem memAside_homeParts {s t : State} {ck off : Nat} {ps : List Part} {v : Nat}
    (h : s.homeParts ck off ps = .ok (v, t)) :
    MemAside ck s t := by
  induction ps generalizing s t off v with
  | nil =>
    injection h with h
    injection h with _ h
    rw [← h]
    exact .refl ck s
  | cons p r ih =>
    unfold State.homeParts at h
    split at h
    · exact nomatch h
    · next _ =>
      dsimp only at h
      generalize hs1 : (s.filterEnter p.pa (pteBd p.pte)).noteRequest ck (homeDie p.pa)
        (some (BitVec.ofNat 64 (s.homeValue ck p))) off p.n = s1 at h
      cases hr : s1.homeParts ck (off + p.n) r with
      | error e => rw [hr] at h; exact nomatch h
      | ok q =>
        obtain ⟨u, s2⟩ := q
        rw [hr] at h
        injection h with h
        injection h with _ h
        rw [← h]
        refine MemAside.trans ?_ (ih hr)
        rw [← hs1]
        exact (memAside_filterEnter s ck _ _).trans (memAside_noteRequest _ ck _ _ _ _)

/-- A TILED load of bytes whose fate is known. -/
def State.tiledRead (s : State) (ck : Nat) (ps : List Part) (fate : ByteFate) : Except Stop TileLoad :=
  match fate with
  | .l1 => (s.loadParts ck ps).bind fun r => .ok (.value r.1 r.2)
  | _ =>
    if !s.th.gotAll ps && (s.homeBlocked ck (tileParts ps)).isSome then .ok (.waits (tileParts ps))
    else (s.homeParts ck 0 ps).bind fun r => .ok (.value r.1 r.2)

theorem tiledLoad_eq (s : State) (ck : Nat) (ps : List Part) : s.tiledLoad ck ps =
    (if s.th.gotAll ps then .ok .home else s.tenureCheck ck false (tileParts ps)).bind (s.tiledRead ck ps) := by
  unfold State.tiledLoad
  by_cases hg : s.th.gotAll ps = true
  · rw [if_pos hg, if_pos hg]
    rfl
  · rw [if_neg hg, if_neg hg]
    rfl

/-- A read that gives a value has left a state that its access leads to. -/
theorem memAside_value {s t : State} {ck v : Nat} {r : Except Stop (Nat × State)}
    (hr : ∀ u s', r = .ok (u, s') → MemAside ck s s')
    (h : (r.bind fun q => .ok (.value q.1 q.2)) = .ok (TileLoad.value v t)) : MemAside ck s t := by
  match r, hr, h with
  | .ok (u, s'), hr, h =>
    injection h with h
    injection h with _ h
    exact h ▸ hr u s' rfl

theorem memAside_tiledLoad {s t : State} {ck : Nat} {ps : List Part} {v : Nat} (h : s.tiledLoad ck ps = .ok (.value v t)) :
    MemAside ck s t := by
  rw [tiledLoad_eq] at h
  generalize (if s.th.gotAll ps then .ok .home else s.tenureCheck ck false (tileParts ps) : Except Stop ByteFate) =
    fate at h
  match fate, h with
  | .ok f, h =>
    change s.tiledRead ck ps f = _ at h
    unfold State.tiledRead at h
    split at h
    · exact memAside_value (fun _ _ => memAside_loadParts) h
    · split at h
      · exact nomatch h
      · exact memAside_value (fun _ _ => memAside_homeParts) h

theorem memAside_blockLoad {s t : State} {p : Part} {v : Nat} (h : s.blockLoad p = .ok (.value v t)) :
    MemAside s.ck s t := by
  unfold State.blockLoad at h
  split at h
  · exact memAside_tiledLoad h
  · exact memAside_value (fun _ _ => memAside_loadParts) h

/-- A computation that gives a result has had one at its first step. -/
theorem stop_bind_ok {α β : Type} {r : Except Stop α} {f : α → Except Stop β} {b : β} (h : r.bind f = .ok b) :
    ∃ a, r = .ok a ∧ f a = .ok b := by
  match r, h with
  | .ok a, h => exact ⟨a, rfl, h⟩

/-- A block written to virtual memory that has completed. -/
theorem writeBlock_completed {s t : State} {w : BlkW} {x : BlockAt} {hd pay : Nat} {nan : Bool}
    (h : s.writeBlock x w hd pay nan = .ok t) (hc : Completed t.th) : ∃ u, MemAside s.ck s u ∧ t = u.qstDone nan := by
  obtain ⟨p, -, h⟩ := stop_bind_ok h
  obtain ⟨q, -, h⟩ := stop_bind_ok h
  obtain ⟨⟨bad, s1⟩, hs1, h⟩ := stop_bind_ok h
  match bad, hs1, h with
  | some b, hs1, h =>
    injection h with h
    exact absurd (h ▸ hc) (not_completed_trapNow _ _)
  | none, hs1, h =>
    obtain ⟨⟨bad, s2⟩, hs2, h⟩ := stop_bind_ok h
    match bad, hs2, h with
    | some b, hs2, h =>
      injection h with h
      exact absurd (h ▸ hc) (not_completed_trapNow _ _)
    | none, hs2, h =>
      injection h with h
      exact ⟨s2, (memAside_storeParts hs1).trans (memAside_storeParts hs2), h.symm⟩

/-- The lanes of a block load that its header's checks let pass. -/
theorem blLanes_ok {s t : State} {w : BlkW} {d : Reg} {hdr : Word} {h pay : Nat} (he : s.blLanes w d hdr h pay = .ok t) :
    t = s.pure 0 (·.setV d (lanesTo 32 (s.blockCore.blockLane w h pay))) := by
  unfold State.blLanes at he
  split at he
  · exact nomatch he
  · injection he with he
    exact he.symm

/-- A block load from virtual memory that has completed. -/
theorem blVirtual_completed {s t : State} {w : BlkW} {d : Reg} {x : BlockAt} (h : s.blVirtual w d x = .ok t)
    (hc : Completed t.th) :
    ∃ u y, MemAside s.ck s u ∧ t = u.pure 0 (·.setV d y) := by
  obtain ⟨p, -, h⟩ := stop_bind_ok h
  obtain ⟨q, -, h⟩ := stop_bind_ok h
  dsimp only at h
  generalize (s.homeBlocked s.ck _).isSome = blocked at h
  match blocked, h with
  | true, h =>
    injection h with h
    exact absurd (h ▸ hc) (not_completed_homeWait _ _ _)
  | false, h =>
    obtain ⟨r1, hr1, h⟩ := stop_bind_ok h
    match r1, hr1, h with
    | .waits ws, hr1, h =>
      injection h with h
      exact absurd (h ▸ hc) (not_completed_homeWait _ _ _)
    | .value u s1, hr1, h =>
      obtain ⟨r2, hr2, h⟩ := stop_bind_ok h
      match r2, hr2, h with
      | .waits ws, hr2, h =>
        injection h with h
        exact absurd (h ▸ hc) (not_completed_homeWait _ _ _)
      | .value v s2, hr2, h =>
        have h1 := memAside_blockLoad hr1
        have h2 := memAside_blockLoad hr2
        rw [h1.ck_eq] at h2
        exact ⟨s2, _, h1.trans h2, blLanes_ok h⟩

/-! ## The forms -/

theorem planeChecks_qst (w : BlkW) (imm sp : Bool) (d a : Reg) (off : BitVec 11) (s : State) :
    PlaneChecks (.qstQ w imm sp d a off) s sp true w (qstPlace s w imm a off) :=
  ⟨fun h l p r hp => planeChecks_scratch (h ▸ exec_qst_scratch w imm d a off s) l p r hp,
    fun h => planeChecks_virtual (store := true) (h ▸ exec_qst_virtual w imm d a off s)⟩

theorem planeChecks_bl (w : BlkW) (sp : Bool) (d a : Reg) (off : BitVec 11) (s : State) :
    PlaneChecks (.qstBl w sp d a off) s sp false w (blPlace s w a off) :=
  ⟨fun h l p r hp => planeChecks_scratch (h ▸ exec_bl_scratch w d a off s) l p r hp,
    fun h => planeChecks_virtual (store := false) (h ▸ exec_bl_virtual w d a off s)⟩

/-- A quantising store to the scratchpad whose addresses pass their checks. -/
theorem exec_qst_inside {w : BlkW} {imm : Bool} {d a : Reg} {off : BitVec 11} {s : State}
    (h : ScratchBlock s w (qstPlace s w imm a off)) :
    exec (.qstQ w imm true d a off) s =
      finishBlock s (s.qstWrite w true (qstMask s imm off) d (qstPlace s w imm a off)) := by
  rw [exec_qst_scratch, scrBlock_ok h]
  rfl

theorem exec_bl_inside {w : BlkW} {d a : Reg} {off : BitVec 11} {s : State} (h : ScratchBlock s w (blPlace s w a off)) :
    exec (.qstBl w true d a off) s = finishBlock s (s.blLanes w d (blPlace s w a off).hdr
      (s.co.scrRead (blPlace s w a off).hdr.toNat 2) (s.co.scrRead (blPlace s w a off).pay.toNat w.bytes)) := by
  obtain ⟨-, -, -, -, -, -, hsp⟩ := id h
  rw [exec_bl_scratch, scrBlock_ok h]
  change finishBlock s ((s.scrPoisonAll _).bind _) = _
  rw [scrPoisonAll_ok hsp]
  rfl

/-- A quantising store to virtual memory whose addresses pass their checks. -/
theorem exec_qst_mapped {w : BlkW} {imm : Bool} {d a : Reg} {off : BitVec 11} {s : State}
    (hv : s.virtBlock .store (qstPlace s w imm a off) w = .ok ())
    (ht : s.tenureAll .store ((qstPlace s w imm a off).accesses w) = .ok ()) :
    exec (.qstQ w imm false d a off) s =
      finishBlock s (s.qstWrite w false (qstMask s imm off) d (qstPlace s w imm a off)) := by
  rw [exec_qst_virtual, hv]
  change finishBlock s ((s.tenureAll .store _).bind _) = _
  rw [ht]
  rfl

theorem exec_bl_mapped {w : BlkW} {d a : Reg} {off : BitVec 11} {s : State}
    (hv : s.virtBlock .load (blPlace s w a off) w = .ok ())
    (ht : s.tenureAll .load ((blPlace s w a off).accesses w) = .ok ()) :
    exec (.qstBl w false d a off) s = finishBlock s (s.blVirtual w d (blPlace s w a off)) := by
  rw [exec_bl_virtual, hv]
  change finishBlock s ((s.tenureAll .load _).bind _) = _
  rw [ht]
  rfl

theorem blLanes_of_good {s : State} {w : BlkW} {d : Reg} {hdr : Word} {h pay : Nat} (hh : headerBad h = none) :
    s.blLanes w d hdr h pay = .ok (s.pure 0 (·.setV d (lanesTo 32 (s.blockCore.blockLane w h pay)))) := by
  rw [State.blLanes, hh]

theorem blLanes_of_bad {s : State} {w : BlkW} {d : Reg} {hdr : Word} {h pay c : Nat} (hh : headerBad h = some c) :
    s.blLanes w d hdr h pay = .error (.trap { cause := c, info := hdr }) := by
  rw [State.blLanes, hh]

/-- Settles O44: the levels, the lanes and the selection by their rules, and the two forms by their checks and their
effects. -/
theorem quantisingForms : Obligations.QuantisingForms := by
  unfold Obligations.QuantisingForms
  refine ⟨levelTables, decodeRule, selectionRule, fun s w imm d a off => ?_⟩
  intro x y mask q flag ok h pay
  refine ⟨fun sp => ⟨planeChecks_qst w imm sp d a off s, planeChecks_bl w sp d a off s⟩, fun hin hok => ?_,
    fun hin hm => ?_,
    fun hin hm hn ht => ?_, fun t hv ht hok hw hc => ?_, fun hin hh => ?_, fun c hin hh => ?_, fun t hv ht hb hc => ?_, rfl,
    fun va hv => ?_⟩
  · obtain ⟨-, -, -, -, -, -, hclean⟩ := id hin
    obtain ⟨t, hwr, hrest⟩ := writeScrBlock_spec (x := x) (w := w) q.1 q.2.1 q.2.2 hclean
    exact ⟨t, (exec_qst_inside hin).trans (congrArg (finishBlock s)
      ((qstWrite_ok (sp := true) (x := x) hok.1 hok.2).trans hwr)), hrest⟩
  · exact traps_finishBlock (tr := { cause := cSelectorReserved, info := 0 }) (exec_qst_inside hin) (qstWrite_reserved hm)
  · exact traps_finishBlock (tr := { cause := cFpTrap, info := BitVec.ofNat 64 fQNAN }) (exec_qst_inside hin)
      (qstWrite_trap hm hn ht)
  · obtain ⟨u, hu, rfl⟩ := writeBlock_completed hw hc
    obtain ⟨hk, hs, -⟩ := qstDone_th q.2.2 hu.keeps hu.kstat
    exact ⟨(exec_qst_mapped hv ht).trans (congrArg (finishBlock s)
      ((qstWrite_ok (sp := false) (x := x) hok.1 hok.2).trans hw)), hk, hs⟩
  · have he := (exec_bl_inside (d := d) hin).trans (congrArg (finishBlock s) (blLanes_of_good hh))
    exact ⟨_, writesV_pure he, fun k hk => lane_lanesTo (by decide) _ hk⟩
  · exact traps_finishBlock (tr := { cause := c, info := y.hdr }) (exec_bl_inside hin) (blLanes_of_bad hh)
  · obtain ⟨u, v, hu, rfl⟩ := blVirtual_completed hb hc
    obtain ⟨hk, hs⟩ := pure_setV d v hu.keeps hu.kstat
    exact ⟨(exec_bl_mapped hv ht).trans (congrArg (finishBlock s) hb), hk, hs⟩
  · have hstop := congrArg (fun r : Except Stop Unit => r.bind fun _ => (s.tenureAll .load (y.accesses w)).bind fun _ =>
      s.blVirtual w d y) hv
    obtain ⟨t, he, hk, hst, -, hpc, htabs, hwalks, -⟩ := walk_finishBlock (va := va) (exec_bl_virtual w d a off s) hstop
    exact ⟨t, he, hk, hst, hpc, htabs, hwalks ▸ List.mem_append_right _ List.mem_cons_self⟩

end Sys2Proof.Machine
end
